-- ==== Sys2Proof/Word.lean ====
section
/-! DEFINITION. The word types of the part: bytes, the 32-bit register word (R7) and the 64-bit queue, tag and
fault word (R26, R316, R492). -/

namespace Sys2Proof

/-- One byte. -/
abbrev Byte := BitVec 8

/-- One register word (R7: registers are 32 bits wide). -/
abbrev Word32 := BitVec 32

/-- One queue word, tag or control word (R26, R30, R316). -/
abbrev Word64 := BitVec 64

/-- A number of TB ticks (1/64 ns, R5 of the units and R47), not yet reduced modulo 2^64. -/
abbrev Tick := Nat

end Sys2Proof
end

