-- ==== Sys2Proof/Syntax.lean ====
section
/-! DEFINITION. The commands of the block: one constructor of `Instr` per row of spec/opcode_table.json, in the
table's order, with the operands the step needs. An operand is what reaches the part from outside the step: what the
host, the partner, the light, a sensor or a converter delivers, and the TB tick `t` at which the step happens. -/

namespace Sys2Proof

/-- The straps sampled at the release of POR_N (R431). -/
structure Straps where
  bootMode   : BitVec 2
  master     : Bool
  commission : Bool
  testEn     : Bool
  deriving DecidableEq, Repr

/-- The NVM safety area (R458): two block copies, the change log (64-byte entries, R423) and the state journal
(32-byte entries), as bytes. -/
structure SafetyArea where
  copy0   : List Byte
  copy1   : List Byte
  log     : List (List Byte)
  journal : List (List Byte)
  deriving DecidableEq, Repr

/-- What the boot controller reads from the NVM at step 3 (R433, R434, R450): whether a device answers within the
limits of R433, its size in MiB, the two directory copies (64 bytes each), the first 256 bytes of each slot and the
safety area; and the results of SEC's known-answer tests (R448). -/
structure NvmRead where
  present : Bool
  sizeMiB : Nat
  dir0    : List Byte
  dir1    : List Byte
  hdrA    : List Byte
  hdrB    : List Byte
  safety  : SafetyArea
  katOk   : Bool
  deriving DecidableEq, Repr

/-- A 64-bit tag followed by payload words (R26). -/
structure Item where
  tag   : Word64
  words : List Word64
  deriving DecidableEq, Repr

/-- The three fault classes (R492, R496). -/
inductive FaultClass where
  | corrected
  | contained
  | fatal
  deriving DecidableEq, Repr

/-- A fault message of two 64-bit words (R492), by its fields. -/
structure FaultMsg where
  stamp  : Tick
  source : BitVec 6
  cls    : FaultClass
  unit   : BitVec 8
  kind   : BitVec 16
  addr   : Word32
  deriving DecidableEq, Repr

/-- What the plots report at an epoch start for the epoch just ended (R327): the twelve plot estimates, the shares of
the deferrable items D1 to D5 and of the FIB back in P7, all in 1/16 W; and per rail (VDD_CORE, VDD_MEM, VDD_SER,
VDD_ADC, VDD_TDC) the currents of the twelve plots, of D1 to D5 and of the FIB back, in 1/16 A. -/
structure EpochReport where
  plots      : List Nat
  items      : List Nat
  fibBack    : Nat
  railPlots  : List (List Nat)
  railItems  : List (List Nat)
  railFib    : List Nat
  deriving DecidableEq, Repr

/-- One temperature sensor's round (R337): its count, the reading in 0.25 K that its factory trim gives for the
count, and whether its frequency lies in its factory plausible range. -/
structure SensorReading where
  count     : Nat
  reading   : Int
  plausible : Bool
  deriving DecidableEq, Repr

/-- What one housekeeping round measures (R336): TS0 to TS23, the twelve supply monitors in mV, the measured bias of
each strip in mV (R95) and the read-back of the error pair (R514). -/
structure HkRound where
  sensors  : List SensorReading
  supplies : List Nat
  bias     : List Nat
  errP     : Bool
  errN     : Bool
  deriving DecidableEq, Repr

/-- An ECC outcome of a memory (R162, R257, R495). -/
inductive Ecc where
  | ok
  | corrected
  | uncorrectable
  deriving DecidableEq, Repr

/-- One complex sample of a tone at one position on both polarisations (R186 stage 2), whether a converter sample within 40 ns
of it was at full scale or a range-step sample, and whether one was lost at X6 (R187). -/
structure FibSample where
  xi   : Int
  xq   : Int
  yi   : Int
  yq   : Int
  bad  : Bool
  lost : Bool
  deriving DecidableEq, Repr

/-- The Cloche self-test's results that come from its hardware (R389): lockstep, memory march, X13 check, TP
loop-back, and the high-side on-pulse of each output. -/
structure SelfTest where
  lockstepOk : Bool
  marchOk    : Bool
  x13Ok      : Bool
  tpOk       : Bool
  onPulseOk  : BitVec 4
  deriving DecidableEq, Repr

/-- The kinds of island fault (R387). -/
inductive IslandCause where
  | lockstep
  | memory
  | x13
  | supply
  | selfTest
  | block
  deriving DecidableEq, Repr

/-- Blocks that act on control items in their input stream (R31, R32). -/
inductive Block where
  | boot | sec | tbs | tsu | tdc | pfe | esq | hse | fib | fdc | tae | tin
  | cle | asf | mcd | qsy | ala | hkp | plk | trl | clo | fcl | hif
  deriving DecidableEq, Repr

/-- The fields common to every mailbox entry (R481): the host tag, the frame it names if frame_valid, its scope, and
the X7 stamp at which the HIF takes it (R482). -/
structure Entry where
  hostTag : Byte
  frame   : Option (BitVec 24)
  scope   : Bool
  taken   : Tick
  deriving DecidableEq, Repr

/-- The ALU operations of a tine (R252 class 0x0). -/
inductive AluOp where
  | add | sub | and | or | xor | not | neg | abs | min | max | shl | shra | shrl | mov | cmp
  deriving DecidableEq, Repr

/-- The condition codes of a tine instruction (R252). -/
inductive Cond where
  | always | z | nz | n | nn
  deriving DecidableEq, Repr

/-- The MAC operations (R246). -/
inductive MacOp where
  | mpy | mac | msu
  deriving DecidableEq, Repr

/-- The accumulator operations (R252 class 0x2). -/
inductive AccOp where
  | clr | movd | mova | adda | sha | rnd
  deriving DecidableEq, Repr

/-- The update modes of a load or store (R249). -/
inductive UpdMode where
  | none | byM | imm | bitrev
  deriving DecidableEq, Repr

/-- The address operations (R252 class 0x4); SETA, SETB, SETL and SETM are `set` with a target. -/
inductive AddrOp where
  | set | adda | movda | movad
  deriving DecidableEq, Repr

/-- The targets of an address instruction (R252 class 0x4). -/
inductive AddrTgt where
  | a | b | l | m
  deriving DecidableEq, Repr

/-- The special operations (R252 class 0x6). -/
inductive SpecOp where
  | clz | norm | isqrt | div | crc32c
  deriving DecidableEq, Repr

/-- The head of every tine instruction: the tine that executes it, its saturation bit and its condition (R252). -/
structure TineHd where
  tine : Fin 16
  sat  : Bool
  cond : Cond
  deriving DecidableEq, Repr

/-- One parallel load of a MAC instruction (R252): an A-register and the pair it fills. -/
structure ParLoad where
  areg : Fin 8
  pair : Fin 8
  deriving DecidableEq, Repr

/-- The two ports of the part (R353). -/
inductive Port where
  | up | dn
  deriving DecidableEq, Repr

/-- The 64-byte CAP record (R364), as bytes, the certificate (R366) and the signature of an attestation. -/
structure Attestation where
  cap  : List Byte
  cert : List Byte
  sig  : List Byte
  deriving DecidableEq, Repr

/-- A queue by its group (R317) and its index in the group. -/
structure QueueId where
  group : Fin 10
  index : Nat
  deriving DecidableEq, Repr

/-- The working memories of the MEMORY_ECC_ERROR step (R495, R502, R235, R308, R121); a word of
the queue pool by its address and by its place in its queue, which the memory map does not give. -/
inductive MemArea where
  | config (addr : Nat)
  | queuePool (addr : Nat) (q : QueueId) (pos : Nat)
  | otherSram (addr : Nat)
  | mtier (bank : Fin 8) (addr : Nat)
  | mulchSlot (binding : Fin 32)
  | ledger
  | x12Core
  deriving DecidableEq, Repr

/-- The histograms of one channel that a deepen follower sends (R156): coarse bins up to T_gate, occupancy, the fine
windows (start bin and 64 bins each), N, N_f, H and t_q. -/
structure DeepChan where
  coarse : List Nat
  occ    : List Nat
  fine   : List (Nat × List Nat)
  n      : Nat
  nf     : Nat
  h      : Nat
  tq     : Nat
  deriving DecidableEq, Repr

/-- The descriptor that host memory holds at a ring's CONS index (R473). -/
structure Descriptor where
  addr : Nat
  len  : Nat
  irq  : Bool
  resv : Bool
  deriving DecidableEq, Repr

/-- The memory of a tine (R257). -/
inductive TineMem where
  | data (addr : Nat)
  | program (addr : Nat)
  deriving DecidableEq, Repr

/-- One calibration pass of an aux line: its 97 counts (R58, R67). -/
abbrev PassCounts := List Nat

/-- The commands. The docstring of each constructor names its row's rule. -/
inductive Instr where
  | porNRelease (straps : Straps)                                                   -- R451
  | porNAssert                                                                      -- R523
  | nvmHeadersRead (r : NvmRead)                                                    -- R450
  | imageStageDone (bytes : List Byte) (eccOk : Bool) (ms : Nat)                    -- R451
  | bistDone (sramOk : Bool) (failed : BitVec 8) (t : Tick)                         -- R453
  | clocheSelftestDone (r : SelfTest) (t : Tick)                                    -- R389
  | startupCalDone (t : Tick)                                                       -- R66
  | railMeasureDone (rail : Fin 4) (time : Option Nat) (t : Tick)                   -- R105
  | firstFrameStart (fibre : Bool) (t : Tick) (ms : Nat)                            -- R451
  | tbPllLocked                                                                     -- R44
  | tbPllLockTimeout                                                                -- R44
  | tbsPllLockLost (t : Tick)                                                       -- R46
  | tbsRefLost (t : Tick)                                                           -- R46
  | tbsWarm                                                                         -- R42
  | epochStart (r : EpochReport) (t : Tick)                                         -- R329
  | grantComputed (t : Tick)                                                        -- R330
  | widthRetrainDone (width : Nat)                                                  -- R467
  | housekeepingRound (r : HkRound) (t : Tick)                                      -- R336
  | supplyCollapse (monitor : Fin 12) (t : Tick)                                    -- R345
  | stopDeadline (t : Tick)                                                         -- R344
  | queueDrainDone (t : Tick)                                                       -- R344
  | columnBoundary (t : Tick)                                                       -- R24
  | indexEdge (t : Tick)                                                            -- R109
  | esqIndexMissing (t : Tick)                                                      -- R109
  | frameStart (t : Tick)                                                           -- R110
  | slotDecision (slot : Fin 32) (t : Tick)                                         -- R123
  | shotFire (bank : Fin 16) (t : Tick)                                             -- R101
  | blankStart (bank : Fin 16) (t : Tick)                                           -- R84
  | blankEnd (bank : Fin 16) (t : Tick)                                             -- R84
  | spadRearm (chan : Fin 512) (spad : Fin 16) (t : Tick)                           -- R81
  | coincidenceEdge (chan : Fin 512) (tap : Fin 97) (edge : Tick)                   -- R82
  | stampAccumulate (chan : Fin 512) (parityOk : Bool)                              -- R137
  | confidenceUpdate (bank : Fin 16) (t : Tick)                                     -- R141
  | followerLock (chan : Fin 512) (t : Tick)                                        -- R155
  | stripColumnDone (strip : Fin 32) (ecc : Ecc) (t : Tick)                         -- R152
  | mergeDeadline (t : Tick)                                                        -- R156
  | fieldVerdict (t : Tick)                                                         -- R159
  | calPassEnd (strip : Fin 32) (t : Tick)                                          -- R58
  | tdcCalStarved (strip : Fin 32) (t : Tick)                                       -- R62
  | tdcCalReq (mask : Word32) (t : Tick)                                            -- R65
  | auxRotationStep (attempts : List (PassCounts × PassCounts × PassCounts)) (t : Tick)  -- R68
  | auxOverlapEnd (t : Tick)                                                        -- R68
  | tsiEdge (chan : Fin 16) (rising : Bool) (tap : Fin 97) (tap2 : Option (Fin 97)) (edge : Tick)  -- R70
  | windowOpen (chan : Fin 16) (t : Tick)                                           -- R72
  | windowClose (chan : Fin 16) (t : Tick)                                          -- R72
  | estimatorGateEnd (chan : Fin 16) (gate : Nat)                                   -- R73
  | sweepBoundary (t : Tick)                                                        -- R179
  | adcTrigEdge (tap : Fin 97) (tap2 : Option (Fin 97)) (edge : Tick)                                        -- R180
  | fibTrigMissing (t : Tick)                                                       -- R180
  | aomgGateOpen (gate : Fin 8) (t : Tick)                                          -- R182
  | aomgGateClose (gate : Fin 8) (t : Tick)                                         -- R182
  | slotProcess (tone : Fin 8) (sweep : BitVec 24) (samples : List FibSample) (lost : Bool)  -- R187
  | estimationBlockDone (pair : Fin 2) (samples : List (Int × Int)) (t : Tick)      -- R173
  | fibCalCycleStart (pair : Fin 2) (t : Tick)                                      -- R175
  | zoneIntervalEnd                                                                 -- R191
  | endEvaluation                                                                   -- R193
  | fibSurveyDone                                                                   -- R185
  | dtsBlockDone                                                                    -- R196
  | fibDtsProfile                                                                   -- R198
  | fdcInput (chan : Fin 16) (vals : List Int) (rangeStep : Bool)                   -- R210
  | fdcSweepItem                                                                    -- R214
  | captureItemArrive (unit : Fin 4) (src : Fin 8) (item : Item)                    -- R219
  | captureFrameClose (unit : Fin 4) (t : Tick)                                     -- R219
  | refEvaluation (t : Tick)                                                        -- R222
  | captureReadDone (unit : Fin 4) (t : Tick)                                       -- R235
  | tineItemArrive (slot : Fin 16) (input : Fin 4) (item : Item)                    -- R260
  | tineJobClose (slot : Fin 16)                                                    -- R260
  | tineJobDispatch (tine : Fin 16)                                                 -- R263
  | tineAlu (hd : TineHd) (op : AluOp) (dst src1 src2 : Fin 16) (pair useImm : Bool) (imm : BitVec 16)  -- R245
  | tineMac (hd : TineHd) (op : MacOp) (accA accB : Fin 4) (a1 a2 b1 b2 : Fin 16) (frac dual : Bool)
      (ld1 ld2 : Option ParLoad)                                                    -- R246
  | tineAcc (hd : TineHd) (op : AccOp) (acc acc2 : Fin 4) (d : Fin 16) (pair round : Bool) (shift : BitVec 6)  -- R247
  | tineLdst (hd : TineHd) (store wide : Bool) (d : Fin 16) (areg : Fin 8) (mode : UpdMode) (imm : BitVec 16)  -- R249
  | tineAddr (hd : TineHd) (op : AddrOp) (x : Fin 8) (tgt : AddrTgt) (d : Fin 16) (imm : BitVec 16)  -- R250
  | tineBr (hd : TineHd) (target : BitVec 12)                                       -- R254
  | tineCall (hd : TineHd) (target : BitVec 12)                                     -- R254
  | tineRet (hd : TineHd)                                                           -- R254
  | tineRep (hd : TineHd) (fromD : Option (Fin 16)) (endIdx : BitVec 12) (count : BitVec 16)  -- R254
  | tineNop (hd : TineHd)                                                           -- R252
  | tineEnd (hd : TineHd)                                                           -- R262
  | tineSpec (hd : TineHd) (op : SpecOp) (dst src : Fin 16) (pair : Bool)           -- R252
  | tineDmaStart (hd : TineHd) (chan : Fin 2) (toData : Bool) (areg : Fin 8) (remote : Fin 8) (len : BitVec 14)  -- R256
  | tineDmaWait (hd : TineHd) (chan : Fin 2)                                        -- R256
  | tineDmaDone (tine : Fin 16) (chan : Fin 2)                                      -- R256
  | tineEmit (hd : TineHd) (areg : Fin 8) (fromD : Option (Fin 16)) (count : BitVec 13)  -- R265
  | tinStepLimit (tine : Fin 16)                                                    -- R255
  | tinEcc (tine : Fin 16) (mem : TineMem) (uncorr : Bool) (t : Tick)               -- R257
  | loopSample (loop : Fin 8) (lfb lsp : BitVec 12) (t : Tick)                      -- R278
  | lspEdge (loop : Fin 8) (g high : Nat)                                           -- R283
  | cleSpLost (loop : Fin 8) (t : Tick)                                             -- R284
  | asfConversion (chan : Fin 8) (ratio : Rat) (saturated : Bool) (railed : BitVec 4) (t : Tick)  -- R286
  | mulchBlockStart                                                                 -- R312
  | mulchBlockDone (engine : Fin 2) (verifyOk : Bool) (t : Tick)                    -- R313
  | bpQueueSpace (q : QueueId)                                                      -- R319
  | qsyStall (q : QueueId) (t : Tick)                                               -- R319
  | planItem (blk : Block) (item : Item)                                            -- R31
  | swapItem (blk : Block) (item : Item)                                            -- R31
  | flushItem (q : QueueId) (src : BitVec 6) (stream : BitVec 6) (item : Item)      -- R320
  | grantItem (blk : Block) (item : Item)                                           -- R34
  | fenceItem (blk : Block) (item : Item)                                           -- R501
  | graftItem (blk : Block) (item : Item)                                           -- R508
  | markItem (blk : Block) (item : Item)                                            -- R234
  | calItem (blk : Block) (item : Item)                                             -- R57
  | laneTrained (lane : Fin 8) (rate : Fin 3) (miswired : Bool) (il : Nat) (t : Tick)  -- R355
  | portAbsentTimeout (port : Port) (t : Tick)                                      -- R355
  | dnRetryTimer (t : Tick)                                                         -- R380
  | laneExitTimeout (lane : Fin 8) (t : Tick)                                       -- R357
  | fecUncorrectable (lane : Fin 8) (t : Tick)                                      -- R362
  | startBlock (port : Port) (vc : BitVec 2) (dst : BitVec 4) (bcast : Bool) (src : BitVec 4) (words : Nat)
      (itemEnd : Bool) (seq : BitVec 16) (t : Tick)                                 -- R360
  | credit (port : Port) (vc0 vc1 vc3 : BitVec 16)                                  -- R361
  | laneStatus (port : Port) (mask : BitVec 4)                                      -- R360
  | laneRequest (port : Port) (count : BitVec 3)                                    -- R357
  | laneReady (port : Port)                                                         -- R357
  | laneSwitch (port : Port) (count : BitVec 3)                                     -- R357
  | laneFenceNotice (port : Port) (mask : BitVec 4)                                 -- R360
  | vc0RetryTimeout (port : Port) (t : Tick)                                        -- R362
  | commaDepart (port : Port) (tap : Fin 97) (tap2 : Option (Fin 97)) (edge : Tick)                          -- R368
  | commaArrive (port : Port) (tap : Fin 97) (tap2 : Option (Fin 97)) (edge : Tick)                          -- R368
  | enum (sender : BitVec 4) (nonce : List Byte) (att : Attestation)                -- R365
  | attest (att : Attestation)                                                      -- R366
  | attestVerifyDone (port : Port) (t : Tick)                                       -- R366
  | signDone (sig : List Byte) (t : Tick)                                           -- R365
  | accept (addr : BitVec 4)                                                        -- R365
  | reject (port : Port) (reason : Byte)                                                          -- R365
  | capReport (addr : BitVec 4) (dnState : Byte) (cap : List Byte) (t : Tick)       -- R365
  | enumTimeout (t : Tick)                                                          -- R365
  | reenum (addr : BitVec 4) (nonce : List Byte)                                    -- R379
  | align (port : Port) (index : Nat) (depart arrive : Tick) (t : Tick)                           -- R368
  | start (t0 : Tick) (grants : List Byte) (t : Tick)                               -- R370
  | swapPrepare (fibre : Bool) (plan : BitVec 4) (target : BitVec 24) (t : Tick)    -- R127
  | swapReady (addr : BitVec 4) (target : BitVec 24)                                -- R127
  | swapCommit (target : BitVec 24)                                                 -- R127
  | swapCancel (target : BitVec 24)                                                 -- R127
  | order (code : BitVec 16) (args : List Byte) (frame : BitVec 24) (t : Tick)      -- R377
  | frameClose (addr : BitVec 4) (src stream : BitVec 6) (frame : BitVec 24)        -- R375
  | mergeWaitExpire (src stream : BitVec 6) (frame : BitVec 24)                     -- R375
  | forwardedItem (item : Item) (t : Tick)                                          -- R375
  | join (addr : BitVec 4) (offset : BitVec 24)                                     -- R380
  | deepCounts (column : Nat) (counts : List Nat) (nEn : List Nat) (tQuiet : Nat)   -- R89
  | deepFire (shots : List (Fin 16 × Nat × Tick))                                   -- R124
  | deepWin (chan : Fin 512) (lock : Tick) (windows : List Nat)                     -- R155
  | deepHist (chan : Fin 512) (h : DeepChan)                                        -- R156
  | samples (conv : Fin 8) (att : BitVec 2) (first : Tick) (vals : List (BitVec 12))  -- R373
  | cableLengthUpdate (lane : Fin 8) (il : Nat)                                     -- R381
  | evaluationCycle (hr lr : BitVec 4) (t : Tick)                                   -- R386
  | safeInputChange (input : Fin 17) (level : Bool)                                 -- R392
  | siFilterExpire (input : Fin 17)                                                 -- R392
  | testPulseStart (tp : Fin 4)                                                     -- R394
  | testPulseEnd (tp : Fin 4) (atEnd after : BitVec 16) (t : Tick)                  -- R395
  | discrepancyTimeout (chain : Fin 8) (button : Fin 2) (t : Tick)                  -- R398
  | twohandTimeout (chain : Fin 8)                                                  -- R399
  | switchTest (out : Fin 4) (lowSide : Bool) (hr lr : Bool)                        -- R408
  | switchTestEnd (out : Fin 4) (hr lr : Bool) (t : Tick)                           -- R408
  | diagIntervalFault (out : Fin 4) (lowSide : Bool) (t : Tick)                     -- R410
  | heartbeat                                                                       -- R388
  | heartbeatTimeout (t : Tick)                                                     -- R388
  | partStop (t : Tick)                                                             -- R388
  | islandFault (cause : IslandCause) (t : Tick)                                    -- R387
  | verdictWordArrive (frame : BitVec 24) (words : List Word64) (t : Tick)          -- R402
  | tineResultArrive (slot : Fin 16) (frame : BitVec 24) (header : Word64) (words : List Word64) (t : Tick)  -- R402
  | verdictDeadline (frame : BitVec 24) (tine : Bool) (t : Tick)                    -- R402
  | zoneWordArrive (interval : BitVec 24) (words : List Word64) (t : Tick)          -- R404
  | classifierDeadline (interval : BitVec 24) (t : Tick)                            -- R404
  | brakeTestDue (chain : Fin 8)                                                    -- R401
  | brakeWindowResult (chain : Fin 8) (enc1 : Bool) (count : Nat)                   -- R401
  | brakeResultTimeout (chain : Fin 8)                                              -- R401
  | brakeTestOverdue (chain : Fin 8) (t : Tick)                                     -- R401
  | poweredTimeTick                                                                 -- R401
  | resetRelease (t : Tick)                                                         -- R412
  | resetHoldTimeout (t : Tick)                                                     -- R411
  | bcTxPeriod (conn : Fin 4) (t : Tick)                                            -- R417
  | bcMessageReceive (conn : Fin 4) (msg : List Byte) (t : Tick)                    -- R418
  | bcTimeout (conn : Fin 4) (t : Tick)                                             -- R418
  | inboundDoorbell (conn : Fin 4) (slot : List Byte)                               -- R488
  | sessionTimeout                                                                  -- R419
  | passwordLockExpire                                                              -- R421
  | nop (e : Entry)                                                                 -- R484
  | planSelect (e : Entry) (fibre : Byte) (plan : Byte)                             -- R484
  | flush (e : Entry) (src stream : Byte)                                           -- R484
  | captureTrigger (e : Entry) (unit : Byte)                                        -- R221
  | captureAbort (e : Entry) (unit : Byte)                                          -- R237
  | captureRead (e : Entry) (unit : Byte)                                           -- R235
  | captureRelease (e : Entry) (unit : Byte)                                        -- R220
  | captureRearm (e : Entry) (unit : Byte)                                          -- R220
  | faultClear (e : Entry) (sel : BitVec 16)                                        -- R504
  | graft (e : Entry) (unit : BitVec 16)                                            -- R508
  | graftSelftestDone (pass : Bool) (t : Tick)                                      -- R508
  | cloLogin (e : Entry) (len : Byte) (password : List Byte)                        -- R420
  | cloStage (e : Entry) (src : Byte) (bytes : Nat)                                 -- R484
  | cloCommit (e : Entry) (hostTime : Word64) (newPw : Bool) (len : Byte) (password : List Byte)  -- R422
  | cloLogout (e : Entry)                                                           -- R419
  | secKeyProgram (e : Entry) (ar : Byte) (slot : Byte) (hash : List Byte)          -- R447
  | secRevoke (e : Entry) (ar : Byte) (slot : Byte)                                 -- R447
  | secConfirm (e : Entry)                                                          -- R449
  | imgWrite (e : Entry) (slot : Byte) (bytes : Nat)                                -- R456
  | recoverGo (e : Entry) (bytes : Nat)                                             -- R455
  | bootDirWrite (e : Entry) (dir : List Byte)                                      -- R457
  | unknownCommand (e : Entry) (code : BitVec 16)                                   -- R485
  | backgroundCommandDone (nvmOk : Bool) (dmaOk : Bool) (t : Tick)                  -- R482
  | registerWrite (off : Nat) (v : Word32) (t : Tick)                               -- R9
  | rcRead (off : Nat)                                                              -- R8
  | readLowWord (off : Nat)                                                         -- R7
  | unsupportedRequest                                                              -- R469
  | ringEnable (h2c : Bool) (stream : Fin 16) (ctrl : Word32)                       -- R475
  | ringDisable (h2c : Bool) (stream : Fin 16) (ctrl : Word32) (t : Tick)           -- R476
  | c2hProdWrite (stream : Fin 16) (prod : Word32)                                  -- R475
  | c2hItemDeliver (entry : Fin 64) (desc : List Descriptor) (hits : Nat) (t : Tick)  -- R471
  | bufferCloseTimeout (stream : Fin 16) (t : Tick)                                 -- R471
  | h2cReadDone (stream : Fin 2) (desc : Descriptor) (bytes : List Byte) (ok : Bool) (t : Tick)         -- R477
  | msixSend (vector : Fin 64)                                                      -- R478
  | perst (flr : Bool)                                                              -- R466
  | pcieLinkDown (d3hot : Bool)                                                     -- R466
  | d0Return                                                                        -- R466
  | faultMessage (m : FaultMsg)                                                     -- R496
  | memoryEccError (area : MemArea) (uncorr : Bool) (t : Tick)                      -- R495
  | spadAvalanche (chan : Fin 512) (spad : Fin 16) (t : Tick)                       -- R81
  | calSourceEdge (line : Fin 532) (tap : Fin 97) (t : Tick)                        -- R56
  | adcSampleWord (conv : Fin 8) (v : BitVec 12) (t : Tick)                         -- R171
  | dataLinkUp (speed width : Nat)                                                  -- R466
  | reservedLinkBlock (port : Port) (type : Byte)                                   -- R360
  | reservedMessageType (port : Port) (type : Byte)                                 -- R363
  deriving DecidableEq, Repr

end Sys2Proof
end

