-- ==== Sys2Proof/Decode.lean ====
section
/-! DEFINITION. The decoder of table words. The command table of the spec gives no row any bits: a command is the event
itself with its operands, and no word of bits spells one. -/

namespace Sys2Proof

/-- The command that a word spells by the table's bits: no row of the table has bits, so no word spells a command
(DESIGN CHOICE, log entry 6). -/
def decodeTableWord (_nbits _w : Nat) : Option Instr := none

end Sys2Proof
end

