-- ==== Sys2Proof/Config.lean ====
section
/-! DEFINITION. What one part or one implementation fixes and the spec leaves open: per-part values (R4, R116, R446),
functions whose result bits the spec does not give, and the free values. An opaque constant has no body here, so no
proof can lean on a value of it. -/

namespace Sys2Proof.Config

/-- True for HL4512-IN, false for HL4512-AG (R2, R461) (DESIGN CHOICE, log entry 8). -/
opaque variantIN : Bool

/-- The 64-bit uid of the part (R116, R461) (DESIGN CHOICE, log entry 8). -/
opaque uid : BitVec 64

/-- The hash KS0 holds at shipment (R446) (DESIGN CHOICE, log entry 8). -/
opaque ks0Hash : Nat → Byte

/-- The hash AR0 holds at shipment (R446) (DESIGN CHOICE, log entry 8). -/
opaque ar0Hash : Nat → Byte

/-- The factory breakdown trim PFE_BD_TRIM (R94, R100) (DESIGN CHOICE, log entry 8). -/
opaque bdTrim : Word32

/-- The part's device certificate (R366), by byte (DESIGN CHOICE, log entry 8). -/
opaque certByte : Nat → Byte

/-- The factory delays of CAP (R364), 0 to 3: t_TX of UP, t_RX of UP, t_TX of DN, t_RX of DN, in 1/16 tick
(DESIGN CHOICE, log entry 8). -/
opaque linkDelay : Nat → Nat

/-- SHAKE256 with 256-bit output (R436), by output byte (DESIGN CHOICE, log entry 9). -/
opaque shake256 : List Byte → Nat → Byte

/-- FIPS 205 SLH-DSA-SHAKE-256s verification, pure, empty context (R445): key, message, signature
(DESIGN CHOICE, log entry 9). -/
opaque slhVerify256s : List Byte → List Byte → List Byte → Bool

/-- FIPS 205 SLH-DSA-SHAKE-256f verification (R366) (DESIGN CHOICE, log entry 9). -/
opaque slhVerify256f : List Byte → List Byte → List Byte → Bool

/-- The stride code of a capture's blocks, which the spec does not state (R232, R302) (DESIGN CHOICE, log entry 15). -/
opaque captureStride : Nat

/-- The complex sample that the channeliser and the downconversion make of an input (R186 stages 1 and 2), whose filters the spec
gives by their masks only: from whether the input runs on one converter, the channel, the residual frequency in 10 kHz, the
instant's place in the 8 ns grid, and the corrected samples about the instant, each with its time from the instant in 0.2 ns
(DESIGN CHOICE, log entry 10). -/
opaque channelise : Bool → Nat → Int → Nat → List (Int × Int) → Int × Int

/-- The result of a tine shift by its operand's width or more, which R245 and R252 do not state: the shift (0 SHL, 1 SHRA,
2 SHRL), the width, the operand and the amount; the bit above the width is OVF (DESIGN CHOICE, log entry 11). -/
opaque tineShift : Nat → Nat → Nat → Nat → Nat

/-- The result of NORM on a register (16) or pair (32), which the spec names and does not define (R252)
(DESIGN CHOICE, log entry 11). -/
opaque tineNorm : Nat → Nat → Nat

/-- Whether a quotient that is no integer is rounded up (R252 states no rounding) (DESIGN CHOICE, log entry 11). -/
opaque tineDivUp : Int → Int → Bool

/-- Whether Z and N after a dual MAC show the second accumulator (R244, R246 do not say which result is the last)
(DESIGN CHOICE, log entry 11). -/
opaque tineDualFlags : Bool

/-- A free value: what the spec leaves undefined or does not state, numbered by the state's counter
(DESIGN CHOICE, log entry 3). -/
opaque freeNat : Nat → Nat

/-- The 32 output bytes of SHAKE256. -/
def shakeBytes (m : List Byte) : List Byte := (List.range 32).map (shake256 m)

end Sys2Proof.Config
end

