-- ==== Sys2Proof/Machine/Bits.lean ====
section
/-! DEFINITION. Bit fields, byte order, signed values, rounding and the check codes the chapters share. -/

namespace Sys2Proof.Machine

/-- Bits `lo + len - 1` to `lo` of `w`, as a number. -/
def bits (w lo len : Nat) : Nat := w / 2 ^ lo % 2 ^ len

/-- Bit `i` of `w`. -/
def bitB (w i : Nat) : Bool := w / 2 ^ i % 2 = 1

/-- A value within limits. -/
def inR (lo hi v : Nat) : Bool := decide (lo ≤ v) && decide (v ≤ hi)

/-- Whether `v` has only bits of `m`. -/
def only (m v : Nat) : Bool := decide (Nat.land v m = v)

/-- A truth value as a bit. -/
def b2n (b : Bool) : Nat := if b then 1 else 0

/-- The value of a little-endian byte list (R6). -/
def leVal (l : List Byte) : Nat :=
  match l with
  | [] => 0
  | b :: r => b.toNat + 256 * leVal r

/-- The `n` least significant bytes of `v`, least significant first (R6). -/
def leBytes (n v : Nat) : List Byte :=
  match n with
  | 0 => []
  | n + 1 => BitVec.ofNat 8 v :: leBytes n (v / 256)

/-- The `n` bytes of `l` from offset `o`; bytes past the end read 0. -/
def slice (l : List Byte) (o n : Nat) : List Byte :=
  let t := (l.drop o).take n
  t ++ List.replicate (n - t.length) 0

/-- The little-endian value of the `n` bytes at offset `o`. -/
def leAt (l : List Byte) (o n : Nat) : Nat := leVal (slice l o n)

/-- The 64-bit words of a byte list, the last padded with zero bytes; `fuel` bounds the words. -/
def wordsOf (fuel : Nat) (l : List Byte) : List Word64 :=
  match fuel with
  | 0 => []
  | f + 1 => if l.isEmpty then [] else BitVec.ofNat 64 (leAt l 0 8) :: wordsOf f (l.drop 8)

/-- The bytes of 64-bit words, least significant first. -/
def bytesOf (l : List Word64) : List Byte := l.flatMap fun w => leBytes 8 w.toNat

/-- The signed value of the low `n` bits of `v` (R5). -/
def sval (n v : Nat) : Int :=
  let w := v % 2 ^ n
  if w < 2 ^ (n - 1) then (w : Int) else (w : Int) - 2 ^ n

/-- The low `n` bits of a signed value. -/
def uval (n : Nat) (v : Int) : Nat := (v % (2 ^ n : Int)).toNat

/-- Clamp to `lo … hi`. -/
def clampI (lo hi v : Int) : Int := if v < lo then lo else if hi < v then hi else v

/-- Saturate to a signed `n`-bit value. -/
def satS (n : Nat) (v : Int) : Int := clampI (-(2 ^ (n - 1))) (2 ^ (n - 1) - 1) v

/-- `a / b` rounded to the nearest integer, half away from zero, for `b > 0`. -/
def rdiv (a : Int) (b : Nat) : Int :=
  if a < 0 then -(((2 * (-a) + b) / (2 * b) : Int)) else (2 * a + b) / (2 * b)

/-- `a / b` rounded half up, for naturals. -/
def rdivN (a b : Nat) : Nat := (2 * a + b) / (2 * b)

/-- A rational rounded to the nearest integer, half away from zero. -/
def rround (q : Rat) : Int := rdiv q.num q.den

/-- A rational rounded to the nearest integer, half to even. -/
def rroundEven (q : Rat) : Int :=
  let f := q.num / (q.den : Int)
  let r := 2 * (q.num - f * q.den)
  if r < q.den then f else if (q.den : Int) < r then f + 1 else if f % 2 = 0 then f else f + 1

/-- The position of the highest set bit plus one; 0 for 0. -/
def bitLen (n : Nat) : Nat := if n = 0 then 0 else Nat.log2 n + 1

/-- A power series of atanh: the sum of `z^(2 i + 1) / (2 i + 1)` for `i` from `k` on, `n` terms, `p` being the present
power. -/
def atanhSum (n k : Nat) (z2 p : Rat) : Rat :=
  match n with
  | 0 => 0
  | n + 1 => p / (2 * k + 1) + atanhSum n (k + 1) z2 (p * z2)

/-- The natural logarithm of a positive rational, to better than 2^-60: with `x = m 2^e` and `1 <= m < 2`. -/
def lnQ (x : Rat) : Rat :=
  let e : Int := (bitLen x.num.toNat : Int) - bitLen x.den
  let m : Rat := if 0 ≤ e then x / 2 ^ e.toNat else x * 2 ^ (-e).toNat
  let ln (v : Rat) : Rat := 2 * atanhSum 48 0 (((v - 1) / (v + 1)) * ((v - 1) / (v + 1))) ((v - 1) / (v + 1))
  ln m + e * ln 2

/-- The square root of `n` bit by bit from bit `k - 1` down, `r` being the part found. -/
def isqrtFrom (k r n : Nat) : Nat :=
  match k with
  | 0 => r
  | k + 1 => if (r + 2 ^ k) * (r + 2 ^ k) ≤ n then isqrtFrom k (r + 2 ^ k) n else isqrtFrom k r n

/-- The largest natural whose square is at most `n`. -/
def isqrt (n : Nat) : Nat := isqrtFrom (bitLen n / 2 + 1) 0 n

/-- One bit step of a CRC that shifts left with an 8-bit polynomial. -/
def crc8Bit (c : Nat) : Nat := if c < 128 then 2 * c else Nat.xor (2 * c % 256) 7

/-- CRC-8 with polynomial 0x07, from `c`. -/
def crc8From (c : Nat) (l : List Byte) : Nat :=
  match l with
  | [] => c
  | b :: r => crc8From (crc8Bit (crc8Bit (crc8Bit (crc8Bit (crc8Bit (crc8Bit (crc8Bit (crc8Bit (Nat.xor c b.toNat))))))))) r

/-- CRC-8, polynomial 0x07, initial value 0x00 (R26). -/
def crc8 (l : List Byte) : Nat := crc8From 0 l

/-- One bit step of the reflected CRC-32C, polynomial 0x1EDC_6F41 (reflected 0x82F6_3B78). -/
def crc32cBit (c : Nat) : Nat := if c % 2 = 1 then Nat.xor (c / 2) 0x82F63B78 else c / 2

/-- CRC-32C over bytes from the register value `c`, without the final complement. -/
def crc32cFrom (c : Nat) (l : List Byte) : Nat :=
  match l with
  | [] => c
  | b :: r =>
    crc32cFrom (crc32cBit (crc32cBit (crc32cBit (crc32cBit (crc32cBit (crc32cBit (crc32cBit (crc32cBit
      (Nat.xor c b.toNat))))))))) r

/-- CRC-32C: reflected, initial value all ones, final complement (R310). -/
def crc32c (l : List Byte) : Nat := Nat.xor (crc32cFrom 0xFFFFFFFF l) 0xFFFFFFFF

/-- The even-parity bit of a 64-bit word and a packet-end bit (R316). -/
def evenParity (w : Word64) (last : Bool) : Bool :=
  xor ((List.range 64).foldl (fun a i => xor a (w.getLsbD i)) false) last

/-- Serial order of 24-bit frame numbers (R29): `a` precedes `b`. -/
def precedes (a b : Nat) : Bool :=
  let d := (b + (2 ^ 24 - a % 2 ^ 24)) % 2 ^ 24
  decide (1 ≤ d) && decide (d < 2 ^ 23)

/-- Sums. -/
def sumN (l : List Nat) : Nat := l.foldl (· + ·) 0
def sumI (l : List Int) : Int := l.foldl (· + ·) 0

/-- The largest of a list of naturals, 0 for none. -/
def maxN (l : List Nat) : Nat := l.foldl max 0

/-- The sums of the first 0, 1, … elements. -/
def prefixSums (l : List Rat) (acc : Rat) : List Rat :=
  match l with
  | [] => [acc]
  | x :: r => acc :: prefixSums r (acc + x)

/-- Sort naturals (keys with values) in rising order of the key, keeping the order of equal keys. -/
def insertBy {α : Type} (lt : α → α → Bool) (x : α) (l : List α) : List α :=
  match l with
  | [] => [x]
  | y :: r => if lt x y then x :: y :: r else y :: insertBy lt x r

/-- Stable insertion sort. -/
def sortBy {α : Type} (lt : α → α → Bool) (l : List α) : List α := l.foldl (fun a x => insertBy lt x a) []

end Sys2Proof.Machine
end

