-- ==== Sys2Proof/Machine/RegMap.lean ====
section
/-! DEFINITION. The register map: the BAR0 offset of every register of R77 to R79, R100, R136, R166, R207, R240, R241,
R273, R297, R298, R323, R324, R351, R352, R384, R385, R430, R461, R462, R491 and R518 (R468 gives the bases), its
access code (R8) and its reset value (R12), and the fields of the image-loaded and host-writable registers. -/

namespace Sys2Proof.Machine

/-- The access codes of R8. -/
inductive Acc where
  | ro | img | rt | w1c | rc | lck
  deriving DecidableEq, Repr

/-- A row of the register map: `cnt` registers `stride` bytes apart from `base`. `typed` says that a typed image
record of R438 loads the register (R440). `reset i` is the reset value of register `i`. -/
structure RegRow where
  base   : Nat
  cnt    : Nat
  stride : Nat
  acc    : Acc
  typed  : Bool
  reset  : Nat → Nat

/-- A field of a register: its BAR0 offset, lowest bit and width. -/
structure Fld where
  reg : Nat
  lo  : Nat
  len : Nat
  deriving DecidableEq, Repr

/-! ### BOOT -/

def Reg.BOOT_STATUS : Nat := 0x10000
def Reg.BOOT_STICKY : Nat := 0x10004
def Reg.BOOT_DEVICE_ID : Nat := 0x10008
def Reg.BOOT_UID_LO : Nat := 0x1000C
def Reg.BOOT_UID_HI : Nat := 0x10010
def Reg.BOOT_IMG_GEN : Nat := 0x10014
def Reg.BOOT_IMG_INFO : Nat := 0x10018
def Reg.BOOT_SLOT_STAT : Nat := 0x1001C
def Reg.BOOT_GEN_A : Nat := 0x10020
def Reg.BOOT_GEN_B : Nat := 0x10024
def Reg.BOOT_REC_FAIL : Nat := 0x10028
def Reg.BOOT_T_LOADED : Nat := 0x1002C
def Reg.BOOT_T_FIRST : Nat := 0x10030
def Reg.BOOT_NVM : Nat := 0x10034
def Reg.BOOT_BIST : Nat := 0x10038
def Reg.BOOT_DIGEST (i : Nat) : Nat := 0x10040 + 4 * i


/-- The BOOT rows. -/
def RegMap.BOOT : List RegRow :=
  [ ⟨0x10000, 1, 4, .ro, false, fun _ => 0x1⟩,
    ⟨0x10004, 1, 4, .w1c, false, fun _ => 0x0⟩,
    ⟨0x10008, 1, 4, .ro, false, fun _ => 0x0⟩,
    ⟨0x1000C, 1, 4, .ro, false, fun _ => 0x0⟩,
    ⟨0x10010, 1, 4, .ro, false, fun _ => 0x0⟩,
    ⟨0x10014, 1, 4, .ro, false, fun _ => 0x0⟩,
    ⟨0x10018, 1, 4, .ro, false, fun _ => 0x0⟩,
    ⟨0x1001C, 1, 4, .ro, false, fun _ => 0x0⟩,
    ⟨0x10020, 1, 4, .ro, false, fun _ => 0x0⟩,
    ⟨0x10024, 1, 4, .ro, false, fun _ => 0x0⟩,
    ⟨0x10028, 1, 4, .ro, false, fun _ => 0x0⟩,
    ⟨0x1002C, 1, 4, .ro, false, fun _ => 0x0⟩,
    ⟨0x10030, 1, 4, .ro, false, fun _ => 0x0⟩,
    ⟨0x10034, 1, 4, .ro, false, fun _ => 0x0⟩,
    ⟨0x10038, 1, 4, .ro, false, fun _ => 0x0⟩,
    ⟨0x10040, 8, 4, .ro, false, fun _ => 0x0⟩ ]

/-! ### SEC -/

def Reg.SEC_STATUS : Nat := 0x20000
def Reg.SEC_ROLLBACK : Nat := 0x20004
def Reg.SEC_STICKY : Nat := 0x20008
def Reg.SEC_KS_HASH (i : Nat) : Nat := 0x20010 + 4 * i
def Reg.SEC_AR_HASH (i : Nat) : Nat := 0x20090 + 4 * i


/-- The SEC rows. -/
def RegMap.SEC : List RegRow :=
  [ ⟨0x20000, 1, 4, .ro, false, fun _ => 0x0⟩,
    ⟨0x20004, 1, 4, .ro, false, fun _ => 0x0⟩,
    ⟨0x20008, 1, 4, .w1c, false, fun _ => 0x0⟩,
    ⟨0x20010, 32, 4, .ro, false, fun _ => 0x0⟩,
    ⟨0x20090, 16, 4, .ro, false, fun _ => 0x0⟩ ]

/-! ### TBS -/

def Reg.TBS_STATUS : Nat := 0x30000
def Reg.TBS_STICKY : Nat := 0x30004
def Reg.TBS_WARM_CFG : Nat := 0x30008
def Reg.TBS_HTR_DUTY : Nat := 0x3000C
def Reg.TBS_WARM_TIMER : Nat := 0x30010
def Reg.TBS_WARM_FRAME : Nat := 0x30014
def Reg.TBS_TIME_LO : Nat := 0x30018
def Reg.TBS_TIME_HI : Nat := 0x3001C
def Reg.TBS_OFFSET_LO : Nat := 0x30020
def Reg.TBS_OFFSET_HI : Nat := 0x30024
def Reg.TBS_LOCK_COUNT : Nat := 0x30028

def Fld.TBS_WARM_CFG_oven_mode : Fld := ⟨Reg.TBS_WARM_CFG, 0, 1⟩
def Fld.TBS_WARM_CFG_warm_band : Fld := ⟨Reg.TBS_WARM_CFG, 8, 8⟩
def Fld.TBS_WARM_CFG_warm_hold : Fld := ⟨Reg.TBS_WARM_CFG, 16, 12⟩

/-- The TBS rows. -/
def RegMap.TBS : List RegRow :=
  [ ⟨0x30000, 1, 4, .ro, false, fun _ => 0x0⟩,
    ⟨0x30004, 1, 4, .w1c, false, fun _ => 0x0⟩,
    ⟨0x30008, 1, 4, .img, false, fun _ => 0x781401⟩,
    ⟨0x3000C, 1, 4, .ro, false, fun _ => 0x0⟩,
    ⟨0x30010, 1, 4, .ro, false, fun _ => 0x0⟩,
    ⟨0x30014, 1, 4, .ro, false, fun _ => 0x0⟩,
    ⟨0x30018, 1, 4, .ro, false, fun _ => 0x0⟩,
    ⟨0x3001C, 1, 4, .ro, false, fun _ => 0x0⟩,
    ⟨0x30020, 1, 4, .ro, false, fun _ => 0x0⟩,
    ⟨0x30024, 1, 4, .ro, false, fun _ => 0x0⟩,
    ⟨0x30028, 1, 4, .rc, false, fun _ => 0x0⟩ ]

/-! ### TSU -/

def Reg.TSU_AUX_STATUS : Nat := 0x40000
def Reg.TSU_SVC_LINE : Nat := 0x40004
def Reg.TSU_CFG (i : Nat) : Nat := 0x40100 + 64 * i
def Reg.TSU_WIN_CFG (i : Nat) : Nat := 0x40104 + 64 * i
def Reg.TSU_WIN_OPEN (i : Nat) : Nat := 0x40108 + 64 * i
def Reg.TSU_WIN_CLOSE (i : Nat) : Nat := 0x4010C + 64 * i
def Reg.TSU_PERIOD_LO (i : Nat) : Nat := 0x40110 + 64 * i
def Reg.TSU_PERIOD_HI (i : Nat) : Nat := 0x40114 + 64 * i
def Reg.TSU_EST_COUNT (i : Nat) : Nat := 0x40118 + 64 * i
def Reg.TSU_EST_MIN (i : Nat) : Nat := 0x4011C + 64 * i
def Reg.TSU_EST_MAX (i : Nat) : Nat := 0x40120 + 64 * i
def Reg.TSU_EST_STAT (i : Nat) : Nat := 0x40124 + 64 * i
def Reg.TSU_WIN_LAST (i : Nat) : Nat := 0x40128 + 64 * i
def Reg.TSU_LOST (i : Nat) : Nat := 0x4012C + 64 * i
def Reg.TSU_HOLDOFF (i : Nat) : Nat := 0x40130 + 64 * i
def Reg.TSU_LINE (i : Nat) : Nat := 0x40134 + 64 * i

def Fld.TSU_CFG_enable (i : Nat) : Fld := ⟨Reg.TSU_CFG i, 0, 1⟩
def Fld.TSU_CFG_edge (i : Nat) : Fld := ⟨Reg.TSU_CFG i, 1, 2⟩
def Fld.TSU_CFG_holdoff (i : Nat) : Fld := ⟨Reg.TSU_CFG i, 8, 8⟩
def Fld.TSU_CFG_est_gate (i : Nat) : Fld := ⟨Reg.TSU_CFG i, 16, 14⟩
def Fld.TSU_WIN_CFG_start_src (i : Nat) : Fld := ⟨Reg.TSU_WIN_CFG i, 0, 3⟩
def Fld.TSU_WIN_CFG_start_chan (i : Nat) : Fld := ⟨Reg.TSU_WIN_CFG i, 4, 4⟩

/-- The TSU rows. -/
def RegMap.TSU : List RegRow :=
  [ ⟨0x40000, 1, 4, .ro, false, fun _ => 0x13⟩,
    ⟨0x40004, 1, 4, .ro, false, fun _ => 0x121110⟩,
    ⟨0x40100, 16, 64, .img, false, fun _ => 0x0⟩,
    ⟨0x40104, 16, 64, .img, false, fun _ => 0x0⟩,
    ⟨0x40108, 16, 64, .img, false, fun _ => 0x0⟩,
    ⟨0x4010C, 16, 64, .img, false, fun _ => 0x0⟩,
    ⟨0x40110, 16, 64, .ro, false, fun _ => 0x0⟩,
    ⟨0x40114, 16, 64, .ro, false, fun _ => 0x0⟩,
    ⟨0x40118, 16, 64, .ro, false, fun _ => 0x0⟩,
    ⟨0x4011C, 16, 64, .ro, false, fun _ => 0x0⟩,
    ⟨0x40120, 16, 64, .ro, false, fun _ => 0x0⟩,
    ⟨0x40124, 16, 64, .ro, false, fun _ => 0x0⟩,
    ⟨0x40128, 16, 64, .ro, false, fun _ => 0x0⟩,
    ⟨0x4012C, 16, 64, .rc, false, fun _ => 0x0⟩,
    ⟨0x40130, 16, 64, .rc, false, fun _ => 0x0⟩,
    ⟨0x40134, 16, 64, .ro, false, fun i => i⟩ ]

/-! ### TDC -/

def Reg.TDC_CAL_TOL : Nat := 0x50000
def Reg.TDC_CAL_COUNT : Nat := 0x50004
def Reg.TDC_CAL_TIMING : Nat := 0x50008
def Reg.TDC_CAL_GUARD : Nat := 0x5000C
def Reg.TDC_CAL_TOPUP : Nat := 0x50010
def Reg.TDC_CAL_REQ : Nat := 0x50014
def Reg.TDC_CAL_ACTIVE : Nat := 0x50018
def Reg.TDC_CAL_TEST : Nat := 0x5001C
def Reg.TDC_FENCED : Nat := 0x50020
def Reg.TDC_CAL_INTERVAL : Nat := 0x50024
def Reg.TDC_STRIP_STAT (i : Nat) : Nat := 0x50040 + 4 * i
def Reg.TDC_CAL_FAIL_COUNT : Nat := 0x500C0
def Reg.TDC_DIAG_SEL : Nat := 0x500C4
def Reg.TDC_DIAG_DATA (i : Nat) : Nat := 0x50100 + 4 * i

def Fld.TDC_CAL_TOL_tol_tap : Fld := ⟨Reg.TDC_CAL_TOL, 0, 8⟩
def Fld.TDC_CAL_TOL_tol_int : Fld := ⟨Reg.TDC_CAL_TOL, 8, 8⟩
def Fld.TDC_CAL_COUNT_run_log2 : Fld := ⟨Reg.TDC_CAL_COUNT, 0, 5⟩
def Fld.TDC_CAL_COUNT_boot_log2 : Fld := ⟨Reg.TDC_CAL_COUNT, 8, 5⟩
def Fld.TDC_CAL_TIMING_pass_timeout : Fld := ⟨Reg.TDC_CAL_TIMING, 0, 12⟩
def Fld.TDC_CAL_TIMING_concurrency : Fld := ⟨Reg.TDC_CAL_TIMING, 16, 6⟩
def Fld.TDC_CAL_GUARD_guard_pre : Fld := ⟨Reg.TDC_CAL_GUARD, 0, 8⟩
def Fld.TDC_CAL_GUARD_guard_post : Fld := ⟨Reg.TDC_CAL_GUARD, 8, 16⟩
def Fld.TDC_CAL_TOPUP_topup_min : Fld := ⟨Reg.TDC_CAL_TOPUP, 0, 20⟩
def Fld.TDC_DIAG_SEL_line : Fld := ⟨Reg.TDC_DIAG_SEL, 0, 10⟩
def Fld.TDC_DIAG_SEL_view : Fld := ⟨Reg.TDC_DIAG_SEL, 12, 2⟩

/-- The TDC rows. -/
def RegMap.TDC : List RegRow :=
  [ ⟨0x50000, 1, 4, .img, false, fun _ => 0xF28⟩,
    ⟨0x50004, 1, 4, .img, false, fun _ => 0x1414⟩,
    ⟨0x50008, 1, 4, .img, false, fun _ => 0x4012C⟩,
    ⟨0x5000C, 1, 4, .img, false, fun _ => 0xC814⟩,
    ⟨0x50010, 1, 4, .img, false, fun _ => 0xC8⟩,
    ⟨0x50014, 1, 4, .rt, false, fun _ => 0x0⟩,
    ⟨0x50018, 1, 4, .ro, false, fun _ => 0x0⟩,
    ⟨0x5001C, 1, 4, .ro, false, fun _ => 0x0⟩,
    ⟨0x50020, 1, 4, .ro, false, fun _ => 0x0⟩,
    ⟨0x50024, 1, 4, .ro, false, fun _ => 0x3C⟩,
    ⟨0x50040, 32, 4, .ro, false, fun _ => 0x0⟩,
    ⟨0x500C0, 1, 4, .rc, false, fun _ => 0x0⟩,
    ⟨0x500C4, 1, 4, .rt, false, fun _ => 0x0⟩,
    ⟨0x50100, 97, 4, .ro, false, fun _ => 0x0⟩ ]

/-! ### PFE -/

def Reg.PFE_STATUS : Nat := 0x60000
def Reg.PFE_STICKY : Nat := 0x60004
def Reg.PFE_THR_A : Nat := 0x60008
def Reg.PFE_THR_B : Nat := 0x6000C
def Reg.PFE_THR_C : Nat := 0x60010
def Reg.PFE_THR_D : Nat := 0x60014
def Reg.PFE_SAT_CFG : Nat := 0x60018
def Reg.PFE_HOT_CFG : Nat := 0x6001C
def Reg.PFE_BIAS_CFG : Nat := 0x60020
def Reg.PFE_BD_TRIM : Nat := 0x60024
def Reg.PFE_PLAN_COINC : Nat := 0x60028
def Reg.PFE_PLAN_GATE : Nat := 0x6002C
def Reg.PFE_DCR_SEL : Nat := 0x60030
def Reg.PFE_MASK_COUNT : Nat := 0x60034
def Reg.PFE_SAT_COUNT : Nat := 0x60038
def Reg.PFE_DEEPEN_MISS : Nat := 0x6003C
def Reg.PFE_BIAS_STAT (i : Nat) : Nat := 0x60040 + 4 * i
def Reg.PFE_DEPTH (i : Nat) : Nat := 0x60100 + 4 * i
def Reg.PFE_DCR_DATA (i : Nat) : Nat := 0x60200 + 4 * i
def Reg.PFE_AMASK (i : Nat) : Nat := 0x60400 + 4 * i
def Reg.PFE_IMASK (i : Nat) : Nat := 0x60800 + 4 * i

def Fld.PFE_THR_A_thr2 : Fld := ⟨Reg.PFE_THR_A, 0, 16⟩
def Fld.PFE_THR_A_thr3 : Fld := ⟨Reg.PFE_THR_A, 16, 16⟩
def Fld.PFE_THR_B_thr4 : Fld := ⟨Reg.PFE_THR_B, 0, 16⟩
def Fld.PFE_THR_B_thr5 : Fld := ⟨Reg.PFE_THR_B, 16, 16⟩
def Fld.PFE_THR_C_thr6 : Fld := ⟨Reg.PFE_THR_C, 0, 16⟩
def Fld.PFE_THR_C_thr7 : Fld := ⟨Reg.PFE_THR_C, 16, 16⟩
def Fld.PFE_THR_D_thr8 : Fld := ⟨Reg.PFE_THR_D, 0, 16⟩
def Fld.PFE_THR_D_hyst : Fld := ⟨Reg.PFE_THR_D, 16, 8⟩
def Fld.PFE_SAT_CFG_sat_thr : Fld := ⟨Reg.PFE_SAT_CFG, 0, 16⟩
def Fld.PFE_HOT_CFG_hot_rel : Fld := ⟨Reg.PFE_HOT_CFG, 0, 8⟩
def Fld.PFE_HOT_CFG_hot_abs : Fld := ⟨Reg.PFE_HOT_CFG, 8, 16⟩
def Fld.PFE_HOT_CFG_mask_max : Fld := ⟨Reg.PFE_HOT_CFG, 24, 5⟩
def Fld.PFE_BIAS_CFG_excess : Fld := ⟨Reg.PFE_BIAS_CFG, 0, 9⟩
def Fld.PFE_DCR_SEL_channel : Fld := ⟨Reg.PFE_DCR_SEL, 0, 9⟩

/-- The PFE rows. -/
def RegMap.PFE : List RegRow :=
  [ ⟨0x60000, 1, 4, .ro, false, fun _ => 0x0⟩,
    ⟨0x60004, 1, 4, .w1c, false, fun _ => 0x0⟩,
    ⟨0x60008, 1, 4, .img, false, fun _ => 0x640014⟩,
    ⟨0x6000C, 1, 4, .img, false, fun _ => 0x258012C⟩,
    ⟨0x60010, 1, 4, .img, false, fun _ => 0x64003E8⟩,
    ⟨0x60014, 1, 4, .img, false, fun _ => 0x1909C4⟩,
    ⟨0x60018, 1, 4, .img, false, fun _ => 0x1770⟩,
    ⟨0x6001C, 1, 4, .img, false, fun _ => 0x4000508⟩,
    ⟨0x60020, 1, 4, .img, false, fun _ => 0x12C⟩,
    ⟨0x60024, 1, 4, .lck, false, fun _ => 0x0⟩,
    ⟨0x60028, 1, 4, .ro, false, fun _ => 0x0⟩,
    ⟨0x6002C, 1, 4, .ro, false, fun _ => 0x0⟩,
    ⟨0x60030, 1, 4, .rt, false, fun _ => 0x0⟩,
    ⟨0x60034, 1, 4, .ro, false, fun _ => 0x0⟩,
    ⟨0x60038, 1, 4, .rc, false, fun _ => 0x0⟩,
    ⟨0x6003C, 1, 4, .rc, false, fun _ => 0x0⟩,
    ⟨0x60040, 32, 4, .ro, false, fun _ => 0x0⟩,
    ⟨0x60100, 64, 4, .ro, false, fun _ => 0x0⟩,
    ⟨0x60200, 16, 4, .ro, false, fun _ => 0x0⟩,
    ⟨0x60400, 256, 4, .ro, false, fun _ => 0x0⟩,
    ⟨0x60800, 256, 4, .img, false, fun _ => 0x0⟩ ]

/-! ### ESQ -/

def Reg.ESQ_STATUS : Nat := 0x70000
def Reg.ESQ_STICKY : Nat := 0x70004
def Reg.ESQ_FRAME_STAT : Nat := 0x70008
def Reg.ESQ_FRAME : Nat := 0x7000C
def Reg.ESQ_PERIOD : Nat := 0x70010
def Reg.ESQ_GRANT : Nat := 0x70014
def Reg.ESQ_BANK_PRESENT : Nat := 0x70018
def Reg.ESQ_BANK_FENCED : Nat := 0x7001C
def Reg.ESQ_RAIL_LOW_CFG : Nat := 0x70020
def Reg.ESQ_SWAP_STAT : Nat := 0x70024
def Reg.ESQ_SHOTS : Nat := 0x70028
def Reg.ESQ_SUPP_GRANT : Nat := 0x7002C
def Reg.ESQ_SUPP_LEDGER : Nat := 0x70030
def Reg.ESQ_SUPP_SPACING : Nat := 0x70034
def Reg.ESQ_INDEX_MISS : Nat := 0x70038
def Reg.ESQ_INDEX_SPUR : Nat := 0x7003C
def Reg.ESQ_RAIL_WIN (i : Nat) : Nat := 0x70040 + 4 * i
def Reg.ESQ_RAIL_TIME (i : Nat) : Nat := 0x70050 + 4 * i
def Reg.ESQ_LEDGER_W0 : Nat := 0x70060
def Reg.ESQ_LEDGER_W1 : Nat := 0x70064
def Reg.ESQ_LEDGER_NSEC : Nat := 0x70068
def Reg.ESQ_SECTOR_SEL : Nat := 0x7006C
def Reg.ESQ_SECTOR_LO : Nat := 0x70070
def Reg.ESQ_SECTOR_HI : Nat := 0x70074
def Reg.ESQ_SECTOR_BANKS : Nat := 0x70078
def Reg.ESQ_SECTOR_B0 : Nat := 0x7007C
def Reg.ESQ_SECTOR_B1 : Nat := 0x70080
def Reg.ESQ_SECTOR_SUM0 : Nat := 0x70084
def Reg.ESQ_SECTOR_SUM1 : Nat := 0x70088
def Reg.ESQ_BANK_ENERGY (i : Nat) : Nat := 0x700C0 + 4 * i
def Reg.ESQ_SECTOR_SUPP (i : Nat) : Nat := 0x70100 + 4 * i

def Fld.ESQ_BANK_PRESENT_mask : Fld := ⟨Reg.ESQ_BANK_PRESENT, 0, 16⟩
def Fld.ESQ_RAIL_LOW_CFG_rail_low_n : Fld := ⟨Reg.ESQ_RAIL_LOW_CFG, 0, 8⟩
def Fld.ESQ_RAIL_WIN_t_min (i : Nat) : Fld := ⟨Reg.ESQ_RAIL_WIN i, 0, 16⟩
def Fld.ESQ_RAIL_WIN_t_max (i : Nat) : Fld := ⟨Reg.ESQ_RAIL_WIN i, 16, 16⟩
def Fld.ESQ_LEDGER_W0_bucket : Fld := ⟨Reg.ESQ_LEDGER_W0, 0, 24⟩
def Fld.ESQ_LEDGER_W1_bucket : Fld := ⟨Reg.ESQ_LEDGER_W1, 0, 24⟩
def Fld.ESQ_LEDGER_NSEC_sectors : Fld := ⟨Reg.ESQ_LEDGER_NSEC, 0, 7⟩
def Fld.ESQ_SECTOR_SEL_sector : Fld := ⟨Reg.ESQ_SECTOR_SEL, 0, 6⟩

/-- The ESQ rows. -/
def RegMap.ESQ : List RegRow :=
  [ ⟨0x70000, 1, 4, .ro, false, fun _ => 0x0⟩,
    ⟨0x70004, 1, 4, .w1c, false, fun _ => 0x0⟩,
    ⟨0x70008, 1, 4, .ro, false, fun _ => 0x0⟩,
    ⟨0x7000C, 1, 4, .ro, false, fun _ => 0x0⟩,
    ⟨0x70010, 1, 4, .ro, false, fun _ => 0x0⟩,
    ⟨0x70014, 1, 4, .ro, false, fun _ => 0x0⟩,
    ⟨0x70018, 1, 4, .img, false, fun _ => 0x0⟩,
    ⟨0x7001C, 1, 4, .ro, false, fun _ => 0x0⟩,
    ⟨0x70020, 1, 4, .img, false, fun _ => 0x0⟩,
    ⟨0x70024, 1, 4, .ro, false, fun _ => 0x0⟩,
    ⟨0x70028, 1, 4, .rc, false, fun _ => 0x0⟩,
    ⟨0x7002C, 1, 4, .rc, false, fun _ => 0x0⟩,
    ⟨0x70030, 1, 4, .rc, false, fun _ => 0x0⟩,
    ⟨0x70034, 1, 4, .rc, false, fun _ => 0x0⟩,
    ⟨0x70038, 1, 4, .rc, false, fun _ => 0x0⟩,
    ⟨0x7003C, 1, 4, .rc, false, fun _ => 0x0⟩,
    ⟨0x70040, 4, 4, .img, false, fun _ => 0x0⟩,
    ⟨0x70050, 4, 4, .ro, false, fun _ => 0x0⟩,
    ⟨0x70060, 1, 4, .img, true, fun _ => 0x0⟩,
    ⟨0x70064, 1, 4, .img, true, fun _ => 0x0⟩,
    ⟨0x70068, 1, 4, .img, true, fun _ => 0x0⟩,
    ⟨0x7006C, 1, 4, .rt, false, fun _ => 0x0⟩,
    ⟨0x70070, 1, 4, .ro, false, fun _ => 0x0⟩,
    ⟨0x70074, 1, 4, .ro, false, fun _ => 0x0⟩,
    ⟨0x70078, 1, 4, .ro, false, fun _ => 0x0⟩,
    ⟨0x7007C, 1, 4, .ro, false, fun _ => 0x0⟩,
    ⟨0x70080, 1, 4, .ro, false, fun _ => 0x0⟩,
    ⟨0x70084, 1, 4, .ro, false, fun _ => 0x0⟩,
    ⟨0x70088, 1, 4, .ro, false, fun _ => 0x0⟩,
    ⟨0x700C0, 16, 4, .img, true, fun _ => 0x0⟩,
    ⟨0x70100, 64, 4, .rc, false, fun _ => 0x0⟩ ]

/-! ### HSE -/

def Reg.HSE_STATUS : Nat := 0x80000
def Reg.HSE_STICKY : Nat := 0x80004
def Reg.HSE_SIEVE_A : Nat := 0x80008
def Reg.HSE_SIEVE_B : Nat := 0x8000C
def Reg.HSE_ZOOM : Nat := 0x80010
def Reg.HSE_CLASS : Nat := 0x80014
def Reg.HSE_CANOPY : Nat := 0x80018
def Reg.HSE_DEEPEN : Nat := 0x8001C
def Reg.HSE_WALK_A : Nat := 0x80020
def Reg.HSE_WALK_B : Nat := 0x80024
def Reg.HSE_FOREIGN_CFG : Nat := 0x80028
def Reg.HSE_RECORDS : Nat := 0x80030
def Reg.HSE_FOREIGN_COUNT : Nat := 0x80034
def Reg.HSE_DIFFUSE_COUNT : Nat := 0x80038
def Reg.HSE_LOST_COLS : Nat := 0x8003C
def Reg.HSE_MERGE_MISS : Nat := 0x80040
def Reg.HSE_WIN_MISS : Nat := 0x80044
def Reg.HSE_DEFER_COUNT : Nat := 0x80048
def Reg.HSE_CAND_OVER : Nat := 0x8004C
def Reg.HSE_FS_SEL : Nat := 0x80050
def Reg.HSE_FS_CFG : Nat := 0x80054
def Reg.HSE_FS_BAND : Nat := 0x80058
def Reg.HSE_FS_BAND2 : Nat := 0x8005C
def Reg.HSE_FS_VERDICT : Nat := 0x80060
def Reg.HSE_FS_COUNT : Nat := 0x80064
def Reg.HSE_FS_UNOBS : Nat := 0x80068
def Reg.HSE_STRIP_STAT (i : Nat) : Nat := 0x80100 + 4 * i
def Reg.HSE_SKEW (i : Nat) : Nat := 0x80400 + 4 * i

def Fld.HSE_SIEVE_A_sig_k : Fld := ⟨Reg.HSE_SIEVE_A, 0, 8⟩
def Fld.HSE_SIEVE_A_sig_abs : Fld := ⟨Reg.HSE_SIEVE_A, 8, 8⟩
def Fld.HSE_SIEVE_A_sep : Fld := ⟨Reg.HSE_SIEVE_A, 16, 4⟩
def Fld.HSE_SIEVE_A_occ_min : Fld := ⟨Reg.HSE_SIEVE_A, 24, 4⟩
def Fld.HSE_SIEVE_B_diff_tof : Fld := ⟨Reg.HSE_SIEVE_B, 0, 12⟩
def Fld.HSE_SIEVE_B_iso_bins : Fld := ⟨Reg.HSE_SIEVE_B, 12, 4⟩
def Fld.HSE_SIEVE_B_diff_w : Fld := ⟨Reg.HSE_SIEVE_B, 16, 8⟩
def Fld.HSE_SIEVE_B_iso_int : Fld := ⟨Reg.HSE_SIEVE_B, 24, 8⟩
def Fld.HSE_ZOOM_coarse_shots : Fld := ⟨Reg.HSE_ZOOM, 0, 4⟩
def Fld.HSE_ZOOM_fine_min : Fld := ⟨Reg.HSE_ZOOM, 4, 4⟩
def Fld.HSE_ZOOM_cen_half : Fld := ⟨Reg.HSE_ZOOM, 8, 4⟩
def Fld.HSE_ZOOM_empty_step : Fld := ⟨Reg.HSE_ZOOM, 16, 8⟩
def Fld.HSE_CLASS_hard_w : Fld := ⟨Reg.HSE_CLASS, 0, 8⟩
def Fld.HSE_CLASS_win_tof : Fld := ⟨Reg.HSE_CLASS, 8, 10⟩
def Fld.HSE_CLASS_emit_empty : Fld := ⟨Reg.HSE_CLASS, 24, 1⟩
def Fld.HSE_CLASS_foreign_emit : Fld := ⟨Reg.HSE_CLASS, 25, 1⟩
def Fld.HSE_CLASS_pu_en : Fld := ⟨Reg.HSE_CLASS, 26, 1⟩
def Fld.HSE_CANOPY_seg_max : Fld := ⟨Reg.HSE_CANOPY, 0, 8⟩
def Fld.HSE_CANOPY_hook_all : Fld := ⟨Reg.HSE_CANOPY, 8, 1⟩
def Fld.HSE_DEEPEN_win_lat : Fld := ⟨Reg.HSE_DEEPEN, 0, 16⟩
def Fld.HSE_DEEPEN_merge_lat : Fld := ⟨Reg.HSE_DEEPEN, 16, 16⟩
def Fld.HSE_FOREIGN_CFG_foreign_hi : Fld := ⟨Reg.HSE_FOREIGN_CFG, 0, 16⟩
def Fld.HSE_FS_SEL_set : Fld := ⟨Reg.HSE_FS_SEL, 0, 3⟩
def Fld.HSE_FS_SEL_band : Fld := ⟨Reg.HSE_FS_SEL, 4, 4⟩

/-- The HSE rows. -/
def RegMap.HSE : List RegRow :=
  [ ⟨0x80000, 1, 4, .ro, false, fun _ => 0x0⟩,
    ⟨0x80004, 1, 4, .w1c, false, fun _ => 0x0⟩,
    ⟨0x80008, 1, 4, .img, false, fun _ => 0x3030640⟩,
    ⟨0x8000C, 1, 4, .img, false, fun _ => 0x28602064⟩,
    ⟨0x80010, 1, 4, .img, false, fun _ => 0x100824⟩,
    ⟨0x80014, 1, 4, .img, false, fun _ => 0x4008040⟩,
    ⟨0x80018, 1, 4, .img, false, fun _ => 0x40⟩,
    ⟨0x8001C, 1, 4, .img, false, fun _ => 0x1400C8⟩,
    ⟨0x80020, 1, 4, .img, false, fun _ => 0x0⟩,
    ⟨0x80024, 1, 4, .img, false, fun _ => 0x0⟩,
    ⟨0x80028, 1, 4, .img, false, fun _ => 0x3E8⟩,
    ⟨0x80030, 1, 4, .rc, false, fun _ => 0x0⟩,
    ⟨0x80034, 1, 4, .rc, false, fun _ => 0x0⟩,
    ⟨0x80038, 1, 4, .rc, false, fun _ => 0x0⟩,
    ⟨0x8003C, 1, 4, .rc, false, fun _ => 0x0⟩,
    ⟨0x80040, 1, 4, .rc, false, fun _ => 0x0⟩,
    ⟨0x80044, 1, 4, .rc, false, fun _ => 0x0⟩,
    ⟨0x80048, 1, 4, .rc, false, fun _ => 0x0⟩,
    ⟨0x8004C, 1, 4, .rc, false, fun _ => 0x0⟩,
    ⟨0x80050, 1, 4, .rt, false, fun _ => 0x0⟩,
    ⟨0x80054, 1, 4, .ro, false, fun _ => 0x0⟩,
    ⟨0x80058, 1, 4, .ro, false, fun _ => 0x0⟩,
    ⟨0x8005C, 1, 4, .ro, false, fun _ => 0x0⟩,
    ⟨0x80060, 1, 4, .ro, false, fun _ => 0x0⟩,
    ⟨0x80064, 1, 4, .ro, false, fun _ => 0x0⟩,
    ⟨0x80068, 1, 4, .ro, false, fun _ => 0x0⟩,
    ⟨0x80100, 32, 4, .ro, false, fun _ => 0x0⟩,
    ⟨0x80400, 256, 4, .ro, false, fun _ => 0x0⟩ ]

/-! ### FIB -/

def Reg.FIB_STATUS : Nat := 0x90000
def Reg.FIB_STICKY : Nat := 0x90004
def Reg.FIB_PLAN_STAT : Nat := 0x90008
def Reg.FIB_SWEEP : Nat := 0x9000C
def Reg.FIB_SWEEP_PERIOD : Nat := 0x90010
def Reg.FIB_ATT : Nat := 0x90014
def Reg.FIB_CLIP_COUNT : Nat := 0x90018
def Reg.FIB_LOST : Nat := 0x9001C
def Reg.FIB_TRIG_MISS : Nat := 0x90020
def Reg.FIB_TRIG_SPUR : Nat := 0x90024
def Reg.FIB_SUBST : Nat := 0x90028
def Reg.FIB_SAT : Nat := 0x9002C
def Reg.FIB_END : Nat := 0x90030
def Reg.FIB_LENGTH : Nat := 0x90034
def Reg.FIB_ADC_OFS (i : Nat) : Nat := 0x90040 + 4 * i
def Reg.FIB_PAIR_GAIN (i : Nat) : Nat := 0x90060 + 4 * i
def Reg.FIB_PAIR_SKEW (i : Nat) : Nat := 0x90068 + 4 * i
def Reg.FIB_PAIR_CAL (i : Nat) : Nat := 0x90070 + 4 * i
def Reg.FIB_CAL_CFG : Nat := 0x90078
def Reg.FIB_CAL_TOL : Nat := 0x9007C
def Reg.FIB_CONV_FENCED : Nat := 0x90080
def Reg.FIB_CAL_FAIL_COUNT : Nat := 0x90084
def Reg.FIB_DTS_STAT : Nat := 0x90088
def Reg.FIB_DTS_KAPPA : Nat := 0x9008C
def Reg.FIB_ZONE_SEL : Nat := 0x90090
def Reg.FIB_ZONE_RANGE : Nat := 0x90094
def Reg.FIB_ZONE_THR : Nat := 0x90098
def Reg.FIB_ZONE_ENERGY : Nat := 0x9009C
def Reg.FIB_ZONE_WORD : Nat := 0x900A0
def Reg.FIB_ZONE_EXC_LO : Nat := 0x900A4
def Reg.FIB_ZONE_EXC_HI : Nat := 0x900A8

def Fld.FIB_CAL_CFG_cal_log2 : Fld := ⟨Reg.FIB_CAL_CFG, 0, 5⟩
def Fld.FIB_CAL_CFG_cal_interval : Fld := ⟨Reg.FIB_CAL_CFG, 16, 16⟩
def Fld.FIB_CAL_TOL_tol_ofs : Fld := ⟨Reg.FIB_CAL_TOL, 0, 8⟩
def Fld.FIB_CAL_TOL_tol_gain : Fld := ⟨Reg.FIB_CAL_TOL, 8, 8⟩
def Fld.FIB_CAL_TOL_tol_skew : Fld := ⟨Reg.FIB_CAL_TOL, 16, 8⟩
def Fld.FIB_CAL_TOL_skew_gain : Fld := ⟨Reg.FIB_CAL_TOL, 24, 8⟩
def Fld.FIB_ZONE_SEL_zone : Fld := ⟨Reg.FIB_ZONE_SEL, 0, 6⟩

/-- The FIB rows. -/
def RegMap.FIB : List RegRow :=
  [ ⟨0x90000, 1, 4, .ro, false, fun _ => 0x0⟩,
    ⟨0x90004, 1, 4, .w1c, false, fun _ => 0x0⟩,
    ⟨0x90008, 1, 4, .ro, false, fun _ => 0x0⟩,
    ⟨0x9000C, 1, 4, .ro, false, fun _ => 0x0⟩,
    ⟨0x90010, 1, 4, .ro, false, fun _ => 0x0⟩,
    ⟨0x90014, 1, 4, .ro, false, fun _ => 0x0⟩,
    ⟨0x90018, 1, 4, .rc, false, fun _ => 0x0⟩,
    ⟨0x9001C, 1, 4, .rc, false, fun _ => 0x0⟩,
    ⟨0x90020, 1, 4, .rc, false, fun _ => 0x0⟩,
    ⟨0x90024, 1, 4, .rc, false, fun _ => 0x0⟩,
    ⟨0x90028, 1, 4, .rc, false, fun _ => 0x0⟩,
    ⟨0x9002C, 1, 4, .rc, false, fun _ => 0x0⟩,
    ⟨0x90030, 1, 4, .ro, false, fun _ => 0x0⟩,
    ⟨0x90034, 1, 4, .ro, false, fun _ => 0x0⟩,
    ⟨0x90040, 8, 4, .ro, false, fun _ => 0x0⟩,
    ⟨0x90060, 2, 4, .ro, false, fun _ => 0x8000⟩,
    ⟨0x90068, 2, 4, .ro, false, fun _ => 0x0⟩,
    ⟨0x90070, 2, 4, .ro, false, fun _ => 0x0⟩,
    ⟨0x90078, 1, 4, .img, false, fun _ => 0xA0014⟩,
    ⟨0x9007C, 1, 4, .img, false, fun _ => 0x140842⟩,
    ⟨0x90080, 1, 4, .ro, false, fun _ => 0x0⟩,
    ⟨0x90084, 1, 4, .rc, false, fun _ => 0x0⟩,
    ⟨0x90088, 1, 4, .ro, false, fun _ => 0x0⟩,
    ⟨0x9008C, 1, 4, .ro, false, fun _ => 0x0⟩,
    ⟨0x90090, 1, 4, .rt, false, fun _ => 0x0⟩,
    ⟨0x90094, 1, 4, .ro, false, fun _ => 0x0⟩,
    ⟨0x90098, 1, 4, .ro, false, fun _ => 0x0⟩,
    ⟨0x9009C, 1, 4, .ro, false, fun _ => 0x0⟩,
    ⟨0x900A0, 1, 4, .ro, false, fun _ => 0x0⟩,
    ⟨0x900A4, 1, 4, .ro, false, fun _ => 0x0⟩,
    ⟨0x900A8, 1, 4, .ro, false, fun _ => 0x0⟩ ]

/-! ### FDC -/

def Reg.FDC_STATUS : Nat := 0xA0000
def Reg.FDC_STICKY : Nat := 0xA0004
def Reg.FDC_SAT : Nat := 0xA0008
def Reg.FDC_RESTARTS : Nat := 0xA000C
def Reg.FDC_CH_SEL : Nat := 0xA0010
def Reg.FDC_CH_CFG : Nat := 0xA0014
def Reg.FDC_CH_POS : Nat := 0xA0018
def Reg.FDC_CH_RATIO : Nat := 0xA001C
def Reg.FDC_CH_INDEX : Nat := 0xA0020
def Reg.FDC_COEF_SEL : Nat := 0xA0024
def Reg.FDC_COEF_DATA : Nat := 0xA0028

def Fld.FDC_CH_SEL_chan : Fld := ⟨Reg.FDC_CH_SEL, 0, 4⟩
def Fld.FDC_CH_CFG_kind : Fld := ⟨Reg.FDC_CH_CFG, 4, 1⟩
def Fld.FDC_CH_CFG_dec : Fld := ⟨Reg.FDC_CH_CFG, 8, 8⟩
def Fld.FDC_CH_CFG_out_shift : Fld := ⟨Reg.FDC_CH_CFG, 16, 4⟩
def Fld.FDC_CH_CFG_pd : Fld := ⟨Reg.FDC_CH_CFG, 24, 8⟩
def Fld.FDC_CH_POS_p_first : Fld := ⟨Reg.FDC_CH_POS, 0, 16⟩
def Fld.FDC_CH_POS_npos_ch : Fld := ⟨Reg.FDC_CH_POS, 16, 16⟩
def Fld.FDC_COEF_SEL_phase : Fld := ⟨Reg.FDC_COEF_SEL, 0, 8⟩
def Fld.FDC_COEF_SEL_tap : Fld := ⟨Reg.FDC_COEF_SEL, 8, 4⟩

/-- The FDC rows. -/
def RegMap.FDC : List RegRow :=
  [ ⟨0xA0000, 1, 4, .ro, false, fun _ => 0x0⟩,
    ⟨0xA0004, 1, 4, .w1c, false, fun _ => 0x0⟩,
    ⟨0xA0008, 1, 4, .rc, false, fun _ => 0x0⟩,
    ⟨0xA000C, 1, 4, .rc, false, fun _ => 0x0⟩,
    ⟨0xA0010, 1, 4, .rt, false, fun _ => 0x0⟩,
    ⟨0xA0014, 1, 4, .img, true, fun _ => 0x0⟩,
    ⟨0xA0018, 1, 4, .img, true, fun _ => 0x0⟩,
    ⟨0xA001C, 1, 4, .img, true, fun _ => 0x0⟩,
    ⟨0xA0020, 1, 4, .ro, false, fun _ => 0x0⟩,
    ⟨0xA0024, 1, 4, .rt, false, fun _ => 0x700⟩,
    ⟨0xA0028, 1, 4, .ro, false, fun _ => 0x20000⟩ ]

/-! ### TAE -/

def Reg.TAE_STATUS : Nat := 0xB0000
def Reg.TAE_STICKY : Nat := 0xB0004
def Reg.TAE_REF_CFG : Nat := 0xB0008
def Reg.TAE_SKEW_CFG : Nat := 0xB000C
def Reg.TAE_MASK_CFG : Nat := 0xB0010
def Reg.TAE_MASK_CHAN : Nat := 0xB0014
def Reg.TAE_REF_COUNT : Nat := 0xB0018
def Reg.TAE_LATE : Nat := 0xB001C
def Reg.TAE_TRIG_IGNORED : Nat := 0xB0020
def Reg.TAE_SKEW_REJ : Nat := 0xB0024
def Reg.TAE_REF_VIOL : Nat := 0xB0028
def Reg.TAE_ZONE_SEL : Nat := 0xB002C
def Reg.TAE_ZENV_LO : Nat := 0xB0030
def Reg.TAE_ZENV_HI : Nat := 0xB0034
def Reg.TAE_U_CFG (i : Nat) : Nat := 0xB0100 + 32 * i
def Reg.TAE_U_LEN (i : Nat) : Nat := 0xB0104 + 32 * i
def Reg.TAE_U_STAT (i : Nat) : Nat := 0xB0108 + 32 * i
def Reg.TAE_U_TRIG_FRAME (i : Nat) : Nat := 0xB010C + 32 * i
def Reg.TAE_U_TRIG_NUM (i : Nat) : Nat := 0xB0110 + 32 * i
def Reg.TAE_U_PRE_GOT (i : Nat) : Nat := 0xB0114 + 32 * i
def Reg.TAE_U_BYTES (i : Nat) : Nat := 0xB0118 + 32 * i
def Reg.TAE_U_FILL (i : Nat) : Nat := 0xB011C + 32 * i

def Fld.TAE_REF_CFG_ref_accum : Fld := ⟨Reg.TAE_REF_CFG, 0, 12⟩
def Fld.TAE_REF_CFG_win_ref : Fld := ⟨Reg.TAE_REF_CFG, 16, 7⟩
def Fld.TAE_SKEW_CFG_skew_hits : Fld := ⟨Reg.TAE_SKEW_CFG, 0, 16⟩
def Fld.TAE_SKEW_CFG_skew_jump : Fld := ⟨Reg.TAE_SKEW_CFG, 16, 8⟩
def Fld.TAE_MASK_CFG_p_hi : Fld := ⟨Reg.TAE_MASK_CFG, 0, 16⟩
def Fld.TAE_MASK_CFG_p_lo : Fld := ⟨Reg.TAE_MASK_CFG, 16, 16⟩
def Fld.TAE_MASK_CHAN_viol_chan : Fld := ⟨Reg.TAE_MASK_CHAN, 0, 10⟩
def Fld.TAE_MASK_CHAN_zone_n : Fld := ⟨Reg.TAE_MASK_CHAN, 16, 4⟩
def Fld.TAE_ZONE_SEL_zone : Fld := ⟨Reg.TAE_ZONE_SEL, 0, 6⟩

/-- The TAE rows. -/
def RegMap.TAE : List RegRow :=
  [ ⟨0xB0000, 1, 4, .ro, false, fun _ => 0x0⟩,
    ⟨0xB0004, 1, 4, .w1c, false, fun _ => 0x0⟩,
    ⟨0xB0008, 1, 4, .img, true, fun _ => 0xC0100⟩,
    ⟨0xB000C, 1, 4, .img, true, fun _ => 0x803E8⟩,
    ⟨0xB0010, 1, 4, .img, true, fun _ => 0x0⟩,
    ⟨0xB0014, 1, 4, .img, true, fun _ => 0x30000⟩,
    ⟨0xB0018, 1, 4, .ro, false, fun _ => 0x0⟩,
    ⟨0xB001C, 1, 4, .rc, false, fun _ => 0x0⟩,
    ⟨0xB0020, 1, 4, .rc, false, fun _ => 0x0⟩,
    ⟨0xB0024, 1, 4, .rc, false, fun _ => 0x0⟩,
    ⟨0xB0028, 1, 4, .ro, false, fun _ => 0x0⟩,
    ⟨0xB002C, 1, 4, .rt, false, fun _ => 0x0⟩,
    ⟨0xB0030, 1, 4, .img, true, fun _ => 0x0⟩,
    ⟨0xB0034, 1, 4, .img, true, fun _ => 0x0⟩,
    ⟨0xB0100, 4, 32, .img, true, fun _ => 0x0⟩,
    ⟨0xB0104, 4, 32, .img, true, fun _ => 0x0⟩,
    ⟨0xB0108, 4, 32, .ro, false, fun _ => 0x0⟩,
    ⟨0xB010C, 4, 32, .ro, false, fun _ => 0x0⟩,
    ⟨0xB0110, 4, 32, .ro, false, fun _ => 0x0⟩,
    ⟨0xB0114, 4, 32, .ro, false, fun _ => 0x0⟩,
    ⟨0xB0118, 4, 32, .ro, false, fun _ => 0x0⟩,
    ⟨0xB011C, 4, 32, .ro, false, fun _ => 0x0⟩ ]

/-! ### TIN -/

def Reg.TIN_STATUS : Nat := 0xC0000
def Reg.TIN_STICKY : Nat := 0xC0004
def Reg.TIN_FENCED : Nat := 0xC0008
def Reg.TIN_CLOCK : Nat := 0xC000C
def Reg.TIN_SLOTS : Nat := 0xC0010
def Reg.TIN_SLOT_SEL : Nat := 0xC0014
def Reg.TIN_SLOT_CFG : Nat := 0xC0018
def Reg.TIN_SLOT_LIM : Nat := 0xC001C
def Reg.TIN_SLOT_STEP : Nat := 0xC0020
def Reg.TIN_SLOT_STAT : Nat := 0xC0024
def Reg.TIN_JOBS : Nat := 0xC0028
def Reg.TIN_JOB_ERR : Nat := 0xC002C
def Reg.TIN_OVF_JOBS : Nat := 0xC0030
def Reg.TIN_LATE : Nat := 0xC0034
def Reg.TIN_DEFERRED : Nat := 0xC0038
def Reg.TIN_RERUNS : Nat := 0xC003C
def Reg.TIN_ECC_CORR : Nat := 0xC0040
def Reg.TIN_TINE_STAT (i : Nat) : Nat := 0xC0080 + 4 * i

def Fld.TIN_SLOTS_mask : Fld := ⟨Reg.TIN_SLOTS, 0, 16⟩
def Fld.TIN_SLOT_SEL_slot : Fld := ⟨Reg.TIN_SLOT_SEL, 0, 4⟩

/-- The TIN rows. -/
def RegMap.TIN : List RegRow :=
  [ ⟨0xC0000, 1, 4, .ro, false, fun _ => 0x0⟩,
    ⟨0xC0004, 1, 4, .w1c, false, fun _ => 0x0⟩,
    ⟨0xC0008, 1, 4, .ro, false, fun _ => 0x0⟩,
    ⟨0xC000C, 1, 4, .ro, false, fun _ => 0x0⟩,
    ⟨0xC0010, 1, 4, .img, true, fun _ => 0x0⟩,
    ⟨0xC0014, 1, 4, .rt, false, fun _ => 0x0⟩,
    ⟨0xC0018, 1, 4, .img, true, fun _ => 0x0⟩,
    ⟨0xC001C, 1, 4, .img, true, fun _ => 0x0⟩,
    ⟨0xC0020, 1, 4, .img, true, fun _ => 0x0⟩,
    ⟨0xC0024, 1, 4, .ro, false, fun _ => 0x0⟩,
    ⟨0xC0028, 1, 4, .rc, false, fun _ => 0x0⟩,
    ⟨0xC002C, 1, 4, .rc, false, fun _ => 0x0⟩,
    ⟨0xC0030, 1, 4, .rc, false, fun _ => 0x0⟩,
    ⟨0xC0034, 1, 4, .rc, false, fun _ => 0x0⟩,
    ⟨0xC0038, 1, 4, .rc, false, fun _ => 0x0⟩,
    ⟨0xC003C, 1, 4, .rc, false, fun _ => 0x0⟩,
    ⟨0xC0040, 1, 4, .rc, false, fun _ => 0x0⟩,
    ⟨0xC0080, 16, 4, .ro, false, fun _ => 0x0⟩ ]

/-! ### CLE -/

def Reg.CLE_STATUS : Nat := 0xD0000
def Reg.CLE_STICKY : Nat := 0xD0004
def Reg.CLE_CLAMP : Nat := 0xD0008
def Reg.CLE_CFG (i : Nat) : Nat := 0xD0100 + 32 * i
def Reg.CLE_BAND (i : Nat) : Nat := 0xD0104 + 32 * i
def Reg.CLE_INT (i : Nat) : Nat := 0xD0108 + 32 * i
def Reg.CLE_SLEW (i : Nat) : Nat := 0xD010C + 32 * i
def Reg.CLE_SPC (i : Nat) : Nat := 0xD0110 + 32 * i
def Reg.CLE_SPTO (i : Nat) : Nat := 0xD0114 + 32 * i
def Reg.CLE_VAL (i : Nat) : Nat := 0xD0118 + 32 * i
def Reg.CLE_CORR (i : Nat) : Nat := 0xD011C + 32 * i

def Fld.CLE_CFG_per (i : Nat) : Fld := ⟨Reg.CLE_CFG i, 0, 16⟩
def Fld.CLE_CFG_sp_src (i : Nat) : Fld := ⟨Reg.CLE_CFG i, 16, 2⟩
def Fld.CLE_CFG_fb_src (i : Nat) : Fld := ⟨Reg.CLE_CFG i, 18, 1⟩
def Fld.CLE_CFG_fb_aux (i : Nat) : Fld := ⟨Reg.CLE_CFG i, 19, 3⟩
def Fld.CLE_CFG_sense (i : Nat) : Fld := ⟨Reg.CLE_CFG i, 22, 1⟩
def Fld.CLE_CFG_sat_mode (i : Nat) : Fld := ⟨Reg.CLE_CFG i, 23, 1⟩
def Fld.CLE_BAND_band (i : Nat) : Fld := ⟨Reg.CLE_BAND i, 0, 16⟩
def Fld.CLE_BAND_abs_max (i : Nat) : Fld := ⟨Reg.CLE_BAND i, 16, 16⟩
def Fld.CLE_INT_ki (i : Nat) : Fld := ⟨Reg.CLE_INT i, 0, 16⟩
def Fld.CLE_INT_i_clamp (i : Nat) : Fld := ⟨Reg.CLE_INT i, 16, 16⟩
def Fld.CLE_SLEW_slew (i : Nat) : Fld := ⟨Reg.CLE_SLEW i, 0, 24⟩
def Fld.CLE_SPC_sp_const (i : Nat) : Fld := ⟨Reg.CLE_SPC i, 0, 16⟩
def Fld.CLE_SPC_sp_fail (i : Nat) : Fld := ⟨Reg.CLE_SPC i, 16, 16⟩
def Fld.CLE_SPTO_sp_timeout (i : Nat) : Fld := ⟨Reg.CLE_SPTO i, 0, 16⟩

/-- The CLE rows. -/
def RegMap.CLE : List RegRow :=
  [ ⟨0xD0000, 1, 4, .ro, false, fun _ => 0x0⟩,
    ⟨0xD0004, 1, 4, .w1c, false, fun _ => 0x0⟩,
    ⟨0xD0008, 1, 4, .ro, false, fun _ => 0x0⟩,
    ⟨0xD0100, 8, 32, .img, true, fun _ => 0x0⟩,
    ⟨0xD0104, 8, 32, .img, true, fun _ => 0x0⟩,
    ⟨0xD0108, 8, 32, .img, true, fun _ => 0x0⟩,
    ⟨0xD010C, 8, 32, .img, true, fun _ => 0x0⟩,
    ⟨0xD0110, 8, 32, .img, true, fun _ => 0x0⟩,
    ⟨0xD0114, 8, 32, .img, true, fun _ => 0x0⟩,
    ⟨0xD0118, 8, 32, .ro, false, fun _ => 0x0⟩,
    ⟨0xD011C, 8, 32, .ro, false, fun _ => 0x0⟩ ]

/-! ### ASF -/

def Reg.ASF_STATUS : Nat := 0xE0000
def Reg.ASF_STICKY : Nat := 0xE0004
def Reg.ASF_SCHED : Nat := 0xE0008
def Reg.ASF_REF_RES : Nat := 0xE000C
def Reg.ASF_SLOTS (i : Nat) : Nat := 0xE0010 + 4 * i
def Reg.ASF_OPEN_COUNT : Nat := 0xE0020
def Reg.ASF_CFG (i : Nat) : Nat := 0xE0100 + 32 * i
def Reg.ASF_LIN (i : Nat) : Nat := 0xE0104 + 32 * i
def Reg.ASF_LIN2 (i : Nat) : Nat := 0xE0108 + 32 * i
def Reg.ASF_VALUE (i : Nat) : Nat := 0xE010C + 32 * i
def Reg.ASF_RAIL (i : Nat) : Nat := 0xE0110 + 32 * i
def Reg.ASF_SUSP (i : Nat) : Nat := 0xE0114 + 32 * i

def Fld.ASF_SCHED_n_slot : Fld := ⟨Reg.ASF_SCHED, 0, 6⟩
def Fld.ASF_SCHED_ts : Fld := ⟨Reg.ASF_SCHED, 8, 3⟩
def Fld.ASF_REF_RES_ref_res : Fld := ⟨Reg.ASF_REF_RES, 0, 24⟩
def Fld.ASF_CFG_mode (i : Nat) : Fld := ⟨Reg.ASF_CFG i, 0, 3⟩
def Fld.ASF_CFG_lin (i : Nat) : Fld := ⟨Reg.ASF_CFG i, 4, 2⟩
def Fld.ASF_CFG_iexc (i : Nat) : Fld := ⟨Reg.ASF_CFG i, 8, 3⟩
def Fld.ASF_CFG_g (i : Nat) : Fld := ⟨Reg.ASF_CFG i, 12, 3⟩
def Fld.ASF_CFG_bo_en (i : Nat) : Fld := ⟨Reg.ASF_CFG i, 16, 1⟩
def Fld.ASF_CFG_hk (i : Nat) : Fld := ⟨Reg.ASF_CFG i, 17, 1⟩
def Fld.ASF_CFG_auto_range (i : Nat) : Fld := ⟨Reg.ASF_CFG i, 18, 1⟩
def Fld.ASF_CFG_range (i : Nat) : Fld := ⟨Reg.ASF_CFG i, 20, 2⟩
def Fld.ASF_CFG_cr_hold (i : Nat) : Fld := ⟨Reg.ASF_CFG i, 24, 8⟩
def Fld.ASF_LIN_r_nom (i : Nat) : Fld := ⟨Reg.ASF_LIN i, 0, 20⟩
def Fld.ASF_LIN2_beta (i : Nat) : Fld := ⟨Reg.ASF_LIN2 i, 0, 16⟩
def Fld.ASF_LIN2_lead_corr (i : Nat) : Fld := ⟨Reg.ASF_LIN2 i, 16, 16⟩

/-- The ASF rows. -/
def RegMap.ASF : List RegRow :=
  [ ⟨0xE0000, 1, 4, .ro, false, fun _ => 0x0⟩,
    ⟨0xE0004, 1, 4, .w1c, false, fun _ => 0x0⟩,
    ⟨0xE0008, 1, 4, .img, false, fun _ => 0x0⟩,
    ⟨0xE000C, 1, 4, .img, false, fun _ => 0x0⟩,
    ⟨0xE0010, 4, 4, .img, false, fun _ => 0x0⟩,
    ⟨0xE0020, 1, 4, .rc, false, fun _ => 0x0⟩,
    ⟨0xE0100, 8, 32, .img, false, fun _ => 0x0⟩,
    ⟨0xE0104, 8, 32, .img, false, fun _ => 0x0⟩,
    ⟨0xE0108, 8, 32, .img, false, fun _ => 0x0⟩,
    ⟨0xE010C, 8, 32, .ro, false, fun _ => 0x0⟩,
    ⟨0xE0110, 8, 32, .ro, false, fun _ => 0x0⟩,
    ⟨0xE0114, 8, 32, .rc, false, fun _ => 0x0⟩ ]

/-! ### MCD -/

def Reg.MCD_STATUS : Nat := 0xF0000
def Reg.MCD_STICKY : Nat := 0xF0004
def Reg.MCD_NBIND : Nat := 0xF0008
def Reg.MCD_BIND_SEL : Nat := 0xF000C
def Reg.MCD_BIND_CFG : Nat := 0xF0010
def Reg.MCD_BIND_RESTART : Nat := 0xF0014
def Reg.MCD_BIND_STAT : Nat := 0xF0018
def Reg.MCD_IN_KIB : Nat := 0xF001C
def Reg.MCD_OUT_KIB : Nat := 0xF0020
def Reg.MCD_RAW_BLOCKS : Nat := 0xF0024
def Reg.MCD_NOSHRINK : Nat := 0xF0028
def Reg.MCD_RESTARTS : Nat := 0xF002C
def Reg.MCD_VERIFY_FAIL : Nat := 0xF0030
def Reg.MCD_ECC_CORR : Nat := 0xF0034

def Fld.MCD_NBIND_nbind : Fld := ⟨Reg.MCD_NBIND, 0, 6⟩
def Fld.MCD_BIND_SEL_binding : Fld := ⟨Reg.MCD_BIND_SEL, 0, 5⟩
def Fld.MCD_BIND_CFG_source : Fld := ⟨Reg.MCD_BIND_CFG, 0, 6⟩
def Fld.MCD_BIND_CFG_stream : Fld := ⟨Reg.MCD_BIND_CFG, 8, 6⟩
def Fld.MCD_BIND_CFG_mode : Fld := ⟨Reg.MCD_BIND_CFG, 16, 3⟩
def Fld.MCD_BIND_CFG_stride : Fld := ⟨Reg.MCD_BIND_CFG, 20, 2⟩
def Fld.MCD_BIND_RESTART_restart_items : Fld := ⟨Reg.MCD_BIND_RESTART, 0, 16⟩

/-- The MCD rows. -/
def RegMap.MCD : List RegRow :=
  [ ⟨0xF0000, 1, 4, .ro, false, fun _ => 0x0⟩,
    ⟨0xF0004, 1, 4, .w1c, false, fun _ => 0x0⟩,
    ⟨0xF0008, 1, 4, .img, true, fun _ => 0x0⟩,
    ⟨0xF000C, 1, 4, .rt, false, fun _ => 0x0⟩,
    ⟨0xF0010, 1, 4, .img, true, fun _ => 0x0⟩,
    ⟨0xF0014, 1, 4, .img, true, fun _ => 0x0⟩,
    ⟨0xF0018, 1, 4, .ro, false, fun _ => 0x0⟩,
    ⟨0xF001C, 1, 4, .rc, false, fun _ => 0x0⟩,
    ⟨0xF0020, 1, 4, .rc, false, fun _ => 0x0⟩,
    ⟨0xF0024, 1, 4, .rc, false, fun _ => 0x0⟩,
    ⟨0xF0028, 1, 4, .rc, false, fun _ => 0x0⟩,
    ⟨0xF002C, 1, 4, .rc, false, fun _ => 0x0⟩,
    ⟨0xF0030, 1, 4, .rc, false, fun _ => 0x0⟩,
    ⟨0xF0034, 1, 4, .rc, false, fun _ => 0x0⟩ ]

/-! ### QSY -/

def Reg.QSY_STATUS : Nat := 0x100000
def Reg.QSY_STICKY : Nat := 0x100004
def Reg.QSY_POOL : Nat := 0x100008
def Reg.QSY_STALL_CFG : Nat := 0x10000C
def Reg.QSY_PARITY : Nat := 0x100010
def Reg.QSY_FLUSHED : Nat := 0x100014
def Reg.QSY_GROUP_SEL : Nat := 0x100018
def Reg.QSY_GROUP_DEPTH : Nat := 0x10001C
def Reg.QSY_GROUP_LOST : Nat := 0x100020
def Reg.QSY_GROUP_HWM : Nat := 0x100024
def Reg.QSY_GROUP_STALL : Nat := 0x100028

def Fld.QSY_STALL_CFG_stall_us : Fld := ⟨Reg.QSY_STALL_CFG, 0, 16⟩
def Fld.QSY_GROUP_SEL_group : Fld := ⟨Reg.QSY_GROUP_SEL, 0, 4⟩
def Fld.QSY_GROUP_DEPTH_depth : Fld := ⟨Reg.QSY_GROUP_DEPTH, 0, 17⟩

/-- The QSY rows. -/
def RegMap.QSY : List RegRow :=
  [ ⟨0x100000, 1, 4, .ro, false, fun _ => 0x0⟩,
    ⟨0x100004, 1, 4, .w1c, false, fun _ => 0x0⟩,
    ⟨0x100008, 1, 4, .ro, false, fun _ => 0x6A200⟩,
    ⟨0x10000C, 1, 4, .img, false, fun _ => 0x64⟩,
    ⟨0x100010, 1, 4, .rc, false, fun _ => 0x0⟩,
    ⟨0x100014, 1, 4, .rc, false, fun _ => 0x0⟩,
    ⟨0x100018, 1, 4, .rt, false, fun _ => 0x0⟩,
    ⟨0x10001C, 1, 4, .img, true, fun _ => 0x20⟩,
    ⟨0x100020, 1, 4, .rc, false, fun _ => 0x0⟩,
    ⟨0x100024, 1, 4, .rc, false, fun _ => 0x0⟩,
    ⟨0x100028, 1, 4, .rc, false, fun _ => 0x0⟩ ]

/-! ### ALA -/

def Reg.ALA_STATUS : Nat := 0x110000
def Reg.ALA_STICKY : Nat := 0x110004
def Reg.ALA_EPOCH : Nat := 0x110008
def Reg.ALA_DIGEST : Nat := 0x11000C
def Reg.ALA_EPOCH_GRANT (i : Nat) : Nat := 0x110010 + 4 * i
def Reg.ALA_CEILING : Nat := 0x110020
def Reg.ALA_BUDGET : Nat := 0x110024
def Reg.ALA_TOTAL : Nat := 0x110028
def Reg.ALA_CFG : Nat := 0x11002C
def Reg.ALA_FLOORS : Nat := 0x110030
def Reg.ALA_EMITTER : Nat := 0x110034
def Reg.ALA_PARK_ORDER0 : Nat := 0x110038
def Reg.ALA_PARK_ORDER1 : Nat := 0x11003C
def Reg.ALA_SHOT_TAB (i : Nat) : Nat := 0x110040 + 4 * i
def Reg.ALA_SCHED : Nat := 0x110050
def Reg.ALA_LATE : Nat := 0x110054
def Reg.ALA_OVER : Nat := 0x110058
def Reg.ALA_DEPART : Nat := 0x11005C
def Reg.ALA_PLOT_EST (i : Nat) : Nat := 0x110060 + 4 * i
def Reg.ALA_RAIL_LIM (i : Nat) : Nat := 0x110090 + 4 * i
def Reg.ALA_RAIL_EST (i : Nat) : Nat := 0x1100A4 + 4 * i

def Fld.ALA_CEILING_p_ceiling : Fld := ⟨Reg.ALA_CEILING, 0, 9⟩
def Fld.ALA_CFG_margin : Fld := ⟨Reg.ALA_CFG, 0, 8⟩
def Fld.ALA_CFG_thr_step : Fld := ⟨Reg.ALA_CFG, 8, 8⟩
def Fld.ALA_CFG_t_thr : Fld := ⟨Reg.ALA_CFG, 16, 8⟩
def Fld.ALA_FLOORS_pcie_max : Fld := ⟨Reg.ALA_FLOORS, 0, 2⟩
def Fld.ALA_FLOORS_link_max : Fld := ⟨Reg.ALA_FLOORS, 2, 2⟩
def Fld.ALA_FLOORS_tine_max : Fld := ⟨Reg.ALA_FLOORS, 4, 2⟩
def Fld.ALA_FLOORS_tone_max : Fld := ⟨Reg.ALA_FLOORS, 6, 2⟩
def Fld.ALA_FLOORS_shot_max : Fld := ⟨Reg.ALA_FLOORS, 8, 3⟩
def Fld.ALA_FLOORS_strip_max : Fld := ⟨Reg.ALA_FLOORS, 12, 3⟩
def Fld.ALA_FLOORS_defer_en : Fld := ⟨Reg.ALA_FLOORS, 16, 5⟩
def Fld.ALA_EMITTER_em_aux : Fld := ⟨Reg.ALA_EMITTER, 0, 3⟩
def Fld.ALA_EMITTER_em_en : Fld := ⟨Reg.ALA_EMITTER, 3, 1⟩
def Fld.ALA_EMITTER_em_knee : Fld := ⟨Reg.ALA_EMITTER, 8, 8⟩
def Fld.ALA_EMITTER_em_step : Fld := ⟨Reg.ALA_EMITTER, 16, 8⟩
def Fld.ALA_RAIL_LIM_limit (i : Nat) : Fld := ⟨Reg.ALA_RAIL_LIM i, 0, 10⟩

/-- The ALA rows. -/
def RegMap.ALA : List RegRow :=
  [ ⟨0x110000, 1, 4, .ro, false, fun _ => 0x0⟩,
    ⟨0x110004, 1, 4, .w1c, false, fun _ => 0x0⟩,
    ⟨0x110008, 1, 4, .ro, false, fun _ => 0x0⟩,
    ⟨0x11000C, 1, 4, .ro, false, fun _ => 0x0⟩,
    ⟨0x110010, 4, 4, .ro, false, fun _ => 0x0⟩,
    ⟨0x110020, 1, 4, .img, false, fun _ => 0x1E0⟩,
    ⟨0x110024, 1, 4, .ro, false, fun _ => 0x1E0⟩,
    ⟨0x110028, 1, 4, .ro, false, fun _ => 0x0⟩,
    ⟨0x11002C, 1, 4, .img, false, fun _ => 0x760808⟩,
    ⟨0x110030, 1, 4, .img, false, fun _ => 0x1F47FF⟩,
    ⟨0x110034, 1, 4, .img, false, fun _ => 0x0⟩,
    ⟨0x110038, 1, 4, .img, false, fun _ => 0x3C2D1E0F⟩,
    ⟨0x11003C, 1, 4, .img, false, fun _ => 0x78695A4B⟩,
    ⟨0x110040, 4, 4, .img, false, fun i => [0x1800200, 0x1000140, 0x8000C0, 0x400060].getD i 0⟩,
    ⟨0x110050, 1, 4, .ro, false, fun _ => 0x0⟩,
    ⟨0x110054, 1, 4, .rc, false, fun _ => 0x0⟩,
    ⟨0x110058, 1, 4, .rc, false, fun _ => 0x0⟩,
    ⟨0x11005C, 1, 4, .rc, false, fun _ => 0x0⟩,
    ⟨0x110060, 12, 4, .ro, false, fun _ => 0x0⟩,
    ⟨0x110090, 5, 4, .img, false, fun i => [0x200, 0x28, 0x70, 0x20, 0x38].getD i 0⟩,
    ⟨0x1100A4, 5, 4, .ro, false, fun _ => 0x0⟩ ]

/-! ### HKP -/

def Reg.HKP_STATUS : Nat := 0x120000
def Reg.HKP_STICKY : Nat := 0x120004
def Reg.HKP_TJ : Nat := 0x120008
def Reg.HKP_ROUND : Nat := 0x12000C
def Reg.HKP_STOP_CAUSE : Nat := 0x120010
def Reg.HKP_SENSOR_FAULTS : Nat := 0x120014
def Reg.HKP_SUP_WARN : Nat := 0x120018
def Reg.HKP_HK_AUX : Nat := 0x12001C
def Reg.HKP_NBHD (i : Nat) : Nat := 0x120020 + 4 * i
def Reg.HKP_TS (i : Nat) : Nat := 0x120040 + 4 * i
def Reg.HKP_SUP (i : Nat) : Nat := 0x1200A0 + 4 * i


/-- The HKP rows. -/
def RegMap.HKP : List RegRow :=
  [ ⟨0x120000, 1, 4, .ro, false, fun _ => 0x0⟩,
    ⟨0x120004, 1, 4, .w1c, false, fun _ => 0x0⟩,
    ⟨0x120008, 1, 4, .ro, false, fun _ => 0x0⟩,
    ⟨0x12000C, 1, 4, .ro, false, fun _ => 0x0⟩,
    ⟨0x120010, 1, 4, .ro, false, fun _ => 0x0⟩,
    ⟨0x120014, 1, 4, .rc, false, fun _ => 0x0⟩,
    ⟨0x120018, 1, 4, .rc, false, fun _ => 0x0⟩,
    ⟨0x12001C, 1, 4, .ro, false, fun _ => 0x0⟩,
    ⟨0x120020, 8, 4, .ro, false, fun _ => 0x0⟩,
    ⟨0x120040, 24, 4, .ro, false, fun _ => 0x0⟩,
    ⟨0x1200A0, 12, 4, .ro, false, fun _ => 0x0⟩ ]

/-! ### PLK -/

def Reg.PLK_STATUS : Nat := 0x130000
def Reg.PLK_STICKY : Nat := 0x130004
def Reg.PLK_CABLE_UP : Nat := 0x130008
def Reg.PLK_CABLE_DN : Nat := 0x13000C
def Reg.PLK_FAULT_CFG : Nat := 0x130010
def Reg.PLK_LANE_MAP : Nat := 0x130014
def Reg.PLK_LOST : Nat := 0x130018
def Reg.PLK_POISONED : Nat := 0x13001C
def Reg.PLK_CREDIT_WAIT : Nat := 0x130020
def Reg.PLK_LANE_STAT (i : Nat) : Nat := 0x130040 + 16 * i
def Reg.PLK_FEC_CORR (i : Nat) : Nat := 0x130044 + 16 * i
def Reg.PLK_FEC_UNCORR (i : Nat) : Nat := 0x130048 + 16 * i
def Reg.PLK_LENGTH (i : Nat) : Nat := 0x13004C + 16 * i

def Fld.PLK_CABLE_UP_type : Fld := ⟨Reg.PLK_CABLE_UP, 0, 2⟩
def Fld.PLK_CABLE_UP_coef : Fld := ⟨Reg.PLK_CABLE_UP, 2, 14⟩
def Fld.PLK_CABLE_UP_fixed : Fld := ⟨Reg.PLK_CABLE_UP, 16, 8⟩
def Fld.PLK_CABLE_UP_asym : Fld := ⟨Reg.PLK_CABLE_UP, 24, 8⟩
def Fld.PLK_CABLE_DN_type : Fld := ⟨Reg.PLK_CABLE_DN, 0, 2⟩
def Fld.PLK_CABLE_DN_coef : Fld := ⟨Reg.PLK_CABLE_DN, 2, 14⟩
def Fld.PLK_CABLE_DN_fixed : Fld := ⟨Reg.PLK_CABLE_DN, 16, 8⟩
def Fld.PLK_CABLE_DN_asym : Fld := ⟨Reg.PLK_CABLE_DN, 24, 8⟩
def Fld.PLK_FAULT_CFG_fec_thr : Fld := ⟨Reg.PLK_FAULT_CFG, 0, 16⟩
def Fld.PLK_FAULT_CFG_retrain_max : Fld := ⟨Reg.PLK_FAULT_CFG, 16, 8⟩

/-- The PLK rows. -/
def RegMap.PLK : List RegRow :=
  [ ⟨0x130000, 1, 4, .ro, false, fun _ => 0x0⟩,
    ⟨0x130004, 1, 4, .w1c, false, fun _ => 0x0⟩,
    ⟨0x130008, 1, 4, .img, true, fun _ => 0x0⟩,
    ⟨0x13000C, 1, 4, .img, true, fun _ => 0x0⟩,
    ⟨0x130010, 1, 4, .img, true, fun _ => 0x0⟩,
    ⟨0x130014, 1, 4, .ro, false, fun _ => 0x0⟩,
    ⟨0x130018, 1, 4, .rc, false, fun _ => 0x0⟩,
    ⟨0x13001C, 1, 4, .rc, false, fun _ => 0x0⟩,
    ⟨0x130020, 1, 4, .rc, false, fun _ => 0x0⟩,
    ⟨0x130040, 8, 16, .ro, false, fun _ => 0x0⟩,
    ⟨0x130044, 8, 16, .rc, false, fun _ => 0x0⟩,
    ⟨0x130048, 8, 16, .rc, false, fun _ => 0x0⟩,
    ⟨0x13004C, 8, 16, .ro, false, fun _ => 0x0⟩ ]

/-! ### TRL -/

def Reg.TRL_STATUS : Nat := 0x140000
def Reg.TRL_STICKY : Nat := 0x140004
def Reg.TRL_CFG : Nat := 0x140008
def Reg.TRL_MERGE_CFG : Nat := 0x14000C
def Reg.TRL_ROLE : Nat := 0x140010
def Reg.TRL_TRIM : Nat := 0x140014
def Reg.TRL_RESIDUAL : Nat := 0x140018
def Reg.TRL_HOP_DELAY : Nat := 0x14001C
def Reg.TRL_MERGE_LATE : Nat := 0x140020
def Reg.TRL_ATTEST_FAIL : Nat := 0x140024
def Reg.TRL_PART_SEL : Nat := 0x140028
def Reg.TRL_PART_UID_LO : Nat := 0x14002C
def Reg.TRL_PART_UID_HI : Nat := 0x140030
def Reg.TRL_PART_STAT : Nat := 0x140034
def Reg.TRL_PART_JOIN : Nat := 0x140038
def Reg.TRL_PART_CAP : Nat := 0x14003C

def Fld.TRL_CFG_n_expect : Fld := ⟨Reg.TRL_CFG, 0, 5⟩
def Fld.TRL_CFG_graft_en : Fld := ⟨Reg.TRL_CFG, 5, 1⟩
def Fld.TRL_CFG_align_max : Fld := ⟨Reg.TRL_CFG, 8, 8⟩
def Fld.TRL_CFG_start_lead : Fld := ⟨Reg.TRL_CFG, 16, 8⟩
def Fld.TRL_MERGE_CFG_merge_wait : Fld := ⟨Reg.TRL_MERGE_CFG, 0, 16⟩
def Fld.TRL_ROLE_role : Fld := ⟨Reg.TRL_ROLE, 0, 16⟩
def Fld.TRL_PART_SEL_addr : Fld := ⟨Reg.TRL_PART_SEL, 0, 4⟩

/-- The TRL rows. -/
def RegMap.TRL : List RegRow :=
  [ ⟨0x140000, 1, 4, .ro, false, fun _ => 0x0⟩,
    ⟨0x140004, 1, 4, .w1c, false, fun _ => 0x0⟩,
    ⟨0x140008, 1, 4, .img, true, fun _ => 0x0⟩,
    ⟨0x14000C, 1, 4, .img, true, fun _ => 0x0⟩,
    ⟨0x140010, 1, 4, .img, true, fun _ => 0x0⟩,
    ⟨0x140014, 1, 4, .ro, false, fun _ => 0x0⟩,
    ⟨0x140018, 1, 4, .ro, false, fun _ => 0x0⟩,
    ⟨0x14001C, 1, 4, .ro, false, fun _ => 0x0⟩,
    ⟨0x140020, 1, 4, .rc, false, fun _ => 0x0⟩,
    ⟨0x140024, 1, 4, .rc, false, fun _ => 0x0⟩,
    ⟨0x140028, 1, 4, .rt, false, fun _ => 0x0⟩,
    ⟨0x14002C, 1, 4, .ro, false, fun _ => 0x0⟩,
    ⟨0x140030, 1, 4, .ro, false, fun _ => 0x0⟩,
    ⟨0x140034, 1, 4, .ro, false, fun _ => 0x0⟩,
    ⟨0x140038, 1, 4, .ro, false, fun _ => 0x0⟩,
    ⟨0x14003C, 1, 4, .ro, false, fun _ => 0x0⟩ ]

/-! ### CLO -/

def Reg.CLO_STATUS : Nat := 0x150000
def Reg.CLO_STICKY : Nat := 0x150004
def Reg.CLO_CHAIN_SEL : Nat := 0x150008
def Reg.CLO_CHAIN_STAT : Nat := 0x15000C
def Reg.CLO_SI_LEVEL : Nat := 0x150010
def Reg.CLO_SI_FAULT : Nat := 0x150014
def Reg.CLO_FIELD_STAT : Nat := 0x150018
def Reg.CLO_ZONE_LO : Nat := 0x15001C
def Reg.CLO_ZONE_HI : Nat := 0x150020
def Reg.CLO_BC_STAT : Nat := 0x150024
def Reg.CLO_BC_ERR : Nat := 0x150028
def Reg.CLO_LOG_COUNT : Nat := 0x15002C
def Reg.CLO_PW_LOCK : Nat := 0x150030
def Reg.CLO_RESET_COUNT : Nat := 0x150034
def Reg.CLO_BRAKE_STAT : Nat := 0x150038
def Reg.CLO_OUT_STAT (i : Nat) : Nat := 0x150040 + 4 * i
def Reg.CLO_TEST_AGE (i : Nat) : Nat := 0x150050 + 4 * i

def Fld.CLO_CHAIN_SEL_chain : Fld := ⟨Reg.CLO_CHAIN_SEL, 0, 3⟩

/-- The CLO rows. -/
def RegMap.CLO : List RegRow :=
  [ ⟨0x150000, 1, 4, .ro, false, fun _ => 0x0⟩,
    ⟨0x150004, 1, 4, .w1c, false, fun _ => 0x0⟩,
    ⟨0x150008, 1, 4, .rt, false, fun _ => 0x0⟩,
    ⟨0x15000C, 1, 4, .ro, false, fun _ => 0x0⟩,
    ⟨0x150010, 1, 4, .ro, false, fun _ => 0x0⟩,
    ⟨0x150014, 1, 4, .ro, false, fun _ => 0x0⟩,
    ⟨0x150018, 1, 4, .ro, false, fun _ => 0x0⟩,
    ⟨0x15001C, 1, 4, .ro, false, fun _ => 0x0⟩,
    ⟨0x150020, 1, 4, .ro, false, fun _ => 0x0⟩,
    ⟨0x150024, 1, 4, .ro, false, fun _ => 0x0⟩,
    ⟨0x150028, 1, 4, .rc, false, fun _ => 0x0⟩,
    ⟨0x15002C, 1, 4, .ro, false, fun _ => 0x0⟩,
    ⟨0x150030, 1, 4, .ro, false, fun _ => 0x0⟩,
    ⟨0x150034, 1, 4, .rc, false, fun _ => 0x0⟩,
    ⟨0x150038, 1, 4, .ro, false, fun _ => 0x0⟩,
    ⟨0x150040, 4, 4, .ro, false, fun _ => 0x0⟩,
    ⟨0x150050, 4, 4, .ro, false, fun _ => 0x0⟩ ]

/-! ### FCL -/

def Reg.FCL_STATUS : Nat := 0x160000
def Reg.FCL_STICKY : Nat := 0x160004
def Reg.FCL_CFG : Nat := 0x160008
def Reg.FCL_FATAL_CAUSE : Nat := 0x16000C
def Reg.FCL_FATAL_STAMP_LO : Nat := 0x160010
def Reg.FCL_FATAL_STAMP_HI : Nat := 0x160014
def Reg.FCL_CORR_COUNT : Nat := 0x160018
def Reg.FCL_CONT_COUNT : Nat := 0x16001C
def Reg.FCL_FATAL_COUNT : Nat := 0x160020
def Reg.FCL_LOG_LOST : Nat := 0x160024
def Reg.FCL_LOG_HEAD : Nat := 0x160028
def Reg.FCL_LOG_SEL : Nat := 0x16002C
def Reg.FCL_LOG_DATA (i : Nat) : Nat := 0x160030 + 4 * i
def Reg.FCL_FENCED (i : Nat) : Nat := 0x160040 + 4 * i
def Reg.FCL_CAUSE (i : Nat) : Nat := 0x160050 + 4 * i
def Reg.FCL_GRAFT_STAT : Nat := 0x160060
def Reg.FCL_ERR_PAD : Nat := 0x160064

def Fld.FCL_CFG_err_contained : Fld := ⟨Reg.FCL_CFG, 0, 1⟩
def Fld.FCL_LOG_SEL_entry : Fld := ⟨Reg.FCL_LOG_SEL, 0, 8⟩

/-- The FCL rows. -/
def RegMap.FCL : List RegRow :=
  [ ⟨0x160000, 1, 4, .ro, false, fun _ => 0x1⟩,
    ⟨0x160004, 1, 4, .w1c, false, fun _ => 0x0⟩,
    ⟨0x160008, 1, 4, .img, false, fun _ => 0x0⟩,
    ⟨0x16000C, 1, 4, .ro, false, fun _ => 0x0⟩,
    ⟨0x160010, 1, 4, .ro, false, fun _ => 0x0⟩,
    ⟨0x160014, 1, 4, .ro, false, fun _ => 0x0⟩,
    ⟨0x160018, 1, 4, .rc, false, fun _ => 0x0⟩,
    ⟨0x16001C, 1, 4, .rc, false, fun _ => 0x0⟩,
    ⟨0x160020, 1, 4, .rc, false, fun _ => 0x0⟩,
    ⟨0x160024, 1, 4, .rc, false, fun _ => 0x0⟩,
    ⟨0x160028, 1, 4, .ro, false, fun _ => 0x0⟩,
    ⟨0x16002C, 1, 4, .rt, false, fun _ => 0x0⟩,
    ⟨0x160030, 4, 4, .ro, false, fun _ => 0x0⟩,
    ⟨0x160040, 3, 4, .ro, false, fun _ => 0x0⟩,
    ⟨0x160050, 3, 4, .ro, false, fun _ => 0x0⟩,
    ⟨0x160060, 1, 4, .ro, false, fun _ => 0x0⟩,
    ⟨0x160064, 1, 4, .ro, false, fun _ => 0x0⟩ ]

/-! ### HIF -/

def Reg.HIF_STATUS : Nat := 0x170000
def Reg.HIF_STICKY : Nat := 0x170004
def Reg.HIF_REJECT : Nat := 0x170008
def Reg.HIF_UR_COUNT : Nat := 0x17000C
def Reg.HIF_ORDER_STAT : Nat := 0x170010
def Reg.HIF_CONFLICTS : Nat := 0x170014
def Reg.HIF_EVT_SUMMARY : Nat := 0x170018
def Reg.HIF_BC_CFG : Nat := 0x170020
def Reg.HIF_IRQ_MOD : Nat := 0x170024
def Reg.HIF_EVT_PEND (i : Nat) : Nat := 0x170040 + 4 * i
def Reg.HIF_STREAM_MAP (i : Nat) : Nat := 0x170080 + 4 * i
def Reg.HIF_C2H_RING_LO (i : Nat) : Nat := 0x170400 + 64 * i
def Reg.HIF_H2C_RING_LO (i : Nat) : Nat := 0x170800 + 64 * i
def Reg.HIF_C2H_RING_HI (i : Nat) : Nat := 0x170404 + 64 * i
def Reg.HIF_H2C_RING_HI (i : Nat) : Nat := 0x170804 + 64 * i
def Reg.HIF_C2H_CPL_LO (i : Nat) : Nat := 0x170408 + 64 * i
def Reg.HIF_H2C_CPL_LO (i : Nat) : Nat := 0x170808 + 64 * i
def Reg.HIF_C2H_CPL_HI (i : Nat) : Nat := 0x17040C + 64 * i
def Reg.HIF_H2C_CPL_HI (i : Nat) : Nat := 0x17080C + 64 * i
def Reg.HIF_C2H_CTRL (i : Nat) : Nat := 0x170410 + 64 * i
def Reg.HIF_H2C_CTRL (i : Nat) : Nat := 0x170810 + 64 * i
def Reg.HIF_C2H_PROD (i : Nat) : Nat := 0x170414 + 64 * i
def Reg.HIF_H2C_PROD (i : Nat) : Nat := 0x170814 + 64 * i
def Reg.HIF_C2H_CONS (i : Nat) : Nat := 0x170418 + 64 * i
def Reg.HIF_H2C_CONS (i : Nat) : Nat := 0x170818 + 64 * i
def Reg.HIF_C2H_STAT (i : Nat) : Nat := 0x17041C + 64 * i
def Reg.HIF_H2C_STAT (i : Nat) : Nat := 0x17081C + 64 * i
def Reg.HIF_C2H_DISCARD (i : Nat) : Nat := 0x170420 + 64 * i
def Reg.HIF_C2H_KIB (i : Nat) : Nat := 0x170424 + 64 * i
def Reg.HIF_H2C_KIB (i : Nat) : Nat := 0x170824 + 64 * i
def Reg.HIF_EVT_MAP (i : Nat) : Nat := 0x171000 + 4 * i

def Fld.HIF_BC_CFG_vector : Fld := ⟨Reg.HIF_BC_CFG, 0, 6⟩
def Fld.HIF_BC_CFG_enable : Fld := ⟨Reg.HIF_BC_CFG, 8, 1⟩
def Fld.HIF_IRQ_MOD_irq_mod : Fld := ⟨Reg.HIF_IRQ_MOD, 0, 16⟩
def Fld.HIF_STREAM_MAP_source (i : Nat) : Fld := ⟨Reg.HIF_STREAM_MAP i, 0, 6⟩
def Fld.HIF_STREAM_MAP_stream (i : Nat) : Fld := ⟨Reg.HIF_STREAM_MAP i, 8, 6⟩
def Fld.HIF_STREAM_MAP_c2h (i : Nat) : Fld := ⟨Reg.HIF_STREAM_MAP i, 16, 4⟩
def Fld.HIF_STREAM_MAP_enable (i : Nat) : Fld := ⟨Reg.HIF_STREAM_MAP i, 20, 1⟩
def Fld.HIF_STREAM_MAP_any_unit (i : Nat) : Fld := ⟨Reg.HIF_STREAM_MAP i, 21, 1⟩
def Fld.HIF_C2H_CTRL_size_log2 (i : Nat) : Fld := ⟨Reg.HIF_C2H_CTRL i, 0, 5⟩
def Fld.HIF_C2H_CTRL_vector (i : Nat) : Fld := ⟨Reg.HIF_C2H_CTRL i, 8, 6⟩
def Fld.HIF_C2H_CTRL_close_us (i : Nat) : Fld := ⟨Reg.HIF_C2H_CTRL i, 16, 16⟩
def Fld.HIF_C2H_PROD_prod (i : Nat) : Fld := ⟨Reg.HIF_C2H_PROD i, 0, 16⟩
def Fld.HIF_H2C_PROD_prod (i : Nat) : Fld := ⟨Reg.HIF_H2C_PROD i, 0, 16⟩
def Fld.HIF_EVT_MAP_vector (i : Nat) : Fld := ⟨Reg.HIF_EVT_MAP i, 0, 6⟩
def Fld.HIF_EVT_MAP_enable (i : Nat) : Fld := ⟨Reg.HIF_EVT_MAP i, 8, 1⟩

/-- The HIF rows. -/
def RegMap.HIF : List RegRow :=
  [ ⟨0x170000, 1, 4, .ro, false, fun _ => 0x0⟩,
    ⟨0x170004, 1, 4, .w1c, false, fun _ => 0x0⟩,
    ⟨0x170008, 1, 4, .rc, false, fun _ => 0x0⟩,
    ⟨0x17000C, 1, 4, .rc, false, fun _ => 0x0⟩,
    ⟨0x170010, 1, 4, .ro, false, fun _ => 0x0⟩,
    ⟨0x170014, 1, 4, .rc, false, fun _ => 0x0⟩,
    ⟨0x170018, 1, 4, .ro, false, fun _ => 0x0⟩,
    ⟨0x170020, 1, 4, .rt, false, fun _ => 0x13⟩,
    ⟨0x170024, 1, 4, .rt, false, fun _ => 0x0⟩,
    ⟨0x170040, 10, 4, .w1c, false, fun _ => 0x0⟩,
    ⟨0x170080, 64, 4, .img, false, fun _ => 0x0⟩,
    ⟨0x170400, 16, 64, .rt, false, fun _ => 0x0⟩,
    ⟨0x170800, 2, 64, .rt, false, fun _ => 0x0⟩,
    ⟨0x170404, 16, 64, .rt, false, fun _ => 0x0⟩,
    ⟨0x170804, 2, 64, .rt, false, fun _ => 0x0⟩,
    ⟨0x170408, 16, 64, .rt, false, fun _ => 0x0⟩,
    ⟨0x170808, 2, 64, .rt, false, fun _ => 0x0⟩,
    ⟨0x17040C, 16, 64, .rt, false, fun _ => 0x0⟩,
    ⟨0x17080C, 2, 64, .rt, false, fun _ => 0x0⟩,
    ⟨0x170410, 16, 64, .rt, false, fun i => i * 256⟩,
    ⟨0x170810, 2, 64, .rt, false, fun i => i * 256⟩,
    ⟨0x170414, 16, 64, .rt, false, fun _ => 0x0⟩,
    ⟨0x170814, 2, 64, .rt, false, fun _ => 0x0⟩,
    ⟨0x170418, 16, 64, .ro, false, fun _ => 0x0⟩,
    ⟨0x170818, 2, 64, .ro, false, fun _ => 0x0⟩,
    ⟨0x17041C, 16, 64, .ro, false, fun _ => 0x0⟩,
    ⟨0x17081C, 2, 64, .ro, false, fun _ => 0x0⟩,
    ⟨0x170420, 16, 64, .rc, false, fun _ => 0x0⟩,
    ⟨0x170424, 16, 64, .rc, false, fun _ => 0x0⟩,
    ⟨0x170824, 2, 64, .rc, false, fun _ => 0x0⟩,
    ⟨0x171000, 320, 4, .rt, false, fun i => 32 + i / 10⟩ ]

/-- The rows of the block whose code is `b` (R27, R468). -/
def RegMap.block (b : Nat) : List RegRow :=
  match b with
  | 1 => RegMap.BOOT
  | 2 => RegMap.SEC
  | 3 => RegMap.TBS
  | 4 => RegMap.TSU
  | 5 => RegMap.TDC
  | 6 => RegMap.PFE
  | 7 => RegMap.ESQ
  | 8 => RegMap.HSE
  | 9 => RegMap.FIB
  | 10 => RegMap.FDC
  | 11 => RegMap.TAE
  | 12 => RegMap.TIN
  | 13 => RegMap.CLE
  | 14 => RegMap.ASF
  | 15 => RegMap.MCD
  | 16 => RegMap.QSY
  | 17 => RegMap.ALA
  | 18 => RegMap.HKP
  | 19 => RegMap.PLK
  | 20 => RegMap.TRL
  | 21 => RegMap.CLO
  | 22 => RegMap.FCL
  | 23 => RegMap.HIF
  | _ => []

/-- The row that holds BAR0 offset `off`, with the index within the row; `none` at a reserved offset (R469). -/
def RegMap.find (off : Nat) : Option (RegRow × Nat) :=
  ((RegMap.block (off / 65536)).find? fun r =>
    decide (r.base ≤ off) && decide ((off - r.base) / r.stride < r.cnt) && decide ((off - r.base) % r.stride = 0)).map
    fun r => (r, (off - r.base) / r.stride)

/-- The reset value of the register at `off` (R12); 0 at a reserved offset (DEDUCED, log entry 19). -/
def RegMap.reset (off : Nat) : Word32 :=
  match RegMap.find off with
  | some (r, i) => BitVec.ofNat 32 (r.reset i)
  | none => 0

end Sys2Proof.Machine
end

