-- ==== Sys2Proof/Machine/Tab.lean ====
section
/-! DEFINITION. Sparse tables and the byte memory. A table is a list of key and value pairs with strictly rising keys;
an absent key stands for the value its reader names. A memory (tine data memory R243, R261; the tine SRAM region R259)
is a list of bytes in canonical form: rising addresses, no entry equal to the value 0 that an unlisted byte reads as
(R261: every byte that nothing loads reads 0). -/

namespace Sys2Proof.Machine

/-- A sparse table from natural numbers. -/
abbrev Tab (α : Type) := List (Nat × α)

/-- The value stored at `k`, if any. -/
def Tab.look {α : Type} (t : Tab α) (k : Nat) : Option α :=
  match t with
  | [] => none
  | (j, v) :: r => if j = k then some v else Tab.look r k

/-- The value at `k`, or `d`. -/
def Tab.lookD {α : Type} (t : Tab α) (k : Nat) (d : α) : α := (Tab.look t k).getD d

/-- Store `v` at `k`, keeping the keys rising. -/
def Tab.put {α : Type} (t : Tab α) (k : Nat) (v : α) : Tab α :=
  match t with
  | [] => [(k, v)]
  | (j, u) :: r => if k < j then (k, v) :: (j, u) :: r else if j = k then (k, v) :: r else (j, u) :: Tab.put r k v

/-- Remove the entry at `k`. -/
def Tab.del {α : Type} (t : Tab α) (k : Nat) : Tab α := t.filter fun e => !decide (e.1 = k)

/-- Change the value at `k`, read as `d` when absent. -/
def Tab.upd {α : Type} (t : Tab α) (k : Nat) (d : α) (f : α → α) : Tab α := Tab.put t k (f (Tab.lookD t k d))

/-- The keys rise strictly. -/
def Tab.wf {α : Type} : Tab α → Bool
  | [] => true
  | [_] => true
  | (j, _) :: (k, v) :: r => decide (j < k) && Tab.wf ((k, v) :: r)

/-- A byte memory. -/
abbrev Memory := List Host.Cell

/-- The byte at `a`; an unlisted byte reads 0 (R261). -/
def Memory.read (m : Memory) (a : Nat) : Byte :=
  match m with
  | [] => 0
  | (b, v) :: r => if b = a then v else Memory.read r a

/-- Store one byte. Storing 0 removes the entry, so equal memories are equal lists. -/
def Memory.write (m : Memory) (a : Nat) (v : Byte) : Memory :=
  match m with
  | [] => if v = 0 then [] else [(a, v)]
  | (b, u) :: r =>
    if a < b then (if v = 0 then (b, u) :: r else (a, v) :: (b, u) :: r)
    else if b = a then (if v = 0 then r else (a, v) :: r)
    else (b, u) :: Memory.write r a v

/-- Store a list of bytes from `a` upward. -/
def Memory.writeList (m : Memory) (a : Nat) (l : List Byte) : Memory :=
  match l with
  | [] => m
  | b :: r => Memory.writeList (Memory.write m a b) (a + 1) r

/-- The `n` bytes from `a` upward. -/
def Memory.readList (m : Memory) (a n : Nat) : List Byte := (List.range n).map fun i => Memory.read m (a + i)

/-- Every key of the list lies above `a`, and no byte is 0, and the keys rise: the canonical form after `a`. -/
def Memory.wfFrom (a : Option Nat) (m : Memory) : Bool :=
  match m with
  | [] => true
  | (b, v) :: r => (match a with | none => true | some x => decide (x < b)) && !decide (v = 0) && Memory.wfFrom (some b) r

/-- The canonical form of a memory. -/
def Memory.wf (m : Memory) : Bool := Memory.wfFrom none m

end Sys2Proof.Machine
end

