-- ==== Sys2Proof/Machine/TypesBase.lean ====
section
/-! DEFINITION. The state records shared by all blocks: queue words and queues (R316, R317), control items waiting in
X8 (R24, R25), the records of the command ring (R481), the fault collector (R492 to R518) and the host interface. -/

namespace Sys2Proof.Machine

/-- The latest setting of a W1C or RC bit or increment of an RC counter (R11): what the register held before the tick `stamp`, and
the bits that the part has set, or the amount it has added, in that tick. -/
structure Fresh where
  was   : Word32
  put   : Word32
  stamp : Tick
  deriving DecidableEq, Repr

/-- A queue word (R316): 64 data bits, the packet-end bit and the even-parity bit. `itemEnd` is the model's own mark of
the last word of an item, which the packet-end bit alone does not show for an item of several packets, and `came` the time at which
a word reached the HIF (R471). -/
structure QWord where
  data    : Word64
  last    : Bool
  parity  : Bool
  itemEnd : Bool
  came    : Tick := 0
  deriving DecidableEq, Repr

/-- A queue: its words, oldest first; the words the producer holds while it is full (R319, BP); whether a word was lost
since the last item formed from it (R318); whether its present full episode has been counted (R319); the tag of the item
whose words the reader is in, and whether the reader is inside a packet (R320). -/
structure Queue where
  words   : List QWord := []
  held    : List QWord := []
  lost    : Bool := false
  stalled : Bool := false
  fullAt  : Option Tick := none
  curTag  : Option Word64 := none
  mid     : Bool := false
  deriving DecidableEq, Repr

/-- The two kinds of data boundary: lidar columns and frames, fibre sweeps (R24, R26). -/
inductive Dom where
  | lidar
  | fibre
  deriving DecidableEq, Repr

/-- What an item's tag takes from the boundary its frame or sweep crossed (R26): the domain, the frame or sweep number
(not yet reduced modulo 2^24), the configuration generation, the epoch digest, and whether frame or sweep 0 had begun. -/
structure TagCtx where
  dom    : Dom := .lidar
  frame  : Nat := 0
  gen    : Nat := 0
  digest : Nat := 0
  begun  : Bool := false
  deriving DecidableEq, Repr

/-- Who gave an order (R483): the entry of the command ring, or the cascade master. -/
inductive Origin where
  | host (idx : Nat)
  | master
  | internal
  deriving DecidableEq, Repr

/-- The statuses of R485. -/
inductive Status where
  | ok | nothingToAbort | busy | late | conflict | limit | state | locked | auth | logFull | verify | nvm | unknown
  | refused | cancelled | dma
  deriving DecidableEq, Repr

/-- A control item waiting in X8 (R24, R25), by kind, scope and argument (R30), with the boundary that takes it and, for
an item of the 16-entry mailbox, the order it answers and the stamp at which that order was taken. -/
structure Ctl where
  kind   : Nat
  scope  : Nat
  arg    : Nat
  src    : Nat
  unit   : Nat
  dom    : Dom
  origin : Origin
  taken  : Tick
  deriving DecidableEq, Repr

/-- An entry of the command ring after it was taken (R481, R482). -/
structure CmdRec where
  hostTag  : Nat
  code     : Nat
  done     : Bool
  status   : Nat
  result   : Nat
  taken    : Tick
  finished : Tick
  deriving DecidableEq, Repr

/-- A background command that runs (R482), with the data it needs. -/
inductive Background where
  | imgWrite (slotB : Bool) (bytes : Nat)
  | recoverGo (bytes : Nat)
  | bootDirWrite (dir : List Byte)
  | cloStage (host : Bool) (bytes : Nat)
  | cloCommit (hostTime : Nat) (newPw : Bool) (pw : List Byte)
  | keyProgram (ar : Bool) (slot : Nat) (hash : List Byte)
  | revoke (ar : Bool) (slot : Nat)
  deriving DecidableEq, Repr

/-- The open buffer of a C2H ring (R471, R474): its descriptor, the words written to it, the items that start in it and the
frame of the first, their streams as keys, and when its first byte was written. -/
structure OpenBuf where
  desc  : Descriptor
  data  : List Word64 := []
  items : Nat := 0
  frame : Nat := 0
  keys  : List Nat := []
  stamp : Tick := 0
  deriving DecidableEq, Repr

/-- An entry written to a completion ring (R474). -/
structure Cpl where
  index  : Nat
  status : Nat
  cont   : Bool
  timed  : Bool
  phase  : Bool
  bytes  : Nat
  frame  : Nat
  items  : Nat
  deriving DecidableEq, Repr

/-- The hardware side of a DMA ring (R475): CONS, the phase bit, the enable, the open buffer, the last completion written
with the words of its buffer, the item that continues in the next buffer (its map entry and the words not yet written), the
bytes that do not yet make a KiB, and whether the ring has discarded since its last delivery (R466, R472). -/
structure Ring where
  cons    : Nat := 0
  phase   : Bool := false
  running : Bool := false
  buf     : Option OpenBuf := none
  lastCpl : Option Cpl := none
  lastData : List Word64 := []
  rest    : Option (Nat × List Word64) := none
  rem     : Nat := 0
  lost    : Bool := false
  deriving DecidableEq, Repr

/-- A black-channel connection's area in BAR2 (R488): the outbound ring, the inbound slot and the counts. -/
structure BcArea where
  outRing : List (List Byte) := []
  next    : Nat := 0
  written : Nat := 0
  inSlot  : List Byte := []
  pending : Bool := false
  refused : Bool := false
  deriving DecidableEq, Repr

/-- An order that names a frame and waits for it (R483): its code and argument (a capture unit, a stream, a fault selector
or a fence unit), the boundary domain, the frame, its origin, its taken stamp and its scope. -/
structure Deferred where
  code   : Nat
  arg    : Nat
  dom    : Dom
  frame  : Nat
  origin : Origin
  taken  : Tick
  scope  : Nat
  deriving DecidableEq, Repr

/-- The host interface (R463 to R491). Register words live in `State.regs`. Entries of the command ring are keyed by
64 * `resets` + index, so that an entry taken before a reset of the PCIe core is never written (R466); `background` is the
command that runs in the background with its origin; `lostItems` the streams whose next delivered item carries lost_before
(R476); `shadow` the latched high words by offset (R7). -/
structure HifSt where
  linkUp     : Bool := false
  speed      : Nat := 0
  width      : Nat := 0
  negotiated : Nat := 0
  d3hot      : Bool := false
  irqMode    : Nat := 0
  widthOk    : Bool := true
  vecReq     : BitVec 64 := 0
  vecSent    : Tab Tick := []
  c2h        : Tab Ring := []
  h2c        : Tab Ring := []
  h2cData    : Tab (List Byte) := []
  cmdProd    : Nat := 0
  cmdCons    : Nat := 0
  cmds       : Tab CmdRec := []
  background : Option (Origin × Background) := none
  grafting   : Option (Nat × Nat) := none
  orderStat  : Nat := 0
  orderFrame : Nat := 0
  conflictL  : List Nat := []
  conflictF  : List Nat := []
  deferred   : List Deferred := []
  shadow     : Tab Word32 := []
  resets     : Nat := 0
  lostItems  : List Nat := []
  readData   : Word32 := 0
  bc         : Tab BcArea := []
  deriving DecidableEq, Repr

/-- A message of the fault log, as its two words (R492, R515). -/
structure LogEntry where
  w0 : Word64
  w1 : Word64
  deriving DecidableEq, Repr

/-- A graft in progress (R508): its unit, its origin, and whether the self-test has passed and the GRAFT item waits. -/
structure GraftRun where
  unit   : Nat
  origin : Origin
  passed : Bool
  deriving DecidableEq, Repr

/-- The fault collector (R492 to R518). `shown` holds the units whose FENCE item has been inserted and whose GRAFT item
has not (degraded, R501); `clearAt` and `provEnd` are the stamp of a provisional clear and its round's end (R505); `fenced` and `cause` hold one bit per fence unit (R499); `causeCond` marks the
cause records whose cause is a condition (R503); `contCond` and `fatalCond` say the same of the other two states; `clears` holds the stamp of the last clear of a unit's record
and, at keys 90 and 91, of the contained state and the fatal state (R506). -/
structure FclSt where
  inFlight    : List FaultMsg := []
  fatal       : Bool := false
  provisional : Bool := false
  clearAt     : Tick := 0
  provEnd     : Tick := 0
  fatalCause  : Nat := 0
  fatalStamp  : Tick := 0
  fatalCond   : Bool := false
  contained   : Bool := false
  contCond    : Bool := false
  fenced      : BitVec 90 := 0
  cause       : BitVec 90 := 0
  causeCond   : BitVec 90 := 0
  shown       : BitVec 90 := 0
  clears      : Tab Tick := []
  log         : Tab LogEntry := []
  logTotal    : Nat := 0
  graft       : Option GraftRun := none
  graftUnit   : Nat := 0
  graftResult : Nat := 0
  padP        : Bool := false
  padN        : Bool := false
  deriving DecidableEq, Repr

/-- The queues (R316 to R320): every queue by its group and index (key 1024 * group + index), the X8 mailbox entries and
internal slots (R24, R25), and the streams (key 64 * source + stream) whose next item carries lost_before (R28). -/
structure QsySt where
  queues : Tab Queue := []
  depth  : List Nat := [32, 1024, 256, 8192, 4096, 1024, 2048, 256, 4096, 4096]
  hwm    : List Nat := [0, 0, 0, 0, 0, 0, 0, 0, 0, 0]
  lostCt : List Nat := [0, 0, 0, 0, 0, 0, 0, 0, 0, 0]
  stallCt : List Nat := [0, 0, 0, 0, 0, 0, 0, 0, 0, 0]
  x8host : List Ctl := []
  x8int  : List Ctl := []
  lostBefore : List Nat := []
  deriving DecidableEq, Repr

end Sys2Proof.Machine
end

