-- ==== Sys2Proof/Machine/TypesArb.lean ====
section
/-! DEFINITION. The state of the Mulch codec (chapter 10), the Allotment arbiter and housekeeping (chapter 11). -/

namespace Sys2Proof.Machine

/-- An item of a bound stream on its way to an engine; `ctl` marks a control item, which is never compressed (R300). -/
structure MulchItem where
  tag   : Word64
  words : List Word64
  ctl   : Bool
  deriving DecidableEq, Repr

/-- A binding's state (R307, R308): the last and the last but one word of each lane, the items since the last restart,
whether the next item restarts, the largest shift of the last fixed-ratio item; its waiting items, and of the first one
the bytes coded so far, the coded words and whether it restarted. -/
structure BindSt where
  h1       : List Nat := List.replicate 8 0
  h2       : List Nat := List.replicate 8 0
  since    : Nat := 0
  restartNext : Bool := true
  maxShift : Nat := 0
  shiftNow : Nat := 0
  input    : List MulchItem := []
  started  : Bool := false
  restarted : Bool := false
  pos      : Nat := 0
  out      : List Word64 := []
  deriving DecidableEq, Repr

/-- The Mulch codec (R299 to R315): the bindings by index, the work of the two engines (a binding 0 to 31, or 32 + a
capture unit), the engines that failed a verification and await their fence (R311), those that passed a graft's self-test and wait
for an item boundary (R314), the bytes in and out that do not yet make a KiB, and whether both engines are fenced. -/
structure McdSt where
  binds   : Tab BindSt := []
  engines : List (Option Nat) := [none, none]
  failed  : List Nat := []
  waits   : List Nat := []
  inRem   : Nat := 0
  outRem  : Nat := 0
  bypass  : Bool := false
  deriving DecidableEq, Repr

/-- A grant as computed (R329, R335): its record, its rung, the item deferrals and group levels it stands for, the
estimated total and the rail currents at it, its schedule entry, its budget, whether the top rung did not fit, how many
departures of R335 it makes, and whether a rung was taken for a rail limit only. -/
structure AlaGrant where
  record : List Byte := []
  rung   : Nat := 0
  defer  : Nat := 0
  levels : List Nat := List.replicate 6 0
  total  : Nat := 0
  rails  : List Nat := List.replicate 5 0
  entry  : Nat := 0
  budget : Nat := 480
  isOver : Bool := false
  departs : Nat := 0
  byRail : Bool := false
  deriving DecidableEq, Repr

/-- The Allotment arbiter (R325 to R335): the grant in force with its epoch number, the grant ready for the next epoch,
whether a computation runs, the grants by epoch as their GRANT items name them, the last report with the last shares and
currents of each item while it ran, the last estimate of P4 at a level with a non-zero factor (R327), the rung the last report
was measured at, the rung of the grant last computed, c_thr, the forced shot level, the band, forced level and c_thr read at
the epoch's start for its computation (R329), and the first epoch of frame 0 or sweep 0 (R334). `grant` is empty before the first grant. -/
structure AlaSt where
  grant     : List Byte := []
  cur       : AlaGrant := {}
  epoch     : Nat := 0
  computing : Option EpochReport := none
  ready     : Option AlaGrant := none
  grants    : Tab (List Byte) := []
  report    : EpochReport := ⟨[], [], 0, [], [], []⟩
  shares    : List Nat := List.replicate 5 0
  currents  : List (List Nat) := List.replicate 5 (List.replicate 5 0)
  m0        : Nat := 0
  m0Rails   : List Nat := List.replicate 5 0
  l0        : Nat := 0
  reportAt  : Nat × List Nat := (0, List.replicate 6 0)
  rung      : Nat := 0
  cThr      : Nat := 0
  forced    : Nat := 0
  inBand    : Nat := 0
  inForced  : Nat := 0
  inThr     : Nat := 0
  emOver    : Bool := false
  base      : Option Nat := none
  deriving DecidableEq, Repr

/-- A temperature sensor (R337, R338): its reading in 0.25 K, its last count, the run of identical counts. -/
structure SensorSt where
  reading : Int := 0
  count   : Nat := 0
  stuck   : Nat := 0
  broken  : Bool := false
  suspect : Bool := false
  deriving DecidableEq, Repr

/-- A neighbourhood (R338): its reading, and whether it reads T_hot from sensor faults. -/
structure NbhdSt where
  reading : Int := 0
  hot     : Bool := false
  deriving DecidableEq, Repr

/-- A supply monitor (R342): its level in mV, whether it is out of the warning band, the rounds it has been so, whether it
is over voltage, and whether a collapse was detected since POR_N. -/
structure SupplySt where
  level    : Nat := 0
  warn     : Bool := false
  warnRun  : Nat := 0
  isOver   : Bool := false
  collapse : Bool := false
  deriving DecidableEq, Repr

/-- A housekeeping aux reading (R341): the latest good result, its age in rounds, and whether it is invalid. -/
structure HkAux where
  value   : Option Int := none
  age     : Nat := 0
  invalid : Bool := false
  deriving DecidableEq, Repr

/-- Housekeeping (R336 to R347). `biasT` is the temperature of each of N0 to N3 for the bias regulators (R339); `orderly`,
`hardCut`, `drained` and `stopAt` are the state of a stop. -/
structure HkpSt where
  rounds  : Nat := 0
  sensors : Tab SensorSt := []
  nbhds   : Tab NbhdSt := []
  tj      : Int := 0
  band    : Nat := 0
  supply  : Tab SupplySt := []
  aux     : Tab HkAux := []
  biasT   : Tab Int := []
  orderly : Bool := false
  hardCut : Bool := false
  drained : Bool := false
  stopAt  : Tick := 0
  cause   : Nat := 0
  monitor : Nat := 0
  deriving DecidableEq, Repr

end Sys2Proof.Machine
end

