-- ==== Sys2Proof/Machine/TypesChain.lean ====
section
/-! DEFINITION. The state of the decimation chain and of the trigger and acquisition engine (chapter 7). -/

namespace Sys2Proof.Machine

/-- The filter histories of one position (R210, R211), newest first: the inputs of each half-band stage and of the
resampler, in 1/256 of the input unit. -/
structure PosHist where
  stages : List (List Int) := []
  u      : List Int := []
  deriving DecidableEq, Repr

/-- One output of a channel that waits for its item (R214): a value per position, settling, restarted. -/
structure FdcRow where
  vals      : List Int
  settling  : Bool
  restarted : Bool
  deriving DecidableEq, Repr

/-- An FDC channel (R208 to R216): the inputs taken since the plan's first, the next output k, the index of the last
range-step sample, the inputs waiting (a value per position and the range-step mark), the histories, the outputs of the item being made and the k of its first. -/
structure FdcCh where
  n         : Nat := 0
  k         : Nat := 0
  restartAt : Option Nat := none
  pos       : List PosHist := []
  rows      : List FdcRow := []
  kFirst    : Nat := 0
  settling  : Bool := false
  inq       : List (List Int × Bool) := []
  deriving DecidableEq, Repr

/-- The FDC (R208 to R216): its channels, the boundary whose items it makes, and whether an output saturated in the
present sweep. -/
structure FdcSt where
  chans : Tab FdcCh := []
  ctx   : TagCtx := {}
  sat   : Bool := false
  deriving DecidableEq, Repr

/-- A block of a capture as stored (R232): its frame and its bytes with the header. -/
structure CapBlock where
  frame : Nat
  bytes : List Byte
  deriving DecidableEq, Repr

/-- A block that waits to be stored: its frame, whether it is the frame's first and last, whether it goes through an
engine, and its item bytes. -/
structure CapPending where
  frame : Nat
  first : Bool
  last  : Bool
  code  : Bool
  bytes : List Byte
  deriving DecidableEq, Repr

/-- A capture unit (R217 to R237). `state` is coded as R220; `ring` holds whole frames, oldest first; `toCode` the blocks
that wait to be stored and `coded` those of a frame not yet whole; `items` the held copies with their source index;
`nextF` the first frame not closed; `pace` the newest frame of the pacing source; `names` the frames named by trigger
causes with their bits; `auto` the frames closed since arming; `readBy` the order that reads the capture. -/
structure CapUnit where
  state     : Nat := 0
  ring      : List (Nat × List CapBlock) := []
  toCode    : List CapPending := []
  coded     : List CapBlock := []
  items     : List (Nat × Item) := []
  nextF     : Nat := 0
  pace      : Option Nat := none
  names     : List (Nat × Nat) := []
  auto      : Nat := 0
  trigNum   : Nat := 0
  trigFrame : Nat := 0
  cause     : Nat := 0
  preGot    : Nat := 0
  postGot   : Nat := 0
  preShort  : Bool := false
  postShort : Bool := false
  started   : Bool := false
  noFit     : Bool := false
  readBy    : Option Origin := none
  deriving DecidableEq, Repr

/-- A reference accumulation ready for its evaluation (R222): bins per channel, columns per channel, the frame. -/
structure RefDue where
  bins : Tab (Tab Nat)
  cols : Tab Nat
  ctx  : TagCtx
  deriving DecidableEq, Repr

/-- The TAE (R217 to R237): units; the reference accumulation; the skews it has accepted, the channels that have accepted
one, and the skews that wait for the next boundary per strip; mask state; whether the grant at the boundary of a frame or sweep
defers capture compression (R232, newest first); the M-tier banks
of the present allocation (R502). -/
structure TaeSt where
  units    : Tab CapUnit := []
  refBins  : Tab (Tab Nat) := []
  refCols  : Tab Nat := []
  refCount : Nat := 0
  refDue   : Option RefDue := none
  skew     : Tab Int := []
  skewSeen : BitVec 512 := 0
  skewPost : Tab (List (Nat × Int)) := []
  refViol  : Nat := 0
  zoneRun  : Tab Nat := []
  deferL   : List (Nat × Bool) := []
  deferF   : List (Nat × Bool) := []
  mtBanks  : List Nat := List.range 8
  deriving DecidableEq, Repr

end Sys2Proof.Machine
end

