-- ==== Sys2Proof/Machine/TypesTime.lean ====
section
/-! DEFINITION. The state of BOOT, SEC and the NVM (chapter 14), of the time base, the TDC and the TSU (chapter 2). -/

namespace Sys2Proof.Machine

/-- What BOOT shows of a slot (R450, R453, R461). -/
structure SlotSt where
  cause   : Nat := 0
  checked : Bool := false
  gen     : Nat := 0
  deriving DecidableEq, Repr

/-- The boot controller (R431 to R461). `candidates` lists the slots still to be tried (0 slot A, 1 slot B), the one
being staged first; `firstDue` says that the first item of frame 0 or sweep 0 (EVT 11) has still to come, `firstAt` when that frame or sweep began;
`tFirst` are the milliseconds to the one and then to the other. -/
structure BootSt where
  step       : Nat := 1
  mode       : Nat := 0
  straps     : Straps := ⟨0, false, false, false⟩
  slotA      : SlotSt := {}
  slotB      : SlotSt := {}
  candidates : List Nat := []
  tried      : Bool := false
  running    : Nat := 0
  fallback   : Bool := false
  repro      : Bool := false
  imgGen     : Nat := 0
  secVer     : Nat := 0
  keySlot    : Nat := 0
  initPlans  : Nat := 0
  digest     : List Byte := []
  staged     : List Byte := []
  recFail    : Nat := 0
  tLoaded    : Nat := 0
  tFirst     : Nat := 0
  nvmMiB     : Nat := 0
  dirCopy    : Nat := 0
  slotSize   : Nat := 0
  bistBanks  : BitVec 8 := 0
  bistSram   : Bool := false
  bistDone   : Bool := false
  firstDue   : Bool := false
  firstAt    : Tick := 0
  deriving DecidableEq, Repr

/-- The OTP and SEC (R446 to R449). Key slots hold 32-byte hashes; an all-zero hash is an empty slot. -/
structure SecSt where
  ks        : List (List Byte) := []
  ksRevoked : BitVec 4 := 0
  ar        : List (List Byte) := []
  arRevoked : BitVec 2 := 0
  rollback  : Nat := 0
  katOk     : Bool := false
  testLock  : Bool := true
  deriving DecidableEq, Repr

/-- The external flash as BOOT has read and written it (R434, R458): directory copies, slot contents written by
IMG_WRITE, and the safety area. -/
structure NvmSt where
  dir0   : List Byte := []
  dir1   : List Byte := []
  slotA  : List Byte := []
  slotB  : List Byte := []
  safety : SafetyArea := ⟨[], [], [], []⟩
  deriving DecidableEq, Repr

/-- The time base (R41 to R49): `n` counts TB edges since lock, `phi` is the alignment offset in ticks. `held`,
`duty` and `refDuty` are the warm criterion's state (duties in percentage points), `warmL` and `warmF` the first
frame and sweep that began with warm set; `snap` is the X7 snapshot at the last fall of `phi`, below which no later one
lies (R23). -/
structure TbSt where
  n        : Nat := 0
  phi      : Int := 0
  snap     : Tick := 0
  running  : Bool := false
  enabled  : Bool := false
  pllLock  : Bool := false
  refOk    : Bool := false
  everLock : Bool := false
  holdover : Bool := false
  warm     : Bool := false
  started  : Bool := false
  held     : Nat := 0
  duty     : Rat := 0
  refDuty  : Rat := 0
  warmL    : Option Nat := none
  warmF    : Option Nat := none
  deriving DecidableEq, Repr

/-- A delay line (R50): the 96 tap trims and the 97 map entries. -/
structure Line where
  trims : List Int
  map   : List Nat
  deriving DecidableEq, Repr

/-- The pass of a calibration attempt (R57). -/
inductive CalPhase where
  | idle | passA | passB | passC
  deriving DecidableEq, Repr

/-- Why a calibration cycle runs (R63, R65, R66). -/
inductive CalKind where
  | running | startup | graft
  deriving DecidableEq, Repr

/-- A strip's calibration (R57 to R66). `counts` holds the current pass, 16 channels of 97 counts; `passA` and `passB`
the finished ones; `old` the lines before the trims under test. `tested` says that trims under test are in force or
posted; `due` is the boundary at which a starved strip starved (R65); `colElig` and `prevElig` say that the
column in progress and the one awaiting its verdict count for the pass. -/
structure StripCal where
  phase     : CalPhase := .idle
  kind      : CalKind := .running
  attempt   : Nat := 0
  counts    : List (List Nat) := []
  stopped   : List Bool := []
  passA     : List (List Nat) := []
  passB     : List (List Nat) := []
  old       : List Line := []
  next      : List Line := []
  tested    : Bool := false
  underTest : Bool := false
  began     : Tick := 0
  start     : Tick := 0
  due       : Tick := 0
  starvedAt : Option Tick := none
  colElig   : Bool := false
  prevElig  : Bool := false
  fails     : Nat := 0
  accepted  : Nat := 0
  last      : Nat := 0
  deriving DecidableEq, Repr

/-- What a boundary does with the lines of a strip: apply trims under test, accept or restore (R57). -/
inductive CalApply where
  | underTest | accept | restore
  deriving DecidableEq, Repr

/-- The TDC (R50 to R69, R78). Lines are keyed 0 to 511 (strip channels) and 512 to 531 (AL0 to AL19). `colCounts` are
the quiet-hit counts of the column in progress per channel, `prevCounts` those that await the HSE's verdict; `quiet`
the quiet hits of the previous column (top-up, R56). `posted` are the CAL applications waiting for the boundary. -/
structure TdcSt where
  lines      : Tab Line := []
  lastEdge   : Tab Tick := []
  colCounts  : Tab (List Nat) := []
  prevCounts : Tab (List Nat) := []
  colQuiet   : Tab Nat := []
  quiet      : Tab Nat := []
  strips     : Tab StripCal := []
  posted     : Tab CalApply := []
  calEnd     : Tick := 0
  calDone    : Bool := false
  lastPass   : Tab (List Nat) := []
  deriving DecidableEq, Repr

/-- An open stop window (R72). -/
structure Window where
  start : Tick
  first : Option Tick := none
  count : Nat := 0
  isOpen : Bool := false
  deriving DecidableEq, Repr

/-- The sums of an estimator gate (R73): the first and the last edge, the number of edges, the sums of tau and of
k * tau, and the smallest and largest spacing. -/
structure EstSum where
  n    : Nat := 0
  s0   : Tick := 0
  last : Tick := 0
  sumT : Nat := 0
  sumK : Nat := 0
  dmin : Nat := 0
  dmax : Nat := 0
  deriving DecidableEq, Repr

/-- A TSI channel (R70 to R73). `closedAt` is when its last window closed. `period` is the last estimate in 2^-16 tick, `valid` the last valid one (R108). -/
structure TsiSt where
  lastAcc  : Option Tick := none
  pack     : List Word64 := []
  packBad  : Bool := false
  window   : Option Window := none
  winCount : Nat := 0
  winHit   : Bool := false
  winRest  : Bool := false
  closedAt : Tick := 0
  est      : Tab EstSum := []
  period   : Nat := 0
  estN     : Nat := 0
  estMin   : Nat := 0
  estMax   : Nat := 0
  estValid : Bool := false
  estGate  : Nat := 0
  valid    : Option Nat := none
  deriving DecidableEq, Repr

/-- The overlap of an aux-line swap (R68): the spare line, the channel, and whether every edge so far agreed. -/
structure Overlap where
  line  : Nat
  chan  : Nat
  agree : Bool
  deriving DecidableEq, Repr

/-- The TSU and the aux lines (R67 to R73, R79): the line of each of the 19 channels, the spare, the retired lines, the
consecutive failed cycles per line, the next channel of the cyclic order, the overlap in progress, and the last accepted
edges of the service channels 16 to 18 (R51). -/
structure TsuSt where
  chans    : Tab TsiSt := []
  lineOf   : List Nat := List.range 19
  spare    : Nat := 19
  stopped  : Bool := false
  retired  : BitVec 20 := 0
  auxFails : Tab Nat := []
  nextChan : Nat := 0
  overlap  : Option Overlap := none
  svcEdge  : Tab Tick := []
  deriving DecidableEq, Repr

end Sys2Proof.Machine
end

