-- ==== Sys2Proof/Machine/TypesFibre.lean ====
section
/-! DEFINITION. The state of the fibre interrogator (chapter 6). -/

namespace Sys2Proof.Machine

/-- What the FIB back needs of a sweep whose slots are still processed: its context, its plan and the plan run it belongs
to, its start, its number since the plan's start, the tones it fired, whether it is dark, the inputs on one converter and the pairs
under test in it, the tones done, the substituted count per position, whether its end has been crossed, and whether a
slot lost sample words. -/
structure SweepInfo where
  ctx    : TagCtx := {}
  start  : Tick := 0
  plan   : Nat := 0
  run    : Nat := 0
  k      : Nat := 0
  fired  : Nat := 0
  dark   : Bool := false
  noX    : BitVec 16 := 0
  noY    : BitVec 16 := 0
  test   : Bool := false
  done   : Nat := 0
  subst  : Tab Nat := []
  closed : Bool := false
  deriving DecidableEq, Repr

/-- The unwrapping state of a position (R186, R187): y1, y2, the tone offsets, the mean powers (absent before the first
w), the polarisation phasors D, and whether the first unsubstituted phase has been taken. -/
structure PosSt where
  y1    : Int := 0
  y2    : Int := 0
  off   : List Int := List.replicate 8 0
  pbar  : List (Option Int) := List.replicate 8 none
  d     : List (Int × Int) := List.replicate 8 (0, 0)
  begun : Bool := false
  deriving DecidableEq, Repr

/-- A converter sample that the back holds (R171): its instant in 0.8 ns of the TB grid, its corrected value in 1/16 LSB, whether
it is at full scale or a range-step sample, and whether its queue word failed parity. -/
structure AdcSample where
  j   : Nat
  v   : Int
  bad : Bool
  par : Bool
  deriving DecidableEq, Repr

/-- The accumulators of an interval of zones (R191): its plan and plan run, its number, sums and substituted slots per zone, the
slots processed, and whether a pair was under test. -/
structure ZoneAcc where
  plan  : Nat := 0
  run   : Nat := 0
  iv    : Nat := 0
  test  : Bool := false
  sums  : Tab Nat := []
  subst : Tab Nat := []
  slots : Nat := 0
  ctx   : TagCtx := {}
  endAt : Tick := 0
  deriving DecidableEq, Repr

/-- An end that a sum of samples is kept for (R196): samples keyed 4,096 + index from the window start. -/
structure RamanSum where
  as : Tab Int := []
  st : Tab Int := []
  deriving DecidableEq, Repr

/-- The temperature profile (R195 to R199): the present sweep's samples, the last samples outside a window (newest first,
with their range-step marks), the openings of the Raman gate to come, the block's sums and sweeps, the blocks that wait
for the back with whether the grant deferred them, the profile's sums, blocks added and counted, whether it waits to be emitted and ends early, and the
readings of the two reference RTDs. -/
structure DtsSt where
  open_    : Bool := false
  wStart   : Tick := 0
  cur      : RamanSum := {}
  curBad   : Bool := false
  recA     : List (Int × Bool) := []
  recS     : List (Int × Bool) := []
  sum      : RamanSum := {}
  sweeps   : Nat := 0
  blocks   : List (RamanSum × Bool) := []
  as       : Tab Int := []
  st       : Tab Int := []
  added    : Nat := 0
  counted  : Nat := 0
  due      : Bool := false
  partial_ : Bool := false
  plan     : Nat := 0
  refSum   : Int := 0
  refN     : Nat := 0
  ref2Sum  : Int := 0
  refBad   : Bool := false
  kappa    : Int := 0
  ramanDue : List Tick := []
  deriving DecidableEq, Repr

/-- The corrections of a converter pair (R174): offsets of the even and the odd converter, gain and skew of the odd. -/
structure PairCorr where
  ofsE : Int := 0
  ofsO : Int := 0
  gain : Int := 32768
  skew : Int := 0
  deriving DecidableEq, Repr

/-- The calibration of a converter pair (R173 to R175). `posted` waits for the next sweep boundary; `blk` are the sample pairs of
the estimation block being taken (the even sample's instant, and both values in 2^-19 LSB), `half` an even sample whose odd one
has not come. -/
structure PairCal where
  corr    : PairCorr := {}
  phase   : CalPhase := .idle
  attempt : Nat := 0
  old     : PairCorr := {}
  next    : PairCorr := {}
  testing : Bool := false
  bOk     : Bool := false
  start   : Option Tick := none
  fails   : Nat := 0
  last    : Nat := 0
  posted  : Option CalApply := none
  blk     : List (Nat × Int × Int) := []
  half    : Option (Nat × Int) := none
  deriving DecidableEq, Repr

/-- The offset check of a single converter's graft (R176): samples, sum, and their one value as long as there is only one. -/
structure OffsetCheck where
  n    : Nat := 0
  sum  : Int := 0
  only : Option Int := none
  same : Bool := true
  deriving DecidableEq, Repr

/-- An input (R177, R178): att in force, full-scale samples and largest magnitude of the sweep, the run of low sweeps, and
whether the last sweep held a full-scale sample. -/
structure AinSt where
  att    : Nat := 0
  clip   : Nat := 0
  peak   : Nat := 0
  lowRun : Nat := 0
  deriving DecidableEq, Repr

/-- The fibre interrogator (R167 to R202). `nextB` is a boundary found by ADC_TRIG or predicted, with whether it was
predicted and whether its edge was real; `run` counts plan starts; `pos` and `posOld` are the per-position state of the
present and of the last plan run; `gateEnds` the closing ticks of the open gates; `store` the samples the back holds, newest
first, and `lostJ` the instants of those lost at X6; `outgoing` an owner's SAMPLES packets being filled, with attenuation and first
tick (R373); `noise`, `trace` and the end fields serve R192 to R194. -/
structure FibSt where
  ctx      : TagCtx := { dom := .fibre }
  plan     : Option Nat := none
  run      : Nat := 0
  active   : Bool := false
  start    : Tick := 0
  k        : Nat := 0
  n        : Nat := 0
  nextB    : Option (Tick × Bool) := none
  predicted : Bool := false
  lastReal : Bool := false
  misses   : Nat := 0
  hold     : Bool := false
  fired    : Nat := 0
  limited  : Bool := false
  dark     : Bool := false
  grant    : List Byte := []
  infos    : Tab SweepInfo := []
  gates    : BitVec 8 := 0
  gateEnds : Tab Tick := []
  store    : Tab (List AdcSample) := []
  lostJ    : Tab (List Nat) := []
  gAdc     : OffsetCheck := {}
  surveyTest : Bool := false
  ain      : Tab AinSt := []
  hadClip  : Bool := false
  evClip   : Bool := false
  rangeLeft : Tab Nat := []
  single   : BitVec 4 := 0
  raman    : List Nat := [4, 6]
  pairs    : Tab PairCal := []
  pos      : Tab PosSt := []
  posOld   : Tab PosSt := []
  noise    : Tab Rat := []
  trace    : Tab (List Rat) := []
  evalDue  : Bool := false
  endPos   : Option Nat := none
  endRef   : Option Nat := none
  beyond   : Bool := false
  beyondEv : Bool := false
  short    : Bool := false
  length   : Nat := 0
  zones    : Tab ZoneAcc := []
  zoneWords : List Nat := []
  exceeding : BitVec 64 := 0
  survey   : Tab Rat := []
  dts      : DtsSt := {}
  partnerAtt : Tab Nat := []
  outgoing   : Tab (Nat × Tick × List (BitVec 12)) := []
  deriving DecidableEq, Repr

end Sys2Proof.Machine
end

