-- ==== Sys2Proof/Machine/TypesLidar.lean ====
section
/-! DEFINITION. The state of the photon front end (chapter 3), of the emitter sequencer and Dibber (chapter 4) and of the
histogram engine (chapter 5). -/

namespace Sys2Proof.Machine

/-- A SPAD's own state (R81); the strip's regulator, the image mask and blanking disarm it besides. -/
inductive Spad where
  | armed
  | dead (since : Tick)
  deriving DecidableEq, Repr

/-- A strip's bias (R94, R95): the regulator, its setting and the setting that waits for the boundary in mV, the last
measurement in mV, the runs of rounds below and within the limits, and whether the check after enabling is still due (R95, R96). -/
structure BiasSt where
  on      : Bool := false
  set     : Rat := 0
  target  : Rat := 0
  bias    : Nat := 0
  lowRun  : Nat := 0
  okRun   : Nat := 0
  failRun : Nat := 0
  low     : Bool := false
  fail    : Bool := false
  check   : Bool := false
  deriving DecidableEq, Repr

/-- The meter cycle of a strip's graft (R96): the strip, whether its first epoch has begun, the epochs done, from where
quiet time is still to be added, the quiet time of the epoch so far in ticks, and the counts of the strip's channels. -/
structure GraftMeter where
  strip   : Nat
  on      : Bool := false
  visits  : Nat := 0
  mark    : Tick := 0
  quiet   : Nat := 0
  ambient : Tab Nat := []
  meter   : Tab Nat := []
  deriving DecidableEq, Repr

/-- The photon front end (R80 to R100). Channel tables are keyed 0 to 511, SPAD tables 16 * channel + SPAD. `aval` holds
the avalanche times after the clearing point, `edges` the coincidence edges on their way to the TDC (R82); `ambient` the count of the column, `prevCount`, `prevEn`, `prevQuiet` those
of the last column (ticks) and `prev2…` of the one before; `gMeter` the meter cycle of a graft (R96); `dcr` the map entries as count and quiet time in ticks;
`meterFrom` the tick from which the meter counts during start-up calibration (R90); `ended` the column that has ended and
whose status item follows the boundary's control items (R97): its context and quiet time; `partner` the counts of the
partner with their column (R89); `fresh` the strips whose next depth decision starts from depth_min (R88). -/
structure PfeSt where
  spads      : Tab Spad := []
  blanked    : BitVec 16 := 0
  aval       : Tab (List Tick) := []
  edges      : Tab (List Tick) := []
  amask      : Tab (BitVec 16) := []
  depth      : Tab Nat := []
  ambient    : Tab Nat := []
  prevCount  : Tab Nat := []
  prevEn     : Tab Nat := []
  prevQuiet  : Nat := 0
  prev2Count : Tab Nat := []
  prev2En    : Tab Nat := []
  prev2Quiet : Nat := 0
  ended      : Option (TagCtx × Nat) := none
  partner    : Option (Nat × List Nat × List Nat × Nat) := none
  meter      : Tab Nat := []
  meterCol   : Nat := 0
  meterFrom  : Tick := 0
  visits     : Nat := 0
  dcr        : Tab (Nat × Nat) := []
  mapValid   : Bool := false
  bias       : Tab BiasSt := []
  gMeter     : Option GraftMeter := none
  fresh      : BitVec 32 := 0xFFFFFFFF
  wasAdapt   : Bool := false
  satFrame   : Bool := false
  satChans   : Nat := 0
  deriving DecidableEq, Repr

/-- A shot of a column (R114, R117): bank, slot, fire tick, whether it is a reference shot (R85), and whether it has
fired. -/
structure Shot where
  bank  : Nat
  slot  : Nat
  tick  : Tick
  ref   : Bool
  fired : Bool
  deriving DecidableEq, Repr

/-- A charge rail (R105, R106). -/
structure RailSt where
  time   : Nat := 0
  done   : Bool := false
  short  : Bool := false
  absent : Bool := false
  lowRun : Nat := 0
  lowEvt : Bool := false
  deriving DecidableEq, Repr

/-- A frame waiting to start (R110): its start tick, its index stamp, whether the index was predicted and whether it
followed a real index, the direction, and the consecutive misses up to its index. -/
structure PendFrame where
  at_       : Tick
  stamp     : Tick
  predicted : Bool
  realPair  : Bool
  backward  : Bool
  misses    : Nat
  deriving DecidableEq, Repr

/-- A staged SWAP (R127). -/
structure Staged where
  fibre     : Bool
  plan      : Nat
  target    : Nat
  committed : Bool
  scope     : Nat
  origin    : Origin
  taken     : Tick
  readies   : List Nat
  deriving DecidableEq, Repr

/-- Suppressions and shots of a bank in a column (R129). -/
structure BankCol where
  level   : Nat := 0
  fired   : Nat := 0
  slots   : Nat := 0
  sGrant  : Nat := 0
  sLedger : Nat := 0
  sSpace  : Nat := 0
  deriving DecidableEq, Repr

/-- The frame in progress (R108 to R113): `period` is P in 2^-16 tick, `half` halves it (bidirectional mode). -/
structure FrameSt where
  active    : Bool := false
  start     : Tick := 0
  stamp     : Tick := 0
  period    : Nat := 0
  half      : Bool := false
  nominal   : Bool := false
  backward  : Bool := false
  predicted : Bool := false
  misses    : Nat := 0
  held      : Bool := false
  deriving DecidableEq, Repr

/-- The column in progress: number, opening tick, nominal end for shot placement, whether it exists, whether emission is
held in it, the able banks (R102), and the deferrals of the grant at its opening (R145, R161). -/
structure ColSt where
  active   : Bool := false
  k        : Nat := 0
  start    : Tick := 0
  nomEnd   : Tick := 0
  held     : Bool := true
  able     : BitVec 16 := 0
  grant    : Nat := 0
  left     : Nat := 0
  refCol   : Bool := false
  slotNext : Nat := 0
  deferFine   : Bool := false
  deferCanopy : Bool := false
  deriving DecidableEq, Repr

/-- The emitter sequencer and Dibber (R101 to R136). `prevShots` are the fired shots of earlier columns whose intervals
may still matter; `fires` the last pulse of each fire output, from its fire tick to its end (R101); `gCols` the consecutive columns in which the
rail of the bank under graft showed no low state, `gClean` whether the column in progress has shown none, and `gRail` what its rail
measurement found (R509); `partnerShots` the partner's (R124); `ledA` and `ledB` the ledger copies (R121), keyed 2 * sector +
window and then by bucket number; `lost` that acquisition is stopped until a fatal state is cleared (R46, R505). -/
structure EsqSt where
  ctx       : TagCtx := {}
  plan      : Option Nat := none
  mirror    : Option (Nat × Nat) := none
  rails     : Tab RailSt := []
  railsDone : Bool := false
  gCols     : Nat := 0
  gClean    : Bool := true
  gRail     : Option Bool := none
  prevIdx   : Option Tick := none
  prevReal  : Bool := false
  misses    : Nat := 0
  pend      : List PendFrame := []
  minStamp  : Tick := 0
  frame     : FrameSt := {}
  col       : ColSt := {}
  nCol      : Nat := 0
  grant     : List Byte := []
  holdMiss  : Bool := false
  settle    : Nat := 0
  stopped   : Bool := false
  banks     : Tab BankCol := []
  shots     : List Shot := []
  prevShots : List Shot := []
  partnerShots : List Shot := []
  lastPulse : Tab Tick := []
  fires     : Tab (Tick × Tick) := []
  ledA      : Tab (Tab Nat) := []
  ledB      : Tab (Tab Int) := []
  ledBad    : Bool := false
  evLedger  : Bool := false
  evGrant   : Bool := false
  evSpace   : Bool := false
  staged    : List Staged := []
  deriving DecidableEq, Repr

/-- One histogram buffer of a channel (R138). `coarse` holds shot stamps, `quiet` the quiet histogram that shares its
area (R55); `occShot` the groups already counted for shot `curShot`; `locked` the locked candidates' bins; `conf` the
running confidence (R143); `refAcc` whether stamps were taken for the reference histogram. -/
structure ChanBuf where
  coarse  : Tab Nat := []
  quiet   : Tab Nat := []
  occ     : Tab Nat := []
  occShot : List Nat := []
  fine    : Tab (Tab Nat) := []
  n       : Nat := 0
  nf      : Nat := 0
  curShot : Option Tick := none
  locked  : List Nat := []
  lock    : Option Tick := none
  conf    : Nat := 0
  deriving DecidableEq, Repr

/-- What the back needs of a column besides the buffers; `marks` are the strips whose next item carries lost_before, `endAt` the
column's end. -/
structure ColInfo where
  exists_  : Bool := false
  ctx      : TagCtx := {}
  k        : Nat := 0
  backward : Bool := false
  predicted : Bool := false
  held     : Bool := true
  able     : BitVec 16 := 0
  plan     : Nat := 0
  uLo      : Nat := 0
  depth    : Tab Nat := []
  nEn      : Tab Nat := []
  quietH   : Tab Nat := []
  quietNs  : Nat := 0
  deferCanopy : Bool := false
  waiting  : List Nat := []
  fenced   : BitVec 32 := 0
  calib    : BitVec 32 := 0
  poison   : BitVec 32 := 0
  lost     : List Nat := []
  marks    : List Nat := []
  endAt    : Tick := 0
  deriving DecidableEq, Repr

/-- The role of a part in deepen mode (R155). -/
inductive Role where
  | single | leader | follower
  deriving DecidableEq, Repr

/-- The histogram and Sieve engine (R137 to R166). `bufs` is the front's buffer per channel, `back` the one the back
holds; `info` describes the back's column; `lastBins` the returns' bins of the column before it in the same frame
(R148); `inside`, `unobs` and `crc` accumulate the frame's field evidence per set (R159). -/
structure HseSt where
  bufs      : Tab ChanBuf := []
  back      : Tab ChanBuf := []
  info      : ColInfo := {}
  lastBins  : Tab (List Nat) := []
  skew      : Tab Int := []
  refHist   : Tab (Tab Nat) := []
  fixDepth  : BitVec 512 := 0
  prevQuietH : Tab Nat := []
  prevQuietNs : Nat := 0
  foreign   : Nat := 0
  evForeign : Bool := false
  evCand    : Bool := false
  evCanopy  : Bool := false
  inside    : Tab Nat := []
  unobs     : Tab Nat := []
  crc       : Tab (List Byte) := []
  verdict   : Tab Nat := []
  lastCount : Tab Nat := []
  lastUnobs : Tab Nat := []
  lastViol  : BitVec 8 := 0
  verdictDue : Option TagCtx := none
  poison    : BitVec 32 := 0
  lostCols  : Tab Nat := []
  lostFlag  : List Nat := []
  records   : Tab Nat := []
  role      : Role := .single
  winRecv   : Tab (Tick × List Nat) := []
  follower  : Tab DeepChan := []
  mergeMiss : Bool := false
  deriving DecidableEq, Repr

end Sys2Proof.Machine
end

