-- ==== Sys2Proof/Machine/TypesLink.lean ====
section
/-! DEFINITION. The state of the Plonil link and of Trellis (chapter 12). -/

namespace Sys2Proof.Machine

/-- A lane (R355 to R358, R381): whether it is trained, its rate code, its insertion loss in 0.1 dB; the times of its
retrains of the last 10 s and of its uncorrectable FEC blocks of the last 1 s; the time of its last EVT 278; whether a
graft has passed and the lane waits for its port's next switch; its length in 0.1 m and whether it is valid. -/
structure LaneSt where
  trained  : Bool := false
  rate     : Nat := 0
  il       : Nat := 0
  retrains : List Tick := []
  uncorr   : List Tick := []
  evAt     : Option Tick := none
  entering : Bool := false
  length   : Nat := 0
  lenOk    : Bool := false
  deriving DecidableEq, Repr

/-- A message on its way out (R363), by its fields; ENUM and ATTEST carry the sender's CAP and signature. -/
inductive LinkMsg where
  | enum (sender : Nat) (nonce cap sig : List Byte)
  | attest (cap sig : List Byte)
  | accept (addr : Nat)
  | reject (reason : Nat)
  | capReport (addr dnState : Nat) (cap : List Byte)
  | reenum (addr : Nat) (nonce : List Byte)
  | align (index : Nat) (depart arrive : Tick)
  | start (t0 : Tick) (grants : List Byte)
  | swapPrepare (fibre : Bool) (plan target : Nat)
  | swapReady (addr target : Nat)
  | swapCommit (target : Nat)
  | swapCancel (target : Nat)
  | order (code : Nat) (args : List Byte) (frame : Nat)
  | frameClose (addr src stream frame : Nat)
  | join (addr offset : Nat)
  | deepCounts (column : Nat) (counts nEn : List Nat) (tQuiet : Nat)
  | deepFire (shots : List (Nat × Nat × Tick))
  | deepWin (chan : Nat) (lock : Tick) (windows : List Nat)
  | deepHist (chan : Nat) (h : DeepChan)
  | samples (conv att : Nat) (first : Tick) (vals : List (BitVec 12))
  | orderLate (addr frame : Nat)
  deriving DecidableEq, Repr

/-- A link-management block sent (R360): a LANE block by op, count and usable-lane mask, or a CREDIT block. -/
inductive LinkBlock where
  | lane (op count mask : Nat)
  | credit (vc0 vc1 vc3 : Nat)
  deriving DecidableEq, Repr

/-- A message that waits for credit: its VC, the data blocks of its packets not yet sent, and the message. -/
structure WaitMsg where
  vc   : Nat
  pkts : List Nat
  msg  : LinkMsg
  deriving DecidableEq, Repr

/-- A port (R353 to R362). `state` is coded as PLK_STATUS; `isOpen` says that packets beyond VC0 may cross it; `closed`
that it carries link-management blocks only (R365, R367). `peerMask` and `peerReq` are the partner's usable lanes and lane
count; `tx` the lanes in rotation outwards, `rx` the partner's count, `rising` a count that waits for LANE ready. `credit`
holds the data-block credits of VC0, VC1 and VC3; `txSeq` and `rxSeq` the next sequence number per VC; `cur` the VC of the
packet being received; `hit` the VCs whose next delivery an uncorrectable FEC block damaged; `lostNext` that the next item
carries lost_before; `vc0` a VC0 message without a response and its repeats; `waitFrom` since when VC3 waits for credit,
and whether the wait has been counted; `sent` and `blocks` what has left the port; `depart` a departing comma's stamp that
awaits its arrival; `arrive` the last arrival; `enabled` when the port was enabled last; `vc0At` when the message of `vc0`
was sent last; `asked` the lane count last requested; `wake` the lanes that the partner brings out of idle, with the time. -/
structure PortSt where
  state    : Nat := 0
  isOpen   : Bool := false
  closed   : Bool := false
  peerMask : Nat := 15
  peerReq  : Nat := 4
  tx       : List Nat := []
  rx       : Nat := 0
  rising   : Option Nat := none
  credit   : List Nat := [0, 0, 0]
  txSeq    : List Nat := [0, 0, 0, 0]
  rxSeq    : List Nat := [0, 0, 0, 0]
  cur      : Option Nat := none
  hit      : List Nat := []
  lostNext : Bool := false
  vc0      : Option (LinkMsg × Nat) := none
  waiting  : List WaitMsg := []
  waitFrom : Option (Tick × Bool) := none
  sent     : List LinkMsg := []
  blocks   : List LinkBlock := []
  depart   : Option Tick := none
  arrive   : Option Tick := none
  enabled  : Tick := 0
  vc0At    : Tick := 0
  asked    : Nat := 0
  wake     : List (Nat × Tick) := []
  deriving DecidableEq, Repr

/-- The Plonil link: the two ports and the eight lanes. -/
structure PlkSt where
  up    : PortSt := {}
  dn    : PortSt := {}
  lanes : Tab LaneSt := []
  deriving DecidableEq, Repr

/-- What the cascade master knows of a part (R365, R380, R385). -/
structure PartInfo where
  present : Bool := false
  joined  : Bool := false
  deepen  : Bool := false
  shared  : Bool := false
  dnState : Nat := 0
  join    : Nat := 0
  cap     : List Byte := []
  deriving DecidableEq, Repr

/-- What SEC signs (R365, R379): the master's own attestation, this part's attestation for an address, or the attestation
this part sends with an ENUM after a REENUM. -/
inductive SignJob where
  | own
  | attest (addr : Nat)
  | again
  deriving DecidableEq, Repr

/-- An attestation that waits for its verification: the sender's address for an ENUM, the nonce, the attestation. -/
structure VerifyJob where
  sender : Nat
  nonce  : List Byte
  att    : Attestation
  deriving DecidableEq, Repr

/-- A forwarded stream at the master (R375): the items received or made and not yet released, by unit and the master's frame
number; per unit the first frame it has not closed; the first frame not released; whether the next released item
carries lost_before; and the master's own closes, each by the first frame it left open, with its time. -/
structure MergeSt where
  items    : List (Nat × Nat × List Word64) := []
  closes   : Tab Nat := []
  next     : Nat := 0
  lostNext : Bool := false
  ownAt    : Tab Tick := []
  deriving DecidableEq, Repr

/-- The alignment of the UP hop (R368, R369), in 1/16 tick: the measurements of the present average, this part's own pairs
of departure and arrival by measurement index, the next index, the correction that waits with whether it applies whole,
whether the first has been applied, the trim, the residual, the corrections applied so far, the history of the uncorrected
offset, the hop's latency and cable delay in ticks; and of the DN hop this part's pairs, the next index, the cable delay and the
measurements exchanged. -/
structure AlignSt where
  thetas  : List Rat := []
  pairs   : Tab (Tick × Tick) := []
  index   : Nat := 0
  pend    : Int := 0
  whole   : Bool := false
  first   : Bool := false
  trim    : Nat := 0
  resid   : Int := 0
  applied : Int := 0
  hist    : List (Tick × Int) := []
  hop     : Nat := 0
  cable   : Nat := 0
  dnPairs : Tab (Tick × Tick) := []
  dnIndex : Nat := 0
  dnCable : Nat := 0
  dnCount : Nat := 0
  deriving DecidableEq, Repr

/-- The Trellis (R353, R365 to R380). `addr` is the Trellis address; `nonce`, `cap` and `sig` this part's attestation;
`signing` what SEC signs, `verUp` and `verDn` what SEC verifies; `asked` that this part has sent ATTEST; `accepted` that
ACCEPT came; `ended` that the master has ended enumeration; `enumerated` that START was sent or received; `lidarHeld` that
this part is the follower of a refused pair (R372); `fwd` per forwarded stream the first frame not closed upstream. -/
structure TrlSt where
  addr       : Nat := 0
  parts      : Tab PartInfo := []
  nParts     : Nat := 0
  nonce      : List Byte := []
  cap        : List Byte := []
  sig        : List Byte := []
  capUp      : List Byte := []
  capDn      : List Byte := []
  signing    : Option SignJob := none
  verUp      : Option VerifyJob := none
  verDn      : Option VerifyJob := none
  asked      : Bool := false
  accepted   : Bool := false
  ended      : Bool := false
  enumerated : Bool := false
  standalone : Bool := false
  upLost     : Bool := false
  deepen     : Bool := false
  shared     : Bool := false
  lidarHeld  : Bool := false
  t0         : Option Tick := none
  joinOff    : Nat := 0
  joining    : Option Nat := none
  align      : AlignSt := {}
  merge      : Tab MergeSt := []
  fwd        : Tab Nat := []
  ctlLast    : List Word64 × Nat := ([], 0)
  deriving DecidableEq, Repr

end Sys2Proof.Machine
end

