-- ==== Sys2Proof/Machine/TypesLoops.lean ====
section
/-! DEFINITION. The state of the control loop engine and of the aux sensor front end (chapter 9). -/

namespace Sys2Proof.Machine

/-- A control loop (R274 to R284). `rLim` has 8 further fraction bits; `target` is the plan field in force; `fbVal` the aux
feedback, `fbGood` the consecutive unflagged results (valid from two on), `invalid` whether the last sample found it invalid (R280),
`below` the comparator state of R277; `n`, `on`, `sumY` count the samples of
the item's interval and `hkN`, `hkOn` those of the housekeeping round, `hkDuty` the last round's duty as samples on and
samples and `hkReg` as its register shows it; `edge`, `periods`, `pulse`, `lost` serve the pulse set-point. -/
structure LoopSt where
  acc      : Int := 0
  started  : Bool := false
  rLim     : Int := 0
  target   : Int := 0
  drv      : Bool := false
  limiting : Bool := false
  clamped  : Bool := false
  absHit   : Bool := false
  y        : Int := 0
  r        : Int := 0
  corr     : Int := 0
  fbVal    : Int := 0
  fbGood   : Nat := 0
  invalid  : Bool := false
  below    : Bool := false
  n        : Nat := 0
  on       : Nat := 0
  sumY     : Int := 0
  hkN      : Nat := 0
  hkOn     : Nat := 0
  hkDuty   : Nat × Nat := (0, 0)
  hkReg    : Nat := 0
  edge     : Option Nat := none
  periods  : Nat := 0
  pulse    : Int := 0
  lost     : Bool := false
  deriving DecidableEq, Repr

/-- The control loop engine. -/
structure CleSt where
  loops : Tab LoopSt := []
  deriving DecidableEq, Repr

/-- An aux channel (R285 to R294): the first phase's ratio and flags, the charge range and its change in progress
(`step` 3: the first conversion after enable; 2, 1: the conversions n + 1 and n + 2 of R290), the runs of R289 and R291,
the railed wires of the last phases, the last result word, the last result free of the flags of R294,
whether it came since the last housekeeping round, and the packed results. -/
structure AsfCh where
  second  : Bool := false
  d1      : Rat := 0
  sat1    : Bool := false
  susp1   : Bool := false
  open1   : Bool := false
  range   : Nat := 0
  toRange : Nat := 0
  enabled : Bool := false
  step    : Nat := 0
  lowRun  : Nat := 0
  suspRun : Nat := 0
  okRun   : Nat := 0
  isOpen  : Bool := false
  suspect : Bool := false
  rail1   : BitVec 4 := 0
  rail2   : BitVec 4 := 0
  value   : Nat := 0
  good    : Option Int := none
  fresh   : Bool := false
  pack    : List Nat := []
  deriving DecidableEq, Repr

/-- The aux sensor front end: its channels and the schedule slot in progress (R286). -/
structure AsfSt where
  chans : Tab AsfCh := []
  slot  : Nat := 0
  deriving DecidableEq, Repr

end Sys2Proof.Machine
end

