-- ==== Sys2Proof/Machine/TypesSafety.lean ====
section
/-! DEFINITION. The state of the Cloche safety island (chapter 13). -/

namespace Sys2Proof.Machine

/-- A safe input (R392, R395): raw and filtered level, the cycles since the raw level last changed, the level held while a test pulse blanks it, whether it read 1 when
the pulse began, its consecutive missed pulses, whether it has an input fault, and its run of cycles at 0 (R398). -/
structure SafeInSt where
  raw    : Bool := false
  filt   : Bool := false
  held   : Option Bool := none
  high   : Bool := false
  missed : Nat := 0
  bad    : Bool := false
  lowRun : Nat := 0
  age    : Nat := 0
  deriving DecidableEq, Repr

/-- A chain (R397 to R401). `state` is coded as R397, `causes` and `demand` as CHAIN_STAT shows them. `disc` is a
discrepancy, `zeros` that both inputs have since read 0; `contact` the contact faults of the two buttons; `released` that
both buttons were seen released since RUN was last left, `late` a late second press. The brake test: its state (R416), the
powered time when it fell due, the passed test's powered time, whether a fail holds, whether it is overdue, and the window
results that have come. `runs` counts the cycles for which the pair differs or a button reads an invalid combination, `oneRun`
those with one button pressed alone; `ran` says that the chain has reached RUN since the self-test. -/
structure ChainSt where
  state    : Nat := 0
  causes   : Nat := 0
  demand   : Nat := 0
  disc     : Bool := false
  zeros    : Bool := false
  contact  : List Bool := [false, false]
  released : Bool := false
  late     : Bool := false
  brake    : Nat := 0
  dueAt    : Nat := 0
  pass     : Option Nat := none
  failed   : Bool := false
  overdue  : Bool := false
  results  : List (Bool × Nat) := []
  runs     : List Nat := [0, 0]
  oneRun   : Nat := 0
  ran      : Bool := false
  deriving DecidableEq, Repr

/-- A safe output (R406 to R410): its drives, the last readbacks, an output fault with its code and the run of good cycles
since, diagnostic-interval faults of the high and the low side and the lock-out they began, the test that runs (low side, begun while on), the tests
abandoned, and the powered minutes of the last completed tests; the cycles in which the last scheduled tests of the high and the
low side began, the side whose abandoned test is to run again, and the cycles for which the drives have held (R408, R409). -/
structure OutSt where
  hd      : Bool := false
  ld      : Bool := false
  hr      : Bool := false
  lr      : Bool := false
  faulty  : Bool := false
  diag    : Nat := 0
  okRun   : Nat := 0
  ivHigh  : Bool := false
  ivLow   : Bool := false
  ivLock  : Bool := false
  test    : Option (Bool × Bool) := none
  lost    : Nat := 0
  doneHi  : Nat := 0
  doneLo  : Nat := 0
  hiAt    : Option Nat := none
  loAt    : Option Nat := none
  again   : Option Bool := none
  heldRun : Nat := 0
  deriving DecidableEq, Repr

/-- A frame of a field set (R402): V, the two words, whether a mismatch and whether a missing word was found, and the cycle in
which the frame ended. -/
structure FieldFrame where
  v       : Bool := false
  hse     : Option Word64 := none
  tine    : Option Word64 := none
  mism    : Bool := false
  miss    : Bool := false
  ended   : Option Nat := none
  deriving DecidableEq, Repr

/-- A field set (R402): its last 15 frames, newest first, and its two lock-out causes. -/
structure FieldSt where
  frames   : List (Nat × FieldFrame) := []
  mismLock : Bool := false
  missLock : Bool := false
  deriving DecidableEq, Repr

/-- The zones (R404): the interval being judged, its zone words, its classifier word, whether it has been judged, and when its
classifier result is late; the zones
demanding; per zone the runs of inconsistent and of consistent intervals and the lock-out cause. -/
structure ZoneSt where
  interval : Option Nat := none
  words    : List Word64 := []
  cls      : Option (Nat × Option Word64) := none
  judged   : Bool := false
  demand   : Nat := 0
  incons   : Tab Nat := []
  cons     : Tab Nat := []
  lock     : Nat := 0
  due      : Tick := 0
  deriving DecidableEq, Repr

/-- A black-channel connection (R414 to R418): the next outbound seq, the last accepted inbound seq, whether one was
accepted since the self-test, whether it is timed out, the virtual inputs, the torque and the abort bit, the repeats, and the
cycles of the last accepted and of the last periodic outbound message. -/
structure ConnSt where
  txSeq   : Nat := 0
  rxSeq   : Option Nat := none
  got     : Bool := false
  timeout : Bool := false
  vi      : Nat := 0
  torque  : Bool := false
  abort   : Bool := false
  repeats : Nat := 0
  gotAt   : Nat := 0
  txAt    : Nat := 0
  deriving DecidableEq, Repr

/-- What an X12 message to the Cloche holds (R159, R191, R267, R401). -/
inductive X12Kind where
  | verdict
  | zone
  | tine (slot : Nat)
  | window (chan : Nat)
  deriving DecidableEq, Repr

/-- A message on its way to the Cloche through X12 (R21): its frame or interval, its words, each with its CRC, and for zone words
when the classifier result of their interval is late (R404). -/
structure X12Msg where
  kind  : X12Kind
  frame : Nat
  words : List (Word64 × Nat)
  due   : Tick := 0
  deriving DecidableEq, Repr

/-- The Cloche (R386 to R430). `passed` is the self-test; `island` the island faults that hold, one bit per kind in the
order of `IslandCause`; `hbRun` the heartbeats since the last gap; `cycles` counts evaluation cycles of the present minute
and `minutes` the powered time, `written` its value when last written; `tpLow` the TP outputs in a pulse; `blocked`
`lowRun` and `press` (the cycles of the last press) serve the reset input; `cyc` counts the evaluation cycles since the
self-test, `hbGap` those since the last heartbeat; `resumed` is the powered time the counter started from, `sessionAt` that of
the session's last command. `block` is the safety parameter block in force, `staged` the staged one; `session`,
`toSafe` are the messages in X12, oldest first, `x12Bad` the words in a row that failed their CRC; `failures` and `pwLock` the commissioning session, the failed logins and the minutes of the lock. -/
structure CloSt where
  inputs   : Tab SafeInSt := []
  chains   : Tab ChainSt := []
  outs     : Tab OutSt := []
  fields   : Tab FieldSt := []
  zones    : ZoneSt := {}
  conns    : Tab ConnSt := []
  passed   : Bool := false
  island   : BitVec 6 := 0
  partStop : Bool := false
  hbRun    : Nat := 0
  cycles   : Nat := 0
  minutes  : Nat := 0
  written  : Nat := 0
  tpLow    : BitVec 4 := 0
  blocked  : Bool := false
  lowRun   : Nat := 0
  press    : Nat := 0
  cyc      : Nat := 0
  hbGap    : Nat := 0
  resumed  : Nat := 0
  sessionAt : Nat := 0
  bcEvent  : Option Tick := none
  block    : List Byte := []
  staged   : Option (List Byte) := none
  session  : Bool := false
  failures : Nat := 0
  pwLock   : Nat := 0
  toSafe   : List X12Msg := []
  x12Bad   : Nat := 0
  deriving DecidableEq, Repr

end Sys2Proof.Machine
end

