-- ==== Sys2Proof/Machine/TypesTine.lean ====
section
/-! DEFINITION. The state of the tine DSP cluster (chapter 8): tines, slots, jobs, the tine SRAM region. -/

namespace Sys2Proof.Machine

/-- An active repeat (R254): its body's first and last index, the iterations left, and the call depth it began at. -/
structure Repeat where
  start : Nat
  stop  : Nat
  left  : Nat
  depth : Nat
  deriving DecidableEq, Repr

/-- A DMA transfer in flight (R256): its direction, local address, remote address and length in 8-byte words. -/
structure Dma where
  toData : Bool
  loc    : Nat
  remote : Nat
  len    : Nat
  deriving DecidableEq, Repr

/-- A tine (R243, R244): whether it runs a job and of which slot, the registers of the programmer's model, the index of
the next instruction in program memory, the stacks, the step count, data memory, the words emitted, the DMA channels, the slot's
scratch window as the job found it; program memory from index 0 on (R259); and its counts since POR_N. -/
structure TineSt where
  busy   : Bool := false
  slot   : Nat := 0
  d      : List (BitVec 16) := List.replicate 16 0
  acc    : List (BitVec 40) := List.replicate 4 0
  a      : List (BitVec 16) := List.replicate 8 0
  b      : List (BitVec 16) := List.replicate 8 0
  l      : List (BitVec 16) := List.replicate 8 0
  m      : List (BitVec 16) := List.replicate 8 0
  z      : Bool := false
  n      : Bool := false
  ovf    : Bool := false
  pc     : Nat := 0
  calls  : List (Nat × Nat) := []
  reps   : List Repeat := []
  steps  : Nat := 0
  mem    : Memory := []
  out    : List Word64 := []
  dma    : List (Option Dma) := [none, none]
  scratch : Memory := []
  prog   : List Word64 := []
  eccCorr : Nat := 0
  jobs   : Nat := 0
  deriving DecidableEq, Repr

/-- Where a job stands (R260 to R263). -/
inductive JobPhase where
  | waiting
  | running (tine : Nat)
  | ended
  deriving DecidableEq, Repr

/-- A closed job (R260, R261): its first frame and number of frames, the tag at 0x0000, the input bytes with the offset and
the length of each input, the input buffer it uses, the overflow, its phase; the status, OVF and words of its result,
whether a fence abandoned its run, whether it ran again, and whether an input item was degraded. -/
structure Job where
  first  : Nat
  frames : Nat
  tag    : Word64
  bytes  : List Byte
  spans  : List (Nat × Nat)
  buf    : Nat
  isOver : Bool
  phase  : JobPhase
  status : Nat := 0
  ovf    : Bool := false
  words  : List Word64 := []
  again  : Bool := false
  rerun  : Bool := false
  lost   : Bool := false
  degr   : Bool := false
  deriving DecidableEq, Repr

/-- A frame or sweep as it began (R261, R264): its number, generation and digest, and whether its grant defers P5. -/
structure JobFrame where
  frame  : Nat
  gen    : Nat
  digest : Nat
  defer  : Bool
  deriving DecidableEq, Repr

/-- A program slot (R258 to R265): the items taken with their input index, those that back-pressure holds before it (R260), the
first frame not closed, the newest frame of input 0, the frames at which the next plans start, the persistent state (absent: the
record's initial state), the frames from which a PLAN or SWAP resets it, its jobs in job order, whether the next result carries
lost_before, the last result (frame, status, OVF) and the frame of the last EVT 192. -/
structure SlotJobs where
  items    : List (Nat × Item) := []
  held     : List (Nat × Item) := []
  nextF    : Nat := 0
  pace     : Option Nat := none
  planNext : List Nat := []
  store    : Option (List Byte) := none
  resetAt  : List Nat := []
  jobs     : List Job := []
  lost     : Bool := false
  last     : Option (Nat × Nat × Bool) := none
  errFrame : Option Nat := none
  deriving DecidableEq, Repr

/-- The cluster: tines, slots, the loader's copies of the slots' code in SRAM (R257, R259), the tine SRAM region (R259), the grant
record it has taken, the frames and sweeps as they began, newest first, and the frames whose first deferred job, first
OVF job and first canopy finding have been reported. -/
structure TinSt where
  tines  : Tab TineSt := []
  slots  : Tab SlotJobs := []
  code   : Tab (List Word64) := []
  sram   : Memory := []
  grant  : List Byte := []
  beganL : List JobFrame := []
  beganF : List JobFrame := []
  evDef  : List Nat := []
  evOvf  : List Nat := []
  evFind : List Nat := []
  deriving DecidableEq, Repr

end Sys2Proof.Machine
end

