-- ==== Sys2Proof/Machine/State.lean ====
section
/-! DEFINITION. The state of the block: one record per block of R17, the register words, the committed configuration,
the queue of waiting commands and the counter of free values; the outcomes a step can end in; and reset. -/

namespace Sys2Proof.Machine

/-- A committed image record (R437): type, unit mask, flags and body bytes. -/
structure ImgRec where
  type  : Nat
  mask  : Nat
  flags : Nat
  body  : List Byte
  deriving DecidableEq, Repr

/-- The configuration region (R443): the records of the running image, empty before commit. -/
structure CfgSt where
  recs     : List ImgRec := []
  applied  : Bool := false
  deriving DecidableEq, Repr

/-- Why a step stops with a fault. No command of the spec's table stops the model; the type is kept for the interface.
`unreachable` is raised by nobody (safe). -/
inductive Fault where
  | unreachable
  deriving DecidableEq, Repr

/-- Why a step is refused. `notModelled` is raised by no arm once every command has its meaning (safe: it stops). -/
inductive Refusal where
  | notModelled (mnemonic : String)
  deriving DecidableEq, Repr

/-- The state. `regs` holds the words written since reset to the IMG, RT, W1C, RC and LCK registers, by BAR0
offset (R468); `fresh` the latest setting or increment of such a register, by its offset (a counter behind a selector by `countKey`, R11); `freeIdx` counts the free values taken; `pending` is the queue of waiting commands. -/
structure State where
  regs    : Tab Word32 := []
  fresh   : Tab Fresh := []
  cfg     : CfgSt := {}
  boot    : BootSt := {}
  sec     : SecSt := {}
  nvm     : NvmSt := {}
  tb      : TbSt := {}
  tdc     : TdcSt := {}
  tsu     : TsuSt := {}
  pfe     : PfeSt := {}
  esq     : EsqSt := {}
  hse     : HseSt := {}
  fib     : FibSt := {}
  fdc     : FdcSt := {}
  tae     : TaeSt := {}
  tin     : TinSt := {}
  cle     : CleSt := {}
  asf     : AsfSt := {}
  mcd     : McdSt := {}
  qsy     : QsySt := {}
  ala     : AlaSt := {}
  hkp     : HkpSt := {}
  plk     : PlkSt := {}
  trl     : TrlSt := {}
  clo     : CloSt := {}
  cloShown : CloSt := {}
  hif     : HifSt := {}
  fcl     : FclSt := {}
  freeIdx : Nat := 0
  pending : List Instr := []
  deriving DecidableEq, Repr

/-- The hash slots as shipped (R446) (DESIGN CHOICE, log entry 8). -/
def SecSt.shipped : SecSt :=
  { ks := [(List.range 32).map Config.ks0Hash, List.replicate 32 0, List.replicate 32 0, List.replicate 32 0],
    ar := [(List.range 32).map Config.ar0Hash, List.replicate 32 0] }

/-- The machine after reset (R12, R525): every register at its reset value, the OTP as shipped (R446), no NVM content
read, no command waiting (DESIGN CHOICE, log entries 1 and 8). -/
def State.reset : State := { sec := SecSt.shipped }

end Sys2Proof.Machine
end

