-- ==== Sys2Proof/Machine/Queues.lean ====
section
/-! DEFINITION. The operations all blocks share: register words and counters (R7 to R11), free values, TB time (R47, R48),
events and vectors (R478), fault messages (R492 to R495), fence units (R499), records of the running image (R437, R442),
tags (R26 to R30), queues (R316 to R319). -/

namespace Sys2Proof.Machine

/-! ### Source codes (R27) -/

abbrev Src.boot : Nat := 0x01
abbrev Src.sec : Nat := 0x02
abbrev Src.tbs : Nat := 0x03
abbrev Src.tsu : Nat := 0x04
abbrev Src.tdc : Nat := 0x05
abbrev Src.pfe : Nat := 0x06
abbrev Src.esq : Nat := 0x07
abbrev Src.hse : Nat := 0x08
abbrev Src.fib : Nat := 0x09
abbrev Src.fdc : Nat := 0x0A
abbrev Src.tae : Nat := 0x0B
abbrev Src.tin : Nat := 0x0C
abbrev Src.cle : Nat := 0x0D
abbrev Src.asf : Nat := 0x0E
abbrev Src.mcd : Nat := 0x0F
abbrev Src.qsy : Nat := 0x10
abbrev Src.ala : Nat := 0x11
abbrev Src.hkp : Nat := 0x12
abbrev Src.plk : Nat := 0x13
abbrev Src.trl : Nat := 0x14
abbrev Src.clo : Nat := 0x15
abbrev Src.fcl : Nat := 0x16
abbrev Src.hif : Nat := 0x17

/-- The source code of a block (R27). -/
def blockCode (b : Block) : Nat :=
  match b with
  | .boot => 0x01 | .sec => 0x02 | .tbs => 0x03 | .tsu => 0x04 | .tdc => 0x05 | .pfe => 0x06 | .esq => 0x07
  | .hse => 0x08 | .fib => 0x09 | .fdc => 0x0A | .tae => 0x0B | .tin => 0x0C | .cle => 0x0D | .asf => 0x0E
  | .mcd => 0x0F | .qsy => 0x10 | .ala => 0x11 | .hkp => 0x12 | .plk => 0x13 | .trl => 0x14 | .clo => 0x15
  | .fcl => 0x16 | .hif => 0x17

/-! ### TB time (R47, R48) -/

/-- The X7 snapshot of the TB counter, not reduced modulo 2^64: it never runs backwards when the offset falls (R23, R48)
(DESIGN CHOICE, log entry 7). -/
def now (s : State) : Tick := max s.tb.snap ((64 * s.tb.n : Int) + s.tb.phi).toNat

/-- The TB counter reaches `t` (never running backwards, R23): the TB edges up to `t` have passed
(DESIGN CHOICE, log entry 7). -/
def advance (t : Tick) (s : State) : State :=
  { s with tb := { s.tb with
      n := if s.tb.running then max s.tb.n ((((t : Int) - s.tb.phi) / 64).toNat) else s.tb.n } }

/-! ### Registers -/

/-- The word of a stored register: what was written, or the reset value (R12). -/
def rd (s : State) (off : Nat) : Word32 := Tab.lookD s.regs off (RegMap.reset off)

/-- A field of a stored register, as a number. -/
def rdf (s : State) (f : Fld) : Nat := bits (rd s f.reg).toNat f.lo f.len

/-- Whether a one-bit field is set. -/
def rdb (s : State) (f : Fld) : Bool := decide (rdf s f ≠ 0)

/-- Store a register word. -/
def wr (off : Nat) (v : Word32) (s : State) : State := { s with regs := Tab.put s.regs off v }

/-- What the part has set or added at key `k` in the tick now, while the TB counter runs (R11) (DEDUCED, log entry 62). -/
def freshNow (s : State) (k : Nat) : Option Fresh :=
  (Tab.look s.fresh k).filter fun f => s.tb.running && decide (f.stamp = now s)

/-- The bits that the part has set in a register in the tick now (R11). -/
def setNow (s : State) (k : Nat) : Word32 := ((freshNow s k).map (·.put)).getD 0

/-- The part sets the bits or adds the amount `d` at key `k`, which held `was` (R11). -/
def noteSet (join : Word32 → Word32 → Word32) (k : Nat) (was d : Word32) (s : State) : Tab Fresh :=
  match freshNow s k with
  | some f => Tab.put s.fresh k { f with put := join f.put d }
  | none => if s.tb.running then Tab.put s.fresh k ⟨was, d, now s⟩ else Tab.del s.fresh k

/-- The key of a counter that `off` shows of the group selected: an offset beyond BAR0 (R11). -/
def countKey (off g : Nat) : Nat := off + 16777216 * (g + 1)

/-- Set bit `i` of a W1C register (R8). -/
def stick (off i : Nat) (s : State) : State :=
  { s with
    regs := Tab.put s.regs off (rd s off ||| BitVec.ofNat 32 (2 ^ i)),
    fresh := noteSet (· ||| ·) off (rd s off) (BitVec.ofNat 32 (2 ^ i)) s }

/-- The word with bits `lo + w - 1` to `lo` replaced by `v`. -/
def putBits (x : Word32) (lo w v : Nat) : Word32 :=
  BitVec.ofNat 32 (x.toNat - bits x.toNat lo w * 2 ^ lo + v % 2 ^ w * 2 ^ lo)

/-- Add `k` to a saturating RC counter of `w` bits at bit `lo` (R8). -/
def bumpSat (off lo w k : Nat) (s : State) : State :=
  { s with
    regs := Tab.put s.regs off (putBits (rd s off) lo w (min (bits (rd s off).toNat lo w + k) (2 ^ w - 1))),
    fresh := noteSet (· + ·) off (rd s off) (BitVec.ofNat 32 (k * 2 ^ lo)) s }

/-- Add `k` to an RC counter of `w` bits at bit `lo` whose overflow the spec does not state: past its width its value is
free (DESIGN CHOICE, log entry 14). -/
def bumpAt (off lo w k : Nat) (s : State) : State :=
  { s with
    regs := Tab.put s.regs off
      (putBits (rd s off) lo w (if bits (rd s off).toNat lo w + k < 2 ^ w then bits (rd s off).toNat lo w + k
        else Config.freeNat s.freeIdx)),
    fresh := noteSet (· + ·) off (rd s off) (BitVec.ofNat 32 (k * 2 ^ lo)) s,
    freeIdx := if bits (rd s off).toNat lo w + k < 2 ^ w then s.freeIdx else s.freeIdx + 1 }

/-- Add `k` to a 16-bit RC counter (DESIGN CHOICE, log entry 14). -/
def bump (off k : Nat) (s : State) : State := bumpAt off 0 16 k s

/-! ### Free values -/

/-- The free value the next open value of the spec takes (DESIGN CHOICE, log entry 3). -/
def freeVal (s : State) : Nat := Config.freeNat s.freeIdx

/-- Step past a free value that was used (DESIGN CHOICE, log entry 3). -/
def useFree (s : State) : State := { s with freeIdx := s.freeIdx + 1 }

/-- A quantity in a fixed-point format whose rounding the spec does not state: one of the two nearest values, exact where
it is representable (DESIGN CHOICE, log entry 13). -/
def quantOf (s : State) (q : Rat) : Int := q.floor + (if q.den = 1 then 0 else ((freeVal s % 2 : Nat) : Int))

/-- Step past the free value of `quantOf` (DESIGN CHOICE, log entry 13). -/
def quantUsed (q : Rat) (s : State) : State := if q.den = 1 then s else useFree s

/-! ### Events (R478) -/

/-- The pending register of an event. -/
def evtReg (n : Nat) : Nat := Reg.HIF_EVT_PEND (n / 32)

/-- Whether an event's pending bit is set. -/
def evtPending (s : State) (n : Nat) : Bool := bitB (rd s (evtReg n)).toNat (n % 32)

/-- Raise event `n`: its pending bit is set, and an enabled event whose bit goes from 0 to 1 requests its vector. -/
def raise (n : Nat) (s : State) : State :=
  { s with
    regs := Tab.put s.regs (evtReg n) (rd s (evtReg n) ||| BitVec.ofNat 32 (2 ^ (n % 32))),
    fresh := noteSet (· ||| ·) (evtReg n) (rd s (evtReg n)) (BitVec.ofNat 32 (2 ^ (n % 32))) s,
    hif := { s.hif with
      vecReq := if rdb s (Fld.HIF_EVT_MAP_enable n) && !evtPending s n
        then s.hif.vecReq ||| BitVec.ofNat 64 (2 ^ rdf s (Fld.HIF_EVT_MAP_vector n)) else s.hif.vecReq } }

/-! ### Fault messages (R492 to R495) -/

/-- Send a fault message to the FCL, stamped with the present TB time (R493). -/
def post (src unit : Nat) (cls : FaultClass) (kind addr : Nat) (s : State) : State :=
  { s with fcl := { s.fcl with inFlight := s.fcl.inFlight ++
      [⟨now s, BitVec.ofNat 6 src, cls, BitVec.ofNat 8 unit, BitVec.ofNat 16 kind, BitVec.ofNat 32 addr⟩] } }

/-- A fault that an event table lists with a class: the event and the message are raised together (R494). -/
def fault (n src unit : Nat) (cls : FaultClass) (addr : Nat) (s : State) : State := post src unit cls n addr (raise n s)

/-! ### Fence units (R499) -/

abbrev Unit.strip (k : Nat) : Nat := k
abbrev Unit.tine (k : Nat) : Nat := 0x20 + k
abbrev Unit.bank (k : Nat) : Nat := 0x30 + k
abbrev Unit.adc (k : Nat) : Nat := 0x40 + k
abbrev Unit.lane (k : Nat) : Nat := 0x48 + k
abbrev Unit.mbank (k : Nat) : Nat := 0x50 + k
abbrev Unit.engine (k : Nat) : Nat := 0x58 + k

/-- Whether fence unit `u` is fenced. -/
def isFenced (s : State) (u : Nat) : Bool := s.fcl.fenced.getLsbD u

/-- Whether any unit from `u` on, `k` of them, has its bit set in `m`. -/
def anyUnit (m : BitVec 90) (u k : Nat) : Bool := decide (bits m.toNat u k ≠ 0)

/-! ### Image records (R437, R442) -/

/-- The records of a type that apply to this part. Addressed records apply from the end of step 9 (R442). -/
def recsOf (s : State) (type : Nat) : List ImgRec :=
  s.cfg.recs.filter fun r => decide (r.type = type) &&
    (decide (r.mask = 0xFFFF) || (s.cfg.applied && bitB r.mask s.trl.addr))

/-- The first applying record of a type. -/
def recOf (s : State) (type : Nat) : Option ImgRec := (recsOf s type).head?

/-- The applying record of a type whose field at byte `off`, bits `lo`, width `len` of that 32-bit word, holds `v`. -/
def recWhere (s : State) (type off lo len v : Nat) : Option ImgRec :=
  (recsOf s type).find? fun r => decide (bits (leAt r.body off 4) lo len = v)

/-- A field of a record body: bits `lo + len - 1` to `lo` of the 32-bit word at byte `off`. -/
def rf (r : ImgRec) (off lo len : Nat) : Nat := bits (leAt r.body off 4) lo len

/-- The personality in force: 0 before commit, 1 lidar, 2 fibre, 3 both (R439). -/
def personality (s : State) : Nat :=
  match recOf s 0x0101 with
  | some r => rf r 0 0 2
  | none => 0

/-- Whether the lidar blocks are in use; the follower of a refused deepen pair holds them down (R372). -/
def hasLidar (s : State) : Bool := decide (personality s % 2 = 1) && !s.trl.lidarHeld
def hasFibre (s : State) : Bool := decide (personality s ≥ 2)

/-! ### Tags and items (R26 to R32) -/

/-- The boundary context of items of blocks that serve both personalities: the lidar frame where there is one. -/
def curCtx (s : State) : TagCtx := if hasFibre s && !hasLidar s then s.fib.ctx else s.esq.ctx

/-- The boundary context of the items that close with sweeps where there are any, else with frames (R282, R293). -/
def sweepCtx (s : State) : TagCtx := if hasFibre s then s.fib.ctx else s.esq.ctx

/-- Whether an item of context `c` carries warming (R43). -/
def warmingOf (s : State) (c : TagCtx) : Bool :=
  if c.begun then
    match (match c.dom with | .lidar => s.tb.warmL | .fibre => s.tb.warmF) with
    | none => true
    | some f => decide (c.frame < f)
  else !s.tb.warm

/-- The tine_mask of a program slot (R258), 0 without a record. -/
def slotTines (s : State) (slot : Nat) : Nat :=
  match recWhere s 0x0C01 0 0 4 slot with
  | some r => rf r 0x0C 0 16
  | none => 0

/-- Whether FDC channel `ch` is a DAS channel (R208). -/
def fdcIsDas (s : State) (ch : Nat) : Bool := (recWhere s 0x0A01 0 0 4 ch).any fun r => decide (rf r 0 4 1 = 0)

/-- Whether a fenced unit feeds the stream (R501). -/
def degradedOf (s : State) (src stream : Nat) : Bool :=
  let m := s.fcl.shown
  let strip := anyUnit m 0 32
  let bank := anyUnit m 0x30 16
  let adc := anyUnit m 0x40 8
  let mb := anyUnit m 0x50 8
  if src = Src.pfe then strip && decide (stream = 0)
  else if src = Src.tdc then strip && (decide (stream = 1) || decide (stream = 2))
  else if src = Src.hse then decide (stream ≤ 3) && (strip || bank)
  else if src = Src.esq then bank && decide (stream = 0)
  else if src = Src.fib then adc && decide (stream ≤ 4)
  else if src = Src.fdc then adc && fdcIsDas s stream
  else if src = Src.tae then mb && decide (stream ≤ 2)
  else if src = Src.tin then mb || decide (Nat.land (slotTines s stream) (bits m.toNat 0x20 16) ≠ 0)
  else false

/-- The key of a stream. -/
def skey (src stream : Nat) : Nat := 64 * src + stream

/-- The flag bits an item carries beside `extra` (R28). -/
def flagsOf (s : State) (c : TagCtx) (src stream extra : Nat) : Nat :=
  let conflict := (match c.dom with | .lidar => s.hif.conflictL | .fibre => s.hif.conflictF).contains (c.frame % 2 ^ 24)
  Nat.lor extra (b2n (warmingOf s c) + 2 * b2n (degradedOf s src stream)
    + 8 * b2n (s.qsy.lostBefore.contains (skey src stream)) + 16 * b2n (c.begun && conflict))

/-- The tag of an item (R26). -/
def mkTag (s : State) (c : TagCtx) (src stream flags : Nat) : Word64 :=
  BitVec.ofNat 64 (s.trl.addr % 16 * 2 ^ 60 + src % 64 * 2 ^ 54 + stream % 64 * 2 ^ 48 + c.frame % 2 ^ 24 * 2 ^ 24
    + c.gen % 256 * 2 ^ 16 + c.digest % 256 * 2 ^ 8 + flags % 256)

/-- The unreduced number of a frame behind or at the one in progress of context `c`, from its 24 bits. -/
def liftFrame (c : TagCtx) (f : Nat) : Nat := c.frame - (c.frame % 2 ^ 24 + (2 ^ 24 - f % 2 ^ 24)) % 2 ^ 24

/-- The fields of a tag (R26). -/
def tagUnit (w : Word64) : Nat := bits w.toNat 60 4
def tagSrc (w : Word64) : Nat := bits w.toNat 54 6
def tagStream (w : Word64) : Nat := bits w.toNat 48 6
def tagFrame (w : Word64) : Nat := bits w.toNat 24 24
def tagGen (w : Word64) : Nat := bits w.toNat 16 8
def tagDigest (w : Word64) : Nat := bits w.toNat 8 8
def tagFlags (w : Word64) : Nat := bits w.toNat 0 8

/-- Set flag bits in a tag. -/
def tagOr (w : Word64) (f : Nat) : Word64 := w ||| BitVec.ofNat 64 f

/-- The item key order of R29: frame by serial arithmetic, then unit, source and stream. -/
def tagLt (a b : Word64) : Bool :=
  if tagFrame a = tagFrame b then
    decide (bits a.toNat 60 4 * 4096 + bits a.toNat 48 12 < bits b.toNat 60 4 * 4096 + bits b.toNat 48 12)
  else if (tagFrame b + (2 ^ 24 - tagFrame a)) % 2 ^ 24 = 2 ^ 23 then decide (tagFrame a < tagFrame b)
  else precedes (tagFrame a) (tagFrame b)

/-! ### Queues (R316 to R319) -/

/-- The key of queue `i` of group `g`. -/
def qkey (g i : Nat) : Nat := 1024 * g + i

def queueOf (s : State) (g i : Nat) : Queue := Tab.lookD s.qsy.queues (qkey g i) {}

def qDepth (s : State) (g : Nat) : Nat := s.qsy.depth.getD g 0

/-- A BP queue keeps since when it is full; its full episode ends with the first free place (R319). -/
def Queue.timed (q : Queue) (depth : Nat) (t : Tick) : Queue :=
  if depth ≤ q.words.length then { q with fullAt := some (q.fullAt.getD t) } else { q with fullAt := none, stalled := false }

def setQueue (g i : Nat) (q : Queue) (s : State) : State :=
  { s with qsy := { s.qsy with queues := Tab.put s.qsy.queues (qkey g i) (if g < 4 then q else q.timed (qDepth s g) (now s)),
                               hwm := s.qsy.hwm.set g (max (s.qsy.hwm.getD g 0) q.words.length) } }

/-- The queue words of an item: packets of at most 512 words (R316). `i` counts the words before. -/
def packWords (i : Nat) (l : List Word64) : List QWord :=
  match l with
  | [] => []
  | w :: r =>
    let last := r.isEmpty || decide (i % 512 = 511)
    { data := w, last := last, parity := evenParity w last, itemEnd := r.isEmpty } :: packWords (i + 1) r

/-- Write words to a BP queue: what does not fit is held, and everything behind a held word is held (R319). -/
def Queue.push (q : Queue) (depth : Nat) (l : List QWord) : Queue :=
  if q.held.isEmpty then
    { q with words := q.words ++ l.take (depth - q.words.length), held := l.drop (depth - q.words.length) }
  else { q with held := q.held ++ l }

/-- Write words to queue `i` of a BP group. -/
def pushBP (g i : Nat) (l : List QWord) (s : State) : State := setQueue g i ((queueOf s g i).push (qDepth s g) l) s

/-- The event of an RT group's owner and its source block (R318). -/
def rtEvent (g : Nat) : Nat × Nat := if g ≤ 1 then (69, Src.tdc) else if g = 2 then (42, Src.tsu) else (164, Src.fib)

/-- Write one word to a queue of an RT group: a full queue loses its oldest word, which the group counts and the owning
block reports (R318). -/
def pushRT (g i : Nat) (w : Word64) (s : State) : State :=
  let q := queueOf s g i
  let x : QWord := { data := w, last := true, parity := evenParity w true, itemEnd := true }
  if q.words.length < qDepth s g then setQueue g i { q with words := q.words ++ [x] } s
  else
    let s := setQueue g i { q with words := q.words.drop 1 ++ [x], lost := true } s
    let n := s.qsy.lostCt.getD g 0
    let s := { s with
      fresh := noteSet (· + ·) (countKey Reg.QSY_GROUP_LOST g) (BitVec.ofNat 32 n) 1 s,
      qsy := { s.qsy with lostCt := s.qsy.lostCt.set g (min (n + 1) (2 ^ 32 - 1)) } }
    fault (rtEvent g).1 (rtEvent g).2 (if g = 0 then i / 16 else if g = 1 then i else if g = 3 then i else 0) .corrected i
      (stick Reg.QSY_STICKY 1 s)

/-- Whether the parity of a queue word fails when it is read (R316). -/
def QWord.fails (w : QWord) : Bool := !decide (w.parity = evenParity w.data w.last)

/-- How many of the words read fail their parity (R316) (DESIGN CHOICE, log entry 61). -/
def failing (l : List QWord) : Nat := (l.filter fun w => w.fails).length

/-- Failing words are counted and reported (R316). -/
def parityFailed (k m : Nat) (s : State) : State :=
  if k = 0 then s else stick Reg.QSY_STICKY 0 (bump Reg.QSY_PARITY k (fault 248 Src.qsy 0 .corrected m s))

/-- Read every word of a queue: the words, and how many failed (R316). -/
def takeAll (g i : Nat) (s : State) : State :=
  parityFailed (failing (queueOf s g i).words) i (setQueue g i { queueOf s g i with words := [], lost := false } s)

/-- An uncorrectable error damages the word at place `pos` of a queue: its parity fails when it is read (R316, R495). -/
def hitWord (g i pos : Nat) (s : State) : State :=
  setQueue g i { queueOf s g i with words := (queueOf s g i).words.mapIdx fun k w =>
    if k = pos then { w with parity := !evenParity w.data w.last } else w } s

/-- Read the oldest word of a queue. Words the producer holds wait for BP_QUEUE_SPACE (R319). -/
def popQueue (g i : Nat) (s : State) : Option QWord × State :=
  let q := queueOf s g i
  match q.words with
  | [] => (none, s)
  | w :: r =>
    let q' : Queue := { q with words := r, mid := !w.last, curTag := if w.itemEnd then none else some (q.curTag.getD w.data) }
    (some w, setQueue g i q' s)

/-- The words of the first whole item of a list of queue words, and the rest. -/
def splitItem (l : List QWord) : List QWord × List QWord :=
  match l with
  | [] => ([], [])
  | w :: r => if w.itemEnd then ([w], r) else let p := splitItem r; (w :: p.1, p.2)

end Sys2Proof.Machine
end

