-- ==== Sys2Proof/Machine/LinkOps.lean ====
section
/-! DEFINITION. The operations of the link that every block may use: ports and lanes (R353, R357), messages on their virtual
channels under credit (R361, R363), forwarding and merging of items (R375), and the correction of the time (R369). -/

namespace Sys2Proof.Machine

/-! ### Ports, lanes, the cascade record -/

def portOf (s : State) (p : Port) : PortSt := match p with | .up => s.plk.up | .dn => s.plk.dn

def setPort (p : Port) (x : PortSt) (s : State) : State :=
  match p with
  | .up => { s with plk := { s.plk with up := x } }
  | .dn => { s with plk := { s.plk with dn := x } }

def laneSt (s : State) (l : Nat) : LaneSt := Tab.lookD s.plk.lanes l {}

def setLane (l : Nat) (x : LaneSt) (s : State) : State := { s with plk := { s.plk with lanes := Tab.put s.plk.lanes l x } }

/-- Lanes 0 to 3 form the UP port, lanes 4 to 7 the DN port (R353). -/
def portLanes (p : Port) : List Nat := match p with | .up => [0, 1, 2, 3] | .dn => [4, 5, 6, 7]

def portOfLane (l : Nat) : Port := if l < 4 then .up else .dn

/-- The trained lanes of a port. -/
def trainedCount (s : State) (p : Port) : Nat := ((portLanes p).filter fun l => (laneSt s l).trained).length

/-- The cascade record (R371). -/
def cascRec (s : State) : Option ImgRec := recOf s 0x1401

def cascField (s : State) (off lo len : Nat) : Nat := (cascRec s).elim 0 fun r => rf r off lo len

/-- Whether the part is the cascade master by its strap (R353). -/
def isMaster (s : State) : Bool := s.boot.straps.master

/-- Whether the part takes part in a chain: it has a cascade record and does not run standalone (R365, R367). -/
def inCascade (s : State) : Bool := (cascRec s).isSome && !s.trl.standalone

/-- The role entry of this part (R371): lidar role, owner, partner, owner's address, tone mask. -/
def roleEntry (s : State) : Nat := if inCascade s then cascField s (0x40 + 4 * s.trl.addr) 0 16 else 0

/-- Whether this part is the owner, or a partner, of a shared fibre that is granted (R373). -/
def fibreOwner (s : State) : Bool := s.trl.shared && bitB (roleEntry s) 2
def fibrePartner (s : State) : Bool := s.trl.shared && bitB (roleEntry s) 3

/-- The role entry of address `a` (R371). -/
def roleAt (s : State) (a : Nat) : Nat := cascField s (0x40 + 4 * a) 0 16

/-- The addresses of the partners of owner `o` (R371). -/
def partnersOf (s : State) (o : Nat) : List Nat :=
  (List.range 16).filter fun a => bitB (roleAt s a) 3 && decide (bits (roleAt s a) 4 4 = o)

/-- The owners that have partners (R371). -/
def owners (s : State) : List Nat := (List.range 16).filter fun a => bitB (roleAt s a) 2 && !(partnersOf s a).isEmpty

/-- The ports beyond which an owner's samples have a partner to reach (R373): `os` are the owners whose samples are sent on. -/
def samplePorts (s : State) (os : List Nat) : List Port :=
  let a := s.trl.addr
  (if os.any fun o => decide (o ≤ a) && (partnersOf s o).any fun p => decide (a < p) then [Port.dn] else []) ++
  (if os.any fun o => decide (a ≤ o) && (partnersOf s o).any fun p => decide (p < a) then [Port.up] else [])

/-- The tones this part processes (R190, R373): those of its mask on a shared fibre, else all. -/
def toneMask (s : State) : Nat := if fibreOwner s || fibrePartner s then bits (roleEntry s) 8 8 else 255

/-- The tone that has the role of tone 0 (R187, R373). -/
def refTone (s : State) : Nat := ((List.range 8).find? fun n => bitB (toneMask s) n).getD 0

/-! ### Messages (R360 to R363) -/

/-- Send a link-management block. -/
def sendBlock (p : Port) (b : LinkBlock) (s : State) : State :=
  setPort p { portOf s p with blocks := (portOf s p).blocks ++ [b] } s

/-- The payload bytes of a message (R363). -/
def LinkMsg.bytes (m : LinkMsg) : Nat :=
  match m with
  | .enum _ _ _ _ => 1 + 32 + 64 + 29936 + 49856
  | .attest _ _ => 64 + 29936 + 49856
  | .accept _ | .reject _ => 1
  | .capReport _ _ _ => 66
  | .reenum _ _ => 33
  | .align _ _ _ => 20
  | .start _ _ => 24
  | .swapPrepare _ _ _ => 5
  | .swapReady _ _ => 4
  | .swapCommit _ | .swapCancel _ => 3
  | .order _ _ _ => 104
  | .frameClose _ _ _ _ => 5
  | .join _ _ => 4
  | .orderLate _ _ => 4
  | .deepCounts _ _ _ _ | .deepFire _ | .deepWin _ _ _ | .deepHist _ _ | .samples _ _ _ _ => 0

/-- The type of a message (R363); the report of a late order has none there (DESIGN CHOICE, log entry 33). -/
def LinkMsg.type (m : LinkMsg) : Nat :=
  match m with
  | .enum _ _ _ _ => 0x10
  | .attest _ _ => 0x11
  | .accept _ => 0x12
  | .reject _ => 0x13
  | .capReport _ _ _ => 0x14
  | .reenum _ _ => 0x15
  | .align _ _ _ => 0x20
  | .start _ _ => 0x21
  | .swapPrepare _ _ _ => 0x22
  | .swapReady _ _ => 0x23
  | .swapCommit _ => 0x24
  | .swapCancel _ => 0x25
  | .order _ _ _ => 0x26
  | .frameClose _ _ _ _ => 0x27
  | .join _ _ => 0x28
  | .deepCounts _ _ _ _ => 0x30
  | .deepFire _ => 0x31
  | .deepWin _ _ _ => 0x32
  | .deepHist _ _ => 0x33
  | .samples _ _ _ _ => 0x34
  | .orderLate _ _ => 0

/-- The part's certificate (R366). -/
def ownCert : List Byte := (List.range 29936).map Config.certByte

/-- The packet words of SAMPLES (R373): the converter, its input's attenuation and the first sample's tick, then 16 samples in
every three words. -/
def samplesWords (conv att : Nat) (first : Tick) (vals : List (BitVec 12)) : List Word64 :=
  let n := (vals.length + 15) / 16 * 3
  let v := vals.foldr (fun x a => x.toNat + 4096 * a) 0
  BitVec.ofNat 64 (conv % 8 + 8 * (att % 4) + 256 * (first % 2 ^ 56)) :: (List.range n).map fun i => BitVec.ofNat 64 (v / 2 ^ (64 * i))

/-- The payload of a message as R363 lays it out, each field at the next byte, least significant byte first; R363 gives the
deepen messages no widths, and they have none here (DESIGN CHOICE, log entry 29). -/
def LinkMsg.payload (m : LinkMsg) : List Byte :=
  match m with
  | .enum a nonce cap sig => leBytes 1 a ++ nonce ++ cap ++ ownCert ++ sig
  | .attest cap sig => cap ++ ownCert ++ sig
  | .accept a => leBytes 1 a
  | .reject r => leBytes 1 r
  | .capReport a d cap => leBytes 1 a ++ leBytes 1 d ++ cap
  | .reenum a nonce => leBytes 1 a ++ nonce
  | .align i d a => leBytes 4 i ++ leBytes 8 d ++ leBytes 8 a
  | .start t g => leBytes 8 t ++ g
  | .swapPrepare f p t => leBytes 1 (b2n f) ++ leBytes 1 p ++ leBytes 3 t
  | .swapReady a t => leBytes 1 a ++ leBytes 3 t
  | .swapCommit t | .swapCancel t => leBytes 3 t
  | .order _ args _ => args
  | .frameClose _ src stream f => leBytes 1 src ++ leBytes 1 stream ++ leBytes 3 f
  | .join a o => leBytes 1 a ++ leBytes 3 o
  | .orderLate a f => leBytes 1 a ++ leBytes 3 f
  | .samples c a f v => (samplesWords c a f v).flatMap fun w => leBytes 8 w.toNat
  | .deepCounts _ _ _ _ | .deepFire _ | .deepWin _ _ _ | .deepHist _ _ => []

/-- The words of a message (R363): type and length of the payload, then the payload padded to a 64-bit boundary. -/
def LinkMsg.words (m : LinkMsg) : List Word64 :=
  let p := m.payload
  BitVec.ofNat 64 (m.type + 256 * p.length) :: (List.range ((p.length + 7) / 8)).map fun i => BitVec.ofNat 64 (leAt p (8 * i) 8)

/-- The virtual channel of a message (R363). -/
def LinkMsg.vc (m : LinkMsg) : Nat :=
  match m with
  | .enum _ _ _ _ | .attest _ _ | .accept _ | .reject _ => 0
  | .deepCounts _ _ _ _ | .deepFire _ | .deepWin _ _ _ | .deepHist _ _ | .samples _ _ _ _ => 2
  | _ => 1

/-- The data blocks of the packets of `w` words (R360): at most 512 words a packet, four words a block. -/
def packetBlocks (fuel w : Nat) : List Nat :=
  match fuel with
  | 0 => []
  | f + 1 => if w = 0 then [] else ((min w 512 + 3) / 4) :: packetBlocks f (w - 512)

/-- The credit held for a VC; VC2 needs none (R361). -/
def creditOf (x : PortSt) (vc : Nat) : Nat := x.credit.getD (if vc = 3 then 2 else vc) 0

def takeCredit (x : PortSt) (vc n : Nat) : PortSt :=
  { x with credit := x.credit.set (if vc = 3 then 2 else vc) (creditOf x vc - n),
           txSeq := x.txSeq.set vc ((x.txSeq.getD vc 0 + 1) % 65536) }

/-- Send the packets of the first waiting message of VC `vc` as far as its credit goes; `fuel` bounds the packets
(DESIGN CHOICE, log entry 29). -/
def pumpVc (fuel vc : Nat) (x : PortSt) : PortSt :=
  match fuel with
  | 0 => x
  | f + 1 =>
    match x.waiting.find? fun m => decide (m.vc = vc) with
    | none => x
    | some m =>
      match m.pkts with
      | [] => pumpVc f vc { x with waiting := x.waiting.erase m, sent := x.sent ++ [m.msg] }
      | b :: r =>
        if b ≤ creditOf x vc then
          let m' : WaitMsg := { m with pkts := r }
          pumpVc f vc { takeCredit x vc b with waiting := x.waiting.replace m m' }
        else x

/-- The words of the first whole packet of a queue. -/
def firstPacket (l : List QWord) : Option (List QWord) :=
  let n := (l.takeWhile fun w => !w.last).length
  if n < l.length then some (l.take (n + 1)) else none

/-- The transmit queue of a port (group 8). -/
def txQueue (s : State) (p : Port) : Queue := queueOf s 8 (match p with | .up => 0 | .dn => 1)

/-- Send VC3 packets from the transmit queue while credit lasts; a packet without credit starts a wait (R361, R384)
(DESIGN CHOICE, log entry 29). -/
def pumpVc3 (fuel : Nat) (p : Port) (s : State) : State :=
  match fuel with
  | 0 => s
  | f + 1 =>
    let q := txQueue s p
    match firstPacket q.words with
    | none => s
    | some pk =>
      let x := portOf s p
      let b := (pk.length + 3) / 4
      if b ≤ creditOf x 3 then
        let s := setPort p { takeCredit x 3 b with waitFrom := none } s
        let i := match p with | .up => 0 | .dn => 1
        pumpVc3 f p (parityFailed (failing (q.words.take pk.length)) i (setQueue 8 i { q with words := q.words.drop pk.length } s))
      else setPort p { x with waitFrom := some (x.waitFrom.getD (now s, false)) } s

/-- Whether a port carries packets of VC1 to VC3. -/
def carries (s : State) (p : Port) : Bool :=
  decide ((portOf s p).state = 2) && (portOf s p).isOpen && !(portOf s p).closed

/-- Start what the credits allow, in the order of R361. -/
def pump (p : Port) (s : State) : State :=
  let x := portOf s p
  let n := 2 * x.waiting.length + sumN (x.waiting.map fun m => m.pkts.length)
  let s := setPort p (pumpVc n 0 (if carries s p then pumpVc n 1 x else x)) s
  if carries s p then pumpVc3 (txQueue s p).words.length p s else s

/-- Send a message on a port. VC2 is never held (R361); a port that carries no packets sends nothing
(DESIGN CHOICE, log entry 29). -/
def sendMsg (p : Port) (m : LinkMsg) (s : State) : State :=
  let x := portOf s p
  if m.vc = 0 then
    if x.state = 2 && !x.closed then
      pump p (setPort p { x with waiting := x.waiting ++ [⟨0, packetBlocks 200 ((m.bytes + 7) / 8 + 1), m⟩] } s)
    else s
  else if !carries s p then s
  else if m.vc = 2 then
    setPort p { x with sent := x.sent ++ [m], txSeq := x.txSeq.set 2 ((x.txSeq.getD 2 0 + 1) % 65536) } s
  else pump p (setPort p { x with waiting := x.waiting ++ [⟨1, packetBlocks 200 ((m.bytes + 7) / 8 + 1), m⟩] } s)

/-- A message of `bytes` payload bytes has left its receive buffer (R361): the credits of its data blocks go back on VC0 or
VC1. -/
def received (p : Port) (vc bytes : Nat) (s : State) : State :=
  let n := sumN (packetBlocks 200 ((bytes + 7) / 8 + 1))
  if (portOf s p).state = 2 && (vc = 0 || carries s p) then
    sendBlock p (.credit (if vc = 0 then n else 0) (if vc = 1 then n else 0) 0) s
  else s

/-- Send a VC0 message that expects a response (R362) (DEDUCED, log entry 30). -/
def sendAwait (p : Port) (m : LinkMsg) (s : State) : State :=
  sendMsg p m (setPort p { portOf s p with vc0 := some (m, 0), vc0At := now s } s)

/-- A message for the master goes up (R363) (DEDUCED, log entry 32). -/
def toMaster (m : LinkMsg) (s : State) : State := if isMaster s || s.trl.upLost then s else sendMsg .up m s

/-- A message to the deepen partner (R363): the leader's partner lies below it, the follower's above. -/
def toPartner (m : LinkMsg) (s : State) : State :=
  match s.hse.role with
  | .single => s
  | .leader => sendMsg .dn m s
  | .follower => sendMsg .up m s

/-! ### Forwarding and merging (R375) -/

/-- Whether a stream is forwarded (R371). -/
def isForwarded (s : State) (src stream : Nat) : Bool :=
  (cascRec s).any fun r => (List.range (rf r 0x14 0 5)).any fun f =>
    decide (leAt r.body (0x18 + 2 * f) 1 % 64 = src) && decide (leAt r.body (0x19 + 2 * f) 1 % 64 = stream)

/-- The streams of a block that are forwarded (R371). -/
def fwdOf (s : State) (src : Nat) : List Nat := (List.range 0x3F).filter (isForwarded s src)

/-- The boundary domain of the frames of a source's items. -/
def srcDom (s : State) (src : Nat) : Dom :=
  if !hasLidar s then .fibre else if !hasFibre s then .lidar
  else if src = Src.fib || src = Src.fdc || src = Src.cle || src = Src.asf then .fibre else .lidar

def domCtx (s : State) (d : Dom) : TagCtx := match d with | .lidar => s.esq.ctx | .fibre => s.fib.ctx

/-- The frame nearest to `cur` whose 24 bits are `f`. -/
def liftNear (cur f : Nat) : Nat :=
  let d := (f + (2 ^ 24 - cur % 2 ^ 24)) % 2 ^ 24
  if d < 2 ^ 23 then cur + d else cur + d - 2 ^ 24

def mergeOf (s : State) (k : Nat) : MergeSt := Tab.lookD s.trl.merge k {}

def setMerge (k : Nat) (m : MergeSt) (s : State) : State := { s with trl := { s.trl with merge := Tab.put s.trl.merge k m } }

/-- The entry of HIF_STREAM_MAP that delivers a stream (R470). -/
def mapEntry (s : State) (src stream : Nat) : Option Nat :=
  (List.range 64).find? fun m => rdb s (Fld.HIF_STREAM_MAP_enable m) && decide (rdf s (Fld.HIF_STREAM_MAP_source m) = src)
    && decide (rdf s (Fld.HIF_STREAM_MAP_stream m) = stream)

/-- Put the words of an item into the output queue of its stream, when a map entry delivers the stream, with the time at which
they reach the HIF (R470, R471, R317). -/
def hostItem (src stream : Nat) (ws : List Word64) (s : State) : State :=
  match mapEntry s src stream with
  | some m => pushBP 4 m ((packWords 0 ws).map fun w => { w with came := now s }) s
  | none => s

/-- Whether the merged items of every part reach the host: the stream's map entry has any_unit (R470)
(DEDUCED, log entry 32). -/
def mapsAny (s : State) (src stream : Nat) : Bool :=
  (mapEntry s src stream).any fun m => rdb s (Fld.HIF_STREAM_MAP_any_unit m)

/-- The parts whose close the master awaits (R375): itself and the present parts. -/
def mergeUnits (s : State) : List Nat := 0 :: (s.trl.parts.filter fun e => e.2.present && decide (e.1 ≠ 0)).map (·.1)

/-- The first frame that part `u` has not closed, in the master's numbering. -/
def closedBefore (s : State) (m : MergeSt) (u : Nat) : Nat := Tab.lookD m.closes u (Tab.lookD s.trl.parts u {}).join

/-- The release order (R29, R375): frame, then unit, then the order of arrival. -/
def mergeLt (a b : Nat × Nat × List Word64) : Bool :=
  if a.2.1 = b.2.1 then decide (a.1 < b.1) else decide (a.2.1 < b.2.1)

/-- The master releases every frame of a stream before `f` (DEDUCED, log entry 32). -/
def releaseTo (src stream f : Nat) (s : State) : State :=
  let k := skey src stream
  let m := mergeOf s k
  if m.next < f then
    let out := sortBy mergeLt (m.items.filter fun i => decide (i.2.1 < f))
    let s := setMerge k { m with ownAt := m.ownAt.filter (fun e => decide (f < e.1)), items := m.items.filter (fun i => !decide (i.2.1 < f)), next := f,
                                 lostNext := m.lostNext && out.isEmpty } s
    (out.foldl (fun (a : State × Bool) i =>
      let ws := match i.2.2 with | [] => [] | w :: r => (if a.2 then tagOr w 8 else w) :: r
      (if mapsAny s src stream then hostItem src stream ws a.1 else a.1, false)) (s, m.lostNext)).1
  else s

/-- The master releases what every present part has closed. -/
def tryRelease (src stream : Nat) (s : State) : State :=
  let m := mergeOf s (skey src stream)
  if s.trl.enumerated then
    releaseTo src stream ((mergeUnits s).foldl (fun a u => min a (closedBefore s m u)) (closedBefore s m 0)) s
  else s

/-- Part `u` has closed every frame before `f` of a stream. -/
def mergeClose (src stream u f : Nat) (s : State) : State :=
  let k := skey src stream
  let m := mergeOf s k
  let at_ := if u = 0 && closedBefore s m 0 < f then Tab.put m.ownAt f (now s) else m.ownAt
  tryRelease src stream (setMerge k { m with ownAt := at_, closes := Tab.put m.closes u (max f (closedBefore s m u)) } s)

/-- An item of part `u` for the master's frame `f` enters the merge, or is late (R375). -/
def mergeAdd (src stream u f : Nat) (ws : List Word64) (s : State) : State :=
  let k := skey src stream
  let m := mergeOf s k
  if f < m.next then
    stick Reg.TRL_STICKY 3 (bumpSat Reg.TRL_MERGE_LATE 0 32 1 (fault 292 Src.trl 0 .corrected 0
      (setMerge k { m with lostNext := true } s)))
  else setMerge k { m with items := m.items ++ [(u, f, ws)] } s

/-- This part closes the frames of a forwarded stream before `f` (R375). -/
def closeOwn (src stream f : Nat) (s : State) : State :=
  let k := skey src stream
  let c := Tab.lookD s.trl.fwd k 0
  let s := { s with trl := { s.trl with fwd := Tab.put s.trl.fwd k (max c f) } }
  if isMaster s then mergeClose src stream 0 f s
  else (List.range (f - c)).foldl (fun s i => toMaster (.frameClose s.trl.addr src stream ((c + i) % 2 ^ 24)) s) s

/-- Send the words of an item upstream (R375). -/
def sendUp (ws : List Word64) (s : State) : State := pump .up (pushBP 8 0 (packWords 0 ws) s)

/-- An item leaves for the host, for the merge or upstream (R375, R378, R470) (DEDUCED, log entry 32). -/
def queueItem (src stream : Nat) (ws : List Word64) (s : State) : State :=
  if inCascade s && isForwarded s src stream && !s.trl.upLost then
    let f := match ws with | [] => 0 | w :: _ => liftNear (domCtx s (srcDom s src)).frame (tagFrame w)
    if isMaster s then
      let s := closeOwn src stream f s
      if mapsAny s src stream then mergeAdd src stream 0 f ws s else hostItem src stream ws s
    else sendUp ws (closeOwn src stream f s)
  else hostItem src stream ws s

/-- The forwarded streams of the record, as source and stream. -/
def fwdStreams (s : State) : List (Nat × Nat) :=
  (cascRec s).elim [] fun r => (List.range (rf r 0x14 0 5)).map fun f =>
    (leAt r.body (0x18 + 2 * f) 1 % 64, leAt r.body (0x19 + 2 * f) 1 % 64)

/-- Frame or sweep `f` begins: the frames up to `f - 2` of the forwarded streams are closed (R375). -/
def fwdBegin (d : Dom) (f : Nat) (s : State) : State :=
  if inCascade s then
    (fwdStreams s).foldl (fun s p => if srcDom s p.1 = d then closeOwn p.1 p.2 (f - 1) s else s) s
  else s

/-! ### The correction of the time (R369) -/

/-- At a boundary the waiting correction moves φ and the phase trim: the first one and one beyond align_max whole, any other
by at most 4/16 tick. -/
def alignBoundary (s : State) : State :=
  let a := s.trl.align
  if a.pend = 0 && !a.whole then s
  else
    let d := if a.whole then a.pend else clampI (-4) 4 a.pend
    let c := 16 * s.tb.phi + (a.trim : Int) - d
    let isFirst := !a.first
    let a' : AlignSt := { a with pend := a.pend - d, whole := false, first := true,
                                 trim := (c % 16).toNat, applied := a.applied + d }
    let s := { s with tb := { s.tb with phi := c / 16, snap := now s }, trl := { s.trl with align := a' } }
    if isFirst then raise 288 s else s

end Sys2Proof.Machine
end

