-- ==== Sys2Proof/Machine/Ops.lean ====
section
/-! DEFINITION. Items and control items on their way out of a block (R26 to R32, R299, R375, R470), control items through X8
(R24, R25), ends of commands (R482). -/

namespace Sys2Proof.Machine

/-! ### Emission -/

/-- The Mulch binding of a stream (R299): bindings of 8 bytes follow the record's first word. -/
def mulchBinding (s : State) (src stream : Nat) : Option Nat :=
  match recOf s 0x0F01 with
  | none => none
  | some r => (List.range (rf r 0 0 6)).find? fun i =>
      decide (rf r (4 + 8 * i) 0 6 = src) && decide (rf r (4 + 8 * i) 8 6 = stream)

/-- The state of a binding. -/
def bindOf (s : State) (i : Nat) : BindSt := Tab.lookD s.mcd.binds i {}

def setBind (i : Nat) (b : BindSt) (s : State) : State := { s with mcd := { s.mcd with binds := Tab.put s.mcd.binds i b } }

/-- The mode, the stride code and the source and stream of binding `i` (R299). -/
def bindMode (s : State) (i : Nat) : Nat := (recOf s 0x0F01).elim 0 fun r => rf r (4 + 8 * i) 16 3
def bindStride (s : State) (i : Nat) : Nat := (recOf s 0x0F01).elim 0 fun r => rf r (4 + 8 * i) 20 2
def bindSrc (s : State) (i : Nat) : Nat := (recOf s 0x0F01).elim 0 fun r => rf r (4 + 8 * i) 0 6
def bindStream (s : State) (i : Nat) : Nat := (recOf s 0x0F01).elim 0 fun r => rf r (4 + 8 * i) 8 6

/-- The container word of a bound item (R301). -/
def containerWord (bytes mode : Nat) (restart : Bool) : Word64 := BitVec.ofNat 64 (bytes + 2 ^ 32 * mode + 2 ^ 35 * b2n restart)

/-- A binding starts an item (R307): a native binding resets its history at the first item after start-up or a FLUSH and
every `n` items. -/
def BindSt.begin (b : BindSt) (native : Bool) (n : Nat) : BindSt :=
  let rst := native && (b.restartNext || (decide (n ≠ 0) && decide (n ≤ b.since + 1)))
  { b with started := true, restarted := rst, restartNext := b.restartNext && !native, pos := 0, out := [],
           shiftNow := 0, since := if rst then 0 else min (b.since + 1) 65535,
           h1 := if rst then List.replicate 8 0 else b.h1, h2 := if rst then List.replicate 8 0 else b.h2 }

/-- Start the first item of binding `i`, counting a restart. -/
def beginItem (i : Nat) (s : State) : State :=
  let n := (recOf s 0x0F01).elim 0 fun r => rf r (8 + 8 * i) 0 16
  let b := (bindOf s i).begin (decide (bindMode s i ≠ 2)) n
  let s := setBind i b s
  if b.restarted then bump Reg.MCD_RESTARTS 1 s else s

/-- The header words of a bound item (R300). -/
def headWords (s : State) (i : Nat) : Nat :=
  if 3 ≤ bindMode s i then (if bindSrc s i = Src.fdc then 2 else 1) else 0

/-- The first waiting items of binding `i` that need no engine move on (R300, R301, R315): control items, items with no payload
after the header words, and every item while both engines are fenced. -/
def mcdPass (fuel i : Nat) (s : State) : State :=
  match fuel with
  | 0 => s
  | f + 1 =>
    let b := bindOf s i
    match b.input with
    | [] => s
    | x :: rest =>
      let next : BindSt := { b with input := rest, started := false, restarted := false, pos := 0, out := [] }
      if x.ctl then mcdPass f i (setBind i next (queueItem (bindSrc s i) (bindStream s i) (x.tag :: x.words) s))
      else if s.mcd.bypass then
        mcdPass f i (setBind i next (queueItem (bindSrc s i) (bindStream s i)
          (x.tag :: containerWord (8 * x.words.length) 0 false :: x.words) s))
      else if x.words.length ≤ headWords s i then
        let s := beginItem i s
        let c := containerWord (8 * x.words.length) (bindMode s i) (bindOf s i).restarted
        mcdPass f i (setBind i { bindOf s i with input := rest, started := false, restarted := false }
          (queueItem (bindSrc s i) (bindStream s i) (x.tag :: c :: x.words) s))
      else s

/-- An item or control item leaves its block: a bound stream goes to Mulch (R299), any other on unchanged. -/
def routeItem (src stream : Nat) (ctl : Bool) (tag : Word64) (ws : List Word64) (s : State) : State :=
  match mulchBinding s src stream with
  | some i => mcdPass ((bindOf s i).input.length + 1) i (setBind i { bindOf s i with input := (bindOf s i).input ++ [⟨tag, ws, ctl⟩] } s)
  | none => queueItem src stream (tag :: ws) s

/-- EVT 11 at the first item of frame 0 or sweep 0 (R451). -/
def firstItem (c : TagCtx) (s : State) : State :=
  if s.boot.firstDue && c.begun then raise 11 { s with boot := { s.boot with
    firstDue := false, tFirst := s.boot.tFirst + (now s - s.boot.firstAt) / 64000000 } } else s

/-- Make an item of stream `stream` of block `src`: its tag with the flags of R28, then its payload; the stream's
lost_before is spent. -/
def emitX (src stream : Nat) (c : TagCtx) (extra : Nat) (payload : List Word64) (s : State) : State :=
  let s := firstItem c s
  let tag := mkTag s c src stream (flagsOf s c src stream extra)
  routeItem src stream false tag payload
    { s with qsy := { s.qsy with lostBefore := s.qsy.lostBefore.filter fun k => !decide (k = skey src stream) } }

/-- Make an item whose payload is given as numbers. -/
def emit (src stream : Nat) (c : TagCtx) (payload : List Nat) (s : State) : State :=
  emitX src stream c 0 (payload.map (BitVec.ofNat 64)) s

/-- The next item of a stream carries lost_before (R28). -/
def loseBefore (src stream : Nat) (s : State) : State :=
  { s with qsy := { s.qsy with lostBefore := if s.qsy.lostBefore.contains (skey src stream) then s.qsy.lostBefore
                                             else s.qsy.lostBefore ++ [skey src stream] } }

/-- A control word (R30). -/
def ctlWord (kind scope arg : Nat) : Word64 := BitVec.ofNat 64 (kind % 256 * 2 ^ 56 + scope % 256 * 2 ^ 48 + arg % 2 ^ 48)

/-- The kind, scope and argument of a control word (R30). -/
def ctlKind (w : Word64) : Nat := bits w.toNat 56 8
def ctlScope (w : Word64) : Nat := bits w.toNat 48 8
def ctlArg (w : Word64) : Nat := bits w.toNat 0 48

/-- An item of source 0 and a control item of kind 0 are delivered with poison set (R26, R30). -/
def poisonTag (ws : List Word64) : List Word64 :=
  match ws with
  | [] => []
  | tag :: r =>
    (if tagSrc tag = 0 || (decide (tagStream tag = 0x3F) && decide (ctlKind (r.headD 0) = 0)) then tagOr tag 4 else tag) :: r

/-- The streams of block `src` that leave it: those a map entry delivers and those forwarded upstream (R375, R470). -/
def liveStreams (s : State) (src : Nat) : List Nat :=
  (List.range 0x3F).filter fun n => (mapEntry s src n).isSome || (inCascade s && isForwarded s src n && !s.trl.upLost)

/-- Insert a control item with the flag bits `extra` into every stream of block `src` that leaves it and that `p` selects
(R32). -/
def emitCtlX (src : Nat) (p : Nat → Bool) (c : TagCtx) (extra kind scope arg : Nat) (s : State) : State :=
  ((liveStreams s src).filter p).foldl (fun s n =>
    routeItem src n true (mkTag s c src 0x3F (flagsOf s c src 0x3F (Nat.lor extra (2 * b2n (degradedOf s src n)))))
      [ctlWord kind scope arg] s) s

/-- Insert a control item into every stream of block `src` that leaves it and that `p` selects (R32). -/
def emitCtl (src : Nat) (p : Nat → Bool) (c : TagCtx) (kind scope arg : Nat) (s : State) : State :=
  emitCtlX src p c 0 kind scope arg s

/-! ### Control items through X8 (R24, R25) -/

/-- The number of mailbox entries (R24). -/
abbrev x8Depth : Nat := 16

/-- Whether the X8 mailbox refuses another item of the host or the cascade master (R24). -/
def x8Full (s : State) : Bool := decide (s.qsy.x8host.length ≥ x8Depth)

/-- Post an item on behalf of the host or the cascade master. -/
def x8Post (c : Ctl) (s : State) : State := { s with qsy := { s.qsy with x8host := s.qsy.x8host ++ [c] } }

/-- Post an item to the internal slot of its posting block, kind and unit; a held item is replaced (R25). -/
def x8Internal (c : Ctl) (s : State) : State :=
  { s with qsy := { s.qsy with x8int :=
      (s.qsy.x8int.filter fun d => !(decide (d.src = c.src) && decide (d.kind = c.kind) && decide (d.unit = c.unit)
        && decide (d.dom = c.dom))) ++ [c] } }

/-! ### X12 (R21) -/

/-- The words that each direction of the X12 mailbox holds (R21). -/
abbrev x12Depth : Nat := 8

/-- Send words to the Cloche through X12: each goes with its CRC; the spec names no polynomial, CRC-32C is the model's
(R21, R159, R191, R267) (DESIGN CHOICE, log entry 61). -/
def x12PostDue (k : X12Kind) (frame : Nat) (ws : List Word64) (due : Tick) (s : State) : State :=
  { s with clo := { s.clo with toSafe := s.clo.toSafe ++
      [⟨k, frame % 2 ^ 24, ws.map fun w => (w, crc32c (leBytes 8 w.toNat)), due⟩] } }

/-- Send words whose lateness the Cloche does not time by the sender. -/
def x12Post (k : X12Kind) (frame : Nat) (ws : List Word64) (s : State) : State := x12PostDue k frame ws 0 s

/-- The words in the mailbox: the oldest eight under way; the others wait for it (R21) (DESIGN CHOICE, log entry 61). -/
def x12Mail (s : State) : List (Word64 × Nat) := (s.clo.toSafe.flatMap (·.words)).take x12Depth

/-- The oldest message of a kind for a frame or interval, whose words the Cloche takes (DESIGN CHOICE, log entry 61). -/
def x12Next (s : State) (k : X12Kind) (frame : Nat) : Option X12Msg :=
  s.clo.toSafe.find? fun m => decide (m.kind = k) && decide (m.frame = frame)

/-- The message has reached the Cloche. -/
def x12Done (m : X12Msg) (s : State) : State := { s with clo := { s.clo with toSafe := s.clo.toSafe.erase m } }

/-- The words of a message that the Cloche uses, of those that arrive: a word that fails the CRC sent with it, or does not arrive,
is not used (R21) (DESIGN CHOICE, log entry 61). -/
def X12Msg.data (m : X12Msg) (ws : List Word64) : List Word64 :=
  (List.range m.words.length).map fun i =>
    let w := ws.getD i 0
    if crc32c (leBytes 8 w.toNat) = (m.words.getD i (0, 0)).2 then w else 0

/-- Of the words of a message that arrive, which fail the CRC sent with them (R21, R388) (DESIGN CHOICE, log entry 61). -/
def X12Msg.failing (m : X12Msg) (ws : List Word64) : List Bool :=
  (ws.zip m.words).map fun x => decide (crc32c (leBytes 8 x.1.toNat) ≠ x.2.2)

/-! ### Ends of commands (R482, R485) -/

/-- The status codes of R485. -/
def Status.code (st : Status) : Nat :=
  match st with
  | .ok => 0x01 | .nothingToAbort => 0x02 | .busy => 0x03 | .late => 0x04 | .conflict => 0x05 | .limit => 0x06
  | .state => 0x07 | .locked => 0x08 | .auth => 0x09 | .logFull => 0x0A | .verify => 0x0B | .nvm => 0x0C
  | .unknown => 0x0D | .refused => 0x0E | .cancelled => 0x0F | .dma => 0x10

/-- A command is done (R482): a ring entry gets its status, result and stamp and EVT 312 is raised; an order of the
cascade master shows its status in HIF_ORDER_STAT (R483). A ring entry dropped by R466 is not written. -/
def finish (o : Origin) (st : Status) (result : Nat) (s : State) : State :=
  match o with
  | .host i =>
    match Tab.look s.hif.cmds i with
    | none => s
    | some r =>
      raise 312 { s with hif := { s.hif with
        cmds := Tab.put s.hif.cmds i { r with done := true, status := st.code, result := result, finished := now s } } }
  | .master => { s with hif := { s.hif with orderStat := st.code } }
  | .internal => s

/-- A command ends with a status that the spec does not state: the status is a free value (R485 names the codes)
(DESIGN CHOICE, log entry 47). -/
def finishFree (o : Origin) (result : Nat) (s : State) : State :=
  match o with
  | .host i =>
    match Tab.look s.hif.cmds i with
    | none => s
    | some r =>
      raise 312 (useFree { s with hif := { s.hif with
        cmds := Tab.put s.hif.cmds i { r with done := true, status := freeVal s % 256, result := result, finished := now s } } })
  | .master => useFree { s with hif := { s.hif with orderStat := freeVal s % 256 } }
  | .internal => s

/-- The HIF takes the entry at CONS (R482), which the host's producer index has passed: its done bit is 0 and the taken stamp
is written; CONS moves on. The answer is the entry's key. -/
def takeEntry (e : Entry) (code : Nat) (s : State) : State × Nat :=
  let s := advance e.taken s
  let k := 64 * s.hif.resets + s.hif.cmdCons
  let c := (s.hif.cmdCons + 1) % 64
  ({ s with hif := { s.hif with
      cmds := Tab.put s.hif.cmds k ⟨e.hostTag.toNat, code, false, 0, 0, now s, 0⟩,
      cmdProd := if s.hif.cmdProd = s.hif.cmdCons then c else s.hif.cmdProd,
      cmdCons := c } }, k)

/-- The order of R483: how a named frame stands against the frame or sweep in progress. -/
inductive FrameOrder where
  | ahead | late | limit
  deriving DecidableEq, Repr

/-- Judge frame `f` against the frame in progress of context `c` (R483). -/
def judgeFrame (c : TagCtx) (f : Nat) : FrameOrder :=
  let cur := if c.begun then c.frame % 2 ^ 24 else 2 ^ 24 - 1
  let d := (f + (2 ^ 24 - cur)) % 2 ^ 24
  if d = 2 ^ 23 then .limit else if 1 ≤ d && decide (d < 2 ^ 23) then .ahead else .late

end Sys2Proof.Machine
end

