-- ==== Sys2Proof/Machine/FclOps.lean ====
section
/-! DEFINITION. The end of a graft and the return of a unit (R508 to R510), shared by the blocks that readmit their units. -/

namespace Sys2Proof.Machine

/-- A graft ends (R508, R510): its result code, the status of the command and EVT 317; the command ring goes on. -/
def graftEnd (result : Nat) (st : Status) (s : State) : State :=
  match s.fcl.graft with
  | none => s
  | some g =>
    let s := { s with fcl := { s.fcl with graft := none, graftUnit := g.unit, graftResult := result },
                      hif := { s.hif with grafting := none } }
    finish g.origin st 0 (raise 317 s)

/-- Unit `u` is no longer fenced; its items carry degraded no more. -/
def unfence (u : Nat) (s : State) : State :=
  { s with fcl := { s.fcl with
      fenced := s.fcl.fenced &&& ~~~(BitVec.ofNat 90 (2 ^ u)), shown := s.fcl.shown &&& ~~~(BitVec.ofNat 90 (2 ^ u)) } }

/-- Unit `u` contributes again and its graft is done with OK (R508). -/
def graftEnter (u : Nat) (s : State) : State := graftEnd 1 .ok (unfence u s)

end Sys2Proof.Machine
end

