-- ==== Sys2Proof/Machine/Grant.lean ====
section
/-! DEFINITION. The fields of a grant record (R330), the plan in force, and TB-edge arithmetic the boundaries share. -/

namespace Sys2Proof.Machine

/-- Byte `i` of a grant record; an absent record reads 0. -/
def gByte (g : List Byte) (i : Nat) : Nat := (g.getD i 0).toNat

def gBand (g : List Byte) : Nat := gByte g 0 % 8
def gSched (g : List Byte) : Bool := bitB (gByte g 0) 3
def gDeparture (g : List Byte) : Bool := bitB (gByte g 0) 4
def gThrottled (g : List Byte) : Bool := bitB (gByte g 0) 5
def gStopping (g : List Byte) : Bool := bitB (gByte g 0) 6
def gRung (g : List Byte) : Nat := gByte g 1 % 32
def gShot (g : List Byte) : Nat := (gByte g 2 + 256 * gByte g 3) % 1024
def gClk (g : List Byte) : Nat := gByte g 4 % 32
def gTones (g : List Byte) : Nat := gByte g 5 % 16
def gLanesUp (g : List Byte) : Nat := gByte g 6 % 8
def gLanesDn (g : List Byte) : Nat := bits (gByte g 6) 4 3
def gPcieW (g : List Byte) : Nat := gByte g 7 % 16
def gDefer (g : List Byte) (i : Nat) : Bool := bitB (gByte g 8) (i - 1)
def gParked (g : List Byte) : Nat := gByte g 9 + 256 * gByte g 10
def gHeld (g : List Byte) : Nat := (gByte g 11 + 256 * gByte g 12) % 4096

/-- The DRAM refresh time in ms that the grant's band sets at the epoch boundary where it takes effect (R331, R340). -/
def refreshMs (s : State) : Nat := [64, 64, 32, 16, 8].getD (gBand s.ala.grant) 8

/-- The epoch digest of a grant record (R26, R330). -/
def gDigest (g : List Byte) : Nat := crc8 (slice g 0 16)

/-- The ticks of an Allotment epoch (R34). -/
abbrev epochTicks : Nat := 3200000

/-- The last TB edge at or before `x`: counter values at TB edges are 64 n + phi (R48). -/
def floorEdge (s : State) (x : Nat) : Nat := x - (((x : Int) - s.tb.phi) % 64).toNat

/-- Scan plan `p` (R125). -/
def scanPlan (s : State) (p : Nat) : Option ImgRec := recWhere s 0x0701 0 0 4 p

/-- A field of the scan plan in force; 0 before the first plan. -/
def pf (s : State) (off lo len : Nat) : Nat :=
  match s.esq.plan.bind (scanPlan s) with
  | some r => rf r off lo len
  | none => 0

def planGate (s : State) : Nat := pf s 8 0 12
def planSlotLog (s : State) : Nat := pf s 8 12 4
def planK (s : State) : Nat := pf s 0x0C 0 12
def planPhase (s : State) (k : Nat) : Nat :=
  if k < planK s then pf s (0x48 + k / 2 * 4) (16 * (k % 2)) 16 else pf s 0x14 16 16
def planNmin (s : State) (b : Nat) : Nat := pf s (0x28 + b / 2 * 4) (16 * (b % 2)) 6
def planNmax (s : State) (b : Nat) : Nat := pf s (0x28 + b / 2 * 4) (16 * (b % 2) + 8) 6
def planBlankStart (s : State) : Nat := pf s 4 0 10
def planBlankLen (s : State) : Nat := pf s 4 16 10
/-- blank_start + blank_len, 0 when blanking is disabled (R84, R140). -/
def planBlank (s : State) : Nat := if planBlankLen s = 0 then 0 else planBlankStart s + planBlankLen s
/-- The coincidence window in ticks (R82): 0.25 ns steps of 16 ticks. -/
def planWindow (s : State) : Nat := 16 * pf s 0 20 4

/-- The start of column `k` of the frame in progress (R112); `k = K` gives the nominal end of the last column, which is not
moved to a TB edge. -/
def colStartOf (s : State) (k : Nat) : Nat :=
  let f := s.esq.frame
  let len := planPhase s k * f.period / (65536 * 65536 * (if f.half then 2 else 1))
  if k < planK s then floorEdge s (f.start + len) else f.start + len

/-- The scan-position interval of column `k` (R119). -/
def colSpan (s : State) (k : Nat) (backward : Bool) : Nat × Nat :=
  let e := pf s 0x14 16 16
  if backward then (e - planPhase s (k + 1), e - planPhase s k) else (planPhase s k, planPhase s (k + 1))

/-- Every shot whose interval of R53 may matter: this column's, earlier ones', the partner's. -/
def allShots (s : State) : List Shot := s.esq.prevShots ++ s.esq.shots ++ s.esq.partnerShots

/-- The ticks a shot interval of R53 reaches before and after the fire tick. -/
def guardPre (s : State) : Nat := 64 * rdf s Fld.TDC_CAL_GUARD_guard_pre
def guardPost (s : State) : Nat := 64 * (planGate s + rdf s Fld.TDC_CAL_GUARD_guard_post)

/-- No shot interval covers `t` (R53, R86) (DEDUCED, log entry 62). -/
def quietAt (s : State) (t : Tick) : Bool :=
  (allShots s).all fun f => !(decide (f.tick ≤ t + guardPre s) && decide (t ≤ f.tick + guardPost s))

/-- The ticks of `lo … hi` that the intervals of the shots (in rising order) leave uncovered from `cur` on. -/
def uncovered (pre post : Nat) (l : List Shot) (cur hi : Nat) : Nat :=
  match l with
  | [] => hi - cur
  | f :: r =>
    let a := f.tick - pre
    let b := f.tick + post
    (min hi a - cur) + uncovered pre post r (max cur (min hi b)) hi

/-- The quiet time of `lo … hi` in ticks (R86) (DEDUCED, log entry 62). -/
def quietTicks (s : State) (lo hi : Tick) : Nat :=
  uncovered (guardPre s) (guardPost s) (sortBy (fun a b => decide (a.tick < b.tick)) (allShots s)) lo hi

/-- Bit reversal of `v` over `n` bits (R115). -/
def bitRev (n v : Nat) : Nat :=
  match n with
  | 0 => 0
  | n + 1 => v % 2 * 2 ^ n + bitRev n (v / 2)

/-- Whether a strip's items carry calibrating (R60). -/
def stripTest (s : State) (k : Nat) : Bool := (Tab.lookD s.tdc.strips k {}).underTest

/-- Whether any strip is on trims under test. -/
def anyTest (s : State) : Bool := (List.range 32).any (stripTest s)

/-- The strips whose banks are parked (R332). -/
def stripParked (s : State) (k : Nat) : Bool := bitB (gParked s.esq.grant) (k / 2)

/-- The deepen role's parity: the leader fires in even slots, the follower in odd ones (R124). -/
def slotMine (s : State) (i : Nat) : Bool :=
  match s.hse.role with
  | .single => true
  | .leader => decide (i % 2 = 0)
  | .follower => decide (i % 2 = 1)

/-- The rank of slot `i` (R115, R124). -/
def slotRank (s : State) (i : Nat) : Nat :=
  match s.hse.role with
  | .single => bitRev (planSlotLog s) i
  | _ => bitRev (planSlotLog s - 1) (i / 2)

end Sys2Proof.Machine
end

