-- ==== Sys2Proof/Machine/LinkCode.lean ====
section
/-! DEFINITION. The link blocks of a Plonil lane and their coding (R359, R360): control and data blocks, the scrambler, the FEC
blocks and the commas. What a lane sends between the blocks of the model's messages, its idle blocks, is time-driven and left out
(log entry 29). -/

namespace Sys2Proof.Machine

/-- The bits of a number of `w` bits, most significant first (R359). -/
def bitsOf (w n : Nat) : List Bool := (List.range w).map fun i => bitB n (w - 1 - i)

/-- A number from its bits, most significant first. -/
def ofBits (l : List Bool) : Nat := l.foldl (fun a b => 2 * a + b2n b) 0

/-- The alignment comma (R359). -/
abbrev commaWord : Nat := 0xC5A396F00F693A5C

/-- FEC blocks from one comma to the next (R359). -/
abbrev commaPeriod : Nat := 16384

/-- A data block (R360): header 1 and four words of a packet, the last block padded with zero words. -/
def dataBlock (ws : List Nat) : Nat :=
  1 + 2 * sumN ((List.range 4).map fun i => ws.getD i 0 % 2 ^ 64 * 2 ^ (64 * i))

/-- A control block (R360): header 0, its type and its fields, which stand at the bits of the block behind the header
(DEDUCED, log entry 62). -/
def controlBlock (type fields : Nat) : Nat := 2 * (type % 256 + fields)

/-- The START block of a packet (R360). -/
def startBlock (vc dst bcast src words itemEnd seq : Nat) : Nat :=
  controlBlock 1 (vc * 2 ^ 8 + dst * 2 ^ 10 + bcast * 2 ^ 14 + src * 2 ^ 15 + words * 2 ^ 19 + itemEnd * 2 ^ 29 + seq % 2 ^ 16 * 2 ^ 32)

/-- The CREDIT block (R360). -/
def creditBlock (vc0 vc1 vc3 : Nat) : Nat := controlBlock 2 (vc0 * 2 ^ 16 + vc1 * 2 ^ 32 + vc3 * 2 ^ 48)

/-- The LANE block (R360). -/
def laneBlock (op count mask : Nat) : Nat := controlBlock 3 (op * 2 ^ 8 + count * 2 ^ 16 + mask * 2 ^ 20)

/-- The blocks of a packet: its START block and its data blocks (R360). -/
def packetCode (vc dst bcast src itemEnd seq : Nat) (ws : List Nat) : List Nat :=
  startBlock vc dst bcast src ws.length itemEnd seq
    :: (List.range ((ws.length + 3) / 4)).map fun i => dataBlock ((ws.drop (4 * i)).take 4)

/-- The self-synchronous scrambler x^58 + x^39 + 1 (R359): each bit sent is the sum of the bit and of those sent 39 and 58 bits
before; the state holds the last 58, the newest in bit 0. -/
def scramble (st : Nat) (l : List Bool) : List Bool × Nat :=
  match l with
  | [] => ([], st)
  | b :: r =>
    let o := b != (bitB st 38 != bitB st 57)
    let p := scramble ((2 * st + b2n o) % 2 ^ 58) r
    (o :: p.1, p.2)

/-- The receiver's inverse. -/
def descramble (st : Nat) (l : List Bool) : List Bool × Nat :=
  match l with
  | [] => ([], st)
  | o :: r =>
    let p := descramble ((2 * st + b2n o) % 2 ^ 58) r
    ((o != (bitB st 38 != bitB st 57)) :: p.1, p.2)

/-- Multiplication in the field of 2^10 elements with x^10 + x^3 + 1; the spec names no polynomial
(PRESUMED, log entry 63). -/
def gfMul (a b : Nat) : Nat :=
  (List.range 10).foldl (fun r i =>
    let r := if bitB r 9 then Nat.xor (2 * r) 0x409 else 2 * r
    if bitB b (9 - i) then Nat.xor r a else r) 0

/-- Powers of the field's generator x. -/
def gfPow (n : Nat) : Nat := (List.range n).foldl (fun a _ => gfMul 2 a) 1

/-- The generator of RS(544,514), with roots x^0 to x^29, its highest coefficient first and left out
(PRESUMED, log entry 63). -/
def rsGen : List Nat :=
  ((List.range 30).foldl (fun g i =>
    let r := gfPow i
    ((g ++ [0]).zip (0 :: g)).map fun (p : Nat × Nat) => Nat.xor p.1 (gfMul r p.2)) [1]).drop 1

/-- The 30 parity symbols of 514 message symbols (R359). -/
def rsParity (msg : List Nat) : List Nat :=
  let g := rsGen
  msg.foldl (fun (p : List Nat) m =>
    let f := Nat.xor m (p.headD 0)
    ((p.drop 1 ++ [0]).zip g).map fun (q : Nat × Nat) => Nat.xor q.1 (gfMul f q.2)) (List.replicate 30 0)

/-- The 10-bit symbols of a run of bits. -/
def symbols (fuel : Nat) (l : List Bool) : List Nat :=
  match fuel with
  | 0 => []
  | f + 1 => if l.isEmpty then [] else ofBits (l.take 10) :: symbols f (l.drop 10)

/-- The FEC block of 20 scrambled link blocks: 514 symbols and their parity (R359). -/
def fecBlock (l : List Bool) : List Nat :=
  let m := symbols 514 l
  m ++ rsParity m

/-- What a lane sends for 20 link blocks: a comma before every 16,384th FEC block, unscrambled and outside the FEC, and the FEC
block; `n` is the number of the FEC block and `st` the scrambler's state (R359). -/
def laneSends (n st : Nat) (blocks : List Nat) : List Bool × Nat :=
  let p := scramble st ((blocks.take 20).flatMap (bitsOf 257))
  ((if (n + 1) % commaPeriod = 0 then bitsOf 64 commaWord else []) ++ (fecBlock p.1).flatMap (bitsOf 10), p.2)

end Sys2Proof.Machine
end

