-- ==== Sys2Proof/Machine/LaneOps.lean ====
section
/-! DEFINITION. The lanes of a port: usable lanes, the count in rotation, switches, a lane that is fenced or enters (R355 to
R358), and the length of a cable (R381). -/

namespace Sys2Proof.Machine

/-- Whether lane `l` is usable: trained and unfenced at both ends (R357); one whose graft has passed may enter at a switch. -/
def laneUsable (s : State) (p : Port) (l : Nat) : Bool :=
  (laneSt s l).trained && (!isFenced s (Unit.lane l) || (laneSt s l).entering) && bitB (portOf s p).peerMask (l % 4)

def usableLanes (s : State) (p : Port) : List Nat := (portLanes p).filter (laneUsable s p)

/-- This end's usable-lane mask, as a LANE block shows it (R360). -/
def ownMask (s : State) (p : Port) : Nat :=
  sumN ((portLanes p).map fun l => if (laneSt s l).trained && !isFenced s (Unit.lane l) then 2 ^ (l % 4) else 0)

/-- The step of a lane's CTLE and DFE adaptation, per update and of tap full scale: 2^-12, 2^-10 or 2^-8 by the temperature band of
the grant in force (R340, R356). -/
def adaptStep (s : State) : Rat :=
  match gBand s.ala.grant with
  | 0 => 1 / 4096
  | 1 => 1 / 1024
  | 2 => 1 / 1024
  | _ => 1 / 256

/-- The count this end requests from the grant in force (R330, R357). -/
def ownRequest (s : State) (p : Port) : Nat :=
  match p with
  | .up => gLanesUp s.ala.grant
  | .dn => gLanesDn s.ala.grant

/-- The hop's count (R357): the larger request, at most the usable lanes, at least 1 while any lane is usable. -/
def hopCount (s : State) (p : Port) : Nat :=
  let u := (usableLanes s p).length
  if u = 0 then 0 else max 1 (min (max (ownRequest s p) (portOf s p).peerReq) u)

/-- The lanes the port should run: the lowest-numbered usable ones (R357). -/
def wantedLanes (s : State) (p : Port) : List Nat := (usableLanes s p).take (hopCount s p)

/-- A grafted lane enters its port's rotation (R358, R508). -/
def laneEnter (l : Nat) (s : State) : State :=
  if (laneSt s l).entering then graftEnter (Unit.lane l) (raise 281 (setLane l { laneSt s l with entering := false } s)) else s

/-- The switch of R357 step 3: the wanted lanes go into rotation outwards. -/
def switchLanes (p : Port) (s : State) : State :=
  let ls := wantedLanes s p
  let s := setPort p { portOf s p with tx := ls, rising := none } s
  let s := ls.foldl (fun s l => laneEnter l s) s
  sendBlock p (.lane 3 ls.length (ownMask s p)) s

/-- LANE request with this end's count (R357 step 1). -/
def askLanes (p : Port) (s : State) : State :=
  let n := ownRequest s p
  sendBlock p (.lane 2 n (ownMask s p)) (setPort p { portOf s p with asked := n } s)

/-- Bring the lanes in rotation to the wanted ones (R357): a change of this end's count or of the rotation is requested; lanes
that left usability go at once, a fall switches at once, a rise waits for LANE ready. -/
def retarget (p : Port) (s : State) : State :=
  let x := portOf s p
  let ls := wantedLanes s p
  if x.state ≠ 2 then s
  else if ls = x.tx then (if x.asked = ownRequest s p then s else askLanes p s)
  else
    let s := askLanes p s
    if ls.all fun l => x.tx.contains l then switchLanes p s
    else
      let keep := x.tx.filter (laneUsable s p)
      let s := setPort p { portOf s p with tx := keep, rising := some ls.length } s
      if keep = x.tx then s else sendBlock p (.lane 3 keep.length (ownMask s p)) s

/-- The grant in force asks for other counts (R330, R357). -/
def linkGrant (s : State) : State := retarget .dn (retarget .up s)

/-- The rate code of a port: that of its slowest trained lane (R355). -/
def portRate (s : State) (p : Port) : Nat :=
  maxN ((portLanes p).map fun l => if (laneSt s l).trained then (laneSt s l).rate else 0)

/-- The lanes of a port that trained at a higher rate retrain at the port's rate (R355). -/
def equaliseRate (p : Port) (s : State) : State :=
  let r := portRate s p
  (portLanes p).foldl (fun s l => if (laneSt s l).trained then setLane l { laneSt s l with rate := r } s else s) s

/-- A port comes up (R355, R361): EVT 272, EVT 274 when slow, the initial credits, the usable mask to the partner
(DEDUCED, log entry 28). -/
def portUp (p : Port) (s : State) : State :=
  let s := equaliseRate p s
  let x := portOf s p
  let s := setPort p { x with state := 2, credit := [1024, 1024, qDepth s 9 / 4], txSeq := [0, 0, 0, 0], rxSeq := [0, 0, 0, 0],
                              cur := none, hit := [], rising := none, peerMask := 15, peerReq := 4, asked := 0, wake := [],
                              tx := (portLanes p).filter fun l => (laneSt s l).trained && !isFenced s (Unit.lane l) } s
  let s := setPort p { portOf s p with rx := (portOf s p).tx.length } s
  let s := raise 272 s
  let s := if portRate s p ≠ 0 || trainedCount s p < 4 then raise 274 s else s
  retarget p (sendBlock p (.lane 1 (portOf s p).tx.length (ownMask s p)) s)

/-- The cable word's fields of a lane's port: type, coef, fixed (R371). -/
def cableWord (s : State) (l : Nat) : Nat × Nat × Nat :=
  if l < 4 then (rdf s Fld.PLK_CABLE_UP_type, rdf s Fld.PLK_CABLE_UP_coef, rdf s Fld.PLK_CABLE_UP_fixed)
  else (rdf s Fld.PLK_CABLE_DN_type, rdf s Fld.PLK_CABLE_DN_coef, rdf s Fld.PLK_CABLE_DN_fixed)

/-- The cable length of lane `l` in 0.1 m (R381): from its loss, or from the hop's cable delay in ticks
(DESIGN CHOICE, log entry 13). -/
def cableLength (s : State) (l : Nat) : Rat :=
  let w := cableWord s l
  let q : Rat :=
    if w.1 = 1 then ((if l < 4 then s.trl.align.cable else s.trl.align.dnCable) * 10000 : Rat) / (64 * w.2.1)
    else (((laneSt s l).il : Rat) - w.2.2) * 100 / w.2.1
  if q < 0 then 0 else q

/-- A lane's loss is derived anew and with it the length (R381); none without coef. -/
def updateLength (l il : Nat) (s : State) : State :=
  let s := setLane l { laneSt s l with il := il } s
  if (cableWord s l).2.1 = 0 then s
  else
    let q := cableLength s l
    quantUsed q (setLane l { laneSt s l with length := min 65535 (quantOf s q).toNat, lenOk := true } s)

end Sys2Proof.Machine
end

