-- ==== Sys2Proof/Machine/Tdc.lean ====
section
/-! DEFINITION. The TDC and its calibration (R50 to R69): stamps, quiet-hit counts, passes, attempts, trims and maps, aux
lines. -/

namespace Sys2Proof.Machine

/-! ### Delay lines (R50) -/

/-- The ideal map of R50. -/
def idealMap : List Nat := ((List.range 96).map fun t => min 64 (rdiv (2 * (t : Int) + 1) 3).toNat) ++ [64]

/-- A line before its first calibration: trims 0 and the ideal map. -/
def freshLine : Line := ⟨List.replicate 96 0, idealMap⟩

/-- Line `l`: 0 to 511 strip channels, 512 to 531 AL0 to AL19. -/
def lineOf (s : State) (l : Nat) : Line := Tab.lookD s.tdc.lines l freshLine

/-- The map built from 96 tap widths in ticks (R50). -/
def mapOf (ws : List Rat) : List Nat :=
  ((ws.zip (prefixSums ws 0)).map fun p => min 64 (rround (p.2 + p.1 / 2)).toNat) ++ [64]

/-- The stamp of an edge captured at counter `c` after `tap` taps (R50). -/
def stampOf (s : State) (line : Nat) (c : Tick) (tap : Nat) : Tick := c - (lineOf s line).map.getD tap 64

/-- A raw stamp word (R52). -/
def stampWord (rising : Bool) (chan : Nat) (stamp : Tick) : Word64 :=
  BitVec.ofNat 64 (b2n rising * 2 ^ 63 + chan % 1024 * 2 ^ 53 + stamp % 2 ^ 53)

/-- The stamp and channel fields of a raw stamp word. -/
def wordStamp (w : Word64) : Nat := bits w.toNat 0 53
def wordChan (w : Word64) : Nat := bits w.toNat 53 10

/-- The dead time of R51 in ticks. -/
abbrev deadTicks : Nat := 128

/-! ### Calibration state -/

/-- The calibration of strip `k` (0 to 31), or of aux line `k - 32` during start-up (R66). -/
def calOf (s : State) (k : Nat) : StripCal := Tab.lookD s.tdc.strips k {}

def setCal (k : Nat) (c : StripCal) (s : State) : State := { s with tdc := { s.tdc with strips := Tab.put s.tdc.strips k c } }

/-- The lines of calibration unit `k`. -/
def calLines (k : Nat) : List Nat := if k < 32 then (List.range 16).map (16 * k + ·) else [512 + (k - 32)]

/-- The calibration unit of a line. -/
def unitOfLine (l : Nat) : Nat := if l < 512 then l / 16 else l - 512 + 32

/-- Hits per channel of a pass (R58, R66). -/
def passHits (s : State) (c : StripCal) : Nat :=
  match c.kind with
  | .startup => 2 ^ rdf s Fld.TDC_CAL_COUNT_boot_log2
  | _ => 2 ^ rdf s Fld.TDC_CAL_COUNT_run_log2

/-- The interval of the band in force, in ticks (R64). -/
def calInterval (band : Nat) : Nat := [10, 60, 20, 5, 2].getD band 10 * 64000000000

/-- Start a pass: it counts the columns that open from the next boundary on. -/
def StripCal.beginPass (c : StripCal) (p : CalPhase) (n : Nat) (t : Tick) : StripCal :=
  { c with phase := p, counts := List.replicate n (List.replicate 97 0), stopped := List.replicate n false, began := t,
           colElig := false, prevElig := false }

/-- Start a calibration cycle (R57); it meets a request for the strip (R65, R78). -/
def startCycle (k : Nat) (kind : CalKind) (t : Tick) (s : State) : State :=
  let s := if k < 32 then wr Reg.TDC_CAL_REQ (rd s Reg.TDC_CAL_REQ &&& ~~~(BitVec.ofNat 32 (2 ^ k))) s else s
  let c := calOf s k
  let n := (calLines k).length
  setCal k ({ c with kind := kind, attempt := 0, start := t, starvedAt := none, due := 0,
                     tested := false, old := (calLines k).map (lineOf s), next := [], passA := [], passB := [] }.beginPass
              .passA n t) s

/-- Add 97 counts to channel `i` of the pass, until the channel has stopped (R58). -/
def StripCal.add (c : StripCal) (i hits : Nat) (h : List Nat) : StripCal :=
  if c.phase = .idle || c.stopped.getD i true then c
  else
    let sum := (List.range 97).map fun t => (c.counts.getD i []).getD t 0 + h.getD t 0
    { c with counts := c.counts.set i sum, stopped := c.stopped.set i (decide (hits ≤ sumN sum)) }

/-- Whether every channel of the pass has stopped (R58). -/
def StripCal.full (c : StripCal) : Bool := c.phase ≠ .idle && c.stopped.all id

/-! ### The computations of an attempt (R58, R59) -/

/-- Tap widths in ticks from 97 counts (R58); a pass without hits gives widths 0. -/
def widths (h : List Nat) : List Rat :=
  let n := sumN h
  h.map fun x => if n = 0 then 0 else (64 * x : Rat) / n

/-- The trim steps of R58. -/
def trimSteps (h : List Nat) : List Int := ((widths h).take 96).map fun w => rround ((64 / 96 - w) / (2 / 100))

/-- The trims under test. -/
def newTrims (l : Line) (h : List Nat) : List Int := (l.trims.zip (trimSteps h)).map fun p => p.1 + p.2

/-- Whether all trims lie within -16 … 15. -/
def trimsOk (l : List Int) : Bool := l.all fun d => decide (-16 ≤ d) && decide (d ≤ 15)

/-- The line under test: the new trims and the map of the predicted widths (R58). -/
def lineUnderTest (l : Line) (h : List Nat) : Line :=
  ⟨newTrims l h, mapOf (((widths h).take 96).zip (trimSteps h) |>.map fun p => p.1 + (2 / 100) * (p.2 : Rat))⟩

/-- The accepted line: its trims and the map of the mean of the B and C widths (R59). -/
def lineAccepted (l : Line) (hb hc : List Nat) : Line :=
  ⟨l.trims, mapOf ((((widths hb).zip (widths hc)).take 96).map fun p => (p.1 + p.2) / 2)⟩

/-- The largest of a list of rationals, 0 for none. -/
def maxQ (l : List Rat) : Rat := l.foldl (fun a x => if a < x then x else a) 0

def absQ (q : Rat) : Rat := if q < 0 then -q else q

/-- The largest per-tap difference of two passes in LSB (ticks) (R59). -/
def tapDiff (hb hc : List Nat) : Rat := maxQ (((widths hb).zip (widths hc)).map fun p => absQ (p.1 - p.2))

/-- The largest difference of the cumulative widths (R59). -/
def intDiff (hb hc : List Nat) : Rat :=
  maxQ (((prefixSums ((widths hb).take 96) 0).zip (prefixSums ((widths hc).take 96) 0)).map fun p => absQ (p.1 - p.2))

/-- Passes B and C of every channel agree (R59). -/
def passesAgree (s : State) (bs cs : List (List Nat)) : Bool :=
  (bs.zip cs).all fun p => decide (tapDiff p.1 p.2 ≤ (rdf s Fld.TDC_CAL_TOL_tol_tap : Rat) / 100) &&
    decide (intDiff p.1 p.2 ≤ (rdf s Fld.TDC_CAL_TOL_tol_int : Rat) / 100)

/-! ### Items and applications (R57, R60) -/

/-- Post the application of trims to the next boundary; an application still waiting is replaced (R25). -/
def postCal (k : Nat) (a : CalApply) (s : State) : State := { s with tdc := { s.tdc with posted := Tab.put s.tdc.posted k a } }

/-- The context of a strip's start-up items: before frame 0 with cfg_gen 0. -/
def stripCtx (s : State) : TagCtx := s.esq.ctx

/-- The calibration report item of R60 on TDC stream 1: strip, attempt, result, and the largest per-tap and integral
difference in 0.01 LSB. The payload's layout is the model's (DESIGN CHOICE, log entry 12). -/
def calReport (k attempt result : Nat) (dt di : Rat) (s : State) : State :=
  emitX Src.tdc 1 (stripCtx s) (if stripTest s k then 64 else 0)
    [BitVec.ofNat 64 (k + 256 * attempt + 65536 * result + 2 ^ 32 * (rround (dt * 100)).toNat
      + 2 ^ 48 * (rround (di * 100)).toNat)] s

/-- A failed cycle of an aux line counts towards three in a row (R69). -/
def auxCount (line : Nat) (s : State) : State :=
  { s with tsu := { s.tsu with auxFails := Tab.put s.tsu.auxFails line (Tab.lookD s.tsu.auxFails line 0 + 1) } }

/-- A cycle of unit `k` ends without success (R61, R66, R69): a strip counts the failure, and a third consecutive one, or a
failed start-up cycle, sends the fault that fences it. -/
def cycleFailed (k : Nat) (s : State) : State :=
  let c := calOf s k
  let f := c.fails + 1
  let s := setCal k { c with phase := .idle, last := 5, fails := min f 3, tested := false } s
  if k < 32 then
    let s := bump Reg.TDC_CAL_FAIL_COUNT 1 (fault 66 Src.tdc k .corrected 0 s)
    if decide (f = 3) || decide (c.kind = .startup) then fault 68 Src.tdc k .contained 0 s else s
  else auxCount (k - 32) s

/-- An attempt of unit `k` ends with `result` and the largest differences: a strip's is reported (R60). -/
def attemptReport (k result : Nat) (dt di : Rat) (s : State) : State :=
  if k < 32 then calReport k (calOf s k).attempt result dt di s else s

/-- An attempt fails with `result` (2 disagree, 3 trim limit, 4 a start-up pass at its limit): the next attempt begins,
or the cycle fails after four (R57). -/
def attemptFailed (k result : Nat) (t : Tick) (s : State) : State :=
  let c := calOf s k
  let s := if c.tested then postCal k .restore s else s
  let s := setCal k { c with last := result, attempt := c.attempt + 1, tested := false } s
  if c.attempt + 1 < 4 then setCal k ((calOf s k).beginPass .passA (calLines k).length t) s
  else
    let c' := calOf s k
    cycleFailed k (setCal k { c' with attempt := 3 } s)

/-- The counts of the last pass of each line, for TDC_DIAG_DATA (R78). -/
def keepPass (k : Nat) (cs : List (List Nat)) (s : State) : State :=
  { s with tdc := { s.tdc with lastPass :=
      ((calLines k).zip cs).foldl (fun t p => Tab.put t p.1 p.2) s.tdc.lastPass } }

/-- A pass of unit `k` has ended (R57 to R60). -/
def passEnd (k : Nat) (t : Tick) (s : State) : State :=
  let c := calOf s k
  let s := keepPass k c.counts s
  match c.phase with
  | .idle => s
  | .passA =>
    if (c.old.zip c.counts).all fun p => trimsOk (newTrims p.1 p.2) then
      let next := (c.old.zip c.counts).map fun p => lineUnderTest p.1 p.2
      postCal k .underTest
        (setCal k ({ c with passA := c.counts, next := next, tested := true }.beginPass .passB c.counts.length t) s)
    else attemptFailed k 3 t (attemptReport k 3 0 0 (if k < 32 then raise 70 s else s))
  | .passB => setCal k ({ c with passB := c.counts }.beginPass .passC c.counts.length t) s
  | .passC =>
    let dt := maxQ ((c.passB.zip c.counts).map fun p => tapDiff p.1 p.2)
    let di := maxQ ((c.passB.zip c.counts).map fun p => intDiff p.1 p.2)
    if passesAgree s c.passB c.counts then
      let next := (c.next.zip (c.passB.zip c.counts)).map fun p => lineAccepted p.1 p.2.1 p.2.2
      let s := if k < 32 then raise 64 (attemptReport k 1 dt di s) else s
      postCal k .accept (setCal k { c with phase := .idle, next := next, last := 1, fails := 0,
                                           accepted := min (c.accepted + 1) 65535, tested := false } s)
    else
      attemptFailed k 2 t (if k < 32 then raise 65 (attemptReport k 2 dt di s) else s)

/-- Put the lines `ls` of unit `k` into force. -/
def loadLines (k : Nat) (ls : List Line) (s : State) : State :=
  { s with tdc := { s.tdc with lines := ((calLines k).zip ls).foldl (fun t p => Tab.put t p.1 p.2) s.tdc.lines } }

/-- Apply a posted change of unit `k` at a boundary (R57): CAL items enter the strip's streams unless it is fenced or its
graft's cycle made the change; the item that applies trims under test carries calibrating (R60) (DEDUCED, log entry 54). -/
def applyCal (k : Nat) (a : CalApply) (s : State) : State :=
  let c := calOf s k
  let s := loadLines k (match a with | .underTest => c.next | .accept => c.next | .restore => c.old) s
  let s := setCal k { calOf s k with underTest := decide (a = .underTest) } s
  if k < 32 && !isFenced s (Unit.strip k) && !decide (c.kind = .graft) then
    let x := stripCtx s
    let e := if a = .underTest then 64 else 0
    emitCtlX Src.hse (fun n => decide (n ≤ 3)) x e 8 0 k (emitCtlX Src.tdc (fun n => decide (n = 1 ∨ n = 2)) x e 8 0 k
      (emitCtlX Src.pfe (fun n => decide (n = 0)) x e 8 0 k s))
  else s

/-- Apply every posted change, in strip order (R57) (DEDUCED, log entry 54). -/
def applyAllCal (s : State) : State :=
  (List.range 52).foldl (fun s k =>
    match Tab.look s.tdc.posted k with
    | none => s
    | some a => applyCal k a { s with tdc := { s.tdc with posted := Tab.del s.tdc.posted k } }) s

/-- At a boundary, the column that opens counts for every pass in progress (R58). -/
def eligible (s : State) : State :=
  let step (e : Nat × StripCal) : Nat × StripCal :=
    (e.1, { e.2 with prevElig := e.2.colElig, colElig := decide (e.2.phase ≠ .idle) })
  { s with tdc := { s.tdc with strips := s.tdc.strips.map step } }

/-- Abandon the cycle of a fenced strip: trims under test or posted are withdrawn (R63). -/
def abandonCycle (k : Nat) (s : State) : State :=
  let c := calOf s k
  let s := if c.underTest then loadLines k c.old s else s
  { setCal k { calOf s k with phase := .idle, underTest := false, tested := false } s with
    tdc := { (setCal k { calOf s k with phase := .idle, underTest := false, tested := false } s).tdc with
      posted := Tab.del s.tdc.posted k } }

/-! ### Counting (R54, R56) -/

/-- Count an edge on a tap of line `l`: 16-bit counters, whose value past 65,535 the spec does not state
(DESIGN CHOICE, log entry 14). -/
def countTap (l tap : Nat) (s : State) : State :=
  let h := Tab.lookD s.tdc.colCounts l (List.replicate 97 0)
  let v := h.getD tap 0 + 1
  let h' := h.set tap (if v < 65536 then v else Config.freeNat s.freeIdx % 65536)
  { s with
    tdc := { s.tdc with colCounts := Tab.put s.tdc.colCounts l h' },
    freeIdx := if v < 65536 then s.freeIdx else s.freeIdx + 1 }

/-- The quiet-hit rate of the previous column of channel `l` is below topup_min (R56); `quiet` holds the hits of the
previous column and its quiet time stands in the PFE. -/
def belowTopup (s : State) (l : Nat) : Bool :=
  let m := rdf s Fld.TDC_CAL_TOPUP_topup_min
  decide (m ≠ 0) && (match Tab.look s.tdc.quiet l with
    | none => true
    | some h => decide (h * 64000000 < m * s.pfe.prevQuiet))

/-- Whether the calibration edge source is injected into line `l` at `t` (R56). -/
def injected (s : State) (l : Nat) (t : Tick) : Bool :=
  let c := calOf s (unitOfLine l)
  decide (c.phase ≠ .idle) && (match c.kind with
    | .running => decide (l < 512) && belowTopup s l && quietAt s t
    | _ => true)

/-- The strip of channel `c` runs: a personality with lidar, not fenced, not parked. -/
def chanLive (s : State) (c : Nat) : Bool := hasLidar s && !isFenced s (Unit.strip (c / 16))

/-- A fenced strip whose graft calibrates it (R63) (DEDUCED, log entry 59). -/
def graftCal (s : State) (k : Nat) : Bool :=
  let c := calOf s k
  isFenced s (Unit.strip k) && decide (c.kind = .graft) && decide (c.phase ≠ .idle)

/-- At a column's end the counts of a strip under graft join its pass: the back gives no verdict on a fenced strip (R54, R63)
(DEDUCED, log entry 59). -/
def graftCommit (s : State) : State :=
  (List.range 32).foldl (fun s k =>
    let c := calOf s k
    if graftCal s k && c.colElig then
      setCal k ((List.range 16).foldl (fun c i =>
        c.add i (passHits s c) (Tab.lookD s.tdc.colCounts (16 * k + i) [])) c) s
    else s) s

/-! ### Commands -/

/-- CAL_SOURCE_EDGE (R56): the edge enters the line after the coincidence logic and is counted for calibration only; the
dead time of R51 applies to the line. -/
def onCalSourceEdge (line : Fin 532) (tap : Fin 97) (t : Tick) (s : State) : State :=
  let s := advance t s
  let st := stampOf s line t tap
  if injected s line t && !((Tab.look s.tdc.lastEdge line).any fun l => decide (st < l + deadTicks)) then
    countTap line tap { s with tdc := { s.tdc with lastEdge := Tab.put s.tdc.lastEdge line st } }
  else s

/-- Whether the capture units select the raw stamps of a strip (R217, R218): a capture record with a TDC stream 2 source
whose strip mask holds it. -/
def rawSelected (s : State) (k : Nat) : Bool :=
  (recsOf s 0x0B01).any fun r => (List.range (rf r 0 8 4)).any fun i =>
    decide (rf r (0x18 + 8 * i) 0 6 = Src.tdc) && decide (rf r (0x18 + 8 * i) 8 6 = 2) && bitB (leAt r.body (0x1C + 8 * i) 4) k

/-- COINCIDENCE_EDGE (R50 to R54, R82): the oldest coincidence edge of the channel reaches the TDC and is captured at the TB
edge `edge`; the TDC stamps it unless the channel is dead. A quiet hit counts for calibration (R53), that of a strip
under graft for its cycle alone (R63, R66). -/
def onCoincidenceEdge (chan : Fin 512) (tap : Fin 97) (edge : Tick) (s : State) : State :=
  let s := advance edge s
  let es := Tab.lookD s.pfe.edges chan []
  let live := chanLive s chan
  if (live || graftCal s (chan / 16)) && es.head?.any (fun e => decide (e ≤ edge)) then
    let s := { s with pfe := { s.pfe with edges := Tab.put s.pfe.edges chan (es.drop 1) } }
    let st := stampOf s chan edge tap
    if (Tab.look s.tdc.lastEdge chan).any fun l => decide (st < l + deadTicks) then s
    else
      let s := { s with tdc := { s.tdc with lastEdge := Tab.put s.tdc.lastEdge chan st } }
      let w := stampWord true chan st
      let s := if live then pushRT 0 chan w s else s
      let s := if live && rawSelected s (chan / 16) then pushRT 1 (chan / 16) w s else s
      if quietAt s st then
        countTap chan tap
          (if live then { s with tdc := { s.tdc with colQuiet := Tab.upd s.tdc.colQuiet chan 0 (· + 1) } } else s)
      else s
  else s

/-- CAL_PASS_END (R58): the pass of the strip has all its hits, and the attempt proceeds. -/
def onCalPassEnd (strip : Fin 32) (t : Tick) (s : State) : State :=
  let s := advance t s
  if (calOf s strip).full then passEnd strip t s else s

/-- TDC_CAL_STARVED (R62): a pass, but one of start-up calibration (R66), older than pass_timeout ends the cycle; trims under test are withdrawn at the
next boundary. -/
def onTdcCalStarved (strip : Fin 32) (t : Tick) (s : State) : State :=
  let s := advance t s
  let c := calOf s strip
  let lim := rdf s Fld.TDC_CAL_TIMING_pass_timeout * 6400000000
  if decide (c.phase ≠ .idle) && !decide (c.kind = .startup) && decide (lim ≠ 0) && decide (c.began + lim ≤ t) then
    let s := if c.tested then postCal strip .restore s else s
    let s := attemptReport strip 4 0 0 s
    raise 67 (setCal strip { c with phase := .idle, last := 4, starvedAt := some t, tested := false } s)
  else s

/-- TDC_CAL_REQ (R65, R78): a 1 makes its strip due at once, unless the strip is in a cycle, which meets the request; the
bit reads 1 until the cycle starts. -/
def onTdcCalReq (mask : Word32) (t : Tick) (s : State) : State :=
  let s := advance t s
  if s.boot.step < 6 then s
  else
    let m := (List.range 32).foldl (fun a k => if mask.getLsbD k && decide ((calOf s k).phase = .idle) then a + 2 ^ k else a) 0
    wr Reg.TDC_CAL_REQ (rd s Reg.TDC_CAL_REQ ||| BitVec.ofNat 32 m) s

/-- The CAL item of an aux-line swap in its channel's stream (R68); service channels have no stream. -/
def auxCalItem (chan : Nat) (s : State) : State :=
  if chan < 16 then emitCtl Src.tsu (fun n => decide (n = chan)) (curCtx s) 8 0 chan s else s

/-- A cycle of the spare line fails (R68, R69): three in a row retire the line and stop the rotation. -/
def auxFailed (line : Nat) (s : State) : State :=
  let s := auxCount line s
  if 3 ≤ Tab.lookD s.tsu.auxFails line 0 then
    fault 43 Src.tsu 0 .corrected line
      { s with tsu := { s.tsu with stopped := true, retired := s.tsu.retired ||| BitVec.ofNat 20 (2 ^ line) } }
  else s

/-- One attempt of an aux line with the counts of its three passes: the accepted line, if any (R57 to R59, R67). -/
def auxAttempt (s : State) (l : Line) (a b c : List Nat) : Option Line :=
  if trimsOk (newTrims l a) && passesAgree s [b] [c] then some (lineAccepted (lineUnderTest l a) b c) else none

/-- A pass of a running cycle is complete (R58): its 97 counts reach N. -/
def passWhole (s : State) (h : List Nat) : Bool :=
  decide (h.length = 97) && decide (2 ^ rdf s Fld.TDC_CAL_COUNT_run_log2 ≤ sumN h)

/-- The passes that an attempt makes: one when the trims leave their range, else three (R57). -/
def auxPasses (l : Line) (p : List Nat × List Nat × List Nat) : List (List Nat) :=
  if trimsOk (newTrims l p.1) then [p.1, p.2.1, p.2.2] else [p.1]

/-- A cycle of an aux line from its attempts (R57, R67): none while the attempts make no whole cycle, else the accepted
line, if any, and the counts of the last pass. -/
def auxCycle (n : Nat) (s : State) (l : Line) (as : List (List Nat × List Nat × List Nat)) :
    Option (Option Line × List Nat) :=
  match n, as with
  | 0, _ | _, [] => none
  | n + 1, p :: r =>
    let ps := auxPasses l p
    if !ps.all (passWhole s) then none
    else
      let x := auxAttempt s l p.1 p.2.1 p.2.2
      if x.isSome || decide (n = 0) then some (x, ps.getLastD []) else auxCycle n s l r

/-- AUX_ROTATION_STEP (R67, R68): the spare runs its cycle with the measured counts, which TDC_DIAG_DATA shows (R78); when
accepted it is connected in parallel with the next channel for the overlap. An aux line's cycle raises no event of the strips
(DESIGN CHOICE, log entry 5; DEDUCED, log entry 62). -/
def onAuxRotationStep (attempts : List (PassCounts × PassCounts × PassCounts)) (t : Tick) (s : State) : State :=
  let s := advance t s
  if s.tsu.stopped || s.tsu.overlap.isSome || !s.tdc.calDone then s
  else
    match auxCycle 4 s (lineOf s (512 + s.tsu.spare)) attempts with
    | none => s
    | some (some l, h) =>
      let s := keepPass (32 + s.tsu.spare) [h] s
      { s with
        tdc := { s.tdc with lines := Tab.put s.tdc.lines (512 + s.tsu.spare) l },
        tsu := { s.tsu with overlap := some ⟨s.tsu.spare, s.tsu.nextChan, true⟩ } }
    | some (none, h) => auxFailed s.tsu.spare (keepPass (32 + s.tsu.spare) [h] s)

/-- AUX_OVERLAP_END (R68): the spare takes the channel over when every edge agreed, or the swap is abandoned. -/
def onAuxOverlapEnd (t : Tick) (s : State) : State :=
  let s := advance t s
  match s.tsu.overlap with
  | none => s
  | some o =>
    if o.agree then
      raise 44 (auxCalItem o.chan
        { s with tsu := { s.tsu with lineOf := s.tsu.lineOf.set o.chan o.line, spare := s.tsu.lineOf.getD o.chan 0,
                                     auxFails := Tab.put s.tsu.auxFails o.line 0, nextChan := (o.chan + 1) % 19,
                                     overlap := none } })
    else auxFailed o.line { s with tsu := { s.tsu with overlap := none } }

/-! ### Meanings -/

/-- The meaning of this command: the step of `onCalSourceEdge` (R56). -/
def execCalSourceEdge (line : Fin 532) (tap : Fin 97) (t : Tick) (s : State) : Host.Outcome State Fault Refusal :=
  .next (onCalSourceEdge line tap t s)

/-- The meaning of this command: the step of `onCoincidenceEdge` (R82). -/
def execCoincidenceEdge (chan : Fin 512) (tap : Fin 97) (edge : Tick) (s : State) : Host.Outcome State Fault Refusal :=
  .next (onCoincidenceEdge chan tap edge s)

/-- The meaning of this command: the step of `onCalPassEnd` (R58). -/
def execCalPassEnd (strip : Fin 32) (t : Tick) (s : State) : Host.Outcome State Fault Refusal :=
  .next (onCalPassEnd strip t s)

/-- The meaning of this command: the step of `onTdcCalStarved` (R62). -/
def execTdcCalStarved (strip : Fin 32) (t : Tick) (s : State) : Host.Outcome State Fault Refusal :=
  .next (onTdcCalStarved strip t s)

/-- The meaning of this command: the step of `onTdcCalReq` (R65). -/
def execTdcCalReq (mask : Word32) (t : Tick) (s : State) : Host.Outcome State Fault Refusal :=
  .next (onTdcCalReq mask t s)

/-- The meaning of this command: the step of `onAuxRotationStep` (R68). -/
def execAuxRotationStep (attempts : List (PassCounts × PassCounts × PassCounts)) (t : Tick) (s : State) : Host.Outcome State Fault Refusal :=
  .next (onAuxRotationStep attempts t s)

/-- The meaning of this command: the step of `onAuxOverlapEnd` (R68). -/
def execAuxOverlapEnd (t : Tick) (s : State) : Host.Outcome State Fault Refusal :=
  .next (onAuxOverlapEnd t s)

end Sys2Proof.Machine
end

