-- ==== Sys2Proof/Machine/Pfe.lean ====
section
/-! DEFINITION. The photon front end (R80 to R97): SPADs, blanking, ambient counts, the dark-count meter, auto masks,
coincidence depth, saturation and bias. -/

namespace Sys2Proof.Machine

/-! ### SPAD states (R81, R84) -/

/-- The image mask of a channel (PFE_IMASK, R100). -/
def imask (s : State) (c : Nat) : Nat := bits (rd s (Reg.PFE_IMASK (c / 2))).toNat (16 * (c % 2)) 16

/-- The automatic mask of a channel. -/
def amaskOf (s : State) (c : Nat) : Nat := (Tab.lookD s.pfe.amask c 0).toNat

def biasOf (s : State) (k : Nat) : BiasSt := Tab.lookD s.pfe.bias k {}

def setBias (k : Nat) (b : BiasSt) (s : State) : State := { s with pfe := { s.pfe with bias := Tab.put s.pfe.bias k b } }

/-- A strip whose SPADs are biased above breakdown: regulator on, not parked (R94, R96, R332). -/
def stripBiased (s : State) (k : Nat) : Bool := (biasOf s k).on && !stripParked s k

/-- SPAD `q` of channel `c` is not disarmed: biased, not image-masked, not blanked (R81, R84). -/
def spadEnabled (s : State) (c q : Nat) : Bool :=
  stripBiased s (c / 16) && !bitB (imask s c) q && !s.pfe.blanked.getLsbD (c / 32)

/-- SPAD `q` of channel `c` is armed. -/
def spadArmed (s : State) (c q : Nat) : Bool :=
  spadEnabled s c q && decide (Tab.lookD s.pfe.spads (16 * c + q) .armed = .armed)

/-- A strip whose meters run (R90, R96): biased and not fenced. -/
def stripMeters (s : State) (k : Nat) : Bool := stripBiased s k && !isFenced s (Unit.strip k)

/-- The number of armed, unmasked SPADs of a channel (R86); blanking and dead times do not count against it. -/
def nEnOf (s : State) (c : Nat) : Nat :=
  if stripBiased s (c / 16) then
    (List.range 16).foldl (fun a q => if bitB (imask s c) q || bitB (amaskOf s c) q then a else a + 1) 0
  else 0

/-! ### The ambient rate (R86) -/

/-- λ in cps of a count over `n` SPADs and a quiet time in ticks; none when invalid (R86). -/
def lambdaOf (count n ticks : Nat) : Option Rat :=
  if n = 0 || decide (ticks < 64000) then none else some ((count * 64000000000 : Rat) / (n * ticks : Nat))

/-- λ of the last column of channel `c`. -/
def lastLambda (s : State) (c : Nat) : Option Rat :=
  lambdaOf (Tab.lookD s.pfe.prevCount c 0) (Tab.lookD s.pfe.prevEn c 0) s.pfe.prevQuiet

/-- Threshold thr[k] in cps, k from 1 to 8 (R88, R100). -/
def thr (s : State) (k : Nat) : Rat :=
  10000 * (match k with
    | 2 => rdf s Fld.PFE_THR_A_thr2 | 3 => rdf s Fld.PFE_THR_A_thr3 | 4 => rdf s Fld.PFE_THR_B_thr4
    | 5 => rdf s Fld.PFE_THR_B_thr5 | 6 => rdf s Fld.PFE_THR_C_thr6 | 7 => rdf s Fld.PFE_THR_C_thr7
    | 8 => rdf s Fld.PFE_THR_D_thr8 | _ => 0 : Nat)

/-- Whether λ saturates the channel (R92). -/
def saturates (s : State) (l : Option Rat) : Bool :=
  let t := rdf s Fld.PFE_SAT_CFG_sat_thr
  decide (t ≠ 0) && l.any fun (x : Rat) => decide (((10000 * t : Nat) : Rat) ≤ x)

/-- The depth decision of R88 from λ and the previous depth. -/
def depthFrom (s : State) (l : Option Rat) (dPrev : Nat) : Nat :=
  let dmin := pf s 0 12 4
  let dmax := pf s 0 16 4
  let hyst := (rdf s Fld.PFE_THR_D_hyst : Rat) / 100
  let d := match l with
    | none => dPrev
    | some x =>
      let target := 1 + ((List.range 7).filter fun i => decide (thr s (i + 2) ≤ x)).length
      if dPrev < target then target
      else if decide (target < dPrev) && decide (x < thr s dPrev * (1 - hyst)) then target
      else dPrev
  let d := if saturates s l then dmax else d
  min dmax (max dmin d)

/-- λ of both partners for the depth of a deepen column (R89): counts and n_en summed, quiet time shared. -/
def pairLambda (s : State) (c : Nat) (p : List Nat × List Nat × Nat) : Option Rat :=
  lambdaOf (Tab.lookD s.pfe.prev2Count c 0 + p.1.getD c 0) (Tab.lookD s.pfe.prev2En c 0 + p.2.1.getD c 0) s.pfe.prev2Quiet

/-- The depth of channel `c` for the column that opens (R88, R89); the partner's counts serve only for the column before
the one just ended, which is number `nCol`. -/
def newDepth (s : State) (c : Nat) : Nat :=
  if pf s 0 6 1 = 0 then pf s 0 8 4
  else
    let dPrev := if s.pfe.fresh.getLsbD (c / 16) || !s.pfe.wasAdapt then pf s 0 12 4 else Tab.lookD s.pfe.depth c (pf s 0 12 4)
    match s.hse.role with
    | .single => depthFrom s (lastLambda s c) dPrev
    | _ => match s.pfe.partner with
      | none => pf s 0 16 4
      | some p => if p.1 + 1 = s.esq.nCol then depthFrom s (pairLambda s c p.2) dPrev else pf s 0 16 4

/-- At the opening of a column: every channel's depth, and the deepen miss of R89. -/
def pfeOpen (s : State) : State :=
  let miss := decide (s.hse.role ≠ .single) && decide (pf s 0 6 1 = 1)
    && !s.pfe.partner.any fun p => decide (p.1 + 1 = s.esq.nCol)
  let d := (List.range 512).map fun c => (c, newDepth s c)
  let changed := (List.range 512).foldl (fun a c =>
    if Tab.lookD s.pfe.depth c 0 = (d.getD c (0, 0)).2 then a + 2 ^ c else a) 0
  let s := if miss then
      stick Reg.PFE_STICKY 3 (bump Reg.PFE_DEEPEN_MISS 1 (fault 103 Src.pfe 0 .corrected 0 s)) else s
  { s with
    pfe := { s.pfe with depth := d, fresh := 0, wasAdapt := decide (pf s 0 6 1 = 1), partner := none,
                        aval := [], ambient := [], meter := [] },
    hse := { s.hse with fixDepth := BitVec.ofNat 512 changed } }

/-! ### Hot SPADs (R90, R91) -/

/-- The rate of a map entry in cps. -/
def rateOf (e : Nat × Nat) : Rat := if e.2 = 0 then 0 else (e.1 * 64000000000 : Rat) / e.2

/-- Store the visit of SPAD `q` in every running channel's map entry (R90). -/
def meterStore (q ticks : Nat) (s : State) : State :=
  (List.range 512).foldl (fun s c =>
    if stripMeters s (c / 16) && !bitB (imask s c) q then
      { s with pfe := { s.pfe with dcr := Tab.put s.pfe.dcr (16 * c + q) (Tab.lookD s.pfe.meter c 0, ticks) } }
    else s) s

/-- The decision of R91 for SPAD `q` of channel `c`, visited with λ `l` valid in the same column. -/
def hotDecide (q c : Nat) (l : Rat) (s : State) : State :=
  let rel := rdf s Fld.PFE_HOT_CFG_hot_rel
  let floor : Rat := 10000 * rdf s Fld.PFE_HOT_CFG_hot_abs
  let r := rateOf (Tab.lookD s.pfe.dcr (16 * c + q) (0, 0))
  let m := amaskOf s c
  let cnt := ((List.range 16).filter (bitB m)).length
  let setM (v : Nat) (s : State) : State :=
    { s with pfe := { s.pfe with amask := Tab.put s.pfe.amask c (BitVec.ofNat 16 v) } }
  if bitB (imask s c) q then s
  else if !bitB m q && decide ((rel : Rat) * l < r) && decide (floor < r) then
    if cnt + 1 ≤ rdf s Fld.PFE_HOT_CFG_mask_max then raise 96 (setM (m + 2 ^ q) s)
    else stick Reg.PFE_STICKY 2 (fault 98 Src.pfe (c / 16) .corrected c s)
  else if bitB m q && decide (r < (rel : Rat) / 2 * l) then raise 97 (setM (m - 2 ^ q) s)
  else s

/-- All decisions after the visit of SPAD `q`; a rate of 0 or a limit of 0 disables auto-masking (R91). -/
def hotDecisions (q : Nat) (s : State) : State :=
  if decide (rdf s Fld.PFE_HOT_CFG_hot_rel = 0) || decide (rdf s Fld.PFE_HOT_CFG_mask_max = 0) then s
  else (List.range 512).foldl (fun s c =>
    match lastLambda s c with
    | some l => if stripMeters s (c / 16) then hotDecide q c l s else s
    | none => s) s

/-! ### Bias (R94, R95) -/

/-- V_BD(T) in mV for a temperature in 0.25 K, from the factory trim (R93, R94, R100). -/
def vbd (t : Int) : Rat :=
  10 * (bits Config.bdTrim.toNat 0 12 : Rat) + (bits Config.bdTrim.toNat 16 8 : Rat) / 10 * ((t : Rat) / 4 - 25)

/-- The regulated excess in mV. -/
def excessMv (s : State) : Nat := 10 * rdf s Fld.PFE_BIAS_CFG_excess

/-- One strip's bias check of a round (R95): the measured bias in mV against V_BD(T) of the round. The first one after the
regulator was enabled is the check before start-up calibration, or that of a graft (R96), which fails at once
(DEDUCED, log entry 62). -/
def biasCheck (k mv : Nat) (t : Int) (s : State) : State :=
  let b := biasOf s k
  if !b.on then s
  else
    let ex := (mv : Rat) - vbd t
    let isLow := decide (ex < (excessMv s : Rat) - 300)
    let isFail := decide ((mv : Rat) < vbd t + 500)
    let lowRun := if isLow then b.lowRun + 1 else 0
    let okRun := if isLow then 0 else b.okRun + 1
    let failRun := if isFail then b.failRun + 1 else 0
    let nowLow := decide (lowRun ≥ 2) && !b.low
    let nowFail := (decide (failRun ≥ 2) || (b.check && isFail)) && !b.fail
    let s := setBias k { b with bias := mv, lowRun := lowRun, okRun := okRun, failRun := failRun,
                                low := if lowRun ≥ 2 then true else if okRun ≥ 2 then false else b.low,
                                fail := b.fail || nowFail, check := false, target := vbd t + excessMv s } s
    let s := if nowLow then stick Reg.PFE_STICKY 0 (fault 100 Src.pfe k .corrected 0 s) else s
    if nowFail then stick Reg.PFE_STICKY 1 (fault 101 Src.pfe k .contained 0 s) else s

/-- At a column boundary the settings move by at most 20 mV (R94) (DEDUCED, log entry 40). -/
def biasStep (s : State) : State :=
  let move (e : Nat × BiasSt) : Nat × BiasSt :=
    let d := e.2.target - e.2.set
    (e.1, { e.2 with set := if 20 < d then e.2.set + 20 else if d < -20 then e.2.set - 20 else e.2.target })
  { s with pfe := { s.pfe with bias := s.pfe.bias.map move } }

/-- Switch a strip's regulator (R94, R96): enabled, its setting starts from the present target; off, a meter cycle of its
graft ends. -/
def biasEnable (k : Nat) (on : Bool) (s : State) : State :=
  let s := setBias k { biasOf s k with on := on, bias := if on then (biasOf s k).bias else 0, lowRun := 0, okRun := 0,
                                       failRun := 0, fail := !on && (biasOf s k).fail, check := on, set := (biasOf s k).target } s
  { s with pfe := { s.pfe with gMeter := if on then s.pfe.gMeter else s.pfe.gMeter.filter fun g => !decide (g.strip = k) } }

/-! ### The column's end (R86, R87, R90 to R92) -/

/-- One status word (R87). -/
def statusWord (s : State) (c : Nat) : Nat :=
  let n := Tab.lookD s.pfe.prevEn c 0
  let l := lastLambda s c
  let kc := match l with
    | some x => min 65535 (x / 1000).floor.toNat
    | none => 0
  Tab.lookD s.pfe.depth c 0 % 16 + 16 * b2n (saturates s l) + 32 * n + 1024 * b2n (biasOf s (c / 16)).low
    + 2048 * b2n l.isNone + 65536 * kc

/-- Two 32-bit words per 64-bit word, the first in the low half. -/
def pairWords (l : List Nat) : List Word64 :=
  match l with
  | [] => []
  | [a] => [BitVec.ofNat 64 a]
  | a :: b :: r => BitVec.ofNat 64 (a % 2 ^ 32 + b % 2 ^ 32 * 2 ^ 32) :: pairWords r

/-- A column whose quiet time is `ticks` ends: its counts are swapped out (R86); its status item and the decisions follow
the boundary's control items (R97). -/
def pfeSwap (ctx : TagCtx) (ticks : Nat) (s : State) : State :=
  let en := (List.range 512).map fun c => (c, if isFenced s (Unit.strip (c / 16)) then 0 else nEnOf s c)
  { s with pfe := { s.pfe with
    prev2Count := s.pfe.prevCount, prev2En := s.pfe.prevEn, prev2Quiet := s.pfe.prevQuiet,
    prevCount := s.pfe.ambient, prevEn := en, prevQuiet := ticks, ended := some (ctx, ticks) } }

/-- The PFE's part of the boundary that ends a column, after the control items (R97): the status
item is emitted in the column's context, in deepen mode the counts go to the partner (R89), saturation is counted and the meter's visit is stored and judged. -/
def pfeEnd (ctx : TagCtx) (ticks : Nat) (s : State) : State :=
  let q := s.pfe.meterCol % 16
  let sat := ((List.range 512).filter fun c => saturates s (lastLambda s c)).length
  let s := if s.hse.role = .single then s else
    let col (t : Tab Nat) : List Nat := (List.range 512).map fun c => Tab.lookD t c 0
    toPartner (.deepCounts s.esq.nCol (col s.pfe.prevCount) (col s.pfe.prevEn) ticks) s
  let s := emitX Src.pfe 0 ctx (if anyTest s then 64 else 0) (pairWords ((List.range 512).map (statusWord s))) s
  let s := if sat = 0 then s else bumpAt Reg.PFE_SAT_COUNT 0 32 sat (if s.pfe.satFrame then s else raise 99 s)
  let s := { s with pfe := { s.pfe with satChans := sat, satFrame := s.pfe.satFrame || decide (sat ≠ 0) } }
  let s := hotDecisions q (meterStore q ticks s)
  biasStep { s with pfe := { s.pfe with meterCol := s.pfe.meterCol + 1, visits := s.pfe.visits + 1,
                                        mapValid := s.pfe.mapValid || decide (s.pfe.visits + 1 ≥ 16),
                                        ambient := [], meter := [] } }

/-- The turn of the PFE at a lidar boundary, after its control items: the column that has ended, if any (R97). -/
def pfeTurn (s : State) : State :=
  match s.pfe.ended with
  | some e => pfeEnd e.1 e.2 { s with pfe := { s.pfe with ended := none } }
  | none => s

/-- The meter's step at the epoch boundary `t` of start-up calibration (R90): after 16 epochs the map is complete. -/
def pfeEpoch (t : Tick) (s : State) : State :=
  let q := s.pfe.meterCol % 16
  let ticks := t - s.pfe.meterFrom
  let en := (List.range 512).map fun c => (c, nEnOf s c)
  let s := { s with pfe := { s.pfe with prevCount := s.pfe.ambient, prevQuiet := ticks, prevEn := en } }
  let s := hotDecisions q (meterStore q ticks s)
  let done := decide (s.pfe.visits + 1 = 16)
  let s := { s with pfe := { s.pfe with meterFrom := t, meterCol := s.pfe.meterCol + 1, visits := s.pfe.visits + 1,
                                        mapValid := s.pfe.mapValid || done, ambient := [], meter := [] } }
  if done then raise 104 s else s

/-! ### The meter cycle of a graft (R96) -/

/-- The quiet time up to `t` joins the epoch of the graft's meter; a column's end does this while its shots are known. -/
def graftQuiet (t : Tick) (s : State) : State :=
  match s.pfe.gMeter with
  | some g =>
    if g.on then { s with pfe := { s.pfe with gMeter := some { g with mark := t, quiet := g.quiet + quietTicks s g.mark t } } }
    else s
  | none => s

/-- The graft's meter stores the rate of SPAD `q` of channel `c`, unless the image masks it. -/
def graftStore (g : GraftMeter) (q c : Nat) (s : State) : State :=
  if bitB (imask s c) q then s
  else { s with pfe := { s.pfe with dcr := Tab.put s.pfe.dcr (16 * c + q) (Tab.lookD g.meter c 0, g.quiet) } }

/-- The visit of SPAD `q` by the graft's meter: its rates are stored, and R91 decides with λ of the epoch. -/
def graftVisit (g : GraftMeter) (s : State) : State :=
  let q := g.visits % 16
  let chans := (List.range 16).map fun i => 16 * g.strip + i
  let s := chans.foldl (fun s c => graftStore g q c s) s
  if decide (rdf s Fld.PFE_HOT_CFG_hot_rel = 0) || decide (rdf s Fld.PFE_HOT_CFG_mask_max = 0) then s
  else chans.foldl (fun s c =>
    match lambdaOf (Tab.lookD g.ambient c 0) (nEnOf s c) g.quiet with
    | some l => hotDecide q c l s
    | none => s) s

/-- An epoch boundary at `t`: the meter cycle of a graft begins, or its epoch ends; after 16 epochs the cycle is over
(R96) (DEDUCED, log entry 59). -/
def graftEpoch (t : Tick) (s : State) : State :=
  let s := graftQuiet t s
  match s.pfe.gMeter with
  | some g =>
    let s := if g.on then graftVisit g s else s
    let n := if g.on then g.visits + 1 else 0
    let g' : GraftMeter := { strip := g.strip, on := true, visits := n, mark := t }
    { s with pfe := { s.pfe with gMeter := if n < 16 then some g' else none } }
  | none => s

/-- An avalanche of SPAD `q` of channel `c` in quiet time counts in the graft's meter. -/
def graftCount (c q : Nat) (masked : Bool) (g : GraftMeter) : GraftMeter :=
  if g.on && decide (c / 16 = g.strip) then
    { g with ambient := if masked then g.ambient else Tab.upd g.ambient c 0 (fun n => min (n + 1) (2 ^ 24 - 1)),
             meter := if g.visits % 16 = q then Tab.upd g.meter c 0 (· + 1) else g.meter }
  else g

/-! ### Commands -/

/-- SPAD_AVALANCHE (R81, R82, R86, R90): an armed SPAD turns dead; in a quiet interval the avalanche counts in the
ambient counter (unmasked) and in the meter (the visited SPAD), for a strip under graft in those of its graft (R96); an unmasked one enters the coincidence window, and the one that
completes the depth produces a coincidence edge and a clearing point (R82). -/
def onSpadAvalanche (chan : Fin 512) (spad : Fin 16) (t : Tick) (s : State) : State :=
  let s := advance t s
  if spadArmed s chan spad then
    let masked := bitB (amaskOf s chan) spad
    let quiet := quietAt s t
    let runs := quiet && !isFenced s (Unit.strip (chan / 16))
    let w := if s.esq.plan.isNone then 64 else planWindow s
    let av := ((Tab.lookD s.pfe.aval chan []).filter fun a => decide (t < a + w)) ++ [t]
    let hit := !masked && decide (max 1 (Tab.lookD s.pfe.depth chan 1) ≤ av.length)
    { s with pfe := { s.pfe with
      spads := Tab.put s.pfe.spads (16 * chan + spad) (.dead t),
      gMeter := if quiet then s.pfe.gMeter.map (graftCount chan spad masked) else s.pfe.gMeter,
      ambient := if runs && !masked then Tab.upd s.pfe.ambient chan 0 (fun n => min (n + 1) (2 ^ 24 - 1)) else s.pfe.ambient,
      meter := if runs && decide (s.pfe.meterCol % 16 = spad.val) then Tab.upd s.pfe.meter chan 0 (· + 1) else s.pfe.meter,
      aval := if masked then s.pfe.aval else if hit then Tab.del s.pfe.aval chan else Tab.put s.pfe.aval chan av,
      edges := if hit then Tab.upd s.pfe.edges chan [] (· ++ [t]) else s.pfe.edges } }
  else s

/-- SPAD_REARM (R81): a dead SPAD is armed again. -/
def onSpadRearm (chan : Fin 512) (spad : Fin 16) (t : Tick) (s : State) : State :=
  let s := advance t s
  { s with pfe := { s.pfe with spads := Tab.del s.pfe.spads (16 * chan + spad) } }

/-- The latest fired shot of a bank. -/
def lastShot (s : State) (b : Nat) : Option Shot := (s.esq.shots.filter fun f => decide (f.bank = b) && f.fired).getLast?

/-- Whether `t` lies in the blanking interval of shot `f` (R84). -/
def inBlank (s : State) (f : Shot) (t : Tick) : Bool :=
  decide (f.tick + 64 * planBlankStart s ≤ t) && decide (t < f.tick + 64 * (planBlankStart s + planBlankLen s))

/-- BLANK_START (R84, R85): at blank_start after a shot of the bank its SPADs are disarmed, unless blanking is off or the
shot is a reference shot (DESIGN CHOICE, log entry 5). -/
def onBlankStart (bank : Fin 16) (t : Tick) (s : State) : State :=
  let s := advance t s
  if (lastShot s bank).any fun f => !f.ref && inBlank s f t then
    { s with pfe := { s.pfe with blanked := s.pfe.blanked ||| BitVec.ofNat 16 (2 ^ bank.val) } }
  else s

/-- BLANK_END (R84): blank_len after its start the blanking ends; the bank's SPADs are re-armed, the dead ones too
(DESIGN CHOICE, log entry 5). -/
def onBlankEnd (bank : Fin 16) (t : Tick) (s : State) : State :=
  let s := advance t s
  if s.pfe.blanked.getLsbD bank && !(lastShot s bank).any fun f => inBlank s f t then
    { s with pfe := { s.pfe with
      blanked := s.pfe.blanked &&& ~~~BitVec.ofNat 16 (2 ^ bank.val),
      spads := s.pfe.spads.filter fun e => !decide (e.1 / 512 = bank.val) } }
  else s

/-- DEEP_COUNTS (R89): the partner's counts of a column, for the depth decision two columns later. -/
def onDeepCounts (column : Nat) (counts nEn : List Nat) (tQuiet : Nat) (s : State) : State :=
  if s.hse.role = .single then s
  else { s with pfe := { s.pfe with partner := some (column, counts, nEn, tQuiet) } }

/-! ### Meanings -/

/-- The meaning of this command: the step of `onSpadAvalanche` (R81). -/
def execSpadAvalanche (chan : Fin 512) (spad : Fin 16) (t : Tick) (s : State) : Host.Outcome State Fault Refusal :=
  .next (onSpadAvalanche chan spad t s)

/-- The meaning of this command: the step of `onSpadRearm` (R81). -/
def execSpadRearm (chan : Fin 512) (spad : Fin 16) (t : Tick) (s : State) : Host.Outcome State Fault Refusal :=
  .next (onSpadRearm chan spad t s)

/-- The meaning of this command: the step of `onBlankStart` (R84). -/
def execBlankStart (bank : Fin 16) (t : Tick) (s : State) : Host.Outcome State Fault Refusal :=
  .next (onBlankStart bank t s)

/-- The meaning of this command: the step of `onBlankEnd` (R84). -/
def execBlankEnd (bank : Fin 16) (t : Tick) (s : State) : Host.Outcome State Fault Refusal :=
  .next (onBlankEnd bank t s)

/-- The meaning of this command: the step of `onDeepCounts` (R89). -/
def execDeepCounts (column : Nat) (counts : List Nat) (nEn : List Nat) (tQuiet : Nat) (s : State) : Host.Outcome State Fault Refusal :=
  .next (onDeepCounts column counts nEn tQuiet s)

end Sys2Proof.Machine
end

