-- ==== Sys2Proof/Machine/Ala.lean ====
section
/-! DEFINITION. The Allotment arbiter (R325 to R335, R34): the ladder, the estimates, the epoch grant, the schedule. -/

namespace Sys2Proof.Machine

/-! ### The ladder (R325, R328) -/

/-- The groups: G_PCIE 0, G_LINK 1, G_TINE 2, G_TONE 3, G_SHOT 4, G_STRIP 5. -/
abbrev gShotIdx : Nat := 4

/-- shot_tab[l] (R351). -/
def shotTab (s : State) (l : Nat) : Nat := bits (rd s (Reg.ALA_SHOT_TAB (l / 2))).toNat (16 * (l % 2)) 10

/-- The bank at position `i` of the park order (R351). -/
def parkOrder (s : State) (i : Nat) : Nat :=
  if i < 8 then bits (rd s Reg.ALA_PARK_ORDER0).toNat (4 * i) 4 else bits (rd s Reg.ALA_PARK_ORDER1).toNat (4 * (i - 8)) 4

/-- The parked mask of level `l` of G_STRIP. -/
def parkMask (s : State) (l : Nat) : Nat := (List.range (2 * l)).foldl (fun a i => Nat.lor a (2 ^ parkOrder s i)) 0

/-- The floor of group `g`; in deepen mode that of G_STRIP is 0 (R325). -/
def groupFloor (s : State) (g : Nat) : Nat :=
  match g with
  | 0 => rdf s Fld.ALA_FLOORS_pcie_max
  | 1 => rdf s Fld.ALA_FLOORS_link_max
  | 2 => rdf s Fld.ALA_FLOORS_tine_max
  | 3 => if hasFibre s then rdf s Fld.ALA_FLOORS_tone_max else 0
  | 4 => if hasLidar s then rdf s Fld.ALA_FLOORS_shot_max else 0
  | _ => if hasLidar s && decide (s.hse.role = .single) then rdf s Fld.ALA_FLOORS_strip_max else 0

/-- The factor of group `g` at level `l`, up to a common scale (R325). -/
def groupFactor (s : State) (g l : Nat) : Nat :=
  match g with
  | 0 => [256, 154, 100, 70].getD l 70
  | 1 => [256, 196, 136, 76].getD l 76
  | 2 => [256, 200, 144, 88].getD l 88
  | 3 => [256, 144, 88, 56].getD l 56
  | 4 => shotTab s l
  | _ => [256, 224, 192, 160, 128].getD l 128

/-- A rung: the items deferred, as a mask with D1 in bit 0, and the level of each group. -/
abbrev Rung := Nat × List Nat

/-- The rungs of the deferrable items (R328). -/
def itemRungs (s : State) : List Rung :=
  ((List.range 5).foldl (fun (a : List Rung × Nat) i =>
    if bitB (rdf s Fld.ALA_FLOORS_defer_en) i then (a.1 ++ [(a.2 + 2 ^ i, List.replicate 6 0)], a.2 + 2 ^ i) else a) ([], 0)).1

/-- The ladder, rung 0 first (R328). -/
def ladder (s : State) : List Rung :=
  let d := itemRungs s
  let top := (d.getLast?.map (·.1)).getD 0
  let steps := (List.range 7).flatMap fun p => ((List.range 6).filter fun g => decide (p + 1 ≤ groupFloor s g)).map fun g => (g, p + 1)
  let tail := (steps.foldl (fun (a : List Rung × List Nat) x =>
    let lv := a.2.set x.1 x.2
    (a.1 ++ [(top, lv)], lv)) ([], List.replicate 6 0)).1
  (0, List.replicate 6 0) :: d ++ tail

def rungTop (s : State) : Nat := (ladder s).length - 1

def rungAt (s : State) (r : Nat) : Rung := (ladder s).getD r (0, List.replicate 6 0)

/-! ### Estimates (R327) -/

/-- The group that scales plot `k`; P7 is scaled in its FIB-back share alone. -/
def plotGroup (k : Nat) : Option Nat :=
  match k with
  | 11 => some 0 | 10 => some 1 | 5 => some 2 | 4 => some 4 | 1 => some 5 | 2 => some 5 | 3 => some 5 | _ => none

/-- The plot of deferrable item `i` (D1 is 0). -/
def itemPlot (i : Nat) : Nat := [8, 7, 5, 3, 3].getD i 8

/-- `m` at level `l` scaled to level `l'`, rounded half up (R327). -/
def scaleTo (s : State) (g m l l' : Nat) : Nat :=
  let f := groupFactor s g l
  if f = 0 then m else rdivN (m * groupFactor s g l') f

/-- The quantity `m` of plot `k` (an estimate, or a current) at rung `to`: `frm` is the rung in force, `items` the items'
own shares of it, `fib` the FIB back's, `m0` what P4 last reported at a level with a factor. -/
def plotAt (s : State) (k m : Nat) (items : List Nat) (fib m0 : Nat) (frm dst : Rung) : Nat :=
  let mine := (List.range 5).filter fun i => decide (itemPlot i = k)
  let run (d : Nat) : Nat := sumN ((mine.filter fun i => !bitB d i).map fun i => items.getD i 0)
  let x := m - run frm.1 + run dst.1
  let lv (r : Rung) (g : Nat) : Nat := r.2.getD g 0
  match plotGroup k with
  | none => if k = 7 then (x - fib) + scaleTo s 3 (min fib x) (lv frm 3) (lv dst 3) else x
  | some g =>
    if g = gShotIdx && decide (groupFactor s g (lv frm g) = 0) && decide (lv frm g ≠ lv dst g) then scaleTo s g m0 s.ala.l0 (lv dst g)
    else scaleTo s g x (lv frm g) (lv dst g)

/-- The personality mask of R39. -/
def personalityMask (s : State) : Nat := if hasLidar s then (if hasFibre s then 0 else 2 ^ 6) else if hasFibre s then 0x1E else 0

/-- The estimated total at rung `to` (R329) (DEDUCED, log entry 39). -/
def totalAt (s : State) (dst : Rung) : Nat :=
  let r := s.ala.report
  let frm : Rung := s.ala.reportAt
  sumN ((List.range 12).map fun k =>
    if bitB (personalityMask s) k then 0 else plotAt s k (min 511 (r.plots.getD k 0)) s.ala.shares r.fibBack s.ala.m0 frm dst)

/-- The current of rail `i` at rung `to` in 1/16 A (DEDUCED, log entry 39). -/
def railAt (s : State) (dst : Rung) (i : Nat) : Nat :=
  let r := s.ala.report
  let frm : Rung := s.ala.reportAt
  sumN ((List.range 12).map fun k =>
    if bitB (personalityMask s) k then 0
    else plotAt s k ((r.railPlots.getD i []).getD k 0) (s.ala.currents.getD i []) (r.railFib.getD i 0) (s.ala.m0Rails.getD i 0) frm dst)

/-- Every rail is within its limit at rung `to` (R329). -/
def railsFit (s : State) (dst : Rung) : Bool :=
  (List.range 5).all fun i => decide (railAt s dst i ≤ rdf s (Fld.ALA_RAIL_LIM_limit i))

/-- fits(r, b) of R329. -/
def fits (s : State) (dst : Rung) (b : Nat) : Bool := decide (totalAt s dst ≤ b) && railsFit s dst

/-- A report with every plot that the grant in force holds at zero reporting 0 (R327). -/
def heldOut (s : State) (r : EpochReport) : EpochReport :=
  let z (l : List Nat) : List Nat := (List.range 12).map fun k => if bitB (gHeld s.ala.grant) k then 0 else l.getD k 0
  { r with plots := z r.plots, railPlots := r.railPlots.map z }

/-- What the arbiter reads at the start of an epoch: the band of the latest housekeeping round, the emitter's forced level,
and the throttle cap (R329) (DEDUCED, log entry 39). -/
def readInputs (s : State) : State :=
  { s with ala := { s.ala with inBand := s.hkp.band, inForced := s.ala.forced, inThr := s.ala.cThr } }

/-- Take a report: shares and currents of the items that ran, the last report of P4 at a non-zero factor, and the levels
and deferrals in force during the epoch measured, which the estimates are for (R327) (DEDUCED, log entry 39). -/
def takeReport (rep : EpochReport) (s : State) : State :=
  let r := heldOut s rep
  let d := s.ala.cur.defer
  let l := s.ala.cur.levels.getD gShotIdx 0
  let pick (new old : List Nat) : List Nat := (List.range 5).map fun i => if bitB d i then old.getD i 0 else new.getD i 0
  let live := decide (groupFactor s gShotIdx l ≠ 0)
  let m0 := if live then min 511 (r.plots.getD 4 0) else s.ala.m0
  let m0r := if live then (List.range 5).map fun i => (r.railPlots.getD i []).getD 4 0 else s.ala.m0Rails
  { s with ala := { s.ala with
      report := r, reportAt := (d, s.ala.cur.levels), shares := pick r.items s.ala.shares,
      currents := (List.range 5).map fun i => pick (r.railItems.getD i []) (s.ala.currents.getD i []),
      m0 := m0, m0Rails := m0r, l0 := if live then l else s.ala.l0 } }

/-! ### The grant record (R330) -/

/-- The fields of a grant record. -/
structure GrantFields where
  band : Nat := 0
  sched : Bool := false
  departure : Bool := false
  throttled : Bool := false
  stopping : Bool := false
  rung : Nat := 0
  shot : Nat := 0
  clk : Nat := 0
  tones : Nat := 0
  up : Nat := 0
  dn : Nat := 0
  pcie : Nat := 0
  defer : Nat := 0
  parked : Nat := 0
  held : Nat := 0
  deriving DecidableEq, Repr

/-- The 16 bytes of a grant record. -/
def GrantFields.bytes (g : GrantFields) : List Byte :=
  [g.band + 8 * b2n g.sched + 16 * b2n g.departure + 32 * b2n g.throttled + 64 * b2n g.stopping, g.rung, g.shot % 256,
   g.shot / 256, g.clk, g.tones, g.up + 16 * g.dn, g.pcie, g.defer, g.parked % 256, g.parked / 256, g.held % 256,
   g.held / 256, 0, 0, 0].map (BitVec.ofNat 8)

/-- The fields of a record. -/
def grantFields (g : List Byte) : GrantFields :=
  { band := gBand g, sched := gSched g, departure := gDeparture g, throttled := gThrottled g, stopping := gStopping g,
    rung := gRung g, shot := gShot g, clk := gClk g, tones := gTones g, up := gLanesUp g, dn := gLanesDn g, pcie := gPcieW g,
    defer := gByte g 8 % 32, parked := gParked g, held := gHeld g }

/-- p_ceiling and the budget of the computation in progress (R329). -/
def pCeiling (s : State) : Nat := rdf s Fld.ALA_CEILING_p_ceiling
def budgetNow (s : State) : Nat := min (pCeiling s) s.ala.inThr
/-- Whether the throttle cap stands below p_ceiling, at present and as the computation read it (R330, R343). -/
def isThrottled (s : State) : Bool := !s.ala.grant.isEmpty && decide (s.ala.cThr < pCeiling s)
def throttledIn (s : State) : Bool := decide (s.ala.inThr < pCeiling s)

/-- The measured link width; 8 while no width has been negotiated. -/
def widthNow (s : State) : Nat := if s.hif.negotiated = 0 then 8 else s.hif.negotiated

/-- The service fields of group levels (R325). -/
def levelFields (s : State) (lv : List Nat) (shotLevel : Nat) : GrantFields :=
  let l (g : Nat) : Nat := lv.getD g 0
  { shot := shotTab s shotLevel, clk := 16 - 4 * l 2, tones := 8 / 2 ^ l 3,
    up := min (trainedCount s .up) (4 - l 1), dn := min (trainedCount s .dn) (4 - l 1),
    pcie := min (widthNow s) (8 / 2 ^ l 0), parked := parkMask s (l 5) }

/-! ### The ladder's computation (R329) -/

/-- The first rung from `r` on that `p` accepts, at most `fuel` rungs up. -/
def climb (fuel r : Nat) (p : Nat → Bool) : Nat :=
  match fuel with
  | 0 => r
  | f + 1 => if p r then r else climb f (r + 1) p

/-- The grant of the ladder. -/
def ladderGrant (s : State) : AlaGrant :=
  let b := budgetNow s
  let r0 := min s.ala.rung (rungTop s)
  let r := climb (rungTop s - r0) r0 fun r => fits s (rungAt s r) b
  let m := rdf s Fld.ALA_CFG_margin
  let down := decide (r = r0) && decide (0 < r) && decide (totalAt s (rungAt s (r - 1)) + m ≤ b) && railsFit s (rungAt s (r - 1))
  let r := if down then r - 1 else r
  let x := rungAt s r
  let sl := max (x.2.getD gShotIdx 0) s.ala.inForced
  let byTotal := climb (rungTop s - r0) r0 fun r => decide (totalAt s (rungAt s r) ≤ b)
  let g : GrantFields := { levelFields s x.2 sl with
    band := s.ala.inBand, throttled := throttledIn s, rung := r, defer := x.1, held := personalityMask s }
  { record := g.bytes, rung := r, defer := x.1, levels := x.2.set gShotIdx sl, total := totalAt s x,
    rails := (List.range 5).map (railAt s x), budget := b,
    isOver := decide (r = rungTop s) && !fits s x b, byRail := decide (byTotal < r) }

/-- The events of a grant of either mode: a rung taken for a rail limit only, and a top rung that does not fit (R329). -/
def fitEvents (g : AlaGrant) (s : State) : State :=
  let s := if g.byRail then stick Reg.ALA_STICKY 2 (raise 260 s) else s
  if g.isOver then stick Reg.ALA_STICKY 1 (bump Reg.ALA_OVER 1 (fault 257 Src.ala 0 .corrected 0 s)) else s

/-- The events of a ladder grant (R329, R333). -/
def ladderEvents (g : AlaGrant) (s : State) : State :=
  let s := fitEvents g s
  let s := if s.ala.rung = 0 && decide (g.rung ≠ 0) then raise 258 s
    else if decide (s.ala.rung ≠ 0) && decide (g.rung = 0) then raise 259 s else s
  let overNow := decide ((rungAt s g.rung).2.getD gShotIdx 0 < s.ala.inForced)
  let s := if overNow && !s.ala.emOver then raise 263 s else s
  { s with ala := { s.ala with emOver := overNow } }

/-! ### The schedule (R334, R335) -/

def schedRec (s : State) : Option ImgRec := recOf s 0x1101

/-- Entry `i` of the schedule: 16 record bytes and a count of epochs, 20 bytes an entry. -/
def schedEntry (r : ImgRec) (i : Nat) : List Byte := slice r.body (20 * i) 16
def schedCount (r : ImgRec) (i : Nat) : Nat := leAt r.body (20 * i + 16) 4
def schedLen (r : ImgRec) : Nat := r.body.length / 20

/-- The entry that holds `n` epochs after epoch B, from entry `i` on. -/
def entryAfter (r : ImgRec) (fuel i n : Nat) : Nat :=
  match fuel with
  | 0 => i
  | f + 1 => if i + 1 < schedLen r && decide (schedCount r i ≤ n) then entryAfter r f (i + 1) (n - schedCount r i) else i

/-- The entry of epoch `e` (R334). -/
def entryOf (s : State) (r : ImgRec) (e : Nat) : Nat :=
  match s.ala.base with
  | none => 0
  | some b => if e < b then 0 else entryAfter r (schedLen r) 0 (e - b)

/-- The highest level up to `n` that `p` accepts, 0 for none. -/
def highest (n : Nat) (p : Nat → Bool) : Nat :=
  match n with
  | 0 => 0
  | n + 1 => if p (n + 1) then n + 1 else highest n p

/-- The entry's level of each group (R335): the highest whose setting serves at least as much as the entry's field. -/
def entryLevels (s : State) (g : GrantFields) : List Nat :=
  [highest 3 fun l => decide (g.pcie ≤ min (widthNow s) (8 / 2 ^ l)),
   highest 3 fun l => decide (g.up ≤ min (trainedCount s .up) (4 - l)) && decide (g.dn ≤ min (trainedCount s .dn) (4 - l)),
   highest 3 fun l => decide (g.clk ≤ 16 - 4 * l),
   highest 3 fun l => decide (g.tones ≤ 8 / 2 ^ l),
   highest 7 fun l => decide (g.shot ≤ shotTab s l),
   highest 4 fun l => decide (Nat.land (parkMask s l) (65535 - g.parked) = 0)]

/-- Merge the rungs 1 to `r` into the entry's deferrals and levels. -/
def mergeRung (s : State) (base : Rung) (r : Nat) : Rung :=
  let x := rungAt s r
  (Nat.lor base.1 x.1, (List.range 6).map fun g => max (base.2.getD g 0) (x.2.getD g 0))

/-- The fields of an entry after the reductions that `x` adds to its own levels `base` (R335). -/
def reduceEntry (s : State) (g : GrantFields) (base x : Rung) : GrantFields :=
  let f := levelFields s x.2 (x.2.getD gShotIdx 0)
  let more (i : Nat) : Bool := decide (base.2.getD i 0 < x.2.getD i 0)
  { g with
    defer := x.1, pcie := if more 0 then min g.pcie f.pcie else g.pcie, up := if more 1 then min g.up f.up else g.up,
    dn := if more 1 then min g.dn f.dn else g.dn, clk := if more 2 then min g.clk f.clk else g.clk,
    tones := if more 3 then min g.tones f.tones else g.tones, shot := if more 4 then min g.shot f.shot else g.shot,
    parked := if more 5 then Nat.lor g.parked f.parked else g.parked }

/-- The grant of the schedule for epoch `e` (R335); the band and the reductions are a departure each, and the throttled bit
stays the entry's (DEDUCED, log entry 39). -/
def schedGrant (s : State) (r : ImgRec) (e : Nat) : AlaGrant :=
  let i := entryOf s r e
  let ent := grantFields (schedEntry r i)
  let base : Rung := (ent.defer, entryLevels s ent)
  let b := budgetNow s
  let reduce := throttledIn s || !railsFit s base
  let top := rungTop s
  let n := if reduce then climb top 0 fun r => fits s (mergeRung s base r) b else 0
  let byTotal := if throttledIn s then climb top 0 fun r => decide (totalAt s (mergeRung s base r) ≤ b) else 0
  let x := mergeRung s base n
  let cut := reduceEntry s ent base x
  let departs := b2n (decide (ent.band < s.ala.inBand)) + b2n (decide (cut ≠ ent))
  let g := { cut with band := max ent.band s.ala.inBand, departure := decide (departs ≠ 0) }
  { record := g.bytes, rung := 0, defer := x.1, levels := x.2, total := totalAt s x, rails := (List.range 5).map (railAt s x),
    entry := i, budget := b, isOver := reduce && !fits s x b, departs := departs, byRail := reduce && decide (byTotal < n) }

/-- The events of a scheduled grant (R335). -/
def schedEvents (g : AlaGrant) (s : State) : State :=
  let s := fitEvents g s
  if g.departs = 0 then s else stick Reg.ALA_STICKY 3 (bump Reg.ALA_DEPART g.departs (raise 261 s))

/-! ### Epochs (R34, R331, R344) -/

/-- The computation for epoch `e` finishes: the grant is ready, with its events. -/
def computeGrant (e : Nat) (s : State) : State :=
  match schedRec s with
  | some r =>
    let g := schedGrant s r e
    let s := schedEvents g s
    { s with ala := { s.ala with ready := some g, rung := 0 } }
  | none =>
    let g := ladderGrant s
    let s := ladderEvents g s
    { s with ala := { s.ala with ready := some g, rung := g.rung } }

/-- Post the GRANT item of the grant in force to the producers (R24, R34) (DEDUCED, log entry 39). -/
def postGrant (s : State) : State :=
  let arg := s.ala.epoch % 2 ^ 32 + 2 ^ 32 * gDigest s.ala.grant
  let one (d : Dom) (s : State) : State := x8Internal ⟨4, 0, arg, Src.ala, 0, d, .internal, now s⟩ s
  let s := if hasLidar s then one .lidar s else s
  if hasFibre s then one .fibre s else s

/-- The grant `g` is in force from epoch `e` on; the link takes its lane counts (R331, R357). -/
def installGrant (e : Nat) (g : AlaGrant) (s : State) : State :=
  let s := { s with ala := { s.ala with grant := g.record, cur := g, epoch := e, ready := none,
                                        grants := Tab.put s.ala.grants e g.record } }
  linkGrant (postGrant s)

/-- The stopping grant (R344): the grant in force with no shot, no tone and every item deferred; `held` adds holds, and a plot
held at zero has the fields that R330 gives at 0: no tine clock for P5, idle ports for P10 (DEDUCED, log entry 41). -/
def stoppingGrant (s : State) (held : Nat) : AlaGrant :=
  let f := grantFields s.ala.grant
  let f := { f with stopping := true, shot := 0, tones := 0, defer := 31, held := Nat.lor (personalityMask s) held,
                    throttled := isThrottled s, departure := f.departure || (schedRec s).isSome,
                    clk := if bitB held 5 then 0 else f.clk, up := if bitB held 10 then 0 else f.up,
                    dn := if bitB held 10 then 0 else f.dn }
  { s.ala.cur with record := f.bytes, defer := 31 }

/-- P1 to P8 and P10 (R344, R345). -/
abbrev stopHolds : Nat := 0x5FE

/-- Put the stopping grant in force; in reproducible mode it is a departure (R335) (DEDUCED, log entry 41). -/
def installStop (e held : Nat) (s : State) : State :=
  let s := if (schedRec s).isSome && !gStopping s.ala.grant then stick Reg.ALA_STICKY 3 (bump Reg.ALA_DEPART 1 (raise 261 s)) else s
  installGrant e (stoppingGrant s held) s

/-- The epoch number of the present time (DEDUCED, log entry 39). -/
def epochNow (s : State) : Nat := now s / epochTicks

/-- The first grant at commit (R451 step 5): no estimates, in force at once (DEDUCED, log entry 39). -/
def firstGrant (s : State) : State :=
  let s := readInputs { s with ala := { s.ala with cThr := pCeiling s } }
  let e := epochNow s
  let s := computeGrant e s
  match s.ala.ready with
  | some g => installGrant e g s
  | none => s

/-- The condition of a fatal state is over at the end of its provisional round, unless a fatal message of the round is still on its
way (R505): the pair returns, the ladder
restarts at rung 0, and the stop is over (DEDUCED, log entry 39). -/
def confirmClear (s : State) : State :=
  let late := s.fcl.inFlight.any fun m => decide (m.cls = .fatal) && decide (s.fcl.clearAt < m.stamp) && decide (m.stamp ≤ s.fcl.provEnd)
  if s.fcl.provisional && decide (s.fcl.provEnd ≤ now s) && !late then
    { s with
      fcl := { s.fcl with fatal := false, provisional := false, fatalCause := 0, fatalStamp := 0 },
      ala := { s.ala with rung := 0, ready := none, computing := none, cur := { s.ala.cur with rung := 0 } },
      hkp := { s.hkp with orderly := false, hardCut := false, drained := false },
      esq := { s.esq with stopped := false, ledBad := false } }
  else s

/-- What the epoch boundaries do in place of column boundaries during start-up calibration (R57, R66, R90): posted trims
apply, the counts of the epoch join their passes, an aux line's full pass ends, a pass at its limit fails. -/
def startupEpoch (s : State) : State :=
  let limit := 960000000 * 2 ^ (rdf s Fld.TDC_CAL_COUNT_boot_log2 - 20)
  let t := now s
  let s := (List.range 52).foldl (fun s k =>
    let c := calOf s k
    let c := if c.colElig then
        (List.range (calLines k).length).foldl (fun c i =>
          c.add i (passHits s c) (Tab.lookD s.tdc.colCounts ((calLines k).getD i 0) [])) c
      else c
    let s := setCal k c s
    if 32 ≤ k && c.full then passEnd k t s
    else if c.phase ≠ .idle && !c.full && decide (c.began + limit ≤ t) then attemptFailed k 4 t (attemptReport k 4 0 0 s) else s) s
  let s := applyAllCal s
  let s := eligible s
  let s := { s with tdc := { s.tdc with colCounts := [], quiet := [], colQuiet := [] } }
  if hasLidar s then pfeEpoch t s else s

/-- EPOCH_START (R34, R329, R331): the grant computed in the epoch just ended takes effect (the stopping grant of a stop
in its place), a computation not ready is late, the plots report and the next computation begins; before the first frame
or sweep the time is corrected at these boundaries (R369). An epoch starts at the first TB edge at or after a multiple of
50 us (DEDUCED, log entry 39). -/
def onEpochStart (r : EpochReport) (t : Tick) (s : State) : State :=
  let s := confirmClear (advance t s)
  if s.boot.step < 6 || decide (s.boot.step = 15) || decide (64 ≤ now s % epochTicks) then s
  else
    let e := epochNow s
    let s := if s.boot.step = 8 then startupEpoch s else graftEpoch t s
    let s := if s.ala.base.isNone then alignBoundary s else s
    if s.hkp.hardCut then s
    else if s.hkp.orderly then
      let s := takeReport r s
      let s := if gStopping s.ala.grant then postGrant { s with ala := { s.ala with epoch := e, grants := Tab.put s.ala.grants e s.ala.grant } }
        else installStop e 0 s
      { s with ala := { s.ala with ready := none, computing := none } }
    else
      let late := s.ala.ready.isNone && s.ala.computing.isSome
      let s := takeReport r s
      let s := match s.ala.ready with
        | some g => installGrant e g s
        | none => s
      let s := if late then stick Reg.ALA_STICKY 0 (bump Reg.ALA_LATE 1 (fault 256 Src.ala 0 .corrected 0 s)) else s
      readInputs { s with ala := { s.ala with computing := some r } }

/-- GRANT_COMPUTED (R329, R330, R335): the computation begun at the epoch's start is done (DEDUCED, log entry 39). -/
def onGrantComputed (t : Tick) (s : State) : State :=
  let s := advance t s
  match s.ala.computing with
  | none => s
  | some _ => computeGrant (epochNow s + 1) { s with ala := { s.ala with computing := none } }

/-- The ALA registers (R351) (DEDUCED, log entries 39 and 52). -/
def alaView (s : State) (off : Nat) : Option Nat :=
  let g := s.ala.grant
  if off = Reg.ALA_STATUS then
    some (gRung g + 32 * (if s.boot.step < 6 then 0 else rungTop s) + 2 ^ 10 * b2n (schedRec s).isSome + 2 ^ 11 * b2n (isThrottled s)
      + 2 ^ 12 * b2n (gStopping g) + 2 ^ 13 * s.ala.forced)
  else if off = Reg.ALA_EPOCH then some (s.ala.epoch % 2 ^ 32)
  else if off = Reg.ALA_DIGEST then some (if g.isEmpty then 0 else gDigest g)
  else if off = Reg.ALA_BUDGET then some (s.ala.cur.budget + 2 ^ 16 * s.ala.cThr)
  else if off = Reg.ALA_TOTAL then some (min 1023 s.ala.cur.total)
  else if off = Reg.ALA_SCHED then some ((schedRec s).elim 0 fun r => s.ala.cur.entry + 2 ^ 16 * schedLen r)
  else match (List.range 4).find? fun i => decide (off = Reg.ALA_EPOCH_GRANT i) with
    | some i => some (leAt g (4 * i) 4)
    | none => match (List.range 12).find? fun k => decide (off = Reg.ALA_PLOT_EST k) with
      | some k => some (if bitB (gHeld g) k then 0 else min 511 (s.ala.report.plots.getD k 0))
      | none => ((List.range 5).find? fun i => decide (off = Reg.ALA_RAIL_EST i)).map fun i => min 1023 (s.ala.cur.rails.getD i 0)

/-! ### Meanings -/

/-- The meaning of this command: the step of `onEpochStart` (R329). -/
def execEpochStart (r : EpochReport) (t : Tick) (s : State) : Host.Outcome State Fault Refusal :=
  .next (onEpochStart r t s)

/-- The meaning of this command: the step of `onGrantComputed` (R330). -/
def execGrantComputed (t : Tick) (s : State) : Host.Outcome State Fault Refusal :=
  .next (onGrantComputed t s)

end Sys2Proof.Machine
end

