-- ==== Sys2Proof/Machine/ResampleRom.lean ====
section
/-! DEFINITION. The resampler coefficients of R211: row phi holds taps i = -7 to 8 in 2^-17, computed from the rule's
Kaiser-windowed sinc, each rounded, tap 0 adjusted so that the phase sums to 2^17. -/

namespace Sys2Proof.Machine

/-- Phases 0 to 15 (DEDUCED, log entry 53). -/
def resampleRom0 : List (List Int) :=
  [[0, 0, 0, 0, 0, 0, 0, 131072, 0, 0, 0, 0, 0, 0, 0, 0],
   [-2, 7, -20, 47, -99, 201, -481, 131070, 485, -203, 99, -47, 20, -7, 2, 0],
   [-3, 14, -40, 94, -197, 401, -957, 131057, 974, -406, 199, -95, 41, -14, 4, 0],
   [-5, 21, -60, 140, -295, 600, -1429, 131043, 1467, -611, 299, -143, 61, -21, 5, 0],
   [-7, 28, -79, 187, -392, 798, -1897, 131018, 1965, -817, 400, -191, 82, -29, 7, -1],
   [-8, 34, -99, 232, -488, 994, -2361, 130989, 2466, -1024, 502, -240, 103, -36, 9, -1],
   [-10, 41, -118, 278, -584, 1190, -2820, 130951, 2972, -1232, 603, -288, 123, -44, 11, -1],
   [-12, 48, -137, 323, -679, 1383, -3275, 130906, 3482, -1441, 706, -337, 144, -51, 13, -1],
   [-13, 54, -156, 368, -773, 1576, -3726, 130855, 3995, -1651, 809, -387, 166, -59, 15, -1],
   [-15, 61, -175, 413, -867, 1767, -4172, 130797, 4513, -1862, 912, -436, 187, -66, 17, -2],
   [-16, 67, -194, 457, -961, 1957, -4613, 130734, 5035, -2073, 1015, -486, 208, -74, 18, -2],
   [-18, 74, -212, 501, -1053, 2145, -5051, 130662, 5560, -2286, 1119, -536, 230, -81, 20, -2],
   [-19, 80, -231, 544, -1145, 2332, -5483, 130583, 6090, -2500, 1224, -586, 252, -89, 22, -2],
   [-21, 86, -249, 587, -1236, 2518, -5912, 130500, 6623, -2715, 1329, -636, 273, -97, 24, -2],
   [-22, 92, -267, 630, -1327, 2702, -6336, 130410, 7160, -2930, 1434, -687, 295, -105, 26, -3],
   [-23, 98, -284, 673, -1417, 2884, -6755, 130309, 7701, -3146, 1539, -737, 317, -113, 29, -3]]

/-- Phases 16 to 31. -/
def resampleRom1 : List (List Int) :=
  [[-25, 104, -302, 715, -1506, 3065, -7170, 130205, 8246, -3363, 1645, -788, 339, -121, 31, -3],
   [-26, 110, -319, 756, -1594, 3245, -7580, 130091, 8794, -3581, 1752, -839, 362, -129, 33, -3],
   [-27, 116, -337, 798, -1682, 3423, -7985, 129973, 9347, -3799, 1858, -891, 384, -137, 35, -4],
   [-29, 122, -354, 839, -1768, 3600, -8386, 129846, 9903, -4018, 1965, -942, 406, -145, 37, -4],
   [-30, 127, -371, 879, -1854, 3774, -8783, 129717, 10462, -4238, 2072, -994, 429, -153, 39, -4],
   [-31, 133, -387, 919, -1940, 3948, -9175, 129578, 11025, -4458, 2179, -1046, 451, -161, 41, -4],
   [-32, 138, -404, 959, -2024, 4120, -9562, 129433, 11592, -4679, 2287, -1098, 474, -170, 43, -5],
   [-34, 144, -420, 999, -2108, 4290, -9944, 129279, 12162, -4901, 2395, -1150, 497, -178, 46, -5],
   [-35, 149, -436, 1037, -2191, 4458, -10322, 129121, 12736, -5123, 2503, -1202, 520, -186, 48, -5],
   [-36, 154, -452, 1076, -2273, 4625, -10695, 128955, 13313, -5345, 2611, -1254, 543, -195, 50, -5],
   [-37, 160, -468, 1114, -2354, 4790, -11064, 128784, 13893, -5568, 2720, -1307, 566, -203, 52, -6],
   [-38, 165, -483, 1152, -2435, 4953, -11427, 128605, 14477, -5792, 2828, -1359, 589, -212, 55, -6],
   [-39, 170, -499, 1189, -2515, 5115, -11787, 128421, 15065, -6016, 2937, -1412, 612, -220, 57, -6],
   [-40, 175, -514, 1226, -2593, 5275, -12141, 128228, 15655, -6240, 3046, -1464, 635, -229, 59, -6],
   [-41, 180, -529, 1263, -2671, 5433, -12491, 128030, 16249, -6465, 3155, -1517, 658, -237, 62, -7],
   [-42, 185, -544, 1299, -2748, 5590, -12835, 127824, 16846, -6690, 3264, -1570, 682, -246, 64, -7]]

/-- Phases 32 to 47. -/
def resampleRom2 : List (List Int) :=
  [[-43, 189, -558, 1334, -2825, 5745, -13176, 127616, 17446, -6915, 3373, -1623, 705, -255, 66, -7],
   [-44, 194, -573, 1369, -2900, 5898, -13511, 127397, 18050, -7140, 3482, -1676, 728, -263, 69, -8],
   [-45, 199, -587, 1404, -2975, 6049, -13842, 127173, 18656, -7366, 3592, -1729, 752, -272, 71, -8],
   [-46, 203, -601, 1438, -3048, 6198, -14167, 126943, 19265, -7592, 3701, -1782, 775, -281, 74, -8],
   [-47, 207, -614, 1472, -3121, 6346, -14489, 126707, 19878, -7818, 3810, -1835, 799, -290, 76, -9],
   [-48, 212, -628, 1505, -3193, 6492, -14805, 126463, 20493, -8044, 3920, -1888, 822, -299, 79, -9],
   [-49, 216, -641, 1538, -3264, 6635, -15116, 126213, 21112, -8270, 4029, -1942, 846, -307, 81, -9],
   [-50, 220, -654, 1571, -3334, 6777, -15423, 125959, 21733, -8497, 4138, -1995, 870, -316, 83, -10],
   [-51, 224, -667, 1603, -3403, 6918, -15725, 125695, 22357, -8723, 4248, -2048, 893, -325, 86, -10],
   [-51, 228, -680, 1634, -3471, 7056, -16022, 125426, 22984, -8949, 4357, -2101, 917, -334, 88, -10],
   [-52, 232, -692, 1665, -3538, 7192, -16314, 125151, 23613, -9175, 4466, -2154, 941, -343, 91, -11],
   [-53, 236, -705, 1696, -3604, 7327, -16602, 124869, 24246, -9401, 4575, -2207, 964, -352, 94, -11],
   [-54, 240, -717, 1726, -3670, 7459, -16885, 124584, 24881, -9627, 4684, -2260, 988, -361, 96, -12],
   [-54, 244, -729, 1756, -3734, 7590, -17163, 124288, 25518, -9853, 4793, -2313, 1012, -370, 99, -12],
   [-55, 247, -740, 1785, -3797, 7719, -17436, 123990, 26158, -10079, 4901, -2366, 1035, -379, 101, -12],
   [-56, 251, -752, 1814, -3860, 7846, -17704, 123683, 26801, -10304, 5010, -2419, 1059, -388, 104, -13]]

/-- Phases 48 to 63. -/
def resampleRom3 : List (List Int) :=
  [[-56, 254, -763, 1842, -3921, 7971, -17967, 123371, 27446, -10530, 5118, -2472, 1083, -397, 106, -13],
   [-57, 258, -774, 1870, -3982, 8094, -18226, 123053, 28093, -10754, 5226, -2525, 1107, -406, 109, -14],
   [-57, 261, -785, 1897, -4042, 8215, -18480, 122729, 28743, -10979, 5334, -2577, 1130, -415, 112, -14],
   [-58, 264, -795, 1924, -4100, 8334, -18729, 122399, 29395, -11203, 5441, -2630, 1154, -424, 114, -14],
   [-59, 267, -806, 1950, -4158, 8451, -18973, 122064, 30050, -11427, 5548, -2682, 1178, -433, 117, -15],
   [-59, 270, -816, 1976, -4214, 8566, -19212, 121721, 30706, -11650, 5655, -2735, 1201, -442, 120, -15],
   [-60, 273, -826, 2002, -4270, 8679, -19447, 121374, 31365, -11873, 5762, -2787, 1225, -451, 122, -16],
   [-60, 276, -836, 2027, -4325, 8790, -19677, 121021, 32026, -12095, 5868, -2839, 1248, -461, 125, -16],
   [-61, 279, -845, 2051, -4378, 8899, -19902, 120660, 32689, -12317, 5974, -2891, 1272, -470, 128, -16],
   [-61, 282, -854, 2075, -4431, 9006, -20122, 120295, 33354, -12538, 6080, -2943, 1295, -479, 130, -17],
   [-61, 285, -863, 2098, -4483, 9111, -20337, 119923, 34021, -12759, 6185, -2994, 1318, -488, 133, -17],
   [-62, 287, -872, 2121, -4533, 9214, -20548, 119546, 34690, -12978, 6290, -3046, 1342, -497, 136, -18],
   [-62, 290, -881, 2144, -4583, 9315, -20754, 119165, 35360, -13198, 6394, -3097, 1365, -506, 138, -18],
   [-63, 292, -889, 2166, -4632, 9414, -20955, 118777, 36033, -13416, 6498, -3148, 1388, -515, 141, -19],
   [-63, 295, -898, 2187, -4679, 9511, -21151, 118383, 36707, -13634, 6601, -3199, 1411, -524, 144, -19],
   [-63, 297, -906, 2208, -4726, 9606, -21343, 117984, 37383, -13850, 6704, -3249, 1434, -533, 146, -20]]

/-- Phases 64 to 79. -/
def resampleRom4 : List (List Int) :=
  [[-64, 299, -913, 2229, -4772, 9698, -21530, 117579, 38061, -14066, 6807, -3300, 1457, -542, 149, -20],
   [-64, 301, -921, 2249, -4816, 9789, -21712, 117168, 38740, -14281, 6909, -3350, 1480, -551, 152, -21],
   [-64, 303, -928, 2268, -4860, 9878, -21889, 116753, 39420, -14496, 7010, -3400, 1503, -560, 155, -21],
   [-64, 305, -936, 2287, -4902, 9965, -22062, 116331, 40103, -14709, 7111, -3449, 1526, -569, 157, -22],
   [-65, 307, -943, 2306, -4944, 10049, -22230, 115906, 40786, -14921, 7212, -3499, 1548, -578, 160, -22],
   [-65, 309, -949, 2324, -4985, 10132, -22393, 115472, 41471, -15132, 7311, -3548, 1571, -587, 163, -22],
   [-65, 311, -956, 2342, -5024, 10212, -22552, 115035, 42158, -15342, 7411, -3597, 1593, -596, 165, -23],
   [-65, 312, -962, 2359, -5063, 10291, -22706, 114591, 42845, -15551, 7509, -3645, 1616, -604, 168, -23],
   [-65, 314, -968, 2375, -5100, 10367, -22855, 114143, 43534, -15759, 7607, -3693, 1638, -613, 171, -24],
   [-66, 316, -974, 2391, -5137, 10442, -23000, 113690, 44224, -15965, 7704, -3741, 1660, -622, 174, -24],
   [-66, 317, -980, 2407, -5172, 10514, -23140, 113234, 44915, -16171, 7801, -3789, 1682, -631, 176, -25],
   [-66, 318, -985, 2422, -5206, 10584, -23275, 112769, 45607, -16375, 7897, -3836, 1704, -640, 179, -25],
   [-66, 320, -991, 2437, -5240, 10653, -23406, 112299, 46300, -16577, 7992, -3883, 1726, -648, 182, -26],
   [-66, 321, -996, 2451, -5272, 10719, -23532, 111827, 46994, -16779, 8086, -3930, 1747, -657, 185, -26],
   [-66, 322, -1000, 2464, -5304, 10783, -23654, 111350, 47689, -16979, 8180, -3976, 1769, -666, 187, -27],
   [-66, 323, -1005, 2477, -5334, 10845, -23771, 110867, 48385, -17177, 8272, -4022, 1790, -674, 190, -28]]

/-- Phases 80 to 95. -/
def resampleRom5 : List (List Int) :=
  [[-66, 324, -1010, 2490, -5363, 10905, -23884, 110379, 49081, -17374, 8364, -4067, 1811, -683, 193, -28],
   [-66, 325, -1014, 2502, -5392, 10963, -23992, 109888, 49778, -17570, 8456, -4113, 1832, -691, 195, -29],
   [-66, 326, -1018, 2514, -5419, 11019, -24095, 109388, 50476, -17764, 8546, -4157, 1853, -700, 198, -29],
   [-66, 327, -1022, 2525, -5445, 11073, -24194, 108888, 51174, -17957, 8635, -4202, 1873, -708, 201, -30],
   [-66, 328, -1025, 2536, -5470, 11125, -24289, 108377, 51873, -18147, 8724, -4245, 1894, -716, 203, -30],
   [-66, 329, -1029, 2546, -5495, 11175, -24379, 107868, 52573, -18337, 8812, -4289, 1914, -725, 206, -31],
   [-66, 329, -1032, 2556, -5518, 11222, -24464, 107352, 53272, -18524, 8898, -4332, 1934, -733, 209, -31],
   [-66, 330, -1035, 2565, -5540, 11268, -24546, 106833, 53972, -18710, 8984, -4375, 1954, -741, 211, -32],
   [-66, 330, -1038, 2574, -5561, 11312, -24622, 106305, 54673, -18894, 9069, -4417, 1974, -749, 214, -32],
   [-66, 331, -1040, 2582, -5581, 11354, -24695, 105774, 55373, -19076, 9153, -4458, 1994, -757, 217, -33],
   [-66, 331, -1043, 2590, -5601, 11393, -24763, 105243, 56074, -19256, 9236, -4500, 2013, -765, 219, -33],
   [-66, 331, -1045, 2598, -5619, 11431, -24827, 104704, 56775, -19435, 9318, -4540, 2032, -773, 222, -34],
   [-65, 332, -1047, 2605, -5636, 11467, -24886, 104158, 57476, -19611, 9399, -4580, 2051, -781, 224, -34],
   [-65, 332, -1049, 2611, -5652, 11500, -24941, 103613, 58177, -19786, 9479, -4620, 2070, -789, 227, -35],
   [-65, 332, -1051, 2617, -5667, 11532, -24992, 103060, 58878, -19958, 9558, -4659, 2089, -796, 230, -36],
   [-65, 332, -1052, 2623, -5682, 11562, -25039, 102507, 59578, -20129, 9636, -4698, 2107, -804, 232, -36]]

/-- Phases 96 to 111. -/
def resampleRom6 : List (List Int) :=
  [[-65, 332, -1053, 2628, -5695, 11590, -25081, 101947, 60279, -20297, 9712, -4736, 2125, -812, 235, -37],
   [-65, 332, -1055, 2632, -5707, 11615, -25119, 101385, 60979, -20463, 9788, -4774, 2143, -819, 237, -37],
   [-64, 332, -1055, 2636, -5718, 11639, -25153, 100816, 61679, -20627, 9862, -4811, 2161, -827, 240, -38],
   [-64, 332, -1056, 2640, -5729, 11661, -25183, 100245, 62379, -20789, 9935, -4847, 2178, -834, 242, -38],
   [-64, 331, -1057, 2643, -5738, 11681, -25209, 99672, 63078, -20949, 10007, -4883, 2195, -841, 245, -39],
   [-64, 331, -1057, 2646, -5746, 11699, -25230, 99092, 63776, -21106, 10078, -4919, 2212, -848, 247, -39],
   [-63, 331, -1057, 2648, -5754, 11715, -25248, 98509, 64475, -21261, 10148, -4954, 2229, -855, 249, -40],
   [-63, 330, -1057, 2650, -5760, 11729, -25261, 97923, 65172, -21414, 10216, -4988, 2245, -862, 252, -40],
   [-63, 330, -1057, 2652, -5766, 11741, -25271, 97333, 65869, -21565, 10284, -5021, 2262, -869, 254, -41],
   [-62, 329, -1057, 2653, -5770, 11751, -25276, 96739, 66565, -21712, 10350, -5054, 2277, -876, 257, -42],
   [-62, 329, -1056, 2653, -5774, 11759, -25277, 96144, 67260, -21858, 10414, -5087, 2293, -883, 259, -42],
   [-62, 328, -1055, 2653, -5777, 11766, -25275, 95544, 67955, -22001, 10478, -5119, 2308, -889, 261, -43],
   [-62, 327, -1055, 2653, -5778, 11770, -25269, 94940, 68648, -22141, 10540, -5150, 2324, -896, 264, -43],
   [-61, 327, -1053, 2652, -5779, 11773, -25258, 94330, 69341, -22279, 10601, -5180, 2338, -902, 266, -44],
   [-61, 326, -1052, 2651, -5779, 11774, -25244, 93721, 70032, -22414, 10660, -5210, 2353, -909, 268, -44],
   [-61, 325, -1051, 2650, -5778, 11773, -25226, 93108, 70723, -22547, 10718, -5239, 2367, -915, 270, -45]]

/-- Phases 112 to 127. -/
def resampleRom7 : List (List Int) :=
  [[-60, 324, -1049, 2648, -5776, 11770, -25204, 92489, 71412, -22677, 10775, -5267, 2381, -921, 272, -45],
   [-60, 323, -1048, 2645, -5773, 11765, -25178, 91870, 72100, -22804, 10830, -5295, 2395, -927, 275, -46],
   [-59, 322, -1046, 2642, -5769, 11758, -25149, 91246, 72787, -22928, 10884, -5322, 2408, -933, 277, -46],
   [-59, 321, -1044, 2639, -5765, 11750, -25116, 90623, 73472, -23050, 10936, -5349, 2421, -939, 279, -47],
   [-59, 320, -1041, 2635, -5759, 11740, -25079, 89991, 74156, -23169, 10987, -5374, 2434, -944, 281, -47],
   [-58, 319, -1039, 2631, -5752, 11728, -25039, 89359, 74838, -23284, 11037, -5399, 2446, -950, 283, -48],
   [-58, 318, -1036, 2627, -5745, 11714, -24994, 88723, 75519, -23397, 11085, -5424, 2458, -955, 285, -48],
   [-57, 316, -1034, 2622, -5737, 11699, -24947, 88087, 76199, -23508, 11132, -5447, 2470, -961, 287, -49],
   [-57, 315, -1031, 2617, -5728, 11681, -24895, 87447, 76876, -23615, 11177, -5470, 2481, -966, 289, -49],
   [-57, 314, -1028, 2611, -5718, 11662, -24841, 86805, 77552, -23719, 11220, -5492, 2493, -971, 291, -50],
   [-56, 312, -1025, 2605, -5707, 11641, -24782, 86158, 78227, -23820, 11262, -5513, 2503, -976, 293, -50],
   [-56, 311, -1021, 2599, -5695, 11619, -24720, 85508, 78899, -23918, 11303, -5534, 2514, -981, 295, -51],
   [-55, 309, -1018, 2592, -5683, 11595, -24655, 84858, 79570, -24013, 11342, -5554, 2524, -985, 296, -51],
   [-55, 308, -1014, 2585, -5670, 11569, -24586, 84205, 80238, -24104, 11379, -5573, 2534, -990, 298, -52],
   [-54, 306, -1011, 2577, -5655, 11541, -24514, 83549, 80905, -24193, 11415, -5591, 2543, -994, 300, -52],
   [-54, 305, -1007, 2569, -5640, 11512, -24439, 82892, 81569, -24278, 11449, -5608, 2552, -999, 302, -53]]

/-- Phases 128 to 143. -/
def resampleRom8 : List (List Int) :=
  [[-53, 303, -1003, 2561, -5625, 11481, -24360, 82233, 82231, -24360, 11481, -5625, 2561, -1003, 303, -53],
   [-53, 302, -999, 2552, -5608, 11449, -24278, 81569, 82892, -24439, 11512, -5640, 2569, -1007, 305, -54],
   [-52, 300, -994, 2543, -5591, 11415, -24193, 80905, 83549, -24514, 11541, -5655, 2577, -1011, 306, -54],
   [-52, 298, -990, 2534, -5573, 11379, -24104, 80238, 84205, -24586, 11569, -5670, 2585, -1014, 308, -55],
   [-51, 296, -985, 2524, -5554, 11342, -24013, 79570, 84858, -24655, 11595, -5683, 2592, -1018, 309, -55],
   [-51, 295, -981, 2514, -5534, 11303, -23918, 78898, 85509, -24720, 11619, -5695, 2599, -1021, 311, -56],
   [-50, 293, -976, 2503, -5513, 11262, -23820, 78228, 86157, -24782, 11641, -5707, 2605, -1025, 312, -56],
   [-50, 291, -971, 2493, -5492, 11220, -23719, 77554, 86803, -24841, 11662, -5718, 2611, -1028, 314, -57],
   [-49, 289, -966, 2481, -5470, 11177, -23615, 76877, 87446, -24895, 11681, -5728, 2617, -1031, 315, -57],
   [-49, 287, -961, 2470, -5447, 11132, -23508, 76200, 88086, -24947, 11699, -5737, 2622, -1034, 316, -57],
   [-48, 285, -955, 2458, -5424, 11085, -23397, 75518, 88724, -24994, 11714, -5745, 2627, -1036, 318, -58],
   [-48, 283, -950, 2446, -5399, 11037, -23284, 74838, 89359, -25039, 11728, -5752, 2631, -1039, 319, -58],
   [-47, 281, -944, 2434, -5374, 10987, -23169, 74156, 89991, -25079, 11740, -5759, 2635, -1041, 320, -59],
   [-47, 279, -939, 2421, -5349, 10936, -23050, 73475, 90620, -25116, 11750, -5765, 2639, -1044, 321, -59],
   [-46, 277, -933, 2408, -5322, 10884, -22928, 72787, 91246, -25149, 11758, -5769, 2642, -1046, 322, -59],
   [-46, 275, -927, 2395, -5295, 10830, -22804, 72100, 91870, -25178, 11765, -5773, 2645, -1048, 323, -60]]

/-- Phases 144 to 159. -/
def resampleRom9 : List (List Int) :=
  [[-45, 272, -921, 2381, -5267, 10775, -22677, 71411, 92490, -25204, 11770, -5776, 2648, -1049, 324, -60],
   [-45, 270, -915, 2367, -5239, 10718, -22547, 70724, 93107, -25226, 11773, -5778, 2650, -1051, 325, -61],
   [-44, 268, -909, 2353, -5210, 10660, -22414, 70033, 93720, -25244, 11774, -5779, 2651, -1052, 326, -61],
   [-44, 266, -902, 2338, -5180, 10601, -22279, 69340, 94331, -25258, 11773, -5779, 2652, -1053, 327, -61],
   [-43, 264, -896, 2324, -5150, 10540, -22141, 68650, 94938, -25269, 11770, -5778, 2653, -1055, 327, -62],
   [-43, 261, -889, 2308, -5119, 10478, -22001, 67957, 95542, -25275, 11766, -5777, 2653, -1055, 328, -62],
   [-42, 259, -883, 2293, -5087, 10414, -21858, 67262, 96142, -25277, 11759, -5774, 2653, -1056, 329, -62],
   [-42, 257, -876, 2277, -5054, 10350, -21712, 66565, 96739, -25276, 11751, -5770, 2653, -1057, 329, -62],
   [-41, 254, -869, 2262, -5021, 10284, -21565, 65869, 97333, -25271, 11741, -5766, 2652, -1057, 330, -63],
   [-40, 252, -862, 2245, -4988, 10216, -21414, 65172, 97923, -25261, 11729, -5760, 2650, -1057, 330, -63],
   [-40, 249, -855, 2229, -4954, 10148, -21261, 64475, 98509, -25248, 11715, -5754, 2648, -1057, 331, -63],
   [-39, 247, -848, 2212, -4919, 10078, -21106, 63777, 99091, -25230, 11699, -5746, 2646, -1057, 331, -64],
   [-39, 245, -841, 2195, -4883, 10007, -20949, 63080, 99670, -25209, 11681, -5738, 2643, -1057, 331, -64],
   [-38, 242, -834, 2178, -4847, 9935, -20789, 62379, 100245, -25183, 11661, -5729, 2640, -1056, 332, -64],
   [-38, 240, -827, 2161, -4811, 9862, -20627, 61679, 100816, -25153, 11639, -5718, 2636, -1055, 332, -64],
   [-37, 237, -819, 2143, -4774, 9788, -20463, 60981, 101383, -25119, 11615, -5707, 2632, -1055, 332, -65]]

/-- Phases 160 to 175. -/
def resampleRom10 : List (List Int) :=
  [[-37, 235, -812, 2125, -4736, 9712, -20297, 60279, 101947, -25081, 11590, -5695, 2628, -1053, 332, -65],
   [-36, 232, -804, 2107, -4698, 9636, -20129, 59579, 102506, -25039, 11562, -5682, 2623, -1052, 332, -65],
   [-36, 230, -796, 2089, -4659, 9558, -19958, 58877, 103061, -24992, 11532, -5667, 2617, -1051, 332, -65],
   [-35, 227, -789, 2070, -4620, 9479, -19786, 58178, 103612, -24941, 11500, -5652, 2611, -1049, 332, -65],
   [-34, 224, -781, 2051, -4580, 9399, -19611, 57475, 104159, -24886, 11467, -5636, 2605, -1047, 332, -65],
   [-34, 222, -773, 2032, -4540, 9318, -19435, 56778, 104701, -24827, 11431, -5619, 2598, -1045, 331, -66],
   [-33, 219, -765, 2013, -4500, 9236, -19256, 56077, 105240, -24763, 11393, -5601, 2590, -1043, 331, -66],
   [-33, 217, -757, 1994, -4458, 9153, -19076, 55373, 105774, -24695, 11354, -5581, 2582, -1040, 331, -66],
   [-32, 214, -749, 1974, -4417, 9069, -18894, 54675, 106303, -24622, 11312, -5561, 2574, -1038, 330, -66],
   [-32, 211, -741, 1954, -4375, 8984, -18710, 53977, 106828, -24546, 11268, -5540, 2565, -1035, 330, -66],
   [-31, 209, -733, 1934, -4332, 8898, -18524, 53275, 107349, -24464, 11222, -5518, 2556, -1032, 329, -66],
   [-31, 206, -725, 1914, -4289, 8812, -18337, 52576, 107865, -24379, 11175, -5495, 2546, -1029, 329, -66],
   [-30, 203, -716, 1894, -4245, 8724, -18147, 51873, 108377, -24289, 11125, -5470, 2536, -1025, 328, -66],
   [-30, 201, -708, 1873, -4202, 8635, -17957, 51178, 108884, -24194, 11073, -5445, 2525, -1022, 327, -66],
   [-29, 198, -700, 1853, -4157, 8546, -17764, 50478, 109386, -24095, 11019, -5419, 2514, -1018, 326, -66],
   [-29, 195, -691, 1832, -4113, 8456, -17570, 49782, 109884, -23992, 10963, -5392, 2502, -1014, 325, -66]]

/-- Phases 176 to 191. -/
def resampleRom11 : List (List Int) :=
  [[-28, 193, -683, 1811, -4067, 8364, -17374, 49084, 110376, -23884, 10905, -5363, 2490, -1010, 324, -66],
   [-28, 190, -674, 1790, -4022, 8272, -17177, 48388, 110864, -23771, 10845, -5334, 2477, -1005, 323, -66],
   [-27, 187, -666, 1769, -3976, 8180, -16979, 47691, 111348, -23654, 10783, -5304, 2464, -1000, 322, -66],
   [-26, 185, -657, 1747, -3930, 8086, -16779, 46995, 111826, -23532, 10719, -5272, 2451, -996, 321, -66],
   [-26, 182, -648, 1726, -3883, 7992, -16577, 46300, 112299, -23406, 10653, -5240, 2437, -991, 320, -66],
   [-25, 179, -640, 1704, -3836, 7897, -16375, 45609, 112767, -23275, 10584, -5206, 2422, -985, 318, -66],
   [-25, 176, -631, 1682, -3789, 7801, -16171, 44918, 113231, -23140, 10514, -5172, 2407, -980, 317, -66],
   [-24, 174, -622, 1660, -3741, 7704, -15965, 44225, 113689, -23000, 10442, -5137, 2391, -974, 316, -66],
   [-24, 171, -613, 1638, -3693, 7607, -15759, 43535, 114142, -22855, 10367, -5100, 2375, -968, 314, -65],
   [-23, 168, -604, 1616, -3645, 7509, -15551, 42846, 114590, -22706, 10291, -5063, 2359, -962, 312, -65],
   [-23, 165, -596, 1593, -3597, 7411, -15342, 42161, 115032, -22552, 10212, -5024, 2342, -956, 311, -65],
   [-22, 163, -587, 1571, -3548, 7311, -15132, 41474, 115469, -22393, 10132, -4985, 2324, -949, 309, -65],
   [-22, 160, -578, 1548, -3499, 7212, -14921, 40790, 115902, -22230, 10049, -4944, 2306, -943, 307, -65],
   [-22, 157, -569, 1526, -3449, 7111, -14709, 40106, 116328, -22062, 9965, -4902, 2287, -936, 305, -64],
   [-21, 155, -560, 1503, -3400, 7010, -14496, 39423, 116750, -21889, 9878, -4860, 2268, -928, 303, -64],
   [-21, 152, -551, 1480, -3350, 6909, -14281, 38743, 117165, -21712, 9789, -4816, 2249, -921, 301, -64]]

/-- Phases 192 to 207. -/
def resampleRom12 : List (List Int) :=
  [[-20, 149, -542, 1457, -3300, 6807, -14066, 38064, 117576, -21530, 9698, -4772, 2229, -913, 299, -64],
   [-20, 146, -533, 1434, -3249, 6704, -13850, 37386, 117981, -21343, 9606, -4726, 2208, -906, 297, -63],
   [-19, 144, -524, 1411, -3199, 6601, -13634, 36710, 118380, -21151, 9511, -4679, 2187, -898, 295, -63],
   [-19, 141, -515, 1388, -3148, 6498, -13416, 36036, 118774, -20955, 9414, -4632, 2166, -889, 292, -63],
   [-18, 138, -506, 1365, -3097, 6394, -13198, 35363, 119162, -20754, 9315, -4583, 2144, -881, 290, -62],
   [-18, 136, -497, 1342, -3046, 6290, -12978, 34691, 119545, -20548, 9214, -4533, 2121, -872, 287, -62],
   [-17, 133, -488, 1318, -2994, 6185, -12759, 34023, 119921, -20337, 9111, -4483, 2098, -863, 285, -61],
   [-17, 130, -479, 1295, -2943, 6080, -12538, 33356, 120293, -20122, 9006, -4431, 2075, -854, 282, -61],
   [-16, 128, -470, 1272, -2891, 5974, -12317, 32691, 120658, -19902, 8899, -4378, 2051, -845, 279, -61],
   [-16, 125, -461, 1248, -2839, 5868, -12095, 32030, 121017, -19677, 8790, -4325, 2027, -836, 276, -60],
   [-16, 122, -451, 1225, -2787, 5762, -11873, 31368, 121371, -19447, 8679, -4270, 2002, -826, 273, -60],
   [-15, 120, -442, 1201, -2735, 5655, -11650, 30708, 121719, -19212, 8566, -4214, 1976, -816, 270, -59],
   [-15, 117, -433, 1178, -2682, 5548, -11427, 30053, 122061, -18973, 8451, -4158, 1950, -806, 267, -59],
   [-14, 114, -424, 1154, -2630, 5441, -11203, 29397, 122397, -18729, 8334, -4100, 1924, -795, 264, -58],
   [-14, 112, -415, 1130, -2577, 5334, -10979, 28745, 122727, -18480, 8215, -4042, 1897, -785, 261, -57],
   [-14, 109, -406, 1107, -2525, 5226, -10754, 28095, 123051, -18226, 8094, -3982, 1870, -774, 258, -57]]

/-- Phases 208 to 223. -/
def resampleRom13 : List (List Int) :=
  [[-13, 106, -397, 1083, -2472, 5118, -10530, 27448, 123369, -17967, 7971, -3921, 1842, -763, 254, -56],
   [-13, 104, -388, 1059, -2419, 5010, -10304, 26803, 123681, -17704, 7846, -3860, 1814, -752, 251, -56],
   [-12, 101, -379, 1035, -2366, 4901, -10079, 26162, 123986, -17436, 7719, -3797, 1785, -740, 247, -55],
   [-12, 99, -370, 1012, -2313, 4793, -9853, 25520, 124286, -17163, 7590, -3734, 1756, -729, 244, -54],
   [-12, 96, -361, 988, -2260, 4684, -9627, 24885, 124580, -16885, 7459, -3670, 1726, -717, 240, -54],
   [-11, 94, -352, 964, -2207, 4575, -9401, 24248, 124867, -16602, 7327, -3604, 1696, -705, 236, -53],
   [-11, 91, -343, 941, -2154, 4466, -9175, 23616, 125148, -16314, 7192, -3538, 1665, -692, 232, -52],
   [-10, 88, -334, 917, -2101, 4357, -8949, 22987, 125423, -16022, 7056, -3471, 1634, -680, 228, -51],
   [-10, 86, -325, 893, -2048, 4248, -8723, 22360, 125692, -15725, 6918, -3403, 1603, -667, 224, -51],
   [-10, 83, -316, 870, -1995, 4138, -8497, 21738, 125954, -15423, 6777, -3334, 1571, -654, 220, -50],
   [-9, 81, -307, 846, -1942, 4029, -8270, 21115, 126210, -15116, 6635, -3264, 1538, -641, 216, -49],
   [-9, 79, -299, 822, -1888, 3920, -8044, 20496, 126460, -14805, 6492, -3193, 1505, -628, 212, -48],
   [-9, 76, -290, 799, -1835, 3810, -7818, 19882, 126703, -14489, 6346, -3121, 1472, -614, 207, -47],
   [-8, 74, -281, 775, -1782, 3701, -7592, 19268, 126940, -14167, 6198, -3048, 1438, -601, 203, -46],
   [-8, 71, -272, 752, -1729, 3592, -7366, 18658, 127171, -13842, 6049, -2975, 1404, -587, 199, -45],
   [-8, 69, -263, 728, -1676, 3482, -7140, 18052, 127395, -13511, 5898, -2900, 1369, -573, 194, -44]]

/-- Phases 224 to 239. -/
def resampleRom14 : List (List Int) :=
  [[-7, 66, -255, 705, -1623, 3373, -6915, 17450, 127612, -13176, 5745, -2825, 1334, -558, 189, -43],
   [-7, 64, -246, 682, -1570, 3264, -6690, 16846, 127824, -12835, 5590, -2748, 1299, -544, 185, -42],
   [-7, 62, -237, 658, -1517, 3155, -6465, 16251, 128028, -12491, 5433, -2671, 1263, -529, 180, -41],
   [-6, 59, -229, 635, -1464, 3046, -6240, 15657, 128226, -12141, 5275, -2593, 1226, -514, 175, -40],
   [-6, 57, -220, 612, -1412, 2937, -6016, 15068, 128418, -11787, 5115, -2515, 1189, -499, 170, -39],
   [-6, 55, -212, 589, -1359, 2828, -5792, 14479, 128603, -11427, 4953, -2435, 1152, -483, 165, -38],
   [-6, 52, -203, 566, -1307, 2720, -5568, 13895, 128782, -11064, 4790, -2354, 1114, -468, 160, -37],
   [-5, 50, -195, 543, -1254, 2611, -5345, 13314, 128954, -10695, 4625, -2273, 1076, -452, 154, -36],
   [-5, 48, -186, 520, -1202, 2503, -5123, 12738, 129119, -10322, 4458, -2191, 1037, -436, 149, -35],
   [-5, 46, -178, 497, -1150, 2395, -4901, 12163, 129278, -9944, 4290, -2108, 999, -420, 144, -34],
   [-5, 43, -170, 474, -1098, 2287, -4679, 11595, 129430, -9562, 4120, -2024, 959, -404, 138, -32],
   [-4, 41, -161, 451, -1046, 2179, -4458, 11028, 129575, -9175, 3948, -1940, 919, -387, 133, -31],
   [-4, 39, -153, 429, -994, 2072, -4238, 10465, 129714, -8783, 3774, -1854, 879, -371, 127, -30],
   [-4, 37, -145, 406, -942, 1965, -4018, 9903, 129846, -8386, 3600, -1768, 839, -354, 122, -29],
   [-4, 35, -137, 384, -891, 1858, -3799, 9349, 129971, -7985, 3423, -1682, 798, -337, 116, -27],
   [-3, 33, -129, 362, -839, 1752, -3581, 8795, 130090, -7580, 3245, -1594, 756, -319, 110, -26]]

/-- Phases 240 to 255. -/
def resampleRom15 : List (List Int) :=
  [[-3, 31, -121, 339, -788, 1645, -3363, 8249, 130202, -7170, 3065, -1506, 715, -302, 104, -25],
   [-3, 29, -113, 317, -737, 1539, -3146, 7703, 130307, -6755, 2884, -1417, 673, -284, 98, -23],
   [-3, 26, -105, 295, -687, 1434, -2930, 7165, 130405, -6336, 2702, -1327, 630, -267, 92, -22],
   [-2, 24, -97, 273, -636, 1329, -2715, 6626, 130497, -5912, 2518, -1236, 587, -249, 86, -21],
   [-2, 22, -89, 252, -586, 1224, -2500, 6091, 130582, -5483, 2332, -1145, 544, -231, 80, -19],
   [-2, 20, -81, 230, -536, 1119, -2286, 5562, 130660, -5051, 2145, -1053, 501, -212, 74, -18],
   [-2, 18, -74, 208, -486, 1015, -2073, 5037, 130732, -4613, 1957, -961, 457, -194, 67, -16],
   [-2, 17, -66, 187, -436, 912, -1862, 4514, 130796, -4172, 1767, -867, 413, -175, 61, -15],
   [-1, 15, -59, 166, -387, 809, -1651, 3996, 130854, -3726, 1576, -773, 368, -156, 54, -13],
   [-1, 13, -51, 144, -337, 706, -1441, 3483, 130905, -3275, 1383, -679, 323, -137, 48, -12],
   [-1, 11, -44, 123, -288, 603, -1232, 2974, 130949, -2820, 1190, -584, 278, -118, 41, -10],
   [-1, 9, -36, 103, -240, 502, -1024, 2468, 130987, -2361, 994, -488, 232, -99, 34, -8],
   [-1, 7, -29, 82, -191, 400, -817, 1966, 131017, -1897, 798, -392, 187, -79, 28, -7],
   [0, 5, -21, 61, -143, 299, -611, 1469, 131041, -1429, 600, -295, 140, -60, 21, -5],
   [0, 4, -14, 41, -95, 199, -406, 973, 131058, -957, 401, -197, 94, -40, 14, -3],
   [0, 2, -7, 20, -47, 99, -203, 486, 131069, -481, 201, -99, 47, -20, 7, -2]]

/-- All phases. -/
def resampleRom : List (List Int) :=
  resampleRom0 ++ resampleRom1 ++ resampleRom2 ++ resampleRom3 ++ resampleRom4 ++ resampleRom5 ++ resampleRom6 ++ resampleRom7 ++ resampleRom8 ++ resampleRom9 ++ resampleRom10 ++ resampleRom11 ++ resampleRom12 ++ resampleRom13 ++ resampleRom14 ++ resampleRom15

/-- Coefficient c[phi][i] with `tap` = i + 7 (R211). -/
def resampleCoef (phi tap : Nat) : Int := (resampleRom.getD phi []).getD tap 0

end Sys2Proof.Machine
end

