-- ==== Sys2Proof/Machine/Fdc.lean ====
section
/-! DEFINITION. The decimation chain (R208 to R216). -/

namespace Sys2Proof.Machine

/-- The record of FDC channel `c`. -/
def fdcRec (s : State) (c : Nat) : Option ImgRec := recWhere s 0x0A01 0 0 4 c

def fdcOf (s : State) (c : Nat) : FdcCh := Tab.lookD s.fdc.chans c {}

def setFdc (c : Nat) (x : FdcCh) (s : State) : State := { s with fdc := { s.fdc with chans := Tab.put s.fdc.chans c x } }

/-- The half-band coefficient of tap `j`, 0 to 46 (R210). -/
def halfBand (j : Nat) : Int :=
  let d := if j ≤ 23 then 23 - j else j - 23
  if d = 0 then 131072
  else if d % 2 = 0 then 0
  else [83216, -26880, 14812, -9156, 5874, -3790, 2407, -1480, 867, -473, 232, -93].getD (d / 2) 0

/-- One output of a half-band stage from its inputs, newest first, in 1/256. -/
def halfBandOut (h : List Int) : Int :=
  rdiv (sumI ((List.range 47).map fun j => halfBand j * h.getD j 0)) 262144

/-- Pass an input through the stages from stage number `j` on: `i` is its index at this stage. The answer is the new
histories and, when one appears, the decimated value. -/
def decimate (i : Nat) (x : Int) (hs : List (List Int)) : List (List Int) × Option Int :=
  match hs with
  | [] => ([], some x)
  | h :: r =>
    let h' := (x :: h).take 47
    if i % 2 = 0 then
      let p := decimate (i / 2) (halfBandOut h') r
      (h' :: p.1, p.2)
    else (h' :: r, none)

/-- q of output `k` (R211). -/
def fdcQ (r : ImgRec) (k : Nat) : Int :=
  let ratio := if leAt r.body 8 4 = 0 then 2 ^ 32 else leAt r.body 8 4
  ((k * ratio / 2 ^ 24 : Nat) : Int) - rf r 0 24 8

/-- The output of one position at phase `phi` whose newest value needed stands at place `back` of the history (R211). -/
def resampleOut (u : List Int) (back phi shift : Nat) : Int :=
  let y := sumI ((List.range 16).map fun t => resampleCoef phi t * u.getD (back + (15 - t)) 0)
  rdiv (rdiv y (2 ^ 17) * 2 ^ shift) 256

/-- 256 times the position of output `k` in the input series (R212) (DEDUCED, log entry 53). -/
def fdcX (r : ImgRec) (k : Nat) : Int :=
  let d : Int := rf r 0 8 8
  d * (fdcQ r k - 2048) - 256 * 23 * (d - 1)

/-- Output `k` is settling counted from input `from_` (R212, R216). -/
def fdcSettling (r : ImgRec) (k from_ : Nat) : Bool :=
  let d : Int := rf r 0 8 8
  decide (fdcX r k - 256 * from_ < 256 * (23 * (d - 1) + 8 * d))

/-- Make the outputs whose newest input `u[m]` has arrived; `m` is the index of the newest decimated value, one row per
output (R211, R212). -/
def fdcOutputs (fuel : Nat) (r : ImgRec) (m : Nat) (c : FdcCh) : FdcCh × Nat :=
  match fuel with
  | 0 => (c, 0)
  | f + 1 =>
    let q := fdcQ r c.k
    let n := q / 256
    if n ≤ (m : Int) then
      let raw := c.pos.map fun p =>
        if n < 0 then 0 else resampleOut p.u (m - n.toNat) (q % 256).toNat (rf r 0 16 4)
      let sat := (raw.filter fun v => decide (v < -32768) || decide (32767 < v)).length
      let st := fdcSettling r c.k 0
      let rs := c.restartAt.any fun x => fdcSettling r c.k x
      let c' : FdcCh := { c with k := c.k + 1, settling := st || rs,
                                 kFirst := if c.rows.isEmpty then c.k else c.kFirst,
                                 rows := c.rows ++ [⟨raw.map (satS 16), st || rs, rs⟩] }
      let p := fdcOutputs f r m c'
      (p.1, p.2 + sat)
    else (c, 0)

/-- Fresh histories of a channel. -/
def freshPos (r : ImgRec) : List PosHist :=
  let n := if rf r 0 4 1 = 0 then rf r 4 16 16 else 1
  List.replicate n { stages := List.replicate (Nat.log2 (rf r 0 8 8)) [], u := [] }

/-- A channel takes an input sample (R210, R216). -/
def fdcTake (r : ImgRec) (vals : List Int) (rangeStep : Bool) (c : FdcCh) : FdcCh × Nat :=
  let d := rf r 0 8 8
  let pos := if rangeStep || c.pos.isEmpty then freshPos r else c.pos
  let c : FdcCh := { c with restartAt := if rangeStep then some c.n else c.restartAt }
  let step (p : PosHist × Nat) : PosHist :=
    let a := decimate c.n (256 * vals.getD p.2 0) p.1.stages
    match a.2 with
    | some y => { stages := a.1, u := (y :: p.1.u).take 32 }
    | none => { p.1 with stages := a.1 }
  let c : FdcCh := { c with pos := (pos.zip (List.range pos.length)).map step, n := c.n + 1 }
  if d ≠ 0 && decide ((c.n - 1) % d = 0) then fdcOutputs 8 r ((c.n - 1) / d) c else (c, 0)

/-- An input waits for a channel: a value per position, and the range-step mark of an aux result (R209). -/
def fdcQueue (c : Nat) (vals : List Int) (step : Bool) (s : State) : State :=
  setFdc c { fdcOf s c with inq := (fdcOf s c).inq ++ [(vals, step)] } s

/-- A slot item of FIB stream 0 is an input of every DAS channel: the values of its positions (R209). `g` is the item's first
position. -/
def fdcFeedDas (g : Nat) (vals : List Int) (s : State) : State :=
  (List.range 16).foldl (fun s c =>
    match fdcRec s c with
    | none => s
    | some r =>
      if rf r 0 4 1 = 0 then
        fdcQueue c ((List.range (rf r 4 16 16)).map fun i => vals.getD (rf r 4 0 16 + i - g) 0) false s
      else s) s

/-- A result word of ASF channel `n` is an input of the aux channels that name it: bits [23:8] (R209, R293). -/
def fdcFeedAux (n w : Nat) (s : State) : State :=
  (List.range 16).foldl (fun s c =>
    match fdcRec s c with
    | none => s
    | some r =>
      if rf r 0 4 1 = 1 && decide (rf r 0 5 3 = n) then fdcQueue c [sval 16 (bits w 8 16)] (bitB w 24) s
      else s) s

/-- FDC_INPUT (R209 to R212, R216): a channel takes its next input. -/
def onFdcInput (chan : Fin 16) (s : State) : State :=
  match fdcRec s chan, (fdcOf s chan).inq with
  | none, _ => s
  | some _, [] => s
  | some r, (vals, rangeStep) :: rest =>
    let step := rangeStep && decide (rf r 0 4 1 = 1)
    let p := fdcTake r vals step { fdcOf s chan with inq := rest }
    let s := setFdc chan p.1 s
    let s := if p.2 = 0 then s else
      let s := stick Reg.FDC_STICKY 0 (bumpSat Reg.FDC_SAT 0 32 p.2 s)
      if s.fdc.sat then s else raise 176 { s with fdc := { s.fdc with sat := true } }
    if step then stick Reg.FDC_STICKY 1 (raise 177 (bump Reg.FDC_RESTARTS 1 s)) else s

/-- Values of `w` bits packed into 64-bit words, the first in the low bits. -/
def packWords64 (w per : Nat) (fuel : Nat) (l : List Nat) : List Nat :=
  match fuel with
  | 0 => []
  | f + 1 =>
    if l.isEmpty then []
    else sumN ((List.range per).map fun i => l.getD i 0 % 2 ^ w * 2 ^ (w * i)) :: packWords64 w per f (l.drop per)

/-- The rows of an item (R214): DAS rows padded to 64 bits each, aux rows padded together. -/
def fdcRows (das : Bool) (rows : List FdcRow) : List Nat :=
  if das then rows.flatMap fun r => packWords64 16 4 r.vals.length (r.vals.map (uval 16))
  else packWords64 32 2 rows.length (rows.map fun r =>
    uval 16 (r.vals.headD 0) + 2 ^ 16 * b2n r.settling + 2 ^ 17 * b2n r.restarted)

/-- The item of a channel (R214). With no output its k_first is any value (DESIGN CHOICE, log entry 49). -/
def fdcItem (c : Nat) (r : ImgRec) (s : State) : State :=
  let x := fdcOf s c
  let das := decide (rf r 0 4 1 = 0)
  let kf := if x.rows.isEmpty then freeVal s else x.kFirst
  let w0 := x.rows.length % 65536 + 2 ^ 16 * c + 2 ^ 20 * rf r 0 4 1 + 2 ^ 21 * b2n (x.rows.any (·.settling))
    + 2 ^ 22 * b2n (x.rows.any (·.restarted)) + 2 ^ 32 * (kf % 2 ^ 32)
  let w1 := if das then rf r 4 0 16 + 2 ^ 16 * rf r 4 16 16 else 0
  let s := if x.rows.isEmpty then useFree s else s
  emit Src.fdc c s.fdc.ctx (w0 :: w1 :: fdcRows das x.rows) (setFdc c { x with rows := [] } s)

/-- FDC_SWEEP_ITEM (R214): after a sweep's or frame's last input every active channel emits its item. -/
def onFdcSweepItem (s : State) : State :=
  let s := (List.range 16).foldl (fun s c =>
    match fdcRec s c with
    | some r => fdcItem c r s
    | none => s) s
  { s with fdc := { s.fdc with sat := false } }

/-- A PLAN or SWAP item resets every channel (R215). -/
def fdcReset (s : State) : State := { s with fdc := { s.fdc with chans := [] } }

/-- The register views of R240. -/
def fdcView (s : State) (off : Nat) : Option Nat :=
  let c := rdf s Fld.FDC_CH_SEL_chan
  let word (o : Nat) : Nat := (fdcRec s c).elim 0 fun r => leAt r.body o 4
  if off = Reg.FDC_STATUS then
    some ((List.range 16).foldl (fun a c => a + (if (fdcRec s c).isSome then 2 ^ c else 0)
      + (if (fdcOf s c).settling then 2 ^ (16 + c) else 0)) 0)
  else if off = Reg.FDC_CH_CFG then some (word 0)
  else if off = Reg.FDC_CH_POS then some (word 4)
  else if off = Reg.FDC_CH_RATIO then some (word 8)
  else if off = Reg.FDC_CH_INDEX then some ((fdcOf s c).k % 2 ^ 32)
  else if off = Reg.FDC_COEF_DATA then
    some (uval 19 (resampleCoef (rdf s Fld.FDC_COEF_SEL_phase) (rdf s Fld.FDC_COEF_SEL_tap)))
  else none

/-! ### Meanings -/

/-- The meaning of this command: the step of `onFdcInput` (R210); the input is the first that the state holds for
the channel (DESIGN CHOICE, log entry 6). -/
def execFdcInput (chan : Fin 16) (_vals : List Int) (_rangeStep : Bool) (s : State) : Host.Outcome State Fault Refusal :=
  .next (onFdcInput chan s)

/-- The meaning of this command: the step of `onFdcSweepItem` (R214). -/
def execFdcSweepItem (s : State) : Host.Outcome State Fault Refusal :=
  .next (onFdcSweepItem s)

end Sys2Proof.Machine
end

