-- ==== Sys2Proof/Machine/Loops.lean ====
section
/-! DEFINITION. The control loop engine (R274 to R284) and the aux sensor front end (R285 to R294). -/

namespace Sys2Proof.Machine

/-! ### Loops -/

def loopOf (s : State) (n : Nat) : LoopSt := Tab.lookD s.cle.loops n {}

def setLoop (n : Nat) (x : LoopSt) (s : State) : State := { s with cle := { s.cle with loops := Tab.put s.cle.loops n x } }

/-- A loop is enabled from commit on when its period is not 0 (R274, R451). -/
def loopEnabled (s : State) (n : Nat) : Bool := decide (6 ≤ s.boot.step) && decide (s.boot.step ≠ 15) && decide (rdf s (Fld.CLE_CFG_per n) ≠ 0)

/-- The loop drives: the drive state of an enabled loop, else 0 (R274). -/
def loopDrive (s : State) (n : Nat) : Bool := loopEnabled s n && (loopOf s n).drv

/-- LOOP6 is the oven loop (R41, R274). -/
def ovenLoop (s : State) : Bool := decide (rdf s Fld.TBS_WARM_CFG_oven_mode = 1)

/-- The level of output LDRV`n` (R274): LDRV6 is held at 0 while LOOP6 is the oven loop. -/
def ldrvLevel (s : State) (n : Nat) : Bool := loopDrive s n && !(decide (n = 6) && ovenLoop s)

/-- The level of output OCXO_HTR (R41, R274). -/
def heaterLevel (s : State) : Bool := ovenLoop s && loopDrive s 6

/-- The rail that the ESQ measures (R105, R281): in start-up step 10 the first rail not done; in a bank's graft its rail,
when no other bank of the rail is able. -/
def railMeasuring (s : State) : Option Nat :=
  if s.boot.step = 10 && !s.esq.railsDone then (List.range 4).find? fun r => !(Tab.lookD s.esq.rails r {}).done
  else match s.fcl.graft with
    | some g =>
      let b := g.unit - 0x30
      if decide (0x30 ≤ g.unit) && decide (g.unit < 0x40) && !g.passed
          && (List.range 4).all (fun i => decide (4 * (b / 4) + i = b) || !s.esq.col.able.getLsbD (4 * (b / 4) + i))
      then some (b / 4) else none
    | none => none

/-- The target of a loop at a sample (R283, R284). -/
def loopTarget (s : State) (n : Nat) (x : LoopSt) (lsp : Nat) : Int :=
  match rdf s (Fld.CLE_CFG_sp_src n) with
  | 0 => x.target
  | 1 => sval 16 (rdf s (Fld.CLE_SPC_sp_const n))
  | 2 => 8 * lsp
  | _ => if x.lost then sval 16 (rdf s (Fld.CLE_SPC_sp_fail n)) else x.pulse

/-- The set-point step of R283. -/
def slewStep (slew : Nat) (target : Int) (x : LoopSt) : LoopSt :=
  let lim := if x.started then x.rLim else 256 * target
  let d := 256 * target - lim
  if decide (slew ≠ 0) && decide ((slew : Int) < d.natAbs) then
    { x with started := true, rLim := if 0 < d then lim + slew else lim - slew, limiting := true }
  else { x with started := true, rLim := 256 * target, limiting := false }

/-- The accumulator step of R279: the new value, whether it was clamped by i_clamp, whether it left 40 bits. -/
def accStep (ki clampV : Nat) (sat : Bool) (acc e : Int) : Int × Bool × Bool :=
  if ki = 0 then (0, false, false)
  else
    let a := acc + 2 * ki * e
    if clampV ≠ 0 then
      let l : Int := clampV * 65536
      (clampI (-l) l a, decide (a < -l) || decide (l < a), false)
    else
      let out := decide (a < -(2 ^ 39)) || decide (2 ^ 39 - 1 < a)
      (if out then (if sat then satS 40 a else sval 40 (uval 40 a)) else a, false, out)

/-- The drive decision of R278. -/
def driveOf (sense drv : Bool) (y lo hi : Int) (absMax : Int) : Bool :=
  let d := if sense then (if hi < y then true else if y < lo then false else drv)
    else (if y < lo then true else if hi < y then false else drv)
  d && !(decide (absMax ≠ 0) && decide (absMax ≤ y))

/-- The law at one sample (R278 to R280): the loop after it, and whether the accumulator left 40 bits
(DESIGN CHOICE, log entry 13). -/
def loopLaw (s : State) (n : Nat) (x : LoopSt) (y : Int) (ok : Bool) : LoopSt × Bool :=
  let r := x.rLim / 256
  let e := satS 16 (r - y)
  let a := if ok then accStep (rdf s (Fld.CLE_INT_ki n)) (rdf s (Fld.CLE_INT_i_clamp n)) (rdf s (Fld.CLE_CFG_sat_mode n) = 1) x.acc e
    else (x.acc, x.clamped, false)
  let corr := satS 16 (a.1 / 65536)
  let c := r + corr
  let band : Int := rdf s (Fld.CLE_BAND_band n)
  let absMax := sval 16 (rdf s (Fld.CLE_BAND_abs_max n))
  let drv := ok && driveOf (rdf s (Fld.CLE_CFG_sense n) = 1) x.drv y (c - band) (c + band) absMax
  ({ x with acc := a.1, clamped := a.2.1, corr := corr, r := r, y := y, drv := drv, below := decide (y < c - band),
            absHit := decide (absMax ≠ 0) && decide (absMax ≤ y) }, a.2.2)

/-- A sample while the loop's rail is measured (R105, R281): the law is suspended, the drive held at 1 and the accumulator at 0; the
set-point stands at its target, the comparator goes on against the band around it, and the sample after the measurement starts
from the target then in force (DEDUCED, log entry 59). -/
def measuredLoop (s : State) (n : Nat) (x : LoopSt) (target y : Int) : LoopSt :=
  { x with acc := 0, corr := 0, clamped := false, limiting := false, started := false, rLim := 256 * target, r := target,
           y := y, drv := true, below := decide (y < target - (rdf s (Fld.CLE_BAND_band n) : Int)) }

/-- LOOP_SAMPLE (R276 to R283): one sample of an enabled loop; while its rail is measured the law is suspended (R281). -/
def onLoopSample (loop : Fin 8) (lfb lsp : BitVec 12) (t : Tick) (s : State) : State :=
  let s := advance t s
  if !loopEnabled s loop then s
  else
    let x := loopOf s loop
    let aux := decide (rdf s (Fld.CLE_CFG_fb_src loop) = 1)
    let y : Int := if aux then x.fbVal else 8 * lfb.toNat
    let ok := !aux || decide (2 ≤ x.fbGood)
    let target := loopTarget s loop x lsp.toNat
    let p := if railMeasuring s = some loop.val then (measuredLoop s loop x target y, false)
      else loopLaw s loop (slewStep (rdf s (Fld.CLE_SLEW_slew loop)) target x) y ok
    let w : LoopSt := { p.1 with drv := p.1.drv && !s.hkp.hardCut }
    let w : LoopSt := { w with invalid := !ok, n := w.n + 1, on := w.on + b2n w.drv, sumY := w.sumY + y,
                               hkN := w.hkN + 1, hkOn := w.hkOn + b2n w.drv }
    let s := setLoop loop w s
    let s := if w.limiting && !x.limiting then raise 224 s else s
    let s := if w.clamped && !x.clamped then raise 225 s else s
    let s := if p.2 then stick Reg.CLE_STICKY loop.val (fault 226 Src.cle 0 .corrected loop s) else s
    let s := if w.absHit && !x.absHit then stick Reg.CLE_STICKY (16 + loop.val) (fault 228 Src.cle 0 .corrected loop s) else s
    if w.invalid && !x.invalid then fault 229 Src.cle 0 .corrected loop s else s

/-- LSP_EDGE (R283, R284): a rising edge at grid count `g`; `high` is the high time of the period it completes. After a
loss the pulse target returns with the second full period (DESIGN CHOICE, log entry 13). -/
def onLspEdge (loop : Fin 8) (g high : Nat) (s : State) : State :=
  let x := loopOf s loop
  match x.edge with
  | none => setLoop loop { x with edge := some g, periods := 0 } s
  | some e =>
    let p := g - e
    let q : Rat := if p = 0 then 0 else (32768 * high : Rat) / p
    let v := min 32767 (quantOf s q)
    let n := x.periods + 1
    let back := !x.lost || decide (2 ≤ n)
    quantUsed q (setLoop loop { x with edge := some g, periods := n, pulse := if back then v else x.pulse,
                                       lost := x.lost && !back } s)

/-- CLE_SP_LOST (R284): no rising edge for sp_timeout. -/
def onCleSpLost (loop : Fin 8) (t : Tick) (s : State) : State :=
  let s := advance t s
  let x := loopOf s loop
  if loopEnabled s loop && decide (rdf s (Fld.CLE_CFG_sp_src loop) = 3) && decide (rdf s (Fld.CLE_SPTO_sp_timeout loop) ≠ 0)
      && !x.lost then
    stick Reg.CLE_STICKY (8 + loop.val)
      (fault 227 Src.cle 0 .corrected loop (setLoop loop { x with lost := true, edge := none, periods := 0 } s))
  else s

/-- The duty of `on` samples of `n` in 0.01 %; the rounding, and the duty of no sample, are open
(DESIGN CHOICE, log entries 13 and 49). -/
def dutyOf (s : State) (on n : Nat) : Nat :=
  if n = 0 then freeVal s % 10001 else (quantOf s ((10000 * on : Rat) / n)).toNat

def dutyUsed (on n : Nat) (s : State) : State := if n = 0 then useFree s else quantUsed ((10000 * on : Rat) / n) s

/-- The word of a loop in the CLE item (R282); the mean of no sample is open (DESIGN CHOICE, log entry 49). -/
def loopWord (s : State) (n : Nat) : Nat :=
  let x := loopOf s n
  if !loopEnabled s n then 0
  else
    let mean : Int := if x.n = 0 then sval 16 (freeVal s) else Int.tdiv x.sumY x.n
    dutyOf s x.on x.n + 2 ^ 14 * b2n x.limiting + 2 ^ 15 * b2n (bitB (rd s Reg.CLE_STICKY).toNat n) + 2 ^ 16 * uval 16 mean
      + 2 ^ 32 * uval 16 x.r + 2 ^ 48 * uval 16 x.corr

/-- The CLE item at a sweep or frame boundary (R282) in the context of the interval just ended. -/
def cleItem (c : TagCtx) (s : State) : State :=
  let p := (List.range 8).foldl (fun (a : List Nat × State) n =>
    let x := loopOf a.2 n
    let w := loopWord a.2 n
    let s := setLoop n { x with n := 0, on := 0, sumY := 0 } a.2
    (a.1 ++ [w], if loopEnabled a.2 n then dutyUsed x.on x.n s else s)) ([], s)
  emit Src.cle 0 c p.1 p.2

/-- The loops take the plan fields of a scan plan (R104, R274). -/
def cleTakePlan (r : ImgRec) (s : State) : State :=
  [(0, 0x1C, 0), (1, 0x1C, 16), (2, 0x20, 0), (3, 0x20, 16), (4, 0x18, 0), (5, 0x18, 16)].foldl (fun s p =>
    setLoop p.1 { loopOf s p.1 with target := sval 16 (rf r p.2.1 p.2.2 16) } s) s

/-- A housekeeping round ends: the loops' duties over the round (R278). The drive of a disabled loop was never on (R297). -/
def cleRound (s : State) : State :=
  (List.range 8).foldl (fun s n =>
    let x := loopOf s n
    if loopEnabled s n then
      dutyUsed x.hkOn x.hkN
        (setLoop n { x with hkDuty := (x.hkOn, x.hkN), hkReg := dutyOf s x.hkOn x.hkN, hkN := 0, hkOn := 0 } s)
    else setLoop n { x with hkDuty := (0, 0), hkReg := 0, hkN := 0, hkOn := 0 } s) s

/-- An aux result reaches the loops that use its channel (R277, R280, R294). -/
def cleFeedback (chan : Nat) (value : Int) (bad step : Bool) (s : State) : State :=
  (List.range 8).foldl (fun s n =>
    if loopEnabled s n && decide (rdf s (Fld.CLE_CFG_fb_src n) = 1) && decide (rdf s (Fld.CLE_CFG_fb_aux n) = chan) then
      let x := loopOf s n
      if bad then setLoop n { x with fbGood := 0 } s
      else if step then s
      else setLoop n { x with fbGood := min (x.fbGood + 1) 2, fbVal := value / 256 } s
    else s) s

/-! ### Aux channels -/

def asfOf (s : State) (n : Nat) : AsfCh := Tab.lookD s.asf.chans n {}

def setAsf (n : Nat) (x : AsfCh) (s : State) : State := { s with asf := { s.asf with chans := Tab.put s.asf.chans n x } }

/-- The converter runs its schedule (R286, R298). -/
def asfRuns (s : State) : Bool :=
  decide (6 ≤ s.boot.step) && decide (s.boot.step ≠ 15) && decide (rdf s Fld.ASF_SCHED_n_slot ≠ 0)

/-- A channel converts when the converter runs and the channel has a mode (R285, R298). -/
def asfOn (s : State) (n : Nat) : Bool := asfRuns s && decide (rdf s (Fld.ASF_CFG_mode n) ≠ 0)

/-- Resistance over nominal resistance at `t` °C by the IEC 60751 equation (R288). -/
def rtdRatio (t : Rat) : Rat :=
  1 + 39083 / 10000000 * t - 5775 / 10000000000 * t * t
    - (if t < 0 then 4183 / 1000000000000000 * (t - 100) * t * t * t else 0)

/-- The largest value `n` in 1/8,192 °C whose resistance does not exceed `q` times the nominal one, found bit by bit
(DEDUCED, log entry 50). -/
def rtdSearch (k : Nat) (n : Int) (q : Rat) : Int :=
  match k with
  | 0 => n
  | k + 1 => if rtdRatio ((n + 2 ^ k : Int) / 8192) ≤ q then rtdSearch k (n + 2 ^ k) q else rtdSearch k n q

/-- The temperature of R288 with lin = 1 in the LSB of 1/8,192 °C, within the 0.001 K (8 LSB) of its iteration, sought over twice
the range of the format, which saturates it (DEDUCED, log entry 50). -/
def rtdTemp (s : State) (q : Rat) : Int := rtdSearch 25 (-(2 ^ 24)) q + (freeVal s % 17 : Nat) - 8

/-- The temperature of R288 with lin = 2 in °C. -/
def thermistor (rOhm rNom : Rat) (beta : Nat) : Rat :=
  let inv : Rat := 1 / (29815 / 100) + lnQ (rOhm / rNom) / beta
  if inv = 0 then 0 else 1 / inv - 27315 / 100

/-- A result value before the Q1.23 format (R287): the ratios of its conversions, `d2` that of a second phase. -/
def asfValue (s : State) (n : Nat) (d1 d2 : Rat) : Rat :=
  let g : Rat := 2 ^ rdf s (Fld.ASF_CFG_g n)
  let ref : Rat := (rdf s Fld.ASF_REF_RES_ref_res : Rat) / 1000
  let lead : Rat := (rdf s (Fld.ASF_LIN2_lead_corr n) : Rat) / 1000
  match rdf s (Fld.ASF_CFG_mode n) with
  | 1 => ref * d1 - lead
  | 2 => ref * (d1 + d2)
  | 3 => ref * (d1 + d2) / 2
  | 4 => g * d1
  | 5 => g * d1
  | _ => d1

/-- The result in Q1.23 before saturation (R287, R288), and whether it used a free value
(DESIGN CHOICE, log entries 13 and 49). -/
def asfCode (s : State) (n : Nat) (d1 d2 : Rat) : Int × Bool :=
  let v := asfValue s n d1 d2
  let m := rdf s (Fld.ASF_CFG_mode n)
  let ref : Rat := (rdf s Fld.ASF_REF_RES_ref_res : Rat) / 1000
  let rn : Rat := (rdf s (Fld.ASF_LIN_r_nom n) : Rat) / 100
  if decide (m ≤ 3) && decide (rdf s (Fld.ASF_CFG_lin n) = 1) then (rtdTemp s (v / rn), true)
  else if decide (m ≤ 3) && decide (rdf s (Fld.ASF_CFG_lin n) = 2) then
    if v ≤ 0 then (sval 24 (freeVal s), true)
    else (quantOf s (8192 * thermistor v rn (rdf s (Fld.ASF_LIN2_beta n))), true)
  else
    let x := (if m ≤ 3 then v / ref else v) * 8388608
    (quantOf s x, decide (x.den ≠ 1))

/-- Close a channel's packed results: the item is the aux input of the FDC (R293). -/
def asfClose (n : Nat) (c : TagCtx) (s : State) : State :=
  let x := asfOf s n
  if x.pack.isEmpty then s
  else
    let l := x.pack ++ (if x.pack.length % 2 = 1 then [0] else [])
    let ws := (List.range (l.length / 2)).map fun i => l.getD (2 * i) 0 + 2 ^ 32 * l.getD (2 * i + 1) 0
    x.pack.foldl (fun s w => fdcFeedAux n w s) (emit Src.asf n c ws (setAsf n { x with pack := [] } s))

/-- The items that close at a sweep or frame boundary. -/
def asfCloseAll (c : TagCtx) (s : State) : State := (List.range 8).foldl (fun s n => asfClose n c s) s

/-- The ASF and CLE items of a sweep boundary, or of a frame boundary in a personality without fibre, for the interval just ended
(R282, R293): the first boundary ends the interval since commit (DEDUCED, log entry 59). -/
def auxItems (c : TagCtx) (s : State) : State := cleItem c (asfCloseAll c s)

/-- The open-wire run of R291 after a conversion that was or was not suspect. -/
def openStep (n : Nat) (susp : Bool) (s : State) : State :=
  let x := asfOf s n
  let sr := if susp then x.suspRun + 1 else 0
  let ok := if susp then 0 else x.okRun + 1
  let opens := decide (2 ≤ sr) && !x.isOpen
  let closes := decide (2 ≤ ok) && x.isOpen
  let s := setAsf n { x with suspRun := min sr 2, okRun := min ok 2, suspect := susp, isOpen := opens || (x.isOpen && !closes) } s
  let s := if susp then raise 232 (bump (Reg.ASF_SUSP n) 1 s) else s
  let s := if opens then stick Reg.ASF_STICKY n (bump Reg.ASF_OPEN_COUNT 1 (fault 233 Src.asf 0 .corrected n s)) else s
  if closes then raise 234 s else s

/-- Deliver a result word (R293): to the channel's stream, to the loops and to housekeeping. -/
def asfResult (n : Nat) (c : TagCtx) (v : Int) (step susp opn sat : Bool) (s : State) : State :=
  let x := asfOf s n
  let over_ := sat || decide (v < -(2 ^ 23)) || decide (2 ^ 23 - 1 < v)
  let v := satS 24 v
  let w := uval 24 v + 2 ^ 24 * b2n step + 2 ^ 25 * b2n susp + 2 ^ 26 * b2n opn + 2 ^ 27 * b2n over_
    + 2 ^ 28 * (if rdf s (Fld.ASF_CFG_mode n) = 6 then x.range else 0)
  let bad := susp || opn
  let s := setAsf n { x with value := w, pack := x.pack ++ [w], good := if bad || step then x.good else some v, fresh := x.fresh || !(bad || step) } s
  let s := if over_ then stick Reg.ASF_STICKY (16 + n) s else s
  let s := cleFeedback n v bad step s
  if (asfOf s n).pack.length ≥ 256 then asfClose n c s else s

/-- The charge range after a conversion of value `v` (R289, R290): the channel with its next step. The run of low conversions
takes in those of a range step, whose value is 0 (DEDUCED, log entry 59). -/
def chargeStep (s : State) (n : Nat) (x : AsfCh) (v : Rat) (sat : Bool) : AsfCh × Bool :=
  if rdf s (Fld.ASF_CFG_auto_range n) = 0 then (x, false)
  else
    let a := if v < 0 then -v else v
    let hold := rdf s (Fld.ASF_CFG_cr_hold n)
    let low := if a < 8 / 100 then x.lowRun + 1 else 0
    let up := (sat || decide (95 / 100 ≤ a)) && decide (x.range < 3)
    let dn := decide (hold ≠ 0) && decide (hold ≤ low) && decide (0 < x.range)
    if up then ({ x with toRange := x.range + 1, step := 2, lowRun := low }, true)
    else if dn then ({ x with toRange := x.range - 1, step := 2, lowRun := low }, true)
    else ({ x with lowRun := low }, false)

/-- A charge conversion (R289, R290): the first one after enable and the one after a decision run with the reset switch closed; a
decision is taken at every end but the latter's. -/
def chargeConv (n : Nat) (c : TagCtx) (q : Rat) (sat : Bool) (s : State) : State :=
  let x := asfOf s n
  if x.step = 2 then asfResult n c 0 true false x.isOpen false (setAsf n { x with step := 1, lowRun := x.lowRun + 1 } s)
  else
    let first := decide (x.step = 3)
    let second := decide (x.step = 1)
    let x : AsfCh := if second then { x with range := x.toRange, step := 0 } else { x with step := 0 }
    let q := if first then 0 else q
    let sat := sat && !first
    let code := asfCode s n q 0
    let s := if code.2 then useFree s else s
    let d := chargeStep s n x q sat
    let s := asfResult n c code.1 (first || second) false x.isOpen sat (setAsf n x s)
    let y := asfOf s n
    let s := setAsf n { y with toRange := d.1.toRange, step := d.1.step, lowRun := d.1.lowRun } s
    if d.2 then stick Reg.ASF_STICKY (8 + n) (raise 235 s) else s

/-- The channel of schedule entry `e` (R298). -/
def slotChan (s : State) (e : Nat) : Nat := bits (rd s (Reg.ASF_SLOTS (e / 8))).toNat (4 * (e % 8)) 3

/-- ASF_CONVERSION (R286 to R294): the conversion of the schedule's slot in progress ends and the next slot follows. A conversion of
a channel that the slot does not name is none. -/
def onAsfConversion (chan : Fin 8) (ratio : Rat) (saturated : Bool) (railed : BitVec 4) (t : Tick) (s : State) : State :=
  let s := advance t s
  let here := decide (slotChan s s.asf.slot = chan.val)
  let s := if asfRuns s && here then
      { s with asf := { s.asf with slot := (s.asf.slot + 1) % rdf s Fld.ASF_SCHED_n_slot } } else s
  if !asfOn s chan || !here then s
  else
    let n := chan.val
    let c := sweepCtx s
    let x := asfOf s n
    let x : AsfCh := if x.enabled then x else
      { x with enabled := true, step := if rdf s (Fld.ASF_CFG_mode n) = 6 then 3 else 0, range := rdf s (Fld.ASF_CFG_range n) }
    let railed := if rdf s (Fld.ASF_CFG_bo_en n) = 1 then railed else 0
    let susp := decide (railed ≠ 0)
    let two := decide (rdf s (Fld.ASF_CFG_mode n) = 2) || decide (rdf s (Fld.ASF_CFG_mode n) = 3)
    let s := setAsf n { x with rail1 := if x.second then x.rail1 else railed, rail2 := if x.second then railed else x.rail2 } s
    let s := openStep n susp s
    let x := asfOf s n
    if rdf s (Fld.ASF_CFG_mode n) = 6 then chargeConv n c ratio saturated s
    else if two && !x.second then setAsf n { x with second := true, d1 := ratio, sat1 := saturated, susp1 := susp, open1 := x.isOpen } s
    else
      let d1 := if two then x.d1 else ratio
      let code := asfCode s n d1 ratio
      let s := if code.2 then useFree s else s
      asfResult n c code.1 false (susp || (two && x.susp1)) (x.isOpen || (two && x.open1)) (saturated || (two && x.sat1)) (setAsf n { x with second := false } s)

/-- The diagnosis of an open channel from the wires railed in its last phases (R292): a row asks for the wires it names; where two
rows of a 4-wire channel hold, the first counts (DEDUCED, log entry 59). -/
def asfDiag (mode : Nat) (p1 p2 : Nat) : Nat :=
  let both (w : Nat) : Bool := bitB p1 w && bitB p2 w
  let neither (w : Nat) : Bool := !bitB p1 w && !bitB p2 w
  if mode = 2 then
    (if both 0 && both 1 then 3 else if both 0 && neither 1 then 1 else if both 1 && neither 0 then 2 else 7)
  else if mode = 3 then
    (if bitB p1 0 && bitB p2 3 then 5 else if both 1 then 2 else if both 2 then 3 else 7)
  else if p1 = 1 then 1 else if p1 = 2 then 2 else if p1 = 4 then 3 else if p1 = 8 then 4 else 7

/-! ### Register views (R297, R298) -/

/-- One bit per index. -/
def maskOf (n : Nat) (p : Nat → Bool) : Nat := (List.range n).foldl (fun a i => if p i then a + 2 ^ i else a) 0

/-- What a read-only CLE register reads (R297) (DEDUCED, log entry 52). -/
def cleView (s : State) (off : Nat) : Option Nat :=
  if off = Reg.CLE_STATUS then
    some (maskOf 8 (loopEnabled s) + 2 ^ 8 * maskOf 8 (loopDrive s)
      + 2 ^ 16 * maskOf 8 (fun n => (loopOf s n).limiting) + 2 ^ 24 * maskOf 8 (fun n => (loopOf s n).invalid))
  else if off = Reg.CLE_CLAMP then some (maskOf 8 fun n => (loopOf s n).clamped)
  else (List.range 8).findSome? fun n =>
    let x := loopOf s n
    if off = Reg.CLE_VAL n then some (uval 16 x.y + 2 ^ 16 * uval 16 x.r)
    else if off = Reg.CLE_CORR n then
      some (uval 16 x.corr + 2 ^ 16 * x.hkReg)
    else none

/-- What a read-only ASF register reads (R297) (DEDUCED, log entry 52). -/
def asfView (s : State) (off : Nat) : Option Nat :=
  if off = Reg.ASF_STATUS then
    some (maskOf 8 (fun n => (asfOf s n).isOpen) + 2 ^ 8 * maskOf 8 (fun n => (asfOf s n).suspect)
      + 2 ^ 16 * maskOf 8 (fun n => decide ((asfOf s n).step ≠ 0)))
  else (List.range 8).findSome? fun n =>
    let x := asfOf s n
    if off = Reg.ASF_VALUE n then some x.value
    else if off = Reg.ASF_RAIL n then
      some (x.rail1.toNat + 16 * x.rail2.toNat
        + 2 ^ 8 * (if x.isOpen then asfDiag (rdf s (Fld.ASF_CFG_mode n)) x.rail1.toNat x.rail2.toNat else 0))
    else none

/-! ### Meanings -/

/-- The meaning of this command: the step of `onLoopSample` (R278). -/
def execLoopSample (loop : Fin 8) (lfb : BitVec 12) (lsp : BitVec 12) (t : Tick) (s : State) : Host.Outcome State Fault Refusal :=
  .next (onLoopSample loop lfb lsp t s)

/-- The meaning of this command: the step of `onLspEdge` (R283). -/
def execLspEdge (loop : Fin 8) (g : Nat) (high : Nat) (s : State) : Host.Outcome State Fault Refusal :=
  .next (onLspEdge loop g high s)

/-- The meaning of this command: the step of `onCleSpLost` (R284). -/
def execCleSpLost (loop : Fin 8) (t : Tick) (s : State) : Host.Outcome State Fault Refusal :=
  .next (onCleSpLost loop t s)

/-- The meaning of this command: the step of `onAsfConversion` (R286). -/
def execAsfConversion (chan : Fin 8) (ratio : Rat) (saturated : Bool) (railed : BitVec 4) (t : Tick) (s : State) : Host.Outcome State Fault Refusal :=
  .next (onAsfConversion chan ratio saturated railed t s)

end Sys2Proof.Machine
end

