-- ==== Sys2Proof/Machine/Cordic.lean ====
section
/-! DEFINITION. The CORDIC of the fibre interrogator (R186 stages 3 and 4) and IEEE 754 binary64 rounding (R198). -/

namespace Sys2Proof.Machine

/-- The angles atan(2^-i) in 2^-32 of a turn. -/
abbrev atanTab : List Int :=
  [536870912, 316933406, 167458907, 85004756, 42667331, 21354465, 10679838, 5340245, 2670163, 1335087, 667544, 333772,
   166886, 83443, 41722, 20861, 10430, 5215, 2608, 1304, 652, 326, 163, 81]

/-- The vectoring iterations from `i` on: `y` is driven to 0 while the angle gathers in `z` (R186 stage 3). -/
def cordicVec (n i : Nat) (x y z : Int) : Int × Int :=
  match n with
  | 0 => (x, z)
  | n + 1 =>
    let a := atanTab.getD i 0
    if 0 ≤ y then cordicVec n (i + 1) (x + y / 2 ^ i) (y - x / 2 ^ i) (z + a)
    else cordicVec n (i + 1) (x - y / 2 ^ i) (y + x / 2 ^ i) (z - a)

/-- The magnitude times the CORDIC gain in 2^-16 and the angle in 2^-32 of a turn, after 16 iterations. -/
def cordic (x y : Int) : Int × Int :=
  if x < 0 then cordicVec 16 0 (-x * 65536) (-y * 65536) (2 ^ 31) else cordicVec 16 0 (x * 65536) (y * 65536) 0

/-- The phase of a phasor, 65,536 to the turn: the last bit, which the iteration's width decides, is free: `free` picks
0 or one step to either side (R186 stage 3) (DESIGN CHOICE, log entry 10). -/
def phaseOf (x y : Int) (free : Nat) : Nat :=
  if x = 0 && y = 0 then free % 65536
  else uval 16 (((cordic x y).2 + 32768) / 65536 + ((free % 3 : Nat) : Int) - 1)

/-- The amplitude of a phasor in UQ16, its last bit free (R186 stage 3) (DESIGN CHOICE, log entry 10). -/
def ampOf (x y : Int) (free : Nat) : Nat :=
  if x = 0 && y = 0 then 0
  else (clampI 0 65535 ((cordic x y).1 * 2608131496 / 2 ^ 48 + ((free % 3 : Nat) : Int) - 1)).toNat

/-- The rotating iterations: the vector turns by the angle `z`. -/
def cordicRot (n i : Nat) (x y z : Int) : Int × Int :=
  match n with
  | 0 => (x, y)
  | n + 1 =>
    let a := atanTab.getD i 0
    if 0 ≤ z then cordicRot n (i + 1) (x - y / 2 ^ i) (y + x / 2 ^ i) (z - a)
    else cordicRot n (i + 1) (x + y / 2 ^ i) (y - x / 2 ^ i) (z + a)

/-- The unit phasor of a phase, 65,536 to the turn, in 2^-32. -/
def phasorOf (phase : Nat) : Int × Int :=
  let p := phase % 65536
  if p ≤ 16384 then cordicRot 24 0 2608131496 0 ((p : Int) * 65536)
  else if p < 49152 then cordicRot 24 0 (-2608131496) 0 (((p : Int) - 32768) * 65536)
  else cordicRot 24 0 2608131496 0 (((p : Int) - 65536) * 65536)

/-- A rational rounded to IEEE 754 binary64, half to even (R198). No value of R198 comes near the format's range limits. -/
def f64 (q : Rat) : Rat :=
  if q = 0 then 0
  else
    let k : Int := (bitLen q.num.natAbs : Int) - bitLen q.den - 53
    let cut (k : Int) : Rat := if 0 ≤ k then q / 2 ^ k.toNat else q * 2 ^ (-k).toNat
    let k := if 9007199254740992 ≤ (cut k).num.natAbs / (cut k).den then k + 1 else k
    let m : Rat := (rroundEven (cut k) : Rat)
    if 0 ≤ k then m * 2 ^ k.toNat else m / 2 ^ (-k).toNat

end Sys2Proof.Machine
end

