-- ==== Sys2Proof/Machine/TaeOps.lean ====
section
/-! DEFINITION. The capture buffer and the triggers of the TAE (R217 to R235, R502): the M-tier allocation, storing frames,
completion, cause indications. -/

namespace Sys2Proof.Machine

def unitRec (s : State) (u : Nat) : Option ImgRec := recWhere s 0x0B01 0 0 2 u

def unitOf (s : State) (u : Nat) : CapUnit := Tab.lookD s.tae.units u {}

def setUnit (u : Nat) (x : CapUnit) (s : State) : State := { s with tae := { s.tae with units := Tab.put s.tae.units u x } }

/-- Source `i` of a unit: block and stream (R217). -/
def unitSrc (r : ImgRec) (i : Nat) : Nat × Nat := (rf r (0x18 + 8 * i) 0 6, rf r (0x18 + 8 * i) 8 6)

/-- Whether a unit's frames are sweeps (R218). -/
def unitFibre (s : State) (r : ImgRec) : Bool :=
  let b := (unitSrc r 0).1
  decide (b = Src.fib) || (decide (b = Src.fdc) && hasFibre s)

/-- The boundary context of a unit. -/
def unitCtx (s : State) (r : ImgRec) : TagCtx := if unitFibre s r then s.fib.ctx else s.esq.ctx

/-- The context of frame `f` of a unit, for an item about it. -/
def frameCtx (s : State) (r : ImgRec) (f : Nat) : TagCtx :=
  let c := unitCtx s r
  { c with frame := liftFrame c f }

/-! ### The M-tier allocation (R502) -/

abbrev mib : Nat := 1048576

/-- The bytes of the two input buffers of a tine slot (R259). -/
def slotBuffers (s : State) (slot : Nat) : Nat :=
  match recWhere s 0x0C01 0 0 4 slot with
  | some r => 2 * rf r 0x28 0 8 * mib
  | none => 0

/-! ### The work of the Mulch engines (R312, R313) -/

/-- Engine `e` holds work `w` (none: idle). -/
def setEngine (e : Nat) (w : Option Nat) (s : State) : State := { s with mcd := { s.mcd with engines := s.mcd.engines.set e w } }

def engineWork (s : State) (e : Nat) : Option Nat := (s.mcd.engines.getD e none)

/-- Queue `i` of group 5 is empty again. -/
def emptyEngineQueue (i : Nat) (s : State) : State := setQueue 5 i { queueOf s 5 i with words := [], held := [] } s

/-- Release an engine; its input queue is empty again. -/
def releaseEngine (e : Nat) (s : State) : State := emptyEngineQueue (2 * e) (setEngine e none s)

/-- The blocks of capture unit `u` that wait for an engine or are in one are discarded (R237, R313). -/
def dropCoding (u : Nat) (s : State) : State :=
  let s := (List.range 2).foldl (fun s e => if engineWork s e = some (32 + u) then releaseEngine e s else s) s
  setUnit u { unitOf s u with toCode := [], coded := [] } s

/-- The offset of the buffers of slot `slot`, behind the 8 MiB reserve. -/
def slotBase (s : State) (slot : Nat) : Nat := 8 * mib + sumN ((List.range slot).map (slotBuffers s))

/-- The M-tier bytes of the surviving banks of the present allocation. -/
def mtBytes (s : State) : Nat := s.tae.mtBanks.length * 32 * mib

/-- The ring of unit `u` as offset and length, from CU0 upward; none where it does not fit. -/
def ringSpans (s : State) : List (Option (Nat × Nat)) :=
  let step (a : Nat × List (Option (Nat × Nat))) (u : Nat) : Nat × List (Option (Nat × Nat)) :=
    match unitRec s u with
    | none => (a.1, a.2 ++ [none])
    | some r =>
      let n := rf r 0 16 8 * mib
      if a.1 + n ≤ mtBytes s then (a.1 + n, a.2 ++ [some (a.1, n)]) else (a.1, a.2 ++ [none])
  ((List.range 4).foldl step (slotBase s 16, [])).2

def ringSpan (s : State) (u : Nat) : Option (Nat × Nat) := ((ringSpans s).getD u none)

/-- Whether a span of `n` bytes from `off` touches bank `b`. -/
def spanInBank (s : State) (b off n : Nat) : Bool :=
  (List.range 8).any fun i => decide (s.tae.mtBanks[i]? = some b) && decide (off < (i + 1) * 32 * mib)
    && decide (i * 32 * mib < off + n)

/-! ### Storing (R231) -/

def blocksBytes (l : List CapBlock) : Nat := sumN (l.map fun b => b.bytes.length)

def ringBytes (l : List (Nat × List CapBlock)) : Nat := sumN (l.map fun f => blocksBytes f.2)

/-- Evict the oldest whole frames that `keep` does not hold until `need` more bytes fit in `cap`. -/
def evict (cap need : Nat) (keep : Nat → Bool) (l : List (Nat × List CapBlock)) : List (Nat × List CapBlock) :=
  match l with
  | [] => []
  | f :: r => if decide (ringBytes (f :: r) + need ≤ cap) || keep f.1 then f :: r else evict cap need keep r

/-- Frame `a` lies at or after frame `b` by serial arithmetic. -/
def atOrAfter (a b : Nat) : Bool := !precedes a b

def preLen (r : ImgRec) : Nat := rf r 4 0 16
def postLen (r : ImgRec) : Nat := rf r 4 16 16

/-- The first frame of the capture in progress (R231). -/
def firstKept (r : ImgRec) (x : CapUnit) : Nat := (x.trigFrame + (2 ^ 24 - preLen r)) % 2 ^ 24

/-- The frames before the trigger that the capture holds or that wait to be stored (R231). -/
def heldPre (r : ImgRec) (x : CapUnit) : Nat :=
  let pre (g : Nat) : Bool := atOrAfter g (firstKept r x) && precedes g x.trigFrame
  (x.ring.filter fun e => pre e.1).length + (x.toCode.filter fun p => p.last && pre p.frame).length

/-- The last frame of the capture in progress (R231, R233). -/
def lastKept (r : ImgRec) (x : CapUnit) : Nat := (x.trigFrame + (postLen r - 1)) % 2 ^ 24

/-- The descriptor's words (R233). -/
def descriptor (s : State) (u : Nat) (x : CapUnit) (marker : Bool) : List Nat :=
  [u + 4 * x.cause + 2 ^ 8 * b2n marker + 2 ^ 9 * b2n x.preShort + 2 ^ 10 * b2n x.postShort + 2 ^ 32 * (x.trigNum % 2 ^ 32),
   x.trigFrame + 2 ^ 24 * (x.preGot % 65536) + 2 ^ 40 * (x.postGot % 65536),
   now s % 2 ^ 64,
   if marker then 0 else ringBytes x.ring % 2 ^ 32 + 2 ^ 32 * (sumN (x.ring.map fun f => f.2.length) % 2 ^ 24)]

/-- A capture completes (R233): the unit enters Complete and its descriptor is emitted. -/
def capComplete (u : Nat) (r : ImgRec) (s : State) : State :=
  let x := unitOf s u
  let held := (x.ring.filter fun f => atOrAfter f.1 x.trigFrame).length
  let x : CapUnit := { x with state := 3, postGot := held, postShort := decide (held < postLen r) }
  raise 181 (emit Src.tae 0 (frameCtx s r x.trigFrame) (descriptor s u x false) (dropCoding u (setUnit u x s)))

/-- Whether the last frame of a triggered capture is closed and stored. -/
def capAllStored (r : ImgRec) (x : CapUnit) : Bool :=
  precedes (lastKept r x) x.nextF && x.toCode.all fun b => precedes (lastKept r x) b.frame

/-- Complete a triggered capture whose frames are all stored. -/
def capCheck (u : Nat) (s : State) : State :=
  match unitRec s u with
  | none => s
  | some r =>
    let x := unitOf s u
    if decide (x.state = 2) && capAllStored r x then capComplete u r s else s

/-- The frames held before the trigger are counted, with the event when they fall short (R231). -/
def countPre (u : Nat) (r : ImgRec) (s : State) : State :=
  let x := unitOf s u
  let n := heldPre r x
  let short := decide (n < preLen r)
  let s := setUnit u { x with preGot := n, preShort := short } s
  if short && !x.preShort then stick Reg.TAE_STICKY 3 (raise 189 s) else s

/-- A whole frame reaches the ring (R231): one that closed while the unit was Armed evicts any older frame, which the count of
the frames before the trigger follows (DEDUCED, log entry 37). -/
def storeFrame (u f : Nat) (blocks : List CapBlock) (s : State) : State :=
  match unitRec s u with
  | none => s
  | some r =>
    let x := unitOf s u
    let cap := rf r 0 16 8 * mib
    let need := blocksBytes blocks
    let armed := decide (x.state = 1) || !precedes x.trigFrame f
    let keep (g : Nat) : Bool := !armed && atOrAfter g (firstKept r x)
    if decide (x.state = 2) && (precedes f (firstKept r x) || decide (postLen r = 0 ∧ f = x.trigFrame) || precedes (lastKept r x) f)
    then s
    else if x.state = 1 ∨ x.state = 2 then
      let ring := evict cap need keep x.ring
      let fits := decide (ringBytes ring + need ≤ cap)
      let s := setUnit u { x with ring := if fits then ring ++ [(f, blocks)] else ring } s
      let s := if x.state = 2 && armed then countPre u r s else s
      if !fits && decide (x.state = 2) && atOrAfter f x.trigFrame then capComplete u r s else s
    else s

/-- The stored form of a block (R232): the 16-byte header and the bytes padded to a multiple of 8. -/
def captureBlock (frame : Nat) (raw first : Bool) (orig : List Byte) (stored : List Byte) : List Byte :=
  let pad := (8 - stored.length % 8) % 8
  leBytes 4 (frame % 2 ^ 24 + 2 ^ 24 * b2n raw + 2 ^ 25 * b2n first) ++ leBytes 2 orig.length ++ leBytes 2 stored.length
    ++ leBytes 4 (crc32c orig) ++ leBytes 4 0 ++ stored ++ List.replicate pad 0

/-- A block has its stored form: with its frame's last block, the frame reaches the ring. -/
def blockStored (u : Nat) (p : CapPending) (bytes : List Byte) (s : State) : State :=
  let x := unitOf s u
  let all := x.coded ++ [⟨p.frame, bytes⟩]
  if p.last then capCheck u (storeFrame u p.frame all (setUnit u { x with coded := [] } s))
  else setUnit u { x with coded := all } s

/-- Store the blocks at the front that need no engine; `fuel` bounds them. -/
def drainRaw (fuel u : Nat) (s : State) : State :=
  match fuel with
  | 0 => s
  | f + 1 =>
    let x := unitOf s u
    match x.toCode with
    | [] => s
    | p :: r =>
      if p.code then s
      else if p.bytes.isEmpty then drainRaw f u (capCheck u (storeFrame u p.frame [] (setUnit u { x with toCode := r } s)))
      else drainRaw f u (blockStored u p (captureBlock p.frame true p.first p.bytes p.bytes) (setUnit u { x with toCode := r } s))

/-! ### Causes (R219, R221) -/

/-- A late item or trigger (R219). -/
def taeLate (s : State) : State :=
  stick Reg.TAE_STICKY 4 (bumpSat Reg.TAE_LATE 0 32 1 (fault 190 Src.tae 0 .corrected 0 s))

/-- A cause names frame `f` at the units that `sel` selects (R221); a closed frame makes it late. -/
def taeName (f bit : Nat) (sel : ImgRec → Bool) (s : State) : State :=
  (List.range 4).foldl (fun s u =>
    match unitRec s u with
    | none => s
    | some r =>
      if sel r && bitB (rf r 8 16 5) bit then
        let x := unitOf s u
        if precedes f x.nextF then taeLate s else setUnit u { x with names := x.names ++ [(f % 2 ^ 24, 2 ^ bit)] } s
      else s) s

/-- A unit leaves a finished or discarded capture (R220, R230, R237): re-armed with an empty ring, or Stopped
(DESIGN CHOICE, log entry 47). -/
def capLeave (u : Nat) (s : State) : State :=
  match unitRec s u with
  | none => s
  | some r =>
    let x := unitOf s u
    let stop := decide (rf r 0 3 1 = 1) && (bitB x.cause 1 || bitB x.cause 2)
    let s := dropCoding u (setUnit u { x with state := if stop then 5 else 1, ring := [], auto := 0 } s)
    if stop then stick Reg.TAE_STICKY 2 (raise 186 s) else s

/-- The closing item of a readout (R235). -/
def capClosing (u : Nat) (r : ImgRec) (aborted : Bool) (s : State) : State :=
  let x := unitOf s u
  emit Src.tae 1 (frameCtx s r x.trigFrame) [(descriptor s u x false).headD 0 + 2 ^ 11 * b2n aborted] s

/-- A readout is aborted: its closing item carries aborted, and the command that reads is done (R237). -/
def readAborted (u : Nat) (s : State) : State :=
  let x := unitOf s u
  let s := match unitRec s u with
    | some r => capClosing u r true s
    | none => s
  let s := setUnit u { unitOf s u with state := 3, readBy := none } s
  match x.readBy with
  | some o => finishFree o 0 s
  | none => s

/-- The ring of a unit is lost (R235, R502): a readout and the capture in progress or held are discarded as if aborted. -/
def ringLost (u : Nat) (s : State) : State :=
  let st := (unitOf s u).state
  let s := stick Reg.TAE_STICKY 5 (fault 191 Src.tae 0 .corrected u s)
  let s := if st = 4 then readAborted u s else s
  if decide (2 ≤ st) && decide (st ≤ 4) then capLeave u (raise 182 s)
  else dropCoding u (setUnit u { unitOf s u with ring := [] } s)

end Sys2Proof.Machine
end

