-- ==== Sys2Proof/Machine/Tae.lean ====
section
/-! DEFINITION. The trigger and acquisition engine (R217 to R237): the close of a frame, triggers, readout, capture
commands, the reference evaluation and the registers. -/

namespace Sys2Proof.Machine

/-! ### Items and frames (R219, R232) -/

/-- CAPTURE_ITEM_ARRIVE (R217 to R219): a unit takes a copy of an item of its source `src`; an item of a frame that is
closed is late. The first item of the pacing source sets the first frame to close (DEDUCED, log entry 37). -/
def onCaptureItemArrive (unit : Fin 4) (src : Fin 8) (item : Item) (s : State) : State :=
  match unitRec s unit with
  | none => s
  | some r =>
    let q := unitSrc r src
    let f := tagFrame item.tag
    let x := unitOf s unit
    let mine := decide (src.val < rf r 0 8 4) && decide (tagSrc item.tag = q.1) && decide (tagStream item.tag = q.2)
    let sel := decide (q.1 ≠ Src.tdc) || item.words.isEmpty
      || bitB (leAt r.body (0x1C + 8 * src) 4) (wordChan (item.words.headD 0) / 16)
    if !(mine && sel) then s
    else
      let start := decide (src.val = 0) && x.pace.isNone
      let nf := if start then f else x.nextF
      if !start && precedes f nf then taeLate s
      else
        let pace := if src.val ≠ 0 then x.pace else match x.pace with
          | none => some f
          | some p => if precedes p f then some f else some p
        setUnit unit { x with nextF := nf, pace := pace, items := x.items ++ [(src.val, item)] } s

/-- The bytes of a copy: its tag with the capture flag (R28, R219) and its payload. -/
def captureBytes (i : Item) : List Byte := leBytes 8 (tagOr i.tag 32).toNat ++ bytesOf i.words

/-- Pieces of 4,096 bytes (R232). -/
def pieces4096 (fuel : Nat) (l : List Byte) : List (List Byte) :=
  match fuel with
  | 0 => []
  | f + 1 => if l.isEmpty then [] else l.take 4096 :: pieces4096 f (l.drop 4096)

/-- Compression is deferred by the grant at the boundary of frame `f` of the unit (R232). -/
def frameDeferred (s : State) (r : ImgRec) (f : Nat) : Bool :=
  ((if unitFibre s r then s.tae.deferF else s.tae.deferL).find? fun e => decide (e.1 = f)).any (·.2)

/-- The blocks of frame `f` from its items (R219, R232). -/
def frameBlocks (s : State) (r : ImgRec) (f : Nat) (items : List Item) : List CapPending :=
  let bytes := (sortBy (fun a b => tagLt a.tag b.tag) items).flatMap captureBytes
  let ps := pieces4096 (bytes.length / 4096 + 1) bytes
  let code := decide (rf r 0 4 1 = 1) && !frameDeferred s r f && !s.mcd.bypass
  if ps.isEmpty then [⟨f, true, true, false, []⟩]
  else (ps.zip (List.range ps.length)).map fun p => ⟨f, decide (p.2 = 0), decide (p.2 + 1 = ps.length), code, p.1⟩

/-! ### Triggers (R221, R231, R234) -/

/-- A trigger of a unit whose records hold nothing (R234): a MARK item and a descriptor; the unit stays Armed, or stops. -/
def capMarker (u : Nat) (r : ImgRec) (s : State) : State :=
  let x := unitOf s u
  let c := frameCtx s r x.trigFrame
  let s := emit Src.tae 0 c (descriptor s u x true)
    (emitCtl Src.tae (fun n => decide (n = 0)) c 7 0 x.trigNum s)
  if rf r 0 3 1 = 1 && (bitB x.cause 1 || bitB x.cause 2) then
    stick Reg.TAE_STICKY 2 (raise 186 (setUnit u { x with state := 5 } s))
  else s

/-- An armed unit triggers at frame `f` with cause bits `cause` (R221, R231) (DEDUCED, log entry 37). -/
def capFire (u : Nat) (r : ImgRec) (f cause : Nat) (s : State) : State :=
  let x := unitOf s u
  let x : CapUnit := { x with trigNum := (x.trigNum + 1) % 2 ^ 32, trigFrame := f, cause := cause, auto := 0 }
  let s := raise 180 s
  let s := if bitB cause 5 then raise 183 s else s
  if preLen r = 0 && postLen r = 0 then
    capMarker u r (setUnit u { x with preGot := 0, postGot := 0, preShort := false, postShort := false } s)
  else
    let first := firstKept r x
    let keep := fun (g : Nat) => atOrAfter g first && !(decide (postLen r = 0) && decide (g = f))
    capCheck u (countPre u r (setUnit u { x with
      state := 2, ring := x.ring.filter fun e => keep e.1, preShort := false, postGot := 0, postShort := false } s))

/-- The triggers of frame `f` at its close (R221) (DEDUCED, log entry 37). -/
def capTriggers (u : Nat) (r : ImgRec) (f : Nat) (s : State) : State :=
  let x := unitOf s u
  let mine := x.names.filter fun n => decide (n.1 = f)
  let s := setUnit u { x with names := x.names.filter fun n => precedes f n.1 } s
  if x.state = 1 then
    let n := rf r 8 0 16
    let auto := decide (n ≠ 0) && decide (n ≤ x.auto + 1)
    let cause := Nat.lor (mine.foldl (fun a n => Nat.lor a n.2) 0) (32 * b2n auto)
    if cause = 0 then setUnit u { unitOf s u with auto := x.auto + 1 } s else capFire u r f cause s
  else if mine.isEmpty then s
  else bump Reg.TAE_TRIG_IGNORED 1 s

/-- CAPTURE_FRAME_CLOSE (R219, R221, R231 to R234): the oldest open frame of a unit closes once its pacing source has
delivered an item of a frame at least `wait` later. -/
def onCaptureFrameClose (unit : Fin 4) (t : Tick) (s : State) : State :=
  let s := advance t s
  match unitRec s unit with
  | none => s
  | some r =>
    let x := unitOf s unit
    let f := x.nextF
    if x.pace.any fun p => !precedes p ((f + rf r 0 24 4) % 2 ^ 24) then
      let mine := (x.items.filter fun i => decide (tagFrame i.2.tag = f)).map (·.2)
      let rest := x.items.filter fun i => precedes f (tagFrame i.2.tag)
      let live := decide (x.state = 1) || decide (x.state = 2)
      let add := if live then frameBlocks s r f mine else []
      let s := setUnit unit { x with items := rest, nextF := (f + 1) % 2 ^ 24, toCode := x.toCode ++ add } s
      let s := drainRaw (x.toCode.length + add.length) unit s
      capCheck unit (capTriggers unit r f s)
    else s

/-! ### Readout (R235) -/

/-- Deliver every stored block, oldest first, one item each. -/
def capDeliver (r : ImgRec) (bs : List CapBlock) (s : State) : State :=
  bs.foldl (fun s b => emitX Src.tae 1 (frameCtx s r b.frame) 0 (wordsOf (b.bytes.length / 8 + 1) b.bytes) s) s

/-- CAPTURE_READ_DONE (R235): the blocks of a capture in Reading have been delivered; the closing item follows and the unit
is Complete again (DESIGN CHOICE, log entry 47). -/
def onCaptureReadDone (unit : Fin 4) (t : Tick) (s : State) : State :=
  let s := advance t s
  match unitRec s unit with
  | none => s
  | some r =>
    let x := unitOf s unit
    if x.state = 4 then
      let s := capClosing unit r false (capDeliver r (x.ring.flatMap (·.2)) s)
      let s := setUnit unit { unitOf s unit with state := 3, readBy := none } s
      match x.readBy with
      | some o => finish o .ok 0 s
      | none => s
    else s

/-! ### Commands (R220, R221, R235, R237) -/

/-- CAPTURE_ABORT (R236, R237). An abort that runs before the completion has the earlier stamp: the queue holds the completion of
an equal stamp first (R23). -/
def capAbort (o : Origin) (u : Nat) (s : State) : State :=
  match unitRec s u with
  | none => finish o .limit 0 s
  | some _ =>
    let x := unitOf s u
    if x.noFit then finish o .state 0 s
    else if x.state = 1 then finish o .ok 0 (dropCoding u (setUnit u { x with state := 0, ring := [] } s))
    else if x.state = 2 then finish o .ok 0 (capLeave u (raise 182 s))
    else if x.state = 4 then finish o .ok 0 (readAborted u s)
    else finish o .nothingToAbort 0 s

/-- CAPTURE_READ (R235): it is done when the readout ends. -/
def capRead (o : Origin) (u : Nat) (s : State) : State :=
  if (unitRec s u).isNone then finish o .limit 0 s
  else
    let x := unitOf s u
    if x.state = 3 && !x.noFit then setUnit u { x with state := 4, readBy := some o } s else finish o .state 0 s

/-- CAPTURE_RELEASE (R220, R230). -/
def capRelease (o : Origin) (u : Nat) (s : State) : State :=
  if (unitRec s u).isNone then finish o .limit 0 s
  else if (unitOf s u).state = 3 && !(unitOf s u).noFit then finish o .ok 0 (capLeave u s)
  else finish o .state 0 s

/-- CAPTURE_REARM (R220): an idle or stopped unit is armed. -/
def capRearm (o : Origin) (u : Nat) (s : State) : State :=
  if (unitRec s u).isNone then finish o .limit 0 s
  else
    let x := unitOf s u
    if (x.state = 0 || x.state = 5) && !x.noFit then
      finish o .ok 0 (dropCoding u (setUnit u { x with state := 1, ring := [], auto := 0 } s))
    else finish o .state 0 s

/-- A software trigger registers frame `f` at a unit (R221). -/
def capName (o : Origin) (u f : Nat) (s : State) : State :=
  let x := unitOf s u
  if precedes f x.nextF then taeLate (finish o .late 0 s)
  else finish o .ok 0 (setUnit u { x with names := x.names ++ [(f % 2 ^ 24, 16)] } s)

/-- CAPTURE_TRIGGER's checks that no frame decides (R221, R485): the status that ends it. -/
def capTrigCheck (s : State) (u : Nat) : Option Status :=
  match unitRec s u with
  | none => some .limit
  | some r => if (unitOf s u).noFit || rf r 8 20 1 = 0 then some .state else none

/-! ### Units at their start (R217, R220) -/

/-- The first frame or sweep begins: units with arm_start are armed (DEDUCED, log entry 37). -/
def capStart (fibre : Bool) (s : State) : State :=
  (List.range 4).foldl (fun s u =>
    match unitRec s u with
    | none => s
    | some r =>
      let x := unitOf s u
      if unitFibre s r = fibre && !x.started then
        setUnit u { x with started := true, noFit := (ringSpan s u).isNone,
                           state := if rf r 0 2 1 = 1 && (ringSpan s u).isSome then 1 else x.state } s
      else s) s

/-- A frame or sweep begins: its grant's deferral of compression is kept for its close (R232). -/
def capBoundary (fibre : Bool) (f : Nat) (g : List Byte) (s : State) : State :=
  let add (l : List (Nat × Bool)) : List (Nat × Bool) := ((f % 2 ^ 24, gDefer g 1) :: l).take 64
  if fibre then { s with tae := { s.tae with deferF := add s.tae.deferF } }
  else { s with tae := { s.tae with deferL := add s.tae.deferL } }

/-! ### Zones (R221, R226, R227) -/

/-- A zone's word violates its envelope (DEDUCED, log entry 37). -/
def zoneViolates (r : Option ImgRec) (z w : Nat) : Bool :=
  let lo := r.elim 0 fun r => leAt r.body (0x10 + 8 * z) 4
  let hi := r.elim 0 fun r => leAt r.body (0x14 + 8 * z) 4
  let e := w % 2 ^ 32
  !bitB w 49 && ((decide (hi ≠ 0) && decide (hi < e)) || (decide (lo ≠ 0) && decide (e < lo)))

/-- The TAE takes a FIB zone item of sweep `f` (R221 bits 0 and 2, R226) (DEDUCED, log entry 37). -/
def taeZones (f : Nat) (ws : List Nat) (s : State) : State :=
  let r := recOf s 0x0B02
  let n := rdf s Fld.TAE_MASK_CHAN_zone_n
  let idx := List.range ws.length
  let run (z : Nat) : Nat := if zoneViolates r z (ws.getD z 0) then min 16 (Tab.lookD s.tae.zoneRun z 0 + 1) else 0
  let viol := decide (n ≠ 0) && idx.any fun z => decide (run z = n)
  let s := { s with tae := { s.tae with zoneRun := idx.map fun z => (z, run z) } }
  let part (r : ImgRec) : Bool := idx.any fun z =>
    bitB (ws.getD z 0) 48 && bitB (leAt r.body 0x0C 4 + 2 ^ 32 * leAt r.body 0x10 4) z
  let s := taeName f 0 (fun r => unitFibre s r && part r) s
  if viol then taeName f 2 (fun r => unitFibre s r) (stick Reg.TAE_STICKY 1 (raise 185 s)) else s

/-! ### The reference (R222 to R227) -/

/-- A reference histogram of a channel joins the accumulation, its bins moved by the walk correction (R222). -/
def refAdd (walk : Int) (h acc : Tab Nat) : Tab Nat :=
  h.foldl (fun a e =>
    let i : Int := (e.1 : Int) - walk
    if 0 ≤ i && decide (i < 128) then Tab.upd a i.toNat 0 (· + e.2) else a) acc

/-- What an evaluation finds for a channel (R223 to R225): hits, columns, the centroid sum of (2 i + 1) h, the new skew
and whether it changed or was rejected, and the violations. -/
structure RefEval where
  chan : Nat
  word : Nat
  skew : Option Int
  rejected : Bool
  viol : Bool
  deriving DecidableEq, Repr

/-- The skew in force at the TAE. -/
def taeSkew (s : State) (j : Nat) : Int := Tab.lookD s.tae.skew j 0

/-- Evaluate channel `j` (R223 to R225). Without a hit and with skew_hits = 0 the new skew has no stated value: a free value
(DESIGN CHOICE, log entry 49). -/
def refEval (s : State) (d : RefDue) (j : Nat) : RefEval :=
  if isFenced s (Unit.strip (j / 16)) then ⟨j, 2 ^ 46, none, false, false⟩
  else
    let h := Tab.lookD d.bins j []
    let hits := sumN (h.map (·.2))
    let m := sumN (h.map fun e => (2 * e.1 + 1) * e.2)
    let n := Tab.lookD d.cols j 0
    let few := decide (hits < rdf s Fld.TAE_SKEW_CFG_skew_hits)
    let new := if hits = 0 then sval 10 (Config.freeNat (s.freeIdx + j))
      else rround ((rdf s Fld.TAE_REF_CFG_win_ref : Rat) - (m : Rat) / (2 * hits))
    let old := taeSkew s j
    let jump := rdf s Fld.TAE_SKEW_CFG_skew_jump
    let ok := decide (jump = 0) || !s.tae.skewSeen.getLsbD j || decide ((new - old).natAbs ≤ jump)
    let take_ := !few && ok
    let p : Rat := if n = 0 then 0 else (hits : Rat) / n
    let phi := rdf s Fld.TAE_MASK_CFG_p_hi
    let plo := rdf s Fld.TAE_MASK_CFG_p_lo
    let vh := decide (n ≠ 0) && decide (phi ≠ 0) && decide ((phi : Rat) / 65536 < p)
    let vl := decide (n ≠ 0) && decide (plo ≠ 0) && decide (p < (plo : Rat) / 65536)
    let cen := if hits = 0 then 0 else rdivN (32 * m) hits
    let left := if take_ then new else old
    let w := min 65535 (p * 65536).floor.toNat + 2 ^ 16 * (cen % 65536) + 2 ^ 32 * uval 10 left + 2 ^ 42 * b2n few
      + 2 ^ 43 * b2n (!few && !ok) + 2 ^ 44 * b2n vh + 2 ^ 45 * b2n vl
    ⟨j, w, if take_ then some new else none, !few && !ok, vh || vl⟩

/-- The accepted skews enter the TAE and are posted per strip in which one changed (R223) (DEDUCED, log entry 37). -/
def refSkews (es : List RefEval) (s : State) : State :=
  let acc := es.filterMap fun e => e.skew.map fun v => (e.chan, v)
  let changed := acc.filter fun p => !decide (taeSkew s p.1 = p.2)
  let strips := (changed.map fun p => p.1 / 16).eraseDups
  let post := strips.foldl (fun t k => Tab.put t k (acc.filter fun p => decide (p.1 / 16 = k))) s.tae.skewPost
  let seen := acc.foldl (fun m p => m ||| BitVec.ofNat 512 (2 ^ p.1)) s.tae.skewSeen
  let s := { s with tae := { s.tae with skew := acc.foldl (fun t p => Tab.put t p.1 p.2) s.tae.skew, skewSeen := seen,
                                        skewPost := post } }
  if strips.isEmpty then s else raise 187 s

/-- REF_EVALUATION (R222 to R225, R227): the accumulation is evaluated at the frame of its last column. -/
def onRefEvaluation (t : Tick) (s : State) : State :=
  let s := advance t s
  match s.tae.refDue with
  | none => s
  | some d =>
    let es := (List.range 512).map (refEval s d)
    let rej := (es.filter (·.rejected)).length
    let nv := (es.filter (·.viol)).length
    let lim := rdf s Fld.TAE_MASK_CHAN_viol_chan
    let s := (List.range rej).foldl (fun s _ => bump Reg.TAE_SKEW_REJ 1 (fault 188 Src.tae 0 .corrected 0 s)) s
    let s := refSkews es { s with freeIdx := s.freeIdx + 512, tae := { s.tae with refDue := none, refViol := nv } }
    let s := if lim ≠ 0 && decide (lim ≤ nv) then
        taeName (d.ctx.frame % 2 ^ 24) 1 (fun r => !unitFibre s r) (stick Reg.TAE_STICKY 0 (raise 184 s))
      else s
    emit Src.tae 2 d.ctx (es.map (·.word)) s

/-! ### Registers (R241) -/

def taeView (s : State) (off : Nat) : Option Nat :=
  let z := rdf s Fld.TAE_ZONE_SEL_zone
  let env (o : Nat) : Nat := (recOf s 0x0B02).elim 0 fun r => leAt r.body (o + 8 * z) 4
  if off = Reg.TAE_STATUS then some (sumN ((List.range 4).map fun u => (unitOf s u).state * 16 ^ u))
  else if off = Reg.TAE_REF_COUNT then some s.tae.refCount
  else if off = Reg.TAE_REF_VIOL then some s.tae.refViol
  else if off = Reg.TAE_ZENV_LO then some (env 0x10)
  else if off = Reg.TAE_ZENV_HI then some (env 0x14)
  else (List.range 4).findSome? fun u =>
    let x := unitOf s u
    let word (o : Nat) : Nat := (unitRec s u).elim 0 fun r => leAt r.body o 4
    if off = Reg.TAE_U_CFG u then some (word 0)
    else if off = Reg.TAE_U_LEN u then some (word 4)
    else if off = Reg.TAE_U_STAT u then some (x.state + 2 ^ 8 * x.cause + 2 ^ 14 * b2n x.preShort + 2 ^ 15 * b2n x.postShort)
    else if off = Reg.TAE_U_TRIG_FRAME u then some x.trigFrame
    else if off = Reg.TAE_U_TRIG_NUM u then some x.trigNum
    else if off = Reg.TAE_U_PRE_GOT u then some (x.preGot % 65536 + 2 ^ 16 * (x.postGot % 65536))
    else if off = Reg.TAE_U_BYTES u then some (ringBytes x.ring % 2 ^ 32)
    else if off = Reg.TAE_U_FILL u then some (x.ring.length % 65536)
    else none

/-! ### Meanings -/

/-- The meaning of this command: the step of `onCaptureItemArrive` (R219). -/
def execCaptureItemArrive (unit : Fin 4) (src : Fin 8) (item : Item) (s : State) : Host.Outcome State Fault Refusal :=
  .next (onCaptureItemArrive unit src item s)

/-- The meaning of this command: the step of `onCaptureFrameClose` (R219). -/
def execCaptureFrameClose (unit : Fin 4) (t : Tick) (s : State) : Host.Outcome State Fault Refusal :=
  .next (onCaptureFrameClose unit t s)

/-- The meaning of this command: the step of `onCaptureReadDone` (R235). -/
def execCaptureReadDone (unit : Fin 4) (t : Tick) (s : State) : Host.Outcome State Fault Refusal :=
  .next (onCaptureReadDone unit t s)

/-- The meaning of this command: the step of `onRefEvaluation` (R222). -/
def execRefEvaluation (t : Tick) (s : State) : Host.Outcome State Fault Refusal :=
  .next (onRefEvaluation t s)

end Sys2Proof.Machine
end

