-- ==== Sys2Proof/Machine/Tsu.lean ====
section
/-! DEFINITION. The timestamp unit (R70 to R73): TSI edges, stop windows, frequency estimates; and the start of a window
by its source. -/

namespace Sys2Proof.Machine

def tsiOf (s : State) (c : Nat) : TsiSt := Tab.lookD s.tsu.chans c {}

def setTsi (c : Nat) (x : TsiSt) (s : State) : State := { s with tsu := { s.tsu with chans := Tab.put s.tsu.chans c x } }

def tsiOn (s : State) (c : Nat) : Bool := rdb s (Fld.TSU_CFG_enable c)

/-- The service channels, keyed as lines of the aux map: 16 ADC_TRIG, 17 and 18 the link markers (R52). After an accepted edge a
channel ignores its input for 2 ns (R51). -/
def svcDead (s : State) (c : Nat) (st : Tick) : Bool := (Tab.look s.tsu.svcEdge c).any fun l => decide (st < l + deadTicks)

def svcMark (c : Nat) (st : Tick) (s : State) : State :=
  { s with tsu := { s.tsu with svcEdge := Tab.put s.tsu.svcEdge c st } }

/-- Close the item being packed on stamp stream `c` (R71); the stamps name its frame at the capture units that watch the
channel (R221). -/
def closePack (c : Nat) (s : State) : State :=
  let x := tsiOf s c
  if x.pack.isEmpty then s
  else
    taeName ((curCtx s).frame % 2 ^ 24) 3 (fun r => decide (rf r 8 24 4 = c))
      (emitX Src.tsu c (curCtx s) (4 * b2n x.packBad) x.pack (setTsi c { x with pack := [], packBad := false } s))

/-- Close the packed items of all channels, at a boundary (R71). -/
def closePacks (s : State) : State := (List.range 16).foldl (fun s c => closePack c s) s

/-- Add stamp words to the item being packed; an item closes at 64 words (R71). -/
def packStamps (c : Nat) (ws : List Word64) (s : State) : State :=
  ws.foldl (fun s w =>
    let s := setTsi c { tsiOf s c with pack := (tsiOf s c).pack ++ [w] } s
    if (tsiOf s c).pack.length ≥ 64 then closePack c s else s) s

/-- Move the stamps that wait in the channel's queue to the item being packed, unless the stream's output queue holds
words back (R319). -/
def drainTsu (c : Nat) (s : State) : State :=
  let q := queueOf s 2 c
  if (mapEntry s Src.tsu c).any fun m => !(queueOf s 4 m).held.isEmpty then s
  else
    let s := if q.lost then loseBefore Src.tsu c s else s
    let s := takeAll 2 c s
    let s := if failing q.words = 0 then s else setTsi c { tsiOf s c with packBad := true } s
    packStamps c (q.words.map (·.data)) s

/-- The window result item (R72): start stamp, first edge (0 when none), count, hit and restarted; the layout is the
model's. The result of a window that the Cloche starts also goes to it through X12 (R401) (DESIGN CHOICE, log entry 60). -/
def windowResult (c : Nat) (w : Window) (restarted : Bool) (s : State) : State :=
  let x := tsiOf s c
  let hit := w.first.isSome
  let n := min w.count 65535
  let s := if rdf s (Fld.TSU_WIN_CFG_start_src c) = 4 then x12Post (.window c) 0 [BitVec.ofNat 64 n] s else s
  raise 41 (emit Src.tsu (16 + c) (curCtx s) [w.start % 2 ^ 64, w.first.getD 0 % 2 ^ 64, n + 2 ^ 16 * b2n hit + 2 ^ 17 * b2n restarted]
    (setTsi c { x with window := none, winCount := n, winHit := hit, winRest := restarted, closedAt := now s } s))

/-- A new start for channel `c` (R72): an open window closes early with restarted = 1; one that has not opened gives way
without a result (DEDUCED, log entry 62). -/
def windowStart (c : Nat) (t : Tick) (s : State) : State :=
  if tsiOn s c && decide ((rd s (Reg.TSU_WIN_CLOSE c)).toNat ≠ 0) then
    let s := match (tsiOf s c).window with
      | some w => if w.isOpen then windowResult c w true s else s
      | none => s
    setTsi c { tsiOf s c with window := some ⟨t, none, 0, false⟩ } s
  else s

/-- Start the windows of every channel with start source `src` (and start channel `chan` for source 3). -/
def windowStarts (src chan : Nat) (t : Tick) (s : State) : State :=
  (List.range 16).foldl (fun s c =>
    if decide (rdf s (Fld.TSU_WIN_CFG_start_src c) = src)
        && (decide (src ≠ 3) || decide (rdf s (Fld.TSU_WIN_CFG_start_chan c) = chan))
    then windowStart c t s else s) s

/-- Ticks per gate of channel `c` (R73); 0 when the estimator is off. -/
def gateTicks (s : State) (c : Nat) : Nat := rdf s (Fld.TSU_CFG_est_gate c) * 64000000

/-- An accepted edge enters its gate's sums (R73). -/
def estAdd (x : TsiSt) (g : Nat) (st : Tick) : TsiSt :=
  let e := Tab.lookD x.est g {}
  let e' : EstSum :=
    if e.n = 0 then ⟨1, st, st, 0, 0, 0, 0⟩
    else
      let d := st - e.last
      ⟨e.n + 1, e.s0, st, e.sumT + (st - e.s0), e.sumK + e.n * (st - e.s0), if e.n = 1 then d else min e.dmin d, max e.dmax d⟩
  { x with est := Tab.put x.est g e' }

/-- An accepted edge in the channel's open window (R72). -/
def winAdd (s : State) (c : Nat) (x : TsiSt) (st : Tick) : TsiSt :=
  match x.window with
  | none => x
  | some w =>
    if w.isOpen && decide (w.start + 64 * (rd s (Reg.TSU_WIN_OPEN c)).toNat ≤ st)
        && decide (st < w.start + 64 * (rd s (Reg.TSU_WIN_CLOSE c)).toNat)
    then { x with window := some { w with first := some (w.first.getD st), count := w.count + 1 } } else x

/-- TSI_EDGE (R70 to R73): polarity, dead time, hold-off, then the stamp word, the window, the estimator, the windows that
start on this channel, and the agreement test of an aux-line overlap (R68). An edge of the other polarity is no edge of the
channel and is not counted in the hold-off (DEDUCED, log entry 62). -/
def onTsiEdge (chan : Fin 16) (rising : Bool) (tap : Fin 97) (tap2 : Option (Fin 97)) (edge : Tick) (s : State) : State :=
  let s := advance edge s
  let e := rdf s (Fld.TSU_CFG_edge chan)
  let line := 512 + s.tsu.lineOf.getD chan 0
  let st := stampOf s line edge tap
  let x := tsiOf s chan
  let since := x.lastAcc.map fun l => st - l
  let hold := max 2 (4 * rdf s (Fld.TSU_CFG_holdoff chan)) * 64
  if !(tsiOn s chan && (if rising then decide (e = 1 ∨ e = 3) else decide (e = 2 ∨ e = 3))) then s
  else if since.any fun d => decide (d < deadTicks) then s
  else if since.any fun d => decide (d < hold) then bump (Reg.TSU_HOLDOFF chan) 1 s
  else
    let s := match s.tsu.overlap, tap2 with
      | some o, some t2 =>
        if o.chan = chan.val then
          let st2 := stampOf s (512 + o.line) edge t2
          let o' : Overlap := { o with agree := o.agree && decide (st ≤ st2 + 2) && decide (st2 ≤ st + 2) }
          { s with tsu := { s.tsu with overlap := some o' } }
        else s
      | _, _ => s
    let x := winAdd s chan { x with lastAcc := some st } st
    let g := gateTicks s chan
    let x := if decide (g ≠ 0) && (rising || decide (e ≠ 3)) then estAdd x (st / g) st else x
    let full := decide ((queueOf s 2 chan).words.length ≥ qDepth s 2)
    let s := pushRT 2 chan (stampWord rising (512 + chan) st) (setTsi chan x s)
    let s := if full then bump (Reg.TSU_LOST chan) 1 s else s
    windowStarts 3 chan st (drainTsu chan s)

/-- WINDOW_OPEN (R72): the window whose start has come opens. -/
def onWindowOpen (chan : Fin 16) (t : Tick) (s : State) : State :=
  let s := advance t s
  match (tsiOf s chan).window with
  | some w =>
    if w.start + 64 * (rd s (Reg.TSU_WIN_OPEN chan)).toNat ≤ t then
      setTsi chan { tsiOf s chan with window := some { w with isOpen := true } } s else s
  | none => s

/-- WINDOW_CLOSE (R72): the open window closes and its result item is emitted (DESIGN CHOICE, log entry 5). -/
def onWindowClose (chan : Fin 16) (t : Tick) (s : State) : State :=
  let s := advance t s
  match (tsiOf s chan).window with
  | some w =>
    if w.isOpen && decide (w.start + 64 * (rd s (Reg.TSU_WIN_CLOSE chan)).toNat ≤ t) then windowResult chan w false s else s
  | none => s

/-- The least-squares period of R73 in 2^-16 tick, rounded half away from zero. -/
def estPeriod (e : EstSum) : Nat :=
  (rdiv ((12 * (e.sumK : Int) - 6 * ((e.n : Int) - 1) * e.sumT) * 65536) (e.n * (e.n * e.n - 1))).toNat

/-- ESTIMATOR_GATE_END (R73): the period is fitted over the gate's edges and the estimate item is emitted. With fewer
than three edges the estimate is not valid and its period is free; the spacings are free without two edges. The item's
layout is the model's, and the registers show the low words of the spacings (DESIGN CHOICE, log entries 49 and 60). -/
def onEstimatorGateEnd (chan : Fin 16) (gate : Nat) (s : State) : State :=
  if tsiOn s chan && decide (gateTicks s chan ≠ 0) then
    let s := advance ((gate + 1) * gateTicks s chan) s
    let x := tsiOf s chan
    let e := Tab.lookD x.est gate {}
    let valid := decide (e.n ≥ 3)
    let p := if valid then estPeriod e else freeVal s % 2 ^ 64
    let lo := if e.n ≥ 2 then e.dmin else freeVal s
    let hi := if e.n ≥ 2 then e.dmax else freeVal s
    let s := if valid then s else useFree s
    raise 40 (emit Src.tsu (32 + chan) (curCtx s) [p, e.n + 2 ^ 32 * b2n valid, lo, hi, gate % 2 ^ 24]
      (setTsi chan { x with est := Tab.del x.est gate, period := p, estN := e.n, estMin := lo, estMax := hi,
                            estValid := valid, estGate := gate, valid := if valid then some p else x.valid } s))
  else s

/-! ### Meanings -/

/-- The meaning of this command: the step of `onTsiEdge` (R70). -/
def execTsiEdge (chan : Fin 16) (rising : Bool) (tap : Fin 97) (tap2 : Option (Fin 97)) (edge : Tick) (s : State) : Host.Outcome State Fault Refusal :=
  .next (onTsiEdge chan rising tap tap2 edge s)

/-- The meaning of this command: the step of `onWindowOpen` (R72). -/
def execWindowOpen (chan : Fin 16) (t : Tick) (s : State) : Host.Outcome State Fault Refusal :=
  .next (onWindowOpen chan t s)

/-- The meaning of this command: the step of `onWindowClose` (R72). -/
def execWindowClose (chan : Fin 16) (t : Tick) (s : State) : Host.Outcome State Fault Refusal :=
  .next (onWindowClose chan t s)

/-- The meaning of this command: the step of `onEstimatorGateEnd` (R73). -/
def execEstimatorGateEnd (chan : Fin 16) (gate : Nat) (s : State) : Host.Outcome State Fault Refusal :=
  .next (onEstimatorGateEnd chan gate s)

end Sys2Proof.Machine
end

