-- ==== Sys2Proof/Machine/Fib.lean ====
section
/-! DEFINITION. The fibre interrogator (R170 to R199): converters and their calibration, gates, slots, zones, the fibre end
and the temperature profile. The sweep boundary itself is in Sweep.lean. -/

namespace Sys2Proof.Machine

/-! ### Plans (R200, R202) -/

def fibPlanRec (s : State) (p : Nat) : Option ImgRec := recWhere s 0x0901 0 0 4 p

/-- A field of fibre plan `p`; 0 without it. -/
def fpOf (s : State) (p off lo len : Nat) : Nat := (fibPlanRec s p).elim 0 fun r => rf r off lo len

/-- A field of the fibre plan in force. -/
def fp (s : State) (off lo len : Nat) : Nat := s.fib.plan.elim 0 fun p => fpOf s p off lo len

/-- T_s of plan `p` in ticks (R179). -/
def sweepTicksOf (s : State) (p : Nat) : Nat := max 1 (fpOf s p 0 8 4) * fpOf s p 8 0 18 * 640
def sweepTicks (s : State) : Nat := s.fib.plan.elim 0 (sweepTicksOf s)

def fibConst (s : State) : Option ImgRec := recOf s 0x0902
def fibZones (s : State) : Option ImgRec := recOf s 0x0903
def nZones (s : State) : Nat := (fibZones s).elim 0 fun r => rf r 0 0 7
def zoneSweeps (s : State) : Nat := (fibZones s).elim 0 fun r => rf r 0 16 10
def zoneLo (s : State) (z : Nat) : Nat := (fibZones s).elim 0 fun r => rf r (8 + 8 * z) 0 16
def zoneHi (s : State) (z : Nat) : Nat := (fibZones s).elim 0 fun r => rf r (8 + 8 * z) 16 16
def zoneThr (s : State) (z : Nat) : Nat := (fibZones s).elim 0 fun r => leAt r.body (12 + 8 * z) 4

/-- The number of values of a slot item of plan `p`: npos - g. -/
def slotCount (s : State) (p : Nat) : Nat := fpOf s p 4 0 16 - fpOf s p 4 16 5

/-! ### Converters (R170 to R178) -/

def pairOf (s : State) (i : Nat) : PairCal := Tab.lookD s.fib.pairs i {}

def setPair (i : Nat) (x : PairCal) (s : State) : State := { s with fib := { s.fib with pairs := Tab.put s.fib.pairs i x } }

def ainOf (s : State) (i : Nat) : AinSt := Tab.lookD s.fib.ain i {}

def setAin (i : Nat) (x : AinSt) (s : State) : State := { s with fib := { s.fib with ain := Tab.put s.fib.ain i x } }

/-- The converters of input `i` (R170). -/
def convsOf (i : Nat) : List Nat := [2 * i, 2 * i + 1]

/-- Whether a polarisation gives a value for tone `n` of plan `p` (R172): channels 5 to 9 need both converters. -/
def polLost (s : State) (p i n : Nat) : Bool :=
  let ch := (fpOf s p (0x30 + 4 * (n / 2)) (16 * (n % 2)) 16 + 3125) / 6250
  let f := (convsOf i).filter fun c => isFenced s (Unit.adc c)
  decide (f.length = 2) || (decide (f.length = 1) && decide (5 ≤ ch))

/-- The inputs that run on one converter (R172): AIN0 and AIN1 when one of the pair is fenced. -/
def singleMask (s : State) : BitVec 4 :=
  BitVec.ofNat 4 ((List.range 2).foldl (fun a i =>
    if ((convsOf i).filter fun c => isFenced s (Unit.adc c)).length = 1 then a + 2 ^ i else a) 0)

/-- The running Raman converter of AIN2 (`i` 0) and AIN3 (`i` 1): the primary, or its standby once it is fenced. -/
def ramanConv (s : State) (i : Nat) : Nat := if isFenced s (Unit.adc (4 + 2 * i)) then 5 + 2 * i else 4 + 2 * i

/-- The pairs' items carry calibrating while a pair is under test (R174). -/
def fibTest (s : State) : Bool := (List.range 2).any fun i => (pairOf s i).testing

/-- End a calibration cycle of pair `i` as failed (R175). -/
def pairFailed (i : Nat) (s : State) : State :=
  let x := pairOf s i
  let f := x.fails + 1
  let s := setPair i { x with phase := .idle, fails := min f 3, last := 5 } s
  let s := bump Reg.FIB_CAL_FAIL_COUNT 1 (fault 162 Src.fib 0 .corrected i s)
  if f ≥ 3 then fault 163 Src.fib (2 * i + 1) .contained 0 s else s

/-- An attempt of pair `i` fails with `result` (R174). -/
def pairAttempt (i result : Nat) (s : State) : State :=
  let x := pairOf s i
  let x : PairCal := { x with last := result, attempt := x.attempt + 1, phase := .passA }
  if x.attempt < 4 then setPair i x s else pairFailed i (setPair i x s)

/-- The sums of an estimation block (R173): means, powers and correlations. -/
structure EstBlock where
  mE : Rat
  mO : Rat
  pE : Rat
  pO : Rat
  cA : Rat
  cB : Rat
  deriving DecidableEq, Repr

def sumQ (l : List Rat) : Rat := l.foldl (· + ·) 0

def meanOf (l : List Rat) : Rat := if l.isEmpty then 0 else sumQ l / (l.length : Nat)

def powerOf (l : List Rat) (m : Rat) : Rat := sumQ (l.map fun x => (x - m) * (x - m))

/-- The correlation of each odd sample with the next even one: the pair that follows, unless a sample between is excluded. -/
def crossNext (l : List (Nat × Rat × Rat)) : Rat :=
  match l with
  | a :: b :: r => (if b.1 = a.1 + 2 then a.2.2 * b.2.1 else 0) + crossNext (b :: r)
  | _ => 0

/-- The sums of a block in LSB. -/
def estBlock (blk : List (Nat × Int × Int)) : EstBlock :=
  let l : List (Nat × Rat × Rat) := blk.map fun p => (p.1, (p.2.1 : Rat) / 524288, (p.2.2 : Rat) / 524288)
  let e := l.map (·.2.1)
  let o := l.map (·.2.2)
  ⟨meanOf e, meanOf o, powerOf e (meanOf e), powerOf o (meanOf o), sumQ (l.map fun p => p.2.1 * p.2.2), crossNext l⟩

/-- The residuals g and s of R173; absent when their denominators are 0. -/
def EstBlock.gain (b : EstBlock) : Option Rat := if b.pE = 0 then none else some ((b.pO - b.pE) / b.pE)
def EstBlock.skew (b : EstBlock) : Option Rat := if b.pE + b.pO = 0 then none else some ((b.cA - b.cB) / (b.pE + b.pO))

/-- within_tol of R174. -/
def withinTol (s : State) (b : EstBlock) : Bool :=
  let tol (f : Fld) (d : Nat) : Rat := (rdf s f : Rat) / d
  decide (absQ b.mE ≤ tol Fld.FIB_CAL_TOL_tol_ofs 16) && decide (absQ b.mO ≤ tol Fld.FIB_CAL_TOL_tol_ofs 16)
    && b.gain.any (fun g => decide (absQ g ≤ tol Fld.FIB_CAL_TOL_tol_gain 65536))
    && b.skew.any (fun k => decide (absQ k ≤ tol Fld.FIB_CAL_TOL_tol_skew 65536))

/-- The skew step of R174; free without power in the block (DESIGN CHOICE, log entry 49). -/
def skewStep (s : State) (b : EstBlock) : Int :=
  match b.skew with
  | some k => clampI (-8) 8 (rround (-k * rdf s Fld.FIB_CAL_TOL_skew_gain / 65536))
  | none => (freeVal s % 17 : Nat) - 8

/-- The corrections of an attempt (R174); the rounding of offset and gain is open (DESIGN CHOICE, log entries 13 and 49). -/
def newCorr (s : State) (c : PairCorr) (b : EstBlock) : PairCorr :=
  { ofsE := satS 16 (quantOf s (c.ofsE - 16 * b.mE)), ofsO := satS 16 (quantOf s (c.ofsO - 16 * b.mO)),
    gain := clampI 0 65535 (quantOf s (c.gain * (1 - b.gain.getD (freeVal s % 65536 : Nat)))), skew := c.skew + skewStep s b }

/-- The number of sample pairs of an estimation block (R173). -/
def blockLen (s : State) : Nat := 2 ^ rdf s Fld.FIB_CAL_CFG_cal_log2

/-- A converter's values that fence it (R176): one value throughout, or a mean beyond 64 LSB. -/
def convBad (l : List Int) (m : Rat) : Bool := l.all (fun x => decide (some x = l.head?)) || decide (64 < absQ m)

/-- What a whole block decides in the cycle of pair `i` (R174). A block that ends before posted corrections apply is no estimate
of the cycle. -/
def cycleBlock (i : Nat) (b : EstBlock) (s : State) : State :=
  let x := pairOf s i
  if x.posted.isSome then s
  else match x.phase with
  | .idle => s
  | .passA =>
    let nw := newCorr s x.corr b
    let s := useFree s
    if nw.skew < -256 || 255 < nw.skew then pairAttempt i 3 s
    else setPair i { x with old := x.corr, next := nw, posted := some .underTest, phase := .passB } s
  | .passB => setPair i { x with bOk := withinTol s b, phase := .passC } s
  | .passC =>
    if x.bOk && withinTol s b then
      setPair i { x with phase := .idle, fails := 0, last := 1, posted := some .accept } s
    else pairAttempt i 2 (setPair i { x with posted := some .restore } s)

/-- ESTIMATION_BLOCK_DONE (R173 to R176): the block that the pair's samples fill decides the cycle in progress; a converter stuck
at one value or beyond 64 LSB is fenced whatever the cycle. The next block begins. -/
def onEstimationBlockDone (pair : Fin 2) (t : Tick) (s : State) : State :=
  let s := advance t s
  let i := pair.val
  let x := pairOf s i
  if !s.fib.active || decide (x.blk.length < blockLen s) then s
  else
    let b := estBlock x.blk
    let hit (c : Nat) (x : Bool) (s : State) : State :=
      if x && !isFenced s (Unit.adc c) then fault 163 Src.fib c .contained 0 s else s
    let s := hit (2 * i + 1) (convBad (x.blk.map (·.2.2)) b.mO) (hit (2 * i) (convBad (x.blk.map (·.2.1)) b.mE) s)
    cycleBlock i b (setPair i { x with blk := [], half := none } s)

/-- FIB_CAL_CYCLE_START (R175): a pair's cycle starts at the personality's first sweep and then cal_interval seconds
after the start of the one before; a pair with a fenced converter has none. -/
def onFibCalCycleStart (pair : Fin 2) (t : Tick) (s : State) : State :=
  let s := advance t s
  let x := pairOf s pair
  let due := match x.start with
    | none => true
    | some b => decide (b + rdf s Fld.FIB_CAL_CFG_cal_interval * 64000000000 ≤ t)
  if s.fib.active && decide (x.phase = .idle) && x.posted.isNone && due
      && (convsOf pair).all (fun c => !isFenced s (Unit.adc c)) then
    setPair pair { x with phase := .passA, attempt := 0, start := some t, blk := [], half := none } s
  else s

/-- A fence or graft of a converter abandons its pair's cycle (R175). -/
def pairAbandon (i : Nat) (s : State) : State :=
  let x := pairOf s i
  setPair i { x with phase := .idle, posted := none, testing := false, corr := if x.testing then x.old else x.corr } s

/-- A graft of a converter starts one cycle of its pair (R176). -/
def pairGraft (i : Nat) (t : Tick) (s : State) : State :=
  let s := pairAbandon i s
  setPair i { pairOf s i with phase := .passA, attempt := 0, start := some t, blk := [], half := none } s

/-- The posted corrections apply at a sweep boundary with their CAL items, argument the even converter (R174). -/
def applyPairs (s : State) : State :=
  (List.range 2).foldl (fun s i =>
    let x := pairOf s i
    match x.posted with
    | none => s
    | some a =>
      let c := match a with
        | .underTest => x.next
        | .accept => x.corr
        | .restore => x.old
      emitCtl Src.fib (fun n => decide (n ≤ 4)) s.fib.ctx 8 0 (2 * i)
        (setPair i { x with posted := none, testing := decide (a = .underTest), corr := c, blk := [], half := none } s)) s

/-! ### Samples (R171, R177, R196) -/

/-- Whether converter `c` is the unit under graft (R176). -/
def graftConv (s : State) (c : Nat) : Bool := s.fcl.graft.any fun g => decide (g.unit = Unit.adc c) && !g.passed

/-- Whether a converter serves the plan: the pairs with tones, the running Raman converters with dts_mode. -/
def convRuns (s : State) (c : Nat) : Bool :=
  s.fib.active && !isFenced s (Unit.adc c) && !fibrePartner s &&
    (if c < 4 then decide (fp s 0 8 4 ≠ 0) else decide (fp s 0 12 2 ≠ 0) && decide (c = s.fib.raman.getD ((c - 4) / 2) 4))

/-- The instant of a sample of converter `c` taken at tick `t`, in 0.8 ns of the TB grid (R171): the even converter and a
single-rate one sample 1.6 ns apart, on the TB edges whose index is a multiple of 8 among others, the odd one 0.8 ns later; none
when the converter takes no sample there. -/
def sampleAt (s : State) (c : Nat) (t : Tick) : Option Nat :=
  let u := ((t : Int) - s.tb.phi).toNat
  let j := (5 * u + 255) / 256
  if decide (256 * j / 5 = u) && decide (j % 2 = if c < 4 then c % 2 else 0) then some j else none

/-- The samples that span the positions of a Raman window (R195, R197). -/
def ramanLast (s : State) : Nat := ((fp s 4 0 16 * 10 + fp s 0x0C 16 16) * 5 + 7) / 8

/-- The place of a Raman sample at `t` in the open window: 4,096 at the window start, steps of 1.6 ns (R195). -/
def ramanIndex (s : State) (t : Tick) : Option Nat :=
  let m := (t - s.fib.dts.wStart) * 5 / 512
  if s.fib.dts.open_ && decide (s.fib.dts.wStart ≤ t) && decide (m < ramanLast s) then some (4096 + m) else none

/-- The Raman window that is open ends: its samples join the block, unless it holds a range-step sample (R196); a whole block
waits for the back (R197). -/
def ramanClose (s : State) : State :=
  let d := s.fib.dts
  let blank : DtsSt := { d with cur := {}, curBad := false, open_ := false }
  if !d.open_ || d.curBad then { s with fib := { s.fib with dts := blank } }
  else
    let add (a b : Tab Int) : Tab Int := b.foldl (fun t e => Tab.upd t e.1 0 fun v => satS 20 (v + e.2)) a
    let sum : RamanSum := ⟨add d.sum.as d.cur.as, add d.sum.st d.cur.st⟩
    let n := d.sweeps + 1
    if fp s 0x1C 0 9 ≤ n then
      { s with fib := { s.fib with dts := { blank with sum := {}, sweeps := 0, blocks := d.blocks ++ [(sum, gDefer s.fib.grant 2)] } } }
    else { s with fib := { s.fib with dts := { blank with sum := sum, sweeps := n } } }

/-- Whether the open Raman window has ended by tick `t`. -/
def ramanOver (s : State) (t : Tick) : Bool :=
  s.fib.dts.open_ && decide (s.fib.dts.wStart + 64 * (fp s 4 0 16 * 10 + fp s 0x0C 16 16) ≤ t)

/-- A Raman sample of input `i` (0 AIN2, 1 AIN3): inside the window it enters the sweep's samples, outside it is kept as
background of the window to come; a range-step sample spoils the sweep (R196). -/
def ramanSample (i : Nat) (v : Int) (step : Bool) (t : Tick) (s : State) : State :=
  let s := if ramanOver s t then ramanClose s else s
  let d := s.fib.dts
  match ramanIndex s t with
  | some m =>
    let c : RamanSum := if i = 0 then { d.cur with as := Tab.put d.cur.as m v } else { d.cur with st := Tab.put d.cur.st m v }
    { s with fib := { s.fib with dts := { d with cur := c, curBad := d.curBad || step } } }
  | none =>
    let n := fp s 0x24 0 13
    let keep (l : List (Int × Bool)) : List (Int × Bool) := ((v, step) :: l).take n
    { s with fib := { s.fib with dts := if i = 0 then { d with recA := keep d.recA } else { d with recS := keep d.recS } } }

/-- The Raman window opens at `b` with the background samples that end there (R195). -/
def ramanOpen (b : Tick) (s : State) : State :=
  let s := if s.fib.dts.open_ then ramanClose s else s
  let d := s.fib.dts
  let tab (l : List (Int × Bool)) : Tab Int := (l.reverse.zip (List.range l.length)).map fun p => (4096 - l.length + p.2, p.1.1)
  { s with fib := { s.fib with dts := { d with open_ := true, wStart := b, cur := ⟨tab d.recA, tab d.recS⟩,
                                               curBad := (d.recA ++ d.recS).any (·.2) } } }

/-- The first full-scale sample of a sweep after a sweep without one raises EVT 160. -/
def clipSample (i : Nat) (s : State) : State :=
  let x := ainOf s i
  let s := setAin i { x with clip := x.clip + 1 } s
  let s := stick Reg.FIB_STICKY 0 (bumpSat Reg.FIB_CLIP_COUNT 0 32 1 s)
  if s.fib.hadClip || s.fib.evClip then s else raise 160 { s with fib := { s.fib with evClip := true } }

/-- A sample of converter `c` after its corrections (R174) in 2^-19 LSB: the offset is subtracted, then the odd converter's gain
multiplies. -/
def corrected19 (s : State) (c : Nat) (v : Int) : Int :=
  let k := (pairOf s (c / 2)).corr
  if c % 2 = 0 then (16 * v - k.ofsE) * 32768 else (16 * v - k.ofsO) * k.gain

/-- The pair's estimation block takes a corrected sample (R173): an odd sample completes the pair of the even one before it;
excluded samples leave their pair out. -/
def estSample (c j : Nat) (excluded : Bool) (x : Int) (s : State) : State :=
  let i := c / 2
  let p := pairOf s i
  if excluded then setPair i { p with half := none } s
  else if c % 2 = 0 then setPair i { p with half := some (j, x) } s
  else match p.half with
    | some (k, e) =>
      setPair i { p with half := none,
                         blk := if k + 1 = j && decide (p.blk.length < blockLen s) then p.blk ++ [(k, e, x)] else p.blk } s
    | none => s

/-- The offset check of a single converter under graft takes a sample (R176). -/
def offsetSample (v : Int) (s : State) : State :=
  let g := s.fib.gAdc
  if g.n < blockLen s then
    { s with fib := { s.fib with gAdc := { n := g.n + 1, sum := g.sum + v, only := some (g.only.getD v),
                                           same := g.same && g.only.all fun x => decide (x = v) } } }
  else s

/-- The X6 queue word of a pair's sample: its corrected value in 1/16 LSB, whether it is excluded, and its instant. -/
def adcWord (v : Int) (bad : Bool) (j : Nat) : Word64 := BitVec.ofNat 64 (uval 18 v + 2 ^ 18 * b2n bad + 2 ^ 19 * (j % 2 ^ 45))

/-- The sample that a queue word holds. -/
def wordSample (now_ : Tick) (w : QWord) : AdcSample :=
  let j0 := bits w.data.toNat 19 45
  let top := now_ * 5 / 256
  ⟨top - (top + (2 ^ 45 - j0)) % 2 ^ 45, sval 18 (bits w.data.toNat 0 18), bitB w.data.toNat 18, w.fails⟩

/-- A pair's sample enters its X6 queue; when that is full the oldest word is lost, and its instant is noted
(R21, R187, R318). -/
def pushSample (c : Nat) (w : Word64) (s : State) : State :=
  let q := queueOf s 3 c
  let s := if q.words.length < qDepth s 3 then s else
    let s := stick Reg.FIB_STICKY 1 (bumpSat Reg.FIB_LOST 0 32 1 s)
    match q.words with
    | [] => s
    | o :: _ => { s with fib := { s.fib with lostJ := Tab.upd s.fib.lostJ c [] fun l => (wordSample (now s) o).j :: l } }
  pushRT 3 c w s

/-- A sample of converter `c` at instant `j` (R171, R173, R174, R177, R178): counted for the attenuator, corrected and entered into
its pair's estimation block and X6 queue, or into the Raman sums. After an attenuation change the clamp sample passes, then 65
samples are range-step samples. -/
def takeSample (c j : Nat) (v : Int) (t : Tick) (s : State) : State :=
  let i := c / 2
  let left := Tab.lookD s.fib.rangeLeft c 0
  let step := decide (left ≠ 0) && decide (left ≤ 65)
  let full := decide (v = -2048) || decide (v = 2047)
  let s := if left = 0 then s else { s with fib := { s.fib with rangeLeft := Tab.put s.fib.rangeLeft c (left - 1) } }
  let x := ainOf s i
  let s := setAin i { x with peak := max x.peak v.natAbs } s
  let s := if full then clipSample i s else s
  if c < 4 then
    let y := corrected19 s c v
    let q : Rat := (y : Rat) / 32768
    let w := adcWord (satS 18 (quantOf s q)) (step || full) j
    pushSample c w (quantUsed q (estSample c j (step || full) y s))
  else ramanSample (i - 2) v step t s

/-- A sample of a converter under graft: it serves the self-test alone (R176). -/
def graftSample (c j : Nat) (v : Int) (s : State) : State :=
  let full := decide (v = -2048) || decide (v = 2047)
  if c < 4 then estSample c j (full || decide (Tab.lookD s.fib.rangeLeft c 0 ≠ 0)) (corrected19 s c v) s
  else offsetSample v s

/-- The owner's packet of converter `c` leaves (R373). -/
def sendSamples (c : Nat) (s : State) : State :=
  match Tab.look s.fib.outgoing c with
  | none => s
  | some (a, f, l) =>
    let s := { s with fib := { s.fib with outgoing := Tab.del s.fib.outgoing c } }
    (samplePorts s [s.trl.addr]).foldl (fun s p => sendMsg p (.samples c a f l) s) s

/-- The owner's packets leave at a sweep boundary, which none spans (R373). -/
def flushSamples (s : State) : State := (List.range 8).foldl (fun s c => sendSamples c s) s

/-- The owner's sample of converter `c` joins its packet (R373): at most 2,720 samples under one attenuation. -/
def ownSample (c : Nat) (v : BitVec 12) (t : Tick) (s : State) : State :=
  let a := (ainOf s (c / 2)).att
  let s := if (Tab.look s.fib.outgoing c).any fun x => !decide (x.1 = a) then sendSamples c s else s
  let x := (Tab.look s.fib.outgoing c).getD (a, t, [])
  let s := { s with fib := { s.fib with outgoing := Tab.put s.fib.outgoing c (x.1, x.2.1, x.2.2 ++ [v]) } }
  if x.2.2.length + 1 = 2720 then sendSamples c s else s

/-- ADC_SAMPLE_WORD (R171): a running converter delivers the sample of its instant. -/
def onAdcSampleWord (conv : Fin 8) (v : BitVec 12) (t : Tick) (s : State) : State :=
  let s := advance t s
  match sampleAt s conv t with
  | none => s
  | some j =>
    if s.hkp.hardCut then s
    else if graftConv s conv && hasFibre s then graftSample conv j v.toInt s
    else if convRuns s conv then
      let s := takeSample conv j v.toInt t s
      if fibreOwner s then ownSample conv v t s else s
    else s

/-! ### Gates (R182, R195) -/

/-- The Raman gate of the plan, when dts_mode is 2. -/
def ramanGate (s : State) : Option Nat := if fp s 0 12 2 = 2 then some (fp s 0 16 3) else none

/-- The tick at which gate `g` opens, when it opens: a tone's gate in the sweep in progress, the Raman gate at the first of its
openings still to come, which may lie beyond the sweep that set it (R182, R195). -/
def gateOpening (s : State) (g : Nat) : Option Tick :=
  if !s.fib.active || s.fib.hold || s.esq.stopped || fibrePartner s then none
  else if g < fp s 0 8 4 then
    if bitB s.fib.fired g then some (s.fib.start + g * fp s 8 0 18 * 640) else none
  else if ramanGate s = some g then s.fib.dts.ramanDue.head? else none

/-- The width of gate `g` in ticks. -/
def gateWidth (s : State) (g : Nat) : Nat := if g < fp s 0 8 4 then 64 * fp s 0x0C 0 10 else 64 * fp s 0x20 20 10

/-- The gate that starts the Raman window (R195). -/
def ramanStart (s : State) : Option Nat := if fp s 0 12 2 = 1 then some 0 else ramanGate s

/-- The opening of a gate is done: the Raman gate's is taken off those to come. -/
def gateTaken (g : Nat) (s : State) : State :=
  if g < fp s 0 8 4 then s
  else { s with fib := { s.fib with dts := { s.fib.dts with ramanDue := s.fib.dts.ramanDue.drop 1 } } }

/-- AOMG_GATE_OPEN (R182, R195): the gate opens at its tick; the Raman window starts with its gate. -/
def onAomgGateOpen (gate : Fin 8) (t : Tick) (s : State) : State :=
  let s := advance t s
  match gateOpening s gate with
  | none => s
  | some b =>
    if b ≤ t && decide (t < b + gateWidth s gate) then
      let s := { s with fib := { s.fib with gates := s.fib.gates ||| BitVec.ofNat 8 (2 ^ gate.val),
                                            gateEnds := Tab.put s.fib.gateEnds gate (b + gateWidth s gate) } }
      let s := gateTaken gate s
      if ramanStart s = some gate.val then
        ramanOpen b s
      else s
    else if b + gateWidth s gate ≤ t then gateTaken gate s
    else s

/-- AOMG_GATE_CLOSE (R182): at the end of its width the gate's output is low again. -/
def onAomgGateClose (gate : Fin 8) (t : Tick) (s : State) : State :=
  let s := advance t s
  if (Tab.look s.fib.gateEnds gate).any fun e => decide (e ≤ t) then
    { s with fib := { s.fib with gates := s.fib.gates &&& ~~~BitVec.ofNat 8 (2 ^ gate.val),
                                 gateEnds := Tab.del s.fib.gateEnds gate } }
  else s

/-! ### Slots (R186 to R188) -/

def setInfo (n : Nat) (x : SweepInfo) (s : State) : State := { s with fib := { s.fib with infos := Tab.put s.fib.infos n x } }

/-- The table of positions of a plan run. -/
def posTab (s : State) (run : Nat) : Tab PosSt := if run = s.fib.run then s.fib.pos else s.fib.posOld

def setPosTab (run : Nat) (t : Tab PosSt) (s : State) : State :=
  if run = s.fib.run then { s with fib := { s.fib with pos := t } } else { s with fib := { s.fib with posOld := t } }

/-- The part of the samples about a position's instant that the channeliser sees, in 0.2 ns (DESIGN CHOICE, log entry 10). -/
abbrev chanSpan : Nat := 5000

/-- The time of a stored sample from an instant in ns, in 0.2 ns. -/
def relTime (a : AdcSample) (tNs : Nat) : Int := 4 * (a.j : Int) - 5 * tNs

/-- The instant t_p of position `p` of the slot of tone `n` in a sweep, in ns of the TB grid (R186 stage 2). -/
def posInstant (s : State) (x : SweepInfo) (n p : Nat) : Nat :=
  (((x.start : Int) - s.tb.phi).toNat / 64) + n * fpOf s x.plan 8 0 18 * 10 + fpOf s x.plan 0x0C 16 16 + 10 * p

/-- The tick after the last position of the slot of tone `n`. -/
def slotOver (s : State) (x : SweepInfo) (n : Nat) : Tick :=
  x.start + n * fpOf s x.plan 8 0 18 * 640 + 64 * (fpOf s x.plan 0x0C 16 16 + 10 * fpOf s x.plan 4 0 16)

/-- The stored samples of input `i`. -/
def inputSamples (s : State) (i : Nat) : List AdcSample :=
  (convsOf i).flatMap fun c => Tab.lookD s.fib.store c []

/-- The complex sample of tone `n` on input `i` at an instant, 16 bits a component (R186 stages 1 and 2). -/
def toneSample (s : State) (x : SweepInfo) (n i tNs : Nat) : Int × Int :=
  let f := fpOf s x.plan (0x30 + 4 * (n / 2)) (16 * (n % 2)) 16
  let ch := (f + 3125) / 6250
  let near := ((inputSamples s i).filter fun a => decide ((relTime a tNs).natAbs ≤ chanSpan)).map fun a => (relTime a tNs, a.v)
  let c := Config.channelise (s.fib.single.getLsbD i) ch ((f : Int) - 6250 * ch) (tNs % 8) near
  (sval 16 (uval 16 c.1), sval 16 (uval 16 c.2))

/-- What position `p` of a slot takes from the samples (R186, R187). -/
def posSample (s : State) (x : SweepInfo) (n p : Nat) : FibSample :=
  let tNs := posInstant s x n p
  let a := toneSample s x n 0 tNs
  let b := toneSample s x n 1 tNs
  let bad := (inputSamples s 0 ++ inputSamples s 1).any fun y => y.bad && decide ((relTime y tNs).natAbs ≤ 200)
  let lost := (List.range 4).any fun c => (Tab.lookD s.fib.lostJ c []).any fun j => decide ((4 * (j : Int) - 5 * tNs).natAbs ≤ 200)
  ⟨a.1, a.2, b.1, b.2, bad, lost⟩

/-- Free value `k` of position `i` of a slot (DESIGN CHOICE, log entry 3). -/
def posFree (s : State) (i k : Nat) : Nat := Config.freeNat (s.freeIdx + 8 * i + k)

/-- A value of 32 bits; past them it is free. -/
def phase32 (free : Nat) (y : Int) : Int := if y < -(2 ^ 31) || 2 ^ 31 - 1 < y then sval 32 free else y

/-- The combined phase and power of position `i`'s sample, and the phasor D after it (R186 stages 3 and 4); `D` keeps 32 bits a
component (DESIGN CHOICE, log entries 10 and 49). -/
def combine (s : State) (i shift : Nat) (noX noY : Bool) (d : Int × Int) (x : FibSample) : Nat × Nat × (Int × Int) :=
  let ax := if noX then 0 else ampOf x.xi x.xq (posFree s i 1)
  let ay := if noY then 0 else ampOf x.yi x.yq (posFree s i 2)
  let d' : Int × Int := if noX || noY then d else
    (phase32 (posFree s i 3) (d.1 + (x.xi * x.yi + x.xq * x.yq - d.1) / 2 ^ shift),
     phase32 (posFree s i 4) (d.2 + (x.xq * x.yi - x.xi * x.yq - d.2) / 2 ^ shift))
  let del := phaseOf d'.1 d'.2 (posFree s i 5)
  let u := phasorOf (phaseOf x.xi x.xq (posFree s i 1))
  let v := phasorOf (phaseOf x.yi x.yq (posFree s i 2) + del)
  let cx := (((ax * ax : Nat) : Int) * u.1 + ((ay * ay : Nat) : Int) * v.1) / 2 ^ 16
  let cy := (((ax * ax : Nat) : Int) * u.2 + ((ay * ay : Nat) : Int) * v.2) / 2 ^ 16
  (phaseOf cx cy (posFree s i 6), ax * ax + ay * ay, d')

/-- A slot of a position (R187): the state after it, the increment before saturation, and whether it was substituted. -/
def slotPos (fadeThr fadeShift offShift n ref free : Nat) (sub : Bool) (dphi w : Nat) (p : PosSt) : PosSt × Int × Bool :=
  let pb := p.pbar.getD n none
  let fade := decide (fadeThr ≠ 0) && pb.any fun (m : Int) => decide ((w : Int) * 256 < fadeThr * m)
  if sub || fade then
    if p.begun then
      let y := phase32 free (2 * p.y1 - p.y2)
      ({ p with y2 := p.y1, y1 := y }, y / 4 - p.y1 / 4, true)
    else (p, 0, true)
  else
    let q : PosSt := if p.begun then p else { p with y1 := sval 16 dphi, y2 := sval 16 dphi, begun := true }
    let pred := 2 * q.y1 - q.y2
    let o := q.off.getD n 0
    let r := sval 16 (uval 16 ((dphi : Int) - o - pred))
    let y := phase32 free (pred + r)
    let pb' : Int := match pb with
      | none => w
      | some m => m + ((w : Int) - m) / 2 ^ fadeShift
    ({ q with y2 := q.y1, y1 := y, off := if n = ref then q.off else q.off.set n (o + r / 2 ^ offShift),
              pbar := q.pbar.set n (some pb') }, y / 4 - q.y1 / 4, false)

/-- What one slot makes of its positions: the table, per position from g on the value and whether it was substituted, the powers,
and whether sample words were lost. -/
structure SlotRun where
  tab  : Tab PosSt
  vals : List (Nat × Int × Bool)
  pw   : List Nat
  lost : Bool
  deriving DecidableEq, Repr

/-- Process the positions of a slot (R186, R187) from the stored samples (DESIGN CHOICE, log entry 49). -/
def runSlot (s : State) (x : SweepInfo) (n : Nat) : SlotRun :=
  let p := x.plan
  let g := fpOf s p 4 16 5
  let npos := fpOf s p 4 0 16
  let noX := x.noX.getLsbD n
  let noY := x.noY.getLsbD n
  let unfired := !bitB x.fired n
  let tab := posTab s x.run
  let xs : Array FibSample := ((List.range npos).map (posSample s x n)).toArray
  let at_ (i : Nat) : FibSample := xs.getD i ⟨0, 0, 0, 0, true, false⟩
  let dOf (i : Nat) : Int × Int := (Tab.lookD tab i {}).d.getD n (0, 0)
  let cs : Array (Nat × Nat × (Int × Int)) :=
    ((List.range npos).map fun i => combine s i (fpOf s p 0x18 0 4) noX noY (dOf i) (at_ i)).toArray
  let ph (i : Nat) : Nat := (cs.getD i (0, 0, (0, 0))).1
  let pw (i : Nat) : Nat := (cs.getD i (0, 0, (0, 0))).2.1
  let one (i : Nat) : PosSt × Nat × Int × Bool :=
    let st := Tab.lookD tab i {}
    let st : PosSt := { st with d := st.d.set n (cs.getD i (0, 0, (0, 0))).2.2 }
    if i < g then (st, i, 0, true)
    else
      let sub := unfired || (noX && noY) || (at_ i).bad || (at_ (i - g)).bad || (at_ i).lost || (at_ (i - g)).lost
      let r := slotPos (fpOf s p 0x18 16 8) (fpOf s p 0x18 24 4) (fpOf s p 0x18 8 4) n (refTone s) (posFree s i 0) sub
        ((ph i + 65536 - ph (i - g)) % 65536) (pw i) st
      (r.1, i, r.2.1, r.2.2)
  let l := (List.range npos).map one
  { tab := l.map fun e => (e.2.1, e.1), vals := (l.drop g).map (·.2), pw := (List.range npos).map pw,
    lost := xs.any (·.lost) }

/-- The stream-0 item of a slot (R188), which is the next input of the FDC's DAS channels (R209). -/
def slotItem (x : SweepInfo) (n : Nat) (vals : List (Nat × Int × Bool)) (g : Nat) (lost bad : Bool) (s : State) : State :=
  let h := n + 8 * b2n (bitB x.fired n) + 16 * g + 2 ^ 20 * vals.length + 2 ^ 36 * x.plan
  let vs := vals.map fun e => clampI (-32767) 32767 e.2.1
  let ws := (List.range ((vs.length + 3) / 4)).map fun i =>
    sumN ((List.range 4).map fun j => uval 16 (vs.getD (4 * i + j) 0) * 2 ^ (16 * j))
  let s := if lost then loseBefore Src.fib 0 s else s
  let s := emitX Src.fib 0 x.ctx (64 * b2n x.test + 4 * b2n bad) ((h :: ws).map (BitVec.ofNat 64)) s
  if x.run = s.fib.run then fdcFeedDas g vs s else s

/-- The zones take a slot (R191). -/
def zoneSlot (x : SweepInfo) (vals : List (Nat × Int × Bool)) (s : State) : State :=
  if nZones s = 0 || zoneSweeps s = 0 then s
  else
    let iv := x.k / zoneSweeps s
    let key := x.run * 2 ^ 32 + iv
    let a := Tab.lookD s.fib.zones key {}
    let add (a : ZoneAcc) (z : Nat) : ZoneAcc :=
      let mine := vals.filter fun e => decide (zoneLo s z ≤ e.1) && decide (e.1 ≤ zoneHi s z)
      let e := sumN ((mine.filter fun e => !e.2.2).map fun e => (clampI (-32767) 32767 e.2.1).natAbs ^ 2)
      let n := (mine.filter fun e => e.2.2).length
      { a with sums := Tab.upd a.sums z 0 (· + e), subst := Tab.upd a.subst z 0 (· + n) }
    let a := (List.range (nZones s)).foldl add { a with slots := a.slots + 1, ctx := x.ctx, plan := x.plan, run := x.run, iv := iv,
                                                        test := a.test || x.test, endAt := max a.endAt (x.start + sweepTicksOf s x.plan) }
    if x.run = s.fib.run || (Tab.look s.fib.zones key).isSome then
      { s with fib := { s.fib with zones := Tab.put s.fib.zones key a } }
    else s

/-- The end trace takes an unsubstituted slot (R193): the mean power of each 16-position block over its unsubstituted
positions, the last 256 kept. -/
def traceSlot (n : Nat) (run : SlotRun) (s : State) : State :=
  let nb := (run.pw.length + 15) / 16
  { s with fib := { s.fib with trace := (List.range nb).foldl (fun t b =>
      let ok := (run.vals.filter fun e => decide (e.1 / 16 = b) && !e.2.2).map (·.1)
      if ok.isEmpty then t
      else
        let m : Rat := (sumN (ok.map fun i => run.pw.getD i 0) : Rat) / ok.length
        Tab.upd t (4096 * n + b) [] fun l => (l ++ [m]).drop ((l.length + 1) - 256)) s.fib.trace } }

/-- Pack the quality counts, two per byte (R189). -/
def qualityWords (l : List Nat) : List Nat :=
  (List.range ((l.length + 15) / 16)).map fun i => sumN ((List.range 16).map fun j => l.getD (16 * i + j) 0 * 16 ^ j)

/-- The quality item of a sweep whose end has passed and whose slots are all done (R189); its info is then dropped. -/
def qualityItem (n : Nat) (s : State) : State :=
  match Tab.look s.fib.infos n with
  | none => s
  | some x =>
    let tones := fpOf s x.plan 0 8 4
    if x.closed && decide (x.done = Nat.land (2 ^ tones - 1) (toneMask s)) then
      let g := fpOf s x.plan 4 16 5
      let s := { s with fib := { s.fib with infos := Tab.del s.fib.infos n } }
      if tones = 0 then s
      else emitX Src.fib 1 x.ctx (64 * b2n x.test) ((qualityWords ((List.range (slotCount s x.plan)).map fun i =>
        Tab.lookD x.subst (g + i) 0)).map (BitVec.ofNat 64)) s
    else s

/-- The mean power of the samples at the positions from `g` on. -/
def meanPower (run : SlotRun) (g : Nat) : Rat :=
  let l := run.pw.drop g
  if l.isEmpty then 0 else (sumN l : Rat) / l.length

/-- Noise in a dark sweep (R192) and survey powers (R185) of the plan in force. -/
def noiseSlot (x : SweepInfo) (n : Nat) (run : SlotRun) (g : Nat) (s : State) : State :=
  let s := if x.run ≠ s.fib.run then s else if x.dark then { s with fib := { s.fib with noise := Tab.put s.fib.noise n (meanPower run 0) } } else s
  if decide (fpOf s x.plan 0 5 1 = 1) && !x.dark && decide (x.run = s.fib.run) then
    match (List.range 8).find? fun m => decide (x.fired = 2 ^ m) with
    | some m => { s with fib := { s.fib with survey := Tab.put s.fib.survey (8 * m + n) (meanPower run g),
                                             surveyTest := s.fib.surveyTest || x.test } }
    | none => s
  else s

/-- The back takes the sample words of the pairs' queues (R21 X6). -/
def takeWords (s : State) : State :=
  (List.range 4).foldl (fun s c =>
    let l := ((queueOf s 3 c).words.map (wordSample (now s))).reverse
    takeAll 3 c { s with fib := { s.fib with store := Tab.upd s.fib.store c [] (l ++ ·) } }) s

/-- The samples that no slot still to be processed can need are dropped. -/
def dropSamples (s : State) : State :=
  let first := s.fib.infos.foldl (fun a e => min a e.2.start) s.fib.start
  let ns := ((first : Int) - s.tb.phi).toNat / 64
  let keep (j : Nat) : Bool := decide (5 * ns ≤ 4 * j + chanSpan)
  { s with fib := { s.fib with store := s.fib.store.map fun e => (e.1, e.2.filter fun a => keep a.j),
                               lostJ := s.fib.lostJ.map fun e => (e.1, e.2.filter keep) } }

/-- SLOT_PROCESS (R186 to R193): once its last position has been sampled the back processes a tone's slot of the sweep in which
its gate opened, from the stored samples. -/
def onSlotProcess (tone : Fin 8) (sweep : BitVec 24) (s : State) : State :=
  let n := tone.val
  let f := liftFrame s.fib.ctx sweep.toNat
  match Tab.look s.fib.infos f with
  | none => s
  | some x =>
    if decide (fpOf s x.plan 0 8 4 ≤ n) || bitB x.done n || !bitB (toneMask s) n || decide (now s < slotOver s x n) then s
    else
      let s := takeWords s
      let g := fpOf s x.plan 4 16 5
      let run := runSlot s x n
      let bad := (List.range 4).any fun c => (Tab.lookD s.fib.store c []).any (·.par)
      let s := setPosTab x.run run.tab { s with freeIdx := s.freeIdx + 8 * run.tab.length }
      let subs := run.vals.filter (·.2.2)
      let sats := (run.vals.filter fun e => decide (32767 < e.2.1.natAbs)).length
      let x : SweepInfo := { x with done := x.done + 2 ^ n,
                                    subst := subs.foldl (fun t e => Tab.upd t e.1 0 (· + 1)) x.subst }
      let s := bumpSat Reg.FIB_SAT 0 32 sats (bumpSat Reg.FIB_SUBST 0 32 subs.length (setInfo f x s))
      let s := noiseSlot x n run g (zoneSlot x run.vals s)
      let s := if bitB x.fired n && decide (x.run = s.fib.run) then traceSlot n run s else s
      let s := slotItem x n run.vals g run.lost bad { s with fdc := { s.fdc with ctx := x.ctx } }
      dropSamples (qualityItem f s)

/-! ### Zones (R191) -/

/-- The word of zone `z` (R191). -/
def zoneWord (s : State) (a : ZoneAcc) (z : Nat) : Nat :=
  match fibZones s with
  | none => 0
  | some r =>
    let e := min (2 ^ 32 - 1) (Tab.lookD a.sums z 0 / 2 ^ rf r 4 0 6)
    let sub := Tab.lookD a.subst z 0
    let lo := zoneLo s z
    let hi := zoneHi s z
    let slots := (hi + 1 - lo) * a.slots
    let unob := decide (lo < fpOf s a.plan 4 16 5) || decide (fpOf s a.plan 4 0 16 ≤ hi)
      || (decide (a.run = s.fib.run) && s.fib.endPos.any (fun p => decide (p < hi)))
      || decide (rf r 4 8 7 * slots < 100 * sub)
    e + 2 ^ 32 * min 65535 sub + 2 ^ 48 * b2n (decide (zoneThr s z ≤ e)) + 2 ^ 49 * b2n unob + 2 ^ 50

/-- The slots of a whole zone interval of plan `p`. -/
def zoneSlots (s : State) (p : Nat) : Nat :=
  zoneSweeps s * ((List.range 8).filter (bitB (Nat.land (2 ^ fpOf s p 0 8 4 - 1) (toneMask s)))).length

/-- ZONE_INTERVAL_END (R191): the oldest interval whose slots are all processed is emitted on stream 2; its words go to the
Cloche through X12. -/
def onZoneIntervalEnd (s : State) : State :=
  match s.fib.zones with
  | [] => s
  | (_, a) :: rest =>
    if zoneSlots s a.plan = 0 || a.slots < zoneSlots s a.plan then s
    else
      let ws := (List.range (nZones s)).map (zoneWord s a)
      let exc := (List.range (nZones s)).foldl (fun m z => if bitB (ws.getD z 0) 48 then m + 2 ^ z else m) 0
      let s := (List.range (nZones s)).foldl (fun s z =>
        if bitB exc z && !s.fib.exceeding.getLsbD z then raise 172 s else s) s
      let s := { s with fib := { s.fib with zones := rest, zoneWords := ws, exceeding := BitVec.ofNat 64 exc } }
      let s := x12PostDue .zone a.ctx.frame (ws.map (BitVec.ofNat 64)) (a.endAt + zoneSweeps s * sweepTicksOf s a.plan) s
      taeZones (a.ctx.frame % 2 ^ 24) ws (emitX Src.fib 2 a.ctx (64 * b2n a.test) (ws.map (BitVec.ofNat 64)) s)

/-- At a change of plan the intervals whose sweeps are all over stay until their slots are processed; `k` is the number of the
ended sweep in the old plan's run. -/
def zonesKept (s : State) : Tab ZoneAcc :=
  s.fib.zones.filter fun e => decide ((e.2.iv + 1) * zoneSweeps s ≤ s.fib.k + 1) || decide (e.2.run ≠ s.fib.run)

/-! ### Fibre end (R193, R194) -/

/-- The trace of a block of a tone exceeds the threshold (R193). -/
def traceHigh (s : State) (endK n b : Nat) : Bool :=
  match Tab.look s.fib.trace (4096 * n + b), Tab.look s.fib.noise n with
  | some l, some q => !l.isEmpty && decide ((endK : Rat) / 16 * q < l.foldl (· + ·) 0 / l.length)
  | _, _ => false

/-- The tones the grant in force lets fire (R183). -/
def allowedTones (s : State) : Nat :=
  let nt := fp s 0 8 4
  let tg := min nt (gTones s.fib.grant)
  if nt = 0 || tg = 0 then 0 else (List.range nt).foldl (fun a n => if n % (nt / tg) = 0 then a + 2 ^ n else a) 0

/-- The last block that exceeds for every fired tone. -/
def lastBlock (s : State) (endK : Nat) : Option Nat :=
  let m := Nat.land (allowedTones s) (toneMask s)
  ((List.range ((fp s 4 0 16 + 15) / 16)).filter fun b =>
    (List.range 8).all fun n => !bitB m n || traceHigh s endK n b).getLast?

/-- The length of R193 in 0.1 m; the rounding of a half is open. -/
def fibreLength (s : State) (pEnd : Nat) : Nat :=
  match fibConst s with
  | none => 0
  | some r =>
    let ng : Rat := (rf r 0 0 18 : Rat) / 100000
    let perNs : Rat := 299792458 / (2 * ng) / 1000000000
    let m := ((pEnd + 1) * 10 : Rat) * perNs - (fp s 0x0C 16 16 : Rat) * perNs
    (rround (m * 10)).toNat

/-- END_EVALUATION (R193, R194): every 256 sweeps the fibre end is found and judged against the reference. -/
def onEndEvaluation (s : State) : State :=
  let endK := (fibConst s).elim 0 fun r => rf r 0x18 0 8
  let tol := (fibConst s).elim 0 fun r => rf r 0x18 8 16
  if !s.fib.evalDue || endK = 0 then s
  else
    let s := { s with fib := { s.fib with evalDue := false } }
    let nb := (fp s 4 0 16 + 15) / 16
    let b := lastBlock s endK
    let pEnd := b.elim 0 fun b => min (16 * b + 15) (fp s 4 0 16 - 1)
    let ref := s.fib.endRef.getD pEnd
    let short := decide (tol ≠ 0) && decide (pEnd + tol < ref)
    let beyond := decide (b = some (nb - 1))
    let s := if short then stick Reg.FIB_STICKY 3 (raise 168 s) else s
    let s := if beyond && !s.fib.beyondEv then raise 169 { s with fib := { s.fib with beyondEv := true } } else s
    { s with fib := { s.fib with endPos := some pEnd, endRef := some ref, short := short, beyond := beyond,
                                 length := fibreLength s pEnd } }

/-! ### Survey (R185) -/

/-- 100 times the decibels of a power ratio. -/
def centiBel (q : Rat) : Rat := 1000 * (lnQ q / lnQ 10)

/-- FIB_SURVEY_DONE (R185): once each fired tone has had its sweep the survey item is emitted; a power of 0 gives a free
entry (DESIGN CHOICE, log entries 13 and 49). -/
def onFibSurveyDone (s : State) : State :=
  let tones := (List.range 8).filter fun n => bitB (allowedTones s) n
  let have_ := tones.all fun m => tones.all fun n => (Tab.look s.fib.survey (8 * m + n)).isSome
  if fp s 0 5 1 = 0 || tones.isEmpty || !have_ then s
  else
    let row (m : Nat) : List Nat := (m :: tones.filter fun n => !decide (n = m)).map fun n => 8 * m + n
    let entry (k : Nat) : Int :=
      let a := Tab.lookD s.fib.survey k 0
      let b := Tab.lookD s.fib.survey (9 * (k / 8)) 0
      if a ≤ 0 || b ≤ 0 then sval 16 (freeVal s) else satS 16 (quantOf s (centiBel (a / b)))
    let es := (tones.flatMap row).map entry
    let ws := (List.range ((es.length + 3) / 4)).map fun i =>
      sumN ((List.range 4).map fun j => uval 16 (es.getD (4 * i + j) 0) * 2 ^ (16 * j))
    raise 173 (emitX Src.fib 4 s.fib.ctx (64 * b2n s.fib.surveyTest) (ws.map (BitVec.ofNat 64))
      (useFree { s with fib := { s.fib with survey := [], surveyTest := false } }))

/-! ### The temperature profile (R195 to R199) -/

/-- 25 times the background mean of a block's samples (R197). -/
def background (s : State) (t : Tab Int) : Rat :=
  let n := fp s 0x24 0 13
  if n = 0 then 0 else 25 * (sumI ((List.range n).map fun i => Tab.lookD t (4096 - n + i) 0) : Rat) / n

/-- Q(p) of R197 before the background: weights in 0.4 ns. -/
def posSum (s : State) (t : Tab Int) (p : Nat) : Int :=
  let a := fp s 0x0C 16 16 * 5 / 2 + 25 * p
  sumI ((List.range 8).map fun j =>
    let m := a / 4 + j
    let w := min (4 * m + 4) (a + 25) - max (4 * m) a
    (w : Int) * Tab.lookD t (4096 + m) 0)

/-- The next block that waits joins the profile (R196, R197), unless the grant deferred it; after dts_blocks blocks the profile is
due. -/
def blockJoin (s : State) : State :=
  let d := s.fib.dts
  match d.blocks with
  | [] => s
  | (b, defer) :: rest =>
    let sh := fp s 0x1C 12 4
    let cut (t : Tab Int) : Tab Int := t.map fun e => (e.1, satS 16 (e.2 / 2 ^ sh))
    let a := cut b.as
    let c := cut b.st
    let bgA := quantOf s (background s a)
    let bgS := quantOf s (background s c)
    let npos := fp s 4 0 16
    let addTo (t : Tab Int) (x : Tab Int) (bg : Int) : Tab Int :=
      (List.range npos).map fun p => (p, Tab.lookD t p 0 + posSum s x p - bg)
    let d : DtsSt := { d with blocks := rest, counted := d.counted + 1, plan := s.fib.plan.getD 0,
                              added := if defer then d.added else d.added + 1,
                              as := if defer then d.as else addTo d.as a bgA, st := if defer then d.st else addTo d.st c bgS }
    let d : DtsSt := { d with due := d.due || decide (fp s 0x1C 16 16 ≤ d.counted) }
    useFree { s with fib := { s.fib with dts := d } }

/-- DTS_BLOCK_DONE (R196, R197): the block reaches the back; while a profile is due it waits, for it belongs to the next one. -/
def onDtsBlockDone (s : State) : State := if s.fib.dts.due then s else blockJoin s

/-- The reading of aux channel `n` in kelvin from its 1/8,192 °C. -/
def auxKelvin (sum : Int) (n : Nat) : Rat := f64 ((sum : Rat) / (8192 * (max n 1 : Nat)) + 27315 / 100)

/-- A sum over the positions `a … b`. -/
def overPos (t : Tab Int) (a b : Nat) : Int := sumI ((List.range (b + 1 - a)).map fun i => Tab.lookD t (a + i) 0)

/-- The temperature of position `p` (R198) in kelvin, absent where R198 gives no temperature: IEEE binary64 in the order written,
with a correctly rounded ln. -/
def dtsTemp (as st : Tab Int) (tr rr pr kappa gamma : Rat) (p : Nat) : Option Rat :=
  let a := Tab.lookD as p 0
  let b := Tab.lookD st p 0
  if a ≤ 0 || b ≤ 0 || rr ≤ 0 || tr ≤ 0 then none
  else
    let r := f64 (f64 a / f64 b)
    let l := f64 (lnQ (f64 (r / rr)))
    let u := f64 (f64 (l + f64 (kappa * f64 ((p : Rat) - pr))) / gamma)
    let q := f64 (f64 (1 / tr) - u)
    if q ≤ 0 then none else some (f64 (1 / q))

/-- The value delivered for a temperature: 0.01 °C rounded half away from zero, or -32,768. -/
def dtsCode (t : Option Rat) : Int :=
  match t with
  | none => -32768
  | some k =>
    let c := rround (f64 (k - f64 (27315 / 100)) * 100)
    if c < -27315 || 32767 < c then -32768 else c

/-- κ from the second reference section (R198). -/
def kappaSecond (gamma tr ts rs rr ps pr : Rat) : Option Rat :=
  if rs ≤ 0 || rr ≤ 0 || ts ≤ 0 || tr ≤ 0 || ps = pr then none
  else some (f64 (f64 (f64 (f64 (gamma / tr) - f64 (gamma / ts)) - f64 (lnQ (f64 (rs / rr)))) / f64 (ps - pr)))

/-- The sums of a reference section and R over it. -/
def sectionR (as st : Tab Int) (a b : Nat) : Rat :=
  let y := overPos st a b
  if y ≤ 0 then 0 else f64 (f64 (overPos as a b) / f64 y)

/-- FIB_DTS_PROFILE (R198, R199): a profile whose blocks are in, or that ended early, is computed and emitted on stream 3. -/
def onFibDtsProfile (s : State) : State :=
  let d := s.fib.dts
  match fibConst s with
  | none => s
  | some r =>
    if !d.due then s
    else
      let npos := fpOf s d.plan 4 0 16
      let second := decide (rf r 0x14 8 8 ≠ 0xFF)
      let refBad := d.refBad || decide (d.refN = 0)
      let tr := auxKelvin d.refSum d.refN
      let ts := auxKelvin d.ref2Sum d.refN
      let gamma : Rat := f64 ((rf r 4 0 16 : Rat) / 100)
      let r1 := rf r 0x0C 0 16
      let r2 := rf r 0x0C 16 16
      let s1 := rf r 0x10 0 16
      let s2 := rf r 0x10 16 16
      let pr : Rat := ((r1 + r2 : Nat) : Rat) / 2
      let ps : Rat := ((s1 + s2 : Nat) : Rat) / 2
      let rr := sectionR d.as d.st r1 r2
      let rs := sectionR d.as d.st s1 s2
      let kRec : Rat := f64 ((sval 32 (leAt r.body 8 4) : Rat) / 1000000000)
      let kTwo := if second && !refBad then kappaSecond gamma tr ts rs rr ps pr else none
      let kNew := kTwo.getD kRec
      let vals := (List.range npos).map fun p =>
        if refBad || decide (d.added = 0) then (-32768 : Int) else dtsCode (dtsTemp d.as d.st tr rr pr kNew gamma p)
      let tRef := if refBad then uval 16 (-32768) else uval 16 (satS 16 (rround ((tr - 27315 / 100) * 100)))
      let h := d.added % 65536 + 2 ^ 16 * b2n d.partial_ + 2 ^ 17 * b2n kTwo.isSome + 2 ^ 32 * tRef
      let ws := (List.range ((npos + 3) / 4)).map fun i =>
        sumN ((List.range 4).map fun j => uval 16 (vals.getD (4 * i + j) 0) * 2 ^ (16 * j))
      let kReg := if refBad then d.kappa else sval 32 (uval 32 (rround (kNew * 1000000000)))
      let d' : DtsSt := { d with as := [], st := [], added := 0, counted := 0, due := false, partial_ := false, refSum := 0,
                                 ref2Sum := 0, refN := 0, refBad := false, kappa := kReg }
      let s := if refBad then stick Reg.FIB_STICKY 4 (fault 171 Src.fib 0 .corrected 0 s) else s
      raise 170 (emit Src.fib 3 s.fib.ctx (h :: ws) { s with fib := { s.fib with dts := d' } })

/-- The profile in progress ends early (R197): one that is due goes out first, whole blocks that wait still join, and one whose
blocks are all in is complete. -/
def dtsEarly (s : State) : State :=
  let s := onFibDtsProfile s
  let s := (List.range s.fib.dts.blocks.length).foldl (fun s _ => blockJoin s) s
  let d := s.fib.dts
  if fp s 0 12 2 = 0 || (decide (d.counted = 0) && decide (d.sweeps = 0)) then s
  else
    let d : DtsSt := { d with sum := {}, sweeps := 0, cur := {}, curBad := false, open_ := false }
    { s with fib := { s.fib with dts :=
      if d.due then d else { d with due := true, partial_ := true, plan := s.fib.plan.getD 0 } } }

/-- A housekeeping round delivers the reference RTDs' readings (R198, R341). -/
def dtsRound (s : State) : State :=
  match fibConst s with
  | none => s
  | some r =>
    if fp s 0 12 2 = 0 then s
    else
      let a1 := Tab.lookD s.hkp.aux (rf r 0x14 0 3) {}
      let two := decide (rf r 0x14 8 8 ≠ 0xFF)
      let a2 := Tab.lookD s.hkp.aux (rf r 0x14 8 8) {}
      let bad := a1.invalid || a1.value.isNone || (two && (a2.invalid || a2.value.isNone))
      let d := s.fib.dts
      let d' : DtsSt := if bad then { d with refBad := true } else
        { d with refSum := d.refSum + a1.value.getD 0, ref2Sum := d.ref2Sum + a2.value.getD 0, refN := d.refN + 1 }
      { s with fib := { s.fib with dts := d' } }

/-! ### ADC_TRIG (R179, R180) -/

/-- The first TB edge with an even index at or after `x`. -/
def evenEdge (s : State) (x : Nat) : Tick :=
  let y := x + (((s.tb.phi - (x : Int)) % 128 + 128) % 128).toNat
  y

/-- trig_tol in ticks. -/
def trigTol (s : State) : Nat := sweepTicks s * fp s 0x10 16 8 / 1000

/-- ADC_TRIG_EDGE (R68, R179, R180): the edge, stamped through the line of SVC0, sets the next boundary, or is ignored. -/
def onAdcTrigEdge (tap : Fin 97) (tap2 : Option (Fin 97)) (edge : Tick) (s : State) : State :=
  let s := advance edge s
  let st := stampOf s (512 + s.tsu.lineOf.getD 16 0) edge tap
  if svcDead s 16 st then s else
  let s := svcMark 16 st s
  let s := match s.tsu.overlap, tap2 with
    | some o, some t2 =>
      if o.chan = 16 then
        let st2 := stampOf s (512 + o.line) edge t2
        { s with tsu := { s.tsu with overlap := some { o with agree := o.agree && decide (st ≤ st2 + 2) && decide (st2 ≤ st + 2) } } }
      else s
    | _, _ => s
  if fp s 0 4 1 = 0 || !hasFibre s then s
  else
    let b := evenEdge s (st + 64 * fp s 0x10 0 16)
    if !s.fib.active then { s with fib := { s.fib with nextB := some (b, false) } }
    else if s.fib.nextB.isSome then bump Reg.FIB_TRIG_SPUR 1 s
    else if b + trigTol s < s.fib.start + sweepTicks s then bump Reg.FIB_TRIG_SPUR 1 s
    else if b ≤ s.fib.start + sweepTicks s + trigTol s then { s with fib := { s.fib with nextB := some (b, false), misses := 0 } }
    else s

/-- FIB_TRIG_MISSING (R180): the boundary is predicted, and after too many in a row the gates are held. -/
def onFibTrigMissing (t : Tick) (s : State) : State :=
  let s := advance t s
  if fp s 0 4 1 = 1 && s.fib.active && s.fib.nextB.isNone && decide (s.fib.start + sweepTicks s + trigTol s ≤ t) then
    let m := s.fib.misses + 1
    let b := evenEdge s (s.fib.start + sweepTicks s)
    let s := stick Reg.FIB_STICKY 2 (raise 165 (bump Reg.FIB_TRIG_MISS 1
      { s with fib := { s.fib with nextB := some (b, true), misses := m } }))
    if decide (fp s 0x10 24 3 < m) && !s.fib.hold then
      fault 166 Src.fib 0 .corrected 0 { s with fib := { s.fib with hold := true } }
    else s
  else s

/-! ### Shared fibre (R373) -/

/-- SAMPLES (R373): passed on where a partner lies beyond; a partner enters the owner's words into its own queues, and an
attenuation that differs from the previous packet's marks range-step samples. -/
def onSamples (conv : Fin 8) (att : BitVec 2) (first : Tick) (vals : List (BitVec 12)) (s : State) : State :=
  let others := (owners s).filter fun o => !decide (o = s.trl.addr)
  let s := (samplePorts s others).foldl (fun s p => sendMsg p (.samples conv att.toNat first vals) s) s
  if !fibrePartner s then s
  else
  let was := Tab.look s.fib.partnerAtt conv
  let s := { s with fib := { s.fib with partnerAtt := Tab.put s.fib.partnerAtt conv att.toNat } }
  let s := if was.any fun a => !decide (a = att.toNat) then
      { s with fib := { s.fib with rangeLeft := Tab.put s.fib.rangeLeft conv 66 } } else s
  match sampleAt s conv first with
  | none => s
  | some j => (vals.zip (List.range vals.length)).foldl (fun s p =>
      takeSample conv (j + 2 * p.2) p.1.toInt (((256 * (j + 2 * p.2) / 5 : Nat) : Int) + s.tb.phi).toNat s) s

/-- The FIB registers (R207). -/
def fibView (s : State) (off : Nat) : Option Nat :=
  let z := rdf s Fld.FIB_ZONE_SEL_zone
  let w := s.fib.zoneWords.getD z 0
  if off = Reg.FIB_STATUS then
    some (b2n s.fib.active + 2 * b2n s.fib.hold + 4 * b2n s.fib.predicted + 8 * b2n s.fib.dark + 256 * s.fib.single.toNat)
  else if off = Reg.FIB_PLAN_STAT then
    some (s.fib.plan.getD 0 + 16 * fp s 0 8 4 + 256 * s.fib.fired + 2 ^ 16 * fp s 0 12 2)
  else if off = Reg.FIB_SWEEP then some (s.fib.ctx.frame % 2 ^ 24)
  else if off = Reg.FIB_SWEEP_PERIOD then some (sweepTicks s / 640)
  else if off = Reg.FIB_ATT then some (sumN ((List.range 4).map fun i => (ainOf s i).att * 4 ^ i))
  else if off = Reg.FIB_END then
    some (s.fib.endPos.getD 0 + 2 ^ 16 * b2n s.fib.endPos.isSome + 2 ^ 17 * b2n s.fib.beyond + 2 ^ 18 * b2n s.fib.short)
  else if off = Reg.FIB_LENGTH then some s.fib.length
  else if off = Reg.FIB_CONV_FENCED then some (bits s.fcl.fenced.toNat 0x40 8)
  else if off = Reg.FIB_DTS_STAT then
    some (s.fib.dts.added + 2 ^ 16 * b2n (gDefer s.fib.grant 2) + 2 ^ 17 * b2n ((fibConst s).any fun r => decide (rf r 0x14 8 8 ≠ 0xFF)))
  else if off = Reg.FIB_DTS_KAPPA then some (uval 32 s.fib.dts.kappa)
  else if off = Reg.FIB_ZONE_RANGE then some (zoneLo s z + 2 ^ 16 * zoneHi s z)
  else if off = Reg.FIB_ZONE_THR then some (zoneThr s z)
  else if off = Reg.FIB_ZONE_ENERGY then some (w % 2 ^ 32)
  else if off = Reg.FIB_ZONE_WORD then some (bits w 32 19)
  else if off = Reg.FIB_ZONE_EXC_LO then some (s.fib.exceeding.toNat % 2 ^ 32)
  else if off = Reg.FIB_ZONE_EXC_HI then some (s.fib.exceeding.toNat / 2 ^ 32)
  else match (List.range 8).find? fun i => decide (off = Reg.FIB_ADC_OFS i) with
    | some c => some (uval 16 (if c % 2 = 0 then (pairOf s (c / 2)).corr.ofsE else (pairOf s (c / 2)).corr.ofsO))
    | none => (List.range 2).findSome? fun i =>
      let x := pairOf s i
      if off = Reg.FIB_PAIR_GAIN i then some (uval 16 x.corr.gain)
      else if off = Reg.FIB_PAIR_SKEW i then some (uval 9 x.corr.skew)
      else if off = Reg.FIB_PAIR_CAL i then some (x.last + 8 * x.fails + 32 * b2n x.testing)
      else none

/-! ### Meanings -/

/-- The meaning of this command: the step of `onEstimationBlockDone` (R173); the samples are those that the state
holds (DESIGN CHOICE, log entry 6). -/
def execEstimationBlockDone (pair : Fin 2) (_samples : List (Int × Int)) (t : Tick) (s : State) : Host.Outcome State Fault Refusal :=
  .next (onEstimationBlockDone pair t s)

/-- The meaning of this command: the step of `onFibCalCycleStart` (R175). -/
def execFibCalCycleStart (pair : Fin 2) (t : Tick) (s : State) : Host.Outcome State Fault Refusal :=
  .next (onFibCalCycleStart pair t s)

/-- The meaning of this command: the step of `onAdcSampleWord` (R171). -/
def execAdcSampleWord (conv : Fin 8) (v : BitVec 12) (t : Tick) (s : State) : Host.Outcome State Fault Refusal :=
  .next (onAdcSampleWord conv v t s)

/-- The meaning of this command: the step of `onAomgGateOpen` (R182). -/
def execAomgGateOpen (gate : Fin 8) (t : Tick) (s : State) : Host.Outcome State Fault Refusal :=
  .next (onAomgGateOpen gate t s)

/-- The meaning of this command: the step of `onAomgGateClose` (R182). -/
def execAomgGateClose (gate : Fin 8) (t : Tick) (s : State) : Host.Outcome State Fault Refusal :=
  .next (onAomgGateClose gate t s)

/-- The meaning of this command: the step of `onSlotProcess` (R187); the samples and their loss are those
that the state holds (DESIGN CHOICE, log entry 6). -/
def execSlotProcess (tone : Fin 8) (sweep : BitVec 24) (_samples : List FibSample) (_lost : Bool) (s : State) : Host.Outcome State Fault Refusal :=
  .next (onSlotProcess tone sweep s)

/-- The meaning of this command: the step of `onZoneIntervalEnd` (R191). -/
def execZoneIntervalEnd (s : State) : Host.Outcome State Fault Refusal :=
  .next (onZoneIntervalEnd s)

/-- The meaning of this command: the step of `onEndEvaluation` (R193). -/
def execEndEvaluation (s : State) : Host.Outcome State Fault Refusal :=
  .next (onEndEvaluation s)

/-- The meaning of this command: the step of `onFibSurveyDone` (R185). -/
def execFibSurveyDone (s : State) : Host.Outcome State Fault Refusal :=
  .next (onFibSurveyDone s)

/-- The meaning of this command: the step of `onDtsBlockDone` (R196). -/
def execDtsBlockDone (s : State) : Host.Outcome State Fault Refusal :=
  .next (onDtsBlockDone s)

/-- The meaning of this command: the step of `onFibDtsProfile` (R198). -/
def execFibDtsProfile (s : State) : Host.Outcome State Fault Refusal :=
  .next (onFibDtsProfile s)

/-- The meaning of this command: the step of `onAdcTrigEdge` (R180). -/
def execAdcTrigEdge (tap : Fin 97) (tap2 : Option (Fin 97)) (edge : Tick) (s : State) : Host.Outcome State Fault Refusal :=
  .next (onAdcTrigEdge tap tap2 edge s)

/-- The meaning of this command: the step of `onFibTrigMissing` (R180). -/
def execFibTrigMissing (t : Tick) (s : State) : Host.Outcome State Fault Refusal :=
  .next (onFibTrigMissing t s)

/-- The meaning of this command: the step of `onSamples` (R373). -/
def execSamples (conv : Fin 8) (att : BitVec 2) (first : Tick) (vals : List (BitVec 12)) (s : State) : Host.Outcome State Fault Refusal :=
  .next (onSamples conv att first vals s)

end Sys2Proof.Machine
end

