-- ==== Sys2Proof/Machine/CloOps.lean ====
section
/-! DEFINITION. The Cloche's data: the entries of the safety parameter block (R425, R458), the change log (R423, R424), the
state journal (R458), levels of safe inputs (R392, R395), and the verification of a signed block (R445). -/

namespace Sys2Proof.Machine

/-! ### Entries (R425) -/

/-- A field of the entries of a block: the word at offset `off` of the entries, bits `lo`, `len`. -/
def blockField (blk : List Byte) (off lo len : Nat) : Nat := bits (leAt blk (0x40 + off) 4) lo len

def ce (s : State) (off lo len : Nat) : Nat := blockField s.clo.block off lo len

def inTp (s : State) (n : Nat) : Nat := bits (leAt s.clo.block (0x40 + 4 + 2 * n) 2) 0 3
def inFilter (s : State) (n : Nat) : Nat := bits (leAt s.clo.block (0x40 + 4 + 2 * n) 2) 3 4
def chainType (s : State) (c : Nat) : Nat := ce s (0x24 + 32 * c) 0 3
def chainRestart (s : State) (c : Nat) : Bool := decide (ce s (0x24 + 32 * c) 3 1 = 1)
def chainMask (s : State) (c : Nat) : Nat := ce s (0x24 + 32 * c) 16 16
def chainFields (s : State) (c : Nat) : Nat := ce s (0x28 + 32 * c) 0 8
def chainBlank (s : State) (c : Nat) : Nat := ce s (0x28 + 32 * c) 8 8
def chainVi (s : State) (c : Nat) : Nat := ce s (0x2C + 32 * c) 0 32
def chainZones (s : State) (c : Nat) : Nat := ce s (0x30 + 32 * c) 0 32 + 2 ^ 32 * ce s (0x34 + 32 * c) 0 32
def chainEnc (s : State) (c i : Nat) : Nat := ce s (0x38 + 32 * c) (4 * i) 4
def chainEnc1 (s : State) (c : Nat) : Bool := decide (ce s (0x38 + 32 * c) 8 1 = 1)
def chainBc (s : State) (c : Nat) : Nat := ce s (0x38 + 32 * c) 16 2
def chainMotion (s : State) (c : Nat) : Nat := ce s (0x38 + 32 * c) 24 8
def chainInt (s : State) (c : Nat) : Nat := ce s (0x3C + 32 * c) 0 8
def chainGrace (s : State) (c : Nat) : Nat := ce s (0x3C + 32 * c) 8 8
def setK (s : State) (n : Nat) : Nat := ce s (0x124 + 4 * n) 0 4
def setN (s : State) (n : Nat) : Nat := ce s (0x124 + 4 * n) 4 4
def setLag (s : State) (n : Nat) : Nat := ce s (0x124 + 4 * n) 8 2
def setMissMax (s : State) (n : Nat) : Nat := ce s (0x124 + 4 * n) 12 4
def setMismMax (s : State) (n : Nat) : Nat := ce s (0x124 + 4 * n) 16 4
def outChain (s : State) (x : Nat) : Nat := ce s (0x144 + 8 * x) 0 3
def outEnabled (s : State) (x : Nat) : Bool := decide (ce s (0x144 + 8 * x) 3 1 = 1)
def connId (s : State) (c : Nat) : Nat := ce s (0x164 + 16 * c) 0 32
def connAge (s : State) (c : Nat) : Nat := ce s (0x16C + 16 * c) 0 16
def zoneMode (s : State) : Nat := ce s 0 1 3

/-- The chains in use. -/
def usedChains (s : State) : List Nat := (List.range 8).filter fun c => chainType s c ≠ 0

/-- The field sets that some chain's field_mask names (R402). -/
def usedSets (s : State) : List Nat := (List.range 8).filter fun n => (usedChains s).any fun c => bitB (chainFields s c) n

/-- The zones that some chain's mask names. -/
def usedZones (s : State) : Nat := (usedChains s).foldl (fun a c => Nat.lor a (chainZones s c)) 0

/-- Whether a chain of the block in force has field_mask ≠ 0 (R364, R403). -/
def fieldChains (s : State) : Bool := !(usedSets s).isEmpty

def chainSt (s : State) (c : Nat) : ChainSt := Tab.lookD s.clo.chains c {}
def setChain (c : Nat) (x : ChainSt) (s : State) : State := { s with clo := { s.clo with chains := Tab.put s.clo.chains c x } }
def inSt (s : State) (n : Nat) : SafeInSt := Tab.lookD s.clo.inputs n {}
def setIn (n : Nat) (x : SafeInSt) (s : State) : State := { s with clo := { s.clo with inputs := Tab.put s.clo.inputs n x } }
def outSt (s : State) (x : Nat) : OutSt := Tab.lookD s.clo.outs x {}
def setOut (x : Nat) (o : OutSt) (s : State) : State := { s with clo := { s.clo with outs := Tab.put s.clo.outs x o } }
def fieldSt (s : State) (n : Nat) : FieldSt := Tab.lookD s.clo.fields n {}
def setField (n : Nat) (x : FieldSt) (s : State) : State := { s with clo := { s.clo with fields := Tab.put s.clo.fields n x } }
def connSt (s : State) (c : Nat) : ConnSt := Tab.lookD s.clo.conns c {}
def setConn (c : Nat) (x : ConnSt) (s : State) : State := { s with clo := { s.clo with conns := Tab.put s.clo.conns c x } }

/-- Whether the part is in commissioning mode (R419). -/
def commissioning (s : State) : Bool := decide (s.boot.mode = 1)

/-! ### Levels (R392, R395) -/

/-- The level the chains see: the filtered one, or the one from before a test pulse that blanks it. -/
def inLevel (s : State) (n : Nat) : Bool := (inSt s n).held.getD (inSt s n).filt

/-- The inputs of a chain in ascending order. -/
def chainInputs (s : State) (c : Nat) : List Nat := (List.range 16).filter fun n => bitB (chainMask s c) n

/-! ### Signed blocks, change log, journal (R423, R424, R445, R458) -/

/-- The 32 hash bytes of a key slot, empty for a slot that does not exist. -/
def keyHash (s : State) (k : Nat) : List Byte := s.sec.ks.getD k []

/-- Whether a hash marks an empty slot (R446). -/
def emptySlot (h : List Byte) : Bool := h.all fun b => decide (b = 0)

/-- A trailer over a digest (R444, R445): 0 when it verifies, else the slot cause 3 (key) or 4 (signature)
(DEDUCED, log entry 17). -/
def trailerCause (s : State) (trl digest : List Byte) : Nat :=
  let k := leAt trl 2 1
  if leAt trl 0 2 ≠ 0xA55A || leAt trl 3 1 ≠ 0 || leAt trl 4 4 ≠ 29864 then 4
  else if k > 3 || emptySlot (keyHash s k) || s.sec.ksRevoked.getLsbD k
    || Config.shakeBytes (slice trl 8 64) ≠ keyHash s k then 3
  else if Config.slhVerify256s (slice trl 8 64) digest (slice trl 72 29792) then 0 else 4

/-- The block digest (R458) (DEDUCED, log entry 27). -/
def blockDigest (b : List Byte) : List Byte := Config.shakeBytes (slice b 0 0x228)

/-- A block's form and signature (R458) (DEDUCED, log entry 27). -/
def blockSigned (s : State) (b : List Byte) : Bool :=
  decide (leAt b 0 4 = 0x4B424C43) && decide (leAt b 4 4 = 0x1E4) && decide (trailerCause s (b.drop 0x228) (blockDigest b) = 0)

/-- The chain of prev fields from entry index `i` on (R423, R424) (DEDUCED, log entry 27). -/
def logChained (prev : List Byte) (i : Nat) (l : List (List Byte)) : Bool :=
  match l with
  | [] => true
  | e :: r => decide (leAt e 0 4 = i) && decide (slice e 32 32 = Config.shakeBytes prev) && logChained (slice e 0 64) (i + 1) r

/-- The copy whose digest the last log entry names (R424); none when the chain is broken or no copy matches
(DEDUCED, log entry 27). -/
def blockInForce (s : State) : Option (List Byte) :=
  let a := s.nvm.safety
  match a.log.getLast? with
  | none => some []
  | some e =>
    if logChained (leBytes 8 Config.uid.toNat) 0 a.log then
      [a.copy0, a.copy1].find? fun b => decide ((blockDigest b).take 16 = slice e 16 16) && blockSigned s b
    else none

/-- The holding entry of a kind and chain: the valid one with the highest sequence number (R458) (DEDUCED, log entry 25). -/
def journalValue (j : List (List Byte)) (kind chain : Nat) : Option Nat :=
  ((j.filter fun e => decide (leAt e 28 4 = crc32c (slice e 0 28)) && decide (leAt e 4 1 = kind) && decide (leAt e 5 1 = chain)).foldl
    (fun (a : Option (Nat × Nat)) e => if a.any fun x => decide (leAt e 0 4 ≤ x.1) then a else some (leAt e 0 4, leAt e 8 8)) none).map
    (·.2)

/-- The entries of a journal that still hold. -/
def journalHolding (j : List (List Byte)) : List (List Byte) :=
  j.filter fun e => decide (leAt e 28 4 = crc32c (slice e 0 28)) &&
    j.all fun d => !(decide (leAt d 28 4 = crc32c (slice d 0 28)) && decide (leAt d 4 2 = leAt e 4 2) && decide (leAt e 0 4 < leAt d 0 4))

/-- Write a journal entry; a full half goes over to the other with the holding entries (R458) (DEDUCED, log entry 25). -/
def journalWrite (kind chain value : Nat) (s : State) : State :=
  let j := s.nvm.safety.journal
  let seq := maxN (j.map fun e => leAt e 0 4) + 1
  let b := leBytes 4 seq ++ leBytes 1 kind ++ leBytes 1 chain ++ leBytes 2 0 ++ leBytes 8 value ++ leBytes 12 0
  let e := b ++ leBytes 4 (crc32c b)
  let j := if j.length ≥ 1024 then journalHolding j else j
  { s with nvm := { s.nvm with safety := { s.nvm.safety with journal := j ++ [e] } } }

/-- The failed logins and the remaining lock are written (R421) (DEDUCED, log entry 25). -/
def journalLock (s : State) : State := journalWrite 1 0 (s.clo.failures + 2 ^ 32 * s.clo.pwLock) s

end Sys2Proof.Machine
end

