-- ==== Sys2Proof/Machine/Clo.lean ====
section
/-! DEFINITION. The Cloche safety island (chapter 13): inputs and test pulses, chains, virtual inputs, outputs and their tests,
lock-out and reset, the brake test, the black channel, powered time. -/

namespace Sys2Proof.Machine

/-! ### The rules of a block (R396, R399, R425) -/

/-- The words of the entries with the mask of their defined bits (R13, R425). -/
def entryMasks : List (Nat × Nat) :=
  [(0, 0x03FFFF0F)] ++ ((List.range 8).map fun i => (4 + 4 * i, 0x007F007F))
  ++ ((List.range 8).flatMap fun c => [(0x24 + 32 * c, 0xFFFFFF0F), (0x28 + 32 * c, 0xFFFF), (0x38 + 32 * c, 0xFF0301FF),
      (0x3C + 32 * c, 0xFFFF), (0x40 + 32 * c, 0)])
  ++ ((List.range 8).map fun n => (0x124 + 4 * n, 0x000FF3FF))
  ++ ((List.range 4).flatMap fun x => [(0x144 + 8 * x, 0xFF0F), (0x148 + 8 * x, 0xFFF)])
  ++ ((List.range 4).flatMap fun c => [(0x168 + 16 * c, 0x03FF01FF), (0x16C + 16 * c, 0xFFFF), (0x170 + 16 * c, 0)])

/-- A field within limits. -/
def within (lo hi v : Nat) : Bool := decide (lo ≤ v) && decide (v ≤ hi)

/-- The number of inputs of a chain type (R396). -/
def typeInputs (t : Nat) : Nat := [0, 2, 3, 4, 2, 0].getD t 0

/-- The TP rules of a chain (R396): `ts` are the tp fields of its inputs in ascending order. -/
def tpRules (t : Nat) (ts : List Nat) : Bool :=
  let d (i j : Nat) : Bool := decide (ts.getD i 0 ≠ 0) && decide (ts.getD j 0 ≠ 0) && decide (ts.getD i 0 ≠ ts.getD j 0)
  match t with
  | 1 => d 0 1
  | 2 => d 0 1
  | 3 => d 0 1 && d 2 3
  | 4 => ts.all fun x => decide (x = 0)
  | _ => true

/-- The entries of chain `c` hold by themselves and against the image (R396, R399, R401, R425). -/
def chainOk (s : State) (c : Nat) : Bool :=
  let t := chainType s c
  let connUsed (i : Nat) : Bool := decide (connId s i ≠ 0)
  t = 0 ||
  (decide (t ≤ 5) && (if ce s 0 0 1 = 0 then decide (t ≠ 5) else decide (t = 1 ∨ t = 5))
   && (decide (t = 5) || decide (ce s (0x24 + 32 * c) 8 8 ≠ 0))
   && decide ((chainInputs s c).length = typeInputs t) && tpRules t ((chainInputs s c).map (inTp s))
   && !(decide (t = 3) && chainRestart s c) && decide (chainBlank s c ≤ 100)
   && (decide (t ≠ 5) || (decide (((List.range 32).filter (bitB (chainVi s c))).length = 1) && within 1 168 (chainInt s c)
       && decide (chainGrace s c ≤ 72)))
   && ((List.range 32).all fun v => !bitB (chainVi s c) v || connUsed (v / 8))
   && ((List.range 8).all fun n => !bitB (chainFields s c) n || ((recWhere s 0x0801 0 0 3 n).isSome && decide (1 ≤ setK s n)
       && decide (setK s n ≤ setN s n) && within 1 3 (setLag s n) && decide (setMissMax s n ≠ 0) && decide (setMismMax s n ≠ 0)))
   && (decide (chainFields s c = 0) || !emptySlot (slice s.clo.block (0x40 + 0x1A4) 32))
   && (decide (chainZones s c = 0) || decide (zoneMode s ≠ 0) || !emptySlot (slice s.clo.block (0x40 + 0x1C4) 32))
   && decide (chainZones s c < 2 ^ ((recOf s 0x0903).elim 0 fun r => rf r 0 0 7)))

/-- Whether the entries of block `b` pass R425 on this part (DEDUCED, log entry 27). -/
def blockPasses (s0 : State) (b : List Byte) : Bool :=
  let s := { s0 with clo := { s0.clo with block := b } }
  let tpUsed := (List.range 16).any fun n => inTp s n ≠ 0
  (entryMasks.all fun m => decide (Nat.land (ce s m.1 0 32) (0xFFFFFFFF - m.2) = 0))
  && decide (zoneMode s ≤ 1)
  && (!tpUsed || (within 10 100 (ce s 0 8 8) && within 10 1000 (ce s 0 16 10)))
  && ((List.range 16).all fun n => decide (inTp s n ≤ 4) && decide (inFilter s n ≤ 8))
  && ((List.range 8).all (chainOk s))
  && ((List.range 8).all fun c => (List.range c).all fun d => chainType s c = 0 || chainType s d = 0
        || decide (Nat.land (chainMask s c) (chainMask s d) = 0))
  && ((List.range 4).all fun x => !outEnabled s x || (decide (chainType s (outChain s x) ≠ 0)
        && within 5 30 (ce s (0x144 + 8 * x) 8 8) && within 1 3600 (ce s (0x148 + 8 * x) 0 12)))
  && ((List.range 4).all fun c => decide (connId s c = 0) || (within 1 500 (ce s (0x168 + 16 * c) 0 9)
        && within 10 1000 (ce s (0x168 + 16 * c) 16 10) && decide (connAge s c ≠ 0)
        && decide (2 * ce s (0x168 + 16 * c) 0 9 ≤ ce s (0x168 + 16 * c) 16 10)))

/-! ### Stops of the island and of the part (R387, R388) -/

/-- The drives of an output go to 0 or to 1 together; a test pulse that runs is abandoned, counts as not done and is to run again
(R409). -/
def OutSt.drive (o : OutSt) (on : Bool) : OutSt :=
  { o with hd := on, ld := on, test := none, heldRun := if o.hd = on && o.ld = on then o.heldRun else 0,
           lost := if o.test.isSome then min 255 (o.lost + 1) else o.lost,
           again := match o.test with | some p => some p.1 | none => o.again }

/-- Every drive goes to 0 at once; a test pulse that runs is abandoned. -/
def cloDrivesOff (s : State) : State := (List.range 4).foldl (fun s x => setOut x ((outSt s x).drive false) s) s

/-- The reset-input fault of R411. -/
def resetFault (s : State) : State :=
  fault 299 Src.clo 0 .corrected 0 { s with clo := { s.clo with blocked := true, lowRun := 0 } }

/-- A lock-out begins while SRST_BTN reads 1: a reset-input fault (R411). -/
def lockBegins (s : State) : State := if inLevel s 16 && !s.clo.blocked then resetFault s else s

/-- Chain `c` goes to LOCKOUT (R397, R411). -/
def lockChain (c : Nat) (s : State) : State :=
  lockBegins (stick Reg.CLO_STICKY 1 (fault 297 Src.clo 0 .corrected c (setChain c { chainSt s c with state := 4, released := false } s)))

/-- Chain `c` goes to STOPPED (R397) (DEDUCED, log entry 23). -/
def stopChain (c : Nat) (s : State) : State :=
  raise 296 (setChain c { chainSt s c with state := 1, released := if (chainSt s c).state = 3 then false else (chainSt s c).released } s)

/-- Every chain goes to LOCKOUT and every drive to 0 (R387, R388) (DEDUCED, log entry 23). -/
def lockAll (s : State) : State :=
  cloDrivesOff ((usedChains s).foldl (fun s c => if (chainSt s c).state = 4 || (chainSt s c).state = 0 then s else lockChain c s) s)

def islandBit (c : IslandCause) : Nat :=
  match c with | .lockstep => 0 | .memory => 1 | .x13 => 2 | .supply => 3 | .selfTest => 4 | .block => 5

/-- An island fault (R387): every output and chain is locked out, EVT 308 and its fatal fault. -/
def islandFault (c : IslandCause) (s : State) : State :=
  let s := { s with clo := { s.clo with island := s.clo.island ||| BitVec.ofNat 6 (2 ^ islandBit c) } }
  stick Reg.CLO_STICKY 3 (fault 308 Src.clo 0 .fatal 0 (lockBegins (lockAll s)))

/-- ISLAND_FAULT (R387). -/
def onIslandFault (cause : IslandCause) (t : Tick) (s : State) : State := islandFault cause (advance t s)

/-- A part stop (R388) (DEDUCED, log entry 24). -/
def partStop (s : State) : State := lockAll { s with clo := { s.clo with partStop := true } }

/-- PART_STOP (R388): the FCL reports a fatal fault through X12. -/
def onPartStop (t : Tick) (s : State) : State := partStop (advance t s)

/-- The Cloche counts the words in a row that fail their CRC; the third is a part stop (R388)
(DESIGN CHOICE, log entry 61). -/
def x12Watch (m : X12Msg) (ws : List Word64) (s : State) : State :=
  let r := (m.failing ws).foldl (fun p bad => let n := if bad then p.1 + 1 else 0; (n, p.2 || decide (3 ≤ n))) (s.clo.x12Bad, false)
  let s := { s with clo := { s.clo with x12Bad := r.1 } }
  if r.2 then partStop s else s

/-- HEARTBEAT (R388): a word that passes its CRC. -/
def onHeartbeat (s : State) : State := { s with clo := { s.clo with hbRun := s.clo.hbRun + 1, hbGap := 0, x12Bad := 0 } }

/-- HEARTBEAT_TIMEOUT (R388): a gap of 1 ms, four cycles. -/
def onHeartbeatTimeout (t : Tick) (s : State) : State :=
  let s := advance t s
  if s.clo.hbGap < 4 then s else partStop { s with clo := { s.clo with hbRun := 0 } }

/-! ### The self-test (R389, R424) -/

/-- The state the self-test starts from: powered time and lock from the journal (R401, R421), the block in force (R424)
(DEDUCED, log entry 24). -/
def cloStart (s : State) : State :=
  let j := s.nvm.safety.journal
  let m := (journalValue j 3 0).elim 0 (· + 10)
  let lk := (journalValue j 1 0).getD 0
  let blk := (blockInForce s).getD []
  let s := { s with clo := { s.clo with block := blk, minutes := m, written := m, resumed := m, cyc := 0, failures := lk % 2 ^ 32, pwLock := lk / 2 ^ 32 } }
  let s := (usedChains s).foldl (fun s c => setChain c { chainSt s c with pass := journalValue j 2 c } s) s
  (List.range 4).foldl (fun s x => setOut x { outSt s x with doneHi := m, doneLo := m } s) s

/-- Whether the self-test passes but for the block and the log (R389). -/
def selfTestOk (s : State) (r : SelfTest) : Bool :=
  r.lockstepOk && r.marchOk && r.x13Ok && r.tpOk && ((List.range 4).all fun x => !outEnabled s x || r.onPulseOk.getLsbD x)

/-- The self-test ends (R389, R397, R411): a pass puts every chain into STOPPED; a failure is an island fault. The second
component says whether it passed (DEDUCED, log entry 24). -/
def cloSelfTest (r : SelfTest) (s : State) : State × Bool :=
  let ok := (blockInForce s).isSome
  let s := cloStart s
  if !ok then (islandFault .block s, false)
  else if !selfTestOk s r then (islandFault .selfTest s, false)
  else
    let s := { s with clo := { s.clo with passed := true } }
    let s := (usedChains s).foldl (fun s c => stopChain c s) s
    (if inLevel s 16 then resetFault s else s, true)

/-! ### Safe inputs and test pulses (R392 to R395) -/

/-- SAFE_INPUT_CHANGE (R392): an input without a filter follows at once; the reset input's filter is fixed (R411). -/
def onSafeInputChange (input : Fin 17) (level : Bool) (s : State) : State :=
  let x := inSt s input
  let now0 := decide (input.val < 16) && decide (inFilter s input = 0)
  setIn input { x with raw := level, filt := if now0 then level else x.filt, age := if x.raw = level then x.age else 0 } s

/-- The filter time of an input in cycles of 0.25 ms; that of the reset input is 5 ms (R392, R411). -/
def filterCycles (s : State) (n : Nat) : Nat := if n = 16 then 20 else inFilter s n

/-- SI_FILTER_EXPIRE (R392): the raw level has held for the filter time. -/
def onSiFilterExpire (input : Fin 17) (s : State) : State :=
  if filterCycles s input ≤ (inSt s input).age then setIn input { inSt s input with filt := (inSt s input).raw } s else s

/-- The inputs assigned to TP `tp`. -/
def tpInputs (s : State) (tp : Nat) : List Nat := (List.range 16).filter fun n => inTp s n = tp + 1

/-- tp_period of the block in force (R394). -/
def tpPeriod (s : State) : Nat := ce s 0 16 10

/-- Whether a pulse of TP `tp` begins in the present cycle (R394): every tp_period ms, (tp_period x tp) / 4 ms after TP0's; a
millisecond has four cycles, counted from the self-test (DEDUCED, log entry 23). -/
def pulseDue (s : State) (tp : Nat) : Bool :=
  s.clo.passed && decide (tpPeriod s ≠ 0) && decide (s.clo.cyc % (4 * tpPeriod s) = tpPeriod s * tp)

/-- TEST_PULSE_START (R394, R395): the assigned inputs are blanked at their present level. -/
def onTestPulseStart (tp : Fin 4) (s : State) : State :=
  if !pulseDue s tp then s
  else
  let s := { s with clo := { s.clo with tpLow := s.clo.tpLow ||| BitVec.ofNat 4 (2 ^ tp.val) } }
  (tpInputs s tp).foldl (fun s n => setIn n { inSt s n with held := some (inLevel s n), high := inLevel s n } s) s

/-- The result of a pulse for input `n` (R395) (DEDUCED, log entry 23). -/
def pulseResult (n : Nat) (atEnd after : Bool) (s : State) : State :=
  let x := inSt s n
  let s := setIn n { x with held := none } s
  if !x.high then s
  else if !atEnd && after then setIn n { x with held := none, missed := 0, bad := false } s
  else
    let y : SafeInSt := { x with held := none, missed := x.missed + 1, bad := x.bad || decide (2 ≤ x.missed + 1) }
    let s := setIn n y s
    if y.bad && !x.bad then fault 300 Src.clo 0 .corrected n s else s

/-- TEST_PULSE_END (R395). -/
def onTestPulseEnd (tp : Fin 4) (atEnd after : BitVec 16) (t : Tick) (s : State) : State :=
  let s := advance t s
  if !s.clo.tpLow.getLsbD tp then s
  else
  let s := { s with clo := { s.clo with tpLow := s.clo.tpLow &&& ~~~(BitVec.ofNat 4 (2 ^ tp.val)) } }
  (tpInputs s tp).foldl (fun s n => pulseResult n (atEnd.getLsbD n) (after.getLsbD n) s) s

/-! ### Physical inputs of a chain (R398, R399) -/

def inputAt (s : State) (c i : Nat) : Bool := inLevel s ((chainInputs s c).getD i 0)

/-- Button `b` of a two-hand chain: pressed, released. -/
def pressed (s : State) (c b : Nat) : Bool := inputAt s c (2 * b) && !inputAt s c (2 * b + 1)
def released (s : State) (c b : Nat) : Bool := !inputAt s c (2 * b) && inputAt s c (2 * b + 1)

/-- An OSSD input demands once it has read 0 for longer than its blanking, in cycles of 250 microseconds (R398)
(DEDUCED, log entry 23). -/
def ossdLow (s : State) (c n : Nat) : Bool :=
  let r := (inSt s n).lowRun
  decide (0 < r) && decide (10 * chainBlank s c ≤ 250 * (r - 1))

/-- Whether the physical inputs demand (R398, R399). -/
def inputsDemand (s : State) (c : Nat) : Bool :=
  match chainType s c with
  | 1 => !inputAt s c 0 || !inputAt s c 1
  | 2 => !inputAt s c 0 || !inputAt s c 1 || !inputAt s c 2
  | 3 => !(pressed s c 0 && pressed s c 1)
  | 4 => (chainInputs s c).any (ossdLow s c)
  | _ => false

/-- disc of a chain in cycles (R398). -/
def discCycles (s : State) (c : Nat) : Nat := 4 * ce s (0x24 + 32 * c) 8 8

/-- DISCREPANCY_TIMEOUT (R398, R399): a pair differs, or a button reads an invalid combination, for longer than disc. -/
def onDiscrepancyTimeout (chain : Fin 8) (button : Fin 2) (t : Tick) (s : State) : State :=
  let s := advance t s
  let x := chainSt s chain
  let ty := chainType s chain
  if ty = 3 then
    if !pressed s chain button && !released s chain button && !x.contact.getD button false
        && decide (discCycles s chain ≤ x.runs.getD button 0) then
      fault 300 Src.clo 0 .corrected chain (setChain chain { x with contact := x.contact.set button true } s)
    else s
  else if decide (ty = 1 ∨ ty = 2 ∨ ty = 4) && decide (inputAt s chain 0 ≠ inputAt s chain 1) && !x.disc
      && decide (discCycles s chain ≤ x.runs.getD 0 0) then
    fault 300 Src.clo 0 .corrected chain (setChain chain { x with disc := true, zeros := false } s)
  else s

/-- TWOHAND_TIMEOUT (R399): 500 ms after the first press the second button is not pressed. -/
def onTwohandTimeout (chain : Fin 8) (s : State) : State :=
  if chainType s chain = 3 && decide (pressed s chain 0 ≠ pressed s chain 1) && decide (2000 ≤ (chainSt s chain).oneRun) then
    setChain chain { chainSt s chain with late := true } s
  else s

/-- Input `i` of chain `c` as its discrepancy sees it: a pulse of an LCURTAIN input within its blanking is none (R398)
(DEDUCED, log entry 23). -/
def pairLevel (s : State) (c i : Nat) : Bool :=
  if chainType s c = 4 then !ossdLow s c ((chainInputs s c).getD i 0) else inputAt s c i

/-- What a cycle sees of the inputs of chain `c`: ends of discrepancies and contact faults, releases (R398, R399). -/
def watchChain (c : Nat) (s : State) : State :=
  let x := chainSt s c
  if chainType s c = 3 then
    let ok (b : Nat) : Bool := pressed s c b || released s c b
    let both := released s c 0 && released s c 1
    setChain c { x with contact := [x.contact.getD 0 false && !ok 0, x.contact.getD 1 false && !ok 1],
                        released := x.released || both, late := x.late && !both,
                        runs := (List.range 2).map fun b => if ok b then 0 else x.runs.getD b 0 + 1,
                        oneRun := if pressed s c 0 = pressed s c 1 then 0 else x.oneRun + 1 } s
  else
    let a := pairLevel s c 0
    let b := pairLevel s c 1
    let zeros := x.zeros || (!a && !b)
    setChain c { x with zeros := x.disc && zeros, disc := x.disc && !(zeros && a && b),
                        runs := [if a = b then 0 else x.runs.getD 0 0 + 1, 0] } s

/-! ### Virtual inputs: fields (R402) -/

/-- Frame `f` begins: its verdict is 0 for every judged set (R402). -/
def cloFrameBegin (f : Nat) (s : State) : State :=
  if s.clo.passed then
    (usedSets s).foldl (fun s n => setField n { fieldSt s n with frames := ((f % 2 ^ 24, {}) :: (fieldSt s n).frames).take 16 } s) s
  else s

/-- Frame `f` has ended (R402). -/
def cloFrameEnd (f : Nat) (s : State) : State :=
  (usedSets s).foldl (fun s n => setField n { fieldSt s n with frames := (fieldSt s n).frames.map fun e =>
    if e.1 = f % 2 ^ 24 then (e.1, { e.2 with ended := some s.clo.cyc }) else e } s) s

/-- Whether set `n` demands: at least k of the last n frames have V = 1 (R402). -/
def setDemands (s : State) (n : Nat) : Bool :=
  decide (setK s n ≤ (((fieldSt s n).frames.take (setN s n)).filter fun e => e.2.v).length)

/-- A frame is judged once both words have come or are missing. -/
def FieldFrame.judged (f : FieldFrame) : Bool := f.miss || (f.hse.isSome && f.tine.isSome)

/-- The judged frames of a set, newest first: frames are counted in order, none before an older one
(DEDUCED, log entry 23). -/
def judgedFrames (x : FieldSt) : List FieldFrame := ((x.frames.map (·.2)).reverse.takeWhile FieldFrame.judged).reverse

/-- The lock-out causes of a set after a judgement (R402). -/
def setCauses (n : Nat) (s : State) : State :=
  let x := fieldSt s n
  let l := judgedFrames x
  let good := decide (setN s n ≤ (l.takeWhile fun f => !f.mism && !f.miss).length)
  let mism := decide (setMismMax s n ≤ (l.takeWhile fun f => f.mism).length)
  let miss := decide (setMissMax s n ≤ (l.takeWhile fun f => f.miss).length)
  let s := setField n { x with mismLock := (x.mismLock && !good) || mism, missLock := (x.missLock && !good) || miss } s
  let s := if mism && !x.mismLock then fault 303 Src.clo 0 .corrected n s else s
  if miss && !x.missLock then fault 304 Src.clo 0 .corrected n s else s

/-- Change frame `f` of set `n`. -/
def updFrame (n f : Nat) (g : FieldFrame → FieldFrame) (s : State) : State :=
  setField n { fieldSt s n with frames := (fieldSt s n).frames.map fun e => if e.1 = f then (e.1, g e.2) else e } s

/-- A word arrives for a frame: V is set by violated or by a mismatch (R402). -/
def FieldFrame.take (f : FieldFrame) (hse : Bool) (w : Word64) : FieldFrame :=
  let f := if hse then { f with hse := some (f.hse.getD w) } else { f with tine := some (f.tine.getD w) }
  let mism := match f.hse, f.tine with | some a, some b => decide (a ≠ b) | _, _ => false
  { f with mism := f.mism || mism, v := f.v || mism || bitB w.toNat 1 }

/-- The HSE verdict words of a frame reach the Cloche (R402). -/
def verdictTake (frame : Nat) (words : List Word64) (s : State) : State :=
  (usedSets s).foldl (fun s n => setCauses n (updFrame n frame (fun f => f.take true (words.getD n 0)) s)) s

/-- VERDICT_WORD_ARRIVE (R159, R402): the words of X12's verdict message of the frame arrive. -/
def onVerdictWordArrive (frame : BitVec 24) (words : List Word64) (t : Tick) (s : State) : State :=
  let s := advance t s
  match x12Next s .verdict frame.toNat with
  | none => s
  | some m => x12Watch m words (if s.clo.passed then verdictTake frame.toNat (m.data words) (x12Done m s) else x12Done m s)

/-! ### Zones (R404) -/

/-- Judge the interval (R404): `cls` is the intrusion word, none when no result with status OK has come. -/
def judgeZones (cls : Option Word64) (s : State) : State :=
  let z := s.clo.zones
  let used := usedZones s
  let w (i : Nat) : Nat := (z.words.getD i 0).toNat
  let intr (i : Nat) : Bool := cls.any fun c => bitB c.toNat i
  let dem := (List.range 64).foldl (fun a i =>
    let d := bitB (w i) 49 || (if zoneMode s = 1 then bitB (w i) 48 else cls.isNone || intr i)
    if bitB used i && d then a + 2 ^ i else a) 0
  let s := { s with clo := { s.clo with zones := { z with demand := dem, judged := true } } }
  if zoneMode s = 1 || cls.isNone then s
  else
    (List.range 64).foldl (fun s i =>
      if bitB used i then
        let z := s.clo.zones
        let bad := intr i && !bitB (w i) 48
        let ic := if bad then Tab.lookD z.incons i 0 + 1 else 0
        let cc := if bad then 0 else Tab.lookD z.cons i 0 + 1
        let was := bitB z.lock i
        let lk := if ic ≥ 3 && !was then z.lock + 2 ^ i else if cc ≥ 3 && was then z.lock - 2 ^ i else z.lock
        let s := { s with clo := { s.clo with zones := { z with incons := Tab.put z.incons i ic, cons := Tab.put z.cons i cc, lock := lk } } }
        if bad then fault 305 Src.clo 0 .corrected i s else s
      else s) s

/-- The classifier result of the interval being judged has come: judge (R404). -/
def zoneTry (s : State) : State :=
  let z := s.clo.zones
  match z.interval with
  | none => s
  | some i =>
    if z.judged then s
    else if zoneMode s = 1 then judgeZones none s
    else match z.cls with
      | some (j, some w) => if j = i then judgeZones (some w) s else s
      | _ => s

/-- A set of FIB zone words reaches the Cloche; a zone shown unobserved demands at once (R404). -/
def zoneTake (interval : Nat) (words : List Word64) (s : State) : State :=
  let un := (List.range 64).foldl (fun a i => if bitB (usedZones s) i && bitB (words.getD i 0).toNat 49 then a + 2 ^ i else a) 0
  zoneTry { s with clo := { s.clo with zones := { s.clo.zones with
    interval := some interval, words := words, judged := false, demand := Nat.lor s.clo.zones.demand un } } }

/-- ZONE_WORD_ARRIVE (R191, R404): the words of X12's zone message of the interval arrive. -/
def onZoneWordArrive (interval : BitVec 24) (words : List Word64) (t : Tick) (s : State) : State :=
  let s := advance t s
  match x12Next s .zone interval.toNat with
  | none => s
  | some m =>
    x12Watch m words
      (if s.clo.passed then
        let s := zoneTake interval.toNat (m.data words) (x12Done m s)
        { s with clo := { s.clo with zones := { s.clo.zones with due := m.due } } }
      else x12Done m s)

/-- CLASSIFIER_DEADLINE (R404): one zone interval after the interval's end no result with status OK has come. -/
def onClassifierDeadline (interval : BitVec 24) (t : Tick) (s : State) : State :=
  let s := advance t s
  if s.clo.passed && decide (zoneMode s = 0) && decide (s.clo.zones.interval = some interval.toNat)
      && !s.clo.zones.judged && decide (s.clo.zones.due ≤ t) then
    judgeZones none s
  else s

/-- The copied result of slot 1 serves the field sets, that of slot 2 the zones (R402, R404); `words` are the header and the
result's first words. -/
def resultTake (slot frame : Nat) (words : List Word64) (s : State) : State :=
  let ok := decide (bits (words.headD 0).toNat 16 6 = 0)
  if slot = 1 then
    (usedSets s).foldl (fun s n => setCauses n (updFrame n frame
      (fun f => if ok then f.take false ((words.drop 1).getD n 0) else { f with v := true, miss := true }) s)) s
  else if slot = 2 then
    zoneTry { s with clo := { s.clo with zones := { s.clo.zones with
      cls := some (frame, if ok then some ((words.drop 1).getD 4 0) else none) } } }
  else s

/-- TINE_RESULT_ARRIVE (R267, R402, R404): X12's copy of the slot's result for the frame arrives. -/
def onTineResultArrive (slot : Fin 16) (frame : BitVec 24) (header : Word64) (words : List Word64) (t : Tick) (s : State) : State :=
  let s := advance t s
  match x12Next s (.tine slot.val) frame.toNat with
  | none => s
  | some m =>
    let ws := header :: words
    x12Watch m ws (if s.clo.passed then resultTake slot.val frame.toNat (m.data ws) (x12Done m s) else x12Done m s)

/-- Whether the deadline of a word of frame `f` has passed for set `n` (R402): 10 ms, 40 cycles, after the frame's end for the HSE
word, the end of frame `f` + div_lag for the tine result. -/
def wordLate (s : State) (n f : Nat) (tine : Bool) : Bool :=
  let k := if tine then (f + setLag s n) % 2 ^ 24 else f
  (fieldSt s n).frames.any fun e => decide (e.1 = k) && e.2.ended.any fun c => tine || decide (c + 40 ≤ s.clo.cyc)

/-- VERDICT_DEADLINE (R402): a word of the frame is missing. -/
def onVerdictDeadline (frame : BitVec 24) (tine : Bool) (t : Tick) (s : State) : State :=
  let s := advance t s
  if s.clo.passed then
    ((usedSets s).filter fun n => wordLate s n frame.toNat tine).foldl (fun s n => setCauses n (updFrame n frame.toNat
      (fun f => if (if tine then f.tine else f.hse).isNone then { f with v := true, miss := true } else f) s)) s
  else s

/-! ### The evaluation cycle (R386, R397, R406, R407) -/

/-- The virtual inputs that are 0 (R405). -/
def viZero (s : State) (v : Nat) : Bool :=
  let x := connSt s (v / 8)
  !x.got || x.timeout || !bitB x.vi (v % 8)

/-- The demand sources of a chain (R397, R430): inputs, fields, zones, virtual inputs, brake. -/
def demandOf (s : State) (c : Nat) : Nat :=
  b2n (inputsDemand s c)
  + 2 * b2n ((List.range 8).any fun n => bitB (chainFields s c) n && setDemands s n)
  + 4 * b2n (decide (Nat.land (chainZones s c) s.clo.zones.demand ≠ 0))
  + 8 * b2n ((List.range 32).any fun v => bitB (chainVi s c) v && viZero s v)
  + 16 * b2n (decide (chainType s c = 5) && ((chainSt s c).overdue || decide ((chainSt s c).brake = 3)))

/-- The lock-out causes that hold for a chain, as CHAIN_STAT shows them (R430) (DEDUCED, log entry 23). -/
def causesOf (s : State) (c : Nat) : Nat :=
  let x := chainSt s c
  b2n ((chainInputs s c).any fun n => (inSt s n).bad)
  + 2 * b2n (x.disc || x.contact.any id)
  + 4 * b2n ((List.range 8).any fun n => bitB (chainFields s c) n && ((fieldSt s n).mismLock || (fieldSt s n).missLock))
  + 8 * b2n (decide (Nat.land (chainZones s c) s.clo.zones.lock ≠ 0))
  + 16 * b2n x.failed + 32 * b2n s.clo.partStop + 64 * b2n (decide (s.clo.island ≠ 0))

/-- Whether the type allows the start (R399). -/
def startAllowed (s : State) (c : Nat) : Bool :=
  decide (chainType s c ≠ 3) || ((chainSt s c).released && !(chainSt s c).late)

/-- Chain `c` reaches RUN (R397). -/
def runChain (c : Nat) (s : State) : State := setChain c { chainSt s c with state := 3, ran := true } s

/-- One chain's move in a cycle (R397) (DEDUCED, log entry 23). -/
def moveChain (c : Nat) (s : State) : State :=
  let s := watchChain c s
  let cs := causesOf s c
  let dm := demandOf s c
  let x := chainSt s c
  let s := setChain c { x with causes := cs, demand := dm } s
  let s := if dm ≠ 0 then stick Reg.CLO_STICKY 0 s else s
  if x.state = 4 then s
  else if cs ≠ 0 then lockChain c s
  else match x.state with
    | 3 => if dm ≠ 0 then stopChain c s else s
    | 1 => if dm ≠ 0 then s
           else if chainRestart s c then setChain c { chainSt s c with state := 2 } s
           else if startAllowed s c then runChain c s else s
    | 2 => if dm ≠ 0 then stopChain c s else s
    | _ => s

/-- The code of an output fault (R407) (DEDUCED, log entry 23). -/
def faultCode (hd ld hr lr : Bool) : Nat :=
  if hd && !hr then 1 else if hd && !ld && hr && !lr then 2 else if !hd && hr then 3 else if hd && ld && lr then 4
  else if lr then (if ld then 4 else 5) else 0

/-- An output fault (R407): both drives go to 0 and the output is locked out. -/
def outputFault (x : Nat) (code : Nat) (s : State) : State :=
  let o := outSt s x
  lockBegins (stick Reg.CLO_STICKY 1 (fault 301 Src.clo 0 .corrected x
    (setOut x { o with hd := false, ld := false, faulty := true, diag := code, okRun := 0, test := none, heldRun := 0 } s)))

/-- Whether an output is locked out. -/
def OutSt.locked (o : OutSt) : Bool := o.faulty || o.ivLock

/-- Whether output `x` shows as locked out: by a lock-out of its own or by an island fault (R387, R430)
(DEDUCED, log entry 24). -/
def outLocked (s : State) (x : Nat) : Bool := (outSt s x).locked || decide (s.clo.island ≠ 0)

/-- Whether output `x` may be on (R406). -/
def outWanted (s : State) (x : Nat) : Bool :=
  outEnabled s x && decide ((chainSt s (outChain s x)).state = 3) && !(outSt s x).locked && decide (s.clo.island = 0)
    && !s.clo.partStop && s.clo.passed && !commissioning s

/-- One output in a cycle: the readbacks are judged against the drives in force, then the drives are set; a demand during a
pulse wins and abandons the test (R406 to R409) (DEDUCED, log entry 23). -/
def moveOut (x : Nat) (hr lr : Bool) (s : State) : State :=
  let o := outSt s x
  let good := decide (hr = (o.hd && o.ld)) && !lr
  let off := !o.hd && !o.ld
  let o1 : OutSt := { o with hr := hr, lr := lr, heldRun := o.heldRun + 1, okRun := if off && !hr && !lr then o.okRun + 1 else 0 }
  let s := setOut x o1 s
  let s := if o.test.isNone && !good && !o.faulty && outEnabled s x then outputFault x (faultCode o.hd o.ld hr lr) s else s
  let o := outSt s x
  let w := outWanted s x
  match o.test with
  | some (_, true) =>
    if w then s else setOut x (o.drive false) s
  | some (_, false) => s
  | none => setOut x (o.drive w) s

/-- The brake tests in a cycle (R401): WAIT follows REQUEST once the run request is 0 and the output is off; RUNNING follows
the torque bit, and the windows of the encoders are requested. -/
def chainOutOff (s : State) (c : Nat) : Bool :=
  (List.range 4).all fun x => !(outEnabled s x && decide (outChain s x = c)) || !(outSt s x).hd

/-- Brake test state `b` of chain `c`; each change sends a brake message (R417), which `bcSend` makes
(DEDUCED, log entry 24). -/
def setBrake (c b : Nat) (s : State) : State := setChain c { chainSt s c with brake := b } s

/-! ### The black channel (R414 to R418) -/

/-- One bit step of CRC-32K (R415). -/
def crc32kBit (c : Nat) : Nat := if c < 2 ^ 31 then 2 * c else Nat.xor (2 * c % 2 ^ 32) 0x741B8CD7

/-- CRC-32K over bytes, most significant bit first (R415). -/
def crc32k (c : Nat) (l : List Byte) : Nat :=
  match l with
  | [] => c
  | b :: r => crc32k (crc32kBit (crc32kBit (crc32kBit (crc32kBit (crc32kBit (crc32kBit (crc32kBit (crc32kBit
      (Nat.xor c (b.toNat * 2 ^ 24)))))))))) r

/-- The outbound stamp (R414). -/
def bcStamp (s : State) : Nat := bits (now s) 16 32

/-- A message with its crc (R414, R415). -/
def bcMessage (s : State) (c type : Nat) (payload : List Byte) : List Byte :=
  let b := leBytes 4 (connId s c) ++ leBytes 4 (connSt s c).txSeq ++ leBytes 4 (bcStamp s) ++ leBytes 2 (connAge s c)
    ++ leBytes 1 type ++ leBytes 1 payload.length ++ slice payload 0 12
  b ++ leBytes 4 (crc32k 0xFFFFFFFF (b ++ leBytes 4 (connId s c)))

/-- A mask of the indices below `n` that satisfy `p`. -/
def maskBits (n : Nat) (p : Nat → Bool) : Nat := (List.range n).foldl (fun a i => if p i then a + 2 ^ i else a) 0

/-- The payload of a status message (R416). -/
def statusPayload (s : State) : List Byte :=
  [BitVec.ofNat 8 (maskBits 8 fun c => (chainSt s c).state = 3), BitVec.ofNat 8 (maskBits 8 fun c => (chainSt s c).state = 4),
   BitVec.ofNat 8 (maskBits 4 (fun x => (outSt s x).hd && (outSt s x).ld) + 16 * maskBits 4 (outLocked s)),
   BitVec.ofNat 8 (maskBits 8 fun n => (usedSets s).contains n && setDemands s n)] ++ leBytes 8 s.clo.zones.demand

/-- The hours until a chain's brake test is due, negative when overdue (R416). -/
def brakeHours (s : State) (c : Nat) : Rat :=
  let x := chainSt s c
  (((x.pass.elim (if x.brake = 0 then s.clo.minutes else x.dueAt) fun p => p + 60 * chainInt s c : Nat) : Rat) - s.clo.minutes) / 60

/-- The payload of a brake message (R416) (DESIGN CHOICE, log entry 13). -/
def brakePayload (s : State) (c : Nat) : List Byte :=
  [BitVec.ofNat 8 (chainSt s c).brake, BitVec.ofNat 8 c] ++ leBytes 4 (uval 32 (quantOf s (brakeHours s c)))

/-- Request a vector (R478) (DEDUCED, log entry 58). -/
def requestVector (v : Nat) (s : State) : State := { s with hif := { s.hif with vecReq := s.hif.vecReq ||| BitVec.ofNat 64 (2 ^ v) } }

/-- A message goes to the outbound ring of connection `c` (R417, R488). -/
def bcSend (c : Nat) (type : Nat) (payload : List Byte) (s : State) : State :=
  if connId s c = 0 then s
  else
    let m := bcMessage s c type payload
    let a := Tab.lookD s.hif.bc c {}
    let ring := if a.outRing.isEmpty then List.replicate 16 [] else a.outRing
    let a' : BcArea := { a with outRing := ring.set a.next m, next := (a.next + 1) % 16, written := (a.written + 1) % 65536 }
    let s := { s with hif := { s.hif with bc := Tab.put s.hif.bc c a' } }
    let s := setConn c { connSt s c with txSeq := ((connSt s c).txSeq + 1) % 2 ^ 32 } s
    if rdb s Fld.HIF_BC_CFG_enable then requestVector (rdf s Fld.HIF_BC_CFG_vector) s else s

/-- The brake message of chain `c` (R417). -/
def brakeMessage (c : Nat) (s : State) : State :=
  quantUsed (brakeHours s c) (bcSend (chainBc s c) 2 (brakePayload s c) s)

/-- The brake test of chain `c` changes to state `b` (R401, R417). -/
def brakeTo (c b : Nat) (s : State) : State := brakeMessage c (setBrake c b s)

/-- The brake test of chain `c` moves with the run request and the torque bit (R401). -/
def moveBrake (c : Nat) (s : State) : State :=
  let x := chainSt s c
  if chainType s c ≠ 5 then s
  else
    let k := connSt s (chainBc s c)
    let noRun := (List.range 32).any fun v => bitB (chainVi s c) v && viZero s v
    if x.brake = 1 && noRun && chainOutOff s c then brakeTo c 2 s
    else if x.brake = 2 && k.torque && !k.timeout && chainOutOff s c then
      let s := setChain c { x with results := [] } s
      let s := brakeTo c 3 s
      let chs := chainEnc s c 0 :: (if chainEnc1 s c then [chainEnc s c 1] else [])
      let s := chs.foldl (fun s i => if rdf s (Fld.TSU_WIN_CFG_start_src i) = 4 then windowStart i (now s) s else s) s
      { s with clo := { s.clo with toSafe := s.clo.toSafe.filter fun m => !chs.any fun i => decide (m.kind = .window i) } }
    else if x.brake = 3 && (!k.torque || k.abort || k.timeout) then brakeTo c 6 s
    else s

/-- Whether brake_int has passed since the last pass; a first test falls due at the first RUN unless the stored pass lies less than
brake_int before the powered time the counter resumed from (R401). -/
def brakeDue (s : State) (c : Nat) : Bool :=
  let x := chainSt s c
  match x.pass with
  | none => x.ran
  | some p => if p + 60 * chainInt s c ≤ s.clo.resumed then x.ran else decide (p + 60 * chainInt s c ≤ s.clo.minutes)

/-- BRAKE_TEST_DUE (R401) (DEDUCED, log entry 24). -/
def onBrakeTestDue (chain : Fin 8) (s : State) : State :=
  let x := chainSt s chain
  if chainType s chain = 5 && !(x.brake = 1 || x.brake = 2 || x.brake = 3)
      && brakeDue s chain then
    brakeTo chain 1 (setChain chain { x with dueAt := if x.brake = 0 || x.brake = 4 then s.clo.minutes else x.dueAt } s)
  else s

/-- A window's count enters the test; with all results in, it passes or fails (R401). -/
def brakeResult (chain : Nat) (enc1 : Bool) (count : Nat) (s : State) : State :=
    let x := chainSt s chain
    let rs := (x.results.filter fun r => r.1 != enc1) ++ [(enc1, count)]
    let s := setChain chain { x with results := rs } s
    let need := if chainEnc1 s chain then 2 else 1
    if rs.any fun r => decide (chainMotion s chain < r.2) then
      raise 307 (brakeTo chain 5 (setChain chain { chainSt s chain with failed := true } s))
    else if rs.length ≥ need then
      let s := setChain chain { chainSt s chain with failed := false, overdue := false, pass := some s.clo.minutes } s
      raise 307 (brakeTo chain 4 (journalWrite 2 chain s.clo.minutes s))
    else s

/-- BRAKE_WINDOW_RESULT (R401): the count of the encoder channel's window arrives through X12. -/
def onBrakeWindowResult (chain : Fin 8) (enc1 : Bool) (count : Nat) (s : State) : State :=
  if (chainSt s chain).brake ≠ 3 || (enc1 && !chainEnc1 s chain) then s
  else
    match x12Next s (.window (chainEnc s chain (b2n enc1))) 0 with
    | none => s
    | some m =>
      let ws := [BitVec.ofNat 64 count]
      x12Watch m ws (brakeResult chain enc1 ((m.data ws).headD 0).toNat (x12Done m s))

/-- BRAKE_RESULT_TIMEOUT (R401): a result is missing 10 ms after the window's close. -/
def onBrakeResultTimeout (chain : Fin 8) (s : State) : State :=
  let x := chainSt s chain
  let missing (e : Bool) : Bool :=
    let w := tsiOf s (chainEnc s chain (b2n e))
    x.results.all (fun r => r.1 != e) && w.window.isNone && decide (w.closedAt + 640000000 ≤ now s)
  if x.brake = 3 && (missing false || (chainEnc1 s chain && missing true)) then brakeTo chain 6 s else s

/-- BRAKE_TEST_OVERDUE (R401): brake_grace after it fell due the test has not passed. -/
def onBrakeTestOverdue (chain : Fin 8) (t : Tick) (s : State) : State :=
  let s := advance t s
  let x := chainSt s chain
  if chainType s chain = 5 && !(x.brake = 0 || x.brake = 4) && !x.overdue
      && decide (x.dueAt + 60 * chainGrace s chain ≤ s.clo.minutes) then
    fault 302 Src.clo 0 .corrected chain (setChain chain { x with overdue := true } s)
  else s

/-- A minute of powered time passes (R401, R421): the lock runs down (DEDUCED, log entry 25). -/
def minutePasses (k : Nat) (s : State) : State :=
  let s := { s with clo := { s.clo with minutes := s.clo.minutes + k } }
  if s.clo.pwLock = 0 then s else journalLock { s with clo := { s.clo with pwLock := s.clo.pwLock - k } }

/-- POWERED_TIME_TICK (R401): ten minutes of powered time since the counter was last written; it is written
(DEDUCED, log entry 25). -/
def onPoweredTimeTick (s : State) : State :=
  let k := s.clo.written + 10 - s.clo.minutes
  let s := minutePasses k s
  journalWrite 3 0 s.clo.minutes { s with clo := { s.clo with written := s.clo.minutes, cycles := 0 } }

/-- PASSWORD_LOCK_EXPIRE (R421): at most the last minute of the lock is left. -/
def onPasswordLockExpire (s : State) : State :=
  if 1 < s.clo.pwLock || s.clo.failures < 5 then s
  else journalLock { s with clo := { s.clo with pwLock := 0, failures := 0 } }

/-- The inputs in a cycle: how long their raw levels have held for R392, runs of low levels for R398, the press and the low run
of the reset input for R411. -/
def watchInputs (s : State) : State :=
  let s := (List.range 17).foldl (fun s n => setIn n { inSt s n with
    lowRun := if inLevel s n then 0 else (inSt s n).lowRun + 1, age := (inSt s n).age + 1 } s) s
  let high := inLevel s 16
  let low := if high then 0 else s.clo.lowRun + 1
  let press := if high then (if s.clo.lowRun = 0 then s.clo.press + 1 else 1) else if s.clo.lowRun = 0 then s.clo.press else 0
  { s with clo := { s.clo with lowRun := low, press := press, blocked := s.clo.blocked && decide (low < 2000) } }

/-- The cycle counts: since the self-test, since the last heartbeat, and as a share of powered time, 240,000 cycles a minute. -/
def cycleTime (s0 : State) : State :=
  let s := { s0 with clo := { s0.clo with cyc := s0.clo.cyc + 1, hbGap := s0.clo.hbGap + 1 } }
  if s.clo.cycles + 1 < 240000 then { s with clo := { s.clo with cycles := s.clo.cycles + 1 } }
  else minutePasses 1 { s with clo := { s.clo with cycles := 0 } }

/-- EVALUATION_CYCLE (R386): inputs, virtual inputs, chains and outputs, then the drives; the copies that the registers show
are updated (R430) (DEDUCED, log entry 23). -/
def onEvaluationCycle (hr lr : BitVec 4) (t : Tick) (s : State) : State :=
  let s := cycleTime (watchInputs (advance t s))
  let s := if s.clo.passed && !commissioning s then (usedChains s).foldl (fun s c => moveBrake c (moveChain c s)) s else s
  let s := (List.range 4).foldl (fun s x => moveOut x (hr.getLsbD x) (lr.getLsbD x) s) s
  { s with cloShown := s.clo }

/-! ### Testing the switches (R408 to R410) -/

/-- A switch's test is completed (R408, R410). -/
def testDone (x : Nat) (low : Bool) (s : State) : State :=
  let o := outSt s x
  setOut x (if low then { o with doneLo := s.clo.minutes, ivLow := false } else { o with doneHi := s.clo.minutes, ivHigh := false }) s

/-- test_int of an output in cycles (R408). -/
def testCycles (s : State) (x : Nat) : Nat := 4000 * ce s (0x148 + 8 * x) 0 12

/-- Whether the test of a side is to run again: its output has held its state for 1 s since the test was abandoned (R409). -/
def OutSt.retry (o : OutSt) (low : Bool) : Bool := decide (o.again = some low) && decide (4000 ≤ o.heldRun)

/-- Whether a test of a side begins (R408, R409): the high side's every test_int, the low side's test_int / 2 later in each
period, or one that was abandoned. -/
def testDue (s : State) (x : Nat) (low : Bool) : Bool :=
  let o := outSt s x
  let T := testCycles s x
  o.retry low || (if low then o.hiAt.any (fun h => decide (2 * h + T ≤ 2 * s.clo.cyc) && o.loAt.all fun l => decide (l ≤ h))
                  else o.hiAt.all fun h => decide (h + T ≤ s.clo.cyc))

/-- The test of a side begins: a repeated one is no longer owed, a scheduled one starts the side's next wait. -/
def OutSt.startTest (o : OutSt) (low : Bool) (cyc : Nat) : OutSt :=
  if o.retry low then { o with again := none } else if low then { o with loAt := some cyc } else { o with hiAt := some cyc }

/-- SWITCH_TEST (R408): a test begins at a cycle boundary; `hr` and `lr` are the readbacks of the test's cycle. -/
def onSwitchTest (out : Fin 4) (lowSide : Bool) (hr lr : Bool) (s0 : State) : State :=
  let s := setOut out ((outSt s0 out).startTest lowSide s0.clo.cyc) s0
  let o := outSt s out
  let on := o.hd && o.ld
  if !outEnabled s0 out || o.test.isSome || !s0.clo.passed || commissioning s0 || !testDue s0 out lowSide then s0
  else if on then
    setOut out { o with test := some (lowSide, true), hd := lowSide, ld := !lowSide } s
  else if !lowSide then
    if hr then (if o.faulty then s else outputFault out 3 s) else testDone out false s
  else if !hr && !lr && !o.faulty then setOut out { o with test := some (true, false), hd := true, ld := false } s
  else s

/-- SWITCH_TEST_END (R408, R409): the readbacks by the pulse's end complete the test or show an output fault. -/
def onSwitchTestEnd (out : Fin 4) (hr lr : Bool) (t : Tick) (s : State) : State :=
  let s := advance t s
  let o := outSt s out
  match o.test with
  | none => s
  | some (low, on) =>
    let ok := if on then (if low then lr else !hr) else hr && lr
    if ok then testDone out low (setOut out { o with test := none, hd := on, ld := on } s)
    else outputFault out (faultCode o.hd o.ld hr lr) s

/-- DIAG_INTERVAL_FAULT (R410): 24 h of powered time without a completed test of the switch. -/
def onDiagIntervalFault (out : Fin 4) (lowSide : Bool) (t : Tick) (s : State) : State :=
  let s := advance t s
  let o := outSt s out
  let done := if lowSide then o.doneLo else o.doneHi
  if outEnabled s out && decide (done + 1440 ≤ s.clo.minutes) then
    lockBegins (stick Reg.CLO_STICKY 1 (fault 302 Src.clo 0 .corrected out
      (setOut out (if lowSide then { o with ivLow := true, ivLock := true } else { o with ivHigh := true, ivLock := true }) s)))
  else s

/-! ### Reset (R411, R412) -/

/-- RESET_HOLD_TIMEOUT (R411): SRST_BTN has read 1 for longer than 3 s. -/
def onResetHoldTimeout (t : Tick) (s : State) : State :=
  let s := advance t s
  if inLevel s 16 && decide (12000 ≤ s.clo.press) then resetFault s else s

/-- The island faults that a reset may clear once their cause is gone (R387) (DEDUCED, log entry 24). -/
def islandResettable : BitVec 6 := 0b001100

/-- A reset of chain `c`, its causes gone (R412). -/
def resetChain (c : Nat) (s : State) : State :=
  let x := chainSt s c
  if x.state = 4 && decide (causesOf s c = 0) then stopChain c s
  else if x.state = 2 then runChain c s
  else s

/-- A reset of output `x`: its lock-outs whose causes are gone end (R407, R410, R412) (DEDUCED, log entry 24). -/
def resetOut (x : Nat) (s : State) : State :=
  let o := outSt s x
  let o : OutSt := if o.faulty && decide (4000 ≤ o.okRun) then { o with faulty := false, diag := 0 } else o
  setOut x { o with ivLock := o.ivLock && (o.ivHigh || o.ivLow) } s

/-- What a reset may change, to compare before and after. -/
def resetView (s : State) : BitVec 6 × Bool × List Nat × List (Bool × Bool) :=
  (s.clo.island, s.clo.partStop, (List.range 8).map fun c => (chainSt s c).state,
   (List.range 4).map fun x => ((outSt s x).faulty, (outSt s x).ivLock))

/-- RESET_RELEASE (R411, R412): a valid press, of 50 ms to 3 s, ends (DEDUCED, log entry 24). -/
def onResetRelease (t : Tick) (s : State) : State :=
  let s := advance t s
  if s.clo.blocked || !s.clo.passed || inLevel s 16 || !within 200 12000 s.clo.press then s
  else
    let s := { s with clo := { s.clo with press := 0 } }
    let v := resetView s
    let s := bump Reg.CLO_RESET_COUNT 1 s
    let ps := s.clo.partStop && !(decide (4000 ≤ s.clo.hbRun) && !s.fcl.fatal)
    let s := { s with clo := { s.clo with partStop := ps, island := s.clo.island &&& ~~~islandResettable } }
    let s := (usedChains s).foldl (fun s c => resetChain c s) s
    let s := (List.range 4).foldl (fun s x => resetOut x s) s
    if resetView s = v then s else raise 298 s

/-! ### Messages (R417, R418) -/

/-- tx_period and bc_timeout of a connection in cycles (R417, R418). -/
def txCycles (s : State) (c : Nat) : Nat := 4 * ce s (0x168 + 16 * c) 0 9
def timeoutCycles (s : State) (c : Nat) : Nat := 4 * ce s (0x168 + 16 * c) 16 10

/-- BC_TX_PERIOD (R417): every tx_period a status message, and a brake message while a test is not in state 0. -/
def onBcTxPeriod (conn : Fin 4) (t : Tick) (s : State) : State :=
  let s := advance t s
  if !s.clo.passed || decide (s.clo.cyc < (connSt s conn).txAt + txCycles s conn) then s
  else
    let s := setConn conn { connSt s conn with txAt := s.clo.cyc } s
    let s := bcSend conn 1 (statusPayload s) s
    (usedChains s).foldl (fun s c =>
      if chainType s c = 5 && chainBc s c = conn.val && (chainSt s c).brake ≠ 0 then brakeMessage c s else s) s

/-- Whether an inbound message passes every check but that of its sequence (R418) (DEDUCED, log entry 24). -/
def bcChecks (s : State) (c : Nat) (m : List Byte) : Bool :=
  decide (leAt m 28 4 = crc32k 0xFFFFFFFF (slice m 0 28 ++ leBytes 4 (connId s c))) && decide (leAt m 0 4 = connId s c)
  && decide (connId s c ≠ 0) && decide (leAt m 12 2 = connAge s c) && decide (leAt m 14 1 = 0x81) && within 2 12 (leAt m 15 1)
  && decide (((bcStamp s + (2 ^ 32 - leAt m 8 4)) % 2 ^ 32) * 1024 ≤ connAge s c * 1000 * 1000)

/-- BC_MESSAGE_RECEIVE (R418, R488): the message that the doorbell passed, or `msg` where none is pending
(DEDUCED, log entry 24). -/
def onBcMessageReceive (conn : Fin 4) (msg : List Byte) (t : Tick) (s : State) : State :=
  let s := advance t s
  let a := Tab.lookD s.hif.bc conn {}
  let msg := if a.pending then a.inSlot else msg
  let s := { s with hif := { s.hif with bc := Tab.put s.hif.bc conn { a with pending := false } } }
  if !s.clo.passed then s
  else
    let x := connSt s conn
    let q := leAt msg 4 4
    let open_ := !x.got || x.timeout
    if bcChecks s conn msg && !open_ && decide (x.rxSeq = some q) then setConn conn { x with repeats := x.repeats + 1 } s
    else if bcChecks s conn msg && (open_ || decide (x.rxSeq.map (fun p => (p + 1) % 2 ^ 32) = some q)) then
      setConn conn { x with rxSeq := some q, got := true, timeout := false, gotAt := s.clo.cyc, vi := leAt msg 16 1,
                            torque := bitB (leAt msg 17 1) 0, abort := bitB (leAt msg 17 1) 1 } s
    else
      let s := stick Reg.CLO_STICKY 2 (bump Reg.CLO_BC_ERR 1 s)
      if s.clo.bcEvent.any fun e => decide (now s < e + 64000000000) then s
      else raise 306 { s with clo := { s.clo with bcEvent := some (now s) } }

/-- BC_TIMEOUT (R418): no message has been accepted for bc_timeout. -/
def onBcTimeout (conn : Fin 4) (t : Tick) (s : State) : State :=
  let s := advance t s
  if connId s conn = 0 || !s.clo.passed || decide (s.clo.cyc < (connSt s conn).gotAt + timeoutCycles s conn) then s else stick Reg.CLO_STICKY 2 (setConn conn { connSt s conn with timeout := true } s)

/-- SESSION_TIMEOUT (R419): 15 minutes without a command end a session. -/
def onSessionTimeout (s : State) : State :=
  if s.clo.session && decide (s.clo.sessionAt + 15 ≤ s.clo.minutes) then { s with clo := { s.clo with session := false, staged := none } }
  else s

/-! ### Registers (R430) -/

/-- The chain whose brake test CLO_BRAKE_STAT shows: the first with a test, else the first brake chain. -/
def brakeShown (s : State) : Option Nat :=
  match (usedChains s).find? fun c => chainType s c = 5 && (chainSt s c).brake ≠ 0 with
  | some c => some c
  | none => (usedChains s).find? fun c => chainType s c = 5

/-- The CLO registers that are not stored (R430): they show the copies of the last evaluation cycle. -/
def cloView (s0 : State) (off : Nat) : Option Nat :=
  let s := { s0 with clo := s0.cloShown }
  let last (n : Nat) : FieldFrame := (judgedFrames (fieldSt s n)).headD {}
  let used := usedSets s
  if off = Reg.CLO_STATUS then
    some ((if commissioning s && s.clo.passed then 3 else if s.clo.island ≠ 0 then 2 else if s.clo.passed then 1 else 0)
      + 4 * b2n s.clo.partStop + 8 * b2n s.clo.blocked + 256 * maskBits 8 (fun c => (chainSt s c).state = 3)
      + 2 ^ 16 * maskBits 4 (fun x => (outSt s x).hd && (outSt s x).ld) + 2 ^ 20 * maskBits 4 (outLocked s))
  else if off = Reg.CLO_CHAIN_STAT then
    let c := rdf s Fld.CLO_CHAIN_SEL_chain
    let x := chainSt s c
    some (x.state + 8 * x.causes + 2 ^ 11 * x.demand)
  else if off = Reg.CLO_SI_LEVEL then
    some (maskBits 17 (fun n => (inSt s n).filt) + 2 ^ 20 * (15 - s.clo.tpLow.toNat) * b2n s.clo.passed)
  else if off = Reg.CLO_SI_FAULT then some (maskBits 16 fun n => (inSt s n).bad)
  else if off = Reg.CLO_FIELD_STAT then
    some (maskBits 8 (fun n => used.contains n && setDemands s n) + 256 * maskBits 8 (fun n => used.contains n && (last n).mism)
      + 2 ^ 16 * maskBits 8 fun n => used.contains n && (last n).miss)
  else if off = Reg.CLO_ZONE_LO then some (s.clo.zones.demand % 2 ^ 32)
  else if off = Reg.CLO_ZONE_HI then some (s.clo.zones.demand / 2 ^ 32)
  else if off = Reg.CLO_BC_STAT then some (maskBits 4 (fun c => (connSt s c).got) + 16 * maskBits 4 fun c => (connSt s c).timeout)
  else if off = Reg.CLO_LOG_COUNT then some s.nvm.safety.log.length
  else if off = Reg.CLO_PW_LOCK then some (s.clo.pwLock % 64 + 256 * (s.clo.failures % 8))
  else if off = Reg.CLO_BRAKE_STAT then
    some ((brakeShown s).elim 0 fun c => (chainSt s c).brake + 16 * c + 2 ^ 16 * uval 16 (quantOf s (brakeHours s c)))
  else if off ≥ Reg.CLO_OUT_STAT 0 && off ≤ Reg.CLO_OUT_STAT 3 then
    let x := (off - Reg.CLO_OUT_STAT 0) / 4
    let o := outSt s x
    some (b2n o.hd + 2 * b2n o.ld + 4 * b2n o.hr + 8 * b2n o.lr + 16 * o.diag + 128 * b2n (outLocked s x) + 256 * o.lost)
  else if off ≥ Reg.CLO_TEST_AGE 0 && off ≤ Reg.CLO_TEST_AGE 3 then
    let o := outSt s ((off - Reg.CLO_TEST_AGE 0) / 4)
    some (min 65535 (s.clo.minutes - o.doneHi) + 2 ^ 16 * min 65535 (s.clo.minutes - o.doneLo))
  else none

/-! ### Meanings -/

/-- The meaning of this command: the step of `onIslandFault` (R387). -/
def execIslandFault (cause : IslandCause) (t : Tick) (s : State) : Host.Outcome State Fault Refusal :=
  .next (onIslandFault cause t s)

/-- The meaning of this command: the step of `onPartStop` (R388). -/
def execPartStop (t : Tick) (s : State) : Host.Outcome State Fault Refusal :=
  .next (onPartStop t s)

/-- The meaning of this command: the step of `onHeartbeat` (R388). -/
def execHeartbeat (s : State) : Host.Outcome State Fault Refusal :=
  .next (onHeartbeat s)

/-- The meaning of this command: the step of `onHeartbeatTimeout` (R388). -/
def execHeartbeatTimeout (t : Tick) (s : State) : Host.Outcome State Fault Refusal :=
  .next (onHeartbeatTimeout t s)

/-- The meaning of this command: the step of `onSafeInputChange` (R392). -/
def execSafeInputChange (input : Fin 17) (level : Bool) (s : State) : Host.Outcome State Fault Refusal :=
  .next (onSafeInputChange input level s)

/-- The meaning of this command: the step of `onSiFilterExpire` (R392). -/
def execSiFilterExpire (input : Fin 17) (s : State) : Host.Outcome State Fault Refusal :=
  .next (onSiFilterExpire input s)

/-- The meaning of this command: the step of `onTestPulseStart` (R394). -/
def execTestPulseStart (tp : Fin 4) (s : State) : Host.Outcome State Fault Refusal :=
  .next (onTestPulseStart tp s)

/-- The meaning of this command: the step of `onTestPulseEnd` (R395). -/
def execTestPulseEnd (tp : Fin 4) (atEnd : BitVec 16) (after : BitVec 16) (t : Tick) (s : State) : Host.Outcome State Fault Refusal :=
  .next (onTestPulseEnd tp atEnd after t s)

/-- The meaning of this command: the step of `onDiscrepancyTimeout` (R398). -/
def execDiscrepancyTimeout (chain : Fin 8) (button : Fin 2) (t : Tick) (s : State) : Host.Outcome State Fault Refusal :=
  .next (onDiscrepancyTimeout chain button t s)

/-- The meaning of this command: the step of `onTwohandTimeout` (R399). -/
def execTwohandTimeout (chain : Fin 8) (s : State) : Host.Outcome State Fault Refusal :=
  .next (onTwohandTimeout chain s)

/-- The meaning of this command: the step of `onVerdictWordArrive` (R402). -/
def execVerdictWordArrive (frame : BitVec 24) (words : List Word64) (t : Tick) (s : State) : Host.Outcome State Fault Refusal :=
  .next (onVerdictWordArrive frame words t s)

/-- The meaning of this command: the step of `onZoneWordArrive` (R404). -/
def execZoneWordArrive (interval : BitVec 24) (words : List Word64) (t : Tick) (s : State) : Host.Outcome State Fault Refusal :=
  .next (onZoneWordArrive interval words t s)

/-- The meaning of this command: the step of `onClassifierDeadline` (R404). -/
def execClassifierDeadline (interval : BitVec 24) (t : Tick) (s : State) : Host.Outcome State Fault Refusal :=
  .next (onClassifierDeadline interval t s)

/-- The meaning of this command: the step of `onTineResultArrive` (R402). -/
def execTineResultArrive (slot : Fin 16) (frame : BitVec 24) (header : Word64) (words : List Word64) (t : Tick) (s : State) :
    Host.Outcome State Fault Refusal :=
  .next (onTineResultArrive slot frame header words t s)

/-- The meaning of this command: the step of `onVerdictDeadline` (R402). -/
def execVerdictDeadline (frame : BitVec 24) (tine : Bool) (t : Tick) (s : State) : Host.Outcome State Fault Refusal :=
  .next (onVerdictDeadline frame tine t s)

/-- The meaning of this command: the step of `onBrakeTestDue` (R401). -/
def execBrakeTestDue (chain : Fin 8) (s : State) : Host.Outcome State Fault Refusal :=
  .next (onBrakeTestDue chain s)

/-- The meaning of this command: the step of `onBrakeWindowResult` (R401). -/
def execBrakeWindowResult (chain : Fin 8) (enc1 : Bool) (count : Nat) (s : State) : Host.Outcome State Fault Refusal :=
  .next (onBrakeWindowResult chain enc1 count s)

/-- The meaning of this command: the step of `onBrakeResultTimeout` (R401). -/
def execBrakeResultTimeout (chain : Fin 8) (s : State) : Host.Outcome State Fault Refusal :=
  .next (onBrakeResultTimeout chain s)

/-- The meaning of this command: the step of `onBrakeTestOverdue` (R401). -/
def execBrakeTestOverdue (chain : Fin 8) (t : Tick) (s : State) : Host.Outcome State Fault Refusal :=
  .next (onBrakeTestOverdue chain t s)

/-- The meaning of this command: the step of `onPoweredTimeTick` (R401). -/
def execPoweredTimeTick (s : State) : Host.Outcome State Fault Refusal :=
  .next (onPoweredTimeTick s)

/-- The meaning of this command: the step of `onPasswordLockExpire` (R421). -/
def execPasswordLockExpire (s : State) : Host.Outcome State Fault Refusal :=
  .next (onPasswordLockExpire s)

/-- The meaning of this command: the step of `onEvaluationCycle` (R386). -/
def execEvaluationCycle (hr : BitVec 4) (lr : BitVec 4) (t : Tick) (s : State) : Host.Outcome State Fault Refusal :=
  .next (onEvaluationCycle hr lr t s)

/-- The meaning of this command: the step of `onSwitchTest` (R408). -/
def execSwitchTest (out : Fin 4) (lowSide : Bool) (hr : Bool) (lr : Bool) (s : State) : Host.Outcome State Fault Refusal :=
  .next (onSwitchTest out lowSide hr lr s)

/-- The meaning of this command: the step of `onSwitchTestEnd` (R408). -/
def execSwitchTestEnd (out : Fin 4) (hr : Bool) (lr : Bool) (t : Tick) (s : State) : Host.Outcome State Fault Refusal :=
  .next (onSwitchTestEnd out hr lr t s)

/-- The meaning of this command: the step of `onDiagIntervalFault` (R410). -/
def execDiagIntervalFault (out : Fin 4) (lowSide : Bool) (t : Tick) (s : State) : Host.Outcome State Fault Refusal :=
  .next (onDiagIntervalFault out lowSide t s)

/-- The meaning of this command: the step of `onResetHoldTimeout` (R411). -/
def execResetHoldTimeout (t : Tick) (s : State) : Host.Outcome State Fault Refusal :=
  .next (onResetHoldTimeout t s)

/-- The meaning of this command: the step of `onResetRelease` (R412). -/
def execResetRelease (t : Tick) (s : State) : Host.Outcome State Fault Refusal :=
  .next (onResetRelease t s)

/-- The meaning of this command: the step of `onBcTxPeriod` (R417). -/
def execBcTxPeriod (conn : Fin 4) (t : Tick) (s : State) : Host.Outcome State Fault Refusal :=
  .next (onBcTxPeriod conn t s)

/-- The meaning of this command: the step of `onBcMessageReceive` (R418). -/
def execBcMessageReceive (conn : Fin 4) (msg : List Byte) (t : Tick) (s : State) : Host.Outcome State Fault Refusal :=
  .next (onBcMessageReceive conn msg t s)

/-- The meaning of this command: the step of `onBcTimeout` (R418). -/
def execBcTimeout (conn : Fin 4) (t : Tick) (s : State) : Host.Outcome State Fault Refusal :=
  .next (onBcTimeout conn t s)

/-- The meaning of this command: the step of `onSessionTimeout` (R419). -/
def execSessionTimeout (s : State) : Host.Outcome State Fault Refusal :=
  .next (onSessionTimeout s)

end Sys2Proof.Machine
end

