-- ==== Sys2Proof/Machine/Esq.lean ====
section
/-! DEFINITION. The emitter sequencer and the Dibber (R101 to R124): rails, index edges, periods, dither, ledger, slot
decisions, shots. Column and frame boundaries are in Lidar.lean. -/

namespace Sys2Proof.Machine

/-! ### Rails (R105, R106) -/

def railOf (s : State) (r : Nat) : RailSt := Tab.lookD s.esq.rails r {}

def setRail (r : Nat) (x : RailSt) (s : State) : State := { s with esq := { s.esq with rails := Tab.put s.esq.rails r x } }

/-- The banks of rail `r` that are fitted. -/
def railBanks (s : State) (r : Nat) : List Nat :=
  ((List.range 4).map (4 * r + ·)).filter fun b => bitB (rdf s Fld.ESQ_BANK_PRESENT_mask) b

/-- Each of the banks sends its own contained message of `kind`; the fence that the message brings raises EVT 159 of the bank
(R105, R106, R500). -/
def fenceBanks (kind : Nat) (bs : List Nat) (s : State) : State :=
  bs.foldl (fun s b => post Src.esq b .contained kind 0 s) s

/-- The measurement of a rail is recorded (R105): `time` in steps of 0.1 µs, none when the comparator never reported. -/
def railRecord (r : Nat) (time : Option Nat) (s : State) : State :=
  let tmin := rdf s (Fld.ESQ_RAIL_WIN_t_min r)
  let tmax := rdf s (Fld.ESQ_RAIL_WIN_t_max r)
  let crossed := time.filter fun x => decide (x ≤ 2 * tmax) || decide (tmax = 0)
  let short := decide (tmax ≠ 0) && crossed.any fun x => decide (x < tmin)
  let absent := decide (tmax ≠ 0) && crossed.isNone
  setRail r { railOf s r with time := min (crossed.getD (time.getD 0)) 65535, done := true, short := short,
                              absent := absent } s

/-- The measurement of a rail before the first frame and its outcome (R105). -/
def railMeasured (r : Nat) (time : Option Nat) (s : State) : State :=
  let s := railRecord r time s
  let x := railOf s r
  let bs := railBanks s r
  if x.short || (x.absent && !bs.isEmpty) then fenceBanks 148 bs (raise 148 s) else s

/-- The rail of the bank under graft (R509). -/
def graftRail (s : State) : Option Nat :=
  match s.fcl.graft with
  | some g => if decide (0x30 ≤ g.unit) && decide (g.unit < 0x40) then some ((g.unit - 0x30) / 4) else none
  | none => none

/-- The rail measurement of a bank's graft (R105, R509): its outcome decides the self-test. -/
def railGraft (r : Nat) (time : Option Nat) (s : State) : State :=
  let s := railRecord r time s
  { s with esq := { s.esq with gRail := some (!(railOf s r).short && !(railOf s r).absent) } }

/-- A column ends: a column without a low state of the rail of the bank under graft counts, one with it begins the count anew
(R509). -/
def graftColumn (s : State) : State :=
  if (graftRail s).isNone then s
  else { s with esq := { s.esq with gCols := if s.esq.gClean then s.esq.gCols + 1 else 0, gClean := true } }

/-- The comparator state of a rail at a fire tick (R106), `low` when below the lower band limit: a run of rail_low_n low
shots fences the rail's present banks that are not yet fenced. -/
def railShot (r : Nat) (low : Bool) (s : State) : State :=
  let n := rdf s Fld.ESQ_RAIL_LOW_CFG_rail_low_n
  let x := railOf s r
  let run := if low then x.lowRun + 1 else 0
  let hit := decide (n ≠ 0) && decide (run ≥ n) && !x.lowEvt
  let s := setRail r { x with lowRun := run, lowEvt := low && (x.lowEvt || hit) } s
  let s := if low && decide (graftRail s = some r) then { s with esq := { s.esq with gClean := false } } else s
  if hit then
    fenceBanks 149 ((railBanks s r).filter fun b => !isFenced s (Unit.bank b))
      (stick Reg.ESQ_STICKY 4 (raise 149 s))
  else s

/-! ### Period and index (R108, R109) -/

/-- The nominal period in 2^-16 tick. -/
def pNom (s : State) : Nat := pf s 0x10 0 20 * 64000 * 65536

def pickChan (s : State) : Nat := pf s 0x0C 12 4

/-- The period in use, the latest valid estimate, and whether it is the nominal one (R108). -/
def choosePeriod (s : State) : Nat × Bool :=
  let x := tsiOf s (pickChan s)
  let n := pNom s
  let tol := n * pf s 0x10 24 4 / 100
  match x.valid with
  | some p => if p ≤ n + tol && decide (n ≤ p + tol) then (p, false) else (n, true)
  | none => (n, true)

/-- The period that index edges are judged with: that of the frame in progress, else the one in use now. -/
def curPeriod (s : State) : Nat := if s.esq.frame.active then s.esq.frame.period else (choosePeriod s).1

/-- idx_tol in 0.1 %. -/
def idxTol (s : State) : Nat := pf s 0x0C 25 7

/-- Schedule the forward frame that follows an index stamp (R110). -/
def scheduleFrames (stamp : Tick) (predicted realPair : Bool) (s : State) : State :=
  let f : PendFrame := ⟨floorEdge s (stamp + 64000 * pf s 0x14 0 16), stamp, predicted, realPair, false, s.esq.misses⟩
  if stamp < s.esq.minStamp then s
  else { s with esq := { s.esq with pend := s.esq.pend ++ [f] } }

/-- The backward frame that follows forward frame `p` of period `per` half a period later (R110). -/
def scheduleBack (p : PendFrame) (per : Nat) (s : State) : State :=
  if pf s 0 4 1 = 1 && !p.backward then
    { s with esq := { s.esq with pend :=
      { p with at_ := floorEdge s (p.at_ + per / 131072), backward := true } :: s.esq.pend } }
  else s

/-- The predicted stamp of R109. -/
def predictedStamp (s : State) (sp : Tick) : Tick := sp + curPeriod s / 65536

/-- The index is missing: the predicted stamp stands in for it (R109). -/
def indexMissing (sp : Tick) (s : State) : State :=
  let p := predictedStamp s sp
  let s := { s with esq := { s.esq with prevIdx := some p, prevReal := false, misses := s.esq.misses + 1 } }
  scheduleFrames p true false (stick Reg.ESQ_STICKY 0 (bump Reg.ESQ_INDEX_MISS 1 (raise 152 s)))

/-- The next index has come at `t`. -/
def indexReal (t : Tick) (s : State) : State :=
  let pair := s.esq.prevReal
  scheduleFrames t false pair { s with esq := { s.esq with prevIdx := some t, prevReal := true, misses := 0 } }

/-- Judge an edge at `t` against the previous index stamp `sp`: 0 the next index, 1 spurious, 2 later than the interval. -/
def judgeEdge (s : State) (sp t : Tick) : Nat :=
  let p := curPeriod s
  let tol := p * idxTol s / 1000
  let d := (t - sp) * 65536
  if d + tol < p then 1 else if d ≤ p + tol then 0 else 2

/-- INDEX_EDGE (R109): the accepted pick-off edge at stamp `t` is the next index, or spurious; an edge later than the
interval finds the index missing first. -/
def onIndexEdge (t : Tick) (s : State) : State :=
  let s := advance t s
  if !hasLidar s || s.esq.plan.isNone then s
  else
    match s.esq.prevIdx with
    | none => indexReal t s
    | some sp =>
      if judgeEdge s sp t = 0 then indexReal t s
      else if judgeEdge s sp t = 1 then bump Reg.ESQ_INDEX_SPUR 1 s
      else
        let s := indexMissing sp s
        if judgeEdge s (predictedStamp s sp) t = 0 then indexReal t s else bump Reg.ESQ_INDEX_SPUR 1 s

/-- ESQ_INDEX_MISSING (R109): no index by s_p + P (1 + idx_tol). -/
def onEsqIndexMissing (t : Tick) (s : State) : State :=
  let s := advance t s
  match s.esq.prevIdx with
  | some sp => if hasLidar s && decide (judgeEdge s sp t = 2) then indexMissing sp s else s
  | none => s

/-! ### Dither (R116) -/

/-- One step of the Galois LFSR. -/
def lfsrStep (x : Nat) : Nat := if x % 2 = 1 then Nat.xor (x / 2) 0x80200003 else x / 2

/-- `n` steps. -/
def lfsrSteps (n x : Nat) : Nat :=
  match n with
  | 0 => x
  | n + 1 => lfsrSteps n (lfsrStep x)

/-- The seed of a column. -/
def ditherSeed (nCol : Nat) : Nat :=
  let u := Config.uid.toNat
  let x := Nat.xor (Nat.xor (u % 2 ^ 32) (u / 2 ^ 32)) (nCol * 0x9E3779B9 % 2 ^ 32)
  if x = 0 then 1 else x

/-- The dither of bank `b` in slot `i`, in ns: the draw after 16 i + b earlier ones. -/
def dither (s : State) (i b : Nat) : Nat :=
  if pf s 0 5 1 = 0 then 0 else lfsrSteps (8 * (16 * i + b + 1)) (ditherSeed (s.esq.nCol % 2 ^ 32)) % 256

/-! ### Slots (R114) -/

abbrev tSpTicks : Nat := 2000 * 64

/-- The start of slot `i` of the column in progress. -/
def slotStart (s : State) (i : Nat) : Tick :=
  let c := s.esq.col
  let g := max (planGate s) 2000
  let u := (c.nomEnd - c.start) - 64 * (g + 256)
  floorEdge s (c.start + i * u / 2 ^ planSlotLog s)

/-- The tick of the decision of slot `i` (R123): the column's opening for slot 0, else its start less t_DEC (64 ns). -/
def slotDecisionTick (s : State) (i : Nat) : Tick := if i = 0 then s.esq.col.start else slotStart s i - 64 * 64

/-! ### The ledger (R118 to R121, R441) -/

def ledgerRec (s : State) : Option ImgRec := recOf s 0x0702

def nSectors (s : State) : Nat := (ledgerRec s).elim 0 fun r => rf r 8 0 7
def bucketLen (s : State) (j : Nat) : Nat := (ledgerRec s).elim 0 fun r => rf r (4 * j) 0 24
def bankEnergy (s : State) (b : Nat) : Nat := (ledgerRec s).elim 0 fun r => rf r (0x0C + 4 * b) 0 32
/-- Word `w` of sector `i`: 0 u_lo, 1 u_hi, 2 banks, 3 B0, 4 B1. -/
def sectorWord (s : State) (i w : Nat) : Nat := (ledgerRec s).elim 0 fun r => rf r (0x4C + 20 * i + 4 * w) 0 32

/-- A shot of bank `b` in the column's interval is charged to sector `i` (R119). -/
def charged (s : State) (i b : Nat) : Bool :=
  let sp := colSpan s s.esq.col.k s.esq.frame.backward
  bitB (sectorWord s i 2) b && decide (sectorWord s i 0 < sp.2) && decide (sp.1 < sectorWord s i 1)

/-- The bucket of a fire tick in window `j`. -/
def bucketOf (s : State) (j : Nat) (f : Tick) : Nat := f / (bucketLen s j * 64000)

/-- The 17-bucket sum of a sector and window up to bucket `q` (R120). -/
def ledgerSum (s : State) (i j q : Nat) : Nat :=
  let t := Tab.lookD s.esq.ledA (2 * i + j) []
  sumN ((t.filter fun e => decide (q ≤ e.1 + 16) && decide (e.1 ≤ q)).map (·.2))

/-- The sector and window pairs that a shot of bank `b` touches. -/
def ledgerPairs (s : State) (b : Nat) : List (Nat × Nat) :=
  ((List.range (nSectors s)).filter fun i => charged s i b).flatMap fun i =>
    ((List.range 2).filter fun j => decide (bucketLen s j ≠ 0)).map fun j => (i, j)

/-- The pairs that refuse the shot at `f` (R120). -/
def ledgerRefusals (s : State) (b : Nat) (f : Tick) : List (Nat × Nat) :=
  (ledgerPairs s b).filter fun p =>
    decide (sectorWord s p.1 (3 + p.2) < ledgerSum s p.1 p.2 (bucketOf s p.2 f) + bankEnergy s b)

/-- The copies of a touched bucket agree: A + B = 0 (R121). -/
def ledgerOk (s : State) (b : Nat) (f : Tick) : Bool :=
  (ledgerPairs s b).all fun p =>
    let q := bucketOf s p.2 f
    let a : Nat := Tab.lookD (Tab.lookD s.esq.ledA (2 * p.1 + p.2) []) q 0
    decide ((a : Int) + Tab.lookD (Tab.lookD s.esq.ledB (2 * p.1 + p.2) []) q 0 = 0)

/-- Charge the shot to both copies of every touched bucket; buckets that no later shot can sum are dropped: a later bank of the
slot may fire, by its dither, one bucket earlier (R116, R120). -/
def ledgerCharge (b : Nat) (f : Tick) (s : State) : State :=
  (ledgerPairs s b).foldl (fun s p =>
    let q := bucketOf s p.2 f
    let key := 2 * p.1 + p.2
    let a := (Tab.lookD s.esq.ledA key []).filter fun e => decide (q ≤ e.1 + 17)
    let c := (Tab.lookD s.esq.ledB key []).filter fun e => decide (q ≤ e.1 + 17)
    let e := bankEnergy s b
    { s with esq := { s.esq with ledA := Tab.put s.esq.ledA key (Tab.upd a q 0 (· + e)),
                                 ledB := Tab.put s.esq.ledB key (Tab.upd c q 0 (· - (e : Int))) } }) s

/-- A ledger copy mismatch or ECC error is fatal, and no further shot starts (R121). -/
def ledgerFault (s : State) : State :=
  fault 151 Src.esq 0 .fatal 0 { s with esq := { s.esq with ledBad := true } }

/-! ### The slot decision (R122, R123) -/

def bankCol (s : State) (b : Nat) : BankCol := Tab.lookD s.esq.banks b {}

def setBankCol (b : Nat) (x : BankCol) (s : State) : State := { s with esq := { s.esq with banks := Tab.put s.esq.banks b x } }

/-- The channels of bank `b` in unfenced strips that are not certain (R122). -/
def uncertainCount (s : State) (b : Nat) : Nat :=
  let target := pf s 8 24 8
  ((List.range 32).filter fun i =>
    let c := 32 * b + i
    !isFenced s (Unit.strip (c / 16)) && decide ((Tab.lookD s.hse.bufs c {}).conf < target)).length

/-- Bank `b` is uncertain (R122). -/
def uncertain (s : State) (b : Nat) : Bool :=
  let u := pf s 0x0C 16 6
  decide (u ≠ 0) && decide (pf s 8 24 8 ≠ 0) && decide (u ≤ uncertainCount s b)

def isAble (s : State) (b : Nat) : Bool := s.esq.col.able.getLsbD b

/-- A suppression by grant of bank `b`. -/
def suppressGrant (b : Nat) (mandatory : Bool) (s : State) : State :=
  let x := bankCol s b
  let s := bumpAt Reg.ESQ_SUPP_GRANT 0 32 1 (setBankCol b { x with sGrant := min (x.sGrant + 1) 63 } s)
  if mandatory then
    let s := stick Reg.ESQ_STICKY 3 s
    if s.esq.evGrant then s else raise 155 { s with esq := { s.esq with evGrant := true } }
  else s

/-- A suppression by spacing (R103). -/
def suppressSpacing (b : Nat) (s : State) : State :=
  let x := bankCol s b
  let s := stick Reg.ESQ_STICKY 6 (bumpAt Reg.ESQ_SUPP_SPACING 0 32 1 (setBankCol b { x with sSpace := min (x.sSpace + 1) 63 } s))
  if s.esq.evSpace then s else raise 158 { s with esq := { s.esq with evSpace := true } }

/-- A suppression by the ledger (R120). -/
def suppressLedger (b : Nat) (refusals : List (Nat × Nat)) (s : State) : State :=
  let x := bankCol s b
  let s := stick Reg.ESQ_STICKY 2 (bumpAt Reg.ESQ_SUPP_LEDGER 0 32 1 (setBankCol b { x with sLedger := min (x.sLedger + 1) 63 } s))
  let s := (refusals.map (·.1)).eraseDups.foldl (fun s i => bumpSat (Reg.ESQ_SECTOR_SUPP i) 0 16 1 s) s
  if s.esq.evLedger then s else raise 150 { s with esq := { s.esq with evLedger := true } }

/-- place(b) of R123 in slot `i`. -/
def placeShot (i b : Nat) (s : State) : State :=
  let f := slotStart s i + 64 * dither s i b
  let x := bankCol s b
  if (Tab.look s.esq.lastPulse b).any fun l => decide (f < l + tSpTicks) then suppressSpacing b s
  else if !(ledgerRefusals s b f).isEmpty then suppressLedger b (ledgerRefusals s b f) s
  else if !ledgerOk s b f then ledgerFault s
  else
    let ref := s.esq.col.refCol && decide (x.fired = 0)
    let s := ledgerCharge b f s
    let s := setBankCol b { x with fired := x.fired + 1, slots := x.slots + 2 ^ i } s
    { s with esq := { s.esq with shots := s.esq.shots ++ [⟨b, i, f, ref, false⟩],
                                 lastPulse := Tab.put s.esq.lastPulse b f,
                                 col := { s.esq.col with left := s.esq.col.left - 1 } } }

/-- The level step of the uncertain able banks (R123). -/
def raiseLevels (s : State) : State :=
  (List.range 16).foldl (fun s b =>
    let x := bankCol s b
    if isAble s b && uncertain s b && decide (x.level < planNmax s b) then setBankCol b { x with level := x.level + 1 } s
    else s) s

/-- The mandatory shots still to come after slot `i` (R123). -/
def reserveAfter (s : State) (i : Nat) : Nat :=
  sumN ((List.range 16).map fun b =>
    if isAble s b then
      ((List.range (2 ^ planSlotLog s)).filter fun t => decide (i < t) && slotMine s t && decide (slotRank s t < planNmin s b)).length
    else 0)

/-- SLOT_DECISION (R123): at the TB edge of the slot's decision the levels rise, mandatory shots are placed or suppressed in bank order, then candidates in the
order of their uncertain channel counts. -/
def onSlotDecision (slot : Fin 32) (t : Tick) (s : State) : State :=
  let s := advance t s
  let d := slotDecisionTick s slot
  if s.esq.col.active && decide (slot.val = s.esq.col.slotNext) && decide (slot.val < 2 ^ planSlotLog s) && decide (d ≤ t)
      && decide (t < d + 64) && !s.esq.stopped && !s.esq.ledBad then
    let s := { s with esq := { s.esq with col := { s.esq.col with slotNext := slot.val + 1 } } }
    let s := if slot.val = 0 then s else raiseLevels s
    if slotMine s slot then
      let r := slotRank s slot
      let reserve := reserveAfter s slot
      let s := (List.range 16).foldl (fun s b =>
        if isAble s b && decide (r < planNmin s b) && !s.esq.ledBad then
          if s.esq.col.left = 0 then suppressGrant b true s else placeShot slot b s
        else s) s
      let counts := (List.range 16).map fun b => (b, uncertainCount s b)
      let order := (sortBy (fun a b => decide (b.2 < a.2)) counts).map (·.1)
      order.foldl (fun s b =>
        if isAble s b && decide (planNmin s b ≤ r) && decide (r < (bankCol s b).level) && uncertain s b && !s.esq.ledBad then
          if s.esq.col.left ≤ reserve then suppressGrant b false s else placeShot slot b s
        else s) s
    else s
  else s

/-! ### Shots -/

/-- Mark the first shot of bank `b` at tick `t` that has not fired as fired. -/
def markFired (b : Nat) (t : Tick) (l : List Shot) : List Shot :=
  match l with
  | [] => []
  | f :: r => if decide (f.bank = b) && decide (f.tick = t) && !f.fired then { f with fired := true } :: r else f :: markFired b t r

/-- The HSE front takes the fire tick of a shot that is no reference shot (R117, R137, R144): the bank's channels count
it, and in fine windows when it follows the lock tick. -/
def frontShot (b : Nat) (t : Tick) (s : State) : State :=
  (List.range 32).foldl (fun s i =>
    let c := 32 * b + i
    if isFenced s (Unit.strip (c / 16)) then s
    else
      let x := Tab.lookD s.hse.bufs c {}
      let y : ChanBuf := { x with n := x.n + 1,
                                  nf := if x.lock.any fun l => decide (l < t) then x.nf + 1 else x.nf }
      { s with hse := { s.hse with bufs := Tab.put s.hse.bufs c y } }) s

/-- The rail comparator of a bank as the loop last sampled it, low when below the lower band limit (R106). -/
def railIsLow (s : State) (r : Nat) : Bool := (Tab.lookD s.cle.loops r {}).below

/-- The width of the fire pulse in ns (R125). -/
def fireWidth (s : State) : Nat := pf s 8 16 5

/-- The level of the fire output of bank `b` at tick `t`, counted from t_FO after the fire tick: 1 in the pulse of a shot, else
0 (R101). -/
def fireLevel (s : State) (b : Nat) (t : Tick) : Bool :=
  (Tab.look s.esq.fires b).any fun p => decide (p.1 ≤ t) && decide (t < p.2)

/-- SHOT_FIRE (R101, R106, R117): the placed shot of the bank at tick `t` fires; its rail's comparator is recorded, and in
deepen mode the partner is told (R124). After
a ledger fault or a loss of lock no shot starts (R46, R121) (DESIGN CHOICE, log entry 5). -/
def onShotFire (bank : Fin 16) (t : Tick) (s : State) : State :=
  let s := advance t s
  match s.esq.shots.find? fun f => decide (f.bank = bank.val) && decide (f.tick = t) && !f.fired with
  | none => s
  | some f =>
    if s.esq.ledBad || s.esq.stopped then s
    else
      let s := { s with esq := { s.esq with shots := markFired bank t s.esq.shots,
                                            fires := Tab.put s.esq.fires bank (t, t + 64 * fireWidth s) } }
      let s := bumpSat Reg.ESQ_SHOTS 0 32 1 s
      let s := railShot (bank / 4) (railIsLow s (bank / 4)) s
      let s := toPartner (.deepFire [(bank.val, f.slot, t)]) s
      if f.ref then s else frontShot bank t s

/-- DEEP_FIRE (R124): the partner's fire ticks, for the quiet-hit test and the merge. -/
def onDeepFire (shots : List (Fin 16 × Nat × Tick)) (s : State) : State :=
  if s.hse.role = .single then s
  else
    let new : List Shot := shots.map fun p => ⟨p.1.val, p.2.1, p.2.2, false, true⟩
    { s with esq := { s.esq with partnerShots := s.esq.partnerShots ++ new } }

/-! ### Meanings -/

/-- The meaning of this command: the step of `onIndexEdge` (R109). -/
def execIndexEdge (t : Tick) (s : State) : Host.Outcome State Fault Refusal :=
  .next (onIndexEdge t s)

/-- The meaning of this command: the step of `onEsqIndexMissing` (R109). -/
def execEsqIndexMissing (t : Tick) (s : State) : Host.Outcome State Fault Refusal :=
  .next (onEsqIndexMissing t s)

/-- The meaning of this command: the step of `onSlotDecision` (R123). -/
def execSlotDecision (slot : Fin 32) (t : Tick) (s : State) : Host.Outcome State Fault Refusal :=
  .next (onSlotDecision slot t s)

/-- The meaning of this command: the step of `onShotFire` (R101). -/
def execShotFire (bank : Fin 16) (t : Tick) (s : State) : Host.Outcome State Fault Refusal :=
  .next (onShotFire bank t s)

/-- The meaning of this command: the step of `onDeepFire` (R124). -/
def execDeepFire (shots : List (Fin 16 × Nat × Tick)) (s : State) : Host.Outcome State Fault Refusal :=
  .next (onDeepFire shots s)

end Sys2Proof.Machine
end

