-- ==== Sys2Proof/Machine/Hse.lean ====
section
/-! DEFINITION. The histogram and Sieve engine (R137 to R162): accumulation, search, running confidence, fine windows,
pile-up correction, returns, classes, records, canopy segments, field evidence, deepen data. -/

namespace Sys2Proof.Machine

def bufOf (s : State) (c : Nat) : ChanBuf := Tab.lookD s.hse.bufs c {}

def setBuf (c : Nat) (b : ChanBuf) (s : State) : State := { s with hse := { s.hse with bufs := Tab.put s.hse.bufs c b } }

def skewOf (s : State) (c : Nat) : Int := Tab.lookD s.hse.skew c 0

/-! ### STAMP_ACCUMULATE (R137, R138, R144, R154, R55) -/

/-- The latest shot of a list (in placing order) that satisfies `p`. -/
def latestShot (l : List Shot) (p : Shot → Bool) : Option Shot :=
  l.foldl (fun a f => if p f && (match a with | none => true | some g => decide (g.tick ≤ f.tick)) then some f else a) none

/-- Add a stamp of time of flight `t` to a buffer (R138, R144). -/
def bufAdd (b : ChanBuf) (f t : Nat) : ChanBuf :=
  let i := t / 64
  let g := i / 4
  let groups := if b.curShot = some f then b.occShot else []
  let seen := groups.contains g
  let fineOk := b.lock.any fun l => decide (l < f)
  let addFine (fs : Tab (Tab Nat)) (w : Nat) : Tab (Tab Nat) :=
    let s0 := (w - 2) * 64
    if decide (s0 ≤ t) && decide (t < s0 + 256) then
      Tab.upd fs w [] fun m => Tab.upd m ((t - s0) / 4) 0 fun n => min (n + 1) 65535
    else fs
  { b with
    coarse := Tab.upd b.coarse i 0 (fun n => min (n + 1) 65535),
    occ := if seen then b.occ else Tab.upd b.occ g 0 (fun n => min (n + 1) 255),
    curShot := some f,
    occShot := if seen then groups else groups ++ [g],
    fine := if fineOk then b.locked.foldl addFine b.fine else b.fine }

/-- A stamp of channel `c` reaches the histograms: reference stamps go to the reference histogram, stamps inside their
shot's accepted interval to the column's bins below T_gate (R138), quiet hits, realigned to the latest shot of the bank of any
kind or column, to the quiet histogram (R55) (DEDUCED, log entry 59). -/
def frontStamp (c st : Nat) (s : State) : State :=
  let bank := c / 32
  let gate := 64 * planGate s
  let own := s.esq.shots.filter fun f => decide (f.bank = bank) && f.fired
  let refShot := latestShot own fun f => f.ref && decide (f.tick ≤ st) && decide (st ≤ f.tick + gate)
  match refShot with
  | some f =>
    let d := st - f.tick
    if d < 128 then
      { s with hse := { s.hse with refHist := Tab.upd s.hse.refHist c [] fun m => Tab.upd m d 0 (fun n => min (n + 1) 65535) } }
    else s
  | none =>
    let mine := latestShot own fun f => !f.ref && decide (f.tick ≤ st)
    match mine.filter fun f => decide (f.tick + planBlank s ≤ st) && decide (st ≤ f.tick + gate) with
    | some f =>
      let t : Int := (st : Int) - f.tick + skewOf s c
      if t < 0 || (gate : Int) ≤ t then s else setBuf c (bufAdd (bufOf s c) f.tick t.toNat) s
    | none =>
      match latestShot (s.esq.prevShots ++ own) fun f => decide (f.bank = bank) && decide (f.tick ≤ st) with
      | some f =>
        let t : Int := (st : Int) - f.tick + skewOf s c
        if quietAt s st && decide (0 ≤ t) && decide (t < 131072) then
          let b := bufOf s c
          setBuf c { b with quiet := Tab.upd b.quiet (t.toNat / 64) 0 (fun n => min (n + 1) 65535) } s
        else s
      | none => s

/-- STAMP_ACCUMULATE: the front reads the oldest stamp of the channel's queue; a word whose parity fails is used as read
and poisons the strip's item (R316). -/
def onStampAccumulate (chan : Fin 512) (parityOk : Bool) (s : State) : State :=
  let q := queueOf s 0 chan
  match q.words with
  | [] => s
  | w :: _ =>
    let s := (popQueue 0 chan s).2
    let s := if q.lost then
        let q' := queueOf s 0 chan
        let s := setQueue 0 chan { q' with lost := false } s
        { s with hse := { s.hse with lostFlag := s.hse.lostFlag ++ [chan.val / 16] } }
      else s
    let s := if parityOk && !w.fails then s else
      let s := parityFailed 1 chan s
      { s with hse := { s.hse with poison := s.hse.poison ||| BitVec.ofNat 32 (2 ^ (chan.val / 16)) } }
    if isFenced s (Unit.strip (chan / 16)) then s else frontStamp chan (wordStamp w.data) s

/-! ### The search (R139 to R142) -/

/-- A peak: its bin, its excess in 1/256 edges and its score z16. -/
structure Peak where
  bin : Nat
  e   : Int
  z   : Int
  deriving DecidableEq, Repr

/-- The floor of `m` bins from the sum of φ16 N over the parts (R139, R156). -/
def floorB (phiN m : Nat) : Nat := (m * phiN + 32768) / 65536

/-- The excess of bin `i` in 1/256 edges. -/
def excess (h : Nat → Nat) (phiN i : Nat) : Int := ((h (i - 1) + h i + h (i + 1) : Nat) : Int) - 256 * floorB phiN 3

/-- The score of an excess (R140). -/
def zScore (phiN : Nat) (e : Int) : Int := (16 * e) / (256 * (1 + isqrt (floorB phiN 3)))

/-- Peaks of a search over bins `lo` to `hi` (R140), `h` in 1/256 edges. -/
def peaks (h : Nat → Nat) (phiN lo hi sep : Nat) : List Peak :=
  let es := ((List.range (hi + 1 - lo)).map fun k => excess h phiN (lo + k)).toArray
  (List.range (hi + 1 - lo)).filterMap fun k =>
    let e := es.getD k 0
    let before := (List.range sep).all fun d => decide (k < d + 1) || decide (es.getD (k - (d + 1)) 0 < e)
    let after := (List.range sep).all fun d => decide (hi + 1 - lo ≤ k + d + 1) || decide (es.getD (k + d + 1) 0 ≤ e)
    if before && after then some ⟨lo + k, e, zScore phiN e⟩ else none

/-- b_min of R140. -/
def bMin (s : State) : Nat := max 2 ((planBlank s + 63) / 64 + 1)

/-- The sun-floor stage (R142). -/
def sunPass (s : State) (p : Peak) : Bool :=
  decide ((rdf s Fld.HSE_SIEVE_A_sig_k : Int) ≤ p.z) && decide ((256 * rdf s Fld.HSE_SIEVE_A_sig_abs : Int) ≤ p.e)

/-- The smear stage (R142): `occ` the occupancy, `oflN` the sum of min(65536, 4 φ16) N over the parts. -/
def smearPass (s : State) (occ : Nat → Nat) (oflN bin : Nat) : Bool :=
  let m := rdf s Fld.HSE_SIEVE_A_occ_min
  decide (m = 0) || decide ((oflN + 32768) / 65536 + m ≤ occ (bin / 4))

/-- At most four of the candidates (R140): the latest, and of the others the three with the highest score, the earlier
one winning a tie, in time order. -/
def selectFour (l : List Peak) : List Peak :=
  if l.length ≤ 4 then l
  else
    match l.getLast? with
    | none => []
    | some last =>
      let best := (sortBy (fun a b => decide (b.z < a.z)) l.dropLast).take 3
      sortBy (fun a b => decide (a.bin < b.bin)) best ++ [last]

/-- The highest four by score, the earlier winning a tie, in time order (R151, foreign peaks). -/
def topFour (l : List Peak) : List Peak :=
  if l.length ≤ 4 then l
  else sortBy (fun a b => decide (a.bin < b.bin)) ((sortBy (fun a b => decide (b.z < a.z)) l).take 4)

/-- φ16 (R139). -/
def phi16 (h tqTicks : Nat) : Nat := if tqTicks = 0 then 0 else 65536 * h * 64 / tqTicks

/-- The fallback of R139: `sum256` is the sum over the searched bins in 1/256 edges. -/
def phiFallback (sum256 nb n : Nat) : Nat := if nb * n = 0 then 0 else 65536 * sum256 / (256 * nb * n)

def coarse256 (b : ChanBuf) (i : Nat) : Nat := 256 * Tab.lookD b.coarse i 0

/-- The sum of the searched bins. -/
def binSum (h : Nat → Nat) (lo hi : Nat) : Nat := sumN ((List.range (hi + 1 - lo)).map fun k => h (lo + k))

/-- The front's φ16 of channel `c` at an update at `t` (R139). -/
def frontPhi (s : State) (c : Nat) (t : Tick) : Nat :=
  let now := quietTicks s s.esq.col.start t
  if s.hse.fixDepth.getLsbD c && decide (1000 ≤ s.hse.prevQuietNs) then
    65536 * Tab.lookD s.hse.prevQuietH c 0 / s.hse.prevQuietNs
  else if 64000 ≤ now then phi16 (Tab.lookD s.tdc.colQuiet c 0) now
  else
    let b := bufOf s c
    phiFallback (binSum (coarse256 b) (bMin s) (planGate s - 2)) (planGate s - 2 + 1 - bMin s) b.n

/-- Both stages for one bin of a channel's raw histogram: the peak, when it passes. -/
def frontScore (s : State) (b : ChanBuf) (phi i : Nat) : Option Peak :=
  let e := excess (coarse256 b) (phi * b.n) i
  let p : Peak := ⟨i, e, zScore (phi * b.n) e⟩
  if sunPass s p && smearPass s (fun g => Tab.lookD b.occ g 0) (min 65536 (4 * phi) * b.n) i then some p else none

/-- The candidates of the front's search (R140, R142). -/
def frontCands (s : State) (b : ChanBuf) (phi : Nat) : List Peak :=
  selectFour ((peaks (coarse256 b) (phi * b.n) (bMin s) (planGate s - 2) (rdf s Fld.HSE_SIEVE_A_sep)).filter fun p =>
    sunPass s p && smearPass s (fun g => Tab.lookD b.occ g 0) (min 65536 (4 * phi) * b.n) p.bin)

/-- The running confidence from the current candidates (R143). -/
def confOf (s : State) (cands : List Peak) (n : Nat) : Nat :=
  match cands with
  | [] => min 255 (rdf s Fld.HSE_ZOOM_empty_step * n)
  | p :: r => min 255 (r.foldl (fun a q => min a q.z) p.z).toNat

/-- The update of one channel after a shot's gate (R141, R143). -/
def confChan (c : Nat) (t : Tick) (s : State) : State :=
  let b := bufOf s c
  let phi := frontPhi s c t
  match b.lock with
  | some _ => setBuf c { b with conf := confOf s (b.locked.filterMap (frontScore s b phi)) b.n } s
  | none =>
    let cands := frontCands s b phi
    let lock := !s.esq.col.deferFine && decide (s.hse.role ≠ .follower) && !cands.isEmpty
      && decide (rdf s Fld.HSE_ZOOM_coarse_shots ≤ b.n)
    let s := setBuf c { b with conf := confOf s cands b.n, locked := if lock then cands.map (·.bin) else [],
                               lock := if lock then some t else none } s
    if lock && decide (s.hse.role = .leader) then toPartner (.deepWin c t (cands.map (·.bin))) s else s

/-- CONFIDENCE_UPDATE (R122, R141): every channel of the bank in an unfenced strip. -/
def onConfidenceUpdate (bank : Fin 16) (t : Tick) (s : State) : State :=
  let s := advance t s
  (List.range 32).foldl (fun s i =>
    let c := 32 * bank.val + i
    if isFenced s (Unit.strip (c / 16)) || !s.esq.col.active then s else confChan c t s) s

/-- DEEP_WIN (R155): the leader's lock tick and windows arrive. -/
def onDeepWin (chan : Fin 512) (lock : Tick) (windows : List Nat) (s : State) : State :=
  if s.hse.role = .follower then
    { s with hse := { s.hse with winRecv := Tab.put s.hse.winRecv chan (lock, windows) } }
  else s

/-- FOLLOWER_LOCK (R155): the follower locks the leader's windows, or counts a window miss. -/
def onFollowerLock (chan : Fin 512) (t : Tick) (s : State) : State :=
  let s := advance t s
  if s.hse.role = .follower && !isFenced s (Unit.strip (chan / 16)) && !s.esq.col.deferFine then
    match Tab.look s.hse.winRecv chan with
    | some (l, ws) =>
      if l + 640 * rdf s Fld.HSE_DEEPEN_win_lat ≤ t then
        let b := bufOf s chan
        setBuf chan { b with lock := some (l + 640 * rdf s Fld.HSE_DEEPEN_win_lat), locked := ws.take 4 } s
      else s
    | none => stick Reg.HSE_STICKY 2 (bump Reg.HSE_WIN_MISS 1 (fault 133 Src.hse (chan / 16) .corrected chan s))
  else s

/-- DEEP_HIST (R156): the follower's histograms of a channel arrive at the leader. -/
def onDeepHist (chan : Fin 512) (h : DeepChan) (s : State) : State :=
  if s.hse.role = .leader && !s.hse.mergeMiss && s.hse.info.exists_ then
    { s with hse := { s.hse with follower := Tab.put s.hse.follower chan h } }
  else s

/-- MERGE_DEADLINE (R156): the follower's data have not all arrived, so the leader goes on alone. -/
def onMergeDeadline (t : Tick) (s : State) : State :=
  let s := advance t s
  if s.hse.role = .leader && s.hse.info.exists_ && !s.hse.mergeMiss && decide (s.hse.follower.length < 512)
      && decide (s.hse.info.endAt + 64000 * rdf s Fld.HSE_DEEPEN_merge_lat ≤ t) then
    stick Reg.HSE_STICKY 1 (bump Reg.HSE_MERGE_MISS 1
      (fault 132 Src.hse 0 .corrected 0 { s with hse := { s.hse with mergeMiss := true } }))
  else s

/-! ### Pile-up correction (R146) -/

/-- The denominator of R146 and whether the bin is dead-heavy, for D2 in 1/256 counts. -/
def pileDen (n d2 : Nat) : Int × Bool :=
  let den : Int := 512 * n - d2
  if 4 * den < 512 * n then ((256 * max 1 (n / 2) : Nat), true) else (den, false)

/-- The corrected count in 1/256, from the raw count, the shots and D2 in 1/256. -/
def corrected (h n d2 : Nat) : Nat := (512 * h * n * 256) / (pileDen n d2).1.toNat

/-- D2 of coarse bin `i` in 1/256 counts. -/
def coarseD2 (b : ChanBuf) (i : Nat) : Nat :=
  (if i < 2 then 0 else coarse256 b (i - 2)) + 2 * (if i < 1 then 0 else coarse256 b (i - 1)) + coarse256 b i

/-- The corrected coarse bins of a buffer in 1/256, for bins 0 to `gate` - 1. -/
def corrCoarse (s : State) (b : ChanBuf) : Nat → Nat :=
  let a := ((List.range (planGate s)).map fun i =>
    if rdb s Fld.HSE_CLASS_pu_en then
      (if Tab.lookD b.coarse i 0 = 0 then 0 else corrected (Tab.lookD b.coarse i 0) b.n (coarseD2 b i))
    else coarse256 b i).toArray
  fun i => a.getD i 0

/-- Fine bin `k` before the window start, from the coarse bin that contains it (R146), in 1/256. -/
def fineBefore (b : ChanBuf) (w k back : Nat) : Nat :=
  let at_ := (w - 2) * 64 + 4 * k
  let i := (at_ - 4 * back) / 64
  if b.n = 0 || at_ < 4 * back then 0 else coarse256 b i * b.nf / (16 * b.n)

/-- D2 of fine bin `k` of the window of bin `w`, in 1/256. -/
def fineD2 (b : ChanBuf) (w k : Nat) : Nat :=
  let f := Tab.lookD b.fine w []
  let before := sumN ((List.range 32).map fun d =>
    let back := d + 1
    if back ≤ k then 256 * Tab.lookD f (k - back) 0 else fineBefore b w 0 (back - k))
  2 * before + 256 * Tab.lookD f k 0

/-- The corrected fine bins of the window of bin `w`, in 1/256. -/
def corrFine (s : State) (b : ChanBuf) (w k : Nat) : Nat :=
  let g := Tab.lookD (Tab.lookD b.fine w []) k 0
  if rdb s Fld.HSE_CLASS_pu_en then (if g = 0 then 0 else corrected g b.nf (fineD2 b w k)) else 256 * g

/-- The buffer of a follower's data (R156). -/
def deepBuf (h : DeepChan) : ChanBuf :=
  let tab (l : List Nat) : Tab Nat := ((List.range l.length).zip l).filter fun e => !decide (e.2 = 0)
  { coarse := tab h.coarse, occ := tab h.occ, n := h.n, nf := h.nf,
    fine := h.fine.foldl (fun t p => Tab.put t p.1 (tab p.2)) [] }

/-- The parts of a channel's column: its own buffer and, in a merge, the follower's, each with its φ16 (R139, R156). -/
structure ChanData where
  b    : ChanBuf
  phi  : Nat
  deriving DecidableEq, Repr

/-- The back's φ16 of a buffer (R139). -/
def backPhi (s : State) (b : ChanBuf) (h tqNs : Nat) : Nat :=
  if 1000 ≤ tqNs then 65536 * h / tqNs
  else phiFallback (binSum (corrCoarse s b) (bMin s) (planGate s - 2)) (planGate s - 2 + 1 - bMin s) b.n

def backBuf (s : State) (c : Nat) : ChanBuf := Tab.lookD s.hse.back c {}

/-- The data of channel `c` in the column the back holds. -/
def chanData (s : State) (c : Nat) : List ChanData :=
  let b := backBuf s c
  let own : ChanData := ⟨b, backPhi s b (Tab.lookD s.hse.info.quietH c 0) s.hse.info.quietNs⟩
  match Tab.look s.hse.follower c with
  | some h =>
    if s.hse.role = .leader && !s.hse.mergeMiss then
      let fb := { deepBuf h with locked := b.locked }
      [own, ⟨fb, backPhi s fb h.h h.tq⟩]
    else [own]
  | none => [own]

def sumCoarse (s : State) (ds : List ChanData) : Nat → Nat :=
  let fs := ds.map fun d => corrCoarse s d.b
  fun i => sumN (fs.map fun f => f i)
def sumPhiN (ds : List ChanData) : Nat := sumN (ds.map fun d => d.phi * d.b.n)
def sumOfl (ds : List ChanData) : Nat := sumN (ds.map fun d => min 65536 (4 * d.phi) * d.b.n)
def sumOcc (ds : List ChanData) (g : Nat) : Nat := sumN (ds.map fun d => Tab.lookD d.b.occ g 0)
def sumNs (ds : List ChanData) : Nat := sumN (ds.map fun d => d.b.n)
def sumNf (ds : List ChanData) : Nat := sumN (ds.map fun d => d.b.nf)

/-- The peaks of the final search (R147). -/
def finalPeaks (s : State) (ds : List ChanData) : List Peak :=
  if sumNs ds = 0 then []
  else peaks (sumCoarse s ds) (sumPhiN ds) (bMin s) (planGate s - 2) (rdf s Fld.HSE_SIEVE_A_sep)

/-- All candidates of the final search. -/
def finalCands (s : State) (ds : List ChanData) : List Peak :=
  (finalPeaks s ds).filter fun p => sunPass s p && smearPass s (sumOcc ds) (sumOfl ds) p.bin

/-- The peaks that fail only the smear stage (R142). -/
def foreignPeaks (s : State) (ds : List ChanData) : List Peak :=
  (finalPeaks s ds).filter fun p => sunPass s p && !smearPass s (sumOcc ds) (sumOfl ds) p.bin

/-! ### Position, intensity, width (R149, R150) -/

/-- The signal over a span in 1/256 edges, with its first bin. -/
structure Signal where
  first : Nat
  ys    : List Nat
  deriving DecidableEq, Repr

/-- The locked window that locates a return at bin `i` (R147). -/
def windowFor (b : ChanBuf) (i : Nat) : Option Nat :=
  if b.locked.contains i then some i
  else b.locked.find? fun w => decide (w ≤ i + 2) && decide (i ≤ w + 1)

/-- The corrected fine bin of all parts, less the fine floor, truncated to 8 fraction bits (R146, R149). -/
def fineY (s : State) (ds : List ChanData) (w k : Nat) : Nat :=
  let g := sumN (ds.map fun d => corrFine s d.b w k)
  let fl := sumN (ds.map fun d => d.phi * d.b.nf)
  (g * 4096 - fl) / 4096

/-- The index of the first largest element of `ys` among positions `lo` to `hi`. -/
def argMax (ys : Nat → Nat) (lo hi : Nat) : Nat :=
  (List.range (hi + 1 - lo)).foldl (fun a d => if ys a < ys (lo + d) then lo + d else a) lo

/-- The span and signal of a return with fine data. -/
def fineSignal (s : State) (ds : List ChanData) (w i : Nat) : Signal :=
  let a := ((List.range 64).map (fineY s ds w)).toArray
  let y := fun k => a.getD k 0
  let lo := (i - 1 - (w - 2)) * 16
  let hi := min 63 ((i + 2 - (w - 2)) * 16 - 1)
  let km := argMax y lo hi
  let h := rdf s Fld.HSE_ZOOM_cen_half
  let f := km - h
  let l := min 63 (km + h)
  ⟨f, (List.range (l + 1 - f)).map fun d => y (f + d)⟩

/-- The signal of a coarse-only return: bins i - 1 to i + 1 less B_1. -/
def coarseSignal (s : State) (ds : List ChanData) (i : Nat) : Signal :=
  let h := sumCoarse s ds
  let b1 := 256 * floorB (sumPhiN ds) 1
  ⟨i - 1, (List.range 3).map fun d => h (i - 1 + d) - b1⟩

/-- The centroid `scale` * sum((k + 0.5) y) / sum(y), rounded half up; none when every y is 0. -/
def centroid (g : Signal) (scale : Nat) : Option Nat :=
  let t := sumN g.ys
  let m := sumN ((List.range g.ys.length).map fun d => (2 * (g.first + d) + 1) * g.ys.getD d 0)
  if t = 0 then none else some (rdivN (scale * m) (2 * t))

/-- The left crossing of `half` (a rational) scanning from the first bin, in bins from the first bin's centre: the outer edge
of the span where the first bin is not below it (R150). -/
def crossing (ys : List Nat) (half : Rat) (i : Nat) (prev : Option Nat) : Rat :=
  match ys with
  | [] => i
  | y :: r =>
    if half ≤ (y : Rat) then
      match prev with
      | none => (i : Rat) - 1 / 2
      | some p => (i : Rat) - 1 + (half - p) / ((y : Rat) - p)
    else crossing r half (i + 1) (some y)

/-- The full width at half maximum in bins (R150). -/
def fwhm (ys : List Nat) : Rat :=
  let m := maxN ys
  if m = 0 then 0
  else
    let half : Rat := (m : Rat) / 2
    ((ys.length : Rat) - 1 - crossing ys.reverse half 0 none) - crossing ys half 0 none

/-- A return of a channel (R147 to R151), as its record needs it. -/
structure Ret where
  bin       : Nat
  tof       : Nat
  intensity : Nat
  width     : Nat
  conf      : Nat
  cls       : Nat
  coarse    : Bool
  pileup    : Bool
  heavy     : Bool
  deriving DecidableEq, Repr

/-- walk[d] of R149. -/
def walkOf (s : State) (d : Nat) : Int :=
  if d = 0 then 0
  else if d ≤ 4 then sval 8 (bits (rd s Reg.HSE_WALK_A).toNat (8 * (d - 1)) 8)
  else sval 8 (bits (rd s Reg.HSE_WALK_B).toNat (8 * (d - 5)) 8)

/-- The depth in force in the column the back holds. -/
def backDepth (s : State) (c : Nat) : Nat := Tab.lookD s.hse.info.depth c 0

/-- Flags pileup and dead_heavy over the span i - 1 to i + 1 (R146). -/
def pileFlags (ds : List ChanData) (i : Nat) : Bool × Bool :=
  let span := [i - 1, i, i + 1]
  (ds.any fun d => span.any fun j => decide (2 * 256 * d.b.n < 16 * coarseD2 d.b j),
   ds.any fun d => span.any fun j => (pileDen d.b.n (coarseD2 d.b j)).2)

/-- Measure a peak as a return (class still 0); `allowFine` is false for foreign peaks (R149 to R151). -/
def measure (s : State) (c : Nat) (ds : List ChanData) (p : Peak) (allowFine : Bool) : Ret :=
  let own := (ds.head?.map (·.b)).getD {}
  let w := if allowFine && decide (max 1 (rdf s Fld.HSE_ZOOM_fine_min) ≤ sumNf ds) then windowFor own p.bin else none
  let walk := walkOf s (backDepth s c)
  let flags := pileFlags ds p.bin
  match w with
  | some w =>
    let g := fineSignal s ds w p.bin
    let raw := match centroid g 4 with
      | some x => (w - 2) * 64 + x
      | none => p.bin * 64 + 32
    ⟨p.bin, ((raw : Int) - walk).toNat % 2 ^ 20, min 4095 (64 * sumN g.ys / (256 * sumNf ds)),
     min 255 ((fwhm g.ys * 2 + 1 / 2).floor.toNat), min 255 p.z.toNat, 0, false, flags.1, flags.2⟩
  | none =>
    let g := coarseSignal s ds p.bin
    let raw := (centroid g 64).getD (p.bin * 64 + 32)
    ⟨p.bin, ((raw : Int) - walk).toNat % 2 ^ 20, min 4095 (64 * sumN g.ys / (256 * max 1 (sumNs ds))),
     min 255 ((fwhm g.ys * 32 + 1 / 2).floor.toNat), min 255 p.z.toNat, 0, true, flags.1, flags.2⟩

/-- The bins of the returns of channel `c` in the column the back holds; none in a fenced or lost strip. -/
def returnBins (s : State) (c : Nat) : List Nat :=
  if s.hse.info.fenced.getLsbD (c / 16) || isFenced s (Unit.strip (c / 16)) || s.hse.info.lost.contains (c / 16) then []
  else (selectFour (finalCands s (chanData s c))).map (·.bin)

/-- Whether bin `i` lies within `n` bins of one of `l`. -/
def nearBin (l : List Nat) (i n : Nat) : Bool := l.any fun j => decide (i ≤ j + n) && decide (j ≤ i + n)

/-- A return is isolated (R148). -/
def isolated (s : State) (c : Nat) (r : Ret) : Bool :=
  let n := rdf s Fld.HSE_SIEVE_B_iso_bins
  let side (j : Nat) : Bool := if decide (j / 32 = c / 32) && decide (j < 512) then nearBin (returnBins s j) r.bin n else false
  !(decide (0 < c % 32) && side (c - 1)) && !side (c + 1) && !nearBin (Tab.lookD s.hse.lastBins c []) r.bin n
    && decide (r.intensity < rdf s Fld.HSE_SIEVE_B_iso_int)

/-- The close-range classifier (R148). -/
def closeDiffuse (s : State) (c : Nat) (r : Ret) : Bool :=
  let lim := rdf s Fld.HSE_SIEVE_B_diff_tof
  let w := rdf s Fld.HSE_SIEVE_B_diff_w
  decide (lim ≠ 0) && decide (r.tof < lim * 64) &&
    ((decide (w ≠ 0) && decide (w ≤ r.width)) || isolated s c r)

/-- Classify returns from the last to the first (R151); the list is in reverse time order. -/
def classify (s : State) (c : Nat) (laterHard : Bool) (l : List Ret) : List Ret :=
  match l with
  | [] => []
  | r :: rest =>
    let cls := if r.tof < rdf s Fld.HSE_CLASS_win_tof then 4
      else if closeDiffuse s c r then 2
      else if laterHard then 3
      else if r.width ≤ rdf s Fld.HSE_CLASS_hard_w && decide (rdf s Fld.HSE_CLASS_hard_w ≠ 0) then 1
      else 2
    { r with cls := cls } :: classify s c (laterHard || decide (cls = 1)) rest

/-- The classified returns of channel `c`, in time order. -/
def returnsOf (s : State) (c : Nat) : List Ret :=
  let ds := chanData s c
  (classify s c false ((selectFour (finalCands s ds)).map fun p => measure s c ds p true).reverse).reverse

/-- The foreign records of channel `c` (R151). -/
def foreignOf (s : State) (c : Nat) : List Ret :=
  let ds := chanData s c
  if rdb s Fld.HSE_CLASS_foreign_emit then
    (topFour (foreignPeaks s ds)).map fun p => { measure s c ds p false with cls := 5 }
  else []

/-- The record of class none of an empty point (R151): the empty-point confidence of R143 over the whole column. -/
def noneOf (s : State) (c : Nat) : Ret :=
  ⟨0, 0, 0, 0, min 255 (rdf s Fld.HSE_ZOOM_empty_step * sumNs (chanData s c)), 0, false, false, false⟩

/-! ### Field sets (R157, R158) -/

/-- Field set `n`. -/
def fieldSet (s : State) (n : Nat) : Option ImgRec := recWhere s 0x0801 0 0 3 n

/-- The byte offset of band `b` of a field set: the bands before it with their vertices. -/
def bandOff (r : ImgRec) (b : Nat) : Nat :=
  match b with
  | 0 => 8
  | b + 1 => bandOff r b + 8 + 4 * rf r (bandOff r b + 4) 16 6

/-- The far limit of a band at position `u` (R158): vertices from `v` on, in units of 16 ticks. -/
def farLimit (r : ImgRec) (o u nv v : Nat) : Nat :=
  match v with
  | 0 => rf r (o + 8) 16 16
  | v + 1 =>
    let ua := rf r (o + 8 + 4 * (v + 1)) 0 16
    let ra := rf r (o + 8 + 4 * (v + 1)) 16 16
    if ua ≤ u then
      if v + 2 < nv then
        let ub := rf r (o + 8 + 4 * (v + 2)) 0 16
        let rb := rf r (o + 8 + 4 * (v + 2)) 16 16
        ((ra : Int) + Int.tdiv (((rb : Int) - ra) * (u - ua)) ((ub : Int) - ua)).toNat
      else ra
    else
      if v = 0 then
        let r0 := rf r (o + 8) 16 16
        let u0 := rf r (o + 8) 0 16
        ((r0 : Int) + Int.tdiv (((ra : Int) - r0) * ((u : Int) - u0)) ((ua : Int) - u0)).toNat
      else farLimit r o u nv v

/-- The band of a set that holds channel `c`: its offset. -/
def bandOf (r : ImgRec) (c : Nat) : Option Nat :=
  (((List.range (rf r 0 8 5)).map (bandOff r)).find? fun o => decide (rf r o 0 9 ≤ c) && decide (c ≤ rf r o 16 9))

/-- The limit in units of 16 ticks at `u` for a band. -/
def bandLimit (r : ImgRec) (o u : Nat) : Nat := farLimit r o u (rf r (o + 4) 16 6) (rf r (o + 4) 16 6 - 1)

/-- A return is inside set record `r` (R158). -/
def insideSet (r : ImgRec) (c u : Nat) (x : Ret) : Bool :=
  bitB (rf r 0 16 6) x.cls && (match bandOf r c with
    | some o => decide (16 * rf r (o + 4) 0 16 ≤ x.tof) && decide (x.tof < 16 * bandLimit r o u)
    | none => false)

/-- The sets a return is inside, as a mask. -/
def inField (s : State) (c : Nat) (x : Ret) : Nat :=
  (List.range 8).foldl (fun a n => if (fieldSet s n).any fun r => insideSet r c s.hse.info.uLo x then a + 2 ^ n else a) 0

/-- The channels of a strip that are observed in set record `r` at `u`: those in a band whose limit exceeds r_min. -/
def inBand (r : ImgRec) (c u : Nat) : Bool :=
  (bandOf r c).any fun o => decide (rf r (o + 4) 0 16 < bandLimit r o u)

/-- Count `k` unobserved channel-columns of set `n`. -/
def addUnobs (n k : Nat) (s : State) : State := { s with hse := { s.hse with unobs := Tab.upd s.hse.unobs n 0 (· + k) } }

/-- The unobserved cells of strip `k` at position `u` (R158): every channel when `all`, else those with n_en = 0. -/
def stripUnobs (k u : Nat) (all : Bool) (s : State) : State :=
  (List.range 8).foldl (fun s n =>
    match fieldSet s n with
    | none => s
    | some r =>
      addUnobs n (((List.range 16).map (16 * k + ·)).filter fun c =>
        inBand r c u && (all || decide (Tab.lookD s.hse.info.nEn c 0 = 0))).length s) s

/-- A record inside sets enters their evidence (R159): count, and word 0 for the crc. -/
def addInside (mask w0 : Nat) (s : State) : State :=
  (List.range 8).foldl (fun s n =>
    if bitB mask n then
      { s with hse := { s.hse with inside := Tab.upd s.hse.inside n 0 (· + 1),
                                   crc := Tab.upd s.hse.crc n [] (· ++ leBytes 8 w0) } }
    else s) s

/-- The state as the back sees it: the plan of the column it holds (R137). -/
def backView (s : State) : State :=
  if s.hse.info.exists_ then { s with esq := { s.esq with plan := some s.hse.info.plan } } else s

/-! ### Records (R152, R153) -/

/-- Word 0 of a record. -/
def recWord0 (c index : Nat) (x : Ret) : Nat :=
  x.tof + 2 ^ 20 * x.intensity + 2 ^ 32 * x.width + 2 ^ 40 * x.conf + 2 ^ 48 * x.cls + 2 ^ 52 * index + 2 ^ 54 * c

/-- Word 1 of a record. -/
def recWord1 (s : State) (c field nRet : Nat) (x : Ret) : Nat :=
  let i := s.hse.info
  let ds := chanData s c
  let phi := (ds.head?.map (·.phi)).getD 0
  i.k % 65536 + 2 ^ 16 * backDepth s c + 2 ^ 20 * b2n x.coarse + 2 ^ 21 * b2n x.pileup + 2 ^ 22 * b2n x.heavy
    + 2 ^ 23 * b2n i.deferCanopy + 2 ^ 24 * field + 2 ^ 32 * nRet + 2 ^ 35 * b2n i.predicted
    + 2 ^ 36 * min 4095 (phi / 256) + 2 ^ 48 * b2n i.backward + 2 ^ 49 * b2n (decide (ds.length = 2))
    + 2 ^ 50 * b2n s.hse.mergeMiss

/-- The records of channel `c`: word pairs with the field mask. -/
def chanRecords (s : State) (c : Nat) : List (Nat × Nat × Nat) :=
  let rs := returnsOf s c
  let n := rs.length
  let main := if n = 0 then (if rdb s Fld.HSE_CLASS_emit_empty then [(0, noneOf s c)] else [])
    else (List.range n).zip rs
  let all := main ++ (foreignOf s c).map fun x => (0, x)
  all.map fun p =>
    let m := inField s c p.2
    (recWord0 c p.1 p.2, recWord1 s c m n p.2, m)

/-- Two 16-bit values per 32-bit word, the first in the low half. -/
def pairHalves (l : List Nat) : List Nat :=
  match l with
  | [] => []
  | [x] => [x]
  | x :: y :: r => (x + 65536 * y) :: pairHalves r

/-- The canopy segment of channel `c` (R160), as 32-bit words. -/
def canopySeg (s : State) (c : Nat) : List Nat :=
  let rs := returnsOf s c
  let smax := rdf s Fld.HSE_CANOPY_seg_max
  let want := rs.any (fun r => decide (r.cls = 3)) || (rdb s Fld.HSE_CANOPY_hook_all && decide (2 ≤ rs.length))
  match rs.head?, rs.getLast? with
  | some a, some b =>
    if !want || decide (smax = 0) then []
    else
      let lo := a.bin - 2
      let hi := min 2047 (b.bin + 2)
      let lo := if hi + 1 - lo > smax then hi + 1 - smax else lo
      let ds := chanData s c
      let h := sumCoarse s ds
      let fl := 256 * floorB (sumPhiN ds) 1
      let bins := (List.range (hi + 1 - lo)).map fun d => min 65535 (h (lo + d) - fl)
      let ws := (c + 512 * bins.length + 65536 * lo) :: pairHalves bins
      if ws.length % 2 = 1 then ws ++ [0] else ws
  | _, _ => []

/-! ### The contamination verdict (R55) -/

/-- Channel `c` is contaminated in the column the back holds. -/
def contaminated (s : State) (c : Nat) : Bool :=
  let b := backBuf s c
  let phi := ((chanData s c).head?.map (·.phi)).getD 0
  let lo := planGate s + 1
  decide (lo ≤ 2046) &&
    (peaks (fun i => 256 * Tab.lookD b.quiet i 0) (phi * b.n) lo 2046 (rdf s Fld.HSE_SIEVE_A_sep)).any (sunPass s)

/-- Commit the strip's calibration counts of the column to its pass, channel by channel (R54, R58). -/
def commitCounts (k : Nat) (s : State) : State :=
  let c := calOf s k
  let hits := passHits s c
  if c.prevElig then
    setCal k ((List.range 16).foldl (fun c i =>
      if contaminated (backView s) (16 * k + i) then c
      else c.add i hits (Tab.lookD s.tdc.prevCounts (16 * k + i) [])) c) s
  else s

/-! ### The strip column (R152, R158 to R162) -/

/-- Count a lost column of strip `k` (R22, R162). -/
def loseColumn (k : Nat) (s : State) : State :=
  let s := stick Reg.HSE_STICKY 0 (bump Reg.HSE_LOST_COLS 1 s)
  { s with hse := { s.hse with lostCols := Tab.upd s.hse.lostCols k 0 (fun n => min (n + 1) 65535),
                               lostFlag := s.hse.lostFlag ++ [k],
                               info := { s.hse.info with lost := s.hse.info.lost ++ [k] } } }

/-- Take strip `k` off the list of strips the back still has to finish. -/
def stripTaken (k : Nat) (s : State) : State :=
  { s with hse := { s.hse with info := { s.hse.info with waiting := s.hse.info.waiting.filter fun j => !decide (j = k) } } }

/-- Counts of candidates over four and of foreign peaks (R142, R162). -/
def countChan (c : Nat) (s : State) : State :=
  let ds := chanData (backView s) c
  let nf := (foreignPeaks (backView s) ds).length
  let over_ := decide ((finalCands (backView s) ds).length > 4)
  let s := if nf = 0 then s else
    bumpSat Reg.HSE_FOREIGN_COUNT 0 32 nf { s with hse := { s.hse with foreign := s.hse.foreign + nf } }
  let hi := rdf s Fld.HSE_FOREIGN_CFG_foreign_hi
  let s := if decide (hi ≠ 0) && decide (hi ≤ s.hse.foreign) && !s.hse.evForeign then
      stick Reg.HSE_STICKY 3 (raise 129 { s with hse := { s.hse with evForeign := true } }) else s
  if over_ then
    let s := bump Reg.HSE_CAND_OVER 1 s
    if s.hse.evCand then s else raise 134 { s with hse := { s.hse with evCand := true } }
  else s

/-- The records of a strip. -/
def stripRecs (s : State) (k : Nat) : List (Nat × Nat × Nat) :=
  ((List.range 16).map fun d => chanRecords s (16 * k + d)).flatten

/-- The canopy words of a strip. -/
def stripSegs (s : State) (k : Nat) : List Nat := ((List.range 16).map fun d => canopySeg s (16 * k + d)).flatten

/-- The flag bits a strip's items carry beside the common ones (R28, R60). -/
def stripExtra (s : State) (k : Nat) : Nat :=
  b2n (s.hse.info.poison.getLsbD k) * 4 + b2n (s.hse.info.marks.contains k) * 8 + b2n (s.hse.info.calib.getLsbD k) * 64

/-- The counts and the field evidence of a finished strip (R142, R158, R159, R162). -/
def stripCounts (k : Nat) (recs : List (Nat × Nat × Nat)) (s : State) : State :=
  let allUn := s.hse.info.held || !s.hse.info.able.getLsbD (k / 2)
  let s := (List.range 16).foldl (fun s d => countChan (16 * k + d) s) s
  let s := stripUnobs k s.hse.info.uLo allUn (recs.foldl (fun s r => addInside r.2.2 r.1 s) s)
  let s := bumpSat Reg.HSE_DIFFUSE_COUNT 0 32 (recs.filter fun r => decide (bits r.1 48 4 = 2)).length s
  let s := bumpSat Reg.HSE_RECORDS 0 32 recs.length s
  { s with hse := { s.hse with records := Tab.put s.hse.records k recs.length } }

/-- The head word of a strip's record item (R152). -/
def stripHead (i : ColInfo) (k n : Nat) : Nat :=
  i.k % 65536 + 2 ^ 16 * k + 2 ^ 21 * n + 2 ^ 29 * b2n i.backward + 2 ^ 30 * b2n i.predicted

/-- The strip's lost_before mark is spent. -/
def unmark (k : Nat) (s : State) : State :=
  { s with hse := { s.hse with info := { s.hse.info with marks := s.hse.info.marks.filter fun j => !decide (j = k) } } }

/-- The items of a finished strip (R152, R160). -/
def stripItems (k extra : Nat) (recs : List (Nat × Nat × Nat)) (segs : List Nat) (s : State) : State :=
  let i := s.hse.info
  let s := unmark k s
  let body := recs.flatMap fun r => [BitVec.ofNat 64 r.1, BitVec.ofNat 64 r.2.1]
  let s := emitX Src.hse 0 i.ctx extra (BitVec.ofNat 64 (stripHead i k recs.length) :: body) s
  if segs.isEmpty || i.deferCanopy then s else emitX Src.hse 2 i.ctx extra (pairWords segs) s

/-- What the follower sends of channel `c` (R156): its buffers as they stand, with H and t_q in ns. -/
def deepOut (s : State) (c : Nat) : DeepChan :=
  let b := backBuf s c
  ⟨(List.range (planGate s)).map fun i => Tab.lookD b.coarse i 0, (List.range 512).map fun g => Tab.lookD b.occ g 0,
   b.fine.map fun e => (e.1, (List.range 64).map fun k => Tab.lookD e.2 k 0), b.n, b.nf,
   Tab.lookD s.hse.info.quietH c 0, s.hse.info.quietNs⟩

/-- Deliver the finished strip: its counts, its records and its segments; a follower, which judges nothing itself, sends its
data to the leader (R156). -/
def deliverStrip (k : Nat) (s : State) : State :=
  let v := backView s
  if s.hse.role = .follower then
    let s := unmark k s
    (List.range 16).foldl (fun s i => toPartner (.deepHist (16 * k + i) (deepOut v (16 * k + i))) s) s
  else stripItems k (stripExtra s k) (stripRecs v k) (stripSegs v k) (stripCounts k (stripRecs v k) s)

/-- STRIP_COLUMN_DONE (R54, R55, R152 to R162): the back finishes a strip column. An uncorrectable buffer error discards
the column and sends the contained fault that fences the strip; a correctable one is counted. -/
def onStripColumnDone (strip : Fin 32) (ecc : Ecc) (t : Tick) (s : State) : State :=
  let s := advance t s
  let i := s.hse.info
  let ready := decide (s.hse.role ≠ .leader) || s.hse.mergeMiss || decide (s.hse.follower.length = 512)
  if i.exists_ && i.waiting.contains strip.val && ready then
    match ecc with
    | .uncorrectable =>
      let s := stick Reg.HSE_STICKY 5 (fault 137 Src.hse strip .contained 0 (loseColumn strip (stripTaken strip s)))
      stripUnobs strip i.uLo true s
    | e =>
      let s := if e = .corrected then fault 136 Src.hse strip .corrected 0 s else s
      deliverStrip strip (commitCounts strip (stripTaken strip s))
  else s

/-! ### The verdict (R159) -/

/-- The verdict word of set `n`. -/
def verdictWord (s : State) (n : Nat) : Nat :=
  match fieldSet s n with
  | none => 0
  | some r =>
    let cnt := Tab.lookD s.hse.inside n 0
    let un := Tab.lookD s.hse.unobs n 0
    let dark := decide (rf r 4 16 16 < un)
    let viol := dark || decide (rf r 4 0 16 ≤ cnt)
    1 + 2 * b2n viol + 4 * b2n dark + 65536 * min 65535 cnt + 2 ^ 32 * crc32c (Tab.lookD s.hse.crc n [])

/-- Close the evidence of set `n` for the frame. -/
def verdictSet (n : Nat) (s : State) : State :=
  let w := verdictWord s n
  let viol := bitB w 1
  let dark := bitB w 2
  let s := if viol && !s.hse.lastViol.getLsbD n then raise 130 s else s
  let s := if dark then stick Reg.HSE_STICKY 4 (fault 131 Src.hse 0 .corrected n s) else s
  { s with hse := { s.hse with
    verdict := Tab.put s.hse.verdict n (w % 8), lastCount := Tab.put s.hse.lastCount n (bits w 16 16),
    lastUnobs := Tab.put s.hse.lastUnobs n (min 65535 (Tab.lookD s.hse.unobs n 0)) } }

/-- The sets whose verdict word says a violation. -/
def violBits (ws : List Nat) : Nat := (List.range 8).foldl (fun a n => if bitB (ws.getD n 0) 1 then a + 2 ^ n else a) 0

/-- The evidence of the frame is closed: the verdicts that a violation edge is judged against, and a new count. -/
def verdictClose (viol : Nat) (s : State) : State :=
  { s with hse := { s.hse with lastViol := BitVec.ofNat 8 viol, verdictDue := none, inside := [], unobs := [], crc := [] } }

/-- The verdict of the frame of `ctx` is emitted, and its words go to the Cloche through X12; a follower emits none. -/
def verdictOut (ctx : TagCtx) (s : State) : State :=
  if s.hse.role = .follower then verdictClose 0 s
  else
    let ws := (List.range 8).map (verdictWord s)
    x12Post .verdict ctx.frame (ws.map (BitVec.ofNat 64))
      (emit Src.hse 1 ctx ws (verdictClose (violBits ws) ((List.range 8).foldl (fun s n => verdictSet n s) s)))

/-- FIELD_VERDICT (R159): at a frame's end, once its last records are produced, the verdict item is emitted on stream 1;
A follower emits none. -/
def onFieldVerdict (t : Tick) (s : State) : State :=
  let s := advance t s
  match s.hse.verdictDue with
  | none => s
  | some ctx => if !s.hse.info.waiting.isEmpty && s.hse.info.exists_ then s else verdictOut ctx s

/-! ### Meanings -/

/-- The meaning of this command: the step of `onStampAccumulate` (R137). -/
def execStampAccumulate (chan : Fin 512) (parityOk : Bool) (s : State) : Host.Outcome State Fault Refusal :=
  .next (onStampAccumulate chan parityOk s)

/-- The meaning of this command: the step of `onConfidenceUpdate` (R141). -/
def execConfidenceUpdate (bank : Fin 16) (t : Tick) (s : State) : Host.Outcome State Fault Refusal :=
  .next (onConfidenceUpdate bank t s)

/-- The meaning of this command: the step of `onDeepWin` (R155). -/
def execDeepWin (chan : Fin 512) (lock : Tick) (windows : List Nat) (s : State) : Host.Outcome State Fault Refusal :=
  .next (onDeepWin chan lock windows s)

/-- The meaning of this command: the step of `onFollowerLock` (R155). -/
def execFollowerLock (chan : Fin 512) (t : Tick) (s : State) : Host.Outcome State Fault Refusal :=
  .next (onFollowerLock chan t s)

/-- The meaning of this command: the step of `onDeepHist` (R156). -/
def execDeepHist (chan : Fin 512) (h : DeepChan) (s : State) : Host.Outcome State Fault Refusal :=
  .next (onDeepHist chan h s)

/-- The meaning of this command: the step of `onMergeDeadline` (R156). -/
def execMergeDeadline (t : Tick) (s : State) : Host.Outcome State Fault Refusal :=
  .next (onMergeDeadline t s)

/-- The meaning of this command: the step of `onStripColumnDone` (R152). -/
def execStripColumnDone (strip : Fin 32) (ecc : Ecc) (t : Tick) (s : State) : Host.Outcome State Fault Refusal :=
  .next (onStripColumnDone strip ecc t s)

/-- The meaning of this command: the step of `onFieldVerdict` (R159). -/
def execFieldVerdict (t : Tick) (s : State) : Host.Outcome State Fault Refusal :=
  .next (onFieldVerdict t s)

end Sys2Proof.Machine
end

