-- ==== Sys2Proof/Machine/Codec.lean ====
section
/-! DEFINITION. The Mulch block code (R302 to R306, R310): prediction, Rice groups, fixed-ratio groups, block headers. -/

namespace Sys2Proof.Machine

/-- The history of a binding and the words of a block as one list: the last but one word of each of the `st` lanes, the
last word of each, then the block's words. -/
def withHistory (st : Nat) (h1 h2 ws : List Nat) : List Nat := h2.take st ++ h1.take st ++ ws

/-- The prediction of word `i` of the block from the extended list (R303), `order` 0 to 2. -/
def predict (st order : Nat) (ext : Array Nat) (i : Nat) : Nat :=
  let a := ext.getD (i + st) 0
  let b := ext.getD i 0
  match order with
  | 0 => 0
  | 1 => a
  | _ => (2 * a + 65536 - b) % 65536

/-- The zig-zag map of the residual of word `w` from prediction `p` (R303). -/
def zigzag (w p : Nat) : Nat :=
  let d := sval 16 (w + 65536 - p)
  if 0 ≤ d then (2 * d).toNat else (-(2 * d) - 1).toNat

/-- The mapped residuals of a block. -/
def residuals (st order : Nat) (h1 h2 ws : List Nat) : List Nat :=
  let ext := (withHistory st h1 h2 ws).toArray
  (List.range ws.length).map fun i => zigzag (ws.getD i 0) (predict st order ext i)

/-- The bits of a group with parameter `k`, without the parameter itself (R303). -/
def groupBits (k : Nat) (us : List Nat) : Nat := sumN (us.map fun u => u / 2 ^ k + 1 + k)

/-- The parameter of a group: the fewest bits, a tie going to the lower value (R304). -/
def bestK (us : List Nat) : Nat :=
  (List.range 16).foldl (fun a k => if groupBits k us < groupBits a us then k else a) 0

/-- The groups of 16 words of a list. -/
def groups16 (fuel : Nat) (l : List Nat) : List (List Nat) :=
  match fuel with
  | 0 => []
  | f + 1 => if l.isEmpty then [] else l.take 16 :: groups16 f (l.drop 16)

/-- `n` bits of `v`, most significant first. -/
def msbBits (n v : Nat) : List Bool := (List.range n).map fun i => bitB v (n - 1 - i)

/-- The code of a group (R303). -/
def codeGroup (us : List Nat) : List Bool :=
  let k := bestK us
  msbBits 4 k ++ us.flatMap fun u => List.replicate (u / 2 ^ k) true ++ [false] ++ msbBits k u

/-- The coded bits of a block with a prediction order. -/
def losslessBits (st order : Nat) (h1 h2 ws : List Nat) : List Bool :=
  (groups16 ws.length (residuals st order h1 h2 ws)).flatMap codeGroup

/-- The coded size in bits with a prediction order. -/
def losslessSize (st order : Nat) (h1 h2 ws : List Nat) : Nat :=
  sumN ((groups16 ws.length (residuals st order h1 h2 ws)).map fun g => 4 + groupBits (bestK g) g)

/-- The stored length of `b` coded bits: the header and whole 64-bit words (R302). -/
def storedLen (b : Nat) : Nat := 8 + 8 * ((b + 63) / 64)

/-- The order that gives the smallest stored length, a tie going to the lower one (R304). -/
def bestOrder (st : Nat) (h1 h2 ws : List Nat) : Nat :=
  let len (o : Nat) : Nat := storedLen (losslessSize st o h1 h2 ws)
  [1, 2].foldl (fun a o => if len o < len a then o else a) 0

/-- The first eight bits of a list as a byte, most significant first; missing bits are 0. -/
def packByte (l : List Bool) : Byte :=
  BitVec.ofNat 8 ((List.range 8).foldl (fun a i => 2 * a + b2n (l.getD i false)) 0)

/-- Bits packed into `n` bytes, padded with zero bits. -/
def packBits (n : Nat) (l : List Bool) : List Byte :=
  match n with
  | 0 => []
  | n + 1 => packByte (l.take 8) :: packBits n (l.drop 8)

/-- The little-endian 16-bit words of bytes (R302). -/
def words16 (l : List Byte) : List Nat := (List.range (l.length / 2)).map fun i => leAt l (2 * i) 2

/-- A block header (R302). -/
def blockHeader (orig stored kind param stride crc : Nat) : List Byte :=
  leBytes 8 (orig + 2 ^ 13 * stored + 2 ^ 26 * kind + 2 ^ 28 * param + 2 ^ 30 * stride + 2 ^ 32 * crc)

/-- A coded block: its bytes, the history it leaves, the largest shift, and whether it is raw (kind 1). -/
structure Coded where
  bytes : List Byte
  h1    : List Nat
  h2    : List Nat
  shift : Nat
  raw   : Bool
  deriving DecidableEq, Repr

/-- The words of lane `l` of the extended list. -/
def laneOf (st l : Nat) (ext : List Nat) : List Nat :=
  ((List.range ext.length).zip ext).filterMap fun p => if p.1 % st = l then some p.2 else none

/-- The history after a block of words `ws` (original or reconstructed) (R307). -/
def nextHistory (st : Nat) (h1 h2 ws : List Nat) : List Nat × List Nat :=
  let ext := withHistory st h1 h2 ws
  let lane (l : Nat) : List Nat := (laneOf st l ext).reverse
  ((List.range 8).map fun l => if l < st then (lane l).getD 0 0 else 0,
   (List.range 8).map fun l => if l < st then (lane l).getD 1 0 else 0)

/-- A raw block (R305). -/
def rawBlock (stride : Nat) (h1 h2 : List Nat) (bytes : List Byte) : Coded :=
  let h := nextHistory (2 ^ stride) h1 h2 (words16 bytes)
  ⟨blockHeader bytes.length (bytes.length + 8) 1 0 stride (crc32c bytes) ++ bytes, h.1, h.2, 0, true⟩

/-- A lossless block, not yet judged against its size (R303, R304). -/
def losslessBlock (stride : Nat) (h1 h2 : List Nat) (bytes : List Byte) : Coded :=
  let st := 2 ^ stride
  let ws := words16 bytes
  let o := bestOrder st h1 h2 ws
  let len := storedLen (losslessSize st o h1 h2 ws)
  let h := nextHistory st h1 h2 ws
  ⟨blockHeader bytes.length len 0 o stride (crc32c bytes) ++ packBits (len - 8) (losslessBits st o h1 h2 ws), h.1, h.2, 0, false⟩

/-- The width of q and of the shift at a ratio code (R306). -/
def ratioM (code : Nat) : Nat := [7, 5, 3, 2].getD code 2
def ratioShift (code : Nat) : Nat := if code = 3 then 5 else 4

/-- One fixed-ratio word: q and the reconstruction from the predecessor `r` with shift `e` (R306), signed values. -/
def fixedWord (e : Nat) (w r : Int) : Int × Int :=
  let q := rdiv (w - r) (2 ^ e)
  (q, satS 16 (r + q * 2 ^ e))

/-- A group with shift `e`: `prev` holds the reconstructed predecessors of the last `st` words, oldest first. The answer is
the q values and the reconstructed words. -/
def fixedGroup (e : Nat) (prev : List Int) (ws : List Int) : List (Int × Int) :=
  match ws with
  | [] => []
  | w :: r =>
    let x := fixedWord e w (prev.headD 0)
    x :: fixedGroup e (prev.drop 1 ++ [x.2]) r

/-- The first shift from `e` up for which every q fits in `m` bits; `fuel` bounds the search. -/
def fixedShift (fuel e m : Nat) (prev ws : List Int) : Nat :=
  match fuel with
  | 0 => e
  | f + 1 =>
    if (fixedGroup e prev ws).all fun p => decide (-(2 ^ (m - 1)) ≤ p.1) && decide (p.1 < 2 ^ (m - 1)) then e
    else fixedShift f (e + 1) m prev ws

/-- All groups of a fixed-ratio block: bits, reconstructed words and the largest shift. -/
def fixedGroups (code : Nat) (prev : List Int) (gs : List (List Int)) : List Bool × List Int × Nat :=
  match gs with
  | [] => ([], [], 0)
  | g :: rest =>
    let m := ratioM code
    let e := fixedShift 17 0 m prev g
    let xs := fixedGroup e prev g
    let recon := xs.map (·.2)
    let prev' := (prev ++ recon).drop recon.length
    let p := fixedGroups code prev' rest
    (msbBits (ratioShift code) e ++ (xs.flatMap fun x => msbBits m (uval m x.1)) ++ p.1, recon ++ p.2.1, max e p.2.2)

/-- A fixed-ratio block of ratio `code` (R306). -/
def fixedBlock (code stride : Nat) (h1 h2 : List Nat) (bytes : List Byte) : Coded :=
  let st := 2 ^ stride
  let ws := (words16 bytes)
  let gs := (groups16 ws.length ws).map fun g => g.map (sval 16)
  let p := fixedGroups code ((h1.take st).map (sval 16)) gs
  let recon := p.2.1.map (uval 16)
  let len := storedLen p.1.length
  let h := nextHistory st h1 h2 recon
  ⟨blockHeader bytes.length len 2 code stride (crc32c (recon.flatMap (leBytes 2))) ++ packBits (len - 8) p.1, h.1, h.2, p.2.2,
   false⟩

/-- A block of a native binding's item in `mode` (R299, R305). -/
def nativeBlock (mode stride : Nat) (h1 h2 : List Nat) (bytes : List Byte) : Coded :=
  if 3 ≤ mode then fixedBlock (mode - 3) stride h1 h2 bytes
  else
    let c := losslessBlock stride h1 h2 bytes
    if c.bytes.length > bytes.length + 8 then rawBlock stride h1 h2 bytes else c

/-- The zero history. -/
def zeroHist : List Nat := List.replicate 8 0

/-- A compatibility block; none is NOSHRINK (R305). -/
def compatBlock (stride : Nat) (bytes : List Byte) : Option Coded :=
  let c := losslessBlock stride zeroHist zeroHist bytes
  if c.bytes.length ≥ bytes.length then none else some c

end Sys2Proof.Machine
end

