-- ==== Sys2Proof/Machine/Mulch.lean ====
section
/-! DEFINITION. The Mulch engines (R307 to R315) and the queues (R316 to R320): blocks, verification, bypass, FLUSH, stalls. -/

namespace Sys2Proof.Machine

/-! ### Engines -/

/-- The payload bytes of an item that are cut into blocks (R301). -/
def blockBytes (s : State) (i : Nat) (x : MulchItem) : List Byte := bytesOf (x.words.drop (headWords s i))

/-- The work on offer, by tag (R29, R312): the first item of each binding and the first block of each capture unit, unless
an engine holds it. -/
def offered (s : State) : List (Word64 × Nat) :=
  let held (k : Nat) : Bool := s.mcd.engines.contains (some k)
  let bound := (List.range 32).filterMap fun i =>
    match (bindOf s i).input with
    | x :: _ => if x.ctl || held i then none else some (x.tag, i)
    | [] => none
  let caps := (List.range 4).filterMap fun u =>
    match (unitOf s u).toCode with
    | x :: _ => if held (32 + u) then none else some (mkTag s { frame := x.frame } Src.tae 0 0, 32 + u)
    | [] => none
  sortBy (fun a b => tagLt a.1 b.1) (bound ++ caps)

/-- The first free engine in service, E0 before E1 (R312); one that failed a verification is none (R311). -/
def freeEngine (s : State) : Option Nat :=
  (List.range 2).find? fun e => (engineWork s e).isNone && !isFenced s (Unit.engine e) && !s.mcd.failed.contains e

/-- The words of the block an engine takes, for its input queue (DESIGN CHOICE, log entry 15). -/
def workWords (s : State) (k : Nat) : List Word64 :=
  if k < 32 then
    match (bindOf s k).input with
    | x :: _ => wordsOf 512 ((blockBytes s k x).drop (bindOf s k).pos)
    | [] => []
  else
    match (unitOf s (k - 32)).toCode with
    | x :: _ => wordsOf 512 x.bytes
    | [] => []

/-- A grafted engine re-enters (R314). -/
def engineEnter (e : Nat) (s : State) : State :=
  graftEnter (Unit.engine e) (raise 242 { s with mcd := { s.mcd with
    bypass := false, waits := s.mcd.waits.erase e, failed := s.mcd.failed.erase e } })

/-- Whether work `k` begins an item: a bound item not yet begun, or a capture block, which belongs to none (R314)
(DEDUCED, log entry 62). -/
def beginsItem (s : State) (k : Nat) : Bool := decide (32 ≤ k) || !(bindOf s k).started

/-- At an item boundary the engines that wait for one re-enter (R314). -/
def enginesEnter (s : State) : State := s.mcd.waits.foldl (fun s e => engineEnter e s) s

/-- A free engine takes work `k` and restores its state; the words of its last block have left its output queue. -/
def engineTakes (k : Nat) (s : State) : State :=
  match freeEngine s with
  | none => s
  | some e =>
    let s := if k < 32 && !(bindOf s k).started then beginItem k s else s
    pushBP 5 (2 * e) (packWords 0 (workWords s k)) (setEngine e (some k) (emptyEngineQueue (2 * e + 1) s))

/-- MULCH_BLOCK_START (R312): the first free engine takes the first offered work; where that begins an item, a grafted engine
re-enters first (R314). -/
def onMulchBlockStart (s : State) : State :=
  match offered s with
  | [] => s
  | (_, k) :: _ => engineTakes k (if beginsItem s k then enginesEnter s else s)

/-- Count coded bytes in KiB (R323). -/
def countBytes (nIn nOut : Nat) (s : State) : State :=
  let i := s.mcd.inRem + nIn
  let o := s.mcd.outRem + nOut
  let s := bumpSat Reg.MCD_OUT_KIB 0 32 (o / 1024) (bumpSat Reg.MCD_IN_KIB 0 32 (i / 1024) s)
  { s with mcd := { s.mcd with inRem := i % 1024, outRem := o % 1024 } }

/-- A verification mismatch (R311): the event, the contained fault of the engine and its count; the engine takes no further
block. -/
def verifyFault (e : Nat) (s : State) : State :=
  let s := { s with mcd := { s.mcd with failed := e :: s.mcd.failed } }
  stick Reg.MCD_STICKY 0 (bump Reg.MCD_VERIFY_FAIL 1 (fault 240 Src.mcd e .contained 0 s))

/-- The bytes of a finished block in the engine's output queue, group 5 (R313), until the engine's next block starts
(DESIGN CHOICE, log entry 15). -/
def outBlock (e : Nat) (bytes : List Byte) (s : State) : State := pushBP 5 (2 * e + 1) (packWords 0 (wordsOf 514 bytes)) s

/-- A finished item of binding `i` moves on (R301). -/
def finishBound (i : Nat) (x : MulchItem) (rest : List MulchItem) (s : State) : State :=
  let b := bindOf s i
  let head := x.words.take (headWords s i)
  let c := containerWord (8 * x.words.length) (bindMode s i) b.restarted
  let s := setBind i { b with input := rest, started := false, restarted := false, pos := 0, out := [],
                              maxShift := b.shiftNow } s
  mcdPass (rest.length + 1) i (queueItem (bindSrc s i) (bindStream s i) (x.tag :: c :: head ++ b.out) s)

/-- Engine `e` commits a coded block of binding `i` (R301, R307, R313). -/
def commitBlock (e i n : Nat) (c : Coded) (x : MulchItem) (rest : List MulchItem) (total : Nat) (s : State) : State :=
  let b := bindOf s i
  let s := countBytes n c.bytes.length (outBlock e c.bytes s)
  let s := if c.raw && decide (bindMode s i ≠ 2) then bumpSat Reg.MCD_RAW_BLOCKS 0 32 1 s else s
  let s := setBind i { b with pos := b.pos + n, out := b.out ++ wordsOf 513 c.bytes, h1 := c.h1, h2 := c.h2,
                              shiftNow := max b.shiftNow c.shift } s
  if b.pos + n ≥ total then finishBound i x rest s else s

/-- An engine finishes a block of binding `i` (R303 to R306, R311, R313). -/
def doneBound (e i : Nat) (ok : Bool) (s : State) : State :=
  let b := bindOf s i
  match b.input with
  | [] => s
  | x :: rest =>
    let bytes := blockBytes s i x
    let blk := (bytes.drop b.pos).take 4096
    let mode := bindMode s i
    let stride := bindStride s i
    let s := if ok then s else verifyFault e s
    if mode = 2 then
      let coded := if ok then compatBlock stride blk else none
      let s := if coded.isNone then bump Reg.MCD_NOSHRINK 1 s else s
      let c := coded.getD (rawBlock stride zeroHist zeroHist blk)
      commitBlock e i blk.length { c with h1 := zeroHist, h2 := zeroHist } x rest bytes.length s
    else if ok then commitBlock e i blk.length (nativeBlock mode stride b.h1 b.h2 blk) x rest bytes.length s
    else if mode = 1 then commitBlock e i blk.length (rawBlock stride b.h1 b.h2 blk) x rest bytes.length s
    else s

/-- An engine finishes a block of capture unit `u` (R232, R305, R311): the coded block is stored, or the raw one. -/
def doneCapture (e u : Nat) (ok : Bool) (s : State) : State :=
  let x := unitOf s u
  match x.toCode with
  | [] => s
  | blk :: rest =>
    let s := if ok then s else verifyFault e s
    let coded := if ok then compatBlock (Config.captureStride % 4) blk.bytes else none
    let s := if coded.isNone then bump Reg.MCD_NOSHRINK 1 s else s
    let stored := (coded.map (·.bytes)).getD blk.bytes
    let s := countBytes blk.bytes.length stored.length (outBlock e stored s)
    let s := setUnit u { x with toCode := rest } s
    let s := blockStored u blk (captureBlock blk.frame coded.isNone blk.first blk.bytes stored) s
    drainRaw rest.length u s

/-- MULCH_BLOCK_DONE (R313): the block of the engine is committed with its completion stamp, unless the engine is fenced. -/
def mulchDone (engine : Nat) (verifyOk : Bool) (s : State) : State :=
  match engineWork s engine with
  | none => s
  | some k =>
    if isFenced s (Unit.engine engine) then s
    else
      let s := releaseEngine engine s
      if k < 32 then doneBound engine k verifyOk s else doneCapture engine (k - 32) verifyOk s

/-- MULCH_BLOCK_DONE at `t`. -/
def onMulchBlockDone (engine : Fin 2) (verifyOk : Bool) (t : Tick) (s : State) : State := mulchDone engine verifyOk (advance t s)

/-- A fence of an engine (R314, R315): its block is discarded, and while both engines are fenced bound items pass. -/
def engineFenced (e : Nat) (s : State) : State :=
  let s := fault 241 Src.mcd e .contained 0 (releaseEngine e s)
  if isFenced s (Unit.engine 0) && isFenced s (Unit.engine 1) && !s.mcd.bypass then
    let s := { s with mcd := { s.mcd with bypass := true } }
    let s := stick Reg.MCD_STICKY 2 (raise 245 s)
    let s := (List.range 32).foldl (fun s i =>
      mcdPass ((bindOf s i).input.length + 1) i (setBind i { bindOf s i with restartNext := true } s)) s
    let s := (List.range 4).foldl (fun s u =>
      let x := unitOf s u
      drainRaw x.toCode.length u (setUnit u { x with toCode := x.toCode.map fun p => { p with code := false } } s)) s
    enginesEnter s
  else s

/-- An engine passed its graft's self-test (R314): it re-enters at the next item boundary, which while both engines are fenced is
any moment, since items pass whole (R315) (DEDUCED, log entry 62). -/
def engineGrafted (e : Nat) (s : State) : State :=
  if s.mcd.bypass then engineEnter e s else { s with mcd := { s.mcd with waits := e :: s.mcd.waits } }

/-- The graft of an engine stops before it re-entered. -/
def engineStops (e : Nat) (s : State) : State := { s with mcd := { s.mcd with waits := s.mcd.waits.erase e } }

/-- An uncorrectable error in a binding's state slot (R308). -/
def slotLost (i : Nat) (s : State) : State :=
  stick Reg.MCD_STICKY 1 (fault 243 Src.mcd 0 .corrected i (setBind i { bindOf s i with restartNext := true } s))

/-! ### FLUSH (R320) -/

/-- Discard the packets of the items whose tag `sel` selects, from the next packet boundary on: `cur` is the tag of the
item the words continue, `mid` whether its packet was begun. The answer is the words kept and the packets discarded. -/
def flushWords (sel : Word64 → Bool) (cur : Option Word64) (mid : Bool) (l : List QWord) : List QWord × Nat :=
  match l with
  | [] => ([], 0)
  | w :: r =>
    let tag := cur.getD w.data
    let nxt := if w.itemEnd then none else some tag
    if mid then
      let p := flushWords sel nxt (!w.last) r
      ({ w with itemEnd := w.itemEnd || (w.last && sel tag) } :: p.1, p.2)
    else if sel tag then
      let p := flushWords sel nxt false r
      (p.1, p.2 + b2n w.last)
    else
      let p := flushWords sel nxt false r
      (w :: p.1, p.2)

/-- The data items of a stream (control items keep their place, R32). -/
def ofStream (src stream : Nat) (tag : Word64) : Bool := decide (tagSrc tag = src) && decide (tagStream tag = stream)

/-- Count packets a FLUSH discarded (R320). -/
def countFlushed (n : Nat) (s : State) : State :=
  if n = 0 then s else stick Reg.QSY_STICKY 2 (raise 249 (bump Reg.QSY_FLUSHED n s))

/-- A FLUSH of a stream reaches a queue: its queued words are discarded (R320). -/
def flushQueue (g i src stream : Nat) (s : State) : State :=
  let q := queueOf s g i
  let p := flushWords (ofStream src stream) q.curTag q.mid (q.words ++ q.held)
  let d := qDepth s g
  let cur := if !q.mid && q.curTag.any (ofStream src stream) then none else q.curTag
  countFlushed p.2 (setQueue g i { q with words := p.1.take d, held := p.1.drop d, curTag := cur } s)

/-- The FLUSH of a stream acts on its waiting items in Mulch (R307, R320) and on its output queue, the FLUSH item follows,
and the next item carries lost_before (DEDUCED, log entry 55). -/
def flushStream (src stream : Nat) (c : TagCtx) (scope : Nat) (s : State) : State :=
  let s := match mulchBinding s src stream with
    | some i =>
      let b := bindOf s i
      let keep := if b.started then b.input.take 1 else []
      let rest := if b.started then b.input.drop 1 else b.input
      let gone := rest.filter fun x => !x.ctl
      countFlushed (sumN (gone.map fun x => (x.words.length + 512) / 512))
        (setBind i { b with input := keep ++ rest.filter (·.ctl), restartNext := true } s)
    | none => s
  let s := match mapEntry s src stream with
    | some m => flushQueue 4 m src stream s
    | none => s
  loseBefore src stream (emitCtl src (fun n => decide (n = stream)) c 3 scope stream s)

/-- FLUSH_ITEM (R320): a FLUSH item reaches a further queue of its stream, and is then queued itself
(DEDUCED, log entry 55). -/
def onFlushItem (q : QueueId) (src : BitVec 6) (stream : BitVec 6) (item : Item) (s : State) : State :=
  let s := flushQueue q.group q.index src.toNat stream.toNat s
  loseBefore src.toNat stream.toNat (pushBP q.group q.index (packWords 0 (item.tag :: item.words)) s)

/-! ### Back-pressure (R319) -/

/-- BP_QUEUE_SPACE: the held words enter the space of a full queue, and its full episode ends. -/
def onBpQueueSpace (q : QueueId) (s : State) : State :=
  let x := queueOf s q.group q.index
  let d := qDepth s q.group
  if 4 ≤ q.group.val && decide (x.words.length < d) then
    let n := d - x.words.length
    let y : Queue := { x with words := x.words ++ x.held.take n, held := x.held.drop n }
    setQueue q.group q.index y s
  else s

/-- QSY_STALL: a BP queue that stays full for longer than stall_us is reported once per episode (R319). -/
def onQsyStall (q : QueueId) (t : Tick) (s : State) : State :=
  let s := advance t s
  let x := queueOf s q.group q.index
  let us := rdf s Fld.QSY_STALL_CFG_stall_us
  if 4 ≤ q.group.val && !x.stalled && decide (us ≠ 0) && x.fullAt.any fun f => decide (f + us * 64000 < now s)
  then
    let s := setQueue q.group q.index { x with stalled := true } s
    let n := min (s.qsy.stallCt.getD q.group.val 0 + 1) 65535
    stick Reg.QSY_STICKY 3 (raise 250 { s with
      fresh := noteSet (· + ·) (countKey Reg.QSY_GROUP_STALL q.group.val) (BitVec.ofNat 32 (s.qsy.stallCt.getD q.group.val 0)) 1 s,
      qsy := { s.qsy with stallCt := s.qsy.stallCt.set q.group.val n } })
  else s

/-- The register views of chapter 10 (R323, R324). -/
def mcdView (s : State) (off : Nat) : Option Nat :=
  if off = Reg.MCD_STATUS then
    some ((List.range 2).foldl (fun a e => a + (if (engineWork s e).isSome then 2 ^ e else 0)
      + (if isFenced s (Unit.engine e) then 4 * 2 ^ e else 0)) 0 + 16 * b2n s.mcd.bypass)
  else if off = Reg.MCD_BIND_CFG then some ((recOf s 0x0F01).elim 0 fun r => leAt r.body (4 + 8 * rdf s Fld.MCD_BIND_SEL_binding) 4)
  else if off = Reg.MCD_BIND_RESTART then
    some ((recOf s 0x0F01).elim 0 fun r => rf r (8 + 8 * rdf s Fld.MCD_BIND_SEL_binding) 0 16)
  else if off = Reg.MCD_NBIND then some ((recOf s 0x0F01).elim 0 fun r => rf r 0 0 6)
  else if off = Reg.MCD_BIND_STAT then
    let b := bindOf s (rdf s Fld.MCD_BIND_SEL_binding)
    some (b.since + 2 ^ 16 * b.maxShift)
  else none

def qsyView (s : State) (off : Nat) : Option Nat :=
  let g := rdf s Fld.QSY_GROUP_SEL_group
  if off = Reg.QSY_STATUS then
    some ((List.range 10).foldl (fun a g => if s.qsy.queues.any fun e => decide (e.1 / 1024 = g) && decide (qDepth s g ≤ e.2.words.length)
      then a + 2 ^ g else a) 0)
  else if off = Reg.QSY_POOL then
    some (sumN ((List.range 10).map fun g => qDepth s g * [512, 32, 16, 8, 64, 4, 16, 2, 2, 2].getD g 0))
  else if off = Reg.QSY_GROUP_DEPTH then some (qDepth s g)
  else if off = Reg.QSY_GROUP_LOST then some (s.qsy.lostCt.getD g 0)
  else if off = Reg.QSY_GROUP_HWM then some (s.qsy.hwm.getD g 0)
  else if off = Reg.QSY_GROUP_STALL then some (s.qsy.stallCt.getD g 0)
  else none

/-! ### Meanings -/

/-- The meaning of this command: the step of `onMulchBlockStart` (R312). -/
def execMulchBlockStart (s : State) : Host.Outcome State Fault Refusal :=
  .next (onMulchBlockStart s)

/-- The meaning of this command: the step of `onMulchBlockDone` (R313). -/
def execMulchBlockDone (engine : Fin 2) (verifyOk : Bool) (t : Tick) (s : State) : Host.Outcome State Fault Refusal :=
  .next (onMulchBlockDone engine verifyOk t s)

/-- The meaning of this command: the step of `onFlushItem` (R320). -/
def execFlushItem (q : QueueId) (src : BitVec 6) (stream : BitVec 6) (item : Item) (s : State) : Host.Outcome State Fault Refusal :=
  .next (onFlushItem q src stream item s)

/-- The meaning of this command: the step of `onBpQueueSpace` (R319). -/
def execBpQueueSpace (q : QueueId) (s : State) : Host.Outcome State Fault Refusal :=
  .next (onBpQueueSpace q s)

/-- The meaning of this command: the step of `onQsyStall` (R319). -/
def execQsyStall (q : QueueId) (t : Tick) (s : State) : Host.Outcome State Fault Refusal :=
  .next (onQsyStall q t s)

end Sys2Proof.Machine
end

