-- ==== Sys2Proof/Machine/Trl.lean ====
section
/-! DEFINITION. The Trellis (chapter 12): enumeration and attestation (R364 to R367), time alignment (R368 to R370), modes
(R371 to R374), forwarding and merging (R375), parts lost and grafted (R378 to R380), and the TRL registers (R385). -/

namespace Sys2Proof.Machine

/-! ### The CAP record, certificates and attestations (R364, R366) -/

/-- A field of a CAP record: bits of the 32-bit word at byte `o`. -/
def capField (c : List Byte) (o lo len : Nat) : Nat := bits (leAt c o 4) lo len

def capUid (c : List Byte) : List Byte := slice c 0 8
def capPersonality (c : List Byte) : Nat := capField c 8 9 3
def capFieldChains (c : List Byte) : Bool := capField c 8 13 1 = 1
def capDigest (c : List Byte) : List Byte := slice c 16 32
def capLanes (c : List Byte) (p : Port) : Nat := capField c 8 (match p with | .up => 16 | .dn => 24) 3
def capRate (c : List Byte) (p : Port) : Nat := capField c 8 (match p with | .up => 20 | .dn => 28) 2

/-- The factory delay `i` of a CAP record: t_TX of UP, t_RX of UP, t_TX of DN, t_RX of DN. -/
def capDelay (c : List Byte) (i : Nat) : Int := (leAt c (48 + 2 * i) 2 : Nat)

/-- The lane byte of a port in this part's CAP record. -/
def capLaneByte (s : State) (p : Port) : Nat :=
  if (portOf s p).state = 2 then (usableLanes s p).length + 16 * portRate s p else 0

/-- This part's CAP record (R364). -/
def capOf (s : State) : List Byte :=
  leBytes 8 Config.uid.toNat ++
  [0xB1, BitVec.ofNat 8 (b2n Config.variantIN + 2 * personality s + 16 * b2n (isMaster s) + 32 * b2n (fieldChains s)),
   BitVec.ofNat 8 (capLaneByte s .up), BitVec.ofNat 8 (capLaneByte s .dn)] ++
  leBytes 4 s.boot.imgGen ++ slice s.boot.digest 0 32 ++
  (List.range 4).flatMap (fun i => leBytes 2 (Config.linkDelay i)) ++ List.replicate 8 0

/-- Why an attestation for address `a` under a nonce is refused, as a REJECT reason: 1 certificate, 2 signature (R366)
(DEDUCED, log entry 30). -/
def attFails (s : State) (nonce : List Byte) (a : Nat) (x : Attestation) : Option Nat :=
  let rootPk := slice x.cert 80 64
  let h := Config.shakeBytes rootPk
  let known := (List.range 2).any fun k => !s.sec.arRevoked.getLsbD k && decide (s.sec.ar.getD k [] = h) && !emptySlot h
  let root := Config.slhVerify256s rootPk (slice x.cert 0 144) (x.cert.drop 144)
  if !known || !root || slice x.cert 0 8 ≠ capUid x.cap then some 1
  else if Config.slhVerify256f (slice x.cert 16 64) (nonce ++ [BitVec.ofNat 8 a] ++ x.cap) x.sig then none
  else some 2

/-! ### The end of step 9 -/

/-- The initial plans of the header are staged (R435, R451 step 10) (DEDUCED, log entry 21). -/
def stagePlans (s : State) : State :=
  { s with esq := { s.esq with plan := if hasLidar s then some (s.boot.initPlans % 16) else none },
           fib := { s.fib with plan := if hasFibre s then some (s.boot.initPlans / 16 % 16) else none } }

/-- Step 9 ends (R442, R451): the addressed records apply and the initial plans are staged. A part without lidar measures no
rails (DEDUCED, log entries 20 and 21). -/
def step9End (s : State) : State :=
  if s.boot.step = 9 then
    let s := wr Reg.TRL_ROLE (BitVec.ofNat 32 (cascField s (0x40 + 4 * s.trl.addr) 0 16))
      { s with cfg := { s.cfg with applied := true } }
    stagePlans { s with boot := { s.boot with step := if hasLidar s then 10 else 11 } }
  else s

/-! ### Modes (R372, R373) -/

/-- The payload of a lane at a rate code in bit/s (R355). -/
def lanePayload (code : Nat) : Rat := (112000000000 : Rat) * 514 / 544 * 256 / 257 / (2 ^ code : Nat)

/-- The highest column rate and the largest T_gate of the scan plans (R372). -/
def planColumnRate (r : ImgRec) : Rat :=
  let p : Rat := ((rf r 0x10 0 20 : Nat) : Rat) / 1000000 * (100 - (rf r 0x10 24 4 : Nat)) / 100
  let p := if rf r 0 4 1 = 1 then p / 2 else p
  if p = 0 then 0 else (rf r 0x0C 0 12 : Nat) / p

/-- The deepen rate R_d in bit/s (R372). -/
def deepenRate (s : State) : Rat :=
  let rs := s.cfg.recs.filter fun r => decide (r.type = 0x0701)
  512 * (9 / 4 * (maxN (rs.map fun r => rf r 8 0 12) : Nat) + 528) * 8 * maxQ (rs.map planColumnRate)

/-- What the master knows of a part: its own record for address 0. -/
def partOf (s : State) (a : Nat) : PartInfo := Tab.lookD s.trl.parts a {}

/-- The usable lanes and the rate code of the hop between parts `a` and `a + 1`, as their CAPs show them. -/
def hopLanes (s : State) (a : Nat) : Nat × Nat :=
  let x := (partOf s a).cap
  let y := (partOf s (a + 1)).cap
  (min (capLanes x .dn) (capLanes y .up), max (capRate x .dn) (capRate y .up))

/-- Whether the hop below `a` carries `rate` within the bounds of R372. -/
def hopCarries (s : State) (a : Nat) (rate : Rat) : Bool :=
  let h := hopLanes s a
  let n : Rat := 11 / 10 * rate / lanePayload h.2
  decide (n ≤ (h.1 : Nat)) && decide (h.1 + rdf s Fld.ALA_FLOORS_link_max ≤ 4)

/-- Whether the pair of leader `a` and its follower is granted (R372) (DESIGN CHOICE, log entry 31). -/
def deepenGranted (s : State) (a : Nat) : Bool :=
  let x := partOf s a
  let y := partOf s (a + 1)
  x.present && y.present && !x.joined && !y.joined && decide (capPersonality x.cap % 2 = 1)
    && decide (capPersonality y.cap % 2 = 1) && decide (capDigest x.cap = capDigest y.cap) && !capFieldChains y.cap
    && hopCarries s a (deepenRate s)

def leaders (s : State) : List Nat := (List.range 15).filter fun a => decide (roleAt s a % 4 = 1)

/-- The converters that run under some fibre plan: four for the tones, four more with Raman (R373). -/
def ownerRate (s : State) : Rat :=
  let raman := s.cfg.recs.any fun r => decide (r.type = 0x0901) && decide (rf r 0 12 2 ≠ 0)
  12 * 625000000 * (if raman then 8 else 4)

/-- Whether owner `o` and its partners are granted a shared fibre (R373); `dg` are the granted leaders. -/
def sharedGranted (s : State) (dg : List Nat) (o : Nat) : Bool :=
  let ps := partnersOf s o
  let ok (a : Nat) : Bool := (partOf s a).present && !(partOf s a).joined
    && decide (capDigest (partOf s a).cap = capDigest (partOf s o).cap)
  let hop (h : Nat) : Bool := hopCarries s h (ownerRate s + (if dg.contains h then deepenRate s else 0))
  ok o && ps.all fun a => ok a && ((List.range 15).all fun h =>
    !(decide (min a o ≤ h) && decide (h < max a o)) || hop h)

/-- The mode grants of START (R363): byte `a` holds present, deepen and shared (DESIGN CHOICE, log entry 31). -/
def modeGrants (s : State) : List Byte :=
  let dg := (leaders s).filter (deepenGranted s)
  let sg := (owners s).filter (sharedGranted s dg)
  (List.range 16).map fun a =>
    let d := dg.any fun l => decide (a = l) || decide (a = l + 1)
    let f := sg.any fun o => decide (a = o) || (partnersOf s o).contains a
    BitVec.ofNat 8 (b2n (partOf s a).present + 2 * b2n d + 4 * b2n f)

/-- Whether a role of address `a` is refused by the grants. -/
def roleRefused (s : State) (g : List Byte) (a : Nat) : Bool :=
  let r := roleAt s a
  let v := (g.getD a 0).toNat
  bitB v 0 && ((decide (r % 4 ≠ 0) && !bitB v 1) || ((bitB r 3 || (owners s).contains a) && !bitB v 2))

/-- EVT 291 with its fault. -/
def modeRefused (s : State) : State := stick Reg.TRL_STICKY 4 (fault 291 Src.trl 0 .corrected 0 s)

/-- START takes effect at this part (R370, R372, R373): the time T0, the roles granted, and with them the end of step 9. A
later START changes neither T0 nor the roles of a part that runs. -/
def startTaken (t0 : Tick) (g : List Byte) (s : State) : State :=
  let v := (g.getD s.trl.addr 0).toNat
  let r := roleAt s s.trl.addr
  let n := ((List.range 16).filter fun a => bitB (g.getD a 0).toNat 0).length
  let s := { s with trl := { s.trl with nParts := n } }
  if s.trl.enumerated then s
  else
    let s := { s with trl := { s.trl with enumerated := true, t0 := some t0, deepen := bitB v 1, shared := bitB v 2,
                                          lidarHeld := decide (r % 4 = 2) && !bitB v 1 },
                      hse := { s.hse with role := if !bitB v 1 then .single else if r % 4 = 1 then .leader
                                                  else if r % 4 = 2 then .follower else .single } }
    let refused := if isMaster s then (List.range 16).any (roleRefused s g) else roleRefused s g s.trl.addr
    step9End (if refused then modeRefused s else s)

/-! ### The master's enumeration (R365, R370, R380) -/

/-- EVT 286 with its fault. -/
def chainShort (s : State) : State := stick Reg.TRL_STICKY 1 (fault 286 Src.trl 0 .corrected 0 s)

/-- T0 of a START sent now (R370): at least start_lead ms ahead (DESIGN CHOICE, log entry 31). -/
def startT0 (s : State) : Tick := now s + rdf s Fld.TRL_CFG_start_lead * 64000000 + freeVal s

/-- The master records what it grants each part. -/
def noteGrants (g : List Byte) (s : State) : State :=
  { s with trl := { s.trl with parts := s.trl.parts.map fun e =>
      (e.1, { e.2 with deepen := bitB (g.getD e.1 0).toNat 1, shared := bitB (g.getD e.1 0).toNat 2 }) } }

/-- The master ends enumeration (R365): with its own hop aligned (or `force`) it checks the modes and broadcasts START
(DESIGN CHOICE, log entry 31). -/
def finishEnum (force : Bool) (s : State) : State :=
  if isMaster s && s.trl.ended && !s.trl.enumerated && (force || !s.plk.dn.isOpen || decide (16 ≤ s.trl.align.dnCount)) then
    let own : PartInfo := { partOf s 0 with present := true, cap := capOf s, dnState := s.plk.dn.state }
    let s := { s with trl := { s.trl with parts := Tab.put s.trl.parts 0 own } }
    let g := modeGrants s
    let t0 := startT0 s
    let s := useFree s
    let s := if (s.trl.parts.filter fun e => e.2.present).length < rdf s Fld.TRL_CFG_n_expect then chainShort s else s
    startTaken t0 g (raise 284 (sendMsg .dn (.start t0 g) (noteGrants g s)))
  else s

/-- The frame of this part that starts first at or after `t`, by its period (R380): the join offset
(DESIGN CHOICE, log entry 31). -/
def frameAt (s : State) (t : Tick) : Nat :=
  if hasLidar s then
    let f := s.esq.frame
    let p := f.period / (if f.half then 2 else 1)
    if p = 0 then s.esq.ctx.frame else s.esq.ctx.frame + ((t - f.start) * 65536 + p - 1) / p
  else
    let p := sweepTicks s
    if p = 0 then s.fib.ctx.frame else s.fib.ctx.frame + (t - s.fib.start + p - 1) / p

/-- The master completes a join (R380): JOIN with the offset and START with a fresh T0 (DESIGN CHOICE, log entry 31). -/
def finishJoin (s : State) : State :=
  match s.trl.joining with
  | some a =>
    if isMaster s && s.trl.enumerated && (decide (a ≠ 1) || decide (16 ≤ s.trl.align.dnCount)) then
      let t0 := startT0 s
      let s := useFree s
      let off := frameAt s t0
      let p : PartInfo := { partOf s a with present := true, joined := true, join := off }
      let s := { s with trl := { s.trl with parts := Tab.put s.trl.parts a p, joining := none } }
      let g := (List.range 16).map fun b =>
        let q := partOf s b
        BitVec.ofNat 8 (b2n q.present + 2 * b2n q.deepen + 4 * b2n q.shared)
      startTaken t0 g (raise 293 (sendMsg .dn (.start t0 g) (sendMsg .dn (.join a (off % 2 ^ 24)) s)))
    else s
  | none => s

/-- The master drops the parts beyond `a` (R378): they leave the release condition (DEDUCED, log entry 32). -/
def dropBeyond (a : Nat) (s : State) : State :=
  let gone := s.trl.parts.any fun e => e.2.present && decide (a < e.1)
  let s := { s with trl := { s.trl with parts := s.trl.parts.map fun e =>
      (e.1, if a < e.1 then { e.2 with present := false } else e.2) } }
  let s := if gone && s.trl.enumerated then chainShort s else s
  (fwdStreams s).foldl (fun s p => tryRelease p.1 p.2 s) s

/-- Parts leave the chain as this part sees it: an owner without a partner processes every tone again (R373)
(DEDUCED, log entry 32). -/
def partnersGone (gone : Nat → Bool) (s : State) : State :=
  if fibreOwner s && (partnersOf s s.trl.addr).any gone then
    modeRefused { s with trl := { s.trl with shared := false } }
  else s

/-! ### Ports that settle and ports that fail (R355, R365, R367) -/

/-- This part's report to the master (R363). -/
def reportCap (s : State) : State := toMaster (.capReport s.trl.addr s.plk.dn.state s.trl.cap) s

/-- ENUM on the DN port (R365 steps 4 and 8); a closed port carries none. -/
def sendEnum (s : State) : State := sendAwait .dn (.enum s.trl.addr s.trl.nonce s.trl.cap s.trl.sig) s

/-- A fresh nonce from SEC (R365 step 3): 32 free bytes (DESIGN CHOICE, log entry 51). -/
def freshNonce (s : State) : State :=
  useFree { s with trl := { s.trl with nonce := leBytes 32 (freeVal s), cap := capOf s } }

/-- The master's enumeration ends; it starts when its hop allows. -/
def endEnum (force : Bool) (s : State) : State := finishEnum force { s with trl := { s.trl with ended := true } }

/-- The ports enabled at step 9 have settled (R365): a part without a cascade record ends step 9, the master signs its
attestation or ends enumeration without a DN port, every other part awaits its ENUM (or, accepted already, goes on with its
DN port). -/
def linkSettled (s : State) : State :=
  let waits (p : Port) : Bool := decide ((portOf s p).state = 1)
  if s.boot.step ≠ 9 || waits .up || waits .dn then s
  else if (cascRec s).isNone then step9End { s with trl := { s.trl with standalone := true } }
  else if isMaster s then
    let s := freshNonce s
    if s.plk.dn.state = 2 then { s with trl := { s.trl with signing := some .own } } else endEnum false s
  else if s.trl.accepted then
    let s := reportCap s
    if s.plk.dn.state = 2 then sendEnum s else s
  else s

/-- Step 9 begins (R365 step 1): every part enables both ports, the master only DN (DEDUCED, log entry 20). -/
def linkBegin (s : State) : State :=
  let s := setPort .dn { s.plk.dn with state := 1, enabled := now s } s
  linkSettled (if isMaster s then s else setPort .up { s.plk.up with state := 1, enabled := now s } s)

/-- A port becomes hostile (R367) (DEDUCED, log entry 30). -/
def hostile (p : Port) (reason : Nat) (s : State) : State :=
  let s := match p with | .dn => sendMsg .dn (.reject reason) s | .up => s
  let s := setPort p { portOf s p with state := 4, closed := true, isOpen := false, vc0 := none } s
  stick Reg.TRL_STICKY 0 (bump Reg.TRL_ATTEST_FAIL 1 (fault 285 Src.trl 0 .corrected 0 s))

/-! ### Enumeration and attestation messages -/

/-- ENUM (R365, R367): a part without a cascade record or with the MASTER strap refuses it; a hostile or closed port drops
it; else the sender's attestation goes to verification. -/
def onEnum (sender : BitVec 4) (nonce : List Byte) (att : Attestation) (s : State) : State :=
  let s := received .up 0 79889 s
  if s.plk.up.state = 4 then s
  else if (cascRec s).isNone then sendMsg .up (.reject 5) s
  else if isMaster s then sendMsg .up (.reject 4) s
  else if s.plk.up.state ≠ 2 || s.plk.up.closed then s
  else { s with trl := { s.trl with verUp := some ⟨sender.toNat, nonce, att⟩, nonce := nonce } }

/-- ATTEST (R365 step 6): the answer to the ENUM goes to verification; on a hostile or closed port it is dropped. -/
def onAttest (att : Attestation) (s : State) : State :=
  let s := received .dn 0 79856 s
  if s.plk.dn.state ≠ 2 || s.plk.dn.closed then s
  else { s with plk := { s.plk with dn := { s.plk.dn with vc0 := none } },
                trl := { s.trl with verDn := some ⟨s.trl.addr + 1, s.trl.nonce, att⟩ } }

/-- The part's DN hop opens (R365 step 7): ACCEPT with the next address, and the alignment begins. -/
def acceptDn (cap : List Byte) (s : State) : State :=
  sendMsg .dn (.accept (s.trl.addr + 1)) { s with
    plk := { s.plk with dn := { s.plk.dn with isOpen := true } },
    trl := { s.trl with capDn := cap, align := { s.trl.align with dnCount := 0, dnIndex := 0, dnPairs := [] } } }

/-- SEC's verdict on an attestation (R365 steps 5 to 7, R366). -/
def onAttestVerifyDone (port : Port) (t : Tick) (s : State) : State :=
  let s := advance t s
  match port with
  | .up =>
    match s.trl.verUp with
    | none => s
    | some v =>
      let s := { s with trl := { s.trl with verUp := none } }
      match attFails s v.nonce v.sender v.att with
      | some r => hostile .up r s
      | none =>
        { s with trl := { s.trl with capUp := v.att.cap, cap := capOf s, signing := some (.attest (v.sender + 1)) } }
  | .dn =>
    match s.trl.verDn with
    | none => s
    | some v =>
      let s := { s with trl := { s.trl with verDn := none } }
      match attFails s v.nonce v.sender v.att with
      | some r =>
        let s := hostile .dn r s
        if isMaster s then endEnum false s else reportCap s
      | none => acceptDn v.att.cap s

/-- SEC has signed (R365 steps 3 and 6, R379). -/
def onSignDone (sig : List Byte) (t : Tick) (s : State) : State :=
  let s := advance t s
  let s' := { s with trl := { s.trl with signing := none, sig := sig } }
  match s.trl.signing with
  | none => s
  | some .own => sendEnum s'
  | some .again => sendEnum s'
  | some (.attest _) => sendAwait .up (.attest s.trl.cap sig) { s' with trl := { s'.trl with asked := true } }

/-- ACCEPT (R365 steps 7 and 8): the address is taken, CAP_REPORT goes to the master, and ENUM goes down the chain. -/
def onAccept (addr : BitVec 4) (s : State) : State :=
  let s := received .up 0 1 s
  if !s.trl.asked || s.plk.up.state ≠ 2 || s.plk.up.closed then s
  else
    let a := addr.toNat
    let s := { s with
      plk := { s.plk with up := { s.plk.up with isOpen := true, vc0 := none },
                          dn := { s.plk.dn with state := if a = 15 && s.plk.dn.state = 2 then 7 else s.plk.dn.state } },
      trl := { s.trl with addr := a, accepted := true, asked := false, upLost := false,
                          align := { s.trl.align with thetas := [], pairs := [], index := 0, first := false, whole := false,
                                                      pend := 0 } } }
    let s := reportCap s
    if s.plk.dn.state = 2 then sendEnum s else s

/-- REJECT (R363, R365, R367): from the partner above, this part is not accepted; from below, the DN port stays closed
(DEDUCED, log entry 30). -/
def onReject (port : Port) (_reason : Byte) (s : State) : State :=
  let s := received port 0 1 s
  match port with
  | .up => { s with plk := { s.plk with up := { s.plk.up with vc0 := none } }, trl := { s.trl with asked := false } }
  | .dn => { s with plk := { s.plk with dn := { s.plk.dn with vc0 := none, closed := true } } }

/-- Whether a DN state ends the chain (R365 step 10). -/
def dnFinal (st : Nat) : Bool := decide (3 ≤ st)

/-- The master draws a nonce for the part that enumerates its DN port and broadcasts REENUM (R379, R380)
(DESIGN CHOICE, log entry 51). -/
def reenumerate (a : Nat) (s : State) : State :=
  let s := useFree { s with trl := { s.trl with nonce := leBytes 32 (freeVal s) } }
  if a = 0 then { s with trl := { s.trl with cap := capOf s, signing := some .own } }
  else sendMsg .dn (.reenum a s.trl.nonce) s

/-- CAP_REPORT at the master (R365 steps 8 to 10, R378 to R380). -/
def masterReport (a dnState : Nat) (cap : List Byte) (s : State) : State :=
  let old := partOf s a
  let back := old.cap ≠ [] && capUid old.cap = capUid cap
  let known := old.present
  let newPart : PartInfo := { old with cap := cap, dnState := dnState, present := old.present || back || !s.trl.enumerated }
  let s := { s with trl := { s.trl with parts := Tab.put s.trl.parts a newPart } }
  let s := if s.trl.enumerated then (if (dnState = 4 || dnState = 5) then dropBeyond a s else s)
           else if dnFinal dnState then endEnum false s else s
  if !s.trl.enumerated then s
  else if !known && !back then finishJoin { s with trl := { s.trl with joining := some a } }
  else if old.dnState ≠ 2 && dnState = 2 then reenumerate a s
  else s

/-- CAP_REPORT (R363): every part passes it up; the parts beyond a hostile or lost port have left the chain. -/
def onCapReport (addr : BitVec 4) (dnState : Byte) (cap : List Byte) (t : Tick) (s : State) : State :=
  let s := received .dn 1 66 (advance t s)
  if s.plk.dn.closed || !s.plk.dn.isOpen then s
  else
    let s := if s.trl.enumerated && (dnState = 4 || dnState = 5) then partnersGone (fun a => decide (addr.toNat < a)) s else s
    if isMaster s then masterReport addr.toNat dnState.toNat cap s
    else toMaster (.capReport addr.toNat dnState.toNat cap) s

/-- t_ENUM has passed (R365, R367): the master starts with the parts it knows, and a part not accepted runs standalone. -/
def onEnumTimeout (t : Tick) (s : State) : State :=
  let s := advance t s
  if s.boot.step ≠ 9 || (cascRec s).isNone then s
  else if isMaster s then endEnum true s
  else if s.trl.accepted then s
  else
    step9End (fault 287 Src.trl 0 .corrected 0 { s with
      plk := { s.plk with dn := { s.plk.dn with closed := true } },
      trl := { s.trl with standalone := true, addr := 0 } })

/-- REENUM (R379, R380): passed on; the part it names signs again for its DN port. -/
def onReenum (addr : BitVec 4) (nonce : List Byte) (s : State) : State :=
  let s := received .up 1 33 s
  if isMaster s || s.plk.up.closed || !s.plk.up.isOpen then s
  else
    let s := sendMsg .dn (.reenum addr.toNat nonce) s
    if addr.toNat = s.trl.addr then
      { s with trl := { s.trl with nonce := nonce, cap := capOf s, signing := some .again } }
    else s

/-! ### Alignment (R368, R369) -/

/-- θ of one exchange in 1/16 tick (R368): `da`, `aa` of the upstream part, `db`, `ab` of this part. -/
def thetaOf (s : State) (da aa db ab : Tick) : Rat :=
  let q : Int := ((ab : Int) - da) - ((aa : Int) - db)
  let fixed := (capDelay s.trl.capUp 2 + capDelay (capOf s) 1) - (capDelay (capOf s) 0 + capDelay s.trl.capUp 3)
  ((16 * q - fixed - sval 8 (rdf s Fld.PLK_CABLE_UP_asym) : Int) : Rat) / 2

/-- The one-way comma latency and the cable delay of a hop in ticks (R369). -/
def hopOf (up dn : List Byte) (da aa db ab : Tick) : Rat × Rat :=
  let l : Rat := (((ab : Int) - da + ((aa : Int) - db) : Int) : Rat) / 2
  let f : Rat := ((capDelay up 2 + capDelay dn 1 + capDelay dn 0 + capDelay up 3 : Int) : Rat) / 32
  (l, l - f)

/-- A lane of the UP port is fenced for EVT 290 (R369). -/
def refMismatch (s : State) : State :=
  (portLanes .up).foldl (fun s l => post Src.trl l .contained 290 0 s) (raise 290 s)

/-- The drift of the uncorrected offset over the last 10 s or more exceeds 0.1 ppm: 64 ticks, 1,024 sixteenths, per second
and ppm 10^-6 (R369). -/
def drifts (h : List (Tick × Int)) (t : Tick) (u : Int) : Bool :=
  h.any fun e => decide (e.1 + 640000000000 ≤ t) && decide (16 * ((t - e.1 : Nat) : Int) < (u - e.2).natAbs * (10000000 : Int))

/-- Sixteen measurements make an average (R368, R369) (DESIGN CHOICE, log entry 13). -/
def alignAverage (s : State) : State :=
  let a := s.trl.align
  let q : Rat := a.thetas.foldl (· + ·) 0 / 16
  let r := quantOf s q
  let s := quantUsed q s
  let step := a.first && decide ((16 * rdf s Fld.TRL_CFG_align_max : Nat) < r.natAbs)
  let u := r + a.applied
  let s := { s with trl := { s.trl with align := { a with
      thetas := [], resid := r, pend := r, whole := !a.first || step,
      hist := (a.hist.filter fun e => decide (now s ≤ e.1 + 704000000000)) ++ [(now s, u)] } } }
  let s := if step then stick Reg.TRL_STICKY 2 (fault 289 Src.trl 0 .corrected 0 s) else s
  if drifts a.hist (now s) u then refMismatch s else s

/-- The lengths of an optical cable's lanes follow the hop's cable delay (R381). -/
def opticalLengths (p : Port) (s : State) : State :=
  (portLanes p).foldl (fun s l =>
    if (laneSt s l).trained && decide ((cableWord s l).1 = 1) then updateLength l (laneSt s l).il s else s) s

/-- ALIGN (R368): the exchange of measurement `index`. On UP this part is B and averages θ; on DN it is A, which learns the
cable delay (DESIGN CHOICE, log entry 13). -/
def onAlign (port : Port) (index : Nat) (depart arrive : Tick) (t : Tick) (s : State) : State :=
  let s := received port 1 20 (advance t s)
  let a := s.trl.align
  match port with
  | .up =>
    match Tab.look a.pairs index with
    | none => s
    | some (db, ab) =>
      let h := hopOf s.trl.capUp (capOf s) depart arrive db ab
      let th := thetaOf s depart arrive db ab
      let hop := quantOf s h.1
      let s := quantUsed h.1 s
      let cab := quantOf s h.2
      let s := quantUsed h.2 s
      let s := { s with trl := { s.trl with align := { a with
          pairs := Tab.del a.pairs index, thetas := a.thetas ++ [th], hop := hop.toNat, cable := cab.toNat } } }
      let s := opticalLengths .up s
      if 16 ≤ s.trl.align.thetas.length then alignAverage s else s
  | .dn =>
    match Tab.look a.dnPairs index with
    | none => s
    | some (da, aa) =>
      let h := hopOf (capOf s) s.trl.capDn da aa depart arrive
      let cab := quantOf s h.2
      let s := quantUsed h.2 s
      let s := { s with trl := { s.trl with align := { a with
          dnPairs := Tab.del a.dnPairs index, dnCable := cab.toNat, dnCount := a.dnCount + 1 } } }
      finishJoin (finishEnum false (opticalLengths .dn s))

/-! ### START and JOIN -/

/-- START (R365, R370): passed on and taken; a hostile port drops it (R367). -/
def onStart (t0 : Tick) (grants : List Byte) (t : Tick) (s : State) : State :=
  let s := received .up 1 24 (advance t s)
  if isMaster s || s.plk.up.closed || !s.plk.up.isOpen || !s.trl.accepted then s
  else startTaken t0 grants (sendMsg .dn (.start t0 grants) s)

/-- JOIN (R380): passed on; the part it names takes its join offset. -/
def onJoin (addr : BitVec 4) (offset : BitVec 24) (s : State) : State :=
  let s := received .up 1 4 s
  if isMaster s || s.plk.up.closed || !s.plk.up.isOpen then s
  else
    let s := sendMsg .dn (.join addr.toNat offset.toNat) s
    if addr.toNat = s.trl.addr then raise 293 { s with trl := { s.trl with joinOff := offset.toNat } } else s

/-! ### Forwarding and merging (R375, R378) -/

/-- A FRAME_CLOSE passes up or, at the master, closes the frame of its part. -/
def onFrameClose (addr : BitVec 4) (src stream : BitVec 6) (frame : BitVec 24) (s : State) : State :=
  let s := received .dn 1 5 s
  if s.plk.dn.closed || !s.plk.dn.isOpen then s
  else if isMaster s then
    let j := (partOf s addr.toNat).join
    let c := (domCtx s (srcDom s src.toNat)).frame
    let f := liftNear c ((frame.toNat + j) % 2 ^ 24)
    mergeClose src.toNat stream.toNat addr.toNat (f + 1) s
  else toMaster (.frameClose addr.toNat src.toNat stream.toNat frame.toNat) s

/-- merge_wait has passed since the master's own close of a frame (R375): it is released. -/
def onMergeWaitExpire (src stream : BitVec 6) (frame : BitVec 24) (s : State) : State :=
  let f := liftNear (domCtx s (srcDom s src.toNat)).frame frame.toNat
  let due := 64000 * rdf s Fld.TRL_MERGE_CFG_merge_wait
  if isMaster s && (mergeOf s (skey src.toNat stream.toNat)).ownAt.any fun e => decide (f < e.1) && decide (e.2 + due ≤ now s) then
    releaseTo src.toNat stream.toNat (f + 1) s
  else s

/-- The stream of a forwarded item. The tag of a control item does not name it: the copies of one control item arrive in the
order of their streams (R32, R375) (DEDUCED, log entry 62). -/
def fwdStreamOf (s : State) (ws : List Word64) : Nat :=
  let tag := ws.headD 0
  let l := fwdOf s (tagSrc tag)
  if tagStream tag ≠ 0x3F then tagStream tag
  else if s.trl.ctlLast.1 = ws then (l.find? fun k => decide (s.trl.ctlLast.2 < k)).getD (l.headD 0x3F)
  else l.headD 0x3F

/-- A forwarded item that arrived on DN (R362, R375): with poison or lost_before where the link damaged or lost words; the
master merges it, every other part passes it up, and the credits of its data blocks go back. -/
def onForwardedItem (item : Item) (t : Tick) (s : State) : State :=
  let s := advance t s
  if s.plk.dn.closed || !s.plk.dn.isOpen || !s.trl.enumerated then s
  else
    let poisoned := s.plk.dn.hit.contains 3
    let tag := tagOr item.tag (4 * b2n poisoned + 8 * b2n s.plk.dn.lostNext)
    let s := setPort .dn { s.plk.dn with hit := s.plk.dn.hit.filter (fun v => decide (v ≠ 3)), lostNext := false } s
    let ws := poisonTag (tag :: item.words)
    let blocks := sumN (packetBlocks 4096 ws.length)
    if isMaster s then
      let u := tagUnit tag
      let d := srcDom s (tagSrc tag)
      let f := liftNear (domCtx s d).frame ((tagFrame tag + (partOf s u).join) % 2 ^ 24)
      let k := fwdStreamOf s ws
      sendBlock .dn (.credit 0 0 blocks) (mergeAdd (tagSrc tag) k u f ws { s with trl := { s.trl with ctlLast := (ws, k) } })
    else if s.trl.upLost then pushBP 9 1 (packWords 0 ws) s
    else sendBlock .dn (.credit 0 0 blocks) (sendUp ws s)

/-! ### The TRL registers (R385) -/

/-- What a read-only TRL register reads (DEDUCED, log entry 30). -/
def trlView (s : State) (off : Nat) : Option Nat :=
  let p := partOf s (rdf s Fld.TRL_PART_SEL_addr)
  let m (v : Nat) : Option Nat := some (if isMaster s then v else 0)
  if off = Reg.TRL_STATUS then
    some (s.trl.addr + 16 * b2n (isMaster s) + 32 * b2n s.trl.enumerated
      + 64 * b2n (isMaster s || s.trl.align.first) + 128 * (if s.trl.enumerated then s.trl.nParts else 0)
      + 2 ^ 12 * b2n s.trl.deepen + 2 ^ 13 * b2n s.trl.shared + 2 ^ 14 * b2n s.trl.standalone + 2 ^ 15 * b2n s.trl.upLost)
  else if off = Reg.TRL_TRIM then some s.trl.align.trim
  else if off = Reg.TRL_RESIDUAL then some (uval 32 s.trl.align.resid)
  else if off = Reg.TRL_HOP_DELAY then some (s.trl.align.hop % 2 ^ 16 + 2 ^ 16 * (s.trl.align.cable % 2 ^ 16))
  else if off = Reg.TRL_PART_UID_LO then m (leAt p.cap 0 4)
  else if off = Reg.TRL_PART_UID_HI then m (leAt p.cap 4 4)
  else if off = Reg.TRL_PART_STAT then
    m (b2n p.present + 2 * b2n p.joined + 4 * b2n p.deepen + 8 * b2n p.shared + 16 * p.dnState)
  else if off = Reg.TRL_PART_JOIN then m (p.join % 2 ^ 24)
  else if off = Reg.TRL_PART_CAP then m (leAt p.cap 8 4)
  else none

/-! ### Meanings -/

/-- The meaning of this command: the step of `onEnum` (R365). -/
def execEnum (sender : BitVec 4) (nonce : List Byte) (att : Attestation) (s : State) : Host.Outcome State Fault Refusal :=
  .next (onEnum sender nonce att s)

/-- The meaning of this command: the step of `onAttest` (R366). -/
def execAttest (att : Attestation) (s : State) : Host.Outcome State Fault Refusal :=
  .next (onAttest att s)

/-- The meaning of this command: the step of `onAttestVerifyDone` (R366). -/
def execAttestVerifyDone (port : Port) (t : Tick) (s : State) : Host.Outcome State Fault Refusal :=
  .next (onAttestVerifyDone port t s)

/-- The meaning of this command: the step of `onSignDone` (R365). -/
def execSignDone (sig : List Byte) (t : Tick) (s : State) : Host.Outcome State Fault Refusal :=
  .next (onSignDone sig t s)

/-- The meaning of this command: the step of `onAccept` (R365). -/
def execAccept (addr : BitVec 4) (s : State) : Host.Outcome State Fault Refusal :=
  .next (onAccept addr s)

/-- The meaning of this command: the step of `onReject` (R365). -/
def execReject (port : Port) (reason : Byte) (s : State) : Host.Outcome State Fault Refusal :=
  .next (onReject port reason s)

/-- The meaning of this command: the step of `onCapReport` (R365). -/
def execCapReport (addr : BitVec 4) (dnState : Byte) (cap : List Byte) (t : Tick) (s : State) : Host.Outcome State Fault Refusal :=
  .next (onCapReport addr dnState cap t s)

/-- The meaning of this command: the step of `onEnumTimeout` (R365). -/
def execEnumTimeout (t : Tick) (s : State) : Host.Outcome State Fault Refusal :=
  .next (onEnumTimeout t s)

/-- The meaning of this command: the step of `onReenum` (R379). -/
def execReenum (addr : BitVec 4) (nonce : List Byte) (s : State) : Host.Outcome State Fault Refusal :=
  .next (onReenum addr nonce s)

/-- The meaning of this command: the step of `onAlign` (R368). -/
def execAlign (port : Port) (index : Nat) (depart : Tick) (arrive : Tick) (t : Tick) (s : State) : Host.Outcome State Fault Refusal :=
  .next (onAlign port index depart arrive t s)

/-- The meaning of this command: the step of `onStart` (R370). -/
def execStart (t0 : Tick) (grants : List Byte) (t : Tick) (s : State) : Host.Outcome State Fault Refusal :=
  .next (onStart t0 grants t s)

/-- The meaning of this command: the step of `onJoin` (R380). -/
def execJoin (addr : BitVec 4) (offset : BitVec 24) (s : State) : Host.Outcome State Fault Refusal :=
  .next (onJoin addr offset s)

/-- The meaning of this command: the step of `onFrameClose` (R375). -/
def execFrameClose (addr : BitVec 4) (src : BitVec 6) (stream : BitVec 6) (frame : BitVec 24) (s : State) : Host.Outcome State Fault Refusal :=
  .next (onFrameClose addr src stream frame s)

/-- The meaning of this command: the step of `onMergeWaitExpire` (R375). -/
def execMergeWaitExpire (src : BitVec 6) (stream : BitVec 6) (frame : BitVec 24) (s : State) : Host.Outcome State Fault Refusal :=
  .next (onMergeWaitExpire src stream frame s)

/-- The meaning of this command: the step of `onForwardedItem` (R375). -/
def execForwardedItem (item : Item) (t : Tick) (s : State) : Host.Outcome State Fault Refusal :=
  .next (onForwardedItem item t s)

end Sys2Proof.Machine
end

