-- ==== Sys2Proof/Machine/Plk.lean ====
section
/-! DEFINITION. The Plonil link (chapter 12): ports and lanes (R353 to R358), link blocks (R360), credit (R361), errors (R362),
commas (R368), cable length (R381), and the PLK registers (R384). -/

namespace Sys2Proof.Machine

/-! ### Ports up, lost and grafted -/

/-- A port came up (R365, R379, R380): in step 9 start-up goes on; later a DN port meets a part that returns (`graft`) or a
new one, which is refused when joining is off or the addresses are used up (DEDUCED, log entry 28). -/
def hopUp (p : Port) (graft : Bool) (s : State) : State :=
  if s.boot.step = 9 then linkSettled s
  else
    match p with
    | .up => s
    | .dn =>
      if !inCascade s then s
      else if !graft && !rdb s Fld.TRL_CFG_graft_en then setPort .dn { s.plk.dn with closed := true } (sendMsg .dn (.reject 6) s)
      else if s.trl.addr = 15 then
        setPort .dn { s.plk.dn with closed := true, state := 7 } (sendMsg .dn (.reject 3) s)
      else if isMaster s then reenumerate 0 s
      else reportCap s

/-- A port is lost (R358, R378): every trained lane is fenced (DEDUCED, log entry 28). -/
def portLost (p : Port) (s : State) : State :=
  let x := portOf s p
  if x.state ≠ 2 && x.state ≠ 7 then s
  else
    let s := setPort p { x with state := 5, isOpen := false, tx := [], rising := none, cur := none, vc0 := none,
                                waiting := [], depart := none, arrive := none } s
    let s := stick Reg.PLK_STICKY 1 (fault 277 Src.plk ((portLanes p).headD 0) .contained 0 s)
    match p with
    | .up =>
      if s.trl.enumerated && !s.trl.upLost && !isMaster s then
        partnersGone (fun a => decide (a < s.trl.addr)) (raise 294 { s with trl := { s.trl with upLost := true } })
      else s
    | .dn =>
      let s := partnersGone (fun a => decide (s.trl.addr < a)) s
      if isMaster s then (if s.trl.enumerated then dropBeyond 0 s else endEnum false s) else reportCap s

/-- A lane is fenced (R358): out of rotation at the next switch, which follows at once (DEDUCED, log entry 28). -/
def laneFenced (l : Nat) (s : State) : State :=
  let p := portOfLane l
  let s := stick Reg.PLK_STICKY 0 (setLane l { laneSt s l with entering := false } s)
  let s := sendBlock p (.lane 5 (portOf s p).tx.length (ownMask s p)) s
  if (portLanes p).all fun k => !(laneSt s k).trained || isFenced s (Unit.lane k) then portLost p s else retarget p s

/-- A lane's graft self-test has passed (R358): it enters at the next switch; the first lane of a lost port brings the port
back, whose hop attests afresh (R379). -/
def laneGrafted (l : Nat) (s : State) : State :=
  let p := portOfLane l
  let s := setLane l { laneSt s l with trained := true, entering := true } s
  if (portOf s p).state = 5 then hopUp p true (portUp p (laneEnter l s)) else retarget p s

/-! ### Training (R353, R355, R380) -/

/-- LANE_TRAINED (R353, R355, R381) (DESIGN CHOICE, log entry 5; DEDUCED, log entries 28 and 32). -/
def onLaneTrained (lane : Fin 8) (rate : Fin 3) (miswired : Bool) (il : Nat) (t : Tick) (s : State) : State :=
  let s := advance t s
  let p := portOfLane lane
  let x := portOf s p
  if (x.state ≠ 1 && x.state ≠ 2) || isFenced s (Unit.lane lane) then s
  else if miswired then
    linkSettled (stick Reg.PLK_STICKY 4 (fault 280 Src.plk 0 .corrected 0 (setPort p { x with state := 6 } s)))
  else
    let s := updateLength lane il (setLane lane { laneSt s lane with trained := true, rate := rate } s)
    if x.state = 1 then
      if trainedCount s p = 4 then hopUp p false (portUp p s) else s
    else
      let s := equaliseRate p s
      retarget p (sendBlock p (.lane 1 (portOf s p).tx.length (ownMask s p)) s)

/-- 20 ms, 1 us and 10 ms in ticks. -/
abbrev trainTicks : Nat := 1280000000
abbrev wakeTicks : Nat := 64000
abbrev retryTicks : Nat := 640000000

/-- PORT_ABSENT_TIMEOUT (R355): 20 ms after the enable a port without a trained lane is absent, any other is up. -/
def onPortAbsentTimeout (port : Port) (t : Tick) (s : State) : State :=
  let s := advance t s
  let x := portOf s port
  if x.state ≠ 1 || decide (t < x.enabled + trainTicks) then s
  else if trainedCount s port = 0 then
    let s := raise 273 (setPort port { x with state := 3 } s)
    linkSettled s
  else hopUp port false (portUp port s)

/-- DN_RETRY_TIMER (R380): an absent DN port trains again, 1 s after its last enable. -/
def onDnRetryTimer (t : Tick) (s : State) : State :=
  let s := advance t s
  if s.plk.dn.state = 3 && decide (10 ≤ s.boot.step) && decide (s.boot.step ≠ 15)
      && decide (s.plk.dn.enabled + 64000000000 ≤ t) then
    setPort .dn { s.plk.dn with state := 1, enabled := t } s
  else s

/-- LANE_EXIT_TIMEOUT (R357, R358): a lane that has no comma lock 1 us after the partner's burst retrains; too many retrains in
10 s fence it. -/
def onLaneExitTimeout (lane : Fin 8) (t : Tick) (s : State) : State :=
  let s := advance t s
  let p := portOfLane lane
  let x := laneSt s lane
  let y := portOf s p
  if y.state ≠ 2 || !x.trained || !(y.wake.any fun e => decide (e.1 = lane.val) && decide (e.2 + wakeTicks ≤ t)) then s
  else
    let s := setPort p { y with wake := y.wake.filter fun e => !decide (e.1 = lane.val) } s
    let rs := (x.retrains.filter fun r => decide (t < r + 640000000000)) ++ [t]
    let s := raise 275 (setLane lane { x with trained := false, retrains := rs } s)
    let s := if rdf s Fld.PLK_FAULT_CFG_retrain_max < rs.length then fault 276 Src.plk lane .contained 0 s else s
    retarget p s

/-! ### Errors (R360, R362) -/

/-- VC2 packets are lost (R362). -/
def packetsLost (k : Nat) (s : State) : State :=
  stick Reg.PLK_STICKY 2 (bump Reg.PLK_LOST k (fault 279 Src.plk 0 .corrected 0 s))

/-- A packet is delivered poisoned or discarded as reserved (R360, R362, R363). -/
def poisoned (s : State) : State := stick Reg.PLK_STICKY 3 (bump Reg.PLK_POISONED 1 s)

/-- FEC_UNCORRECTABLE (R358, R362) (DESIGN CHOICE, log entry 29). -/
def onFecUncorrectable (lane : Fin 8) (t : Tick) (s : State) : State :=
  let s := advance t s
  let p := portOfLane lane
  let x := laneSt s lane
  if !x.trained then s
  else
    let us := (x.uncorr.filter fun u => decide (t < u + 64000000000)) ++ [t]
    let over_ := decide (rdf s Fld.PLK_FAULT_CFG_fec_thr < us.length) && !isFenced s (Unit.lane lane)
    let tell := x.evAt.all fun u => decide (u + 64000000000 ≤ t)
    let s := bump (Reg.PLK_FEC_UNCORR lane) 1
      (setLane lane { x with uncorr := if over_ then [] else us, evAt := if tell then some t else x.evAt } s)
    let s := if tell then fault 278 Src.plk lane .corrected 0 s else s
    let s := if over_ then fault 276 Src.plk lane .contained 0 s else s
    let y := portOf s p
    match y.cur with
    | none => s
    | some vc =>
      if vc = 2 then packetsLost 1 (setPort p { y with cur := none } s)
      else if vc = 0 then setPort p { y with cur := none } s
      else poisoned (setPort p { y with cur := none, hit := if y.hit.contains vc then y.hit else y.hit ++ [vc] } s)

/-- START_BLOCK (R360, R362): a packet begins; a gap in its VC's sequence shows a START that was lost
(DESIGN CHOICE, log entry 29). -/
def onStartBlock (port : Port) (vc : BitVec 2) (_dst : BitVec 4) (_bcast : Bool) (_src : BitVec 4) (words : Nat)
    (_itemEnd : Bool) (seq : BitVec 16) (t : Tick) (s : State) : State :=
  let s := advance t s
  let x := portOf s port
  let v := vc.toNat
  if x.state ≠ 2 || x.closed || words = 0 || 512 < words || (v ≠ 0 && !x.isOpen) then s
  else
    let gap := (seq.toNat + 65536 - x.rxSeq.getD v 0) % 65536
    let s := setPort port { x with
      rxSeq := x.rxSeq.set v ((seq.toNat + 1) % 65536), cur := some v,
      hit := x.hit.filter fun h => decide (h = 3 ∨ h ≠ v),
      lostNext := x.lostNext || (decide (v = 3) && decide (gap ≠ 0)) } s
    if v = 2 && gap ≠ 0 then packetsLost gap s else s

/-- RESERVED_LINK_BLOCK (R360): types 0x04 to 0xFF are discarded and counted. -/
def onReservedLinkBlock (_port : Port) (type : Byte) (s : State) : State := if 4 ≤ type.toNat then poisoned s else s

/-- The message types of R363. -/
def messageTypes : List Nat :=
  [0x10, 0x11, 0x12, 0x13, 0x14, 0x15, 0x20, 0x21, 0x22, 0x23, 0x24, 0x25, 0x26, 0x27, 0x28, 0x30, 0x31, 0x32, 0x33, 0x34]

/-- RESERVED_MESSAGE_TYPE (R363). -/
def onReservedMessageType (_port : Port) (type : Byte) (s : State) : State :=
  if messageTypes.contains type.toNat then s else poisoned s

/-- VC0_RETRY_TIMEOUT (R362): 10 ms after it was sent the message goes again, at most three times; then the hop counts as absent. -/
def onVc0RetryTimeout (port : Port) (t : Tick) (s : State) : State :=
  let s := advance t s
  let x := portOf s port
  match x.vc0 with
  | none => s
  | some (m, n) =>
    if t < x.vc0At + retryTicks then s
    else if n < 3 then sendMsg port m (setPort port { x with vc0 := some (m, n + 1), vc0At := t } s)
    else
      let s := setPort port { x with vc0 := none, state := 3, isOpen := false } s
      match port with
      | .up => s
      | .dn => if isMaster s then endEnum false s else reportCap s

/-! ### Link-management blocks (R357, R360, R361) -/

/-- CREDIT (R361, R384). -/
def onCredit (port : Port) (vc0 vc1 vc3 : BitVec 16) (s : State) : State :=
  let x := portOf s port
  let long := decide (vc3 ≠ 0) && x.waitFrom.any fun w => !w.2 && decide (w.1 + 6400000 < now s)
  let s := if long then bump Reg.PLK_CREDIT_WAIT 1 s else s
  let x := portOf s port
  pump port (setPort port { x with
    credit := [creditOf x 0 + vc0.toNat, creditOf x 1 + vc1.toNat, creditOf x 3 + vc3.toNat],
    waitFrom := if vc3 ≠ 0 then none else x.waitFrom } s)

/-- LANE_STATUS (R357, R360): the partner's usable lanes (DEDUCED, log entry 28). -/
def onLaneStatus (port : Port) (mask : BitVec 4) (s : State) : State :=
  retarget port (setPort port { portOf s port with peerMask := mask.toNat } s)

/-- LANE_FENCE_NOTICE (R358, R360). -/
def onLaneFenceNotice (port : Port) (mask : BitVec 4) (s : State) : State :=
  retarget port (setPort port { portOf s port with peerMask := mask.toNat } s)

/-- LANE_REQUEST (R357): the partner's count; where the hop's count lies above the lanes received, the lanes that come out of idle
are awaited and LANE ready answers. -/
def onLaneRequest (port : Port) (count : BitVec 3) (s : State) : State :=
  let x := portOf s port
  if x.state ≠ 2 then s
  else
    let s := setPort port { x with peerReq := count.toNat } s
    let n := hopCount s port
    let s := if x.rx < n then
        sendBlock port (.lane 4 n (ownMask s port)) (setPort port { portOf s port with
          wake := ((wantedLanes s port).drop x.rx).map fun l => (l, now s) } s)
      else s
    retarget port s

/-- LANE_READY (R357 step 2): the new lanes go into rotation. -/
def onLaneReady (port : Port) (s : State) : State :=
  if (portOf s port).state = 2 && (portOf s port).rising.isSome then switchLanes port s else s

/-- LANE_SWITCH (R357 step 3): the partner sends on `count` lanes from the next block on. -/
def onLaneSwitch (port : Port) (count : BitVec 3) (s : State) : State :=
  setPort port { portOf s port with rx := count.toNat } s

/-! ### Commas (R368) -/

/-- The marker channel of a port: SVC1 is channel 17, SVC2 channel 18 (R52). -/
def markerChan (p : Port) : Nat := match p with | .up => 17 | .dn => 18

/-- Stamp a comma on its port's marker channel, checking a line in overlap (R52, R68); none within the dead time of the channel's
last edge (R51). -/
def commaStamp (p : Port) (tap : Fin 97) (tap2 : Option (Fin 97)) (edge : Tick) (s : State) : Option Tick × State :=
  let c := markerChan p
  let st := stampOf s (512 + s.tsu.lineOf.getD c 0) edge tap
  if svcDead s c st then (none, s)
  else
    let s := svcMark c st s
    match s.tsu.overlap, tap2 with
    | some o, some t2 =>
      if o.chan = c then
        let st2 := stampOf s (512 + o.line) edge t2
        let o' : Overlap := { o with agree := o.agree && decide (st ≤ st2 + 2) && decide (st2 ≤ st + 2) }
        (some st, { s with tsu := { s.tsu with overlap := some o' } })
      else (some st, s)
    | _, _ => (some st, s)

/-- COMMA_DEPART (R368): a departure within 4 ns of the last arrival is discarded with it. -/
def onCommaDepart (port : Port) (tap : Fin 97) (tap2 : Option (Fin 97)) (edge : Tick) (s : State) : State :=
  let r := commaStamp port tap tap2 edge (advance edge s)
  let x := portOf r.2 port
  match r.1 with
  | none => r.2
  | some st =>
    if x.state ≠ 2 then r.2
    else if x.arrive.any fun a => decide (st < a + 256) then setPort port { x with arrive := none, depart := none } r.2
    else setPort port { x with depart := some st } r.2

/-- COMMA_ARRIVE (R368): an arrival within 4 ns of the departure is discarded with it; else the pair is exchanged over an
open hop. -/
def onCommaArrive (port : Port) (tap : Fin 97) (tap2 : Option (Fin 97)) (edge : Tick) (s : State) : State :=
  let r := commaStamp port tap tap2 edge (advance edge s)
  let s := r.2
  let x := portOf s port
  match (if x.state ≠ 2 then none else r.1) with
  | none => s
  | some st =>
    match x.depart with
    | none => setPort port { x with arrive := some st } s
    | some d =>
      if st < d + 256 then setPort port { x with depart := none, arrive := none } s
      else
        let s := setPort port { x with depart := none, arrive := some st } s
        if !carries s port then s
        else
          let a := s.trl.align
          match port with
          | .up =>
            sendMsg .up (.align a.index d st) { s with trl := { s.trl with align := { a with
              pairs := Tab.put a.pairs a.index (d, st), index := (a.index + 1) % 2 ^ 32 } } }
          | .dn =>
            sendMsg .dn (.align a.dnIndex d st) { s with trl := { s.trl with align := { a with
              dnPairs := Tab.put a.dnPairs a.dnIndex (d, st), dnIndex := (a.dnIndex + 1) % 2 ^ 32 } } }

/-- CABLE_LENGTH_UPDATE (R381). -/
def onCableLengthUpdate (lane : Fin 8) (il : Nat) (s : State) : State :=
  if (laneSt s lane).trained then updateLength lane il s else s

/-! ### The PLK registers (R384) -/

/-- The lane mask of a predicate. -/
def laneMask (p : Nat → Bool) : Nat := sumN ((List.range 8).map fun l => if p l then 2 ^ l else 0)

/-- Whether lane `l` is in rotation. -/
def laneActive (s : State) (l : Nat) : Bool := (portOf s (portOfLane l)).tx.contains l

/-- PLK_LANE_STAT of lane `l`. -/
def laneStat (s : State) (l : Nat) : Nat :=
  let x := laneSt s l
  let n := (x.retrains.filter fun r => decide (now s < r + 640000000000)).length
  (if x.trained then x.rate else 0) + 4 * b2n x.trained + 8 * b2n (laneActive s l)
    + 16 * b2n (x.trained && !laneActive s l) + 32 * b2n (isFenced s (Unit.lane l)) + 2 ^ 8 * min n 255
    + 2 ^ 16 * (if x.trained then x.il % 2 ^ 16 else 0)

/-- What a read-only PLK register reads (DESIGN CHOICE, log entry 29). -/
def plkView (s : State) (off : Nat) : Option Nat :=
  let up := s.plk.up
  let dn := s.plk.dn
  if off = Reg.PLK_STATUS then
    some (up.state + 16 * dn.state + 2 ^ 8 * portRate s .up + 2 ^ 10 * portRate s .dn
      + 2 ^ 12 * (if up.state = 2 then up.tx.length else 0) + 2 ^ 16 * (if dn.state = 2 then dn.tx.length else 0))
  else if off = Reg.PLK_LANE_MAP then
    some (laneMask (fun l => (laneSt s l).trained) + 2 ^ 8 * laneMask (laneActive s)
      + 2 ^ 16 * laneMask (fun l => isFenced s (Unit.lane l)))
  else
    match (List.range 8).find? fun l => decide (off = Reg.PLK_LANE_STAT l) with
    | some l => some (laneStat s l)
    | none =>
      ((List.range 8).find? fun l => decide (off = Reg.PLK_LENGTH l)).map fun l =>
        (laneSt s l).length + 2 ^ 16 * b2n (laneSt s l).lenOk

/-! ### Meanings -/

/-- The meaning of this command: the step of `onLaneTrained` (R355). -/
def execLaneTrained (lane : Fin 8) (rate : Fin 3) (miswired : Bool) (il : Nat) (t : Tick) (s : State) : Host.Outcome State Fault Refusal :=
  .next (onLaneTrained lane rate miswired il t s)

/-- The meaning of this command: the step of `onPortAbsentTimeout` (R355). -/
def execPortAbsentTimeout (port : Port) (t : Tick) (s : State) : Host.Outcome State Fault Refusal :=
  .next (onPortAbsentTimeout port t s)

/-- The meaning of this command: the step of `onDnRetryTimer` (R380). -/
def execDnRetryTimer (t : Tick) (s : State) : Host.Outcome State Fault Refusal :=
  .next (onDnRetryTimer t s)

/-- The meaning of this command: the step of `onLaneExitTimeout` (R357). -/
def execLaneExitTimeout (lane : Fin 8) (t : Tick) (s : State) : Host.Outcome State Fault Refusal :=
  .next (onLaneExitTimeout lane t s)

/-- The meaning of this command: the step of `onFecUncorrectable` (R362). -/
def execFecUncorrectable (lane : Fin 8) (t : Tick) (s : State) : Host.Outcome State Fault Refusal :=
  .next (onFecUncorrectable lane t s)

/-- The meaning of this command: the step of `onStartBlock` (R360). -/
def execStartBlock (port : Port) (vc : BitVec 2) (dst : BitVec 4) (bcast : Bool) (src : BitVec 4) (words : Nat) (itemEnd : Bool) (seq : BitVec 16) (t : Tick) (s : State) : Host.Outcome State Fault Refusal :=
  .next (onStartBlock port vc dst bcast src words itemEnd seq t s)

/-- The meaning of this command: the step of `onReservedLinkBlock` (R360). -/
def execReservedLinkBlock (port : Port) (type : Byte) (s : State) : Host.Outcome State Fault Refusal :=
  .next (onReservedLinkBlock port type s)

/-- The meaning of this command: the step of `onReservedMessageType` (R363). -/
def execReservedMessageType (port : Port) (type : Byte) (s : State) : Host.Outcome State Fault Refusal :=
  .next (onReservedMessageType port type s)

/-- The meaning of this command: the step of `onVc0RetryTimeout` (R362). -/
def execVc0RetryTimeout (port : Port) (t : Tick) (s : State) : Host.Outcome State Fault Refusal :=
  .next (onVc0RetryTimeout port t s)

/-- The meaning of this command: the step of `onCredit` (R361). -/
def execCredit (port : Port) (vc0 : BitVec 16) (vc1 : BitVec 16) (vc3 : BitVec 16) (s : State) : Host.Outcome State Fault Refusal :=
  .next (onCredit port vc0 vc1 vc3 s)

/-- The meaning of this command: the step of `onLaneStatus` (R360). -/
def execLaneStatus (port : Port) (mask : BitVec 4) (s : State) : Host.Outcome State Fault Refusal :=
  .next (onLaneStatus port mask s)

/-- The meaning of this command: the step of `onLaneFenceNotice` (R360). -/
def execLaneFenceNotice (port : Port) (mask : BitVec 4) (s : State) : Host.Outcome State Fault Refusal :=
  .next (onLaneFenceNotice port mask s)

/-- The meaning of this command: the step of `onLaneRequest` (R357). -/
def execLaneRequest (port : Port) (count : BitVec 3) (s : State) : Host.Outcome State Fault Refusal :=
  .next (onLaneRequest port count s)

/-- The meaning of this command: the step of `onLaneReady` (R357). -/
def execLaneReady (port : Port) (s : State) : Host.Outcome State Fault Refusal :=
  .next (onLaneReady port s)

/-- The meaning of this command: the step of `onLaneSwitch` (R357). -/
def execLaneSwitch (port : Port) (count : BitVec 3) (s : State) : Host.Outcome State Fault Refusal :=
  .next (onLaneSwitch port count s)

/-- The meaning of this command: the step of `onCommaDepart` (R368). -/
def execCommaDepart (port : Port) (tap : Fin 97) (tap2 : Option (Fin 97)) (edge : Tick) (s : State) : Host.Outcome State Fault Refusal :=
  .next (onCommaDepart port tap tap2 edge s)

/-- The meaning of this command: the step of `onCommaArrive` (R368). -/
def execCommaArrive (port : Port) (tap : Fin 97) (tap2 : Option (Fin 97)) (edge : Tick) (s : State) : Host.Outcome State Fault Refusal :=
  .next (onCommaArrive port tap tap2 edge s)

/-- The meaning of this command: the step of `onCableLengthUpdate` (R381). -/
def execCableLengthUpdate (lane : Fin 8) (il : Nat) (s : State) : Host.Outcome State Fault Refusal :=
  .next (onCableLengthUpdate lane il s)

end Sys2Proof.Machine
end

