-- ==== Sys2Proof/Machine/TineCode.lean ====
section
/-! DEFINITION. The encoding of the tine instructions (R252): which words are valid, and the command each one is. -/

namespace Sys2Proof.Machine

/-- The bits lo to hi. -/
def span (lo hi : Nat) : Nat := 2 ^ (hi + 1) - 2 ^ lo

/-- Whether a word uses only defined classes, operations, conditions and field values, names two accumulators where it needs two
and even registers for pairs (R252). The operations are numbered from 0 in the order of the table
(PRESUMED, log entry 18). -/
def tineWordOk (w : Nat) : Bool :=
  let op := bits w 48 8
  let even (lo : Nat) : Bool := decide (bits w lo 1 = 0)
  let pair := bitB w 35
  let rest (m : Nat) : Bool := only (2 ^ 48 * 0xFFFF + m) w
  let unary := decide (op = 5 ∨ op = 6 ∨ op = 7 ∨ op = 13)
  inR 0 4 (bits w 56 3) &&
  (match bits w 60 4 with
  | 0 => decide (op ≤ 14) && rest (span 34 47 + span 0 15)
      && (!pair || ((decide (op = 14) || even 44) && ((unary && bitB w 34) || even 40) && (unary || bitB w 34 || even 36)))
  | 1 => decide (op ≤ 2) && rest (span 26 47 + span 16 22 + span 8 14 + 3)
      && (!bitB w 26 || decide (bits w 46 2 ≠ bits w 44 2))
      && (!bitB w 0 || even 16) && (!bitB w 1 || even 8)
  | 2 => decide (op ≤ 5) && rest (span 40 47 + span 34 35 + span 24 29) && (!pair || even 40)
      && (decide (op ≠ 3) || decide (bits w 46 2 ≠ bits w 44 2))
  | 3 => decide (op ≤ 1) && rest (span 41 47 + span 36 39 + span 0 15) && decide (bits w 38 2 ≤ 1)
      && (decide (bits w 38 2 = 0) || even 44)
  | 4 => decide (op ≤ 6) && rest (span 39 47 + span 0 15)
  | 5 => decide (op ≤ 6) && rest (span 32 47 + span 0 15)
  | 6 => decide (op ≤ 4) && rest (span 40 47 + span 35 35)
      && (if op ≤ 1 then !pair || even 40 else if op = 2 then even 40 else even 44)
  | 7 => decide (op ≤ 1) && rest (span 39 47 + span 0 13) && (decide (op ≠ 0) || even 39)
  | 8 => decide (op ≤ 1) && rest (span 39 45 + span 0 12)
  | _ => false)

/-- Whether instruction word `w` at index `i` of a code of `n` instructions is valid (R252): its target lies inside the code, and
a repeat ends behind its start. -/
def instrOk (n i w : Nat) : Bool :=
  let op := bits w 48 8
  let target := bits w 36 12
  tineWordOk w && (decide (bits w 60 4 ≠ 5)
    || (if op ≤ 1 then decide (target < n) else if op = 3 || op = 4 then decide (target < n) && decide (i < target) else true))

/-- The condition of a word. -/
def tineCond (n : Nat) : Cond :=
  match n with
  | 0 => .always | 1 => .z | 2 => .nz | 3 => .n | _ => .nn

/-- The ALU operations in the order of the table. -/
def aluOps : List AluOp := [.add, .sub, .and, .or, .xor, .not, .neg, .abs, .min, .max, .shl, .shra, .shrl, .mov, .cmp]

/-- The command that word `w` of the program memory of tine `t` is (R252). -/
def decodeTine (t : Fin 16) (w : Nat) : Option Instr :=
  let op := bits w 48 8
  let hd : TineHd := ⟨t, bitB w 59, tineCond (bits w 56 3)⟩
  let d (lo : Nat) : Fin 16 := Fin.ofNat 16 (bits w lo 4)
  let a (lo : Nat) : Fin 8 := Fin.ofNat 8 (bits w lo 3)
  let k (lo : Nat) : Fin 4 := Fin.ofNat 4 (bits w lo 2)
  let imm : BitVec 16 := BitVec.ofNat 16 w
  let target : BitVec 12 := BitVec.ofNat 12 (bits w 36 12)
  let load (on ar pr : Nat) : Option ParLoad := if bitB w on then some ⟨a ar, Fin.ofNat 8 (bits w pr 4 / 2)⟩ else none
  if !tineWordOk w then none
  else match bits w 60 4 with
  | 0 => some (.tineAlu hd (aluOps.getD op .cmp) (d 44) (d 40) (d 36) (bitB w 35) (bitB w 34) imm)
  | 1 => some (.tineMac hd ([MacOp.mpy, .mac].getD op .msu) (k 46) (k 44) (d 40) (d 36) (d 32) (d 28) (bitB w 27) (bitB w 26)
      (load 0 20 16) (load 1 12 8))
  | 2 => some (.tineAcc hd ([AccOp.clr, .movd, .mova, .adda, .sha].getD op .rnd) (k 46) (k 44) (d 40) (bitB w 35) (bitB w 34)
      (BitVec.ofNat 6 (bits w 24 6)))
  | 3 => some (.tineLdst hd (decide (op = 1)) (decide (bits w 38 2 = 1)) (d 44) (a 41)
      ([UpdMode.none, .byM, .imm].getD (bits w 36 2) .bitrev) imm)
  | 4 => some (.tineAddr hd ([AddrOp.set, .set, .set, .set, .adda, .movda].getD op .movad) (a 45)
      ([AddrTgt.a, .b, .l].getD (if op < 4 then op else bits w 43 2) .m) (d 39) imm)
  | 5 => some (match op with
      | 0 => .tineBr hd target
      | 1 => .tineCall hd target
      | 2 => .tineRet hd
      | 3 => .tineRep hd none target imm
      | 4 => .tineRep hd (some (d 32)) target imm
      | 5 => .tineNop hd
      | _ => .tineEnd hd)
  | 6 => some (.tineSpec hd ([SpecOp.clz, .norm, .isqrt, .div].getD op .crc32c) (d 44) (d 40) (bitB w 35))
  | 7 => some (if op = 0 then
        .tineDmaStart hd (Fin.ofNat 2 (bits w 47 1)) (!bitB w 46) (a 43) (Fin.ofNat 8 (bits w 39 4 / 2)) (BitVec.ofNat 14 w)
      else .tineDmaWait hd (Fin.ofNat 2 (bits w 47 1)))
  | _ => some (.tineEmit hd (a 43) (if op = 0 then none else some (d 39)) (BitVec.ofNat 13 w))

/-- A word of a slot's code that the loader places from index `base` on: its branch target or repeat end moves along
(R259) (DEDUCED, log entry 62). -/
def relocate (base w : Nat) : Nat :=
  let op := bits w 48 8
  if bits w 60 4 = 5 && (decide (op ≤ 1) || decide (op = 3) || decide (op = 4)) then
    w - bits w 36 12 * 2 ^ 36 + (bits w 36 12 + base) % 4096 * 2 ^ 36
  else w

end Sys2Proof.Machine
end

