-- ==== Sys2Proof/Machine/Tin.lean ====
section
/-! DEFINITION. The jobs of the tine cluster (R258 to R267, R269): items, closing, dispatch, results. -/

namespace Sys2Proof.Machine

/-! ### Records (R258) -/

def slotRec (s : State) (k : Nat) : Option ImgRec := recWhere s 0x0C01 0 0 4 k

def slotOf (s : State) (k : Nat) : SlotJobs := Tab.lookD s.tin.slots k {}

def setSlot (k : Nat) (x : SlotJobs) (s : State) : State := { s with tin := { s.tin with slots := Tab.put s.tin.slots k x } }

def tineOf (s : State) (t : Nat) : TineSt := Tab.lookD s.tin.tines t {}

def setTine (t : Nat) (x : TineSt) (s : State) : State := { s with tin := { s.tin with tines := Tab.put s.tin.tines t x } }

/-- Input `i` of a slot: block and stream. -/
def slotSrc (r : ImgRec) (i : Nat) : Nat × Nat := (rf r (0x10 + 4 * i) 0 6, rf r (0x10 + 4 * i) 8 6)

def slotUnit (r : ImgRec) : Nat := rf r 0 6 2
def slotToClo (r : ImgRec) : Bool := decide (rf r 0 4 1 = 1)
def stateBytes (r : ImgRec) : Nat := rf r 4 0 15
def outMax (r : ImgRec) : Nat := rf r 4 16 13
def stepLimit (r : ImgRec) : Nat := leAt r.body 8 4
def progId (r : ImgRec) : Nat := rf r 0 16 16
def scratchBase (r : ImgRec) : Nat := leAt r.body 0x20 4
def scratchLen (r : ImgRec) : Nat := leAt r.body 0x24 4
def codeWords (r : ImgRec) : Nat := rf r 0x2C 0 13

/-- The initial state of a slot, behind its code. -/
def initialState (r : ImgRec) : List Byte := slice r.body (0x40 + 8 * codeWords r) (stateBytes r)

/-- Whether a slot's jobs are numbered in sweeps: its input 0 is a sweep-numbered stream (R266); `fuel` follows chained
slots, whose numbers fall. -/
def slotFibre (s : State) (fuel k : Nat) : Bool :=
  match fuel with
  | 0 => false
  | f + 1 =>
    match slotRec s k with
    | none => false
    | some r =>
      let p := slotSrc r 0
      decide (p.1 = Src.fib) || (decide (p.1 = Src.fdc) && hasFibre s)
        || (decide (p.1 = Src.tae) && hasFibre s && !hasLidar s) || (decide (p.1 = Src.tin) && slotFibre s f p.2)

/-! ### Program memory (R243, R257 to R259, R270) -/

/-- The code words of a slot's record. -/
def slotCode (r : ImgRec) : List Word64 := (List.range (codeWords r)).map fun i => BitVec.ofNat 64 (leAt r.body (0x40 + 8 * i) 8)

/-- The slots that may run on tine `t`, in slot order. -/
def tineSlots (s : State) (t : Nat) : List Nat := (List.range 16).filter fun k => (slotRec s k).any fun r => bitB (rf r 0x0C 0 16) t

/-- The index in the program memory of tine `t` at which the code of slot `k` begins (R259). -/
def codeStart (s : State) (t k : Nat) : Nat :=
  sumN (((tineSlots s t).filter fun j => decide (j < k)).map fun j => (Tab.lookD s.tin.code j []).length)

/-- What the loader places in the program memory of tine `t` (R259): the code of its slots in slot order, relocated. -/
def tineProgram (s : State) (t : Nat) : List Word64 :=
  (tineSlots s t).flatMap fun k => (Tab.lookD s.tin.code k []).map fun w => BitVec.ofNat 64 (relocate (codeStart s t k) w.toNat)

/-- Load or scrub the program memory of tine `t` from the copies in SRAM (R257, R270). -/
def tineReload (t : Nat) (s : State) : State := setTine t { tineOf s t with prog := tineProgram s t } s

/-- The loader: each slot's code is kept in SRAM and placed in the tines of its mask (R259). -/
def tinLoad (s : State) : State :=
  let code : Tab (List Word64) := (List.range 16).filterMap fun k => (slotRec s k).map fun r => (k, slotCode r)
  (List.range 16).foldl (fun s t => tineReload t s) { s with tin := { s.tin with code := code } }

/-! ### Items (R260) -/

/-- Both input buffers of a slot are in use: its intake back-pressures its sources (R260). -/
def slotBlocked (s : State) (k : Nat) : Bool := decide (2 ≤ ((slotOf s k).jobs.filter fun j => !decide (j.phase = .ended)).length)

/-- A slot takes a copy of an item of input `i.1`; an item of a closed job is late (R260). -/
def slotAdmit (k : Nat) (r : ImgRec) (i : Nat × Item) (s : State) : State :=
  let x := slotOf s k
  let f := tagFrame i.2.tag
  if slotUnit r ≠ 1 && precedes f x.nextF then
    stick Reg.TIN_STICKY 2 (bumpSat Reg.TIN_LATE 0 32 1 (fault 195 Src.tin 0 .corrected 0 (setSlot k { x with lost := true } s)))
  else
    let pace := if i.1 ≠ 0 then x.pace else match x.pace with
      | none => some f
      | some p => if precedes p f then some f else some p
    setSlot k { x with pace := pace, items := x.items ++ [i] } s

/-- With an input buffer free again the items that were held before the slot enter it. -/
def admitHeld (k : Nat) (s : State) : State :=
  match slotRec s k with
  | none => s
  | some r =>
    let x := slotOf s k
    if slotBlocked s k then s else x.held.foldl (fun s i => slotAdmit k r i s) (setSlot k { x with held := [] } s)

/-- TINE_ITEM_ARRIVE (R260): an item of one of a slot's inputs arrives; while both input buffers are in use it is held. -/
def onTineItemArrive (slot : Fin 16) (input : Fin 4) (item : Item) (s : State) : State :=
  match slotRec s slot with
  | none => s
  | some r =>
    let q := slotSrc r input
    let x := slotOf s slot
    if !(decide (input.val < rf r 0 8 3) && decide (tagSrc item.tag = q.1) && decide (tagStream item.tag = q.2)) then s
    else if slotBlocked s slot then setSlot slot { x with held := x.held ++ [(input.val, item)] } s
    else slotAdmit slot r (input.val, item) s

/-- Copies written to an input buffer of `cap` bytes from `used` on: the bytes, and whether one did not fit (R261). -/
def fillInput (cap used : Nat) (l : List Item) : List Byte × Bool :=
  match l with
  | [] => ([], false)
  | i :: r =>
    let b := leBytes 8 i.tag.toNat ++ bytesOf i.words
    if used + b.length ≤ cap then
      let p := fillInput cap (used + b.length) r
      (b ++ p.1, p.2)
    else ([], true)

/-- The input bytes of a job: per input its offset and length, and the overflow. -/
def jobInputs (cap n : Nat) (items : List (Nat × Item)) : List Byte × List (Nat × Nat) × Bool :=
  (List.range n).foldl (fun (a : List Byte × List (Nat × Nat) × Bool) i =>
    let mine := sortBy (fun x y => tagLt x.tag y.tag) ((items.filter fun e => decide (e.1 = i)).map (·.2))
    let p := if a.2.2 then ([], !mine.isEmpty) else fillInput cap a.1.length mine
    (a.1 ++ p.1, a.2.1 ++ [(a.1.length, p.1.length)], a.2.2 || p.2)) ([], [], false)

/-- Frame `f` of a slot as it began. -/
def jobFrame (s : State) (k f : Nat) : Option JobFrame :=
  (if slotFibre s 16 k then s.tin.beganF else s.tin.beganL).find? fun e => decide (e.frame = f % 2 ^ 24)

/-- The deferrable work of P5 is deferred by the grant at the boundary of frame `f` (R264). -/
def slotDeferred (s : State) (k f : Nat) : Bool := (jobFrame s k f).any (·.defer)

/-- A frame or sweep begins with grant `g` (R261, R264): twice the longest span is kept. -/
def tinBoundary (fibre : Bool) (f : Nat) (g : List Byte) (s : State) : State :=
  let c := if fibre then s.fib.ctx else s.esq.ctx
  let add (l : List JobFrame) : List JobFrame := (⟨f % 2 ^ 24, c.gen, c.digest, gDefer g 3⟩ :: l).take 131072
  if fibre then { s with tin := { s.tin with beganF := add s.tin.beganF } }
  else { s with tin := { s.tin with beganL := add s.tin.beganL } }

/-- The tag of a job's frame when input 0 delivered nothing (R261). -/
def bareTag (s : State) (k f : Nat) (r : ImgRec) : Word64 :=
  let e := (jobFrame s k f).getD ⟨0, 0, 0, false⟩
  mkTag s { frame := f, gen := e.gen, digest := e.digest } (slotSrc r 0).1 (slotSrc r 0).2 0

/-- Form the job of frames `first` to `first + n - 1` from `mine`, keeping `rest`. -/
def formJob (k : Nat) (r : ImgRec) (first n : Nat) (mine rest : List (Nat × Item)) (s : State) : State :=
  let x := slotOf s k
  let p := jobInputs (rf r 0x28 0 8 * mib) (rf r 0 8 3) mine
  let tag := ((sortBy (fun a b => tagLt a.tag b.tag) ((mine.filter fun e => decide (e.1 = 0)).map (·.2))).head?.map (·.tag)).getD
    (bareTag s k first r)
  let used := (x.jobs.filter fun j => !decide (j.phase = .ended)).map (·.buf)
  let buf := if used.contains 0 then 1 else 0
  let defer := decide (rf r 0 5 1 = 1) && slotDeferred s k first
  let j : Job := { first := first, frames := n, tag := tag, bytes := p.1, spans := p.2.1, buf := buf, isOver := p.2.2,
                   phase := if defer then .ended else .waiting, status := if defer then 8 else 0,
                   degr := mine.any fun i => bitB (tagFlags i.2.tag) 1 }
  setSlot k { x with items := rest, nextF := if slotUnit r = 1 then x.nextF else (first + n) % 2 ^ 24, jobs := x.jobs ++ [j],
                     planNext := x.planNext.filter fun p => precedes ((first + n) % 2 ^ 24) p } s

/-! ### Results (R262, R264, R265, R267) -/

/-- The header word of a result (R265) (DEDUCED, log entry 36). -/
def jobHeader (r : ImgRec) (j : Job) : Nat :=
  j.words.length + 2 ^ 16 * j.status + 2 ^ 22 * b2n (j.ovf && decide (j.status = 0)) + 2 ^ 23 * b2n j.isOver + 2 ^ 24 * b2n j.rerun
    + 2 ^ 32 * progId r + 2 ^ 48 * rf r 0x0C 16 8

/-- The counts and events of a result (R264, R265, R268). -/
def jobEvents (k : Nat) (r : ImgRec) (j : Job) (s : State) : State :=
  let s := bumpSat Reg.TIN_JOBS 0 32 1 s
  let s := if 1 ≤ j.status && decide (j.status ≤ 7) then
      let s := stick Reg.TIN_STICKY 0 (bump Reg.TIN_JOB_ERR 1 s)
      let s := if j.status = 1 then raise 193 s else s
      let x := slotOf s k
      if x.errFrame = some j.first then s
      else fault 192 Src.tin 0 .corrected 0 (setSlot k { x with errFrame := some j.first } s)
    else s
  let s := if j.status = 8 then
      let s := bump Reg.TIN_DEFERRED 1 s
      if s.tin.evDef.contains j.first then s
      else raise 196 { s with tin := { s.tin with evDef := (j.first :: s.tin.evDef).take 64 } }
    else s
  let s := if j.status = 0 && j.ovf then
      let s := stick Reg.TIN_STICKY 1 (bump Reg.TIN_OVF_JOBS 1 s)
      if s.tin.evOvf.contains j.first then s
      else raise 194 { s with tin := { s.tin with evOvf := (j.first :: s.tin.evOvf).take 64 } }
    else s
  if j.status ≠ 0 then s
  else if progId r = 1 && !j.words.isEmpty && !s.tin.evFind.contains j.first then
    raise 203 { s with tin := { s.tin with evFind := (j.first :: s.tin.evFind).take 64 } }
  else if progId r = 3 && decide ((j.words.getD 4 0).toNat ≠ 0) then raise 204 s
  else if progId r = 4 then raise 205 s
  else s

/-- A tine of the slot's mask is fenced. -/
def maskFenced (s : State) (r : ImgRec) : Bool := (List.range 16).any fun t => bitB (rf r 0x0C 0 16) t && isFenced s (Unit.tine t)

/-- The copy of a to_clo slot's result goes to the Cloche (R267): the header and, with status OK, its first 8 words. -/
def copyToClo (k : Nat) (r : ImgRec) (j : Job) (s : State) : State :=
  if slotToClo r then
    x12Post (.tine k) j.first (BitVec.ofNat 64 (jobHeader r j) :: (if j.status = 0 then j.words.take 8 else [])) s
  else s

/-- Release the result item of a job (R265): its flags are those of input 0's first item but lost_before, which follows R260, and
degraded, which holds while a tine of the slot's mask is fenced. -/
def releaseJob (k : Nat) (r : ImgRec) (j : Job) (s : State) : State :=
  let x := slotOf s k
  let fl := Nat.lor (Nat.land (tagFlags j.tag) 0xF5) (2 * b2n (j.degr || maskFenced s r) + 8 * b2n (x.lost || j.lost))
  let tag := mkTag s { frame := j.first, gen := tagGen j.tag, digest := tagDigest j.tag } Src.tin k fl
  let s := setSlot k { x with lost := false, last := some (j.first, j.status, j.ovf && decide (j.status = 0)) } s
  routeItem Src.tin k false tag (BitVec.ofNat 64 (jobHeader r j) :: j.words) (jobEvents k r j (copyToClo k r j s))

/-- Release the ended jobs at the front of a slot, in job order; `fuel` bounds them (R263). -/
def releaseEnded (fuel k : Nat) (s : State) : State :=
  match fuel with
  | 0 => s
  | f + 1 =>
    match slotRec s k, (slotOf s k).jobs with
    | some r, j :: rest =>
      if j.phase = .ended then releaseEnded f k (releaseJob k r j (setSlot k { slotOf s k with jobs := rest } s)) else s
    | _, _ => s

/-- Every tine of a slot's mask is fenced (R269) (DEDUCED, log entry 36). -/
def noTine (s : State) (r : ImgRec) : Bool :=
  (List.range 16).all fun t => !bitB (rf r 0x0C 0 16) t || isFenced s (Unit.tine t)

/-- The waiting jobs of a slot without a tine end with NO_TINE (R269) (DEDUCED, log entry 36). -/
def endNoTine (k : Nat) (s : State) : State :=
  match slotRec s k with
  | none => s
  | some r =>
    let x := slotOf s k
    let n := (x.jobs.filter fun j => decide (j.phase = .waiting)).length
    if noTine s r && decide (n ≠ 0) then
      let jobs := x.jobs.map fun j => if j.phase = .waiting then { j with phase := .ended, status := 9, words := [] } else j
      let low := ((List.range 16).find? fun t => bitB (rf r 0x0C 0 16) t).getD 0
      let s := (List.range n).foldl (fun s _ => fault 201 Src.tin low .contained 0 s) (setSlot k { x with jobs := jobs } s)
      admitHeld k (releaseEnded (jobs.length + 1) k (stick Reg.TIN_STICKY 3 s))
    else s

/-- TINE_JOB_CLOSE (R260): the next job of the slot closes when its frames are past and an input buffer is free
(DEDUCED, log entry 36). -/
def onTineJobClose (slot : Fin 16) (s : State) : State :=
  match slotRec s slot with
  | none => s
  | some r =>
    let x := slotOf s slot
    if slotBlocked s slot then s
    else if slotUnit r = 1 then
      match x.items with
      | [] => s
      | i :: rest => admitHeld slot (releaseEnded 16 slot (formJob slot r (tagFrame i.2.tag) 1 [i] rest s))
    else
      let n := if slotUnit r = 2 then
          x.planNext.foldl (fun n p =>
            let d := (p + (2 ^ 24 - x.nextF)) % 2 ^ 24
            if 0 < d && decide (d < n) then d else n) (max 1 (rf r 0x30 0 16))
        else 1
      let last := (x.nextF + n - 1) % 2 ^ 24
      if x.pace.any fun p => !precedes p ((last + rf r 0 12 4) % 2 ^ 24) then
        let mine := x.items.filter fun i => !precedes last (tagFrame i.2.tag)
        let rest := x.items.filter fun i => precedes last (tagFrame i.2.tag)
        admitHeld slot (releaseEnded 16 slot (formJob slot r x.nextF n mine rest s))
      else s

/-! ### Dispatch (R261 to R263) -/

/-- The jobs of a slot run one after the other (R262). -/
def serialSlot (r : ImgRec) : Bool := decide (stateBytes r ≠ 0) || decide (scratchLen r ≠ 0)

/-- The index of the first job of a slot that may start. -/
def readyJob (s : State) (k : Nat) (r : ImgRec) : Option Nat :=
  let js := (slotOf s k).jobs
  match js.findIdx? fun j => decide (j.phase = .waiting) with
  | none => none
  | some i =>
    if serialSlot r && (js.any fun j => match j.phase with | .running _ => true | _ => false) then none else some i

/-- The ready jobs that tine `t` may run, in the order of R263. -/
def readyFor (s : State) (t : Nat) : List (Nat × Nat) :=
  let l := (List.range 16).filterMap fun k =>
    match slotRec s k with
    | none => none
    | some r =>
      if bitB (rf r 0x0C 0 16) t then
        (readyJob s k r).map fun i =>
          let j := (slotOf s k).jobs[i]?
          (slotToClo r, (j.map (·.tag)).getD 0, k, i)
      else none
  (sortBy (fun (a b : Bool × Word64 × Nat × Nat) =>
    (a.1 && !b.1) || (decide (a.1 = b.1) && tagLt a.2.1 b.2.1)) l).map fun e => e.2.2

/-- The M-tier address of the input buffer of a job (R259). -/
def bufferBase (s : State) (k : Nat) (r : ImgRec) (j : Job) : Nat := slotBase s k + j.buf * rf r 0x28 0 8 * mib

/-- The data memory of a job before its first instruction (R261). -/
def jobMemory (s : State) (k : Nat) (r : ImgRec) (j : Job) (store : List Byte) : Memory :=
  let m : Memory := Memory.writeList [] 0 (leBytes 8 j.tag.toNat)
  let m := Memory.writeList m 8 (leBytes 8 (j.first % 2 ^ 24 + 2 ^ 24 * (j.frames % 65536) + 2 ^ 40 * k))
  let base := bufferBase s k r j
  let m := (List.range j.spans.length).foldl (fun m i =>
    let p := j.spans.getD i (0, 0)
    Memory.writeList (Memory.writeList m (0x10 + 16 * i) (leBytes 8 (base + p.1))) (0x18 + 16 * i) (leBytes 8 p.2)) m
  let m := Memory.writeList m 0x50 (leBytes 8 (b2n j.isOver))
  Memory.writeList m 0x100 store

/-- Whether SRAM address `a` lies in the scratch window of a slot. -/
def inWindow (r : ImgRec) (a : Nat) : Bool := decide (scratchBase r ≤ a) && decide (a < scratchBase r + scratchLen r)

/-- The scratch window of a slot. -/
def scratchOf (s : State) (r : ImgRec) : Memory := s.tin.sram.filter fun c => inWindow r c.1

/-- Put contents `m` into the scratch window of a slot. -/
def setScratch (r : ImgRec) (m : Memory) (s : State) : State :=
  { s with tin := { s.tin with sram := m.foldl (fun a c => Memory.write a c.1 c.2) (s.tin.sram.filter fun c => !inWindow r c.1) } }

/-- A PLAN or SWAP before the job's frames resets the slot's state and scratch window (R262). -/
def slotReset (k : Nat) (r : ImgRec) (first : Nat) (s : State) : State :=
  let x := slotOf s k
  if x.resetAt.any fun f => !precedes first f then
    setSlot k { x with resetAt := x.resetAt.filter fun f => precedes first f, store := none } (setScratch r [] s)
  else s

/-- Change job `i` of a slot. -/
def setJob (k i : Nat) (f : Job → Job) (s : State) : State :=
  let x := slotOf s k
  setSlot k { x with jobs := x.jobs.modify i f } s

/-- Start job `i` of slot `k` on tine `t` (R244, R261); a job that a fence abandoned runs again (R269). -/
def startJob (t k i : Nat) (r : ImgRec) (j : Job) (s : State) : State :=
  let s := slotReset k r j.first s
  let store := (slotOf s k).store.getD (initialState r)
  let old := tineOf s t
  let s := setTine t { busy := true, slot := k, pc := codeStart s t k, mem := jobMemory s k r j store, scratch := scratchOf s r,
                       prog := old.prog, eccCorr := old.eccCorr, jobs := old.jobs }
    (setJob k i (fun j => { j with phase := .running t, again := false, rerun := j.rerun || j.again }) s)
  if j.again then bump Reg.TIN_RERUNS 1 (raise 200 s) else s

/-- TINE_JOB_DISPATCH (R242, R261 to R264, R269): jobs without a tine end; a free tine whose clock runs takes the first
ready job it may run. -/
def onTineJobDispatch (tine : Fin 16) (s : State) : State :=
  let s := (List.range 16).foldl (fun s k => endNoTine k s) s
  if (tineOf s tine).busy || isFenced s (Unit.tine tine) || decide (gClk s.tin.grant = 0) then s
  else
    match readyFor s tine with
    | [] => s
    | (k, i) :: _ =>
      match slotRec s k, (slotOf s k).jobs[i]? with
      | some r, some j => startJob tine k i r j s
      | _, _ => s

/-! ### The end of a job (R262, R265) -/

/-- The job that tine `t` runs: its index in its slot. -/
def runningJob (s : State) (t : Nat) : Option Nat :=
  (slotOf s (tineOf s t).slot).jobs.findIdx? fun j => decide (j.phase = .running t)

/-- The tine is free again. -/
def freeTine (t : Nat) (done : Bool) (s : State) : State :=
  let x := tineOf s t
  setTine t { x with busy := false, dma := [none, none], jobs := if done then min (x.jobs + 1) (2 ^ 24 - 1) else x.jobs } s

/-- The job on tine `t` ends with `status` (R262, R265): OK commits its words and its state area. -/
def endJob (t status : Nat) (s : State) : State :=
  let x := tineOf s t
  match runningJob s t, slotRec s x.slot with
  | some i, some r =>
    let ok := decide (status = 0)
    let s := setJob x.slot i (fun j => { j with phase := .ended, status := status, ovf := ok && x.ovf,
                                                words := if ok then x.out else [] }) s
    let s := if ok && decide (stateBytes r ≠ 0) then
        setSlot x.slot { slotOf s x.slot with store := some (Memory.readList x.mem 0x100 (stateBytes r)) } s
      else s
    admitHeld x.slot (releaseEnded 16 x.slot (freeTine t ok s))
  | _, _ => freeTine t false s

/-- A fence of a tine (R263, R269): its job waits again, its scratch writes are undone, and nothing of it is delivered. -/
def tineFenced (t : Nat) (s : State) : State :=
  let s := fault 199 Src.tin t .contained 0 s
  let x := tineOf s t
  if x.busy then
    let s := match runningJob s t with
      | some i => setJob x.slot i (fun j => { j with phase := .waiting, again := true }) s
      | none => s
    let s := match slotRec s x.slot with
      | some r => if scratchLen r = 0 then s else setScratch r x.scratch s
      | none => s
    freeTine t false s
  else s

/-- A tine re-enters with its slots' code reloaded from SRAM (R270). -/
def tineGrafted (t : Nat) (s : State) : State := raise 202 (tineReload t s)

/-- A PLAN or SWAP item with frame `f` reaches the cluster (R260, R262). -/
def tinPlan (fibre : Bool) (f : Nat) (s : State) : State :=
  (List.range 16).foldl (fun s k =>
    if (slotRec s k).isSome && decide (slotFibre s 16 k = fibre) then
      let x := slotOf s k
      setSlot k { x with planNext := x.planNext ++ [f], resetAt := x.resetAt ++ [f] } s else s) s

/-- TIN_ECC (R257): a corrected error is counted, and program memory is scrubbed from the copy in SRAM; an uncorrectable one is the contained fault that fences the tine
(DEDUCED, log entry 38). -/
def onTinEcc (tine : Fin 16) (mem : TineMem) (uncorr : Bool) (t : Tick) (s : State) : State :=
  let s := advance t s
  if uncorr then stick Reg.TIN_STICKY 4 (fault 198 Src.tin tine .contained 0 s)
  else
    let s := match mem with
      | .program _ => tineReload tine s
      | .data _ => s
    let x := tineOf s tine
    bump Reg.TIN_ECC_CORR 1 (fault 197 Src.tin tine .corrected 0 (setTine tine { x with eccCorr := min (x.eccCorr + 1) 3 } s))

/-- The TIN registers (R273). -/
def tinView (s : State) (off : Nat) : Option Nat :=
  let k := rdf s Fld.TIN_SLOT_SEL_slot
  let word (o : Nat) : Nat := (slotRec s k).elim 0 fun r => leAt r.body o 4
  if off = Reg.TIN_STATUS then
    some ((List.range 16).foldl (fun a t => if (tineOf s t).busy then a + 2 ^ t else a) 0)
  else if off = Reg.TIN_FENCED then some (bits s.fcl.fenced.toNat 0x20 16)
  else if off = Reg.TIN_CLOCK then some (gClk s.tin.grant)
  else if off = Reg.TIN_SLOTS then
    some ((List.range 16).foldl (fun a k => if (slotRec s k).isSome then a + 2 ^ k else a) 0)
  else if off = Reg.TIN_SLOT_CFG then some (word 0)
  else if off = Reg.TIN_SLOT_LIM then some (word 4)
  else if off = Reg.TIN_SLOT_STEP then some (word 8)
  else if off = Reg.TIN_SLOT_STAT then
    some ((slotOf s k).last.elim 0 fun p => p.1 % 2 ^ 24 + 2 ^ 24 * p.2.1 + 2 ^ 30 * b2n p.2.2 + 2 ^ 31)
  else (List.range 16).findSome? fun t =>
    if off = Reg.TIN_TINE_STAT t then
      let x := tineOf s t
      some ((if x.busy then x.slot else 0) + 16 * b2n x.busy + 32 * b2n (isFenced s (Unit.tine t)) + 64 * x.eccCorr + 256 * x.jobs)
    else none

/-! ### Meanings -/

/-- The meaning of this command: the step of `onTineItemArrive` (R260). -/
def execTineItemArrive (slot : Fin 16) (input : Fin 4) (item : Item) (s : State) : Host.Outcome State Fault Refusal :=
  .next (onTineItemArrive slot input item s)

/-- The meaning of this command: the step of `onTineJobClose` (R260). -/
def execTineJobClose (slot : Fin 16) (s : State) : Host.Outcome State Fault Refusal :=
  .next (onTineJobClose slot s)

/-- The meaning of this command: the step of `onTineJobDispatch` (R263). -/
def execTineJobDispatch (tine : Fin 16) (s : State) : Host.Outcome State Fault Refusal :=
  .next (onTineJobDispatch tine s)

/-- The meaning of this command: the step of `onTinEcc` (R257). -/
def execTinEcc (tine : Fin 16) (mem : TineMem) (uncorr : Bool) (t : Tick) (s : State) : Host.Outcome State Fault Refusal :=
  .next (onTinEcc tine mem uncorr t s)

end Sys2Proof.Machine
end

