-- ==== Sys2Proof/Machine/Fcl.lean ====
section
/-! DEFINITION. Fault collection, fencing and grafting (chapter 16): the reaction to a fault message (R496 to R502), clears
(R503 to R506), grafts (R507 to R510), the error pair (R511 to R514), the fault log (R515) and the FCL registers (R518). -/

namespace Sys2Proof.Machine

/-! ### Units and blocks -/

/-- The fence unit a message names (R492, R499). -/
def fenceUnitOf (m : FaultMsg) : Option Nat :=
  let u := m.unit.toNat
  let src := m.source.toNat
  let at_ (base n : Nat) : Option Nat := if u < n then some (base + u) else none
  if src = Src.pfe || src = Src.tdc || src = Src.hse then at_ 0 32
  else if src = Src.tin then at_ 0x20 16
  else if src = Src.esq then at_ 0x30 16
  else if src = Src.fib then at_ 0x40 8
  else if src = Src.plk || src = Src.trl then at_ 0x48 8
  else if src = Src.boot || src = Src.tae || src = Src.fcl then at_ 0x50 8
  else if src = Src.mcd then at_ 0x58 2
  else none

/-- The kinds whose cause is a measured state (R503), of those that fence or are fatal: lock and reference, bias, rail low,
temperature and supply, reference mismatch. -/
def isCondition (kind : Nat) : Bool := [33, 34, 101, 149, 269, 270, 290].contains kind

/-- The boundaries at which a unit's FENCE and GRAFT items are inserted (R500, R502): column or sweep, by its block. -/
def unitDom (s : State) (u : Nat) : Dom :=
  if u < 0x20 || (0x30 ≤ u && u < 0x40) then .lidar
  else if 0x40 ≤ u && u < 0x48 then .fibre
  else if hasLidar s then .lidar else .fibre

/-- Whether a unit acts at once, with no item of its own: link lanes and Mulch engines (R508). -/
def unitAtOnce (u : Nat) : Bool := (0x48 ≤ u && u < 0x50) || 0x58 ≤ u

/-- The FENCE (5) or GRAFT (6) item of a unit in its internal slot (R25). -/
def unitItem (kind u : Nat) (s : State) : State :=
  x8Internal ⟨kind, 0, u, Src.fcl, u, unitDom s u, .internal, now s⟩ s

/-- Withdraw a GRAFT item not yet inserted (R510). -/
def withdrawGraft (u : Nat) (s : State) : State :=
  { s with qsy := { s.qsy with x8int := s.qsy.x8int.filter fun c => !(decide (c.kind = 6) && decide (c.unit = u)) } }

/-- The self-test of unit `u` stops (R96, R175, R508, R510): a strip's regulator, meter cycle and calibration, a pair's
cycle, a lane that waits to enter. -/
def graftStops (u : Nat) (s : State) : State :=
  if u < 0x20 then abandonCycle u (biasEnable u false s)
  else if 0x40 ≤ u && u < 0x44 then pairAbandon ((u - 0x40) / 2) s
  else if 0x48 ≤ u && u < 0x50 then setLane (u - 0x48) { laneSt s (u - 0x48) with entering := false } s
  else if 0x58 ≤ u then engineStops (u - 0x58) s
  else s

/-- The graft that runs is abandoned (R510): 3 fenced again, 4 by the fatal state. -/
def abandonGraft (result : Nat) (s : State) : State :=
  match s.fcl.graft with
  | none => s
  | some g => graftEnd result .state (withdrawGraft g.unit (graftStops g.unit s))

/-! ### Fencing (R500) -/

/-- A fenced strip (R96, R63, R158): regulator off, its calibration abandoned, what the back still holds of it unobserved. -/
def stripFenced (k : Nat) (s : State) : State :=
  let s := abandonCycle k (biasEnable k false s)
  if s.hse.info.exists_ && s.hse.info.waiting.contains k then stripUnobs k s.hse.info.uLo true (stripTaken k s) else s

/-- What the fence of a unit does in its block. -/
def fenceOp (u : Nat) (s : State) : State :=
  if u < 0x20 then stripFenced u s
  else if u < 0x30 then tineFenced (u - 0x20) s
  else if u < 0x40 then raise 159 s
  else if u < 0x48 then pairAbandon ((u - 0x40) / 2) s
  else if u < 0x50 then laneFenced (u - 0x48) s
  else if u < 0x58 then s
  else engineFenced (u - 0x58) s

/-- Fence unit `u` (R500): its bit, its block's part, its FENCE item. -/
def fenceUnit (u : Nat) (s : State) : State :=
  let s := { s with fcl := { s.fcl with fenced := s.fcl.fenced ||| BitVec.ofNat 90 (2 ^ u) } }
  let s := fenceOp u s
  if unitAtOnce u then s else unitItem 5 u s

/-! ### The reaction to a message (R496 to R498, R515) -/

/-- The order of messages (R493): by stamp, then source, then unit, then kind. -/
def msgBefore (a b : FaultMsg) : Bool :=
  let key (m : FaultMsg) : Nat := ((m.stamp * 64 + m.source.toNat) * 256 + m.unit.toNat) * 65536 + m.kind.toNat
  decide (key a < key b)

/-- Whether a message is the next to reach the FCL: a fatal one has a path of its own, any other waits for those that come before
it (R493). -/
def msgNext (m : FaultMsg) (s : State) : Bool :=
  decide (m.cls = .fatal) || !s.fcl.inFlight.any fun a => !decide (a.cls = .fatal) && msgBefore a m

/-- The two words of a message (R492). -/
def msgWords (m : FaultMsg) : Word64 × Word64 :=
  (BitVec.ofNat 64 m.stamp,
   BitVec.ofNat 64 (m.source.toNat + 2 ^ 6 * (match m.cls with | .corrected => 1 | .contained => 2 | .fatal => 3)
     + 2 ^ 8 * m.unit.toNat + 2 ^ 16 * m.kind.toNat + 2 ^ 32 * m.addr.toNat))

/-- The log ring and the item on FCL stream 0 (R515). -/
def logMsg (m : FaultMsg) (s : State) : State :=
  let w := msgWords m
  let n := s.fcl.logTotal
  let s := { s with fcl := { s.fcl with log := Tab.put s.fcl.log (n % 256) ⟨w.1, w.2⟩, logTotal := n + 1 } }
  emitX Src.fcl 0 (curCtx s) 0 [w.1, w.2] (if 256 ≤ n then bump Reg.FCL_LOG_LOST 1 s else s)

/-- The class counters and sticky bits (R496, R518). -/
def countMsg (m : FaultMsg) (s : State) : State :=
  let s := match m.cls with
    | .corrected => bumpSat Reg.FCL_CORR_COUNT 0 32 1 s
    | .contained => stick Reg.FCL_STICKY 1 (bump Reg.FCL_CONT_COUNT 1 s)
    | .fatal => stick Reg.FCL_STICKY 0 (bump Reg.FCL_FATAL_COUNT 1 s)
  let k := m.kind.toNat
  let s := if 0x200 ≤ k && k ≤ 0x204 then stick Reg.FCL_STICKY 2 s else s
  if k = 0x205 then stick Reg.FCL_STICKY 3 s else s

/-- The orderly stop from its step 2 (R344, R498). -/
def orderlyStart (s : State) : State :=
  if s.hkp.orderly || s.hkp.hardCut then s
  else { s with hkp := { s.hkp with orderly := true, drained := false, stopAt := now s } }

/-- The cause record of unit `u` is set by a message stamped after its last clear (R500, R506). -/
def setCause (u : Nat) (m : FaultMsg) (s : State) : State :=
  if (Tab.look s.fcl.clears u).any fun c => decide (m.stamp ≤ c) then s
  else
    let b := BitVec.ofNat 90 (2 ^ u)
    { s with fcl := { s.fcl with
      cause := s.fcl.cause ||| b,
      causeCond := if isCondition m.kind.toNat then s.fcl.causeCond ||| b else s.fcl.causeCond &&& ~~~b } }

/-- The contained state without a unit (R497), set by a message stamped after its last clear (R506)
(DEDUCED, log entry 38). -/
def setContained (m : FaultMsg) (s : State) : State :=
  if (Tab.look s.fcl.clears 90).any fun c => decide (m.stamp ≤ c) then s
  else { s with fcl := { s.fcl with contained := true, contCond := isCondition m.kind.toNat } }

/-- The reaction to an uncorrected-contained message (R496, R497, R500); one that names the unit under graft fences it
again (R510) (DEDUCED, log entry 38). -/
def reactContained (m : FaultMsg) (s : State) : State :=
  match fenceUnitOf m with
  | none => setContained m s
  | some u =>
    if !isFenced s u then fenceUnit u (setCause u m s)
    else if s.fcl.graft.any fun g => decide (g.unit = u) then abandonGraft 3 (setCause u m s)
    else setContained m (setCause u m s)

/-- A message becomes the cause of the fatal state. -/
def fatalRecord (m : FaultMsg) (s : State) : State :=
  { s with fcl := { s.fcl with fatalCause := (msgWords m).2.toNat % 2 ^ 32, fatalStamp := m.stamp,
                               fatalCond := isCondition m.kind.toNat } }

/-- The reaction to a fatal message (R498, R505, R506): the first one stamped after the last clear begins the fatal state; one
raised in a provisional round keeps it and replaces its cause. The Cloche is informed with it (R388). -/
def reactFatal (m : FaultMsg) (s : State) : State :=
  if !s.fcl.fatal then
    if (Tab.look s.fcl.clears 91).any fun c => decide (m.stamp ≤ c) then s
    else
    let s := raise 316 (fatalRecord m { s with fcl := { s.fcl with fatal := true, provisional := false } })
    abandonGraft 4 (orderlyStart (partStop s))
  else if s.fcl.provisional && decide (s.fcl.clearAt < m.stamp) then
    partStop (fatalRecord m { s with fcl := { s.fcl with provisional := false } })
  else s

/-- FAULT_MESSAGE (R493, R496): the message leaves the way to the FCL, is counted and logged, and its class decides; one that
others on the way precede has not arrived yet. -/
def onFaultMessage (m : FaultMsg) (s : State) : State :=
  if !msgNext m s then s
  else
  let s := { s with fcl := { s.fcl with inFlight := s.fcl.inFlight.erase m } }
  let s := logMsg m (countMsg m s)
  match m.cls with
  | .corrected => s
  | .contained => reactContained m s
  | .fatal => reactFatal m s

/-! ### Clears (R503 to R506) -/

abbrev roundTicks : Nat := 128000000

/-- A FAULT_CLEAR with selector `sel` (R504, R505). -/
def faultClear (o : Origin) (sel : Nat) (s : State) : State :=
  let done (cond : Bool) (s : State) : State := finish o .ok (b2n cond) s
  if s.boot.step = 15 then finish o .state 0 s
  else if sel = 0 then
    if s.fcl.fatal then
      done s.fcl.fatalCond { s with fcl := { s.fcl with
        provisional := true, clearAt := now s, clears := Tab.put s.fcl.clears 91 (now s), provEnd := ((now s + roundTicks - 1) / roundTicks + 1) * roundTicks } }
    else finish o .state 0 s
  else if sel = 1 then
    if s.fcl.contained then
      done s.fcl.contCond { s with fcl := { s.fcl with contained := false, clears := Tab.put s.fcl.clears 90 (now s) } }
    else finish o .state 0 s
  else if 0x100 ≤ sel && sel < 0x100 + 90 then
    let u := sel - 0x100
    if s.fcl.cause.getLsbD u then
      done (s.fcl.causeCond.getLsbD u) { s with fcl := { s.fcl with
        cause := s.fcl.cause &&& ~~~(BitVec.ofNat 90 (2 ^ u)), clears := Tab.put s.fcl.clears u (now s) } }
    else finish o .state 0 s
  else finish o .limit 0 s

/-! ### Grafts (R507 to R510) -/

/-- Why a graft of unit `u` is refused (R507); a second graft while one runs is refused as BUSY (DEDUCED, log entry 30). -/
def graftRefused (s : State) (u : Nat) : Option Status :=
  let down := ((u < 0x20 || (0x30 ≤ u && u < 0x40)) && !hasLidar s) || (0x40 ≤ u && u < 0x48 && !hasFibre s)
  let ps := (portOf s (portOfLane (u - 0x48))).state
  let noPort := 0x48 ≤ u && u < 0x50 && (ps = 3 || ps = 4)
  if 90 ≤ u then some .limit
  else if !isFenced s u || s.fcl.cause.getLsbD u || s.fcl.fatal || down || noPort then some .state
  else if s.fcl.graft.isSome then some .busy
  else none

/-- A graft begins (R508 step 1): the self-test runs; a strip's begins with its regulator, its meter cycle and a calibration
cycle (R63, R96), a bank's with its rail (R509), that of a converter of a pair with a cycle of the pair, that of another converter
with its offset check (R176). -/
def graftBegin (o : Origin) (u : Nat) (s : State) : State :=
  match graftRefused s u with
  | some st => finish o st 0 (match o with | .host _ => { s with hif := { s.hif with grafting := none } } | _ => s)
  | none =>
    let held := match o with | .host i => some (i, u) | _ => none
    let s := { s with fcl := { s.fcl with graft := some ⟨u, o, false⟩, graftUnit := u, graftResult := 0 },
                      hif := { s.hif with grafting := held } }
    if u < 0x20 then
      let s := startCycle u .graft (now s) (biasEnable u true s)
      { s with pfe := { s.pfe with gMeter := some { strip := u } } }
    else if 0x30 ≤ u && u < 0x40 then { s with esq := { s.esq with gCols := 0, gClean := true, gRail := none } }
    else if 0x40 ≤ u && u < 0x44 then pairGraft ((u - 0x40) / 2) (now s) s
    else if 0x44 ≤ u && u < 0x48 then { s with fib := { s.fib with gAdc := {} } }
    else s

/-- What the part's own steps of the self-test of unit `u` ask for (R509): of a strip, an accepted cycle, its meter cycle done and
its bias ready (R63, R96); of a bank, its rail measured within its window, or 1,000 columns without a low state; of a converter,
its pair's cycle accepted, or a block of the offset check within 64 LSB and not of one value (R176). -/
def graftTestOk (s : State) (u : Nat) : Bool :=
  if u < 0x20 then
    let c := calOf s u
    let b := biasOf s u
    decide (c.kind = .graft) && decide (c.phase = .idle) && decide (c.last = 1) && s.pfe.gMeter.isNone
      && b.on && !b.check && !b.fail
  else if 0x30 ≤ u && u < 0x40 then
    decide (s.esq.gRail = some true) || ((railMeasuring s).isNone && decide (1000 ≤ s.esq.gCols))
  else if 0x40 ≤ u && u < 0x44 then
    let x := pairOf s ((u - 0x40) / 2)
    decide (x.phase = .idle) && decide (x.last = 1)
  else if 0x44 ≤ u && u < 0x48 then
    let g := s.fib.gAdc
    decide (g.n = blockLen s) && decide (g.sum.natAbs ≤ 64 * g.n) && !g.same
  else true

/-- The queues that hold words of unit `u` alone (R508). -/
def ownQueues (u : Nat) : List (Nat × Nat) :=
  if u < 0x20 then ((List.range 16).map fun i => (0, 16 * u + i)) ++ [(1, u)]
  else if 0x40 ≤ u && u < 0x48 then [(3, u - 0x40)]
  else []

/-- They are emptied (R508 step 2). -/
def emptyOwn (u : Nat) (s : State) : State :=
  (ownQueues u).foldl (fun s g =>
    let q := queueOf s g.1 g.2
    countFlushed q.words.length (setQueue g.1 g.2 { q with words := [], lost := q.lost || !q.words.isEmpty } s)) s

/-- GRAFT_SELFTEST_DONE (R508): `pass` is the outcome of the steps that the model does not hold; a pass while a step it does hold is
not through is not yet the end of the self-test (DESIGN CHOICE, log entry 5). -/
def onGraftSelftestDone (pass : Bool) (t : Tick) (s : State) : State :=
  let s := advance t s
  match s.fcl.graft with
  | none => s
  | some g =>
    if g.passed then s
    else if pass && !graftTestOk s g.unit then s
    else if pass then
      let s := emptyOwn g.unit { s with fcl := { s.fcl with graft := some { g with passed := true } } }
      if 0x58 ≤ g.unit then engineGrafted (g.unit - 0x58) s
      else if 0x48 ≤ g.unit && g.unit < 0x50 then laneGrafted (g.unit - 0x48) s
      else unitItem 6 g.unit s
    else
      graftEnd 2 .verify (graftStops g.unit s)

/-! ### Memory errors (R495) -/

/-- A fault of the FCL's own memories (R495) (DEDUCED, log entry 38). -/
def memFault (unit : Nat) (cls : FaultClass) (kind addr : Nat) (s : State) : State :=
  raise 318 (post Src.fcl unit cls kind addr s)

/-- The capture unit whose ring holds byte `addr` of M-tier bank `b`. -/
def ringAt (s : State) (b addr : Nat) : Option Nat :=
  (List.range 4).find? fun u =>
    (ringSpan s u).any fun r => (List.range s.tae.mtBanks.length).any fun i =>
      decide (s.tae.mtBanks.getD i 8 = b) && decide (r.1 ≤ i * 32 * mib + addr) && decide (i * 32 * mib + addr < r.1 + r.2)

/-- MEMORY_ECC_ERROR (R495, R502, R235, R308, R121). A queue word with an uncorrectable error is delivered with poison when it
is read (R316). -/
def onMemoryEccError (area : MemArea) (uncorr : Bool) (t : Tick) (s : State) : State :=
  let s := advance t s
  match area with
  | .config a => if uncorr then memFault 0 .fatal 0x201 a s else memFault 0 .corrected 0x200 a s
  | .queuePool a q k => if uncorr then hitWord q.group q.index k (memFault 0 .corrected 0x202 a s) else memFault 0 .corrected 0x200 a s
  | .otherSram a => if uncorr then memFault 0 .fatal 0x201 a s else memFault 0 .corrected 0x200 a s
  | .mtier b a =>
    if uncorr then
      let s := match ringAt s b (8 * a) with
        | some u => ringLost u s
        | none => s
      memFault b .contained 0x204 a s
    else memFault b .corrected 0x203 a s
  | .mulchSlot b => if uncorr then slotLost b s else bump Reg.MCD_ECC_CORR 1 (fault 244 Src.mcd 0 .corrected b s)
  | .ledger => if uncorr then ledgerFault s else memFault 0 .corrected 0x200 0 s
  | .x12Core => raise 319 (post Src.hif 0 .corrected 0x206 0 s)

/-! ### The error pair and the registers (R513, R518) -/

/-- Whether the error pair shows fault (R513). -/
def errFault (s : State) : Bool :=
  decide (s.boot.step < 12) || decide (s.boot.step = 15) || s.fcl.fatal
    || (rdb s Fld.FCL_CFG_err_contained && decide (s.fcl.fenced ≠ 0))

/-- The number of fenced units. -/
def fencedCount (s : State) : Nat := ((List.range 90).filter (isFenced s)).length

/-- What a read-only FCL register reads (R518) (DESIGN CHOICE, log entry 60). -/
def fclView (s : State) (off : Nat) : Option Nat :=
  let f := s.fcl
  let e := Tab.lookD f.log (rdf s Fld.FCL_LOG_SEL_entry) ⟨0, 0⟩
  let err := errFault s
  if off = Reg.FCL_STATUS then
    some (b2n err + 2 * b2n f.fatal + 4 * b2n f.provisional + 8 * b2n f.contained + 2 ^ 8 * fencedCount s)
  else if off = Reg.FCL_FATAL_CAUSE then some f.fatalCause
  else if off = Reg.FCL_FATAL_STAMP_LO then some (f.fatalStamp % 2 ^ 32)
  else if off = Reg.FCL_FATAL_STAMP_HI then some (bits f.fatalStamp 32 32)
  else if off = Reg.FCL_LOG_HEAD then some ((f.logTotal - 1) % 256 + 2 ^ 8 * (f.logTotal % 2 ^ 24))
  else if off = Reg.FCL_GRAFT_STAT then some (f.graftUnit + 2 ^ 16 * f.graftResult + 2 ^ 19 * b2n f.graft.isSome)
  else if off = Reg.FCL_ERR_PAD then some (b2n !err + 2 * b2n err + 4 * b2n f.padP + 8 * b2n f.padN)
  else
    match (List.range 4).find? fun i => decide (off = Reg.FCL_LOG_DATA i) with
    | some i => some (bits (if i < 2 then e.w0 else e.w1).toNat (32 * (i % 2)) 32)
    | none =>
      match (List.range 3).find? fun i => decide (off = Reg.FCL_FENCED i) with
      | some i => some (bits f.fenced.toNat (32 * i) 32)
      | none => ((List.range 3).find? fun i => decide (off = Reg.FCL_CAUSE i)).map fun i => bits f.cause.toNat (32 * i) 32

/-! ### Meanings -/

/-- The meaning of this command: the step of `onFaultMessage` (R496). -/
def execFaultMessage (m : FaultMsg) (s : State) : Host.Outcome State Fault Refusal :=
  .next (onFaultMessage m s)

/-- The meaning of this command: the step of `onGraftSelftestDone` (R508). -/
def execGraftSelftestDone (pass : Bool) (t : Tick) (s : State) : Host.Outcome State Fault Refusal :=
  .next (onGraftSelftestDone pass t s)

/-- The meaning of this command: the step of `onMemoryEccError` (R495). -/
def execMemoryEccError (area : MemArea) (uncorr : Bool) (t : Tick) (s : State) : Host.Outcome State Fault Refusal :=
  .next (onMemoryEccError area uncorr t s)

end Sys2Proof.Machine
end

