-- ==== Sys2Proof/Machine/Boundary.lean ====
section
/-! DEFINITION. What the lidar and the fibre boundaries share (R24, R25, R34, R113, R127, R128, R181, R483, R486, R487, R500 to
R502, R508): orders for a plan, orders that name a frame, and the control items a producer inserts. -/

namespace Sys2Proof.Machine

/-! ### Orders that meet at a boundary (R486, R487) -/

/-- An order that takes effect at a boundary: what it does to its object, whether it is an order toward stopping, and
whether it is a SWAP. -/
structure OrderCand where
  effect : Nat
  stop   : Bool
  swap   : Bool
  scope  : Nat
  arg    : Nat
  origin : Origin
  taken  : Tick
  deriving DecidableEq, Repr

/-- Whether an order comes from the cascade master. -/
def Origin.isMaster (o : Origin) : Bool :=
  match o with
  | .master => true
  | _ => false

/-- Stamps order the orders; with equal stamps the cascade master's comes first (R486). -/
def orderLt (a b : OrderCand) : Bool :=
  if a.taken = b.taken then a.origin.isMaster && !b.origin.isMaster else decide (a.taken < b.taken)

/-- How an earlier order `a` and a later order `b` for one object and boundary stand: both apply, or one of them wins. -/
inductive Meet where
  | both | first | second
  deriving DecidableEq, Repr

/-- The rules of R486 and R487. -/
def meet (a b : OrderCand) : Meet :=
  let one (x : Bool) : Meet := if x then .first else .second
  if a.effect = b.effect then .both
  else if a.origin.isMaster = b.origin.isMaster then
    if a.stop ≠ b.stop then one a.stop else .second
  else if a.taken / epochTicks = b.taken / epochTicks then
    if a.stop ≠ b.stop then one a.stop else one a.origin.isMaster
  else .both

/-- Order `b` joins the winners so far, the last first; the losers grow. -/
def joinOrder (b : OrderCand) (winners losers : List OrderCand) : List OrderCand × List OrderCand :=
  match winners with
  | [] => ([b], losers)
  | a :: r =>
    match meet a b with
    | .both => (b :: a :: r, losers)
    | .first => (a :: r, losers ++ [b])
    | .second => joinOrder b r (losers ++ [a])

/-- The orders that apply, in order, and those that lose. -/
def resolveOrders (l : List OrderCand) : List OrderCand × List OrderCand :=
  let p := (sortBy orderLt l).foldl (fun (a : List OrderCand × List OrderCand) b => joinOrder b a.1 a.2) ([], [])
  (p.1.reverse, p.2)

/-- An order lost (R486): its frame or sweep is marked, EVT 313 is raised, and it is done with CONFLICT
(DEDUCED, log entry 42). -/
def orderLost (d : Dom) (f : Nat) (o : Origin) (s : State) : State :=
  let keep (l : List Nat) : List Nat := ((f % 2 ^ 24) :: l.filter fun x => !decide (x = f % 2 ^ 24)).take 64
  let s := match d with
    | .lidar => { s with hif := { s.hif with conflictL := keep s.hif.conflictL } }
    | .fibre => { s with hif := { s.hif with conflictF := keep s.hif.conflictF } }
  finish o .conflict 0 (stick Reg.HIF_STICKY 4 (bump Reg.HIF_CONFLICTS 1 (raise 313 s)))

/-! ### Contexts -/

def ctxOf (s : State) (d : Dom) : TagCtx := match d with | .lidar => s.esq.ctx | .fibre => s.fib.ctx

def setCtx (d : Dom) (c : TagCtx) (s : State) : State :=
  match d with
  | .lidar => { s with esq := { s.esq with ctx := c } }
  | .fibre => { s with fib := { s.fib with ctx := c } }

/-- The number of the next frame or sweep of context `c`. -/
def nextNum (c : TagCtx) : Nat := if c.begun then c.frame + 1 else 0

/-- The configuration generation after a PLAN or SWAP (R26): 255 is followed by 1 (DEDUCED, log entry 42). -/
def genNext (g : Nat) : Nat := if 255 ≤ g then 1 else g + 1

/-- The boundary domain of a block that serves both personalities. -/
def sharedDom (s : State) : Dom := if hasFibre s && !hasLidar s then .fibre else .lidar

/-- Whether a domain is the fibre's. -/
def isFibre (d : Dom) : Bool := match d with | .lidar => false | .fibre => true

/-! ### Inserting control items (R24, R32) -/

/-- Insert a control item into the streams that blocks produce in domain `d`. -/
def ctlProducers (d : Dom) (kind scope arg : Nat) (s : State) : State :=
  let c := ctxOf s d
  let s := match d with
    | .lidar =>
      emitCtl Src.hse (fun n => decide (n ≤ 3)) c kind scope arg
        (emitCtl Src.esq (fun n => decide (n ≤ 1)) c kind scope arg
          (emitCtl Src.pfe (fun n => decide (n = 0)) c kind scope arg
            (emitCtl Src.tdc (fun n => decide (n = 1 ∨ n = 2)) c kind scope arg s)))
    | .fibre => emitCtl Src.fib (fun n => decide (n ≤ 4)) c kind scope arg s
  let s := if sharedDom s = d then emitCtl Src.tsu (fun _ => true) c kind scope arg s else s
  if isFibre d = hasFibre s then
    emitCtl Src.asf (fun _ => true) c kind scope arg (emitCtl Src.cle (fun _ => true) c kind scope arg s)
  else s

/-- Insert the FENCE or GRAFT item of unit `u` into the streams that the unit feeds (R501). -/
def ctlUnit (u kind : Nat) (s : State) : State :=
  if u < 0x20 then
    let c := s.esq.ctx
    emitCtl Src.hse (fun n => decide (n ≤ 3)) c kind 0 u (emitCtl Src.pfe (fun n => decide (n = 0)) c kind 0 u
      (emitCtl Src.tdc (fun n => decide (n = 1 ∨ n = 2)) c kind 0 u s))
  else if u < 0x30 then emitCtl Src.tin (fun n => bitB (slotTines s n) (u - 0x20)) (curCtx s) kind 0 u s
  else if u < 0x40 then
    let c := s.esq.ctx
    emitCtl Src.hse (fun n => decide (n ≤ 3)) c kind 0 u (emitCtl Src.esq (fun n => decide (n = 0)) c kind 0 u s)
  else if u < 0x48 then emitCtl Src.fib (fun n => decide (n ≤ 4)) s.fib.ctx kind 0 u s
  else if u < 0x50 then s
  else if u < 0x58 then
    emitCtl Src.tin (fun _ => true) (curCtx s) kind 0 u (emitCtl Src.tae (fun n => decide (n ≤ 2)) (curCtx s) kind 0 u s)
  else s

/-! ### Grants (R34) -/

/-- The GRANT item waiting for the boundary is inserted, and the producers run under its grant. -/
def insertGrant (d : Dom) (s : State) : State :=
  match s.qsy.x8int.find? fun c => decide (c.kind = 4) && decide (c.dom = d) with
  | none => s
  | some c =>
    let s := { s with qsy := { s.qsy with x8int := s.qsy.x8int.filter fun e => !(decide (e.kind = 4) && decide (e.dom = d)) } }
    let g := (Tab.look s.ala.grants (c.arg % 2 ^ 32)).getD s.ala.grant
    let s := match d with
      | .lidar => { s with esq := { s.esq with grant := g } }
      | .fibre => { s with fib := { s.fib with grant := g } }
    ctlProducers d 4 0 c.arg s

/-! ### Plans (R113, R127, R181) -/

/-- Whether the image has the plan. -/
def planExists (s : State) (fibre : Bool) (p : Nat) : Bool :=
  if fibre then (recWhere s 0x0901 0 0 4 p).isSome else (scanPlan s p).isSome

/-- Whether a selection of the plan is an order toward stopping (R486): a scan plan with bank_en = 0. -/
def planStops (s : State) (fibre : Bool) (p : Nat) : Bool :=
  !fibre && (scanPlan s p).any fun r => decide (rf r 0x24 0 16 = 0)

/-- The orders for the plan of domain `d` that take effect at this boundary: the mailbox's PLAN items and, at the start of
frame `f`, the committed SWAPs that name it. -/
def planOrders (d : Dom) (start : Bool) (s : State) : List OrderCand :=
  let f := nextNum (ctxOf s d) % 2 ^ 24
  (s.qsy.x8host.filter fun c => decide (c.kind = 1) && decide (c.dom = d)).map (fun c =>
      ⟨c.arg % 16, planStops s (isFibre d) (c.arg % 16), false, c.scope, c.arg, c.origin, c.taken⟩)
  ++ (if start then
      (s.esq.staged.filter fun x => decide (x.fibre = isFibre d) && decide (x.target = f) && x.committed).map (fun x =>
        ⟨x.plan, planStops s x.fibre x.plan, true, x.scope, f, x.origin, x.taken⟩)
    else [])

/-- Staged SWAPs that name the frame which starts are spent; one without a commit raises its event (R127 step 5, R181)
(DEDUCED, log entry 43). -/
def spendStaged (d : Dom) (s : State) : State :=
  let f := nextNum (ctxOf s d) % 2 ^ 24
  let due (x : Staged) : Bool := decide (x.fibre = isFibre d) && decide (x.target = f)
  let late := s.esq.staged.filter fun x => due x && !x.committed
  let s := { s with esq := { s.esq with staged := s.esq.staged.filter fun x => !due x } }
  late.foldl (fun s x =>
    finish x.origin .cancelled 0
      (if isFibre d then stick Reg.FIB_STICKY 5 (fault 175 Src.fib 0 .corrected 0 s) else stick Reg.ESQ_STICKY 5 (fault 157 Src.esq 0 .corrected 0 s))) s

/-- The plan of domain `d` becomes `p`. What follows from a change of plan is the boundary's. -/
def setPlan (d : Dom) (p : Nat) (s : State) : State :=
  match d with
  | .lidar => { s with esq := { s.esq with plan := some p } }
  | .fibre => { s with fib := { s.fib with plan := some p } }

/-- Insert the SWAP and PLAN items of the orders that apply, in the order of R128, and set the plan by the last of them
(DEDUCED, log entry 42). -/
def insertPlans (d : Dom) (l : List OrderCand) (s : State) : State :=
  let item (o : OrderCand) (s : State) : State :=
    ctlProducers d (if o.swap then 2 else 1) o.scope (if o.swap then o.arg else o.effect + 16 * b2n (isFibre d)) s
  let s := (l.filter (·.swap)).foldl (fun s o => item o s) s
  let s := (l.filter fun o => !o.swap).foldl (fun s o => item o s) s
  l.foldl (fun s o =>
    let c := ctxOf s d
    let s := setPlan d o.effect (setCtx d { c with gen := genNext c.gen } s)
    finish o.origin .ok 0 (if o.swap then raise (if isFibre d then 167 else 156) s else s)) s

/-- The orders for a plan at a boundary: the resolution, its losers, and what applies. -/
def takePlans (d : Dom) (start : Bool) (s : State) : State × List OrderCand :=
  let p := resolveOrders (planOrders d start s)
  let f := nextNum (ctxOf s d)
  let s := { s with qsy := { s.qsy with x8host := s.qsy.x8host.filter fun c => !(decide (c.kind = 1) && decide (c.dom = d)) } }
  let s := if start then spendStaged d s else s
  let s := p.2.foldl (fun s o => orderLost d f o.origin s) s
  (insertPlans d p.1 s, p.1)

/-! ### M-tier (R502) -/

/-- The surviving banks. -/
def liveBanks (s : State) : List Nat := (List.range 8).filter fun b => !isFenced s (Unit.mbank b)

/-- The jobs of slot `k` whose input buffer lay in bank `b` read no input, and their results carry lost_before. -/
def jobsLost (b k : Nat) (s : State) : State :=
  match slotRec s k with
  | none => s
  | some r =>
    let x := slotOf s k
    let hit (j : Job) : Bool := decide (j.phase ≠ .ended) && spanInBank s b (bufferBase s k r j) (rf r 0x28 0 8 * mib)
    setSlot k { x with jobs := x.jobs.map fun j => if hit j then { j with bytes := [], spans := j.spans.map fun _ => (0, 0), lost := true }
                                                   else j } s

/-- The M-tier allocation is made again at a frame or sweep boundary after a bank was fenced or grafted
(DEDUCED, log entry 37). -/
def mtRealloc (s : State) : State :=
  let new := liveBanks s
  if new = s.tae.mtBanks then s
  else
    let gone := s.tae.mtBanks.filter fun b => !new.contains b
    let hit := (List.range 4).filter fun u =>
      (ringSpan s u).any fun sp => gone.any fun b => spanInBank s b sp.1 sp.2
    let s := gone.foldl (fun s b => (List.range 16).foldl (fun s k => jobsLost b k s) s) s
    let s := hit.foldl (fun s u => ringLost u s) s
    let s := { s with tae := { s.tae with mtBanks := new } }
    (List.range 4).foldl (fun s u =>
      if (unitRec s u).isNone then s
      else
        let x := unitOf s u
        if (ringSpan s u).isNone then
          setUnit u { x with noFit := true, state := 0, ring := [], toCode := [], coded := [] } s
        else setUnit u { x with noFit := false } s) s

/-! ### FENCE and GRAFT items (R500 to R502, R508) -/

/-- Whether a unit's item waits for a frame or sweep boundary rather than any boundary of its domain. -/
def unitAtStart (kind u : Nat) : Bool := decide (kind = 6) || (decide (0x50 ≤ u) && decide (u < 0x58))

/-- The internal items of a kind that this boundary takes, by source and unit (R25). -/
def unitItems (kind : Nat) (d : Dom) (start : Bool) (s : State) : List Ctl :=
  sortBy (fun a b => decide (a.src * 256 + a.unit < b.src * 256 + b.unit))
    (s.qsy.x8int.filter fun c => decide (c.kind = kind) && decide (c.dom = d) && (start || !unitAtStart kind c.unit))

def takeInt (c : Ctl) (s : State) : State := { s with qsy := { s.qsy with x8int := s.qsy.x8int.filter fun e => !decide (e = c) } }

/-- The FENCE items of a boundary: from the item on, the unit's streams are degraded (DEDUCED, log entry 42). -/
def insertFences (d : Dom) (start : Bool) (s : State) : State :=
  (unitItems 5 d start s).foldl (fun s c =>
    let s := ctlUnit c.unit 5 (takeInt c s)
    { s with fcl := { s.fcl with shown := s.fcl.shown ||| BitVec.ofNat 90 (2 ^ c.unit) } }) s

/-- What the return of a unit does in its block: a strip decides its depth afresh (R88); a converter's positions and pair
start anew (R175); a tine runs again (R270). -/
def graftBlock (u : Nat) (s : State) : State :=
  if u < 0x20 then
    { s with pfe := { s.pfe with fresh := s.pfe.fresh ||| BitVec.ofNat 32 (2 ^ u), gMeter := none },
             tdc := { s.tdc with quiet := s.tdc.quiet.filter fun e => !decide (e.1 / 16 = u) } }
  else if u < 0x30 then tineGrafted (u - 0x20) s
  else if 0x40 ≤ u && u < 0x48 then
    let i := (u - 0x40) / 2
    let s := if (pairOf s i).phase = .idle then s else pairAbandon i s
    { s with fib := { s.fib with pos := [] } }
  else s

/-- The GRAFT items of a boundary: the unit contributes again and its graft is done (DEDUCED, log entry 42). -/
def insertGrafts (d : Dom) (start : Bool) (s : State) : State :=
  (unitItems 6 d start s).foldl (fun s c => graftBlock c.unit (graftEnter c.unit (ctlUnit c.unit 6 (takeInt c s)))) s

/-! ### FLUSH items (R320) -/

/-- The FLUSH items of the mailbox that this boundary takes (DEDUCED, log entry 42). -/
def insertFlushes (d : Dom) (s : State) : State :=
  let l := s.qsy.x8host.filter fun c => decide (c.kind = 3) && decide (c.dom = d)
  let s := { s with qsy := { s.qsy with x8host := s.qsy.x8host.filter fun c => !(decide (c.kind = 3) && decide (c.dom = d)) } }
  l.foldl (fun s c => finish c.origin .ok 0 (flushStream c.src (c.arg % 64) (ctxOf s d) c.scope s)) s

/-! ### Orders that name a frame (R483) -/

/-- The capture commands (R484). -/
def capOrder (o : Origin) (code u f : Nat) (s : State) : State :=
  if code = 0x0201 then capName o u f s
  else if code = 0x0202 then capAbort o u s
  else if code = 0x0203 then capRead o u s
  else if code = 0x0204 then capRelease o u s
  else capRearm o u s

/-- Whether a code is that of a capture command. -/
def isCapCode (code : Nat) : Bool := decide (0x0201 ≤ code) && decide (code ≤ 0x0205)

/-- A deferred order other than a capture command takes effect. -/
def runOther (x : Deferred) (s : State) : State :=
  if x.code = 0x0102 then finish x.origin .ok 0 (flushStream (x.arg / 64) (x.arg % 64) (ctxOf s x.dom) x.scope s)
  else if x.code = 0x0301 then faultClear x.origin x.arg s
  else if x.code = 0x0302 then graftBegin x.origin x.arg s
  else finish x.origin .ok 0 s

/-- The capture orders of unit `u` that meet at frame `f` (R486, R487). -/
def runCaps (d : Dom) (f u : Nat) (l : List Deferred) (s : State) : State :=
  let cand := (l.filter fun x => isCapCode x.code && decide (x.arg = u)).map fun x =>
    (⟨x.code, decide (x.code = 0x0202), false, x.scope, x.code, x.origin, x.taken⟩ : OrderCand)
  let p := resolveOrders cand
  let s := p.2.foldl (fun s o => orderLost d f o.origin s) s
  p.1.foldl (fun s o => capOrder o.origin o.effect u f s) s

/-- Frame or sweep `f` of domain `d` begins: the orders that name it take effect, in the order of their stamps. -/
def runDeferred (d : Dom) (f : Nat) (s : State) : State :=
  let due (x : Deferred) : Bool := decide (x.dom = d) && decide (x.frame = f % 2 ^ 24)
  let lt (a b : Deferred) : Bool :=
    if a.taken = b.taken then a.origin.isMaster && !b.origin.isMaster else decide (a.taken < b.taken)
  let l := sortBy lt (s.hif.deferred.filter due)
  let s := { s with hif := { s.hif with deferred := s.hif.deferred.filter fun x => !due x } }
  let s := (List.range 4).foldl (fun s u => runCaps d f u l s) s
  (l.filter fun x => !isCapCode x.code).foldl (fun s x => runOther x s) s

/-! ### SWAP in a cascade (R127, R377) -/

/-- The parts below the master that take part in a SWAP of the cascade. -/
def swapParts (s : State) : List Nat := (mergeUnits s).filter fun a => !decide (a = 0)

/-- Whether the part is the master of a chain in operation. -/
def leadsChain (s : State) : Bool := isMaster s && inCascade s && s.trl.enumerated

/-- A frame number of the master in this part's numbering. -/
def localFrame (s : State) (f : Nat) : Nat := (f + (2 ^ 24 - s.trl.joinOff % 2 ^ 24)) % 2 ^ 24

/-- How frame `f` stands for a SWAP (R127 step 1): at least two frames ahead. -/
def swapJudge (s : State) (d : Dom) (f : Nat) : FrameOrder :=
  let c := ctxOf s d
  let cur := if c.begun then c.frame % 2 ^ 24 else 2 ^ 24 - 1
  let k := (f + (2 ^ 24 - cur)) % 2 ^ 24
  if k = 2 ^ 23 then .limit else if 2 ≤ k && decide (k < 2 ^ 23) then .ahead else .late

def domOf (fibre : Bool) : Dom := if fibre then .fibre else .lidar

/-- A selection that names frame `f` (R127 steps 1 and 2): staged here and, at the master of a chain, prepared in every
part (DEDUCED, log entry 43). -/
def swapTake (o : Origin) (fibre : Bool) (plan f scope : Nat) (t : Tick) (s : State) : State :=
  match swapJudge s (domOf fibre) f with
  | .limit => finish o .limit 0 s
  | .late => finish o .late 0 s
  | .ahead =>
    let chain := leadsChain s
    let x : Staged := { fibre := fibre, plan := plan, target := f, committed := false, scope := if chain then 1 else scope,
                        origin := o, taken := t, readies := if chain then swapParts s else [] }
    let s := { s with esq := { s.esq with staged := s.esq.staged ++ [x] } }
    if chain then sendMsg .dn (.swapPrepare fibre plan f) s else s

/-- Change the first staged SWAP that satisfies `p`. -/
def mapFirst (p : Staged → Bool) (g : Staged → Staged) (l : List Staged) : List Staged :=
  match l with
  | [] => []
  | x :: r => if p x then g x :: r else x :: mapFirst p g r

/-- A frame before the target begins: the master commits the SWAP when every ready came, else it cancels (R127 step 3)
(DEDUCED, log entry 43). -/
def swapDecide (d : Dom) (f : Nat) (s : State) : State :=
  let due (x : Staged) : Bool :=
    decide (x.fibre = isFibre d) && decide (x.target = (f + 1) % 2 ^ 24) && !x.committed && !x.origin.isMaster
      && decide (x.origin ≠ .internal)
  (s.esq.staged.filter due).foldl (fun s x =>
    let ok := x.readies.isEmpty
    let l := mapFirst (fun y => decide (y = x)) (fun y =>
      if ok then { y with committed := true } else { y with origin := .internal }) s.esq.staged
    let s := { s with esq := { s.esq with staged := l } }
    let s := if ok then s else finish x.origin .cancelled 0 s
    if x.scope = 1 && leadsChain s then sendMsg .dn (if ok then .swapCommit x.target else .swapCancel x.target) s else s) s

/-- A broadcast of the master goes on to the parts below (R363) (DEDUCED, log entry 32). -/
def passDown (m : LinkMsg) (s : State) : State := if isMaster s then s else sendMsg .dn m s

/-- Whether a broadcast of the master reaches this part: through an open UP port. -/
def hearsMaster (s : State) : Bool := !isMaster s && !s.plk.up.closed && s.plk.up.isOpen

/-- SWAP_PREPARE (R127 step 2, R377): this part arms, stages the plan and answers ready; a plan that the image lacks or a
target that is not ahead is not staged. -/
def onSwapPrepare (fibre : Bool) (plan : BitVec 4) (target : BitVec 24) (t : Tick) (s : State) : State :=
  let s := passDown (.swapPrepare fibre plan.toNat target.toNat) (received .up 1 5 (advance t s))
  let f := localFrame s target.toNat
  if hearsMaster s && planExists s fibre plan.toNat && decide (judgeFrame (ctxOf s (domOf fibre)) f = .ahead) then
    let x : Staged := { fibre := fibre, plan := plan.toNat, target := f, committed := false, scope := 1, origin := .master,
                        taken := t, readies := [] }
    toMaster (.swapReady s.trl.addr target.toNat) { s with esq := { s.esq with staged := s.esq.staged ++ [x] } }
  else s

/-- SWAP_READY (R127): a part has staged the plan; any part but the master passes it up. -/
def onSwapReady (addr : BitVec 4) (target : BitVec 24) (s : State) : State :=
  let s := received .dn 1 4 s
  if isMaster s then
    let l := mapFirst (fun x => decide (x.target = target.toNat) && x.readies.contains addr.toNat)
      (fun x => { x with readies := x.readies.filter fun a => !decide (a = addr.toNat) }) s.esq.staged
    { s with esq := { s.esq with staged := l } }
  else toMaster (.swapReady addr.toNat target.toNat) s

/-- SWAP_COMMIT (R127): the staged SWAP of the master is committed. -/
def onSwapCommit (target : BitVec 24) (s : State) : State :=
  let s := passDown (.swapCommit target.toNat) (received .up 1 3 s)
  let l := mapFirst (fun x => hearsMaster s && decide (x.target = localFrame s target.toNat) && x.origin.isMaster && !x.committed)
    (fun x => { x with committed := true }) s.esq.staged
  { s with esq := { s.esq with staged := l } }

/-- SWAP_CANCEL (R127): the SWAP is cancelled; its staging goes at the target frame, which it has no commit for
(DEDUCED, log entry 43). -/
def onSwapCancel (target : BitVec 24) (s : State) : State :=
  let s := passDown (.swapCancel target.toNat) (received .up 1 3 s)
  let p (x : Staged) : Bool := hearsMaster s && decide (x.target = localFrame s target.toNat) && x.origin.isMaster && !x.committed
  if s.esq.staged.any p then
    let l := mapFirst p (fun x => { x with origin := .internal }) s.esq.staged
    finish .master .cancelled 0 { s with esq := { s.esq with staged := l } }
  else s

/-! ### The boundary's items -/

/-- Frame or sweep `n` starts (R26): the epoch digest of the grant in force enters the tags; the generation is 1 from the
first one on (DESIGN CHOICE, log entry 60). -/
def ctxStart (d : Dom) (n : Nat) (s : State) : State :=
  let c := ctxOf s d
  let g := match d with | .lidar => s.esq.grant | .fibre => s.fib.grant
  setCtx d { c with frame := n, begun := true, gen := max 1 c.gen, digest := gDigest g } s

/-- FENCE, GRAFT and FLUSH items of a boundary, after the plans and before the CAL items (R128); a frame or sweep boundary
also remakes the M-tier allocation. -/
def insertUnits (d : Dom) (start : Bool) (s : State) : State :=
  let s := insertGrafts d start (insertFences d start s)
  if start && decide (sharedDom s = d) then mtRealloc s else s

/-! ### Meanings -/

/-- The meaning of this command: the step of `onSwapPrepare` (R127). -/
def execSwapPrepare (fibre : Bool) (plan : BitVec 4) (target : BitVec 24) (t : Tick) (s : State) : Host.Outcome State Fault Refusal :=
  .next (onSwapPrepare fibre plan target t s)

/-- The meaning of this command: the step of `onSwapReady` (R127). -/
def execSwapReady (addr : BitVec 4) (target : BitVec 24) (s : State) : Host.Outcome State Fault Refusal :=
  .next (onSwapReady addr target s)

/-- The meaning of this command: the step of `onSwapCommit` (R127). -/
def execSwapCommit (target : BitVec 24) (s : State) : Host.Outcome State Fault Refusal :=
  .next (onSwapCommit target s)

/-- The meaning of this command: the step of `onSwapCancel` (R127). -/
def execSwapCancel (target : BitVec 24) (s : State) : Host.Outcome State Fault Refusal :=
  .next (onSwapCancel target s)

end Sys2Proof.Machine
end

