-- ==== Sys2Proof/Machine/Lidar.lean ====
section
/-! DEFINITION. The lidar boundaries: the end of a column, its control items and the opening of the next (R22, R24, R83, R97,
R102, R112, R128, R129, R145, R154, R161), and the start of a frame (R108 to R113, R127, R130). -/

namespace Sys2Proof.Machine

/-! ### The end of a column -/

/-- The strips that the back has not finished when the front needs their buffers (R22, R162). -/
def loseWaiting (s : State) : State :=
  if s.hse.info.exists_ then
    s.hse.info.waiting.foldl (fun s k =>
      stripUnobs k s.hse.info.uLo true (fault 128 Src.hse k .corrected 0 (loseColumn k (stripTaken k s)))) s
  else s

/-- The verdict of an ended frame goes out before the next frame's column reaches the back (R159). -/
def verdictNow (t : Tick) (s : State) : State := if s.hse.verdictDue.isSome then onFieldVerdict t s else s

/-- The slots in which bank `b` fired in the column (R129). -/
def firedSlots (s : State) (b : Nat) : List Nat := (s.esq.shots.filter fun f => decide (f.bank = b) && f.fired).map (·.slot)

/-- The word of bank `b` in the column summary (R129). -/
def summaryWord (s : State) (b : Nat) : Nat :=
  let x := bankCol s b
  let l := firedSlots s b
  l.length % 64 + 2 ^ 6 * x.sGrant + 2 ^ 12 * x.sLedger + 2 ^ 18 * x.sSpace + 2 ^ 24 * x.level
    + 2 ^ 30 * b2n (!isAble s b) + 2 ^ 32 * (sumN (l.map (2 ^ ·)) % 2 ^ 32)

/-- The column summary (R129). -/
def columnSummary (s : State) : State :=
  let c := s.esq.col
  let f := s.esq.frame
  let fired := (s.esq.shots.filter (·.fired)).length
  let w1 := c.k % 65536 + 2 ^ 16 * b2n f.backward + 2 ^ 17 * b2n f.predicted + 2 ^ 18 * b2n c.held + 2 ^ 19 * (fired % 1024)
    + 2 ^ 32 * c.grant
  emit Src.esq 0 s.esq.ctx ((c.start % 2 ^ 64) :: w1 :: (List.range 16).map (summaryWord s)) s

/-- The 32 words of the reference histogram of channel `c` (R154). -/
def refWords (s : State) (c : Nat) : List Nat :=
  let h := Tab.lookD s.hse.refHist c []
  (List.range 32).map fun i => sumN ((List.range 4).map fun j => Tab.lookD h (4 * i + j) 0 * 2 ^ (16 * j))

/-- The TAE takes a reference column (R222): unfenced channels accumulate; the columns of able, unheld banks are counted;
after ref_accum columns the accumulation is ready. -/
def refColumn (t : Tick) (s : State) : State :=
  let n := rdf s Fld.TAE_REF_CFG_ref_accum
  if n = 0 then s
  else
    let s := if s.tae.refDue.isSome then onRefEvaluation t s else s
    let live (c : Nat) : Bool := !isFenced s (Unit.strip (c / 16))
    let bins := (List.range 512).foldl (fun t c =>
      match Tab.look s.hse.refHist c with
      | some h => if live c then Tab.upd t c [] (refAdd (walkOf s (Tab.lookD s.pfe.depth c 0)) h) else t
      | none => t) s.tae.refBins
    let cols := (List.range 512).foldl (fun t c =>
      if live c && isAble s (c / 32) && !s.esq.col.held then Tab.upd t c 0 (· + 1) else t) s.tae.refCols
    let k := s.tae.refCount + 1
    if n ≤ k then
      { s with tae := { s.tae with refBins := [], refCols := [], refCount := 0, refDue := some ⟨bins, cols, s.esq.ctx⟩ } }
    else { s with tae := { s.tae with refBins := bins, refCols := cols, refCount := k } }

/-- The end of a reference column: its histograms go to HSE stream 3 and to the TAE (R154, R222). -/
def refEmit (t : Tick) (s : State) : State :=
  if s.esq.col.refCol then
    let ws := ((List.range 512).flatMap (refWords s)).map (BitVec.ofNat 64)
    let s := refColumn t (emitX Src.hse 3 s.esq.ctx (if anyTest s then 64 else 0) ws s)
    { s with hse := { s.hse with refHist := [] } }
  else s

/-- The raw stamps of the selected strips become an item per strip (R218). -/
def rawItems (s : State) : State :=
  (List.range 32).foldl (fun s k =>
    let q := queueOf s 1 k
    if rawSelected s k then
      let s := if q.lost then loseBefore Src.tdc 2 s else s
      emitX Src.tdc 2 s.esq.ctx ((if stripTest s k then 64 else 0) + 4 * b2n (failing q.words ≠ 0)) (q.words.map (·.data))
        (takeAll 1 k s)
    else s) s

/-- Shots whose intervals or realigned stamps may still matter at `t` (R53, R55). -/
def keepShots (s : State) (t : Tick) (l : List Shot) : List Shot :=
  l.filter fun f => decide (t ≤ f.tick + max 131072 (guardPost s))

/-- The returns of the column the back holds, for the column after it in the same frame (R148). -/
def columnBins (s : State) : Tab (List Nat) :=
  let i := s.hse.info
  if i.exists_ && decide (i.ctx.frame = s.esq.ctx.frame) && decide (i.k + 1 = s.esq.col.k) then
    (List.range 512).map fun c => (c, returnBins (backView s) c)
  else []

/-- What the back learns of the column that ends at `t`, `ticks` being its quiet time. A strip whose item never came keeps its
lost_before mark for its next one (R28). -/
def endedInfo (s : State) (ticks : Nat) (t : Tick) : ColInfo :=
  let c := s.esq.col
  let f := s.esq.frame
  { exists_ := true, ctx := s.esq.ctx, k := c.k, backward := f.backward, predicted := f.predicted, held := c.held,
    able := c.able, plan := s.esq.plan.getD 0, uLo := (colSpan s c.k f.backward).1, depth := s.pfe.depth,
    nEn := s.pfe.prevEn, quietH := s.tdc.colQuiet, quietNs := ticks / 64, deferCanopy := c.deferCanopy,
    waiting := (List.range 32).filter fun k => !isFenced s (Unit.strip k),
    fenced := BitVec.ofNat 32 (s.fcl.fenced.toNat % 2 ^ 32),
    calib := BitVec.ofNat 32 ((List.range 32).foldl (fun a k => if stripTest s k then a + 2 ^ k else a) 0),
    poison := s.hse.poison, lost := [], endAt := t,
    marks := s.hse.lostFlag ++ s.hse.info.marks }

/-- The buffers are swapped (R137, R138): the back takes the column that ends, and the cells of fenced strips are
unobserved (R158). The foreign count, the marks of a frame's first events and the field evidence begin anew with the frame's
first column, whatever a discarded frame left (R46, R159); a follower's fenced strips send the leader empty data (R156)
(DEDUCED, log entry 59). -/
def swapBuffers (ticks : Nat) (t : Tick) (s : State) : State :=
  let bins := columnBins s
  let i := endedInfo s ticks t
  let old := s.hse.info.exists_ && decide (s.hse.info.ctx.frame = i.ctx.frame)
  let s := if old then s else { s with hse := { s.hse with
    foreign := 0, evForeign := false, evCand := false, inside := [], unobs := [], crc := [] } }
  let s := { s with hse := { s.hse with
    lastBins := bins, back := s.hse.bufs, bufs := [], info := i, prevQuietH := i.quietH, prevQuietNs := i.quietNs,
    poison := 0, lostFlag := [], follower := [], winRecv := [], mergeMiss := false } }
  ((List.range 32).filter fun k => isFenced s (Unit.strip k)).foldl (fun s k =>
    let s := stripUnobs k i.uLo true s
    if s.hse.role = .follower then
      (List.range 16).foldl (fun s c => toPartner (.deepHist (16 * k + c) ⟨[], [], [], 0, 0, 0, 0⟩) s) s
    else s) s

/-- The TDC's counter sets are swapped (R54, R56). -/
def swapCounts (s : State) : State :=
  let s := graftCommit s
  { s with tdc := { s.tdc with prevCounts := s.tdc.colCounts, colCounts := [], quiet := s.tdc.colQuiet, colQuiet := [] } }

/-- The column in progress ends at `t`. -/
def colEnd (t : Tick) (s : State) : State :=
  if s.esq.col.active then
    let s := verdictNow t (loseWaiting s)
    let ticks := quietTicks s s.esq.col.start t
    let s := graftColumn (graftQuiet t s)
    let s := pfeSwap s.esq.ctx ticks s
    let s := columnSummary s
    let s := refEmit t s
    let s := rawItems (closePacks s)
    let s := swapCounts (swapBuffers ticks t s)
    { s with esq := { s.esq with
      col := { s.esq.col with active := false },
      prevShots := keepShots s t (s.esq.prevShots ++ s.esq.shots.filter (·.fired)),
      partnerShots := keepShots s t s.esq.partnerShots, shots := [] } }
  else closePacks s

/-- The channel-columns of the columns that a cut frame does not make are unobserved (R159). -/
def unmadeUnobs (s : State) : State :=
  let k := s.esq.col.k
  let f := s.esq.frame
  let us := (List.range (planK s - (k + 1))).map fun i => (colSpan s (k + 1 + i) f.backward).1
  (List.range 8).foldl (fun s n =>
    match fieldSet s n with
    | none => s
    | some r => addUnobs n (sumN (us.map fun u => ((List.range 512).filter fun c => inBand r c u).length)) s) s

/-- The frame in progress ends: its verdict falls due, and in a personality without fibre the FDC's items are of it
(R159, R214). -/
def frameEnd (s : State) : State :=
  if s.esq.frame.active then
    let s := unmadeUnobs s
    let c := s.esq.ctx
    let s := cloFrameEnd c.frame s
    let s := { s with
      hse := { s.hse with verdictDue := some c },
      esq := { s.esq with frame := { s.esq.frame with active := false }, settle := s.esq.settle - 1 } }
    if hasFibre s then s else { s with fdc := { s.fdc with ctx := c } }
  else s

/-! ### Control items and calibration at a boundary -/

/-- The band in force for the lidar producers (R340): that of their grant. -/
def bandInForce (s : State) : Nat := if s.esq.grant.isEmpty then gBand s.ala.grant else gBand s.esq.grant

/-- The tick at which strip `k` falls due (R62, R65). -/
def calDueAt (s : State) (k : Nat) : Tick :=
  let c := calOf s k
  let n := calInterval (bandInForce s)
  if c.starvedAt.isSome then c.due + n
  else if c.kind = .startup then s.tdc.calEnd + (k + 1) * n / 32
  else c.start + n

/-- The boundary at which a strip starved is noted (R62). -/
def noteStarved (t : Tick) (s : State) : State :=
  { s with tdc := { s.tdc with strips := s.tdc.strips.map fun e =>
    (e.1, if e.2.starvedAt.isSome && decide (e.2.due = 0) then { e.2 with due := t } else e.2) } }

/-- The strips in a calibration cycle. -/
def inCycle (s : State) : Nat := ((List.range 32).filter fun k => decide ((calOf s k).phase ≠ .idle)).length

/-- Cycles start for the strips that are due, lowest-numbered first, up to cal_concurrency (R65) (DEDUCED, log entry 54). -/
def startDue (t : Tick) (s : State) : State :=
  (List.range 32).foldl (fun s k =>
    let req := (rd s Reg.TDC_CAL_REQ).getLsbD k
    if !isFenced s (Unit.strip k) && decide ((calOf s k).phase = .idle) && (req || decide (calDueAt s k ≤ t))
        && decide (inCycle s < rdf s Fld.TDC_CAL_TIMING_concurrency) then
      startCycle k .running t s
    else s) s

/-- The CAL item of the skews of strip `k`, of source TAE in the strip's streams (R137, R223): its tag names the TAE
(DEDUCED, log entry 62). -/
def calSkews (k : Nat) (s : State) : State :=
  ((liveStreams s Src.hse).filter fun n => decide (n ≤ 3)).foldl (fun s n =>
    routeItem Src.hse n true (mkTag s s.esq.ctx Src.tae 0x3F (flagsOf s s.esq.ctx Src.tae 0x3F (2 * b2n (degradedOf s Src.hse n))))
      [ctlWord 8 0 k] s) s

/-- The skews that the TAE posted apply with their CAL items (R137, R223). -/
def applySkews (s : State) : State :=
  (List.range 32).foldl (fun s k =>
    match Tab.look s.tae.skewPost k with
    | none => s
    | some l =>
      calSkews k { s with
        tae := { s.tae with skewPost := Tab.del s.tae.skewPost k },
        hse := { s.hse with skew := l.foldl (fun t p => Tab.put t p.1 p.2) s.hse.skew } }) s

/-- The CAL items of a boundary, by source (R25, R128), and the calibration cycles that start with it
(DEDUCED, log entries 42 and 54). -/
def insertCals (t : Tick) (s : State) : State :=
  eligible (startDue t (noteStarved t (applySkews (applyAllCal s))))

/-- Mirror set-points of the plan in force (R113). -/
def planMirror (s : State) : Nat × Nat := (pf s 0x18 0 16, pf s 0x18 16 16)

/-- The plan in force has changed: the loops take its fields (R104), and a change of the mirror's set-points holds emission
for its first settle frames (R113). -/
def planTaken (s : State) : State :=
  let m := planMirror s
  let moved := s.esq.mirror.any fun x => !decide (x = m)
  let s := { s with esq := { s.esq with mirror := some m, settle := if moved then pf s 0x24 16 4 else s.esq.settle } }
  match s.esq.plan.bind (scanPlan s) with
  | some r => cleTakePlan r s
  | none => s

/-- The control items of a lidar boundary at `t`, in the order of R128, with the orders for the scan plan that apply; the
PFE's turn follows them (R97). A PLAN
drops the frames that earlier indices would start (R113) (DEDUCED, log entry 42). -/
def lidarItems (start : Bool) (t : Tick) (s : State) : State × List OrderCand :=
  let p := takePlans .lidar start (insertGrant .lidar s)
  let plan := p.2.any fun o => !o.swap
  let s := if p.2.isEmpty then p.1 else planTaken p.1
  let s := if plan then { s with esq := { s.esq with pend := [], minStamp := t } } else s
  (pfeTurn (insertFlushes .lidar (insertCals t (insertUnits .lidar start s))), p.2)

/-! ### The opening of a column -/

/-- The banks able in the column that opens (R102). -/
def ableBanks (s : State) (held : Bool) : BitVec 16 :=
  if held || !hasLidar s then 0
  else BitVec.ofNat 16 ((List.range 16).foldl (fun a b =>
    if bitB (pf s 0x24 0 16) b && bitB (rdf s Fld.ESQ_BANK_PRESENT_mask) b && !isFenced s (Unit.bank b)
        && (!isFenced s (Unit.strip (2 * b)) || !isFenced s (Unit.strip (2 * b + 1)))
    then a + 2 ^ b else a) 0)

/-- Deferred columns are counted (R145, R161). -/
def deferCounts (s : State) : State :=
  let c := s.esq.col
  let s := if c.deferFine then bumpAt Reg.HSE_DEFER_COUNT 0 16 1 s else s
  if c.deferCanopy then
    let s := bumpAt Reg.HSE_DEFER_COUNT 16 16 1 s
    if s.hse.evCanopy then s else raise 135 { s with hse := { s.hse with evCanopy := true } }
  else s

/-- Column `k` opens at `start` (R97, R102, R112, R123). `first` marks column 0 of frame 0. -/
def openColumn (k : Nat) (start : Tick) (first : Bool) (s : State) : State :=
  let s := { s with
    tdc := { s.tdc with colCounts := [], colQuiet := [] },
    hse := { s.hse with bufs := [], refHist := [] } }
  let s := pfeOpen s
  let held := s.esq.frame.held
  let g := s.esq.grant
  let rp := pf s 0 24 8
  let s := { s with esq := { s.esq with
    nCol := if first then 0 else s.esq.nCol + 1,
    shots := [],
    col := { active := true, k := k, start := start, nomEnd := colStartOf s (k + 1), held := held, able := ableBanks s held,
             grant := gShot g, left := gShot g, refCol := decide (rp ≠ 0) && decide (k % rp = 0), slotNext := 0,
             deferFine := gDefer g 5, deferCanopy := gDefer g 4 },
    banks := (List.range 16).map fun b => (b, { level := planNmin s b }) } }
  let s := { s with pfe := { s.pfe with meterCol := s.esq.nCol } }
  windowStarts 1 0 start (alignBoundary (deferCounts s))

/-- Acquisition is stopped (R46, R344, R345, R505): from the first boundary on no column, frame or sweep begins until the
fatal state is over. -/
def acqStopped (s : State) : Bool := s.esq.stopped || s.hkp.orderly || s.hkp.hardCut

/-- COLUMN_BOUNDARY (R24): column `k` ends where column `k + 1` of the frame begins. A stop ends the frame here (R344). -/
def onColumnBoundary (t : Tick) (s : State) : State :=
  let s := advance t s
  let k := s.esq.col.k + 1
  let b := colStartOf s k
  if s.esq.frame.active && s.esq.col.active && decide (k < planK s) && decide (b ≤ t) then
    let s := colEnd b s
    let s := if (planOrders .lidar false s).isEmpty && !acqStopped s then s else frameEnd s
    let s := (lidarItems false b s).1
    if s.esq.frame.active then openColumn k b false s else s
  else s

/-! ### The start of a frame -/

/-- A SWAP at a frame start: the frames that later indices start follow the new plan (R110, R127) (DEDUCED, log entry 42). -/
def reschedule (s : State) : State :=
  let later := s.esq.pend.filter fun f => !f.backward
  later.foldl (fun s f => scheduleFrames f.stamp f.predicted f.realPair s) { s with esq := { s.esq with pend := [] } }

/-- Whether the frame is held for missing indices, and the event when the hold begins (R111). -/
def missHold (p : PendFrame) (s : State) : State :=
  if p.predicted && decide (pf s 0x0C 22 3 < p.misses) then
    if s.esq.holdMiss then s
    else fault 153 Src.esq 0 .corrected 0 { s with esq := { s.esq with holdMiss := true } }
  else if !p.predicted && p.realPair then { s with esq := { s.esq with holdMiss := false } }
  else s

/-- The period of the frame (R108): without a valid one the frame runs on p_nom, with the event. -/
def periodEvent (nominal : Bool) (s : State) : State :=
  if nominal then stick Reg.ESQ_STICKY 1 (fault 154 Src.esq 0 .corrected 0 s) else s

/-- The frame-start item (R130). -/
def frameItem (s : State) : State :=
  let f := s.esq.frame
  let w := (s.esq.plan.getD 0) % 16 + 2 ^ 4 * b2n f.backward + 2 ^ 5 * b2n f.predicted + 2 ^ 6 * b2n f.nominal
    + 2 ^ 7 * b2n f.held + 2 ^ 8 * min 255 f.misses
  emit Src.esq 1 s.esq.ctx [f.start % 2 ^ 64, f.stamp % 2 ^ 64, f.period % 2 ^ 64, w] s

/-- The per-frame marks of the blocks begin anew. -/
def frameMarks (s : State) : State :=
  { s with
    esq := { s.esq with evLedger := false, evGrant := false, evSpace := false },
    hse := { s.hse with evCanopy := false },
    pfe := { s.pfe with satFrame := false } }

/-- What follows from the beginning of frame `n`: SWAP decisions, orders that name it, the capture units, the tines, the
forwarded streams and the Cloche. -/
def frameFollows (n : Nat) (s : State) : State :=
  let g := s.esq.grant
  let s := tinBoundary false n g (capBoundary false n g (capStart false s))
  let s := fwdBegin .lidar n (runDeferred .lidar n (swapDecide .lidar n s))
  cloFrameBegin n s

/-- Frame or sweep 0 begins at `t`: the first epoch that starts at or after it counts the schedule (R334)
(DEDUCED, log entry 39). -/
def fixBase (t : Tick) (s : State) : State :=
  { s with ala := { s.ala with base := some (s.ala.base.getD ((t + epochTicks - 1) / epochTicks)) } }

/-- The frame of `p` begins (R108, R110 to R112). -/
def frameBegin (p : PendFrame) (s : State) : State :=
  let first := !s.esq.ctx.begun
  let n := nextNum s.esq.ctx
  let per := choosePeriod s
  let s := periodEvent per.2 (missHold p s)
  let held := per.2 || s.esq.holdMiss || decide (s.esq.settle ≠ 0)
  let s := { s with esq := { s.esq with frame := {
    active := true, start := p.at_, stamp := p.stamp, period := per.1, half := decide (pf s 0 4 1 = 1), nominal := per.2,
    backward := p.backward, predicted := p.predicted, misses := p.misses, held := held } } }
  let s := ctxStart .lidar n (scheduleBack p per.1 s)
  let s := if s.tb.warm && s.tb.warmL.isNone then { s with tb := { s.tb with warmL := some n } } else s
  let s := frameItem (frameMarks (if n = 0 then fixBase p.at_ s else s))
  openColumn 0 p.at_ first (frameFollows n s)

/-- A frame boundary at the start of pending frame `p`: the column and the frame in progress end, in a personality without fibre the
items of CLE and ASF close (R282, R293), the control items are inserted, and the frame begins unless a PLAN is inserted (R113) or acquisition is stopped. -/
def frameBoundary (p : PendFrame) (s : State) : State :=
  let s := frameEnd (colEnd p.at_ s)
  let s := if hasFibre s then s else auxItems s.esq.ctx s
  let s := { s with esq := { s.esq with pend := s.esq.pend.drop 1 } }
  let s := if s.esq.mirror.isNone then planTaken s else s
  let r := lidarItems true p.at_ s
  if acqStopped s || r.2.any fun o => !o.swap then r.1
  else frameBegin p (if r.2.isEmpty then r.1 else reschedule r.1)

/-- FRAME_START (R110): the next pending frame starts; frame 0 starts with FIRST_FRAME_START. -/
def onFrameStart (t : Tick) (s : State) : State :=
  let s := advance t s
  match s.esq.pend with
  | p :: _ => if s.boot.step = 12 && hasLidar s && decide (p.at_ ≤ t) then frameBoundary p s else s
  | [] => s

/-! ### Meanings -/

/-- The meaning of this command: the step of `onColumnBoundary` (R24). -/
def execColumnBoundary (t : Tick) (s : State) : Host.Outcome State Fault Refusal :=
  .next (onColumnBoundary t s)

/-- The meaning of this command: the step of `onFrameStart` (R110). -/
def execFrameStart (t : Tick) (s : State) : Host.Outcome State Fault Refusal :=
  .next (onFrameStart t s)

end Sys2Proof.Machine
end

