-- ==== Sys2Proof/Machine/Sweep.lean ====
section
/-! DEFINITION. The fibre sweep boundary (R24, R172, R177 to R183, R189, R192, R193, R282, R293): the end of a sweep, the
control items, and the start of the next. -/

namespace Sys2Proof.Machine

/-! ### The boundary's time (R179, R180) -/

/-- The first TB edge at or after `x`. -/
def ceilEdge (s : State) (x : Nat) : Nat := x + (((s.tb.phi - (x : Int)) % 64)).toNat

/-- The next sweep boundary and whether it was predicted, as far as it is known. -/
def nextBoundary (s : State) (t : Tick) : Option (Tick × Bool) :=
  if fp s 0 4 1 = 1 then s.fib.nextB
  else
    let n := sweepTicks s
    if n = 0 then none
    else if s.fib.active then some (ceilEdge s ((s.fib.start / n + 1) * n), false)
    else some (ceilEdge s (t / n * n), false)

/-! ### The end of a sweep -/

/-- The largest magnitude below −12 dBFS: 2,048 × 10^(−12/20) is 514.4. -/
abbrev lowPeak : Nat := 514

/-- The attenuation that the sweep just ended asks for input `i` (R177). -/
def autoAtt (s : State) (i : Nat) : AinSt :=
  let x := ainOf s i
  let hi := fp s 0x14 8 8
  let low := fp s 0x14 16 8
  let base := fp s 0x14 (2 * i) 2
  let run := if x.peak ≤ lowPeak then x.lowRun + 1 else 0
  if fp s 0 6 1 = 0 then { x with lowRun := 0 }
  else if decide (hi ≠ 0) && decide (hi < x.clip) && decide (x.att < 3) then { x with att := x.att + 1, lowRun := 0 }
  else if decide (low ≠ 0) && decide (low ≤ run) && decide (base < x.att) then { x with att := x.att - 1, lowRun := 0 }
  else { x with lowRun := run }

/-- The sweep in progress ends at `b`: its Raman sums unless their window still runs, the context of the FDC's items where no slot
gives one (R179) and its quality item (R189, R196). -/
def sweepEnd (b : Tick) (s : State) : State :=
  if s.fib.active then
    let c := s.fib.ctx
    let s := if ramanOver s b then ramanClose s else s
    let s := if fp s 0 8 4 = 0 then { s with fdc := { s.fdc with ctx := c } } else s
    match Tab.look s.fib.infos c.frame with
      | some x => qualityItem c.frame (setInfo c.frame { x with closed := true } s)
      | none => s
  else s

/-- The items of CLE, ASF and, in a personality without lidar, TSU that close at a sweep boundary (R71, R282, R293). -/
def sweepItems (s : State) : State :=
  let s := auxItems s.fib.ctx s
  if hasLidar s then s else closePacks s

/-! ### The control items -/

/-- A change of the fibre plan clears every per-position state (R181); the old one serves the slots still to be processed. -/
def fibPlanTaken (s : State) : State :=
  { s with fib := { s.fib with
    posOld := s.fib.pos, pos := [], run := s.fib.run + 1, noise := [], trace := [], evalDue := false, endPos := none,
    endRef := none, beyond := false, beyondEv := false, short := false, length := 0, zones := zonesKept s, survey := [],
    surveyTest := false, misses := 0, nextB := none, dts := { s.fib.dts with ramanDue := [] } } }

/-- The control items of a sweep boundary in the order of R128; the answer says whether the plan changed
(DEDUCED, log entry 42). -/
def fibreItems (s : State) : State × Bool :=
  let s := if (planOrders .fibre true s).isEmpty then s else dtsEarly s
  let p := takePlans .fibre true (insertGrant .fibre s)
  let s := if p.2.isEmpty then p.1 else fibPlanTaken p.1
  (insertFlushes .fibre (applyPairs (insertUnits .fibre true s)), !p.2.isEmpty)

/-! ### The start of a sweep -/

/-- The tones the grant in force allows (R183). -/
def grantedTones (s : State) : Nat :=
  let n := fp s 0 8 4
  let g := gTones s.fib.grant
  if n = 0 || g = 0 then 0
  else (List.range n).foldl (fun a i => if i % (n / min n g) = 0 then a + 2 ^ i else a) 0

/-- The `k`-th tone of a mask, counted modulo its tones (R185). -/
def nthTone (m k : Nat) : Nat :=
  let l := (List.range 8).filter (bitB m)
  if l.isEmpty then 0 else 2 ^ l.getD (k % l.length) 0

/-- The attenuations at the boundary (R177, R178): the plan's at a change of plan, else what the sweep asked for; a change
marks the range-step samples and ends a temperature profile early. -/
def takeAtts (newPlan : Bool) (wanted : List AinSt) (s : State) : State :=
  let next (i : Nat) : AinSt :=
    let x := wanted.getD i {}
    if newPlan then { x with att := fp s 0x14 (2 * i) 2, lowRun := 0 } else x
  let moved := (List.range 4).filter fun i => decide ((next i).att ≠ (ainOf s i).att)
  let s := if moved.any fun i => decide (2 ≤ i) then dtsEarly s else s
  let s := (List.range 4).foldl (fun s i => setAin i { next i with clip := 0, peak := 0 } s) s
  let s := { s with fib := { s.fib with rangeLeft := moved.foldl (fun t i =>
    (convsOf i).foldl (fun t c => Tab.put t c 66) t) s.fib.rangeLeft } }
  if moved.isEmpty then s else raise 161 s

/-- Converters that were fenced or grafted since the last boundary (R172): an input runs on one converter, a standby takes
over and ends the profile early. -/
def takeConverters (s : State) : State :=
  let r := (List.range 2).map (ramanConv s)
  let s := if r = s.fib.raman then s else dtsEarly s
  { s with fib := { s.fib with raman := r, single := singleMask s } }

/-- The hold of R180 at a boundary. -/
def sweepHold (predicted : Bool) (s : State) : State :=
  let real := decide (fp s 0 4 1 = 1) && !predicted
  { s with fib := { s.fib with
    hold := if fp s 0 4 1 = 0 || (real && s.fib.lastReal) then false else s.fib.hold,
    lastReal := real, predicted := predicted } }

/-- The tones of the sweep (R183, R185, R192), with the event of a first reduced limit. -/
def sweepTones (k : Nat) (s : State) : State :=
  let dp := fp s 0x14 24 8
  let dark := decide (k = 0) || (decide (dp ≠ 0) && decide (k % dp = 0))
  let m := grantedTones s
  let limited := decide (gTones s.fib.grant < fp s 0 8 4)
  let fired := if dark || s.fib.hold then 0 else if fp s 0 5 1 = 1 then nthTone m k else m
  let s := if limited && !s.fib.limited then raise 174 s else s
  { s with fib := { s.fib with fired := fired, limited := limited, dark := dark } }

/-- The Raman gate of dts_mode 2 opens raman_off after the boundary `b`, in every sweep that is neither dark nor held (R179, R195). -/
def ramanSchedule (b : Tick) (s : State) : State :=
  if (ramanGate s).isSome && !s.fib.dark && !s.fib.hold then
    { s with fib := { s.fib with dts := { s.fib.dts with ramanDue := s.fib.dts.ramanDue ++ [b + 64 * fp s 0x20 0 20] } } }
  else s

/-- The record of sweep `n` for the back. -/
def sweepInfo (n k : Nat) (s : State) : State :=
  let p := s.fib.plan.getD 0
  let lost (i : Nat) : BitVec 16 := BitVec.ofNat 16 ((List.range 8).foldl (fun a t => if polLost s p i t then a + 2 ^ t else a) 0)
  setInfo n { ctx := s.fib.ctx, start := s.fib.start, plan := p, run := s.fib.run, k := k, fired := s.fib.fired, dark := s.fib.dark, noX := lost 0,
              noY := lost 1, test := fibTest s } s

/-- What follows from the beginning of sweep `n`: SWAP decisions, orders that name it, the capture units, the tines and the
forwarded streams. -/
def sweepFollows (n : Nat) (s : State) : State :=
  let g := s.fib.grant
  let s := tinBoundary true n g (capBoundary true n g (capStart true s))
  fwdBegin .fibre n (runDeferred .fibre n (swapDecide .fibre n s))

/-- The sweep that starts at `b`, its number within the plan run being `k`. -/
def sweepBegin (b : Tick) (predicted newPlan : Bool) (wanted : List AinSt) (s : State) : State :=
  let n := nextNum s.fib.ctx
  let first := !s.fib.ctx.begun
  let k := if newPlan || first then 0 else s.fib.k + 1
  let s := ctxStart .fibre n s
  let s := if s.tb.warm && s.tb.warmF.isNone then { s with tb := { s.tb with warmF := some n } } else s
  let s := if n = 0 then fixBase b s else s
  let s := takeConverters (takeAtts (newPlan || first) wanted s)
  let due := s.fib.evalDue || (decide (k % 256 = 0) && decide (k ≠ 0))
  let s := { s with fib := { s.fib with
    active := true, start := b, k := k, n := n, nextB := none, evClip := false, evalDue := due } }
  let s := ramanSchedule b (sweepTones k (sweepHold predicted s))
  windowStarts 2 0 b (alignBoundary (sweepFollows n (sweepInfo n k s)))

/-- A sweep boundary at `b`. In a stop the sweep ends and no other begins (R344). -/
def sweepBoundary (b : Tick) (predicted : Bool) (s : State) : State :=
  let wanted := (List.range 4).map (autoAtt s)
  let clipped := s.fib.ain.any fun e => decide (e.2.clip ≠ 0)
  let s := flushSamples (sweepItems (sweepEnd b s))
  let r := fibreItems s
  if acqStopped s then
    let s := r.1
    { s with fib := { s.fib with active := false, nextB := none, gates := 0, gateEnds := [], fired := 0, dark := false } }
  else
    let s := sweepBegin b predicted r.2 wanted r.1
    { s with fib := { s.fib with hadClip := clipped } }

/-- SWEEP_BOUNDARY (R179, R180): the next sweep starts; sweep 0 starts with FIRST_FRAME_START. -/
def onSweepBoundary (t : Tick) (s : State) : State :=
  let s := advance t s
  match nextBoundary s t with
  | some (b, p) => if s.boot.step = 12 && hasFibre s && s.fib.plan.isSome && decide (b ≤ t) then sweepBoundary b p s else s
  | none => s

/-! ### Meanings -/

/-- The meaning of this command: the step of `onSweepBoundary` (R179). -/
def execSweepBoundary (t : Tick) (s : State) : Host.Outcome State Fault Refusal :=
  .next (onSweepBoundary t s)

end Sys2Proof.Machine
end

