-- ==== Sys2Proof/Machine/Hkp.lean ====
section
/-! DEFINITION. The time base's events (R42 to R47), housekeeping rounds (R336 to R347), stops (R344, R345), and boot halt
(R454). -/

namespace Sys2Proof.Machine

/-! ### Stops -/

/-- The stamps of the column in progress go with it: the strips' channel and raw-stamp queues, the TSU's queues and the items
being packed (R46). -/
def discardStamps (s : State) : State :=
  { s with
    qsy := { s.qsy with queues := s.qsy.queues.filter fun e => !decide (e.1 < 3 * 1024) },
    tsu := { s.tsu with chans := s.tsu.chans.map fun e => (e.1, { e.2 with pack := [], packBad := false }) } }

/-- The column and the sweep in progress are discarded (R46, R344, R345). -/
def discardRunning (s : State) : State :=
  let s := discardStamps s
  { s with
    esq := { s.esq with frame := { s.esq.frame with active := false }, col := { s.esq.col with active := false }, shots := [],
                        pend := [] },
    hse := { s.hse with bufs := [], refHist := [], poison := 0 },
    tdc := { s.tdc with colCounts := [], colQuiet := [] },
    fib := { s.fib with active := false, gates := 0, gateEnds := [], fired := 0, nextB := none,
                        infos := Tab.del s.fib.infos s.fib.ctx.frame,
                        dts := { s.fib.dts with open_ := false, cur := {}, curBad := false, ramanDue := [] } } }

/-- Every loop drive output and fire output is at logic 0 (R345). -/
def drivesLow (s : State) : State :=
  { s with esq := { s.esq with fires := [] }, cle := { s.cle with loops := s.cle.loops.map fun e => (e.1, { e.2 with drv := false }) } }

/-- The orderly stop of cause `c` (R344), found at supply monitor `m` when c = 2: EVT 269, and the Cloche is informed
(DEDUCED, log entry 41). -/
def orderlyStop (c m : Nat) (s : State) : State :=
  let s := fault 269 Src.hkp m .fatal 0 (partStop (orderlyStart s))
  { s with hkp := { s.hkp with cause := c, monitor := m } }

/-- The hard cut of cause `c` (R345): outputs low, the running column and sweep discarded, the stopping grant in force
(DEDUCED, log entry 41). -/
def hardCut (c m : Nat) (s : State) : State :=
  let s := fault 270 Src.hkp m .fatal 0 (partStop (drivesLow (discardRunning s)))
  installStop (epochNow s) stopHolds { s with
    hkp := { s.hkp with hardCut := true, cause := c, monitor := m, stopAt := now s },
    esq := { s.esq with stopped := true } }

/-- Start-up ends in boot halt (R454); no image runs any more (R461) (DEDUCED, log entry 20). -/
def bootHalt (s : State) : State :=
  let s := partStop (drivesLow (discardRunning s))
  { s with boot := { s.boot with
    step := 15, candidates := [], running := 0, fallback := false, imgGen := 0, secVer := 0, keySlot := 0, digest := [] } }

/-- SUPPLY_COLLAPSE (R342, R345, R523): a collapse starts the hard cut; before start-up step 5 it ends start-up in boot halt.
VSPAD's monitor M8 has no collapse. -/
def onSupplyCollapse (monitor : Fin 12) (t : Tick) (s : State) : State :=
  let s := advance t s
  if (monitor : Nat) = 8 then s
  else
  let x := Tab.lookD s.hkp.supply monitor {}
  let s := { s with hkp := { s.hkp with supply := Tab.put s.hkp.supply monitor { x with collapse := true } } }
  if s.hkp.hardCut || decide (s.boot.step = 15) then s
  else if s.boot.step < 6 then bootHalt { s with hkp := { s.hkp with cause := 4, monitor := monitor } }
  else hardCut 4 monitor s

/-- t_STOPMAX in ticks. -/
abbrev stopMaxTicks : Nat := 128000000

/-- STOP_DEADLINE (R344 step 3): a column or sweep that still runs t_STOPMAX after the decision is discarded. -/
def onStopDeadline (t : Tick) (s : State) : State :=
  let s := advance t s
  if s.hkp.orderly && decide (s.hkp.stopAt + stopMaxTicks ≤ t) then discardRunning s else s

/-- A queue drains its started packet; a FLUSH discards the rest (R344 step 4) (DEDUCED, log entry 41). -/
def cutQueue (e : Nat × Queue) (s : State) : State :=
  let q := e.2
  let p := flushWords (fun _ => true) q.curTag q.mid (q.words ++ q.held)
  let g := e.1 / 1024
  let i := e.1 % 1024
  let s := countFlushed p.2 (setQueue g i { q with words := p.1, held := [] } s)
  if p.2 ≠ 0 && g = 4 then loseBefore (rdf s (Fld.HIF_STREAM_MAP_source i)) (rdf s (Fld.HIF_STREAM_MAP_stream i)) s else s

/-- QUEUE_DRAIN_DONE (R344 steps 4 and 5): what the queues still hold is discarded, and P1 to P8 and P10 are held
(DEDUCED, log entry 41). -/
def onQueueDrainDone (t : Tick) (s : State) : State :=
  let s := advance t s
  if s.hkp.orderly && !s.hkp.drained then
    let s := (s.qsy.queues.filter fun e => decide (4 * 1024 ≤ e.1)).foldl (fun s e => cutQueue e s) s
    installStop (epochNow s) stopHolds { s with hkp := { s.hkp with drained := true } }
  else s

/-! ### The time base (R42 to R47) -/

/-- TB_PLL_LOCKED (R44, R46, R47): the PLL locks, from then on the counter runs; or it locks again after a loss
(DESIGN CHOICE, log entry 60). -/
def onTbPllLocked (s : State) : State :=
  if s.tb.enabled && !s.tb.pllLock then
    raise 32 { s with tb := { s.tb with pllLock := true, refOk := true, holdover := false, everLock := true, running := true } }
  else s

/-- TB_PLL_LOCK_TIMEOUT (R44, R453): the PLL has not locked 10 ms after its enable. -/
def onTbPllLockTimeout (s : State) : State :=
  if s.tb.enabled && !s.tb.everLock && decide (s.boot.step ≠ 15) then bootHalt (fault 6 Src.boot 0 .fatal 0 s) else s

/-- What loss of lock and loss of reference share (R46) (DEDUCED, log entry 40). -/
def tbLost (evt bit : Nat) (s : State) : State :=
  let s := stick Reg.TBS_STICKY bit (bump Reg.TBS_LOCK_COUNT 1 (fault evt Src.tbs 0 .fatal 0 s))
  discardRunning { s with tb := { s.tb with pllLock := false, holdover := true }, esq := { s.esq with stopped := true } }

/-- TBS_PLL_LOCK_LOST (R45, R46). -/
def onTbsPllLockLost (t : Tick) (s : State) : State :=
  let s := advance t s
  if s.tb.everLock && s.tb.pllLock then tbLost 33 0 s else s

/-- TBS_REF_LOST (R45, R46). -/
def onTbsRefLost (t : Tick) (s : State) : State :=
  let s := advance t s
  if s.tb.everLock && s.tb.refOk then
    let s := tbLost 34 1 s
    { s with tb := { s.tb with refOk := false } }
  else s

/-- The rounds of warm_hold. -/
def warmRounds (s : State) : Nat := 500 * rdf s Fld.TBS_WARM_CFG_warm_hold

/-- TBS_WARM (R42, R43): the hold has lasted warm_hold; warm sets and stays. -/
def onTbsWarm (s : State) : State :=
  if s.tb.started && !s.tb.warm && decide (warmRounds s ≤ s.tb.held) then
    raise 35 { s with tb := { s.tb with warm := true } }
  else s

/-- The warm criterion of a round (R42, R43) (DEDUCED, log entry 40). -/
def warmRound (s : State) : State :=
  if !s.tb.everLock then s
  else
    let x := (loopOf s 6).hkDuty
    let d : Rat := if x.2 = 0 then 0 else (100 * x.1 : Rat) / x.2
    let ref := if s.tb.started then s.tb.refDuty else d
    let s := { s with tb := { s.tb with started := true, duty := d, refDuty := ref } }
    if decide (rdf s Fld.TBS_WARM_CFG_oven_mode = 0) || decide (absQ (d - ref) ≤ (rdf s Fld.TBS_WARM_CFG_warm_band : Rat) / 10) then
      { s with tb := { s.tb with held := s.tb.held + 1 } }
    else
      let s := { s with tb := { s.tb with held := 0, refDuty := d } }
      if s.tb.warm then stick Reg.TBS_STICKY 2 (fault 36 Src.tbs 0 .corrected 0 s) else s

/-! ### Sensors (R337 to R340) -/

/-- T_hot in 0.25 K. -/
abbrev tHot : Int := 600

def sensorOf (s : State) (i : Nat) : SensorSt := Tab.lookD s.hkp.sensors i {}

def setSensor (i : Nat) (x : SensorSt) (s : State) : State := { s with hkp := { s.hkp with sensors := Tab.put s.hkp.sensors i x } }

/-- A sensor's round (R337). -/
def sensorRound (i : Nat) (r : SensorReading) (s : State) : State :=
  let x := sensorOf s i
  let stuck := if x.stuck = 0 || x.count ≠ r.count then 1 else min 8 (x.stuck + 1)
  let broken := !r.plausible || decide (8 ≤ stuck)
  let s := setSensor i { x with reading := if broken then tHot else r.reading, count := r.count, stuck := stuck, broken := broken } s
  if broken && !x.broken then
    stick Reg.HKP_STICKY 1 (bumpAt Reg.HKP_SENSOR_FAULTS 0 8 1 (fault 266 Src.hkp 0 .corrected i s))
  else s

/-- The median of three readings. -/
def median3 (a b c : Int) : Int := max (min a b) (min (max a b) c)

def nbhdOf (s : State) (n : Nat) : NbhdSt := Tab.lookD s.hkp.nbhds n {}

/-- Whether sensor `i` is suspect newly against median `m` (R338) (DEDUCED, log entry 40). -/
def suspectRound (m : Int) (i : Nat) (s : State) : State :=
  let x := sensorOf s i
  let sus := decide (32 < (x.reading - m).natAbs)
  let s := setSensor i { x with suspect := sus } s
  if sus && !x.suspect then
    stick Reg.HKP_STICKY 1 (bumpAt Reg.HKP_SENSOR_FAULTS 8 8 1 (fault 265 Src.hkp 0 .corrected i s))
  else s

/-- A neighbourhood's round (R338) (DEDUCED, log entry 40). -/
def nbhdRound (n : Nat) (s : State) : State :=
  let m := median3 (sensorOf s (3 * n)).reading (sensorOf s (3 * n + 1)).reading (sensorOf s (3 * n + 2)).reading
  let s := suspectRound m (3 * n + 2) (suspectRound m (3 * n + 1) (suspectRound m (3 * n) s))
  let bad := ((List.range 3).filter fun k => (sensorOf s (3 * n + k)).suspect || (sensorOf s (3 * n + k)).broken).length
  let hot := decide (2 ≤ bad)
  let was := (nbhdOf s n).hot
  let s := { s with hkp := { s.hkp with nbhds := Tab.put s.hkp.nbhds n ⟨if hot then tHot else m, hot⟩ } }
  if hot && !was then fault 267 Src.hkp 0 .corrected n s else s

/-- The temperature of each of N0 to N3 for the strip bias (R339). -/
def biasTemps (s : State) : State :=
  let valid := (List.range 4).filter fun n => !(nbhdOf s n).hot
  match valid.map fun n => (nbhdOf s n).reading with
  | [] => s
  | r :: rs =>
    let top := rs.foldl max r
    { s with hkp := { s.hkp with biasT := (List.range 4).map fun n =>
      (n, if (nbhdOf s n).hot then top else (nbhdOf s n).reading) } }

/-- The band after a round (R340), thresholds in 0.25 K. -/
def bandAfter (old : Nat) (tj : Int) : Nat :=
  let up := ([0, 280, 380, 440].filter fun (x : Int) => decide (x ≤ tj)).length
  let down := ([-8, 272, 372, 432].filter fun (x : Int) => decide (x ≤ tj)).length
  if old < up then up else min old down

/-- The band takes its decision. -/
def bandRound (s : State) : State :=
  let b := bandAfter s.hkp.band s.hkp.tj
  if b = s.hkp.band then s
  else stick Reg.HKP_STICKY 0 (raise 264 { s with hkp := { s.hkp with band := b } })

/-! ### Aux readings and the emitter board (R333, R341) -/

/-- The housekeeping reading of aux channel `n` (DEDUCED, log entry 40). -/
def hkAuxRound (n : Nat) (s : State) : State :=
  if !rdb s (Fld.ASF_CFG_hk n) then s
  else
    let c := asfOf s n
    let x := Tab.lookD s.hkp.aux n {}
    let new := c.fresh && c.good.isSome
    let age := if new then 0 else x.age + 1
    let bad := c.isOpen || decide (4 < age)
    let s := setAsf n { c with fresh := false } s
    let s := { s with hkp := { s.hkp with aux := Tab.put s.hkp.aux n ⟨if new then c.good else x.value, age, bad⟩ } }
    if bad && !x.invalid then stick Reg.HKP_STICKY 3 (fault 271 Src.hkp 0 .corrected n s) else s

/-- The forced shot level (R333); readings are in 1/8192 °C (DEDUCED, log entry 40). -/
def forcedLevel (s : State) : Nat :=
  let step := rdf s Fld.ALA_EMITTER_em_step
  if !rdb s Fld.ALA_EMITTER_em_en || decide (step = 0) then 0
  else
    let x := Tab.lookD s.hkp.aux (rdf s Fld.ALA_EMITTER_em_aux) {}
    match x.value with
    | none => 7
    | some v =>
      let d := v - 8192 * (rdf s Fld.ALA_EMITTER_em_knee : Int)
      if x.invalid then 7 else if d < 0 then 0 else min 7 (1 + (d / (8192 * (step : Int))).toNat)

/-! ### Supplies (R342) -/

/-- The nominal levels of M0 to M11 in mV; M8 has none. -/
def supplyNominal (i : Nat) : Nat := [750, 1100, 900, 1200, 800, 1800, 3300, 3300, 0, 850, 850, 1800].getD i 0

def supplyWarn (i mv : Nat) : Bool :=
  if i = 8 then decide (mv < 21000) || decide (30000 < mv)
  else decide (100 * mv < 95 * supplyNominal i) || decide (105 * supplyNominal i < 100 * mv)

def supplyOver (i mv : Nat) : Bool :=
  if i = 8 then decide (31000 < mv) else decide (110 * supplyNominal i < 100 * mv)

def supplyOf (s : State) (i : Nat) : SupplySt := Tab.lookD s.hkp.supply i {}

/-- A monitor's round: a warning of two rounds is reported once. -/
def supplyRound (i mv : Nat) (s : State) : State :=
  let x := supplyOf s i
  let run := if supplyWarn i mv then min 3 (x.warnRun + 1) else 0
  let y := { x with level := mv, warn := supplyWarn i mv, warnRun := run, isOver := supplyOver i mv }
  let s := { s with hkp := { s.hkp with supply := Tab.put s.hkp.supply i y } }
  if run = 2 then stick Reg.HKP_STICKY 2 (bump Reg.HKP_SUP_WARN 1 (fault 268 Src.hkp 0 .corrected i s)) else s

/-! ### Decisions (R343 to R347) -/

/-- T_stop in 0.25 K. -/
def tStop : Int := if Config.variantIN then 420 else 500

/-- T_thr in 0.25 K. -/
def tThr (s : State) : Int := min (4 * (rdf s Fld.ALA_CFG_t_thr : Int)) (tStop - 28)

/-- The throttle of a round (R343); c_thr starts at p_ceiling with the first grant. -/
def throttleRound (s : State) : State :=
  if s.ala.grant.isEmpty then s
  else
  let step := rdf s Fld.ALA_CFG_thr_step
  let c := s.ala.cThr
  let c' := if tThr s ≤ s.hkp.tj then max 128 (c - step)
            else if s.hkp.tj < tThr s - 8 then min (pCeiling s) (c + step) else c
  let was := isThrottled s
  let s := { s with ala := { s.ala with cThr := c' } }
  if isThrottled s && !was then stick Reg.ALA_STICKY 4 (fault 262 Src.ala 0 .corrected 0 s) else s

/-- The first monitor over voltage (DEDUCED, log entry 40). -/
def overMonitor (s : State) : Option Nat := (List.range 12).find? fun i => (supplyOf s i).isOver

/-- The stops that a round finds (R344 to R346): the hard cut first. -/
def stopRound (s : State) : State :=
  if s.hkp.hardCut || decide (s.boot.step < 6) || decide (s.boot.step = 15) then s
  else if 540 ≤ s.hkp.tj then hardCut 3 0 s
  else if s.hkp.orderly then s
  else if tStop ≤ s.hkp.tj then orderlyStop 1 0 s
  else match overMonitor s with
    | some m => orderlyStop 2 m s
    | none => s

/-- Whether monitor `i` reports a collapse (R342): its level is more than 12 % below the nominal one. -/
def supplyLow (s : State) (i : Nat) : Bool :=
  decide (i ≠ 8) && decide (100 * (supplyOf s i).level < 88 * supplyNominal i)

/-- Whether the cause of the last stop still holds (R347). -/
def stopPersists (s : State) : Bool :=
  let sup := (List.range 12).any fun i => (supplyOf s i).warn || (supplyOf s i).isOver || supplyLow s i
  if s.hkp.cause = 1 then decide (tStop - 40 ≤ s.hkp.tj) || sup
  else if s.hkp.cause = 3 then decide (tStop ≤ s.hkp.tj) || sup
  else sup

/-- The fatal conditions that still hold raise their faults again in a provisional round (R347, R503, R505). -/
def reraise (s : State) : State :=
  if !s.fcl.provisional then s
  else
    let stopped := s.hkp.hardCut || decide (s.fcl.fatalCause / 2 ^ 16 = 269)
    let s := if stopped && stopPersists s then fault (if s.hkp.hardCut then 270 else 269) Src.hkp s.hkp.monitor .fatal 0 s else s
    if !s.tb.refOk then fault 34 Src.tbs 0 .fatal 0 s
    else if !s.tb.pllLock then fault 33 Src.tbs 0 .fatal 0 s
    else s

/-! ### Bias and the error pair (R94, R95, R514) -/

/-- The bias check of strip `k` with its neighbourhood's temperature; a regulator without a setting takes its first one. -/
def biasRound (k mv : Nat) (s : State) : State :=
  match Tab.look s.hkp.biasT (k / 8) with
  | none => s
  | some t =>
    let s := biasCheck k mv t s
    let b := biasOf s k
    if b.on && decide (b.set = 0) then setBias k { b with set := b.target } s else s

/-- The FCL reads the error pair back (R514). -/
def padRound (p n : Bool) (s : State) : State :=
  let e := errFault s
  let s := { s with fcl := { s.fcl with padP := p, padN := n } }
  if p = !e && n = e then s else raise 319 (post Src.fcl 0 .corrected 0x0205 (b2n p + 2 * b2n n) s)

/-- The time of step 4 of a housekeeping round after the round's begin, in ticks (R336). -/
abbrev decisionTicks : Nat := 70400000

/-- HOUSEKEEPING_ROUND (R336 to R347, R42, R95, R505, R514): the round's measurements, and its decisions in the order of
R346, at step 4 of the round: 1.1 ms after a multiple of 2 ms, at a TB edge (DEDUCED, log entry 39). -/
def onHousekeepingRound (r : HkRound) (t : Tick) (s : State) : State :=
  let s := advance t s
  if !s.tb.running || decide (now s % roundTicks / 64 ≠ decisionTicks / 64) then s
  else
    let s := confirmClear { s with hkp := { s.hkp with rounds := s.hkp.rounds + 1 } }
    let s := (r.sensors.zip (List.range 24)).foldl (fun s p => sensorRound p.2 p.1 s) s
    let s := (List.range 8).foldl (fun s n => nbhdRound n s) s
    let tj := (List.range 8).foldl (fun a n => max a (nbhdOf s n).reading) (nbhdOf s 0).reading
    let s := biasTemps { s with hkp := { s.hkp with tj := tj } }
    let s := (r.supplies.zip (List.range 12)).foldl (fun s p => supplyRound p.2 p.1 s) s
    let s := (List.range 8).foldl (fun s n => hkAuxRound n s) s
    let s := { s with ala := { s.ala with forced := forcedLevel s } }
    let s := bandRound (throttleRound (reraise (stopRound s)))
    let s := dtsRound (warmRound (cleRound s))
    let s := (r.bias.zip (List.range 32)).foldl (fun s p => biasRound p.2 p.1 s) s
    padRound r.errP r.errN s

/-! ### Registers (R352) -/

/-- What a read-only HKP register reads. -/
def hkpView (s : State) (off : Nat) : Option Nat :=
  let h := s.hkp
  if off = Reg.HKP_STATUS then
    some (h.band + 8 * b2n h.orderly + 16 * b2n h.hardCut + 2 ^ 8 * maskOf 8 fun n => (nbhdOf s n).hot)
  else if off = Reg.HKP_TJ then some (uval 12 h.tj)
  else if off = Reg.HKP_ROUND then some (h.rounds % 2 ^ 32)
  else if off = Reg.HKP_STOP_CAUSE then some (h.cause + 2 ^ 8 * h.monitor)
  else if off = Reg.HKP_HK_AUX then
    some ((maskOf 8 fun n => rdb s (Fld.ASF_CFG_hk n)) + 2 ^ 8 * maskOf 8 fun n => (Tab.lookD h.aux n {}).invalid)
  else
    match (List.range 8).find? fun n => decide (off = Reg.HKP_NBHD n) with
    | some n => some (uval 12 (nbhdOf s n).reading + 2 ^ 12 * maskOf 3 fun k => (sensorOf s (3 * n + k)).suspect)
    | none =>
      match (List.range 24).find? fun i => decide (off = Reg.HKP_TS i) with
      | some i =>
        let x := sensorOf s i
        some (uval 12 x.reading + 2 ^ 12 * b2n x.broken + 2 ^ 13 * b2n x.suspect + 2 ^ 16 * x.stuck)
      | none => ((List.range 12).find? fun i => decide (off = Reg.HKP_SUP i)).map fun i =>
          let x := supplyOf s i
          x.level % 65536 + 2 ^ 16 * b2n x.warn + 2 ^ 17 * b2n x.isOver + 2 ^ 18 * b2n x.collapse

/-! ### Meanings -/

/-- The meaning of this command: the step of `onSupplyCollapse` (R345). -/
def execSupplyCollapse (monitor : Fin 12) (t : Tick) (s : State) : Host.Outcome State Fault Refusal :=
  .next (onSupplyCollapse monitor t s)

/-- The meaning of this command: the step of `onStopDeadline` (R344). -/
def execStopDeadline (t : Tick) (s : State) : Host.Outcome State Fault Refusal :=
  .next (onStopDeadline t s)

/-- The meaning of this command: the step of `onQueueDrainDone` (R344). -/
def execQueueDrainDone (t : Tick) (s : State) : Host.Outcome State Fault Refusal :=
  .next (onQueueDrainDone t s)

/-- The meaning of this command: the step of `onTbPllLocked` (R44). -/
def execTbPllLocked (s : State) : Host.Outcome State Fault Refusal :=
  .next (onTbPllLocked s)

/-- The meaning of this command: the step of `onTbPllLockTimeout` (R44). -/
def execTbPllLockTimeout (s : State) : Host.Outcome State Fault Refusal :=
  .next (onTbPllLockTimeout s)

/-- The meaning of this command: the step of `onTbsPllLockLost` (R46). -/
def execTbsPllLockLost (t : Tick) (s : State) : Host.Outcome State Fault Refusal :=
  .next (onTbsPllLockLost t s)

/-- The meaning of this command: the step of `onTbsRefLost` (R46). -/
def execTbsRefLost (t : Tick) (s : State) : Host.Outcome State Fault Refusal :=
  .next (onTbsRefLost t s)

/-- The meaning of this command: the step of `onTbsWarm` (R42). -/
def execTbsWarm (s : State) : Host.Outcome State Fault Refusal :=
  .next (onTbsWarm s)

/-- The meaning of this command: the step of `onHousekeepingRound` (R336). -/
def execHousekeepingRound (r : HkRound) (t : Tick) (s : State) : Host.Outcome State Fault Refusal :=
  .next (onHousekeepingRound r t s)

end Sys2Proof.Machine
end

