-- ==== Sys2Proof/Machine/ImageRegs.lean ====
section
/-! DEFINITION. The registers that an image loads (R440): the defined bits of each (R13) and the limits and zero rules of its
fields (R77 to R79, R100, R136, R166, R207, R241, R297, R298, R324, R351, R491, R518). -/

namespace Sys2Proof.Machine

/-- A run of image-loaded registers: `cnt` of them, `stride` bytes apart from `base`, with the mask of the defined bits and
the limits of a value. -/
structure ImgRow where
  base   : Nat
  cnt    : Nat
  stride : Nat
  mask   : Nat
  lim    : Nat → Bool

/-- No limits beyond the defined bits. -/
def noLimit (_ : Nat) : Bool := true

/-- The time base, the TDC and the TSU (DEDUCED, log entry 19). -/
def imgRowsTime : List ImgRow :=
  [ ⟨Reg.TBS_WARM_CFG, 1, 4, 0x0FFFFF01, fun v => inR 1 100 (bits v 8 8) && inR 0 3600 (bits v 16 12)⟩,
    ⟨Reg.TDC_CAL_TOL, 1, 4, 0xFFFF, fun v => decide (bits v 0 8 ≠ 0) && decide (bits v 8 8 ≠ 0)⟩,
    ⟨Reg.TDC_CAL_COUNT, 1, 4, 0x1F1F, fun v => inR 16 24 (bits v 0 5) && inR 16 24 (bits v 8 5)⟩,
    ⟨Reg.TDC_CAL_TIMING, 1, 4, 0x3F0FFF, fun v => inR 1 32 (bits v 16 6)⟩,
    ⟨Reg.TDC_CAL_GUARD, 1, 4, 0xFFFFFF, noLimit⟩,
    ⟨Reg.TDC_CAL_TOPUP, 1, 4, 0xFFFFF, noLimit⟩,
    ⟨Reg.TSU_CFG 0, 16, Reg.TSU_CFG 1 - Reg.TSU_CFG 0, 0x3FFFFF07, fun v =>
      (decide (bits v 0 1 = 0) || decide (bits v 1 2 ≠ 0)) && inR 0 10000 (bits v 16 14)⟩,
    ⟨Reg.TSU_WIN_CFG 0, 16, Reg.TSU_CFG 1 - Reg.TSU_CFG 0, 0xF7, fun v => inR 0 4 (bits v 0 3)⟩,
    ⟨Reg.TSU_WIN_OPEN 0, 16, Reg.TSU_CFG 1 - Reg.TSU_CFG 0, 0xFFFFFFFF, noLimit⟩,
    ⟨Reg.TSU_WIN_CLOSE 0, 16, Reg.TSU_CFG 1 - Reg.TSU_CFG 0, 0xFFFFFFFF, noLimit⟩ ]

/-- The photon front end, the emitter sequencer and the histogram engine (DEDUCED, log entry 19). -/
def imgRowsLidar : List ImgRow :=
  [ ⟨Reg.PFE_THR_A, 1, 4, 0xFFFFFFFF, noLimit⟩,
    ⟨Reg.PFE_THR_B, 1, 4, 0xFFFFFFFF, noLimit⟩,
    ⟨Reg.PFE_THR_C, 1, 4, 0xFFFFFFFF, noLimit⟩,
    ⟨Reg.PFE_THR_D, 1, 4, 0xFFFFFF, fun v => inR 0 90 (bits v 16 8)⟩,
    ⟨Reg.PFE_SAT_CFG, 1, 4, 0xFFFF, noLimit⟩,
    ⟨Reg.PFE_HOT_CFG, 1, 4, 0x1FFFFFFF, fun v => inR 0 15 (bits v 24 5)⟩,
    ⟨Reg.PFE_BIAS_CFG, 1, 4, 0x1FF, inR 100 500⟩,
    ⟨Reg.PFE_IMASK 0, 256, 4, 0xFFFFFFFF, noLimit⟩,
    ⟨Reg.ESQ_BANK_PRESENT, 1, 4, 0xFFFF, noLimit⟩,
    ⟨Reg.ESQ_RAIL_LOW_CFG, 1, 4, 0xFF, noLimit⟩,
    ⟨Reg.ESQ_RAIL_WIN 0, 4, 4, 0xFFFFFFFF, noLimit⟩,
    ⟨Reg.HSE_SIEVE_A, 1, 4, 0x0F0FFFFF, fun v => decide (bits v 0 8 ≠ 0) && decide (bits v 16 4 ≠ 0)⟩,
    ⟨Reg.HSE_SIEVE_B, 1, 4, 0xFFFFFFFF, noLimit⟩,
    ⟨Reg.HSE_ZOOM, 1, 4, 0xFF0FFF, fun v => decide (bits v 0 4 ≠ 0) && decide (bits v 8 4 ≠ 0)⟩,
    ⟨Reg.HSE_CLASS, 1, 4, 0x0703FFFF, noLimit⟩,
    ⟨Reg.HSE_CANOPY, 1, 4, 0x1FF, fun v => inR 0 64 (bits v 0 8)⟩,
    ⟨Reg.HSE_DEEPEN, 1, 4, 0xFFFFFFFF, fun v => decide (bits v 0 16 ≠ 0) && decide (bits v 16 16 ≠ 0)⟩,
    ⟨Reg.HSE_WALK_A, 1, 4, 0xFFFFFFFF, noLimit⟩,
    ⟨Reg.HSE_WALK_B, 1, 4, 0xFFFFFFFF, noLimit⟩,
    ⟨Reg.HSE_FOREIGN_CFG, 1, 4, 0xFFFF, noLimit⟩ ]

/-- The fibre interrogator, the TAE settings, the loops and the aux channels (DEDUCED, log entry 19). -/
def imgRowsFibre : List ImgRow :=
  [ ⟨Reg.FIB_CAL_CFG, 1, 4, 0xFFFF001F, fun v => inR 12 24 (bits v 0 5) && inR 1 3600 (bits v 16 16)⟩,
    ⟨Reg.FIB_CAL_TOL, 1, 4, 0xFFFFFFFF, fun v =>
      decide (bits v 0 8 ≠ 0) && decide (bits v 8 8 ≠ 0) && decide (bits v 16 8 ≠ 0)⟩,
    ⟨Reg.TAE_REF_CFG, 1, 4, 0x7F0FFF, noLimit⟩,
    ⟨Reg.TAE_SKEW_CFG, 1, 4, 0xFFFFFF, noLimit⟩,
    ⟨Reg.TAE_MASK_CFG, 1, 4, 0xFFFFFFFF, noLimit⟩,
    ⟨Reg.TAE_MASK_CHAN, 1, 4, 0xF03FF, fun v => inR 0 512 (bits v 0 10)⟩,
    ⟨Reg.CLE_CFG 0, 8, 32, 0xFFFFFF, fun v => decide (bits v 0 16 = 0) || decide (10 ≤ bits v 0 16)⟩,
    ⟨Reg.CLE_BAND 0, 8, 32, 0xFFFFFFFF, noLimit⟩,
    ⟨Reg.CLE_INT 0, 8, 32, 0xFFFFFFFF, noLimit⟩,
    ⟨Reg.CLE_SLEW 0, 8, 32, 0xFFFFFF, noLimit⟩,
    ⟨Reg.CLE_SPC 0, 8, 32, 0xFFFFFFFF, noLimit⟩,
    ⟨Reg.CLE_SPTO 0, 8, 32, 0xFFFF, noLimit⟩,
    ⟨Reg.ASF_SCHED, 1, 4, 0x73F, fun v => inR 0 32 (bits v 0 6)⟩,
    ⟨Reg.ASF_REF_RES, 1, 4, 0xFFFFFF, noLimit⟩,
    ⟨Reg.ASF_SLOTS 0, 4, 4, 0x77777777, noLimit⟩,
    ⟨Reg.ASF_CFG 0, 8, 32, 0xFF377737, fun v =>
      let rtd := inR 1 3 (bits v 0 3)
      inR 0 6 (bits v 0 3) && inR 0 2 (bits v 4 2) && inR 0 5 (bits v 8 3) && (!rtd || decide (bits v 8 3 ≠ 0))
      && !(decide (bits v 0 3 = 6) && bitB v 16) && (decide (bits v 4 2 = 0) || rtd)⟩,
    ⟨Reg.ASF_LIN 0, 8, 32, 0xFFFFF, noLimit⟩,
    ⟨Reg.ASF_LIN2 0, 8, 32, 0xFFFFFFFF, noLimit⟩ ]

/-- The queues, the arbiter, the host interface and the fault collector (DEDUCED, log entry 19). -/
def imgRowsRest : List ImgRow :=
  [ ⟨Reg.QSY_STALL_CFG, 1, 4, 0xFFFF, noLimit⟩,
    ⟨Reg.ALA_CEILING, 1, 4, 0x1FF, inR 128 480⟩,
    ⟨Reg.ALA_CFG, 1, 4, 0xFFFFFF, fun v => decide (bits v 8 8 ≠ 0) && inR 80 130 (bits v 16 8)⟩,
    ⟨Reg.ALA_FLOORS, 1, 4, 0x1F77FF, fun v => inR 0 4 (bits v 12 3)⟩,
    ⟨Reg.ALA_EMITTER, 1, 4, 0xFFFF0F, noLimit⟩,
    ⟨Reg.ALA_PARK_ORDER0, 1, 4, 0xFFFFFFFF, noLimit⟩,
    ⟨Reg.ALA_PARK_ORDER1, 1, 4, 0xFFFFFFFF, noLimit⟩,
    ⟨Reg.ALA_SHOT_TAB 0, 4, 4, 0x03FF03FF, noLimit⟩,
    ⟨Reg.ALA_RAIL_LIM 0, 1, 4, 0x3FF, inR 1 512⟩,
    ⟨Reg.ALA_RAIL_LIM 1, 4, 4, 0x3FF, inR 1 1023⟩,
    ⟨Reg.HIF_STREAM_MAP 0, 64, 4, 0x3F3F3F, fun v => decide (bits v 8 6 ≠ 0x3F)⟩,
    ⟨Reg.FCL_CFG, 1, 4, 1, noLimit⟩ ]

/-- Whether `off` lies in a run of registers. -/
def ImgRow.holds (r : ImgRow) (off : Nat) : Bool :=
  decide (r.base ≤ off) && decide ((off - r.base) % r.stride = 0) && decide ((off - r.base) / r.stride < r.cnt)

/-- Whether the image may load value `v` into the register at `off`: it is image-loaded, no reserved bit is set, and every
field holds its limits (R13, R14, R440). At an offset where no register stands, every bit is reserved
(DEDUCED, log entry 17). -/
def imgRegOk (off v : Nat) : Bool :=
  match (imgRowsTime ++ imgRowsLidar ++ imgRowsFibre ++ imgRowsRest).find? fun r => r.holds off with
  | some r => only r.mask v && r.lim v
  | none => (RegMap.find off).isNone && decide (v = 0)

end Sys2Proof.Machine
end

