-- ==== Sys2Proof/Machine/ImageRecs.lean ====
section
/-! DEFINITION. The image's header (R435) and what the loader checks of a record on its own (R437 to R443): the form, the defined
bits (R13) and the rules that concern one record alone. -/

namespace Sys2Proof.Machine

/-! ### The header (R435, R450) -/

/-- The length of a signature trailer (R444). -/
abbrev trailerLen : Nat := 29864

def hdrGen (h : List Byte) : Nat := leAt h 12 4
def hdrSecVer (h : List Byte) : Nat := leAt h 16 1
def hdrPlans (h : List Byte) : Nat := leAt h 36 1
def hdrRecCount (h : List Byte) : Nat := leAt h 20 2
def hdrRecLen (h : List Byte) : Nat := leAt h 28 4
def hdrTrlOff (h : List Byte) : Nat := leAt h 32 4
def hdrLen (h : List Byte) : Nat := leAt h 8 4

/-- Whether a header holds by itself, in a slot or a staging area of `room` bytes (DEDUCED, log entry 17). -/
def headerHolds (h : List Byte) (room : Nat) : Bool :=
  decide (leAt h 0 4 = 0x4D494C48) && decide (leAt h 4 2 = 1) && decide (leAt h 6 2 = 256)
  && decide (hdrLen h % 8 = 0) && decide (hdrLen h ≠ 0) && decide (hdrLen h ≤ min room (64 * 1048576))
  && decide (hdrGen h ≠ 0) && decide (hdrSecVer h ≤ 64) && decide (bits (leAt h 18 1) 0 2 ≠ 0)
  && inR 1 4096 (hdrRecCount h) && decide (leAt h 24 4 = 256) && decide (hdrRecLen h ≠ 0)
  && decide (hdrTrlOff h = 256 + hdrRecLen h) && decide (hdrLen h = hdrTrlOff h + trailerLen)

/-- The slot cause of a header (R449, R450, R453): 0 none, 1 header, 2 part, 5 rollback. -/
def headerCause (s : State) (h : List Byte) (room : Nat) : Nat :=
  if !headerHolds h room then 1
  else if leAt h 17 1 ≠ 0xB1 || !bitB (leAt h 18 1) (b2n Config.variantIN)
    || (leAt h 48 8 ≠ 0 && leAt h 48 8 ≠ Config.uid.toNat) then 2
  else if hdrSecVer h < s.sec.rollback then 5 else 0

/-! ### Fields of a body -/

/-- The 32-bit word at byte `o`. -/
def w4 (b : List Byte) (o : Nat) : Nat := leAt b o 4

/-- Bits of the 32-bit word at byte `o`. -/
def fb (b : List Byte) (o lo len : Nat) : Nat := bits (leAt b o 4) lo len

/-- The words at the offsets have only their defined bits set. -/
def masksOk (b : List Byte) (l : List (Nat × Nat)) : Bool := l.all fun p => only p.2 (w4 b p.1)

/-- Every byte from `o` on, `n` of them, is 0. -/
def zeros (b : List Byte) (o n : Nat) : Bool := (slice b o n).all fun x => decide (x = 0)

/-- The numbers of a list rise strictly. -/
def rises (l : List Nat) : Bool :=
  match l with
  | [] => true
  | [_] => true
  | a :: b :: r => decide (a < b) && rises (b :: r)

/-! ### Lidar records -/

/-- A scan plan (R125, R126) but for its pick-off channel. -/
def scanPlanOk (b : List Byte) : Bool :=
  let kk := fb b 0x0C 0 12
  let sl := fb b 8 12 4
  let slots := 2 ^ sl
  let phase (k : Nat) : Nat := if k < kk then leAt b (0x48 + 2 * k) 2 else fb b 0x14 16 16
  let pf := 10 * fb b 0x10 0 20 * (100 - fb b 0x10 24 4)
  let h := 1 + fb b 0 4 1
  let lmin := max 32000 (fb b 8 0 12 + 256 + slots * 2256)
  let shot (i : Nat) : Nat := leAt b (0x28 + 2 * i) 2
  inR 1 2400 kk && decide (b.length = (0x48 + 2 * kk + 3) / 4 * 4) && zeros b (0x48 + 2 * kk) (b.length - (0x48 + 2 * kk))
  && masksOk b [(0, 0xFFFFFF7F), (4, 0x03FF03FF), (8, 0xFF1FFFFF), (0x10, 0x0F0FFFFF), (0x24, 0xFFFFF)]
  && ((List.range 16).all fun i => only 0x3F3F (shot i) && decide (bits (shot i) 0 6 ≤ bits (shot i) 8 6)
        && decide (bits (shot i) 8 6 ≤ slots))
  && inR 1 8 (fb b 0 8 4) && inR 1 8 (fb b 0 12 4) && inR 1 8 (fb b 0 16 4) && inR 1 8 (fb b 0 20 4)
  && decide (fb b 0 12 4 ≤ fb b 0 16 4) && inR 64 2048 (fb b 8 0 12) && inR 2 5 sl && inR 2 31 (fb b 8 16 5)
  && inR 0 32 (fb b 0x0C 16 6) && inR 1 100 (fb b 0x0C 25 7) && inR 33333 400000 (fb b 0x10 0 20) && inR 1 15 (fb b 0x10 24 4)
  && decide (fb b 0x14 16 16 ≠ 0)
  && rises ((List.range (kk + 1)).map phase)
  && ((List.range kk).all fun k => decide (65536 * h * lmin ≤ (phase (k + 1) - phase k) * pf))
  && decide (kk * 10 ^ 9 * h ≤ 24000 * pf)
  && decide (fb b 0x10 0 20 * (100 + fb b 0x10 24 4) * fb b 0x0C 25 7 + 200000 ≤ 100000 * fb b 0x14 0 16)

/-- The eye-safety ledger (R118, R441). -/
def ledgerRecOk (b : List Byte) : Bool :=
  let n := fb b 8 0 7
  inR 1 64 n && decide (b.length = 0x4C + 20 * n) && masksOk b [(0, 0xFFFFFF), (4, 0xFFFFFF), (8, 0x7F)]
  && ((List.range n).all fun i => masksOk b [(0x4C + 20 * i, 0x1FFFF), (0x50 + 20 * i, 0x1FFFF), (0x54 + 20 * i, 0xFFFF)]
        && inR 1 65536 (w4 b (0x50 + 20 * i)))

/-- The bands of a field set from byte `o` on, with the channels they cover; none where one does not hold (R157). -/
def bandsOf (fuel : Nat) (b : List Byte) (o : Nat) (acc : List (Nat × Nat)) : Option (Nat × List (Nat × Nat)) :=
  match fuel with
  | 0 => some (o, acc)
  | f + 1 =>
    let lo := fb b o 0 9
    let hi := fb b o 16 9
    let n := fb b (o + 4) 16 6
    let us := (List.range n).map fun v => fb b (o + 8 + 4 * v) 0 16
    if masksOk b [(o, 0x01FF01FF), (o + 4, 0x3FFFFF)] && decide (lo ≤ hi) && inR 1 32 n && decide (us.head? = some 0) && rises us
        && acc.all (fun p => decide (hi < p.1) || decide (p.2 < lo)) then
      bandsOf f b (o + 8 + 4 * n) (acc ++ [(lo, hi)])
    else none

/-- A field set (R157). -/
def fieldSetOk (b : List Byte) : Bool :=
  let m := fb b 0 16 6
  masksOk b [(0, 0x3F1F07)] && inR 1 16 (fb b 0 8 5) && decide (m ≠ 0) && decide (m % 2 = 0) && decide (m < 32)
  && decide (fb b 4 0 16 ≠ 0)
  && (match bandsOf (fb b 0 8 5) b 8 [] with
      | some p => decide (b.length = p.1)
      | none => false)

/-! ### Fibre records -/

/-- The channel of a beat frequency in 10 kHz (R184), none when it lies too far from a channel's centre. -/
def beatChan (f : Nat) : Option Nat :=
  let c := (f + 3125) / 6250
  if inR 1 9 c && decide ((f : Int) - 6250 * c ≤ 200) && decide (6250 * (c : Int) - f ≤ 200) then some c else none

/-- A fibre plan (R184, R195, R200, R201) but for the records it relies on (DEDUCED, log entry 17). -/
def fibrePlanOk (b : List Byte) : Bool :=
  let n := fb b 0 8 4
  let dts := fb b 0 12 2
  let st := fb b 8 0 18
  let ts := max 1 n * st * 10
  let span := 10 * fb b 4 0 16 + fb b 0x0C 16 16
  let bg := fb b 0x24 0 13
  let beat (i : Nat) : Nat := leAt b (0x30 + 2 * i) 2
  let chans := (List.range n).map fun i => beatChan (beat i)
  decide (b.length = 0x40)
  && masksOk b [(0, 0x73F7F), (4, 0x1FFFFF), (8, 0x3FFFF), (0x0C, 0xFFFF03FF), (0x10, 0x07FFFFFF), (0x18, 0x0FFF0F0F),
      (0x1C, 0xFFFFF1FF), (0x20, 0x3FFFFFFF), (0x24, 0x1FFF), (0x28, 0), (0x2C, 0)]
  && [0, 1, 2, 4, 8].contains n && decide (dts ≠ 3) && (decide (dts ≠ 1) || decide (n ≠ 0))
  && (decide (dts ≠ 2) || (decide (fb b 0 16 3 ≠ 0) && decide (n ≤ fb b 0 16 3) && decide (fb b 0x20 20 10 ≠ 0)))
  && inR 1 50000 (fb b 4 0 16) && (decide (n = 0) || inR 2 20 (fb b 4 16 5)) && inR 6250 200000 st && inR 10 1000 (fb b 0x0C 0 10)
  && decide (fb b 0x0C 16 1 = 0) && inR 0 100 (fb b 0x10 16 8) && (decide (fb b 0 4 1 = 0) || decide (fb b 0x10 16 8 ≠ 0))
  && inR 0 256 (fb b 0x1C 0 9) && inR 0 8 (fb b 0x1C 12 4)
  && (decide (dts = 0) || (decide (2 ≤ fb b 0x1C 0 9) && decide (fb b 0x1C 16 16 ≠ 0)))
  && decide (fb b 0x20 0 1 = 0) && decide (bg ≤ 4096)
  && (chans.all fun c => c.isSome) && decide (chans.Nodup)
  && ((List.range 8).all fun i => decide (i < n) || decide (beat i = 0))
  && decide (span ≤ ts) && (decide (dts = 0) || decide (5 * span + 8 * bg ≤ 5 * ts))
  && decide (fb b 0x0C 0 10 < 10 * st) && decide (fb b 0x20 20 10 < 10 * st) && !(decide (n = 0) && decide (dts = 0))

/-- The fibre constants (R202). -/
def fibreConstOk (b : List Byte) : Bool :=
  decide (b.length = 0x1C) && masksOk b [(0, 0x3FFFF), (4, 0xFFFF), (0x14, 0xFF07), (0x18, 0xFFFFFF)]
  && inR 140000 150000 (w4 b 0) && decide (w4 b 4 ≠ 0) && decide (fb b 0x0C 0 16 ≤ fb b 0x0C 16 16)
  && (decide (fb b 0x14 8 8 ≤ 7) || decide (fb b 0x14 8 8 = 0xFF))

/-- The fibre zones (R202). -/
def fibreZonesOk (b : List Byte) : Bool :=
  inR 1 64 (fb b 0 0 7) && decide (b.length = 8 + 8 * fb b 0 0 7) && masksOk b [(0, 0x03FF007F), (4, 0x7F3F)]
  && inR 1 1000 (fb b 0 16 10) && inR 0 100 (fb b 4 8 7)

/-! ### Filter, capture and tine records -/

/-- An FDC channel (R208). -/
def fdcChanOk (b : List Byte) : Bool :=
  let das := decide (fb b 0 4 1 = 0)
  decide (b.length = 0x10) && masksOk b [(0, 0xFF0FFFFF), (0x0C, 0)] && [1, 2, 4, 8, 16, 32, 64].contains (fb b 0 8 8)
  && inR 0 8 (fb b 0 16 4)
  && (if das then decide (fb b 0 5 3 = 0) && inR 1 50000 (fb b 4 16 16) else decide (w4 b 4 = 0))
  && (decide (w4 b 8 = 0) || decide (0x80000000 ≤ w4 b 8))

/-- The capture sources of R218, and whether one is dense. -/
def capSource (p : Nat × Nat) : Option Bool :=
  if p.1 = Src.hse then (if p.2 = 0 then some true else if p.2 = 2 then some false else none)
  else if p.1 = Src.pfe then (if p.2 = 0 then some true else none)
  else if p.1 = Src.tdc then (if p.2 = 2 then some true else none)
  else if p.1 = Src.fib then (if p.2 = 0 then some true else if p.2 = 2 then some false else none)
  else if p.1 = Src.fdc then (if p.2 < 16 then some true else none)
  else none

/-- A source field of two bytes' width: block and stream. -/
def srcAt (b : List Byte) (o : Nat) : Nat × Nat := (fb b o 0 6, fb b o 8 6)

/-- A capture unit (R217, R218). -/
def capUnitOk (b : List Byte) : Bool :=
  let n := fb b 0 8 4
  decide (b.length = 0x18 + 8 * n) && masksOk b [(0, 0x0FFF0F1F), (8, 0x0F1FFFFF), (0x14, 0)] && inR 1 8 n
  && inR 1 160 (fb b 0 16 8) && inR 1 15 (fb b 0 24 4)
  && ((List.range n).all fun i =>
      let p := srcAt b (0x18 + 8 * i)
      only 0x3F3F (w4 b (0x18 + 8 * i)) && (capSource p).isSome && (decide (p.1 = Src.tdc) == decide (w4 b (0x1C + 8 * i) ≠ 0)))
  && decide (capSource (srcAt b 0x18) = some true)

/-- The TAE settings (R228, R241) (DEDUCED, log entry 17). -/
def taeSetOk (b : List Byte) : Bool :=
  decide (0x10 ≤ b.length) && decide (b.length % 8 = 0) && imgRegOk Reg.TAE_REF_CFG (w4 b 0) && imgRegOk Reg.TAE_SKEW_CFG (w4 b 4)
  && imgRegOk Reg.TAE_MASK_CFG (w4 b 8) && imgRegOk Reg.TAE_MASK_CHAN (w4 b 0x0C)

/-- The streams a slot may name (R266), and whether one is dense. -/
def tineSource (slot : Nat) (p : Nat × Nat) : Option Bool :=
  if p.1 = Src.hse then (if p.2 = 0 then some true else if p.2 = 2 then some false else none)
  else if p.1 = Src.pfe || p.1 = Src.esq then (if p.2 = 0 then some true else none)
  else if p.1 = Src.fib then (if p.2 = 1 then some true else if p.2 = 2 then some false else none)
  else if p.1 = Src.fdc then (if p.2 < 16 then some true else none)
  else if p.1 = Src.tae then (if p.2 < 3 then some false else none)
  else if p.1 = Src.tin then (if p.2 < slot then some true else none)
  else none

/-- A tine program (R252, R258, R259, R267). `digests` are the SHAKE256 digests that the safety parameter block holds for slots 1
and 2 (PRESUMED, log entry 18). -/
def tineProgOk (digests : List (List Byte)) (b : List Byte) : Bool :=
  let slot := fb b 0 0 4
  let n := fb b 0x2C 0 13
  let st := fb b 4 0 15
  let ins := fb b 0 8 3
  let unit := fb b 0 6 2
  let pid := fb b 0 16 16
  decide (b.length = 0x40 + 8 * n + (st + 7) / 8 * 8)
  && masksOk b [(0, 0xFFFFF7FF), (4, 0x1FFF7FFF), (0x0C, 0xFFFFFF), (0x10, 0x3F3F), (0x14, 0x3F3F), (0x18, 0x3F3F), (0x1C, 0x3F3F), (0x28, 0xFF),
      (0x2C, 0x1FFF), (0x30, 0xFFFF)]
  && zeros b 0x34 12 && decide (unit ≤ 2) && inR 1 4 ins && (decide (unit ≠ 1) || decide (ins = 1)) && inR 1 15 (fb b 0 12 4)
  && (inR 1 4 pid || decide (0x8000 ≤ pid)) && decide (st ≤ 16384) && decide (st % 8 = 0) && decide (fb b 4 16 13 ≠ 0)
  && decide (w4 b 8 ≠ 0) && decide (fb b 0x0C 0 16 ≠ 0) && decide (w4 b 0x20 % 8 = 0) && decide (w4 b 0x24 % 8 = 0)
  && (decide (w4 b 0x24 = 0) || decide (w4 b 0x20 + w4 b 0x24 ≤ 4 * 1048576)) && inR 1 64 (fb b 0x28 0 8) && inR 1 4096 n
  && (decide (unit = 2) == decide (fb b 0x30 0 16 ≠ 0))
  && ((List.range ins).all fun i => (tineSource slot (srcAt b (0x10 + 4 * i))).isSome)
  && decide (tineSource slot (srcAt b 0x10) = some true)
  && ((List.range n).all fun i => instrOk n i (leAt b (0x40 + 8 * i) 8))
  && (decide (fb b 0 4 1 = 0) || (decide (slot = 1 ∧ pid = 2 ∨ slot = 2 ∧ pid = 3)
      && decide (digests.getD (slot - 1) [] = Config.shakeBytes (b.drop 0x40))))

/-! ### The other records -/

/-- The CLE settings (R275, R297): 24 bytes a loop. -/
def cleSetOk (b : List Byte) : Bool :=
  decide (b.length = 192) && (List.range 8).all fun n =>
    let o := 24 * n
    let c := w4 b o
    imgRegOk (Reg.CLE_CFG n) c && imgRegOk (Reg.CLE_BAND n) (w4 b (o + 4)) && imgRegOk (Reg.CLE_INT n) (w4 b (o + 8))
    && imgRegOk (Reg.CLE_SLEW n) (w4 b (o + 12)) && imgRegOk (Reg.CLE_SPC n) (w4 b (o + 16))
    && imgRegOk (Reg.CLE_SPTO n) (w4 b (o + 20))
    && !(decide (6 ≤ n) && decide (bits c 0 16 ≠ 0) && decide (bits c 16 2 = 0))
    && !(decide (bits c 16 2 = 3) && decide (w4 b (o + 20) = 0))

/-- The Mulch record (R299, R300). -/
def mulchOk (b : List Byte) : Bool :=
  let n := fb b 0 0 6
  let keys := (List.range n).map fun i => w4 b (4 + 8 * i) % 2 ^ 14
  only 0x3F (w4 b 0) && inR 1 32 n && decide (b.length = 4 + 8 * n)
  && ((List.range n).all fun i => only 0x373F3F (w4 b (4 + 8 * i)) && only 0xFFFF (w4 b (8 + 8 * i))
        && decide (fb b (4 + 8 * i) 8 6 ≠ 0x3F) && inR 1 6 (fb b (4 + 8 * i) 16 3))
  && decide keys.Nodup

/-- The queues of each group, its depth limits and its default (R317). -/
def queueGroups : List (Nat × Nat × Nat × Nat) :=
  [(512, 8, 256, 32), (32, 64, 4096, 1024), (16, 16, 4096, 256), (8, 1024, 32768, 8192), (64, 64, 65536, 4096), (4, 512, 8192, 1024),
   (16, 256, 16384, 2048), (2, 64, 4096, 256), (2, 1024, 32768, 4096), (2, 1024, 32768, 4096)]

/-- The depths a queue record gives: one word a group, from group 0 on; the groups behind its end take their defaults. -/
def queueDepths (b : List Byte) : List Nat :=
  (queueGroups.zip (List.range 10)).map fun g => if 4 * g.2 < b.length then w4 b (4 * g.2) else g.1.2.2.2

/-- The queue record (R317) (DEDUCED, log entry 17). -/
def queuesOk (b : List Byte) : Bool :=
  let d := queueDepths b
  decide (b.length ≤ 40) && ((queueGroups.zip d).all fun g => inR g.1.2.1 g.1.2.2.1 g.2)
  && decide (sumN ((queueGroups.zip d).map fun g => g.1.1 * g.2) ≤ 786432)

/-- A grant record of the schedule (R330, R334) but for its held mask. -/
def schedGrantOk (b : List Byte) : Bool :=
  let f (o lo len : Nat) : Nat := bits (leAt b o 1) lo len
  decide (f 0 0 3 ≤ 4) && decide (f 0 3 2 = 1) && decide (f 0 6 2 = 0) && decide (leAt b 1 1 = 0) && decide (leAt b 2 2 ≤ 512)
  && (decide (leAt b 4 1 = 0) || inR 4 16 (leAt b 4 1)) && [0, 1, 2, 4, 8].contains (leAt b 5 1) && only 0x77 (leAt b 6 1)
  && decide (f 6 0 3 ≤ 4) && decide (f 6 4 3 ≤ 4) && [1, 2, 4, 8].contains (leAt b 7 1) && decide (leAt b 8 1 < 32)
  && decide (leAt b 11 2 < 4096) && zeros b 13 3

/-- The grant schedule (R334): 16 record bytes and a count of epochs an entry (DEDUCED, log entry 17). -/
def schedOk (b : List Byte) : Bool :=
  let n := b.length / 20
  decide (b.length % 20 = 0) && inR 1 4096 n
  && (List.range n).all fun i => schedGrantOk (slice b (20 * i) 16) && decide (leAt b (20 * i + 16) 4 ≠ 0)

/-- The cascade record (R371) but for the fibre plans. -/
def cascadeOk (b : List Byte) : Bool :=
  let e (a : Nat) : Nat := w4 b (0x40 + 4 * a)
  let idx := List.range 16
  let role (a : Nat) : Nat := bits (e a) 0 2
  let owner (a : Nat) : Bool := bitB (e a) 2
  let partner (a : Nat) : Bool := bitB (e a) 3
  let oaddr (a : Nat) : Nat := bits (e a) 4 4
  let tones (a : Nat) : Nat := bits (e a) 8 8
  let ofOwner (o a : Nat) : Bool := decide (a = o) || (partner a && decide (oaddr a = o))
  decide (b.length = 0x80) && masksOk b [(0, 0xFFFF3F), (4, 0xFFFF), (8, 0xFFFFFF), (0x14, 0x1F), (0x38, 0), (0x3C, 0)]
  && inR 1 16 (fb b 0 0 5) && decide (fb b 0 8 8 ≠ 0) && decide (fb b 0 16 8 ≠ 0) && decide (w4 b 4 ≠ 0)
  && decide (fb b 8 0 16 ≠ 0) && decide (fb b 8 16 8 ≠ 0) && decide (fb b 0x0C 0 2 ≤ 1) && decide (fb b 0x10 0 2 ≤ 1)
  && decide (w4 b 0x14 ≤ 16)
  && (idx.all fun f => only 0x3F3F (leAt b (0x18 + 2 * f) 2)
        && (decide (w4 b 0x14 ≤ f) || decide (bits (leAt b (0x18 + 2 * f) 2) 8 6 ≠ 0x3F)))
  && (idx.all fun a => only 0xFFFF (e a) && decide (role a ≠ 3)
        && (decide (role a = 1) == decide (role (a + 1) = 2))
        && !(decide (a = 0) && decide (role a = 2))
        && !(owner a && partner a) && (!partner a || (owner (oaddr a) && decide (tones a ≠ 0))))
  && (idx.all fun o => !owner o || idx.all fun a => idx.all fun c =>
        decide (a = c) || !ofOwner o a || !ofOwner o c || decide (Nat.land (tones a) (tones c) = 0))

/-- A register load (R440) (DEDUCED, log entry 17). -/
def regLoadOk (b : List Byte) : Bool :=
  let blk := fb b 0 0 6
  let n := fb b 0 16 16
  let o := w4 b 4
  only 0xFFFF003F (w4 b 0) && inR 1 0x17 blk && inR 1 16384 n && decide (o < 65536) && decide (o % 4 = 0)
  && decide (b.length = 8 + 4 * n) && decide (o + 4 * n ≤ 65536)
  && (List.range n).all fun i =>
      let off := 65536 * blk + o + 4 * i
      imgRegOk off (w4 b (8 + 4 * i)) && ((RegMap.find off).all fun p => decide (p.1.acc = .img) && !p.1.typed)

/-! ### A record on its own (R437, R438) -/

/-- The record types, whether the mask must name every part, and the largest count. -/
def recTypes : List (Nat × Bool × Nat) :=
  [(0x0101, true, 1), (0x0102, true, 4096), (0x0701, false, 16), (0x0702, true, 1), (0x0801, false, 8), (0x0901, false, 16),
   (0x0902, true, 1), (0x0903, true, 1), (0x0A01, false, 16), (0x0B01, false, 4), (0x0B02, true, 1), (0x0C01, false, 16),
   (0x0D01, true, 1), (0x0F01, true, 1), (0x1001, true, 1), (0x1101, true, 1), (0x1401, true, 1), (0x1501, true, 1)]

/-- The body of a record of type `t` holds by itself (DEDUCED, log entry 17). -/
def bodyOk (digests : List (List Byte)) (t : Nat) (b : List Byte) : Bool :=
  if t = 0x0101 then decide (b.length = 4) && inR 1 3 (w4 b 0)
  else if t = 0x0102 then regLoadOk b
  else if t = 0x0701 then scanPlanOk b
  else if t = 0x0702 then ledgerRecOk b
  else if t = 0x0801 then fieldSetOk b
  else if t = 0x0901 then fibrePlanOk b
  else if t = 0x0902 then fibreConstOk b
  else if t = 0x0903 then fibreZonesOk b
  else if t = 0x0A01 then fdcChanOk b
  else if t = 0x0B01 then capUnitOk b
  else if t = 0x0B02 then taeSetOk b
  else if t = 0x0C01 then tineProgOk digests b
  else if t = 0x0D01 then cleSetOk b
  else if t = 0x0F01 then mulchOk b
  else if t = 0x1001 then queuesOk b
  else if t = 0x1101 then schedOk b
  else if t = 0x1401 then cascadeOk b
  else decide (b.length = 0x228 + trailerLen)

/-- How a record stands by itself. -/
inductive RecVerdict where
  | good | skip | bad
  deriving DecidableEq, Repr

/-- The check of one record. `body` is the body without its padding, `pad` the padding bytes (DEDUCED, log entry 17). -/
def recVerdict (digests : List (List Byte)) (h body pad : List Byte) : RecVerdict :=
  let t := leAt h 0 2
  let mask := leAt h 6 2
  let flags := leAt h 8 4
  if leAt h 2 4 % 4 ≠ 0 || leAt h 2 4 = 0 || mask = 0 || flags > 1 || !(pad.all fun x => decide (x = 0))
    || slice h 12 4 ≠ (Config.shakeBytes (slice h 0 12 ++ body)).take 4 then .bad
  else match recTypes.find? fun x => decide (x.1 = t) with
  | none => if flags = 1 then .skip else .bad
  | some x => if (x.2.1 && decide (mask ≠ 0xFFFF)) || !bodyOk digests t body then .bad else .good

end Sys2Proof.Machine
end

