-- ==== Sys2Proof/Machine/ImageRules.lean ====
section
/-! DEFINITION. The rules that relate the records of an image (R442, R443), and the loader's verdict. -/

namespace Sys2Proof.Machine

/-- An image under check: its records with their indexes, what its records load into registers (offset, index, value), the
initial plans of its header, whether the records fill rec_count and rec_len, whether SVC0's line is in use, and the encoder
channels of the BRAKE chains. -/
structure ImgCheck where
  recs  : List (Nat × ImgRec)
  loads : List (Nat × Nat × Nat)
  plans : Nat
  full  : Bool
  svc   : Bool
  enc   : List Nat

/-- A failed rule: the records it names, and the type of a missing record. -/
abbrev RuleFail := List Nat × Nat

/-- A rule: nothing where it holds. -/
abbrev Rule := Option RuleFail

/-- A rule that fails when `c` holds. -/
def failIf (c : Bool) (names : List Nat) (missing : Nat) : Rule := if c then some (names, missing) else none

/-- The records of a type that apply at address `a`. -/
def ImgCheck.at (c : ImgCheck) (a t : Nat) : List (Nat × ImgRec) :=
  c.recs.filter fun r => decide (r.2.type = t) && bitB r.2.mask a

def idxs (l : List (Nat × ImgRec)) : List Nat := l.map (·.1)

/-- The value an image leaves in a register. -/
def ImgCheck.reg (c : ImgCheck) (off : Nat) : Nat :=
  match c.loads.find? fun x => decide (x.1 = off) with
  | some x => x.2.2
  | none => (RegMap.reset off).toNat

/-- A field of a register as the image leaves it. -/
def ImgCheck.fld (c : ImgCheck) (f : Fld) : Nat := bits (c.reg f.reg) f.lo f.len

/-- The records that load one of the registers. -/
def ImgCheck.loaders (c : ImgCheck) (offs : List Nat) : List Nat :=
  (c.loads.filter fun x => offs.contains x.1).map (·.2.1)

/-- A rule checked at every address (R442): it fails where it fails at one, naming what it names at any. -/
def everyAddr (f : Nat → Rule) : Rule :=
  match (List.range 16).filterMap f with
  | [] => none
  | x :: r => some ((x :: r).flatMap (·.1), x.2)

/-- Rules of one kind taken together. -/
def anyFail (l : List Rule) : Rule :=
  match l.filterMap id with
  | [] => none
  | x :: r => some ((x :: r).flatMap (·.1), x.2)

def ImgCheck.personality (c : ImgCheck) : Nat := ((c.at 0 0x0101).head?).elim 0 fun r => rf r.2 0 0 2
def ImgCheck.lidar (c : ImgCheck) : Bool := decide (c.personality % 2 = 1)
def ImgCheck.fibre (c : ImgCheck) : Bool := decide (2 ≤ c.personality)
def ImgCheck.persIdx (c : ImgCheck) : List Nat := idxs (c.at 0 0x0101)

/-! ### Counts and uniqueness (R438, R440, R442) -/

/-- A type has more records than its limit, or the personality is missing. -/
def ruleCounts (c : ImgCheck) : List Rule :=
  (recTypes.map fun x => everyAddr fun a => failIf (decide (x.2.2 < (c.at a x.1).length)) (idxs (c.at a x.1)) 0)
  ++ [failIf (c.at 0 0x0101).isEmpty [] 0x0101]

/-- Two records of type `t` at one address hold the same key. -/
def ruleUnique (c : ImgCheck) (t len : Nat) : Rule :=
  everyAddr fun a =>
    let l := c.at a t
    let dup := l.filter fun r => l.any fun q => decide (q.1 ≠ r.1) && decide (rf q.2 0 0 len = rf r.2 0 0 len)
    failIf (!dup.isEmpty) (idxs dup) 0

/-- A register loaded twice. -/
def ruleLoads (c : ImgCheck) : Rule :=
  let dup := c.loads.filter fun x => c.loads.any fun y => decide (y.1 = x.1) && decide (y.2.1 ≠ x.2.1)
  failIf (!dup.isEmpty) (dup.map (·.2.1)) 0

/-- The initial plans exist (R439). -/
def ruleInitial (c : ImgCheck) : List Rule :=
  let addrs := if (c.at 0 0x1401).isEmpty then 1 else 16
  let lacks (t p : Nat) : Bool := (List.range addrs).any fun a => !((c.at a t).any fun r => decide (rf r.2 0 0 4 = p))
  [failIf (c.lidar && lacks 0x0701 (c.plans % 16)) c.persIdx 0, failIf (c.fibre && lacks 0x0901 (c.plans / 16 % 16)) c.persIdx 0]

/-- The committed bodies fit the configuration region (R443) (DEDUCED, log entry 17). -/
def ruleSize (c : ImgCheck) : Rule :=
  failIf (decide (8 * 1048576 < sumN (c.recs.map fun r => r.2.body.length))) (idxs c.recs) 0

/-! ### Lidar (R88, R118, R126) -/

def ruleThr (c : ImgCheck) : Rule :=
  let regs := [Reg.PFE_THR_A, Reg.PFE_THR_B, Reg.PFE_THR_C, Reg.PFE_THR_D]
  let thr := ((regs.flatMap fun o => [bits (c.reg o) 0 16, bits (c.reg o) 16 16])).take 7
  let falls := (thr.zip (thr.drop 1)).any fun p => decide (p.2 < p.1)
  everyAddr fun a =>
    let ad := (c.at a 0x0701).filter fun r => decide (rf r.2 0 6 1 = 1)
    failIf (!ad.isEmpty && falls) (idxs ad ++ c.loaders regs) 0

def rulePick (c : ImgCheck) : Rule :=
  anyFail ((c.recs.filter fun r => decide (r.2.type = 0x0701)).map fun r =>
    let ch := rf r.2 0x0C 12 4
    let est := c.fld (Fld.TSU_CFG_est_gate ch)
    failIf (decide (c.fld (Fld.TSU_CFG_enable ch) = 0)
      || decide (100000 * est < 3 * rf r.2 0x10 0 20 * (100 + rf r.2 0x10 24 4))) (r.1 :: c.loaders [Reg.TSU_CFG ch]) 0)

def ruleLedger (c : ImgCheck) : List Rule :=
  let l := c.at 0 0x0702
  let pres := c.fld ⟨Reg.ESQ_BANK_PRESENT, 0, 16⟩
  let bad (r : ImgRec) : Bool := (List.range (rf r 8 0 7)).any fun i =>
    decide (leAt r.body (0x50 + 20 * i) 4 ≤ leAt r.body (0x4C + 20 * i) 4)
  let dark (r : ImgRec) : Bool := (List.range 16).any fun b => bitB pres b && decide (leAt r.body (0x0C + 4 * b) 4 = 0)
  [failIf (c.lidar && l.isEmpty) c.persIdx 0x0702,
   failIf (c.lidar && l.any fun r => bad r.2) (c.persIdx ++ idxs l) 0,
   failIf (c.lidar && l.any fun r => dark r.2) (c.persIdx ++ idxs l ++ c.loaders [Reg.ESQ_BANK_PRESENT]) 0]

/-! ### Fibre (R201, R209, R218, R228) -/

def ruleFibre (c : ImgCheck) : List Rule :=
  let noConst := (c.at 0 0x0902).isEmpty
  let plans := c.recs.filter fun r => decide (r.2.type = 0x0901)
  let dts := plans.filter fun r => decide (rf r.2 0 12 2 ≠ 0)
  let trig := plans.filter fun r => decide (rf r.2 0 4 1 = 1)
  [failIf (noConst && !dts.isEmpty) (idxs dts) 0x0902, failIf (!c.svc && !trig.isEmpty) (idxs trig) 0]

def ruleFdc (c : ImgCheck) : List Rule :=
  let das (a : Nat) : List (Nat × ImgRec) := (c.at a 0x0A01).filter fun r => decide (rf r.2 0 4 1 = 0)
  [everyAddr (fun a => anyFail ((das a).flatMap fun d => (c.at a 0x0901).map fun p =>
      failIf (decide (rf d.2 4 0 16 < rf p.2 4 16 5) || decide (rf p.2 4 0 16 < rf d.2 4 0 16 + rf d.2 4 16 16)) [d.1, p.1] 0)),
   everyAddr (fun a => anyFail ((c.at a 0x0901).map fun p =>
      failIf (decide (10 * rf p.2 8 0 18 < sumN ((das a).map fun d => rf d.2 4 16 16))) (p.1 :: idxs (das a)) 0)),
   everyAddr (fun a => failIf (!(das a).isEmpty && !c.fibre) (c.persIdx ++ idxs (das a)) 0)]

/-- How a source numbers its frames (R218, R266): whether in frames, whether in sweeps. -/
def ImgCheck.numbering (c : ImgCheck) (fuel a : Nat) (p : Nat × Nat) : Bool × Bool :=
  match fuel with
  | 0 => (false, false)
  | f + 1 =>
    let join (l : List (Bool × Bool)) : Bool × Bool := (l.any (·.1), l.any (·.2))
    if p.1 = Src.fib then (false, true)
    else if p.1 = Src.fdc then (!c.fibre, c.fibre)
    else if p.1 = Src.tae then
      if p.2 = 2 then (true, false) else join ((c.at a 0x0B01).map fun r => c.numbering f a (srcAt r.2.body 0x18))
    else if p.1 = Src.tin then
      join (((c.at a 0x0C01).filter fun r => decide (rf r.2 0 0 4 = p.2)).map fun r => c.numbering f a (srcAt r.2.body 0x10))
    else (true, false)

/-- A record mixes sources numbered in frames with sources numbered in sweeps. -/
def ImgCheck.mixes (c : ImgCheck) (a base step n : Nat) (r : ImgRec) : Bool :=
  let k := (List.range n).map fun i => c.numbering 20 a (srcAt r.body (base + step * i))
  (k.any (·.1)) && (k.any (·.2))

def ruleCapture (c : ImgCheck) : List Rule :=
  [everyAddr (fun a =>
      let m := (c.at a 0x0B01).filter fun r => c.mixes a 0x18 8 (rf r.2 0 8 4) r.2
      failIf (!m.isEmpty) (c.persIdx ++ idxs m) 0),
   everyAddr (fun a => failIf (decide (160 < sumN ((c.at a 0x0B01).map fun r => rf r.2 0 16 8))) (idxs (c.at a 0x0B01)) 0)]

def ruleTae (c : ImgCheck) : Rule :=
  let t := c.at 0 0x0B02
  let z := c.at 0 0x0903
  let ents := t.head?.elim 0 fun r => (r.2.body.length - 0x10) / 8
  let n := z.head?.elim 0 fun r => rf r.2 0 0 7
  failIf (!t.isEmpty && decide (ents ≠ n)) (idxs t ++ idxs z) 0x0903

/-! ### Tine programs (R259) -/

def ruleTines (c : ImgCheck) : List Rule :=
  let t (a : Nat) : List (Nat × ImgRec) := c.at a 0x0C01
  let on (k a : Nat) : List (Nat × ImgRec) := (t a).filter fun r => bitB (rf r.2 0x0C 0 16) k
  let lo (r : ImgRec) : Nat := leAt r.body 0x20 4
  let hi (r : ImgRec) : Nat := leAt r.body 0x20 4 + leAt r.body 0x24 4
  [everyAddr (fun a =>
      let m := (t a).filter fun r => c.mixes a 0x10 4 (rf r.2 0 8 3) r.2
      failIf (!m.isEmpty) (c.persIdx ++ idxs m) 0),
   everyAddr (fun a => anyFail ((List.range 16).map fun k =>
      failIf (decide (4096 < sumN ((on k a).map fun r => rf r.2 0x2C 0 13))) (idxs (on k a)) 0)),
   everyAddr (fun a => anyFail ((t a).flatMap fun r => (t a).map fun q =>
      failIf (decide (r.1 < q.1) && decide (lo r.2 < hi q.2) && decide (lo q.2 < hi r.2) && decide (lo r.2 < hi r.2)
        && decide (lo q.2 < hi q.2)) [r.1, q.1] 0)),
   everyAddr (fun a => failIf (decide (64 < 2 * sumN ((t a).map fun r => rf r.2 0x28 0 8))) (idxs (t a)) 0)]

/-! ### Loops and aux channels (R41, R275, R286, R298, R351) -/

/-- The CLE record, named where a loop's registers are read. -/
def ImgCheck.cle (c : ImgCheck) : List Nat := idxs (c.at 0 0x0D01)

def ruleLoops (c : ImgCheck) : List Rule :=
  let on (n : Nat) : Bool := decide (c.fld (Fld.CLE_CFG_per n) ≠ 0)
  let src (n : Nat) : Nat := c.fld (Fld.CLE_CFG_sp_src n)
  let l := List.range 8
  let oven := decide (c.fld Fld.TBS_WARM_CFG_oven_mode = 1)
  let names := c.cle ++ c.loaders [Reg.TBS_WARM_CFG]
  [failIf (!c.lidar && l.any fun n => on n && decide (src n = 0)) (c.persIdx ++ c.cle) 0,
   failIf (c.lidar && l.any fun n => decide (n < 6) && on n && decide (src n ≠ 0)) (c.persIdx ++ c.cle) 0,
   anyFail (l.map fun n =>
     let ch := c.fld (Fld.CLE_CFG_fb_aux n)
     failIf (decide (c.fld (Fld.CLE_CFG_fb_src n) = 1) && decide (c.fld (Fld.ASF_CFG_mode ch) = 0)) (c.cle ++ c.loaders [Reg.ASF_CFG ch]) 0),
   failIf (oven && !(on 6 && decide (c.fld (Fld.CLE_CFG_fb_src 6) = 1))) names (if c.cle.isEmpty then 0x0D01 else 0)]

/-- The channel of schedule entry `e` (R298). -/
def ImgCheck.slotChan (c : ImgCheck) (e : Nat) : Nat := bits (c.reg (Reg.ASF_SLOTS (e / 8))) (4 * (e % 8)) 3

def ruleAux (c : ImgCheck) : List Rule :=
  let n := c.fld Fld.ASF_SCHED_n_slot
  let ts := c.fld Fld.ASF_SCHED_ts
  let sched := c.loaders (Reg.ASF_SCHED :: (List.range 4).map Reg.ASF_SLOTS)
  let pos (ch : Nat) : List Nat := (List.range n).filter fun e => decide (c.slotChan e = ch)
  let mode (ch : Nat) : Nat := c.fld (Fld.ASF_CFG_mode ch)
  let two (ch : Nat) : Bool := decide (mode ch = 2 ∨ mode ch = 3)
  let each (f : Nat → Rule) : Rule := anyFail ((List.range 8).map f)
  let gaps (l : List Nat) : List Nat := (l.zip (l.drop 1 ++ (l.take 1).map (· + n))).map fun p => p.2 - p.1
  let own (ch : Nat) : List Nat := c.loaders [Reg.ASF_CFG ch]
  let rtd (ch : Nat) : Bool := decide (1 ≤ mode ch ∧ mode ch ≤ 3)
  [each (fun ch => failIf ((gaps (pos ch)).any fun g => decide (g * (pos ch).length ≠ n)) sched 0),
   each (fun ch => failIf (two ch && decide ((pos ch).length % 2 = 1)) (own ch ++ sched) 0),
   each (fun ch => failIf (decide (mode ch ≠ 0) && (pos ch).isEmpty) (own ch ++ sched) 0),
   each (fun ch => failIf (decide (c.fld (Fld.ASF_CFG_hk ch) = 1) && decide (mode ch ≠ 0)
      && decide (128 * (pos ch).length < n * 2 ^ ts * (if two ch then 2 else 1))) (own ch ++ sched) 0),
   each (fun ch => failIf (rtd ch && decide (c.reg Reg.ASF_REF_RES % 2 ^ 24 = 0)) (own ch ++ c.loaders [Reg.ASF_REF_RES]) 0),
   each (fun ch => failIf (decide (c.fld (Fld.ASF_CFG_lin ch) ≠ 0) && decide (c.reg (Reg.ASF_LIN ch) % 2 ^ 20 = 0))
      (own ch ++ c.loaders [Reg.ASF_LIN ch]) 0),
   each (fun ch => failIf (decide (c.fld (Fld.ASF_CFG_lin ch) = 2) && decide (c.reg (Reg.ASF_LIN2 ch) % 65536 = 0))
      (own ch ++ c.loaders [Reg.ASF_LIN2 ch]) 0),
   (let ch := c.fld Fld.ALA_EMITTER_em_aux
    failIf (decide (c.fld Fld.ALA_EMITTER_em_en = 1) && decide (c.fld (Fld.ASF_CFG_hk ch) = 0)) (c.loaders [Reg.ALA_EMITTER] ++ own ch) 0)]

/-! ### The arbiter, the queues, Mulch and the host (R79, R300, R325, R334, R351, R371, R470) -/

def ruleArb (c : ImgCheck) : List Rule :=
  let tab := (List.range 8).map fun l => bits (c.reg (Reg.ALA_SHOT_TAB (l / 2))) (16 * (l % 2)) 10
  let park := (List.range 16).map fun i => bits (c.reg (if i < 8 then Reg.ALA_PARK_ORDER0 else Reg.ALA_PARK_ORDER1)) (4 * (i % 8)) 4
  let mask := if c.lidar && c.fibre then 0 else if c.lidar then 0x40 else 0x1E
  let sch := c.at 0 0x1101
  let off (r : ImgRec) : Bool := (List.range (r.body.length / 20)).any fun i => decide (leAt r.body (20 * i + 11) 2 ≠ mask)
  [failIf (decide (tab.getD 0 0 ≠ 512) || ((tab.zip (tab.drop 1)).any fun p => decide (p.1 < p.2)))
     (c.loaders ((List.range 4).map Reg.ALA_SHOT_TAB)) 0,
   failIf (decide (¬ park.Nodup)) (c.loaders [Reg.ALA_PARK_ORDER0, Reg.ALA_PARK_ORDER1]) 0,
   failIf (sch.any fun r => off r.2) (c.persIdx ++ idxs sch) 0]

def ruleMulch (c : ImgCheck) : Rule :=
  everyAddr fun a =>
    let das (ch : Nat) : Bool := (c.at a 0x0A01).any fun r => decide (rf r.2 0 0 4 = ch) && decide (rf r.2 0 4 1 = 0)
    let bad (r : ImgRec) : Bool := (List.range (rf r 0 0 6)).any fun i =>
      let p := srcAt r.body (4 + 8 * i)
      decide (3 ≤ rf r (4 + 8 * i) 16 3) && !(decide (p = (Src.fib, 0)) || (decide (p.1 = Src.fdc) && das p.2))
    let m := c.at a 0x0F01
    failIf (m.any fun r => bad r.2) (idxs m ++ idxs (c.at a 0x0A01)) 0

def ruleHost (c : ImgCheck) : Rule :=
  let key (m : Nat) : Nat := Nat.land (c.reg (Reg.HIF_STREAM_MAP m)) 0x3F3F
  let on := (List.range 64).filter fun m => bitB (c.reg (Reg.HIF_STREAM_MAP m)) 20
  let dup := on.filter fun m => on.any fun k => decide (k ≠ m) && decide (key k = key m)
  failIf (!dup.isEmpty) (c.loaders (dup.map Reg.HIF_STREAM_MAP)) 0

def ruleWindows (c : ImgCheck) : Rule :=
  anyFail ((List.range 16).map fun ch =>
    let cl := c.reg (Reg.TSU_WIN_CLOSE ch)
    failIf (decide (cl ≠ 0) && decide (cl ≤ c.reg (Reg.TSU_WIN_OPEN ch))) (c.loaders [Reg.TSU_WIN_OPEN ch, Reg.TSU_WIN_CLOSE ch]) 0)

/-- The channels of a BRAKE chain have windows of a Cloche request, 100 ms long or longer (R400). -/
def ruleBrake (c : ImgCheck) : Rule :=
  anyFail (c.enc.map fun ch =>
    let cl := c.reg (Reg.TSU_WIN_CLOSE ch)
    failIf (decide (c.fld (Fld.TSU_WIN_CFG_start_src ch) ≠ 4) || decide (cl < c.reg (Reg.TSU_WIN_OPEN ch) + 100000000))
      (c.loaders [Reg.TSU_WIN_CFG ch, Reg.TSU_WIN_OPEN ch, Reg.TSU_WIN_CLOSE ch]) 0)

def ruleCascade (c : ImgCheck) : Rule :=
  let r := c.at 0 0x1401
  let has := r.any fun x => (List.range 16).any fun a => decide (rf x.2 (0x40 + 4 * a) 3 1 = 1)
  let trig := (c.recs.filter fun r => decide (r.2.type = 0x0901)).filter fun p => decide (rf p.2 0 4 1 = 1)
  failIf (has && !trig.isEmpty) (idxs r ++ idxs trig) 0

/-! ### The verdict -/

/-- Every rule that relates several records (DEDUCED, log entry 16). -/
def imgRules (c : ImgCheck) : List Rule :=
  failIf (!c.full) [] 0 :: ruleCounts c
  ++ [ruleUnique c 0x0701 4, ruleUnique c 0x0801 3, ruleUnique c 0x0901 4, ruleUnique c 0x0A01 4, ruleUnique c 0x0B01 2,
      ruleUnique c 0x0C01 4, ruleLoads c, ruleSize c, ruleThr c, rulePick c, ruleTae c, ruleMulch c, ruleHost c, ruleWindows c,
      ruleBrake c, ruleCascade c]
  ++ ruleInitial c ++ ruleLedger c ++ ruleFibre c ++ ruleFdc c ++ ruleCapture c ++ ruleTines c ++ ruleLoops c ++ ruleAux c
  ++ ruleArb c

/-- What the first pass leaves: the records that hold, or the index and type of the first that fails, and whether rec_count and
rec_len are filled exactly. -/
structure Pass1 where
  recs : List (Nat × ImgRec) := []
  bad  : Option (Nat × Nat) := none
  full : Bool := false

/-- The first pass (R443): `n` records from index `i` on in `area` (DEDUCED, log entry 16). -/
def pass1 (digests : List (List Byte)) (n i : Nat) (area : List Byte) (acc : List (Nat × ImgRec)) : Pass1 :=
  match n with
  | 0 => { recs := acc, full := area.isEmpty }
  | n + 1 =>
    if area.length < 16 then { recs := acc, full := false }
    else
      let h := area.take 16
      let len := leAt h 2 4
      let padded := (len + 7) / 8 * 8
      let rest := area.drop 16
      if rest.length < padded then { bad := some (i, leAt h 0 2) }
      else
        let b := rest.take len
        match recVerdict digests h b ((rest.take padded).drop len) with
        | .bad => { bad := some (i, leAt h 0 2) }
        | .skip => pass1 digests n (i + 1) (rest.drop padded) acc
        | .good =>
          pass1 digests n (i + 1) (rest.drop padded) (acc ++ [(i, ⟨leAt h 0 2, leAt h 6 2, leAt h 8 4, b⟩)])

/-- The registers that a record loads, with their values (R440, R441, R228, R297, R299, R371). -/
def recLoads (r : ImgRec) : List (Nat × Nat) :=
  let b := r.body
  if r.type = 0x0102 then
    (List.range (rf r 0 16 16)).map fun i => (65536 * rf r 0 0 6 + leAt b 4 4 + 4 * i, leAt b (8 + 4 * i) 4)
  else if r.type = 0x0702 then
    [(Reg.ESQ_LEDGER_W0, w4 b 0), (Reg.ESQ_LEDGER_W1, w4 b 4), (Reg.ESQ_LEDGER_NSEC, w4 b 8)]
    ++ (List.range 16).map fun k => (Reg.ESQ_BANK_ENERGY k, w4 b (0x0C + 4 * k))
  else if r.type = 0x0B02 then
    [(Reg.TAE_REF_CFG, w4 b 0), (Reg.TAE_SKEW_CFG, w4 b 4), (Reg.TAE_MASK_CFG, w4 b 8), (Reg.TAE_MASK_CHAN, w4 b 0x0C)]
  else if r.type = 0x0D01 then
    (List.range 8).flatMap fun n => [(Reg.CLE_CFG n, w4 b (24 * n)), (Reg.CLE_BAND n, w4 b (24 * n + 4)), (Reg.CLE_INT n, w4 b (24 * n + 8)),
      (Reg.CLE_SLEW n, w4 b (24 * n + 12)), (Reg.CLE_SPC n, w4 b (24 * n + 16)), (Reg.CLE_SPTO n, w4 b (24 * n + 20))]
  else if r.type = 0x0F01 then [(Reg.MCD_NBIND, w4 b 0)]
  else if r.type = 0x1401 then
    [(Reg.TRL_CFG, w4 b 0), (Reg.TRL_MERGE_CFG, w4 b 4), (Reg.PLK_FAULT_CFG, w4 b 8), (Reg.PLK_CABLE_UP, w4 b 0x0C),
     (Reg.PLK_CABLE_DN, w4 b 0x10)]
  else []

/-- The loader's verdict on an image: its records, or the index and type for BOOT_REC_FAIL. -/
inductive LoadVerdict where
  | ok (recs : List ImgRec)
  | fail (index type : Nat)
  deriving DecidableEq, Repr

/-- The index and type that BOOT_REC_FAIL holds for a failed rule (R443). -/
def ruleReport (recs : List (Nat × ImgRec)) (f : RuleFail) : Nat × Nat :=
  match f.1 with
  | [] => (0xFFFF, f.2)
  | x :: r =>
    let i := r.foldl min x
    (i, ((recs.find? fun p => decide (p.1 = i)).map (·.2.type)).getD 0)

/-- Both passes (R443). Which of several failing rules of the second pass is reported is not stated: `pick` chooses
(DEDUCED, log entry 16). -/
def checkImage (svc : Bool) (enc : List Nat) (digests : List (List Byte)) (pick : Nat) (img : List Byte) : LoadVerdict :=
  let h := img.take 256
  let p := pass1 digests (hdrRecCount h) 0 ((img.drop 256).take (hdrRecLen h)) []
  match p.bad with
  | some x => .fail x.1 x.2
  | none =>
    let c : ImgCheck := { recs := p.recs, loads := p.recs.flatMap (fun r => (recLoads r.2).map fun x => (x.1, r.1, x.2)),
                          plans := hdrPlans h, full := p.full, svc := svc, enc := enc }
    match (imgRules c).filterMap id with
    | [] => .ok (p.recs.map (·.2))
    | l => let r := ruleReport p.recs (l.getD (pick % l.length) ([], 0)); .fail r.1 r.2

end Sys2Proof.Machine
end

