-- ==== Sys2Proof/Machine/Boot.lean ====
section
/-! DEFINITION. Start-up (chapter 14): straps (R431, R432), the directory and the choice of a slot (R434, R450), staging, checks
and commit (R443, R445, R451), BIST (R453), the Cloche's self-test (R389), start-up calibration (R66), rail measurement
(R105), and the beginning of frame 0 or sweep 0. -/

namespace Sys2Proof.Machine

/-! ### POR_N (R431, R432, R523, R525) -/

/-- What POR_N low leaves (R523, R525): the reset state; the OTP and the NVM keep their contents, and a slot that was being
written has an erased header (R456) (DEDUCED, log entry 22). -/
def porReset (s : State) : State :=
  let nvm := match s.hif.background with
    | some (_, .imgWrite b _) => if b then { s.nvm with slotB := [] } else { s.nvm with slotA := [] }
    | _ => s.nvm
  { State.reset with nvm := nvm, sec := { s.sec with katOk := false }, freeIdx := s.freeIdx, pending := s.pending }

/-- POR_N_ASSERT (R523): every output takes its reset state and what was in progress ends. -/
def onPorNAssert (s : State) : State := porReset s

/-- The strap faults (R432). -/
def strapFault (s : State) (x : Straps) : Bool :=
  let m := x.bootMode.toNat
  (decide (m = 1) && !x.commission) || (decide (m ≠ 1) && x.commission) || (decide (m = 3) && s.sec.testLock)
    || (x.testEn && decide (m ≠ 3))

/-- POR_N_RELEASE (R431, R432, R451 steps 1 and 2). -/
def onPorNRelease (straps : Straps) (s : State) : State :=
  let s := porReset s
  let s := { s with boot := { s.boot with straps := straps, mode := straps.bootMode.toNat, step := 3 } }
  if strapFault s straps then bootHalt (fault 0 Src.boot 0 .fatal 0 { s with boot := { s.boot with step := 2 } }) else s

/-! ### Step 3: directory and headers (R433, R434, R448 to R450) -/

/-- Whether two spans of bytes meet. -/
def spansMeet (a n b m : Nat) : Bool := decide (a < b + m) && decide (b < a + n)

/-- Whether a directory copy holds on a device of `size` bytes (R434). -/
def dirHolds (d : List Byte) (size : Nat) : Bool :=
  let k := 65536
  let a := leAt d 4 4
  let b := leAt d 8 4
  let n := leAt d 12 4
  let f := leAt d 16 4
  let ok (x : Nat) : Bool := decide (x ≠ 0) && decide (x % k = 0)
  decide (leAt d 0 4 = 0x44494C48) && decide (leAt d 60 4 = crc32c (slice d 0 60)) && ok a && ok b && ok n && ok f
    && !spansMeet a n b n && !spansMeet a n f (4 * k) && !spansMeet b n f (4 * k)
    && decide (a + n ≤ size) && decide (b + n ≤ size) && decide (f + 4 * k ≤ size)

/-- No image can run (R453): EVT 3 and boot halt. -/
def noImage (s : State) : State := bootHalt (fault 3 Src.boot 0 .fatal 0 s)

/-- A slot or recovery image fails (R450, R455): EVT 2; its cause shows. -/
def slotFails (k cause : Nat) (s : State) : State :=
  let s := stick Reg.BOOT_STICKY 0 (fault 2 Src.boot 0 .corrected k s)
  match k with
  | 0 => { s with boot := { s.boot with slotA := { s.boot.slotA with cause := cause } } }
  | 1 => { s with boot := { s.boot with slotB := { s.boot.slotB with cause := cause } } }
  | _ => s

/-- The header of a slot is judged (R450): its cause, whether it was examined, its generation. -/
def slotHeader (s : State) (h : List Byte) : SlotSt :=
  let c := headerCause s h s.boot.slotSize
  { cause := c, checked := true, gen := if c = 1 then 0 else hdrGen h }

/-- The candidates in order (R450): highest generation first, slot A first on equal ones. -/
def candidateOrder (a b : SlotSt) : List Nat :=
  if a.cause = 0 then (if b.cause = 0 then (if a.gen < b.gen then [1, 0] else [0, 1]) else [0])
  else if b.cause = 0 then [1] else []

/-- The slots are judged and the first candidate is staged, or start-up ends (R450, R453). -/
def judgeSlots (r : NvmRead) (s : State) : State :=
  let a := slotHeader s r.hdrA
  let b := slotHeader s r.hdrB
  let l := candidateOrder a b
  let s := { s with boot := { s.boot with slotA := a, slotB := b, candidates := l } }
  let s := if a.cause ≠ 0 then slotFails 0 a.cause s else s
  let s := if b.cause ≠ 0 then slotFails 1 b.cause s else s
  if l.isEmpty then noImage s else { s with boot := { s.boot with step := 4 } }

/-- After the directory: the known-answer tests, then the slots or the wait for a recovery image (R448, R455)
(DEDUCED, log entry 20). -/
def afterDirectory (r : NvmRead) (s : State) : State :=
  if !r.katOk then bootHalt (fault 16 Src.sec 0 .fatal 0 s)
  else
    let s := { s with sec := { s.sec with katOk := true } }
    if s.boot.mode = 2 then raise 12 { s with boot := { s.boot with step := 4 } } else judgeSlots r s

/-- A directory copy fails: EVT 1. -/
def dirBad (s : State) : State := stick Reg.BOOT_STICKY 1 (fault 1 Src.boot 0 .corrected 0 s)

/-- NVM_HEADERS_READ (R433, R434, R448 to R450, step 3). -/
def onNvmHeadersRead (r : NvmRead) (s : State) : State :=
  if s.boot.step ≠ 3 then s
  else if !r.present || r.sizeMiB < 32 || 256 < r.sizeMiB then noImage (dirBad s)
  else
    let size := r.sizeMiB * 1048576
    let s := { s with boot := { s.boot with nvmMiB := r.sizeMiB }, nvm := { s.nvm with dir0 := r.dir0, dir1 := r.dir1 } }
    let copy := if dirHolds r.dir0 size then 1 else if dirHolds r.dir1 size then 2 else 0
    if copy = 0 then noImage (dirBad s)
    else
      let d := if copy = 1 then r.dir0 else r.dir1
      let s := { s with boot := { s.boot with dirCopy := copy, slotSize := leAt d 12 4 }, nvm := { s.nvm with safety := r.safety } }
      afterDirectory r (if copy = 1 then s else dirBad s)

/-! ### Steps 4 and 5: staging, checks, commit (R436, R443, R445, R451) -/

/-- The digests that the block in force gives the programs of slots 1 and 2 (R267, R425). -/
def blockDigests (s : State) : List (List Byte) :=
  let b := (blockInForce s).getD []
  [slice b (0x40 + 0x1A4) 32, slice b (0x40 + 0x1C4) 32]

/-- The encoder channels that the BRAKE chains of the block in force name (R400) (DEDUCED, log entry 16). -/
def brakeChannels (s : State) : List Nat :=
  let b := (blockInForce s).getD []
  let chains := (List.range 8).filter fun c => decide (blockField b (0x24 + 32 * c) 0 3 = 5)
  chains.flatMap fun c =>
    blockField b (0x38 + 32 * c) 0 4 :: (if blockField b (0x38 + 32 * c) 8 1 = 1 then [blockField b (0x38 + 32 * c) 4 4] else [])

/-- Whether an aux line serves the calibration service channel (R68). -/
def serviceLine (s : State) : Bool := !s.tsu.retired.getLsbD (s.tsu.lineOf.getD 16 0)

/-- The image digest (R436). -/
def imageDigest (img : List Byte) : List Byte := Config.shakeBytes (img.take (hdrTrlOff img))

/-- The cause with which a staged image fails (R453), 0 for none, before its records are checked. -/
def stagedCause (s : State) (img : List Byte) (room : Nat) (eccOk : Bool) : Nat :=
  if !eccOk then 7
  else
    let c := headerCause s img room
    if c ≠ 0 then c else trailerCause s (img.drop (hdrTrlOff img)) (imageDigest img)

/-- The verdict on a staged image: its records, or the cause with the record failure. -/
def imageVerdict (s : State) (img : List Byte) (room : Nat) (eccOk : Bool) : Nat × LoadVerdict :=
  let c := stagedCause s img room eccOk
  if c ≠ 0 then (c, .fail 0 0)
  else
    match checkImage (serviceLine s) (brakeChannels s) (blockDigests s) (freeVal s) img with
    | .ok l => (0, .ok l)
    | .fail i t => (6, .fail i t)

/-- A record failure shows in BOOT_REC_FAIL (R443): EVT 4 (DEDUCED, log entry 16). -/
def recordFails (i t : Nat) (s : State) : State :=
  raise 4 (useFree { s with boot := { s.boot with recFail := i + 65536 * t } })

/-- The registers that the records load (R440) (DEDUCED, log entry 19). -/
def loadRegs (recs : List ImgRec) (s : State) : State :=
  (recs.flatMap recLoads).foldl (fun s x => if (RegMap.find x.1).isSome then wr x.1 (BitVec.ofNat 32 x.2) s else s) s

/-- The commit (R451 step 5): the records take effect, and the blocks named there are enabled. `slot` is coded as in
BOOT_STATUS, `ms` the time since the release of POR_N (DEDUCED, log entry 20). -/
def commitImage (slot ms : Nat) (img : List Byte) (recs : List ImgRec) (s : State) : State :=
  let s := tinLoad (loadRegs recs { s with cfg := { recs := recs, applied := false } })
  let s := match recOf s 0x1001 with
    | some r => { s with qsy := { s.qsy with depth := queueDepths r.body } }
    | none => s
  let fb := s.boot.tried && decide (slot ≠ 3)
  let s := { s with
    boot := { s.boot with
      running := slot, fallback := fb, repro := (recOf s 0x1101).isSome, imgGen := hdrGen img, secVer := hdrSecVer img,
      keySlot := leAt img (hdrTrlOff img + 2) 1, initPlans := hdrPlans img, digest := imageDigest img, tLoaded := ms,
      candidates := [], step := 6 },
    tb := { s.tb with enabled := true } }
  let s := if fb then raise 5 s else s
  let s := if hasLidar s then (List.range 32).foldl (fun s k => biasEnable k true s) s else s
  raise 10 (firstGrant s)

/-- The image being staged fails with `cause`; the next candidate is tried, or none is left (R450). -/
def candidateFails (k cause : Nat) (s : State) : State :=
  let s := slotFails k cause s
  let s := { s with boot := { s.boot with candidates := s.boot.candidates.drop 1, tried := true } }
  if s.boot.candidates.isEmpty then noImage s else s

/-- IMAGE_STAGE_DONE (R451 steps 4 and 5): the staged candidate is verified and checked, and committed or dropped. -/
def onImageStageDone (bytes : List Byte) (eccOk : Bool) (ms : Nat) (s : State) : State :=
  match s.boot.candidates with
  | [] => s
  | k :: _ =>
    if s.boot.step ≠ 4 then s
    else
      let v := imageVerdict s bytes s.boot.slotSize eccOk
      match v.2 with
      | .ok recs => commitImage (k + 1) ms bytes recs s
      | .fail i t => candidateFails k v.1 (if v.1 = 6 then recordFails i t s else s)

/-! ### Steps 6 to 8 (R66, R389, R453) -/

/-- Start-up calibration begins (R66): every unfenced strip of the lidar personality and every aux line
(DEDUCED, log entry 20). -/
def calBegin (t : Tick) (s : State) : State :=
  let s := { s with boot := { s.boot with step := 8 }, pfe := { s.pfe with meterFrom := t } }
  (List.range 52).foldl (fun s k =>
    if decide (32 ≤ k) || (hasLidar s && !isFenced s (Unit.strip k)) then startCycle k .startup t s else s) s

/-- The M-tier bytes that the configuration needs (R453): capture rings, input buffers and the reserve. -/
def mtNeed (s : State) : Nat :=
  slotBase s 16 + sumN ((List.range 4).map fun u => (unitRec s u).elim 0 fun r => rf r 0 16 8 * mib)

/-- The largest need among the addresses that the part can have (R442): address 0 without a cascade record
(DEDUCED, log entry 22). -/
def mtNeedMax (s : State) : Nat :=
  let l := if (cascRec s).isSome then List.range 16 else [0]
  maxN (l.map fun a => mtNeed { s with cfg := { s.cfg with applied := true }, trl := { s.trl with addr := a } })

/-- BIST_DONE (R453 step 6): a failing SRAM halts, a failing bank is fenced; start-up goes on when the surviving banks hold
what the configuration needs (DESIGN CHOICE, log entry 5; DEDUCED, log entry 22). -/
def onBistDone (sramOk : Bool) (failed : BitVec 8) (t : Tick) (s : State) : State :=
  let s := advance t s
  if s.boot.step ≠ 6 then s
  else if !sramOk then bootHalt (fault 7 Src.boot 0 .fatal 0 { s with boot := { s.boot with bistSram := true, bistBanks := failed } })
  else
    let bad := (List.range 8).filter fun b => failed.getLsbD b
    let s := bad.foldl (fun s b => stick Reg.BOOT_STICKY 2 (fault 8 Src.boot b .contained 0 s)) s
    let s := { s with boot := { s.boot with bistBanks := failed, bistDone := true } }
    if (8 - bad.length) * 32 * mib < mtNeedMax s then bootHalt s
    else if s.clo.passed then calBegin t s
    else { s with boot := { s.boot with step := 7 } }

/-- CLOCHE_SELFTEST_DONE (R389, R453 step 7). -/
def onClocheSelftestDone (r : SelfTest) (t : Tick) (s : State) : State :=
  let s := advance t s
  if (s.boot.step ≠ 6 && s.boot.step ≠ 7) || s.clo.passed then s
  else
    let x := cloSelfTest r s
    if !x.2 then bootHalt (raise 9 x.1)
    else if x.1.boot.bistDone then calBegin t x.1
    else x.1

/-- STARTUP_CAL_DONE (R66, R90, step 8): every cycle has ended and the dark-count map of a lidar personality is complete; the ports are enabled (step 9)
(DEDUCED, log entry 54). -/
def onStartupCalDone (t : Tick) (s : State) : State :=
  let s := advance t s
  if s.boot.step = 8 && ((!hasLidar s || s.pfe.mapValid) && (List.range 52).all fun k => decide ((calOf s k).phase = .idle)) then
    linkBegin { s with pfe := { s.pfe with prevCount := [], prevEn := [], prevQuiet := 0 }, tdc := { s.tdc with calEnd := t, calDone := true }, boot := { s.boot with step := 9 } }
  else s

/-! ### Steps 10 and 11 (R105, R110, R179, R370) -/

/-- RAIL_MEASURE_DONE (R105, R509): the rails in turn; after the last one, frame 0 or sweep 0 may begin. In a bank's graft the rail
is measured alone. -/
def onRailMeasureDone (rail : Fin 4) (time : Option Nat) (t : Tick) (s : State) : State :=
  let s := advance t s
  if s.boot.step = 10 && decide (railMeasuring s = some rail.val) then
    let s := railMeasured rail time s
    if (List.range 4).all fun r => (railOf s r).done then
      { s with esq := { s.esq with railsDone := true }, boot := { s.boot with step := 11 } }
    else s
  else if decide (s.boot.step = 12) && decide (railMeasuring s = some rail.val) then railGraft rail time s
  else s

/-- Start-up is complete: frame 0 or sweep 0 begins (DEDUCED, log entries 20 and 21). -/
def startupEnds (ms : Nat) (s : State) : State :=
  { s with boot := { s.boot with step := 12, tFirst := ms, firstAt := now s, firstDue := true } }

/-- The first frame start (R110, R370): the last one due at `t` that does not lie before T0 (DEDUCED, log entry 21). -/
def firstPend (s : State) (t : Tick) : Option PendFrame :=
  (s.esq.pend.filter fun p => decide (s.trl.t0.getD 0 ≤ p.at_) && decide (p.at_ ≤ t)).getLast?

/-- FIRST_FRAME_START (R451 step 11): frame 0 or sweep 0 begins at the first start after step 10, or at T0
(DEDUCED, log entry 21). -/
def onFirstFrameStart (fibre : Bool) (t : Tick) (ms : Nat) (s : State) : State :=
  let s := advance t s
  if s.boot.step ≠ 11 then s
  else if fibre then
    match nextBoundary s t with
    | some (b, p) =>
      if hasFibre s && decide (s.trl.t0.getD 0 ≤ b) && decide (b ≤ t) then
        let s := startupEnds ms s
        sweepBoundary b p { s with esq := { s.esq with pend := s.esq.pend.filter fun p => decide (s.trl.t0.getD 0 ≤ p.at_) } }
      else s
    | none => s
  else
    match firstPend s t with
    | some p =>
      if hasLidar s then
        let s := startupEnds ms s
        frameBoundary p { s with esq := { s.esq with pend := p :: s.esq.pend.filter fun x => decide (p.at_ < x.at_) } }
      else s
    | none => s

/-! ### Meanings -/

/-- The meaning of this command: the step of `onPorNAssert` (R523). -/
def execPorNAssert (s : State) : Host.Outcome State Fault Refusal :=
  .next (onPorNAssert s)

/-- The meaning of this command: the step of `onPorNRelease` (R451). -/
def execPorNRelease (straps : Straps) (s : State) : Host.Outcome State Fault Refusal :=
  .next (onPorNRelease straps s)

/-- The meaning of this command: the step of `onNvmHeadersRead` (R450). -/
def execNvmHeadersRead (r : NvmRead) (s : State) : Host.Outcome State Fault Refusal :=
  .next (onNvmHeadersRead r s)

/-- The meaning of this command: the step of `onImageStageDone` (R451). -/
def execImageStageDone (bytes : List Byte) (eccOk : Bool) (ms : Nat) (s : State) : Host.Outcome State Fault Refusal :=
  .next (onImageStageDone bytes eccOk ms s)

/-- The meaning of this command: the step of `onBistDone` (R453). -/
def execBistDone (sramOk : Bool) (failed : BitVec 8) (t : Tick) (s : State) : Host.Outcome State Fault Refusal :=
  .next (onBistDone sramOk failed t s)

/-- The meaning of this command: the step of `onClocheSelftestDone` (R389). -/
def execClocheSelftestDone (r : SelfTest) (t : Tick) (s : State) : Host.Outcome State Fault Refusal :=
  .next (onClocheSelftestDone r t s)

/-- The meaning of this command: the step of `onStartupCalDone` (R66). -/
def execStartupCalDone (t : Tick) (s : State) : Host.Outcome State Fault Refusal :=
  .next (onStartupCalDone t s)

/-- The meaning of this command: the step of `onRailMeasureDone` (R105). -/
def execRailMeasureDone (rail : Fin 4) (time : Option Nat) (t : Tick) (s : State) : Host.Outcome State Fault Refusal :=
  .next (onRailMeasureDone rail time t s)

/-- The meaning of this command: the step of `onFirstFrameStart` (R451). -/
def execFirstFrameStart (fibre : Bool) (t : Tick) (ms : Nat) (s : State) : Host.Outcome State Fault Refusal :=
  .next (onFirstFrameStart fibre t ms s)

end Sys2Proof.Machine
end

