-- ==== Sys2Proof/Machine/Views.lean ====
section
/-! DEFINITION. What a host read returns (R7, R8, R12, R468, R469): the read-only registers of TBS, TSU, TDC, PFE, ESQ, HSE, BOOT,
SEC and HIF as functions of the state (R77 to R79, R100, R136, R166, R461, R462, R491), those of the other blocks from
their files, and the stored words. -/

namespace Sys2Proof.Machine

/-- The low and the high word of a 64-bit quantity. -/
def lo32 (v : Nat) : Nat := v % 2 ^ 32
def hi32 (v : Nat) : Nat := v / 2 ^ 32 % 2 ^ 32

/-- The value that `f` gives for the index of a register in an array of `n` from `base`, `stride` bytes apart. -/
def arrayView (off base stride n : Nat) (f : Nat → Nat) : Option Nat :=
  if base ≤ off && off < base + stride * n && (off - base) % stride = 0 then some (f ((off - base) / stride)) else none

/-- The first of several views that knows the register. -/
def firstView (l : List (Option Nat)) : Option Nat := l.findSome? id

/-! ### TBS and TSU (R77, R79) -/

/-- What a read-only TBS register reads (R77) (DESIGN CHOICE, log entry 60). -/
def tbsView (s : State) (off : Nat) : Option Nat :=
  let t := s.tb
  let phi := uval 64 t.phi
  let pct (q : Rat) : Nat := (quantOf s (q * 100)).toNat % 2 ^ 14
  let wf := if hasLidar s then t.warmL else t.warmF
  if off = Reg.TBS_STATUS then some (b2n t.pllLock + 2 * b2n t.refOk + 4 * b2n t.warm + 8 * b2n t.holdover)
  else if off = Reg.TBS_HTR_DUTY then some (pct t.duty + 2 ^ 16 * pct t.refDuty)
  else if off = Reg.TBS_WARM_TIMER then some (min t.held (2 ^ 21 - 1))
  else if off = Reg.TBS_WARM_FRAME then some (wf.getD 0 % 2 ^ 24)
  else if off = Reg.TBS_TIME_LO then some (lo32 (now s))
  else if off = Reg.TBS_TIME_HI then some (hi32 (now s))
  else if off = Reg.TBS_OFFSET_LO then some (lo32 phi)
  else if off = Reg.TBS_OFFSET_HI then some (hi32 phi)
  else none

/-- What a read-only TSU register reads (R79) (DEDUCED, log entry 52). -/
def tsuView (s : State) (off : Nat) : Option Nat :=
  let u := s.tsu
  let arr (base : Nat) (f : Nat → Nat) : Option Nat := arrayView off base 64 16 f
  if off = Reg.TSU_AUX_STATUS then some (u.spare + 32 * b2n u.stopped + 256 * u.retired.toNat)
  else if off = Reg.TSU_SVC_LINE then some (u.lineOf.getD 16 0 + 256 * u.lineOf.getD 17 0 + 65536 * u.lineOf.getD 18 0)
  else firstView
    [arr (Reg.TSU_PERIOD_LO 0) fun c => lo32 (tsiOf s c).period,
     arr (Reg.TSU_PERIOD_HI 0) fun c => hi32 (tsiOf s c).period,
     arr (Reg.TSU_EST_COUNT 0) fun c => (tsiOf s c).estN,
     arr (Reg.TSU_EST_MIN 0) fun c => lo32 (tsiOf s c).estMin,
     arr (Reg.TSU_EST_MAX 0) fun c => lo32 (tsiOf s c).estMax,
     arr (Reg.TSU_EST_STAT 0) fun c => b2n (tsiOf s c).estValid + 256 * ((tsiOf s c).estGate % 2 ^ 24),
     arr (Reg.TSU_WIN_LAST 0) fun c =>
       (tsiOf s c).winCount + 2 ^ 16 * b2n (tsiOf s c).winHit + 2 ^ 17 * b2n (tsiOf s c).winRest,
     arr (Reg.TSU_LINE 0) fun c => u.lineOf.getD c 0]

/-! ### TDC and PFE (R78, R100) -/

/-- One entry of TDC_DIAG_DATA: a trim, a count of the last pass, or a map entry (DEDUCED, log entry 52). -/
def diagData (s : State) (t : Nat) : Nat :=
  let l := rdf s Fld.TDC_DIAG_SEL_line
  match rdf s Fld.TDC_DIAG_SEL_view with
  | 0 => uval 32 ((lineOf s l).trims.getD t 0)
  | 1 => (Tab.lookD s.tdc.lastPass l []).getD t 0
  | _ => (lineOf s l).map.getD t 0

/-- The interval of the band in force (R64); 60 s before the first grant (DEDUCED, log entry 52). -/
def calSeconds (s : State) : Nat :=
  if s.esq.grant.isEmpty && s.ala.grant.isEmpty then 60 else calInterval (bandInForce s) / 64000000000

/-- What a read-only TDC register reads (R78) (DEDUCED, log entry 52). -/
def tdcView (s : State) (off : Nat) : Option Nat :=
  let stripBits (p : Nat → Bool) : Option Nat := some (maskOf 32 p)
  if off = Reg.TDC_CAL_ACTIVE then stripBits fun k => decide ((calOf s k).phase ≠ .idle)
  else if off = Reg.TDC_CAL_TEST then stripBits fun k => (calOf s k).underTest
  else if off = Reg.TDC_FENCED then stripBits fun k => isFenced s (Unit.strip k)
  else if off = Reg.TDC_CAL_INTERVAL then some (calSeconds s)
  else firstView
    [arrayView off (Reg.TDC_STRIP_STAT 0) 4 32 fun k =>
       (calOf s k).last + 8 * (calOf s k).attempt + 32 * (calOf s k).fails + 256 * min (calOf s k).accepted 65535,
     arrayView off (Reg.TDC_DIAG_DATA 0) 4 97 (diagData s)]

/-- Whether every unfenced strip is biased (R100): its regulator on, measured, and neither low nor failed. -/
def biasReady (s : State) : Bool :=
  (List.range 32).all fun k => isFenced s (Unit.strip k)
    || ((biasOf s k).on && decide ((biasOf s k).bias ≠ 0) && !(biasOf s k).low && !(biasOf s k).fail)

/-- The map entry of a SPAD in cps (R100): 0 for an image-masked SPAD. -/
def dcrCps (s : State) (c q : Nat) : Nat :=
  if bitB (imask s c) q then 0 else min (quantOf s (rateOf (Tab.lookD s.pfe.dcr (16 * c + q) (0, 0)))).toNat (2 ^ 32 - 1)

/-- What a read-only PFE register reads (R100) (DESIGN CHOICE, log entry 60). -/
def pfeView (s : State) (off : Nat) : Option Nat :=
  let p := s.pfe
  if off = Reg.PFE_STATUS then some (b2n (biasReady s) + 2 * b2n p.mapValid + 2 ^ 16 * p.satChans)
  else if off = Reg.PFE_BD_TRIM then some Config.bdTrim.toNat
  else if off = Reg.PFE_PLAN_COINC then
    some (pf s 0 6 1 + 2 ^ 4 * pf s 0 8 4 + 2 ^ 8 * pf s 0 12 4 + 2 ^ 12 * pf s 0 16 4 + 2 ^ 16 * pf s 0 20 4
      + 2 ^ 24 * pf s 0 24 8)
  else if off = Reg.PFE_PLAN_GATE then some (planBlankStart s + 2 ^ 16 * planBlankLen s)
  else if off = Reg.PFE_MASK_COUNT then
    some (sumN (p.amask.map fun e => ((List.range 16).filter fun q => e.2.getLsbD q).length))
  else firstView
    [arrayView off (Reg.PFE_BIAS_STAT 0) 4 32 fun k =>
       let b := biasOf s k
       (quantOf s ((b.bias : Rat) / 10)).toNat % 2 ^ 12 + 2 ^ 12 * b2n b.low + 2 ^ 13 * b2n b.fail + 2 ^ 14 * b2n (!b.on),
     arrayView off (Reg.PFE_DEPTH 0) 4 64 fun i => sumN ((List.range 8).map fun m => 16 ^ m * (Tab.lookD p.depth (8 * i + m) 0 % 16)),
     arrayView off (Reg.PFE_DCR_DATA 0) 4 16 fun q => dcrCps s (rdf s Fld.PFE_DCR_SEL_channel) q,
     arrayView off (Reg.PFE_AMASK 0) 4 256 fun i => amaskOf s (2 * i) + 2 ^ 16 * amaskOf s (2 * i + 1)]

/-! ### ESQ and HSE (R136, R166) -/

/-- The cause of a hold of emission as ESQ_STATUS shows it, 0 for none. -/
def holdCause (s : State) : Nat :=
  if s.esq.plan.isNone then 1
  else if s.esq.frame.nominal then 2
  else if s.esq.holdMiss then 3
  else if s.esq.settle ≠ 0 then 4
  else if acqStopped s then 5
  else 0

/-- Whether shots may fire (R136). -/
def emitting (s : State) : Bool := hasLidar s && s.esq.col.active && !s.esq.col.held && !acqStopped s

/-- The current sum of a window of the selected sector (R136). -/
def sectorSum (s : State) (j : Nat) : Nat :=
  if bucketLen s j = 0 then 0 else ledgerSum s (rdf s Fld.ESQ_SECTOR_SEL_sector) j (bucketOf s j (now s))

/-- What a read-only ESQ register reads (R136) (DESIGN CHOICE, log entry 60). -/
def esqView (s : State) (off : Nat) : Option Nat :=
  let e := s.esq
  let sec (w : Nat) : Option Nat := some (sectorWord s (rdf s Fld.ESQ_SECTOR_SEL_sector) w)
  if off = Reg.ESQ_STATUS then some (b2n (emitting s) + 2 * holdCause s + 16 * b2n e.railsDone)
  else if off = Reg.ESQ_FRAME_STAT then
    some (e.plan.getD 0 % 16 + 16 * b2n e.frame.backward + 32 * b2n e.frame.predicted + 256 * min 255 e.misses)
  else if off = Reg.ESQ_FRAME then some (e.ctx.frame % 2 ^ 24)
  else if off = Reg.ESQ_PERIOD then some ((quantOf s ((e.frame.period : Rat) / 4194304)).toNat % 2 ^ 32)
  else if off = Reg.ESQ_GRANT then some (gShot e.grant)
  else if off = Reg.ESQ_BANK_FENCED then some (maskOf 16 fun b => isFenced s (Unit.bank b))
  else if off = Reg.ESQ_SWAP_STAT then
    match e.staged.find? fun x => !x.fibre with
    | some x => some (x.target % 2 ^ 24 + 2 ^ 24 + 2 ^ 25 * b2n x.committed + 2 ^ 26 * (x.plan % 16))
    | none => some 0
  else if off = Reg.ESQ_SECTOR_LO then sec 0
  else if off = Reg.ESQ_SECTOR_HI then sec 1
  else if off = Reg.ESQ_SECTOR_BANKS then sec 2
  else if off = Reg.ESQ_SECTOR_B0 then sec 3
  else if off = Reg.ESQ_SECTOR_B1 then sec 4
  else if off = Reg.ESQ_SECTOR_SUM0 then some (sectorSum s 0 % 2 ^ 32)
  else if off = Reg.ESQ_SECTOR_SUM1 then some (sectorSum s 1 % 2 ^ 32)
  else arrayView off (Reg.ESQ_RAIL_TIME 0) 4 4 fun r =>
    (railOf s r).time + 2 ^ 16 * b2n (railOf s r).short + 2 ^ 17 * b2n (railOf s r).absent

/-- The byte at which band `n` of a field set begins (R157). -/
def bandOffset (r : ImgRec) (n : Nat) : Nat :=
  match n with
  | 0 => 8
  | n + 1 => let o := bandOffset r n; o + 8 + 4 * rf r (o + 4) 16 6

/-- The registers of the selected field set and band; 0 for a set that is not defined. -/
def fieldSetView (s : State) (f : ImgRec → Nat → Nat) : Option Nat :=
  match fieldSet s (rdf s Fld.HSE_FS_SEL_set) with
  | some r => some (f r (rdf s Fld.HSE_FS_SEL_band))
  | none => some 0

/-- What a read-only HSE register reads (R166) (DEDUCED, log entry 52). -/
def hseView (s : State) (off : Nat) : Option Nat :=
  let h := s.hse
  let n := rdf s Fld.HSE_FS_SEL_set
  if off = Reg.HSE_STATUS then
    some ((match h.role with | .single => 0 | .leader => 3 | .follower => 1) + 4 * b2n s.esq.col.deferFine
      + 8 * b2n s.esq.col.deferCanopy + 2 ^ 8 * maskOf 8 (fun i => (fieldSet s i).isSome) + 2 ^ 16 * h.lastViol.toNat)
  else if off = Reg.HSE_FS_CFG then fieldSetView s fun r _ => rf r 0 8 5 + 2 ^ 8 * rf r 0 16 6 + 2 ^ 16 * rf r 4 0 16
  else if off = Reg.HSE_FS_BAND then
    fieldSetView s fun r b => rf r (bandOffset r b) 0 9 + 2 ^ 16 * rf r (bandOffset r b) 16 9
  else if off = Reg.HSE_FS_BAND2 then fieldSetView s fun r b => rf r (bandOffset r b + 4) 0 22
  else if off = Reg.HSE_FS_VERDICT then fieldSetView s fun _ _ => Tab.lookD h.verdict n 0 + 2 ^ 16 * Tab.lookD h.lastUnobs n 0
  else if off = Reg.HSE_FS_COUNT then fieldSetView s fun _ _ => Tab.lookD h.lastCount n 0
  else if off = Reg.HSE_FS_UNOBS then fieldSetView s fun r _ => rf r 4 16 16
  else firstView
    [arrayView off (Reg.HSE_STRIP_STAT 0) 4 32 fun k =>
       Tab.lookD h.lostCols k 0 + 2 ^ 16 * b2n (isFenced s (Unit.strip k)) + 2 ^ 24 * min 255 (Tab.lookD h.records k 0),
     arrayView off (Reg.HSE_SKEW 0) 4 256 fun i =>
       uval 16 (Tab.lookD h.skew (2 * i) 0) + 2 ^ 16 * uval 16 (Tab.lookD h.skew (2 * i + 1) 0)]

/-! ### BOOT, SEC and HIF (R461, R462, R491) -/

/-- What a read-only BOOT register reads (R461). -/
def bootView (s : State) (off : Nat) : Option Nat :=
  let b := s.boot
  if off = Reg.BOOT_STATUS then
    some (b.step + 16 * (b.mode % 4) + 64 * b2n b.straps.commission + 128 * b2n b.straps.master + 256 * b2n b.straps.testEn
      + 512 * b.running + 2048 * b2n b.fallback + 4096 * b2n b.repro)
  else if off = Reg.BOOT_DEVICE_ID then some (0xB14512 + 2 ^ 24 * b2n Config.variantIN)
  else if off = Reg.BOOT_UID_LO then some (lo32 Config.uid.toNat)
  else if off = Reg.BOOT_UID_HI then some (hi32 Config.uid.toNat)
  else if off = Reg.BOOT_IMG_GEN then some b.imgGen
  else if off = Reg.BOOT_IMG_INFO then some (b.secVer + 256 * b.keySlot)
  else if off = Reg.BOOT_SLOT_STAT then
    some (b.slotA.cause + 16 * b2n b.slotA.checked + 256 * (b.slotB.cause + 16 * b2n b.slotB.checked))
  else if off = Reg.BOOT_GEN_A then some b.slotA.gen
  else if off = Reg.BOOT_GEN_B then some b.slotB.gen
  else if off = Reg.BOOT_REC_FAIL then some b.recFail
  else if off = Reg.BOOT_T_LOADED then some (b.tLoaded % 65536)
  else if off = Reg.BOOT_T_FIRST then some (if b.firstDue then 0 else b.tFirst % 65536)
  else if off = Reg.BOOT_NVM then some (b.nvmMiB + 2 ^ 16 * b.dirCopy)
  else if off = Reg.BOOT_BIST then some (b.bistBanks.toNat + 256 * b2n b.bistSram)
  else arrayView off (Reg.BOOT_DIGEST 0) 4 8 fun i => leAt b.digest (4 * i) 4

/-- The word `i` of the hashes of a kind of key slot. -/
def hashWord (l : List (List Byte)) (i : Nat) : Nat := leAt (l.getD (i / 8) []) (4 * (i % 8)) 4

/-- What a read-only SEC register reads (R462) (DESIGN CHOICE, log entry 60). -/
def secView (s : State) (off : Nat) : Option Nat :=
  let c := s.sec
  if off = Reg.SEC_STATUS then
    some (b2n c.katOk + 2 * b2n c.testLock + 4 * c.ksRevoked.toNat + 64 * c.arRevoked.toNat
      + 256 * maskOf 4 (fun k => !emptySlot (c.ks.getD k [])) + 4096 * maskOf 2 fun k => !emptySlot (c.ar.getD k []))
  else if off = Reg.SEC_ROLLBACK then some c.rollback
  else firstView [arrayView off (Reg.SEC_KS_HASH 0) 4 32 (hashWord c.ks), arrayView off (Reg.SEC_AR_HASH 0) 4 16 (hashWord c.ar)]

/-- A ring's record. -/
def ringOf (s : State) (h2c : Bool) (n : Nat) : Ring := Tab.lookD (if h2c then s.hif.h2c else s.hif.c2h) n {}

/-- The registers of a ring (R491). -/
def ringCtrl (h2c : Bool) (n : Nat) : Nat := if h2c then Reg.HIF_H2C_CTRL n else Reg.HIF_C2H_CTRL n
def ringProdReg (h2c : Bool) (n : Nat) : Nat := if h2c then Reg.HIF_H2C_PROD n else Reg.HIF_C2H_PROD n

/-- The entries of a ring (R475); 0 while size_log2 is 0. -/
def ringSize (s : State) (h2c : Bool) (n : Nat) : Nat :=
  let l := bits (rd s (ringCtrl h2c n)).toNat 0 5
  if l = 0 then 0 else 2 ^ l

/-- The descriptors posted and not yet used (R475). -/
def posted (s : State) (h2c : Bool) (n : Nat) : Nat :=
  let z := ringSize s h2c n
  if z = 0 then 0 else ((rd s (ringProdReg h2c n)).toNat % 65536 + z - (ringOf s h2c n).cons % z) % z

/-- C2H_STAT and H2C_STAT. -/
def ringStat (s : State) (h2c : Bool) (n : Nat) : Nat :=
  let r := ringOf s h2c n
  b2n r.running + 2 * b2n (r.running && decide (posted s h2c n = 0)) + 4 * b2n r.phase

/-- What a read-only HIF register reads (R491). -/
def hifView (s : State) (off : Nat) : Option Nat :=
  let h := s.hif
  if off = Reg.HIF_STATUS then
    some (h.speed + 16 * h.width + 256 * (if h.d3hot then 3 else 0) + 1024 * h.irqMode
      + 4096 * b2n (decide (h.width < h.negotiated)))
  else if off = Reg.HIF_ORDER_STAT then some (h.orderStat % 256 + 256 * (h.orderFrame % 2 ^ 24))
  else if off = Reg.HIF_EVT_SUMMARY then some (maskOf 10 fun g => decide (rd s (Reg.HIF_EVT_PEND g) ≠ 0))
  else firstView
    [arrayView off (Reg.HIF_C2H_CONS 0) 64 16 fun n => (ringOf s false n).cons,
     arrayView off (Reg.HIF_C2H_STAT 0) 64 16 (ringStat s false),
     arrayView off (Reg.HIF_H2C_CONS 0) 64 2 fun n => (ringOf s true n).cons,
     arrayView off (Reg.HIF_H2C_STAT 0) 64 2 (ringStat s true)]

/-! ### A read (R7, R8, R469) -/

/-- The view of a block's read-only registers, by its slot. -/
def blockView (s : State) (off : Nat) : Option Nat :=
  match off / 65536 with
  | 0x01 => bootView s off
  | 0x02 => secView s off
  | 0x03 => tbsView s off
  | 0x04 => tsuView s off
  | 0x05 => tdcView s off
  | 0x06 => pfeView s off
  | 0x07 => esqView s off
  | 0x08 => hseView s off
  | 0x09 => fibView s off
  | 0x0A => fdcView s off
  | 0x0B => taeView s off
  | 0x0C => tinView s off
  | 0x0D => cleView s off
  | 0x0E => asfView s off
  | 0x0F => mcdView s off
  | 0x10 => qsyView s off
  | 0x11 => alaView s off
  | 0x12 => hkpView s off
  | 0x13 => plkView s off
  | 0x14 => trlView s off
  | 0x15 => cloView s off
  | 0x16 => fclView s off
  | 0x17 => hifView s off
  | _ => none

/-- Whether BAR0 reaches the block of an offset: before step 5 has committed an image, and in boot halt, only BOOT, SEC, FCL and
HIF (R451, R454). -/
def barReaches (s : State) (off : Nat) : Bool :=
  [0x01, 0x02, 0x16, 0x17].contains (off / 65536) || (decide (6 ≤ s.boot.step) && decide (s.boot.step ≠ 15))

/-- The value of the register at `off` (R469): 0 for a reserved offset or a block that BAR0 does not reach
(DEDUCED, log entry 19). -/
def regView (s : State) (off : Nat) : Word32 :=
  if !barReaches s off || (RegMap.find off).isNone then 0
  else
    match blockView s off with
    | some v => BitVec.ofNat 32 v
    | none => rd s off

/-- The low words of the 64-bit quantities (R7). -/
def pairLows : List Nat :=
  [Reg.BOOT_UID_LO, Reg.TBS_TIME_LO, Reg.TBS_OFFSET_LO, Reg.FIB_ZONE_EXC_LO, Reg.TRL_PART_UID_LO, Reg.CLO_ZONE_LO,
   Reg.FCL_FATAL_STAMP_LO, Reg.FCL_LOG_DATA 0, Reg.FCL_LOG_DATA 2]
  ++ (List.range 16).map Reg.TSU_PERIOD_LO
  ++ (List.range 16).map Reg.HIF_C2H_RING_LO ++ (List.range 16).map Reg.HIF_C2H_CPL_LO
  ++ (List.range 2).map Reg.HIF_H2C_RING_LO ++ (List.range 2).map Reg.HIF_H2C_CPL_LO

end Sys2Proof.Machine
end

