-- ==== Sys2Proof/Machine/Hif.lean ====
section
/-! DEFINITION. The host interface: register writes and reads (R7 to R11, R469), DMA rings and the delivery of items (R470 to
R477), vectors (R478), the PCIe link and its resets (R466, R467), the black-channel doorbell (R488). -/

namespace Sys2Proof.Machine

/-! ### Configuration space (R464) -/

/-- The registers by which configuration space identifies the part. -/
inductive ConfigId where
  | vendor | device | revision | classCode | subVendor | subsystem
  deriving DecidableEq, Repr

/-- What they read: no image changes them (R464). -/
def configId (r : ConfigId) : Nat :=
  match r with
  | .vendor => 0x1F6A
  | .device => 0x4512
  | .revision => 0xB1
  | .classCode => 0x118000
  | .subVendor => 0x1F6A
  | .subsystem => if Config.variantIN then 2 else 1

/-! ### Register writes (R8 to R11, R33) -/

/-- A host write outside limits is discarded (R10). -/
def rejectWrite (s : State) : State := stick Reg.HIF_STICKY 0 (bump Reg.HIF_REJECT 1 s)

/-- The bands of the field set that HSE_FS_SEL would select (R166). -/
def bandsOfSet (s : State) (n : Nat) : Nat := (fieldSet s n).elim 0 fun r => rf r 0 8 5

/-- The zones of the fibre image (R191). -/
def zoneCount (s : State) : Nat := (recOf s 0x0903).elim 0 fun r => rf r 0 0 7

/-- The bits that a host write stores in an RT register other than a ring's CTRL and PROD, and whether a value lies within its
limits (DEDUCED, log entry 19). -/
def rtLimit (s : State) (off v : Nat) : Nat × Bool :=
  if off = Reg.TDC_DIAG_SEL then (0x33FF, decide (bits v 0 10 ≤ 531) && decide (bits v 12 2 ≤ 2))
  else if off = Reg.PFE_DCR_SEL then (0x1FF, true)
  else if off = Reg.ESQ_SECTOR_SEL then (0x3F, decide (bits v 0 6 < nSectors s))
  else if off = Reg.HSE_FS_SEL then (0xF7, decide (bits v 4 4 < max 1 (bandsOfSet s (bits v 0 3))))
  else if off = Reg.FIB_ZONE_SEL then (0x3F, decide (bits v 0 6 < zoneCount s))
  else if off = Reg.TAE_ZONE_SEL then (0x3F, decide (bits v 0 6 < zoneCount s))
  else if off = Reg.FDC_CH_SEL then (0xF, true)
  else if off = Reg.FDC_COEF_SEL then (0xFFF, true)
  else if off = Reg.TIN_SLOT_SEL then (0xF, (slotRec s (bits v 0 4)).isSome)
  else if off = Reg.MCD_BIND_SEL then (0x1F, decide (bits v 0 5 < (recOf s 0x0F01).elim 0 fun r => rf r 0 0 6))
  else if off = Reg.QSY_GROUP_SEL then (0xF, decide (bits v 0 4 ≤ 9))
  else if off = Reg.TRL_PART_SEL then (0xF, true)
  else if off = Reg.CLO_CHAIN_SEL then (0x7, true)
  else if off = Reg.HIF_BC_CFG then (0x13F, true)
  else if off = Reg.HIF_IRQ_MOD then (0xFFFF, decide (bits v 0 16 ≤ 10000))
  else if off = Reg.FCL_LOG_SEL then (0xFF, true)
  else if Reg.HIF_EVT_MAP 0 ≤ off then (0x13F, true)
  else (0xFFFFFFFF, true)

/-- The ring whose registers hold `off`: its direction, its stream and the register (R491). -/
def ringAtOff (off : Nat) : Option (Bool × Nat × Nat) :=
  if Reg.HIF_C2H_RING_LO 0 ≤ off && off < Reg.HIF_C2H_RING_LO 16 then
    some (false, (off - Reg.HIF_C2H_RING_LO 0) / 64, off % 64)
  else if Reg.HIF_H2C_RING_LO 0 ≤ off && off < Reg.HIF_H2C_RING_LO 2 then
    some (true, (off - Reg.HIF_H2C_RING_LO 0) / 64, off % 64)
  else none

/-- Whether a ring exists: 16 C2H rings, 2 H2C rings. -/
def ringExists (h2c : Bool) (n : Nat) : Bool := decide (n < if h2c then 2 else 16)

def setRing (h2c : Bool) (n : Nat) (r : Ring) (s : State) : State :=
  if h2c then { s with hif := { s.hif with h2c := Tab.put s.hif.h2c n r } }
  else { s with hif := { s.hif with c2h := Tab.put s.hif.c2h n r } }

/-! ### Completions (R474, R475) -/

/-- A completion is written at the ring's CONS index, which moves on; the phase flips on a wrap; irq requests the ring's
vector (R478). -/
def complete (h2c : Bool) (n : Nat) (irq : Bool) (status bytes : Nat) (cont timed : Bool) (frame items : Nat)
    (data : List Word64) (s : State) : State :=
  let r := ringOf s h2c n
  let z := ringSize s h2c n
  let i := if r.cons + 1 < z then r.cons + 1 else 0
  let s := setRing h2c n
    { r with cons := i, phase := if i = 0 then !r.phase else r.phase, buf := none, lastData := data,
             lastCpl := some ⟨r.cons, status, cont, timed, r.phase, bytes, frame, items⟩ } s
  if irq then requestVector (bits (rd s (ringCtrl h2c n)).toNat 8 6) s else s

/-- Bytes of a stream reach or leave host memory: its KIB register counts whole KiB (R491) (DEDUCED, log entry 44). -/
def countKib (h2c : Bool) (n bytes : Nat) (s : State) : State :=
  let r := ringOf s h2c n
  let b := r.rem + bytes
  bumpSat (if h2c then Reg.HIF_H2C_KIB n else Reg.HIF_C2H_KIB n) 0 32 (b / 1024) (setRing h2c n { r with rem := b % 1024 } s)

/-- The open buffer of a C2H ring is closed and completed with OK (R471, R474). -/
def closeBuf (n : Nat) (cont timed : Bool) (s : State) : State :=
  match (ringOf s false n).buf with
  | none => s
  | some b => countKib false n (8 * b.data.length) (complete false n b.desc.irq 0 (8 * b.data.length) cont timed b.frame b.items b.data s)

/-- Items of a C2H stream are discarded (R472, R476). -/
def countDiscard (n k : Nat) (s : State) : State := bumpSat (Reg.HIF_C2H_DISCARD n) 0 32 k s

/-- The next item of C2H stream `n` carries lost_before (DEDUCED, log entry 44). -/
def ringLoses (n : Nat) (s : State) : State := setRing false n { ringOf s false n with lost := true } s

/-- The streams `keys` lose items: their next delivered item carries lost_before (R476). -/
def loseKeys (keys : List Nat) (s : State) : State :=
  { s with hif := { s.hif with lostItems := s.hif.lostItems ++ keys.filter fun k => !s.hif.lostItems.contains k } }

/-- What is left of an item that continued into a next buffer is dropped (DEDUCED, log entry 44). -/
def dropRest (n : Nat) (s : State) : State :=
  let r := ringOf s false n
  if r.rest.isSome then countDiscard n 1 (setRing false n { r with rest := none, lost := true } s) else s

/-! ### Rings on and off (R475, R476) -/

/-- A ring is enabled: its first pass begins at index 0 with phase 1 (DEDUCED, log entry 44). -/
def ringStart (h2c : Bool) (n : Nat) (s : State) : State :=
  setRing h2c n { ringOf s h2c n with cons := 0, phase := true, running := true, buf := none } s

/-- A running ring is disabled: the open buffer of a C2H ring is aborted (R476). -/
def ringStop (h2c : Bool) (n : Nat) (s : State) : State :=
  let s := match h2c, (ringOf s h2c n).buf with
    | false, some b => loseKeys b.keys (countDiscard n b.items (complete false n b.desc.irq 1 0 false false b.frame b.items [] s))
    | _, _ => s
  let s := if h2c then s else dropRest n s
  setRing h2c n { ringOf s h2c n with running := false } s

/-- A write of a ring's CTRL register (R475, R491). -/
def ringCtrlWrite (h2c : Bool) (n : Nat) (v : Word32) (s : State) : State :=
  let l := bits v.toNat 0 5
  let run := (ringOf s h2c n).running
  if l ≠ 0 && (run || decide (l < 4) || decide (16 < l)) then rejectWrite s
  else
    let s := if run then ringStop h2c n s else s
    let s := wr (ringCtrl h2c n) (v &&& 0xFFFF3F1F) s
    if l = 0 then s else ringStart h2c n s

/-- A write of a ring's PROD register (R475, R491). -/
def ringProdWrite (h2c : Bool) (n : Nat) (v : Word32) (s : State) : State :=
  if bits v.toNat 0 16 < ringSize s h2c n then wr (ringProdReg h2c n) (v &&& 0xFFFF) s else rejectWrite s

/-- A write of a ring base (R475) (DEDUCED, log entry 44). -/
def ringBaseWrite (off : Nat) (h2c : Bool) (n : Nat) (v : Word32) (s : State) : State :=
  if (ringOf s h2c n).running then rejectWrite s else wr off (if off % 8 = 0 then v &&& 0xFFFFFFC0 else v) s

/-- RING_ENABLE (R475): a nonzero size is written to CTRL. -/
def onRingEnable (h2c : Bool) (stream : Fin 16) (ctrl : Word32) (s : State) : State :=
  if ringExists h2c stream then ringCtrlWrite h2c stream ctrl s else s

/-- RING_DISABLE (R476): CTRL is written with size 0. -/
def onRingDisable (h2c : Bool) (stream : Fin 16) (ctrl : Word32) (t : Tick) (s : State) : State :=
  let s := advance t s
  if ringExists h2c stream then ringCtrlWrite h2c stream (ctrl &&& 0xFFFFFFE0) s else s

/-- C2H_PROD_WRITE (R475). -/
def onC2hProdWrite (stream : Fin 16) (prod : Word32) (s : State) : State := ringProdWrite false stream prod s

/-! ### Host writes and reads -/

/-- A write to an RT register (R9, R10). -/
def rtWrite (off : Nat) (v : Word32) (t : Tick) (s : State) : State :=
  if off = Reg.TDC_CAL_REQ then onTdcCalReq v t s
  else
    match ringAtOff off with
    | some (h2c, n, r) =>
      if r = 0x10 then ringCtrlWrite h2c n v s
      else if r = 0x14 then ringProdWrite h2c n v s
      else ringBaseWrite off h2c n v s
    | none =>
      let x := rtLimit s off v.toNat
      if x.2 then wr off (v &&& BitVec.ofNat 32 x.1) s else rejectWrite s

/-- REGISTER_WRITE (R8 to R10, R469): RT and W1C fields change; a reserved offset, a block that BAR0 does not reach and fields
of other codes do not. -/
def onRegisterWrite (off : Nat) (v : Word32) (t : Tick) (s : State) : State :=
  let s := advance t s
  if !barReaches s off then s
  else
    match RegMap.find off with
    | none => s
    | some (r, _) =>
      match r.acc with
      | .rt => rtWrite off v t s
      | .w1c => wr off ((rd s off &&& ~~~v) ||| (rd s off &&& setNow s off)) s
      | .ro | .img | .lck | .rc => s

/-- Whether a read clears the register (R8). -/
def readClears (s : State) (off : Nat) : Bool := barReaches s off && (RegMap.find off).any fun r => decide (r.1.acc = .rc)

/-- An RC register is cleared. -/
def clearRc (off : Nat) (s : State) : State :=
  let g := rdf s Fld.QSY_GROUP_SEL_group
  if off = Reg.QSY_GROUP_LOST then { s with qsy := { s.qsy with lostCt := s.qsy.lostCt.set g 0 } }
  else if off = Reg.QSY_GROUP_HWM then { s with qsy := { s.qsy with hwm := s.qsy.hwm.set g 0 } }
  else if off = Reg.QSY_GROUP_STALL then { s with qsy := { s.qsy with stallCt := s.qsy.stallCt.set g 0 } }
  else wr off 0 s

/-- The value a host read of `off` returns: the latched high word of a pair, else the register (R7). -/
def readValue (s : State) (off : Nat) : Word32 := (Tab.look s.hif.shadow off).getD (regView s off)

/-- The host reads a register (R7, R8): the low word of a pair latches the high word, a high word uses up its shadow, an RC
register is cleared. -/
def hostRead (off : Nat) (s : State) : State :=
  let v := readValue s off
  let hi := regView s (off + 4)
  let sh := Tab.del s.hif.shadow off
  let sh := if pairLows.contains off then Tab.put sh (off + 4) hi else sh
  let s := if readClears s off then clearRc off s else s
  { s with hif := { s.hif with readData := v, shadow := sh } }

/-- The key under which the latest increment of an RC register is held (R11). -/
def rcKey (s : State) (off : Nat) : Nat :=
  if off = Reg.QSY_GROUP_LOST ∨ off = Reg.QSY_GROUP_STALL then countKey off (rdf s Fld.QSY_GROUP_SEL_group) else off

/-- An RC register holds `v` after a read in the tick of its latest setting or increment (R11). -/
def rcKeep (off : Nat) (v : Word32) (s : State) : State :=
  let g := rdf s Fld.QSY_GROUP_SEL_group
  if off = Reg.QSY_GROUP_LOST then { s with qsy := { s.qsy with lostCt := s.qsy.lostCt.set g v.toNat } }
  else if off = Reg.QSY_GROUP_STALL then { s with qsy := { s.qsy with stallCt := s.qsy.stallCt.set g v.toNat } }
  else wr off v s

/-- A read in the tick of a setting answers `v`; what it kept is no setting of that tick any more (R11). -/
def rcAnswer (off k : Nat) (v : Word32) (s : State) : State :=
  { s with fresh := Tab.del s.fresh k, hif := { s.hif with readData := v, shadow := Tab.del s.hif.shadow off } }

/-- RC_READ (R8): in the tick in which the part set or incremented it, the register returns what it held before and keeps the new
setting (R11). -/
def onRcRead (off : Nat) (s : State) : State :=
  if !readClears s off then hostRead off s
  else match freshNow s (rcKey s off) with
    | some f => rcAnswer off (rcKey s off) f.was (rcKeep off f.put s)
    | none => hostRead off s

/-- READ_LOW_WORD (R7) (DEDUCED, log entry 45). -/
def onReadLowWord (off : Nat) (s : State) : State := hostRead off s

/-- UNSUPPORTED_REQUEST (R469, R480): no register is reached. -/
def onUnsupportedRequest (s : State) : State := stick Reg.HIF_STICKY 1 (bump Reg.HIF_UR_COUNT 1 s)

/-! ### C2H delivery (R470 to R474) -/

/-- Whether a descriptor lies outside the rules of R473 (DEDUCED, log entry 44). -/
def descBad (d : Descriptor) : Bool :=
  decide (d.addr % 64 ≠ 0) || (decide (d.len ≠ 0) && (decide (d.len % 64 ≠ 0) || decide (d.len < 4096) || decide (4194304 < d.len)))

/-- A C2H stream cannot write to host memory: data link down or D3hot (R466). -/
def linkStill (s : State) : Bool := !s.hif.linkUp || s.hif.d3hot

/-- Open the buffer of the next posted descriptor: bad and empty ones complete at once (R473). The answer is the descriptors
left, and whether a buffer is open. -/
def nextBuf (n : Nat) (l : List Descriptor) (s : State) : State × List Descriptor × Bool :=
  match l with
  | [] => (s, [], false)
  | d :: r =>
    if posted s false n = 0 then (s, d :: r, false)
    else if descBad d then nextBuf n r (complete false n d.irq 2 0 false false 0 0 [] s)
    else if d.len = 0 then nextBuf n r (complete false n d.irq 0 0 false false 0 0 [] s)
    else (setRing false n { ringOf s false n with buf := some { desc := d, stamp := now s } } s, r, true)

/-- The words that still fit the open buffer. -/
def OpenBuf.room (b : OpenBuf) : Nat := b.desc.len / 8 - b.data.length

/-- Write words to the open buffer and to the following ones (R471): the answer is the words that found no descriptor. -/
def fillBufs (fuel n : Nat) (ws : List Word64) (l : List Descriptor) (s : State) : State × List Word64 :=
  match fuel with
  | 0 => (s, ws)
  | f + 1 =>
    match (ringOf s false n).buf with
    | none =>
      let x := nextBuf n l s
      if x.2.2 then fillBufs f n ws x.2.1 x.1 else (x.1, ws)
    | some b =>
      let s := setRing false n { ringOf s false n with buf := some { b with data := b.data ++ ws.take b.room } } s
      if ws.length ≤ b.room then (s, []) else fillBufs f n (ws.drop b.room) l (closeBuf n true false s)

/-- The words are written; what found no descriptor waits as the item's rest. -/
def fillRing (n m : Nat) (ws : List Word64) (l : List Descriptor) (s : State) : State :=
  let x := fillBufs (2 * l.length + 3) n ws l s
  setRing false n { ringOf x.1 false n with rest := if x.2.isEmpty then none else some (m, x.2) } x.1

/-- The first whole item of map entry `m` in its queue, as queue words. -/
def queuedItem (s : State) (m : Nat) : List QWord := (splitItem ((queueOf s 4 m).words ++ (queueOf s 4 m).held)).1

/-- Whether the next item of entry `m` is the next of C2H stream `n`: no other entry of the stream has an item that reached the HIF
before it (R471) (DEDUCED, log entry 44). -/
def firstCame (s : State) (n m : Nat) : Bool :=
  (queuedItem s m).head?.all fun w => (List.range 64).all fun k =>
    !rdb s (Fld.HIF_STREAM_MAP_enable k) || !decide (rdf s (Fld.HIF_STREAM_MAP_c2h k) = n)
      || (queuedItem s k).head?.all fun v => decide (w.came ≤ v.came)

/-- The item leaves the queue. -/
def takeQueued (m k : Nat) (s : State) : State :=
  let q := queueOf s 4 m
  setQueue 4 m { q with words := q.words.drop k, held := q.held.drop (k - q.words.length), curTag := none, mid := false } s

/-- The words of an item as read, `hits` of which fail besides those already hit: a word whose parity fails gives the tag poison
(R316). -/
def readItem (l : List QWord) (hits : Nat) : Nat × List Word64 :=
  let bad := min l.length (failing l + hits)
  match l.map (·.data) with
  | [] => (bad, [])
  | tag :: r => (bad, (if bad = 0 then tag else tagOr tag 4) :: r)

/-- The tag of a delivered item: lost_before when its ring or its stream has lost items (R466, R472, R476), poison for source 0
and for kind 0 (R26, R30). -/
def deliverTag (n : Nat) (ws : List Word64) (s : State) : State × List Word64 :=
  match ws with
  | [] => (s, [])
  | tag :: r =>
    let key := skey (tagSrc tag) (tagStream tag)
    let lost := (ringOf s false n).lost || s.hif.lostItems.contains key
    let s := setRing false n { ringOf s false n with lost := false }
      { s with hif := { s.hif with lostItems := s.hif.lostItems.filter fun k => !decide (k = key) } }
    (s, poisonTag ((if lost then tagOr tag 8 else tag) :: r))

/-- An item starts in the open buffer of ring `n`. -/
def beginInBuf (n : Nat) (tag : Word64) (s : State) : State :=
  let r := ringOf s false n
  match r.buf with
  | none => s
  | some b =>
    setRing false n { r with buf := some { b with
      items := b.items + 1, frame := if b.items = 0 then tagFrame tag else b.frame,
      keys := b.keys ++ [skey (tagSrc tag) (tagStream tag)] } } s

/-- The next item of entry `m` is delivered to ring `n` (R471, R474); without a free descriptor it stays in its queue. -/
def deliverNext (n m : Nat) (desc : List Descriptor) (hits : Nat) (s : State) : State :=
  let q := queuedItem s m
  if q.isEmpty then s
  else
    let s := match (ringOf s false n).buf with
      | some b => if b.room < q.length then closeBuf n false false s else s
      | none => s
    let x := match (ringOf s false n).buf with
      | some _ => (s, desc, true)
      | none => nextBuf n desc s
    if !x.2.2 then x.1
    else
      let i := readItem q hits
      let y := deliverTag n i.2 (parityFailed i.1 m (takeQueued m q.length x.1))
      fillRing n m y.2 x.2.1 (beginInBuf n (y.2.headD 0) y.1)

/-- The next item of entry `m` is discarded by its stream (R472) (DEDUCED, log entry 44). -/
def discardNext (n m : Nat) (hits : Nat) (s : State) : State :=
  let q := queuedItem s m
  let s := dropRest n s
  if q.isEmpty then s
  else countDiscard n 1 (ringLoses n (parityFailed (readItem q hits).1 m (takeQueued m q.length s)))

/-- C2H_ITEM_DELIVER (R471 to R474, R345): an entry's next item is written, continued, discarded or held back; the items that
share a stream are written in the order in which they reached the HIF. `desc` are the
descriptors that host memory holds from the first unused one on. -/
def onC2hItemDeliver (entry : Fin 64) (desc : List Descriptor) (hits : Nat) (t : Tick) (s : State) : State :=
  let s := advance t s
  let n := rdf s (Fld.HIF_STREAM_MAP_c2h entry)
  let r := ringOf s false n
  if s.hkp.hardCut || !rdb s (Fld.HIF_STREAM_MAP_enable entry) then s
  else if !r.running || linkStill s then discardNext n entry hits s
  else
    match r.rest with
    | some (m, ws) => if m = entry.val then fillRing n m ws desc s else s
    | none => if firstCame s n entry then deliverNext n entry desc hits s else s

/-- BUFFER_CLOSE_TIMEOUT (R471, R474): close_us has passed since the buffer's first byte. -/
def onBufferCloseTimeout (stream : Fin 16) (t : Tick) (s : State) : State :=
  let s := advance t s
  let c := rdf s (Fld.HIF_C2H_CTRL_close_us stream)
  match (ringOf s false stream).buf with
  | some b => if decide (c ≠ 0) && !b.data.isEmpty && decide (b.stamp + c * 64000 ≤ now s) then closeBuf stream false true s else s
  | none => s

/-! ### H2C reads (R477) -/

/-- The bytes that the running background command still reads from H2C stream `n`. -/
def h2cWanted (s : State) (n : Nat) : Nat :=
  let have_ := (Tab.lookD s.hif.h2cData n []).length
  match s.hif.background with
  | some (_, .imgWrite _ b) => if n = 0 then b - have_ else 0
  | some (_, .recoverGo b) => if n = 0 then b - have_ else 0
  | some (_, .cloStage true b) => if n = 1 then b - have_ else 0
  | _ => 0

/-- IMG_WRITE failed (R456): EVT 14 (DEDUCED, log entry 22). -/
def updateFails (slot : Nat) (s : State) : State := stick Reg.BOOT_STICKY 3 (fault 14 Src.boot 0 .corrected slot s)

/-- What a slot holds after an IMG_WRITE that did not end: an erased header (R456). -/
def slotErased (slotB : Bool) (s : State) : State :=
  if slotB then { s with nvm := { s.nvm with slotB := [] } } else { s with nvm := { s.nvm with slotA := [] } }

/-- The running background command ends with DMA (R477); the data read is dropped (DEDUCED, log entry 22). -/
def dmaFails (n : Nat) (s : State) : State :=
  let s := stick Reg.HIF_STICKY 2 (fault 314 Src.hif 0 .corrected n s)
  match s.hif.background with
  | some (o, job) =>
    let s := match job with
      | .imgWrite b _ => updateFails (b2n b) (slotErased b s)
      | _ => s
    finish o .dma 0 { s with hif := { s.hif with background := none, h2cData := Tab.del s.hif.h2cData n } }
  | none => s

/-- H2C_READ_DONE (R473 to R475, R477): the read of the next posted descriptor ends, as far as the running command needs it. -/
def onH2cReadDone (stream : Fin 2) (desc : Descriptor) (bytes : List Byte) (ok : Bool) (t : Tick) (s : State) : State :=
  let s := advance t s
  let n := stream.val
  let want := h2cWanted s n
  if !(ringOf s true n).running || decide (posted s true n = 0) || decide (want = 0) then s
  else if descBad desc then complete true n desc.irq 2 0 false false 0 0 [] s
  else if desc.len = 0 then complete true n desc.irq 0 0 false false 0 0 [] s
  else
    let got := bytes.take (min desc.len want)
    if ok then
      countKib true n got.length <| complete true n desc.irq 0 got.length false false 0 0 []
        { s with hif := { s.hif with h2cData := Tab.put s.hif.h2cData n (Tab.lookD s.hif.h2cData n [] ++ got) } }
    else dmaFails n (complete true n desc.irq 3 got.length false false 0 0 [] s)

/-! ### Vectors (R478) -/

/-- MSIX_SEND (R478): one message for the requests of a vector, no sooner than irq_mod after its last one
(DEDUCED, log entry 58). -/
def onMsixSend (vector : Fin 64) (s : State) : State :=
  let v := vector.val
  let free := match Tab.look s.hif.vecSent v with
    | some u => decide (u + rdf s Fld.HIF_IRQ_MOD_irq_mod * 64000 ≤ now s)
    | none => true
  if s.hif.vecReq.getLsbD v && free then
    { s with hif := { s.hif with vecReq := s.hif.vecReq &&& ~~~(BitVec.ofNat 64 (2 ^ v)), vecSent := Tab.put s.hif.vecSent v (now s) } }
  else s

/-! ### Link and resets (R466, R467) -/

/-- The data link goes down. -/
def linkGone (s : State) : State :=
  stick Reg.HIF_STICKY 3 (raise 315 { s with hif := { s.hif with linkUp := false, speed := 0, width := 0, d3hot := false } })

/-- The HIF registers coded RT, W1C or RC go back to their reset values (R466). -/
def hifRegsReset (s : State) : State :=
  { s with regs := s.regs.filter fun e => !(decide (e.1 / 65536 = 0x17)
      && (RegMap.find e.1).any fun r => decide (r.1.acc = .rt) || decide (r.1.acc = .w1c) || decide (r.1.acc = .rc)) }

/-- The streams of the items that had started in open buffers. -/
def openKeys (s : State) : List Nat := s.hif.c2h.flatMap fun e => (e.2.buf.elim [] (·.keys))

/-- The PCIe core is reset (R466): every ring stops (a stream whose item was cut carries lost_before on its next), entries not yet taken are dropped, statuses of running commands are not
written, the black-channel inbound slots are cleared; no other block is reset (DEDUCED, log entry 45). -/
def coreReset (s : State) : State :=
  let s := hifRegsReset (loseKeys (openKeys s) s)
  { s with hif := { s.hif with
    c2h := s.hif.c2h.map fun e => (e.1, { lost := e.2.lost || e.2.rest.isSome }), h2c := [], h2cData := [], vecReq := 0, vecSent := [], irqMode := 0, cmds := [], cmdProd := 0, cmdCons := 0,
    resets := s.hif.resets + 1, shadow := [],
    bc := s.hif.bc.map fun e => (e.1, { e.2 with inSlot := [], pending := false, refused := false }) } }

/-- PERST (R466): PERST# or a Function Level Reset (DEDUCED, log entry 45). -/
def onPerst (flr : Bool) (s : State) : State :=
  let s := coreReset s
  if flr then raise 315 { s with hif := { s.hif with d3hot := false } } else linkGone s

/-- PCIE_LINK_DOWN (R466): the data link goes down, or the function enters D3hot (DEDUCED, log entry 45). -/
def onPcieLinkDown (d3hot : Bool) (s : State) : State :=
  if d3hot then { s with hif := { s.hif with d3hot := true } } else linkGone s

/-- Every ring's next item carries lost_before (DEDUCED, log entry 45). -/
def ringsLose (s : State) : State := (List.range 16).foldl (fun s n => ringLoses n s) s

/-- D0_RETURN (R466): each ring resumes where it stood; the first item it delivers carries lost_before
(DEDUCED, log entry 45). -/
def onD0Return (s : State) : State :=
  if s.hif.d3hot then ringsLose { s with hif := { s.hif with d3hot := false } } else s

/-- DATA_LINK_UP (R463, R466): the link has trained at a speed (1 to 5) and a width (DEDUCED, log entry 58). -/
def onDataLinkUp (speed width : Nat) (s : State) : State :=
  if 1 ≤ speed && speed ≤ 5 && [1, 2, 4, 8].contains width then
    { s with hif := { s.hif with linkUp := true, speed := speed, width := width, negotiated := width } }
  else s

/-- The width that the grant in force asks for (R467). -/
def widthTarget (s : State) : Nat :=
  let w := gPcieW s.ala.grant
  if s.ala.grant.isEmpty then s.hif.negotiated else if w < s.hif.width then w else min w s.hif.negotiated

/-- WIDTH_RETRAIN_DONE (R467): the link has retrained to the granted width. -/
def onWidthRetrainDone (width : Nat) (s : State) : State :=
  if s.hif.linkUp && s.hif.widthOk && decide (width = widthTarget s) && decide (width ≠ s.hif.width) then
    { s with hif := { s.hif with width := width } }
  else s

/-! ### The black-channel doorbell (R488) -/

/-- INBOUND_DOORBELL (R488): the slot passes to the Cloche unless the previous message is still pending. -/
def onInboundDoorbell (conn : Fin 4) (slot : List Byte) (s : State) : State :=
  let a := Tab.lookD s.hif.bc conn {}
  let a' : BcArea := if a.pending then { a with refused := true } else { a with inSlot := slot, pending := true, refused := false }
  { s with hif := { s.hif with bc := Tab.put s.hif.bc conn a' } }

/-! ### Meanings -/

/-- The meaning of this command: the step of `onRingEnable` (R475). -/
def execRingEnable (h2c : Bool) (stream : Fin 16) (ctrl : Word32) (s : State) : Host.Outcome State Fault Refusal :=
  .next (onRingEnable h2c stream ctrl s)

/-- The meaning of this command: the step of `onRingDisable` (R476). -/
def execRingDisable (h2c : Bool) (stream : Fin 16) (ctrl : Word32) (t : Tick) (s : State) : Host.Outcome State Fault Refusal :=
  .next (onRingDisable h2c stream ctrl t s)

/-- The meaning of this command: the step of `onC2hProdWrite` (R475). -/
def execC2hProdWrite (stream : Fin 16) (prod : Word32) (s : State) : Host.Outcome State Fault Refusal :=
  .next (onC2hProdWrite stream prod s)

/-- The meaning of this command: the step of `onRegisterWrite` (R9). -/
def execRegisterWrite (off : Nat) (v : Word32) (t : Tick) (s : State) : Host.Outcome State Fault Refusal :=
  .next (onRegisterWrite off v t s)

/-- The meaning of this command: the step of `onRcRead` (R8). -/
def execRcRead (off : Nat) (s : State) : Host.Outcome State Fault Refusal :=
  .next (onRcRead off s)

/-- The meaning of this command: the step of `onReadLowWord` (R7). -/
def execReadLowWord (off : Nat) (s : State) : Host.Outcome State Fault Refusal :=
  .next (onReadLowWord off s)

/-- The meaning of this command: the step of `onUnsupportedRequest` (R469). -/
def execUnsupportedRequest (s : State) : Host.Outcome State Fault Refusal :=
  .next (onUnsupportedRequest s)

/-- The meaning of this command: the step of `onC2hItemDeliver` (R471). -/
def execC2hItemDeliver (entry : Fin 64) (desc : List Descriptor) (hits : Nat) (t : Tick) (s : State) : Host.Outcome State Fault Refusal :=
  .next (onC2hItemDeliver entry desc hits t s)

/-- The meaning of this command: the step of `onBufferCloseTimeout` (R471). -/
def execBufferCloseTimeout (stream : Fin 16) (t : Tick) (s : State) : Host.Outcome State Fault Refusal :=
  .next (onBufferCloseTimeout stream t s)

/-- The meaning of this command: the step of `onH2cReadDone` (R477). -/
def execH2cReadDone (stream : Fin 2) (desc : Descriptor) (bytes : List Byte) (ok : Bool) (t : Tick) (s : State) : Host.Outcome State Fault Refusal :=
  .next (onH2cReadDone stream desc bytes ok t s)

/-- The meaning of this command: the step of `onMsixSend` (R478). -/
def execMsixSend (vector : Fin 64) (s : State) : Host.Outcome State Fault Refusal :=
  .next (onMsixSend vector s)

/-- The meaning of this command: the step of `onPerst` (R466). -/
def execPerst (flr : Bool) (s : State) : Host.Outcome State Fault Refusal :=
  .next (onPerst flr s)

/-- The meaning of this command: the step of `onPcieLinkDown` (R466). -/
def execPcieLinkDown (d3hot : Bool) (s : State) : Host.Outcome State Fault Refusal :=
  .next (onPcieLinkDown d3hot s)

/-- The meaning of this command: the step of `onD0Return` (R466). -/
def execD0Return (s : State) : Host.Outcome State Fault Refusal :=
  .next (onD0Return s)

/-- The meaning of this command: the step of `onDataLinkUp` (R466). -/
def execDataLinkUp (speed : Nat) (width : Nat) (s : State) : Host.Outcome State Fault Refusal :=
  .next (onDataLinkUp speed width s)

/-- The meaning of this command: the step of `onWidthRetrainDone` (R467). -/
def execWidthRetrainDone (width : Nat) (s : State) : Host.Outcome State Fault Refusal :=
  .next (onWidthRetrainDone width s)

/-- The meaning of this command: the step of `onInboundDoorbell` (R488). -/
def execInboundDoorbell (conn : Fin 4) (slot : List Byte) (s : State) : Host.Outcome State Fault Refusal :=
  .next (onInboundDoorbell conn slot s)

end Sys2Proof.Machine
end

