-- ==== Sys2Proof/Machine/Mailbox.lean ====
section
/-! DEFINITION. The command mailbox (R480 to R485): entries taken and done, orders for a boundary and orders that name a frame
(R24, R113, R127, R483), orders of the cascade master (R377), the Cloche's commissioning (R419 to R423), keys and the
rollback counter (R447, R449), images and the directory (R455 to R457). -/

namespace Sys2Proof.Machine

/-! ### Orders (R483, R484) -/

/-- An order of the table, by its code and its argument bytes. -/
structure OrderArgs where
  code : Nat
  a0   : Nat
  a1   : Nat
  deriving DecidableEq, Repr

/-- The 16-bit argument of FAULT_CLEAR and GRAFT. -/
def OrderArgs.word (x : OrderArgs) : Nat := x.a0 + 256 * x.a1

/-- Whether a code is that of an order for a boundary, which may name a frame: NOP, PLAN_SELECT, FLUSH, the capture
commands, FAULT_CLEAR and GRAFT. -/
def isOrderCode (code : Nat) : Bool := [0x0001, 0x0101, 0x0102, 0x0301, 0x0302].contains code || isCapCode code

/-- The boundaries at which an order takes effect. -/
def orderDom (s : State) (x : OrderArgs) : Dom :=
  if x.code = 0x0101 then domOf (decide (x.a0 = 1))
  else if x.code = 0x0102 then srcDom s x.a0
  else if isCapCode x.code then (unitRec s x.a0).elim (sharedDom s) fun r => (unitCtx s r).dom
  else if x.code = 0x0302 then unitDom s x.word
  else sharedDom s

/-- What a deferred order keeps of its arguments. -/
def deferArg (x : OrderArgs) : Nat :=
  if x.code = 0x0102 then 64 * x.a0 + x.a1 else if isCapCode x.code then x.a0 else x.word

/-- An order waits for frame `f`, which lies ahead; a named GRAFT of the host keeps the entries behind it waiting (R507). -/
def orderWaits (o : Origin) (x : OrderArgs) (f scope : Nat) (t : Tick) (s : State) : State :=
  let d : Deferred := { code := x.code, arg := deferArg x, dom := orderDom s x, frame := f, origin := o, taken := t, scope := scope }
  let held := match o with
    | .host i => if x.code = 0x0302 then some (i, x.word) else s.hif.grafting
    | _ => s.hif.grafting
  { s with hif := { s.hif with deferred := s.hif.deferred ++ [d], grafting := held } }

/-- An order without a frame runs `now_`; one that names frame `f` is judged (R483). -/
def orderAt (o : Origin) (x : OrderArgs) (f : Option Nat) (scope : Nat) (t : Tick) (now_ : State → State) (s : State) : State :=
  match f with
  | none => now_ s
  | some f =>
    match judgeFrame (ctxOf s (orderDom s x)) f with
    | .ahead => orderWaits o x f scope t s
    | .late => finish o .late 0 s
    | .limit => finish o .limit 0 s

/-- PLAN_SELECT (R113, R127, R181): without a frame a PLAN item, with one a SWAP; the master's own order stages a committed
one (R377) (DEDUCED, log entry 46). -/
def planOrder (o : Origin) (kind plan : Nat) (f : Option Nat) (scope : Nat) (t : Tick) (s : State) : State :=
  let fibre := decide (kind = 1)
  if 1 < kind then finish o .limit 0 s
  else if !(if fibre then hasFibre s else hasLidar s) then finish o .state 0 s
  else if !planExists s fibre plan then finish o .limit 0 s
  else
    match f with
    | none =>
      if x8Full s then finish o .busy 0 s
      else x8Post ⟨1, scope, plan + 16 * b2n fibre, Src.hif, 0, domOf fibre, o, t⟩ s
    | some f =>
      if o.isMaster then
        let x : Staged := { fibre := fibre, plan := plan, target := f, committed := true, scope := 1, origin := o, taken := t,
                            readies := [] }
        { s with esq := { s.esq with staged := s.esq.staged ++ [x] } }
      else swapTake o fibre plan f scope t s

/-- FLUSH (R31, R320): a FLUSH item at the next boundary of the stream's source (DEDUCED, log entry 46). -/
def flushOrder (o : Origin) (x : OrderArgs) (f : Option Nat) (scope : Nat) (t : Tick) (s : State) : State :=
  if x.a0 = 0 || decide (0x17 < x.a0) || decide (0x3E < x.a1) then finish o .limit 0 s
  else
    orderAt o x f scope t (fun s =>
      if x8Full s then finish o .busy 0 s else x8Post ⟨3, scope, x.a1, x.a0, 0, srcDom s x.a0, o, t⟩ s) s

/-- CAPTURE_TRIGGER (R221): a frame behind the one in progress that the unit has not closed is accepted. -/
def triggerOrder (o : Origin) (x : OrderArgs) (f : Option Nat) (scope : Nat) (t : Tick) (s : State) : State :=
  match capTrigCheck s x.a0 with
  | some st => finish o st 0 s
  | none =>
    match f with
    | none => capName o x.a0 (unitOf s x.a0).nextF s
    | some f =>
      match judgeFrame (ctxOf s (orderDom s x)) f with
      | .ahead => orderWaits o x f scope t s
      | .late => capName o x.a0 f s
      | .limit => finish o .limit 0 s

/-- An order, from the host or from the cascade master (R484). -/
def runOrder (o : Origin) (x : OrderArgs) (f : Option Nat) (scope : Nat) (t : Tick) (s : State) : State :=
  if x.code = 0x0101 then planOrder o x.a0 x.a1 f scope t s
  else if x.code = 0x0102 then flushOrder o x f scope t s
  else if x.code = 0x0201 then triggerOrder o x f scope t s
  else if isCapCode x.code then
    if (unitRec s x.a0).isNone then finish o .limit 0 s
    else orderAt o x f scope t (capOrder o x.code x.a0 0) s
  else if x.code = 0x0301 then orderAt o x f scope t (faultClear o x.word) s
  else if x.code = 0x0302 then orderAt o x f scope t (graftBegin o x.word) s
  else orderAt o x f scope t (finish o .ok 0) s

/-! ### Entries of the command ring (R481, R482) -/

/-- Bytes 0 to 103 of an entry. -/
def entryBytes (e : Entry) (code : Nat) (args : List Byte) : List Byte :=
  slice (leBytes 2 code ++ [e.hostTag, BitVec.ofNat 8 (b2n e.frame.isSome + 2 * b2n e.scope)]
    ++ leBytes 3 (e.frame.elim 0 (·.toNat)) ++ [0] ++ args) 0 104

/-- Whether the command of an entry was done with a status other than OK. -/
def refusedEntry (o : Origin) (s : State) : Bool :=
  match o with
  | .host k => (Tab.look s.hif.cmds k).any fun r => r.done && decide (r.status ≠ 1)
  | _ => false

/-- The HIF takes an entry and its command runs (R482), unless a GRAFT taken before is not done (R507). A cascade-wide one is
accepted only at the master of a chain (R485). -/
def hostCommand (e : Entry) (code : Nat) (body : Origin → State → State) (s : State) : State :=
  if s.hif.grafting.isSome then s
  else
    let p := takeEntry e code s
    if e.scope && !leadsChain p.1 then finish (.host p.2) .state 0 p.1 else body (.host p.2) p.1

/-- A cascade-scope command that the master has accepted goes to the other parts as an ORDER that names frame `f` (R483)
(DEDUCED, log entry 46). -/
def relayOrder (e : Entry) (code : Nat) (args : List Byte) (f : Nat) (o : Origin) (s : State) : State :=
  if e.scope && !refusedEntry o s then sendMsg .dn (.order code (entryBytes e code args) f) s else s

/-- The frame an entry names; a cascade-scope order that names none takes the next one of its boundaries (R377)
(DEDUCED, log entry 46). -/
def entryFrame (s : State) (e : Entry) (x : OrderArgs) : Option Nat :=
  match e.frame with
  | some f => some f.toNat
  | none => if e.scope then some (nextNum (ctxOf s (orderDom s x)) % 2 ^ 24) else none

/-- An order entry. A selection of a plan for a frame goes to the other parts by the messages of a SWAP instead (R377)
(DEDUCED, log entry 46). -/
def hostOrder (e : Entry) (x : OrderArgs) (args : List Byte) (s : State) : State :=
  hostCommand e x.code (fun o s =>
    let f := entryFrame s e x
    let own := if x.code = 0x0101 then e.frame.map (·.toNat) else f
    let s' := runOrder o x own (b2n e.scope) (now s) s
    if x.code = 0x0101 && e.frame.isSome then s' else relayOrder e x.code args (f.getD 0) o s') s

/-- An entry of a command that is no order for a boundary (DEDUCED, log entry 46). -/
def hostManage (e : Entry) (code : Nat) (args : List Byte) (body : Origin → State → State) (s : State) : State :=
  hostCommand e code (fun o s => relayOrder e code args (nextNum (ctxOf s (sharedDom s)) % 2 ^ 24) o (body o s)) s

/-! ### Background commands (R482) -/

/-- A background command begins; a second one is done with BUSY. -/
def beginBackground (o : Origin) (job : Background) (s : State) : State :=
  { s with hif := { s.hif with background := some (o, job), h2cData := [] } }

/-- A background command is checked and begins: BUSY while one runs, else the status `st` if any (DEDUCED, log entry 46). -/
def runInBack (o : Origin) (st : Option Status) (job : Background) (s : State) : State :=
  if s.hif.background.isSome then finish o .busy 0 s
  else
    match st with
    | some st => finish o st 0 s
    | none => beginBackground o job s

/-- Whether a commissioning session runs (R419, R457). -/
def inSession (s : State) : Bool := commissioning s && s.clo.session

/-- A command of a session defers its timeout (R419). -/
def sessionTouch (s : State) : State :=
  if inSession s then { s with clo := { s.clo with sessionAt := s.clo.minutes } } else s

/-! ### Commissioning (R419 to R423) -/

/-- The characters and the length of a password (R420) (DEDUCED, log entry 26). -/
def passwordOk (len : Nat) (pw : List Byte) : Bool :=
  decide (12 ≤ len) && decide (len ≤ 64) && (slice pw 0 len).all fun c => decide (0x20 ≤ c.toNat) && decide (c.toNat ≤ 0x7E)

/-- The salt and the password hash of a block (R458). -/
def blockSalt (b : List Byte) : List Byte := slice b 0x10 16
def blockPwHash (b : List Byte) : List Byte := slice b 0x20 32

/-- Whether a password hashes to a block's value (R420) (DEDUCED, log entry 26). -/
def passwordFits (b pw : List Byte) : Bool := decide (Config.shakeBytes (blockSalt b ++ pw) = blockPwHash b)

/-- CLO_LOGIN (R419 to R421) (DEDUCED, log entry 26). -/
def cloLogin (o : Origin) (len : Nat) (password : List Byte) (s : State) : State :=
  let pw := slice password 0 len
  if !commissioning s then finish o .state 0 s
  else if s.clo.pwLock ≠ 0 then finish o .locked 0 s
  else if !passwordOk len password then finish o .limit 0 s
  else if s.clo.block.isEmpty || passwordFits s.clo.block pw then
    finish o .ok 0 (raise 309 { s with clo := { s.clo with session := true, sessionAt := s.clo.minutes, failures := 0 } })
  else
    let n := s.clo.failures + 1
    let s := { s with clo := { s.clo with failures := n, pwLock := if n < 5 then 0 else 60 } }
    finish o .auth 0 (journalLock (if n < 5 then s else raise 310 s))

/-- The safety block that the image offers (R457) (DEDUCED, log entry 26). -/
def blockOffer (s : State) : Option (List Byte) := (recOf s 0x1501).map (·.body)

/-- CLO_STAGE (R419, R457, R484): the block comes from the image's offer or through H2C stream 1 (DEDUCED, log entry 26). -/
def cloStage (o : Origin) (src bytes : Nat) (s : State) : State :=
  runInBack o
    (if !inSession s then some .state
     else if 1 < src || decide (65536 < bytes) || (decide (src = 0) && (blockOffer s).isNone) then some .limit
     else none)
    (.cloStage (decide (src = 1)) bytes) (sessionTouch s)

/-- CLO_COMMIT (R422) (DEDUCED, log entry 26). -/
def cloCommit (o : Origin) (hostTime : Nat) (newPw : Bool) (len : Nat) (password : List Byte) (s : State) : State :=
  runInBack o
    (if !inSession s || s.clo.staged.isNone then some .state
     else if newPw && !passwordOk len password then some .limit
     else none)
    (.cloCommit hostTime newPw (slice password 0 len)) (sessionTouch s)

/-- CLO_LOGOUT (R419). -/
def cloLogout (o : Origin) (s : State) : State :=
  if inSession s then finish o .ok 0 (raise 309 { s with clo := { s.clo with session := false, staged := none } })
  else finish o .state 0 s

/-- Why a staged block is not installed (R422) (DEDUCED, log entry 26). -/
def commitFails (s : State) (b : List Byte) (newPw : Bool) (pw : List Byte) : Option Status :=
  let same := !s.clo.block.isEmpty && decide (blockSalt b = blockSalt s.clo.block) && decide (blockPwHash b = blockPwHash s.clo.block)
  if 1024 ≤ s.nvm.safety.log.length then some .logFull
  else if !blockSigned s b || !blockPasses s b || !(same || (newPw && passwordFits b pw)) then some .verify
  else none

/-- The change-log entry of a commit (R423). -/
def logEntry (s : State) (b : List Byte) (hostTime : Nat) (newPw : Bool) : List Byte :=
  let l := s.nvm.safety.log
  let prev := match l.getLast? with
    | some e => slice e 0 64
    | none => leBytes 8 Config.uid.toNat
  leBytes 4 l.length ++ leBytes 1 (if l.isEmpty then 1 else if newPw then 3 else 2) ++ leBytes 3 0 ++ leBytes 8 hostTime
    ++ (blockDigest b).take 16 ++ Config.shakeBytes prev

/-- The block goes to the inactive copy of the safety area (R422) (DEDUCED, log entry 26). -/
def writeCopy (b : List Byte) (s : State) : State :=
  let a := s.nvm.safety
  let inFirst := decide (blockInForce s = some a.copy0)
  { s with nvm := { s.nvm with safety := if inFirst then { a with copy1 := b } else { a with copy0 := b } } }

/-- The end of CLO_COMMIT: the copy, then the log entry; a failed write leaves the copy erased and no entry
(DEDUCED, log entry 26). -/
def commitDone (o : Origin) (hostTime : Nat) (newPw : Bool) (pw : List Byte) (nvmOk : Bool) (s : State) : State :=
  let b := s.clo.staged.getD []
  match commitFails s b newPw pw with
  | some st => finish o st 0 s
  | none =>
    if nvmOk then
      let e := logEntry s b hostTime newPw
      let s := writeCopy b s
      finish o .ok 0 (raise 309 { s with nvm := { s.nvm with safety := { s.nvm.safety with log := s.nvm.safety.log ++ [e] } } })
    else finish o .nvm 0 (writeCopy [] s)

/-! ### Keys and the rollback counter (R446, R447, R449) -/

/-- The slots of a kind, 0 KS and 1 AR, and their revoke fuses. -/
def keySlots (s : State) (ar : Bool) : List (List Byte) := if ar then s.sec.ar else s.sec.ks
def slotRevoked (s : State) (ar : Bool) (k : Nat) : Bool := if ar then s.sec.arRevoked.getLsbD k else s.sec.ksRevoked.getLsbD k

/-- Whether the arguments name no slot. -/
def noSlot (ar slot : Nat) : Bool := decide (1 < ar) || decide ((if ar = 1 then 2 else 4) ≤ slot)

/-- SEC_KEY_PROGRAM (R447, R457). -/
def keyProgram (o : Origin) (ar slot : Nat) (hash : List Byte) (s : State) : State :=
  runInBack o
    (if noSlot ar slot then some .limit
     else if !inSession s then some .state
     else if !emptySlot ((keySlots s (decide (ar = 1))).getD slot []) then some .refused
     else none)
    (.keyProgram (decide (ar = 1)) slot (slice hash 0 32)) s

/-- Whether a slot may not be revoked: the running image verified under it, or it is the last one in use (R447). -/
def revokeRefused (s : State) (ar : Bool) (slot : Nat) : Bool :=
  (!ar && decide (s.boot.running ≠ 0) && decide (s.boot.keySlot = slot))
    || !((List.range (keySlots s ar).length).any fun k =>
        decide (k ≠ slot) && !emptySlot ((keySlots s ar).getD k []) && !slotRevoked s ar k)

/-- SEC_REVOKE (R447). -/
def revoke (o : Origin) (ar slot : Nat) (s : State) : State :=
  runInBack o
    (if noSlot ar slot then some .limit
     else if slotRevoked s (decide (ar = 1)) slot then some .ok
     else if revokeRefused s (decide (ar = 1)) slot then some .refused
     else none)
    (.revoke (decide (ar = 1)) slot) s

/-- SEC_CONFIRM (R449): a fatal fault raised by now comes first (DEDUCED, log entry 46). -/
def secConfirm (o : Origin) (s : State) : State :=
  let pending := s.fcl.inFlight.any fun m => decide (m.cls = .fatal) && decide (m.stamp ≤ now s)
  if s.boot.step < 11 || s.boot.step = 15 || s.fcl.fatal || pending then finish o .state 0 s
  else if s.sec.rollback < s.boot.secVer then
    finish o .ok 0 (stick Reg.SEC_STICKY 1 (raise 17 { s with sec := { s.sec with rollback := s.boot.secVer } }))
  else finish o .ok 0 s

/-- The end of SEC_KEY_PROGRAM. -/
def programDone (o : Origin) (ar : Bool) (slot : Nat) (hash : List Byte) (nvmOk : Bool) (s : State) : State :=
  if nvmOk then
    let c := if ar then { s.sec with ar := s.sec.ar.set slot hash } else { s.sec with ks := s.sec.ks.set slot hash }
    finish o .ok 0 (stick Reg.SEC_STICKY 2 (raise 19 { s with sec := c }))
  else finish o .nvm 0 s

/-- The end of SEC_REVOKE. -/
def revokeDone (o : Origin) (ar : Bool) (slot : Nat) (nvmOk : Bool) (s : State) : State :=
  if nvmOk then
    let c := if ar then { s.sec with arRevoked := s.sec.arRevoked ||| BitVec.ofNat 2 (2 ^ slot) }
      else { s.sec with ksRevoked := s.sec.ksRevoked ||| BitVec.ofNat 4 (2 ^ slot) }
    finish o .ok 0 (stick Reg.SEC_STICKY 0 (raise 18 { s with sec := c }))
  else finish o .nvm 0 s

/-! ### Images and the directory (R455 to R457) -/

/-- IMG_WRITE (R456). -/
def imgWrite (o : Origin) (slot bytes : Nat) (s : State) : State :=
  runInBack o
    (if 1 < slot then some .limit
     else if s.boot.dirCopy = 0 then some .nvm
     else if s.boot.slotSize < bytes then some .limit
     else if s.boot.running = slot + 1 then some .refused
     else none)
    (.imgWrite (decide (slot = 1)) bytes) s

/-- RECOVER_GO (R455) (DEDUCED, log entry 22). -/
def recoverGo (o : Origin) (bytes : Nat) (s : State) : State :=
  runInBack o
    (if s.boot.mode ≠ 2 || s.boot.step ≠ 4 then some .state else if 64 * mib < bytes then some .limit else none)
    (.recoverGo bytes) s

/-- BOOT_DIR_WRITE (R457). -/
def bootDirWrite (o : Origin) (dir : List Byte) (s : State) : State :=
  runInBack o (if inSession s then none else some .state) (.bootDirWrite (slice dir 0 60)) s

/-- The end of IMG_WRITE: the slot is read back and verified under R445. -/
def imgWriteDone (o : Origin) (slotB : Bool) (img : List Byte) (nvmOk : Bool) (s : State) : State :=
  if nvmOk then
    let s := if slotB then { s with nvm := { s.nvm with slotB := img } } else { s with nvm := { s.nvm with slotA := img } }
    if trailerCause s (img.drop (hdrTrlOff img)) (imageDigest img) = 0 then finish o .ok 0 (raise 13 s)
    else finish o .verify 0 (updateFails (b2n slotB) s)
  else finish o .nvm 0 (updateFails (b2n slotB) (slotErased slotB s))

/-- The end of RECOVER_GO: the image is verified, checked and committed, or the part waits for another one. The tick `t` is
the time since the release of POR_N. -/
def recoverDone (o : Origin) (img : List Byte) (t : Tick) (s : State) : State :=
  let v := imageVerdict s img (64 * mib) true
  match v.2 with
  | .ok recs => finish o .ok 0 (commitImage 3 (t / 64000000) img recs s)
  | .fail i ty => finish o .verify 0 (raise 12 (slotFails 2 v.1 (if v.1 = 6 then recordFails i ty s else s)))

/-- The end of BOOT_DIR_WRITE: both copies are written, copy 1 first; after a failed write each is as it was or erased
(DEDUCED, log entry 22). -/
def dirDone (o : Origin) (dir : List Byte) (nvmOk : Bool) (s : State) : State :=
  let d := dir ++ leBytes 4 (crc32c dir)
  if nvmOk then finish o .ok 0 { s with nvm := { s.nvm with dir0 := d, dir1 := d } }
  else
    let f := freeVal s
    finish o .nvm 0 (useFree { s with nvm := { s.nvm with
      dir0 := if f % 2 = 0 then s.nvm.dir0 else [], dir1 := if f / 2 % 2 = 0 then s.nvm.dir1 else [] } })

/-- The H2C stream a background command reads. -/
def Background.stream (job : Background) : Nat := match job with | .cloStage _ _ => 1 | _ => 0

/-- The end of a background command. -/
def jobDone (o : Origin) (job : Background) (data : List Byte) (nvmOk : Bool) (t : Tick) (s : State) : State :=
  match job with
  | .imgWrite b _ => imgWriteDone o b data nvmOk s
  | .recoverGo _ => recoverDone o data t s
  | .bootDirWrite d => dirDone o d nvmOk s
  | .cloStage host _ =>
    finish o .ok 0 { s with clo := { s.clo with staged := some (if host then data else (blockOffer s).getD []) } }
  | .cloCommit h p pw => commitDone o h p pw nvmOk s
  | .keyProgram a k h => programDone o a k h nvmOk s
  | .revoke a k => revokeDone o a k nvmOk s

/-- BACKGROUND_COMMAND_DONE (R482): the running command has all its data and ends. -/
def onBackgroundCommandDone (nvmOk dmaOk : Bool) (t : Tick) (s : State) : State :=
  let s := advance t s
  match s.hif.background with
  | none => s
  | some (o, job) =>
    if !dmaOk then dmaFails job.stream s
    else if h2cWanted s job.stream ≠ 0 then s
    else
      let data := Tab.lookD s.hif.h2cData job.stream []
      jobDone o job data nvmOk t { s with hif := { s.hif with background := none, h2cData := [] } }

/-! ### The commands of the host (R484) -/

/-- NOP. -/
def onNop (e : Entry) (s : State) : State := hostOrder e ⟨0x0001, 0, 0⟩ [] s

/-- PLAN_SELECT (R113, R127, R181). -/
def onPlanSelect (e : Entry) (fibre plan : Byte) (s : State) : State :=
  hostOrder e ⟨0x0101, fibre.toNat, plan.toNat⟩ [fibre, plan] s

/-- FLUSH (R31). -/
def onFlush (e : Entry) (src stream : Byte) (s : State) : State :=
  hostOrder e ⟨0x0102, src.toNat, stream.toNat⟩ [src, stream] s

/-- CAPTURE_TRIGGER (R221). -/
def onCaptureTrigger (e : Entry) (unit : Byte) (s : State) : State := hostOrder e ⟨0x0201, unit.toNat, 0⟩ [unit] s

/-- CAPTURE_ABORT (R236, R237). -/
def onCaptureAbort (e : Entry) (unit : Byte) (s : State) : State := hostOrder e ⟨0x0202, unit.toNat, 0⟩ [unit] s

/-- CAPTURE_READ (R235). -/
def onCaptureRead (e : Entry) (unit : Byte) (s : State) : State := hostOrder e ⟨0x0203, unit.toNat, 0⟩ [unit] s

/-- CAPTURE_RELEASE (R220). -/
def onCaptureRelease (e : Entry) (unit : Byte) (s : State) : State := hostOrder e ⟨0x0204, unit.toNat, 0⟩ [unit] s

/-- CAPTURE_REARM (R220). -/
def onCaptureRearm (e : Entry) (unit : Byte) (s : State) : State := hostOrder e ⟨0x0205, unit.toNat, 0⟩ [unit] s

/-- FAULT_CLEAR (R504). -/
def onFaultClear (e : Entry) (sel : BitVec 16) (s : State) : State :=
  hostOrder e ⟨0x0301, sel.toNat % 256, sel.toNat / 256⟩ (leBytes 2 sel.toNat) s

/-- GRAFT (R507, R508). -/
def onGraft (e : Entry) (unit : BitVec 16) (s : State) : State :=
  hostOrder e ⟨0x0302, unit.toNat % 256, unit.toNat / 256⟩ (leBytes 2 unit.toNat) s

/-- CLO_LOGIN (R420, R421). -/
def onCloLogin (e : Entry) (len : Byte) (password : List Byte) (s : State) : State :=
  hostManage e 0x0401 (len :: password) (fun o => cloLogin o len.toNat password) s

/-- CLO_STAGE (R457, R484). -/
def onCloStage (e : Entry) (src : Byte) (bytes : Nat) (s : State) : State :=
  hostManage e 0x0402 (src :: leBytes 3 0 ++ leBytes 4 bytes) (fun o => cloStage o src.toNat bytes) s

/-- CLO_COMMIT (R422). -/
def onCloCommit (e : Entry) (hostTime : Word64) (newPw : Bool) (len : Byte) (password : List Byte) (s : State) : State :=
  hostManage e 0x0403 (leBytes 8 hostTime.toNat ++ [BitVec.ofNat 8 (b2n newPw), len] ++ password)
    (fun o => cloCommit o hostTime.toNat newPw len.toNat password) s

/-- CLO_LOGOUT (R419). -/
def onCloLogout (e : Entry) (s : State) : State := hostManage e 0x0404 [] cloLogout s

/-- SEC_KEY_PROGRAM (R447). -/
def onSecKeyProgram (e : Entry) (ar slot : Byte) (hash : List Byte) (s : State) : State :=
  hostManage e 0x0501 ([ar, slot, 0, 0] ++ hash) (fun o => keyProgram o ar.toNat slot.toNat hash) s

/-- SEC_REVOKE (R447). -/
def onSecRevoke (e : Entry) (ar slot : Byte) (s : State) : State :=
  hostManage e 0x0502 [ar, slot] (fun o => revoke o ar.toNat slot.toNat) s

/-- SEC_CONFIRM (R449). -/
def onSecConfirm (e : Entry) (s : State) : State := hostManage e 0x0503 [] secConfirm s

/-- IMG_WRITE (R456). -/
def onImgWrite (e : Entry) (slot : Byte) (bytes : Nat) (s : State) : State :=
  hostManage e 0x0601 (slot :: leBytes 3 0 ++ leBytes 4 bytes) (fun o => imgWrite o slot.toNat bytes) s

/-- RECOVER_GO (R455). -/
def onRecoverGo (e : Entry) (bytes : Nat) (s : State) : State :=
  hostManage e 0x0602 (leBytes 4 0 ++ leBytes 4 bytes) (fun o => recoverGo o bytes) s

/-- BOOT_DIR_WRITE (R457). -/
def onBootDirWrite (e : Entry) (dir : List Byte) (s : State) : State :=
  hostManage e 0x0603 dir (fun o => bootDirWrite o dir) s

/-- UNKNOWN_COMMAND (R485): a reserved code. -/
def onUnknownCommand (e : Entry) (code : BitVec 16) (s : State) : State :=
  if s.hif.grafting.isSome then s
  else
    let p := takeEntry e code.toNat s
    finish (.host p.2) .unknown 0 p.1

/-! ### ORDER (R377, R483) -/

/-- A cascade order is too late (R377): EVT 295 and a report to the master (DESIGN CHOICE, log entry 33). -/
def orderLate (f : Nat) (s : State) : State :=
  finish .master .late 0 (toMaster (.orderLate s.trl.addr f) (fault 295 Src.trl 0 .corrected 0 s))

/-- A command of the master that is no order for a boundary, from the argument bytes `a` of its entry
(DEDUCED, log entry 46). -/
def runManage (code : Nat) (a : List Byte) (s : State) : State :=
  let o := Origin.master
  let n (off len : Nat) : Nat := leAt a off len
  match code with
  | 0x0401 => cloLogin o (n 0 1) (a.drop 1) s
  | 0x0402 => cloStage o (n 0 1) (n 4 4) s
  | 0x0403 => cloCommit o (n 0 8) (decide (n 8 1 = 1)) (n 9 1) (a.drop 10) s
  | 0x0404 => cloLogout o s
  | 0x0501 => keyProgram o (n 0 1) (n 1 1) (slice a 4 32) s
  | 0x0502 => revoke o (n 0 1) (n 1 1) s
  | 0x0503 => secConfirm o s
  | 0x0601 => imgWrite o (n 0 1) (n 4 4) s
  | 0x0602 => recoverGo o (n 4 4) s
  | 0x0603 => bootDirWrite o (slice a 0 60) s
  | _ => finish o .unknown 0 s

/-- An order of the master for the boundary of frame `f` of this part (DEDUCED, log entry 46). -/
def masterOrder (x : OrderArgs) (f : Nat) (t : Tick) (s : State) : State :=
  let full := (decide (x.code = 0x0101) || decide (x.code = 0x0102)) && x8Full s
  match judgeFrame (ctxOf s (orderDom s x)) f with
  | .limit => finish .master .limit 0 s
  | .late => if x.code = 0x0201 then runOrder .master x (some f) 1 t s else orderLate f s
  | .ahead => if full then orderLate f s else runOrder .master x (some f) 1 t s

/-- ORDER (R377, R483): a command of the cascade master, passed on and handled with scope 1. `args` are bytes 0 to 103 of
its entry, `frame` the master's number. -/
def onOrder (code : BitVec 16) (args : List Byte) (frame : BitVec 24) (t : Tick) (s : State) : State :=
  let s := received .up 1 104 (advance t s)
  if !hearsMaster s then s
  else
    let s := sendMsg .dn (.order code.toNat args frame.toNat) s
    let s := { s with hif := { s.hif with orderFrame := frame.toNat, orderStat := 0 } }
    if isOrderCode code.toNat then
      masterOrder ⟨code.toNat, leAt args 8 1, leAt args 9 1⟩ (localFrame s frame.toNat) (now s) s
    else runManage code.toNat (args.drop 8) s

/-! ### Meanings -/

/-- The meaning of this command: the step of `onBackgroundCommandDone` (R482). -/
def execBackgroundCommandDone (nvmOk : Bool) (dmaOk : Bool) (t : Tick) (s : State) : Host.Outcome State Fault Refusal :=
  .next (onBackgroundCommandDone nvmOk dmaOk t s)

/-- The meaning of this command: the step of `onNop` (R484). -/
def execNop (e : Entry) (s : State) : Host.Outcome State Fault Refusal :=
  .next (onNop e s)

/-- The meaning of this command: the step of `onPlanSelect` (R484). -/
def execPlanSelect (e : Entry) (fibre : Byte) (plan : Byte) (s : State) : Host.Outcome State Fault Refusal :=
  .next (onPlanSelect e fibre plan s)

/-- The meaning of this command: the step of `onFlush` (R484). -/
def execFlush (e : Entry) (src : Byte) (stream : Byte) (s : State) : Host.Outcome State Fault Refusal :=
  .next (onFlush e src stream s)

/-- The meaning of this command: the step of `onCaptureTrigger` (R221). -/
def execCaptureTrigger (e : Entry) (unit : Byte) (s : State) : Host.Outcome State Fault Refusal :=
  .next (onCaptureTrigger e unit s)

/-- The meaning of this command: the step of `onCaptureAbort` (R237). -/
def execCaptureAbort (e : Entry) (unit : Byte) (s : State) : Host.Outcome State Fault Refusal :=
  .next (onCaptureAbort e unit s)

/-- The meaning of this command: the step of `onCaptureRead` (R235). -/
def execCaptureRead (e : Entry) (unit : Byte) (s : State) : Host.Outcome State Fault Refusal :=
  .next (onCaptureRead e unit s)

/-- The meaning of this command: the step of `onCaptureRelease` (R220). -/
def execCaptureRelease (e : Entry) (unit : Byte) (s : State) : Host.Outcome State Fault Refusal :=
  .next (onCaptureRelease e unit s)

/-- The meaning of this command: the step of `onCaptureRearm` (R220). -/
def execCaptureRearm (e : Entry) (unit : Byte) (s : State) : Host.Outcome State Fault Refusal :=
  .next (onCaptureRearm e unit s)

/-- The meaning of this command: the step of `onFaultClear` (R504). -/
def execFaultClear (e : Entry) (sel : BitVec 16) (s : State) : Host.Outcome State Fault Refusal :=
  .next (onFaultClear e sel s)

/-- The meaning of this command: the step of `onGraft` (R508). -/
def execGraft (e : Entry) (unit : BitVec 16) (s : State) : Host.Outcome State Fault Refusal :=
  .next (onGraft e unit s)

/-- The meaning of this command: the step of `onCloLogin` (R420). -/
def execCloLogin (e : Entry) (len : Byte) (password : List Byte) (s : State) : Host.Outcome State Fault Refusal :=
  .next (onCloLogin e len password s)

/-- The meaning of this command: the step of `onCloStage` (R484). -/
def execCloStage (e : Entry) (src : Byte) (bytes : Nat) (s : State) : Host.Outcome State Fault Refusal :=
  .next (onCloStage e src bytes s)

/-- The meaning of this command: the step of `onCloCommit` (R422). -/
def execCloCommit (e : Entry) (hostTime : Word64) (newPw : Bool) (len : Byte) (password : List Byte) (s : State) : Host.Outcome State Fault Refusal :=
  .next (onCloCommit e hostTime newPw len password s)

/-- The meaning of this command: the step of `onCloLogout` (R419). -/
def execCloLogout (e : Entry) (s : State) : Host.Outcome State Fault Refusal :=
  .next (onCloLogout e s)

/-- The meaning of this command: the step of `onSecKeyProgram` (R447). -/
def execSecKeyProgram (e : Entry) (ar : Byte) (slot : Byte) (hash : List Byte) (s : State) : Host.Outcome State Fault Refusal :=
  .next (onSecKeyProgram e ar slot hash s)

/-- The meaning of this command: the step of `onSecRevoke` (R447). -/
def execSecRevoke (e : Entry) (ar : Byte) (slot : Byte) (s : State) : Host.Outcome State Fault Refusal :=
  .next (onSecRevoke e ar slot s)

/-- The meaning of this command: the step of `onSecConfirm` (R449). -/
def execSecConfirm (e : Entry) (s : State) : Host.Outcome State Fault Refusal :=
  .next (onSecConfirm e s)

/-- The meaning of this command: the step of `onImgWrite` (R456). -/
def execImgWrite (e : Entry) (slot : Byte) (bytes : Nat) (s : State) : Host.Outcome State Fault Refusal :=
  .next (onImgWrite e slot bytes s)

/-- The meaning of this command: the step of `onRecoverGo` (R455). -/
def execRecoverGo (e : Entry) (bytes : Nat) (s : State) : Host.Outcome State Fault Refusal :=
  .next (onRecoverGo e bytes s)

/-- The meaning of this command: the step of `onBootDirWrite` (R457). -/
def execBootDirWrite (e : Entry) (dir : List Byte) (s : State) : Host.Outcome State Fault Refusal :=
  .next (onBootDirWrite e dir s)

/-- The meaning of this command: the step of `onUnknownCommand` (R485). -/
def execUnknownCommand (e : Entry) (code : BitVec 16) (s : State) : Host.Outcome State Fault Refusal :=
  .next (onUnknownCommand e code s)

/-- The meaning of this command: the step of `onOrder` (R377). -/
def execOrder (code : BitVec 16) (args : List Byte) (frame : BitVec 24) (t : Tick) (s : State) : Host.Outcome State Fault Refusal :=
  .next (onOrder code args frame t s)

end Sys2Proof.Machine
end

