-- ==== Sys2Proof/Machine/Items.lean ====
section
/-! DEFINITION. Control items that reach a consumer block in its input stream (R31, R32, R34): the blocks whose items are made from
other blocks' items, FDC, TAE and TIN, act on them and forward them. The producers act on an item when they insert it, at a
boundary. -/

namespace Sys2Proof.Machine

/-- The control word of an item. -/
def itemCtl (x : Item) : Word64 := x.words.headD 0

/-- Whether an item is a control item of kind `k` (R30). -/
def isCtl (x : Item) (k : Nat) : Bool := decide (x.words.length = 1) && decide (ctlKind (itemCtl x) = k)

/-- The boundary context that an item's tag shows. -/
def tagCtx (s : State) (tag : Word64) : TagCtx :=
  let c := domCtx s (srcDom s (tagSrc tag))
  { c with frame := liftFrame c (tagFrame tag), gen := tagGen tag, digest := tagDigest tag }

/-- Whether block `blk` makes its stream `n` from items of source `src`: an FDC channel from its input, a tine slot from input 0,
the TAE's descriptors and readouts from a unit's pacing source, its reference reports from the HSE
(DEDUCED, log entry 48). -/
def feeds (s : State) (blk : Block) (src n : Nat) : Bool :=
  match blk with
  | .fdc => (fdcRec s n).isSome && decide (src = if fdcIsDas s n then Src.fib else Src.asf)
  | .tin => (slotRec s n).any fun r => decide ((slotSrc r 0).1 = src)
  | .tae =>
    (decide (n ≤ 1) && (List.range 4).any fun u => (unitRec s u).any fun r => decide ((unitSrc r 0).1 = src))
      || (decide (n = 2) && decide (src = Src.hse))
  | _ => false

/-- A block forwards a control item in its own streams (R32) (DEDUCED, log entry 48). -/
def forwardCtl (blk : Block) (x : Item) (s : State) : State :=
  let w := itemCtl x
  emitCtl (blockCode blk) (feeds s blk (tagSrc x.tag)) (tagCtx s x.tag) (ctlKind w) (ctlScope w) (ctlArg w) s

/-- A PLAN or SWAP item of the fibre or of the scan acts on a block: FDC channels clear (R215), tine slots note the frame
(R260, R262) (DEDUCED, log entry 48). -/
def planActs (blk : Block) (fibre : Bool) (tag : Word64) (s : State) : State :=
  match blk with
  | .fdc => if fibre = hasFibre s then fdcReset s else s
  | .tin => tinPlan fibre (tagFrame tag) s
  | _ => s

/-- PLAN_ITEM (R31, R32, R215) (DEDUCED, log entry 48). -/
def onPlanItem (blk : Block) (item : Item) (s : State) : State :=
  if isCtl item 1 then forwardCtl blk item (planActs blk (bitB (ctlArg (itemCtl item)) 4) item.tag s) else s

/-- SWAP_ITEM (R31, R32, R215): the plan staged for the item's frame governs the items after it. -/
def onSwapItem (blk : Block) (item : Item) (s : State) : State :=
  if isCtl item 2 then forwardCtl blk item (planActs blk (isFibre (srcDom s (tagSrc item.tag))) item.tag s) else s

/-- The grant that a GRANT item names (DEDUCED, log entry 48). -/
def itemGrant (s : State) (x : Item) : List Byte := (Tab.look s.ala.grants (ctlArg (itemCtl x) % 2 ^ 32)).getD s.ala.grant

/-- GRANT_ITEM (R34, R242): a consumer takes its grant, and forwards the item. -/
def onGrantItem (blk : Block) (item : Item) (s : State) : State :=
  if isCtl item 4 then
    let s := match blk with
      | .tin => { s with tin := { s.tin with grant := itemGrant s item } }
      | _ => s
    forwardCtl blk item s
  else s

/-- The unit that a FENCE or GRAFT item names. -/
def itemUnit (x : Item) : Nat := ctlArg (itemCtl x) % 65536

/-- FENCE_ITEM (R32, R501): the streams that the unit feeds are degraded from the item on (DEDUCED, log entry 48). -/
def onFenceItem (blk : Block) (item : Item) (s : State) : State :=
  let u := itemUnit item
  if isCtl item 5 then
    forwardCtl blk item
      (if isFenced s u then { s with fcl := { s.fcl with shown := s.fcl.shown ||| BitVec.ofNat 90 (2 ^ u) } } else s)
  else s

/-- GRAFT_ITEM (R32, R508): the unit contributes again (DEDUCED, log entry 48). -/
def onGraftItem (blk : Block) (item : Item) (s : State) : State :=
  let u := itemUnit item
  if isCtl item 6 then
    forwardCtl blk item
      (if isFenced s u then s else { s with fcl := { s.fcl with shown := s.fcl.shown &&& ~~~(BitVec.ofNat 90 (2 ^ u)) } })
  else s

/-- MARK_ITEM (R31, R234): it changes nothing in the items after it. -/
def onMarkItem (blk : Block) (item : Item) (s : State) : State := if isCtl item 7 then forwardCtl blk item s else s

/-- CAL_ITEM (R31, R57): what it puts in force was put in force where it was inserted. -/
def onCalItem (blk : Block) (item : Item) (s : State) : State := if isCtl item 8 then forwardCtl blk item s else s

/-! ### Meanings -/

/-- The meaning of this command: the step of `onPlanItem` (R31). -/
def execPlanItem (blk : Block) (item : Item) (s : State) : Host.Outcome State Fault Refusal :=
  .next (onPlanItem blk item s)

/-- The meaning of this command: the step of `onSwapItem` (R31). -/
def execSwapItem (blk : Block) (item : Item) (s : State) : Host.Outcome State Fault Refusal :=
  .next (onSwapItem blk item s)

/-- The meaning of this command: the step of `onGrantItem` (R34). -/
def execGrantItem (blk : Block) (item : Item) (s : State) : Host.Outcome State Fault Refusal :=
  .next (onGrantItem blk item s)

/-- The meaning of this command: the step of `onFenceItem` (R501). -/
def execFenceItem (blk : Block) (item : Item) (s : State) : Host.Outcome State Fault Refusal :=
  .next (onFenceItem blk item s)

/-- The meaning of this command: the step of `onGraftItem` (R508). -/
def execGraftItem (blk : Block) (item : Item) (s : State) : Host.Outcome State Fault Refusal :=
  .next (onGraftItem blk item s)

/-- The meaning of this command: the step of `onMarkItem` (R234). -/
def execMarkItem (blk : Block) (item : Item) (s : State) : Host.Outcome State Fault Refusal :=
  .next (onMarkItem blk item s)

/-- The meaning of this command: the step of `onCalItem` (R57). -/
def execCalItem (blk : Block) (item : Item) (s : State) : Host.Outcome State Fault Refusal :=
  .next (onCalItem blk item s)

end Sys2Proof.Machine
end

