-- ==== Sys2Proof/Machine/Tine.lean ====
section
/-! DEFINITION. The tine instructions (R244 to R256, R262, R265). Each command is the instruction that the tine executes
at its present index; a tine without a job, or whose job has reached its step limit, executes nothing. -/

namespace Sys2Proof.Machine

/-! ### The frame of an instruction (R252, R254, R255) -/

/-- How an instruction goes on: with the next index, at an index, or by ending the job with a status. -/
inductive TineNext where
  | seq
  | jump (pc : Nat)
  | stop (status : Nat)
  deriving DecidableEq, Repr

/-- Whether a condition holds (R252). -/
def condHolds (c : Cond) (x : TineSt) : Bool :=
  match c with
  | .always => true | .z => x.z | .nz => !x.z | .n => x.n | .nn => !x.n

/-- The index after `pc` and the repeats then active: a repeat whose end index executes at its call depth returns to its
start or ends (R254). -/
def seqPc (pc depth : Nat) (reps : List Repeat) : Nat × List Repeat :=
  match reps with
  | [] => (pc + 1, [])
  | r :: rest =>
    if r.stop = pc ∧ r.depth = depth then
      if 1 < r.left then (r.start, { r with left := r.left - 1 } :: rest) else seqPc pc depth rest
    else (pc + 1, r :: rest)

/-- The tine after the instruction at its index. -/
def TineSt.next (x : TineSt) : TineSt :=
  { x with pc := (seqPc x.pc x.calls.length x.reps).1, reps := (seqPc x.pc x.calls.length x.reps).2 }

/-- The step limit of the job on a tine. -/
def tineLimit (s : State) (x : TineSt) : Nat := (slotRec s x.slot).elim 0 stepLimit

/-- The tine executes instructions: it runs a job that has steps left. -/
def tineRuns (s : State) (t : Nat) : Bool :=
  (tineOf s t).busy && !isFenced s (Unit.tine t) && decide ((tineOf s t).steps < tineLimit s (tineOf s t))

/-- Put the outcome of an instruction into force. -/
def tineTake (t : Nat) (p : TineSt × TineNext) (s : State) : State :=
  match p.2 with
  | .seq => setTine t p.1.next s
  | .jump pc => setTine t { p.1 with pc := pc } s
  | .stop st => endJob t st (setTine t p.1 s)

/-- The instruction at the present index of tine `t` (R243, R252). -/
def tineFetch (s : State) (t : Fin 16) : Option Instr :=
  (tineOf s t).prog[(tineOf s t).pc]?.bind fun w => decodeTine t w.toNat

/-- Tine `t` executes instruction `i`: it runs, and its program memory holds `i` at the present index. -/
def tineAt (s : State) (t : Fin 16) (i : Instr) : Bool := tineRuns s t && decide (tineFetch s t = some i)

/-- What instruction `i` waits for before it executes; with its condition false it waits for nothing (R251, R252, R256). -/
def tineWaits (i : Instr) (hd : TineHd) (f : State → State) (s : State) : State :=
  if tineAt s hd.tine i && condHolds hd.cond (tineOf s hd.tine) then f s else s

/-- Execute instruction `i` (R252, R255): it counts a step; with its condition false it has no other effect. -/
def tineInstr (i : Instr) (hd : TineHd) (f : TineSt → TineSt × TineNext) (s : State) : State :=
  let x := tineOf s hd.tine
  if !tineAt s hd.tine i then s
  else
    let y : TineSt := { x with steps := x.steps + 1 }
    tineTake hd.tine (if condHolds hd.cond y then f y else (y, .seq)) s

/-! ### Registers (R244) -/

/-- A D register, or the pair that begins at its even register, as a number. -/
def dGet (x : TineSt) (i : Nat) (pair : Bool) : Nat :=
  if pair then (x.d.getD (i - i % 2) 0).toNat + 65536 * (x.d.getD (i - i % 2 + 1) 0).toNat else (x.d.getD i 0).toNat

/-- Write a D register or pair. -/
def dPut (i : Nat) (pair : Bool) (v : Nat) (x : TineSt) : TineSt :=
  if pair then { x with d := (x.d.set (i - i % 2) (BitVec.ofNat 16 v)).set (i - i % 2 + 1) (BitVec.ofNat 16 (v / 65536)) }
  else { x with d := x.d.set i (BitVec.ofNat 16 v) }

/-- The width of a register or pair. -/
def dWidth (pair : Bool) : Nat := if pair then 32 else 16

/-- Place an exact result in `w` bits (R245, R247): the pattern, and whether it overflowed. -/
def placeIn (w : Nat) (sat : Bool) (v : Int) : Nat × Bool :=
  let out := decide (v < -(2 ^ (w - 1))) || decide (2 ^ (w - 1) - 1 < v)
  (uval w (if sat then satS w v else v), out)

/-- Z and N of a pattern of `w` bits; a new overflow joins OVF (R244). -/
def TineSt.flags (x : TineSt) (w v : Nat) (o : Bool) : TineSt :=
  { x with z := decide (v % 2 ^ w = 0), n := bitB v (w - 1), ovf := x.ovf || o }

/-! ### ALU (R245) -/

/-- A shift of a `w`-bit pattern; a shift by the width or more is open (DESIGN CHOICE, log entry 11). -/
def aluShift (k w a n : Nat) (v : Int) (sat : Bool) : Nat × Bool :=
  if n < w then placeIn w sat v
  else (Config.tineShift k w a n % 2 ^ w, bitB (Config.tineShift k w a n) w)

/-- The result of an ALU operation on patterns `a`, `b` of `w` bits; a unary operation uses `u`. -/
def aluResult (op : AluOp) (w : Nat) (sat : Bool) (a b u : Nat) : Nat × Bool :=
  let sa := sval w a
  let sb := sval w b
  match op with
  | .add => placeIn w sat (sa + sb)
  | .sub => placeIn w sat (sa - sb)
  | .cmp => placeIn w sat (sa - sb)
  | .and => (Nat.land a b, false)
  | .or => (Nat.lor a b, false)
  | .xor => (Nat.xor a b, false)
  | .not => (2 ^ w - 1 - u % 2 ^ w, false)
  | .neg => placeIn w sat (-(sval w u))
  | .abs => placeIn w sat (if sval w u < 0 then -(sval w u) else sval w u)
  | .min => (if sa ≤ sb then a else b, false)
  | .max => (if sa ≤ sb then b else a, false)
  | .shl => aluShift 0 w a b (sa * 2 ^ b) sat
  | .shra => aluShift 1 w a b (sa / 2 ^ b) sat
  | .shrl => aluShift 2 w a b (sval w (a / 2 ^ b)) sat
  | .mov => (u, false)

/-- A 16-bit immediate as an operand of `w` bits, sign-extended. -/
def immOf (w : Nat) (imm : BitVec 16) : Nat := uval w imm.toInt

/-- TINE_ALU (R245): the immediate takes the place of source 2, or of the only source (DEDUCED, log entry 34). -/
def onTineAlu (hd : TineHd) (op : AluOp) (dst src1 src2 : Fin 16) (pair useImm : Bool) (imm : BitVec 16) (s : State) : State :=
  tineInstr (.tineAlu hd op dst src1 src2 pair useImm imm) hd (fun x =>
    let w := dWidth pair
    let a := dGet x src1 pair
    let b := if useImm then immOf w imm else dGet x src2 pair
    let u := if useImm then immOf w imm else a
    let r := aluResult op w hd.sat a b u
    let y := x.flags w r.1 r.2
    (if op = .cmp then y else dPut dst pair r.1 y, .seq)) s

/-! ### Accumulators (R246, R247) -/

def accGet (x : TineSt) (i : Nat) : Int := (x.acc.getD i 0).toInt

/-- Write an accumulator with an exact result and set the flags (R247). -/
def accPut (i : Nat) (sat : Bool) (v : Int) (x : TineSt) : TineSt :=
  let p := placeIn 40 sat v
  { x with acc := x.acc.set i (BitVec.ofNat 40 p.1) }.flags 40 p.1 p.2

/-- A product (R246). -/
def macProduct (frac : Bool) (a b : Nat) : Int := sval 16 a * sval 16 b * (if frac then 2 else 1)

/-- The exact value of an accumulator after an operation with product `p`. -/
def macValue (op : MacOp) (acc p : Int) : Int :=
  match op with
  | .mpy => p | .mac => acc + p | .msu => acc - p

/-! ### Addressing (R249 to R251) -/

/-- `k` bits of `v` reversed. -/
def revBits (k v : Nat) : Nat := (List.range k).foldl (fun a i => a + v / 2 ^ i % 2 * 2 ^ (k - 1 - i)) 0

/-- The address an access uses (R249). -/
def aguAddress (x : TineSt) (i : Nat) : Nat :=
  let a := (x.a.getD i 0).toNat
  let b := (x.b.getD i 0).toNat
  let l := (x.l.getD i 0).toNat
  if l = 0 then a else (b + (a + 65536 - b) % 65536 % l) % 65536

/-- A pointer moved by `step` (R249) (DEDUCED, log entry 34). -/
def aguStep (x : TineSt) (i : Nat) (step : Int) : Nat :=
  let a := (x.a.getD i 0).toNat
  let b := (x.b.getD i 0).toNat
  let l := (x.l.getD i 0).toNat
  if l = 0 then uval 16 ((a : Int) + step)
  else (b + (((((a + 65536 - b) % 65536 % l : Nat) : Int) + step) % (l : Int)).toNat) % 65536

/-- The power of two of a bit-reversed buffer, if it is one (R249). -/
def bitrevLog (l : Nat) : Option Nat := (List.range 16).find? fun k => decide (2 ≤ k) && decide (2 ^ k = l)

/-- A pointer moved with reversed carry by its modifier (R249). -/
def aguReverse (x : TineSt) (i k : Nat) : Nat :=
  let b := (x.b.getD i 0).toNat
  let o := ((x.a.getD i 0).toNat + 65536 - b) % 65536 % 2 ^ k
  let m := (x.m.getD i 0).toNat
  (b + revBits k ((revBits k o + revBits k (m % 2 ^ k)) % 2 ^ k)) % 65536

/-- The pointer after an access in an update mode; none when the buffer's length forbids it (R249). -/
def aguUpdate (x : TineSt) (i : Nat) (mode : UpdMode) (imm : BitVec 16) : Option Nat :=
  match mode with
  | .none => some (x.a.getD i 0).toNat
  | .byM => some (aguStep x i (x.m.getD i 0).toInt)
  | .imm => some (aguStep x i imm.toInt)
  | .bitrev => (bitrevLog (x.l.getD i 0).toNat).map (aguReverse x i)

def aPut (i v : Nat) (x : TineSt) : TineSt := { x with a := x.a.set i (BitVec.ofNat 16 v) }

/-- `n` bytes of data memory from `a`, addresses modulo 2^16, as a number. -/
def dmRead (m : Memory) (a n : Nat) : Nat := leVal ((List.range n).map fun i => Memory.read m ((a + i) % 65536))

/-- Store `n` bytes of `v` from `a` upward. -/
def dmWrite (m : Memory) (a n v : Nat) : Memory :=
  (List.range n).foldl (fun m i => Memory.write m ((a + i) % 65536) (BitVec.ofNat 8 (v / 256 ^ i))) m

/-- A load or store (R249, R251): MISALIGNED and BADLEN end the job. -/
def tineAccess (store wide : Bool) (d areg : Nat) (mode : UpdMode) (imm : BitVec 16) (x : TineSt) : TineSt × TineNext :=
  let n := if wide then 4 else 2
  let at_ := aguAddress x areg
  match aguUpdate x areg mode imm with
  | none => (x, .stop 7)
  | some a' =>
    if at_ % n ≠ 0 then (x, .stop 2)
    else if store then (aPut areg a' { x with mem := dmWrite x.mem at_ n (dGet x d wide) }, .seq)
    else (aPut areg a' (dPut d wide (dmRead x.mem at_ n) x), .seq)

/-! ### DMA (R256) -/

/-- The job on a tine. -/
def tineJob (s : State) (t : Nat) : Option Job :=
  (runningJob s t).bind fun i => (slotOf s (tineOf s t).slot).jobs[i]?

/-- Whether remote address `a`, `n` bytes, lies in the scratch window of the tine's slot: an address below the 8 MiB
M-tier reserve names the tine SRAM region (DEDUCED, log entry 35). -/
def inScratch (r : ImgRec) (a n : Nat) : Bool :=
  decide (scratchLen r ≠ 0) && decide (scratchBase r ≤ a) && decide (a + n ≤ scratchBase r + scratchLen r)

/-- Whether it lies in the job's input buffer (DEDUCED, log entry 35). -/
def inBuffer (s : State) (k : Nat) (r : ImgRec) (j : Job) (a n : Nat) : Bool :=
  decide (bufferBase s k r j ≤ a) && decide (a + n ≤ bufferBase s k r j + rf r 0x28 0 8 * mib)

/-- The bytes a transfer to data memory brings; input-buffer bytes beyond those written are open (DEDUCED, log entry 35). -/
def dmaBytes (s : State) (t : Nat) (d : Dma) : List Byte :=
  match slotRec s (tineOf s t).slot, tineJob s t with
  | some r, some j =>
    if inScratch r d.remote (8 * d.len) then Memory.readList s.tin.sram d.remote (8 * d.len)
    else
      let o := d.remote - bufferBase s (tineOf s t).slot r j
      (List.range (8 * d.len)).map fun i => j.bytes.getD (o + i) (BitVec.ofNat 8 (Config.freeNat (s.freeIdx + i)))
  | _, _ => []

/-- A transfer completes (R256) (DEDUCED, log entry 35). -/
def dmaFinish (t c : Nat) (s : State) : State :=
  let x := tineOf s t
  match x.dma.getD c none with
  | none => s
  | some d =>
    let y : TineSt := { x with dma := x.dma.set c none }
    if d.toData then
      setTine t { y with mem := Memory.writeList x.mem d.loc (dmaBytes s t d) } { s with freeIdx := s.freeIdx + 8 * d.len }
    else
      setTine t y { s with tin := { s.tin with sram := Memory.writeList s.tin.sram d.remote (Memory.readList x.mem d.loc (8 * d.len)) } }

/-- Whether `n` bytes of data memory from `a`, addresses modulo 2^16, overlap `m` bytes from `b` that do not wrap. -/
def rangesMeet (a n b m : Nat) : Bool := decide (b < a + n) && decide (a < b + m) || decide (b + 65536 < a + n)

/-- An access to `n` bytes at `a` waits for the transfers in flight that overlap it (R251) (DEDUCED, log entry 35). -/
def dmaSettle (t a n : Nat) (s : State) : State :=
  (List.range 2).foldl (fun s c =>
    match (tineOf s t).dma.getD c none with
    | some d => if rangesMeet a n d.loc (8 * d.len) then dmaFinish t c s else s
    | none => s) s

/-- TINE_DMA_DONE (R256): a transfer completes. -/
def onTineDmaDone (tine : Fin 16) (chan : Fin 2) (s : State) : State := dmaFinish tine chan s

/-- The rules of a transfer (R256) (DEDUCED, log entry 35). -/
def dmaAllowed (s : State) (t : Nat) (d : Dma) : Bool :=
  match slotRec s (tineOf s t).slot, tineJob s t with
  | some r, some j =>
    decide (d.loc % 8 = 0) && decide (d.remote % 8 = 0) && decide (d.loc + 8 * d.len ≤ 65536)
      && (inScratch r d.remote (8 * d.len) || (d.toData && inBuffer s (tineOf s t).slot r j d.remote (8 * d.len)))
  | _, _ => false

/-- TINE_DMA_START (R256): a busy channel is waited for; a length of 0 is complete at once. -/
def onTineDmaStart (hd : TineHd) (chan : Fin 2) (toData : Bool) (areg : Fin 8) (remote : Fin 8) (len : BitVec 14) (s : State) :
    State :=
  let s := tineWaits (.tineDmaStart hd chan toData areg remote len) hd (dmaFinish hd.tine chan) s
  tineInstr (.tineDmaStart hd chan toData areg remote len) hd (fun x =>
    let d : Dma := ⟨toData, (x.a.getD areg 0).toNat, dGet x (2 * remote) true, len.toNat⟩
    if len = 0 then (x, .seq)
    else if dmaAllowed s hd.tine d then ({ x with dma := x.dma.set chan (some d) }, .seq)
    else (x, .stop 3)) s

/-- TINE_DMA_WAIT (R256). -/
def onTineDmaWait (hd : TineHd) (chan : Fin 2) (s : State) : State :=
  let s := tineWaits (.tineDmaWait hd chan) hd (dmaFinish hd.tine chan) s
  tineInstr (.tineDmaWait hd chan) hd (fun x => (x, .seq)) s

/-! ### MAC, ACC, LDST, ADDR -/

/-- A parallel load of a MAC: 32 bits, post-modify by M (R252). -/
def parLoad (l : Option ParLoad) (p : TineSt × TineNext) : TineSt × TineNext :=
  match l, p.2 with
  | some q, .seq => tineAccess false true (2 * q.pair) q.areg .byM 0 p.1
  | _, _ => p

/-- Wait for the transfers that the parallel loads overlap: the second one's address follows the first one's update. -/
def parSettle (t : Nat) (ld1 ld2 : Option ParLoad) (s : State) : State :=
  let s := match ld1 with
    | some q => dmaSettle t (aguAddress (tineOf s t) q.areg) 4 s
    | none => s
  match ld2, parLoad ld1 (tineOf s t, .seq) with
  | some q, (x, .seq) => dmaSettle t (aguAddress x q.areg) 4 s
  | _, _ => s

/-- TINE_MAC (R246, R247): the products are formed, then the loads enter (DESIGN CHOICE, log entry 11). -/
def onTineMac (hd : TineHd) (op : MacOp) (accA accB : Fin 4) (a1 a2 b1 b2 : Fin 16) (frac dual : Bool)
    (ld1 ld2 : Option ParLoad) (s : State) : State :=
  let s := tineWaits (.tineMac hd op accA accB a1 a2 b1 b2 frac dual ld1 ld2) hd (parSettle hd.tine ld1 ld2) s
  tineInstr (.tineMac hd op accA accB a1 a2 b1 b2 frac dual ld1 ld2) hd (fun x =>
    let pa := macProduct frac (dGet x a1 false) (dGet x a2 false)
    let pb := macProduct frac (dGet x b1 false) (dGet x b2 false)
    let y := accPut accA hd.sat (macValue op (accGet x accA) pa) x
    let w := if dual then accPut accB hd.sat (macValue op (accGet x accB) pb) y else y
    let w : TineSt := if dual && !Config.tineDualFlags then { w with z := y.z, n := y.n } else w
    parLoad ld2 (parLoad ld1 (w, .seq))) s

/-- The value a move takes from an accumulator (R247), before its width: rounded half up, then [31:16] or [31:0]
(DEDUCED, log entry 34). -/
def movdValue (pair round : Bool) (acc : Int) : Int :=
  let v := if round then acc + 32768 else acc
  if pair then v else v / 65536

/-- TINE_ACC (R247): RND rounds to a multiple of 2^16; a 16-bit MOVA enters [31:16] (DEDUCED, log entry 34). -/
def onTineAcc (hd : TineHd) (op : AccOp) (acc acc2 : Fin 4) (d : Fin 16) (pair round : Bool) (shift : BitVec 6) (s : State) : State :=
  tineInstr (.tineAcc hd op acc acc2 d pair round shift) hd (fun x =>
    let v := accGet x acc
    let n := shift.toInt
    match op with
    | .clr => (accPut acc hd.sat 0 x, .seq)
    | .adda => (accPut acc hd.sat (v + accGet x acc2) x, .seq)
    | .sha => (accPut acc hd.sat (if 0 ≤ n then v * 2 ^ n.toNat else v / 2 ^ (-n).toNat) x, .seq)
    | .rnd => (accPut acc hd.sat ((v + 32768) / 65536 * 65536) x, .seq)
    | .mova => (accPut acc hd.sat (if pair then sval 32 (dGet x d true) else sval 16 (dGet x d false) * 65536) x, .seq)
    | .movd =>
      let p := placeIn (dWidth pair) hd.sat (movdValue pair round v)
      (dPut d pair p.1 { x with ovf := x.ovf || p.2 }, .seq)) s

/-- TINE_LDST (R249 to R251). -/
def onTineLdst (hd : TineHd) (store wide : Bool) (d : Fin 16) (areg : Fin 8) (mode : UpdMode) (imm : BitVec 16) (s : State) : State :=
  let s := tineWaits (.tineLdst hd store wide d areg mode imm) hd (dmaSettle hd.tine (aguAddress (tineOf s hd.tine) areg) (if wide then 4 else 2)) s
  tineInstr (.tineLdst hd store wide d areg mode imm) hd (tineAccess store wide d areg mode imm) s

/-- Read a register of an address instruction. -/
def agGet (x : TineSt) (t : AddrTgt) (i : Nat) : BitVec 16 :=
  match t with
  | .a => x.a.getD i 0 | .b => x.b.getD i 0 | .l => x.l.getD i 0 | .m => x.m.getD i 0

/-- Write a register of an address instruction: nothing else changes (R250). -/
def agPut (t : AddrTgt) (i : Nat) (v : BitVec 16) (x : TineSt) : TineSt :=
  match t with
  | .a => { x with a := x.a.set i v }
  | .b => { x with b := x.b.set i v }
  | .l => { x with l := x.l.set i v }
  | .m => { x with m := x.m.set i v }

/-- TINE_ADDR (R250): ADDA moves a pointer as R249 moves it (DEDUCED, log entry 34). -/
def onTineAddr (hd : TineHd) (op : AddrOp) (x : Fin 8) (tgt : AddrTgt) (d : Fin 16) (imm : BitVec 16) (s : State) : State :=
  tineInstr (.tineAddr hd op x tgt d imm) hd (fun y =>
    match op with
    | .set => (agPut tgt x imm y, .seq)
    | .adda => (agPut tgt x (if tgt = .a then BitVec.ofNat 16 (aguStep y x imm.toInt) else agGet y tgt x + imm) y, .seq)
    | .movda => (agPut tgt x (y.d.getD d 0) y, .seq)
    | .movad => (dPut d false (agGet y tgt x).toNat y, .seq)) s

/-! ### Control flow (R254) -/

/-- The repeats left after a taken branch to `target` at call depth `depth` (DEDUCED, log entry 36). -/
def repsAfter (target depth : Nat) (reps : List Repeat) : List Repeat :=
  match reps with
  | [] => []
  | r :: rest =>
    let k := repsAfter target depth rest
    if decide (k.length = rest.length) && !(decide (r.depth = depth) && (decide (target < r.start) || decide (r.stop < target)))
    then r :: rest else k

/-- TINE_BR. -/
def onTineBr (hd : TineHd) (target : BitVec 12) (s : State) : State :=
  tineInstr (.tineBr hd target) hd (fun x => ({ x with reps := repsAfter target.toNat x.calls.length x.reps }, .jump target.toNat)) s

/-- TINE_CALL: a ninth nested call ends the job with STACK. -/
def onTineCall (hd : TineHd) (target : BitVec 12) (s : State) : State :=
  tineInstr (.tineCall hd target) hd (fun x =>
    if 8 ≤ x.calls.length then (x, .stop 4)
    else ({ x with calls := (x.next.pc, x.next.reps.length) :: x.calls, reps := x.next.reps }, .jump target.toNat)) s

/-- TINE_RET: an empty stack ends the job with STACK; the repeat depth is that of the call. -/
def onTineRet (hd : TineHd) (s : State) : State :=
  tineInstr (.tineRet hd) hd (fun x =>
    match x.calls with
    | [] => (x, .stop 4)
    | (pc, depth) :: rest => ({ x with calls := rest, reps := x.reps.drop (x.reps.length - depth) }, .jump pc)) s

/-- TINE_REP: REP and REPD; a count of 0 skips the body, a fourth nested repeat ends the job with REPEAT_DEPTH. -/
def onTineRep (hd : TineHd) (fromD : Option (Fin 16)) (endIdx : BitVec 12) (count : BitVec 16) (s : State) : State :=
  tineInstr (.tineRep hd fromD endIdx count) hd (fun x =>
    let n := match fromD with
      | some i => (x.d.getD i 0).toNat
      | none => count.toNat
    if n = 0 then (x, .jump (endIdx.toNat + 1))
    else if 3 ≤ x.reps.length then (x, .stop 5)
    else ({ x with reps := ⟨x.pc + 1, endIdx.toNat, n, x.calls.length⟩ :: x.reps }, .jump (x.pc + 1))) s

/-- TINE_NOP. -/
def onTineNop (hd : TineHd) (s : State) : State := tineInstr (.tineNop hd) hd (fun x => (x, .seq)) s

/-- TINE_END (R255, R256, R262): the channels are waited for and the job commits, unless this step reaches its limit
(DEDUCED, log entry 36). -/
def onTineEnd (hd : TineHd) (s : State) : State :=
  let s := tineWaits (.tineEnd hd) hd (fun s => dmaFinish hd.tine 1 (dmaFinish hd.tine 0 s)) s
  tineInstr (.tineEnd hd) hd (fun x => (x, .stop (if tineLimit s x ≤ x.steps then 1 else 0))) s

/-! ### SPEC, EMIT, limits -/

/-- The quotient of R252: by zero the largest positive one with OVF (DESIGN CHOICE, log entry 11). -/
def divResult (w : Nat) (sat : Bool) (n d : Int) : Nat × Bool :=
  if d = 0 then (2 ^ (w - 1) - 1, true)
  else placeIn w sat (n / d + if n % d ≠ 0 && Config.tineDivUp n d then 1 else 0)

/-- Leading zeros of a pattern of `w` bits. -/
def clz (w v : Nat) : Nat := w - bitLen (v % 2 ^ w)

/-- TINE_SPEC (R252): DIV divides the destination's pair by the source register; CRC32C advances the destination's pair
(DEDUCED, log entry 34). -/
def onTineSpec (hd : TineHd) (op : SpecOp) (dst src : Fin 16) (pair : Bool) (s : State) : State :=
  tineInstr (.tineSpec hd op dst src pair) hd (fun x =>
    match op with
    | .clz => (dPut dst false (clz (dWidth pair) (dGet x src pair)) x, .seq)
    | .norm => (dPut dst false (Config.tineNorm (dWidth pair) (dGet x src pair)) x, .seq)
    | .isqrt => (dPut dst false (isqrt (dGet x src true)) x, .seq)
    | .div =>
      let r := divResult (dWidth pair) hd.sat (sval 32 (dGet x dst true)) (sval 16 (dGet x src false))
      (dPut dst pair r.1 { x with ovf := x.ovf || r.2 }, .seq)
    | .crc32c => (dPut dst true (crc32cFrom (dGet x dst true) (leBytes 2 (dGet x src false))) x, .seq)) s

/-- TINE_EMIT (R265): EMIT and EMITR append words of data memory; beyond out_max the job ends with OUT_LIMIT. -/
def onTineEmit (hd : TineHd) (areg : Fin 8) (fromD : Option (Fin 16)) (count : BitVec 13) (s : State) : State :=
  let n := match fromD with
    | some i => ((tineOf s hd.tine).d.getD i 0).toNat
    | none => count.toNat
  let s := tineWaits (.tineEmit hd areg fromD count) hd (dmaSettle hd.tine ((tineOf s hd.tine).a.getD areg 0).toNat (8 * n)) s
  tineInstr (.tineEmit hd areg fromD count) hd (fun x =>
    let at_ := (x.a.getD areg 0).toNat
    let ws : List Word64 := (List.range n).map fun i => BitVec.ofNat 64 (dmRead x.mem (at_ + 8 * i) 8)
    if (slotRec s x.slot).any fun r => decide (outMax r < x.out.length + n) then (x, .stop 6)
    else ({ x with out := x.out ++ ws }, .seq)) s

/-- TIN_STEP_LIMIT (R255): the job whose count has reached the limit ends. -/
def onTinStepLimit (tine : Fin 16) (s : State) : State :=
  let x := tineOf s tine
  if x.busy && !isFenced s (Unit.tine tine) && decide (tineLimit s x ≤ x.steps) then endJob tine 1 s else s

/-! ### Meanings -/

/-- The meaning of this command: the step of `onTineAlu` (R245). -/
def execTineAlu (hd : TineHd) (op : AluOp) (dst : Fin 16) (src1 : Fin 16) (src2 : Fin 16) (pair : Bool) (useImm : Bool) (imm : BitVec 16) (s : State) : Host.Outcome State Fault Refusal :=
  .next (onTineAlu hd op dst src1 src2 pair useImm imm s)

/-- The meaning of this command: the step of `onTineDmaDone` (R256). -/
def execTineDmaDone (tine : Fin 16) (chan : Fin 2) (s : State) : Host.Outcome State Fault Refusal :=
  .next (onTineDmaDone tine chan s)

/-- The meaning of this command: the step of `onTineDmaStart` (R256). -/
def execTineDmaStart (hd : TineHd) (chan : Fin 2) (toData : Bool) (areg : Fin 8) (remote : Fin 8) (len : BitVec 14) (s : State) : Host.Outcome State Fault Refusal :=
  .next (onTineDmaStart hd chan toData areg remote len s)

/-- The meaning of this command: the step of `onTineDmaWait` (R256). -/
def execTineDmaWait (hd : TineHd) (chan : Fin 2) (s : State) : Host.Outcome State Fault Refusal :=
  .next (onTineDmaWait hd chan s)

/-- The meaning of this command: the step of `onTineMac` (R246). -/
def execTineMac (hd : TineHd) (op : MacOp) (accA : Fin 4) (accB : Fin 4) (a1 : Fin 16) (a2 : Fin 16) (b1 : Fin 16) (b2 : Fin 16) (frac : Bool) (dual : Bool) (ld1 : Option ParLoad) (ld2 : Option ParLoad) (s : State) : Host.Outcome State Fault Refusal :=
  .next (onTineMac hd op accA accB a1 a2 b1 b2 frac dual ld1 ld2 s)

/-- The meaning of this command: the step of `onTineAcc` (R247). -/
def execTineAcc (hd : TineHd) (op : AccOp) (acc : Fin 4) (acc2 : Fin 4) (d : Fin 16) (pair : Bool) (round : Bool) (shift : BitVec 6) (s : State) : Host.Outcome State Fault Refusal :=
  .next (onTineAcc hd op acc acc2 d pair round shift s)

/-- The meaning of this command: the step of `onTineLdst` (R249). -/
def execTineLdst (hd : TineHd) (store : Bool) (wide : Bool) (d : Fin 16) (areg : Fin 8) (mode : UpdMode) (imm : BitVec 16) (s : State) : Host.Outcome State Fault Refusal :=
  .next (onTineLdst hd store wide d areg mode imm s)

/-- The meaning of this command: the step of `onTineAddr` (R250). -/
def execTineAddr (hd : TineHd) (op : AddrOp) (x : Fin 8) (tgt : AddrTgt) (d : Fin 16) (imm : BitVec 16) (s : State) : Host.Outcome State Fault Refusal :=
  .next (onTineAddr hd op x tgt d imm s)

/-- The meaning of this command: the step of `onTineBr` (R254). -/
def execTineBr (hd : TineHd) (target : BitVec 12) (s : State) : Host.Outcome State Fault Refusal :=
  .next (onTineBr hd target s)

/-- The meaning of this command: the step of `onTineCall` (R254). -/
def execTineCall (hd : TineHd) (target : BitVec 12) (s : State) : Host.Outcome State Fault Refusal :=
  .next (onTineCall hd target s)

/-- The meaning of this command: the step of `onTineRet` (R254). -/
def execTineRet (hd : TineHd) (s : State) : Host.Outcome State Fault Refusal :=
  .next (onTineRet hd s)

/-- The meaning of this command: the step of `onTineRep` (R254). -/
def execTineRep (hd : TineHd) (fromD : Option (Fin 16)) (endIdx : BitVec 12) (count : BitVec 16) (s : State) : Host.Outcome State Fault Refusal :=
  .next (onTineRep hd fromD endIdx count s)

/-- The meaning of this command: the step of `onTineNop` (R252). -/
def execTineNop (hd : TineHd) (s : State) : Host.Outcome State Fault Refusal :=
  .next (onTineNop hd s)

/-- The meaning of this command: the step of `onTineEnd` (R262). -/
def execTineEnd (hd : TineHd) (s : State) : Host.Outcome State Fault Refusal :=
  .next (onTineEnd hd s)

/-- The meaning of this command: the step of `onTineSpec` (R252). -/
def execTineSpec (hd : TineHd) (op : SpecOp) (dst : Fin 16) (src : Fin 16) (pair : Bool) (s : State) : Host.Outcome State Fault Refusal :=
  .next (onTineSpec hd op dst src pair s)

/-- The meaning of this command: the step of `onTineEmit` (R265). -/
def execTineEmit (hd : TineHd) (areg : Fin 8) (fromD : Option (Fin 16)) (count : BitVec 13) (s : State) : Host.Outcome State Fault Refusal :=
  .next (onTineEmit hd areg fromD count s)

/-- The meaning of this command: the step of `onTinStepLimit` (R255). -/
def execTinStepLimit (tine : Fin 16) (s : State) : Host.Outcome State Fault Refusal :=
  .next (onTinStepLimit tine s)

end Sys2Proof.Machine
end

