-- ==== Sys2Proof/Machine/Dispatch.lean ====
section
/-! DEFINITION. The dispatch: one arm per command of the opcode table, each one direct call of its meaning. -/

namespace Sys2Proof.Machine

def exec (i : Instr) (s : State) : Host.Outcome State Fault Refusal :=
  match i with
  | .porNRelease straps => Sys2Proof.Machine.execPorNRelease straps s
  | .porNAssert => Sys2Proof.Machine.execPorNAssert s
  | .nvmHeadersRead r => Sys2Proof.Machine.execNvmHeadersRead r s
  | .imageStageDone bytes eccOk ms => Sys2Proof.Machine.execImageStageDone bytes eccOk ms s
  | .bistDone sramOk failed t => Sys2Proof.Machine.execBistDone sramOk failed t s
  | .clocheSelftestDone r t => Sys2Proof.Machine.execClocheSelftestDone r t s
  | .startupCalDone t => Sys2Proof.Machine.execStartupCalDone t s
  | .railMeasureDone rail time t => Sys2Proof.Machine.execRailMeasureDone rail time t s
  | .firstFrameStart fibre t ms => Sys2Proof.Machine.execFirstFrameStart fibre t ms s
  | .tbPllLocked => Sys2Proof.Machine.execTbPllLocked s
  | .tbPllLockTimeout => Sys2Proof.Machine.execTbPllLockTimeout s
  | .tbsPllLockLost t => Sys2Proof.Machine.execTbsPllLockLost t s
  | .tbsRefLost t => Sys2Proof.Machine.execTbsRefLost t s
  | .tbsWarm => Sys2Proof.Machine.execTbsWarm s
  | .epochStart r t => Sys2Proof.Machine.execEpochStart r t s
  | .grantComputed t => Sys2Proof.Machine.execGrantComputed t s
  | .widthRetrainDone width => Sys2Proof.Machine.execWidthRetrainDone width s
  | .housekeepingRound r t => Sys2Proof.Machine.execHousekeepingRound r t s
  | .supplyCollapse monitor t => Sys2Proof.Machine.execSupplyCollapse monitor t s
  | .stopDeadline t => Sys2Proof.Machine.execStopDeadline t s
  | .queueDrainDone t => Sys2Proof.Machine.execQueueDrainDone t s
  | .columnBoundary t => Sys2Proof.Machine.execColumnBoundary t s
  | .indexEdge t => Sys2Proof.Machine.execIndexEdge t s
  | .esqIndexMissing t => Sys2Proof.Machine.execEsqIndexMissing t s
  | .frameStart t => Sys2Proof.Machine.execFrameStart t s
  | .slotDecision slot t => Sys2Proof.Machine.execSlotDecision slot t s
  | .shotFire bank t => Sys2Proof.Machine.execShotFire bank t s
  | .blankStart bank t => Sys2Proof.Machine.execBlankStart bank t s
  | .blankEnd bank t => Sys2Proof.Machine.execBlankEnd bank t s
  | .spadRearm chan spad t => Sys2Proof.Machine.execSpadRearm chan spad t s
  | .coincidenceEdge chan tap edge => Sys2Proof.Machine.execCoincidenceEdge chan tap edge s
  | .stampAccumulate chan parityOk => Sys2Proof.Machine.execStampAccumulate chan parityOk s
  | .confidenceUpdate bank t => Sys2Proof.Machine.execConfidenceUpdate bank t s
  | .followerLock chan t => Sys2Proof.Machine.execFollowerLock chan t s
  | .stripColumnDone strip ecc t => Sys2Proof.Machine.execStripColumnDone strip ecc t s
  | .mergeDeadline t => Sys2Proof.Machine.execMergeDeadline t s
  | .fieldVerdict t => Sys2Proof.Machine.execFieldVerdict t s
  | .calPassEnd strip t => Sys2Proof.Machine.execCalPassEnd strip t s
  | .tdcCalStarved strip t => Sys2Proof.Machine.execTdcCalStarved strip t s
  | .tdcCalReq mask t => Sys2Proof.Machine.execTdcCalReq mask t s
  | .auxRotationStep attempts t => Sys2Proof.Machine.execAuxRotationStep attempts t s
  | .auxOverlapEnd t => Sys2Proof.Machine.execAuxOverlapEnd t s
  | .tsiEdge chan rising tap tap2 edge => Sys2Proof.Machine.execTsiEdge chan rising tap tap2 edge s
  | .windowOpen chan t => Sys2Proof.Machine.execWindowOpen chan t s
  | .windowClose chan t => Sys2Proof.Machine.execWindowClose chan t s
  | .estimatorGateEnd chan gate => Sys2Proof.Machine.execEstimatorGateEnd chan gate s
  | .sweepBoundary t => Sys2Proof.Machine.execSweepBoundary t s
  | .adcTrigEdge tap tap2 edge => Sys2Proof.Machine.execAdcTrigEdge tap tap2 edge s
  | .fibTrigMissing t => Sys2Proof.Machine.execFibTrigMissing t s
  | .aomgGateOpen gate t => Sys2Proof.Machine.execAomgGateOpen gate t s
  | .aomgGateClose gate t => Sys2Proof.Machine.execAomgGateClose gate t s
  | .slotProcess tone sweep samples lost => Sys2Proof.Machine.execSlotProcess tone sweep samples lost s
  | .estimationBlockDone pair samples t => Sys2Proof.Machine.execEstimationBlockDone pair samples t s
  | .fibCalCycleStart pair t => Sys2Proof.Machine.execFibCalCycleStart pair t s
  | .zoneIntervalEnd => Sys2Proof.Machine.execZoneIntervalEnd s
  | .endEvaluation => Sys2Proof.Machine.execEndEvaluation s
  | .fibSurveyDone => Sys2Proof.Machine.execFibSurveyDone s
  | .dtsBlockDone => Sys2Proof.Machine.execDtsBlockDone s
  | .fibDtsProfile => Sys2Proof.Machine.execFibDtsProfile s
  | .fdcInput chan vals rangeStep => Sys2Proof.Machine.execFdcInput chan vals rangeStep s
  | .fdcSweepItem => Sys2Proof.Machine.execFdcSweepItem s
  | .captureItemArrive unit src item => Sys2Proof.Machine.execCaptureItemArrive unit src item s
  | .captureFrameClose unit t => Sys2Proof.Machine.execCaptureFrameClose unit t s
  | .refEvaluation t => Sys2Proof.Machine.execRefEvaluation t s
  | .captureReadDone unit t => Sys2Proof.Machine.execCaptureReadDone unit t s
  | .tineItemArrive slot input item => Sys2Proof.Machine.execTineItemArrive slot input item s
  | .tineJobClose slot => Sys2Proof.Machine.execTineJobClose slot s
  | .tineJobDispatch tine => Sys2Proof.Machine.execTineJobDispatch tine s
  | .tineAlu hd op dst src1 src2 pair useImm imm => Sys2Proof.Machine.execTineAlu hd op dst src1 src2 pair useImm imm s
  | .tineMac hd op accA accB a1 a2 b1 b2 frac dual ld1 ld2 => Sys2Proof.Machine.execTineMac hd op accA accB a1 a2 b1 b2 frac dual ld1 ld2 s
  | .tineAcc hd op acc acc2 d pair round shift => Sys2Proof.Machine.execTineAcc hd op acc acc2 d pair round shift s
  | .tineLdst hd store wide d areg mode imm => Sys2Proof.Machine.execTineLdst hd store wide d areg mode imm s
  | .tineAddr hd op x tgt d imm => Sys2Proof.Machine.execTineAddr hd op x tgt d imm s
  | .tineBr hd target => Sys2Proof.Machine.execTineBr hd target s
  | .tineCall hd target => Sys2Proof.Machine.execTineCall hd target s
  | .tineRet hd => Sys2Proof.Machine.execTineRet hd s
  | .tineRep hd fromD endIdx count => Sys2Proof.Machine.execTineRep hd fromD endIdx count s
  | .tineNop hd => Sys2Proof.Machine.execTineNop hd s
  | .tineEnd hd => Sys2Proof.Machine.execTineEnd hd s
  | .tineSpec hd op dst src pair => Sys2Proof.Machine.execTineSpec hd op dst src pair s
  | .tineDmaStart hd chan toData areg remote len => Sys2Proof.Machine.execTineDmaStart hd chan toData areg remote len s
  | .tineDmaWait hd chan => Sys2Proof.Machine.execTineDmaWait hd chan s
  | .tineDmaDone tine chan => Sys2Proof.Machine.execTineDmaDone tine chan s
  | .tineEmit hd areg fromD count => Sys2Proof.Machine.execTineEmit hd areg fromD count s
  | .tinStepLimit tine => Sys2Proof.Machine.execTinStepLimit tine s
  | .tinEcc tine mem uncorr t => Sys2Proof.Machine.execTinEcc tine mem uncorr t s
  | .loopSample loop lfb lsp t => Sys2Proof.Machine.execLoopSample loop lfb lsp t s
  | .lspEdge loop g high => Sys2Proof.Machine.execLspEdge loop g high s
  | .cleSpLost loop t => Sys2Proof.Machine.execCleSpLost loop t s
  | .asfConversion chan ratio saturated railed t => Sys2Proof.Machine.execAsfConversion chan ratio saturated railed t s
  | .mulchBlockStart => Sys2Proof.Machine.execMulchBlockStart s
  | .mulchBlockDone engine verifyOk t => Sys2Proof.Machine.execMulchBlockDone engine verifyOk t s
  | .bpQueueSpace q => Sys2Proof.Machine.execBpQueueSpace q s
  | .qsyStall q t => Sys2Proof.Machine.execQsyStall q t s
  | .planItem blk item => Sys2Proof.Machine.execPlanItem blk item s
  | .swapItem blk item => Sys2Proof.Machine.execSwapItem blk item s
  | .flushItem q src stream item => Sys2Proof.Machine.execFlushItem q src stream item s
  | .grantItem blk item => Sys2Proof.Machine.execGrantItem blk item s
  | .fenceItem blk item => Sys2Proof.Machine.execFenceItem blk item s
  | .graftItem blk item => Sys2Proof.Machine.execGraftItem blk item s
  | .markItem blk item => Sys2Proof.Machine.execMarkItem blk item s
  | .calItem blk item => Sys2Proof.Machine.execCalItem blk item s
  | .laneTrained lane rate miswired il t => Sys2Proof.Machine.execLaneTrained lane rate miswired il t s
  | .portAbsentTimeout port t => Sys2Proof.Machine.execPortAbsentTimeout port t s
  | .dnRetryTimer t => Sys2Proof.Machine.execDnRetryTimer t s
  | .laneExitTimeout lane t => Sys2Proof.Machine.execLaneExitTimeout lane t s
  | .fecUncorrectable lane t => Sys2Proof.Machine.execFecUncorrectable lane t s
  | .startBlock port vc dst bcast src words itemEnd seq t => Sys2Proof.Machine.execStartBlock port vc dst bcast src words itemEnd seq t s
  | .credit port vc0 vc1 vc3 => Sys2Proof.Machine.execCredit port vc0 vc1 vc3 s
  | .laneStatus port mask => Sys2Proof.Machine.execLaneStatus port mask s
  | .laneRequest port count => Sys2Proof.Machine.execLaneRequest port count s
  | .laneReady port => Sys2Proof.Machine.execLaneReady port s
  | .laneSwitch port count => Sys2Proof.Machine.execLaneSwitch port count s
  | .laneFenceNotice port mask => Sys2Proof.Machine.execLaneFenceNotice port mask s
  | .vc0RetryTimeout port t => Sys2Proof.Machine.execVc0RetryTimeout port t s
  | .commaDepart port tap tap2 edge => Sys2Proof.Machine.execCommaDepart port tap tap2 edge s
  | .commaArrive port tap tap2 edge => Sys2Proof.Machine.execCommaArrive port tap tap2 edge s
  | .enum sender nonce att => Sys2Proof.Machine.execEnum sender nonce att s
  | .attest att => Sys2Proof.Machine.execAttest att s
  | .attestVerifyDone port t => Sys2Proof.Machine.execAttestVerifyDone port t s
  | .signDone sig t => Sys2Proof.Machine.execSignDone sig t s
  | .accept addr => Sys2Proof.Machine.execAccept addr s
  | .reject port reason => Sys2Proof.Machine.execReject port reason s
  | .capReport addr dnState cap t => Sys2Proof.Machine.execCapReport addr dnState cap t s
  | .enumTimeout t => Sys2Proof.Machine.execEnumTimeout t s
  | .reenum addr nonce => Sys2Proof.Machine.execReenum addr nonce s
  | .align port index depart arrive t => Sys2Proof.Machine.execAlign port index depart arrive t s
  | .start t0 grants t => Sys2Proof.Machine.execStart t0 grants t s
  | .swapPrepare fibre plan target t => Sys2Proof.Machine.execSwapPrepare fibre plan target t s
  | .swapReady addr target => Sys2Proof.Machine.execSwapReady addr target s
  | .swapCommit target => Sys2Proof.Machine.execSwapCommit target s
  | .swapCancel target => Sys2Proof.Machine.execSwapCancel target s
  | .order code args frame t => Sys2Proof.Machine.execOrder code args frame t s
  | .frameClose addr src stream frame => Sys2Proof.Machine.execFrameClose addr src stream frame s
  | .mergeWaitExpire src stream frame => Sys2Proof.Machine.execMergeWaitExpire src stream frame s
  | .forwardedItem item t => Sys2Proof.Machine.execForwardedItem item t s
  | .join addr offset => Sys2Proof.Machine.execJoin addr offset s
  | .deepCounts column counts nEn tQuiet => Sys2Proof.Machine.execDeepCounts column counts nEn tQuiet s
  | .deepFire shots => Sys2Proof.Machine.execDeepFire shots s
  | .deepWin chan lock windows => Sys2Proof.Machine.execDeepWin chan lock windows s
  | .deepHist chan h => Sys2Proof.Machine.execDeepHist chan h s
  | .samples conv att first vals => Sys2Proof.Machine.execSamples conv att first vals s
  | .cableLengthUpdate lane il => Sys2Proof.Machine.execCableLengthUpdate lane il s
  | .evaluationCycle hr lr t => Sys2Proof.Machine.execEvaluationCycle hr lr t s
  | .safeInputChange input level => Sys2Proof.Machine.execSafeInputChange input level s
  | .siFilterExpire input => Sys2Proof.Machine.execSiFilterExpire input s
  | .testPulseStart tp => Sys2Proof.Machine.execTestPulseStart tp s
  | .testPulseEnd tp atEnd after t => Sys2Proof.Machine.execTestPulseEnd tp atEnd after t s
  | .discrepancyTimeout chain button t => Sys2Proof.Machine.execDiscrepancyTimeout chain button t s
  | .twohandTimeout chain => Sys2Proof.Machine.execTwohandTimeout chain s
  | .switchTest out lowSide hr lr => Sys2Proof.Machine.execSwitchTest out lowSide hr lr s
  | .switchTestEnd out hr lr t => Sys2Proof.Machine.execSwitchTestEnd out hr lr t s
  | .diagIntervalFault out lowSide t => Sys2Proof.Machine.execDiagIntervalFault out lowSide t s
  | .heartbeat => Sys2Proof.Machine.execHeartbeat s
  | .heartbeatTimeout t => Sys2Proof.Machine.execHeartbeatTimeout t s
  | .partStop t => Sys2Proof.Machine.execPartStop t s
  | .islandFault cause t => Sys2Proof.Machine.execIslandFault cause t s
  | .verdictWordArrive frame words t => Sys2Proof.Machine.execVerdictWordArrive frame words t s
  | .tineResultArrive slot frame header words t => Sys2Proof.Machine.execTineResultArrive slot frame header words t s
  | .verdictDeadline frame tine t => Sys2Proof.Machine.execVerdictDeadline frame tine t s
  | .zoneWordArrive interval words t => Sys2Proof.Machine.execZoneWordArrive interval words t s
  | .classifierDeadline interval t => Sys2Proof.Machine.execClassifierDeadline interval t s
  | .brakeTestDue chain => Sys2Proof.Machine.execBrakeTestDue chain s
  | .brakeWindowResult chain enc1 count => Sys2Proof.Machine.execBrakeWindowResult chain enc1 count s
  | .brakeResultTimeout chain => Sys2Proof.Machine.execBrakeResultTimeout chain s
  | .brakeTestOverdue chain t => Sys2Proof.Machine.execBrakeTestOverdue chain t s
  | .poweredTimeTick => Sys2Proof.Machine.execPoweredTimeTick s
  | .resetRelease t => Sys2Proof.Machine.execResetRelease t s
  | .resetHoldTimeout t => Sys2Proof.Machine.execResetHoldTimeout t s
  | .bcTxPeriod conn t => Sys2Proof.Machine.execBcTxPeriod conn t s
  | .bcMessageReceive conn msg t => Sys2Proof.Machine.execBcMessageReceive conn msg t s
  | .bcTimeout conn t => Sys2Proof.Machine.execBcTimeout conn t s
  | .inboundDoorbell conn slot => Sys2Proof.Machine.execInboundDoorbell conn slot s
  | .sessionTimeout => Sys2Proof.Machine.execSessionTimeout s
  | .passwordLockExpire => Sys2Proof.Machine.execPasswordLockExpire s
  | .nop e => Sys2Proof.Machine.execNop e s
  | .planSelect e fibre plan => Sys2Proof.Machine.execPlanSelect e fibre plan s
  | .flush e src stream => Sys2Proof.Machine.execFlush e src stream s
  | .captureTrigger e unit => Sys2Proof.Machine.execCaptureTrigger e unit s
  | .captureAbort e unit => Sys2Proof.Machine.execCaptureAbort e unit s
  | .captureRead e unit => Sys2Proof.Machine.execCaptureRead e unit s
  | .captureRelease e unit => Sys2Proof.Machine.execCaptureRelease e unit s
  | .captureRearm e unit => Sys2Proof.Machine.execCaptureRearm e unit s
  | .faultClear e sel => Sys2Proof.Machine.execFaultClear e sel s
  | .graft e unit => Sys2Proof.Machine.execGraft e unit s
  | .graftSelftestDone pass t => Sys2Proof.Machine.execGraftSelftestDone pass t s
  | .cloLogin e len password => Sys2Proof.Machine.execCloLogin e len password s
  | .cloStage e src bytes => Sys2Proof.Machine.execCloStage e src bytes s
  | .cloCommit e hostTime newPw len password => Sys2Proof.Machine.execCloCommit e hostTime newPw len password s
  | .cloLogout e => Sys2Proof.Machine.execCloLogout e s
  | .secKeyProgram e ar slot hash => Sys2Proof.Machine.execSecKeyProgram e ar slot hash s
  | .secRevoke e ar slot => Sys2Proof.Machine.execSecRevoke e ar slot s
  | .secConfirm e => Sys2Proof.Machine.execSecConfirm e s
  | .imgWrite e slot bytes => Sys2Proof.Machine.execImgWrite e slot bytes s
  | .recoverGo e bytes => Sys2Proof.Machine.execRecoverGo e bytes s
  | .bootDirWrite e dir => Sys2Proof.Machine.execBootDirWrite e dir s
  | .unknownCommand e code => Sys2Proof.Machine.execUnknownCommand e code s
  | .backgroundCommandDone nvmOk dmaOk t => Sys2Proof.Machine.execBackgroundCommandDone nvmOk dmaOk t s
  | .registerWrite off v t => Sys2Proof.Machine.execRegisterWrite off v t s
  | .rcRead off => Sys2Proof.Machine.execRcRead off s
  | .readLowWord off => Sys2Proof.Machine.execReadLowWord off s
  | .unsupportedRequest => Sys2Proof.Machine.execUnsupportedRequest s
  | .ringEnable h2c stream ctrl => Sys2Proof.Machine.execRingEnable h2c stream ctrl s
  | .ringDisable h2c stream ctrl t => Sys2Proof.Machine.execRingDisable h2c stream ctrl t s
  | .c2hProdWrite stream prod => Sys2Proof.Machine.execC2hProdWrite stream prod s
  | .c2hItemDeliver entry desc hits t => Sys2Proof.Machine.execC2hItemDeliver entry desc hits t s
  | .bufferCloseTimeout stream t => Sys2Proof.Machine.execBufferCloseTimeout stream t s
  | .h2cReadDone stream desc bytes ok t => Sys2Proof.Machine.execH2cReadDone stream desc bytes ok t s
  | .msixSend vector => Sys2Proof.Machine.execMsixSend vector s
  | .perst flr => Sys2Proof.Machine.execPerst flr s
  | .pcieLinkDown d3hot => Sys2Proof.Machine.execPcieLinkDown d3hot s
  | .d0Return => Sys2Proof.Machine.execD0Return s
  | .faultMessage m => Sys2Proof.Machine.execFaultMessage m s
  | .memoryEccError area uncorr t => Sys2Proof.Machine.execMemoryEccError area uncorr t s
  | .spadAvalanche chan spad t => Sys2Proof.Machine.execSpadAvalanche chan spad t s
  | .calSourceEdge line tap t => Sys2Proof.Machine.execCalSourceEdge line tap t s
  | .adcSampleWord conv v t => Sys2Proof.Machine.execAdcSampleWord conv v t s
  | .dataLinkUp speed width => Sys2Proof.Machine.execDataLinkUp speed width s
  | .reservedLinkBlock port type => Sys2Proof.Machine.execReservedLinkBlock port type s
  | .reservedMessageType port type => Sys2Proof.Machine.execReservedMessageType port type s

end Sys2Proof.Machine
end

