-- ==== Sys2Proof/Machine/Step.lean ====
section
/-! DEFINITION. One step: the command at the front of the queue runs on the machine with the queue's rest; with no
command waiting one TB edge passes (R47), or nothing when the PLL does not run. -/

namespace Sys2Proof.Machine

/-- The block without a command: the counter passes one TB edge while the core PLL runs (R47) (DESIGN CHOICE, log entry 2). -/
def State.idle (s : State) : State :=
  if s.tb.running then { s with tb := { s.tb with n := s.tb.n + 1 } } else s

/-- One step of the block (DESIGN CHOICE, log entries 2 and 4 and 57). -/
def step (s : State) : Host.Outcome State Fault Refusal :=
  match s.pending with
  | [] => .next s.idle
  | c :: rest => exec c { s with pending := rest }

/-- The state with the command that a table word spells put at the front of its queue (DESIGN CHOICE, log entry 6). -/
def State.withFetchWord (s : State) (nbits w : Nat) : State :=
  match decodeTableWord nbits w with
  | some c => { s with pending := c :: s.pending }
  | none => s

end Sys2Proof.Machine
end

