-- ==== Sys2Proof/Safety.lean ====
section
/-! DEFINITION. What the statements speak of: the parts of State, one per block of R17, and what a command may change;
outcomes that are a next state; the promises the machine keeps whatever is commanded (one-time-programmable words only
grow, byte memories stay canonical). -/

namespace Sys2Proof.Machine

/-- The parts of State: the register words, the configuration, the parts of each block of R17, the counter of free values
and the queue of waiting commands. A block that many commands touch in passing is cut finer: of BOOT what
the first item sets; of the TIN the tines with their memories and the jobs; of the QSY the queues, the X8 mailbox and the lost-before marks;
of the PLK and TRL the two ports, the lanes, the merge and the rest; of the Cloche its commissioning session, the words under way to it through X12, what its registers show and the rest; of
the HIF the PCIe link, the MSI-X vectors, the DMA rings, the command ring, the background command and the BAR windows; of the
FCL the messages in flight, the fences, the log, the graft, the pads and the class states. -/
inductive Part where
  | regs | cfg | firstItem | boot | sec | nvm | tb | tdc | tsu | pfe | esq | hse | fib | fdc | tae | tines
  | tinJobs | cle | asf | mcd | queues | mailboxItems | lostMarks | ala | hkp | portUp | portDn | lanes | merging
  | cascade | commissioning | cloche | x12 | clocheView | link | vectors | rings | mailbox | background | bars | messages | fences
  | faultLog | grafting | pads | faultState | freeIdx | pending
  deriving DecidableEq, Repr

/-- Whether a part is the same in two states. -/
def Part.same (p : Part) (s t : State) : Prop :=
  match p with
  | .regs => t.regs = s.regs ∧ t.fresh = s.fresh | .cfg => t.cfg = s.cfg | .firstItem => t.boot.firstDue = s.boot.firstDue ∧ t.boot.tFirst = s.boot.tFirst
  | .boot => t.boot.step = s.boot.step ∧ t.boot.mode = s.boot.mode ∧ t.boot.straps = s.boot.straps ∧
      t.boot.slotA = s.boot.slotA ∧ t.boot.slotB = s.boot.slotB ∧ t.boot.candidates = s.boot.candidates ∧
      t.boot.tried = s.boot.tried ∧ t.boot.running = s.boot.running ∧ t.boot.fallback = s.boot.fallback ∧
      t.boot.repro = s.boot.repro ∧ t.boot.imgGen = s.boot.imgGen ∧ t.boot.secVer = s.boot.secVer ∧
      t.boot.keySlot = s.boot.keySlot ∧ t.boot.initPlans = s.boot.initPlans ∧ t.boot.digest = s.boot.digest ∧
      t.boot.staged = s.boot.staged ∧ t.boot.recFail = s.boot.recFail ∧ t.boot.tLoaded = s.boot.tLoaded ∧
      t.boot.firstAt = s.boot.firstAt ∧ t.boot.nvmMiB = s.boot.nvmMiB ∧ t.boot.dirCopy = s.boot.dirCopy ∧
      t.boot.slotSize = s.boot.slotSize ∧ t.boot.bistBanks = s.boot.bistBanks ∧ t.boot.bistSram = s.boot.bistSram ∧
      t.boot.bistDone = s.boot.bistDone
  | .sec => t.sec = s.sec | .nvm => t.nvm = s.nvm | .tb => t.tb = s.tb | .tdc => t.tdc = s.tdc
  | .tsu => t.tsu = s.tsu | .pfe => t.pfe = s.pfe | .esq => t.esq = s.esq | .hse => t.hse = s.hse
  | .fib => t.fib = s.fib | .fdc => t.fdc = s.fdc | .tae => t.tae = s.tae
  | .tines => t.tin.tines = s.tin.tines ∧ t.tin.sram = s.tin.sram ∧ t.tin.code = s.tin.code
  | .tinJobs => t.tin.slots = s.tin.slots ∧ t.tin.grant = s.tin.grant ∧ t.tin.beganL = s.tin.beganL ∧
      t.tin.beganF = s.tin.beganF ∧ t.tin.evDef = s.tin.evDef ∧ t.tin.evOvf = s.tin.evOvf ∧
      t.tin.evFind = s.tin.evFind
  | .cle => t.cle = s.cle | .asf => t.asf = s.asf | .mcd => t.mcd = s.mcd
  | .queues => t.qsy.queues = s.qsy.queues ∧ t.qsy.depth = s.qsy.depth ∧ t.qsy.hwm = s.qsy.hwm ∧
      t.qsy.lostCt = s.qsy.lostCt ∧ t.qsy.stallCt = s.qsy.stallCt
  | .mailboxItems => t.qsy.x8host = s.qsy.x8host ∧ t.qsy.x8int = s.qsy.x8int
  | .lostMarks => t.qsy.lostBefore = s.qsy.lostBefore | .ala => t.ala = s.ala | .hkp => t.hkp = s.hkp
  | .portUp => t.plk.up = s.plk.up | .portDn => t.plk.dn = s.plk.dn | .lanes => t.plk.lanes = s.plk.lanes
  | .merging => t.trl.merge = s.trl.merge ∧ t.trl.fwd = s.trl.fwd ∧ t.trl.ctlLast = s.trl.ctlLast
  | .cascade => t.trl.addr = s.trl.addr ∧ t.trl.parts = s.trl.parts ∧ t.trl.nParts = s.trl.nParts ∧
      t.trl.nonce = s.trl.nonce ∧ t.trl.cap = s.trl.cap ∧ t.trl.sig = s.trl.sig ∧ t.trl.capUp = s.trl.capUp ∧
      t.trl.capDn = s.trl.capDn ∧ t.trl.signing = s.trl.signing ∧ t.trl.verUp = s.trl.verUp ∧
      t.trl.verDn = s.trl.verDn ∧ t.trl.asked = s.trl.asked ∧ t.trl.accepted = s.trl.accepted ∧
      t.trl.ended = s.trl.ended ∧ t.trl.enumerated = s.trl.enumerated ∧ t.trl.standalone = s.trl.standalone ∧
      t.trl.upLost = s.trl.upLost ∧ t.trl.deepen = s.trl.deepen ∧ t.trl.shared = s.trl.shared ∧
      t.trl.lidarHeld = s.trl.lidarHeld ∧ t.trl.t0 = s.trl.t0 ∧ t.trl.joinOff = s.trl.joinOff ∧
      t.trl.joining = s.trl.joining ∧ t.trl.align = s.trl.align
  | .commissioning => t.clo.block = s.clo.block ∧ t.clo.staged = s.clo.staged ∧ t.clo.session = s.clo.session ∧
      t.clo.sessionAt = s.clo.sessionAt ∧ t.clo.failures = s.clo.failures ∧ t.clo.pwLock = s.clo.pwLock
  | .cloche => t.clo.inputs = s.clo.inputs ∧ t.clo.chains = s.clo.chains ∧ t.clo.outs = s.clo.outs ∧
      t.clo.fields = s.clo.fields ∧ t.clo.zones = s.clo.zones ∧ t.clo.conns = s.clo.conns ∧
      t.clo.passed = s.clo.passed ∧ t.clo.island = s.clo.island ∧ t.clo.partStop = s.clo.partStop ∧
      t.clo.hbRun = s.clo.hbRun ∧ t.clo.cycles = s.clo.cycles ∧ t.clo.minutes = s.clo.minutes ∧
      t.clo.written = s.clo.written ∧ t.clo.tpLow = s.clo.tpLow ∧ t.clo.blocked = s.clo.blocked ∧
      t.clo.lowRun = s.clo.lowRun ∧ t.clo.bcEvent = s.clo.bcEvent ∧ t.clo.press = s.clo.press ∧ t.clo.cyc = s.clo.cyc ∧
      t.clo.hbGap = s.clo.hbGap ∧ t.clo.resumed = s.clo.resumed ∧
      t.clo.x12Bad = s.clo.x12Bad
  | .x12 => t.clo.toSafe = s.clo.toSafe | .clocheView => t.cloShown = s.cloShown
  | .link => t.hif.linkUp = s.hif.linkUp ∧ t.hif.speed = s.hif.speed ∧ t.hif.width = s.hif.width ∧
      t.hif.negotiated = s.hif.negotiated ∧ t.hif.d3hot = s.hif.d3hot ∧ t.hif.irqMode = s.hif.irqMode ∧
      t.hif.widthOk = s.hif.widthOk
  | .vectors => t.hif.vecReq = s.hif.vecReq ∧ t.hif.vecSent = s.hif.vecSent
  | .rings => t.hif.c2h = s.hif.c2h ∧ t.hif.h2c = s.hif.h2c ∧ t.hif.h2cData = s.hif.h2cData ∧
      t.hif.lostItems = s.hif.lostItems
  | .mailbox => t.hif.cmdProd = s.hif.cmdProd ∧ t.hif.cmdCons = s.hif.cmdCons ∧ t.hif.cmds = s.hif.cmds ∧
      t.hif.grafting = s.hif.grafting ∧ t.hif.orderStat = s.hif.orderStat ∧ t.hif.orderFrame = s.hif.orderFrame ∧
      t.hif.conflictL = s.hif.conflictL ∧ t.hif.conflictF = s.hif.conflictF ∧ t.hif.deferred = s.hif.deferred
  | .background => t.hif.background = s.hif.background
  | .bars => t.hif.shadow = s.hif.shadow ∧ t.hif.resets = s.hif.resets ∧ t.hif.readData = s.hif.readData ∧
      t.hif.bc = s.hif.bc
  | .messages => t.fcl.inFlight = s.fcl.inFlight
  | .fences => t.fcl.fenced = s.fcl.fenced ∧ t.fcl.cause = s.fcl.cause ∧ t.fcl.causeCond = s.fcl.causeCond ∧
      t.fcl.shown = s.fcl.shown ∧ t.fcl.clears = s.fcl.clears
  | .faultLog => t.fcl.log = s.fcl.log ∧ t.fcl.logTotal = s.fcl.logTotal
  | .grafting => t.fcl.graft = s.fcl.graft ∧ t.fcl.graftUnit = s.fcl.graftUnit ∧ t.fcl.graftResult = s.fcl.graftResult
  | .pads => t.fcl.padP = s.fcl.padP ∧ t.fcl.padN = s.fcl.padN
  | .faultState => t.fcl.fatal = s.fcl.fatal ∧ t.fcl.provisional = s.fcl.provisional ∧
      t.fcl.clearAt = s.fcl.clearAt ∧ t.fcl.provEnd = s.fcl.provEnd ∧ t.fcl.fatalCause = s.fcl.fatalCause ∧
      t.fcl.fatalStamp = s.fcl.fatalStamp ∧ t.fcl.fatalCond = s.fcl.fatalCond ∧ t.fcl.contained = s.fcl.contained ∧
      t.fcl.contCond = s.fcl.contCond
  | .freeIdx => t.freeIdx = s.freeIdx | .pending => t.pending = s.pending

/-- Going from `s` to `t` changes at most the parts listed. -/
def OnlyChanges (l : List Part) (s t : State) : Prop := ∀ p : Part, p ∉ l → p.same s t

/-- The command completes: it answers a next state, and that state is as `P` says. -/
def Completes (c : Instr) (s : State) (P : State → Prop) : Prop := ∃ t, exec c s = .next t ∧ P t

/-- Whatever next state the command answers changes at most the parts listed. -/
def Frame (l : List Part) (c : Instr) (s : State) : Prop := ∀ t, exec c s = .next t → OnlyChanges l s t

/-- The key of the next entry of the command ring (R481). -/
def nextKey (s : State) : Nat := 64 * s.hif.resets + s.hif.cmdCons

/-- The next entry of the command ring, taken from `s`, is done in `t` with status `st` (R482). -/
def Answered (s : State) (st : Status) (t : State) : Prop :=
  ∃ r, Tab.look t.hif.cmds (nextKey s) = some r ∧ r.done = true ∧ r.status = st.code

/-- The mailbox takes the entry at once: no graft holds it, and it is for this part alone and names no frame (R483, R507). -/
def PlainEntry (e : Entry) (s : State) : Prop := s.hif.grafting = none ∧ e.scope = false ∧ e.frame = none

/-- A tine executes instruction `i`: it runs a job with steps left, its program memory holds `i` at its pc, and the
instruction's condition holds (R243, R252, R255). -/
def TineReady (i : Instr) (hd : TineHd) (s : State) : Prop :=
  tineAt s hd.tine i = true ∧ condHolds hd.cond (tineOf s hd.tine) = true

/-- The tines of the machine have their registers (R244): sixteen D, four accumulators, eight of each address register,
two DMA channels. -/
def TinesWhole (s : State) : Prop :=
  ∀ e ∈ s.tin.tines, e.2.d.length = 16 ∧ e.2.acc.length = 4 ∧ e.2.a.length = 8 ∧ e.2.b.length = 8 ∧ e.2.l.length = 8 ∧
    e.2.m.length = 8 ∧ e.2.dma.length = 2

/-- A programmed hash slot keeps its hash (R446: an OTP word is written once). -/
def SlotsGrow (a b : List (List Byte)) : Prop :=
  a.length = b.length ∧ ∀ k, (a.getD k []).any (· ≠ 0) = true → b.getD k [] = a.getD k []

/-- Going from `s` to `t` never undoes a one-time-programmable bit (R446): hashes stay, revoked slots stay revoked, the
rollback counter does not fall. -/
def OtpGrows (s t : State) : Prop :=
  SlotsGrow s.sec.ks t.sec.ks ∧ SlotsGrow s.sec.ar t.sec.ar ∧
  (∀ k, s.sec.ksRevoked.getLsbD k = true → t.sec.ksRevoked.getLsbD k = true) ∧
  (∀ k, s.sec.arRevoked.getLsbD k = true → t.sec.arRevoked.getLsbD k = true) ∧
  s.sec.rollback ≤ t.sec.rollback

/-- A key being programmed goes to an empty slot (R447). -/
def KeyJobFits (s : State) : Prop :=
  ∀ o ar slot hash, s.hif.background = some (o, .keyProgram ar slot hash) → emptySlot ((keySlots s ar).getD slot []) = true

/-- Every byte memory of the block is in its canonical form: the tine SRAM region and every tine's data memory. -/
def MemoriesCanonical (s : State) : Prop :=
  Memory.wf s.tin.sram = true ∧ ∀ e ∈ s.tin.tines, Memory.wf e.2.mem = true

end Sys2Proof.Machine
end

