-- ==== Sys2Proof/Certificates/Slice0/Obligations.lean ====
section
/-! DEFINITION. The statements about the block, one per group of commands and one per rule that the whole block keeps. -/

open Sys2Proof Sys2Proof.Machine

/-- POR_N, the directory, staging, BIST, the Cloche self-test, calibration, rails and the first frame each do their start-up
step (R431, R450, R451, R453, R66, R105, R389). -/
def Obligations.StartUpCommandsComplete : Prop :=
  (∀ s, Completes .porNAssert s fun t =>
    t.regs = [] ∧ t.cfg.recs = [] ∧ t.boot = {} ∧ t.sec.ks = s.sec.ks ∧ t.nvm.safety = s.nvm.safety ∧ t.pending = s.pending) ∧
  (∀ s x, strapFault s x = false → Completes (.porNRelease x) s fun t =>
    t.boot.step = 3 ∧ t.boot.straps = x ∧ t.boot.mode = x.bootMode.toNat ∧ t.regs = []) ∧
  (∀ s r, s.boot.step = 3 → s.boot.mode ≠ 2 → r.present = true → 32 ≤ r.sizeMiB → r.sizeMiB ≤ 256 →
    dirHolds r.dir0 (r.sizeMiB * 1048576) = true → r.katOk = true → headerCause s r.hdrA (leAt r.dir0 12 4) = 0 →
    Completes (.nvmHeadersRead r) s fun t =>
      t.boot.step = 4 ∧ t.boot.dirCopy = 1 ∧ t.nvm.dir0 = r.dir0 ∧ t.nvm.safety = r.safety ∧ t.sec.katOk = true ∧ 0 ∈ t.boot.candidates) ∧
  (∀ s bytes ecc ms k l, s.boot.step = 4 → s.boot.candidates = k :: l →
    Completes (.imageStageDone bytes ecc ms) s fun t =>
      match (imageVerdict s bytes s.boot.slotSize ecc).2 with
      | .ok recs => t.boot.step = 6 ∧ t.boot.running = k + 1 ∧ t.cfg.recs = recs ∧ t.tb.enabled = true
      | .fail _ _ => t.boot.candidates = l ∧ (l ≠ [] → t.boot.step = 4)) ∧
  (∀ s (f : BitVec 8) t0, s.boot.step = 6 →
    mtNeedMax s ≤ (8 - ((List.range 8).filter fun b => f.getLsbD b).length) * 32 * mib →
    Completes (.bistDone true f t0) s fun t =>
      t.boot.bistDone = true ∧ t.boot.bistBanks = f ∧ t.boot.step = if s.clo.passed then 8 else 7) ∧
  (∀ s r t0, s.boot.step = 6 ∨ s.boot.step = 7 → s.clo.passed = false → (blockInForce (advance t0 s)).isSome = true →
    selfTestOk (cloStart (advance t0 s)) r = true → Completes (.clocheSelftestDone r t0) s fun t =>
      t.clo.passed = true ∧ t.boot.step = if s.boot.bistDone then 8 else s.boot.step) ∧
  (∀ s t0, s.boot.step = 8 → (hasLidar s = true → s.pfe.mapValid = true) → (∀ k < 52, (calOf s k).phase = .idle) → Completes (.startupCalDone t0) s fun t =>
    t.tdc.calDone = true ∧ t.tdc.calEnd = t0 ∧ 9 ≤ t.boot.step) ∧
  (∀ s (rail : Fin 4) time t0, s.boot.step = 10 → railMeasuring s = some rail.val →
    Completes (.railMeasureDone rail time t0) s fun t => (railOf t rail).done = true) ∧
  (∀ s t0 ms p, s.boot.step = 11 → hasLidar s = true → firstPend s t0 = some p →
    Completes (.firstFrameStart false t0 ms) s fun t => t.boot.tFirst = ms ∧ t.boot.step = 12)

/-- The core PLL's lock, its losses and the warm criterion set the TBS conditions (R42 to R47, R453). -/
def Obligations.TimeBaseCommandsComplete : Prop :=
  (∀ s, s.tb.enabled = true → s.tb.pllLock = false → Completes .tbPllLocked s fun t =>
    t.tb.pllLock = true ∧ t.tb.running = true ∧ t.tb.everLock = true ∧ t.tb.holdover = false ∧ t.tb.n = s.tb.n) ∧
  (∀ s, s.tb.enabled = true → s.tb.everLock = false → s.boot.step ≠ 15 → Completes .tbPllLockTimeout s fun t =>
    t.boot.step = 15 ∧ t.boot.running = 0) ∧
  (∀ s t0, s.tb.everLock = true → s.tb.pllLock = true → Completes (.tbsPllLockLost t0) s fun t =>
    t.tb.pllLock = false ∧ t.tb.holdover = true ∧ t.esq.stopped = true ∧ t.esq.col.active = false ∧ t.fib.active = false) ∧
  (∀ s t0, s.tb.everLock = true → s.tb.refOk = true → Completes (.tbsRefLost t0) s fun t =>
    t.tb.refOk = false ∧ t.tb.pllLock = false ∧ t.tb.holdover = true ∧ t.esq.stopped = true ∧ t.esq.col.active = false) ∧
  (∀ s, s.tb.started = true → s.tb.warm = false → warmRounds s ≤ s.tb.held → Completes .tbsWarm s fun t => t.tb.warm = true)

/-- The arbiter's epoch, the housekeeping round and the stop take their course (R329, R335, R336, R344, R345). -/
def Obligations.ArbiterAndHousekeepingCommandsComplete : Prop :=
  (∀ s r t0, s.fcl.provisional = false → 6 ≤ s.boot.step → s.boot.step ≠ 15 → s.hkp.hardCut = false → s.hkp.orderly = false →
    now (advance t0 s) % epochTicks < 64 →
    Completes (.epochStart r t0) s fun t => t.ala.computing = some r ∧ t.ala.report = heldOut s r ∧
      ∀ g, s.ala.ready = some g → t.ala.grant = g.record ∧ t.ala.epoch = epochNow (advance t0 s)) ∧
  (∀ s t0 r, s.ala.computing = some r → Completes (.grantComputed t0) s fun t =>
    t.ala.computing = none ∧ t.ala.ready.isSome = true) ∧
  (∀ s r t0, s.tb.running = true → now (advance t0 s) % roundTicks / 64 = decisionTicks / 64 →
    Completes (.housekeepingRound r t0) s fun t => t.hkp.rounds = s.hkp.rounds + 1) ∧
  (∀ s (m : Fin 12) t0, m.val ≠ 8 → s.hkp.hardCut = false → 6 ≤ s.boot.step → s.boot.step ≠ 15 → Completes (.supplyCollapse m t0) s fun t =>
    t.hkp.hardCut = true ∧ t.hkp.cause = 4 ∧ t.hkp.monitor = m.val ∧ t.esq.stopped = true ∧ t.esq.col.active = false) ∧
  (∀ s t0, s.hkp.orderly = true → s.hkp.stopAt + stopMaxTicks ≤ t0 → Completes (.stopDeadline t0) s fun t =>
    t.esq.frame.active = false ∧ t.esq.col.active = false ∧ t.esq.shots = [] ∧ t.fib.active = false) ∧
  (∀ s t0, s.hkp.orderly = true → s.hkp.drained = false → Completes (.queueDrainDone t0) s fun t =>
    t.hkp.drained = true ∧ t.ala.epoch = epochNow (advance t0 s))

/-- Index edges, missing indices, frame starts and column boundaries move the emission sequence on (R24, R109, R110, R113). -/
def Obligations.SequencerCommandsComplete : Prop :=
  (∀ s t0, s.esq.frame.active = true → s.esq.col.active = true → s.esq.col.k + 1 < planK s →
    colStartOf s (s.esq.col.k + 1) ≤ t0 → acqStopped s = false → s.qsy.x8host = [] →
    Completes (.columnBoundary t0) s fun t => t.esq.frame.active = true ∧ t.esq.col.active = true ∧
      t.esq.col.k = s.esq.col.k + 1 ∧ t.esq.col.start = colStartOf s (s.esq.col.k + 1) ∧ t.esq.col.slotNext = 0) ∧
  (∀ s t0, hasLidar s = true → s.esq.plan.isSome = true → (∀ sp, s.esq.prevIdx = some sp → judgeEdge s sp t0 = 0) →
    Completes (.indexEdge t0) s fun t => t.esq.prevIdx = some t0 ∧ t.esq.prevReal = true ∧ t.esq.misses = 0) ∧
  (∀ s t0 sp, hasLidar s = true → s.esq.prevIdx = some sp → judgeEdge s sp t0 = 2 →
    Completes (.esqIndexMissing t0) s fun t => t.esq.prevIdx = some (predictedStamp s sp) ∧ t.esq.prevReal = false ∧
      t.esq.misses = s.esq.misses + 1) ∧
  (∀ s t0 p l, s.esq.pend = p :: l → s.boot.step = 12 → hasLidar s = true → p.at_ ≤ t0 → acqStopped s = false →
    s.qsy.x8host = [] → s.esq.staged = [] → Completes (.frameStart t0) s fun t =>
      t.esq.frame.active = true ∧ t.esq.frame.start = p.at_ ∧ t.esq.ctx.frame = nextNum s.esq.ctx ∧
      t.esq.col.active = true ∧ t.esq.col.k = 0 ∧ t.esq.col.start = p.at_)

/-- Slots are decided, shots fire, SPADs are blanked, die and re-arm, and edges are stamped (R50, R51, R56, R81 to R84, R101,
R117, R123). -/
def Obligations.ShotAndPhotonCommandsComplete : Prop :=
  (∀ s (slot : Fin 32) t0, s.esq.col.active = true → s.esq.col.slotNext = slot.val → slot.val < 2 ^ planSlotLog s →
    slotDecisionTick s slot ≤ t0 → t0 < slotDecisionTick s slot + 64 → s.esq.stopped = false → s.esq.ledBad = false → Completes (.slotDecision slot t0) s fun t =>
      t.esq.col.slotNext = slot.val + 1) ∧
  (∀ s (bank : Fin 16) t0, (∃ f ∈ s.esq.shots, f.bank = bank.val ∧ f.tick = t0 ∧ f.fired = false) → s.esq.ledBad = false →
    s.esq.stopped = false → Completes (.shotFire bank t0) s fun t => t.esq.shots = markFired bank t0 s.esq.shots ∧
      Tab.look t.esq.fires bank = some (t0, t0 + 64 * fireWidth s)) ∧
  (∀ s (bank : Fin 16) t0 f, lastShot s bank = some f → f.ref = false → inBlank s f t0 = true →
    Completes (.blankStart bank t0) s fun t => t.pfe.blanked.getLsbD bank = true) ∧
  (∀ s (bank : Fin 16) t0, s.pfe.blanked.getLsbD bank = true → (∀ f, lastShot s bank = some f → inBlank s f t0 = false) →
    Completes (.blankEnd bank t0) s fun t =>
    t.pfe.blanked.getLsbD bank = false ∧ ∀ k < 512, Tab.look t.pfe.spads (512 * bank + k) = none) ∧
  (∀ s (chan : Fin 512) (spad : Fin 16) t0, Completes (.spadRearm chan spad t0) s fun t =>
    Tab.look t.pfe.spads (16 * chan + spad) = none) ∧
  (∀ s (chan : Fin 512) (spad : Fin 16) t0, spadArmed s chan spad = true → Completes (.spadAvalanche chan spad t0) s fun t =>
    Tab.look t.pfe.spads (16 * chan + spad) = some (.dead t0)) ∧
  (∀ s (chan : Fin 512) (spad : Fin 16) t0, spadArmed s chan spad = true → bitB (amaskOf s chan) spad = false →
    max 1 (Tab.lookD s.pfe.depth chan 1) ≤ 1 + ((Tab.lookD s.pfe.aval chan []).filter fun a =>
      decide (t0 < a + if s.esq.plan.isNone then 64 else planWindow s)).length →
    Completes (.spadAvalanche chan spad t0) s fun t =>
      Tab.look t.pfe.edges chan = some (Tab.lookD s.pfe.edges chan [] ++ [t0]) ∧ Tab.look t.pfe.aval chan = none) ∧
  (∀ s (chan : Fin 512) (tap : Fin 97) edge, chanLive s chan = true →
    (∀ e, (Tab.lookD s.pfe.edges chan []).head? = some e → e ≤ edge) → Tab.lookD s.pfe.edges chan [] ≠ [] →
    (∀ l, Tab.look s.tdc.lastEdge chan = some l → l + deadTicks ≤ stampOf s chan edge tap) →
    Completes (.coincidenceEdge chan tap edge) s fun t =>
      Tab.look t.tdc.lastEdge chan = some (stampOf s chan edge tap) ∧
      Tab.look t.pfe.edges chan = some ((Tab.lookD s.pfe.edges chan []).drop 1)) ∧
  (∀ s (line : Fin 532) (tap : Fin 97) t0, injected (advance t0 s) line t0 = true →
    (∀ l, Tab.look s.tdc.lastEdge line = some l → l + deadTicks ≤ stampOf s line t0 tap) →
    Completes (.calSourceEdge line tap t0) s fun t => Tab.look t.tdc.lastEdge line = some (stampOf s line t0 tap))

/-- The histogram engine takes stamps, keeps its confidences and locks, delivers strip columns and verdicts, and exchanges
data with a deepen partner (R89, R122, R124, R138, R141, R155, R156, R159). -/
def Obligations.HistogramCommandsComplete : Prop :=
  (∀ s (chan : Fin 512) ok w r, (queueOf s 0 chan).words = w :: r → Completes (.stampAccumulate chan ok) s fun t =>
    (queueOf t 0 chan).words = r ∧ (queueOf t 0 chan).lost = false) ∧
  (∀ s (bank : Fin 16) t0 (i : Fin 32) l, s.esq.col.active = true →
    isFenced s (Unit.strip ((32 * bank.val + i) / 16)) = false → (bufOf s (32 * bank + i)).lock = some l →
    Completes (.confidenceUpdate bank t0) s fun t =>
      (bufOf t (32 * bank + i)).lock = some l ∧ (bufOf t (32 * bank + i)).locked = (bufOf s (32 * bank + i)).locked ∧
      (bufOf t (32 * bank + i)).conf = confOf s ((bufOf s (32 * bank + i)).locked.filterMap
        (frontScore s (bufOf s (32 * bank + i)) (frontPhi (advance t0 s) (32 * bank + i) t0))) (bufOf s (32 * bank + i)).n) ∧
  (∀ s (chan : Fin 512) t0 l ws, s.hse.role = .follower → isFenced s (Unit.strip (chan / 16)) = false → s.esq.col.deferFine = false →
    Tab.look s.hse.winRecv chan = some (l, ws) → l + 640 * rdf s Fld.HSE_DEEPEN_win_lat ≤ t0 →
    Completes (.followerLock chan t0) s fun t => (bufOf t chan).lock = some (l + 640 * rdf s Fld.HSE_DEEPEN_win_lat) ∧ (bufOf t chan).locked = ws.take 4) ∧
  (∀ s (strip : Fin 32) ecc t0, s.hse.info.exists_ = true → s.hse.info.waiting.contains strip.val = true →
    s.hse.role ≠ .leader → ecc ≠ .uncorrectable → Completes (.stripColumnDone strip ecc t0) s fun t =>
      t.hse.info.waiting = s.hse.info.waiting.filter fun j => !decide (j = strip.val)) ∧
  (∀ s t0, s.hse.role = .leader → s.hse.info.exists_ = true → s.hse.mergeMiss = false → s.hse.follower.length < 512 →
    s.hse.info.endAt + 64000 * rdf s Fld.HSE_DEEPEN_merge_lat ≤ t0 → Completes (.mergeDeadline t0) s fun t => t.hse.mergeMiss = true) ∧
  (∀ s t0 c, s.hse.verdictDue = some c → s.hse.info.waiting = [] → Completes (.fieldVerdict t0) s fun t =>
    t.hse.verdictDue = none ∧ t.hse.inside = [] ∧ t.hse.crc = []) ∧
  (∀ s (chan : Fin 512) lock ws, s.hse.role = .follower → Completes (.deepWin chan lock ws) s fun t =>
    Tab.look t.hse.winRecv chan = some (lock, ws)) ∧
  (∀ s (chan : Fin 512) h, s.hse.role = .leader → s.hse.mergeMiss = false → s.hse.info.exists_ = true →
    Completes (.deepHist chan h) s fun t => Tab.look t.hse.follower chan = some h) ∧
  (∀ s col cs ns q, s.hse.role ≠ .single → Completes (.deepCounts col cs ns q) s fun t =>
    t.pfe.partner = some (col, cs, ns, q)) ∧
  (∀ s l, s.hse.role ≠ .single → Completes (.deepFire l) s fun t =>
    t.esq.partnerShots = s.esq.partnerShots ++ l.map fun p => ⟨p.1.val, p.2.1, p.2.2, false, true⟩)

/-- Calibration passes end, starve, are requested, and the aux lines rotate (R57, R65, R66, R68). -/
def Obligations.CalibrationCommandsComplete : Prop :=
  (∀ s (strip : Fin 32) t0, (calOf s strip).full = true → (calOf s strip).phase = .passB →
    Completes (.calPassEnd strip t0) s fun t =>
      (calOf t strip).phase = .passC ∧ (calOf t strip).passB = (calOf s strip).counts ∧ (calOf t strip).began = t0) ∧
  (∀ s (strip : Fin 32) t0, (calOf s strip).phase ≠ .idle → (calOf s strip).kind ≠ .startup →
    rdf s Fld.TDC_CAL_TIMING_pass_timeout ≠ 0 →
    (calOf s strip).began + rdf s Fld.TDC_CAL_TIMING_pass_timeout * 6400000000 ≤ t0 →
    Completes (.tdcCalStarved strip t0) s fun t =>
      (calOf t strip).phase = .idle ∧ (calOf t strip).last = 4 ∧ (calOf t strip).starvedAt = some t0) ∧
  (∀ s (mask : Word32) t0 (k : Fin 32), 6 ≤ s.boot.step → mask.getLsbD k = true → (calOf s k).phase = .idle →
    Completes (.tdcCalReq mask t0) s fun t => (rd t Reg.TDC_CAL_REQ).getLsbD k = true) ∧
  (∀ s att t0 r, s.tsu.stopped = false → s.tsu.overlap = none → s.tdc.calDone = true →
    auxCycle 4 s (lineOf s (512 + s.tsu.spare)) att = some r → Completes (.auxRotationStep att t0) s fun t =>
      (∀ k, Tab.look t.tdc.lastPass k = if k = 512 + s.tsu.spare then some r.2 else Tab.look s.tdc.lastPass k) ∧
      (∀ l, r.1 = some l → t.tsu.overlap = some ⟨s.tsu.spare, s.tsu.nextChan, true⟩ ∧
          Tab.look t.tdc.lines (512 + s.tsu.spare) = some l) ∧
      (r.1 = none → t.tsu.overlap = none ∧
          Tab.lookD t.tsu.auxFails s.tsu.spare 0 = Tab.lookD s.tsu.auxFails s.tsu.spare 0 + 1)) ∧
  (∀ s t0 o, s.tsu.overlap = some o → o.agree = true → Completes (.auxOverlapEnd t0) s fun t =>
    t.tsu.overlap = none ∧ t.tsu.lineOf = s.tsu.lineOf.set o.chan o.line ∧ t.tsu.spare = s.tsu.lineOf.getD o.chan 0 ∧
    t.tsu.nextChan = (o.chan + 1) % 19)

/-- The timestamp inputs: an accepted edge, a window that opens and closes, an estimator gate that ends (R51, R70 to R73). -/
def Obligations.TimestampInputCommandsComplete : Prop :=
  (∀ s (chan : Fin 16) rising (tap : Fin 97) tap2 edge, tsiOn s chan = true →
    (if rising then rdf s (Fld.TSU_CFG_edge chan) = 1 ∨ rdf s (Fld.TSU_CFG_edge chan) = 3
      else rdf s (Fld.TSU_CFG_edge chan) = 2 ∨ rdf s (Fld.TSU_CFG_edge chan) = 3) →
    (∀ l, (tsiOf s chan).lastAcc = some l →
      deadTicks ≤ stampOf s (512 + s.tsu.lineOf.getD chan 0) edge tap - l ∧
      max 2 (4 * rdf s (Fld.TSU_CFG_holdoff chan)) * 64 ≤ stampOf s (512 + s.tsu.lineOf.getD chan 0) edge tap - l) →
    Completes (.tsiEdge chan rising tap tap2 edge) s fun t =>
      (tsiOf t chan).lastAcc = some (stampOf s (512 + s.tsu.lineOf.getD chan 0) edge tap)) ∧
  (∀ s (chan : Fin 16) t0 w, (tsiOf s chan).window = some w →
    w.start + 64 * (rd s (Reg.TSU_WIN_OPEN chan)).toNat ≤ t0 → Completes (.windowOpen chan t0) s fun t =>
      (tsiOf t chan).window = some { w with isOpen := true }) ∧
  (∀ s (chan : Fin 16) t0 w, (tsiOf s chan).window = some w → w.isOpen = true →
    w.start + 64 * (rd s (Reg.TSU_WIN_CLOSE chan)).toNat ≤ t0 → Completes (.windowClose chan t0) s fun t =>
      (tsiOf t chan).window = none ∧ (tsiOf t chan).winCount = min w.count 65535 ∧
      (tsiOf t chan).winHit = w.first.isSome ∧ (tsiOf t chan).winRest = false) ∧
  (∀ s (chan : Fin 16) gate, tsiOn s chan = true → gateTicks s chan ≠ 0 → Completes (.estimatorGateEnd chan gate) s fun t =>
    (tsiOf t chan).estGate = gate ∧ (tsiOf t chan).estN = (Tab.lookD (tsiOf s chan).est gate {}).n ∧
    (tsiOf t chan).estValid = decide (3 ≤ (Tab.lookD (tsiOf s chan).est gate {}).n))

/-- Sweeps begin, triggers are taken or missed, gates open and close, samples arrive (R171, R177, R180 to R182, R204). -/
def Obligations.SweepCommandsComplete : Prop :=
  (∀ s t0 b p, nextBoundary s t0 = some (b, p) → s.boot.step = 12 → hasFibre s = true → s.fib.plan.isSome = true → b ≤ t0 →
    acqStopped s = false → Completes (.sweepBoundary t0) s fun t =>
      t.fib.active = true ∧ t.fib.start = b ∧ t.fib.nextB = none ∧ t.fib.gates = 0) ∧
  (∀ s (tap : Fin 97) tap2 edge, fp s 0 4 1 ≠ 0 → hasFibre s = true → s.fib.active = false →
    svcDead s 16 (stampOf s (512 + s.tsu.lineOf.getD 16 0) edge tap) = false → Completes (.adcTrigEdge tap tap2 edge) s fun t => t.fib.nextB =
      some (evenEdge s (stampOf s (512 + s.tsu.lineOf.getD 16 0) edge tap + 64 * fp s 0x10 0 16), false)) ∧
  (∀ s t0, fp s 0 4 1 = 1 → s.fib.active = true → s.fib.nextB = none → s.fib.start + sweepTicks s + trigTol s ≤ t0 →
    Completes (.fibTrigMissing t0) s fun t => t.fib.misses = s.fib.misses + 1 ∧
      t.fib.nextB = some (evenEdge s (s.fib.start + sweepTicks s), true)) ∧
  (∀ s (gate : Fin 8) t0 b, gateOpening s gate = some b → b ≤ t0 → t0 < b + gateWidth s gate →
    Completes (.aomgGateOpen gate t0) s fun t => t.fib.gates.getLsbD gate = true ∧
      Tab.look t.fib.gateEnds gate = some (b + gateWidth s gate)) ∧
  (∀ s (gate : Fin 8) t0 e, Tab.look s.fib.gateEnds gate = some e → e ≤ t0 → Completes (.aomgGateClose gate t0) s fun t =>
    t.fib.gates.getLsbD gate = false ∧ Tab.look t.fib.gateEnds gate = none) ∧
  (∀ s (conv : Fin 8) v t0, convRuns s conv = true → (sampleAt s conv t0).isSome = true → graftConv s conv = false →
    s.hkp.hardCut = false → Completes (.adcSampleWord conv v t0) s fun t =>
    (ainOf t (conv / 2)).peak = max (ainOf s (conv / 2)).peak v.toInt.natAbs) ∧
  (∀ s (conv : Fin 8) att first vals, fibrePartner s = true → Completes (.samples conv att first vals) s fun t =>
    Tab.look t.fib.partnerAtt conv = some att.toNat)

/-- Fibre processing: slots, converter calibration, zone intervals, the fibre's end, the survey and the Raman profile (R172 to
R176, R185 to R199). -/
def Obligations.FibreProcessingCommandsComplete : Prop :=
  (∀ s (tone : Fin 8) sweep samples lost x, Tab.look s.fib.infos (liftFrame s.fib.ctx sweep.toNat) = some x →
    tone.val < fpOf s x.plan 0 8 4 → bitB x.done tone = false → bitB (toneMask s) tone = true →
    slotOver s x tone ≤ now s → Completes (.slotProcess tone sweep samples lost) s fun t => t.fdc.ctx = x.ctx ∧
      ∀ y, Tab.look t.fib.infos (liftFrame s.fib.ctx sweep.toNat) = some y → bitB y.done tone = true) ∧
  (∀ s (pair : Fin 2) samples t0, s.fib.active = true → blockLen s ≤ (pairOf s pair).blk.length → (pairOf s pair).posted = none →
    (pairOf s pair).phase = .passB → Completes (.estimationBlockDone pair samples t0) s fun t =>
      (pairOf t pair).phase = .passC ∧ (pairOf t pair).bOk = withinTol s (estBlock (pairOf s pair).blk) ∧ (pairOf t pair).blk = []) ∧
  (∀ s (pair : Fin 2) t0, s.fib.active = true → (pairOf s pair).phase = .idle → (pairOf s pair).posted = none →
    (∀ b, (pairOf s pair).start = some b → b + rdf s Fld.FIB_CAL_CFG_cal_interval * 64000000000 ≤ t0) →
    (∀ c ∈ convsOf pair, isFenced s (Unit.adc c) = false) → Completes (.fibCalCycleStart pair t0) s fun t =>
      (pairOf t pair).phase = .passA ∧ (pairOf t pair).attempt = 0 ∧ (pairOf t pair).start = some t0) ∧
  (∀ s k a rest, s.fib.zones = (k, a) :: rest → zoneSlots s a.plan ≠ 0 → zoneSlots s a.plan ≤ a.slots →
    Completes .zoneIntervalEnd s fun t =>
      t.fib.zones = rest ∧ t.fib.zoneWords = (List.range (nZones s)).map (zoneWord s a)) ∧
  (∀ s r, fibConst s = some r → rf r 0x18 0 8 ≠ 0 → s.fib.evalDue = true → Completes .endEvaluation s fun t =>
    t.fib.evalDue = false ∧
    t.fib.endPos = some ((lastBlock s (rf r 0x18 0 8)).elim 0 fun b => min (16 * b + 15) (fp s 4 0 16 - 1))) ∧
  (∀ s, fp s 0 5 1 = 1 → (∃ n < 8, bitB (allowedTones s) n = true) →
    (∀ m < 8, ∀ n < 8, bitB (allowedTones s) m = true → bitB (allowedTones s) n = true →
      (Tab.look s.fib.survey (8 * m + n)).isSome = true) → Completes .fibSurveyDone s fun t =>
      t.fib.survey = [] ∧ evtPending t 173 = true) ∧
  (∀ s b defer rest, s.fib.dts.blocks = (b, defer) :: rest → s.fib.dts.due = false → Completes .dtsBlockDone s fun t =>
    t.fib.dts.blocks = rest ∧ t.fib.dts.counted = s.fib.dts.counted + 1 ∧
    (t.fib.dts.added = if defer then s.fib.dts.added else s.fib.dts.added + 1) ∧
    t.fib.dts.due = decide (fp s 0x1C 16 16 ≤ s.fib.dts.counted + 1)) ∧
  (∀ s r, fibConst s = some r → s.fib.dts.due = true → Completes .fibDtsProfile s fun t =>
    t.fib.dts.due = false ∧ t.fib.dts.added = 0 ∧ t.fib.dts.counted = 0 ∧ evtPending t 170 = true)

/-- The down-converters take their inputs, and the capture units take items, close frames, evaluate the references and finish
reading (R208 to R214, R216 to R240). -/
def Obligations.FilterAndCaptureCommandsComplete : Prop :=
  (∀ s (chan : Fin 16) given mark vals step rest r, fdcRec s chan = some r → (fdcOf s chan).inq = (vals, step) :: rest →
    Completes (.fdcInput chan given mark) s fun t =>
      fdcOf t chan = (fdcTake r vals (step && decide (rf r 0 4 1 = 1)) { fdcOf s chan with inq := rest }).1) ∧
  (∀ s, Completes .fdcSweepItem s fun t => t.fdc.sat = false ∧
    ∀ c < 16, (fdcRec s c).isSome = true → (fdcOf t c).rows = []) ∧
  (∀ s (unit : Fin 4) (src : Fin 8) item r, unitRec s unit = some r → src.val < rf r 0 8 4 →
    tagSrc item.tag = (unitSrc r src).1 → tagStream item.tag = (unitSrc r src).2 → ((unitSrc r src).1 ≠ Src.tdc ∨ item.words = [] ∨ bitB (leAt r.body (0x1C + 8 * src) 4) (wordChan (item.words.headD 0) / 16) = true) →
    (src.val ≠ 0 ∨ (unitOf s unit).pace ≠ none) → precedes (tagFrame item.tag) (unitOf s unit).nextF = false →
    Completes (.captureItemArrive unit src item) s fun t =>
      (unitOf t unit).items = (unitOf s unit).items ++ [(src.val, item)] ∧ (unitOf t unit).nextF = (unitOf s unit).nextF) ∧
  (∀ s (unit : Fin 4) t0 r p, unitRec s unit = some r → (unitOf s unit).pace = some p →
    precedes p (((unitOf s unit).nextF + rf r 0 24 4) % 2 ^ 24) = false → Completes (.captureFrameClose unit t0) s fun t =>
      (unitOf t unit).nextF = ((unitOf s unit).nextF + 1) % 2 ^ 24) ∧
  (∀ s t0 d, s.tae.refDue = some d → Completes (.refEvaluation t0) s fun t =>
    t.tae.refDue = none ∧ t.tae.refViol = (((List.range 512).map (refEval s d)).filter (·.viol)).length) ∧
  (∀ s (unit : Fin 4) t0 r, unitRec s unit = some r → (unitOf s unit).state = 4 → Completes (.captureReadDone unit t0) s fun t =>
    (unitOf t unit).state = 3 ∧ (unitOf t unit).readBy = none)

/-- Jobs of the tine cluster: an input arrives, a job closes, is dispatched, ends at its step limit; a DMA transfer ends; an
ECC error is reported (R256, R258 to R265). -/
def Obligations.TineJobCommandsComplete : Prop :=
  (∀ s (slot : Fin 16) (input : Fin 4) item r, slotRec s slot = some r → input.val < rf r 0 8 3 →
    tagSrc item.tag = (slotSrc r input).1 → tagStream item.tag = (slotSrc r input).2 →
    slotBlocked s slot = false → (slotUnit r = 1 ∨ precedes (tagFrame item.tag) (slotOf s slot).nextF = false) →
    Completes (.tineItemArrive slot input item) s fun t =>
      (slotOf t slot).items = (slotOf s slot).items ++ [(input.val, item)] ∧ (slotOf t slot).nextF = (slotOf s slot).nextF) ∧
  (∀ s (slot : Fin 16) (input : Fin 4) item r, slotRec s slot = some r → input.val < rf r 0 8 3 →
    tagSrc item.tag = (slotSrc r input).1 → tagStream item.tag = (slotSrc r input).2 → slotBlocked s slot = true →
    Completes (.tineItemArrive slot input item) s fun t =>
      (slotOf t slot).held = (slotOf s slot).held ++ [(input.val, item)] ∧ (slotOf t slot).items = (slotOf s slot).items) ∧
  (∀ s (slot : Fin 16) r p, slotRec s slot = some r → slotUnit r = 0 →
    slotBlocked s slot = false → (slotOf s slot).pace = some p →
    precedes p (((slotOf s slot).nextF % 2 ^ 24 + rf r 0 12 4) % 2 ^ 24) = false → Completes (.tineJobClose slot) s fun t =>
      (slotOf t slot).nextF = ((slotOf s slot).nextF + 1) % 2 ^ 24) ∧
  (∀ s (tine : Fin 16) k i l r j, (∀ m q, slotRec s m = some q → noTine s q = false) → (tineOf s tine).busy = false →
    isFenced s (Unit.tine tine) = false → gClk s.tin.grant ≠ 0 → readyFor s tine = (k, i) :: l → slotRec s k = some r →
    (slotOf s k).jobs[i]? = some j → Completes (.tineJobDispatch tine) s fun t =>
      (tineOf t tine).busy = true ∧ (tineOf t tine).slot = k ∧ (tineOf t tine).pc = codeStart s tine k ∧ (tineOf t tine).steps = 0 ∧
      ((slotOf t k).jobs[i]?).map (·.phase) = some (.running tine)) ∧
  (∀ s (tine : Fin 16) (chan : Fin 2) d, (tineOf s tine).dma.getD chan none = some d → d.toData = false →
    Completes (.tineDmaDone tine chan) s fun t => (tineOf t tine).dma.getD chan none = none ∧
      t.tin.sram = Memory.writeList s.tin.sram d.remote (Memory.readList (tineOf s tine).mem d.loc (8 * d.len))) ∧
  (∀ s (tine : Fin 16), (tineOf s tine).busy = true → isFenced s (Unit.tine tine) = false →
    tineLimit s (tineOf s tine) ≤ (tineOf s tine).steps → Completes (.tinStepLimit tine) s fun t =>
      (tineOf t tine).busy = false) ∧
  (∀ s (tine : Fin 16) m t0, Completes (.tinEcc tine m false t0) s fun t =>
    (tineOf t tine).eccCorr = min ((tineOf s tine).eccCorr + 1) 3 ∧ evtPending t 197 = true) ∧
  (∀ s (tine : Fin 16) m t0, Completes (.tinEcc tine m true t0) s fun t =>
    (tineOf t tine).eccCorr = (tineOf s tine).eccCorr ∧ evtPending t 198 = true)

/-- The arithmetic, load and store, address and special instructions of a tine write their result (R244 to R251): the
destination, the flags, the accumulator, the address register or the memory bytes. -/
def Obligations.TineComputeInstructionsComplete : Prop :=
  (∀ s hd op (dst src1 src2 : Fin 16) pair useImm imm, TineReady (.tineAlu hd op dst src1 src2 pair useImm imm) hd s → (tineOf s hd.tine).d.length = 16 →
    Completes (.tineAlu hd op dst src1 src2 pair useImm imm) s fun t =>
      let x := tineOf s hd.tine
      let b := if useImm then immOf (dWidth pair) imm else dGet x src2 pair
      let u := if useImm then immOf (dWidth pair) imm else dGet x src1 pair
      let r := aluResult op (dWidth pair) hd.sat (dGet x src1 pair) b u
      (op ≠ .cmp → dGet (tineOf t hd.tine) dst pair = r.1 % 2 ^ dWidth pair) ∧ (op = .cmp → (tineOf t hd.tine).d = x.d) ∧
      (tineOf t hd.tine).z = decide (r.1 % 2 ^ dWidth pair = 0) ∧ (tineOf t hd.tine).n = bitB r.1 (dWidth pair - 1) ∧
      (tineOf t hd.tine).ovf = (x.ovf || r.2) ∧ (tineOf t hd.tine).steps = x.steps + 1) ∧
  (∀ s hd op (accA accB : Fin 4) (a1 a2 b1 b2 : Fin 16) frac dual, TineReady (.tineMac hd op accA accB a1 a2 b1 b2 frac dual none none) hd s → (tineOf s hd.tine).acc.length = 4 →
    (dual = true → accA ≠ accB) → Completes (.tineMac hd op accA accB a1 a2 b1 b2 frac dual none none) s fun t =>
      let x := tineOf s hd.tine
      (((tineOf t hd.tine).acc.getD accA 0).toNat = (placeIn 40 hd.sat (macValue op (accGet x accA)
        (macProduct frac (dGet x a1 false) (dGet x a2 false)))).1) ∧
      (dual = true → ((tineOf t hd.tine).acc.getD accB 0).toNat = (placeIn 40 hd.sat (macValue op (accGet x accB)
        (macProduct frac (dGet x b1 false) (dGet x b2 false)))).1)) ∧
  (∀ s hd (acc acc2 : Fin 4) (d : Fin 16) pair round shift, TineReady (.tineAcc hd .adda acc acc2 d pair round shift) hd s → (tineOf s hd.tine).acc.length = 4 →
    Completes (.tineAcc hd .adda acc acc2 d pair round shift) s fun t =>
      let p := placeIn 40 hd.sat (accGet (tineOf s hd.tine) acc + accGet (tineOf s hd.tine) acc2)
      ((tineOf t hd.tine).acc.getD acc 0).toNat = p.1 ∧ (tineOf t hd.tine).ovf = ((tineOf s hd.tine).ovf || p.2)) ∧
  (∀ s hd store wide (d : Fin 16) (areg : Fin 8) imm, TineReady (.tineLdst hd store wide d areg .none imm) hd s → (tineOf s hd.tine).d.length = 16 →
    (tineOf s hd.tine).dma = [none, none] →
    aguAddress (tineOf s hd.tine) areg % (if wide then 4 else 2) = 0 →
    Completes (.tineLdst hd store wide d areg .none imm) s fun t =>
      let x := tineOf s hd.tine
      let n := if wide then 4 else 2
      if store then (tineOf t hd.tine).mem = dmWrite x.mem (aguAddress x areg) n (dGet x d wide) ∧ (tineOf t hd.tine).d = x.d
      else dGet (tineOf t hd.tine) d wide = dmRead x.mem (aguAddress x areg) n ∧ (tineOf t hd.tine).mem = x.mem) ∧
  (∀ s hd (x : Fin 8) tgt d imm, TineReady (.tineAddr hd .set x tgt d imm) hd s → (tineOf s hd.tine).a.length = 8 → (tineOf s hd.tine).b.length = 8 →
    (tineOf s hd.tine).l.length = 8 → (tineOf s hd.tine).m.length = 8 → Completes (.tineAddr hd .set x tgt d imm) s fun t =>
      agGet (tineOf t hd.tine) tgt x = imm) ∧
  (∀ s hd (dst src : Fin 16) pair, TineReady (.tineSpec hd .clz dst src pair) hd s → (tineOf s hd.tine).d.length = 16 →
    Completes (.tineSpec hd .clz dst src pair) s fun t =>
      dGet (tineOf t hd.tine) dst false = clz (dWidth pair) (dGet (tineOf s hd.tine) src pair)) ∧
  (∀ s hd (dst src : Fin 16) pair, TineReady (.tineSpec hd .isqrt dst src pair) hd s → (tineOf s hd.tine).d.length = 16 →
    Completes (.tineSpec hd .isqrt dst src pair) s fun t =>
      dGet (tineOf t hd.tine) dst false = isqrt (dGet (tineOf s hd.tine) src true))

/-- The control, DMA and emit instructions of a tine (R252 to R256). -/
def Obligations.TineControlInstructionsComplete : Prop :=
  (∀ s hd target, TineReady (.tineBr hd target) hd s → Completes (.tineBr hd target) s fun t => (tineOf t hd.tine).pc = target.toNat) ∧
  (∀ s hd target, TineReady (.tineCall hd target) hd s → (tineOf s hd.tine).calls.length < 8 → Completes (.tineCall hd target) s fun t =>
    (tineOf t hd.tine).pc = target.toNat ∧ (tineOf t hd.tine).calls.length = (tineOf s hd.tine).calls.length + 1 ∧
    ((tineOf t hd.tine).calls.head?).map (·.1) = some ((tineOf s hd.tine).next).pc) ∧
  (∀ s hd pc depth rest, TineReady (.tineRet hd) hd s → (tineOf s hd.tine).calls = (pc, depth) :: rest → Completes (.tineRet hd) s fun t =>
    (tineOf t hd.tine).pc = pc ∧ (tineOf t hd.tine).calls = rest) ∧
  (∀ s hd endIdx count, TineReady (.tineRep hd none endIdx count) hd s → count ≠ 0 → (tineOf s hd.tine).reps.length < 3 →
    Completes (.tineRep hd none endIdx count) s fun t => (tineOf t hd.tine).pc = (tineOf s hd.tine).pc + 1 ∧
      (tineOf t hd.tine).reps = ⟨(tineOf s hd.tine).pc + 1, endIdx.toNat, count.toNat, (tineOf s hd.tine).calls.length⟩ ::
        (tineOf s hd.tine).reps) ∧
  (∀ s hd endIdx, TineReady (.tineRep hd none endIdx 0) hd s → Completes (.tineRep hd none endIdx 0) s fun t =>
    (tineOf t hd.tine).pc = endIdx.toNat + 1 ∧ (tineOf t hd.tine).reps = (tineOf s hd.tine).reps) ∧
  (∀ s hd, TineReady (.tineNop hd) hd s → Completes (.tineNop hd) s fun t =>
    (tineOf t hd.tine).pc = (tineOf s hd.tine).next.pc ∧ (tineOf t hd.tine).steps = (tineOf s hd.tine).steps + 1 ∧
    (tineOf t hd.tine).d = (tineOf s hd.tine).d ∧ (tineOf t hd.tine).mem = (tineOf s hd.tine).mem) ∧
  (∀ s hd, TineReady (.tineEnd hd) hd s → Completes (.tineEnd hd) s fun t =>
    (tineOf t hd.tine).busy = false ∧ (tineOf t hd.tine).dma = [none, none]) ∧
  (∀ s hd (chan : Fin 2) toData (areg remote : Fin 8) len, TineReady (.tineDmaStart hd chan toData areg remote len) hd s → len ≠ 0 →
    (tineOf s hd.tine).dma = [none, none] →
    dmaAllowed s hd.tine ⟨toData, ((tineOf s hd.tine).a.getD areg 0).toNat, dGet (tineOf s hd.tine) (2 * remote) true, len.toNat⟩
      = true → Completes (.tineDmaStart hd chan toData areg remote len) s fun t =>
      (tineOf t hd.tine).dma.getD chan none =
        some ⟨toData, ((tineOf s hd.tine).a.getD areg 0).toNat, dGet (tineOf s hd.tine) (2 * remote) true, len.toNat⟩) ∧
  (∀ s hd (chan : Fin 2), TineReady (.tineDmaWait hd chan) hd s → Completes (.tineDmaWait hd chan) s fun t =>
    (tineOf t hd.tine).dma.getD chan none = none) ∧
  (∀ s hd (areg : Fin 8) count r, TineReady (.tineEmit hd areg none count) hd s → slotRec s (tineOf s hd.tine).slot = some r →
    (tineOf s hd.tine).out.length + count.toNat ≤ outMax r → (tineOf s hd.tine).dma = [none, none] →
    Completes (.tineEmit hd areg none count) s fun t => (tineOf t hd.tine).out = (tineOf s hd.tine).out ++
      (List.range count.toNat).map fun i => BitVec.ofNat 64
        (dmRead (tineOf s hd.tine).mem (((tineOf s hd.tine).a.getD areg 0).toNat + 8 * i) 8))

/-- The control loops and the aux channels take their samples and set-point edges (R270 to R281, R283 to R293). -/
def Obligations.LoopAndAuxCommandsComplete : Prop :=
  (∀ s (loop : Fin 8) lfb lsp t0, loopEnabled s loop = true → Completes (.loopSample loop lfb lsp t0) s fun t =>
    (loopOf t loop).n = (loopOf s loop).n + 1 ∧ (loopOf t loop).hkN = (loopOf s loop).hkN + 1 ∧
    (s.hkp.hardCut = true → (loopOf t loop).drv = false)) ∧
  (∀ s (loop : Fin 8) g high, Completes (.lspEdge loop g high) s fun t => (loopOf t loop).edge = some g ∧
    (loopOf t loop).periods = if (loopOf s loop).edge.isSome then (loopOf s loop).periods + 1 else 0) ∧
  (∀ s (loop : Fin 8) t0, loopEnabled s loop = true → rdf s (Fld.CLE_CFG_sp_src loop) = 3 →
    rdf s (Fld.CLE_SPTO_sp_timeout loop) ≠ 0 → (loopOf s loop).lost = false → Completes (.cleSpLost loop t0) s fun t =>
      (loopOf t loop).lost = true ∧ (loopOf t loop).edge = none ∧ (loopOf t loop).periods = 0) ∧
  (∀ s (chan : Fin 8) ratio sat railed t0, asfOn s chan = true → slotChan s s.asf.slot = chan.val →
    (rdf s (Fld.ASF_CFG_mode chan) = 2 ∨ rdf s (Fld.ASF_CFG_mode chan) = 3) → (asfOf s chan).second = false →
    Completes (.asfConversion chan ratio sat railed t0) s fun t =>
      (asfOf t chan).second = true ∧ (asfOf t chan).d1 = ratio ∧ (asfOf t chan).sat1 = sat ∧ (asfOf t chan).rail1 = (if rdf s (Fld.ASF_CFG_bo_en chan) = 1 then railed else 0) ∧
      t.asf.slot = (s.asf.slot + 1) % rdf s Fld.ASF_SCHED_n_slot) ∧
  (∀ s (chan : Fin 8) ratio sat railed t0, asfOn s chan = true → slotChan s s.asf.slot = chan.val → rdf s (Fld.ASF_CFG_mode chan) ≠ 2 →
    rdf s (Fld.ASF_CFG_mode chan) ≠ 3 → rdf s (Fld.ASF_CFG_mode chan) ≠ 6 →
    Completes (.asfConversion chan ratio sat railed t0) s fun t =>
      (asfOf t chan).enabled = true ∧ (asfOf t chan).second = false)

/-- Blocks of the Mulch engines begin and end; BP queues take held words, stall and are flushed (R299 to R309, R319, R320). -/
def Obligations.MulchAndQueueCommandsComplete : Prop :=
  (∀ s e w k l, offered s = (w, k) :: l → freeEngine (if beginsItem s k then enginesEnter s else s) = some e → Completes .mulchBlockStart s fun t =>
    t.mcd.engines = s.mcd.engines.set e (some k)) ∧
  (∀ s (engine : Fin 2) ok t0 k, engineWork s engine = some k → isFenced s (Unit.engine engine) = false →
    Completes (.mulchBlockDone engine ok t0) s fun t => t.mcd.engines = s.mcd.engines.set engine none) ∧
  (∀ s (q : QueueId), 4 ≤ q.group.val → (queueOf s q.group q.index).words.length < qDepth s q.group →
    Completes (.bpQueueSpace q) s fun t =>
      let x := queueOf s q.group q.index
      let n := qDepth s q.group - x.words.length
      (queueOf t q.group q.index).words = x.words ++ x.held.take n ∧ (queueOf t q.group q.index).held = x.held.drop n) ∧
  (∀ s (q : QueueId) t0, 4 ≤ q.group.val → qDepth s q.group ≤ (queueOf s q.group q.index).words.length →
    (queueOf s q.group q.index).stalled = false → rdf s Fld.QSY_STALL_CFG_stall_us ≠ 0 →
    ((queueOf s q.group q.index).fullAt.any fun f => decide (f + rdf s Fld.QSY_STALL_CFG_stall_us * 64000 < now (advance t0 s))) = true →
    Completes (.qsyStall q t0) s fun t => (queueOf t q.group q.index).stalled = true ∧ evtPending t 250 = true) ∧
  (∀ s q src stream item, Completes (.flushItem q src stream item) s fun t =>
    skey src.toNat stream.toNat ∈ t.qsy.lostBefore)

/-- A control item does its work in the block it reaches and goes on with the streams that block feeds (R24, R30, R208,
R260, R262, R264, R501). -/
def Obligations.ControlItemCommandsComplete : Prop :=
  (∀ s blk item, isCtl item 1 = true → Completes (.planItem blk item) s fun t =>
    t.fdc = (planActs blk (bitB (ctlArg (itemCtl item)) 4) item.tag s).fdc ∧
    t.tin = (planActs blk (bitB (ctlArg (itemCtl item)) 4) item.tag s).tin) ∧
  (∀ s blk item, isCtl item 2 = true → Completes (.swapItem blk item) s fun t =>
    t.fdc = (planActs blk (isFibre (srcDom s (tagSrc item.tag))) item.tag s).fdc ∧
    t.tin = (planActs blk (isFibre (srcDom s (tagSrc item.tag))) item.tag s).tin) ∧
  (∀ s item, isCtl item 4 = true → Completes (.grantItem .tin item) s fun t => t.tin.grant = itemGrant s item) ∧
  (∀ s blk item, isCtl item 4 = true → blk ≠ .tin → Completes (.grantItem blk item) s fun t => t = forwardCtl blk item s) ∧
  (∀ s blk item, isCtl item 5 = true → itemUnit item < 90 → isFenced s (itemUnit item) = true →
    Completes (.fenceItem blk item) s fun t => t.fcl.shown.getLsbD (itemUnit item) = true) ∧
  (∀ s blk item, isCtl item 6 = true → isFenced s (itemUnit item) = false → Completes (.graftItem blk item) s fun t =>
    t.fcl.shown.getLsbD (itemUnit item) = false) ∧
  (∀ s blk item, isCtl item 7 = true → Completes (.markItem blk item) s fun t => t = forwardCtl blk item s) ∧
  (∀ s blk item, isCtl item 8 = true → Completes (.calItem blk item) s fun t => t = forwardCtl blk item s)

/-- The lanes and ports of the link: training, absence, retraining, FEC, and the lane blocks of the peer (R353 to R361). -/
def Obligations.LaneAndPortCommandsComplete : Prop :=
  (∀ s (lane : Fin 8) rate il t0, (portOf s (portOfLane lane)).state = 1 ∨ (portOf s (portOfLane lane)).state = 2 →
    isFenced s (Unit.lane lane) = false → Completes (.laneTrained lane rate false il t0) s fun t =>
      (laneSt t lane).trained = true ∧ (laneSt t lane).il = il) ∧
  (∀ s port t0, (portOf s port).state = 1 → trainedCount s port = 0 → (portOf s port).enabled + trainTicks ≤ t0 →
    Completes (.portAbsentTimeout port t0) s fun t =>
    (portOf t port).state = 3) ∧
  (∀ s t0, s.plk.dn.state = 3 → 10 ≤ s.boot.step → s.boot.step ≠ 15 → s.plk.dn.enabled + 64000000000 ≤ t0 →
    Completes (.dnRetryTimer t0) s fun t => t.plk.dn.state = 1 ∧ t.plk.dn.enabled = t0) ∧
  (∀ s (lane : Fin 8) t0, (portOf s (portOfLane lane)).state = 2 → (laneSt s lane).trained = true →
    ((portOf s (portOfLane lane)).wake.any fun e => decide (e.1 = lane.val) && decide (e.2 + wakeTicks ≤ t0)) = true →
    Completes (.laneExitTimeout lane t0) s fun t => (laneSt t lane).trained = false ∧ t0 ∈ (laneSt t lane).retrains) ∧
  (∀ s (lane : Fin 8) t0, (laneSt s lane).trained = true → Completes (.fecUncorrectable lane t0) s fun t =>
    (laneSt t lane).evAt.isSome = true) ∧
  (∀ s port count, (portOf s port).state = 2 → Completes (.laneRequest port count) s fun t => (portOf t port).peerReq = count.toNat) ∧
  (∀ s port, (portOf s port).state = 2 → (portOf s port).rising.isSome = true → Completes (.laneReady port) s fun t =>
    (portOf t port).rising = none) ∧
  (∀ s port count, Completes (.laneSwitch port count) s fun t => (portOf t port).rx = count.toNat) ∧
  (∀ s port mask, Completes (.laneFenceNotice port mask) s fun t => (portOf t port).peerMask = mask.toNat) ∧
  (∀ s port mask, Completes (.laneStatus port mask) s fun t => (portOf t port).peerMask = mask.toNat)

/-- Packets, credits, retries, commas and cable lengths of the link (R355 to R364, R376, R379). -/
def Obligations.LinkTransportCommandsComplete : Prop :=
  (∀ s port (vc : BitVec 2) dst bc src words ie (seq : BitVec 16) t0, (portOf s port).state = 2 →
    (portOf s port).closed = false → words ≠ 0 → words ≤ 512 → (vc.toNat = 0 ∨ (portOf s port).isOpen = true) →
    Completes (.startBlock port vc dst bc src words ie seq t0) s fun t => (portOf t port).cur = some vc.toNat ∧
      (portOf t port).rxSeq = (portOf s port).rxSeq.set vc.toNat ((seq.toNat + 1) % 65536)) ∧
  (∀ s port (a b c : BitVec 16), (portOf s port).waiting = [] → (txQueue s port).words = [] →
    Completes (.credit port a b c) s fun t => (portOf t port).credit =
      [creditOf (portOf s port) 0 + a.toNat, creditOf (portOf s port) 1 + b.toNat, creditOf (portOf s port) 3 + c.toNat]) ∧
  (∀ s port t0 m n, (portOf s port).vc0 = some (m, n) → n < 3 → (portOf s port).vc0At + retryTicks ≤ t0 →
    Completes (.vc0RetryTimeout port t0) s fun t =>
    (portOf t port).vc0 = some (m, n + 1)) ∧
  (∀ s t0 m n, (portOf s .up).vc0 = some (m, n) → 3 ≤ n → (portOf s .up).vc0At + retryTicks ≤ t0 →
    Completes (.vc0RetryTimeout .up t0) s fun t =>
    (portOf t .up).vc0 = none ∧ (portOf t .up).state = 3 ∧ (portOf t .up).isOpen = false) ∧
  (∀ s port (tap : Fin 97) tap2 edge, (portOf s port).state = 2 → (portOf s port).arrive = none →
    svcDead s (markerChan port) (stampOf s (512 + s.tsu.lineOf.getD (markerChan port) 0) edge tap) = false →
    Completes (.commaDepart port tap tap2 edge) s fun t =>
      (portOf t port).depart = some (stampOf s (512 + s.tsu.lineOf.getD (markerChan port) 0) edge tap)) ∧
  (∀ s port (tap : Fin 97) tap2 edge, (portOf s port).state = 2 → (portOf s port).depart = none →
    svcDead s (markerChan port) (stampOf s (512 + s.tsu.lineOf.getD (markerChan port) 0) edge tap) = false →
    Completes (.commaArrive port tap tap2 edge) s fun t =>
      (portOf t port).arrive = some (stampOf s (512 + s.tsu.lineOf.getD (markerChan port) 0) edge tap)) ∧
  (∀ s (lane : Fin 8) il, (laneSt s lane).trained = true → Completes (.cableLengthUpdate lane il) s fun t =>
    (laneSt t lane).il = il) ∧
  (∀ s port (type : Byte), 4 ≤ type.toNat → Completes (.reservedLinkBlock port type) s fun t =>
    (rd t Reg.PLK_STICKY).getLsbD 3 = true) ∧
  (∀ s port (type : Byte), messageTypes.contains type.toNat = false → Completes (.reservedMessageType port type) s fun t =>
    (rd t Reg.PLK_STICKY).getLsbD 3 = true)

/-- Enumeration: the messages of the cascade, and the ends of verification and signing (R365 to R369). -/
def Obligations.EnumerationCommandsComplete : Prop :=
  (∀ s (sender : BitVec 4) nonce att, s.plk.up.state = 2 → s.plk.up.closed = false → (cascRec s).isSome = true →
    isMaster s = false → Completes (.enum sender nonce att) s fun t =>
      t.trl.verUp = some ⟨sender.toNat, nonce, att⟩ ∧ t.trl.nonce = nonce) ∧
  (∀ s att, s.plk.dn.state = 2 → s.plk.dn.closed = false → Completes (.attest att) s fun t =>
    t.trl.verDn = some ⟨s.trl.addr + 1, s.trl.nonce, att⟩ ∧ t.plk.dn.vc0 = none) ∧
  (∀ s t0 v, s.trl.verUp = some v → Completes (.attestVerifyDone .up t0) s fun t => t.trl.verUp = none ∧
    match attFails s v.nonce v.sender v.att with
    | none => t.trl.signing = some (.attest (v.sender + 1)) ∧ t.trl.capUp = v.att.cap
    | some _ => t.plk.up.state = 4 ∧ t.plk.up.closed = true ∧ t.plk.up.isOpen = false) ∧
  (∀ s t0 v, s.trl.verDn = some v → Completes (.attestVerifyDone .dn t0) s fun t => t.trl.verDn = none) ∧
  (∀ s sig t0 a, s.trl.signing = some (.attest a) → Completes (.signDone sig t0) s fun t =>
    t.trl.signing = none ∧ t.trl.sig = sig ∧ t.trl.asked = true) ∧
  (∀ s (addr : BitVec 4), s.trl.asked = true → s.plk.up.state = 2 → s.plk.up.closed = false →
    Completes (.accept addr) s fun t =>
      t.trl.addr = addr.toNat ∧ t.trl.accepted = true ∧ t.trl.asked = false ∧ t.plk.up.isOpen = true) ∧
  (∀ s reason, Completes (.reject .up reason) s fun t => t.plk.up.vc0 = none ∧ t.trl.asked = false) ∧
  (∀ s reason, Completes (.reject .dn reason) s fun t => t.plk.dn.vc0 = none ∧ t.plk.dn.closed = true) ∧
  (∀ s (addr : BitVec 4) st cap t0, s.plk.dn.closed = false → s.plk.dn.isOpen = true → isMaster s = true → addr ≠ 0 →
    s.trl.enumerated = false → Completes (.capReport addr st cap t0) s fun t => (partOf t addr.toNat).cap = cap) ∧
  (∀ s (addr : BitVec 4) st cap t0, s.plk.dn.closed = false → s.plk.dn.isOpen = true → isMaster s = false →
    s.trl.enumerated = false → Completes (.capReport addr st cap t0) s fun t =>
      t = toMaster (.capReport addr.toNat st.toNat cap) (received .dn 1 66 (advance t0 s))) ∧
  (∀ s t0, s.boot.step = 9 → (cascRec s).isSome = true → isMaster s = false → s.trl.accepted = false →
    Completes (.enumTimeout t0) s fun t => t.trl.standalone = true ∧ t.trl.addr = 0 ∧ t.plk.dn.closed = true ∧
      t.boot.step = if hasLidar s then 10 else 11) ∧
  (∀ s (addr : BitVec 4) nonce, isMaster s = false → s.plk.up.closed = false → s.plk.up.isOpen = true →
    addr.toNat = s.trl.addr → Completes (.reenum addr nonce) s fun t => t.trl.nonce = nonce ∧ t.trl.signing = some .again)

/-- Alignment, START, JOIN, the coordinated swap and the master's orders (R370, R376 to R380, R127, R483, R485). -/
def Obligations.CascadeRunCommandsComplete : Prop :=
  (∀ s index d a t0 p, Tab.look s.trl.align.pairs index = some p → Completes (.align .up index d a t0) s fun t =>
    Tab.look t.trl.align.pairs index = none) ∧
  (∀ s index d a t0 p, Tab.look s.trl.align.dnPairs index = some p → Completes (.align .dn index d a t0) s fun t =>
    Tab.look t.trl.align.dnPairs index = none ∧ t.trl.align.dnCount = s.trl.align.dnCount + 1) ∧
  (∀ s T grants t0, hearsMaster s = true → s.trl.accepted = true → s.trl.enumerated = false →
    Completes (.start T grants t0) s fun t => t.trl.t0 = some T ∧ t.trl.enumerated = true) ∧
  (∀ s fibre (plan : BitVec 4) (target : BitVec 24) t0, hearsMaster s = true → planExists s fibre plan.toNat = true →
    judgeFrame (ctxOf s (domOf fibre)) (localFrame s target.toNat) = .ahead →
    Completes (.swapPrepare fibre plan target t0) s fun t => t.esq.staged = s.esq.staged ++
      [{ fibre := fibre, plan := plan.toNat, target := localFrame s target.toNat, committed := false, scope := 1,
         origin := .master, taken := t0, readies := [] }]) ∧
  (∀ s (addr : BitVec 4) (target : BitVec 24) x, isMaster s = true → s.esq.staged = [x] → x.target = target.toNat →
    x.readies.contains addr.toNat = true → Completes (.swapReady addr target) s fun t =>
      t.esq.staged = [{ x with readies := x.readies.filter fun a => !decide (a = addr.toNat) }]) ∧
  (∀ s (target : BitVec 24) x, hearsMaster s = true → s.esq.staged = [x] → x.target = localFrame s target.toNat →
    x.origin = .master → x.committed = false → Completes (.swapCommit target) s fun t =>
      t.esq.staged = [{ x with committed := true }]) ∧
  (∀ s (target : BitVec 24) x, hearsMaster s = true → s.esq.staged = [x] → x.target = localFrame s target.toNat →
    x.origin = .master → x.committed = false → Completes (.swapCancel target) s fun t =>
      t.esq.staged = [{ x with origin := .internal }]) ∧
  (∀ s code args (frame : BitVec 24) t0, hearsMaster s = true → Completes (.order code args frame t0) s fun t =>
    t.hif.orderFrame = frame.toNat ∧ (code = 0x0404 → inSession s = true → t.clo.session = false ∧ t.hif.orderStat = 1)) ∧
  (∀ s (addr : BitVec 4) (offset : BitVec 24), hearsMaster s = true → addr.toNat = s.trl.addr →
    Completes (.join addr offset) s fun t => t.trl.joinOff = offset.toNat ∧ evtPending t 293 = true)

/-- The master's merge: frame closes, expired waits and forwarded items (R373 to R375, R382). -/
def Obligations.MergeCommandsComplete : Prop :=
  (∀ s (addr : BitVec 4) (src stream : BitVec 6) (frame : BitVec 24), s.plk.dn.closed = false → s.plk.dn.isOpen = true →
    isMaster s = true → Completes (.frameClose addr src stream frame) s fun t =>
      liftNear (domCtx s (srcDom s src.toNat)).frame ((frame.toNat + (partOf s addr.toNat).join) % 2 ^ 24) + 1 ≤
        Tab.lookD (mergeOf t (skey src.toNat stream.toNat)).closes addr.toNat 0) ∧
  (∀ s (addr : BitVec 4) (src stream : BitVec 6) (frame : BitVec 24), s.plk.dn.closed = false → s.plk.dn.isOpen = true →
    isMaster s = false → Completes (.frameClose addr src stream frame) s fun t =>
      t = toMaster (.frameClose addr.toNat src.toNat stream.toNat frame.toNat) (received .dn 1 5 s)) ∧
  (∀ s (src stream : BitVec 6) (frame : BitVec 24), isMaster s = true →
    ((mergeOf s (skey src.toNat stream.toNat)).ownAt.any fun e =>
      decide (liftNear (domCtx s (srcDom s src.toNat)).frame frame.toNat < e.1) &&
      decide (e.2 + 64000 * rdf s Fld.TRL_MERGE_CFG_merge_wait ≤ now s)) = true → Completes (.mergeWaitExpire src stream frame) s fun t =>
      liftNear (domCtx s (srcDom s src.toNat)).frame frame.toNat + 1 ≤ (mergeOf t (skey src.toNat stream.toNat)).next) ∧
  (∀ s item t0, s.plk.dn.closed = false → s.plk.dn.isOpen = true → s.trl.enumerated = true →
    Completes (.forwardedItem item t0) s fun t => t.plk.dn.lostNext = false ∧ t.plk.dn.hit.contains 3 = false)

/-- The Cloche's evaluation cycle, its inputs, test pulses and input timeouts (R390 to R401). -/
def Obligations.SafetyInputCommandsComplete : Prop :=
  (∀ s hr lr t0, s.clo.cycles + 1 < 240000 → Completes (.evaluationCycle hr lr t0) s fun t =>
    t.clo.cycles = s.clo.cycles + 1 ∧
    ∀ x : Fin 4, (outSt t x).hr = hr.getLsbD x ∧ (outSt t x).lr = lr.getLsbD x) ∧
  (∀ s (input : Fin 17) level, Completes (.safeInputChange input level) s fun t => (inSt t input).raw = level ∧
    (inSt t input).filt = if input.val < 16 ∧ inFilter s input = 0 then level else (inSt s input).filt) ∧
  (∀ s (input : Fin 17), filterCycles s input ≤ (inSt s input).age → Completes (.siFilterExpire input) s fun t => (inSt t input).filt = (inSt s input).raw) ∧
  (∀ s (tp : Fin 4), pulseDue s tp = true → Completes (.testPulseStart tp) s fun t => t.clo.tpLow.getLsbD tp = true ∧
    ∀ n ∈ tpInputs s tp, (inSt t n).held = some (inLevel s n)) ∧
  (∀ s (tp : Fin 4) a b t0, s.clo.tpLow.getLsbD tp = true → Completes (.testPulseEnd tp a b t0) s fun t => t.clo.tpLow.getLsbD tp = false ∧
    ∀ n ∈ tpInputs s tp, (inSt t n).held = none) ∧
  (∀ s (chain : Fin 8) button t0, chainType s chain = 1 ∨ chainType s chain = 2 ∨ chainType s chain = 4 →
    inputAt s chain 0 ≠ inputAt s chain 1 → (chainSt s chain).disc = false →
    discCycles s chain ≤ (chainSt s chain).runs.getD 0 0 →
    Completes (.discrepancyTimeout chain button t0) s fun t => (chainSt t chain).disc = true ∧ evtPending t 300 = true) ∧
  (∀ s (chain : Fin 8), chainType s chain = 3 → pressed s chain 0 ≠ pressed s chain 1 →
    2000 ≤ (chainSt s chain).oneRun →
    Completes (.twohandTimeout chain) s fun t => (chainSt t chain).late = true)

/-- The Cloche's outputs and their tests, the heartbeat, the part stop and the island faults (R388, R391, R406 to R411). -/
def Obligations.SafetyOutputCommandsComplete : Prop :=
  (∀ s (out : Fin 4) low hr lr, outEnabled s out = true → (outSt s out).test = none → s.clo.passed = true →
    commissioning s = false → (outSt s out).hd = true → (outSt s out).ld = true →
    testDue s out low = true → Completes (.switchTest out low hr lr) s fun t => (outSt t out).test = some (low, true) ∧ (outSt t out).hd = low ∧
      (outSt t out).ld = !low) ∧
  (∀ s (out : Fin 4) hr lr t0 low on, (outSt s out).test = some (low, on) →
    (if on then (if low then lr else !hr) else hr && lr) = true → Completes (.switchTestEnd out hr lr t0) s fun t =>
      (outSt t out).test = none ∧ (outSt t out).hd = on ∧ (outSt t out).ld = on) ∧
  (∀ s (out : Fin 4) low t0, outEnabled s out = true →
    (if low then (outSt s out).doneLo else (outSt s out).doneHi) + 1440 ≤ s.clo.minutes → Completes (.diagIntervalFault out low t0) s fun t =>
    if low then (outSt t out).ivLow = true else (outSt t out).ivHigh = true) ∧
  (∀ s, Completes .heartbeat s fun t => t.clo.hbRun = s.clo.hbRun + 1 ∧ t.clo.hbGap = 0) ∧
  (∀ s t0, 4 ≤ s.clo.hbGap → Completes (.heartbeatTimeout t0) s fun t => t.clo.partStop = true ∧ t.clo.hbRun = 0 ∧
    ∀ c ∈ usedChains s, (chainSt t c).state = 4 ∨ (chainSt t c).state = 0) ∧
  (∀ s t0, Completes (.partStop t0) s fun t => t.clo.partStop = true ∧ t.clo.hbRun = s.clo.hbRun ∧
    ∀ c ∈ usedChains s, (chainSt t c).state = 4 ∨ (chainSt t c).state = 0) ∧
  (∀ s cause t0, Completes (.islandFault cause t0) s fun t => t.clo.island.getLsbD (islandBit cause) = true ∧
    evtPending t 308 = true ∧ ∀ c ∈ usedChains s, (chainSt t c).state = 4 ∨ (chainSt t c).state = 0)

/-- Verdict words, tine results and zone words reach the Cloche, and their deadlines pass (R402 to R405). -/
def Obligations.VerdictCommandsComplete : Prop :=
  (∀ s (frame : BitVec 24) ws t0 m, s.clo.passed = true → x12Next s .verdict frame.toNat = some m →
    Completes (.verdictWordArrive frame ws t0) s fun t => t.clo.toSafe = s.clo.toSafe.erase m ∧
      ∀ n ∈ usedSets s, (fieldSt t n).frames = (fieldSt s n).frames.map fun e =>
        if e.1 = frame.toNat then (e.1, e.2.take true ((m.data ws).getD n 0)) else e) ∧
  (∀ s (frame : BitVec 24) hd ws t0 m header words, s.clo.passed = true → x12Next s (.tine 1) frame.toNat = some m →
    m.data (hd :: ws) = header :: words → bits header.toNat 16 6 = 0 → Completes (.tineResultArrive 1 frame hd ws t0) s fun t =>
      t.clo.toSafe = s.clo.toSafe.erase m ∧ ∀ n ∈ usedSets s, (fieldSt t n).frames = (fieldSt s n).frames.map fun e =>
        if e.1 = frame.toNat then (e.1, e.2.take false (words.getD n 0)) else e) ∧
  (∀ s (frame : BitVec 24) hd ws t0 m header words, s.clo.passed = true → x12Next s (.tine 2) frame.toNat = some m →
    m.data (hd :: ws) = header :: words → bits header.toNat 16 6 = 0 → Completes (.tineResultArrive 2 frame hd ws t0) s fun t =>
      t.clo.toSafe = s.clo.toSafe.erase m ∧ t.clo.zones.cls = some (frame.toNat, some (words.getD 4 0))) ∧
  (∀ s (frame : BitVec 24) tine t0, s.clo.passed = true → Completes (.verdictDeadline frame tine t0) s fun t =>
    ∀ n ∈ usedSets s, wordLate s n frame.toNat tine = true →
      (fieldSt t n).frames = (fieldSt s n).frames.map fun e => if e.1 = frame.toNat then
      (e.1, if (if tine then e.2.tine else e.2.hse).isNone then { e.2 with v := true, miss := true } else e.2) else e) ∧
  (∀ s (interval : BitVec 24) ws t0 m, s.clo.passed = true → x12Next s .zone interval.toNat = some m →
    Completes (.zoneWordArrive interval ws t0) s fun t => t.clo.zones.interval = some interval.toNat ∧
      t.clo.zones.words = m.data ws ∧ t.clo.zones.due = m.due ∧ t.clo.toSafe = s.clo.toSafe.erase m) ∧
  (∀ s (interval : BitVec 24) t0, s.clo.passed = true → zoneMode s = 0 → s.clo.zones.interval = some interval.toNat →
    s.clo.zones.judged = false → s.clo.zones.due ≤ t0 → Completes (.classifierDeadline interval t0) s fun t => t.clo.zones.judged = true)

/-- The brake test, powered time and the reset input (R401, R411, R412, R415, R416). -/
def Obligations.BrakeAndResetCommandsComplete : Prop :=
  (∀ s (chain : Fin 8), chainType s chain = 5 → (chainSt s chain).brake ≠ 1 → (chainSt s chain).brake ≠ 2 →
    (chainSt s chain).brake ≠ 3 → brakeDue s chain = true →
    Completes (.brakeTestDue chain) s fun t => (chainSt t chain).brake = 1) ∧
  (∀ s (chain : Fin 8) enc1 count m, (chainSt s chain).brake = 3 → (enc1 = true → chainEnc1 s chain = true) →
    x12Next s (.window (chainEnc s chain (b2n enc1))) 0 = some m → chainMotion s chain < ((m.data [BitVec.ofNat 64 count]).headD 0).toNat →
    Completes (.brakeWindowResult chain enc1 count) s fun t =>
      (chainSt t chain).brake = 5 ∧ (chainSt t chain).failed = true ∧ evtPending t 307 = true) ∧
  (∀ s (chain : Fin 8) count m, (chainSt s chain).brake = 3 → (chainSt s chain).results = [] → chainEnc1 s chain = false →
    x12Next s (.window (chainEnc s chain 0)) 0 = some m → ((m.data [BitVec.ofNat 64 count]).headD 0).toNat ≤ chainMotion s chain →
    Completes (.brakeWindowResult chain false count) s fun t =>
      (chainSt t chain).brake = 4 ∧ (chainSt t chain).failed = false ∧ (chainSt t chain).pass = some s.clo.minutes) ∧
  (∀ s (chain : Fin 8), (chainSt s chain).brake = 3 → (chainSt s chain).results = [] →
    (tsiOf s (chainEnc s chain 0)).window = none → (tsiOf s (chainEnc s chain 0)).closedAt + 640000000 ≤ now s →
    Completes (.brakeResultTimeout chain) s fun t =>
    (chainSt t chain).brake = 6) ∧
  (∀ s (chain : Fin 8) t0, chainType s chain = 5 → (chainSt s chain).brake ≠ 0 → (chainSt s chain).brake ≠ 4 →
    (chainSt s chain).overdue = false →
    (chainSt s chain).dueAt + 60 * chainGrace s chain ≤ s.clo.minutes → Completes (.brakeTestOverdue chain t0) s fun t => (chainSt t chain).overdue = true) ∧
  (∀ s, Completes .poweredTimeTick s fun t => t.clo.minutes = max s.clo.minutes (s.clo.written + 10) ∧
    t.clo.written = t.clo.minutes ∧ t.clo.cycles = 0) ∧
  (∀ s t0, s.clo.blocked = false → s.clo.passed = true → inLevel s 16 = false → within 200 12000 s.clo.press = true →
    Completes (.resetRelease t0) s fun t =>
    t.clo.island = s.clo.island &&& ~~~islandResettable ∧
    ∀ c ∈ usedChains s, (chainSt s c).state = 2 → (chainSt t c).state = 3) ∧
  (∀ s t0, inLevel s 16 = true → 12000 ≤ s.clo.press → Completes (.resetHoldTimeout t0) s fun t => t.clo.blocked = true ∧ t.clo.lowRun = 0)

/-- The black channel and the commissioning timers (R414, R417, R418, R421, R488). -/
def Obligations.BlackChannelCommandsComplete : Prop :=
  (∀ s (conn : Fin 4) t0, s.clo.passed = true → connId s conn ≠ 0 → (∀ c ∈ usedChains s, chainType s c ≠ 5) →
    (connSt s conn).txAt + txCycles s conn ≤ s.clo.cyc →
    Completes (.bcTxPeriod conn t0) s fun t => (connSt t conn).txSeq = ((connSt s conn).txSeq + 1) % 2 ^ 32 ∧
      (Tab.lookD t.hif.bc conn {}).next = ((Tab.lookD s.hif.bc conn {}).next + 1) % 16) ∧
  (∀ s (conn : Fin 4) msg t0, s.clo.passed = true → (Tab.lookD s.hif.bc conn {}).pending = false →
    bcChecks (advance t0 s) conn msg = true → (connSt s conn).got = false → Completes (.bcMessageReceive conn msg t0) s fun t =>
      (connSt t conn).rxSeq = some (leAt msg 4 4) ∧ (connSt t conn).got = true ∧ (connSt t conn).timeout = false ∧
      (connSt t conn).vi = leAt msg 16 1) ∧
  (∀ s (conn : Fin 4) t0, connId s conn ≠ 0 → s.clo.passed = true →
    (connSt s conn).gotAt + timeoutCycles s conn ≤ s.clo.cyc → Completes (.bcTimeout conn t0) s fun t => (connSt t conn).timeout = true) ∧
  (∀ s (conn : Fin 4) slot, (Tab.lookD s.hif.bc conn {}).pending = false → Completes (.inboundDoorbell conn slot) s fun t =>
    (Tab.lookD t.hif.bc conn {}).inSlot = slot ∧ (Tab.lookD t.hif.bc conn {}).pending = true ∧
    (Tab.lookD t.hif.bc conn {}).refused = false) ∧
  (∀ s (conn : Fin 4) slot, (Tab.lookD s.hif.bc conn {}).pending = true → Completes (.inboundDoorbell conn slot) s fun t =>
    (Tab.lookD t.hif.bc conn {}).inSlot = (Tab.lookD s.hif.bc conn {}).inSlot ∧
    (Tab.lookD t.hif.bc conn {}).refused = true) ∧
  (∀ s, s.clo.session = true → s.clo.sessionAt + 15 ≤ s.clo.minutes → Completes .sessionTimeout s fun t => t.clo.session = false ∧ t.clo.staged = none) ∧
  (∀ s, s.clo.pwLock ≤ 1 → 5 ≤ s.clo.failures → Completes .passwordLockExpire s fun t => t.clo.pwLock = 0 ∧ t.clo.failures = 0)

/-- The orders of the command ring run at once when the entry names no frame: NOP, PLAN_SELECT, FLUSH, the capture orders,
FAULT_CLEAR and GRAFT, and the end of a graft's self-test (R481 to R485, R505 to R509). -/
def Obligations.RingOrdersComplete : Prop :=
  (∀ s e, PlainEntry e s → Completes (.nop e) s fun t => Answered s .ok t ∧ t.hif.cmdCons = (s.hif.cmdCons + 1) % 64) ∧
  (∀ s e (plan : Byte), PlainEntry e s → hasLidar s = true → planExists s false plan.toNat = true → x8Full s = false →
    Completes (.planSelect e 0 plan) s fun t => t.qsy.x8host = s.qsy.x8host ++
      [⟨1, 0, plan.toNat, Src.hif, 0, .lidar, .host (nextKey s), now (advance e.taken s)⟩]) ∧
  (∀ s e (src stream : Byte), PlainEntry e s → 1 ≤ src.toNat → src.toNat ≤ 0x17 → stream.toNat ≤ 0x3E → x8Full s = false →
    Completes (.flush e src stream) s fun t => t.qsy.x8host = s.qsy.x8host ++
      [⟨3, 0, stream.toNat, src.toNat, 0, srcDom s src.toNat, .host (nextKey s), now (advance e.taken s)⟩]) ∧
  (∀ s e (unit : Byte), PlainEntry e s → capTrigCheck s unit.toNat = none → Completes (.captureTrigger e unit) s fun t =>
    Answered s .ok t ∧
    (unitOf t unit.toNat).names = (unitOf s unit.toNat).names ++ [((unitOf s unit.toNat).nextF % 2 ^ 24, 16)]) ∧
  (∀ s e (unit : Byte), PlainEntry e s → (unitRec s unit.toNat).isSome = true → (unitOf s unit.toNat).noFit = false →
    (unitOf s unit.toNat).state = 1 → Completes (.captureAbort e unit) s fun t =>
      Answered s .ok t ∧ (unitOf t unit.toNat).state = 0 ∧ (unitOf t unit.toNat).ring = []) ∧
  (∀ s e (unit : Byte), PlainEntry e s → (unitRec s unit.toNat).isSome = true → (unitOf s unit.toNat).noFit = false →
    (unitOf s unit.toNat).state = 3 → Completes (.captureRead e unit) s fun t =>
      (unitOf t unit.toNat).state = 4 ∧ (unitOf t unit.toNat).readBy = some (.host (nextKey s))) ∧
  (∀ s e (unit : Byte), PlainEntry e s → (unitRec s unit.toNat).isSome = true → (unitOf s unit.toNat).noFit = false →
    (unitOf s unit.toNat).state = 3 → Completes (.captureRelease e unit) s fun t =>
      Answered s .ok t ∧ ((unitOf t unit.toNat).state = 1 ∨ (unitOf t unit.toNat).state = 5)) ∧
  (∀ s e (unit : Byte), PlainEntry e s → (unitRec s unit.toNat).isSome = true → (unitOf s unit.toNat).noFit = false →
    ((unitOf s unit.toNat).state = 0 ∨ (unitOf s unit.toNat).state = 5) → Completes (.captureRearm e unit) s fun t =>
      Answered s .ok t ∧ (unitOf t unit.toNat).state = 1) ∧
  (∀ s e, PlainEntry e s → s.boot.step ≠ 15 → s.fcl.contained = true → Completes (.faultClear e 1) s fun t =>
    Answered s .ok t ∧ t.fcl.contained = false) ∧
  (∀ s e, PlainEntry e s → s.boot.step ≠ 15 → s.fcl.fatal = true → Completes (.faultClear e 0) s fun t =>
    Answered s .ok t ∧ t.fcl.provisional = true ∧ t.fcl.fatal = true) ∧
  (∀ s e (unit : BitVec 16), PlainEntry e s → graftRefused s unit.toNat = none → Completes (.graft e unit) s fun t =>
    t.fcl.graft = some ⟨unit.toNat, .host (nextKey s), false⟩ ∧ t.hif.grafting = some (nextKey s, unit.toNat)) ∧
  (∀ s t0 g, s.fcl.graft = some g → g.passed = false → g.unit < 0x48 → graftTestOk s g.unit = true →
    Completes (.graftSelftestDone true t0) s fun t =>
    t.fcl.graft = some { g with passed := true }) ∧
  (∀ s t0 g, s.fcl.graft = some g → g.passed = false → Completes (.graftSelftestDone false t0) s fun t =>
    t.fcl.graft = none ∧ t.fcl.graftResult = 2 ∧ t.hif.grafting = none)

/-- The management commands: the commissioning session, keys, the rollback counter, images and the directory, and the end of
a background command (R420 to R425, R446 to R449, R455 to R457, R482). -/
def Obligations.ManagementCommandsComplete : Prop :=
  (∀ s e (len : Byte) pw, PlainEntry e s → commissioning s = true → s.clo.pwLock = 0 → passwordOk len.toNat pw = true →
    s.clo.block = [] → Completes (.cloLogin e len pw) s fun t =>
      Answered s .ok t ∧ t.clo.session = true ∧ t.clo.failures = 0) ∧
  (∀ s e bytes, PlainEntry e s → s.hif.background = none → inSession s = true → bytes ≤ 65536 →
    Completes (.cloStage e 1 bytes) s fun t => t.hif.background = some (.host (nextKey s), .cloStage true bytes)) ∧
  (∀ s e h (len : Byte) pw, PlainEntry e s → s.hif.background = none → inSession s = true → s.clo.staged.isSome = true →
    Completes (.cloCommit e h false len pw) s fun t =>
      t.hif.background = some (.host (nextKey s), .cloCommit h.toNat false (slice pw 0 len.toNat))) ∧
  (∀ s e, PlainEntry e s → inSession s = true → Completes (.cloLogout e) s fun t =>
    Answered s .ok t ∧ t.clo.session = false ∧ t.clo.staged = none) ∧
  (∀ s e (ar slot : Byte) hash, PlainEntry e s → s.hif.background = none → noSlot ar.toNat slot.toNat = false →
    inSession s = true → emptySlot ((keySlots s (decide (ar.toNat = 1))).getD slot.toNat []) = true →
    Completes (.secKeyProgram e ar slot hash) s fun t => t.hif.background =
      some (.host (nextKey s), .keyProgram (decide (ar.toNat = 1)) slot.toNat (slice hash 0 32))) ∧
  (∀ s e (ar slot : Byte), PlainEntry e s → s.hif.background = none → noSlot ar.toNat slot.toNat = false →
    slotRevoked s (decide (ar.toNat = 1)) slot.toNat = false → revokeRefused s (decide (ar.toNat = 1)) slot.toNat = false →
    Completes (.secRevoke e ar slot) s fun t => t.hif.background =
      some (.host (nextKey s), .revoke (decide (ar.toNat = 1)) slot.toNat)) ∧
  (∀ s e, PlainEntry e s → 11 ≤ s.boot.step → s.boot.step ≠ 15 → s.fcl.fatal = false → s.fcl.inFlight = [] →
    Completes (.secConfirm e) s fun t => Answered s .ok t ∧ t.sec.rollback = max s.sec.rollback s.boot.secVer) ∧
  (∀ s e (slot : Byte) bytes, PlainEntry e s → s.hif.background = none → slot.toNat ≤ 1 → s.boot.dirCopy ≠ 0 →
    bytes ≤ s.boot.slotSize → s.boot.running ≠ slot.toNat + 1 → Completes (.imgWrite e slot bytes) s fun t =>
      t.hif.background = some (.host (nextKey s), .imgWrite (decide (slot.toNat = 1)) bytes)) ∧
  (∀ s e bytes, PlainEntry e s → s.hif.background = none → s.boot.mode = 2 → s.boot.step = 4 → bytes ≤ 64 * mib →
    Completes (.recoverGo e bytes) s fun t => t.hif.background = some (.host (nextKey s), .recoverGo bytes)) ∧
  (∀ s e dir, PlainEntry e s → s.hif.background = none → inSession s = true → Completes (.bootDirWrite e dir) s fun t =>
    t.hif.background = some (.host (nextKey s), .bootDirWrite (slice dir 0 60))) ∧
  (∀ s e code, s.hif.grafting = none → e.scope = false → Completes (.unknownCommand e code) s fun t =>
    Answered s .unknown t) ∧
  (∀ s t0 o slot hash, s.hif.background = some (o, .keyProgram false slot hash) →
    Completes (.backgroundCommandDone true true t0) s fun t =>
      t.hif.background = none ∧ t.sec.ks = s.sec.ks.set slot hash ∧ evtPending t 19 = true)

/-- Register accesses of the host (R7 to R11, R468, R469). -/
def Obligations.RegisterCommandsComplete : Prop :=
  (∀ s off v t0 r k, barReaches s off = true → RegMap.find off = some (r, k) → r.acc = .w1c →
    Completes (.registerWrite off v t0) s fun t =>
      rd t off = (rd s off &&& ~~~v) ||| (rd s off &&& setNow (advance t0 s) off)) ∧
  (∀ s off v t0 r k, barReaches s off = true → RegMap.find off = some (r, k) → r.acc = .rt → off ≠ Reg.TDC_CAL_REQ →
    ringAtOff off = none → (rtLimit s off v.toNat).2 = true → Completes (.registerWrite off v t0) s fun t =>
      rd t off = v &&& BitVec.ofNat 32 (rtLimit s off v.toNat).1) ∧
  (∀ s off, (readClears s off = true → freshNow s (rcKey s off) = none) → Completes (.rcRead off) s fun t =>
    t.hif.readData = readValue s off ∧ (readClears s off = true → off ≠ Reg.QSY_GROUP_LOST → off ≠ Reg.QSY_GROUP_HWM →
      off ≠ Reg.QSY_GROUP_STALL → rd t off = 0)) ∧
  (∀ s off f, readClears s off = true → freshNow s (rcKey s off) = some f → Completes (.rcRead off) s fun t =>
      t.hif.readData = f.was ∧ freshNow t (rcKey s off) = none ∧
      (off ≠ Reg.QSY_GROUP_LOST → off ≠ Reg.QSY_GROUP_STALL → rd t off = f.put)) ∧
  (∀ s off, pairLows.contains off = true → Completes (.readLowWord off) s fun t =>
    t.hif.readData = readValue s off ∧ Tab.look t.hif.shadow (off + 4) = some (regView s (off + 4))) ∧
  (∀ s, Completes .unsupportedRequest s fun t => (rd t Reg.HIF_STICKY).getLsbD 1 = true)

/-- The DMA rings: enable and disable, PROD, the delivery of an item, the close of a buffer, a read of host data (R470 to
R476). -/
def Obligations.RingCommandsComplete : Prop :=
  (∀ s h2c (stream : Fin 16) (ctrl : Word32), ringExists h2c stream = true → (ringOf s h2c stream).running = false →
    4 ≤ bits ctrl.toNat 0 5 → bits ctrl.toNat 0 5 ≤ 16 → Completes (.ringEnable h2c stream ctrl) s fun t =>
      (ringOf t h2c stream).running = true ∧ (ringOf t h2c stream).cons = 0 ∧ (ringOf t h2c stream).phase = true) ∧
  (∀ s h2c (stream : Fin 16) ctrl t0, ringExists h2c stream = true → Completes (.ringDisable h2c stream ctrl t0) s fun t =>
    (ringOf t h2c stream).running = false) ∧
  (∀ s (stream : Fin 16) (prod : Word32), bits prod.toNat 0 16 < ringSize s false stream →
    Completes (.c2hProdWrite stream prod) s fun t => rd t (Reg.HIF_C2H_PROD stream) = prod &&& 0xFFFF) ∧
  (∀ s (entry : Fin 64) desc hits t0 b, s.hkp.hardCut = false → rdb s (Fld.HIF_STREAM_MAP_enable entry) = true →
    linkStill s = false → (ringOf s false (rdf s (Fld.HIF_STREAM_MAP_c2h entry))).running = true →
    (ringOf s false (rdf s (Fld.HIF_STREAM_MAP_c2h entry))).rest = none →
    (ringOf s false (rdf s (Fld.HIF_STREAM_MAP_c2h entry))).buf = some b → queuedItem s entry ≠ [] →
    (queuedItem s entry).length ≤ b.room → firstCame s (rdf s (Fld.HIF_STREAM_MAP_c2h entry)) entry = true →
    Completes (.c2hItemDeliver entry desc hits t0) s fun t =>
      (queueOf t 4 entry).words = (queueOf s 4 entry).words.drop (queuedItem s entry).length ∧
      ∃ c, (ringOf t false (rdf s (Fld.HIF_STREAM_MAP_c2h entry))).buf = some c ∧ c.items = b.items + 1 ∧
        c.data.length = b.data.length + (queuedItem s entry).length) ∧
  (∀ s (stream : Fin 16) t0 b, (ringOf s false stream).buf = some b → b.data ≠ [] →
    rdf s (Fld.HIF_C2H_CTRL_close_us stream) ≠ 0 →
    b.stamp + rdf s (Fld.HIF_C2H_CTRL_close_us stream) * 64000 ≤ now (advance t0 s) →
    Completes (.bufferCloseTimeout stream t0) s fun t => (ringOf t false stream).buf = none ∧
      (ringOf t false stream).lastData = b.data) ∧
  (∀ s (stream : Fin 2) desc bytes t0, (ringOf s true stream).running = true → posted s true stream ≠ 0 →
    h2cWanted s stream ≠ 0 → descBad desc = false → desc.len ≠ 0 → Completes (.h2cReadDone stream desc bytes true t0) s fun t =>
      Tab.lookD t.hif.h2cData stream [] =
        Tab.lookD s.hif.h2cData stream [] ++ bytes.take (min desc.len (h2cWanted s stream)))

/-- Vectors, resets and states of the PCIe link (R464 to R467, R477 to R479). -/
def Obligations.PcieCommandsComplete : Prop :=
  (∀ s (v : Fin 64), s.hif.vecReq.getLsbD v = true →
    (∀ u, Tab.look s.hif.vecSent v = some u → u + rdf s Fld.HIF_IRQ_MOD_irq_mod * 64000 ≤ now s) →
    Completes (.msixSend v) s fun t => t.hif.vecReq.getLsbD v = false ∧ Tab.look t.hif.vecSent v = some (now s)) ∧
  (∀ s flr, Completes (.perst flr) s fun t => t.hif.cmds = [] ∧ t.hif.cmdCons = 0 ∧ t.hif.resets = s.hif.resets + 1 ∧
    t.hif.shadow = [] ∧ (flr = false → t.hif.linkUp = false)) ∧
  (∀ s, Completes (.pcieLinkDown false) s fun t => t.hif.linkUp = false ∧ t.hif.speed = 0 ∧ evtPending t 315 = true) ∧
  (∀ s, Completes (.pcieLinkDown true) s fun t => t.hif.d3hot = true ∧ t.hif.linkUp = s.hif.linkUp) ∧
  (∀ s, s.hif.d3hot = true → Completes .d0Return s fun t => t.hif.d3hot = false) ∧
  (∀ s speed width, 1 ≤ speed → speed ≤ 5 → [1, 2, 4, 8].contains width = true →
    Completes (.dataLinkUp speed width) s fun t =>
      t.hif.linkUp = true ∧ t.hif.speed = speed ∧ t.hif.width = width ∧ t.hif.negotiated = width) ∧
  (∀ s width, s.hif.linkUp = true → s.hif.widthOk = true → width = widthTarget s → width ≠ s.hif.width →
    Completes (.widthRetrainDone width) s fun t => t.hif.width = width)

/-- A fault message is logged and counted; a memory error is reported (R492 to R498, R515). -/
def Obligations.FaultCommandsComplete : Prop :=
  (∀ s m, msgNext m s = true → Completes (.faultMessage m) s fun t => t.fcl.logTotal = s.fcl.logTotal + 1 ∧
    Tab.look t.fcl.log (s.fcl.logTotal % 256) = some ⟨(msgWords m).1, (msgWords m).2⟩) ∧
  (∀ s m, m.cls = .fatal → s.fcl.fatal = false →
    (∀ c, Tab.look s.fcl.clears 91 = some c → c < m.stamp) → Completes (.faultMessage m) s fun t =>
    t.fcl.fatal = true ∧ t.fcl.fatalStamp = m.stamp ∧ t.clo.partStop = true) ∧
  (∀ s a uncorr t0, Completes (.memoryEccError (.config a) uncorr t0) s fun t => evtPending t 318 = true ∧
    ∃ m, t.fcl.inFlight = s.fcl.inFlight ++ [m] ∧ m.cls = (if uncorr then .fatal else .corrected) ∧
      m.kind = if uncorr then 0x201 else 0x200) ∧
  (∀ s t0, Completes (.memoryEccError .ledger true t0) s fun t => t.esq.ledBad = true)

/-- A step takes the command at the front of the queue and runs it on the block with the queue's rest. -/
def Obligations.FrontCommandRuns : Prop :=
  ∀ (c : Instr) (q : List Instr) (s : State), s.pending = c :: q → step s = exec c { s with pending := q }

/-- With no command waiting a step passes one TB edge while the core PLL runs, and nothing else (R47; that the empty queue
stands for a TB edge is the model's choice, log entry 2). -/
def Obligations.EmptyQueuePassesOneEdge : Prop :=
  ∀ s : State, s.pending = [] → ∃ t, step s = .next t ∧ OnlyChanges [.tb] s t ∧
    t.tb.n = (if s.tb.running then s.tb.n + 1 else s.tb.n) ∧ t.tb.phi = s.tb.phi ∧ t.tb.pllLock = s.tb.pllLock

/-- After reset (R12, R47, R317, R475, R499, R525): the TB counter holds 0 and waits for the first lock, every register word
reads its table's reset value, the queues are empty at their default depths, no DMA ring runs, no unit is fenced, no
acquisition, no sweep and no output is on, and no command waits. -/
def Obligations.ResetIsAsTheSpecGivesIt : Prop :=
  State.reset.tb.n = 0 ∧ State.reset.tb.everLock = false ∧ (∀ off, rd State.reset off = RegMap.reset off) ∧
  rd State.reset Reg.TBS_WARM_CFG = 0x00781401 ∧
  State.reset.qsy.queues = [] ∧ State.reset.qsy.depth = [32, 1024, 256, 8192, 4096, 1024, 2048, 256, 4096, 4096] ∧
  (∀ h2c n, (ringOf State.reset h2c n).running = false) ∧ State.reset.fcl.fenced = 0 ∧ State.reset.fcl.fatal = false ∧
  State.reset.esq.frame.active = false ∧ State.reset.esq.col.active = false ∧ State.reset.fib.active = false ∧
  (∀ x, (outSt State.reset x).hd = false ∧ (outSt State.reset x).ld = false) ∧ State.reset.pending = []

/-- No command touches the queue of waiting commands. -/
def Obligations.CommandsLeaveTheQueue : Prop :=
  ∀ (c : Instr) (s t : State), exec c s = .next t → t.pending = s.pending

/-- One-time-programmable bits are never undone, whatever command runs (R446, R447): a programmed hash stays, a blown revoke
fuse stays blown, the rollback counter does not fall. -/
def Obligations.OtpOnlyGrows : Prop :=
  ∀ s t : State, KeyJobFits s → step s = .next t → OtpGrows s t

/-- A key that is being programmed goes to a slot that is still empty, and every step keeps this (R447, R482). -/
def Obligations.KeyJobsKeepFitting : Prop :=
  ∀ s t : State, KeyJobFits s → step s = .next t → KeyJobFits t

/-- Every step keeps the byte memories of the tine cluster in canonical form and every tine's registers whole (R243, R244,
R256, R259, R261). -/
def Obligations.TineMemoriesStayCanonical : Prop :=
  ∀ s t : State, MemoriesCanonical s → TinesWhole s → step s = .next t → MemoriesCanonical t ∧ TinesWhole t

/-- The promises that every step keeps hold after reset. -/
def Obligations.ResetKeepsThePromises : Prop :=
  KeyJobFits State.reset ∧ MemoriesCanonical State.reset ∧ TinesWhole State.reset ∧ OtpGrows State.reset State.reset

/-- A host write outside the limits of an RT field is discarded as a whole and counted (R10): the registers selected through
one word, a ring's PROD beyond its ring, a ring's CTRL with a size outside 4 to 16 or while the ring runs. -/
def Obligations.RejectedWritesChangeNothing : Prop :=
  (∀ s off v t0 r k, barReaches s off = true → RegMap.find off = some (r, k) → r.acc = .rt → off ≠ Reg.TDC_CAL_REQ →
    (match ringAtOff off with
      | none => (rtLimit s off v.toNat).2 = false
      | some (h2c, n, 0x10) => bits v.toNat 0 5 ≠ 0 ∧
          ((ringOf s h2c n).running = true ∨ bits v.toNat 0 5 < 4 ∨ 16 < bits v.toNat 0 5)
      | some (h2c, n, 0x14) => ringSize s h2c n ≤ bits v.toNat 0 16
      | some (h2c, n, _) => (ringOf s h2c n).running = true) →
    Completes (.registerWrite off v t0) s fun t => OnlyChanges [.regs, .tb, .freeIdx] s t ∧
      (∀ x, x ≠ Reg.HIF_STICKY → x ≠ Reg.HIF_REJECT → rd t x = rd s x) ∧
      (bits (rd s Reg.HIF_REJECT).toNat 0 16 + 1 < 65536 →
        bits (rd t Reg.HIF_REJECT).toNat 0 16 = bits (rd s Reg.HIF_REJECT).toNat 0 16 + 1)) ∧
  (∀ s (stream : Fin 16) prod, ringSize s false stream ≤ bits prod.toNat 0 16 → Completes (.c2hProdWrite stream prod) s fun t =>
    (∀ x, x ≠ Reg.HIF_STICKY → x ≠ Reg.HIF_REJECT → rd t x = rd s x) ∧
    (bits (rd s Reg.HIF_REJECT).toNat 0 16 + 1 < 65536 →
      bits (rd t Reg.HIF_REJECT).toNat 0 16 = bits (rd s Reg.HIF_REJECT).toNat 0 16 + 1))

/-- After an accepted edge a channel ignores its input for 2 ns, which are 128 ticks (R51): an edge in that time is neither
stamped nor counted, on a strip channel, on a line of the calibration source, on a timestamp input, on the sweep trigger's
channel and on a link marker's channel. -/
def Obligations.DeadTimeHidesEdges : Prop :=
  (∀ s (chan : Fin 512) (tap : Fin 97) edge l, Tab.look s.tdc.lastEdge chan = some l → stampOf s chan edge tap < l + 128 →
    Completes (.coincidenceEdge chan tap edge) s fun t => t.tdc = s.tdc ∧ t.qsy = s.qsy) ∧
  (∀ s (line : Fin 532) (tap : Fin 97) t0 l, Tab.look s.tdc.lastEdge line = some l → stampOf s line t0 tap < l + 128 →
    Completes (.calSourceEdge line tap t0) s fun t => t.tdc = s.tdc ∧ t.qsy = s.qsy) ∧
  (∀ s (chan : Fin 16) rising (tap : Fin 97) tap2 edge l, (tsiOf s chan).lastAcc = some l →
    stampOf s (512 + s.tsu.lineOf.getD chan 0) edge tap - l < 128 →
    Completes (.tsiEdge chan rising tap tap2 edge) s fun t => t.tsu = s.tsu ∧ t.qsy = s.qsy ∧ t.regs = s.regs) ∧
  (∀ s (tap : Fin 97) tap2 edge l, Tab.look s.tsu.svcEdge 16 = some l →
    stampOf s (512 + s.tsu.lineOf.getD 16 0) edge tap < l + 128 →
    Completes (.adcTrigEdge tap tap2 edge) s fun t => t.fib = s.fib ∧ t.tsu = s.tsu ∧ t.regs = s.regs) ∧
  (∀ s port (tap : Fin 97) tap2 edge l, Tab.look s.tsu.svcEdge (markerChan port) = some l →
    stampOf s (512 + s.tsu.lineOf.getD (markerChan port) 0) edge tap < l + 128 →
    Completes (.commaDepart port tap tap2 edge) s fun t => t.plk = s.plk ∧ t.tsu = s.tsu) ∧
  (∀ s port (tap : Fin 97) tap2 edge l, Tab.look s.tsu.svcEdge (markerChan port) = some l →
    stampOf s (512 + s.tsu.lineOf.getD (markerChan port) 0) edge tap < l + 128 →
    Completes (.commaArrive port tap tap2 edge) s fun t => t.plk = s.plk ∧ t.tsu = s.tsu)

/-- What a full queue does with a word (R318, R319): an RT queue loses its oldest word, counts it and raises its event; a BP
queue loses nothing, and what the producer holds follows what is queued. -/
def Obligations.FullQueuesKeepTheirClass : Prop :=
  (∀ g i w s, (queueOf s g i).words.length = qDepth s g → 0 < qDepth s g → g < s.qsy.lostCt.length →
    (queueOf (pushRT g i w s) g i).words = (queueOf s g i).words.drop 1 ++ [⟨w, true, evenParity w true, true, 0⟩] ∧
    (queueOf (pushRT g i w s) g i).lost = true ∧
    (pushRT g i w s).qsy.lostCt.getD g 0 = min (s.qsy.lostCt.getD g 0 + 1) 4294967295 ∧
    evtPending (pushRT g i w s) (rtEvent g).1 = true ∧
    ∀ h j, (h, j) ≠ (g, i) → i < 1024 → j < 1024 → queueOf (pushRT g i w s) h j = queueOf s h j) ∧
  (∀ g i w s, (queueOf s g i).words.length < qDepth s g →
    (queueOf (pushRT g i w s) g i).words = (queueOf s g i).words ++ [⟨w, true, evenParity w true, true, 0⟩] ∧
    (queueOf (pushRT g i w s) g i).lost = (queueOf s g i).lost) ∧
  (∀ g i l s, let q := queueOf (pushBP g i l s) g i
    q.words ++ q.held = (queueOf s g i).words ++ (queueOf s g i).held ++ l ∧
    ((queueOf s g i).words.length ≤ qDepth s g → q.words.length ≤ qDepth s g))

/-- Placing a shot (R103, R120, R123): one that would start less than t_SP (2 us) after its bank's previous pulse is suppressed
as a spacing suppression, one that a sector's ledger refuses as a ledger suppression, and neither is charged nor uses the
grant; any other is placed once, its bank's last pulse is its own, and it uses one of the grant. -/
def Obligations.ShotsKeepTheirSpacing : Prop :=
  ∀ (i b : Nat) (s : State), b < 16 → i < 32 →
    let f := slotStart s i + 64 * dither s i b
    let t := placeShot i b s
    (((∃ l, Tab.look s.esq.lastPulse b = some l ∧ f < l + 128000) →
        t.esq.shots = s.esq.shots ∧ t.esq.lastPulse = s.esq.lastPulse ∧ t.esq.ledA = s.esq.ledA ∧ t.esq.ledB = s.esq.ledB ∧
        t.esq.col.left = s.esq.col.left ∧ (bankCol t b).sSpace = min ((bankCol s b).sSpace + 1) 63 ∧
        (bits (rd s Reg.ESQ_SUPP_SPACING).toNat 0 32 + 1 < 4294967296 →
          (rd t Reg.ESQ_SUPP_SPACING).toNat = (rd s Reg.ESQ_SUPP_SPACING).toNat + 1)) ∧
      ((∀ l, Tab.look s.esq.lastPulse b = some l → l + 128000 ≤ f) → ledgerRefusals s b f ≠ [] →
        t.esq.shots = s.esq.shots ∧ t.esq.lastPulse = s.esq.lastPulse ∧ t.esq.ledA = s.esq.ledA ∧ t.esq.ledB = s.esq.ledB ∧
        t.esq.col.left = s.esq.col.left) ∧
      ((∀ l, Tab.look s.esq.lastPulse b = some l → l + 128000 ≤ f) → ledgerRefusals s b f = [] → ledgerOk s b f = true →
        (∃ x, t.esq.shots = s.esq.shots ++ [x] ∧ x.bank = b ∧ x.tick = f ∧ x.fired = false) ∧
        Tab.look t.esq.lastPulse b = some f ∧ t.esq.col.left = s.esq.col.left - 1))

/-- Start-up ends in boot halt on a strap fault, which raises EVT 0, and on a failed known-answer test, which raises EVT 16
(R432, R448): BOOT_STATUS shows step 15 and no image runs. Neither edge of POR_N changes an OTP hash, a revoke fuse, the
rollback counter, the boot directory or the safety area. -/
def Obligations.StartUpHaltsOnStrapOrSelfTestFault : Prop :=
  (∀ s x, (x.bootMode = 1 ∧ x.commission = false ∨ x.bootMode ≠ 1 ∧ x.commission = true ∨
      x.bootMode = 3 ∧ s.sec.testLock = true ∨ x.testEn = true ∧ x.bootMode ≠ 3) →
    Completes (.porNRelease x) s fun t => t.boot.step = 15 ∧ t.boot.running = 0 ∧ evtPending t 0 = true ∧ t.clo.partStop = true) ∧
  (∀ s r, s.boot.step = 3 → r.present = true → 32 ≤ r.sizeMiB → r.sizeMiB ≤ 256 →
    dirHolds r.dir0 (r.sizeMiB * 1048576) = true ∨ dirHolds r.dir1 (r.sizeMiB * 1048576) = true →
    r.katOk = false → Completes (.nvmHeadersRead r) s fun t => t.boot.step = 15 ∧ t.boot.running = 0 ∧ evtPending t 16 = true) ∧
  (∀ s x, Completes (.porNRelease x) s fun t => t.sec.ks = s.sec.ks ∧ t.sec.ar = s.sec.ar ∧ t.sec.ksRevoked = s.sec.ksRevoked ∧
    t.sec.arRevoked = s.sec.arRevoked ∧ t.sec.rollback = s.sec.rollback ∧ t.nvm.dir0 = s.nvm.dir0 ∧ t.nvm.dir1 = s.nvm.dir1 ∧
    t.nvm.safety = s.nvm.safety ∧ t.pending = s.pending) ∧
  (∀ s, Completes .porNAssert s fun t => t.sec.ks = s.sec.ks ∧ t.sec.ar = s.sec.ar ∧ t.sec.ksRevoked = s.sec.ksRevoked ∧
    t.sec.arRevoked = s.sec.arRevoked ∧ t.sec.rollback = s.sec.rollback ∧ t.nvm.dir0 = s.nvm.dir0 ∧ t.nvm.dir1 = s.nvm.dir1 ∧
    t.nvm.safety = s.nvm.safety ∧ t.pending = s.pending)

/-- The reaction to a fault message is by its class (R493, R496 to R500, R515): a message that others on the way precede waits; every message that is next joins the log of 256; a corrected one
changes no fence and no class state; a contained one fences the unit it names, or without a unit sets the contained state;
the first fatal one records its cause and stamp, raises EVT 316, stops the Cloche and begins the orderly stop; one in the
fatal state changes neither cause nor stamp. -/
def Obligations.FaultMessagesReactByClass : Prop :=
  (∀ s m, msgNext m s = true → Completes (.faultMessage m) s fun t => t.fcl.logTotal = s.fcl.logTotal + 1 ∧
    ∀ k < 256, k ≠ s.fcl.logTotal % 256 → Tab.look t.fcl.log k = Tab.look s.fcl.log k) ∧
  (∀ s m, m.cls = .corrected → Completes (.faultMessage m) s fun t => t.fcl.fenced = s.fcl.fenced ∧ t.fcl.cause = s.fcl.cause ∧
    t.fcl.fatal = s.fcl.fatal ∧ t.fcl.contained = s.fcl.contained ∧ t.clo = s.clo ∧ t.hkp = s.hkp) ∧
  (∀ s m u, msgNext m s = true → m.cls = .contained → fenceUnitOf m = some u → isFenced s u = false → Completes (.faultMessage m) s fun t =>
    isFenced t u = true ∧ ((∀ c, Tab.look s.fcl.clears u = some c → c < m.stamp) → t.fcl.cause.getLsbD u = true)) ∧
  (∀ s m, msgNext m s = true → m.cls = .contained → fenceUnitOf m = none → (∀ c, Tab.look s.fcl.clears 90 = some c → c < m.stamp) →
    Completes (.faultMessage m) s fun t => t.fcl.contained = true ∧ t.fcl.fenced = s.fcl.fenced) ∧
  (∀ s m, m.cls = .fatal → s.fcl.fatal = false → (∀ c, Tab.look s.fcl.clears 91 = some c → c < m.stamp) →
    Completes (.faultMessage m) s fun t =>
    t.fcl.fatalCause = (msgWords m).2.toNat % 4294967296 ∧ t.fcl.fatalStamp = m.stamp ∧ evtPending t 316 = true ∧
    t.clo.partStop = true ∧ (t.hkp.orderly = true ∨ s.hkp.hardCut = true)) ∧
  (∀ s m, msgNext m s = false → Completes (.faultMessage m) s fun t => t = s) ∧
  (∀ s m, m.cls = .fatal → s.fcl.fatal = true → s.fcl.provisional = false → Completes (.faultMessage m) s fun t =>
    t.fcl.fatal = true ∧ t.fcl.fatalCause = s.fcl.fatalCause ∧ t.fcl.fatalStamp = s.fcl.fatalStamp ∧ t.clo = s.clo)

/-- How a command of the ring that cannot run ends (R483, R485): an order whose named frame has passed ends with LATE, one
whose frame is neither ahead nor behind with LIMIT, one whose frame lies ahead waits for it; an entry of cascade scope at a
part that leads no chain ends with STATE, a second background command with BUSY, a unit or plan that the image lacks with
LIMIT, a command outside a commissioning session with STATE. -/
def Obligations.CommandsEndAsTheSpecSays : Prop :=
  (∀ s e (f : BitVec 24), s.hif.grafting = none → e.scope = false → e.frame = some f →
    let c := ctxOf s (sharedDom s)
    let d := (f.toNat + (16777216 - if c.begun then c.frame % 16777216 else 16777215)) % 16777216
    Completes (.nop e) s fun t => (d = 0 ∨ 8388608 < d → Answered s .late t) ∧ (d = 8388608 → Answered s .limit t) ∧
      (1 ≤ d → d < 8388608 → t.hif.deferred.length = s.hif.deferred.length + 1 ∧
        ∃ r, Tab.look t.hif.cmds (nextKey s) = some r ∧ r.done = false)) ∧
  (∀ s e, s.hif.grafting = none → e.scope = true → leadsChain s = false → Completes (.nop e) s fun t => Answered s .state t) ∧
  (∀ s e (fibre plan : Byte), PlainEntry e s → 1 < fibre.toNat → Completes (.planSelect e fibre plan) s fun t =>
    Answered s .limit t ∧ t.qsy.x8host = s.qsy.x8host) ∧
  (∀ s e (plan : Byte), PlainEntry e s → hasLidar s = true → planExists s false plan.toNat = false →
    Completes (.planSelect e 0 plan) s fun t => Answered s .limit t ∧ t.qsy.x8host = s.qsy.x8host) ∧
  (∀ s e (unit : Byte), PlainEntry e s → unitRec s unit.toNat = none → Completes (.captureRead e unit) s fun t =>
    Answered s .limit t) ∧
  (∀ s e (unit : BitVec 16) st, PlainEntry e s → graftRefused s unit.toNat = some st → Completes (.graft e unit) s fun t =>
    Answered s st t ∧ t.fcl.graft = s.fcl.graft) ∧
  (∀ s e (slot : Byte) bytes b, PlainEntry e s → slot.toNat ≤ 1 → s.boot.dirCopy ≠ 0 → bytes ≤ s.boot.slotSize →
    s.boot.running ≠ slot.toNat + 1 → s.hif.background = some b → Completes (.imgWrite e slot bytes) s fun t =>
      Answered s .busy t ∧ t.hif.background = some b) ∧
  (∀ s e (ar slot : Byte) hash, PlainEntry e s → s.hif.background = none → noSlot ar.toNat slot.toNat = false →
    inSession s = false → Completes (.secKeyProgram e ar slot hash) s fun t => Answered s .state t ∧ t.hif.background = none) ∧
  (∀ s e (len : Byte) pw, PlainEntry e s → commissioning s = true → s.clo.pwLock ≠ 0 → Completes (.cloLogin e len pw) s fun t =>
    Answered s .locked t ∧ t.clo.session = s.clo.session)

/-- What the instructions of a tine leave alone (R244 to R256): no instruction changes another tine or, with no transfer in
flight, the tine SRAM region or a byte of data memory, but a store the bytes it stores; a transfer that ends changes only
the bytes it writes. A result enters only its destination: ALU, MAC, accumulator, load and store, address and special
instructions leave every other register as it was, and branches, repeats and NOP leave them all. -/
def Obligations.TineInstructionsLeaveTheRest : Prop :=
  (∀ s t hd wide (d : Fin 16) (areg : Fin 8) mode imm, (tineOf s hd.tine).dma = [none, none] →
    exec (.tineLdst hd true wide d areg mode imm) s = .next t →
    (∀ a, (∀ i < (if wide then 4 else 2), a ≠ (aguAddress (tineOf s hd.tine) areg + i) % 65536) →
      Memory.read (tineOf t hd.tine).mem a = Memory.read (tineOf s hd.tine).mem a) ∧
    t.tin.sram = s.tin.sram ∧ ∀ k, k ≠ hd.tine.val → tineOf t k = tineOf s k) ∧
  (∀ s t (hd : TineHd) c, (tineOf s hd.tine).dma = [none, none] → exec c s = .next t →
    ((∃ op dst a b p u i, c = .tineAlu hd op dst a b p u i) ∨ (∃ op x y a b f g r u l m, c = .tineMac hd op x y a b f g r u l m) ∨
      (∃ op x y d p r n, c = .tineAcc hd op x y d p r n) ∨ (∃ w d a m i, c = .tineLdst hd false w d a m i) ∨
      (∃ op x y d i, c = .tineAddr hd op x y d i) ∨ (∃ a, c = .tineBr hd a) ∨ (∃ a, c = .tineCall hd a) ∨ c = .tineRet hd ∨
      (∃ d e n, c = .tineRep hd d e n) ∨ c = .tineNop hd ∨ c = .tineEnd hd ∨ (∃ op d r p, c = .tineSpec hd op d r p) ∨
      (∃ k d a r n, c = .tineDmaStart hd k d a r n) ∨ (∃ k, c = .tineDmaWait hd k) ∨ (∃ a d n, c = .tineEmit hd a d n)) →
    (tineOf t hd.tine).mem = (tineOf s hd.tine).mem ∧ t.tin.sram = s.tin.sram ∧ ∀ k, k ≠ hd.tine.val → tineOf t k = tineOf s k) ∧
  (∀ s t (tine : Fin 16) (chan : Fin 2) d, (tineOf s tine).dma.getD chan none = some d → exec (.tineDmaDone tine chan) s = .next t →
    (∀ a, (a < d.loc ∨ d.loc + 8 * d.len ≤ a ∨ d.toData = false) → Memory.read (tineOf t tine).mem a = Memory.read (tineOf s tine).mem a) ∧
    (∀ a, (a < d.remote ∨ d.remote + 8 * d.len ≤ a ∨ d.toData = true) → Memory.read t.tin.sram a = Memory.read s.tin.sram a) ∧
    (tineOf t tine).d = (tineOf s tine).d ∧ ∀ k, k ≠ tine.val → tineOf t k = tineOf s k) ∧
  (∀ s t (hd : TineHd) op (dst a b : Fin 16) pair u i, exec (.tineAlu hd op dst a b pair u i) s = .next t →
    let x := tineOf s hd.tine; let y := tineOf t hd.tine
    y.acc = x.acc ∧ y.a = x.a ∧ y.b = x.b ∧ y.l = x.l ∧ y.m = x.m ∧ y.calls = x.calls ∧ y.out = x.out ∧
    ∀ q, (if pair then q / 2 ≠ dst.val / 2 else q ≠ dst.val) → y.d.getD q 0 = x.d.getD q 0) ∧
  (∀ s t (hd : TineHd) op (x y : Fin 4) a b f g frac dual, exec (.tineMac hd op x y a b f g frac dual none none) s = .next t →
    let u := tineOf s hd.tine; let v := tineOf t hd.tine
    v.d = u.d ∧ v.a = u.a ∧ v.b = u.b ∧ v.l = u.l ∧ v.m = u.m ∧ v.calls = u.calls ∧ v.out = u.out ∧
    ∀ q, q ≠ x.val → (dual = true → q ≠ y.val) → v.acc.getD q 0 = u.acc.getD q 0) ∧
  (∀ s t (hd : TineHd) c, exec c s = .next t → ((∃ a, c = .tineBr hd a) ∨ (∃ d e n, c = .tineRep hd d e n) ∨ c = .tineNop hd) →
    let x := tineOf s hd.tine; let y := tineOf t hd.tine
    y.d = x.d ∧ y.acc = x.acc ∧ y.a = x.a ∧ y.b = x.b ∧ y.l = x.l ∧ y.m = x.m ∧ y.z = x.z ∧ y.n = x.n ∧ y.ovf = x.ovf ∧
    y.calls = x.calls ∧ y.out = x.out ∧ y.mem = x.mem) ∧
  (∀ s t (hd : TineHd) op (acc acc2 : Fin 4) (d : Fin 16) pair round shift, exec (.tineAcc hd op acc acc2 d pair round shift) s = .next t →
    let x := tineOf s hd.tine; let y := tineOf t hd.tine
    y.a = x.a ∧ y.b = x.b ∧ y.l = x.l ∧ y.m = x.m ∧ y.calls = x.calls ∧ y.out = x.out ∧ (op = .movd → y.z = x.z ∧ y.n = x.n) ∧
    (∀ q, q ≠ acc.val ∨ op = .movd → y.acc.getD q 0 = x.acc.getD q 0) ∧
    ∀ q, (if pair then q / 2 ≠ d.val / 2 else q ≠ d.val) ∨ op ≠ .movd → y.d.getD q 0 = x.d.getD q 0) ∧
  (∀ s t (hd : TineHd) op (dst src : Fin 16) pair, exec (.tineSpec hd op dst src pair) s = .next t →
    let x := tineOf s hd.tine; let y := tineOf t hd.tine
    y.acc = x.acc ∧ y.a = x.a ∧ y.b = x.b ∧ y.l = x.l ∧ y.m = x.m ∧ y.calls = x.calls ∧ y.out = x.out ∧ y.z = x.z ∧ y.n = x.n ∧
    ∀ q, (if pair = true ∨ op = .crc32c then q / 2 ≠ dst.val / 2 else q ≠ dst.val) → y.d.getD q 0 = x.d.getD q 0) ∧
  (∀ s t (hd : TineHd) op (r : Fin 8) tgt (d : Fin 16) imm, exec (.tineAddr hd op r tgt d imm) s = .next t →
    let x := tineOf s hd.tine; let y := tineOf t hd.tine
    y.acc = x.acc ∧ y.calls = x.calls ∧ y.out = x.out ∧ y.z = x.z ∧ y.n = x.n ∧ y.ovf = x.ovf ∧
    (∀ q, q ≠ r.val ∨ tgt ≠ .a ∨ op = .movad → y.a.getD q 0 = x.a.getD q 0) ∧
    (∀ q, q ≠ r.val ∨ tgt ≠ .b ∨ op = .movad → y.b.getD q 0 = x.b.getD q 0) ∧
    (∀ q, q ≠ r.val ∨ tgt ≠ .l ∨ op = .movad → y.l.getD q 0 = x.l.getD q 0) ∧
    (∀ q, q ≠ r.val ∨ tgt ≠ .m ∨ op = .movad → y.m.getD q 0 = x.m.getD q 0) ∧
    ∀ q, q ≠ d.val ∨ op ≠ .movad → y.d.getD q 0 = x.d.getD q 0) ∧
  (∀ s t (hd : TineHd) store wide (d : Fin 16) (areg : Fin 8) mode imm, exec (.tineLdst hd store wide d areg mode imm) s = .next t →
    let x := tineOf s hd.tine; let y := tineOf t hd.tine
    y.acc = x.acc ∧ y.b = x.b ∧ y.l = x.l ∧ y.m = x.m ∧ y.calls = x.calls ∧ y.out = x.out ∧ y.z = x.z ∧ y.n = x.n ∧ y.ovf = x.ovf ∧
    (∀ q, q ≠ areg.val ∨ mode = .none → y.a.getD q 0 = x.a.getD q 0) ∧
    ∀ q, (if wide then q / 2 ≠ d.val / 2 else q ≠ d.val) ∨ store = true → y.d.getD q 0 = x.d.getD q 0)

/-- After an evaluation cycle a safe output that no test pulse drives is on only while its chain is in RUN, the output is
enabled and not locked out, and no island fault and no part stop holds; then both its drives are 1, otherwise both are 0
(R406). -/
def Obligations.SafeOutputsAreOnOnlyInRun : Prop :=
  ∀ s hr lr t0, Completes (.evaluationCycle hr lr t0) s fun t => ∀ x : Fin 4, (outSt t x).test = none →
    (outSt t x).hd = (outSt t x).ld ∧
    ((outSt t x).hd = true → outEnabled t x = true ∧ (chainSt t (outChain t x)).state = 3 ∧ (outSt t x).locked = false ∧
      t.clo.island = 0 ∧ t.clo.partStop = false)

/-- Start-up, time base, arbiter, housekeeping and stop commands, POR_N apart, change only the parts named: none changes
the DMA rings, the background command or the fault log, and only the image and the first frame change the tines.
(R17, R21) -/
def Obligations.StartUpAndPowerCommandsFrame : Prop :=
  ∀ s : State,
  (let l : List Part := [.regs, .boot, .sec, .nvm, .tdc, .tsu, .esq, .hse, .fib, .cle, .queues, .cloche, .vectors,
    .messages]
   (∀ r, Frame l (.nvmHeadersRead r) s)) ∧
  (let l : List Part := [.regs, .cfg, .boot, .tb, .tdc, .tsu, .pfe, .esq, .hse, .fib, .tines, .cle, .queues,
    .mailboxItems, .ala, .portUp, .portDn, .lanes, .cloche, .vectors, .mailbox, .messages, .fences, .grafting,
    .freeIdx]
   (∀ bytes eccOk ms, Frame l (.imageStageDone bytes eccOk ms) s)) ∧
  (let l : List Part := [.regs, .boot, .tb, .tdc, .tsu, .pfe, .esq, .hse, .fib, .cle, .queues, .cloche, .vectors,
    .messages]
   (∀ sramOk failed t, Frame l (.bistDone sramOk failed t) s)) ∧
  (let l : List Part := [.regs, .boot, .tb, .tdc, .tsu, .pfe, .esq, .hse, .fib, .cle, .queues, .commissioning,
    .cloche, .vectors, .messages]
   (∀ r t, Frame l (.clocheSelftestDone r t) s)) ∧
  (let l : List Part := [.regs, .cfg, .boot, .tb, .tdc, .pfe, .esq, .hse, .fib, .queues, .portUp, .portDn, .cascade,
    .vectors, .messages, .freeIdx]
   (∀ t, Frame l (.startupCalDone t) s)) ∧
  (let l : List Part := [.regs, .boot, .tb, .esq, .vectors, .messages]
   (∀ rail time t, Frame l (.railMeasureDone rail time t) s)) ∧
  (let l : List Part := [.regs, .firstItem, .boot, .tb, .tdc, .tsu, .pfe, .esq, .hse, .fib, .fdc, .tae, .tines,
    .tinJobs, .cle, .asf, .mcd, .queues, .mailboxItems, .lostMarks, .ala, .portUp, .portDn, .merging, .cascade,
    .cloche, .x12, .vectors, .mailbox, .messages, .fences, .grafting, .faultState, .freeIdx]
   (∀ fibre t ms, Frame l (.firstFrameStart fibre t ms) s)) ∧
  (let l : List Part := [.regs, .tb, .vectors]
   Frame l .tbPllLocked s ∧ Frame l .tbsWarm s) ∧
  (let l : List Part := [.regs, .boot, .tdc, .tsu, .esq, .hse, .fib, .cle, .queues, .cloche, .vectors, .messages]
   Frame l .tbPllLockTimeout s) ∧
  (let l : List Part := [.regs, .tb, .tdc, .tsu, .esq, .hse, .fib, .queues, .vectors, .messages, .freeIdx]
   (∀ t, Frame l (.tbsPllLockLost t) s) ∧ (∀ t, Frame l (.tbsRefLost t) s)) ∧
  (let l : List Part := [.regs, .firstItem, .tb, .tdc, .tsu, .pfe, .esq, .mcd, .queues, .mailboxItems, .lostMarks,
    .ala, .hkp, .portUp, .portDn, .lanes, .merging, .cascade, .vectors, .mailbox, .messages, .fences, .grafting,
    .faultState, .freeIdx]
   (∀ r t, Frame l (.epochStart r t) s)) ∧
  (let l : List Part := [.regs, .tb, .ala, .vectors, .messages, .freeIdx]
   (∀ t, Frame l (.grantComputed t) s)) ∧
  (let l : List Part := [.regs, .tb, .tdc, .tsu, .pfe, .esq, .hse, .fib, .cle, .asf, .queues, .mailboxItems, .ala,
    .hkp, .portUp, .portDn, .lanes, .cloche, .vectors, .mailbox, .messages, .fences, .grafting, .pads, .faultState,
    .freeIdx]
   (∀ r t, Frame l (.housekeepingRound r t) s)) ∧
  (let l : List Part := [.regs, .boot, .tb, .tdc, .tsu, .esq, .hse, .fib, .cle, .queues, .mailboxItems, .ala, .hkp,
    .portUp, .portDn, .lanes, .cloche, .vectors, .mailbox, .messages, .fences, .grafting, .freeIdx]
   (∀ monitor t, Frame l (.supplyCollapse monitor t) s)) ∧
  (let l : List Part := [.tb, .tdc, .tsu, .esq, .hse, .fib, .queues]
   (∀ t, Frame l (.stopDeadline t) s)) ∧
  (let l : List Part := [.regs, .tb, .queues, .mailboxItems, .lostMarks, .ala, .hkp, .portUp, .portDn, .lanes,
    .vectors, .mailbox, .fences, .grafting, .freeIdx]
   (∀ t, Frame l (.queueDrainDone t) s))

/-- The commands of the emission sequencer, the photon front end and the histogram engine change only the parts named:
none changes the configuration, OTP, NVM, the DMA rings or the fault log, and only the boundaries change the tines.
(R17, R21) -/
def Obligations.LidarCommandsFrame : Prop :=
  ∀ s : State,
  (let l : List Part := [.regs, .firstItem, .tb, .tdc, .tsu, .pfe, .esq, .hse, .fib, .fdc, .tae, .tines, .tinJobs,
    .cle, .mcd, .queues, .mailboxItems, .lostMarks, .portUp, .portDn, .merging, .cascade, .cloche, .x12, .vectors,
    .mailbox, .messages, .fences, .grafting, .freeIdx]
   (∀ t, Frame l (.columnBoundary t) s)) ∧
  (let l : List Part := [.regs, .tb, .esq, .vectors, .freeIdx]
   (∀ t, Frame l (.indexEdge t) s) ∧ (∀ t, Frame l (.esqIndexMissing t) s)) ∧
  (let l : List Part := [.regs, .firstItem, .tb, .tdc, .tsu, .pfe, .esq, .hse, .fib, .fdc, .tae, .tines, .tinJobs,
    .cle, .asf, .mcd, .queues, .mailboxItems, .lostMarks, .ala, .portUp, .portDn, .merging, .cascade, .cloche, .x12,
    .vectors, .mailbox, .messages, .fences, .grafting, .faultState, .freeIdx]
   (∀ t, Frame l (.frameStart t) s)) ∧
  (let l : List Part := [.regs, .tb, .esq, .vectors, .messages, .freeIdx]
   (∀ slot t, Frame l (.slotDecision slot t) s)) ∧
  (let l : List Part := [.regs, .tb, .esq, .hse, .queues, .portUp, .portDn, .vectors, .messages, .freeIdx]
   (∀ bank t, Frame l (.shotFire bank t) s)) ∧
  (let l : List Part := [.tb, .pfe]
   (∀ bank t, Frame l (.blankStart bank t) s) ∧ (∀ bank t, Frame l (.blankEnd bank t) s) ∧
   (∀ chan spad t, Frame l (.spadRearm chan spad t) s) ∧ (∀ chan spad t, Frame l (.spadAvalanche chan spad t) s)) ∧
  (let l : List Part := [.regs, .tb, .tdc, .pfe, .queues, .vectors, .messages, .freeIdx]
   (∀ chan tap edge, Frame l (.coincidenceEdge chan tap edge) s)) ∧
  (let l : List Part := [.regs, .hse, .queues, .vectors, .messages, .freeIdx]
   (∀ chan parityOk, Frame l (.stampAccumulate chan parityOk) s)) ∧
  (let l : List Part := [.regs, .tb, .hse, .queues, .portUp, .portDn, .vectors, .messages, .freeIdx]
   (∀ bank t, Frame l (.confidenceUpdate bank t) s)) ∧
  (let l : List Part := [.regs, .tb, .hse, .vectors, .messages, .freeIdx]
   (∀ chan t, Frame l (.followerLock chan t) s) ∧ (∀ t, Frame l (.mergeDeadline t) s)) ∧
  (let l : List Part := [.regs, .firstItem, .tb, .tdc, .esq, .hse, .mcd, .queues, .lostMarks, .portUp, .portDn,
    .merging, .vectors, .messages, .freeIdx]
   (∀ strip ecc t, Frame l (.stripColumnDone strip ecc t) s)) ∧
  (let l : List Part := [.regs, .firstItem, .tb, .hse, .mcd, .queues, .lostMarks, .portUp, .portDn, .merging, .x12,
    .vectors, .messages, .freeIdx]
   (∀ t, Frame l (.fieldVerdict t) s)) ∧
  (let l : List Part := [.pfe]
   (∀ column counts nEn tQuiet, Frame l (.deepCounts column counts nEn tQuiet) s)) ∧
  (let l : List Part := [.esq]
   (∀ shots, Frame l (.deepFire shots) s)) ∧
  (let l : List Part := [.hse]
   (∀ chan lock windows, Frame l (.deepWin chan lock windows) s) ∧ (∀ chan h, Frame l (.deepHist chan h) s))

/-- Calibration and timestamp-input commands change only the TDC, the TSU, the queues their items pass and the parts
named with them. (R17, R21) -/
def Obligations.TimestampCommandsFrame : Prop :=
  ∀ s : State,
  (let l : List Part := [.regs, .firstItem, .tb, .tdc, .tsu, .mcd, .queues, .lostMarks, .portUp, .portDn, .merging,
    .vectors, .messages, .freeIdx]
   (∀ strip t, Frame l (.calPassEnd strip t) s)) ∧
  (let l : List Part := [.regs, .firstItem, .tb, .tdc, .mcd, .queues, .lostMarks, .portUp, .portDn, .merging,
    .vectors, .messages, .freeIdx]
   (∀ strip t, Frame l (.tdcCalStarved strip t) s)) ∧
  (let l : List Part := [.regs, .tb]
   (∀ mask t, Frame l (.tdcCalReq mask t) s)) ∧
  (let l : List Part := [.regs, .tb, .tdc, .tsu, .vectors, .messages]
   (∀ attempts t, Frame l (.auxRotationStep attempts t) s)) ∧
  (let l : List Part := [.regs, .tb, .tsu, .mcd, .queues, .portUp, .portDn, .merging, .vectors, .messages, .freeIdx]
   (∀ t, Frame l (.auxOverlapEnd t) s)) ∧
  (let l : List Part := [.regs, .firstItem, .tb, .tsu, .tae, .mcd, .queues, .lostMarks, .portUp, .portDn, .merging,
    .x12, .vectors, .messages, .freeIdx]
   (∀ chan rising tap tap2 edge, Frame l (.tsiEdge chan rising tap tap2 edge) s)) ∧
  (let l : List Part := [.tb, .tsu]
   (∀ chan t, Frame l (.windowOpen chan t) s)) ∧
  (let l : List Part := [.regs, .firstItem, .tb, .tsu, .mcd, .queues, .lostMarks, .portUp, .portDn, .merging, .x12,
    .vectors, .messages, .freeIdx]
   (∀ chan t, Frame l (.windowClose chan t) s)) ∧
  (let l : List Part := [.regs, .firstItem, .tb, .tsu, .mcd, .queues, .lostMarks, .portUp, .portDn, .merging,
    .vectors, .messages, .freeIdx]
   (∀ chan gate, Frame l (.estimatorGateEnd chan gate) s)) ∧
  (let l : List Part := [.tb, .tdc, .freeIdx]
   (∀ line tap t, Frame l (.calSourceEdge line tap t) s))

/-- The commands of the fibre interrogator, the down-converters and the capture units change only the parts named: none
changes the lidar sequencer but a sweep boundary, none the Cloche beyond its X12 messages. (R17, R21) -/
def Obligations.FibreCommandsFrame : Prop :=
  ∀ s : State,
  (let l : List Part := [.regs, .firstItem, .tb, .tdc, .tsu, .pfe, .esq, .fib, .fdc, .tae, .tines, .tinJobs, .cle,
    .asf, .mcd, .queues, .mailboxItems, .lostMarks, .ala, .portUp, .portDn, .merging, .cascade, .x12, .vectors,
    .mailbox, .messages, .fences, .grafting, .faultState, .freeIdx]
   (∀ t, Frame l (.sweepBoundary t) s)) ∧
  (let l : List Part := [.regs, .tb, .tsu, .fib, .freeIdx]
   (∀ tap tap2 edge, Frame l (.adcTrigEdge tap tap2 edge) s)) ∧
  (let l : List Part := [.regs, .tb, .fib, .vectors, .messages, .freeIdx]
   (∀ t, Frame l (.fibTrigMissing t) s) ∧ (∀ pair samples t, Frame l (.estimationBlockDone pair samples t) s)) ∧
  (let l : List Part := [.tb, .fib]
   (∀ gate t, Frame l (.aomgGateOpen gate t) s) ∧ (∀ gate t, Frame l (.aomgGateClose gate t) s) ∧
   (∀ pair t, Frame l (.fibCalCycleStart pair t) s)) ∧
  (let l : List Part := [.regs, .firstItem, .fib, .fdc, .mcd, .queues, .lostMarks, .portUp, .portDn, .merging,
    .vectors, .messages, .freeIdx]
   (∀ tone sweep samples lost, Frame l (.slotProcess tone sweep samples lost) s)) ∧
  (let l : List Part := [.regs, .firstItem, .fib, .tae, .mcd, .queues, .lostMarks, .portUp, .portDn, .merging, .x12,
    .vectors, .messages, .freeIdx]
   Frame l .zoneIntervalEnd s) ∧
  (let l : List Part := [.regs, .fib, .vectors]
   Frame l .endEvaluation s) ∧
  (let l : List Part := [.regs, .firstItem, .fib, .mcd, .queues, .lostMarks, .portUp, .portDn, .merging, .vectors,
    .messages, .freeIdx]
   Frame l .fibSurveyDone s ∧ Frame l .fibDtsProfile s) ∧
  (let l : List Part := [.fib, .freeIdx]
   Frame l .dtsBlockDone s) ∧
  (let l : List Part := [.regs, .fdc, .vectors, .freeIdx]
   (∀ chan vals rangeStep, Frame l (.fdcInput chan vals rangeStep) s)) ∧
  (let l : List Part := [.regs, .firstItem, .fdc, .mcd, .queues, .lostMarks, .portUp, .portDn, .merging, .vectors,
    .messages, .freeIdx]
   Frame l .fdcSweepItem s) ∧
  (let l : List Part := [.regs, .tae, .vectors, .messages]
   (∀ unit src item, Frame l (.captureItemArrive unit src item) s)) ∧
  (let l : List Part := [.regs, .firstItem, .tb, .tae, .mcd, .queues, .lostMarks, .portUp, .portDn, .merging,
    .vectors, .messages, .freeIdx]
   (∀ unit t, Frame l (.captureFrameClose unit t) s) ∧ (∀ t, Frame l (.refEvaluation t) s)) ∧
  (let l : List Part := [.regs, .firstItem, .tb, .tae, .mcd, .queues, .lostMarks, .portUp, .portDn, .merging,
    .vectors, .mailbox, .messages, .freeIdx]
   (∀ unit t, Frame l (.captureReadDone unit t) s)) ∧
  (let l : List Part := [.regs, .fib, .queues, .portUp, .portDn, .vectors, .messages, .freeIdx]
   (∀ conv att first vals, Frame l (.samples conv att first vals) s)) ∧
  (let l : List Part := [.regs, .tb, .fib, .queues, .portUp, .portDn, .vectors, .messages, .freeIdx]
   (∀ conv v t, Frame l (.adcSampleWord conv v t) s))

/-- The instructions and jobs of the tine cluster change only the tines, the jobs and the queues and ports their results
pass; none changes the configuration, the Cloche beyond its X12 messages, the fences or the fault log. (R17, R21) -/
def Obligations.TineCommandsFrame : Prop :=
  ∀ s : State,
  (let l : List Part := [.regs, .tinJobs, .vectors, .messages]
   (∀ slot input item, Frame l (.tineItemArrive slot input item) s)) ∧
  (let l : List Part := [.regs, .tinJobs, .mcd, .queues, .portUp, .portDn, .merging, .x12, .vectors, .messages,
    .freeIdx]
   (∀ slot, Frame l (.tineJobClose slot) s)) ∧
  (let l : List Part := [.regs, .tines, .tinJobs, .mcd, .queues, .portUp, .portDn, .merging, .x12, .vectors,
    .messages, .freeIdx]
   (∀ tine, Frame l (.tineJobDispatch tine) s) ∧
   (∀ hd op dst src1 src2 pair useImm imm, Frame l (.tineAlu hd op dst src1 src2 pair useImm imm) s) ∧
   (∀ hd op accA accB a1 a2 b1 b2 frac dual ld1 ld2, Frame l (.tineMac hd op accA accB a1 a2 b1 b2 frac dual ld1 ld2) s) ∧
   (∀ hd op acc acc2 d pair round shift, Frame l (.tineAcc hd op acc acc2 d pair round shift) s) ∧
   (∀ hd store wide d areg mode imm, Frame l (.tineLdst hd store wide d areg mode imm) s) ∧
   (∀ hd op x tgt d imm, Frame l (.tineAddr hd op x tgt d imm) s) ∧ (∀ hd target, Frame l (.tineBr hd target) s) ∧
   (∀ hd target, Frame l (.tineCall hd target) s) ∧ (∀ hd, Frame l (.tineRet hd) s) ∧
   (∀ hd fromD endIdx count, Frame l (.tineRep hd fromD endIdx count) s) ∧ (∀ hd, Frame l (.tineNop hd) s) ∧
   (∀ hd, Frame l (.tineEnd hd) s) ∧ (∀ hd op dst src pair, Frame l (.tineSpec hd op dst src pair) s) ∧
   (∀ hd chan toData areg remote len, Frame l (.tineDmaStart hd chan toData areg remote len) s) ∧
   (∀ hd chan, Frame l (.tineDmaWait hd chan) s) ∧
   (∀ hd areg fromD count, Frame l (.tineEmit hd areg fromD count) s) ∧ (∀ tine, Frame l (.tinStepLimit tine) s)) ∧
  (let l : List Part := [.tines, .freeIdx]
   (∀ tine chan, Frame l (.tineDmaDone tine chan) s)) ∧
  (let l : List Part := [.regs, .tb, .tines, .vectors, .messages, .freeIdx]
   (∀ tine mem uncorr t, Frame l (.tinEcc tine mem uncorr t) s))

/-- Control loops, aux channels, the Mulch codec, the queues and the control items change only the parts named. (R17,
R21) -/
def Obligations.ProcessingCommandsFrame : Prop :=
  ∀ s : State,
  (let l : List Part := [.regs, .tb, .cle, .vectors, .messages]
   (∀ loop lfb lsp t, Frame l (.loopSample loop lfb lsp t) s) ∧ (∀ loop t, Frame l (.cleSpLost loop t) s)) ∧
  (let l : List Part := [.cle, .freeIdx]
   (∀ loop g high, Frame l (.lspEdge loop g high) s)) ∧
  (let l : List Part := [.regs, .firstItem, .tb, .fdc, .cle, .asf, .mcd, .queues, .lostMarks, .portUp, .portDn,
    .merging, .vectors, .messages, .freeIdx]
   (∀ chan ratio saturated railed t, Frame l (.asfConversion chan ratio saturated railed t) s)) ∧
  (let l : List Part := [.regs, .mcd, .queues, .vectors, .mailbox, .fences, .grafting, .freeIdx]
   Frame l .mulchBlockStart s) ∧
  (let l : List Part := [.regs, .firstItem, .tb, .tae, .mcd, .queues, .lostMarks, .portUp, .portDn, .merging,
    .vectors, .messages, .freeIdx]
   (∀ engine verifyOk t, Frame l (.mulchBlockDone engine verifyOk t) s)) ∧
  (let l : List Part := [.queues]
   (∀ q, Frame l (.bpQueueSpace q) s)) ∧
  (let l : List Part := [.regs, .tb, .queues, .vectors]
   (∀ q t, Frame l (.qsyStall q t) s)) ∧
  (let l : List Part := [.regs, .fdc, .tinJobs, .mcd, .queues, .portUp, .portDn, .merging, .vectors, .messages,
    .freeIdx]
   (∀ blk item, Frame l (.planItem blk item) s) ∧ (∀ blk item, Frame l (.swapItem blk item) s)) ∧
  (let l : List Part := [.regs, .queues, .lostMarks, .vectors, .freeIdx]
   (∀ q src stream item, Frame l (.flushItem q src stream item) s)) ∧
  (let l : List Part := [.regs, .tinJobs, .mcd, .queues, .portUp, .portDn, .merging, .vectors, .messages, .freeIdx]
   (∀ blk item, Frame l (.grantItem blk item) s)) ∧
  (let l : List Part := [.regs, .mcd, .queues, .portUp, .portDn, .merging, .vectors, .messages, .fences, .freeIdx]
   (∀ blk item, Frame l (.fenceItem blk item) s) ∧ (∀ blk item, Frame l (.graftItem blk item) s)) ∧
  (let l : List Part := [.regs, .mcd, .queues, .portUp, .portDn, .merging, .vectors, .messages, .freeIdx]
   (∀ blk item, Frame l (.markItem blk item) s) ∧ (∀ blk item, Frame l (.calItem blk item) s))

/-- The commands of the link and the cascade change only the parts named: none changes the tines, the Cloche, the DMA
rings or the fault log. (R17, R21) -/
def Obligations.LinkCommandsFrame : Prop :=
  ∀ s : State,
  (let l : List Part := [.regs, .cfg, .boot, .tb, .esq, .hse, .fib, .queues, .portUp, .portDn, .lanes, .cascade,
    .vectors, .mailbox, .messages, .fences, .grafting, .freeIdx]
   (∀ lane rate miswired il t, Frame l (.laneTrained lane rate miswired il t) s) ∧
   (∀ port t, Frame l (.portAbsentTimeout port t) s)) ∧
  (let l : List Part := [.tb, .portUp, .portDn]
   (∀ t, Frame l (.dnRetryTimer t) s)) ∧
  (let l : List Part := [.regs, .tb, .portUp, .portDn, .lanes, .vectors, .mailbox, .messages, .fences, .grafting]
   (∀ lane t, Frame l (.laneExitTimeout lane t) s)) ∧
  (let l : List Part := [.regs, .tb, .portUp, .portDn, .lanes, .vectors, .messages, .freeIdx]
   (∀ lane t, Frame l (.fecUncorrectable lane t) s)) ∧
  (let l : List Part := [.regs, .tb, .portUp, .portDn, .vectors, .messages, .freeIdx]
   (∀ port vc dst bcast src words itemEnd seq t, Frame l (.startBlock port vc dst bcast src words itemEnd seq t) s)) ∧
  (let l : List Part := [.regs, .queues, .portUp, .portDn, .vectors, .messages, .freeIdx]
   (∀ port vc0 vc1 vc3, Frame l (.credit port vc0 vc1 vc3) s)) ∧
  (let l : List Part := [.regs, .portUp, .portDn, .lanes, .vectors, .mailbox, .fences, .grafting]
   (∀ port mask, Frame l (.laneStatus port mask) s) ∧ (∀ port count, Frame l (.laneRequest port count) s) ∧
   (∀ port, Frame l (.laneReady port) s) ∧ (∀ port mask, Frame l (.laneFenceNotice port mask) s)) ∧
  (let l : List Part := [.portUp, .portDn]
   (∀ port count, Frame l (.laneSwitch port count) s)) ∧
  (let l : List Part := [.regs, .cfg, .boot, .tb, .esq, .hse, .fib, .queues, .portUp, .portDn, .cascade, .vectors,
    .messages, .freeIdx]
   (∀ port t, Frame l (.vc0RetryTimeout port t) s) ∧ (∀ port t, Frame l (.attestVerifyDone port t) s) ∧
   (∀ t, Frame l (.enumTimeout t) s) ∧ (∀ t0 grants t, Frame l (.start t0 grants t) s)) ∧
  (let l : List Part := [.tb, .tsu, .portUp, .portDn]
   (∀ port tap tap2 edge, Frame l (.commaDepart port tap tap2 edge) s)) ∧
  (let l : List Part := [.regs, .tb, .tsu, .queues, .portUp, .portDn, .cascade, .vectors, .messages, .freeIdx]
   (∀ port tap tap2 edge, Frame l (.commaArrive port tap tap2 edge) s)) ∧
  (let l : List Part := [.regs, .queues, .portUp, .portDn, .cascade, .vectors, .messages, .freeIdx]
   (∀ sender nonce att, Frame l (.enum sender nonce att) s) ∧ (∀ addr, Frame l (.accept addr) s) ∧
   (∀ addr nonce, Frame l (.reenum addr nonce) s) ∧ (∀ addr offset, Frame l (.join addr offset) s)) ∧
  (let l : List Part := [.portUp, .portDn, .cascade]
   (∀ att, Frame l (.attest att) s) ∧ (∀ port reason, Frame l (.reject port reason) s)) ∧
  (let l : List Part := [.regs, .tb, .queues, .portUp, .portDn, .merging, .cascade, .vectors, .messages, .freeIdx]
   (∀ sig t, Frame l (.signDone sig t) s)) ∧
  (let l : List Part := [.regs, .cfg, .boot, .tb, .esq, .hse, .fib, .queues, .portUp, .portDn, .merging, .cascade,
    .vectors, .messages, .freeIdx]
   (∀ addr dnState cap t, Frame l (.capReport addr dnState cap t) s)) ∧
  (let l : List Part := [.regs, .cfg, .boot, .tb, .esq, .hse, .fib, .queues, .portUp, .portDn, .lanes, .cascade,
    .vectors, .messages, .freeIdx]
   (∀ port index depart arrive t, Frame l (.align port index depart arrive t) s)) ∧
  (let l : List Part := [.regs, .tb, .esq, .queues, .portUp, .portDn, .vectors, .messages, .freeIdx]
   (∀ fibre plan target t, Frame l (.swapPrepare fibre plan target t) s)) ∧
  (let l : List Part := [.regs, .esq, .queues, .portUp, .portDn, .vectors, .messages, .freeIdx]
   (∀ addr target, Frame l (.swapReady addr target) s) ∧ (∀ target, Frame l (.swapCommit target) s)) ∧
  (let l : List Part := [.regs, .esq, .queues, .portUp, .portDn, .vectors, .mailbox, .messages, .freeIdx]
   (∀ target, Frame l (.swapCancel target) s)) ∧
  (let l : List Part := [.regs, .queues, .portUp, .portDn, .merging, .vectors, .messages, .freeIdx]
   (∀ addr src stream frame, Frame l (.frameClose addr src stream frame) s)) ∧
  (let l : List Part := [.queues, .merging]
   (∀ src stream frame, Frame l (.mergeWaitExpire src stream frame) s)) ∧
  (let l : List Part := [.regs, .tb, .queues, .portUp, .portDn, .merging, .vectors, .messages, .freeIdx]
   (∀ item t, Frame l (.forwardedItem item t) s)) ∧
  (let l : List Part := [.lanes, .freeIdx]
   (∀ lane il, Frame l (.cableLengthUpdate lane il) s)) ∧
  (let l : List Part := [.regs, .freeIdx]
   (∀ port type, Frame l (.reservedLinkBlock port type) s) ∧ (∀ port type, Frame l (.reservedMessageType port type) s))

/-- Commands of the Cloche change no part but those named: none changes the configuration, the image, the OTP, an
acquisition block but the windows of a brake test, a tine, the command ring, a fence or the fault log. (R17, R21) -/
def Obligations.SafetyCommandsFrame : Prop :=
  ∀ s : State,
  (let l : List Part := [.regs, .firstItem, .nvm, .tb, .tsu, .mcd, .queues, .lostMarks, .portUp, .portDn, .merging,
    .commissioning, .cloche, .x12, .clocheView, .vectors, .bars, .messages, .freeIdx]
   (∀ hr lr t, Frame l (.evaluationCycle hr lr t) s)) ∧
  (let l : List Part := [.cloche]
   (∀ input level, Frame l (.safeInputChange input level) s) ∧ (∀ input, Frame l (.siFilterExpire input) s) ∧
   (∀ tp, Frame l (.testPulseStart tp) s) ∧ (∀ chain, Frame l (.twohandTimeout chain) s) ∧ Frame l .heartbeat s) ∧
  (let l : List Part := [.regs, .tb, .cloche, .vectors, .messages]
   (∀ tp atEnd after t, Frame l (.testPulseEnd tp atEnd after t) s) ∧
   (∀ chain button t, Frame l (.discrepancyTimeout chain button t) s) ∧
   (∀ out hr lr t, Frame l (.switchTestEnd out hr lr t) s) ∧
   (∀ out lowSide t, Frame l (.diagIntervalFault out lowSide t) s) ∧ (∀ t, Frame l (.heartbeatTimeout t) s) ∧
   (∀ t, Frame l (.partStop t) s) ∧ (∀ cause t, Frame l (.islandFault cause t) s) ∧
   (∀ frame tine t, Frame l (.verdictDeadline frame tine t) s) ∧
   (∀ interval t, Frame l (.classifierDeadline interval t) s) ∧ (∀ chain t, Frame l (.brakeTestOverdue chain t) s) ∧
   (∀ t, Frame l (.resetHoldTimeout t) s)) ∧
  (let l : List Part := [.regs, .cloche, .vectors, .messages]
   (∀ out lowSide hr lr, Frame l (.switchTest out lowSide hr lr) s)) ∧
  (let l : List Part := [.regs, .tb, .cloche, .x12, .vectors, .messages]
   (∀ frame words t, Frame l (.verdictWordArrive frame words t) s) ∧
   (∀ slot frame header words t, Frame l (.tineResultArrive slot frame header words t) s) ∧
   (∀ interval words t, Frame l (.zoneWordArrive interval words t) s)) ∧
  (let l : List Part := [.cloche, .vectors, .bars, .freeIdx]
   (∀ chain, Frame l (.brakeTestDue chain) s) ∧ (∀ chain, Frame l (.brakeResultTimeout chain) s)) ∧
  (let l : List Part := [.regs, .nvm, .cloche, .x12, .vectors, .bars, .messages, .freeIdx]
   (∀ chain enc1 count, Frame l (.brakeWindowResult chain enc1 count) s)) ∧
  (let l : List Part := [.nvm, .commissioning, .cloche]
   Frame l .poweredTimeTick s) ∧
  (let l : List Part := [.regs, .tb, .cloche, .vectors, .freeIdx]
   (∀ t, Frame l (.resetRelease t) s)) ∧
  (let l : List Part := [.tb, .cloche, .vectors, .bars, .freeIdx]
   (∀ conn t, Frame l (.bcTxPeriod conn t) s)) ∧
  (let l : List Part := [.regs, .tb, .cloche, .vectors, .bars, .freeIdx]
   (∀ conn msg t, Frame l (.bcMessageReceive conn msg t) s)) ∧
  (let l : List Part := [.regs, .tb, .cloche]
   (∀ conn t, Frame l (.bcTimeout conn t) s)) ∧
  (let l : List Part := [.bars]
   (∀ conn slot, Frame l (.inboundDoorbell conn slot) s)) ∧
  (let l : List Part := [.commissioning]
   Frame l .sessionTimeout s) ∧
  (let l : List Part := [.nvm, .commissioning]
   Frame l .passwordLockExpire s)

/-- The commands of the host, of the PCIe link and of the fault collector change only the parts named; the OTP is
changed by SEC_CONFIRM, the end of a background command and a relayed order alone. (R17, R21) -/
def Obligations.HostCommandsFrame : Prop :=
  ∀ s : State,
  (let l : List Part := [.regs, .firstItem, .sec, .nvm, .tb, .tdc, .pfe, .esq, .fib, .tae, .mcd, .queues,
    .mailboxItems, .lostMarks, .portUp, .portDn, .merging, .commissioning, .vectors, .rings, .mailbox, .background,
    .messages, .fences, .grafting, .faultState, .freeIdx]
   (∀ code args frame t, Frame l (.order code args frame t) s)) ∧
  (let l : List Part := [.regs, .firstItem, .tb, .tdc, .pfe, .esq, .fib, .tae, .mcd, .queues, .mailboxItems,
    .lostMarks, .portUp, .portDn, .merging, .vectors, .mailbox, .messages, .fences, .grafting, .faultState, .freeIdx]
   (∀ e, Frame l (.nop e) s) ∧ (∀ e fibre plan, Frame l (.planSelect e fibre plan) s) ∧
   (∀ e src stream, Frame l (.flush e src stream) s) ∧ (∀ e unit, Frame l (.captureTrigger e unit) s) ∧
   (∀ e unit, Frame l (.captureAbort e unit) s) ∧ (∀ e unit, Frame l (.captureRead e unit) s) ∧
   (∀ e unit, Frame l (.captureRelease e unit) s) ∧ (∀ e unit, Frame l (.captureRearm e unit) s) ∧
   (∀ e sel, Frame l (.faultClear e sel) s) ∧ (∀ e unit, Frame l (.graft e unit) s)) ∧
  (let l : List Part := [.regs, .cfg, .boot, .tb, .tdc, .pfe, .esq, .hse, .fib, .mcd, .queues, .mailboxItems,
    .portUp, .portDn, .lanes, .cascade, .vectors, .mailbox, .messages, .fences, .grafting, .freeIdx]
   (∀ pass t, Frame l (.graftSelftestDone pass t) s)) ∧
  (let l : List Part := [.regs, .nvm, .tb, .queues, .portUp, .portDn, .commissioning, .vectors, .mailbox, .messages,
    .freeIdx]
   (∀ e len password, Frame l (.cloLogin e len password) s)) ∧
  (let l : List Part := [.regs, .tb, .queues, .portUp, .portDn, .commissioning, .vectors, .rings, .mailbox,
    .background, .messages, .freeIdx]
   (∀ e src bytes, Frame l (.cloStage e src bytes) s) ∧
   (∀ e hostTime newPw len password, Frame l (.cloCommit e hostTime newPw len password) s)) ∧
  (let l : List Part := [.regs, .tb, .queues, .portUp, .portDn, .commissioning, .vectors, .mailbox, .messages,
    .freeIdx]
   (∀ e, Frame l (.cloLogout e) s)) ∧
  (let l : List Part := [.regs, .tb, .queues, .portUp, .portDn, .vectors, .rings, .mailbox, .background, .messages,
    .freeIdx]
   (∀ e ar slot hash, Frame l (.secKeyProgram e ar slot hash) s) ∧ (∀ e ar slot, Frame l (.secRevoke e ar slot) s) ∧
   (∀ e slot bytes, Frame l (.imgWrite e slot bytes) s) ∧ (∀ e bytes, Frame l (.recoverGo e bytes) s) ∧
   (∀ e dir, Frame l (.bootDirWrite e dir) s)) ∧
  (let l : List Part := [.regs, .sec, .tb, .queues, .portUp, .portDn, .vectors, .mailbox, .messages, .freeIdx]
   (∀ e, Frame l (.secConfirm e) s)) ∧
  (let l : List Part := [.regs, .tb, .vectors, .mailbox]
   (∀ e code, Frame l (.unknownCommand e code) s)) ∧
  (let l : List Part := [.regs, .cfg, .boot, .sec, .nvm, .tb, .pfe, .tines, .queues, .mailboxItems, .ala, .portUp,
    .portDn, .lanes, .commissioning, .vectors, .rings, .mailbox, .background, .messages, .fences, .grafting, .freeIdx]
   (∀ nvmOk dmaOk t, Frame l (.backgroundCommandDone nvmOk dmaOk t) s)) ∧
  (let l : List Part := [.regs, .tb, .vectors, .rings, .freeIdx]
   (∀ off v t, Frame l (.registerWrite off v t) s) ∧ (∀ h2c stream ctrl t, Frame l (.ringDisable h2c stream ctrl t) s)) ∧
  (let l : List Part := [.regs, .queues, .bars]
   (∀ off, Frame l (.rcRead off) s) ∧ (∀ off, Frame l (.readLowWord off) s)) ∧
  (let l : List Part := [.regs, .freeIdx]
   Frame l .unsupportedRequest s ∧ (∀ stream prod, Frame l (.c2hProdWrite stream prod) s)) ∧
  (let l : List Part := [.regs, .vectors, .rings, .freeIdx]
   (∀ h2c stream ctrl, Frame l (.ringEnable h2c stream ctrl) s)) ∧
  (let l : List Part := [.regs, .tb, .queues, .vectors, .rings, .messages, .freeIdx]
   (∀ entry desc hits t, Frame l (.c2hItemDeliver entry desc hits t) s)) ∧
  (let l : List Part := [.regs, .tb, .vectors, .rings]
   (∀ stream t, Frame l (.bufferCloseTimeout stream t) s)) ∧
  (let l : List Part := [.regs, .nvm, .tb, .vectors, .rings, .mailbox, .background, .messages]
   (∀ stream desc bytes ok t, Frame l (.h2cReadDone stream desc bytes ok t) s)) ∧
  (let l : List Part := [.vectors]
   (∀ vector, Frame l (.msixSend vector) s)) ∧
  (let l : List Part := [.regs, .link, .vectors, .rings, .mailbox, .bars]
   (∀ flr, Frame l (.perst flr) s)) ∧
  (let l : List Part := [.regs, .link, .vectors]
   (∀ d3hot, Frame l (.pcieLinkDown d3hot) s)) ∧
  (let l : List Part := [.link, .rings]
   Frame l .d0Return s) ∧
  (let l : List Part := [.regs, .cfg, .firstItem, .boot, .tdc, .pfe, .esq, .hse, .fib, .tae, .tines, .tinJobs, .mcd,
    .queues, .mailboxItems, .lostMarks, .hkp, .portUp, .portDn, .lanes, .merging, .cascade, .cloche, .vectors,
    .mailbox, .messages, .fences, .faultLog, .grafting, .faultState, .freeIdx]
   (∀ m, Frame l (.faultMessage m) s)) ∧
  (let l : List Part := [.regs, .firstItem, .tb, .esq, .tae, .mcd, .queues, .lostMarks, .portUp, .portDn, .merging,
    .vectors, .mailbox, .messages, .freeIdx]
   (∀ area uncorr t, Frame l (.memoryEccError area uncorr t) s)) ∧
  (let l : List Part := [.link]
   (∀ speed width, Frame l (.dataLinkUp speed width) s) ∧ (∀ width, Frame l (.widthRetrainDone width) s))

/-- A pass that is full moves its strip's attempt on, a starved one ends its cycle, a request marks the strips, the aux
lines rotate, and an order of the master is answered: each of these commands answers a next state (R57 to R59, R62, R65,
R67 to R69, R377, R483). -/
def Obligations.CalibrationAndOrderFormsAnswer : Prop :=
  (∀ s (strip : Fin 32) t0 c, calOf s strip = c → c.full = true → c.phase ≠ .idle →
    ∃ t, exec (.calPassEnd strip t0) s = .next t ∧
      (c.phase = .passA → ((c.old.zip c.counts).all fun p => trimsOk (newTrims p.1 p.2)) = true →
        (calOf t strip).phase = .passB ∧ (calOf t strip).passA = c.counts ∧ (calOf t strip).tested = true ∧
        (calOf t strip).began = t0) ∧
      (c.phase = .passB →
        (calOf t strip).phase = .passC ∧ (calOf t strip).passB = c.counts ∧ (calOf t strip).began = t0) ∧
      (c.phase = .passC → passesAgree s c.passB c.counts = true →
        (calOf t strip).phase = .idle ∧ (calOf t strip).last = 1 ∧ (calOf t strip).fails = 0 ∧ evtPending t 64 = true) ∧
      (c.phase = .passC → passesAgree s c.passB c.counts = false → c.attempt < 3 →
        (calOf t strip).phase = .passA ∧ (calOf t strip).last = 2 ∧ (calOf t strip).attempt = c.attempt + 1 ∧
        evtPending t 65 = true)) ∧
  (∀ s (strip : Fin 32) t0, (calOf s strip).phase ≠ .idle → (calOf s strip).kind ≠ .startup →
    rdf s Fld.TDC_CAL_TIMING_pass_timeout ≠ 0 →
    (calOf s strip).began + rdf s Fld.TDC_CAL_TIMING_pass_timeout * 6400000000 ≤ t0 →
    ∃ t, exec (.tdcCalStarved strip t0) s = .next t ∧ (calOf t strip).phase = .idle ∧ (calOf t strip).last = 4 ∧
      (calOf t strip).starvedAt = some t0 ∧ (calOf t strip).tested = false ∧ evtPending t 67 = true) ∧
  (∀ s (mask : Word32) t0, 6 ≤ s.boot.step → ∃ t, exec (.tdcCalReq mask t0) s = .next t ∧
    ∀ k : Fin 32, (rd t Reg.TDC_CAL_REQ).getLsbD k =
      ((rd s Reg.TDC_CAL_REQ).getLsbD k || (mask.getLsbD k && decide ((calOf s k).phase = .idle)))) ∧
  (∀ s att t0 l h, s.tsu.stopped = false → s.tsu.overlap = none → s.tdc.calDone = true →
    auxCycle 4 s (lineOf s (512 + s.tsu.spare)) att = some (some l, h) →
    ∃ t, exec (.auxRotationStep att t0) s = .next t ∧ t.tsu.overlap = some ⟨s.tsu.spare, s.tsu.nextChan, true⟩ ∧
      Tab.look t.tdc.lines (512 + s.tsu.spare) = some l) ∧
  (∀ s att t0 h, s.tsu.stopped = false → s.tsu.overlap = none → s.tdc.calDone = true →
    auxCycle 4 s (lineOf s (512 + s.tsu.spare)) att = some (none, h) →
    ∃ t, exec (.auxRotationStep att t0) s = .next t ∧ t.tsu.overlap = none ∧
      Tab.lookD t.tsu.auxFails s.tsu.spare 0 = Tab.lookD s.tsu.auxFails s.tsu.spare 0 + 1 ∧
      t.tsu.stopped = decide (3 ≤ Tab.lookD s.tsu.auxFails s.tsu.spare 0 + 1)) ∧
  (∀ s t0 o, s.tsu.overlap = some o → o.agree = true → ∃ t, exec (.auxOverlapEnd t0) s = .next t ∧
    t.tsu.overlap = none ∧ t.tsu.lineOf = s.tsu.lineOf.set o.chan o.line ∧ t.tsu.spare = s.tsu.lineOf.getD o.chan 0 ∧
    t.tsu.nextChan = (o.chan + 1) % 19 ∧ evtPending t 44 = true) ∧
  (∀ s t0 o, s.tsu.overlap = some o → o.agree = false → ∃ t, exec (.auxOverlapEnd t0) s = .next t ∧
    t.tsu.overlap = none ∧ t.tsu.lineOf = s.tsu.lineOf ∧
    Tab.lookD t.tsu.auxFails o.line 0 = Tab.lookD s.tsu.auxFails o.line 0 + 1) ∧
  (∀ s args (frame : BitVec 24) t0, hearsMaster s = true →
    judgeFrame (ctxOf s (sharedDom s)) (localFrame s frame.toNat) = .ahead →
    ∃ t, exec (.order 0x0301 args frame t0) s = .next t ∧ t.hif.orderFrame = frame.toNat ∧ t.hif.orderStat = 0 ∧
      t.hif.deferred = s.hif.deferred ++ [{
        code := 0x0301, arg := leAt args 8 1 + 256 * leAt args 9 1, dom := sharedDom s, frame := localFrame s frame.toNat,
        origin := .master, taken := now (advance t0 s), scope := 1 }]) ∧
  (∀ s args (frame : BitVec 24) t0, hearsMaster s = true →
    judgeFrame (ctxOf s (sharedDom s)) (localFrame s frame.toNat) = .late →
    ∃ t, exec (.order 0x0301 args frame t0) s = .next t ∧ t.hif.orderFrame = frame.toNat ∧
      t.hif.orderStat = Status.late.code ∧ t.hif.deferred = s.hif.deferred ∧ evtPending t 295 = true) ∧
  (∀ s args (frame : BitVec 24) t0, hearsMaster s = true → inSession s = true →
    ∃ t, exec (.order 0x0404 args frame t0) s = .next t ∧ t.hif.orderFrame = frame.toNat ∧
      t.hif.orderStat = Status.ok.code ∧ t.clo.session = false ∧ t.clo.staged = none)
end

