-- ==== Sys2Proof/Laws/KeepBase.lean ====
section
/-! SUPPORT. What an operation may change, as a set of parts written as the bits of a number, so that the lemma of one
operation serves the next by evaluation alone. `Keeps w s t`: going from `s` to `t` changes at most the parts whose
bits `w` has. -/

namespace Sys2Proof.Machine

/-- The bit of a part. -/
def Part.bit : Part → Nat
  | .regs => 0 | .cfg => 1 | .firstItem => 2 | .boot => 3 | .sec => 4 | .nvm => 5 | .tb => 6 | .tdc => 7 | .tsu => 8
  | .pfe => 9 | .esq => 10 | .hse => 11 | .fib => 12 | .fdc => 13 | .tae => 14 | .tines => 15 | .tinJobs => 16
  | .cle => 17 | .asf => 18 | .mcd => 19 | .queues => 20 | .mailboxItems => 21 | .lostMarks => 22 | .ala => 23
  | .hkp => 24 | .portUp => 25 | .portDn => 26 | .lanes => 27 | .merging => 28 | .cascade => 29
  | .commissioning => 30 | .cloche => 31 | .x12 => 32 | .clocheView => 33 | .link => 34 | .vectors => 35
  | .rings => 36 | .mailbox => 37 | .background => 38 | .bars => 39 | .messages => 40 | .fences => 41
  | .faultLog => 42 | .grafting => 43 | .pads => 44 | .faultState => 45 | .freeIdx => 46 | .pending => 47

/-- At most the parts whose bits `w` has change. -/
structure Keeps (w : Nat) (s t : State) : Prop where
  same : ∀ p : Part, w.testBit p.bit = false → p.same s t

theorem Keeps.rfl' {w s} : Keeps w s s := ⟨by intro p _; cases p <;> simp only [Part.same, and_self]⟩
theorem Keeps.ite {w s a b} {c : Prop} [Decidable c] (ha : Keeps w s a) (hb : Keeps w s b) : Keeps w s (if c then a else b) := by
  split <;> assumption
theorem Keeps.cut {w s} (a : State) {g : Prop} (ha : Keeps w s a) (hg : Keeps w s a → g) : g := hg ha
theorem Keeps.foldl {α} {w s} {f : State → α → State} {l : List α} {a : State} (hf : ∀ t x, Keeps w s t → Keeps w s (f t x))
    (ha : Keeps w s a) : Keeps w s (l.foldl f a) := by
  induction l generalizing a with
  | nil => exact ha
  | cons x r ih => exact ih (hf _ _ ha)
theorem mask_trans {a b w : Nat} (h1 : a &&& b = a) (h2 : b &&& w = b) : a &&& w = a := by
  rw [← h1, Nat.and_assoc, h2]
theorem mask_bit {w : Nat} {i : Nat} (h : 2^i &&& w = 2^i) : w.testBit i = true := by
  have := congrArg (·.testBit i) h
  simpa using this

theorem Keeps.set_ala {w s t} (h : Keeps w s t) (hw : 8388608 &&& w = 8388608) (v0) :
    Keeps w s { t with ala := v0 } := by
  constructor; intro p hp; have hs := h.same p hp
  have b23 := mask_bit (i := 23) (mask_trans (by decide) hw)
  cases p <;> first | exact hs | exact absurd hp (by simp [Part.bit, b23])
theorem Keeps.set_asf {w s t} (h : Keeps w s t) (hw : 262144 &&& w = 262144) (v0) :
    Keeps w s { t with asf := v0 } := by
  constructor; intro p hp; have hs := h.same p hp
  have b18 := mask_bit (i := 18) (mask_trans (by decide) hw)
  cases p <;> first | exact hs | exact absurd hp (by simp [Part.bit, b18])
theorem Keeps.set_boot {w s t} (h : Keeps w s t) (hw : 12 &&& w = 12) (v0) :
    Keeps w s { t with boot := v0 } := by
  constructor; intro p hp; have hs := h.same p hp
  have b2 := mask_bit (i := 2) (mask_trans (by decide) hw)
  have b3 := mask_bit (i := 3) (mask_trans (by decide) hw)
  cases p <;> first | exact hs | exact absurd hp (by simp [Part.bit, b2, b3])
theorem Keeps.set_boot_boot {w s t} (h : Keeps w s t) (hw : 8 &&& w = 8) (v0) (e0 : v0.firstDue = t.boot.firstDue ∧ v0.tFirst = t.boot.tFirst) :
    Keeps w s { t with boot := v0 } := by
  constructor; intro p hp; have hs := h.same p hp
  have b3 := mask_bit (i := 3) (mask_trans (by decide) hw)
  cases p <;> first | exact hs | (simp only [Part.same] at hs ⊢; simp only [e0, hs, and_self]; done) | exact absurd hp (by simp [Part.bit, b3])
theorem Keeps.set_boot_boot_esq {w s t} (h : Keeps w s t) (hw : 1032 &&& w = 1032) (v0) (e0 : v0.firstDue = t.boot.firstDue ∧ v0.tFirst = t.boot.tFirst) (v1) :
    Keeps w s { t with boot := v0, esq := v1 } := by
  constructor; intro p hp; have hs := h.same p hp
  have b3 := mask_bit (i := 3) (mask_trans (by decide) hw)
  have b10 := mask_bit (i := 10) (mask_trans (by decide) hw)
  cases p <;> first | exact hs | (simp only [Part.same] at hs ⊢; simp only [e0, hs, and_self]; done) | exact absurd hp (by simp [Part.bit, b3, b10])
theorem Keeps.set_boot_boot_nvm {w s t} (h : Keeps w s t) (hw : 40 &&& w = 40) (v0) (e0 : v0.firstDue = t.boot.firstDue ∧ v0.tFirst = t.boot.tFirst) (v1) :
    Keeps w s { t with boot := v0, nvm := v1 } := by
  constructor; intro p hp; have hs := h.same p hp
  have b3 := mask_bit (i := 3) (mask_trans (by decide) hw)
  have b5 := mask_bit (i := 5) (mask_trans (by decide) hw)
  cases p <;> first | exact hs | (simp only [Part.same] at hs ⊢; simp only [e0, hs, and_self]; done) | exact absurd hp (by simp [Part.bit, b3, b5])
theorem Keeps.set_boot_boot_pfe {w s t} (h : Keeps w s t) (hw : 520 &&& w = 520) (v0) (e0 : v0.firstDue = t.boot.firstDue ∧ v0.tFirst = t.boot.tFirst) (v1) :
    Keeps w s { t with boot := v0, pfe := v1 } := by
  constructor; intro p hp; have hs := h.same p hp
  have b3 := mask_bit (i := 3) (mask_trans (by decide) hw)
  have b9 := mask_bit (i := 9) (mask_trans (by decide) hw)
  cases p <;> first | exact hs | (simp only [Part.same] at hs ⊢; simp only [e0, hs, and_self]; done) | exact absurd hp (by simp [Part.bit, b3, b9])
theorem Keeps.set_boot_boot_sec {w s t} (h : Keeps w s t) (hw : 24 &&& w = 24) (v0) (e0 : v0.firstDue = t.boot.firstDue ∧ v0.tFirst = t.boot.tFirst) (v1) :
    Keeps w s { t with boot := v0, sec := v1 } := by
  constructor; intro p hp; have hs := h.same p hp
  have b3 := mask_bit (i := 3) (mask_trans (by decide) hw)
  have b4 := mask_bit (i := 4) (mask_trans (by decide) hw)
  cases p <;> first | exact hs | (simp only [Part.same] at hs ⊢; simp only [e0, hs, and_self]; done) | exact absurd hp (by simp [Part.bit, b3, b4])
theorem Keeps.set_boot_boot_tb {w s t} (h : Keeps w s t) (hw : 72 &&& w = 72) (v0) (e0 : v0.firstDue = t.boot.firstDue ∧ v0.tFirst = t.boot.tFirst) (v1) :
    Keeps w s { t with boot := v0, tb := v1 } := by
  constructor; intro p hp; have hs := h.same p hp
  have b3 := mask_bit (i := 3) (mask_trans (by decide) hw)
  have b6 := mask_bit (i := 6) (mask_trans (by decide) hw)
  cases p <;> first | exact hs | (simp only [Part.same] at hs ⊢; simp only [e0, hs, and_self]; done) | exact absurd hp (by simp [Part.bit, b3, b6])
theorem Keeps.set_boot_boot_tdc_pfe {w s t} (h : Keeps w s t) (hw : 648 &&& w = 648) (v0) (e0 : v0.firstDue = t.boot.firstDue ∧ v0.tFirst = t.boot.tFirst) (v1) (v2) :
    Keeps w s { t with boot := v0, tdc := v1, pfe := v2 } := by
  constructor; intro p hp; have hs := h.same p hp
  have b3 := mask_bit (i := 3) (mask_trans (by decide) hw)
  have b7 := mask_bit (i := 7) (mask_trans (by decide) hw)
  have b9 := mask_bit (i := 9) (mask_trans (by decide) hw)
  cases p <;> first | exact hs | (simp only [Part.same] at hs ⊢; simp only [e0, hs, and_self]; done) | exact absurd hp (by simp [Part.bit, b3, b7, b9])
theorem Keeps.set_boot_firstItem {w s t} (h : Keeps w s t) (hw : 4 &&& w = 4) (v0) (e0 : v0.step = t.boot.step ∧ v0.mode = t.boot.mode ∧ v0.straps = t.boot.straps ∧ v0.slotA = t.boot.slotA ∧ v0.slotB = t.boot.slotB ∧ v0.candidates = t.boot.candidates ∧ v0.tried = t.boot.tried ∧ v0.running = t.boot.running ∧ v0.fallback = t.boot.fallback ∧ v0.repro = t.boot.repro ∧ v0.imgGen = t.boot.imgGen ∧ v0.secVer = t.boot.secVer ∧ v0.keySlot = t.boot.keySlot ∧ v0.initPlans = t.boot.initPlans ∧ v0.digest = t.boot.digest ∧ v0.staged = t.boot.staged ∧ v0.recFail = t.boot.recFail ∧ v0.tLoaded = t.boot.tLoaded ∧ v0.nvmMiB = t.boot.nvmMiB ∧ v0.dirCopy = t.boot.dirCopy ∧ v0.slotSize = t.boot.slotSize ∧ v0.bistBanks = t.boot.bistBanks ∧ v0.bistSram = t.boot.bistSram ∧ v0.bistDone = t.boot.bistDone ∧ v0.firstAt = t.boot.firstAt) :
    Keeps w s { t with boot := v0 } := by
  constructor; intro p hp; have hs := h.same p hp
  have b2 := mask_bit (i := 2) (mask_trans (by decide) hw)
  cases p <;> first | exact hs | (simp only [Part.same] at hs ⊢; simp only [e0, hs, and_self]; done) | exact absurd hp (by simp [Part.bit, b2])
theorem Keeps.set_cfg {w s t} (h : Keeps w s t) (hw : 2 &&& w = 2) (v0) :
    Keeps w s { t with cfg := v0 } := by
  constructor; intro p hp; have hs := h.same p hp
  have b1 := mask_bit (i := 1) (mask_trans (by decide) hw)
  cases p <;> first | exact hs | exact absurd hp (by simp [Part.bit, b1])
theorem Keeps.set_cle {w s t} (h : Keeps w s t) (hw : 131072 &&& w = 131072) (v0) :
    Keeps w s { t with cle := v0 } := by
  constructor; intro p hp; have hs := h.same p hp
  have b17 := mask_bit (i := 17) (mask_trans (by decide) hw)
  cases p <;> first | exact hs | exact absurd hp (by simp [Part.bit, b17])
theorem Keeps.set_cloShown {w s t} (h : Keeps w s t) (hw : 8589934592 &&& w = 8589934592) (v0) :
    Keeps w s { t with cloShown := v0 } := by
  constructor; intro p hp; have hs := h.same p hp
  have b33 := mask_bit (i := 33) (mask_trans (by decide) hw)
  cases p <;> first | exact hs | exact absurd hp (by simp [Part.bit, b33])
theorem Keeps.set_clo_cloche {w s t} (h : Keeps w s t) (hw : 2147483648 &&& w = 2147483648) (v0) (e0 : v0.block = t.clo.block ∧ v0.staged = t.clo.staged ∧ v0.session = t.clo.session ∧ v0.sessionAt = t.clo.sessionAt ∧ v0.failures = t.clo.failures ∧ v0.pwLock = t.clo.pwLock ∧ v0.toSafe = t.clo.toSafe) :
    Keeps w s { t with clo := v0 } := by
  constructor; intro p hp; have hs := h.same p hp
  have b31 := mask_bit (i := 31) (mask_trans (by decide) hw)
  cases p <;> first | exact hs | (simp only [Part.same] at hs ⊢; simp only [e0, hs, and_self]; done) | exact absurd hp (by simp [Part.bit, b31])
theorem Keeps.set_clo_commissioning {w s t} (h : Keeps w s t) (hw : 1073741824 &&& w = 1073741824) (v0) (e0 : v0.inputs = t.clo.inputs ∧ v0.chains = t.clo.chains ∧ v0.outs = t.clo.outs ∧ v0.fields = t.clo.fields ∧ v0.zones = t.clo.zones ∧ v0.conns = t.clo.conns ∧ v0.passed = t.clo.passed ∧ v0.island = t.clo.island ∧ v0.partStop = t.clo.partStop ∧ v0.hbRun = t.clo.hbRun ∧ v0.cycles = t.clo.cycles ∧ v0.minutes = t.clo.minutes ∧ v0.written = t.clo.written ∧ v0.tpLow = t.clo.tpLow ∧ v0.blocked = t.clo.blocked ∧ v0.lowRun = t.clo.lowRun ∧ v0.press = t.clo.press ∧ v0.cyc = t.clo.cyc ∧ v0.hbGap = t.clo.hbGap ∧ v0.resumed = t.clo.resumed ∧ v0.bcEvent = t.clo.bcEvent ∧ v0.x12Bad = t.clo.x12Bad ∧ v0.toSafe = t.clo.toSafe) :
    Keeps w s { t with clo := v0 } := by
  constructor; intro p hp; have hs := h.same p hp
  have b30 := mask_bit (i := 30) (mask_trans (by decide) hw)
  cases p <;> first | exact hs | (simp only [Part.same] at hs ⊢; simp only [e0, hs, and_self]; done) | exact absurd hp (by simp [Part.bit, b30])
theorem Keeps.set_clo_commissioning_cloche {w s t} (h : Keeps w s t) (hw : 3221225472 &&& w = 3221225472) (v0) (e0 : v0.toSafe = t.clo.toSafe) :
    Keeps w s { t with clo := v0 } := by
  constructor; intro p hp; have hs := h.same p hp
  have b30 := mask_bit (i := 30) (mask_trans (by decide) hw)
  have b31 := mask_bit (i := 31) (mask_trans (by decide) hw)
  cases p <;> first | exact hs | (simp only [Part.same] at hs ⊢; simp only [e0, hs, and_self]; done) | exact absurd hp (by simp [Part.bit, b30, b31])
theorem Keeps.set_clo_x12 {w s t} (h : Keeps w s t) (hw : 4294967296 &&& w = 4294967296) (v0) (e0 : v0.block = t.clo.block ∧ v0.staged = t.clo.staged ∧ v0.session = t.clo.session ∧ v0.sessionAt = t.clo.sessionAt ∧ v0.failures = t.clo.failures ∧ v0.pwLock = t.clo.pwLock ∧ v0.inputs = t.clo.inputs ∧ v0.chains = t.clo.chains ∧ v0.outs = t.clo.outs ∧ v0.fields = t.clo.fields ∧ v0.zones = t.clo.zones ∧ v0.conns = t.clo.conns ∧ v0.passed = t.clo.passed ∧ v0.island = t.clo.island ∧ v0.partStop = t.clo.partStop ∧ v0.hbRun = t.clo.hbRun ∧ v0.cycles = t.clo.cycles ∧ v0.minutes = t.clo.minutes ∧ v0.written = t.clo.written ∧ v0.tpLow = t.clo.tpLow ∧ v0.blocked = t.clo.blocked ∧ v0.lowRun = t.clo.lowRun ∧ v0.press = t.clo.press ∧ v0.cyc = t.clo.cyc ∧ v0.hbGap = t.clo.hbGap ∧ v0.resumed = t.clo.resumed ∧ v0.bcEvent = t.clo.bcEvent ∧ v0.x12Bad = t.clo.x12Bad) :
    Keeps w s { t with clo := v0 } := by
  constructor; intro p hp; have hs := h.same p hp
  have b32 := mask_bit (i := 32) (mask_trans (by decide) hw)
  cases p <;> first | exact hs | (simp only [Part.same] at hs ⊢; simp only [e0, hs, and_self]; done) | exact absurd hp (by simp [Part.bit, b32])
theorem Keeps.set_esq {w s t} (h : Keeps w s t) (hw : 1024 &&& w = 1024) (v0) :
    Keeps w s { t with esq := v0 } := by
  constructor; intro p hp; have hs := h.same p hp
  have b10 := mask_bit (i := 10) (mask_trans (by decide) hw)
  cases p <;> first | exact hs | exact absurd hp (by simp [Part.bit, b10])
theorem Keeps.set_esq_ala_hkp_fcl_faultState {w s t} (h : Keeps w s t) (hw : 35184397255680 &&& w = 35184397255680) (v0) (v1) (v2) (v3) (e3 : v3.inFlight = t.fcl.inFlight ∧ v3.fenced = t.fcl.fenced ∧ v3.cause = t.fcl.cause ∧ v3.causeCond = t.fcl.causeCond ∧ v3.shown = t.fcl.shown ∧ v3.clears = t.fcl.clears ∧ v3.log = t.fcl.log ∧ v3.logTotal = t.fcl.logTotal ∧ v3.graft = t.fcl.graft ∧ v3.graftUnit = t.fcl.graftUnit ∧ v3.graftResult = t.fcl.graftResult ∧ v3.padP = t.fcl.padP ∧ v3.padN = t.fcl.padN) :
    Keeps w s { t with esq := v0, ala := v1, hkp := v2, fcl := v3 } := by
  constructor; intro p hp; have hs := h.same p hp
  have b10 := mask_bit (i := 10) (mask_trans (by decide) hw)
  have b23 := mask_bit (i := 23) (mask_trans (by decide) hw)
  have b24 := mask_bit (i := 24) (mask_trans (by decide) hw)
  have b45 := mask_bit (i := 45) (mask_trans (by decide) hw)
  cases p <;> first | exact hs | (simp only [Part.same] at hs ⊢; simp only [e3, hs, and_self]; done) | exact absurd hp (by simp [Part.bit, b10, b23, b24, b45])
theorem Keeps.set_esq_cle {w s t} (h : Keeps w s t) (hw : 132096 &&& w = 132096) (v0) (v1) :
    Keeps w s { t with esq := v0, cle := v1 } := by
  constructor; intro p hp; have hs := h.same p hp
  have b10 := mask_bit (i := 10) (mask_trans (by decide) hw)
  have b17 := mask_bit (i := 17) (mask_trans (by decide) hw)
  cases p <;> first | exact hs | exact absurd hp (by simp [Part.bit, b10, b17])
theorem Keeps.set_esq_fib {w s t} (h : Keeps w s t) (hw : 5120 &&& w = 5120) (v0) (v1) :
    Keeps w s { t with esq := v0, fib := v1 } := by
  constructor; intro p hp; have hs := h.same p hp
  have b10 := mask_bit (i := 10) (mask_trans (by decide) hw)
  have b12 := mask_bit (i := 12) (mask_trans (by decide) hw)
  cases p <;> first | exact hs | exact absurd hp (by simp [Part.bit, b10, b12])
theorem Keeps.set_esq_hkp {w s t} (h : Keeps w s t) (hw : 16778240 &&& w = 16778240) (v0) (v1) :
    Keeps w s { t with esq := v0, hkp := v1 } := by
  constructor; intro p hp; have hs := h.same p hp
  have b10 := mask_bit (i := 10) (mask_trans (by decide) hw)
  have b24 := mask_bit (i := 24) (mask_trans (by decide) hw)
  cases p <;> first | exact hs | exact absurd hp (by simp [Part.bit, b10, b24])
theorem Keeps.set_esq_hse {w s t} (h : Keeps w s t) (hw : 3072 &&& w = 3072) (v0) (v1) :
    Keeps w s { t with esq := v0, hse := v1 } := by
  constructor; intro p hp; have hs := h.same p hp
  have b10 := mask_bit (i := 10) (mask_trans (by decide) hw)
  have b11 := mask_bit (i := 11) (mask_trans (by decide) hw)
  cases p <;> first | exact hs | exact absurd hp (by simp [Part.bit, b10, b11])
theorem Keeps.set_fcl_faultLog {w s t} (h : Keeps w s t) (hw : 4398046511104 &&& w = 4398046511104) (v0) (e0 : v0.inFlight = t.fcl.inFlight ∧ v0.fenced = t.fcl.fenced ∧ v0.cause = t.fcl.cause ∧ v0.causeCond = t.fcl.causeCond ∧ v0.shown = t.fcl.shown ∧ v0.clears = t.fcl.clears ∧ v0.graft = t.fcl.graft ∧ v0.graftUnit = t.fcl.graftUnit ∧ v0.graftResult = t.fcl.graftResult ∧ v0.padP = t.fcl.padP ∧ v0.padN = t.fcl.padN ∧ v0.fatal = t.fcl.fatal ∧ v0.provisional = t.fcl.provisional ∧ v0.clearAt = t.fcl.clearAt ∧ v0.provEnd = t.fcl.provEnd ∧ v0.fatalCause = t.fcl.fatalCause ∧ v0.fatalStamp = t.fcl.fatalStamp ∧ v0.fatalCond = t.fcl.fatalCond ∧ v0.contained = t.fcl.contained ∧ v0.contCond = t.fcl.contCond) :
    Keeps w s { t with fcl := v0 } := by
  constructor; intro p hp; have hs := h.same p hp
  have b42 := mask_bit (i := 42) (mask_trans (by decide) hw)
  cases p <;> first | exact hs | (simp only [Part.same] at hs ⊢; simp only [e0, hs, and_self]; done) | exact absurd hp (by simp [Part.bit, b42])
theorem Keeps.set_fcl_faultState {w s t} (h : Keeps w s t) (hw : 35184372088832 &&& w = 35184372088832) (v0) (e0 : v0.inFlight = t.fcl.inFlight ∧ v0.fenced = t.fcl.fenced ∧ v0.cause = t.fcl.cause ∧ v0.causeCond = t.fcl.causeCond ∧ v0.shown = t.fcl.shown ∧ v0.clears = t.fcl.clears ∧ v0.log = t.fcl.log ∧ v0.logTotal = t.fcl.logTotal ∧ v0.graft = t.fcl.graft ∧ v0.graftUnit = t.fcl.graftUnit ∧ v0.graftResult = t.fcl.graftResult ∧ v0.padP = t.fcl.padP ∧ v0.padN = t.fcl.padN) :
    Keeps w s { t with fcl := v0 } := by
  constructor; intro p hp; have hs := h.same p hp
  have b45 := mask_bit (i := 45) (mask_trans (by decide) hw)
  cases p <;> first | exact hs | (simp only [Part.same] at hs ⊢; simp only [e0, hs, and_self]; done) | exact absurd hp (by simp [Part.bit, b45])
theorem Keeps.set_fcl_fences {w s t} (h : Keeps w s t) (hw : 2199023255552 &&& w = 2199023255552) (v0) (e0 : v0.inFlight = t.fcl.inFlight ∧ v0.log = t.fcl.log ∧ v0.logTotal = t.fcl.logTotal ∧ v0.graft = t.fcl.graft ∧ v0.graftUnit = t.fcl.graftUnit ∧ v0.graftResult = t.fcl.graftResult ∧ v0.padP = t.fcl.padP ∧ v0.padN = t.fcl.padN ∧ v0.fatal = t.fcl.fatal ∧ v0.provisional = t.fcl.provisional ∧ v0.clearAt = t.fcl.clearAt ∧ v0.provEnd = t.fcl.provEnd ∧ v0.fatalCause = t.fcl.fatalCause ∧ v0.fatalStamp = t.fcl.fatalStamp ∧ v0.fatalCond = t.fcl.fatalCond ∧ v0.contained = t.fcl.contained ∧ v0.contCond = t.fcl.contCond) :
    Keeps w s { t with fcl := v0 } := by
  constructor; intro p hp; have hs := h.same p hp
  have b41 := mask_bit (i := 41) (mask_trans (by decide) hw)
  cases p <;> first | exact hs | (simp only [Part.same] at hs ⊢; simp only [e0, hs, and_self]; done) | exact absurd hp (by simp [Part.bit, b41])
theorem Keeps.set_fcl_fences_faultState {w s t} (h : Keeps w s t) (hw : 37383395344384 &&& w = 37383395344384) (v0) (e0 : v0.inFlight = t.fcl.inFlight ∧ v0.log = t.fcl.log ∧ v0.logTotal = t.fcl.logTotal ∧ v0.graft = t.fcl.graft ∧ v0.graftUnit = t.fcl.graftUnit ∧ v0.graftResult = t.fcl.graftResult ∧ v0.padP = t.fcl.padP ∧ v0.padN = t.fcl.padN) :
    Keeps w s { t with fcl := v0 } := by
  constructor; intro p hp; have hs := h.same p hp
  have b41 := mask_bit (i := 41) (mask_trans (by decide) hw)
  have b45 := mask_bit (i := 45) (mask_trans (by decide) hw)
  cases p <;> first | exact hs | (simp only [Part.same] at hs ⊢; simp only [e0, hs, and_self]; done) | exact absurd hp (by simp [Part.bit, b41, b45])
theorem Keeps.set_fcl_grafting {w s t} (h : Keeps w s t) (hw : 8796093022208 &&& w = 8796093022208) (v0) (e0 : v0.inFlight = t.fcl.inFlight ∧ v0.fenced = t.fcl.fenced ∧ v0.cause = t.fcl.cause ∧ v0.causeCond = t.fcl.causeCond ∧ v0.shown = t.fcl.shown ∧ v0.clears = t.fcl.clears ∧ v0.log = t.fcl.log ∧ v0.logTotal = t.fcl.logTotal ∧ v0.padP = t.fcl.padP ∧ v0.padN = t.fcl.padN ∧ v0.fatal = t.fcl.fatal ∧ v0.provisional = t.fcl.provisional ∧ v0.clearAt = t.fcl.clearAt ∧ v0.provEnd = t.fcl.provEnd ∧ v0.fatalCause = t.fcl.fatalCause ∧ v0.fatalStamp = t.fcl.fatalStamp ∧ v0.fatalCond = t.fcl.fatalCond ∧ v0.contained = t.fcl.contained ∧ v0.contCond = t.fcl.contCond) :
    Keeps w s { t with fcl := v0 } := by
  constructor; intro p hp; have hs := h.same p hp
  have b43 := mask_bit (i := 43) (mask_trans (by decide) hw)
  cases p <;> first | exact hs | (simp only [Part.same] at hs ⊢; simp only [e0, hs, and_self]; done) | exact absurd hp (by simp [Part.bit, b43])
theorem Keeps.set_fcl_messages {w s t} (h : Keeps w s t) (hw : 1099511627776 &&& w = 1099511627776) (v0) (e0 : v0.fenced = t.fcl.fenced ∧ v0.cause = t.fcl.cause ∧ v0.causeCond = t.fcl.causeCond ∧ v0.shown = t.fcl.shown ∧ v0.clears = t.fcl.clears ∧ v0.log = t.fcl.log ∧ v0.logTotal = t.fcl.logTotal ∧ v0.graft = t.fcl.graft ∧ v0.graftUnit = t.fcl.graftUnit ∧ v0.graftResult = t.fcl.graftResult ∧ v0.padP = t.fcl.padP ∧ v0.padN = t.fcl.padN ∧ v0.fatal = t.fcl.fatal ∧ v0.provisional = t.fcl.provisional ∧ v0.clearAt = t.fcl.clearAt ∧ v0.provEnd = t.fcl.provEnd ∧ v0.fatalCause = t.fcl.fatalCause ∧ v0.fatalStamp = t.fcl.fatalStamp ∧ v0.fatalCond = t.fcl.fatalCond ∧ v0.contained = t.fcl.contained ∧ v0.contCond = t.fcl.contCond) :
    Keeps w s { t with fcl := v0 } := by
  constructor; intro p hp; have hs := h.same p hp
  have b40 := mask_bit (i := 40) (mask_trans (by decide) hw)
  cases p <;> first | exact hs | (simp only [Part.same] at hs ⊢; simp only [e0, hs, and_self]; done) | exact absurd hp (by simp [Part.bit, b40])
theorem Keeps.set_fcl_pads {w s t} (h : Keeps w s t) (hw : 17592186044416 &&& w = 17592186044416) (v0) (e0 : v0.inFlight = t.fcl.inFlight ∧ v0.fenced = t.fcl.fenced ∧ v0.cause = t.fcl.cause ∧ v0.causeCond = t.fcl.causeCond ∧ v0.shown = t.fcl.shown ∧ v0.clears = t.fcl.clears ∧ v0.log = t.fcl.log ∧ v0.logTotal = t.fcl.logTotal ∧ v0.graft = t.fcl.graft ∧ v0.graftUnit = t.fcl.graftUnit ∧ v0.graftResult = t.fcl.graftResult ∧ v0.fatal = t.fcl.fatal ∧ v0.provisional = t.fcl.provisional ∧ v0.clearAt = t.fcl.clearAt ∧ v0.provEnd = t.fcl.provEnd ∧ v0.fatalCause = t.fcl.fatalCause ∧ v0.fatalStamp = t.fcl.fatalStamp ∧ v0.fatalCond = t.fcl.fatalCond ∧ v0.contained = t.fcl.contained ∧ v0.contCond = t.fcl.contCond) :
    Keeps w s { t with fcl := v0 } := by
  constructor; intro p hp; have hs := h.same p hp
  have b44 := mask_bit (i := 44) (mask_trans (by decide) hw)
  cases p <;> first | exact hs | (simp only [Part.same] at hs ⊢; simp only [e0, hs, and_self]; done) | exact absurd hp (by simp [Part.bit, b44])
theorem Keeps.set_fdc {w s t} (h : Keeps w s t) (hw : 8192 &&& w = 8192) (v0) :
    Keeps w s { t with fdc := v0 } := by
  constructor; intro p hp; have hs := h.same p hp
  have b13 := mask_bit (i := 13) (mask_trans (by decide) hw)
  cases p <;> first | exact hs | exact absurd hp (by simp [Part.bit, b13])
theorem Keeps.set_fib {w s t} (h : Keeps w s t) (hw : 4096 &&& w = 4096) (v0) :
    Keeps w s { t with fib := v0 } := by
  constructor; intro p hp; have hs := h.same p hp
  have b12 := mask_bit (i := 12) (mask_trans (by decide) hw)
  cases p <;> first | exact hs | exact absurd hp (by simp [Part.bit, b12])
theorem Keeps.set_freeIdx {w s t} (h : Keeps w s t) (hw : 70368744177664 &&& w = 70368744177664) (v0) :
    Keeps w s { t with freeIdx := v0 } := by
  constructor; intro p hp; have hs := h.same p hp
  have b46 := mask_bit (i := 46) (mask_trans (by decide) hw)
  cases p <;> first | exact hs | exact absurd hp (by simp [Part.bit, b46])
theorem Keeps.set_fresh_hif_bars {w s t} (h : Keeps w s t) (hw : 549755813889 &&& w = 549755813889) (v0) (v1) (e1 : v1.linkUp = t.hif.linkUp ∧ v1.speed = t.hif.speed ∧ v1.width = t.hif.width ∧ v1.negotiated = t.hif.negotiated ∧ v1.d3hot = t.hif.d3hot ∧ v1.irqMode = t.hif.irqMode ∧ v1.widthOk = t.hif.widthOk ∧ v1.vecReq = t.hif.vecReq ∧ v1.vecSent = t.hif.vecSent ∧ v1.c2h = t.hif.c2h ∧ v1.h2c = t.hif.h2c ∧ v1.h2cData = t.hif.h2cData ∧ v1.lostItems = t.hif.lostItems ∧ v1.cmdProd = t.hif.cmdProd ∧ v1.cmdCons = t.hif.cmdCons ∧ v1.cmds = t.hif.cmds ∧ v1.grafting = t.hif.grafting ∧ v1.orderStat = t.hif.orderStat ∧ v1.orderFrame = t.hif.orderFrame ∧ v1.conflictL = t.hif.conflictL ∧ v1.conflictF = t.hif.conflictF ∧ v1.deferred = t.hif.deferred ∧ v1.background = t.hif.background) :
    Keeps w s { t with fresh := v0, hif := v1 } := by
  constructor; intro p hp; have hs := h.same p hp
  have b0 := mask_bit (i := 0) (mask_trans (by decide) hw)
  have b39 := mask_bit (i := 39) (mask_trans (by decide) hw)
  cases p <;> first | exact hs | (simp only [Part.same] at hs ⊢; simp only [e1, hs, and_self]; done) | exact absurd hp (by simp [Part.bit, b0, b39])
theorem Keeps.set_fresh_qsy_queues {w s t} (h : Keeps w s t) (hw : 1048577 &&& w = 1048577) (v0) (v1) (e1 : v1.x8host = t.qsy.x8host ∧ v1.x8int = t.qsy.x8int ∧ v1.lostBefore = t.qsy.lostBefore) :
    Keeps w s { t with fresh := v0, qsy := v1 } := by
  constructor; intro p hp; have hs := h.same p hp
  have b0 := mask_bit (i := 0) (mask_trans (by decide) hw)
  have b20 := mask_bit (i := 20) (mask_trans (by decide) hw)
  cases p <;> first | exact hs | (simp only [Part.same] at hs ⊢; simp only [e1, hs, and_self]; done) | exact absurd hp (by simp [Part.bit, b0, b20])
theorem Keeps.set_hif_bars {w s t} (h : Keeps w s t) (hw : 549755813888 &&& w = 549755813888) (v0) (e0 : v0.linkUp = t.hif.linkUp ∧ v0.speed = t.hif.speed ∧ v0.width = t.hif.width ∧ v0.negotiated = t.hif.negotiated ∧ v0.d3hot = t.hif.d3hot ∧ v0.irqMode = t.hif.irqMode ∧ v0.widthOk = t.hif.widthOk ∧ v0.vecReq = t.hif.vecReq ∧ v0.vecSent = t.hif.vecSent ∧ v0.c2h = t.hif.c2h ∧ v0.h2c = t.hif.h2c ∧ v0.h2cData = t.hif.h2cData ∧ v0.lostItems = t.hif.lostItems ∧ v0.cmdProd = t.hif.cmdProd ∧ v0.cmdCons = t.hif.cmdCons ∧ v0.cmds = t.hif.cmds ∧ v0.grafting = t.hif.grafting ∧ v0.orderStat = t.hif.orderStat ∧ v0.orderFrame = t.hif.orderFrame ∧ v0.conflictL = t.hif.conflictL ∧ v0.conflictF = t.hif.conflictF ∧ v0.deferred = t.hif.deferred ∧ v0.background = t.hif.background) :
    Keeps w s { t with hif := v0 } := by
  constructor; intro p hp; have hs := h.same p hp
  have b39 := mask_bit (i := 39) (mask_trans (by decide) hw)
  cases p <;> first | exact hs | (simp only [Part.same] at hs ⊢; simp only [e0, hs, and_self]; done) | exact absurd hp (by simp [Part.bit, b39])
theorem Keeps.set_hif_link {w s t} (h : Keeps w s t) (hw : 17179869184 &&& w = 17179869184) (v0) (e0 : v0.vecReq = t.hif.vecReq ∧ v0.vecSent = t.hif.vecSent ∧ v0.c2h = t.hif.c2h ∧ v0.h2c = t.hif.h2c ∧ v0.h2cData = t.hif.h2cData ∧ v0.lostItems = t.hif.lostItems ∧ v0.cmdProd = t.hif.cmdProd ∧ v0.cmdCons = t.hif.cmdCons ∧ v0.cmds = t.hif.cmds ∧ v0.grafting = t.hif.grafting ∧ v0.orderStat = t.hif.orderStat ∧ v0.orderFrame = t.hif.orderFrame ∧ v0.conflictL = t.hif.conflictL ∧ v0.conflictF = t.hif.conflictF ∧ v0.deferred = t.hif.deferred ∧ v0.background = t.hif.background ∧ v0.shadow = t.hif.shadow ∧ v0.resets = t.hif.resets ∧ v0.readData = t.hif.readData ∧ v0.bc = t.hif.bc) :
    Keeps w s { t with hif := v0 } := by
  constructor; intro p hp; have hs := h.same p hp
  have b34 := mask_bit (i := 34) (mask_trans (by decide) hw)
  cases p <;> first | exact hs | (simp only [Part.same] at hs ⊢; simp only [e0, hs, and_self]; done) | exact absurd hp (by simp [Part.bit, b34])
theorem Keeps.set_hif_link_vectors_rings_mailbox_bars {w s t} (h : Keeps w s t) (hw : 807453851648 &&& w = 807453851648) (v0) (e0 : v0.background = t.hif.background) :
    Keeps w s { t with hif := v0 } := by
  constructor; intro p hp; have hs := h.same p hp
  have b34 := mask_bit (i := 34) (mask_trans (by decide) hw)
  have b35 := mask_bit (i := 35) (mask_trans (by decide) hw)
  have b36 := mask_bit (i := 36) (mask_trans (by decide) hw)
  have b37 := mask_bit (i := 37) (mask_trans (by decide) hw)
  have b39 := mask_bit (i := 39) (mask_trans (by decide) hw)
  cases p <;> first | exact hs | (simp only [Part.same] at hs ⊢; simp only [e0, hs, and_self]; done) | exact absurd hp (by simp [Part.bit, b34, b35, b36, b37, b39])
theorem Keeps.set_hif_mailbox {w s t} (h : Keeps w s t) (hw : 137438953472 &&& w = 137438953472) (v0) (e0 : v0.linkUp = t.hif.linkUp ∧ v0.speed = t.hif.speed ∧ v0.width = t.hif.width ∧ v0.negotiated = t.hif.negotiated ∧ v0.d3hot = t.hif.d3hot ∧ v0.irqMode = t.hif.irqMode ∧ v0.widthOk = t.hif.widthOk ∧ v0.vecReq = t.hif.vecReq ∧ v0.vecSent = t.hif.vecSent ∧ v0.c2h = t.hif.c2h ∧ v0.h2c = t.hif.h2c ∧ v0.h2cData = t.hif.h2cData ∧ v0.lostItems = t.hif.lostItems ∧ v0.background = t.hif.background ∧ v0.shadow = t.hif.shadow ∧ v0.resets = t.hif.resets ∧ v0.readData = t.hif.readData ∧ v0.bc = t.hif.bc) :
    Keeps w s { t with hif := v0 } := by
  constructor; intro p hp; have hs := h.same p hp
  have b37 := mask_bit (i := 37) (mask_trans (by decide) hw)
  cases p <;> first | exact hs | (simp only [Part.same] at hs ⊢; simp only [e0, hs, and_self]; done) | exact absurd hp (by simp [Part.bit, b37])
theorem Keeps.set_hif_mailbox_fcl_grafting {w s t} (h : Keeps w s t) (hw : 8933531975680 &&& w = 8933531975680) (v0) (e0 : v0.linkUp = t.hif.linkUp ∧ v0.speed = t.hif.speed ∧ v0.width = t.hif.width ∧ v0.negotiated = t.hif.negotiated ∧ v0.d3hot = t.hif.d3hot ∧ v0.irqMode = t.hif.irqMode ∧ v0.widthOk = t.hif.widthOk ∧ v0.vecReq = t.hif.vecReq ∧ v0.vecSent = t.hif.vecSent ∧ v0.c2h = t.hif.c2h ∧ v0.h2c = t.hif.h2c ∧ v0.h2cData = t.hif.h2cData ∧ v0.lostItems = t.hif.lostItems ∧ v0.background = t.hif.background ∧ v0.shadow = t.hif.shadow ∧ v0.resets = t.hif.resets ∧ v0.readData = t.hif.readData ∧ v0.bc = t.hif.bc) (v1) (e1 : v1.inFlight = t.fcl.inFlight ∧ v1.fenced = t.fcl.fenced ∧ v1.cause = t.fcl.cause ∧ v1.causeCond = t.fcl.causeCond ∧ v1.shown = t.fcl.shown ∧ v1.clears = t.fcl.clears ∧ v1.log = t.fcl.log ∧ v1.logTotal = t.fcl.logTotal ∧ v1.padP = t.fcl.padP ∧ v1.padN = t.fcl.padN ∧ v1.fatal = t.fcl.fatal ∧ v1.provisional = t.fcl.provisional ∧ v1.clearAt = t.fcl.clearAt ∧ v1.provEnd = t.fcl.provEnd ∧ v1.fatalCause = t.fcl.fatalCause ∧ v1.fatalStamp = t.fcl.fatalStamp ∧ v1.fatalCond = t.fcl.fatalCond ∧ v1.contained = t.fcl.contained ∧ v1.contCond = t.fcl.contCond) :
    Keeps w s { t with hif := v0, fcl := v1 } := by
  constructor; intro p hp; have hs := h.same p hp
  have b37 := mask_bit (i := 37) (mask_trans (by decide) hw)
  have b43 := mask_bit (i := 43) (mask_trans (by decide) hw)
  cases p <;> first | exact hs | (simp only [Part.same] at hs ⊢; simp only [e0, e1, hs, and_self]; done) | exact absurd hp (by simp [Part.bit, b37, b43])
theorem Keeps.set_hif_rings {w s t} (h : Keeps w s t) (hw : 68719476736 &&& w = 68719476736) (v0) (e0 : v0.linkUp = t.hif.linkUp ∧ v0.speed = t.hif.speed ∧ v0.width = t.hif.width ∧ v0.negotiated = t.hif.negotiated ∧ v0.d3hot = t.hif.d3hot ∧ v0.irqMode = t.hif.irqMode ∧ v0.widthOk = t.hif.widthOk ∧ v0.vecReq = t.hif.vecReq ∧ v0.vecSent = t.hif.vecSent ∧ v0.cmdProd = t.hif.cmdProd ∧ v0.cmdCons = t.hif.cmdCons ∧ v0.cmds = t.hif.cmds ∧ v0.grafting = t.hif.grafting ∧ v0.orderStat = t.hif.orderStat ∧ v0.orderFrame = t.hif.orderFrame ∧ v0.conflictL = t.hif.conflictL ∧ v0.conflictF = t.hif.conflictF ∧ v0.deferred = t.hif.deferred ∧ v0.background = t.hif.background ∧ v0.shadow = t.hif.shadow ∧ v0.resets = t.hif.resets ∧ v0.readData = t.hif.readData ∧ v0.bc = t.hif.bc) :
    Keeps w s { t with hif := v0 } := by
  constructor; intro p hp; have hs := h.same p hp
  have b36 := mask_bit (i := 36) (mask_trans (by decide) hw)
  cases p <;> first | exact hs | (simp only [Part.same] at hs ⊢; simp only [e0, hs, and_self]; done) | exact absurd hp (by simp [Part.bit, b36])
theorem Keeps.set_hif_rings_background {w s t} (h : Keeps w s t) (hw : 343597383680 &&& w = 343597383680) (v0) (e0 : v0.linkUp = t.hif.linkUp ∧ v0.speed = t.hif.speed ∧ v0.width = t.hif.width ∧ v0.negotiated = t.hif.negotiated ∧ v0.d3hot = t.hif.d3hot ∧ v0.irqMode = t.hif.irqMode ∧ v0.widthOk = t.hif.widthOk ∧ v0.vecReq = t.hif.vecReq ∧ v0.vecSent = t.hif.vecSent ∧ v0.cmdProd = t.hif.cmdProd ∧ v0.cmdCons = t.hif.cmdCons ∧ v0.cmds = t.hif.cmds ∧ v0.grafting = t.hif.grafting ∧ v0.orderStat = t.hif.orderStat ∧ v0.orderFrame = t.hif.orderFrame ∧ v0.conflictL = t.hif.conflictL ∧ v0.conflictF = t.hif.conflictF ∧ v0.deferred = t.hif.deferred ∧ v0.shadow = t.hif.shadow ∧ v0.resets = t.hif.resets ∧ v0.readData = t.hif.readData ∧ v0.bc = t.hif.bc) :
    Keeps w s { t with hif := v0 } := by
  constructor; intro p hp; have hs := h.same p hp
  have b36 := mask_bit (i := 36) (mask_trans (by decide) hw)
  have b38 := mask_bit (i := 38) (mask_trans (by decide) hw)
  cases p <;> first | exact hs | (simp only [Part.same] at hs ⊢; simp only [e0, hs, and_self]; done) | exact absurd hp (by simp [Part.bit, b36, b38])
theorem Keeps.set_hif_vectors {w s t} (h : Keeps w s t) (hw : 34359738368 &&& w = 34359738368) (v0) (e0 : v0.linkUp = t.hif.linkUp ∧ v0.speed = t.hif.speed ∧ v0.width = t.hif.width ∧ v0.negotiated = t.hif.negotiated ∧ v0.d3hot = t.hif.d3hot ∧ v0.irqMode = t.hif.irqMode ∧ v0.widthOk = t.hif.widthOk ∧ v0.c2h = t.hif.c2h ∧ v0.h2c = t.hif.h2c ∧ v0.h2cData = t.hif.h2cData ∧ v0.lostItems = t.hif.lostItems ∧ v0.cmdProd = t.hif.cmdProd ∧ v0.cmdCons = t.hif.cmdCons ∧ v0.cmds = t.hif.cmds ∧ v0.grafting = t.hif.grafting ∧ v0.orderStat = t.hif.orderStat ∧ v0.orderFrame = t.hif.orderFrame ∧ v0.conflictL = t.hif.conflictL ∧ v0.conflictF = t.hif.conflictF ∧ v0.deferred = t.hif.deferred ∧ v0.background = t.hif.background ∧ v0.shadow = t.hif.shadow ∧ v0.resets = t.hif.resets ∧ v0.readData = t.hif.readData ∧ v0.bc = t.hif.bc) :
    Keeps w s { t with hif := v0 } := by
  constructor; intro p hp; have hs := h.same p hp
  have b35 := mask_bit (i := 35) (mask_trans (by decide) hw)
  cases p <;> first | exact hs | (simp only [Part.same] at hs ⊢; simp only [e0, hs, and_self]; done) | exact absurd hp (by simp [Part.bit, b35])
theorem Keeps.set_hkp {w s t} (h : Keeps w s t) (hw : 16777216 &&& w = 16777216) (v0) :
    Keeps w s { t with hkp := v0 } := by
  constructor; intro p hp; have hs := h.same p hp
  have b24 := mask_bit (i := 24) (mask_trans (by decide) hw)
  cases p <;> first | exact hs | exact absurd hp (by simp [Part.bit, b24])
theorem Keeps.set_hse {w s t} (h : Keeps w s t) (hw : 2048 &&& w = 2048) (v0) :
    Keeps w s { t with hse := v0 } := by
  constructor; intro p hp; have hs := h.same p hp
  have b11 := mask_bit (i := 11) (mask_trans (by decide) hw)
  cases p <;> first | exact hs | exact absurd hp (by simp [Part.bit, b11])
theorem Keeps.set_hse_tae {w s t} (h : Keeps w s t) (hw : 18432 &&& w = 18432) (v0) (v1) :
    Keeps w s { t with hse := v0, tae := v1 } := by
  constructor; intro p hp; have hs := h.same p hp
  have b11 := mask_bit (i := 11) (mask_trans (by decide) hw)
  have b14 := mask_bit (i := 14) (mask_trans (by decide) hw)
  cases p <;> first | exact hs | exact absurd hp (by simp [Part.bit, b11, b14])
theorem Keeps.set_hse_trl_cascade {w s t} (h : Keeps w s t) (hw : 536872960 &&& w = 536872960) (v0) (v1) (e1 : v1.merge = t.trl.merge ∧ v1.fwd = t.trl.fwd ∧ v1.ctlLast = t.trl.ctlLast) :
    Keeps w s { t with hse := v0, trl := v1 } := by
  constructor; intro p hp; have hs := h.same p hp
  have b11 := mask_bit (i := 11) (mask_trans (by decide) hw)
  have b29 := mask_bit (i := 29) (mask_trans (by decide) hw)
  cases p <;> first | exact hs | (simp only [Part.same] at hs ⊢; simp only [e1, hs, and_self]; done) | exact absurd hp (by simp [Part.bit, b11, b29])
theorem Keeps.set_mcd {w s t} (h : Keeps w s t) (hw : 524288 &&& w = 524288) (v0) :
    Keeps w s { t with mcd := v0 } := by
  constructor; intro p hp; have hs := h.same p hp
  have b19 := mask_bit (i := 19) (mask_trans (by decide) hw)
  cases p <;> first | exact hs | exact absurd hp (by simp [Part.bit, b19])
theorem Keeps.set_nvm {w s t} (h : Keeps w s t) (hw : 32 &&& w = 32) (v0) :
    Keeps w s { t with nvm := v0 } := by
  constructor; intro p hp; have hs := h.same p hp
  have b5 := mask_bit (i := 5) (mask_trans (by decide) hw)
  cases p <;> first | exact hs | exact absurd hp (by simp [Part.bit, b5])
theorem Keeps.set_pending {w s t} (h : Keeps w s t) (hw : 140737488355328 &&& w = 140737488355328) (v0) :
    Keeps w s { t with pending := v0 } := by
  constructor; intro p hp; have hs := h.same p hp
  have b47 := mask_bit (i := 47) (mask_trans (by decide) hw)
  cases p <;> first | exact hs | exact absurd hp (by simp [Part.bit, b47])
theorem Keeps.set_pfe {w s t} (h : Keeps w s t) (hw : 512 &&& w = 512) (v0) :
    Keeps w s { t with pfe := v0 } := by
  constructor; intro p hp; have hs := h.same p hp
  have b9 := mask_bit (i := 9) (mask_trans (by decide) hw)
  cases p <;> first | exact hs | exact absurd hp (by simp [Part.bit, b9])
theorem Keeps.set_pfe_esq_hse {w s t} (h : Keeps w s t) (hw : 3584 &&& w = 3584) (v0) (v1) (v2) :
    Keeps w s { t with pfe := v0, esq := v1, hse := v2 } := by
  constructor; intro p hp; have hs := h.same p hp
  have b9 := mask_bit (i := 9) (mask_trans (by decide) hw)
  have b10 := mask_bit (i := 10) (mask_trans (by decide) hw)
  have b11 := mask_bit (i := 11) (mask_trans (by decide) hw)
  cases p <;> first | exact hs | exact absurd hp (by simp [Part.bit, b9, b10, b11])
theorem Keeps.set_pfe_hse {w s t} (h : Keeps w s t) (hw : 2560 &&& w = 2560) (v0) (v1) :
    Keeps w s { t with pfe := v0, hse := v1 } := by
  constructor; intro p hp; have hs := h.same p hp
  have b9 := mask_bit (i := 9) (mask_trans (by decide) hw)
  have b11 := mask_bit (i := 11) (mask_trans (by decide) hw)
  cases p <;> first | exact hs | exact absurd hp (by simp [Part.bit, b9, b11])
theorem Keeps.set_plk_lanes {w s t} (h : Keeps w s t) (hw : 134217728 &&& w = 134217728) (v0) (e0 : v0.up = t.plk.up ∧ v0.dn = t.plk.dn) :
    Keeps w s { t with plk := v0 } := by
  constructor; intro p hp; have hs := h.same p hp
  have b27 := mask_bit (i := 27) (mask_trans (by decide) hw)
  cases p <;> first | exact hs | (simp only [Part.same] at hs ⊢; simp only [e0, hs, and_self]; done) | exact absurd hp (by simp [Part.bit, b27])
theorem Keeps.set_plk_portDn_trl_cascade {w s t} (h : Keeps w s t) (hw : 603979776 &&& w = 603979776) (v0) (e0 : v0.up = t.plk.up ∧ v0.lanes = t.plk.lanes) (v1) (e1 : v1.merge = t.trl.merge ∧ v1.fwd = t.trl.fwd ∧ v1.ctlLast = t.trl.ctlLast) :
    Keeps w s { t with plk := v0, trl := v1 } := by
  constructor; intro p hp; have hs := h.same p hp
  have b26 := mask_bit (i := 26) (mask_trans (by decide) hw)
  have b29 := mask_bit (i := 29) (mask_trans (by decide) hw)
  cases p <;> first | exact hs | (simp only [Part.same] at hs ⊢; simp only [e0, e1, hs, and_self]; done) | exact absurd hp (by simp [Part.bit, b26, b29])
theorem Keeps.set_plk_portUp_portDn {w s t} (h : Keeps w s t) (hw : 100663296 &&& w = 100663296) (v0) (e0 : v0.lanes = t.plk.lanes) :
    Keeps w s { t with plk := v0 } := by
  constructor; intro p hp; have hs := h.same p hp
  have b25 := mask_bit (i := 25) (mask_trans (by decide) hw)
  have b26 := mask_bit (i := 26) (mask_trans (by decide) hw)
  cases p <;> first | exact hs | (simp only [Part.same] at hs ⊢; simp only [e0, hs, and_self]; done) | exact absurd hp (by simp [Part.bit, b25, b26])
theorem Keeps.set_plk_portUp_portDn_trl_cascade {w s t} (h : Keeps w s t) (hw : 637534208 &&& w = 637534208) (v0) (e0 : v0.lanes = t.plk.lanes) (v1) (e1 : v1.merge = t.trl.merge ∧ v1.fwd = t.trl.fwd ∧ v1.ctlLast = t.trl.ctlLast) :
    Keeps w s { t with plk := v0, trl := v1 } := by
  constructor; intro p hp; have hs := h.same p hp
  have b25 := mask_bit (i := 25) (mask_trans (by decide) hw)
  have b26 := mask_bit (i := 26) (mask_trans (by decide) hw)
  have b29 := mask_bit (i := 29) (mask_trans (by decide) hw)
  cases p <;> first | exact hs | (simp only [Part.same] at hs ⊢; simp only [e0, e1, hs, and_self]; done) | exact absurd hp (by simp [Part.bit, b25, b26, b29])
theorem Keeps.set_qsy_lostMarks {w s t} (h : Keeps w s t) (hw : 4194304 &&& w = 4194304) (v0) (e0 : v0.queues = t.qsy.queues ∧ v0.depth = t.qsy.depth ∧ v0.hwm = t.qsy.hwm ∧ v0.lostCt = t.qsy.lostCt ∧ v0.stallCt = t.qsy.stallCt ∧ v0.x8host = t.qsy.x8host ∧ v0.x8int = t.qsy.x8int) :
    Keeps w s { t with qsy := v0 } := by
  constructor; intro p hp; have hs := h.same p hp
  have b22 := mask_bit (i := 22) (mask_trans (by decide) hw)
  cases p <;> first | exact hs | (simp only [Part.same] at hs ⊢; simp only [e0, hs, and_self]; done) | exact absurd hp (by simp [Part.bit, b22])
theorem Keeps.set_qsy_mailboxItems {w s t} (h : Keeps w s t) (hw : 2097152 &&& w = 2097152) (v0) (e0 : v0.queues = t.qsy.queues ∧ v0.depth = t.qsy.depth ∧ v0.hwm = t.qsy.hwm ∧ v0.lostCt = t.qsy.lostCt ∧ v0.stallCt = t.qsy.stallCt ∧ v0.lostBefore = t.qsy.lostBefore) :
    Keeps w s { t with qsy := v0 } := by
  constructor; intro p hp; have hs := h.same p hp
  have b21 := mask_bit (i := 21) (mask_trans (by decide) hw)
  cases p <;> first | exact hs | (simp only [Part.same] at hs ⊢; simp only [e0, hs, and_self]; done) | exact absurd hp (by simp [Part.bit, b21])
theorem Keeps.set_qsy_queues {w s t} (h : Keeps w s t) (hw : 1048576 &&& w = 1048576) (v0) (e0 : v0.x8host = t.qsy.x8host ∧ v0.x8int = t.qsy.x8int ∧ v0.lostBefore = t.qsy.lostBefore) :
    Keeps w s { t with qsy := v0 } := by
  constructor; intro p hp; have hs := h.same p hp
  have b20 := mask_bit (i := 20) (mask_trans (by decide) hw)
  cases p <;> first | exact hs | (simp only [Part.same] at hs ⊢; simp only [e0, hs, and_self]; done) | exact absurd hp (by simp [Part.bit, b20])
theorem Keeps.set_regs {w s t} (h : Keeps w s t) (hw : 1 &&& w = 1) (v0) :
    Keeps w s { t with regs := v0 } := by
  constructor; intro p hp; have hs := h.same p hp
  have b0 := mask_bit (i := 0) (mask_trans (by decide) hw)
  cases p <;> first | exact hs | exact absurd hp (by simp [Part.bit, b0])
theorem Keeps.set_regs_fresh {w s t} (h : Keeps w s t) (hw : 1 &&& w = 1) (v0) (v1) :
    Keeps w s { t with regs := v0, fresh := v1 } := by
  constructor; intro p hp; have hs := h.same p hp
  have b0 := mask_bit (i := 0) (mask_trans (by decide) hw)
  cases p <;> first | exact hs | exact absurd hp (by simp [Part.bit, b0])
theorem Keeps.set_regs_fresh_freeIdx {w s t} (h : Keeps w s t) (hw : 70368744177665 &&& w = 70368744177665) (v0) (v1) (v2) :
    Keeps w s { t with regs := v0, fresh := v1, freeIdx := v2 } := by
  constructor; intro p hp; have hs := h.same p hp
  have b0 := mask_bit (i := 0) (mask_trans (by decide) hw)
  have b46 := mask_bit (i := 46) (mask_trans (by decide) hw)
  cases p <;> first | exact hs | exact absurd hp (by simp [Part.bit, b0, b46])
theorem Keeps.set_regs_fresh_hif_vectors {w s t} (h : Keeps w s t) (hw : 34359738369 &&& w = 34359738369) (v0) (v1) (v2) (e2 : v2.linkUp = t.hif.linkUp ∧ v2.speed = t.hif.speed ∧ v2.width = t.hif.width ∧ v2.negotiated = t.hif.negotiated ∧ v2.d3hot = t.hif.d3hot ∧ v2.irqMode = t.hif.irqMode ∧ v2.widthOk = t.hif.widthOk ∧ v2.c2h = t.hif.c2h ∧ v2.h2c = t.hif.h2c ∧ v2.h2cData = t.hif.h2cData ∧ v2.lostItems = t.hif.lostItems ∧ v2.cmdProd = t.hif.cmdProd ∧ v2.cmdCons = t.hif.cmdCons ∧ v2.cmds = t.hif.cmds ∧ v2.grafting = t.hif.grafting ∧ v2.orderStat = t.hif.orderStat ∧ v2.orderFrame = t.hif.orderFrame ∧ v2.conflictL = t.hif.conflictL ∧ v2.conflictF = t.hif.conflictF ∧ v2.deferred = t.hif.deferred ∧ v2.background = t.hif.background ∧ v2.shadow = t.hif.shadow ∧ v2.resets = t.hif.resets ∧ v2.readData = t.hif.readData ∧ v2.bc = t.hif.bc) :
    Keeps w s { t with regs := v0, fresh := v1, hif := v2 } := by
  constructor; intro p hp; have hs := h.same p hp
  have b0 := mask_bit (i := 0) (mask_trans (by decide) hw)
  have b35 := mask_bit (i := 35) (mask_trans (by decide) hw)
  cases p <;> first | exact hs | (simp only [Part.same] at hs ⊢; simp only [e2, hs, and_self]; done) | exact absurd hp (by simp [Part.bit, b0, b35])
theorem Keeps.set_sec {w s t} (h : Keeps w s t) (hw : 16 &&& w = 16) (v0) :
    Keeps w s { t with sec := v0 } := by
  constructor; intro p hp; have hs := h.same p hp
  have b4 := mask_bit (i := 4) (mask_trans (by decide) hw)
  cases p <;> first | exact hs | exact absurd hp (by simp [Part.bit, b4])
theorem Keeps.set_tae {w s t} (h : Keeps w s t) (hw : 16384 &&& w = 16384) (v0) :
    Keeps w s { t with tae := v0 } := by
  constructor; intro p hp; have hs := h.same p hp
  have b14 := mask_bit (i := 14) (mask_trans (by decide) hw)
  cases p <;> first | exact hs | exact absurd hp (by simp [Part.bit, b14])
theorem Keeps.set_tae_freeIdx {w s t} (h : Keeps w s t) (hw : 70368744194048 &&& w = 70368744194048) (v0) (v1) :
    Keeps w s { t with tae := v0, freeIdx := v1 } := by
  constructor; intro p hp; have hs := h.same p hp
  have b14 := mask_bit (i := 14) (mask_trans (by decide) hw)
  have b46 := mask_bit (i := 46) (mask_trans (by decide) hw)
  cases p <;> first | exact hs | exact absurd hp (by simp [Part.bit, b14, b46])
theorem Keeps.set_tb {w s t} (h : Keeps w s t) (hw : 64 &&& w = 64) (v0) :
    Keeps w s { t with tb := v0 } := by
  constructor; intro p hp; have hs := h.same p hp
  have b6 := mask_bit (i := 6) (mask_trans (by decide) hw)
  cases p <;> first | exact hs | exact absurd hp (by simp [Part.bit, b6])
theorem Keeps.set_tb_esq {w s t} (h : Keeps w s t) (hw : 1088 &&& w = 1088) (v0) (v1) :
    Keeps w s { t with tb := v0, esq := v1 } := by
  constructor; intro p hp; have hs := h.same p hp
  have b6 := mask_bit (i := 6) (mask_trans (by decide) hw)
  have b10 := mask_bit (i := 10) (mask_trans (by decide) hw)
  cases p <;> first | exact hs | exact absurd hp (by simp [Part.bit, b6, b10])
theorem Keeps.set_tb_trl_cascade {w s t} (h : Keeps w s t) (hw : 536870976 &&& w = 536870976) (v0) (v1) (e1 : v1.merge = t.trl.merge ∧ v1.fwd = t.trl.fwd ∧ v1.ctlLast = t.trl.ctlLast) :
    Keeps w s { t with tb := v0, trl := v1 } := by
  constructor; intro p hp; have hs := h.same p hp
  have b6 := mask_bit (i := 6) (mask_trans (by decide) hw)
  have b29 := mask_bit (i := 29) (mask_trans (by decide) hw)
  cases p <;> first | exact hs | (simp only [Part.same] at hs ⊢; simp only [e1, hs, and_self]; done) | exact absurd hp (by simp [Part.bit, b6, b29])
theorem Keeps.set_tdc {w s t} (h : Keeps w s t) (hw : 128 &&& w = 128) (v0) :
    Keeps w s { t with tdc := v0 } := by
  constructor; intro p hp; have hs := h.same p hp
  have b7 := mask_bit (i := 7) (mask_trans (by decide) hw)
  cases p <;> first | exact hs | exact absurd hp (by simp [Part.bit, b7])
theorem Keeps.set_tdc_esq_hse_fib {w s t} (h : Keeps w s t) (hw : 7296 &&& w = 7296) (v0) (v1) (v2) (v3) :
    Keeps w s { t with tdc := v0, esq := v1, hse := v2, fib := v3 } := by
  constructor; intro p hp; have hs := h.same p hp
  have b7 := mask_bit (i := 7) (mask_trans (by decide) hw)
  have b10 := mask_bit (i := 10) (mask_trans (by decide) hw)
  have b11 := mask_bit (i := 11) (mask_trans (by decide) hw)
  have b12 := mask_bit (i := 12) (mask_trans (by decide) hw)
  cases p <;> first | exact hs | exact absurd hp (by simp [Part.bit, b7, b10, b11, b12])
theorem Keeps.set_tdc_freeIdx {w s t} (h : Keeps w s t) (hw : 70368744177792 &&& w = 70368744177792) (v0) (v1) :
    Keeps w s { t with tdc := v0, freeIdx := v1 } := by
  constructor; intro p hp; have hs := h.same p hp
  have b7 := mask_bit (i := 7) (mask_trans (by decide) hw)
  have b46 := mask_bit (i := 46) (mask_trans (by decide) hw)
  cases p <;> first | exact hs | exact absurd hp (by simp [Part.bit, b7, b46])
theorem Keeps.set_tdc_hse {w s t} (h : Keeps w s t) (hw : 2176 &&& w = 2176) (v0) (v1) :
    Keeps w s { t with tdc := v0, hse := v1 } := by
  constructor; intro p hp; have hs := h.same p hp
  have b7 := mask_bit (i := 7) (mask_trans (by decide) hw)
  have b11 := mask_bit (i := 11) (mask_trans (by decide) hw)
  cases p <;> first | exact hs | exact absurd hp (by simp [Part.bit, b7, b11])
theorem Keeps.set_tdc_pfe {w s t} (h : Keeps w s t) (hw : 640 &&& w = 640) (v0) (v1) :
    Keeps w s { t with tdc := v0, pfe := v1 } := by
  constructor; intro p hp; have hs := h.same p hp
  have b7 := mask_bit (i := 7) (mask_trans (by decide) hw)
  have b9 := mask_bit (i := 9) (mask_trans (by decide) hw)
  cases p <;> first | exact hs | exact absurd hp (by simp [Part.bit, b7, b9])
theorem Keeps.set_tdc_tsu {w s t} (h : Keeps w s t) (hw : 384 &&& w = 384) (v0) (v1) :
    Keeps w s { t with tdc := v0, tsu := v1 } := by
  constructor; intro p hp; have hs := h.same p hp
  have b7 := mask_bit (i := 7) (mask_trans (by decide) hw)
  have b8 := mask_bit (i := 8) (mask_trans (by decide) hw)
  cases p <;> first | exact hs | exact absurd hp (by simp [Part.bit, b7, b8])
theorem Keeps.set_tin_tinJobs {w s t} (h : Keeps w s t) (hw : 65536 &&& w = 65536) (v0) (e0 : v0.tines = t.tin.tines ∧ v0.sram = t.tin.sram ∧ v0.code = t.tin.code) :
    Keeps w s { t with tin := v0 } := by
  constructor; intro p hp; have hs := h.same p hp
  have b16 := mask_bit (i := 16) (mask_trans (by decide) hw)
  cases p <;> first | exact hs | (simp only [Part.same] at hs ⊢; simp only [e0, hs, and_self]; done) | exact absurd hp (by simp [Part.bit, b16])
theorem Keeps.set_tin_tines {w s t} (h : Keeps w s t) (hw : 32768 &&& w = 32768) (v0) (e0 : v0.slots = t.tin.slots ∧ v0.grant = t.tin.grant ∧ v0.beganL = t.tin.beganL ∧ v0.beganF = t.tin.beganF ∧ v0.evDef = t.tin.evDef ∧ v0.evOvf = t.tin.evOvf ∧ v0.evFind = t.tin.evFind) :
    Keeps w s { t with tin := v0 } := by
  constructor; intro p hp; have hs := h.same p hp
  have b15 := mask_bit (i := 15) (mask_trans (by decide) hw)
  cases p <;> first | exact hs | (simp only [Part.same] at hs ⊢; simp only [e0, hs, and_self]; done) | exact absurd hp (by simp [Part.bit, b15])
theorem Keeps.set_trl {w s t} (h : Keeps w s t) (hw : 805306368 &&& w = 805306368) (v0) :
    Keeps w s { t with trl := v0 } := by
  constructor; intro p hp; have hs := h.same p hp
  have b28 := mask_bit (i := 28) (mask_trans (by decide) hw)
  have b29 := mask_bit (i := 29) (mask_trans (by decide) hw)
  cases p <;> first | exact hs | exact absurd hp (by simp [Part.bit, b28, b29])
theorem Keeps.set_trl_cascade {w s t} (h : Keeps w s t) (hw : 536870912 &&& w = 536870912) (v0) (e0 : v0.merge = t.trl.merge ∧ v0.fwd = t.trl.fwd ∧ v0.ctlLast = t.trl.ctlLast) :
    Keeps w s { t with trl := v0 } := by
  constructor; intro p hp; have hs := h.same p hp
  have b29 := mask_bit (i := 29) (mask_trans (by decide) hw)
  cases p <;> first | exact hs | (simp only [Part.same] at hs ⊢; simp only [e0, hs, and_self]; done) | exact absurd hp (by simp [Part.bit, b29])
theorem Keeps.set_trl_merging {w s t} (h : Keeps w s t) (hw : 268435456 &&& w = 268435456) (v0) (e0 : v0.addr = t.trl.addr ∧ v0.parts = t.trl.parts ∧ v0.nParts = t.trl.nParts ∧ v0.nonce = t.trl.nonce ∧ v0.cap = t.trl.cap ∧ v0.sig = t.trl.sig ∧ v0.capUp = t.trl.capUp ∧ v0.capDn = t.trl.capDn ∧ v0.signing = t.trl.signing ∧ v0.verUp = t.trl.verUp ∧ v0.verDn = t.trl.verDn ∧ v0.asked = t.trl.asked ∧ v0.accepted = t.trl.accepted ∧ v0.ended = t.trl.ended ∧ v0.enumerated = t.trl.enumerated ∧ v0.standalone = t.trl.standalone ∧ v0.upLost = t.trl.upLost ∧ v0.deepen = t.trl.deepen ∧ v0.shared = t.trl.shared ∧ v0.lidarHeld = t.trl.lidarHeld ∧ v0.t0 = t.trl.t0 ∧ v0.joinOff = t.trl.joinOff ∧ v0.joining = t.trl.joining ∧ v0.align = t.trl.align) :
    Keeps w s { t with trl := v0 } := by
  constructor; intro p hp; have hs := h.same p hp
  have b28 := mask_bit (i := 28) (mask_trans (by decide) hw)
  cases p <;> first | exact hs | (simp only [Part.same] at hs ⊢; simp only [e0, hs, and_self]; done) | exact absurd hp (by simp [Part.bit, b28])
theorem Keeps.set_tsu {w s t} (h : Keeps w s t) (hw : 256 &&& w = 256) (v0) :
    Keeps w s { t with tsu := v0 } := by
  constructor; intro p hp; have hs := h.same p hp
  have b8 := mask_bit (i := 8) (mask_trans (by decide) hw)
  cases p <;> first | exact hs | exact absurd hp (by simp [Part.bit, b8])
theorem Keeps.set_tsu_qsy_queues {w s t} (h : Keeps w s t) (hw : 1048832 &&& w = 1048832) (v0) (v1) (e1 : v1.x8host = t.qsy.x8host ∧ v1.x8int = t.qsy.x8int ∧ v1.lostBefore = t.qsy.lostBefore) :
    Keeps w s { t with tsu := v0, qsy := v1 } := by
  constructor; intro p hp; have hs := h.same p hp
  have b8 := mask_bit (i := 8) (mask_trans (by decide) hw)
  have b20 := mask_bit (i := 20) (mask_trans (by decide) hw)
  cases p <;> first | exact hs | (simp only [Part.same] at hs ⊢; simp only [e1, hs, and_self]; done) | exact absurd hp (by simp [Part.bit, b8, b20])
theorem Keeps.cut1 {α} {w s} (a : α → State → State) {g : Prop} (ha : ∀ y t, Keeps w s t → Keeps w s (a y t))
    (hg : (∀ y t, Keeps w s t → Keeps w s (a y t)) → g) : g := hg ha
theorem Keeps.cut2 {α β} {w s} (a : α → β → State → State) {g : Prop}
    (ha : ∀ x y t, Keeps w s t → Keeps w s (a x y t)) (hg : (∀ x y t, Keeps w s t → Keeps w s (a x y t)) → g) : g := hg ha
theorem Keeps.foldl_fst {α β} {w s} {f : State × β → α → State × β} {l : List α} {a : State × β}
    (hf : ∀ t x, Keeps w s t.1 → Keeps w s (f t x).1) (ha : Keeps w s a.1) : Keeps w s (l.foldl f a).1 := by
  induction l generalizing a with
  | nil => exact ha
  | cons x r ih => exact ih (hf _ _ ha)
theorem Keeps.foldl_snd {α β} {w s} {f : β × State → α → β × State} {l : List α} {a : β × State}
    (hf : ∀ t x, Keeps w s t.2 → Keeps w s (f t x).2) (ha : Keeps w s a.2) : Keeps w s (l.foldl f a).2 := by
  induction l generalizing a with
  | nil => exact ha
  | cons x r ih => exact ih (hf _ _ ha)

end Sys2Proof.Machine
end

