-- ==== Sys2Proof/Laws/KeepQueues.lean ====
section
/-! SUPPORT. What each operation of Machine/Queues.lean may change: one lemma per operation, by the bits of the parts
of State (Sys2Proof.Machine.Part.bit). -/

namespace Sys2Proof.Machine

/-- `raise` may change: regs, vectors. -/
theorem raise_keeps (x0 : ℕ) {w : Nat} {s0 s : State} (hw : 34359738369 &&& w = 34359738369) (h : Keeps w s0 s) :
    Keeps w s0 (raise x0 s) := by
  unfold raise
  repeat' first
    | with_reducible exact h
    | (extract_lets +onlyGivenNames a; (have y : HifSt := a; clear y); dsimp -zeta only [a]; clear a)
    | split
    | fail_if_no_progress (with_reducible refine Keeps.set_regs_fresh_hif_vectors ?_ (mask_trans (by decide) hw) _ _ _ (by first | ((with_reducible repeat' constructor); done) | (split <;> repeat' constructor)))

/-- `post` may change: messages. -/
theorem post_keeps (x0 : ℕ) (x1 : ℕ) (x2 : FaultClass) (x3 : ℕ) (x4 : ℕ) {w : Nat} {s0 s : State} (hw : 1099511627776 &&& w = 1099511627776) (h : Keeps w s0 s) :
    Keeps w s0 (post x0 x1 x2 x3 x4 s) := by
  unfold post
  repeat' first
    | with_reducible exact h
    | (extract_lets +onlyGivenNames a; (have y : FclSt := a; clear y); dsimp -zeta only [a]; clear a)
    | fail_if_no_progress (with_reducible refine Keeps.set_fcl_messages ?_ (mask_trans (by decide) hw) _ (by first | ((with_reducible repeat' constructor); done) | (split <;> repeat' constructor)))

/-- `fault` may change: regs, vectors, messages. -/
theorem fault_keeps (x0 : ℕ) (x1 : ℕ) (x2 : ℕ) (x3 : FaultClass) (x4 : ℕ) {w : Nat} {s0 s : State} (hw : 1133871366145 &&& w = 1133871366145) (h : Keeps w s0 s) :
    Keeps w s0 (fault x0 x1 x2 x3 x4 s) := by
  unfold fault
  repeat' first
    | with_reducible exact h
    | exact mask_trans (by decide) hw
    | with_reducible apply post_keeps
    | with_reducible apply raise_keeps

/-- `bumpAt` may change: regs, freeIdx. -/
theorem bumpAt_keeps (x0 : ℕ) (x1 : ℕ) (x2 : ℕ) (x3 : ℕ) {w : Nat} {s0 s : State} (hw : 70368744177665 &&& w = 70368744177665) (h : Keeps w s0 s) :
    Keeps w s0 (bumpAt x0 x1 x2 x3 s) := by
  unfold bumpAt
  repeat' first
    | with_reducible exact h
    | split
    | fail_if_no_progress (with_reducible refine Keeps.set_regs_fresh_freeIdx ?_ (mask_trans (by decide) hw) _ _ _)

/-- `bump` may change: regs, freeIdx. -/
theorem bump_keeps (x0 : ℕ) (x1 : ℕ) {w : Nat} {s0 s : State} (hw : 70368744177665 &&& w = 70368744177665) (h : Keeps w s0 s) :
    Keeps w s0 (bump x0 x1 s) := by
  unfold bump
  repeat' first
    | with_reducible exact h
    | with_reducible assumption
    | with_reducible apply bumpAt_keeps

/-- `wr` may change: regs. -/
theorem wr_keeps (x0 : ℕ) (x1 : Word32) {w : Nat} {s0 s : State} (hw : 1 &&& w = 1) (h : Keeps w s0 s) :
    Keeps w s0 (wr x0 x1 s) := by
  unfold wr
  repeat' first
    | with_reducible exact h
    | fail_if_no_progress (with_reducible refine Keeps.set_regs ?_ (mask_trans (by decide) hw) _)

/-- `bumpSat` may change: regs. -/
theorem bumpSat_keeps (x0 : ℕ) (x1 : ℕ) (x2 : ℕ) (x3 : ℕ) {w : Nat} {s0 s : State} (hw : 1 &&& w = 1) (h : Keeps w s0 s) :
    Keeps w s0 (bumpSat x0 x1 x2 x3 s) := by
  unfold bumpSat
  repeat' first
    | with_reducible exact h
    | fail_if_no_progress (with_reducible refine Keeps.set_regs_fresh ?_ (mask_trans (by decide) hw) _ _)

/-- `stick` may change: regs. -/
theorem stick_keeps (x0 : ℕ) (x1 : ℕ) {w : Nat} {s0 s : State} (hw : 1 &&& w = 1) (h : Keeps w s0 s) :
    Keeps w s0 (stick x0 x1 s) := by
  unfold stick
  repeat' first
    | with_reducible exact h
    | fail_if_no_progress (with_reducible refine Keeps.set_regs_fresh ?_ (mask_trans (by decide) hw) _ _)

/-- `setQueue` may change: queues. -/
theorem setQueue_keeps (x0 : ℕ) (x1 : ℕ) (x2 : Queue) {w : Nat} {s0 s : State} (hw : 1048576 &&& w = 1048576) (h : Keeps w s0 s) :
    Keeps w s0 (setQueue x0 x1 x2 s) := by
  unfold setQueue
  repeat' first
    | with_reducible exact h
    | (extract_lets +onlyGivenNames a; (have y : QsySt := a; clear y); dsimp -zeta only [a]; clear a)
    | split
    | fail_if_no_progress (with_reducible refine Keeps.set_qsy_queues ?_ (mask_trans (by decide) hw) _ (by first | ((with_reducible repeat' constructor); done) | (split <;> repeat' constructor)))

/-- `pushBP` may change: queues. -/
theorem pushBP_keeps (x0 : ℕ) (x1 : ℕ) (x2 : List QWord) {w : Nat} {s0 s : State} (hw : 1048576 &&& w = 1048576) (h : Keeps w s0 s) :
    Keeps w s0 (pushBP x0 x1 x2 s) := by
  unfold pushBP
  repeat' first
    | with_reducible exact h
    | with_reducible assumption
    | with_reducible apply setQueue_keeps

/-- `advance` may change: tb. -/
theorem advance_keeps (x0 : Tick) {w : Nat} {s0 s : State} (hw : 64 &&& w = 64) (h : Keeps w s0 s) :
    Keeps w s0 (advance x0 s) := by
  unfold advance
  repeat' first
    | with_reducible exact h
    | (extract_lets +onlyGivenNames a; clear_value a)
    | split
    | fail_if_no_progress (with_reducible refine Keeps.set_tb ?_ (mask_trans (by decide) hw) _)

/-- `useFree` may change: freeIdx. -/
theorem useFree_keeps  {w : Nat} {s0 s : State} (hw : 70368744177664 &&& w = 70368744177664) (h : Keeps w s0 s) :
    Keeps w s0 (useFree s) := by
  unfold useFree
  repeat' first
    | with_reducible exact h
    | fail_if_no_progress (with_reducible refine Keeps.set_freeIdx ?_ (mask_trans (by decide) hw) _)

/-- `quantUsed` may change: freeIdx. -/
theorem quantUsed_keeps (x0 : ℚ) {w : Nat} {s0 s : State} (hw : 70368744177664 &&& w = 70368744177664) (h : Keeps w s0 s) :
    Keeps w s0 (quantUsed x0 s) := by
  unfold quantUsed
  repeat' first
    | with_reducible exact h
    | with_reducible assumption
    | with_reducible apply useFree_keeps
    | with_reducible apply Keeps.ite

/-- `popQueue` may change: queues. -/
theorem popQueue_keeps (x0 : ℕ) (x1 : ℕ) {w : Nat} {s0 s : State} (hw : 1048576 &&& w = 1048576) (h : Keeps w s0 s) :
    Keeps w s0 (popQueue x0 x1 s).2 := by
  unfold popQueue
  repeat' first
    | with_reducible exact h
    | with_reducible assumption
    | (extract_lets +onlyGivenNames a; clear_value a)
    | with_reducible apply setQueue_keeps
    | split

/-- `pushRT` may change: regs, queues, vectors, messages. -/
theorem pushRT_keeps (x0 : ℕ) (x1 : ℕ) (x2 : Word64) {w : Nat} {s0 s : State} (hw : 1133872414721 &&& w = 1133872414721) (h : Keeps w s0 s) :
    Keeps w s0 (pushRT x0 x1 x2 s) := by
  unfold pushRT
  repeat' first
    | with_reducible exact h
    | with_reducible assumption
    | (extract_lets +onlyGivenNames a; with_reducible refine Keeps.cut (w := w) (s := s0) a ?_ (fun ha => ?_); (on_goal 2 => clear_value a); (on_goal 1 => (dsimp -zeta only [a]; clear a)))
    | (extract_lets +onlyGivenNames a; (have y : QsySt := a; clear y); dsimp -zeta only [a]; clear a)
    | (extract_lets +onlyGivenNames a; clear_value a)
    | exact mask_trans (by decide) hw
    | with_reducible apply fault_keeps
    | with_reducible apply setQueue_keeps
    | with_reducible apply stick_keeps
    | with_reducible apply Keeps.ite
    | fail_if_no_progress (with_reducible refine Keeps.set_fresh_qsy_queues ?_ (mask_trans (by decide) hw) _ _ (by first | ((with_reducible repeat' constructor); done) | (split <;> repeat' constructor)))

/-- `parityFailed` may change: regs, vectors, messages, freeIdx. -/
theorem parityFailed_keeps (x0 : ℕ) (x1 : ℕ) {w : Nat} {s0 s : State} (hw : 71502615543809 &&& w = 71502615543809) (h : Keeps w s0 s) :
    Keeps w s0 (parityFailed x0 x1 s) := by
  unfold parityFailed
  repeat' first
    | with_reducible exact h
    | exact mask_trans (by decide) hw
    | with_reducible apply bump_keeps
    | with_reducible apply fault_keeps
    | with_reducible apply stick_keeps
    | with_reducible apply Keeps.ite

/-- `takeAll` may change: regs, queues, vectors, messages, freeIdx. -/
theorem takeAll_keeps (x0 : ℕ) (x1 : ℕ) {w : Nat} {s0 s : State} (hw : 71502616592385 &&& w = 71502616592385) (h : Keeps w s0 s) :
    Keeps w s0 (takeAll x0 x1 s) := by
  unfold takeAll
  repeat' first
    | with_reducible exact h
    | (extract_lets +onlyGivenNames a; clear_value a)
    | exact mask_trans (by decide) hw
    | with_reducible apply parityFailed_keeps
    | with_reducible apply setQueue_keeps

/-- `hitWord` may change: queues. -/
theorem hitWord_keeps (x0 : ℕ) (x1 : ℕ) (x2 : ℕ) {w : Nat} {s0 s : State} (hw : 1048576 &&& w = 1048576) (h : Keeps w s0 s) :
    Keeps w s0 (hitWord x0 x1 x2 s) := by
  unfold hitWord
  repeat' first
    | with_reducible exact h
    | with_reducible assumption
    | (extract_lets +onlyGivenNames a; clear_value a)
    | with_reducible apply setQueue_keeps

end Sys2Proof.Machine
end

