-- ==== Sys2Proof/Laws/KeepLinkOps.lean ====
section
/-! SUPPORT. What each operation of Machine/LinkOps.lean may change: one lemma per operation, by the bits of the parts
of State (Sys2Proof.Machine.Part.bit). -/

namespace Sys2Proof.Machine

/-- `setMerge` may change: merging. -/
theorem setMerge_keeps (x0 : ℕ) (x1 : MergeSt) {w : Nat} {s0 s : State} (hw : 268435456 &&& w = 268435456) (h : Keeps w s0 s) :
    Keeps w s0 (setMerge x0 x1 s) := by
  unfold setMerge
  repeat' first
    | with_reducible exact h
    | (extract_lets +onlyGivenNames a; (have y : TrlSt := a; clear y); dsimp -zeta only [a]; clear a)
    | fail_if_no_progress (with_reducible refine Keeps.set_trl_merging ?_ (mask_trans (by decide) hw) _ (by first | ((with_reducible repeat' constructor); done) | (split <;> repeat' constructor)))

/-- `hostItem` may change: queues. -/
theorem hostItem_keeps (x0 : ℕ) (x1 : ℕ) (x2 : List Word64) {w : Nat} {s0 s : State} (hw : 1048576 &&& w = 1048576) (h : Keeps w s0 s) :
    Keeps w s0 (hostItem x0 x1 x2 s) := by
  unfold hostItem
  repeat' first
    | with_reducible exact h
    | with_reducible assumption
    | with_reducible apply pushBP_keeps
    | split

/-- `releaseTo` may change: queues, merging. -/
theorem releaseTo_keeps (x0 : ℕ) (x1 : ℕ) (x2 : ℕ) {w : Nat} {s0 s : State} (hw : 269484032 &&& w = 269484032) (h : Keeps w s0 s) :
    Keeps w s0 (releaseTo x0 x1 x2 s) := by
  unfold releaseTo
  repeat' first
    | with_reducible exact h
    | with_reducible assumption
    | (extract_lets +onlyGivenNames a; with_reducible refine Keeps.cut (w := w) (s := s0) a ?_ (fun ha => ?_); (on_goal 2 => clear_value a); (on_goal 1 => (dsimp -zeta only [a]; clear a)))
    | (extract_lets +onlyGivenNames a; clear_value a)
    | exact mask_trans (by decide) hw
    | with_reducible apply hostItem_keeps
    | with_reducible apply setMerge_keeps
    | with_reducible apply Keeps.ite
    | (with_reducible apply Keeps.foldl_fst; intros)

/-- `tryRelease` may change: queues, merging. -/
theorem tryRelease_keeps (x0 : ℕ) (x1 : ℕ) {w : Nat} {s0 s : State} (hw : 269484032 &&& w = 269484032) (h : Keeps w s0 s) :
    Keeps w s0 (tryRelease x0 x1 s) := by
  unfold tryRelease
  repeat' first
    | with_reducible exact h
    | with_reducible assumption
    | (extract_lets +onlyGivenNames a; clear_value a)
    | with_reducible apply releaseTo_keeps
    | with_reducible apply Keeps.ite

/-- `mergeClose` may change: queues, merging. -/
theorem mergeClose_keeps (x0 : ℕ) (x1 : ℕ) (x2 : ℕ) (x3 : ℕ) {w : Nat} {s0 s : State} (hw : 269484032 &&& w = 269484032) (h : Keeps w s0 s) :
    Keeps w s0 (mergeClose x0 x1 x2 x3 s) := by
  unfold mergeClose
  repeat' first
    | with_reducible exact h
    | with_reducible assumption
    | (extract_lets +onlyGivenNames a; clear_value a)
    | exact mask_trans (by decide) hw
    | with_reducible apply setMerge_keeps
    | with_reducible apply tryRelease_keeps

/-- `setPort` may change: portUp, portDn. -/
theorem setPort_keeps (x0 : Port) (x1 : PortSt) {w : Nat} {s0 s : State} (hw : 100663296 &&& w = 100663296) (h : Keeps w s0 s) :
    Keeps w s0 (setPort x0 x1 s) := by
  unfold setPort
  repeat' first
    | with_reducible exact h
    | (extract_lets +onlyGivenNames a; (have y : PlkSt := a; clear y); dsimp -zeta only [a]; clear a)
    | split
    | fail_if_no_progress (with_reducible refine Keeps.set_plk_portUp_portDn ?_ (mask_trans (by decide) hw) _ (by first | ((with_reducible repeat' constructor); done) | (split <;> repeat' constructor)))

/-- `pumpVc3` may change: regs, queues, portUp, portDn, vectors, messages, freeIdx. -/
theorem pumpVc3_keeps (x0 : ℕ) (x1 : Port) {w : Nat} {s0 s : State} (hw : 71502717255681 &&& w = 71502717255681) (h : Keeps w s0 s) :
    Keeps w s0 (pumpVc3 x0 x1 s) := by
  revert h
  induction x0 generalizing x1 s with
  | zero => intro h; unfold pumpVc3; exact h
  | succ y0 ih =>
    intro h
    unfold pumpVc3
    repeat' first
      | with_reducible apply ih
      | with_reducible exact h
      | with_reducible assumption
      | (extract_lets +onlyGivenNames a; with_reducible refine Keeps.cut (w := w) (s := s0) a ?_ (fun ha => ?_); (on_goal 2 => clear_value a); (on_goal 1 => (dsimp -zeta only [a]; clear a)))
      | (extract_lets +onlyGivenNames a; clear_value a)
      | exact mask_trans (by decide) hw
      | with_reducible apply parityFailed_keeps
      | with_reducible apply setPort_keeps
      | with_reducible apply setQueue_keeps
      | with_reducible apply Keeps.ite
      | split

/-- `pump` may change: regs, queues, portUp, portDn, vectors, messages, freeIdx. -/
theorem pump_keeps (x0 : Port) {w : Nat} {s0 s : State} (hw : 71502717255681 &&& w = 71502717255681) (h : Keeps w s0 s) :
    Keeps w s0 (pump x0 s) := by
  unfold pump
  repeat' first
    | with_reducible exact h
    | with_reducible assumption
    | (extract_lets +onlyGivenNames a; with_reducible refine Keeps.cut (w := w) (s := s0) a ?_ (fun ha => ?_); (on_goal 2 => clear_value a); (on_goal 1 => (dsimp -zeta only [a]; clear a)))
    | (extract_lets +onlyGivenNames a; clear_value a)
    | exact mask_trans (by decide) hw
    | with_reducible apply pumpVc3_keeps
    | with_reducible apply setPort_keeps
    | with_reducible apply Keeps.ite

/-- `sendMsg` may change: regs, queues, portUp, portDn, vectors, messages, freeIdx. -/
theorem sendMsg_keeps (x0 : Port) (x1 : LinkMsg) {w : Nat} {s0 s : State} (hw : 71502717255681 &&& w = 71502717255681) (h : Keeps w s0 s) :
    Keeps w s0 (sendMsg x0 x1 s) := by
  unfold sendMsg
  repeat' first
    | with_reducible exact h
    | with_reducible assumption
    | (extract_lets +onlyGivenNames a; clear_value a)
    | exact mask_trans (by decide) hw
    | with_reducible apply pump_keeps
    | with_reducible apply setPort_keeps
    | with_reducible apply Keeps.ite

/-- `toMaster` may change: regs, queues, portUp, portDn, vectors, messages, freeIdx. -/
theorem toMaster_keeps (x0 : LinkMsg) {w : Nat} {s0 s : State} (hw : 71502717255681 &&& w = 71502717255681) (h : Keeps w s0 s) :
    Keeps w s0 (toMaster x0 s) := by
  unfold toMaster
  repeat' first
    | with_reducible exact h
    | with_reducible assumption
    | with_reducible apply sendMsg_keeps
    | with_reducible apply Keeps.ite

/-- `closeOwn` may change: regs, queues, portUp, portDn, merging, vectors, messages, freeIdx. -/
theorem closeOwn_keeps (x0 : ℕ) (x1 : ℕ) (x2 : ℕ) {w : Nat} {s0 s : State} (hw : 71502985691137 &&& w = 71502985691137) (h : Keeps w s0 s) :
    Keeps w s0 (closeOwn x0 x1 x2 s) := by
  unfold closeOwn
  repeat' first
    | with_reducible exact h
    | with_reducible assumption
    | (extract_lets +onlyGivenNames a; with_reducible refine Keeps.cut (w := w) (s := s0) a ?_ (fun ha => ?_); (on_goal 2 => clear_value a); (on_goal 1 => (dsimp -zeta only [a]; clear a)))
    | (extract_lets +onlyGivenNames a; (have y : TrlSt := a; clear y); dsimp -zeta only [a]; clear a)
    | (extract_lets +onlyGivenNames a; clear_value a)
    | exact mask_trans (by decide) hw
    | with_reducible apply mergeClose_keeps
    | with_reducible apply toMaster_keeps
    | with_reducible apply Keeps.ite
    | (with_reducible apply Keeps.foldl; intros)
    | fail_if_no_progress (with_reducible refine Keeps.set_trl_merging ?_ (mask_trans (by decide) hw) _ (by first | ((with_reducible repeat' constructor); done) | (split <;> repeat' constructor)))

/-- `mergeAdd` may change: regs, merging, vectors, messages. -/
theorem mergeAdd_keeps (x0 : ℕ) (x1 : ℕ) (x2 : ℕ) (x3 : ℕ) (x4 : List Word64) {w : Nat} {s0 s : State} (hw : 1134139801601 &&& w = 1134139801601) (h : Keeps w s0 s) :
    Keeps w s0 (mergeAdd x0 x1 x2 x3 x4 s) := by
  unfold mergeAdd
  repeat' first
    | with_reducible exact h
    | (extract_lets +onlyGivenNames a; clear_value a)
    | exact mask_trans (by decide) hw
    | with_reducible apply bumpSat_keeps
    | with_reducible apply fault_keeps
    | with_reducible apply setMerge_keeps
    | with_reducible apply stick_keeps
    | with_reducible apply Keeps.ite

/-- `sendUp` may change: regs, queues, portUp, portDn, vectors, messages, freeIdx. -/
theorem sendUp_keeps (x0 : List Word64) {w : Nat} {s0 s : State} (hw : 71502717255681 &&& w = 71502717255681) (h : Keeps w s0 s) :
    Keeps w s0 (sendUp x0 s) := by
  unfold sendUp
  repeat' first
    | with_reducible exact h
    | with_reducible assumption
    | exact mask_trans (by decide) hw
    | with_reducible apply pump_keeps
    | with_reducible apply pushBP_keeps

/-- `queueItem` may change: regs, queues, portUp, portDn, merging, vectors, messages, freeIdx. -/
theorem queueItem_keeps (x0 : ℕ) (x1 : ℕ) (x2 : List Word64) {w : Nat} {s0 s : State} (hw : 71502985691137 &&& w = 71502985691137) (h : Keeps w s0 s) :
    Keeps w s0 (queueItem x0 x1 x2 s) := by
  unfold queueItem
  repeat' first
    | with_reducible exact h
    | with_reducible assumption
    | (extract_lets +onlyGivenNames a; with_reducible refine Keeps.cut (w := w) (s := s0) a ?_ (fun ha => ?_); (on_goal 2 => clear_value a); (on_goal 1 => (dsimp -zeta only [a]; clear a)))
    | (extract_lets +onlyGivenNames a; clear_value a)
    | exact mask_trans (by decide) hw
    | with_reducible apply closeOwn_keeps
    | with_reducible apply hostItem_keeps
    | with_reducible apply mergeAdd_keeps
    | with_reducible apply sendUp_keeps
    | with_reducible apply Keeps.ite

/-- `setLane` may change: lanes. -/
theorem setLane_keeps (x0 : ℕ) (x1 : LaneSt) {w : Nat} {s0 s : State} (hw : 134217728 &&& w = 134217728) (h : Keeps w s0 s) :
    Keeps w s0 (setLane x0 x1 s) := by
  unfold setLane
  repeat' first
    | with_reducible exact h
    | (extract_lets +onlyGivenNames a; (have y : PlkSt := a; clear y); dsimp -zeta only [a]; clear a)
    | fail_if_no_progress (with_reducible refine Keeps.set_plk_lanes ?_ (mask_trans (by decide) hw) _ (by first | ((with_reducible repeat' constructor); done) | (split <;> repeat' constructor)))

/-- `sendBlock` may change: portUp, portDn. -/
theorem sendBlock_keeps (x0 : Port) (x1 : LinkBlock) {w : Nat} {s0 s : State} (hw : 100663296 &&& w = 100663296) (h : Keeps w s0 s) :
    Keeps w s0 (sendBlock x0 x1 s) := by
  unfold sendBlock
  repeat' first
    | with_reducible exact h
    | with_reducible assumption
    | (extract_lets +onlyGivenNames a; clear_value a)
    | with_reducible apply setPort_keeps

/-- `fwdBegin` may change: regs, queues, portUp, portDn, merging, vectors, messages, freeIdx. -/
theorem fwdBegin_keeps (x0 : Dom) (x1 : ℕ) {w : Nat} {s0 s : State} (hw : 71502985691137 &&& w = 71502985691137) (h : Keeps w s0 s) :
    Keeps w s0 (fwdBegin x0 x1 s) := by
  unfold fwdBegin
  repeat' first
    | with_reducible exact h
    | with_reducible assumption
    | with_reducible apply closeOwn_keeps
    | with_reducible apply Keeps.ite
    | (with_reducible apply Keeps.foldl; intros)

/-- `alignBoundary` may change: regs, tb, cascade, vectors. -/
theorem alignBoundary_keeps  {w : Nat} {s0 s : State} (hw : 34896609345 &&& w = 34896609345) (h : Keeps w s0 s) :
    Keeps w s0 (alignBoundary s) := by
  unfold alignBoundary
  repeat' first
    | with_reducible exact h
    | with_reducible assumption
    | (extract_lets +onlyGivenNames a; with_reducible refine Keeps.cut (w := w) (s := s0) a ?_ (fun ha => ?_); (on_goal 2 => clear_value a); (on_goal 1 => (dsimp -zeta only [a]; clear a)))
    | (extract_lets +onlyGivenNames a; (have y : TrlSt := a; clear y); dsimp -zeta only [a]; clear a)
    | (extract_lets +onlyGivenNames a; clear_value a)
    | exact mask_trans (by decide) hw
    | with_reducible apply raise_keeps
    | with_reducible apply Keeps.ite
    | fail_if_no_progress (with_reducible refine Keeps.set_tb_trl_cascade ?_ (mask_trans (by decide) hw) _ _ (by first | ((with_reducible repeat' constructor); done) | (split <;> repeat' constructor)))

/-- `sendAwait` may change: regs, queues, portUp, portDn, vectors, messages, freeIdx. -/
theorem sendAwait_keeps (x0 : Port) (x1 : LinkMsg) {w : Nat} {s0 s : State} (hw : 71502717255681 &&& w = 71502717255681) (h : Keeps w s0 s) :
    Keeps w s0 (sendAwait x0 x1 s) := by
  unfold sendAwait
  repeat' first
    | with_reducible exact h
    | with_reducible assumption
    | (extract_lets +onlyGivenNames a; clear_value a)
    | exact mask_trans (by decide) hw
    | with_reducible apply sendMsg_keeps
    | with_reducible apply setPort_keeps

/-- `toPartner` may change: regs, queues, portUp, portDn, vectors, messages, freeIdx. -/
theorem toPartner_keeps (x0 : LinkMsg) {w : Nat} {s0 s : State} (hw : 71502717255681 &&& w = 71502717255681) (h : Keeps w s0 s) :
    Keeps w s0 (toPartner x0 s) := by
  unfold toPartner
  repeat' first
    | with_reducible exact h
    | with_reducible assumption
    | with_reducible apply sendMsg_keeps
    | split

/-- `received` may change: portUp, portDn. -/
theorem received_keeps (x0 : Port) (x1 : ℕ) (x2 : ℕ) {w : Nat} {s0 s : State} (hw : 100663296 &&& w = 100663296) (h : Keeps w s0 s) :
    Keeps w s0 (received x0 x1 x2 s) := by
  unfold received
  repeat' first
    | with_reducible exact h
    | with_reducible assumption
    | (extract_lets +onlyGivenNames a; clear_value a)
    | with_reducible apply sendBlock_keeps
    | with_reducible apply Keeps.ite

end Sys2Proof.Machine
end

