-- ==== Sys2Proof/Laws/KeepOps.lean ====
section
/-! SUPPORT. What each operation of Machine/Ops.lean may change: one lemma per operation, by the bits of the parts
of State (Sys2Proof.Machine.Part.bit). -/

namespace Sys2Proof.Machine

/-- `finish` may change: regs, vectors, mailbox. -/
theorem finish_keeps (x0 : Origin) (x1 : Status) (x2 : ℕ) {w : Nat} {s0 s : State} (hw : 171798691841 &&& w = 171798691841) (h : Keeps w s0 s) :
    Keeps w s0 (finish x0 x1 x2 s) := by
  unfold finish
  repeat' first
    | with_reducible exact h
    | (extract_lets +onlyGivenNames a; (have y : HifSt := a; clear y); dsimp -zeta only [a]; clear a)
    | exact mask_trans (by decide) hw
    | with_reducible apply raise_keeps
    | split
    | fail_if_no_progress (with_reducible refine Keeps.set_hif_mailbox ?_ (mask_trans (by decide) hw) _ (by first | ((with_reducible repeat' constructor); done) | (split <;> repeat' constructor)))

/-- `x8Internal` may change: mailboxItems. -/
theorem x8Internal_keeps (x0 : Ctl) {w : Nat} {s0 s : State} (hw : 2097152 &&& w = 2097152) (h : Keeps w s0 s) :
    Keeps w s0 (x8Internal x0 s) := by
  unfold x8Internal
  repeat' first
    | with_reducible exact h
    | (extract_lets +onlyGivenNames a; (have y : QsySt := a; clear y); dsimp -zeta only [a]; clear a)
    | fail_if_no_progress (with_reducible refine Keeps.set_qsy_mailboxItems ?_ (mask_trans (by decide) hw) _ (by first | ((with_reducible repeat' constructor); done) | (split <;> repeat' constructor)))

/-- `setBind` may change: mcd. -/
theorem setBind_keeps (x0 : ℕ) (x1 : BindSt) {w : Nat} {s0 s : State} (hw : 524288 &&& w = 524288) (h : Keeps w s0 s) :
    Keeps w s0 (setBind x0 x1 s) := by
  unfold setBind
  repeat' first
    | with_reducible exact h
    | (extract_lets +onlyGivenNames a; clear_value a)
    | fail_if_no_progress (with_reducible refine Keeps.set_mcd ?_ (mask_trans (by decide) hw) _)

/-- `beginItem` may change: regs, mcd, freeIdx. -/
theorem beginItem_keeps (x0 : ℕ) {w : Nat} {s0 s : State} (hw : 70368744701953 &&& w = 70368744701953) (h : Keeps w s0 s) :
    Keeps w s0 (beginItem x0 s) := by
  unfold beginItem
  repeat' first
    | with_reducible exact h
    | with_reducible assumption
    | (extract_lets +onlyGivenNames a; with_reducible refine Keeps.cut (w := w) (s := s0) a ?_ (fun ha => ?_); (on_goal 2 => clear_value a); (on_goal 1 => (dsimp -zeta only [a]; clear a)))
    | (extract_lets +onlyGivenNames a; clear_value a)
    | exact mask_trans (by decide) hw
    | with_reducible apply bump_keeps
    | with_reducible apply setBind_keeps
    | with_reducible apply Keeps.ite

/-- `mcdPass` may change: regs, mcd, queues, portUp, portDn, merging, vectors, messages, freeIdx. -/
theorem mcdPass_keeps (x0 : ℕ) (x1 : ℕ) {w : Nat} {s0 s : State} (hw : 71502986215425 &&& w = 71502986215425) (h : Keeps w s0 s) :
    Keeps w s0 (mcdPass x0 x1 s) := by
  revert h
  induction x0 generalizing x1 s with
  | zero => intro h; unfold mcdPass; exact h
  | succ y0 ih =>
    intro h
    unfold mcdPass
    repeat' first
      | with_reducible apply ih
      | with_reducible exact h
      | with_reducible assumption
      | (extract_lets +onlyGivenNames a; with_reducible refine Keeps.cut (w := w) (s := s0) a ?_ (fun ha => ?_); (on_goal 2 => clear_value a); (on_goal 1 => (dsimp -zeta only [a]; clear a)))
      | (extract_lets +onlyGivenNames a; clear_value a)
      | exact mask_trans (by decide) hw
      | with_reducible apply beginItem_keeps
      | with_reducible apply queueItem_keeps
      | with_reducible apply setBind_keeps
      | with_reducible apply Keeps.ite
      | split

/-- `routeItem` may change: regs, mcd, queues, portUp, portDn, merging, vectors, messages, freeIdx. -/
theorem routeItem_keeps (x0 : ℕ) (x1 : ℕ) (x2 : Bool) (x3 : Word64) (x4 : List Word64) {w : Nat} {s0 s : State} (hw : 71502986215425 &&& w = 71502986215425) (h : Keeps w s0 s) :
    Keeps w s0 (routeItem x0 x1 x2 x3 x4 s) := by
  unfold routeItem
  repeat' first
    | with_reducible exact h
    | with_reducible assumption
    | (extract_lets +onlyGivenNames a; clear_value a)
    | exact mask_trans (by decide) hw
    | with_reducible apply mcdPass_keeps
    | with_reducible apply queueItem_keeps
    | with_reducible apply setBind_keeps
    | split

/-- `firstItem` may change: regs, firstItem, vectors. -/
theorem firstItem_keeps (x0 : TagCtx) {w : Nat} {s0 s : State} (hw : 34359738373 &&& w = 34359738373) (h : Keeps w s0 s) :
    Keeps w s0 (firstItem x0 s) := by
  unfold firstItem
  repeat' first
    | with_reducible exact h
    | (extract_lets +onlyGivenNames a; (have y : BootSt := a; clear y); dsimp -zeta only [a]; clear a)
    | exact mask_trans (by decide) hw
    | with_reducible apply raise_keeps
    | with_reducible apply Keeps.ite
    | fail_if_no_progress (with_reducible refine Keeps.set_boot_firstItem ?_ (mask_trans (by decide) hw) _ (by first | ((with_reducible repeat' constructor); done) | (split <;> repeat' constructor)))

/-- `emitX` may change: regs, firstItem, mcd, queues, lostMarks, portUp, portDn, merging, vectors, messages, freeIdx. -/
theorem emitX_keeps (x0 : ℕ) (x1 : ℕ) (x2 : TagCtx) (x3 : ℕ) (x4 : List Word64) {w : Nat} {s0 s : State} (hw : 71502990409733 &&& w = 71502990409733) (h : Keeps w s0 s) :
    Keeps w s0 (emitX x0 x1 x2 x3 x4 s) := by
  unfold emitX
  repeat' first
    | with_reducible exact h
    | with_reducible assumption
    | (extract_lets +onlyGivenNames a; with_reducible refine Keeps.cut (w := w) (s := s0) a ?_ (fun ha => ?_); (on_goal 2 => clear_value a); (on_goal 1 => (dsimp -zeta only [a]; clear a)))
    | (extract_lets +onlyGivenNames a; (have y : QsySt := a; clear y); dsimp -zeta only [a]; clear a)
    | (extract_lets +onlyGivenNames a; clear_value a)
    | exact mask_trans (by decide) hw
    | with_reducible apply firstItem_keeps
    | with_reducible apply routeItem_keeps
    | fail_if_no_progress (with_reducible refine Keeps.set_qsy_lostMarks ?_ (mask_trans (by decide) hw) _ (by first | ((with_reducible repeat' constructor); done) | (split <;> repeat' constructor)))

/-- `emit` may change: regs, firstItem, mcd, queues, lostMarks, portUp, portDn, merging, vectors, messages, freeIdx. -/
theorem emit_keeps (x0 : ℕ) (x1 : ℕ) (x2 : TagCtx) (x3 : List ℕ) {w : Nat} {s0 s : State} (hw : 71502990409733 &&& w = 71502990409733) (h : Keeps w s0 s) :
    Keeps w s0 (emit x0 x1 x2 x3 s) := by
  unfold emit
  repeat' first
    | with_reducible exact h
    | with_reducible assumption
    | with_reducible apply emitX_keeps

/-- `finishFree` may change: regs, vectors, mailbox, freeIdx. -/
theorem finishFree_keeps (x0 : Origin) (x1 : ℕ) {w : Nat} {s0 s : State} (hw : 70540542869505 &&& w = 70540542869505) (h : Keeps w s0 s) :
    Keeps w s0 (finishFree x0 x1 s) := by
  unfold finishFree
  repeat' first
    | with_reducible exact h
    | (extract_lets +onlyGivenNames a; (have y : HifSt := a; clear y); dsimp -zeta only [a]; clear a)
    | exact mask_trans (by decide) hw
    | with_reducible apply raise_keeps
    | with_reducible apply useFree_keeps
    | split
    | fail_if_no_progress (with_reducible refine Keeps.set_hif_mailbox ?_ (mask_trans (by decide) hw) _ (by first | ((with_reducible repeat' constructor); done) | (split <;> repeat' constructor)))

/-- `emitCtlX` may change: regs, mcd, queues, portUp, portDn, merging, vectors, messages, freeIdx. -/
theorem emitCtlX_keeps (x0 : ℕ) (x1 : ℕ → Bool) (x2 : TagCtx) (x3 : ℕ) (x4 : ℕ) (x5 : ℕ) (x6 : ℕ) {w : Nat} {s0 s : State} (hw : 71502986215425 &&& w = 71502986215425) (h : Keeps w s0 s) :
    Keeps w s0 (emitCtlX x0 x1 x2 x3 x4 x5 x6 s) := by
  unfold emitCtlX
  repeat' first
    | with_reducible exact h
    | with_reducible assumption
    | with_reducible apply routeItem_keeps
    | (with_reducible apply Keeps.foldl; intros)

/-- `emitCtl` may change: regs, mcd, queues, portUp, portDn, merging, vectors, messages, freeIdx. -/
theorem emitCtl_keeps (x0 : ℕ) (x1 : ℕ → Bool) (x2 : TagCtx) (x3 : ℕ) (x4 : ℕ) (x5 : ℕ) {w : Nat} {s0 s : State} (hw : 71502986215425 &&& w = 71502986215425) (h : Keeps w s0 s) :
    Keeps w s0 (emitCtl x0 x1 x2 x3 x4 x5 s) := by
  unfold emitCtl
  repeat' first
    | with_reducible exact h
    | with_reducible assumption
    | with_reducible apply emitCtlX_keeps

/-- `loseBefore` may change: lostMarks. -/
theorem loseBefore_keeps (x0 : ℕ) (x1 : ℕ) {w : Nat} {s0 s : State} (hw : 4194304 &&& w = 4194304) (h : Keeps w s0 s) :
    Keeps w s0 (loseBefore x0 x1 s) := by
  unfold loseBefore
  repeat' first
    | with_reducible exact h
    | (extract_lets +onlyGivenNames a; (have y : QsySt := a; clear y); dsimp -zeta only [a]; clear a)
    | split
    | fail_if_no_progress (with_reducible refine Keeps.set_qsy_lostMarks ?_ (mask_trans (by decide) hw) _ (by first | ((with_reducible repeat' constructor); done) | (split <;> repeat' constructor)))

/-- `takeEntry` may change: tb, mailbox. -/
theorem takeEntry_keeps (x0 : Entry) (x1 : ℕ) {w : Nat} {s0 s : State} (hw : 137438953536 &&& w = 137438953536) (h : Keeps w s0 s) :
    Keeps w s0 (takeEntry x0 x1 s).1 := by
  unfold takeEntry
  repeat' first
    | with_reducible exact h
    | with_reducible assumption
    | (extract_lets +onlyGivenNames a; with_reducible refine Keeps.cut (w := w) (s := s0) a ?_ (fun ha => ?_); (on_goal 2 => clear_value a); (on_goal 1 => (dsimp -zeta only [a]; clear a)))
    | (extract_lets +onlyGivenNames a; (have y : HifSt := a; clear y); dsimp -zeta only [a]; clear a)
    | (extract_lets +onlyGivenNames a; clear_value a)
    | exact mask_trans (by decide) hw
    | with_reducible apply advance_keeps
    | split
    | fail_if_no_progress (with_reducible refine Keeps.set_hif_mailbox ?_ (mask_trans (by decide) hw) _ (by first | ((with_reducible repeat' constructor); done) | (split <;> repeat' constructor)))

/-- `x8Post` may change: mailboxItems. -/
theorem x8Post_keeps (x0 : Ctl) {w : Nat} {s0 s : State} (hw : 2097152 &&& w = 2097152) (h : Keeps w s0 s) :
    Keeps w s0 (x8Post x0 s) := by
  unfold x8Post
  repeat' first
    | with_reducible exact h
    | (extract_lets +onlyGivenNames a; (have y : QsySt := a; clear y); dsimp -zeta only [a]; clear a)
    | fail_if_no_progress (with_reducible refine Keeps.set_qsy_mailboxItems ?_ (mask_trans (by decide) hw) _ (by first | ((with_reducible repeat' constructor); done) | (split <;> repeat' constructor)))

/-- `x12PostDue` may change: x12. -/
theorem x12PostDue_keeps (x0 : X12Kind) (x1 : ℕ) (x2 : List Word64) (x3 : Tick) {w : Nat} {s0 s : State} (hw : 4294967296 &&& w = 4294967296) (h : Keeps w s0 s) :
    Keeps w s0 (x12PostDue x0 x1 x2 x3 s) := by
  unfold x12PostDue
  repeat' first
    | with_reducible exact h
    | (extract_lets +onlyGivenNames a; (have y : CloSt := a; clear y); dsimp -zeta only [a]; clear a)
    | fail_if_no_progress (with_reducible refine Keeps.set_clo_x12 ?_ (mask_trans (by decide) hw) _ (by first | ((with_reducible repeat' constructor); done) | (split <;> repeat' constructor)))

/-- `x12Post` may change: x12. -/
theorem x12Post_keeps (x0 : X12Kind) (x1 : ℕ) (x2 : List Word64) {w : Nat} {s0 s : State} (hw : 4294967296 &&& w = 4294967296) (h : Keeps w s0 s) :
    Keeps w s0 (x12Post x0 x1 x2 s) := by
  unfold x12Post
  repeat' first
    | with_reducible exact h
    | with_reducible assumption
    | with_reducible apply x12PostDue_keeps

/-- `x12Done` may change: x12. -/
theorem x12Done_keeps (x0 : X12Msg) {w : Nat} {s0 s : State} (hw : 4294967296 &&& w = 4294967296) (h : Keeps w s0 s) :
    Keeps w s0 (x12Done x0 s) := by
  unfold x12Done
  repeat' first
    | with_reducible exact h
    | (extract_lets +onlyGivenNames a; (have y : CloSt := a; clear y); dsimp -zeta only [a]; clear a)
    | fail_if_no_progress (with_reducible refine Keeps.set_clo_x12 ?_ (mask_trans (by decide) hw) _ (by first | ((with_reducible repeat' constructor); done) | (split <;> repeat' constructor)))

end Sys2Proof.Machine
end

