-- ==== Sys2Proof/Laws/KeepFclOps.lean ====
section
/-! SUPPORT. What each operation of Machine/FclOps.lean may change: one lemma per operation, by the bits of the parts
of State (Sys2Proof.Machine.Part.bit). -/

namespace Sys2Proof.Machine

/-- `graftEnd` may change: regs, vectors, mailbox, grafting. -/
theorem graftEnd_keeps (x0 : ℕ) (x1 : Status) {w : Nat} {s0 s : State} (hw : 8967891714049 &&& w = 8967891714049) (h : Keeps w s0 s) :
    Keeps w s0 (graftEnd x0 x1 s) := by
  unfold graftEnd
  repeat' first
    | with_reducible exact h
    | with_reducible assumption
    | (extract_lets +onlyGivenNames a; with_reducible refine Keeps.cut (w := w) (s := s0) a ?_ (fun ha => ?_); (on_goal 2 => clear_value a); (on_goal 1 => (dsimp -zeta only [a]; clear a)))
    | (extract_lets +onlyGivenNames a; (have y : FclSt := a; clear y); dsimp -zeta only [a]; clear a)
    | (extract_lets +onlyGivenNames a; (have y : HifSt := a; clear y); dsimp -zeta only [a]; clear a)
    | exact mask_trans (by decide) hw
    | with_reducible apply finish_keeps
    | with_reducible apply raise_keeps
    | split
    | fail_if_no_progress (with_reducible refine Keeps.set_hif_mailbox_fcl_grafting ?_ (mask_trans (by decide) hw) _ (by first | ((with_reducible repeat' constructor); done) | (split <;> repeat' constructor)) _ (by first | ((with_reducible repeat' constructor); done) | (split <;> repeat' constructor)))

/-- `unfence` may change: fences. -/
theorem unfence_keeps (x0 : ℕ) {w : Nat} {s0 s : State} (hw : 2199023255552 &&& w = 2199023255552) (h : Keeps w s0 s) :
    Keeps w s0 (unfence x0 s) := by
  unfold unfence
  repeat' first
    | with_reducible exact h
    | (extract_lets +onlyGivenNames a; (have y : FclSt := a; clear y); dsimp -zeta only [a]; clear a)
    | fail_if_no_progress (with_reducible refine Keeps.set_fcl_fences ?_ (mask_trans (by decide) hw) _ (by first | ((with_reducible repeat' constructor); done) | (split <;> repeat' constructor)))

/-- `graftEnter` may change: regs, vectors, mailbox, fences, grafting. -/
theorem graftEnter_keeps (x0 : ℕ) {w : Nat} {s0 s : State} (hw : 11166914969601 &&& w = 11166914969601) (h : Keeps w s0 s) :
    Keeps w s0 (graftEnter x0 s) := by
  unfold graftEnter
  repeat' first
    | with_reducible exact h
    | exact mask_trans (by decide) hw
    | with_reducible apply graftEnd_keeps
    | with_reducible apply unfence_keeps

end Sys2Proof.Machine
end

