-- ==== Sys2Proof/Laws/KeepLaneOps.lean ====
section
/-! SUPPORT. What each operation of Machine/LaneOps.lean may change: one lemma per operation, by the bits of the parts
of State (Sys2Proof.Machine.Part.bit). -/

namespace Sys2Proof.Machine

/-- `laneEnter` may change: regs, lanes, vectors, mailbox, fences, grafting. -/
theorem laneEnter_keeps (x0 : ℕ) {w : Nat} {s0 s : State} (hw : 11167049187329 &&& w = 11167049187329) (h : Keeps w s0 s) :
    Keeps w s0 (laneEnter x0 s) := by
  unfold laneEnter
  repeat' first
    | with_reducible exact h
    | (extract_lets +onlyGivenNames a; clear_value a)
    | exact mask_trans (by decide) hw
    | with_reducible apply graftEnter_keeps
    | with_reducible apply raise_keeps
    | with_reducible apply setLane_keeps
    | with_reducible apply Keeps.ite

/-- `switchLanes` may change: regs, portUp, portDn, lanes, vectors, mailbox, fences, grafting. -/
theorem switchLanes_keeps (x0 : Port) {w : Nat} {s0 s : State} (hw : 11167149850625 &&& w = 11167149850625) (h : Keeps w s0 s) :
    Keeps w s0 (switchLanes x0 s) := by
  unfold switchLanes
  repeat' first
    | with_reducible exact h
    | with_reducible assumption
    | (extract_lets +onlyGivenNames a; with_reducible refine Keeps.cut (w := w) (s := s0) a ?_ (fun ha => ?_); (on_goal 2 => clear_value a); (on_goal 1 => (dsimp -zeta only [a]; clear a)))
    | (extract_lets +onlyGivenNames a; clear_value a)
    | exact mask_trans (by decide) hw
    | with_reducible apply laneEnter_keeps
    | with_reducible apply sendBlock_keeps
    | with_reducible apply setPort_keeps
    | (with_reducible apply Keeps.foldl; intros)

/-- `askLanes` may change: portUp, portDn. -/
theorem askLanes_keeps (x0 : Port) {w : Nat} {s0 s : State} (hw : 100663296 &&& w = 100663296) (h : Keeps w s0 s) :
    Keeps w s0 (askLanes x0 s) := by
  unfold askLanes
  repeat' first
    | with_reducible exact h
    | with_reducible assumption
    | (extract_lets +onlyGivenNames a; clear_value a)
    | with_reducible apply sendBlock_keeps
    | with_reducible apply setPort_keeps

/-- `retarget` may change: regs, portUp, portDn, lanes, vectors, mailbox, fences, grafting. -/
theorem retarget_keeps (x0 : Port) {w : Nat} {s0 s : State} (hw : 11167149850625 &&& w = 11167149850625) (h : Keeps w s0 s) :
    Keeps w s0 (retarget x0 s) := by
  unfold retarget
  repeat' first
    | with_reducible exact h
    | with_reducible assumption
    | (extract_lets +onlyGivenNames a; with_reducible refine Keeps.cut (w := w) (s := s0) a ?_ (fun ha => ?_); (on_goal 2 => clear_value a); (on_goal 1 => (dsimp -zeta only [a]; clear a)))
    | (extract_lets +onlyGivenNames a; clear_value a)
    | exact mask_trans (by decide) hw
    | with_reducible apply askLanes_keeps
    | with_reducible apply sendBlock_keeps
    | with_reducible apply setPort_keeps
    | with_reducible apply switchLanes_keeps
    | with_reducible apply Keeps.ite

/-- `equaliseRate` may change: lanes. -/
theorem equaliseRate_keeps (x0 : Port) {w : Nat} {s0 s : State} (hw : 134217728 &&& w = 134217728) (h : Keeps w s0 s) :
    Keeps w s0 (equaliseRate x0 s) := by
  unfold equaliseRate
  repeat' first
    | with_reducible exact h
    | with_reducible assumption
    | (extract_lets +onlyGivenNames a; clear_value a)
    | with_reducible apply setLane_keeps
    | with_reducible apply Keeps.ite
    | (with_reducible apply Keeps.foldl; intros)

/-- `portUp` may change: regs, portUp, portDn, lanes, vectors, mailbox, fences, grafting. -/
theorem portUp_keeps (x0 : Port) {w : Nat} {s0 s : State} (hw : 11167149850625 &&& w = 11167149850625) (h : Keeps w s0 s) :
    Keeps w s0 (portUp x0 s) := by
  unfold portUp
  repeat' first
    | with_reducible exact h
    | with_reducible assumption
    | (extract_lets +onlyGivenNames a; with_reducible refine Keeps.cut (w := w) (s := s0) a ?_ (fun ha => ?_); (on_goal 2 => clear_value a); (on_goal 1 => (dsimp -zeta only [a]; clear a)))
    | (extract_lets +onlyGivenNames a; clear_value a)
    | exact mask_trans (by decide) hw
    | with_reducible apply equaliseRate_keeps
    | with_reducible apply raise_keeps
    | with_reducible apply retarget_keeps
    | with_reducible apply sendBlock_keeps
    | with_reducible apply setPort_keeps
    | with_reducible apply Keeps.ite

/-- `updateLength` may change: lanes, freeIdx. -/
theorem updateLength_keeps (x0 : ℕ) (x1 : ℕ) {w : Nat} {s0 s : State} (hw : 70368878395392 &&& w = 70368878395392) (h : Keeps w s0 s) :
    Keeps w s0 (updateLength x0 x1 s) := by
  unfold updateLength
  repeat' first
    | with_reducible exact h
    | with_reducible assumption
    | (extract_lets +onlyGivenNames a; with_reducible refine Keeps.cut (w := w) (s := s0) a ?_ (fun ha => ?_); (on_goal 2 => clear_value a); (on_goal 1 => (dsimp -zeta only [a]; clear a)))
    | (extract_lets +onlyGivenNames a; clear_value a)
    | exact mask_trans (by decide) hw
    | with_reducible apply quantUsed_keeps
    | with_reducible apply setLane_keeps
    | with_reducible apply Keeps.ite

/-- `linkGrant` may change: regs, portUp, portDn, lanes, vectors, mailbox, fences, grafting. -/
theorem linkGrant_keeps  {w : Nat} {s0 s : State} (hw : 11167149850625 &&& w = 11167149850625) (h : Keeps w s0 s) :
    Keeps w s0 (linkGrant s) := by
  unfold linkGrant
  repeat' first
    | with_reducible exact h
    | with_reducible assumption
    | with_reducible apply retarget_keeps

end Sys2Proof.Machine
end

