-- ==== Sys2Proof/Laws/KeepPfe.lean ====
section
/-! SUPPORT. What each operation of Machine/Pfe.lean may change: one lemma per operation, by the bits of the parts
of State (Sys2Proof.Machine.Part.bit). -/

namespace Sys2Proof.Machine

/-- `setBias` may change: pfe. -/
theorem setBias_keeps (x0 : ℕ) (x1 : BiasSt) {w : Nat} {s0 s : State} (hw : 512 &&& w = 512) (h : Keeps w s0 s) :
    Keeps w s0 (setBias x0 x1 s) := by
  unfold setBias
  repeat' first
    | with_reducible exact h
    | (extract_lets +onlyGivenNames a; clear_value a)
    | fail_if_no_progress (with_reducible refine Keeps.set_pfe ?_ (mask_trans (by decide) hw) _)

/-- `biasEnable` may change: pfe. -/
theorem biasEnable_keeps (x0 : ℕ) (x1 : Bool) {w : Nat} {s0 s : State} (hw : 512 &&& w = 512) (h : Keeps w s0 s) :
    Keeps w s0 (biasEnable x0 x1 s) := by
  unfold biasEnable
  repeat' first
    | with_reducible exact h
    | with_reducible assumption
    | (extract_lets +onlyGivenNames a; with_reducible refine Keeps.cut (w := w) (s := s0) a ?_ (fun ha => ?_); (on_goal 2 => clear_value a); (on_goal 1 => (dsimp -zeta only [a]; clear a)))
    | (extract_lets +onlyGivenNames a; clear_value a)
    | with_reducible apply setBias_keeps
    | split
    | fail_if_no_progress (with_reducible refine Keeps.set_pfe ?_ (mask_trans (by decide) hw) _)

/-- `pfeOpen` may change: regs, pfe, hse, vectors, messages, freeIdx. -/
theorem pfeOpen_keeps  {w : Nat} {s0 s : State} (hw : 71502615546369 &&& w = 71502615546369) (h : Keeps w s0 s) :
    Keeps w s0 (pfeOpen s) := by
  unfold pfeOpen
  repeat' first
    | with_reducible exact h
    | with_reducible assumption
    | (extract_lets +onlyGivenNames a; with_reducible refine Keeps.cut (w := w) (s := s0) a ?_ (fun ha => ?_); (on_goal 2 => clear_value a); (on_goal 1 => (dsimp -zeta only [a]; clear a)))
    | (extract_lets +onlyGivenNames a; clear_value a)
    | exact mask_trans (by decide) hw
    | with_reducible apply bump_keeps
    | with_reducible apply fault_keeps
    | with_reducible apply stick_keeps
    | with_reducible apply Keeps.ite
    | fail_if_no_progress (with_reducible refine Keeps.set_pfe_hse ?_ (mask_trans (by decide) hw) _ _)

/-- `biasCheck` may change: regs, pfe, vectors, messages. -/
theorem biasCheck_keeps (x0 : ℕ) (x1 : ℕ) (x2 : ℤ) {w : Nat} {s0 s : State} (hw : 1133871366657 &&& w = 1133871366657) (h : Keeps w s0 s) :
    Keeps w s0 (biasCheck x0 x1 x2 s) := by
  unfold biasCheck
  repeat' first
    | with_reducible exact h
    | with_reducible assumption
    | (extract_lets +onlyGivenNames a; with_reducible refine Keeps.cut (w := w) (s := s0) a ?_ (fun ha => ?_); (on_goal 2 => clear_value a); (on_goal 1 => (dsimp -zeta only [a]; clear a)))
    | (extract_lets +onlyGivenNames a; clear_value a)
    | exact mask_trans (by decide) hw
    | with_reducible apply fault_keeps
    | with_reducible apply setBias_keeps
    | with_reducible apply stick_keeps
    | with_reducible apply Keeps.ite

/-- `hotDecide` may change: regs, pfe, vectors, messages. -/
theorem hotDecide_keeps (x0 : ℕ) (x1 : ℕ) (x2 : ℚ) {w : Nat} {s0 s : State} (hw : 1133871366657 &&& w = 1133871366657) (h : Keeps w s0 s) :
    Keeps w s0 (hotDecide x0 x1 x2 s) := by
  unfold hotDecide
  repeat' first
    | with_reducible exact h
    | with_reducible assumption
    | (extract_lets +onlyGivenNames a; with_reducible refine Keeps.cut1 (w := w) (s := s0) a ?_ (fun hg => ?_); (on_goal 2 => clear_value a); (on_goal 1 => (dsimp -zeta only [a]; clear a)))
    | (extract_lets +onlyGivenNames a; clear_value a)
    | with_reducible apply hg
    | exact mask_trans (by decide) hw
    | with_reducible apply fault_keeps
    | with_reducible apply raise_keeps
    | with_reducible apply stick_keeps
    | intro y
    | with_reducible apply Keeps.ite
    | fail_if_no_progress (with_reducible refine Keeps.set_pfe ?_ (mask_trans (by decide) hw) _)

/-- `hotDecisions` may change: regs, pfe, vectors, messages. -/
theorem hotDecisions_keeps (x0 : ℕ) {w : Nat} {s0 s : State} (hw : 1133871366657 &&& w = 1133871366657) (h : Keeps w s0 s) :
    Keeps w s0 (hotDecisions x0 s) := by
  unfold hotDecisions
  repeat' first
    | with_reducible exact h
    | with_reducible assumption
    | with_reducible apply hotDecide_keeps
    | with_reducible apply Keeps.ite
    | (with_reducible apply Keeps.foldl; intros)
    | split

/-- `meterStore` may change: pfe. -/
theorem meterStore_keeps (x0 : ℕ) (x1 : ℕ) {w : Nat} {s0 s : State} (hw : 512 &&& w = 512) (h : Keeps w s0 s) :
    Keeps w s0 (meterStore x0 x1 s) := by
  unfold meterStore
  repeat' first
    | with_reducible exact h
    | with_reducible assumption
    | (extract_lets +onlyGivenNames a; clear_value a)
    | with_reducible apply Keeps.ite
    | (with_reducible apply Keeps.foldl; intros)
    | fail_if_no_progress (with_reducible refine Keeps.set_pfe ?_ (mask_trans (by decide) hw) _)

/-- `pfeEpoch` may change: regs, pfe, vectors, messages. -/
theorem pfeEpoch_keeps (x0 : Tick) {w : Nat} {s0 s : State} (hw : 1133871366657 &&& w = 1133871366657) (h : Keeps w s0 s) :
    Keeps w s0 (pfeEpoch x0 s) := by
  unfold pfeEpoch
  repeat' first
    | with_reducible exact h
    | with_reducible assumption
    | (extract_lets +onlyGivenNames a; with_reducible refine Keeps.cut (w := w) (s := s0) a ?_ (fun ha => ?_); (on_goal 2 => clear_value a); (on_goal 1 => (dsimp -zeta only [a]; clear a)))
    | (extract_lets +onlyGivenNames a; clear_value a)
    | exact mask_trans (by decide) hw
    | with_reducible apply hotDecisions_keeps
    | with_reducible apply meterStore_keeps
    | with_reducible apply raise_keeps
    | with_reducible apply Keeps.ite
    | fail_if_no_progress (with_reducible refine Keeps.set_pfe ?_ (mask_trans (by decide) hw) _)

/-- `onBlankEnd` may change: tb, pfe. -/
theorem onBlankEnd_keeps (x0 : Fin 16) (x1 : Tick) {w : Nat} {s0 s : State} (hw : 576 &&& w = 576) (h : Keeps w s0 s) :
    Keeps w s0 (onBlankEnd x0 x1 s) := by
  unfold onBlankEnd
  repeat' first
    | with_reducible exact h
    | with_reducible assumption
    | (extract_lets +onlyGivenNames a; with_reducible refine Keeps.cut (w := w) (s := s0) a ?_ (fun ha => ?_); (on_goal 2 => clear_value a); (on_goal 1 => (dsimp -zeta only [a]; clear a)))
    | (extract_lets +onlyGivenNames a; clear_value a)
    | exact mask_trans (by decide) hw
    | with_reducible apply advance_keeps
    | with_reducible apply Keeps.ite
    | fail_if_no_progress (with_reducible refine Keeps.set_pfe ?_ (mask_trans (by decide) hw) _)

/-- `biasStep` may change: pfe. -/
theorem biasStep_keeps  {w : Nat} {s0 s : State} (hw : 512 &&& w = 512) (h : Keeps w s0 s) :
    Keeps w s0 (biasStep s) := by
  unfold biasStep
  repeat' first
    | with_reducible exact h
    | (extract_lets +onlyGivenNames a; clear_value a)
    | fail_if_no_progress (with_reducible refine Keeps.set_pfe ?_ (mask_trans (by decide) hw) _)

/-- `pfeEnd` may change: regs, firstItem, pfe, mcd, queues, lostMarks, portUp, portDn, merging, vectors, messages, freeIdx. -/
theorem pfeEnd_keeps (x0 : TagCtx) (x1 : ℕ) {w : Nat} {s0 s : State} (hw : 71502990410245 &&& w = 71502990410245) (h : Keeps w s0 s) :
    Keeps w s0 (pfeEnd x0 x1 s) := by
  unfold pfeEnd
  repeat' first
    | with_reducible exact h
    | with_reducible assumption
    | (extract_lets +onlyGivenNames a; with_reducible refine Keeps.cut (w := w) (s := s0) a ?_ (fun ha => ?_); (on_goal 2 => clear_value a); (on_goal 1 => (dsimp -zeta only [a]; clear a)))
    | (extract_lets +onlyGivenNames a; clear_value a)
    | exact mask_trans (by decide) hw
    | with_reducible apply biasStep_keeps
    | with_reducible apply bumpAt_keeps
    | with_reducible apply emitX_keeps
    | with_reducible apply hotDecisions_keeps
    | with_reducible apply meterStore_keeps
    | with_reducible apply raise_keeps
    | with_reducible apply toPartner_keeps
    | with_reducible apply Keeps.ite
    | fail_if_no_progress (with_reducible refine Keeps.set_pfe ?_ (mask_trans (by decide) hw) _)

/-- `onSpadAvalanche` may change: tb, pfe. -/
theorem onSpadAvalanche_keeps (x0 : Fin 512) (x1 : Fin 16) (x2 : Tick) {w : Nat} {s0 s : State} (hw : 576 &&& w = 576) (h : Keeps w s0 s) :
    Keeps w s0 (onSpadAvalanche x0 x1 x2 s) := by
  unfold onSpadAvalanche
  repeat' first
    | with_reducible exact h
    | with_reducible assumption
    | (extract_lets +onlyGivenNames a; with_reducible refine Keeps.cut (w := w) (s := s0) a ?_ (fun ha => ?_); (on_goal 2 => clear_value a); (on_goal 1 => (dsimp -zeta only [a]; clear a)))
    | (extract_lets +onlyGivenNames a; clear_value a)
    | exact mask_trans (by decide) hw
    | with_reducible apply advance_keeps
    | with_reducible apply Keeps.ite
    | split
    | fail_if_no_progress (with_reducible refine Keeps.set_pfe ?_ (mask_trans (by decide) hw) _)

/-- `onBlankStart` may change: tb, pfe. -/
theorem onBlankStart_keeps (x0 : Fin 16) (x1 : Tick) {w : Nat} {s0 s : State} (hw : 576 &&& w = 576) (h : Keeps w s0 s) :
    Keeps w s0 (onBlankStart x0 x1 s) := by
  unfold onBlankStart
  repeat' first
    | with_reducible exact h
    | with_reducible assumption
    | (extract_lets +onlyGivenNames a; with_reducible refine Keeps.cut (w := w) (s := s0) a ?_ (fun ha => ?_); (on_goal 2 => clear_value a); (on_goal 1 => (dsimp -zeta only [a]; clear a)))
    | (extract_lets +onlyGivenNames a; clear_value a)
    | exact mask_trans (by decide) hw
    | with_reducible apply advance_keeps
    | with_reducible apply Keeps.ite
    | fail_if_no_progress (with_reducible refine Keeps.set_pfe ?_ (mask_trans (by decide) hw) _)

/-- `onSpadRearm` may change: tb, pfe. -/
theorem onSpadRearm_keeps (x0 : Fin 512) (x1 : Fin 16) (x2 : Tick) {w : Nat} {s0 s : State} (hw : 576 &&& w = 576) (h : Keeps w s0 s) :
    Keeps w s0 (onSpadRearm x0 x1 x2 s) := by
  unfold onSpadRearm
  repeat' first
    | with_reducible exact h
    | with_reducible assumption
    | (extract_lets +onlyGivenNames a; with_reducible refine Keeps.cut (w := w) (s := s0) a ?_ (fun ha => ?_); (on_goal 2 => clear_value a); (on_goal 1 => (dsimp -zeta only [a]; clear a)))
    | (extract_lets +onlyGivenNames a; clear_value a)
    | exact mask_trans (by decide) hw
    | with_reducible apply advance_keeps
    | fail_if_no_progress (with_reducible refine Keeps.set_pfe ?_ (mask_trans (by decide) hw) _)

/-- `onDeepCounts` may change: pfe. -/
theorem onDeepCounts_keeps (x0 : ℕ) (x1 : List ℕ) (x2 : List ℕ) (x3 : ℕ) {w : Nat} {s0 s : State} (hw : 512 &&& w = 512) (h : Keeps w s0 s) :
    Keeps w s0 (onDeepCounts x0 x1 x2 x3 s) := by
  unfold onDeepCounts
  repeat' first
    | with_reducible exact h
    | (extract_lets +onlyGivenNames a; clear_value a)
    | with_reducible apply Keeps.ite
    | fail_if_no_progress (with_reducible refine Keeps.set_pfe ?_ (mask_trans (by decide) hw) _)

/-- `graftQuiet` may change: pfe. -/
theorem graftQuiet_keeps (x0 : Tick) {w : Nat} {s0 s : State} (hw : 512 &&& w = 512) (h : Keeps w s0 s) :
    Keeps w s0 (graftQuiet x0 s) := by
  unfold graftQuiet
  repeat' first
    | with_reducible exact h
    | (extract_lets +onlyGivenNames a; clear_value a)
    | with_reducible apply Keeps.ite
    | split
    | fail_if_no_progress (with_reducible refine Keeps.set_pfe ?_ (mask_trans (by decide) hw) _)

/-- `graftStore` may change: pfe. -/
theorem graftStore_keeps (x0 : GraftMeter) (x1 : ℕ) (x2 : ℕ) {w : Nat} {s0 s : State} (hw : 512 &&& w = 512) (h : Keeps w s0 s) :
    Keeps w s0 (graftStore x0 x1 x2 s) := by
  unfold graftStore
  repeat' first
    | with_reducible exact h
    | (extract_lets +onlyGivenNames a; clear_value a)
    | with_reducible apply Keeps.ite
    | fail_if_no_progress (with_reducible refine Keeps.set_pfe ?_ (mask_trans (by decide) hw) _)

/-- `graftVisit` may change: regs, pfe, vectors, messages. -/
theorem graftVisit_keeps (x0 : GraftMeter) {w : Nat} {s0 s : State} (hw : 1133871366657 &&& w = 1133871366657) (h : Keeps w s0 s) :
    Keeps w s0 (graftVisit x0 s) := by
  unfold graftVisit
  repeat' first
    | with_reducible exact h
    | with_reducible assumption
    | (extract_lets +onlyGivenNames a; with_reducible refine Keeps.cut (w := w) (s := s0) a ?_ (fun ha => ?_); (on_goal 2 => clear_value a); (on_goal 1 => (dsimp -zeta only [a]; clear a)))
    | (extract_lets +onlyGivenNames a; clear_value a)
    | exact mask_trans (by decide) hw
    | with_reducible apply graftStore_keeps
    | with_reducible apply hotDecide_keeps
    | with_reducible apply Keeps.ite
    | (with_reducible apply Keeps.foldl; intros)
    | split

/-- `graftEpoch` may change: regs, pfe, vectors, messages. -/
theorem graftEpoch_keeps (x0 : Tick) {w : Nat} {s0 s : State} (hw : 1133871366657 &&& w = 1133871366657) (h : Keeps w s0 s) :
    Keeps w s0 (graftEpoch x0 s) := by
  unfold graftEpoch
  repeat' first
    | with_reducible exact h
    | with_reducible assumption
    | (extract_lets +onlyGivenNames a; with_reducible refine Keeps.cut (w := w) (s := s0) a ?_ (fun ha => ?_); (on_goal 2 => clear_value a); (on_goal 1 => (dsimp -zeta only [a]; clear a)))
    | (extract_lets +onlyGivenNames a; clear_value a)
    | exact mask_trans (by decide) hw
    | with_reducible apply graftQuiet_keeps
    | with_reducible apply graftVisit_keeps
    | with_reducible apply Keeps.ite
    | split
    | fail_if_no_progress (with_reducible refine Keeps.set_pfe ?_ (mask_trans (by decide) hw) _)

/-- `pfeSwap` may change: pfe. -/
theorem pfeSwap_keeps (x0 : TagCtx) (x1 : ℕ) {w : Nat} {s0 s : State} (hw : 512 &&& w = 512) (h : Keeps w s0 s) :
    Keeps w s0 (pfeSwap x0 x1 s) := by
  unfold pfeSwap
  repeat' first
    | with_reducible exact h
    | (extract_lets +onlyGivenNames a; clear_value a)
    | fail_if_no_progress (with_reducible refine Keeps.set_pfe ?_ (mask_trans (by decide) hw) _)

/-- `pfeTurn` may change: regs, firstItem, pfe, mcd, queues, lostMarks, portUp, portDn, merging, vectors, messages, freeIdx. -/
theorem pfeTurn_keeps  {w : Nat} {s0 s : State} (hw : 71502990410245 &&& w = 71502990410245) (h : Keeps w s0 s) :
    Keeps w s0 (pfeTurn s) := by
  unfold pfeTurn
  repeat' first
    | with_reducible exact h
    | with_reducible assumption
    | (extract_lets +onlyGivenNames a; clear_value a)
    | with_reducible apply pfeEnd_keeps
    | split
    | fail_if_no_progress (with_reducible refine Keeps.set_pfe ?_ (mask_trans (by decide) hw) _)

end Sys2Proof.Machine
end

