-- ==== Sys2Proof/Laws/KeepTdc.lean ====
section
/-! SUPPORT. What each operation of Machine/Tdc.lean may change: one lemma per operation, by the bits of the parts
of State (Sys2Proof.Machine.Part.bit). -/

namespace Sys2Proof.Machine

/-- `calReport` may change: regs, firstItem, mcd, queues, lostMarks, portUp, portDn, merging, vectors, messages, freeIdx. -/
theorem calReport_keeps (x0 : ℕ) (x1 : ℕ) (x2 : ℕ) (x3 : ℚ) (x4 : ℚ) {w : Nat} {s0 s : State} (hw : 71502990409733 &&& w = 71502990409733) (h : Keeps w s0 s) :
    Keeps w s0 (calReport x0 x1 x2 x3 x4 s) := by
  unfold calReport
  repeat' first
    | with_reducible exact h
    | with_reducible assumption
    | with_reducible apply emitX_keeps

/-- `setCal` may change: tdc. -/
theorem setCal_keeps (x0 : ℕ) (x1 : StripCal) {w : Nat} {s0 s : State} (hw : 128 &&& w = 128) (h : Keeps w s0 s) :
    Keeps w s0 (setCal x0 x1 s) := by
  unfold setCal
  repeat' first
    | with_reducible exact h
    | (extract_lets +onlyGivenNames a; clear_value a)
    | fail_if_no_progress (with_reducible refine Keeps.set_tdc ?_ (mask_trans (by decide) hw) _)

/-- `startCycle` may change: regs, tdc. -/
theorem startCycle_keeps (x0 : ℕ) (x1 : CalKind) (x2 : Tick) {w : Nat} {s0 s : State} (hw : 129 &&& w = 129) (h : Keeps w s0 s) :
    Keeps w s0 (startCycle x0 x1 x2 s) := by
  unfold startCycle
  repeat' first
    | with_reducible exact h
    | with_reducible assumption
    | (extract_lets +onlyGivenNames a; with_reducible refine Keeps.cut (w := w) (s := s0) a ?_ (fun ha => ?_); (on_goal 2 => clear_value a); (on_goal 1 => (dsimp -zeta only [a]; clear a)))
    | (extract_lets +onlyGivenNames a; clear_value a)
    | exact mask_trans (by decide) hw
    | with_reducible apply setCal_keeps
    | with_reducible apply wr_keeps
    | with_reducible apply Keeps.ite

/-- `postCal` may change: tdc. -/
theorem postCal_keeps (x0 : ℕ) (x1 : CalApply) {w : Nat} {s0 s : State} (hw : 128 &&& w = 128) (h : Keeps w s0 s) :
    Keeps w s0 (postCal x0 x1 s) := by
  unfold postCal
  repeat' first
    | with_reducible exact h
    | (extract_lets +onlyGivenNames a; clear_value a)
    | fail_if_no_progress (with_reducible refine Keeps.set_tdc ?_ (mask_trans (by decide) hw) _)

/-- `loadLines` may change: tdc. -/
theorem loadLines_keeps (x0 : ℕ) (x1 : List Line) {w : Nat} {s0 s : State} (hw : 128 &&& w = 128) (h : Keeps w s0 s) :
    Keeps w s0 (loadLines x0 x1 s) := by
  unfold loadLines
  repeat' first
    | with_reducible exact h
    | (extract_lets +onlyGivenNames a; clear_value a)
    | fail_if_no_progress (with_reducible refine Keeps.set_tdc ?_ (mask_trans (by decide) hw) _)

/-- `abandonCycle` may change: tdc. -/
theorem abandonCycle_keeps (x0 : ℕ) {w : Nat} {s0 s : State} (hw : 128 &&& w = 128) (h : Keeps w s0 s) :
    Keeps w s0 (abandonCycle x0 s) := by
  unfold abandonCycle
  repeat' first
    | with_reducible exact h
    | with_reducible assumption
    | (extract_lets +onlyGivenNames a; with_reducible refine Keeps.cut (w := w) (s := s0) a ?_ (fun ha => ?_); (on_goal 2 => clear_value a); (on_goal 1 => (dsimp -zeta only [a]; clear a)))
    | (extract_lets +onlyGivenNames a; clear_value a)
    | with_reducible apply loadLines_keeps
    | with_reducible apply setCal_keeps
    | with_reducible apply Keeps.ite
    | fail_if_no_progress (with_reducible refine Keeps.set_tdc ?_ (mask_trans (by decide) hw) _)

/-- `applyCal` may change: regs, tdc, mcd, queues, portUp, portDn, merging, vectors, messages, freeIdx. -/
theorem applyCal_keeps (x0 : ℕ) (x1 : CalApply) {w : Nat} {s0 s : State} (hw : 71502986215553 &&& w = 71502986215553) (h : Keeps w s0 s) :
    Keeps w s0 (applyCal x0 x1 s) := by
  unfold applyCal
  repeat' first
    | with_reducible exact h
    | with_reducible assumption
    | (extract_lets +onlyGivenNames a; with_reducible refine Keeps.cut (w := w) (s := s0) a ?_ (fun ha => ?_); (on_goal 2 => clear_value a); (on_goal 1 => (dsimp -zeta only [a]; clear a)))
    | (extract_lets +onlyGivenNames a; clear_value a)
    | exact mask_trans (by decide) hw
    | with_reducible apply emitCtlX_keeps
    | with_reducible apply loadLines_keeps
    | with_reducible apply setCal_keeps
    | with_reducible apply Keeps.ite

/-- `applyAllCal` may change: regs, tdc, mcd, queues, portUp, portDn, merging, vectors, messages, freeIdx. -/
theorem applyAllCal_keeps  {w : Nat} {s0 s : State} (hw : 71502986215553 &&& w = 71502986215553) (h : Keeps w s0 s) :
    Keeps w s0 (applyAllCal s) := by
  unfold applyAllCal
  repeat' first
    | with_reducible exact h
    | with_reducible assumption
    | (extract_lets +onlyGivenNames a; clear_value a)
    | with_reducible apply applyCal_keeps
    | (with_reducible apply Keeps.foldl; intros)
    | split
    | fail_if_no_progress (with_reducible refine Keeps.set_tdc ?_ (mask_trans (by decide) hw) _)

/-- `auxCount` may change: tsu. -/
theorem auxCount_keeps (x0 : ℕ) {w : Nat} {s0 s : State} (hw : 256 &&& w = 256) (h : Keeps w s0 s) :
    Keeps w s0 (auxCount x0 s) := by
  unfold auxCount
  repeat' first
    | with_reducible exact h
    | (extract_lets +onlyGivenNames a; clear_value a)
    | fail_if_no_progress (with_reducible refine Keeps.set_tsu ?_ (mask_trans (by decide) hw) _)

/-- `cycleFailed` may change: regs, tdc, tsu, vectors, messages, freeIdx. -/
theorem cycleFailed_keeps (x0 : ℕ) {w : Nat} {s0 s : State} (hw : 71502615544193 &&& w = 71502615544193) (h : Keeps w s0 s) :
    Keeps w s0 (cycleFailed x0 s) := by
  unfold cycleFailed
  repeat' first
    | with_reducible exact h
    | with_reducible assumption
    | (extract_lets +onlyGivenNames a; with_reducible refine Keeps.cut (w := w) (s := s0) a ?_ (fun ha => ?_); (on_goal 2 => clear_value a); (on_goal 1 => (dsimp -zeta only [a]; clear a)))
    | (extract_lets +onlyGivenNames a; clear_value a)
    | exact mask_trans (by decide) hw
    | with_reducible apply auxCount_keeps
    | with_reducible apply bump_keeps
    | with_reducible apply fault_keeps
    | with_reducible apply setCal_keeps
    | with_reducible apply Keeps.ite

/-- `attemptFailed` may change: regs, tdc, tsu, vectors, messages, freeIdx. -/
theorem attemptFailed_keeps (x0 : ℕ) (x1 : ℕ) (x2 : Tick) {w : Nat} {s0 s : State} (hw : 71502615544193 &&& w = 71502615544193) (h : Keeps w s0 s) :
    Keeps w s0 (attemptFailed x0 x1 x2 s) := by
  unfold attemptFailed
  repeat' first
    | with_reducible exact h
    | with_reducible assumption
    | (extract_lets +onlyGivenNames a; with_reducible refine Keeps.cut (w := w) (s := s0) a ?_ (fun ha => ?_); (on_goal 2 => clear_value a); (on_goal 1 => (dsimp -zeta only [a]; clear a)))
    | (extract_lets +onlyGivenNames a; clear_value a)
    | exact mask_trans (by decide) hw
    | with_reducible apply cycleFailed_keeps
    | with_reducible apply postCal_keeps
    | with_reducible apply setCal_keeps
    | with_reducible apply Keeps.ite

/-- `eligible` may change: tdc. -/
theorem eligible_keeps  {w : Nat} {s0 s : State} (hw : 128 &&& w = 128) (h : Keeps w s0 s) :
    Keeps w s0 (eligible s) := by
  unfold eligible
  repeat' first
    | with_reducible exact h
    | (extract_lets +onlyGivenNames a; clear_value a)
    | fail_if_no_progress (with_reducible refine Keeps.set_tdc ?_ (mask_trans (by decide) hw) _)

/-- `keepPass` may change: tdc. -/
theorem keepPass_keeps (x0 : ℕ) (x1 : List (List ℕ)) {w : Nat} {s0 s : State} (hw : 128 &&& w = 128) (h : Keeps w s0 s) :
    Keeps w s0 (keepPass x0 x1 s) := by
  unfold keepPass
  repeat' first
    | with_reducible exact h
    | (extract_lets +onlyGivenNames a; clear_value a)
    | fail_if_no_progress (with_reducible refine Keeps.set_tdc ?_ (mask_trans (by decide) hw) _)

/-- `attemptReport` may change: regs, firstItem, mcd, queues, lostMarks, portUp, portDn, merging, vectors, messages, freeIdx. -/
theorem attemptReport_keeps (x0 : ℕ) (x1 : ℕ) (x2 : ℚ) (x3 : ℚ) {w : Nat} {s0 s : State} (hw : 71502990409733 &&& w = 71502990409733) (h : Keeps w s0 s) :
    Keeps w s0 (attemptReport x0 x1 x2 x3 s) := by
  unfold attemptReport
  repeat' first
    | with_reducible exact h
    | with_reducible assumption
    | with_reducible apply calReport_keeps
    | with_reducible apply Keeps.ite

/-- `passEnd` may change: regs, firstItem, tdc, tsu, mcd, queues, lostMarks, portUp, portDn, merging, vectors, messages, freeIdx. -/
theorem passEnd_keeps (x0 : ℕ) (x1 : Tick) {w : Nat} {s0 s : State} (hw : 71502990410117 &&& w = 71502990410117) (h : Keeps w s0 s) :
    Keeps w s0 (passEnd x0 x1 s) := by
  unfold passEnd
  repeat' first
    | with_reducible exact h
    | with_reducible assumption
    | (extract_lets +onlyGivenNames a; with_reducible refine Keeps.cut (w := w) (s := s0) a ?_ (fun ha => ?_); (on_goal 2 => clear_value a); (on_goal 1 => (dsimp -zeta only [a]; clear a)))
    | (extract_lets +onlyGivenNames a; clear_value a)
    | exact mask_trans (by decide) hw
    | with_reducible apply attemptFailed_keeps
    | with_reducible apply attemptReport_keeps
    | with_reducible apply keepPass_keeps
    | with_reducible apply postCal_keeps
    | with_reducible apply raise_keeps
    | with_reducible apply setCal_keeps
    | with_reducible apply Keeps.ite
    | split

/-- `auxCalItem` may change: regs, mcd, queues, portUp, portDn, merging, vectors, messages, freeIdx. -/
theorem auxCalItem_keeps (x0 : ℕ) {w : Nat} {s0 s : State} (hw : 71502986215425 &&& w = 71502986215425) (h : Keeps w s0 s) :
    Keeps w s0 (auxCalItem x0 s) := by
  unfold auxCalItem
  repeat' first
    | with_reducible exact h
    | with_reducible assumption
    | with_reducible apply emitCtl_keeps
    | with_reducible apply Keeps.ite

/-- `auxFailed` may change: regs, tsu, vectors, messages. -/
theorem auxFailed_keeps (x0 : ℕ) {w : Nat} {s0 s : State} (hw : 1133871366401 &&& w = 1133871366401) (h : Keeps w s0 s) :
    Keeps w s0 (auxFailed x0 s) := by
  unfold auxFailed
  repeat' first
    | with_reducible exact h
    | with_reducible assumption
    | (extract_lets +onlyGivenNames a; with_reducible refine Keeps.cut (w := w) (s := s0) a ?_ (fun ha => ?_); (on_goal 2 => clear_value a); (on_goal 1 => (dsimp -zeta only [a]; clear a)))
    | (extract_lets +onlyGivenNames a; clear_value a)
    | exact mask_trans (by decide) hw
    | with_reducible apply auxCount_keeps
    | with_reducible apply fault_keeps
    | with_reducible apply Keeps.ite
    | fail_if_no_progress (with_reducible refine Keeps.set_tsu ?_ (mask_trans (by decide) hw) _)

/-- `onAuxOverlapEnd` may change: regs, tb, tsu, mcd, queues, portUp, portDn, merging, vectors, messages, freeIdx. -/
theorem onAuxOverlapEnd_keeps (x0 : Tick) {w : Nat} {s0 s : State} (hw : 71502986215745 &&& w = 71502986215745) (h : Keeps w s0 s) :
    Keeps w s0 (onAuxOverlapEnd x0 s) := by
  unfold onAuxOverlapEnd
  repeat' first
    | with_reducible exact h
    | with_reducible assumption
    | (extract_lets +onlyGivenNames a; with_reducible refine Keeps.cut (w := w) (s := s0) a ?_ (fun ha => ?_); (on_goal 2 => clear_value a); (on_goal 1 => (dsimp -zeta only [a]; clear a)))
    | (extract_lets +onlyGivenNames a; clear_value a)
    | exact mask_trans (by decide) hw
    | with_reducible apply advance_keeps
    | with_reducible apply auxCalItem_keeps
    | with_reducible apply auxFailed_keeps
    | with_reducible apply raise_keeps
    | with_reducible apply Keeps.ite
    | split
    | fail_if_no_progress (with_reducible refine Keeps.set_tsu ?_ (mask_trans (by decide) hw) _)

/-- `onAuxRotationStep` may change: regs, tb, tdc, tsu, vectors, messages. -/
theorem onAuxRotationStep_keeps (x0 : List (PassCounts × PassCounts × PassCounts)) (x1 : Tick) {w : Nat} {s0 s : State} (hw : 1133871366593 &&& w = 1133871366593) (h : Keeps w s0 s) :
    Keeps w s0 (onAuxRotationStep x0 x1 s) := by
  unfold onAuxRotationStep
  repeat' first
    | with_reducible exact h
    | with_reducible assumption
    | (extract_lets +onlyGivenNames a; with_reducible refine Keeps.cut (w := w) (s := s0) a ?_ (fun ha => ?_); (on_goal 2 => clear_value a); (on_goal 1 => (dsimp -zeta only [a]; clear a)))
    | (extract_lets +onlyGivenNames a; clear_value a)
    | exact mask_trans (by decide) hw
    | with_reducible apply advance_keeps
    | with_reducible apply auxFailed_keeps
    | with_reducible apply keepPass_keeps
    | with_reducible apply Keeps.ite
    | split
    | fail_if_no_progress (with_reducible refine Keeps.set_tdc_tsu ?_ (mask_trans (by decide) hw) _ _)

/-- `onCalPassEnd` may change: regs, firstItem, tb, tdc, tsu, mcd, queues, lostMarks, portUp, portDn, merging, vectors, messages, freeIdx. -/
theorem onCalPassEnd_keeps (x0 : Fin 32) (x1 : Tick) {w : Nat} {s0 s : State} (hw : 71502990410181 &&& w = 71502990410181) (h : Keeps w s0 s) :
    Keeps w s0 (onCalPassEnd x0 x1 s) := by
  unfold onCalPassEnd
  repeat' first
    | with_reducible exact h
    | with_reducible assumption
    | (extract_lets +onlyGivenNames a; with_reducible refine Keeps.cut (w := w) (s := s0) a ?_ (fun ha => ?_); (on_goal 2 => clear_value a); (on_goal 1 => (dsimp -zeta only [a]; clear a)))
    | exact mask_trans (by decide) hw
    | with_reducible apply advance_keeps
    | with_reducible apply passEnd_keeps
    | with_reducible apply Keeps.ite

/-- `onTdcCalStarved` may change: regs, firstItem, tb, tdc, mcd, queues, lostMarks, portUp, portDn, merging, vectors, messages, freeIdx. -/
theorem onTdcCalStarved_keeps (x0 : Fin 32) (x1 : Tick) {w : Nat} {s0 s : State} (hw : 71502990409925 &&& w = 71502990409925) (h : Keeps w s0 s) :
    Keeps w s0 (onTdcCalStarved x0 x1 s) := by
  unfold onTdcCalStarved
  repeat' first
    | with_reducible exact h
    | with_reducible assumption
    | (extract_lets +onlyGivenNames a; with_reducible refine Keeps.cut (w := w) (s := s0) a ?_ (fun ha => ?_); (on_goal 2 => clear_value a); (on_goal 1 => (dsimp -zeta only [a]; clear a)))
    | (extract_lets +onlyGivenNames a; clear_value a)
    | exact mask_trans (by decide) hw
    | with_reducible apply advance_keeps
    | with_reducible apply attemptReport_keeps
    | with_reducible apply postCal_keeps
    | with_reducible apply raise_keeps
    | with_reducible apply setCal_keeps
    | with_reducible apply Keeps.ite

/-- `onTdcCalReq` may change: regs, tb. -/
theorem onTdcCalReq_keeps (x0 : Word32) (x1 : Tick) {w : Nat} {s0 s : State} (hw : 65 &&& w = 65) (h : Keeps w s0 s) :
    Keeps w s0 (onTdcCalReq x0 x1 s) := by
  unfold onTdcCalReq
  repeat' first
    | with_reducible exact h
    | with_reducible assumption
    | (extract_lets +onlyGivenNames a; with_reducible refine Keeps.cut (w := w) (s := s0) a ?_ (fun ha => ?_); (on_goal 2 => clear_value a); (on_goal 1 => (dsimp -zeta only [a]; clear a)))
    | (extract_lets +onlyGivenNames a; clear_value a)
    | exact mask_trans (by decide) hw
    | with_reducible apply advance_keeps
    | with_reducible apply wr_keeps
    | with_reducible apply Keeps.ite

/-- `countTap` may change: tdc, freeIdx. -/
theorem countTap_keeps (x0 : ℕ) (x1 : ℕ) {w : Nat} {s0 s : State} (hw : 70368744177792 &&& w = 70368744177792) (h : Keeps w s0 s) :
    Keeps w s0 (countTap x0 x1 s) := by
  unfold countTap
  repeat' first
    | with_reducible exact h
    | (extract_lets +onlyGivenNames a; clear_value a)
    | split
    | fail_if_no_progress (with_reducible refine Keeps.set_tdc_freeIdx ?_ (mask_trans (by decide) hw) _ _)

/-- `onCalSourceEdge` may change: tb, tdc, freeIdx. -/
theorem onCalSourceEdge_keeps (x0 : Fin 532) (x1 : Fin 97) (x2 : Tick) {w : Nat} {s0 s : State} (hw : 70368744177856 &&& w = 70368744177856) (h : Keeps w s0 s) :
    Keeps w s0 (onCalSourceEdge x0 x1 x2 s) := by
  unfold onCalSourceEdge
  repeat' first
    | with_reducible exact h
    | with_reducible assumption
    | (extract_lets +onlyGivenNames a; with_reducible refine Keeps.cut (w := w) (s := s0) a ?_ (fun ha => ?_); (on_goal 2 => clear_value a); (on_goal 1 => (dsimp -zeta only [a]; clear a)))
    | (extract_lets +onlyGivenNames a; clear_value a)
    | exact mask_trans (by decide) hw
    | with_reducible apply advance_keeps
    | with_reducible apply countTap_keeps
    | with_reducible apply Keeps.ite
    | fail_if_no_progress (with_reducible refine Keeps.set_tdc ?_ (mask_trans (by decide) hw) _)

/-- `onCoincidenceEdge` may change: regs, tb, tdc, pfe, queues, vectors, messages, freeIdx. -/
theorem onCoincidenceEdge_keeps (x0 : Fin 512) (x1 : Fin 97) (x2 : Tick) {w : Nat} {s0 s : State} (hw : 71502616593089 &&& w = 71502616593089) (h : Keeps w s0 s) :
    Keeps w s0 (onCoincidenceEdge x0 x1 x2 s) := by
  unfold onCoincidenceEdge
  repeat' first
    | with_reducible exact h
    | with_reducible assumption
    | (extract_lets +onlyGivenNames a; with_reducible refine Keeps.cut (w := w) (s := s0) a ?_ (fun ha => ?_); (on_goal 2 => clear_value a); (on_goal 1 => (dsimp -zeta only [a]; clear a)))
    | (extract_lets +onlyGivenNames a; clear_value a)
    | exact mask_trans (by decide) hw
    | with_reducible apply advance_keeps
    | with_reducible apply countTap_keeps
    | with_reducible apply pushRT_keeps
    | with_reducible apply Keeps.ite
    | fail_if_no_progress (with_reducible refine Keeps.set_pfe ?_ (mask_trans (by decide) hw) _)
    | fail_if_no_progress (with_reducible refine Keeps.set_tdc ?_ (mask_trans (by decide) hw) _)

/-- `graftCommit` may change: tdc. -/
theorem graftCommit_keeps  {w : Nat} {s0 s : State} (hw : 128 &&& w = 128) (h : Keeps w s0 s) :
    Keeps w s0 (graftCommit s) := by
  unfold graftCommit
  repeat' first
    | with_reducible exact h
    | with_reducible assumption
    | (extract_lets +onlyGivenNames a; clear_value a)
    | with_reducible apply setCal_keeps
    | with_reducible apply Keeps.ite
    | (with_reducible apply Keeps.foldl; intros)

end Sys2Proof.Machine
end

