-- ==== Sys2Proof/Laws/KeepAla.lean ====
section
/-! SUPPORT. What each operation of Machine/Ala.lean may change: one lemma per operation, by the bits of the parts
of State (Sys2Proof.Machine.Part.bit). -/

namespace Sys2Proof.Machine

/-- `postGrant` may change: mailboxItems. -/
theorem postGrant_keeps  {w : Nat} {s0 s : State} (hw : 2097152 &&& w = 2097152) (h : Keeps w s0 s) :
    Keeps w s0 (postGrant s) := by
  unfold postGrant
  repeat' first
    | with_reducible exact h
    | with_reducible assumption
    | (extract_lets +onlyGivenNames a; with_reducible refine Keeps.cut (w := w) (s := s0) a ?_ (fun ha => ?_); (on_goal 2 => clear_value a); (on_goal 1 => (dsimp -zeta only [a]; clear a)))
    | (extract_lets +onlyGivenNames a; with_reducible refine Keeps.cut1 (w := w) (s := s0) a ?_ (fun hg => ?_); (on_goal 2 => clear_value a); (on_goal 1 => (dsimp -zeta only [a]; clear a)))
    | (extract_lets +onlyGivenNames a; clear_value a)
    | with_reducible apply hg
    | with_reducible apply x8Internal_keeps
    | intro y
    | with_reducible apply Keeps.ite

/-- `confirmClear` may change: esq, ala, hkp, faultState. -/
theorem confirmClear_keeps  {w : Nat} {s0 s : State} (hw : 35184397255680 &&& w = 35184397255680) (h : Keeps w s0 s) :
    Keeps w s0 (confirmClear s) := by
  unfold confirmClear
  repeat' first
    | with_reducible exact h
    | (extract_lets +onlyGivenNames a; (have y : FclSt := a; clear y); dsimp -zeta only [a]; clear a)
    | (extract_lets +onlyGivenNames a; clear_value a)
    | with_reducible apply Keeps.ite
    | fail_if_no_progress (with_reducible refine Keeps.set_esq_ala_hkp_fcl_faultState ?_ (mask_trans (by decide) hw) _ _ _ _ (by first | ((with_reducible repeat' constructor); done) | (split <;> repeat' constructor)))

/-- `installGrant` may change: regs, mailboxItems, ala, portUp, portDn, lanes, vectors, mailbox, fences, grafting. -/
theorem installGrant_keeps (x0 : ℕ) (x1 : AlaGrant) {w : Nat} {s0 s : State} (hw : 11167160336385 &&& w = 11167160336385) (h : Keeps w s0 s) :
    Keeps w s0 (installGrant x0 x1 s) := by
  unfold installGrant
  repeat' first
    | with_reducible exact h
    | with_reducible assumption
    | (extract_lets +onlyGivenNames a; with_reducible refine Keeps.cut (w := w) (s := s0) a ?_ (fun ha => ?_); (on_goal 2 => clear_value a); (on_goal 1 => (dsimp -zeta only [a]; clear a)))
    | (extract_lets +onlyGivenNames a; clear_value a)
    | exact mask_trans (by decide) hw
    | with_reducible apply linkGrant_keeps
    | with_reducible apply postGrant_keeps
    | fail_if_no_progress (with_reducible refine Keeps.set_ala ?_ (mask_trans (by decide) hw) _)

/-- `installStop` may change: regs, mailboxItems, ala, portUp, portDn, lanes, vectors, mailbox, fences, grafting, freeIdx. -/
theorem installStop_keeps (x0 : ℕ) (x1 : ℕ) {w : Nat} {s0 s : State} (hw : 81535904514049 &&& w = 81535904514049) (h : Keeps w s0 s) :
    Keeps w s0 (installStop x0 x1 s) := by
  unfold installStop
  repeat' first
    | with_reducible exact h
    | with_reducible assumption
    | (extract_lets +onlyGivenNames a; with_reducible refine Keeps.cut (w := w) (s := s0) a ?_ (fun ha => ?_); (on_goal 2 => clear_value a); (on_goal 1 => (dsimp -zeta only [a]; clear a)))
    | exact mask_trans (by decide) hw
    | with_reducible apply bump_keeps
    | with_reducible apply installGrant_keeps
    | with_reducible apply raise_keeps
    | with_reducible apply stick_keeps
    | with_reducible apply Keeps.ite

/-- `startupEpoch` may change: regs, firstItem, tdc, tsu, pfe, mcd, queues, lostMarks, portUp, portDn, merging, vectors, messages, freeIdx. -/
theorem startupEpoch_keeps  {w : Nat} {s0 s : State} (hw : 71502990410629 &&& w = 71502990410629) (h : Keeps w s0 s) :
    Keeps w s0 (startupEpoch s) := by
  unfold startupEpoch
  repeat' first
    | with_reducible exact h
    | with_reducible assumption
    | (extract_lets +onlyGivenNames a; with_reducible refine Keeps.cut (w := w) (s := s0) a ?_ (fun ha => ?_); (on_goal 2 => clear_value a); (on_goal 1 => (dsimp -zeta only [a]; clear a)))
    | (extract_lets +onlyGivenNames a; clear_value a)
    | exact mask_trans (by decide) hw
    | with_reducible apply applyAllCal_keeps
    | with_reducible apply attemptFailed_keeps
    | with_reducible apply attemptReport_keeps
    | with_reducible apply eligible_keeps
    | with_reducible apply passEnd_keeps
    | with_reducible apply pfeEpoch_keeps
    | with_reducible apply setCal_keeps
    | with_reducible apply Keeps.ite
    | (with_reducible apply Keeps.foldl; intros)
    | fail_if_no_progress (with_reducible refine Keeps.set_tdc ?_ (mask_trans (by decide) hw) _)

/-- `takeReport` may change: ala. -/
theorem takeReport_keeps (x0 : EpochReport) {w : Nat} {s0 s : State} (hw : 8388608 &&& w = 8388608) (h : Keeps w s0 s) :
    Keeps w s0 (takeReport x0 s) := by
  unfold takeReport
  repeat' first
    | with_reducible exact h
    | (extract_lets +onlyGivenNames a; clear_value a)
    | split
    | fail_if_no_progress (with_reducible refine Keeps.set_ala ?_ (mask_trans (by decide) hw) _)

/-- `readInputs` may change: ala. -/
theorem readInputs_keeps  {w : Nat} {s0 s : State} (hw : 8388608 &&& w = 8388608) (h : Keeps w s0 s) :
    Keeps w s0 (readInputs s) := by
  unfold readInputs
  repeat' first
    | with_reducible exact h
    | (extract_lets +onlyGivenNames a; clear_value a)
    | fail_if_no_progress (with_reducible refine Keeps.set_ala ?_ (mask_trans (by decide) hw) _)

/-- `onEpochStart` may change: regs, firstItem, tb, tdc, tsu, pfe, esq, mcd, queues, mailboxItems, lostMarks, ala, hkp, portUp, portDn, lanes, merging, cascade, vectors, mailbox, messages, fences, grafting, faultState, freeIdx. -/
theorem onEpochStart_keeps (x0 : EpochReport) (x1 : Tick) {w : Nat} {s0 s : State} (hw : 117820616083397 &&& w = 117820616083397) (h : Keeps w s0 s) :
    Keeps w s0 (onEpochStart x0 x1 s) := by
  unfold onEpochStart
  repeat' first
    | with_reducible exact h
    | with_reducible assumption
    | (extract_lets +onlyGivenNames a; with_reducible refine Keeps.cut (w := w) (s := s0) a ?_ (fun ha => ?_); (on_goal 2 => clear_value a); (on_goal 1 => (dsimp -zeta only [a]; clear a)))
    | (extract_lets +onlyGivenNames a; clear_value a)
    | exact mask_trans (by decide) hw
    | with_reducible apply advance_keeps
    | with_reducible apply alignBoundary_keeps
    | with_reducible apply bump_keeps
    | with_reducible apply confirmClear_keeps
    | with_reducible apply fault_keeps
    | with_reducible apply graftEpoch_keeps
    | with_reducible apply installGrant_keeps
    | with_reducible apply installStop_keeps
    | with_reducible apply postGrant_keeps
    | with_reducible apply readInputs_keeps
    | with_reducible apply startupEpoch_keeps
    | with_reducible apply stick_keeps
    | with_reducible apply takeReport_keeps
    | with_reducible apply Keeps.ite
    | split
    | fail_if_no_progress (with_reducible refine Keeps.set_ala ?_ (mask_trans (by decide) hw) _)

/-- `fitEvents` may change: regs, vectors, messages, freeIdx. -/
theorem fitEvents_keeps (x0 : AlaGrant) {w : Nat} {s0 s : State} (hw : 71502615543809 &&& w = 71502615543809) (h : Keeps w s0 s) :
    Keeps w s0 (fitEvents x0 s) := by
  unfold fitEvents
  repeat' first
    | with_reducible exact h
    | with_reducible assumption
    | (extract_lets +onlyGivenNames a; with_reducible refine Keeps.cut (w := w) (s := s0) a ?_ (fun ha => ?_); (on_goal 2 => clear_value a); (on_goal 1 => (dsimp -zeta only [a]; clear a)))
    | exact mask_trans (by decide) hw
    | with_reducible apply bump_keeps
    | with_reducible apply fault_keeps
    | with_reducible apply raise_keeps
    | with_reducible apply stick_keeps
    | with_reducible apply Keeps.ite

/-- `ladderEvents` may change: regs, ala, vectors, messages, freeIdx. -/
theorem ladderEvents_keeps (x0 : AlaGrant) {w : Nat} {s0 s : State} (hw : 71502623932417 &&& w = 71502623932417) (h : Keeps w s0 s) :
    Keeps w s0 (ladderEvents x0 s) := by
  unfold ladderEvents
  repeat' first
    | with_reducible exact h
    | with_reducible assumption
    | (extract_lets +onlyGivenNames a; with_reducible refine Keeps.cut (w := w) (s := s0) a ?_ (fun ha => ?_); (on_goal 2 => clear_value a); (on_goal 1 => (dsimp -zeta only [a]; clear a)))
    | (extract_lets +onlyGivenNames a; clear_value a)
    | exact mask_trans (by decide) hw
    | with_reducible apply fitEvents_keeps
    | with_reducible apply raise_keeps
    | with_reducible apply Keeps.ite
    | fail_if_no_progress (with_reducible refine Keeps.set_ala ?_ (mask_trans (by decide) hw) _)

/-- `schedEvents` may change: regs, vectors, messages, freeIdx. -/
theorem schedEvents_keeps (x0 : AlaGrant) {w : Nat} {s0 s : State} (hw : 71502615543809 &&& w = 71502615543809) (h : Keeps w s0 s) :
    Keeps w s0 (schedEvents x0 s) := by
  unfold schedEvents
  repeat' first
    | with_reducible exact h
    | with_reducible assumption
    | (extract_lets +onlyGivenNames a; with_reducible refine Keeps.cut (w := w) (s := s0) a ?_ (fun ha => ?_); (on_goal 2 => clear_value a); (on_goal 1 => (dsimp -zeta only [a]; clear a)))
    | exact mask_trans (by decide) hw
    | with_reducible apply bump_keeps
    | with_reducible apply fitEvents_keeps
    | with_reducible apply raise_keeps
    | with_reducible apply stick_keeps
    | with_reducible apply Keeps.ite

/-- `computeGrant` may change: regs, ala, vectors, messages, freeIdx. -/
theorem computeGrant_keeps (x0 : ℕ) {w : Nat} {s0 s : State} (hw : 71502623932417 &&& w = 71502623932417) (h : Keeps w s0 s) :
    Keeps w s0 (computeGrant x0 s) := by
  unfold computeGrant
  repeat' first
    | with_reducible exact h
    | with_reducible assumption
    | (extract_lets +onlyGivenNames a; with_reducible refine Keeps.cut (w := w) (s := s0) a ?_ (fun ha => ?_); (on_goal 2 => clear_value a); (on_goal 1 => (dsimp -zeta only [a]; clear a)))
    | (extract_lets +onlyGivenNames a; clear_value a)
    | exact mask_trans (by decide) hw
    | with_reducible apply ladderEvents_keeps
    | with_reducible apply schedEvents_keeps
    | split
    | fail_if_no_progress (with_reducible refine Keeps.set_ala ?_ (mask_trans (by decide) hw) _)

/-- `firstGrant` may change: regs, mailboxItems, ala, portUp, portDn, lanes, vectors, mailbox, messages, fences, grafting, freeIdx. -/
theorem firstGrant_keeps  {w : Nat} {s0 s : State} (hw : 82635416141825 &&& w = 82635416141825) (h : Keeps w s0 s) :
    Keeps w s0 (firstGrant s) := by
  unfold firstGrant
  repeat' first
    | with_reducible exact h
    | with_reducible assumption
    | (extract_lets +onlyGivenNames a; with_reducible refine Keeps.cut (w := w) (s := s0) a ?_ (fun ha => ?_); (on_goal 2 => clear_value a); (on_goal 1 => (dsimp -zeta only [a]; clear a)))
    | (extract_lets +onlyGivenNames a; clear_value a)
    | exact mask_trans (by decide) hw
    | with_reducible apply computeGrant_keeps
    | with_reducible apply installGrant_keeps
    | with_reducible apply readInputs_keeps
    | split
    | fail_if_no_progress (with_reducible refine Keeps.set_ala ?_ (mask_trans (by decide) hw) _)

/-- `onGrantComputed` may change: regs, tb, ala, vectors, messages, freeIdx. -/
theorem onGrantComputed_keeps (x0 : Tick) {w : Nat} {s0 s : State} (hw : 71502623932481 &&& w = 71502623932481) (h : Keeps w s0 s) :
    Keeps w s0 (onGrantComputed x0 s) := by
  unfold onGrantComputed
  repeat' first
    | with_reducible exact h
    | with_reducible assumption
    | (extract_lets +onlyGivenNames a; with_reducible refine Keeps.cut (w := w) (s := s0) a ?_ (fun ha => ?_); (on_goal 2 => clear_value a); (on_goal 1 => (dsimp -zeta only [a]; clear a)))
    | (extract_lets +onlyGivenNames a; clear_value a)
    | exact mask_trans (by decide) hw
    | with_reducible apply advance_keeps
    | with_reducible apply computeGrant_keeps
    | split
    | fail_if_no_progress (with_reducible refine Keeps.set_ala ?_ (mask_trans (by decide) hw) _)

end Sys2Proof.Machine
end

