-- ==== Sys2Proof/Laws/KeepCloOps.lean ====
section
/-! SUPPORT. What each operation of Machine/CloOps.lean may change: one lemma per operation, by the bits of the parts
of State (Sys2Proof.Machine.Part.bit). -/

namespace Sys2Proof.Machine

/-- `setIn` may change: cloche. -/
theorem setIn_keeps (x0 : ℕ) (x1 : SafeInSt) {w : Nat} {s0 s : State} (hw : 2147483648 &&& w = 2147483648) (h : Keeps w s0 s) :
    Keeps w s0 (setIn x0 x1 s) := by
  unfold setIn
  repeat' first
    | with_reducible exact h
    | (extract_lets +onlyGivenNames a; (have y : CloSt := a; clear y); dsimp -zeta only [a]; clear a)
    | fail_if_no_progress (with_reducible refine Keeps.set_clo_cloche ?_ (mask_trans (by decide) hw) _ (by first | ((with_reducible repeat' constructor); done) | (split <;> repeat' constructor)))

/-- `setField` may change: cloche. -/
theorem setField_keeps (x0 : ℕ) (x1 : FieldSt) {w : Nat} {s0 s : State} (hw : 2147483648 &&& w = 2147483648) (h : Keeps w s0 s) :
    Keeps w s0 (setField x0 x1 s) := by
  unfold setField
  repeat' first
    | with_reducible exact h
    | (extract_lets +onlyGivenNames a; (have y : CloSt := a; clear y); dsimp -zeta only [a]; clear a)
    | fail_if_no_progress (with_reducible refine Keeps.set_clo_cloche ?_ (mask_trans (by decide) hw) _ (by first | ((with_reducible repeat' constructor); done) | (split <;> repeat' constructor)))

/-- `setOut` may change: cloche. -/
theorem setOut_keeps (x0 : ℕ) (x1 : OutSt) {w : Nat} {s0 s : State} (hw : 2147483648 &&& w = 2147483648) (h : Keeps w s0 s) :
    Keeps w s0 (setOut x0 x1 s) := by
  unfold setOut
  repeat' first
    | with_reducible exact h
    | (extract_lets +onlyGivenNames a; (have y : CloSt := a; clear y); dsimp -zeta only [a]; clear a)
    | fail_if_no_progress (with_reducible refine Keeps.set_clo_cloche ?_ (mask_trans (by decide) hw) _ (by first | ((with_reducible repeat' constructor); done) | (split <;> repeat' constructor)))

/-- `setChain` may change: cloche. -/
theorem setChain_keeps (x0 : ℕ) (x1 : ChainSt) {w : Nat} {s0 s : State} (hw : 2147483648 &&& w = 2147483648) (h : Keeps w s0 s) :
    Keeps w s0 (setChain x0 x1 s) := by
  unfold setChain
  repeat' first
    | with_reducible exact h
    | (extract_lets +onlyGivenNames a; (have y : CloSt := a; clear y); dsimp -zeta only [a]; clear a)
    | fail_if_no_progress (with_reducible refine Keeps.set_clo_cloche ?_ (mask_trans (by decide) hw) _ (by first | ((with_reducible repeat' constructor); done) | (split <;> repeat' constructor)))

/-- `setConn` may change: cloche. -/
theorem setConn_keeps (x0 : ℕ) (x1 : ConnSt) {w : Nat} {s0 s : State} (hw : 2147483648 &&& w = 2147483648) (h : Keeps w s0 s) :
    Keeps w s0 (setConn x0 x1 s) := by
  unfold setConn
  repeat' first
    | with_reducible exact h
    | (extract_lets +onlyGivenNames a; (have y : CloSt := a; clear y); dsimp -zeta only [a]; clear a)
    | fail_if_no_progress (with_reducible refine Keeps.set_clo_cloche ?_ (mask_trans (by decide) hw) _ (by first | ((with_reducible repeat' constructor); done) | (split <;> repeat' constructor)))

/-- `journalWrite` may change: nvm. -/
theorem journalWrite_keeps (x0 : ℕ) (x1 : ℕ) (x2 : ℕ) {w : Nat} {s0 s : State} (hw : 32 &&& w = 32) (h : Keeps w s0 s) :
    Keeps w s0 (journalWrite x0 x1 x2 s) := by
  unfold journalWrite
  repeat' first
    | with_reducible exact h
    | (extract_lets +onlyGivenNames a; clear_value a)
    | fail_if_no_progress (with_reducible refine Keeps.set_nvm ?_ (mask_trans (by decide) hw) _)

/-- `journalLock` may change: nvm. -/
theorem journalLock_keeps  {w : Nat} {s0 s : State} (hw : 32 &&& w = 32) (h : Keeps w s0 s) :
    Keeps w s0 (journalLock s) := by
  unfold journalLock
  repeat' first
    | with_reducible exact h
    | with_reducible assumption
    | with_reducible apply journalWrite_keeps

end Sys2Proof.Machine
end

