-- ==== Sys2Proof/Laws/KeepTaeOps.lean ====
section
/-! SUPPORT. What each operation of Machine/TaeOps.lean may change: one lemma per operation, by the bits of the parts
of State (Sys2Proof.Machine.Part.bit). -/

namespace Sys2Proof.Machine

/-- `setUnit` may change: tae. -/
theorem setUnit_keeps (x0 : ℕ) (x1 : CapUnit) {w : Nat} {s0 s : State} (hw : 16384 &&& w = 16384) (h : Keeps w s0 s) :
    Keeps w s0 (setUnit x0 x1 s) := by
  unfold setUnit
  repeat' first
    | with_reducible exact h
    | (extract_lets +onlyGivenNames a; clear_value a)
    | fail_if_no_progress (with_reducible refine Keeps.set_tae ?_ (mask_trans (by decide) hw) _)

/-- `emptyEngineQueue` may change: queues. -/
theorem emptyEngineQueue_keeps (x0 : ℕ) {w : Nat} {s0 s : State} (hw : 1048576 &&& w = 1048576) (h : Keeps w s0 s) :
    Keeps w s0 (emptyEngineQueue x0 s) := by
  unfold emptyEngineQueue
  repeat' first
    | with_reducible exact h
    | with_reducible assumption
    | (extract_lets +onlyGivenNames a; clear_value a)
    | with_reducible apply setQueue_keeps

/-- `setEngine` may change: mcd. -/
theorem setEngine_keeps (x0 : ℕ) (x1 : Option ℕ) {w : Nat} {s0 s : State} (hw : 524288 &&& w = 524288) (h : Keeps w s0 s) :
    Keeps w s0 (setEngine x0 x1 s) := by
  unfold setEngine
  repeat' first
    | with_reducible exact h
    | (extract_lets +onlyGivenNames a; clear_value a)
    | fail_if_no_progress (with_reducible refine Keeps.set_mcd ?_ (mask_trans (by decide) hw) _)

/-- `releaseEngine` may change: mcd, queues. -/
theorem releaseEngine_keeps (x0 : ℕ) {w : Nat} {s0 s : State} (hw : 1572864 &&& w = 1572864) (h : Keeps w s0 s) :
    Keeps w s0 (releaseEngine x0 s) := by
  unfold releaseEngine
  repeat' first
    | with_reducible exact h
    | exact mask_trans (by decide) hw
    | with_reducible apply emptyEngineQueue_keeps
    | with_reducible apply setEngine_keeps

/-- `dropCoding` may change: tae, mcd, queues. -/
theorem dropCoding_keeps (x0 : ℕ) {w : Nat} {s0 s : State} (hw : 1589248 &&& w = 1589248) (h : Keeps w s0 s) :
    Keeps w s0 (dropCoding x0 s) := by
  unfold dropCoding
  repeat' first
    | with_reducible exact h
    | with_reducible assumption
    | (extract_lets +onlyGivenNames a; with_reducible refine Keeps.cut (w := w) (s := s0) a ?_ (fun ha => ?_); (on_goal 2 => clear_value a); (on_goal 1 => (dsimp -zeta only [a]; clear a)))
    | (extract_lets +onlyGivenNames a; clear_value a)
    | exact mask_trans (by decide) hw
    | with_reducible apply releaseEngine_keeps
    | with_reducible apply setUnit_keeps
    | with_reducible apply Keeps.ite
    | (with_reducible apply Keeps.foldl; intros)

/-- `capLeave` may change: regs, tae, mcd, queues, vectors. -/
theorem capLeave_keeps (x0 : ℕ) {w : Nat} {s0 s : State} (hw : 34361327617 &&& w = 34361327617) (h : Keeps w s0 s) :
    Keeps w s0 (capLeave x0 s) := by
  unfold capLeave
  repeat' first
    | with_reducible exact h
    | with_reducible assumption
    | (extract_lets +onlyGivenNames a; with_reducible refine Keeps.cut (w := w) (s := s0) a ?_ (fun ha => ?_); (on_goal 2 => clear_value a); (on_goal 1 => (dsimp -zeta only [a]; clear a)))
    | (extract_lets +onlyGivenNames a; clear_value a)
    | exact mask_trans (by decide) hw
    | with_reducible apply dropCoding_keeps
    | with_reducible apply raise_keeps
    | with_reducible apply setUnit_keeps
    | with_reducible apply stick_keeps
    | with_reducible apply Keeps.ite
    | split

/-- `taeLate` may change: regs, vectors, messages. -/
theorem taeLate_keeps  {w : Nat} {s0 s : State} (hw : 1133871366145 &&& w = 1133871366145) (h : Keeps w s0 s) :
    Keeps w s0 (taeLate s) := by
  unfold taeLate
  repeat' first
    | with_reducible exact h
    | with_reducible assumption
    | exact mask_trans (by decide) hw
    | with_reducible apply bumpSat_keeps
    | with_reducible apply fault_keeps
    | with_reducible apply stick_keeps

/-- `taeName` may change: regs, tae, vectors, messages. -/
theorem taeName_keeps (x0 : ℕ) (x1 : ℕ) (x2 : ImgRec → Bool) {w : Nat} {s0 s : State} (hw : 1133871382529 &&& w = 1133871382529) (h : Keeps w s0 s) :
    Keeps w s0 (taeName x0 x1 x2 s) := by
  unfold taeName
  repeat' first
    | with_reducible exact h
    | with_reducible assumption
    | (extract_lets +onlyGivenNames a; clear_value a)
    | exact mask_trans (by decide) hw
    | with_reducible apply setUnit_keeps
    | with_reducible apply taeLate_keeps
    | with_reducible apply Keeps.ite
    | (with_reducible apply Keeps.foldl; intros)
    | split

/-- `capComplete` may change: regs, firstItem, tae, mcd, queues, lostMarks, portUp, portDn, merging, vectors, messages, freeIdx. -/
theorem capComplete_keeps (x0 : ℕ) (x1 : ImgRec) {w : Nat} {s0 s : State} (hw : 71502990426117 &&& w = 71502990426117) (h : Keeps w s0 s) :
    Keeps w s0 (capComplete x0 x1 s) := by
  unfold capComplete
  repeat' first
    | with_reducible exact h
    | (extract_lets +onlyGivenNames a; clear_value a)
    | exact mask_trans (by decide) hw
    | with_reducible apply dropCoding_keeps
    | with_reducible apply emit_keeps
    | with_reducible apply raise_keeps
    | with_reducible apply setUnit_keeps

/-- `capCheck` may change: regs, firstItem, tae, mcd, queues, lostMarks, portUp, portDn, merging, vectors, messages, freeIdx. -/
theorem capCheck_keeps (x0 : ℕ) {w : Nat} {s0 s : State} (hw : 71502990426117 &&& w = 71502990426117) (h : Keeps w s0 s) :
    Keeps w s0 (capCheck x0 s) := by
  unfold capCheck
  repeat' first
    | with_reducible exact h
    | with_reducible assumption
    | (extract_lets +onlyGivenNames a; clear_value a)
    | with_reducible apply capComplete_keeps
    | with_reducible apply Keeps.ite
    | split

/-- `countPre` may change: regs, tae, vectors. -/
theorem countPre_keeps (x0 : ℕ) (x1 : ImgRec) {w : Nat} {s0 s : State} (hw : 34359754753 &&& w = 34359754753) (h : Keeps w s0 s) :
    Keeps w s0 (countPre x0 x1 s) := by
  unfold countPre
  repeat' first
    | with_reducible exact h
    | with_reducible assumption
    | (extract_lets +onlyGivenNames a; with_reducible refine Keeps.cut (w := w) (s := s0) a ?_ (fun ha => ?_); (on_goal 2 => clear_value a); (on_goal 1 => (dsimp -zeta only [a]; clear a)))
    | (extract_lets +onlyGivenNames a; clear_value a)
    | exact mask_trans (by decide) hw
    | with_reducible apply raise_keeps
    | with_reducible apply setUnit_keeps
    | with_reducible apply stick_keeps
    | with_reducible apply Keeps.ite

/-- `storeFrame` may change: regs, firstItem, tae, mcd, queues, lostMarks, portUp, portDn, merging, vectors, messages, freeIdx. -/
theorem storeFrame_keeps (x0 : ℕ) (x1 : ℕ) (x2 : List CapBlock) {w : Nat} {s0 s : State} (hw : 71502990426117 &&& w = 71502990426117) (h : Keeps w s0 s) :
    Keeps w s0 (storeFrame x0 x1 x2 s) := by
  unfold storeFrame
  repeat' first
    | with_reducible exact h
    | with_reducible assumption
    | (extract_lets +onlyGivenNames a; with_reducible refine Keeps.cut (w := w) (s := s0) a ?_ (fun ha => ?_); (on_goal 2 => clear_value a); (on_goal 1 => (dsimp -zeta only [a]; clear a)))
    | (extract_lets +onlyGivenNames a; clear_value a)
    | exact mask_trans (by decide) hw
    | with_reducible apply capComplete_keeps
    | with_reducible apply countPre_keeps
    | with_reducible apply setUnit_keeps
    | with_reducible apply Keeps.ite
    | split

/-- `blockStored` may change: regs, firstItem, tae, mcd, queues, lostMarks, portUp, portDn, merging, vectors, messages, freeIdx. -/
theorem blockStored_keeps (x0 : ℕ) (x1 : CapPending) (x2 : List Byte) {w : Nat} {s0 s : State} (hw : 71502990426117 &&& w = 71502990426117) (h : Keeps w s0 s) :
    Keeps w s0 (blockStored x0 x1 x2 s) := by
  unfold blockStored
  repeat' first
    | with_reducible exact h
    | with_reducible assumption
    | (extract_lets +onlyGivenNames a; clear_value a)
    | exact mask_trans (by decide) hw
    | with_reducible apply capCheck_keeps
    | with_reducible apply setUnit_keeps
    | with_reducible apply storeFrame_keeps
    | with_reducible apply Keeps.ite

/-- `drainRaw` may change: regs, firstItem, tae, mcd, queues, lostMarks, portUp, portDn, merging, vectors, messages, freeIdx. -/
theorem drainRaw_keeps (x0 : ℕ) (x1 : ℕ) {w : Nat} {s0 s : State} (hw : 71502990426117 &&& w = 71502990426117) (h : Keeps w s0 s) :
    Keeps w s0 (drainRaw x0 x1 s) := by
  revert h
  induction x0 generalizing x1 s with
  | zero => intro h; unfold drainRaw; exact h
  | succ y0 ih =>
    intro h
    unfold drainRaw
    repeat' first
      | with_reducible apply ih
      | with_reducible exact h
      | with_reducible assumption
      | (extract_lets +onlyGivenNames a; clear_value a)
      | exact mask_trans (by decide) hw
      | with_reducible apply blockStored_keeps
      | with_reducible apply capCheck_keeps
      | with_reducible apply setUnit_keeps
      | with_reducible apply storeFrame_keeps
      | with_reducible apply Keeps.ite
      | split

/-- `capClosing` may change: regs, firstItem, mcd, queues, lostMarks, portUp, portDn, merging, vectors, messages, freeIdx. -/
theorem capClosing_keeps (x0 : ℕ) (x1 : ImgRec) (x2 : Bool) {w : Nat} {s0 s : State} (hw : 71502990409733 &&& w = 71502990409733) (h : Keeps w s0 s) :
    Keeps w s0 (capClosing x0 x1 x2 s) := by
  unfold capClosing
  repeat' first
    | with_reducible exact h
    | with_reducible assumption
    | (extract_lets +onlyGivenNames a; clear_value a)
    | with_reducible apply emit_keeps

/-- `readAborted` may change: regs, firstItem, tae, mcd, queues, lostMarks, portUp, portDn, merging, vectors, mailbox, messages, freeIdx. -/
theorem readAborted_keeps (x0 : ℕ) {w : Nat} {s0 s : State} (hw : 71640429379589 &&& w = 71640429379589) (h : Keeps w s0 s) :
    Keeps w s0 (readAborted x0 s) := by
  unfold readAborted
  repeat' first
    | with_reducible exact h
    | with_reducible assumption
    | (extract_lets +onlyGivenNames a; with_reducible refine Keeps.cut (w := w) (s := s0) a ?_ (fun ha => ?_); (on_goal 2 => clear_value a); (on_goal 1 => (dsimp -zeta only [a]; clear a)))
    | (extract_lets +onlyGivenNames a; clear_value a)
    | exact mask_trans (by decide) hw
    | with_reducible apply capClosing_keeps
    | with_reducible apply finishFree_keeps
    | with_reducible apply setUnit_keeps
    | split

/-- `ringLost` may change: regs, firstItem, tae, mcd, queues, lostMarks, portUp, portDn, merging, vectors, mailbox, messages, freeIdx. -/
theorem ringLost_keeps (x0 : ℕ) {w : Nat} {s0 s : State} (hw : 71640429379589 &&& w = 71640429379589) (h : Keeps w s0 s) :
    Keeps w s0 (ringLost x0 s) := by
  unfold ringLost
  repeat' first
    | with_reducible exact h
    | with_reducible assumption
    | (extract_lets +onlyGivenNames a; with_reducible refine Keeps.cut (w := w) (s := s0) a ?_ (fun ha => ?_); (on_goal 2 => clear_value a); (on_goal 1 => (dsimp -zeta only [a]; clear a)))
    | (extract_lets +onlyGivenNames a; clear_value a)
    | exact mask_trans (by decide) hw
    | with_reducible apply capLeave_keeps
    | with_reducible apply dropCoding_keeps
    | with_reducible apply fault_keeps
    | with_reducible apply raise_keeps
    | with_reducible apply readAborted_keeps
    | with_reducible apply setUnit_keeps
    | with_reducible apply stick_keeps
    | with_reducible apply Keeps.ite

end Sys2Proof.Machine
end

