-- ==== Sys2Proof/Laws/KeepTsu.lean ====
section
/-! SUPPORT. What each operation of Machine/Tsu.lean may change: one lemma per operation, by the bits of the parts
of State (Sys2Proof.Machine.Part.bit). -/

namespace Sys2Proof.Machine

/-- `setTsi` may change: tsu. -/
theorem setTsi_keeps (x0 : ℕ) (x1 : TsiSt) {w : Nat} {s0 s : State} (hw : 256 &&& w = 256) (h : Keeps w s0 s) :
    Keeps w s0 (setTsi x0 x1 s) := by
  unfold setTsi
  repeat' first
    | with_reducible exact h
    | (extract_lets +onlyGivenNames a; clear_value a)
    | fail_if_no_progress (with_reducible refine Keeps.set_tsu ?_ (mask_trans (by decide) hw) _)

/-- `closePack` may change: regs, firstItem, tsu, tae, mcd, queues, lostMarks, portUp, portDn, merging, vectors, messages, freeIdx. -/
theorem closePack_keeps (x0 : ℕ) {w : Nat} {s0 s : State} (hw : 71502990426373 &&& w = 71502990426373) (h : Keeps w s0 s) :
    Keeps w s0 (closePack x0 s) := by
  unfold closePack
  repeat' first
    | with_reducible exact h
    | (extract_lets +onlyGivenNames a; clear_value a)
    | exact mask_trans (by decide) hw
    | with_reducible apply emitX_keeps
    | with_reducible apply setTsi_keeps
    | with_reducible apply taeName_keeps
    | with_reducible apply Keeps.ite

/-- `packStamps` may change: regs, firstItem, tsu, tae, mcd, queues, lostMarks, portUp, portDn, merging, vectors, messages, freeIdx. -/
theorem packStamps_keeps (x0 : ℕ) (x1 : List Word64) {w : Nat} {s0 s : State} (hw : 71502990426373 &&& w = 71502990426373) (h : Keeps w s0 s) :
    Keeps w s0 (packStamps x0 x1 s) := by
  unfold packStamps
  repeat' first
    | with_reducible exact h
    | with_reducible assumption
    | (extract_lets +onlyGivenNames a; with_reducible refine Keeps.cut (w := w) (s := s0) a ?_ (fun ha => ?_); (on_goal 2 => clear_value a); (on_goal 1 => (dsimp -zeta only [a]; clear a)))
    | (extract_lets +onlyGivenNames a; clear_value a)
    | exact mask_trans (by decide) hw
    | with_reducible apply closePack_keeps
    | with_reducible apply setTsi_keeps
    | with_reducible apply Keeps.ite
    | (with_reducible apply Keeps.foldl; intros)

/-- `drainTsu` may change: regs, firstItem, tsu, tae, mcd, queues, lostMarks, portUp, portDn, merging, vectors, messages, freeIdx. -/
theorem drainTsu_keeps (x0 : ℕ) {w : Nat} {s0 s : State} (hw : 71502990426373 &&& w = 71502990426373) (h : Keeps w s0 s) :
    Keeps w s0 (drainTsu x0 s) := by
  unfold drainTsu
  repeat' first
    | with_reducible exact h
    | with_reducible assumption
    | (extract_lets +onlyGivenNames a; with_reducible refine Keeps.cut (w := w) (s := s0) a ?_ (fun ha => ?_); (on_goal 2 => clear_value a); (on_goal 1 => (dsimp -zeta only [a]; clear a)))
    | (extract_lets +onlyGivenNames a; clear_value a)
    | exact mask_trans (by decide) hw
    | with_reducible apply loseBefore_keeps
    | with_reducible apply packStamps_keeps
    | with_reducible apply setTsi_keeps
    | with_reducible apply takeAll_keeps
    | with_reducible apply Keeps.ite

/-- `windowResult` may change: regs, firstItem, tsu, mcd, queues, lostMarks, portUp, portDn, merging, x12, vectors, messages, freeIdx. -/
theorem windowResult_keeps (x0 : ℕ) (x1 : Window) (x2 : Bool) {w : Nat} {s0 s : State} (hw : 71507285377285 &&& w = 71507285377285) (h : Keeps w s0 s) :
    Keeps w s0 (windowResult x0 x1 x2 s) := by
  unfold windowResult
  repeat' first
    | with_reducible exact h
    | with_reducible assumption
    | (extract_lets +onlyGivenNames a; with_reducible refine Keeps.cut (w := w) (s := s0) a ?_ (fun ha => ?_); (on_goal 2 => clear_value a); (on_goal 1 => (dsimp -zeta only [a]; clear a)))
    | (extract_lets +onlyGivenNames a; clear_value a)
    | exact mask_trans (by decide) hw
    | with_reducible apply emit_keeps
    | with_reducible apply raise_keeps
    | with_reducible apply setTsi_keeps
    | with_reducible apply x12Post_keeps
    | with_reducible apply Keeps.ite

/-- `windowStart` may change: regs, firstItem, tsu, mcd, queues, lostMarks, portUp, portDn, merging, x12, vectors, messages, freeIdx. -/
theorem windowStart_keeps (x0 : ℕ) (x1 : Tick) {w : Nat} {s0 s : State} (hw : 71507285377285 &&& w = 71507285377285) (h : Keeps w s0 s) :
    Keeps w s0 (windowStart x0 x1 s) := by
  unfold windowStart
  repeat' first
    | with_reducible exact h
    | with_reducible assumption
    | (extract_lets +onlyGivenNames a; with_reducible refine Keeps.cut (w := w) (s := s0) a ?_ (fun ha => ?_); (on_goal 2 => clear_value a); (on_goal 1 => (dsimp -zeta only [a]; clear a)))
    | (extract_lets +onlyGivenNames a; clear_value a)
    | exact mask_trans (by decide) hw
    | with_reducible apply setTsi_keeps
    | with_reducible apply windowResult_keeps
    | with_reducible apply Keeps.ite
    | split

/-- `windowStarts` may change: regs, firstItem, tsu, mcd, queues, lostMarks, portUp, portDn, merging, x12, vectors, messages, freeIdx. -/
theorem windowStarts_keeps (x0 : ℕ) (x1 : ℕ) (x2 : Tick) {w : Nat} {s0 s : State} (hw : 71507285377285 &&& w = 71507285377285) (h : Keeps w s0 s) :
    Keeps w s0 (windowStarts x0 x1 x2 s) := by
  unfold windowStarts
  repeat' first
    | with_reducible exact h
    | with_reducible assumption
    | with_reducible apply windowStart_keeps
    | with_reducible apply Keeps.ite
    | (with_reducible apply Keeps.foldl; intros)

/-- `closePacks` may change: regs, firstItem, tsu, tae, mcd, queues, lostMarks, portUp, portDn, merging, vectors, messages, freeIdx. -/
theorem closePacks_keeps  {w : Nat} {s0 s : State} (hw : 71502990426373 &&& w = 71502990426373) (h : Keeps w s0 s) :
    Keeps w s0 (closePacks s) := by
  unfold closePacks
  repeat' first
    | with_reducible exact h
    | with_reducible assumption
    | with_reducible apply closePack_keeps
    | (with_reducible apply Keeps.foldl; intros)

/-- `onTsiEdge` may change: regs, firstItem, tb, tsu, tae, mcd, queues, lostMarks, portUp, portDn, merging, x12, vectors, messages, freeIdx. -/
theorem onTsiEdge_keeps (x0 : Fin 16) (x1 : Bool) (x2 : Fin 97) (x3 : Option (Fin 97)) (x4 : Tick) {w : Nat} {s0 s : State} (hw : 71507285393733 &&& w = 71507285393733) (h : Keeps w s0 s) :
    Keeps w s0 (onTsiEdge x0 x1 x2 x3 x4 s) := by
  unfold onTsiEdge
  repeat' first
    | with_reducible exact h
    | with_reducible assumption
    | (extract_lets +onlyGivenNames a; with_reducible refine Keeps.cut (w := w) (s := s0) a ?_ (fun ha => ?_); (on_goal 2 => clear_value a); (on_goal 1 => (dsimp -zeta only [a]; clear a)))
    | (extract_lets +onlyGivenNames a; clear_value a)
    | exact mask_trans (by decide) hw
    | with_reducible apply advance_keeps
    | with_reducible apply bump_keeps
    | with_reducible apply drainTsu_keeps
    | with_reducible apply pushRT_keeps
    | with_reducible apply setTsi_keeps
    | with_reducible apply windowStarts_keeps
    | with_reducible apply Keeps.ite
    | split
    | fail_if_no_progress (with_reducible refine Keeps.set_tsu ?_ (mask_trans (by decide) hw) _)

/-- `onWindowOpen` may change: tb, tsu. -/
theorem onWindowOpen_keeps (x0 : Fin 16) (x1 : Tick) {w : Nat} {s0 s : State} (hw : 320 &&& w = 320) (h : Keeps w s0 s) :
    Keeps w s0 (onWindowOpen x0 x1 s) := by
  unfold onWindowOpen
  repeat' first
    | with_reducible exact h
    | with_reducible assumption
    | (extract_lets +onlyGivenNames a; with_reducible refine Keeps.cut (w := w) (s := s0) a ?_ (fun ha => ?_); (on_goal 2 => clear_value a); (on_goal 1 => (dsimp -zeta only [a]; clear a)))
    | (extract_lets +onlyGivenNames a; clear_value a)
    | exact mask_trans (by decide) hw
    | with_reducible apply advance_keeps
    | with_reducible apply setTsi_keeps
    | with_reducible apply Keeps.ite
    | split

/-- `onWindowClose` may change: regs, firstItem, tb, tsu, mcd, queues, lostMarks, portUp, portDn, merging, x12, vectors, messages, freeIdx. -/
theorem onWindowClose_keeps (x0 : Fin 16) (x1 : Tick) {w : Nat} {s0 s : State} (hw : 71507285377349 &&& w = 71507285377349) (h : Keeps w s0 s) :
    Keeps w s0 (onWindowClose x0 x1 s) := by
  unfold onWindowClose
  repeat' first
    | with_reducible exact h
    | with_reducible assumption
    | (extract_lets +onlyGivenNames a; with_reducible refine Keeps.cut (w := w) (s := s0) a ?_ (fun ha => ?_); (on_goal 2 => clear_value a); (on_goal 1 => (dsimp -zeta only [a]; clear a)))
    | exact mask_trans (by decide) hw
    | with_reducible apply advance_keeps
    | with_reducible apply windowResult_keeps
    | with_reducible apply Keeps.ite
    | split

/-- `onEstimatorGateEnd` may change: regs, firstItem, tb, tsu, mcd, queues, lostMarks, portUp, portDn, merging, vectors, messages, freeIdx. -/
theorem onEstimatorGateEnd_keeps (x0 : Fin 16) (x1 : ℕ) {w : Nat} {s0 s : State} (hw : 71502990410053 &&& w = 71502990410053) (h : Keeps w s0 s) :
    Keeps w s0 (onEstimatorGateEnd x0 x1 s) := by
  unfold onEstimatorGateEnd
  repeat' first
    | with_reducible exact h
    | with_reducible assumption
    | (extract_lets +onlyGivenNames a; with_reducible refine Keeps.cut (w := w) (s := s0) a ?_ (fun ha => ?_); (on_goal 2 => clear_value a); (on_goal 1 => (dsimp -zeta only [a]; clear a)))
    | (extract_lets +onlyGivenNames a; clear_value a)
    | exact mask_trans (by decide) hw
    | with_reducible apply advance_keeps
    | with_reducible apply emit_keeps
    | with_reducible apply raise_keeps
    | with_reducible apply setTsi_keeps
    | with_reducible apply useFree_keeps
    | with_reducible apply Keeps.ite

/-- `svcMark` may change: tsu. -/
theorem svcMark_keeps (x0 : ℕ) (x1 : Tick) {w : Nat} {s0 s : State} (hw : 256 &&& w = 256) (h : Keeps w s0 s) :
    Keeps w s0 (svcMark x0 x1 s) := by
  unfold svcMark
  repeat' first
    | with_reducible exact h
    | (extract_lets +onlyGivenNames a; clear_value a)
    | fail_if_no_progress (with_reducible refine Keeps.set_tsu ?_ (mask_trans (by decide) hw) _)

end Sys2Proof.Machine
end

