-- ==== Sys2Proof/Laws/KeepClo.lean ====
section
/-! SUPPORT. What each operation of Machine/Clo.lean may change: one lemma per operation, by the bits of the parts
of State (Sys2Proof.Machine.Part.bit). -/

namespace Sys2Proof.Machine

/-- `pulseResult` may change: regs, cloche, vectors, messages. -/
theorem pulseResult_keeps (x0 : ℕ) (x1 : Bool) (x2 : Bool) {w : Nat} {s0 s : State} (hw : 1136018849793 &&& w = 1136018849793) (h : Keeps w s0 s) :
    Keeps w s0 (pulseResult x0 x1 x2 s) := by
  unfold pulseResult
  repeat' first
    | with_reducible exact h
    | with_reducible assumption
    | (extract_lets +onlyGivenNames a; with_reducible refine Keeps.cut (w := w) (s := s0) a ?_ (fun ha => ?_); (on_goal 2 => clear_value a); (on_goal 1 => (dsimp -zeta only [a]; clear a)))
    | (extract_lets +onlyGivenNames a; clear_value a)
    | exact mask_trans (by decide) hw
    | with_reducible apply fault_keeps
    | with_reducible apply setIn_keeps
    | with_reducible apply Keeps.ite

/-- `cloFrameBegin` may change: cloche. -/
theorem cloFrameBegin_keeps (x0 : ℕ) {w : Nat} {s0 s : State} (hw : 2147483648 &&& w = 2147483648) (h : Keeps w s0 s) :
    Keeps w s0 (cloFrameBegin x0 s) := by
  unfold cloFrameBegin
  repeat' first
    | with_reducible exact h
    | with_reducible assumption
    | (extract_lets +onlyGivenNames a; clear_value a)
    | with_reducible apply setField_keeps
    | with_reducible apply Keeps.ite
    | (with_reducible apply Keeps.foldl; intros)

/-- `onTestPulseStart` may change: cloche. -/
theorem onTestPulseStart_keeps (x0 : Fin 4) {w : Nat} {s0 s : State} (hw : 2147483648 &&& w = 2147483648) (h : Keeps w s0 s) :
    Keeps w s0 (onTestPulseStart x0 s) := by
  unfold onTestPulseStart
  repeat' first
    | with_reducible exact h
    | with_reducible assumption
    | (extract_lets +onlyGivenNames a; with_reducible refine Keeps.cut (w := w) (s := s0) a ?_ (fun ha => ?_); (on_goal 2 => clear_value a); (on_goal 1 => (dsimp -zeta only [a]; clear a)))
    | (extract_lets +onlyGivenNames a; (have y : CloSt := a; clear y); dsimp -zeta only [a]; clear a)
    | (extract_lets +onlyGivenNames a; clear_value a)
    | with_reducible apply setIn_keeps
    | with_reducible apply Keeps.ite
    | (with_reducible apply Keeps.foldl; intros)
    | fail_if_no_progress (with_reducible refine Keeps.set_clo_cloche ?_ (mask_trans (by decide) hw) _ (by first | ((with_reducible repeat' constructor); done) | (split <;> repeat' constructor)))

/-- `onSafeInputChange` may change: cloche. -/
theorem onSafeInputChange_keeps (x0 : Fin 17) (x1 : Bool) {w : Nat} {s0 s : State} (hw : 2147483648 &&& w = 2147483648) (h : Keeps w s0 s) :
    Keeps w s0 (onSafeInputChange x0 x1 s) := by
  unfold onSafeInputChange
  repeat' first
    | with_reducible exact h
    | with_reducible assumption
    | (extract_lets +onlyGivenNames a; clear_value a)
    | with_reducible apply setIn_keeps

/-- `resetFault` may change: regs, cloche, vectors, messages. -/
theorem resetFault_keeps  {w : Nat} {s0 s : State} (hw : 1136018849793 &&& w = 1136018849793) (h : Keeps w s0 s) :
    Keeps w s0 (resetFault s) := by
  unfold resetFault
  repeat' first
    | with_reducible exact h
    | (extract_lets +onlyGivenNames a; (have y : CloSt := a; clear y); dsimp -zeta only [a]; clear a)
    | exact mask_trans (by decide) hw
    | with_reducible apply fault_keeps
    | fail_if_no_progress (with_reducible refine Keeps.set_clo_cloche ?_ (mask_trans (by decide) hw) _ (by first | ((with_reducible repeat' constructor); done) | (split <;> repeat' constructor)))

/-- `lockBegins` may change: regs, cloche, vectors, messages. -/
theorem lockBegins_keeps  {w : Nat} {s0 s : State} (hw : 1136018849793 &&& w = 1136018849793) (h : Keeps w s0 s) :
    Keeps w s0 (lockBegins s) := by
  unfold lockBegins
  repeat' first
    | with_reducible exact h
    | with_reducible assumption
    | with_reducible apply resetFault_keeps
    | with_reducible apply Keeps.ite

/-- `onDiagIntervalFault` may change: regs, tb, cloche, vectors, messages. -/
theorem onDiagIntervalFault_keeps (x0 : Fin 4) (x1 : Bool) (x2 : Tick) {w : Nat} {s0 s : State} (hw : 1136018849857 &&& w = 1136018849857) (h : Keeps w s0 s) :
    Keeps w s0 (onDiagIntervalFault x0 x1 x2 s) := by
  unfold onDiagIntervalFault
  repeat' first
    | with_reducible exact h
    | with_reducible assumption
    | (extract_lets +onlyGivenNames a; with_reducible refine Keeps.cut (w := w) (s := s0) a ?_ (fun ha => ?_); (on_goal 2 => clear_value a); (on_goal 1 => (dsimp -zeta only [a]; clear a)))
    | (extract_lets +onlyGivenNames a; clear_value a)
    | exact mask_trans (by decide) hw
    | with_reducible apply advance_keeps
    | with_reducible apply fault_keeps
    | with_reducible apply lockBegins_keeps
    | with_reducible apply setOut_keeps
    | with_reducible apply stick_keeps
    | with_reducible apply Keeps.ite

/-- `requestVector` may change: vectors. -/
theorem requestVector_keeps (x0 : ℕ) {w : Nat} {s0 s : State} (hw : 34359738368 &&& w = 34359738368) (h : Keeps w s0 s) :
    Keeps w s0 (requestVector x0 s) := by
  unfold requestVector
  repeat' first
    | with_reducible exact h
    | (extract_lets +onlyGivenNames a; (have y : HifSt := a; clear y); dsimp -zeta only [a]; clear a)
    | fail_if_no_progress (with_reducible refine Keeps.set_hif_vectors ?_ (mask_trans (by decide) hw) _ (by first | ((with_reducible repeat' constructor); done) | (split <;> repeat' constructor)))

/-- `cloDrivesOff` may change: cloche. -/
theorem cloDrivesOff_keeps  {w : Nat} {s0 s : State} (hw : 2147483648 &&& w = 2147483648) (h : Keeps w s0 s) :
    Keeps w s0 (cloDrivesOff s) := by
  unfold cloDrivesOff
  repeat' first
    | with_reducible exact h
    | with_reducible assumption
    | with_reducible apply setOut_keeps
    | (with_reducible apply Keeps.foldl; intros)

/-- `lockChain` may change: regs, cloche, vectors, messages. -/
theorem lockChain_keeps (x0 : ℕ) {w : Nat} {s0 s : State} (hw : 1136018849793 &&& w = 1136018849793) (h : Keeps w s0 s) :
    Keeps w s0 (lockChain x0 s) := by
  unfold lockChain
  repeat' first
    | with_reducible exact h
    | with_reducible assumption
    | (extract_lets +onlyGivenNames a; clear_value a)
    | exact mask_trans (by decide) hw
    | with_reducible apply fault_keeps
    | with_reducible apply lockBegins_keeps
    | with_reducible apply setChain_keeps
    | with_reducible apply stick_keeps

/-- `lockAll` may change: regs, cloche, vectors, messages. -/
theorem lockAll_keeps  {w : Nat} {s0 s : State} (hw : 1136018849793 &&& w = 1136018849793) (h : Keeps w s0 s) :
    Keeps w s0 (lockAll s) := by
  unfold lockAll
  repeat' first
    | with_reducible exact h
    | with_reducible assumption
    | exact mask_trans (by decide) hw
    | with_reducible apply cloDrivesOff_keeps
    | with_reducible apply lockChain_keeps
    | with_reducible apply Keeps.ite
    | (with_reducible apply Keeps.foldl; intros)

/-- `partStop` may change: regs, cloche, vectors, messages. -/
theorem partStop_keeps  {w : Nat} {s0 s : State} (hw : 1136018849793 &&& w = 1136018849793) (h : Keeps w s0 s) :
    Keeps w s0 (partStop s) := by
  unfold partStop
  repeat' first
    | with_reducible exact h
    | with_reducible assumption
    | (extract_lets +onlyGivenNames a; (have y : CloSt := a; clear y); dsimp -zeta only [a]; clear a)
    | with_reducible apply lockAll_keeps
    | fail_if_no_progress (with_reducible refine Keeps.set_clo_cloche ?_ (mask_trans (by decide) hw) _ (by first | ((with_reducible repeat' constructor); done) | (split <;> repeat' constructor)))

/-- `bcSend` may change: cloche, vectors, bars. -/
theorem bcSend_keeps (x0 : ℕ) (x1 : ℕ) (x2 : List Byte) {w : Nat} {s0 s : State} (hw : 586263035904 &&& w = 586263035904) (h : Keeps w s0 s) :
    Keeps w s0 (bcSend x0 x1 x2 s) := by
  unfold bcSend
  repeat' first
    | with_reducible exact h
    | with_reducible assumption
    | (extract_lets +onlyGivenNames a; with_reducible refine Keeps.cut (w := w) (s := s0) a ?_ (fun ha => ?_); (on_goal 2 => clear_value a); (on_goal 1 => (dsimp -zeta only [a]; clear a)))
    | (extract_lets +onlyGivenNames a; (have y : HifSt := a; clear y); dsimp -zeta only [a]; clear a)
    | (extract_lets +onlyGivenNames a; clear_value a)
    | exact mask_trans (by decide) hw
    | with_reducible apply requestVector_keeps
    | with_reducible apply setConn_keeps
    | with_reducible apply Keeps.ite
    | fail_if_no_progress (with_reducible refine Keeps.set_hif_bars ?_ (mask_trans (by decide) hw) _ (by first | ((with_reducible repeat' constructor); done) | (split <;> repeat' constructor)))

/-- `brakeMessage` may change: cloche, vectors, bars, freeIdx. -/
theorem brakeMessage_keeps (x0 : ℕ) {w : Nat} {s0 s : State} (hw : 70955007213568 &&& w = 70955007213568) (h : Keeps w s0 s) :
    Keeps w s0 (brakeMessage x0 s) := by
  unfold brakeMessage
  repeat' first
    | with_reducible exact h
    | exact mask_trans (by decide) hw
    | with_reducible apply bcSend_keeps
    | with_reducible apply quantUsed_keeps

/-- `onHeartbeat` may change: cloche. -/
theorem onHeartbeat_keeps  {w : Nat} {s0 s : State} (hw : 2147483648 &&& w = 2147483648) (h : Keeps w s0 s) :
    Keeps w s0 (onHeartbeat s) := by
  unfold onHeartbeat
  repeat' first
    | with_reducible exact h
    | (extract_lets +onlyGivenNames a; (have y : CloSt := a; clear y); dsimp -zeta only [a]; clear a)
    | fail_if_no_progress (with_reducible refine Keeps.set_clo_cloche ?_ (mask_trans (by decide) hw) _ (by first | ((with_reducible repeat' constructor); done) | (split <;> repeat' constructor)))

/-- `minutePasses` may change: nvm, commissioning, cloche. -/
theorem minutePasses_keeps (x0 : ℕ) {w : Nat} {s0 s : State} (hw : 3221225504 &&& w = 3221225504) (h : Keeps w s0 s) :
    Keeps w s0 (minutePasses x0 s) := by
  unfold minutePasses
  repeat' first
    | with_reducible exact h
    | (extract_lets +onlyGivenNames a; (have y : CloSt := a; clear y); dsimp -zeta only [a]; clear a)
    | exact mask_trans (by decide) hw
    | with_reducible apply journalLock_keeps
    | with_reducible apply Keeps.ite
    | fail_if_no_progress (with_reducible refine Keeps.set_clo_commissioning_cloche ?_ (mask_trans (by decide) hw) _ (by first | ((with_reducible repeat' constructor); done) | (split <;> repeat' constructor)))

/-- `cycleTime` may change: nvm, commissioning, cloche. -/
theorem cycleTime_keeps  {w : Nat} {s0 s : State} (hw : 3221225504 &&& w = 3221225504) (h : Keeps w s0 s) :
    Keeps w s0 (cycleTime s) := by
  unfold cycleTime
  repeat' first
    | with_reducible exact h
    | with_reducible assumption
    | (extract_lets +onlyGivenNames a; (have y : CloSt := a; clear y); dsimp -zeta only [a]; clear a)
    | with_reducible apply minutePasses_keeps
    | with_reducible apply Keeps.ite
    | fail_if_no_progress (with_reducible refine Keeps.set_clo_cloche ?_ (mask_trans (by decide) hw) _ (by first | ((with_reducible repeat' constructor); done) | (split <;> repeat' constructor)))

/-- `judgeZones` may change: regs, cloche, vectors, messages. -/
theorem judgeZones_keeps (x0 : Option Word64) {w : Nat} {s0 s : State} (hw : 1136018849793 &&& w = 1136018849793) (h : Keeps w s0 s) :
    Keeps w s0 (judgeZones x0 s) := by
  unfold judgeZones
  repeat' first
    | with_reducible exact h
    | with_reducible assumption
    | (extract_lets +onlyGivenNames a; with_reducible refine Keeps.cut (w := w) (s := s0) a ?_ (fun ha => ?_); (on_goal 2 => clear_value a); (on_goal 1 => (dsimp -zeta only [a]; clear a)))
    | (extract_lets +onlyGivenNames a; (have y : CloSt := a; clear y); dsimp -zeta only [a]; clear a)
    | (extract_lets +onlyGivenNames a; clear_value a)
    | exact mask_trans (by decide) hw
    | with_reducible apply fault_keeps
    | with_reducible apply Keeps.ite
    | (with_reducible apply Keeps.foldl; intros)
    | fail_if_no_progress (with_reducible refine Keeps.set_clo_cloche ?_ (mask_trans (by decide) hw) _ (by first | ((with_reducible repeat' constructor); done) | (split <;> repeat' constructor)))

/-- `onClassifierDeadline` may change: regs, tb, cloche, vectors, messages. -/
theorem onClassifierDeadline_keeps (x0 : BitVec 24) (x1 : Tick) {w : Nat} {s0 s : State} (hw : 1136018849857 &&& w = 1136018849857) (h : Keeps w s0 s) :
    Keeps w s0 (onClassifierDeadline x0 x1 s) := by
  unfold onClassifierDeadline
  repeat' first
    | with_reducible exact h
    | with_reducible assumption
    | (extract_lets +onlyGivenNames a; with_reducible refine Keeps.cut (w := w) (s := s0) a ?_ (fun ha => ?_); (on_goal 2 => clear_value a); (on_goal 1 => (dsimp -zeta only [a]; clear a)))
    | exact mask_trans (by decide) hw
    | with_reducible apply advance_keeps
    | with_reducible apply judgeZones_keeps
    | with_reducible apply Keeps.ite

/-- `setCauses` may change: regs, cloche, vectors, messages. -/
theorem setCauses_keeps (x0 : ℕ) {w : Nat} {s0 s : State} (hw : 1136018849793 &&& w = 1136018849793) (h : Keeps w s0 s) :
    Keeps w s0 (setCauses x0 s) := by
  unfold setCauses
  repeat' first
    | with_reducible exact h
    | with_reducible assumption
    | (extract_lets +onlyGivenNames a; with_reducible refine Keeps.cut (w := w) (s := s0) a ?_ (fun ha => ?_); (on_goal 2 => clear_value a); (on_goal 1 => (dsimp -zeta only [a]; clear a)))
    | (extract_lets +onlyGivenNames a; clear_value a)
    | exact mask_trans (by decide) hw
    | with_reducible apply fault_keeps
    | with_reducible apply setField_keeps
    | with_reducible apply Keeps.ite

/-- `outputFault` may change: regs, cloche, vectors, messages. -/
theorem outputFault_keeps (x0 : ℕ) (x1 : ℕ) {w : Nat} {s0 s : State} (hw : 1136018849793 &&& w = 1136018849793) (h : Keeps w s0 s) :
    Keeps w s0 (outputFault x0 x1 s) := by
  unfold outputFault
  repeat' first
    | with_reducible exact h
    | with_reducible assumption
    | (extract_lets +onlyGivenNames a; clear_value a)
    | exact mask_trans (by decide) hw
    | with_reducible apply fault_keeps
    | with_reducible apply lockBegins_keeps
    | with_reducible apply setOut_keeps
    | with_reducible apply stick_keeps

/-- `testDone` may change: cloche. -/
theorem testDone_keeps (x0 : ℕ) (x1 : Bool) {w : Nat} {s0 s : State} (hw : 2147483648 &&& w = 2147483648) (h : Keeps w s0 s) :
    Keeps w s0 (testDone x0 x1 s) := by
  unfold testDone
  repeat' first
    | with_reducible exact h
    | with_reducible assumption
    | (extract_lets +onlyGivenNames a; clear_value a)
    | with_reducible apply setOut_keeps

/-- `onSwitchTest` may change: regs, cloche, vectors, messages. -/
theorem onSwitchTest_keeps (x0 : Fin 4) (x1 : Bool) (x2 : Bool) (x3 : Bool) {w : Nat} {s0 s : State} (hw : 1136018849793 &&& w = 1136018849793) (h : Keeps w s0 s) :
    Keeps w s0 (onSwitchTest x0 x1 x2 x3 s) := by
  unfold onSwitchTest
  repeat' first
    | with_reducible exact h
    | with_reducible assumption
    | (extract_lets +onlyGivenNames a; with_reducible refine Keeps.cut (w := w) (s := s0) a ?_ (fun ha => ?_); (on_goal 2 => clear_value a); (on_goal 1 => (dsimp -zeta only [a]; clear a)))
    | (extract_lets +onlyGivenNames a; clear_value a)
    | exact mask_trans (by decide) hw
    | with_reducible apply outputFault_keeps
    | with_reducible apply setOut_keeps
    | with_reducible apply testDone_keeps
    | with_reducible apply Keeps.ite

/-- `onTestPulseEnd` may change: regs, tb, cloche, vectors, messages. -/
theorem onTestPulseEnd_keeps (x0 : Fin 4) (x1 : BitVec 16) (x2 : BitVec 16) (x3 : Tick) {w : Nat} {s0 s : State} (hw : 1136018849857 &&& w = 1136018849857) (h : Keeps w s0 s) :
    Keeps w s0 (onTestPulseEnd x0 x1 x2 x3 s) := by
  unfold onTestPulseEnd
  repeat' first
    | with_reducible exact h
    | with_reducible assumption
    | (extract_lets +onlyGivenNames a; with_reducible refine Keeps.cut (w := w) (s := s0) a ?_ (fun ha => ?_); (on_goal 2 => clear_value a); (on_goal 1 => (dsimp -zeta only [a]; clear a)))
    | (extract_lets +onlyGivenNames a; (have y : CloSt := a; clear y); dsimp -zeta only [a]; clear a)
    | exact mask_trans (by decide) hw
    | with_reducible apply advance_keeps
    | with_reducible apply pulseResult_keeps
    | with_reducible apply Keeps.ite
    | (with_reducible apply Keeps.foldl; intros)
    | fail_if_no_progress (with_reducible refine Keeps.set_clo_cloche ?_ (mask_trans (by decide) hw) _ (by first | ((with_reducible repeat' constructor); done) | (split <;> repeat' constructor)))

/-- `onResetHoldTimeout` may change: regs, tb, cloche, vectors, messages. -/
theorem onResetHoldTimeout_keeps (x0 : Tick) {w : Nat} {s0 s : State} (hw : 1136018849857 &&& w = 1136018849857) (h : Keeps w s0 s) :
    Keeps w s0 (onResetHoldTimeout x0 s) := by
  unfold onResetHoldTimeout
  repeat' first
    | with_reducible exact h
    | with_reducible assumption
    | (extract_lets +onlyGivenNames a; with_reducible refine Keeps.cut (w := w) (s := s0) a ?_ (fun ha => ?_); (on_goal 2 => clear_value a); (on_goal 1 => (dsimp -zeta only [a]; clear a)))
    | exact mask_trans (by decide) hw
    | with_reducible apply advance_keeps
    | with_reducible apply resetFault_keeps
    | with_reducible apply Keeps.ite

/-- `updFrame` may change: cloche. -/
theorem updFrame_keeps (x0 : ℕ) (x1 : ℕ) (x2 : FieldFrame → FieldFrame) {w : Nat} {s0 s : State} (hw : 2147483648 &&& w = 2147483648) (h : Keeps w s0 s) :
    Keeps w s0 (updFrame x0 x1 x2 s) := by
  unfold updFrame
  repeat' first
    | with_reducible exact h
    | with_reducible assumption
    | (extract_lets +onlyGivenNames a; clear_value a)
    | with_reducible apply setField_keeps

/-- `zoneTry` may change: regs, cloche, vectors, messages. -/
theorem zoneTry_keeps  {w : Nat} {s0 s : State} (hw : 1136018849793 &&& w = 1136018849793) (h : Keeps w s0 s) :
    Keeps w s0 (zoneTry s) := by
  unfold zoneTry
  repeat' first
    | with_reducible exact h
    | with_reducible assumption
    | (extract_lets +onlyGivenNames a; clear_value a)
    | with_reducible apply judgeZones_keeps
    | with_reducible apply Keeps.ite
    | split

/-- `resultTake` may change: regs, cloche, vectors, messages. -/
theorem resultTake_keeps (x0 : ℕ) (x1 : ℕ) (x2 : List Word64) {w : Nat} {s0 s : State} (hw : 1136018849793 &&& w = 1136018849793) (h : Keeps w s0 s) :
    Keeps w s0 (resultTake x0 x1 x2 s) := by
  unfold resultTake
  repeat' first
    | with_reducible exact h
    | with_reducible assumption
    | (extract_lets +onlyGivenNames a; (have y : CloSt := a; clear y); dsimp -zeta only [a]; clear a)
    | (extract_lets +onlyGivenNames a; clear_value a)
    | exact mask_trans (by decide) hw
    | with_reducible apply setCauses_keeps
    | with_reducible apply updFrame_keeps
    | with_reducible apply zoneTry_keeps
    | with_reducible apply Keeps.ite
    | (with_reducible apply Keeps.foldl; intros)
    | split
    | fail_if_no_progress (with_reducible refine Keeps.set_clo_cloche ?_ (mask_trans (by decide) hw) _ (by first | ((with_reducible repeat' constructor); done) | (split <;> repeat' constructor)))

/-- `x12Watch` may change: regs, cloche, vectors, messages. -/
theorem x12Watch_keeps (x0 : X12Msg) (x1 : List Word64) {w : Nat} {s0 s : State} (hw : 1136018849793 &&& w = 1136018849793) (h : Keeps w s0 s) :
    Keeps w s0 (x12Watch x0 x1 s) := by
  unfold x12Watch
  repeat' first
    | with_reducible exact h
    | with_reducible assumption
    | (extract_lets +onlyGivenNames a; with_reducible refine Keeps.cut (w := w) (s := s0) a ?_ (fun ha => ?_); (on_goal 2 => clear_value a); (on_goal 1 => (dsimp -zeta only [a]; clear a)))
    | (extract_lets +onlyGivenNames a; (have y : CloSt := a; clear y); dsimp -zeta only [a]; clear a)
    | (extract_lets +onlyGivenNames a; clear_value a)
    | with_reducible apply partStop_keeps
    | with_reducible apply Keeps.ite
    | fail_if_no_progress (with_reducible refine Keeps.set_clo_cloche ?_ (mask_trans (by decide) hw) _ (by first | ((with_reducible repeat' constructor); done) | (split <;> repeat' constructor)))

/-- `onTineResultArrive` may change: regs, tb, cloche, x12, vectors, messages. -/
theorem onTineResultArrive_keeps (x0 : Fin 16) (x1 : BitVec 24) (x2 : Word64) (x3 : List Word64) (x4 : Tick) {w : Nat} {s0 s : State} (hw : 1140313817153 &&& w = 1140313817153) (h : Keeps w s0 s) :
    Keeps w s0 (onTineResultArrive x0 x1 x2 x3 x4 s) := by
  unfold onTineResultArrive
  repeat' first
    | with_reducible exact h
    | with_reducible assumption
    | (extract_lets +onlyGivenNames a; with_reducible refine Keeps.cut (w := w) (s := s0) a ?_ (fun ha => ?_); (on_goal 2 => clear_value a); (on_goal 1 => (dsimp -zeta only [a]; clear a)))
    | (extract_lets +onlyGivenNames a; clear_value a)
    | exact mask_trans (by decide) hw
    | with_reducible apply advance_keeps
    | with_reducible apply resultTake_keeps
    | with_reducible apply x12Done_keeps
    | with_reducible apply x12Watch_keeps
    | with_reducible apply Keeps.ite
    | split

/-- `zoneTake` may change: regs, cloche, vectors, messages. -/
theorem zoneTake_keeps (x0 : ℕ) (x1 : List Word64) {w : Nat} {s0 s : State} (hw : 1136018849793 &&& w = 1136018849793) (h : Keeps w s0 s) :
    Keeps w s0 (zoneTake x0 x1 s) := by
  unfold zoneTake
  repeat' first
    | with_reducible exact h
    | with_reducible assumption
    | (extract_lets +onlyGivenNames a; (have y : CloSt := a; clear y); dsimp -zeta only [a]; clear a)
    | (extract_lets +onlyGivenNames a; clear_value a)
    | with_reducible apply zoneTry_keeps
    | fail_if_no_progress (with_reducible refine Keeps.set_clo_cloche ?_ (mask_trans (by decide) hw) _ (by first | ((with_reducible repeat' constructor); done) | (split <;> repeat' constructor)))

/-- `onZoneWordArrive` may change: regs, tb, cloche, x12, vectors, messages. -/
theorem onZoneWordArrive_keeps (x0 : BitVec 24) (x1 : List Word64) (x2 : Tick) {w : Nat} {s0 s : State} (hw : 1140313817153 &&& w = 1140313817153) (h : Keeps w s0 s) :
    Keeps w s0 (onZoneWordArrive x0 x1 x2 s) := by
  unfold onZoneWordArrive
  repeat' first
    | with_reducible exact h
    | with_reducible assumption
    | (extract_lets +onlyGivenNames a; with_reducible refine Keeps.cut (w := w) (s := s0) a ?_ (fun ha => ?_); (on_goal 2 => clear_value a); (on_goal 1 => (dsimp -zeta only [a]; clear a)))
    | (extract_lets +onlyGivenNames a; (have y : CloSt := a; clear y); dsimp -zeta only [a]; clear a)
    | (extract_lets +onlyGivenNames a; clear_value a)
    | exact mask_trans (by decide) hw
    | with_reducible apply advance_keeps
    | with_reducible apply x12Done_keeps
    | with_reducible apply x12Watch_keeps
    | with_reducible apply zoneTake_keeps
    | with_reducible apply Keeps.ite
    | split
    | fail_if_no_progress (with_reducible refine Keeps.set_clo_cloche ?_ (mask_trans (by decide) hw) _ (by first | ((with_reducible repeat' constructor); done) | (split <;> repeat' constructor)))

/-- `onBcTimeout` may change: regs, tb, cloche. -/
theorem onBcTimeout_keeps (x0 : Fin 4) (x1 : Tick) {w : Nat} {s0 s : State} (hw : 2147483713 &&& w = 2147483713) (h : Keeps w s0 s) :
    Keeps w s0 (onBcTimeout x0 x1 s) := by
  unfold onBcTimeout
  repeat' first
    | with_reducible exact h
    | with_reducible assumption
    | (extract_lets +onlyGivenNames a; with_reducible refine Keeps.cut (w := w) (s := s0) a ?_ (fun ha => ?_); (on_goal 2 => clear_value a); (on_goal 1 => (dsimp -zeta only [a]; clear a)))
    | (extract_lets +onlyGivenNames a; clear_value a)
    | exact mask_trans (by decide) hw
    | with_reducible apply advance_keeps
    | with_reducible apply setConn_keeps
    | with_reducible apply stick_keeps
    | with_reducible apply Keeps.ite

/-- `onHeartbeatTimeout` may change: regs, tb, cloche, vectors, messages. -/
theorem onHeartbeatTimeout_keeps (x0 : Tick) {w : Nat} {s0 s : State} (hw : 1136018849857 &&& w = 1136018849857) (h : Keeps w s0 s) :
    Keeps w s0 (onHeartbeatTimeout x0 s) := by
  unfold onHeartbeatTimeout
  repeat' first
    | with_reducible exact h
    | with_reducible assumption
    | (extract_lets +onlyGivenNames a; with_reducible refine Keeps.cut (w := w) (s := s0) a ?_ (fun ha => ?_); (on_goal 2 => clear_value a); (on_goal 1 => (dsimp -zeta only [a]; clear a)))
    | (extract_lets +onlyGivenNames a; (have y : CloSt := a; clear y); dsimp -zeta only [a]; clear a)
    | exact mask_trans (by decide) hw
    | with_reducible apply advance_keeps
    | with_reducible apply partStop_keeps
    | with_reducible apply Keeps.ite
    | fail_if_no_progress (with_reducible refine Keeps.set_clo_cloche ?_ (mask_trans (by decide) hw) _ (by first | ((with_reducible repeat' constructor); done) | (split <;> repeat' constructor)))

/-- `resetOut` may change: cloche. -/
theorem resetOut_keeps (x0 : ℕ) {w : Nat} {s0 s : State} (hw : 2147483648 &&& w = 2147483648) (h : Keeps w s0 s) :
    Keeps w s0 (resetOut x0 s) := by
  unfold resetOut
  repeat' first
    | with_reducible exact h
    | with_reducible assumption
    | (extract_lets +onlyGivenNames a; clear_value a)
    | with_reducible apply setOut_keeps

/-- `verdictTake` may change: regs, cloche, vectors, messages. -/
theorem verdictTake_keeps (x0 : ℕ) (x1 : List Word64) {w : Nat} {s0 s : State} (hw : 1136018849793 &&& w = 1136018849793) (h : Keeps w s0 s) :
    Keeps w s0 (verdictTake x0 x1 s) := by
  unfold verdictTake
  repeat' first
    | with_reducible exact h
    | with_reducible assumption
    | exact mask_trans (by decide) hw
    | with_reducible apply setCauses_keeps
    | with_reducible apply updFrame_keeps
    | (with_reducible apply Keeps.foldl; intros)

/-- `onVerdictWordArrive` may change: regs, tb, cloche, x12, vectors, messages. -/
theorem onVerdictWordArrive_keeps (x0 : BitVec 24) (x1 : List Word64) (x2 : Tick) {w : Nat} {s0 s : State} (hw : 1140313817153 &&& w = 1140313817153) (h : Keeps w s0 s) :
    Keeps w s0 (onVerdictWordArrive x0 x1 x2 s) := by
  unfold onVerdictWordArrive
  repeat' first
    | with_reducible exact h
    | with_reducible assumption
    | (extract_lets +onlyGivenNames a; with_reducible refine Keeps.cut (w := w) (s := s0) a ?_ (fun ha => ?_); (on_goal 2 => clear_value a); (on_goal 1 => (dsimp -zeta only [a]; clear a)))
    | exact mask_trans (by decide) hw
    | with_reducible apply advance_keeps
    | with_reducible apply verdictTake_keeps
    | with_reducible apply x12Done_keeps
    | with_reducible apply x12Watch_keeps
    | with_reducible apply Keeps.ite
    | split

/-- `setBrake` may change: cloche. -/
theorem setBrake_keeps (x0 : ℕ) (x1 : ℕ) {w : Nat} {s0 s : State} (hw : 2147483648 &&& w = 2147483648) (h : Keeps w s0 s) :
    Keeps w s0 (setBrake x0 x1 s) := by
  unfold setBrake
  repeat' first
    | with_reducible exact h
    | with_reducible assumption
    | (extract_lets +onlyGivenNames a; clear_value a)
    | with_reducible apply setChain_keeps

/-- `brakeTo` may change: cloche, vectors, bars, freeIdx. -/
theorem brakeTo_keeps (x0 : ℕ) (x1 : ℕ) {w : Nat} {s0 s : State} (hw : 70955007213568 &&& w = 70955007213568) (h : Keeps w s0 s) :
    Keeps w s0 (brakeTo x0 x1 s) := by
  unfold brakeTo
  repeat' first
    | with_reducible exact h
    | with_reducible assumption
    | exact mask_trans (by decide) hw
    | with_reducible apply brakeMessage_keeps
    | with_reducible apply setBrake_keeps

/-- `moveBrake` may change: regs, firstItem, tsu, mcd, queues, lostMarks, portUp, portDn, merging, cloche, x12, vectors, bars, messages, freeIdx. -/
theorem moveBrake_keeps (x0 : ℕ) {w : Nat} {s0 s : State} (hw : 72059188674821 &&& w = 72059188674821) (h : Keeps w s0 s) :
    Keeps w s0 (moveBrake x0 s) := by
  unfold moveBrake
  repeat' first
    | with_reducible exact h
    | with_reducible assumption
    | (extract_lets +onlyGivenNames a; with_reducible refine Keeps.cut (w := w) (s := s0) a ?_ (fun ha => ?_); (on_goal 2 => clear_value a); (on_goal 1 => (dsimp -zeta only [a]; clear a)))
    | (extract_lets +onlyGivenNames a; (have y : CloSt := a; clear y); dsimp -zeta only [a]; clear a)
    | (extract_lets +onlyGivenNames a; clear_value a)
    | exact mask_trans (by decide) hw
    | with_reducible apply brakeTo_keeps
    | with_reducible apply setChain_keeps
    | with_reducible apply windowStart_keeps
    | with_reducible apply Keeps.ite
    | (with_reducible apply Keeps.foldl; intros)
    | fail_if_no_progress (with_reducible refine Keeps.set_clo_x12 ?_ (mask_trans (by decide) hw) _ (by first | ((with_reducible repeat' constructor); done) | (split <;> repeat' constructor)))

/-- `onTwohandTimeout` may change: cloche. -/
theorem onTwohandTimeout_keeps (x0 : Fin 8) {w : Nat} {s0 s : State} (hw : 2147483648 &&& w = 2147483648) (h : Keeps w s0 s) :
    Keeps w s0 (onTwohandTimeout x0 s) := by
  unfold onTwohandTimeout
  repeat' first
    | with_reducible exact h
    | with_reducible assumption
    | (extract_lets +onlyGivenNames a; clear_value a)
    | with_reducible apply setChain_keeps
    | with_reducible apply Keeps.ite

/-- `onSwitchTestEnd` may change: regs, tb, cloche, vectors, messages. -/
theorem onSwitchTestEnd_keeps (x0 : Fin 4) (x1 : Bool) (x2 : Bool) (x3 : Tick) {w : Nat} {s0 s : State} (hw : 1136018849857 &&& w = 1136018849857) (h : Keeps w s0 s) :
    Keeps w s0 (onSwitchTestEnd x0 x1 x2 x3 s) := by
  unfold onSwitchTestEnd
  repeat' first
    | with_reducible exact h
    | with_reducible assumption
    | (extract_lets +onlyGivenNames a; with_reducible refine Keeps.cut (w := w) (s := s0) a ?_ (fun ha => ?_); (on_goal 2 => clear_value a); (on_goal 1 => (dsimp -zeta only [a]; clear a)))
    | (extract_lets +onlyGivenNames a; clear_value a)
    | exact mask_trans (by decide) hw
    | with_reducible apply advance_keeps
    | with_reducible apply outputFault_keeps
    | with_reducible apply setOut_keeps
    | with_reducible apply testDone_keeps
    | with_reducible apply Keeps.ite
    | split

/-- `stopChain` may change: regs, cloche, vectors. -/
theorem stopChain_keeps (x0 : ℕ) {w : Nat} {s0 s : State} (hw : 36507222017 &&& w = 36507222017) (h : Keeps w s0 s) :
    Keeps w s0 (stopChain x0 s) := by
  unfold stopChain
  repeat' first
    | with_reducible exact h
    | (extract_lets +onlyGivenNames a; clear_value a)
    | exact mask_trans (by decide) hw
    | with_reducible apply raise_keeps
    | with_reducible apply setChain_keeps

/-- `onBrakeResultTimeout` may change: cloche, vectors, bars, freeIdx. -/
theorem onBrakeResultTimeout_keeps (x0 : Fin 8) {w : Nat} {s0 s : State} (hw : 70955007213568 &&& w = 70955007213568) (h : Keeps w s0 s) :
    Keeps w s0 (onBrakeResultTimeout x0 s) := by
  unfold onBrakeResultTimeout
  repeat' first
    | with_reducible exact h
    | with_reducible assumption
    | (extract_lets +onlyGivenNames a; clear_value a)
    | with_reducible apply brakeTo_keeps
    | with_reducible apply Keeps.ite

/-- `onBcTxPeriod` may change: tb, cloche, vectors, bars, freeIdx. -/
theorem onBcTxPeriod_keeps (x0 : Fin 4) (x1 : Tick) {w : Nat} {s0 s : State} (hw : 70955007213632 &&& w = 70955007213632) (h : Keeps w s0 s) :
    Keeps w s0 (onBcTxPeriod x0 x1 s) := by
  unfold onBcTxPeriod
  repeat' first
    | with_reducible exact h
    | with_reducible assumption
    | (extract_lets +onlyGivenNames a; with_reducible refine Keeps.cut (w := w) (s := s0) a ?_ (fun ha => ?_); (on_goal 2 => clear_value a); (on_goal 1 => (dsimp -zeta only [a]; clear a)))
    | (extract_lets +onlyGivenNames a; clear_value a)
    | exact mask_trans (by decide) hw
    | with_reducible apply advance_keeps
    | with_reducible apply bcSend_keeps
    | with_reducible apply brakeMessage_keeps
    | with_reducible apply setConn_keeps
    | with_reducible apply Keeps.ite
    | (with_reducible apply Keeps.foldl; intros)

/-- `watchChain` may change: cloche. -/
theorem watchChain_keeps (x0 : ℕ) {w : Nat} {s0 s : State} (hw : 2147483648 &&& w = 2147483648) (h : Keeps w s0 s) :
    Keeps w s0 (watchChain x0 s) := by
  unfold watchChain
  repeat' first
    | with_reducible exact h
    | with_reducible assumption
    | (extract_lets +onlyGivenNames a; clear_value a)
    | with_reducible apply setChain_keeps
    | with_reducible apply Keeps.ite

/-- `onSiFilterExpire` may change: cloche. -/
theorem onSiFilterExpire_keeps (x0 : Fin 17) {w : Nat} {s0 s : State} (hw : 2147483648 &&& w = 2147483648) (h : Keeps w s0 s) :
    Keeps w s0 (onSiFilterExpire x0 s) := by
  unfold onSiFilterExpire
  repeat' first
    | with_reducible exact h
    | with_reducible assumption
    | (extract_lets +onlyGivenNames a; clear_value a)
    | with_reducible apply setIn_keeps
    | with_reducible apply Keeps.ite

/-- `brakeResult` may change: regs, nvm, cloche, vectors, bars, freeIdx. -/
theorem brakeResult_keeps (x0 : ℕ) (x1 : Bool) (x2 : ℕ) {w : Nat} {s0 s : State} (hw : 70955007213601 &&& w = 70955007213601) (h : Keeps w s0 s) :
    Keeps w s0 (brakeResult x0 x1 x2 s) := by
  unfold brakeResult
  repeat' first
    | with_reducible exact h
    | with_reducible assumption
    | (extract_lets +onlyGivenNames a; with_reducible refine Keeps.cut (w := w) (s := s0) a ?_ (fun ha => ?_); (on_goal 2 => clear_value a); (on_goal 1 => (dsimp -zeta only [a]; clear a)))
    | (extract_lets +onlyGivenNames a; clear_value a)
    | exact mask_trans (by decide) hw
    | with_reducible apply brakeTo_keeps
    | with_reducible apply journalWrite_keeps
    | with_reducible apply raise_keeps
    | with_reducible apply setChain_keeps
    | with_reducible apply Keeps.ite

/-- `onBrakeWindowResult` may change: regs, nvm, cloche, x12, vectors, bars, messages, freeIdx. -/
theorem onBrakeWindowResult_keeps (x0 : Fin 8) (x1 : Bool) (x2 : ℕ) {w : Nat} {s0 s : State} (hw : 72058813808673 &&& w = 72058813808673) (h : Keeps w s0 s) :
    Keeps w s0 (onBrakeWindowResult x0 x1 x2 s) := by
  unfold onBrakeWindowResult
  repeat' first
    | with_reducible exact h
    | (extract_lets +onlyGivenNames a; clear_value a)
    | exact mask_trans (by decide) hw
    | with_reducible apply brakeResult_keeps
    | with_reducible apply x12Done_keeps
    | with_reducible apply x12Watch_keeps
    | with_reducible apply Keeps.ite
    | split

/-- `runChain` may change: cloche. -/
theorem runChain_keeps (x0 : ℕ) {w : Nat} {s0 s : State} (hw : 2147483648 &&& w = 2147483648) (h : Keeps w s0 s) :
    Keeps w s0 (runChain x0 s) := by
  unfold runChain
  repeat' first
    | with_reducible exact h
    | with_reducible assumption
    | (extract_lets +onlyGivenNames a; clear_value a)
    | with_reducible apply setChain_keeps

/-- `resetChain` may change: regs, cloche, vectors. -/
theorem resetChain_keeps (x0 : ℕ) {w : Nat} {s0 s : State} (hw : 36507222017 &&& w = 36507222017) (h : Keeps w s0 s) :
    Keeps w s0 (resetChain x0 s) := by
  unfold resetChain
  repeat' first
    | with_reducible exact h
    | with_reducible assumption
    | (extract_lets +onlyGivenNames a; clear_value a)
    | exact mask_trans (by decide) hw
    | with_reducible apply runChain_keeps
    | with_reducible apply stopChain_keeps
    | with_reducible apply Keeps.ite

/-- `cloStart` may change: commissioning, cloche. -/
theorem cloStart_keeps  {w : Nat} {s0 s : State} (hw : 3221225472 &&& w = 3221225472) (h : Keeps w s0 s) :
    Keeps w s0 (cloStart s) := by
  unfold cloStart
  repeat' first
    | with_reducible exact h
    | with_reducible assumption
    | (extract_lets +onlyGivenNames a; with_reducible refine Keeps.cut (w := w) (s := s0) a ?_ (fun ha => ?_); (on_goal 2 => clear_value a); (on_goal 1 => (dsimp -zeta only [a]; clear a)))
    | (extract_lets +onlyGivenNames a; (have y : CloSt := a; clear y); dsimp -zeta only [a]; clear a)
    | (extract_lets +onlyGivenNames a; clear_value a)
    | exact mask_trans (by decide) hw
    | with_reducible apply setChain_keeps
    | with_reducible apply setOut_keeps
    | (with_reducible apply Keeps.foldl; intros)
    | fail_if_no_progress (with_reducible refine Keeps.set_clo_commissioning_cloche ?_ (mask_trans (by decide) hw) _ (by first | ((with_reducible repeat' constructor); done) | (split <;> repeat' constructor)))

/-- `islandFault` may change: regs, cloche, vectors, messages. -/
theorem islandFault_keeps (x0 : IslandCause) {w : Nat} {s0 s : State} (hw : 1136018849793 &&& w = 1136018849793) (h : Keeps w s0 s) :
    Keeps w s0 (islandFault x0 s) := by
  unfold islandFault
  repeat' first
    | with_reducible exact h
    | with_reducible assumption
    | (extract_lets +onlyGivenNames a; with_reducible refine Keeps.cut (w := w) (s := s0) a ?_ (fun ha => ?_); (on_goal 2 => clear_value a); (on_goal 1 => (dsimp -zeta only [a]; clear a)))
    | (extract_lets +onlyGivenNames a; (have y : CloSt := a; clear y); dsimp -zeta only [a]; clear a)
    | exact mask_trans (by decide) hw
    | with_reducible apply fault_keeps
    | with_reducible apply lockAll_keeps
    | with_reducible apply lockBegins_keeps
    | with_reducible apply stick_keeps
    | fail_if_no_progress (with_reducible refine Keeps.set_clo_cloche ?_ (mask_trans (by decide) hw) _ (by first | ((with_reducible repeat' constructor); done) | (split <;> repeat' constructor)))

/-- `cloSelfTest` may change: regs, commissioning, cloche, vectors, messages. -/
theorem cloSelfTest_keeps (x0 : SelfTest) {w : Nat} {s0 s : State} (hw : 1137092591617 &&& w = 1137092591617) (h : Keeps w s0 s) :
    Keeps w s0 (cloSelfTest x0 s).1 := by
  unfold cloSelfTest
  repeat' first
    | with_reducible exact h
    | with_reducible assumption
    | (extract_lets +onlyGivenNames a; with_reducible refine Keeps.cut (w := w) (s := s0) a ?_ (fun ha => ?_); (on_goal 2 => clear_value a); (on_goal 1 => (dsimp -zeta only [a]; clear a)))
    | (extract_lets +onlyGivenNames a; (have y : CloSt := a; clear y); dsimp -zeta only [a]; clear a)
    | (extract_lets +onlyGivenNames a; clear_value a)
    | exact mask_trans (by decide) hw
    | with_reducible apply cloStart_keeps
    | with_reducible apply islandFault_keeps
    | with_reducible apply resetFault_keeps
    | with_reducible apply stopChain_keeps
    | with_reducible apply Keeps.ite
    | (with_reducible apply Keeps.foldl; intros)
    | split
    | fail_if_no_progress (with_reducible refine Keeps.set_clo_cloche ?_ (mask_trans (by decide) hw) _ (by first | ((with_reducible repeat' constructor); done) | (split <;> repeat' constructor)))

/-- `moveOut` may change: regs, cloche, vectors, messages. -/
theorem moveOut_keeps (x0 : ℕ) (x1 : Bool) (x2 : Bool) {w : Nat} {s0 s : State} (hw : 1136018849793 &&& w = 1136018849793) (h : Keeps w s0 s) :
    Keeps w s0 (moveOut x0 x1 x2 s) := by
  unfold moveOut
  repeat' first
    | with_reducible exact h
    | with_reducible assumption
    | (extract_lets +onlyGivenNames a; with_reducible refine Keeps.cut (w := w) (s := s0) a ?_ (fun ha => ?_); (on_goal 2 => clear_value a); (on_goal 1 => (dsimp -zeta only [a]; clear a)))
    | (extract_lets +onlyGivenNames a; clear_value a)
    | exact mask_trans (by decide) hw
    | with_reducible apply outputFault_keeps
    | with_reducible apply setOut_keeps
    | with_reducible apply Keeps.ite
    | split

/-- `moveChain` may change: regs, cloche, vectors, messages. -/
theorem moveChain_keeps (x0 : ℕ) {w : Nat} {s0 s : State} (hw : 1136018849793 &&& w = 1136018849793) (h : Keeps w s0 s) :
    Keeps w s0 (moveChain x0 s) := by
  unfold moveChain
  repeat' first
    | with_reducible exact h
    | with_reducible assumption
    | (extract_lets +onlyGivenNames a; with_reducible refine Keeps.cut (w := w) (s := s0) a ?_ (fun ha => ?_); (on_goal 2 => clear_value a); (on_goal 1 => (dsimp -zeta only [a]; clear a)))
    | (extract_lets +onlyGivenNames a; clear_value a)
    | exact mask_trans (by decide) hw
    | with_reducible apply lockChain_keeps
    | with_reducible apply runChain_keeps
    | with_reducible apply setChain_keeps
    | with_reducible apply stick_keeps
    | with_reducible apply stopChain_keeps
    | with_reducible apply watchChain_keeps
    | with_reducible apply Keeps.ite
    | split

/-- `onBcMessageReceive` may change: regs, tb, cloche, vectors, bars, freeIdx. -/
theorem onBcMessageReceive_keeps (x0 : Fin 4) (x1 : List Byte) (x2 : Tick) {w : Nat} {s0 s : State} (hw : 70955007213633 &&& w = 70955007213633) (h : Keeps w s0 s) :
    Keeps w s0 (onBcMessageReceive x0 x1 x2 s) := by
  unfold onBcMessageReceive
  repeat' first
    | with_reducible exact h
    | with_reducible assumption
    | (extract_lets +onlyGivenNames a; with_reducible refine Keeps.cut (w := w) (s := s0) a ?_ (fun ha => ?_); (on_goal 2 => clear_value a); (on_goal 1 => (dsimp -zeta only [a]; clear a)))
    | (extract_lets +onlyGivenNames a; (have y : CloSt := a; clear y); dsimp -zeta only [a]; clear a)
    | (extract_lets +onlyGivenNames a; (have y : HifSt := a; clear y); dsimp -zeta only [a]; clear a)
    | (extract_lets +onlyGivenNames a; clear_value a)
    | exact mask_trans (by decide) hw
    | with_reducible apply advance_keeps
    | with_reducible apply bump_keeps
    | with_reducible apply raise_keeps
    | with_reducible apply setConn_keeps
    | with_reducible apply stick_keeps
    | with_reducible apply Keeps.ite
    | fail_if_no_progress (with_reducible refine Keeps.set_clo_cloche ?_ (mask_trans (by decide) hw) _ (by first | ((with_reducible repeat' constructor); done) | (split <;> repeat' constructor)))
    | fail_if_no_progress (with_reducible refine Keeps.set_hif_bars ?_ (mask_trans (by decide) hw) _ (by first | ((with_reducible repeat' constructor); done) | (split <;> repeat' constructor)))

/-- `onPoweredTimeTick` may change: nvm, commissioning, cloche. -/
theorem onPoweredTimeTick_keeps  {w : Nat} {s0 s : State} (hw : 3221225504 &&& w = 3221225504) (h : Keeps w s0 s) :
    Keeps w s0 (onPoweredTimeTick s) := by
  unfold onPoweredTimeTick
  repeat' first
    | with_reducible exact h
    | with_reducible assumption
    | (extract_lets +onlyGivenNames a; with_reducible refine Keeps.cut (w := w) (s := s0) a ?_ (fun ha => ?_); (on_goal 2 => clear_value a); (on_goal 1 => (dsimp -zeta only [a]; clear a)))
    | (extract_lets +onlyGivenNames a; (have y : CloSt := a; clear y); dsimp -zeta only [a]; clear a)
    | (extract_lets +onlyGivenNames a; clear_value a)
    | exact mask_trans (by decide) hw
    | with_reducible apply journalWrite_keeps
    | with_reducible apply minutePasses_keeps
    | fail_if_no_progress (with_reducible refine Keeps.set_clo_cloche ?_ (mask_trans (by decide) hw) _ (by first | ((with_reducible repeat' constructor); done) | (split <;> repeat' constructor)))

/-- `watchInputs` may change: cloche. -/
theorem watchInputs_keeps  {w : Nat} {s0 s : State} (hw : 2147483648 &&& w = 2147483648) (h : Keeps w s0 s) :
    Keeps w s0 (watchInputs s) := by
  unfold watchInputs
  repeat' first
    | with_reducible exact h
    | with_reducible assumption
    | (extract_lets +onlyGivenNames a; with_reducible refine Keeps.cut (w := w) (s := s0) a ?_ (fun ha => ?_); (on_goal 2 => clear_value a); (on_goal 1 => (dsimp -zeta only [a]; clear a)))
    | (extract_lets +onlyGivenNames a; (have y : CloSt := a; clear y); dsimp -zeta only [a]; clear a)
    | (extract_lets +onlyGivenNames a; clear_value a)
    | with_reducible apply setIn_keeps
    | (with_reducible apply Keeps.foldl; intros)
    | fail_if_no_progress (with_reducible refine Keeps.set_clo_cloche ?_ (mask_trans (by decide) hw) _ (by first | ((with_reducible repeat' constructor); done) | (split <;> repeat' constructor)))

/-- `onEvaluationCycle` may change: regs, firstItem, nvm, tb, tsu, mcd, queues, lostMarks, portUp, portDn, merging, commissioning, cloche, x12, clocheView, vectors, bars, messages, freeIdx. -/
theorem onEvaluationCycle_keeps (x0 : BitVec 4) (x1 : BitVec 4) (x2 : Tick) {w : Nat} {s0 s : State} (hw : 72068852351333 &&& w = 72068852351333) (h : Keeps w s0 s) :
    Keeps w s0 (onEvaluationCycle x0 x1 x2 s) := by
  unfold onEvaluationCycle
  repeat' first
    | with_reducible exact h
    | with_reducible assumption
    | (extract_lets +onlyGivenNames a; with_reducible refine Keeps.cut (w := w) (s := s0) a ?_ (fun ha => ?_); (on_goal 2 => clear_value a); (on_goal 1 => (dsimp -zeta only [a]; clear a)))
    | exact mask_trans (by decide) hw
    | with_reducible apply advance_keeps
    | with_reducible apply cycleTime_keeps
    | with_reducible apply moveBrake_keeps
    | with_reducible apply moveChain_keeps
    | with_reducible apply moveOut_keeps
    | with_reducible apply watchInputs_keeps
    | with_reducible apply Keeps.ite
    | (with_reducible apply Keeps.foldl; intros)
    | fail_if_no_progress (with_reducible refine Keeps.set_cloShown ?_ (mask_trans (by decide) hw) _)

/-- `onPasswordLockExpire` may change: nvm, commissioning. -/
theorem onPasswordLockExpire_keeps  {w : Nat} {s0 s : State} (hw : 1073741856 &&& w = 1073741856) (h : Keeps w s0 s) :
    Keeps w s0 (onPasswordLockExpire s) := by
  unfold onPasswordLockExpire
  repeat' first
    | with_reducible exact h
    | (extract_lets +onlyGivenNames a; (have y : CloSt := a; clear y); dsimp -zeta only [a]; clear a)
    | exact mask_trans (by decide) hw
    | with_reducible apply journalLock_keeps
    | with_reducible apply Keeps.ite
    | fail_if_no_progress (with_reducible refine Keeps.set_clo_commissioning ?_ (mask_trans (by decide) hw) _ (by first | ((with_reducible repeat' constructor); done) | (split <;> repeat' constructor)))

/-- `onVerdictDeadline` may change: regs, tb, cloche, vectors, messages. -/
theorem onVerdictDeadline_keeps (x0 : BitVec 24) (x1 : Bool) (x2 : Tick) {w : Nat} {s0 s : State} (hw : 1136018849857 &&& w = 1136018849857) (h : Keeps w s0 s) :
    Keeps w s0 (onVerdictDeadline x0 x1 x2 s) := by
  unfold onVerdictDeadline
  repeat' first
    | with_reducible exact h
    | with_reducible assumption
    | (extract_lets +onlyGivenNames a; with_reducible refine Keeps.cut (w := w) (s := s0) a ?_ (fun ha => ?_); (on_goal 2 => clear_value a); (on_goal 1 => (dsimp -zeta only [a]; clear a)))
    | exact mask_trans (by decide) hw
    | with_reducible apply advance_keeps
    | with_reducible apply setCauses_keeps
    | with_reducible apply updFrame_keeps
    | with_reducible apply Keeps.ite
    | (with_reducible apply Keeps.foldl; intros)

/-- `onBrakeTestDue` may change: cloche, vectors, bars, freeIdx. -/
theorem onBrakeTestDue_keeps (x0 : Fin 8) {w : Nat} {s0 s : State} (hw : 70955007213568 &&& w = 70955007213568) (h : Keeps w s0 s) :
    Keeps w s0 (onBrakeTestDue x0 s) := by
  unfold onBrakeTestDue
  repeat' first
    | with_reducible exact h
    | with_reducible assumption
    | (extract_lets +onlyGivenNames a; clear_value a)
    | exact mask_trans (by decide) hw
    | with_reducible apply brakeTo_keeps
    | with_reducible apply setChain_keeps
    | with_reducible apply Keeps.ite

/-- `onSessionTimeout` may change: commissioning. -/
theorem onSessionTimeout_keeps  {w : Nat} {s0 s : State} (hw : 1073741824 &&& w = 1073741824) (h : Keeps w s0 s) :
    Keeps w s0 (onSessionTimeout s) := by
  unfold onSessionTimeout
  repeat' first
    | with_reducible exact h
    | (extract_lets +onlyGivenNames a; (have y : CloSt := a; clear y); dsimp -zeta only [a]; clear a)
    | with_reducible apply Keeps.ite
    | fail_if_no_progress (with_reducible refine Keeps.set_clo_commissioning ?_ (mask_trans (by decide) hw) _ (by first | ((with_reducible repeat' constructor); done) | (split <;> repeat' constructor)))

/-- `onBrakeTestOverdue` may change: regs, tb, cloche, vectors, messages. -/
theorem onBrakeTestOverdue_keeps (x0 : Fin 8) (x1 : Tick) {w : Nat} {s0 s : State} (hw : 1136018849857 &&& w = 1136018849857) (h : Keeps w s0 s) :
    Keeps w s0 (onBrakeTestOverdue x0 x1 s) := by
  unfold onBrakeTestOverdue
  repeat' first
    | with_reducible exact h
    | with_reducible assumption
    | (extract_lets +onlyGivenNames a; with_reducible refine Keeps.cut (w := w) (s := s0) a ?_ (fun ha => ?_); (on_goal 2 => clear_value a); (on_goal 1 => (dsimp -zeta only [a]; clear a)))
    | (extract_lets +onlyGivenNames a; clear_value a)
    | exact mask_trans (by decide) hw
    | with_reducible apply advance_keeps
    | with_reducible apply fault_keeps
    | with_reducible apply setChain_keeps
    | with_reducible apply Keeps.ite

/-- `onPartStop` may change: regs, tb, cloche, vectors, messages. -/
theorem onPartStop_keeps (x0 : Tick) {w : Nat} {s0 s : State} (hw : 1136018849857 &&& w = 1136018849857) (h : Keeps w s0 s) :
    Keeps w s0 (onPartStop x0 s) := by
  unfold onPartStop
  repeat' first
    | with_reducible exact h
    | exact mask_trans (by decide) hw
    | with_reducible apply advance_keeps
    | with_reducible apply partStop_keeps

/-- `onResetRelease` may change: regs, tb, cloche, vectors, freeIdx. -/
theorem onResetRelease_keeps (x0 : Tick) {w : Nat} {s0 s : State} (hw : 70405251399745 &&& w = 70405251399745) (h : Keeps w s0 s) :
    Keeps w s0 (onResetRelease x0 s) := by
  unfold onResetRelease
  repeat' first
    | with_reducible exact h
    | with_reducible assumption
    | (extract_lets +onlyGivenNames a; with_reducible refine Keeps.cut (w := w) (s := s0) a ?_ (fun ha => ?_); (on_goal 2 => clear_value a); (on_goal 1 => (dsimp -zeta only [a]; clear a)))
    | (extract_lets +onlyGivenNames a; (have y : CloSt := a; clear y); dsimp -zeta only [a]; clear a)
    | (extract_lets +onlyGivenNames a; clear_value a)
    | exact mask_trans (by decide) hw
    | with_reducible apply advance_keeps
    | with_reducible apply bump_keeps
    | with_reducible apply raise_keeps
    | with_reducible apply resetChain_keeps
    | with_reducible apply resetOut_keeps
    | with_reducible apply Keeps.ite
    | (with_reducible apply Keeps.foldl; intros)
    | fail_if_no_progress (with_reducible refine Keeps.set_clo_cloche ?_ (mask_trans (by decide) hw) _ (by first | ((with_reducible repeat' constructor); done) | (split <;> repeat' constructor)))

/-- `onDiscrepancyTimeout` may change: regs, tb, cloche, vectors, messages. -/
theorem onDiscrepancyTimeout_keeps (x0 : Fin 8) (x1 : Fin 2) (x2 : Tick) {w : Nat} {s0 s : State} (hw : 1136018849857 &&& w = 1136018849857) (h : Keeps w s0 s) :
    Keeps w s0 (onDiscrepancyTimeout x0 x1 x2 s) := by
  unfold onDiscrepancyTimeout
  repeat' first
    | with_reducible exact h
    | with_reducible assumption
    | (extract_lets +onlyGivenNames a; with_reducible refine Keeps.cut (w := w) (s := s0) a ?_ (fun ha => ?_); (on_goal 2 => clear_value a); (on_goal 1 => (dsimp -zeta only [a]; clear a)))
    | (extract_lets +onlyGivenNames a; clear_value a)
    | exact mask_trans (by decide) hw
    | with_reducible apply advance_keeps
    | with_reducible apply fault_keeps
    | with_reducible apply setChain_keeps
    | with_reducible apply Keeps.ite

/-- `onIslandFault` may change: regs, tb, cloche, vectors, messages. -/
theorem onIslandFault_keeps (x0 : IslandCause) (x1 : Tick) {w : Nat} {s0 s : State} (hw : 1136018849857 &&& w = 1136018849857) (h : Keeps w s0 s) :
    Keeps w s0 (onIslandFault x0 x1 s) := by
  unfold onIslandFault
  repeat' first
    | with_reducible exact h
    | exact mask_trans (by decide) hw
    | with_reducible apply advance_keeps
    | with_reducible apply islandFault_keeps

/-- `cloFrameEnd` may change: cloche. -/
theorem cloFrameEnd_keeps (x0 : ℕ) {w : Nat} {s0 s : State} (hw : 2147483648 &&& w = 2147483648) (h : Keeps w s0 s) :
    Keeps w s0 (cloFrameEnd x0 s) := by
  unfold cloFrameEnd
  repeat' first
    | with_reducible exact h
    | with_reducible assumption
    | (extract_lets +onlyGivenNames a; clear_value a)
    | with_reducible apply setField_keeps
    | (with_reducible apply Keeps.foldl; intros)

end Sys2Proof.Machine
end

