-- ==== Sys2Proof/Laws/KeepEsq.lean ====
section
/-! SUPPORT. What each operation of Machine/Esq.lean may change: one lemma per operation, by the bits of the parts
of State (Sys2Proof.Machine.Part.bit). -/

namespace Sys2Proof.Machine

/-- `scheduleFrames` may change: esq. -/
theorem scheduleFrames_keeps (x0 : Tick) (x1 : Bool) (x2 : Bool) {w : Nat} {s0 s : State} (hw : 1024 &&& w = 1024) (h : Keeps w s0 s) :
    Keeps w s0 (scheduleFrames x0 x1 x2 s) := by
  unfold scheduleFrames
  repeat' first
    | with_reducible exact h
    | (extract_lets +onlyGivenNames a; clear_value a)
    | with_reducible apply Keeps.ite
    | fail_if_no_progress (with_reducible refine Keeps.set_esq ?_ (mask_trans (by decide) hw) _)

/-- `indexMissing` may change: regs, esq, vectors, freeIdx. -/
theorem indexMissing_keeps (x0 : Tick) {w : Nat} {s0 s : State} (hw : 70403103917057 &&& w = 70403103917057) (h : Keeps w s0 s) :
    Keeps w s0 (indexMissing x0 s) := by
  unfold indexMissing
  repeat' first
    | with_reducible exact h
    | with_reducible assumption
    | (extract_lets +onlyGivenNames a; with_reducible refine Keeps.cut (w := w) (s := s0) a ?_ (fun ha => ?_); (on_goal 2 => clear_value a); (on_goal 1 => (dsimp -zeta only [a]; clear a)))
    | (extract_lets +onlyGivenNames a; clear_value a)
    | exact mask_trans (by decide) hw
    | with_reducible apply bump_keeps
    | with_reducible apply raise_keeps
    | with_reducible apply scheduleFrames_keeps
    | with_reducible apply stick_keeps
    | fail_if_no_progress (with_reducible refine Keeps.set_esq ?_ (mask_trans (by decide) hw) _)

/-- `ledgerCharge` may change: esq. -/
theorem ledgerCharge_keeps (x0 : ℕ) (x1 : Tick) {w : Nat} {s0 s : State} (hw : 1024 &&& w = 1024) (h : Keeps w s0 s) :
    Keeps w s0 (ledgerCharge x0 x1 s) := by
  unfold ledgerCharge
  repeat' first
    | with_reducible exact h
    | with_reducible assumption
    | (extract_lets +onlyGivenNames a; clear_value a)
    | (with_reducible apply Keeps.foldl; intros)
    | fail_if_no_progress (with_reducible refine Keeps.set_esq ?_ (mask_trans (by decide) hw) _)

/-- `ledgerFault` may change: regs, esq, vectors, messages. -/
theorem ledgerFault_keeps  {w : Nat} {s0 s : State} (hw : 1133871367169 &&& w = 1133871367169) (h : Keeps w s0 s) :
    Keeps w s0 (ledgerFault s) := by
  unfold ledgerFault
  repeat' first
    | with_reducible exact h
    | (extract_lets +onlyGivenNames a; clear_value a)
    | exact mask_trans (by decide) hw
    | with_reducible apply fault_keeps
    | fail_if_no_progress (with_reducible refine Keeps.set_esq ?_ (mask_trans (by decide) hw) _)

/-- `setBankCol` may change: esq. -/
theorem setBankCol_keeps (x0 : ℕ) (x1 : BankCol) {w : Nat} {s0 s : State} (hw : 1024 &&& w = 1024) (h : Keeps w s0 s) :
    Keeps w s0 (setBankCol x0 x1 s) := by
  unfold setBankCol
  repeat' first
    | with_reducible exact h
    | (extract_lets +onlyGivenNames a; clear_value a)
    | fail_if_no_progress (with_reducible refine Keeps.set_esq ?_ (mask_trans (by decide) hw) _)

/-- `suppressLedger` may change: regs, esq, vectors, freeIdx. -/
theorem suppressLedger_keeps (x0 : ℕ) (x1 : List (ℕ × ℕ)) {w : Nat} {s0 s : State} (hw : 70403103917057 &&& w = 70403103917057) (h : Keeps w s0 s) :
    Keeps w s0 (suppressLedger x0 x1 s) := by
  unfold suppressLedger
  repeat' first
    | with_reducible exact h
    | with_reducible assumption
    | (extract_lets +onlyGivenNames a; with_reducible refine Keeps.cut (w := w) (s := s0) a ?_ (fun ha => ?_); (on_goal 2 => clear_value a); (on_goal 1 => (dsimp -zeta only [a]; clear a)))
    | (extract_lets +onlyGivenNames a; clear_value a)
    | exact mask_trans (by decide) hw
    | with_reducible apply bumpAt_keeps
    | with_reducible apply bumpSat_keeps
    | with_reducible apply raise_keeps
    | with_reducible apply setBankCol_keeps
    | with_reducible apply stick_keeps
    | with_reducible apply Keeps.ite
    | (with_reducible apply Keeps.foldl; intros)
    | fail_if_no_progress (with_reducible refine Keeps.set_esq ?_ (mask_trans (by decide) hw) _)

/-- `suppressSpacing` may change: regs, esq, vectors, freeIdx. -/
theorem suppressSpacing_keeps (x0 : ℕ) {w : Nat} {s0 s : State} (hw : 70403103917057 &&& w = 70403103917057) (h : Keeps w s0 s) :
    Keeps w s0 (suppressSpacing x0 s) := by
  unfold suppressSpacing
  repeat' first
    | with_reducible exact h
    | with_reducible assumption
    | (extract_lets +onlyGivenNames a; with_reducible refine Keeps.cut (w := w) (s := s0) a ?_ (fun ha => ?_); (on_goal 2 => clear_value a); (on_goal 1 => (dsimp -zeta only [a]; clear a)))
    | (extract_lets +onlyGivenNames a; clear_value a)
    | exact mask_trans (by decide) hw
    | with_reducible apply bumpAt_keeps
    | with_reducible apply raise_keeps
    | with_reducible apply setBankCol_keeps
    | with_reducible apply stick_keeps
    | with_reducible apply Keeps.ite
    | fail_if_no_progress (with_reducible refine Keeps.set_esq ?_ (mask_trans (by decide) hw) _)

/-- `placeShot` may change: regs, esq, vectors, messages, freeIdx. -/
theorem placeShot_keeps (x0 : ℕ) (x1 : ℕ) {w : Nat} {s0 s : State} (hw : 71502615544833 &&& w = 71502615544833) (h : Keeps w s0 s) :
    Keeps w s0 (placeShot x0 x1 s) := by
  unfold placeShot
  repeat' first
    | with_reducible exact h
    | with_reducible assumption
    | (extract_lets +onlyGivenNames a; with_reducible refine Keeps.cut (w := w) (s := s0) a ?_ (fun ha => ?_); (on_goal 2 => clear_value a); (on_goal 1 => (dsimp -zeta only [a]; clear a)))
    | (extract_lets +onlyGivenNames a; clear_value a)
    | exact mask_trans (by decide) hw
    | with_reducible apply ledgerCharge_keeps
    | with_reducible apply ledgerFault_keeps
    | with_reducible apply setBankCol_keeps
    | with_reducible apply suppressLedger_keeps
    | with_reducible apply suppressSpacing_keeps
    | with_reducible apply Keeps.ite
    | fail_if_no_progress (with_reducible refine Keeps.set_esq ?_ (mask_trans (by decide) hw) _)

/-- `raiseLevels` may change: esq. -/
theorem raiseLevels_keeps  {w : Nat} {s0 s : State} (hw : 1024 &&& w = 1024) (h : Keeps w s0 s) :
    Keeps w s0 (raiseLevels s) := by
  unfold raiseLevels
  repeat' first
    | with_reducible exact h
    | with_reducible assumption
    | (extract_lets +onlyGivenNames a; clear_value a)
    | with_reducible apply setBankCol_keeps
    | with_reducible apply Keeps.ite
    | (with_reducible apply Keeps.foldl; intros)

/-- `suppressGrant` may change: regs, esq, vectors, freeIdx. -/
theorem suppressGrant_keeps (x0 : ℕ) (x1 : Bool) {w : Nat} {s0 s : State} (hw : 70403103917057 &&& w = 70403103917057) (h : Keeps w s0 s) :
    Keeps w s0 (suppressGrant x0 x1 s) := by
  unfold suppressGrant
  repeat' first
    | with_reducible exact h
    | with_reducible assumption
    | (extract_lets +onlyGivenNames a; with_reducible refine Keeps.cut (w := w) (s := s0) a ?_ (fun ha => ?_); (on_goal 2 => clear_value a); (on_goal 1 => (dsimp -zeta only [a]; clear a)))
    | (extract_lets +onlyGivenNames a; clear_value a)
    | exact mask_trans (by decide) hw
    | with_reducible apply bumpAt_keeps
    | with_reducible apply raise_keeps
    | with_reducible apply setBankCol_keeps
    | with_reducible apply stick_keeps
    | with_reducible apply Keeps.ite
    | fail_if_no_progress (with_reducible refine Keeps.set_esq ?_ (mask_trans (by decide) hw) _)

/-- `onSlotDecision` may change: regs, tb, esq, vectors, messages, freeIdx. -/
theorem onSlotDecision_keeps (x0 : Fin 32) (x1 : Tick) {w : Nat} {s0 s : State} (hw : 71502615544897 &&& w = 71502615544897) (h : Keeps w s0 s) :
    Keeps w s0 (onSlotDecision x0 x1 s) := by
  unfold onSlotDecision
  repeat' first
    | with_reducible exact h
    | with_reducible assumption
    | (extract_lets +onlyGivenNames a; with_reducible refine Keeps.cut (w := w) (s := s0) a ?_ (fun ha => ?_); (on_goal 2 => clear_value a); (on_goal 1 => (dsimp -zeta only [a]; clear a)))
    | (extract_lets +onlyGivenNames a; clear_value a)
    | exact mask_trans (by decide) hw
    | with_reducible apply advance_keeps
    | with_reducible apply placeShot_keeps
    | with_reducible apply raiseLevels_keeps
    | with_reducible apply suppressGrant_keeps
    | with_reducible apply Keeps.ite
    | (with_reducible apply Keeps.foldl; intros)
    | fail_if_no_progress (with_reducible refine Keeps.set_esq ?_ (mask_trans (by decide) hw) _)

/-- `fenceBanks` may change: messages. -/
theorem fenceBanks_keeps (x0 : ℕ) (x1 : List ℕ) {w : Nat} {s0 s : State} (hw : 1099511627776 &&& w = 1099511627776) (h : Keeps w s0 s) :
    Keeps w s0 (fenceBanks x0 x1 s) := by
  unfold fenceBanks
  repeat' first
    | with_reducible exact h
    | with_reducible assumption
    | with_reducible apply post_keeps
    | (with_reducible apply Keeps.foldl; intros)

/-- `setRail` may change: esq. -/
theorem setRail_keeps (x0 : ℕ) (x1 : RailSt) {w : Nat} {s0 s : State} (hw : 1024 &&& w = 1024) (h : Keeps w s0 s) :
    Keeps w s0 (setRail x0 x1 s) := by
  unfold setRail
  repeat' first
    | with_reducible exact h
    | (extract_lets +onlyGivenNames a; clear_value a)
    | fail_if_no_progress (with_reducible refine Keeps.set_esq ?_ (mask_trans (by decide) hw) _)

/-- `railShot` may change: regs, esq, vectors, messages. -/
theorem railShot_keeps (x0 : ℕ) (x1 : Bool) {w : Nat} {s0 s : State} (hw : 1133871367169 &&& w = 1133871367169) (h : Keeps w s0 s) :
    Keeps w s0 (railShot x0 x1 s) := by
  unfold railShot
  repeat' first
    | with_reducible exact h
    | with_reducible assumption
    | (extract_lets +onlyGivenNames a; with_reducible refine Keeps.cut (w := w) (s := s0) a ?_ (fun ha => ?_); (on_goal 2 => clear_value a); (on_goal 1 => (dsimp -zeta only [a]; clear a)))
    | (extract_lets +onlyGivenNames a; clear_value a)
    | exact mask_trans (by decide) hw
    | with_reducible apply fenceBanks_keeps
    | with_reducible apply raise_keeps
    | with_reducible apply setRail_keeps
    | with_reducible apply stick_keeps
    | with_reducible apply Keeps.ite
    | fail_if_no_progress (with_reducible refine Keeps.set_esq ?_ (mask_trans (by decide) hw) _)

/-- `onDeepFire` may change: esq. -/
theorem onDeepFire_keeps (x0 : List (Fin 16 × ℕ × Tick)) {w : Nat} {s0 s : State} (hw : 1024 &&& w = 1024) (h : Keeps w s0 s) :
    Keeps w s0 (onDeepFire x0 s) := by
  unfold onDeepFire
  repeat' first
    | with_reducible exact h
    | (extract_lets +onlyGivenNames a; clear_value a)
    | with_reducible apply Keeps.ite
    | fail_if_no_progress (with_reducible refine Keeps.set_esq ?_ (mask_trans (by decide) hw) _)

/-- `frontShot` may change: hse. -/
theorem frontShot_keeps (x0 : ℕ) (x1 : Tick) {w : Nat} {s0 s : State} (hw : 2048 &&& w = 2048) (h : Keeps w s0 s) :
    Keeps w s0 (frontShot x0 x1 s) := by
  unfold frontShot
  repeat' first
    | with_reducible exact h
    | with_reducible assumption
    | (extract_lets +onlyGivenNames a; clear_value a)
    | with_reducible apply Keeps.ite
    | (with_reducible apply Keeps.foldl; intros)
    | fail_if_no_progress (with_reducible refine Keeps.set_hse ?_ (mask_trans (by decide) hw) _)

/-- `onShotFire` may change: regs, tb, esq, hse, queues, portUp, portDn, vectors, messages, freeIdx. -/
theorem onShotFire_keeps (x0 : Fin 16) (x1 : Tick) {w : Nat} {s0 s : State} (hw : 71502717258817 &&& w = 71502717258817) (h : Keeps w s0 s) :
    Keeps w s0 (onShotFire x0 x1 s) := by
  unfold onShotFire
  repeat' first
    | with_reducible exact h
    | with_reducible assumption
    | (extract_lets +onlyGivenNames a; with_reducible refine Keeps.cut (w := w) (s := s0) a ?_ (fun ha => ?_); (on_goal 2 => clear_value a); (on_goal 1 => (dsimp -zeta only [a]; clear a)))
    | (extract_lets +onlyGivenNames a; clear_value a)
    | exact mask_trans (by decide) hw
    | with_reducible apply advance_keeps
    | with_reducible apply bumpSat_keeps
    | with_reducible apply frontShot_keeps
    | with_reducible apply railShot_keeps
    | with_reducible apply toPartner_keeps
    | with_reducible apply Keeps.ite
    | split
    | fail_if_no_progress (with_reducible refine Keeps.set_esq ?_ (mask_trans (by decide) hw) _)

/-- `railRecord` may change: esq. -/
theorem railRecord_keeps (x0 : ℕ) (x1 : Option ℕ) {w : Nat} {s0 s : State} (hw : 1024 &&& w = 1024) (h : Keeps w s0 s) :
    Keeps w s0 (railRecord x0 x1 s) := by
  unfold railRecord
  repeat' first
    | with_reducible exact h
    | with_reducible assumption
    | (extract_lets +onlyGivenNames a; clear_value a)
    | with_reducible apply setRail_keeps

/-- `railMeasured` may change: regs, esq, vectors, messages. -/
theorem railMeasured_keeps (x0 : ℕ) (x1 : Option ℕ) {w : Nat} {s0 s : State} (hw : 1133871367169 &&& w = 1133871367169) (h : Keeps w s0 s) :
    Keeps w s0 (railMeasured x0 x1 s) := by
  unfold railMeasured
  repeat' first
    | with_reducible exact h
    | with_reducible assumption
    | (extract_lets +onlyGivenNames a; with_reducible refine Keeps.cut (w := w) (s := s0) a ?_ (fun ha => ?_); (on_goal 2 => clear_value a); (on_goal 1 => (dsimp -zeta only [a]; clear a)))
    | (extract_lets +onlyGivenNames a; clear_value a)
    | exact mask_trans (by decide) hw
    | with_reducible apply fenceBanks_keeps
    | with_reducible apply railRecord_keeps
    | with_reducible apply raise_keeps
    | with_reducible apply Keeps.ite

/-- `indexReal` may change: esq. -/
theorem indexReal_keeps (x0 : Tick) {w : Nat} {s0 s : State} (hw : 1024 &&& w = 1024) (h : Keeps w s0 s) :
    Keeps w s0 (indexReal x0 s) := by
  unfold indexReal
  repeat' first
    | with_reducible exact h
    | with_reducible assumption
    | (extract_lets +onlyGivenNames a; clear_value a)
    | with_reducible apply scheduleFrames_keeps
    | fail_if_no_progress (with_reducible refine Keeps.set_esq ?_ (mask_trans (by decide) hw) _)

/-- `onIndexEdge` may change: regs, tb, esq, vectors, freeIdx. -/
theorem onIndexEdge_keeps (x0 : Tick) {w : Nat} {s0 s : State} (hw : 70403103917121 &&& w = 70403103917121) (h : Keeps w s0 s) :
    Keeps w s0 (onIndexEdge x0 s) := by
  unfold onIndexEdge
  repeat' first
    | with_reducible exact h
    | with_reducible assumption
    | (extract_lets +onlyGivenNames a; with_reducible refine Keeps.cut (w := w) (s := s0) a ?_ (fun ha => ?_); (on_goal 2 => clear_value a); (on_goal 1 => (dsimp -zeta only [a]; clear a)))
    | exact mask_trans (by decide) hw
    | with_reducible apply advance_keeps
    | with_reducible apply bump_keeps
    | with_reducible apply indexMissing_keeps
    | with_reducible apply indexReal_keeps
    | with_reducible apply Keeps.ite
    | split

/-- `onEsqIndexMissing` may change: regs, tb, esq, vectors, freeIdx. -/
theorem onEsqIndexMissing_keeps (x0 : Tick) {w : Nat} {s0 s : State} (hw : 70403103917121 &&& w = 70403103917121) (h : Keeps w s0 s) :
    Keeps w s0 (onEsqIndexMissing x0 s) := by
  unfold onEsqIndexMissing
  repeat' first
    | with_reducible exact h
    | with_reducible assumption
    | (extract_lets +onlyGivenNames a; with_reducible refine Keeps.cut (w := w) (s := s0) a ?_ (fun ha => ?_); (on_goal 2 => clear_value a); (on_goal 1 => (dsimp -zeta only [a]; clear a)))
    | exact mask_trans (by decide) hw
    | with_reducible apply advance_keeps
    | with_reducible apply indexMissing_keeps
    | with_reducible apply Keeps.ite
    | split

/-- `graftColumn` may change: esq. -/
theorem graftColumn_keeps  {w : Nat} {s0 s : State} (hw : 1024 &&& w = 1024) (h : Keeps w s0 s) :
    Keeps w s0 (graftColumn s) := by
  unfold graftColumn
  repeat' first
    | with_reducible exact h
    | (extract_lets +onlyGivenNames a; clear_value a)
    | with_reducible apply Keeps.ite
    | split
    | fail_if_no_progress (with_reducible refine Keeps.set_esq ?_ (mask_trans (by decide) hw) _)

/-- `railGraft` may change: esq. -/
theorem railGraft_keeps (x0 : ℕ) (x1 : Option ℕ) {w : Nat} {s0 s : State} (hw : 1024 &&& w = 1024) (h : Keeps w s0 s) :
    Keeps w s0 (railGraft x0 x1 s) := by
  unfold railGraft
  repeat' first
    | with_reducible exact h
    | with_reducible assumption
    | (extract_lets +onlyGivenNames a; with_reducible refine Keeps.cut (w := w) (s := s0) a ?_ (fun ha => ?_); (on_goal 2 => clear_value a); (on_goal 1 => (dsimp -zeta only [a]; clear a)))
    | (extract_lets +onlyGivenNames a; clear_value a)
    | with_reducible apply railRecord_keeps
    | fail_if_no_progress (with_reducible refine Keeps.set_esq ?_ (mask_trans (by decide) hw) _)

/-- `scheduleBack` may change: esq. -/
theorem scheduleBack_keeps (x0 : PendFrame) (x1 : ℕ) {w : Nat} {s0 s : State} (hw : 1024 &&& w = 1024) (h : Keeps w s0 s) :
    Keeps w s0 (scheduleBack x0 x1 s) := by
  unfold scheduleBack
  repeat' first
    | with_reducible exact h
    | (extract_lets +onlyGivenNames a; clear_value a)
    | with_reducible apply Keeps.ite
    | fail_if_no_progress (with_reducible refine Keeps.set_esq ?_ (mask_trans (by decide) hw) _)

end Sys2Proof.Machine
end

