-- ==== Sys2Proof/Laws/KeepFdc.lean ====
section
/-! SUPPORT. What each operation of Machine/Fdc.lean may change: one lemma per operation, by the bits of the parts
of State (Sys2Proof.Machine.Part.bit). -/

namespace Sys2Proof.Machine

/-- `fdcReset` may change: fdc. -/
theorem fdcReset_keeps  {w : Nat} {s0 s : State} (hw : 8192 &&& w = 8192) (h : Keeps w s0 s) :
    Keeps w s0 (fdcReset s) := by
  unfold fdcReset
  repeat' first
    | with_reducible exact h
    | (extract_lets +onlyGivenNames a; clear_value a)
    | fail_if_no_progress (with_reducible refine Keeps.set_fdc ?_ (mask_trans (by decide) hw) _)

/-- `setFdc` may change: fdc. -/
theorem setFdc_keeps (x0 : ℕ) (x1 : FdcCh) {w : Nat} {s0 s : State} (hw : 8192 &&& w = 8192) (h : Keeps w s0 s) :
    Keeps w s0 (setFdc x0 x1 s) := by
  unfold setFdc
  repeat' first
    | with_reducible exact h
    | (extract_lets +onlyGivenNames a; clear_value a)
    | fail_if_no_progress (with_reducible refine Keeps.set_fdc ?_ (mask_trans (by decide) hw) _)

/-- `fdcItem` may change: regs, firstItem, fdc, mcd, queues, lostMarks, portUp, portDn, merging, vectors, messages, freeIdx. -/
theorem fdcItem_keeps (x0 : ℕ) (x1 : ImgRec) {w : Nat} {s0 s : State} (hw : 71502990417925 &&& w = 71502990417925) (h : Keeps w s0 s) :
    Keeps w s0 (fdcItem x0 x1 s) := by
  unfold fdcItem
  repeat' first
    | with_reducible exact h
    | with_reducible assumption
    | (extract_lets +onlyGivenNames a; with_reducible refine Keeps.cut (w := w) (s := s0) a ?_ (fun ha => ?_); (on_goal 2 => clear_value a); (on_goal 1 => (dsimp -zeta only [a]; clear a)))
    | (extract_lets +onlyGivenNames a; clear_value a)
    | exact mask_trans (by decide) hw
    | with_reducible apply emit_keeps
    | with_reducible apply setFdc_keeps
    | with_reducible apply useFree_keeps
    | with_reducible apply Keeps.ite

/-- `onFdcSweepItem` may change: regs, firstItem, fdc, mcd, queues, lostMarks, portUp, portDn, merging, vectors, messages, freeIdx. -/
theorem onFdcSweepItem_keeps  {w : Nat} {s0 s : State} (hw : 71502990417925 &&& w = 71502990417925) (h : Keeps w s0 s) :
    Keeps w s0 (onFdcSweepItem s) := by
  unfold onFdcSweepItem
  repeat' first
    | with_reducible exact h
    | with_reducible assumption
    | (extract_lets +onlyGivenNames a; with_reducible refine Keeps.cut (w := w) (s := s0) a ?_ (fun ha => ?_); (on_goal 2 => clear_value a); (on_goal 1 => (dsimp -zeta only [a]; clear a)))
    | (extract_lets +onlyGivenNames a; clear_value a)
    | with_reducible apply fdcItem_keeps
    | (with_reducible apply Keeps.foldl; intros)
    | split
    | fail_if_no_progress (with_reducible refine Keeps.set_fdc ?_ (mask_trans (by decide) hw) _)

/-- `onFdcInput` may change: regs, fdc, vectors, freeIdx. -/
theorem onFdcInput_keeps (x0 : Fin 16) {w : Nat} {s0 s : State} (hw : 70403103924225 &&& w = 70403103924225) (h : Keeps w s0 s) :
    Keeps w s0 (onFdcInput x0 s) := by
  unfold onFdcInput
  repeat' first
    | with_reducible exact h
    | with_reducible assumption
    | (extract_lets +onlyGivenNames a; with_reducible refine Keeps.cut (w := w) (s := s0) a ?_ (fun ha => ?_); (on_goal 2 => clear_value a); (on_goal 1 => (dsimp -zeta only [a]; clear a)))
    | (extract_lets +onlyGivenNames a; clear_value a)
    | exact mask_trans (by decide) hw
    | with_reducible apply bump_keeps
    | with_reducible apply bumpSat_keeps
    | with_reducible apply raise_keeps
    | with_reducible apply setFdc_keeps
    | with_reducible apply stick_keeps
    | with_reducible apply Keeps.ite
    | split
    | fail_if_no_progress (with_reducible refine Keeps.set_fdc ?_ (mask_trans (by decide) hw) _)

/-- `fdcQueue` may change: fdc. -/
theorem fdcQueue_keeps (x0 : ℕ) (x1 : List ℤ) (x2 : Bool) {w : Nat} {s0 s : State} (hw : 8192 &&& w = 8192) (h : Keeps w s0 s) :
    Keeps w s0 (fdcQueue x0 x1 x2 s) := by
  unfold fdcQueue
  repeat' first
    | with_reducible exact h
    | with_reducible assumption
    | (extract_lets +onlyGivenNames a; clear_value a)
    | with_reducible apply setFdc_keeps

/-- `fdcFeedAux` may change: fdc. -/
theorem fdcFeedAux_keeps (x0 : ℕ) (x1 : ℕ) {w : Nat} {s0 s : State} (hw : 8192 &&& w = 8192) (h : Keeps w s0 s) :
    Keeps w s0 (fdcFeedAux x0 x1 s) := by
  unfold fdcFeedAux
  repeat' first
    | with_reducible exact h
    | with_reducible assumption
    | with_reducible apply fdcQueue_keeps
    | with_reducible apply Keeps.ite
    | (with_reducible apply Keeps.foldl; intros)
    | split

/-- `fdcFeedDas` may change: fdc. -/
theorem fdcFeedDas_keeps (x0 : ℕ) (x1 : List ℤ) {w : Nat} {s0 s : State} (hw : 8192 &&& w = 8192) (h : Keeps w s0 s) :
    Keeps w s0 (fdcFeedDas x0 x1 s) := by
  unfold fdcFeedDas
  repeat' first
    | with_reducible exact h
    | with_reducible assumption
    | with_reducible apply fdcQueue_keeps
    | with_reducible apply Keeps.ite
    | (with_reducible apply Keeps.foldl; intros)
    | split

end Sys2Proof.Machine
end

