-- ==== Sys2Proof/Laws/KeepTae.lean ====
section
/-! SUPPORT. What each operation of Machine/Tae.lean may change: one lemma per operation, by the bits of the parts
of State (Sys2Proof.Machine.Part.bit). -/

namespace Sys2Proof.Machine

/-- `capBoundary` may change: tae. -/
theorem capBoundary_keeps (x0 : Bool) (x1 : ℕ) (x2 : List Byte) {w : Nat} {s0 s : State} (hw : 16384 &&& w = 16384) (h : Keeps w s0 s) :
    Keeps w s0 (capBoundary x0 x1 x2 s) := by
  unfold capBoundary
  repeat' first
    | with_reducible exact h
    | (extract_lets +onlyGivenNames a; clear_value a)
    | with_reducible apply Keeps.ite
    | fail_if_no_progress (with_reducible refine Keeps.set_tae ?_ (mask_trans (by decide) hw) _)

/-- `capStart` may change: tae. -/
theorem capStart_keeps (x0 : Bool) {w : Nat} {s0 s : State} (hw : 16384 &&& w = 16384) (h : Keeps w s0 s) :
    Keeps w s0 (capStart x0 s) := by
  unfold capStart
  repeat' first
    | with_reducible exact h
    | with_reducible assumption
    | (extract_lets +onlyGivenNames a; clear_value a)
    | with_reducible apply setUnit_keeps
    | with_reducible apply Keeps.ite
    | (with_reducible apply Keeps.foldl; intros)
    | split

/-- `capAbort` may change: regs, firstItem, tae, mcd, queues, lostMarks, portUp, portDn, merging, vectors, mailbox, messages, freeIdx. -/
theorem capAbort_keeps (x0 : Origin) (x1 : ℕ) {w : Nat} {s0 s : State} (hw : 71640429379589 &&& w = 71640429379589) (h : Keeps w s0 s) :
    Keeps w s0 (capAbort x0 x1 s) := by
  unfold capAbort
  repeat' first
    | with_reducible exact h
    | with_reducible assumption
    | (extract_lets +onlyGivenNames a; clear_value a)
    | exact mask_trans (by decide) hw
    | with_reducible apply capLeave_keeps
    | with_reducible apply dropCoding_keeps
    | with_reducible apply finish_keeps
    | with_reducible apply raise_keeps
    | with_reducible apply readAborted_keeps
    | with_reducible apply setUnit_keeps
    | with_reducible apply Keeps.ite
    | split

/-- `capName` may change: regs, tae, vectors, mailbox, messages. -/
theorem capName_keeps (x0 : Origin) (x1 : ℕ) (x2 : ℕ) {w : Nat} {s0 s : State} (hw : 1271310336001 &&& w = 1271310336001) (h : Keeps w s0 s) :
    Keeps w s0 (capName x0 x1 x2 s) := by
  unfold capName
  repeat' first
    | with_reducible exact h
    | (extract_lets +onlyGivenNames a; clear_value a)
    | exact mask_trans (by decide) hw
    | with_reducible apply finish_keeps
    | with_reducible apply setUnit_keeps
    | with_reducible apply taeLate_keeps
    | with_reducible apply Keeps.ite

/-- `capRead` may change: regs, tae, vectors, mailbox. -/
theorem capRead_keeps (x0 : Origin) (x1 : ℕ) {w : Nat} {s0 s : State} (hw : 171798708225 &&& w = 171798708225) (h : Keeps w s0 s) :
    Keeps w s0 (capRead x0 x1 s) := by
  unfold capRead
  repeat' first
    | with_reducible exact h
    | (extract_lets +onlyGivenNames a; clear_value a)
    | exact mask_trans (by decide) hw
    | with_reducible apply finish_keeps
    | with_reducible apply setUnit_keeps
    | with_reducible apply Keeps.ite

/-- `capRearm` may change: regs, tae, mcd, queues, vectors, mailbox. -/
theorem capRearm_keeps (x0 : Origin) (x1 : ℕ) {w : Nat} {s0 s : State} (hw : 171800281089 &&& w = 171800281089) (h : Keeps w s0 s) :
    Keeps w s0 (capRearm x0 x1 s) := by
  unfold capRearm
  repeat' first
    | with_reducible exact h
    | (extract_lets +onlyGivenNames a; clear_value a)
    | exact mask_trans (by decide) hw
    | with_reducible apply dropCoding_keeps
    | with_reducible apply finish_keeps
    | with_reducible apply setUnit_keeps
    | with_reducible apply Keeps.ite

/-- `capRelease` may change: regs, tae, mcd, queues, vectors, mailbox. -/
theorem capRelease_keeps (x0 : Origin) (x1 : ℕ) {w : Nat} {s0 s : State} (hw : 171800281089 &&& w = 171800281089) (h : Keeps w s0 s) :
    Keeps w s0 (capRelease x0 x1 s) := by
  unfold capRelease
  repeat' first
    | with_reducible exact h
    | exact mask_trans (by decide) hw
    | with_reducible apply capLeave_keeps
    | with_reducible apply finish_keeps
    | with_reducible apply Keeps.ite

/-- `refSkews` may change: regs, tae, vectors. -/
theorem refSkews_keeps (x0 : List RefEval) {w : Nat} {s0 s : State} (hw : 34359754753 &&& w = 34359754753) (h : Keeps w s0 s) :
    Keeps w s0 (refSkews x0 s) := by
  unfold refSkews
  repeat' first
    | with_reducible exact h
    | with_reducible assumption
    | (extract_lets +onlyGivenNames a; with_reducible refine Keeps.cut (w := w) (s := s0) a ?_ (fun ha => ?_); (on_goal 2 => clear_value a); (on_goal 1 => (dsimp -zeta only [a]; clear a)))
    | (extract_lets +onlyGivenNames a; clear_value a)
    | exact mask_trans (by decide) hw
    | with_reducible apply raise_keeps
    | with_reducible apply Keeps.ite
    | fail_if_no_progress (with_reducible refine Keeps.set_tae ?_ (mask_trans (by decide) hw) _)

/-- `onRefEvaluation` may change: regs, firstItem, tb, tae, mcd, queues, lostMarks, portUp, portDn, merging, vectors, messages, freeIdx. -/
theorem onRefEvaluation_keeps (x0 : Tick) {w : Nat} {s0 s : State} (hw : 71502990426181 &&& w = 71502990426181) (h : Keeps w s0 s) :
    Keeps w s0 (onRefEvaluation x0 s) := by
  unfold onRefEvaluation
  repeat' first
    | with_reducible exact h
    | with_reducible assumption
    | (extract_lets +onlyGivenNames a; with_reducible refine Keeps.cut (w := w) (s := s0) a ?_ (fun ha => ?_); (on_goal 2 => clear_value a); (on_goal 1 => (dsimp -zeta only [a]; clear a)))
    | (extract_lets +onlyGivenNames a; clear_value a)
    | exact mask_trans (by decide) hw
    | with_reducible apply advance_keeps
    | with_reducible apply bump_keeps
    | with_reducible apply emit_keeps
    | with_reducible apply fault_keeps
    | with_reducible apply raise_keeps
    | with_reducible apply refSkews_keeps
    | with_reducible apply stick_keeps
    | with_reducible apply taeName_keeps
    | with_reducible apply Keeps.ite
    | (with_reducible apply Keeps.foldl; intros)
    | split
    | fail_if_no_progress (with_reducible refine Keeps.set_tae_freeIdx ?_ (mask_trans (by decide) hw) _ _)

/-- `capMarker` may change: regs, firstItem, tae, mcd, queues, lostMarks, portUp, portDn, merging, vectors, messages, freeIdx. -/
theorem capMarker_keeps (x0 : ℕ) (x1 : ImgRec) {w : Nat} {s0 s : State} (hw : 71502990426117 &&& w = 71502990426117) (h : Keeps w s0 s) :
    Keeps w s0 (capMarker x0 x1 s) := by
  unfold capMarker
  repeat' first
    | with_reducible exact h
    | with_reducible assumption
    | (extract_lets +onlyGivenNames a; with_reducible refine Keeps.cut (w := w) (s := s0) a ?_ (fun ha => ?_); (on_goal 2 => clear_value a); (on_goal 1 => (dsimp -zeta only [a]; clear a)))
    | (extract_lets +onlyGivenNames a; clear_value a)
    | exact mask_trans (by decide) hw
    | with_reducible apply emit_keeps
    | with_reducible apply emitCtl_keeps
    | with_reducible apply raise_keeps
    | with_reducible apply setUnit_keeps
    | with_reducible apply stick_keeps
    | with_reducible apply Keeps.ite

/-- `capDeliver` may change: regs, firstItem, mcd, queues, lostMarks, portUp, portDn, merging, vectors, messages, freeIdx. -/
theorem capDeliver_keeps (x0 : ImgRec) (x1 : List CapBlock) {w : Nat} {s0 s : State} (hw : 71502990409733 &&& w = 71502990409733) (h : Keeps w s0 s) :
    Keeps w s0 (capDeliver x0 x1 s) := by
  unfold capDeliver
  repeat' first
    | with_reducible exact h
    | with_reducible assumption
    | with_reducible apply emitX_keeps
    | (with_reducible apply Keeps.foldl; intros)

/-- `onCaptureReadDone` may change: regs, firstItem, tb, tae, mcd, queues, lostMarks, portUp, portDn, merging, vectors, mailbox, messages, freeIdx. -/
theorem onCaptureReadDone_keeps (x0 : Fin 4) (x1 : Tick) {w : Nat} {s0 s : State} (hw : 71640429379653 &&& w = 71640429379653) (h : Keeps w s0 s) :
    Keeps w s0 (onCaptureReadDone x0 x1 s) := by
  unfold onCaptureReadDone
  repeat' first
    | with_reducible exact h
    | with_reducible assumption
    | (extract_lets +onlyGivenNames a; with_reducible refine Keeps.cut (w := w) (s := s0) a ?_ (fun ha => ?_); (on_goal 2 => clear_value a); (on_goal 1 => (dsimp -zeta only [a]; clear a)))
    | (extract_lets +onlyGivenNames a; clear_value a)
    | exact mask_trans (by decide) hw
    | with_reducible apply advance_keeps
    | with_reducible apply capClosing_keeps
    | with_reducible apply capDeliver_keeps
    | with_reducible apply finish_keeps
    | with_reducible apply setUnit_keeps
    | with_reducible apply Keeps.ite
    | split

/-- `capFire` may change: regs, firstItem, tae, mcd, queues, lostMarks, portUp, portDn, merging, vectors, messages, freeIdx. -/
theorem capFire_keeps (x0 : ℕ) (x1 : ImgRec) (x2 : ℕ) (x3 : ℕ) {w : Nat} {s0 s : State} (hw : 71502990426117 &&& w = 71502990426117) (h : Keeps w s0 s) :
    Keeps w s0 (capFire x0 x1 x2 x3 s) := by
  unfold capFire
  repeat' first
    | with_reducible exact h
    | with_reducible assumption
    | (extract_lets +onlyGivenNames a; with_reducible refine Keeps.cut (w := w) (s := s0) a ?_ (fun ha => ?_); (on_goal 2 => clear_value a); (on_goal 1 => (dsimp -zeta only [a]; clear a)))
    | (extract_lets +onlyGivenNames a; clear_value a)
    | exact mask_trans (by decide) hw
    | with_reducible apply capCheck_keeps
    | with_reducible apply capMarker_keeps
    | with_reducible apply countPre_keeps
    | with_reducible apply raise_keeps
    | with_reducible apply setUnit_keeps
    | with_reducible apply Keeps.ite

/-- `onCaptureItemArrive` may change: regs, tae, vectors, messages. -/
theorem onCaptureItemArrive_keeps (x0 : Fin 4) (x1 : Fin 8) (x2 : Item) {w : Nat} {s0 s : State} (hw : 1133871382529 &&& w = 1133871382529) (h : Keeps w s0 s) :
    Keeps w s0 (onCaptureItemArrive x0 x1 x2 s) := by
  unfold onCaptureItemArrive
  repeat' first
    | with_reducible exact h
    | (extract_lets +onlyGivenNames a; clear_value a)
    | exact mask_trans (by decide) hw
    | with_reducible apply setUnit_keeps
    | with_reducible apply taeLate_keeps
    | with_reducible apply Keeps.ite
    | split

/-- `capTriggers` may change: regs, firstItem, tae, mcd, queues, lostMarks, portUp, portDn, merging, vectors, messages, freeIdx. -/
theorem capTriggers_keeps (x0 : ℕ) (x1 : ImgRec) (x2 : ℕ) {w : Nat} {s0 s : State} (hw : 71502990426117 &&& w = 71502990426117) (h : Keeps w s0 s) :
    Keeps w s0 (capTriggers x0 x1 x2 s) := by
  unfold capTriggers
  repeat' first
    | with_reducible exact h
    | with_reducible assumption
    | (extract_lets +onlyGivenNames a; with_reducible refine Keeps.cut (w := w) (s := s0) a ?_ (fun ha => ?_); (on_goal 2 => clear_value a); (on_goal 1 => (dsimp -zeta only [a]; clear a)))
    | (extract_lets +onlyGivenNames a; clear_value a)
    | exact mask_trans (by decide) hw
    | with_reducible apply bump_keeps
    | with_reducible apply capFire_keeps
    | with_reducible apply setUnit_keeps
    | with_reducible apply Keeps.ite

/-- `onCaptureFrameClose` may change: regs, firstItem, tb, tae, mcd, queues, lostMarks, portUp, portDn, merging, vectors, messages, freeIdx. -/
theorem onCaptureFrameClose_keeps (x0 : Fin 4) (x1 : Tick) {w : Nat} {s0 s : State} (hw : 71502990426181 &&& w = 71502990426181) (h : Keeps w s0 s) :
    Keeps w s0 (onCaptureFrameClose x0 x1 s) := by
  unfold onCaptureFrameClose
  repeat' first
    | with_reducible exact h
    | with_reducible assumption
    | (extract_lets +onlyGivenNames a; with_reducible refine Keeps.cut (w := w) (s := s0) a ?_ (fun ha => ?_); (on_goal 2 => clear_value a); (on_goal 1 => (dsimp -zeta only [a]; clear a)))
    | (extract_lets +onlyGivenNames a; clear_value a)
    | exact mask_trans (by decide) hw
    | with_reducible apply advance_keeps
    | with_reducible apply capCheck_keeps
    | with_reducible apply capTriggers_keeps
    | with_reducible apply drainRaw_keeps
    | with_reducible apply setUnit_keeps
    | with_reducible apply Keeps.ite
    | split

/-- `taeZones` may change: regs, tae, vectors, messages. -/
theorem taeZones_keeps (x0 : ℕ) (x1 : List ℕ) {w : Nat} {s0 s : State} (hw : 1133871382529 &&& w = 1133871382529) (h : Keeps w s0 s) :
    Keeps w s0 (taeZones x0 x1 s) := by
  unfold taeZones
  repeat' first
    | with_reducible exact h
    | with_reducible assumption
    | (extract_lets +onlyGivenNames a; with_reducible refine Keeps.cut (w := w) (s := s0) a ?_ (fun ha => ?_); (on_goal 2 => clear_value a); (on_goal 1 => (dsimp -zeta only [a]; clear a)))
    | (extract_lets +onlyGivenNames a; clear_value a)
    | exact mask_trans (by decide) hw
    | with_reducible apply raise_keeps
    | with_reducible apply stick_keeps
    | with_reducible apply taeName_keeps
    | with_reducible apply Keeps.ite
    | fail_if_no_progress (with_reducible refine Keeps.set_tae ?_ (mask_trans (by decide) hw) _)

end Sys2Proof.Machine
end

