-- ==== Sys2Proof/Laws/KeepFib.lean ====
section
/-! SUPPORT. What each operation of Machine/Fib.lean may change: one lemma per operation, by the bits of the parts
of State (Sys2Proof.Machine.Part.bit). -/

namespace Sys2Proof.Machine

/-- `blockJoin` may change: fib, freeIdx. -/
theorem blockJoin_keeps  {w : Nat} {s0 s : State} (hw : 70368744181760 &&& w = 70368744181760) (h : Keeps w s0 s) :
    Keeps w s0 (blockJoin s) := by
  unfold blockJoin
  repeat' first
    | with_reducible exact h
    | (extract_lets +onlyGivenNames a; clear_value a)
    | exact mask_trans (by decide) hw
    | with_reducible apply useFree_keeps
    | split
    | fail_if_no_progress (with_reducible refine Keeps.set_fib ?_ (mask_trans (by decide) hw) _)

/-- `onDtsBlockDone` may change: fib, freeIdx. -/
theorem onDtsBlockDone_keeps  {w : Nat} {s0 s : State} (hw : 70368744181760 &&& w = 70368744181760) (h : Keeps w s0 s) :
    Keeps w s0 (onDtsBlockDone s) := by
  unfold onDtsBlockDone
  repeat' first
    | with_reducible exact h
    | with_reducible assumption
    | with_reducible apply blockJoin_keeps
    | with_reducible apply Keeps.ite

/-- `onFibDtsProfile` may change: regs, firstItem, fib, mcd, queues, lostMarks, portUp, portDn, merging, vectors, messages, freeIdx. -/
theorem onFibDtsProfile_keeps  {w : Nat} {s0 s : State} (hw : 71502990413829 &&& w = 71502990413829) (h : Keeps w s0 s) :
    Keeps w s0 (onFibDtsProfile s) := by
  unfold onFibDtsProfile
  repeat' first
    | with_reducible exact h
    | with_reducible assumption
    | (extract_lets +onlyGivenNames a; with_reducible refine Keeps.cut (w := w) (s := s0) a ?_ (fun ha => ?_); (on_goal 2 => clear_value a); (on_goal 1 => (dsimp -zeta only [a]; clear a)))
    | (extract_lets +onlyGivenNames a; clear_value a)
    | exact mask_trans (by decide) hw
    | with_reducible apply emit_keeps
    | with_reducible apply fault_keeps
    | with_reducible apply raise_keeps
    | with_reducible apply stick_keeps
    | with_reducible apply Keeps.ite
    | split
    | fail_if_no_progress (with_reducible refine Keeps.set_fib ?_ (mask_trans (by decide) hw) _)

/-- `dtsEarly` may change: regs, firstItem, fib, mcd, queues, lostMarks, portUp, portDn, merging, vectors, messages, freeIdx. -/
theorem dtsEarly_keeps  {w : Nat} {s0 s : State} (hw : 71502990413829 &&& w = 71502990413829) (h : Keeps w s0 s) :
    Keeps w s0 (dtsEarly s) := by
  unfold dtsEarly
  repeat' first
    | with_reducible exact h
    | with_reducible assumption
    | (extract_lets +onlyGivenNames a; with_reducible refine Keeps.cut (w := w) (s := s0) a ?_ (fun ha => ?_); (on_goal 2 => clear_value a); (on_goal 1 => (dsimp -zeta only [a]; clear a)))
    | (extract_lets +onlyGivenNames a; clear_value a)
    | exact mask_trans (by decide) hw
    | with_reducible apply blockJoin_keeps
    | with_reducible apply onFibDtsProfile_keeps
    | with_reducible apply Keeps.ite
    | (with_reducible apply Keeps.foldl; intros)
    | split
    | fail_if_no_progress (with_reducible refine Keeps.set_fib ?_ (mask_trans (by decide) hw) _)

/-- `onAdcTrigEdge` may change: regs, tb, tsu, fib, freeIdx. -/
theorem onAdcTrigEdge_keeps (x0 : Fin 97) (x1 : Option (Fin 97)) (x2 : Tick) {w : Nat} {s0 s : State} (hw : 70368744182081 &&& w = 70368744182081) (h : Keeps w s0 s) :
    Keeps w s0 (onAdcTrigEdge x0 x1 x2 s) := by
  unfold onAdcTrigEdge
  repeat' first
    | with_reducible exact h
    | with_reducible assumption
    | (extract_lets +onlyGivenNames a; with_reducible refine Keeps.cut (w := w) (s := s0) a ?_ (fun ha => ?_); (on_goal 2 => clear_value a); (on_goal 1 => (dsimp -zeta only [a]; clear a)))
    | (extract_lets +onlyGivenNames a; clear_value a)
    | exact mask_trans (by decide) hw
    | with_reducible apply advance_keeps
    | with_reducible apply bump_keeps
    | with_reducible apply svcMark_keeps
    | with_reducible apply Keeps.ite
    | split
    | fail_if_no_progress (with_reducible refine Keeps.set_fib ?_ (mask_trans (by decide) hw) _)
    | fail_if_no_progress (with_reducible refine Keeps.set_tsu ?_ (mask_trans (by decide) hw) _)

/-- `dtsRound` may change: fib. -/
theorem dtsRound_keeps  {w : Nat} {s0 s : State} (hw : 4096 &&& w = 4096) (h : Keeps w s0 s) :
    Keeps w s0 (dtsRound s) := by
  unfold dtsRound
  repeat' first
    | with_reducible exact h
    | (extract_lets +onlyGivenNames a; clear_value a)
    | with_reducible apply Keeps.ite
    | split
    | fail_if_no_progress (with_reducible refine Keeps.set_fib ?_ (mask_trans (by decide) hw) _)

/-- `ramanClose` may change: fib. -/
theorem ramanClose_keeps  {w : Nat} {s0 s : State} (hw : 4096 &&& w = 4096) (h : Keeps w s0 s) :
    Keeps w s0 (ramanClose s) := by
  unfold ramanClose
  repeat' first
    | with_reducible exact h
    | (extract_lets +onlyGivenNames a; clear_value a)
    | with_reducible apply Keeps.ite
    | fail_if_no_progress (with_reducible refine Keeps.set_fib ?_ (mask_trans (by decide) hw) _)

/-- `ramanOpen` may change: fib. -/
theorem ramanOpen_keeps (x0 : Tick) {w : Nat} {s0 s : State} (hw : 4096 &&& w = 4096) (h : Keeps w s0 s) :
    Keeps w s0 (ramanOpen x0 s) := by
  unfold ramanOpen
  repeat' first
    | with_reducible exact h
    | with_reducible assumption
    | (extract_lets +onlyGivenNames a; with_reducible refine Keeps.cut (w := w) (s := s0) a ?_ (fun ha => ?_); (on_goal 2 => clear_value a); (on_goal 1 => (dsimp -zeta only [a]; clear a)))
    | (extract_lets +onlyGivenNames a; clear_value a)
    | with_reducible apply ramanClose_keeps
    | with_reducible apply Keeps.ite
    | fail_if_no_progress (with_reducible refine Keeps.set_fib ?_ (mask_trans (by decide) hw) _)

/-- `qualityItem` may change: regs, firstItem, fib, mcd, queues, lostMarks, portUp, portDn, merging, vectors, messages, freeIdx. -/
theorem qualityItem_keeps (x0 : ℕ) {w : Nat} {s0 s : State} (hw : 71502990413829 &&& w = 71502990413829) (h : Keeps w s0 s) :
    Keeps w s0 (qualityItem x0 s) := by
  unfold qualityItem
  repeat' first
    | with_reducible exact h
    | with_reducible assumption
    | (extract_lets +onlyGivenNames a; with_reducible refine Keeps.cut (w := w) (s := s0) a ?_ (fun ha => ?_); (on_goal 2 => clear_value a); (on_goal 1 => (dsimp -zeta only [a]; clear a)))
    | (extract_lets +onlyGivenNames a; clear_value a)
    | exact mask_trans (by decide) hw
    | with_reducible apply emitX_keeps
    | with_reducible apply Keeps.ite
    | split
    | fail_if_no_progress (with_reducible refine Keeps.set_fib ?_ (mask_trans (by decide) hw) _)

/-- `setInfo` may change: fib. -/
theorem setInfo_keeps (x0 : ℕ) (x1 : SweepInfo) {w : Nat} {s0 s : State} (hw : 4096 &&& w = 4096) (h : Keeps w s0 s) :
    Keeps w s0 (setInfo x0 x1 s) := by
  unfold setInfo
  repeat' first
    | with_reducible exact h
    | (extract_lets +onlyGivenNames a; clear_value a)
    | fail_if_no_progress (with_reducible refine Keeps.set_fib ?_ (mask_trans (by decide) hw) _)

/-- `gateTaken` may change: fib. -/
theorem gateTaken_keeps (x0 : ℕ) {w : Nat} {s0 s : State} (hw : 4096 &&& w = 4096) (h : Keeps w s0 s) :
    Keeps w s0 (gateTaken x0 s) := by
  unfold gateTaken
  repeat' first
    | with_reducible exact h
    | (extract_lets +onlyGivenNames a; clear_value a)
    | with_reducible apply Keeps.ite
    | fail_if_no_progress (with_reducible refine Keeps.set_fib ?_ (mask_trans (by decide) hw) _)

/-- `onAomgGateOpen` may change: tb, fib. -/
theorem onAomgGateOpen_keeps (x0 : Fin 8) (x1 : Tick) {w : Nat} {s0 s : State} (hw : 4160 &&& w = 4160) (h : Keeps w s0 s) :
    Keeps w s0 (onAomgGateOpen x0 x1 s) := by
  unfold onAomgGateOpen
  repeat' first
    | with_reducible exact h
    | with_reducible assumption
    | (extract_lets +onlyGivenNames a; with_reducible refine Keeps.cut (w := w) (s := s0) a ?_ (fun ha => ?_); (on_goal 2 => clear_value a); (on_goal 1 => (dsimp -zeta only [a]; clear a)))
    | (extract_lets +onlyGivenNames a; clear_value a)
    | exact mask_trans (by decide) hw
    | with_reducible apply advance_keeps
    | with_reducible apply gateTaken_keeps
    | with_reducible apply ramanOpen_keeps
    | with_reducible apply Keeps.ite
    | split
    | fail_if_no_progress (with_reducible refine Keeps.set_fib ?_ (mask_trans (by decide) hw) _)

/-- `setPair` may change: fib. -/
theorem setPair_keeps (x0 : ℕ) (x1 : PairCal) {w : Nat} {s0 s : State} (hw : 4096 &&& w = 4096) (h : Keeps w s0 s) :
    Keeps w s0 (setPair x0 x1 s) := by
  unfold setPair
  repeat' first
    | with_reducible exact h
    | (extract_lets +onlyGivenNames a; clear_value a)
    | fail_if_no_progress (with_reducible refine Keeps.set_fib ?_ (mask_trans (by decide) hw) _)

/-- `pairAbandon` may change: fib. -/
theorem pairAbandon_keeps (x0 : ℕ) {w : Nat} {s0 s : State} (hw : 4096 &&& w = 4096) (h : Keeps w s0 s) :
    Keeps w s0 (pairAbandon x0 s) := by
  unfold pairAbandon
  repeat' first
    | with_reducible exact h
    | with_reducible assumption
    | (extract_lets +onlyGivenNames a; clear_value a)
    | with_reducible apply setPair_keeps

/-- `applyPairs` may change: regs, fib, mcd, queues, portUp, portDn, merging, vectors, messages, freeIdx. -/
theorem applyPairs_keeps  {w : Nat} {s0 s : State} (hw : 71502986219521 &&& w = 71502986219521) (h : Keeps w s0 s) :
    Keeps w s0 (applyPairs s) := by
  unfold applyPairs
  repeat' first
    | with_reducible exact h
    | with_reducible assumption
    | (extract_lets +onlyGivenNames a; clear_value a)
    | exact mask_trans (by decide) hw
    | with_reducible apply emitCtl_keeps
    | with_reducible apply setPair_keeps
    | (with_reducible apply Keeps.foldl; intros)
    | split

/-- `setAin` may change: fib. -/
theorem setAin_keeps (x0 : ℕ) (x1 : AinSt) {w : Nat} {s0 s : State} (hw : 4096 &&& w = 4096) (h : Keeps w s0 s) :
    Keeps w s0 (setAin x0 x1 s) := by
  unfold setAin
  repeat' first
    | with_reducible exact h
    | (extract_lets +onlyGivenNames a; clear_value a)
    | fail_if_no_progress (with_reducible refine Keeps.set_fib ?_ (mask_trans (by decide) hw) _)

/-- `clipSample` may change: regs, fib, vectors. -/
theorem clipSample_keeps (x0 : ℕ) {w : Nat} {s0 s : State} (hw : 34359742465 &&& w = 34359742465) (h : Keeps w s0 s) :
    Keeps w s0 (clipSample x0 s) := by
  unfold clipSample
  repeat' first
    | with_reducible exact h
    | with_reducible assumption
    | (extract_lets +onlyGivenNames a; with_reducible refine Keeps.cut (w := w) (s := s0) a ?_ (fun ha => ?_); (on_goal 2 => clear_value a); (on_goal 1 => (dsimp -zeta only [a]; clear a)))
    | (extract_lets +onlyGivenNames a; clear_value a)
    | exact mask_trans (by decide) hw
    | with_reducible apply bumpSat_keeps
    | with_reducible apply raise_keeps
    | with_reducible apply setAin_keeps
    | with_reducible apply stick_keeps
    | with_reducible apply Keeps.ite
    | fail_if_no_progress (with_reducible refine Keeps.set_fib ?_ (mask_trans (by decide) hw) _)

/-- `ramanSample` may change: fib. -/
theorem ramanSample_keeps (x0 : ℕ) (x1 : ℤ) (x2 : Bool) (x3 : Tick) {w : Nat} {s0 s : State} (hw : 4096 &&& w = 4096) (h : Keeps w s0 s) :
    Keeps w s0 (ramanSample x0 x1 x2 x3 s) := by
  unfold ramanSample
  repeat' first
    | with_reducible exact h
    | with_reducible assumption
    | (extract_lets +onlyGivenNames a; with_reducible refine Keeps.cut (w := w) (s := s0) a ?_ (fun ha => ?_); (on_goal 2 => clear_value a); (on_goal 1 => (dsimp -zeta only [a]; clear a)))
    | (extract_lets +onlyGivenNames a; clear_value a)
    | with_reducible apply ramanClose_keeps
    | with_reducible apply Keeps.ite
    | split
    | fail_if_no_progress (with_reducible refine Keeps.set_fib ?_ (mask_trans (by decide) hw) _)

/-- `pushSample` may change: regs, fib, queues, vectors, messages. -/
theorem pushSample_keeps (x0 : ℕ) (x1 : Word64) {w : Nat} {s0 s : State} (hw : 1133872418817 &&& w = 1133872418817) (h : Keeps w s0 s) :
    Keeps w s0 (pushSample x0 x1 s) := by
  unfold pushSample
  repeat' first
    | with_reducible exact h
    | with_reducible assumption
    | (extract_lets +onlyGivenNames a; with_reducible refine Keeps.cut (w := w) (s := s0) a ?_ (fun ha => ?_); (on_goal 2 => clear_value a); (on_goal 1 => (dsimp -zeta only [a]; clear a)))
    | (extract_lets +onlyGivenNames a; clear_value a)
    | exact mask_trans (by decide) hw
    | with_reducible apply bumpSat_keeps
    | with_reducible apply pushRT_keeps
    | with_reducible apply stick_keeps
    | with_reducible apply Keeps.ite
    | split
    | fail_if_no_progress (with_reducible refine Keeps.set_fib ?_ (mask_trans (by decide) hw) _)

/-- `estSample` may change: fib. -/
theorem estSample_keeps (x0 : ℕ) (x1 : ℕ) (x2 : Bool) (x3 : ℤ) {w : Nat} {s0 s : State} (hw : 4096 &&& w = 4096) (h : Keeps w s0 s) :
    Keeps w s0 (estSample x0 x1 x2 x3 s) := by
  unfold estSample
  repeat' first
    | with_reducible exact h
    | with_reducible assumption
    | (extract_lets +onlyGivenNames a; clear_value a)
    | with_reducible apply setPair_keeps
    | with_reducible apply Keeps.ite
    | split

/-- `takeSample` may change: regs, fib, queues, vectors, messages, freeIdx. -/
theorem takeSample_keeps (x0 : ℕ) (x1 : ℕ) (x2 : ℤ) (x3 : Tick) {w : Nat} {s0 s : State} (hw : 71502616596481 &&& w = 71502616596481) (h : Keeps w s0 s) :
    Keeps w s0 (takeSample x0 x1 x2 x3 s) := by
  unfold takeSample
  repeat' first
    | with_reducible exact h
    | with_reducible assumption
    | (extract_lets +onlyGivenNames a; with_reducible refine Keeps.cut (w := w) (s := s0) a ?_ (fun ha => ?_); (on_goal 2 => clear_value a); (on_goal 1 => (dsimp -zeta only [a]; clear a)))
    | (extract_lets +onlyGivenNames a; clear_value a)
    | exact mask_trans (by decide) hw
    | with_reducible apply clipSample_keeps
    | with_reducible apply estSample_keeps
    | with_reducible apply pushSample_keeps
    | with_reducible apply quantUsed_keeps
    | with_reducible apply ramanSample_keeps
    | with_reducible apply setAin_keeps
    | with_reducible apply Keeps.ite
    | fail_if_no_progress (with_reducible refine Keeps.set_fib ?_ (mask_trans (by decide) hw) _)

/-- `offsetSample` may change: fib. -/
theorem offsetSample_keeps (x0 : ℤ) {w : Nat} {s0 s : State} (hw : 4096 &&& w = 4096) (h : Keeps w s0 s) :
    Keeps w s0 (offsetSample x0 s) := by
  unfold offsetSample
  repeat' first
    | with_reducible exact h
    | (extract_lets +onlyGivenNames a; clear_value a)
    | with_reducible apply Keeps.ite
    | fail_if_no_progress (with_reducible refine Keeps.set_fib ?_ (mask_trans (by decide) hw) _)

/-- `graftSample` may change: fib. -/
theorem graftSample_keeps (x0 : ℕ) (x1 : ℕ) (x2 : ℤ) {w : Nat} {s0 s : State} (hw : 4096 &&& w = 4096) (h : Keeps w s0 s) :
    Keeps w s0 (graftSample x0 x1 x2 s) := by
  unfold graftSample
  repeat' first
    | with_reducible exact h
    | with_reducible assumption
    | (extract_lets +onlyGivenNames a; clear_value a)
    | with_reducible apply estSample_keeps
    | with_reducible apply offsetSample_keeps
    | with_reducible apply Keeps.ite

/-- `sendSamples` may change: regs, fib, queues, portUp, portDn, vectors, messages, freeIdx. -/
theorem sendSamples_keeps (x0 : ℕ) {w : Nat} {s0 s : State} (hw : 71502717259777 &&& w = 71502717259777) (h : Keeps w s0 s) :
    Keeps w s0 (sendSamples x0 s) := by
  unfold sendSamples
  repeat' first
    | with_reducible exact h
    | with_reducible assumption
    | (extract_lets +onlyGivenNames a; with_reducible refine Keeps.cut (w := w) (s := s0) a ?_ (fun ha => ?_); (on_goal 2 => clear_value a); (on_goal 1 => (dsimp -zeta only [a]; clear a)))
    | (extract_lets +onlyGivenNames a; clear_value a)
    | exact mask_trans (by decide) hw
    | with_reducible apply sendMsg_keeps
    | (with_reducible apply Keeps.foldl; intros)
    | split
    | fail_if_no_progress (with_reducible refine Keeps.set_fib ?_ (mask_trans (by decide) hw) _)

/-- `ownSample` may change: regs, fib, queues, portUp, portDn, vectors, messages, freeIdx. -/
theorem ownSample_keeps (x0 : ℕ) (x1 : BitVec 12) (x2 : Tick) {w : Nat} {s0 s : State} (hw : 71502717259777 &&& w = 71502717259777) (h : Keeps w s0 s) :
    Keeps w s0 (ownSample x0 x1 x2 s) := by
  unfold ownSample
  repeat' first
    | with_reducible exact h
    | with_reducible assumption
    | (extract_lets +onlyGivenNames a; with_reducible refine Keeps.cut (w := w) (s := s0) a ?_ (fun ha => ?_); (on_goal 2 => clear_value a); (on_goal 1 => (dsimp -zeta only [a]; clear a)))
    | (extract_lets +onlyGivenNames a; clear_value a)
    | with_reducible apply sendSamples_keeps
    | with_reducible apply Keeps.ite
    | fail_if_no_progress (with_reducible refine Keeps.set_fib ?_ (mask_trans (by decide) hw) _)

/-- `onAdcSampleWord` may change: regs, tb, fib, queues, portUp, portDn, vectors, messages, freeIdx. -/
theorem onAdcSampleWord_keeps (x0 : Fin 8) (x1 : BitVec 12) (x2 : Tick) {w : Nat} {s0 s : State} (hw : 71502717259841 &&& w = 71502717259841) (h : Keeps w s0 s) :
    Keeps w s0 (onAdcSampleWord x0 x1 x2 s) := by
  unfold onAdcSampleWord
  repeat' first
    | with_reducible exact h
    | with_reducible assumption
    | (extract_lets +onlyGivenNames a; with_reducible refine Keeps.cut (w := w) (s := s0) a ?_ (fun ha => ?_); (on_goal 2 => clear_value a); (on_goal 1 => (dsimp -zeta only [a]; clear a)))
    | exact mask_trans (by decide) hw
    | with_reducible apply advance_keeps
    | with_reducible apply graftSample_keeps
    | with_reducible apply ownSample_keeps
    | with_reducible apply takeSample_keeps
    | with_reducible apply Keeps.ite
    | split

/-- `setPosTab` may change: fib. -/
theorem setPosTab_keeps (x0 : ℕ) (x1 : Tab PosSt) {w : Nat} {s0 s : State} (hw : 4096 &&& w = 4096) (h : Keeps w s0 s) :
    Keeps w s0 (setPosTab x0 x1 s) := by
  unfold setPosTab
  repeat' first
    | with_reducible exact h
    | (extract_lets +onlyGivenNames a; clear_value a)
    | with_reducible apply Keeps.ite
    | fail_if_no_progress (with_reducible refine Keeps.set_fib ?_ (mask_trans (by decide) hw) _)

/-- `slotItem` may change: regs, firstItem, fdc, mcd, queues, lostMarks, portUp, portDn, merging, vectors, messages, freeIdx. -/
theorem slotItem_keeps (x0 : SweepInfo) (x1 : ℕ) (x2 : List (ℕ × ℤ × Bool)) (x3 : ℕ) (x4 : Bool) (x5 : Bool) {w : Nat} {s0 s : State} (hw : 71502990417925 &&& w = 71502990417925) (h : Keeps w s0 s) :
    Keeps w s0 (slotItem x0 x1 x2 x3 x4 x5 s) := by
  unfold slotItem
  repeat' first
    | with_reducible exact h
    | with_reducible assumption
    | (extract_lets +onlyGivenNames a; with_reducible refine Keeps.cut (w := w) (s := s0) a ?_ (fun ha => ?_); (on_goal 2 => clear_value a); (on_goal 1 => (dsimp -zeta only [a]; clear a)))
    | (extract_lets +onlyGivenNames a; clear_value a)
    | exact mask_trans (by decide) hw
    | with_reducible apply emitX_keeps
    | with_reducible apply fdcFeedDas_keeps
    | with_reducible apply loseBefore_keeps
    | with_reducible apply Keeps.ite

/-- `onSamples` may change: regs, fib, queues, portUp, portDn, vectors, messages, freeIdx. -/
theorem onSamples_keeps (x0 : Fin 8) (x1 : BitVec 2) (x2 : Tick) (x3 : List (BitVec 12)) {w : Nat} {s0 s : State} (hw : 71502717259777 &&& w = 71502717259777) (h : Keeps w s0 s) :
    Keeps w s0 (onSamples x0 x1 x2 x3 s) := by
  unfold onSamples
  repeat' first
    | with_reducible exact h
    | with_reducible assumption
    | (extract_lets +onlyGivenNames a; with_reducible refine Keeps.cut (w := w) (s := s0) a ?_ (fun ha => ?_); (on_goal 2 => clear_value a); (on_goal 1 => (dsimp -zeta only [a]; clear a)))
    | (extract_lets +onlyGivenNames a; clear_value a)
    | exact mask_trans (by decide) hw
    | with_reducible apply sendMsg_keeps
    | with_reducible apply takeSample_keeps
    | with_reducible apply Keeps.ite
    | (with_reducible apply Keeps.foldl; intros)
    | split
    | fail_if_no_progress (with_reducible refine Keeps.set_fib ?_ (mask_trans (by decide) hw) _)

/-- `zoneSlot` may change: fib. -/
theorem zoneSlot_keeps (x0 : SweepInfo) (x1 : List (ℕ × ℤ × Bool)) {w : Nat} {s0 s : State} (hw : 4096 &&& w = 4096) (h : Keeps w s0 s) :
    Keeps w s0 (zoneSlot x0 x1 s) := by
  unfold zoneSlot
  repeat' first
    | with_reducible exact h
    | (extract_lets +onlyGivenNames a; clear_value a)
    | with_reducible apply Keeps.ite
    | fail_if_no_progress (with_reducible refine Keeps.set_fib ?_ (mask_trans (by decide) hw) _)

/-- `pairFailed` may change: regs, fib, vectors, messages, freeIdx. -/
theorem pairFailed_keeps (x0 : ℕ) {w : Nat} {s0 s : State} (hw : 71502615547905 &&& w = 71502615547905) (h : Keeps w s0 s) :
    Keeps w s0 (pairFailed x0 s) := by
  unfold pairFailed
  repeat' first
    | with_reducible exact h
    | with_reducible assumption
    | (extract_lets +onlyGivenNames a; with_reducible refine Keeps.cut (w := w) (s := s0) a ?_ (fun ha => ?_); (on_goal 2 => clear_value a); (on_goal 1 => (dsimp -zeta only [a]; clear a)))
    | (extract_lets +onlyGivenNames a; clear_value a)
    | exact mask_trans (by decide) hw
    | with_reducible apply bump_keeps
    | with_reducible apply fault_keeps
    | with_reducible apply setPair_keeps
    | with_reducible apply Keeps.ite

/-- `pairAttempt` may change: regs, fib, vectors, messages, freeIdx. -/
theorem pairAttempt_keeps (x0 : ℕ) (x1 : ℕ) {w : Nat} {s0 s : State} (hw : 71502615547905 &&& w = 71502615547905) (h : Keeps w s0 s) :
    Keeps w s0 (pairAttempt x0 x1 s) := by
  unfold pairAttempt
  repeat' first
    | with_reducible exact h
    | with_reducible assumption
    | (extract_lets +onlyGivenNames a; clear_value a)
    | exact mask_trans (by decide) hw
    | with_reducible apply pairFailed_keeps
    | with_reducible apply setPair_keeps
    | with_reducible apply Keeps.ite

/-- `onFibSurveyDone` may change: regs, firstItem, fib, mcd, queues, lostMarks, portUp, portDn, merging, vectors, messages, freeIdx. -/
theorem onFibSurveyDone_keeps  {w : Nat} {s0 s : State} (hw : 71502990413829 &&& w = 71502990413829) (h : Keeps w s0 s) :
    Keeps w s0 (onFibSurveyDone s) := by
  unfold onFibSurveyDone
  repeat' first
    | with_reducible exact h
    | (extract_lets +onlyGivenNames a; clear_value a)
    | exact mask_trans (by decide) hw
    | with_reducible apply emitX_keeps
    | with_reducible apply raise_keeps
    | with_reducible apply useFree_keeps
    | with_reducible apply Keeps.ite
    | fail_if_no_progress (with_reducible refine Keeps.set_fib ?_ (mask_trans (by decide) hw) _)

/-- `onAomgGateClose` may change: tb, fib. -/
theorem onAomgGateClose_keeps (x0 : Fin 8) (x1 : Tick) {w : Nat} {s0 s : State} (hw : 4160 &&& w = 4160) (h : Keeps w s0 s) :
    Keeps w s0 (onAomgGateClose x0 x1 s) := by
  unfold onAomgGateClose
  repeat' first
    | with_reducible exact h
    | with_reducible assumption
    | (extract_lets +onlyGivenNames a; with_reducible refine Keeps.cut (w := w) (s := s0) a ?_ (fun ha => ?_); (on_goal 2 => clear_value a); (on_goal 1 => (dsimp -zeta only [a]; clear a)))
    | (extract_lets +onlyGivenNames a; clear_value a)
    | exact mask_trans (by decide) hw
    | with_reducible apply advance_keeps
    | with_reducible apply Keeps.ite
    | fail_if_no_progress (with_reducible refine Keeps.set_fib ?_ (mask_trans (by decide) hw) _)

/-- `onFibCalCycleStart` may change: tb, fib. -/
theorem onFibCalCycleStart_keeps (x0 : Fin 2) (x1 : Tick) {w : Nat} {s0 s : State} (hw : 4160 &&& w = 4160) (h : Keeps w s0 s) :
    Keeps w s0 (onFibCalCycleStart x0 x1 s) := by
  unfold onFibCalCycleStart
  repeat' first
    | with_reducible exact h
    | with_reducible assumption
    | (extract_lets +onlyGivenNames a; with_reducible refine Keeps.cut (w := w) (s := s0) a ?_ (fun ha => ?_); (on_goal 2 => clear_value a); (on_goal 1 => (dsimp -zeta only [a]; clear a)))
    | (extract_lets +onlyGivenNames a; clear_value a)
    | exact mask_trans (by decide) hw
    | with_reducible apply advance_keeps
    | with_reducible apply setPair_keeps
    | with_reducible apply Keeps.ite

/-- `onFibTrigMissing` may change: regs, tb, fib, vectors, messages, freeIdx. -/
theorem onFibTrigMissing_keeps (x0 : Tick) {w : Nat} {s0 s : State} (hw : 71502615547969 &&& w = 71502615547969) (h : Keeps w s0 s) :
    Keeps w s0 (onFibTrigMissing x0 s) := by
  unfold onFibTrigMissing
  repeat' first
    | with_reducible exact h
    | with_reducible assumption
    | (extract_lets +onlyGivenNames a; with_reducible refine Keeps.cut (w := w) (s := s0) a ?_ (fun ha => ?_); (on_goal 2 => clear_value a); (on_goal 1 => (dsimp -zeta only [a]; clear a)))
    | (extract_lets +onlyGivenNames a; clear_value a)
    | exact mask_trans (by decide) hw
    | with_reducible apply advance_keeps
    | with_reducible apply bump_keeps
    | with_reducible apply fault_keeps
    | with_reducible apply raise_keeps
    | with_reducible apply stick_keeps
    | with_reducible apply Keeps.ite
    | fail_if_no_progress (with_reducible refine Keeps.set_fib ?_ (mask_trans (by decide) hw) _)

/-- `traceSlot` may change: fib. -/
theorem traceSlot_keeps (x0 : ℕ) (x1 : SlotRun) {w : Nat} {s0 s : State} (hw : 4096 &&& w = 4096) (h : Keeps w s0 s) :
    Keeps w s0 (traceSlot x0 x1 s) := by
  unfold traceSlot
  repeat' first
    | with_reducible exact h
    | (extract_lets +onlyGivenNames a; clear_value a)
    | fail_if_no_progress (with_reducible refine Keeps.set_fib ?_ (mask_trans (by decide) hw) _)

/-- `takeWords` may change: regs, fib, queues, vectors, messages, freeIdx. -/
theorem takeWords_keeps  {w : Nat} {s0 s : State} (hw : 71502616596481 &&& w = 71502616596481) (h : Keeps w s0 s) :
    Keeps w s0 (takeWords s) := by
  unfold takeWords
  repeat' first
    | with_reducible exact h
    | with_reducible assumption
    | (extract_lets +onlyGivenNames a; clear_value a)
    | exact mask_trans (by decide) hw
    | with_reducible apply takeAll_keeps
    | (with_reducible apply Keeps.foldl; intros)
    | fail_if_no_progress (with_reducible refine Keeps.set_fib ?_ (mask_trans (by decide) hw) _)

/-- `cycleBlock` may change: regs, fib, vectors, messages, freeIdx. -/
theorem cycleBlock_keeps (x0 : ℕ) (x1 : EstBlock) {w : Nat} {s0 s : State} (hw : 71502615547905 &&& w = 71502615547905) (h : Keeps w s0 s) :
    Keeps w s0 (cycleBlock x0 x1 s) := by
  unfold cycleBlock
  repeat' first
    | with_reducible exact h
    | with_reducible assumption
    | (extract_lets +onlyGivenNames a; with_reducible refine Keeps.cut (w := w) (s := s0) a ?_ (fun ha => ?_); (on_goal 2 => clear_value a); (on_goal 1 => (dsimp -zeta only [a]; clear a)))
    | (extract_lets +onlyGivenNames a; clear_value a)
    | exact mask_trans (by decide) hw
    | with_reducible apply pairAttempt_keeps
    | with_reducible apply setPair_keeps
    | with_reducible apply useFree_keeps
    | with_reducible apply Keeps.ite
    | split

/-- `onEstimationBlockDone` may change: regs, tb, fib, vectors, messages, freeIdx. -/
theorem onEstimationBlockDone_keeps (x0 : Fin 2) (x1 : Tick) {w : Nat} {s0 s : State} (hw : 71502615547969 &&& w = 71502615547969) (h : Keeps w s0 s) :
    Keeps w s0 (onEstimationBlockDone x0 x1 s) := by
  unfold onEstimationBlockDone
  repeat' first
    | with_reducible exact h
    | with_reducible assumption
    | (extract_lets +onlyGivenNames a; with_reducible refine Keeps.cut (w := w) (s := s0) a ?_ (fun ha => ?_); (on_goal 2 => clear_value a); (on_goal 1 => (dsimp -zeta only [a]; clear a)))
    | (extract_lets +onlyGivenNames a; with_reducible refine Keeps.cut2 (w := w) (s := s0) a ?_ (fun hg => ?_); (on_goal 2 => clear_value a); (on_goal 1 => (dsimp -zeta only [a]; clear a)))
    | (extract_lets +onlyGivenNames a; clear_value a)
    | with_reducible apply hg
    | exact mask_trans (by decide) hw
    | with_reducible apply advance_keeps
    | with_reducible apply cycleBlock_keeps
    | with_reducible apply fault_keeps
    | with_reducible apply setPair_keeps
    | intro y
    | with_reducible apply Keeps.ite

/-- `noiseSlot` may change: fib. -/
theorem noiseSlot_keeps (x0 : SweepInfo) (x1 : ℕ) (x2 : SlotRun) (x3 : ℕ) {w : Nat} {s0 s : State} (hw : 4096 &&& w = 4096) (h : Keeps w s0 s) :
    Keeps w s0 (noiseSlot x0 x1 x2 x3 s) := by
  unfold noiseSlot
  repeat' first
    | with_reducible exact h
    | with_reducible assumption
    | (extract_lets +onlyGivenNames a; with_reducible refine Keeps.cut (w := w) (s := s0) a ?_ (fun ha => ?_); (on_goal 2 => clear_value a); (on_goal 1 => (dsimp -zeta only [a]; clear a)))
    | (extract_lets +onlyGivenNames a; clear_value a)
    | with_reducible apply Keeps.ite
    | split
    | fail_if_no_progress (with_reducible refine Keeps.set_fib ?_ (mask_trans (by decide) hw) _)

/-- `dropSamples` may change: fib. -/
theorem dropSamples_keeps  {w : Nat} {s0 s : State} (hw : 4096 &&& w = 4096) (h : Keeps w s0 s) :
    Keeps w s0 (dropSamples s) := by
  unfold dropSamples
  repeat' first
    | with_reducible exact h
    | (extract_lets +onlyGivenNames a; clear_value a)
    | fail_if_no_progress (with_reducible refine Keeps.set_fib ?_ (mask_trans (by decide) hw) _)

/-- `onSlotProcess` may change: regs, firstItem, fib, fdc, mcd, queues, lostMarks, portUp, portDn, merging, vectors, messages, freeIdx. -/
theorem onSlotProcess_keeps (x0 : Fin 8) (x1 : BitVec 24) {w : Nat} {s0 s : State} (hw : 71502990422021 &&& w = 71502990422021) (h : Keeps w s0 s) :
    Keeps w s0 (onSlotProcess x0 x1 s) := by
  unfold onSlotProcess
  repeat' first
    | with_reducible exact h
    | with_reducible assumption
    | (extract_lets +onlyGivenNames a; with_reducible refine Keeps.cut (w := w) (s := s0) a ?_ (fun ha => ?_); (on_goal 2 => clear_value a); (on_goal 1 => (dsimp -zeta only [a]; clear a)))
    | (extract_lets +onlyGivenNames a; clear_value a)
    | exact mask_trans (by decide) hw
    | with_reducible apply bumpSat_keeps
    | with_reducible apply dropSamples_keeps
    | with_reducible apply noiseSlot_keeps
    | with_reducible apply qualityItem_keeps
    | with_reducible apply setInfo_keeps
    | with_reducible apply setPosTab_keeps
    | with_reducible apply slotItem_keeps
    | with_reducible apply takeWords_keeps
    | with_reducible apply traceSlot_keeps
    | with_reducible apply zoneSlot_keeps
    | with_reducible apply Keeps.ite
    | split
    | fail_if_no_progress (with_reducible refine Keeps.set_fdc ?_ (mask_trans (by decide) hw) _)
    | fail_if_no_progress (with_reducible refine Keeps.set_freeIdx ?_ (mask_trans (by decide) hw) _)

/-- `onZoneIntervalEnd` may change: regs, firstItem, fib, tae, mcd, queues, lostMarks, portUp, portDn, merging, x12, vectors, messages, freeIdx. -/
theorem onZoneIntervalEnd_keeps  {w : Nat} {s0 s : State} (hw : 71507285397509 &&& w = 71507285397509) (h : Keeps w s0 s) :
    Keeps w s0 (onZoneIntervalEnd s) := by
  unfold onZoneIntervalEnd
  repeat' first
    | with_reducible exact h
    | with_reducible assumption
    | (extract_lets +onlyGivenNames a; with_reducible refine Keeps.cut (w := w) (s := s0) a ?_ (fun ha => ?_); (on_goal 2 => clear_value a); (on_goal 1 => (dsimp -zeta only [a]; clear a)))
    | (extract_lets +onlyGivenNames a; clear_value a)
    | exact mask_trans (by decide) hw
    | with_reducible apply emitX_keeps
    | with_reducible apply raise_keeps
    | with_reducible apply taeZones_keeps
    | with_reducible apply x12PostDue_keeps
    | with_reducible apply Keeps.ite
    | (with_reducible apply Keeps.foldl; intros)
    | split
    | fail_if_no_progress (with_reducible refine Keeps.set_fib ?_ (mask_trans (by decide) hw) _)

/-- `onEndEvaluation` may change: regs, fib, vectors. -/
theorem onEndEvaluation_keeps  {w : Nat} {s0 s : State} (hw : 34359742465 &&& w = 34359742465) (h : Keeps w s0 s) :
    Keeps w s0 (onEndEvaluation s) := by
  unfold onEndEvaluation
  repeat' first
    | with_reducible exact h
    | with_reducible assumption
    | (extract_lets +onlyGivenNames a; with_reducible refine Keeps.cut (w := w) (s := s0) a ?_ (fun ha => ?_); (on_goal 2 => clear_value a); (on_goal 1 => (dsimp -zeta only [a]; clear a)))
    | (extract_lets +onlyGivenNames a; clear_value a)
    | exact mask_trans (by decide) hw
    | with_reducible apply raise_keeps
    | with_reducible apply stick_keeps
    | with_reducible apply Keeps.ite
    | fail_if_no_progress (with_reducible refine Keeps.set_fib ?_ (mask_trans (by decide) hw) _)

/-- `pairGraft` may change: fib. -/
theorem pairGraft_keeps (x0 : ℕ) (x1 : Tick) {w : Nat} {s0 s : State} (hw : 4096 &&& w = 4096) (h : Keeps w s0 s) :
    Keeps w s0 (pairGraft x0 x1 s) := by
  unfold pairGraft
  repeat' first
    | with_reducible exact h
    | with_reducible assumption
    | (extract_lets +onlyGivenNames a; with_reducible refine Keeps.cut (w := w) (s := s0) a ?_ (fun ha => ?_); (on_goal 2 => clear_value a); (on_goal 1 => (dsimp -zeta only [a]; clear a)))
    | (extract_lets +onlyGivenNames a; clear_value a)
    | with_reducible apply pairAbandon_keeps
    | with_reducible apply setPair_keeps

/-- `flushSamples` may change: regs, fib, queues, portUp, portDn, vectors, messages, freeIdx. -/
theorem flushSamples_keeps  {w : Nat} {s0 s : State} (hw : 71502717259777 &&& w = 71502717259777) (h : Keeps w s0 s) :
    Keeps w s0 (flushSamples s) := by
  unfold flushSamples
  repeat' first
    | with_reducible exact h
    | with_reducible assumption
    | with_reducible apply sendSamples_keeps
    | (with_reducible apply Keeps.foldl; intros)

end Sys2Proof.Machine
end

