-- ==== Sys2Proof/Laws/KeepHse.lean ====
section
/-! SUPPORT. What each operation of Machine/Hse.lean may change: one lemma per operation, by the bits of the parts
of State (Sys2Proof.Machine.Part.bit). -/

namespace Sys2Proof.Machine

/-- `stripTaken` may change: hse. -/
theorem stripTaken_keeps (x0 : ℕ) {w : Nat} {s0 s : State} (hw : 2048 &&& w = 2048) (h : Keeps w s0 s) :
    Keeps w s0 (stripTaken x0 s) := by
  unfold stripTaken
  repeat' first
    | with_reducible exact h
    | (extract_lets +onlyGivenNames a; clear_value a)
    | fail_if_no_progress (with_reducible refine Keeps.set_hse ?_ (mask_trans (by decide) hw) _)

/-- `setBuf` may change: hse. -/
theorem setBuf_keeps (x0 : ℕ) (x1 : ChanBuf) {w : Nat} {s0 s : State} (hw : 2048 &&& w = 2048) (h : Keeps w s0 s) :
    Keeps w s0 (setBuf x0 x1 s) := by
  unfold setBuf
  repeat' first
    | with_reducible exact h
    | (extract_lets +onlyGivenNames a; clear_value a)
    | fail_if_no_progress (with_reducible refine Keeps.set_hse ?_ (mask_trans (by decide) hw) _)

/-- `frontStamp` may change: hse. -/
theorem frontStamp_keeps (x0 : ℕ) (x1 : ℕ) {w : Nat} {s0 s : State} (hw : 2048 &&& w = 2048) (h : Keeps w s0 s) :
    Keeps w s0 (frontStamp x0 x1 s) := by
  unfold frontStamp
  repeat' first
    | with_reducible exact h
    | with_reducible assumption
    | (extract_lets +onlyGivenNames a; clear_value a)
    | with_reducible apply setBuf_keeps
    | with_reducible apply Keeps.ite
    | split
    | fail_if_no_progress (with_reducible refine Keeps.set_hse ?_ (mask_trans (by decide) hw) _)

/-- `onStampAccumulate` may change: regs, hse, queues, vectors, messages, freeIdx. -/
theorem onStampAccumulate_keeps (x0 : Fin 512) (x1 : Bool) {w : Nat} {s0 s : State} (hw : 71502616594433 &&& w = 71502616594433) (h : Keeps w s0 s) :
    Keeps w s0 (onStampAccumulate x0 x1 s) := by
  unfold onStampAccumulate
  repeat' first
    | with_reducible exact h
    | with_reducible assumption
    | (extract_lets +onlyGivenNames a; with_reducible refine Keeps.cut (w := w) (s := s0) a ?_ (fun ha => ?_); (on_goal 2 => clear_value a); (on_goal 1 => (dsimp -zeta only [a]; clear a)))
    | (extract_lets +onlyGivenNames a; clear_value a)
    | exact mask_trans (by decide) hw
    | with_reducible apply frontStamp_keeps
    | with_reducible apply parityFailed_keeps
    | with_reducible apply popQueue_keeps
    | with_reducible apply setQueue_keeps
    | with_reducible apply Keeps.ite
    | split
    | fail_if_no_progress (with_reducible refine Keeps.set_hse ?_ (mask_trans (by decide) hw) _)

/-- `addUnobs` may change: hse. -/
theorem addUnobs_keeps (x0 : ℕ) (x1 : ℕ) {w : Nat} {s0 s : State} (hw : 2048 &&& w = 2048) (h : Keeps w s0 s) :
    Keeps w s0 (addUnobs x0 x1 s) := by
  unfold addUnobs
  repeat' first
    | with_reducible exact h
    | (extract_lets +onlyGivenNames a; clear_value a)
    | fail_if_no_progress (with_reducible refine Keeps.set_hse ?_ (mask_trans (by decide) hw) _)

/-- `stripUnobs` may change: hse. -/
theorem stripUnobs_keeps (x0 : ℕ) (x1 : ℕ) (x2 : Bool) {w : Nat} {s0 s : State} (hw : 2048 &&& w = 2048) (h : Keeps w s0 s) :
    Keeps w s0 (stripUnobs x0 x1 x2 s) := by
  unfold stripUnobs
  repeat' first
    | with_reducible exact h
    | with_reducible assumption
    | with_reducible apply addUnobs_keeps
    | (with_reducible apply Keeps.foldl; intros)
    | split

/-- `loseColumn` may change: regs, hse, freeIdx. -/
theorem loseColumn_keeps (x0 : ℕ) {w : Nat} {s0 s : State} (hw : 70368744179713 &&& w = 70368744179713) (h : Keeps w s0 s) :
    Keeps w s0 (loseColumn x0 s) := by
  unfold loseColumn
  repeat' first
    | with_reducible exact h
    | with_reducible assumption
    | (extract_lets +onlyGivenNames a; with_reducible refine Keeps.cut (w := w) (s := s0) a ?_ (fun ha => ?_); (on_goal 2 => clear_value a); (on_goal 1 => (dsimp -zeta only [a]; clear a)))
    | (extract_lets +onlyGivenNames a; clear_value a)
    | exact mask_trans (by decide) hw
    | with_reducible apply bump_keeps
    | with_reducible apply stick_keeps
    | fail_if_no_progress (with_reducible refine Keeps.set_hse ?_ (mask_trans (by decide) hw) _)

/-- `verdictClose` may change: hse. -/
theorem verdictClose_keeps (x0 : ℕ) {w : Nat} {s0 s : State} (hw : 2048 &&& w = 2048) (h : Keeps w s0 s) :
    Keeps w s0 (verdictClose x0 s) := by
  unfold verdictClose
  repeat' first
    | with_reducible exact h
    | (extract_lets +onlyGivenNames a; clear_value a)
    | fail_if_no_progress (with_reducible refine Keeps.set_hse ?_ (mask_trans (by decide) hw) _)

/-- `verdictSet` may change: regs, hse, vectors, messages. -/
theorem verdictSet_keeps (x0 : ℕ) {w : Nat} {s0 s : State} (hw : 1133871368193 &&& w = 1133871368193) (h : Keeps w s0 s) :
    Keeps w s0 (verdictSet x0 s) := by
  unfold verdictSet
  repeat' first
    | with_reducible exact h
    | with_reducible assumption
    | (extract_lets +onlyGivenNames a; with_reducible refine Keeps.cut (w := w) (s := s0) a ?_ (fun ha => ?_); (on_goal 2 => clear_value a); (on_goal 1 => (dsimp -zeta only [a]; clear a)))
    | (extract_lets +onlyGivenNames a; clear_value a)
    | exact mask_trans (by decide) hw
    | with_reducible apply fault_keeps
    | with_reducible apply raise_keeps
    | with_reducible apply stick_keeps
    | with_reducible apply Keeps.ite
    | fail_if_no_progress (with_reducible refine Keeps.set_hse ?_ (mask_trans (by decide) hw) _)

/-- `verdictOut` may change: regs, firstItem, hse, mcd, queues, lostMarks, portUp, portDn, merging, x12, vectors, messages, freeIdx. -/
theorem verdictOut_keeps (x0 : TagCtx) {w : Nat} {s0 s : State} (hw : 71507285379077 &&& w = 71507285379077) (h : Keeps w s0 s) :
    Keeps w s0 (verdictOut x0 s) := by
  unfold verdictOut
  repeat' first
    | with_reducible exact h
    | with_reducible assumption
    | (extract_lets +onlyGivenNames a; clear_value a)
    | exact mask_trans (by decide) hw
    | with_reducible apply emit_keeps
    | with_reducible apply verdictClose_keeps
    | with_reducible apply verdictSet_keeps
    | with_reducible apply x12Post_keeps
    | with_reducible apply Keeps.ite
    | (with_reducible apply Keeps.foldl; intros)

/-- `onFieldVerdict` may change: regs, firstItem, tb, hse, mcd, queues, lostMarks, portUp, portDn, merging, x12, vectors, messages, freeIdx. -/
theorem onFieldVerdict_keeps (x0 : Tick) {w : Nat} {s0 s : State} (hw : 71507285379141 &&& w = 71507285379141) (h : Keeps w s0 s) :
    Keeps w s0 (onFieldVerdict x0 s) := by
  unfold onFieldVerdict
  repeat' first
    | with_reducible exact h
    | with_reducible assumption
    | (extract_lets +onlyGivenNames a; with_reducible refine Keeps.cut (w := w) (s := s0) a ?_ (fun ha => ?_); (on_goal 2 => clear_value a); (on_goal 1 => (dsimp -zeta only [a]; clear a)))
    | exact mask_trans (by decide) hw
    | with_reducible apply advance_keeps
    | with_reducible apply verdictOut_keeps
    | with_reducible apply Keeps.ite
    | split

/-- `confChan` may change: regs, hse, queues, portUp, portDn, vectors, messages, freeIdx. -/
theorem confChan_keeps (x0 : ℕ) (x1 : Tick) {w : Nat} {s0 s : State} (hw : 71502717257729 &&& w = 71502717257729) (h : Keeps w s0 s) :
    Keeps w s0 (confChan x0 x1 s) := by
  unfold confChan
  repeat' first
    | with_reducible exact h
    | with_reducible assumption
    | (extract_lets +onlyGivenNames a; with_reducible refine Keeps.cut (w := w) (s := s0) a ?_ (fun ha => ?_); (on_goal 2 => clear_value a); (on_goal 1 => (dsimp -zeta only [a]; clear a)))
    | (extract_lets +onlyGivenNames a; clear_value a)
    | exact mask_trans (by decide) hw
    | with_reducible apply setBuf_keeps
    | with_reducible apply toPartner_keeps
    | with_reducible apply Keeps.ite
    | split

/-- `onConfidenceUpdate` may change: regs, tb, hse, queues, portUp, portDn, vectors, messages, freeIdx. -/
theorem onConfidenceUpdate_keeps (x0 : Fin 16) (x1 : Tick) {w : Nat} {s0 s : State} (hw : 71502717257793 &&& w = 71502717257793) (h : Keeps w s0 s) :
    Keeps w s0 (onConfidenceUpdate x0 x1 s) := by
  unfold onConfidenceUpdate
  repeat' first
    | with_reducible exact h
    | with_reducible assumption
    | (extract_lets +onlyGivenNames a; with_reducible refine Keeps.cut (w := w) (s := s0) a ?_ (fun ha => ?_); (on_goal 2 => clear_value a); (on_goal 1 => (dsimp -zeta only [a]; clear a)))
    | (extract_lets +onlyGivenNames a; clear_value a)
    | exact mask_trans (by decide) hw
    | with_reducible apply advance_keeps
    | with_reducible apply confChan_keeps
    | with_reducible apply Keeps.ite
    | (with_reducible apply Keeps.foldl; intros)

/-- `onDeepHist` may change: hse. -/
theorem onDeepHist_keeps (x0 : Fin 512) (x1 : DeepChan) {w : Nat} {s0 s : State} (hw : 2048 &&& w = 2048) (h : Keeps w s0 s) :
    Keeps w s0 (onDeepHist x0 x1 s) := by
  unfold onDeepHist
  repeat' first
    | with_reducible exact h
    | (extract_lets +onlyGivenNames a; clear_value a)
    | with_reducible apply Keeps.ite
    | fail_if_no_progress (with_reducible refine Keeps.set_hse ?_ (mask_trans (by decide) hw) _)

/-- `unmark` may change: hse. -/
theorem unmark_keeps (x0 : ℕ) {w : Nat} {s0 s : State} (hw : 2048 &&& w = 2048) (h : Keeps w s0 s) :
    Keeps w s0 (unmark x0 s) := by
  unfold unmark
  repeat' first
    | with_reducible exact h
    | (extract_lets +onlyGivenNames a; clear_value a)
    | fail_if_no_progress (with_reducible refine Keeps.set_hse ?_ (mask_trans (by decide) hw) _)

/-- `stripItems` may change: regs, firstItem, hse, mcd, queues, lostMarks, portUp, portDn, merging, vectors, messages, freeIdx. -/
theorem stripItems_keeps (x0 : ℕ) (x1 : ℕ) (x2 : List (ℕ × ℕ × ℕ)) (x3 : List ℕ) {w : Nat} {s0 s : State} (hw : 71502990411781 &&& w = 71502990411781) (h : Keeps w s0 s) :
    Keeps w s0 (stripItems x0 x1 x2 x3 s) := by
  unfold stripItems
  repeat' first
    | with_reducible exact h
    | with_reducible assumption
    | (extract_lets +onlyGivenNames a; with_reducible refine Keeps.cut (w := w) (s := s0) a ?_ (fun ha => ?_); (on_goal 2 => clear_value a); (on_goal 1 => (dsimp -zeta only [a]; clear a)))
    | (extract_lets +onlyGivenNames a; clear_value a)
    | exact mask_trans (by decide) hw
    | with_reducible apply emitX_keeps
    | with_reducible apply unmark_keeps
    | with_reducible apply Keeps.ite

/-- `onFollowerLock` may change: regs, tb, hse, vectors, messages, freeIdx. -/
theorem onFollowerLock_keeps (x0 : Fin 512) (x1 : Tick) {w : Nat} {s0 s : State} (hw : 71502615545921 &&& w = 71502615545921) (h : Keeps w s0 s) :
    Keeps w s0 (onFollowerLock x0 x1 s) := by
  unfold onFollowerLock
  repeat' first
    | with_reducible exact h
    | with_reducible assumption
    | (extract_lets +onlyGivenNames a; with_reducible refine Keeps.cut (w := w) (s := s0) a ?_ (fun ha => ?_); (on_goal 2 => clear_value a); (on_goal 1 => (dsimp -zeta only [a]; clear a)))
    | (extract_lets +onlyGivenNames a; clear_value a)
    | exact mask_trans (by decide) hw
    | with_reducible apply advance_keeps
    | with_reducible apply bump_keeps
    | with_reducible apply fault_keeps
    | with_reducible apply setBuf_keeps
    | with_reducible apply stick_keeps
    | with_reducible apply Keeps.ite
    | split

/-- `addInside` may change: hse. -/
theorem addInside_keeps (x0 : ℕ) (x1 : ℕ) {w : Nat} {s0 s : State} (hw : 2048 &&& w = 2048) (h : Keeps w s0 s) :
    Keeps w s0 (addInside x0 x1 s) := by
  unfold addInside
  repeat' first
    | with_reducible exact h
    | with_reducible assumption
    | (extract_lets +onlyGivenNames a; clear_value a)
    | with_reducible apply Keeps.ite
    | (with_reducible apply Keeps.foldl; intros)
    | fail_if_no_progress (with_reducible refine Keeps.set_hse ?_ (mask_trans (by decide) hw) _)

/-- `backView` may change: esq. -/
theorem backView_keeps  {w : Nat} {s0 s : State} (hw : 1024 &&& w = 1024) (h : Keeps w s0 s) :
    Keeps w s0 (backView s) := by
  unfold backView
  repeat' first
    | with_reducible exact h
    | (extract_lets +onlyGivenNames a; clear_value a)
    | with_reducible apply Keeps.ite
    | fail_if_no_progress (with_reducible refine Keeps.set_esq ?_ (mask_trans (by decide) hw) _)

/-- `onDeepWin` may change: hse. -/
theorem onDeepWin_keeps (x0 : Fin 512) (x1 : Tick) (x2 : List ℕ) {w : Nat} {s0 s : State} (hw : 2048 &&& w = 2048) (h : Keeps w s0 s) :
    Keeps w s0 (onDeepWin x0 x1 x2 s) := by
  unfold onDeepWin
  repeat' first
    | with_reducible exact h
    | (extract_lets +onlyGivenNames a; clear_value a)
    | with_reducible apply Keeps.ite
    | fail_if_no_progress (with_reducible refine Keeps.set_hse ?_ (mask_trans (by decide) hw) _)

/-- `commitCounts` may change: tdc, esq. -/
theorem commitCounts_keeps (x0 : ℕ) {w : Nat} {s0 s : State} (hw : 1152 &&& w = 1152) (h : Keeps w s0 s) :
    Keeps w s0 (commitCounts x0 s) := by
  unfold commitCounts
  repeat' first
    | with_reducible exact h
    | (extract_lets +onlyGivenNames a; clear_value a)
    | exact mask_trans (by decide) hw
    | with_reducible apply setCal_keeps
    | with_reducible apply Keeps.ite

/-- `countChan` may change: regs, esq, hse, vectors, freeIdx. -/
theorem countChan_keeps (x0 : ℕ) {w : Nat} {s0 s : State} (hw : 70403103919105 &&& w = 70403103919105) (h : Keeps w s0 s) :
    Keeps w s0 (countChan x0 s) := by
  unfold countChan
  repeat' first
    | with_reducible exact h
    | with_reducible assumption
    | (extract_lets +onlyGivenNames a; with_reducible refine Keeps.cut (w := w) (s := s0) a ?_ (fun ha => ?_); (on_goal 2 => clear_value a); (on_goal 1 => (dsimp -zeta only [a]; clear a)))
    | (extract_lets +onlyGivenNames a; clear_value a)
    | exact mask_trans (by decide) hw
    | with_reducible apply bump_keeps
    | with_reducible apply bumpSat_keeps
    | with_reducible apply raise_keeps
    | with_reducible apply stick_keeps
    | with_reducible apply Keeps.ite
    | fail_if_no_progress (with_reducible refine Keeps.set_hse ?_ (mask_trans (by decide) hw) _)

/-- `stripCounts` may change: regs, esq, hse, vectors, freeIdx. -/
theorem stripCounts_keeps (x0 : ℕ) (x1 : List (ℕ × ℕ × ℕ)) {w : Nat} {s0 s : State} (hw : 70403103919105 &&& w = 70403103919105) (h : Keeps w s0 s) :
    Keeps w s0 (stripCounts x0 x1 s) := by
  unfold stripCounts
  repeat' first
    | with_reducible exact h
    | with_reducible assumption
    | (extract_lets +onlyGivenNames a; with_reducible refine Keeps.cut (w := w) (s := s0) a ?_ (fun ha => ?_); (on_goal 2 => clear_value a); (on_goal 1 => (dsimp -zeta only [a]; clear a)))
    | (extract_lets +onlyGivenNames a; clear_value a)
    | exact mask_trans (by decide) hw
    | with_reducible apply addInside_keeps
    | with_reducible apply bumpSat_keeps
    | with_reducible apply countChan_keeps
    | with_reducible apply stripUnobs_keeps
    | (with_reducible apply Keeps.foldl; intros)
    | fail_if_no_progress (with_reducible refine Keeps.set_hse ?_ (mask_trans (by decide) hw) _)

/-- `deliverStrip` may change: regs, firstItem, esq, hse, mcd, queues, lostMarks, portUp, portDn, merging, vectors, messages, freeIdx. -/
theorem deliverStrip_keeps (x0 : ℕ) {w : Nat} {s0 s : State} (hw : 71502990412805 &&& w = 71502990412805) (h : Keeps w s0 s) :
    Keeps w s0 (deliverStrip x0 s) := by
  unfold deliverStrip
  repeat' first
    | with_reducible exact h
    | with_reducible assumption
    | (extract_lets +onlyGivenNames a; with_reducible refine Keeps.cut (w := w) (s := s0) a ?_ (fun ha => ?_); (on_goal 2 => clear_value a); (on_goal 1 => (dsimp -zeta only [a]; clear a)))
    | exact mask_trans (by decide) hw
    | with_reducible apply backView_keeps
    | with_reducible apply stripCounts_keeps
    | with_reducible apply stripItems_keeps
    | with_reducible apply toPartner_keeps
    | with_reducible apply unmark_keeps
    | with_reducible apply Keeps.ite
    | (with_reducible apply Keeps.foldl; intros)

/-- `onMergeDeadline` may change: regs, tb, hse, vectors, messages, freeIdx. -/
theorem onMergeDeadline_keeps (x0 : Tick) {w : Nat} {s0 s : State} (hw : 71502615545921 &&& w = 71502615545921) (h : Keeps w s0 s) :
    Keeps w s0 (onMergeDeadline x0 s) := by
  unfold onMergeDeadline
  repeat' first
    | with_reducible exact h
    | with_reducible assumption
    | (extract_lets +onlyGivenNames a; with_reducible refine Keeps.cut (w := w) (s := s0) a ?_ (fun ha => ?_); (on_goal 2 => clear_value a); (on_goal 1 => (dsimp -zeta only [a]; clear a)))
    | (extract_lets +onlyGivenNames a; clear_value a)
    | exact mask_trans (by decide) hw
    | with_reducible apply advance_keeps
    | with_reducible apply bump_keeps
    | with_reducible apply fault_keeps
    | with_reducible apply stick_keeps
    | with_reducible apply Keeps.ite
    | fail_if_no_progress (with_reducible refine Keeps.set_hse ?_ (mask_trans (by decide) hw) _)

/-- `onStripColumnDone` may change: regs, firstItem, tb, tdc, esq, hse, mcd, queues, lostMarks, portUp, portDn, merging, vectors, messages, freeIdx. -/
theorem onStripColumnDone_keeps (x0 : Fin 32) (x1 : Ecc) (x2 : Tick) {w : Nat} {s0 s : State} (hw : 71502990412997 &&& w = 71502990412997) (h : Keeps w s0 s) :
    Keeps w s0 (onStripColumnDone x0 x1 x2 s) := by
  unfold onStripColumnDone
  repeat' first
    | with_reducible exact h
    | with_reducible assumption
    | (extract_lets +onlyGivenNames a; with_reducible refine Keeps.cut (w := w) (s := s0) a ?_ (fun ha => ?_); (on_goal 2 => clear_value a); (on_goal 1 => (dsimp -zeta only [a]; clear a)))
    | (extract_lets +onlyGivenNames a; clear_value a)
    | exact mask_trans (by decide) hw
    | with_reducible apply advance_keeps
    | with_reducible apply commitCounts_keeps
    | with_reducible apply deliverStrip_keeps
    | with_reducible apply fault_keeps
    | with_reducible apply loseColumn_keeps
    | with_reducible apply stick_keeps
    | with_reducible apply stripTaken_keeps
    | with_reducible apply stripUnobs_keeps
    | with_reducible apply Keeps.ite
    | split

end Sys2Proof.Machine
end

