-- ==== Sys2Proof/Laws/KeepMulch.lean ====
section
/-! SUPPORT. What each operation of Machine/Mulch.lean may change: one lemma per operation, by the bits of the parts
of State (Sys2Proof.Machine.Part.bit). -/

namespace Sys2Proof.Machine

/-- `onQsyStall` may change: regs, tb, queues, vectors. -/
theorem onQsyStall_keeps (x0 : QueueId) (x1 : Tick) {w : Nat} {s0 s : State} (hw : 34360787009 &&& w = 34360787009) (h : Keeps w s0 s) :
    Keeps w s0 (onQsyStall x0 x1 s) := by
  unfold onQsyStall
  repeat' first
    | with_reducible exact h
    | with_reducible assumption
    | (extract_lets +onlyGivenNames a; with_reducible refine Keeps.cut (w := w) (s := s0) a ?_ (fun ha => ?_); (on_goal 2 => clear_value a); (on_goal 1 => (dsimp -zeta only [a]; clear a)))
    | (extract_lets +onlyGivenNames a; (have y : QsySt := a; clear y); dsimp -zeta only [a]; clear a)
    | (extract_lets +onlyGivenNames a; clear_value a)
    | exact mask_trans (by decide) hw
    | with_reducible apply advance_keeps
    | with_reducible apply raise_keeps
    | with_reducible apply setQueue_keeps
    | with_reducible apply stick_keeps
    | with_reducible apply Keeps.ite
    | fail_if_no_progress (with_reducible refine Keeps.set_fresh_qsy_queues ?_ (mask_trans (by decide) hw) _ _ (by first | ((with_reducible repeat' constructor); done) | (split <;> repeat' constructor)))

/-- `countFlushed` may change: regs, vectors, freeIdx. -/
theorem countFlushed_keeps (x0 : ℕ) {w : Nat} {s0 s : State} (hw : 70403103916033 &&& w = 70403103916033) (h : Keeps w s0 s) :
    Keeps w s0 (countFlushed x0 s) := by
  unfold countFlushed
  repeat' first
    | with_reducible exact h
    | exact mask_trans (by decide) hw
    | with_reducible apply bump_keeps
    | with_reducible apply raise_keeps
    | with_reducible apply stick_keeps
    | with_reducible apply Keeps.ite

/-- `flushQueue` may change: regs, queues, vectors, freeIdx. -/
theorem flushQueue_keeps (x0 : ℕ) (x1 : ℕ) (x2 : ℕ) (x3 : ℕ) {w : Nat} {s0 s : State} (hw : 70403104964609 &&& w = 70403104964609) (h : Keeps w s0 s) :
    Keeps w s0 (flushQueue x0 x1 x2 x3 s) := by
  unfold flushQueue
  repeat' first
    | with_reducible exact h
    | (extract_lets +onlyGivenNames a; clear_value a)
    | exact mask_trans (by decide) hw
    | with_reducible apply countFlushed_keeps
    | with_reducible apply setQueue_keeps

/-- `flushStream` may change: regs, mcd, queues, lostMarks, portUp, portDn, merging, vectors, messages, freeIdx. -/
theorem flushStream_keeps (x0 : ℕ) (x1 : ℕ) (x2 : TagCtx) (x3 : ℕ) {w : Nat} {s0 s : State} (hw : 71502990409729 &&& w = 71502990409729) (h : Keeps w s0 s) :
    Keeps w s0 (flushStream x0 x1 x2 x3 s) := by
  unfold flushStream
  repeat' first
    | with_reducible exact h
    | with_reducible assumption
    | (extract_lets +onlyGivenNames a; with_reducible refine Keeps.cut (w := w) (s := s0) a ?_ (fun ha => ?_); (on_goal 2 => clear_value a); (on_goal 1 => (dsimp -zeta only [a]; clear a)))
    | (extract_lets +onlyGivenNames a; clear_value a)
    | exact mask_trans (by decide) hw
    | with_reducible apply countFlushed_keeps
    | with_reducible apply emitCtl_keeps
    | with_reducible apply flushQueue_keeps
    | with_reducible apply loseBefore_keeps
    | with_reducible apply setBind_keeps
    | split

/-- `engineTakes` may change: regs, mcd, queues, freeIdx. -/
theorem engineTakes_keeps (x0 : ℕ) {w : Nat} {s0 s : State} (hw : 70368745750529 &&& w = 70368745750529) (h : Keeps w s0 s) :
    Keeps w s0 (engineTakes x0 s) := by
  unfold engineTakes
  repeat' first
    | with_reducible exact h
    | with_reducible assumption
    | (extract_lets +onlyGivenNames a; with_reducible refine Keeps.cut (w := w) (s := s0) a ?_ (fun ha => ?_); (on_goal 2 => clear_value a); (on_goal 1 => (dsimp -zeta only [a]; clear a)))
    | exact mask_trans (by decide) hw
    | with_reducible apply beginItem_keeps
    | with_reducible apply emptyEngineQueue_keeps
    | with_reducible apply pushBP_keeps
    | with_reducible apply setEngine_keeps
    | with_reducible apply Keeps.ite
    | split

/-- `engineEnter` may change: regs, mcd, vectors, mailbox, fences, grafting. -/
theorem engineEnter_keeps (x0 : ℕ) {w : Nat} {s0 s : State} (hw : 11166915493889 &&& w = 11166915493889) (h : Keeps w s0 s) :
    Keeps w s0 (engineEnter x0 s) := by
  unfold engineEnter
  repeat' first
    | with_reducible exact h
    | (extract_lets +onlyGivenNames a; clear_value a)
    | exact mask_trans (by decide) hw
    | with_reducible apply graftEnter_keeps
    | with_reducible apply raise_keeps
    | fail_if_no_progress (with_reducible refine Keeps.set_mcd ?_ (mask_trans (by decide) hw) _)

/-- `enginesEnter` may change: regs, mcd, vectors, mailbox, fences, grafting. -/
theorem enginesEnter_keeps  {w : Nat} {s0 s : State} (hw : 11166915493889 &&& w = 11166915493889) (h : Keeps w s0 s) :
    Keeps w s0 (enginesEnter s) := by
  unfold enginesEnter
  repeat' first
    | with_reducible exact h
    | with_reducible assumption
    | with_reducible apply engineEnter_keeps
    | (with_reducible apply Keeps.foldl; intros)

/-- `onMulchBlockStart` may change: regs, mcd, queues, vectors, mailbox, fences, grafting, freeIdx. -/
theorem onMulchBlockStart_keeps  {w : Nat} {s0 s : State} (hw : 81535660720129 &&& w = 81535660720129) (h : Keeps w s0 s) :
    Keeps w s0 (onMulchBlockStart s) := by
  unfold onMulchBlockStart
  repeat' first
    | with_reducible exact h
    | exact mask_trans (by decide) hw
    | with_reducible apply engineTakes_keeps
    | with_reducible apply enginesEnter_keeps
    | with_reducible apply Keeps.ite
    | split

/-- `engineGrafted` may change: regs, mcd, vectors, mailbox, fences, grafting. -/
theorem engineGrafted_keeps (x0 : ℕ) {w : Nat} {s0 s : State} (hw : 11166915493889 &&& w = 11166915493889) (h : Keeps w s0 s) :
    Keeps w s0 (engineGrafted x0 s) := by
  unfold engineGrafted
  repeat' first
    | with_reducible exact h
    | with_reducible assumption
    | (extract_lets +onlyGivenNames a; clear_value a)
    | with_reducible apply engineEnter_keeps
    | with_reducible apply Keeps.ite
    | fail_if_no_progress (with_reducible refine Keeps.set_mcd ?_ (mask_trans (by decide) hw) _)

/-- `engineFenced` may change: regs, firstItem, tae, mcd, queues, lostMarks, portUp, portDn, merging, vectors, mailbox, messages, fences, grafting, freeIdx. -/
theorem engineFenced_keeps (x0 : ℕ) {w : Nat} {s0 s : State} (hw : 82635545657349 &&& w = 82635545657349) (h : Keeps w s0 s) :
    Keeps w s0 (engineFenced x0 s) := by
  unfold engineFenced
  repeat' first
    | with_reducible exact h
    | with_reducible assumption
    | (extract_lets +onlyGivenNames a; with_reducible refine Keeps.cut (w := w) (s := s0) a ?_ (fun ha => ?_); (on_goal 2 => clear_value a); (on_goal 1 => (dsimp -zeta only [a]; clear a)))
    | (extract_lets +onlyGivenNames a; clear_value a)
    | exact mask_trans (by decide) hw
    | with_reducible apply drainRaw_keeps
    | with_reducible apply enginesEnter_keeps
    | with_reducible apply fault_keeps
    | with_reducible apply mcdPass_keeps
    | with_reducible apply raise_keeps
    | with_reducible apply releaseEngine_keeps
    | with_reducible apply setBind_keeps
    | with_reducible apply setUnit_keeps
    | with_reducible apply stick_keeps
    | with_reducible apply Keeps.ite
    | (with_reducible apply Keeps.foldl; intros)
    | fail_if_no_progress (with_reducible refine Keeps.set_mcd ?_ (mask_trans (by decide) hw) _)

/-- `finishBound` may change: regs, mcd, queues, portUp, portDn, merging, vectors, messages, freeIdx. -/
theorem finishBound_keeps (x0 : ℕ) (x1 : MulchItem) (x2 : List MulchItem) {w : Nat} {s0 s : State} (hw : 71502986215425 &&& w = 71502986215425) (h : Keeps w s0 s) :
    Keeps w s0 (finishBound x0 x1 x2 s) := by
  unfold finishBound
  repeat' first
    | with_reducible exact h
    | with_reducible assumption
    | (extract_lets +onlyGivenNames a; with_reducible refine Keeps.cut (w := w) (s := s0) a ?_ (fun ha => ?_); (on_goal 2 => clear_value a); (on_goal 1 => (dsimp -zeta only [a]; clear a)))
    | (extract_lets +onlyGivenNames a; clear_value a)
    | exact mask_trans (by decide) hw
    | with_reducible apply mcdPass_keeps
    | with_reducible apply queueItem_keeps
    | with_reducible apply setBind_keeps

/-- `countBytes` may change: regs, mcd. -/
theorem countBytes_keeps (x0 : ℕ) (x1 : ℕ) {w : Nat} {s0 s : State} (hw : 524289 &&& w = 524289) (h : Keeps w s0 s) :
    Keeps w s0 (countBytes x0 x1 s) := by
  unfold countBytes
  repeat' first
    | with_reducible exact h
    | with_reducible assumption
    | (extract_lets +onlyGivenNames a; with_reducible refine Keeps.cut (w := w) (s := s0) a ?_ (fun ha => ?_); (on_goal 2 => clear_value a); (on_goal 1 => (dsimp -zeta only [a]; clear a)))
    | (extract_lets +onlyGivenNames a; clear_value a)
    | exact mask_trans (by decide) hw
    | with_reducible apply bumpSat_keeps
    | fail_if_no_progress (with_reducible refine Keeps.set_mcd ?_ (mask_trans (by decide) hw) _)

/-- `outBlock` may change: queues. -/
theorem outBlock_keeps (x0 : ℕ) (x1 : List Byte) {w : Nat} {s0 s : State} (hw : 1048576 &&& w = 1048576) (h : Keeps w s0 s) :
    Keeps w s0 (outBlock x0 x1 s) := by
  unfold outBlock
  repeat' first
    | with_reducible exact h
    | with_reducible assumption
    | with_reducible apply pushBP_keeps

/-- `commitBlock` may change: regs, mcd, queues, portUp, portDn, merging, vectors, messages, freeIdx. -/
theorem commitBlock_keeps (x0 : ℕ) (x1 : ℕ) (x2 : ℕ) (x3 : Coded) (x4 : MulchItem) (x5 : List MulchItem) (x6 : ℕ) {w : Nat} {s0 s : State} (hw : 71502986215425 &&& w = 71502986215425) (h : Keeps w s0 s) :
    Keeps w s0 (commitBlock x0 x1 x2 x3 x4 x5 x6 s) := by
  unfold commitBlock
  repeat' first
    | with_reducible exact h
    | with_reducible assumption
    | (extract_lets +onlyGivenNames a; with_reducible refine Keeps.cut (w := w) (s := s0) a ?_ (fun ha => ?_); (on_goal 2 => clear_value a); (on_goal 1 => (dsimp -zeta only [a]; clear a)))
    | (extract_lets +onlyGivenNames a; clear_value a)
    | exact mask_trans (by decide) hw
    | with_reducible apply bumpSat_keeps
    | with_reducible apply countBytes_keeps
    | with_reducible apply finishBound_keeps
    | with_reducible apply outBlock_keeps
    | with_reducible apply setBind_keeps
    | with_reducible apply Keeps.ite

/-- `verifyFault` may change: regs, mcd, vectors, messages, freeIdx. -/
theorem verifyFault_keeps (x0 : ℕ) {w : Nat} {s0 s : State} (hw : 71502616068097 &&& w = 71502616068097) (h : Keeps w s0 s) :
    Keeps w s0 (verifyFault x0 s) := by
  unfold verifyFault
  repeat' first
    | with_reducible exact h
    | with_reducible assumption
    | (extract_lets +onlyGivenNames a; with_reducible refine Keeps.cut (w := w) (s := s0) a ?_ (fun ha => ?_); (on_goal 2 => clear_value a); (on_goal 1 => (dsimp -zeta only [a]; clear a)))
    | (extract_lets +onlyGivenNames a; clear_value a)
    | exact mask_trans (by decide) hw
    | with_reducible apply bump_keeps
    | with_reducible apply fault_keeps
    | with_reducible apply stick_keeps
    | fail_if_no_progress (with_reducible refine Keeps.set_mcd ?_ (mask_trans (by decide) hw) _)

/-- `doneBound` may change: regs, mcd, queues, portUp, portDn, merging, vectors, messages, freeIdx. -/
theorem doneBound_keeps (x0 : ℕ) (x1 : ℕ) (x2 : Bool) {w : Nat} {s0 s : State} (hw : 71502986215425 &&& w = 71502986215425) (h : Keeps w s0 s) :
    Keeps w s0 (doneBound x0 x1 x2 s) := by
  unfold doneBound
  repeat' first
    | with_reducible exact h
    | with_reducible assumption
    | (extract_lets +onlyGivenNames a; with_reducible refine Keeps.cut (w := w) (s := s0) a ?_ (fun ha => ?_); (on_goal 2 => clear_value a); (on_goal 1 => (dsimp -zeta only [a]; clear a)))
    | (extract_lets +onlyGivenNames a; clear_value a)
    | exact mask_trans (by decide) hw
    | with_reducible apply bump_keeps
    | with_reducible apply commitBlock_keeps
    | with_reducible apply verifyFault_keeps
    | with_reducible apply Keeps.ite
    | split

/-- `doneCapture` may change: regs, firstItem, tae, mcd, queues, lostMarks, portUp, portDn, merging, vectors, messages, freeIdx. -/
theorem doneCapture_keeps (x0 : ℕ) (x1 : ℕ) (x2 : Bool) {w : Nat} {s0 s : State} (hw : 71502990426117 &&& w = 71502990426117) (h : Keeps w s0 s) :
    Keeps w s0 (doneCapture x0 x1 x2 s) := by
  unfold doneCapture
  repeat' first
    | with_reducible exact h
    | with_reducible assumption
    | (extract_lets +onlyGivenNames a; with_reducible refine Keeps.cut (w := w) (s := s0) a ?_ (fun ha => ?_); (on_goal 2 => clear_value a); (on_goal 1 => (dsimp -zeta only [a]; clear a)))
    | (extract_lets +onlyGivenNames a; clear_value a)
    | exact mask_trans (by decide) hw
    | with_reducible apply blockStored_keeps
    | with_reducible apply bump_keeps
    | with_reducible apply countBytes_keeps
    | with_reducible apply drainRaw_keeps
    | with_reducible apply outBlock_keeps
    | with_reducible apply setUnit_keeps
    | with_reducible apply verifyFault_keeps
    | with_reducible apply Keeps.ite
    | split

/-- `slotLost` may change: regs, mcd, vectors, messages. -/
theorem slotLost_keeps (x0 : ℕ) {w : Nat} {s0 s : State} (hw : 1133871890433 &&& w = 1133871890433) (h : Keeps w s0 s) :
    Keeps w s0 (slotLost x0 s) := by
  unfold slotLost
  repeat' first
    | with_reducible exact h
    | (extract_lets +onlyGivenNames a; clear_value a)
    | exact mask_trans (by decide) hw
    | with_reducible apply fault_keeps
    | with_reducible apply setBind_keeps
    | with_reducible apply stick_keeps

/-- `mulchDone` may change: regs, firstItem, tae, mcd, queues, lostMarks, portUp, portDn, merging, vectors, messages, freeIdx. -/
theorem mulchDone_keeps (x0 : ℕ) (x1 : Bool) {w : Nat} {s0 s : State} (hw : 71502990426117 &&& w = 71502990426117) (h : Keeps w s0 s) :
    Keeps w s0 (mulchDone x0 x1 s) := by
  unfold mulchDone
  repeat' first
    | with_reducible exact h
    | with_reducible assumption
    | (extract_lets +onlyGivenNames a; with_reducible refine Keeps.cut (w := w) (s := s0) a ?_ (fun ha => ?_); (on_goal 2 => clear_value a); (on_goal 1 => (dsimp -zeta only [a]; clear a)))
    | exact mask_trans (by decide) hw
    | with_reducible apply doneBound_keeps
    | with_reducible apply doneCapture_keeps
    | with_reducible apply releaseEngine_keeps
    | with_reducible apply Keeps.ite
    | split

/-- `onBpQueueSpace` may change: queues. -/
theorem onBpQueueSpace_keeps (x0 : QueueId) {w : Nat} {s0 s : State} (hw : 1048576 &&& w = 1048576) (h : Keeps w s0 s) :
    Keeps w s0 (onBpQueueSpace x0 s) := by
  unfold onBpQueueSpace
  repeat' first
    | with_reducible exact h
    | with_reducible assumption
    | (extract_lets +onlyGivenNames a; clear_value a)
    | with_reducible apply setQueue_keeps
    | with_reducible apply Keeps.ite

/-- `onFlushItem` may change: regs, queues, lostMarks, vectors, freeIdx. -/
theorem onFlushItem_keeps (x0 : QueueId) (x1 : BitVec 6) (x2 : BitVec 6) (x3 : Item) {w : Nat} {s0 s : State} (hw : 70403109158913 &&& w = 70403109158913) (h : Keeps w s0 s) :
    Keeps w s0 (onFlushItem x0 x1 x2 x3 s) := by
  unfold onFlushItem
  repeat' first
    | with_reducible exact h
    | with_reducible assumption
    | (extract_lets +onlyGivenNames a; with_reducible refine Keeps.cut (w := w) (s := s0) a ?_ (fun ha => ?_); (on_goal 2 => clear_value a); (on_goal 1 => (dsimp -zeta only [a]; clear a)))
    | exact mask_trans (by decide) hw
    | with_reducible apply flushQueue_keeps
    | with_reducible apply loseBefore_keeps
    | with_reducible apply pushBP_keeps

/-- `onMulchBlockDone` may change: regs, firstItem, tb, tae, mcd, queues, lostMarks, portUp, portDn, merging, vectors, messages, freeIdx. -/
theorem onMulchBlockDone_keeps (x0 : Fin 2) (x1 : Bool) (x2 : Tick) {w : Nat} {s0 s : State} (hw : 71502990426181 &&& w = 71502990426181) (h : Keeps w s0 s) :
    Keeps w s0 (onMulchBlockDone x0 x1 x2 s) := by
  unfold onMulchBlockDone
  repeat' first
    | with_reducible exact h
    | exact mask_trans (by decide) hw
    | with_reducible apply advance_keeps
    | with_reducible apply mulchDone_keeps

/-- `engineStops` may change: mcd. -/
theorem engineStops_keeps (x0 : ℕ) {w : Nat} {s0 s : State} (hw : 524288 &&& w = 524288) (h : Keeps w s0 s) :
    Keeps w s0 (engineStops x0 s) := by
  unfold engineStops
  repeat' first
    | with_reducible exact h
    | (extract_lets +onlyGivenNames a; clear_value a)
    | fail_if_no_progress (with_reducible refine Keeps.set_mcd ?_ (mask_trans (by decide) hw) _)

end Sys2Proof.Machine
end

