-- ==== Sys2Proof/Laws/KeepTrl.lean ====
section
/-! SUPPORT. What each operation of Machine/Trl.lean may change: one lemma per operation, by the bits of the parts
of State (Sys2Proof.Machine.Part.bit). -/

namespace Sys2Proof.Machine

/-- `acceptDn` may change: regs, queues, portUp, portDn, cascade, vectors, messages, freeIdx. -/
theorem acceptDn_keeps (x0 : List Byte) {w : Nat} {s0 s : State} (hw : 71503254126593 &&& w = 71503254126593) (h : Keeps w s0 s) :
    Keeps w s0 (acceptDn x0 s) := by
  unfold acceptDn
  repeat' first
    | with_reducible exact h
    | (extract_lets +onlyGivenNames a; (have y : PlkSt := a; clear y); dsimp -zeta only [a]; clear a)
    | (extract_lets +onlyGivenNames a; (have y : TrlSt := a; clear y); dsimp -zeta only [a]; clear a)
    | (extract_lets +onlyGivenNames a; clear_value a)
    | exact mask_trans (by decide) hw
    | with_reducible apply sendMsg_keeps
    | fail_if_no_progress (with_reducible refine Keeps.set_plk_portDn_trl_cascade ?_ (mask_trans (by decide) hw) _ (by first | ((with_reducible repeat' constructor); done) | (split <;> repeat' constructor)) _ (by first | ((with_reducible repeat' constructor); done) | (split <;> repeat' constructor)))

/-- `chainShort` may change: regs, vectors, messages. -/
theorem chainShort_keeps  {w : Nat} {s0 s : State} (hw : 1133871366145 &&& w = 1133871366145) (h : Keeps w s0 s) :
    Keeps w s0 (chainShort s) := by
  unfold chainShort
  repeat' first
    | with_reducible exact h
    | with_reducible assumption
    | exact mask_trans (by decide) hw
    | with_reducible apply fault_keeps
    | with_reducible apply stick_keeps

/-- `noteGrants` may change: cascade. -/
theorem noteGrants_keeps (x0 : List Byte) {w : Nat} {s0 s : State} (hw : 536870912 &&& w = 536870912) (h : Keeps w s0 s) :
    Keeps w s0 (noteGrants x0 s) := by
  unfold noteGrants
  repeat' first
    | with_reducible exact h
    | (extract_lets +onlyGivenNames a; (have y : TrlSt := a; clear y); dsimp -zeta only [a]; clear a)
    | fail_if_no_progress (with_reducible refine Keeps.set_trl_cascade ?_ (mask_trans (by decide) hw) _ (by first | ((with_reducible repeat' constructor); done) | (split <;> repeat' constructor)))

/-- `modeRefused` may change: regs, vectors, messages. -/
theorem modeRefused_keeps  {w : Nat} {s0 s : State} (hw : 1133871366145 &&& w = 1133871366145) (h : Keeps w s0 s) :
    Keeps w s0 (modeRefused s) := by
  unfold modeRefused
  repeat' first
    | with_reducible exact h
    | with_reducible assumption
    | exact mask_trans (by decide) hw
    | with_reducible apply fault_keeps
    | with_reducible apply stick_keeps

/-- `stagePlans` may change: esq, fib. -/
theorem stagePlans_keeps  {w : Nat} {s0 s : State} (hw : 5120 &&& w = 5120) (h : Keeps w s0 s) :
    Keeps w s0 (stagePlans s) := by
  unfold stagePlans
  repeat' first
    | with_reducible exact h
    | (extract_lets +onlyGivenNames a; clear_value a)
    | split
    | fail_if_no_progress (with_reducible refine Keeps.set_esq_fib ?_ (mask_trans (by decide) hw) _ _)

/-- `step9End` may change: regs, cfg, boot, esq, fib. -/
theorem step9End_keeps  {w : Nat} {s0 s : State} (hw : 5131 &&& w = 5131) (h : Keeps w s0 s) :
    Keeps w s0 (step9End s) := by
  unfold step9End
  repeat' first
    | with_reducible exact h
    | with_reducible assumption
    | (extract_lets +onlyGivenNames a; with_reducible refine Keeps.cut (w := w) (s := s0) a ?_ (fun ha => ?_); (on_goal 2 => clear_value a); (on_goal 1 => (dsimp -zeta only [a]; clear a)))
    | (extract_lets +onlyGivenNames a; (have y : BootSt := a; clear y); dsimp -zeta only [a]; clear a)
    | (extract_lets +onlyGivenNames a; clear_value a)
    | exact mask_trans (by decide) hw
    | with_reducible apply stagePlans_keeps
    | with_reducible apply wr_keeps
    | with_reducible apply Keeps.ite
    | split
    | fail_if_no_progress (with_reducible refine Keeps.set_boot_boot ?_ (mask_trans (by decide) hw) _ (by first | ((with_reducible repeat' constructor); done) | (split <;> repeat' constructor)))
    | fail_if_no_progress (with_reducible refine Keeps.set_cfg ?_ (mask_trans (by decide) hw) _)

/-- `startTaken` may change: regs, cfg, boot, esq, hse, fib, cascade, vectors, messages. -/
theorem startTaken_keeps (x0 : Tick) (x1 : List Byte) {w : Nat} {s0 s : State} (hw : 1134408244235 &&& w = 1134408244235) (h : Keeps w s0 s) :
    Keeps w s0 (startTaken x0 x1 s) := by
  unfold startTaken
  repeat' first
    | with_reducible exact h
    | with_reducible assumption
    | (extract_lets +onlyGivenNames a; with_reducible refine Keeps.cut (w := w) (s := s0) a ?_ (fun ha => ?_); (on_goal 2 => clear_value a); (on_goal 1 => (dsimp -zeta only [a]; clear a)))
    | (extract_lets +onlyGivenNames a; (have y : TrlSt := a; clear y); dsimp -zeta only [a]; clear a)
    | (extract_lets +onlyGivenNames a; clear_value a)
    | exact mask_trans (by decide) hw
    | with_reducible apply modeRefused_keeps
    | with_reducible apply step9End_keeps
    | with_reducible apply Keeps.ite
    | split
    | fail_if_no_progress (with_reducible refine Keeps.set_hse_trl_cascade ?_ (mask_trans (by decide) hw) _ _ (by first | ((with_reducible repeat' constructor); done) | (split <;> repeat' constructor)))

/-- `finishEnum` may change: regs, cfg, boot, esq, hse, fib, queues, portUp, portDn, cascade, vectors, messages, freeIdx. -/
theorem finishEnum_keeps (x0 : Bool) {w : Nat} {s0 s : State} (hw : 71503254133771 &&& w = 71503254133771) (h : Keeps w s0 s) :
    Keeps w s0 (finishEnum x0 s) := by
  unfold finishEnum
  repeat' first
    | with_reducible exact h
    | with_reducible assumption
    | (extract_lets +onlyGivenNames a; with_reducible refine Keeps.cut (w := w) (s := s0) a ?_ (fun ha => ?_); (on_goal 2 => clear_value a); (on_goal 1 => (dsimp -zeta only [a]; clear a)))
    | (extract_lets +onlyGivenNames a; (have y : TrlSt := a; clear y); dsimp -zeta only [a]; clear a)
    | (extract_lets +onlyGivenNames a; clear_value a)
    | exact mask_trans (by decide) hw
    | with_reducible apply chainShort_keeps
    | with_reducible apply noteGrants_keeps
    | with_reducible apply raise_keeps
    | with_reducible apply sendMsg_keeps
    | with_reducible apply startTaken_keeps
    | with_reducible apply useFree_keeps
    | with_reducible apply Keeps.ite
    | fail_if_no_progress (with_reducible refine Keeps.set_trl_cascade ?_ (mask_trans (by decide) hw) _ (by first | ((with_reducible repeat' constructor); done) | (split <;> repeat' constructor)))

/-- `endEnum` may change: regs, cfg, boot, esq, hse, fib, queues, portUp, portDn, cascade, vectors, messages, freeIdx. -/
theorem endEnum_keeps (x0 : Bool) {w : Nat} {s0 s : State} (hw : 71503254133771 &&& w = 71503254133771) (h : Keeps w s0 s) :
    Keeps w s0 (endEnum x0 s) := by
  unfold endEnum
  repeat' first
    | with_reducible exact h
    | with_reducible assumption
    | (extract_lets +onlyGivenNames a; (have y : TrlSt := a; clear y); dsimp -zeta only [a]; clear a)
    | with_reducible apply finishEnum_keeps
    | fail_if_no_progress (with_reducible refine Keeps.set_trl_cascade ?_ (mask_trans (by decide) hw) _ (by first | ((with_reducible repeat' constructor); done) | (split <;> repeat' constructor)))

/-- `hostile` may change: regs, queues, portUp, portDn, vectors, messages, freeIdx. -/
theorem hostile_keeps (x0 : Port) (x1 : ℕ) {w : Nat} {s0 s : State} (hw : 71502717255681 &&& w = 71502717255681) (h : Keeps w s0 s) :
    Keeps w s0 (hostile x0 x1 s) := by
  unfold hostile
  repeat' first
    | with_reducible exact h
    | with_reducible assumption
    | (extract_lets +onlyGivenNames a; with_reducible refine Keeps.cut (w := w) (s := s0) a ?_ (fun ha => ?_); (on_goal 2 => clear_value a); (on_goal 1 => (dsimp -zeta only [a]; clear a)))
    | (extract_lets +onlyGivenNames a; clear_value a)
    | exact mask_trans (by decide) hw
    | with_reducible apply bump_keeps
    | with_reducible apply fault_keeps
    | with_reducible apply sendMsg_keeps
    | with_reducible apply setPort_keeps
    | with_reducible apply stick_keeps
    | split

/-- `reportCap` may change: regs, queues, portUp, portDn, vectors, messages, freeIdx. -/
theorem reportCap_keeps  {w : Nat} {s0 s : State} (hw : 71502717255681 &&& w = 71502717255681) (h : Keeps w s0 s) :
    Keeps w s0 (reportCap s) := by
  unfold reportCap
  repeat' first
    | with_reducible exact h
    | with_reducible assumption
    | with_reducible apply toMaster_keeps

/-- `onAttestVerifyDone` may change: regs, cfg, boot, tb, esq, hse, fib, queues, portUp, portDn, cascade, vectors, messages, freeIdx. -/
theorem onAttestVerifyDone_keeps (x0 : Port) (x1 : Tick) {w : Nat} {s0 s : State} (hw : 71503254133835 &&& w = 71503254133835) (h : Keeps w s0 s) :
    Keeps w s0 (onAttestVerifyDone x0 x1 s) := by
  unfold onAttestVerifyDone
  repeat' first
    | with_reducible exact h
    | with_reducible assumption
    | (extract_lets +onlyGivenNames a; with_reducible refine Keeps.cut (w := w) (s := s0) a ?_ (fun ha => ?_); (on_goal 2 => clear_value a); (on_goal 1 => (dsimp -zeta only [a]; clear a)))
    | (extract_lets +onlyGivenNames a; (have y : TrlSt := a; clear y); dsimp -zeta only [a]; clear a)
    | exact mask_trans (by decide) hw
    | with_reducible apply acceptDn_keeps
    | with_reducible apply advance_keeps
    | with_reducible apply endEnum_keeps
    | with_reducible apply hostile_keeps
    | with_reducible apply reportCap_keeps
    | with_reducible apply Keeps.ite
    | split
    | fail_if_no_progress (with_reducible refine Keeps.set_trl_cascade ?_ (mask_trans (by decide) hw) _ (by first | ((with_reducible repeat' constructor); done) | (split <;> repeat' constructor)))

/-- `dropBeyond` may change: regs, queues, merging, cascade, vectors, messages. -/
theorem dropBeyond_keeps (x0 : ℕ) {w : Nat} {s0 s : State} (hw : 1134677721089 &&& w = 1134677721089) (h : Keeps w s0 s) :
    Keeps w s0 (dropBeyond x0 s) := by
  unfold dropBeyond
  repeat' first
    | with_reducible exact h
    | with_reducible assumption
    | (extract_lets +onlyGivenNames a; with_reducible refine Keeps.cut (w := w) (s := s0) a ?_ (fun ha => ?_); (on_goal 2 => clear_value a); (on_goal 1 => (dsimp -zeta only [a]; clear a)))
    | (extract_lets +onlyGivenNames a; (have y : TrlSt := a; clear y); dsimp -zeta only [a]; clear a)
    | (extract_lets +onlyGivenNames a; clear_value a)
    | exact mask_trans (by decide) hw
    | with_reducible apply chainShort_keeps
    | with_reducible apply tryRelease_keeps
    | with_reducible apply Keeps.ite
    | (with_reducible apply Keeps.foldl; intros)
    | fail_if_no_progress (with_reducible refine Keeps.set_trl_cascade ?_ (mask_trans (by decide) hw) _ (by first | ((with_reducible repeat' constructor); done) | (split <;> repeat' constructor)))

/-- `partnersGone` may change: regs, cascade, vectors, messages. -/
theorem partnersGone_keeps (x0 : ℕ → Bool) {w : Nat} {s0 s : State} (hw : 1134408237057 &&& w = 1134408237057) (h : Keeps w s0 s) :
    Keeps w s0 (partnersGone x0 s) := by
  unfold partnersGone
  repeat' first
    | with_reducible exact h
    | (extract_lets +onlyGivenNames a; (have y : TrlSt := a; clear y); dsimp -zeta only [a]; clear a)
    | exact mask_trans (by decide) hw
    | with_reducible apply modeRefused_keeps
    | with_reducible apply Keeps.ite
    | fail_if_no_progress (with_reducible refine Keeps.set_trl_cascade ?_ (mask_trans (by decide) hw) _ (by first | ((with_reducible repeat' constructor); done) | (split <;> repeat' constructor)))

/-- `freshNonce` may change: cascade, freeIdx. -/
theorem freshNonce_keeps  {w : Nat} {s0 s : State} (hw : 70369281048576 &&& w = 70369281048576) (h : Keeps w s0 s) :
    Keeps w s0 (freshNonce s) := by
  unfold freshNonce
  repeat' first
    | with_reducible exact h
    | (extract_lets +onlyGivenNames a; (have y : TrlSt := a; clear y); dsimp -zeta only [a]; clear a)
    | exact mask_trans (by decide) hw
    | with_reducible apply useFree_keeps
    | fail_if_no_progress (with_reducible refine Keeps.set_trl_cascade ?_ (mask_trans (by decide) hw) _ (by first | ((with_reducible repeat' constructor); done) | (split <;> repeat' constructor)))

/-- `sendEnum` may change: regs, queues, portUp, portDn, vectors, messages, freeIdx. -/
theorem sendEnum_keeps  {w : Nat} {s0 s : State} (hw : 71502717255681 &&& w = 71502717255681) (h : Keeps w s0 s) :
    Keeps w s0 (sendEnum s) := by
  unfold sendEnum
  repeat' first
    | with_reducible exact h
    | with_reducible assumption
    | with_reducible apply sendAwait_keeps

/-- `linkSettled` may change: regs, cfg, boot, esq, hse, fib, queues, portUp, portDn, cascade, vectors, messages, freeIdx. -/
theorem linkSettled_keeps  {w : Nat} {s0 s : State} (hw : 71503254133771 &&& w = 71503254133771) (h : Keeps w s0 s) :
    Keeps w s0 (linkSettled s) := by
  unfold linkSettled
  repeat' first
    | with_reducible exact h
    | with_reducible assumption
    | (extract_lets +onlyGivenNames a; with_reducible refine Keeps.cut (w := w) (s := s0) a ?_ (fun ha => ?_); (on_goal 2 => clear_value a); (on_goal 1 => (dsimp -zeta only [a]; clear a)))
    | (extract_lets +onlyGivenNames a; (have y : TrlSt := a; clear y); dsimp -zeta only [a]; clear a)
    | (extract_lets +onlyGivenNames a; clear_value a)
    | exact mask_trans (by decide) hw
    | with_reducible apply endEnum_keeps
    | with_reducible apply freshNonce_keeps
    | with_reducible apply reportCap_keeps
    | with_reducible apply sendEnum_keeps
    | with_reducible apply step9End_keeps
    | with_reducible apply Keeps.ite
    | fail_if_no_progress (with_reducible refine Keeps.set_trl_cascade ?_ (mask_trans (by decide) hw) _ (by first | ((with_reducible repeat' constructor); done) | (split <;> repeat' constructor)))

/-- `reenumerate` may change: regs, queues, portUp, portDn, cascade, vectors, messages, freeIdx. -/
theorem reenumerate_keeps (x0 : ℕ) {w : Nat} {s0 s : State} (hw : 71503254126593 &&& w = 71503254126593) (h : Keeps w s0 s) :
    Keeps w s0 (reenumerate x0 s) := by
  unfold reenumerate
  repeat' first
    | with_reducible exact h
    | with_reducible assumption
    | (extract_lets +onlyGivenNames a; with_reducible refine Keeps.cut (w := w) (s := s0) a ?_ (fun ha => ?_); (on_goal 2 => clear_value a); (on_goal 1 => (dsimp -zeta only [a]; clear a)))
    | (extract_lets +onlyGivenNames a; (have y : TrlSt := a; clear y); dsimp -zeta only [a]; clear a)
    | exact mask_trans (by decide) hw
    | with_reducible apply sendMsg_keeps
    | with_reducible apply useFree_keeps
    | with_reducible apply Keeps.ite
    | fail_if_no_progress (with_reducible refine Keeps.set_trl_cascade ?_ (mask_trans (by decide) hw) _ (by first | ((with_reducible repeat' constructor); done) | (split <;> repeat' constructor)))

/-- `onAttest` may change: portUp, portDn, cascade. -/
theorem onAttest_keeps (x0 : Attestation) {w : Nat} {s0 s : State} (hw : 637534208 &&& w = 637534208) (h : Keeps w s0 s) :
    Keeps w s0 (onAttest x0 s) := by
  unfold onAttest
  repeat' first
    | with_reducible exact h
    | with_reducible assumption
    | (extract_lets +onlyGivenNames a; with_reducible refine Keeps.cut (w := w) (s := s0) a ?_ (fun ha => ?_); (on_goal 2 => clear_value a); (on_goal 1 => (dsimp -zeta only [a]; clear a)))
    | (extract_lets +onlyGivenNames a; (have y : PlkSt := a; clear y); dsimp -zeta only [a]; clear a)
    | (extract_lets +onlyGivenNames a; (have y : TrlSt := a; clear y); dsimp -zeta only [a]; clear a)
    | (extract_lets +onlyGivenNames a; clear_value a)
    | exact mask_trans (by decide) hw
    | with_reducible apply received_keeps
    | with_reducible apply Keeps.ite
    | fail_if_no_progress (with_reducible refine Keeps.set_plk_portDn_trl_cascade ?_ (mask_trans (by decide) hw) _ (by first | ((with_reducible repeat' constructor); done) | (split <;> repeat' constructor)) _ (by first | ((with_reducible repeat' constructor); done) | (split <;> repeat' constructor)))

/-- `onEnum` may change: regs, queues, portUp, portDn, cascade, vectors, messages, freeIdx. -/
theorem onEnum_keeps (x0 : BitVec 4) (x1 : List Byte) (x2 : Attestation) {w : Nat} {s0 s : State} (hw : 71503254126593 &&& w = 71503254126593) (h : Keeps w s0 s) :
    Keeps w s0 (onEnum x0 x1 x2 s) := by
  unfold onEnum
  repeat' first
    | with_reducible exact h
    | with_reducible assumption
    | (extract_lets +onlyGivenNames a; with_reducible refine Keeps.cut (w := w) (s := s0) a ?_ (fun ha => ?_); (on_goal 2 => clear_value a); (on_goal 1 => (dsimp -zeta only [a]; clear a)))
    | (extract_lets +onlyGivenNames a; (have y : TrlSt := a; clear y); dsimp -zeta only [a]; clear a)
    | exact mask_trans (by decide) hw
    | with_reducible apply received_keeps
    | with_reducible apply sendMsg_keeps
    | with_reducible apply Keeps.ite
    | fail_if_no_progress (with_reducible refine Keeps.set_trl_cascade ?_ (mask_trans (by decide) hw) _ (by first | ((with_reducible repeat' constructor); done) | (split <;> repeat' constructor)))

/-- `onFrameClose` may change: regs, queues, portUp, portDn, merging, vectors, messages, freeIdx. -/
theorem onFrameClose_keeps (x0 : BitVec 4) (x1 : BitVec 6) (x2 : BitVec 6) (x3 : BitVec 24) {w : Nat} {s0 s : State} (hw : 71502985691137 &&& w = 71502985691137) (h : Keeps w s0 s) :
    Keeps w s0 (onFrameClose x0 x1 x2 x3 s) := by
  unfold onFrameClose
  repeat' first
    | with_reducible exact h
    | with_reducible assumption
    | (extract_lets +onlyGivenNames a; with_reducible refine Keeps.cut (w := w) (s := s0) a ?_ (fun ha => ?_); (on_goal 2 => clear_value a); (on_goal 1 => (dsimp -zeta only [a]; clear a)))
    | (extract_lets +onlyGivenNames a; clear_value a)
    | exact mask_trans (by decide) hw
    | with_reducible apply mergeClose_keeps
    | with_reducible apply received_keeps
    | with_reducible apply toMaster_keeps
    | with_reducible apply Keeps.ite

/-- `onStart` may change: regs, cfg, boot, tb, esq, hse, fib, queues, portUp, portDn, cascade, vectors, messages, freeIdx. -/
theorem onStart_keeps (x0 : Tick) (x1 : List Byte) (x2 : Tick) {w : Nat} {s0 s : State} (hw : 71503254133835 &&& w = 71503254133835) (h : Keeps w s0 s) :
    Keeps w s0 (onStart x0 x1 x2 s) := by
  unfold onStart
  repeat' first
    | with_reducible exact h
    | with_reducible assumption
    | (extract_lets +onlyGivenNames a; with_reducible refine Keeps.cut (w := w) (s := s0) a ?_ (fun ha => ?_); (on_goal 2 => clear_value a); (on_goal 1 => (dsimp -zeta only [a]; clear a)))
    | exact mask_trans (by decide) hw
    | with_reducible apply advance_keeps
    | with_reducible apply received_keeps
    | with_reducible apply sendMsg_keeps
    | with_reducible apply startTaken_keeps
    | with_reducible apply Keeps.ite

/-- `onJoin` may change: regs, queues, portUp, portDn, cascade, vectors, messages, freeIdx. -/
theorem onJoin_keeps (x0 : BitVec 4) (x1 : BitVec 24) {w : Nat} {s0 s : State} (hw : 71503254126593 &&& w = 71503254126593) (h : Keeps w s0 s) :
    Keeps w s0 (onJoin x0 x1 s) := by
  unfold onJoin
  repeat' first
    | with_reducible exact h
    | with_reducible assumption
    | (extract_lets +onlyGivenNames a; with_reducible refine Keeps.cut (w := w) (s := s0) a ?_ (fun ha => ?_); (on_goal 2 => clear_value a); (on_goal 1 => (dsimp -zeta only [a]; clear a)))
    | (extract_lets +onlyGivenNames a; (have y : TrlSt := a; clear y); dsimp -zeta only [a]; clear a)
    | exact mask_trans (by decide) hw
    | with_reducible apply raise_keeps
    | with_reducible apply received_keeps
    | with_reducible apply sendMsg_keeps
    | with_reducible apply Keeps.ite
    | fail_if_no_progress (with_reducible refine Keeps.set_trl_cascade ?_ (mask_trans (by decide) hw) _ (by first | ((with_reducible repeat' constructor); done) | (split <;> repeat' constructor)))

/-- `onReenum` may change: regs, queues, portUp, portDn, cascade, vectors, messages, freeIdx. -/
theorem onReenum_keeps (x0 : BitVec 4) (x1 : List Byte) {w : Nat} {s0 s : State} (hw : 71503254126593 &&& w = 71503254126593) (h : Keeps w s0 s) :
    Keeps w s0 (onReenum x0 x1 s) := by
  unfold onReenum
  repeat' first
    | with_reducible exact h
    | with_reducible assumption
    | (extract_lets +onlyGivenNames a; with_reducible refine Keeps.cut (w := w) (s := s0) a ?_ (fun ha => ?_); (on_goal 2 => clear_value a); (on_goal 1 => (dsimp -zeta only [a]; clear a)))
    | (extract_lets +onlyGivenNames a; (have y : TrlSt := a; clear y); dsimp -zeta only [a]; clear a)
    | exact mask_trans (by decide) hw
    | with_reducible apply received_keeps
    | with_reducible apply sendMsg_keeps
    | with_reducible apply Keeps.ite
    | fail_if_no_progress (with_reducible refine Keeps.set_trl_cascade ?_ (mask_trans (by decide) hw) _ (by first | ((with_reducible repeat' constructor); done) | (split <;> repeat' constructor)))

/-- `onMergeWaitExpire` may change: queues, merging. -/
theorem onMergeWaitExpire_keeps (x0 : BitVec 6) (x1 : BitVec 6) (x2 : BitVec 24) {w : Nat} {s0 s : State} (hw : 269484032 &&& w = 269484032) (h : Keeps w s0 s) :
    Keeps w s0 (onMergeWaitExpire x0 x1 x2 s) := by
  unfold onMergeWaitExpire
  repeat' first
    | with_reducible exact h
    | with_reducible assumption
    | (extract_lets +onlyGivenNames a; clear_value a)
    | with_reducible apply releaseTo_keeps
    | with_reducible apply Keeps.ite

/-- `onAccept` may change: regs, queues, portUp, portDn, cascade, vectors, messages, freeIdx. -/
theorem onAccept_keeps (x0 : BitVec 4) {w : Nat} {s0 s : State} (hw : 71503254126593 &&& w = 71503254126593) (h : Keeps w s0 s) :
    Keeps w s0 (onAccept x0 s) := by
  unfold onAccept
  repeat' first
    | with_reducible exact h
    | with_reducible assumption
    | (extract_lets +onlyGivenNames a; with_reducible refine Keeps.cut (w := w) (s := s0) a ?_ (fun ha => ?_); (on_goal 2 => clear_value a); (on_goal 1 => (dsimp -zeta only [a]; clear a)))
    | (extract_lets +onlyGivenNames a; (have y : PlkSt := a; clear y); dsimp -zeta only [a]; clear a)
    | (extract_lets +onlyGivenNames a; (have y : TrlSt := a; clear y); dsimp -zeta only [a]; clear a)
    | (extract_lets +onlyGivenNames a; clear_value a)
    | exact mask_trans (by decide) hw
    | with_reducible apply received_keeps
    | with_reducible apply reportCap_keeps
    | with_reducible apply sendEnum_keeps
    | with_reducible apply Keeps.ite
    | split
    | fail_if_no_progress (with_reducible refine Keeps.set_plk_portUp_portDn_trl_cascade ?_ (mask_trans (by decide) hw) _ (by first | ((with_reducible repeat' constructor); done) | (split <;> repeat' constructor)) _ (by first | ((with_reducible repeat' constructor); done) | (split <;> repeat' constructor)))

/-- `onEnumTimeout` may change: regs, cfg, boot, tb, esq, hse, fib, queues, portUp, portDn, cascade, vectors, messages, freeIdx. -/
theorem onEnumTimeout_keeps (x0 : Tick) {w : Nat} {s0 s : State} (hw : 71503254133835 &&& w = 71503254133835) (h : Keeps w s0 s) :
    Keeps w s0 (onEnumTimeout x0 s) := by
  unfold onEnumTimeout
  repeat' first
    | with_reducible exact h
    | with_reducible assumption
    | (extract_lets +onlyGivenNames a; with_reducible refine Keeps.cut (w := w) (s := s0) a ?_ (fun ha => ?_); (on_goal 2 => clear_value a); (on_goal 1 => (dsimp -zeta only [a]; clear a)))
    | (extract_lets +onlyGivenNames a; (have y : PlkSt := a; clear y); dsimp -zeta only [a]; clear a)
    | (extract_lets +onlyGivenNames a; (have y : TrlSt := a; clear y); dsimp -zeta only [a]; clear a)
    | (extract_lets +onlyGivenNames a; clear_value a)
    | exact mask_trans (by decide) hw
    | with_reducible apply advance_keeps
    | with_reducible apply endEnum_keeps
    | with_reducible apply fault_keeps
    | with_reducible apply step9End_keeps
    | with_reducible apply Keeps.ite
    | fail_if_no_progress (with_reducible refine Keeps.set_plk_portDn_trl_cascade ?_ (mask_trans (by decide) hw) _ (by first | ((with_reducible repeat' constructor); done) | (split <;> repeat' constructor)) _ (by first | ((with_reducible repeat' constructor); done) | (split <;> repeat' constructor)))

/-- `refMismatch` may change: regs, vectors, messages. -/
theorem refMismatch_keeps  {w : Nat} {s0 s : State} (hw : 1133871366145 &&& w = 1133871366145) (h : Keeps w s0 s) :
    Keeps w s0 (refMismatch s) := by
  unfold refMismatch
  repeat' first
    | with_reducible exact h
    | with_reducible assumption
    | exact mask_trans (by decide) hw
    | with_reducible apply post_keeps
    | with_reducible apply raise_keeps
    | (with_reducible apply Keeps.foldl; intros)

/-- `alignAverage` may change: regs, cascade, vectors, messages, freeIdx. -/
theorem alignAverage_keeps  {w : Nat} {s0 s : State} (hw : 71503152414721 &&& w = 71503152414721) (h : Keeps w s0 s) :
    Keeps w s0 (alignAverage s) := by
  unfold alignAverage
  repeat' first
    | with_reducible exact h
    | with_reducible assumption
    | (extract_lets +onlyGivenNames a; with_reducible refine Keeps.cut (w := w) (s := s0) a ?_ (fun ha => ?_); (on_goal 2 => clear_value a); (on_goal 1 => (dsimp -zeta only [a]; clear a)))
    | (extract_lets +onlyGivenNames a; (have y : TrlSt := a; clear y); dsimp -zeta only [a]; clear a)
    | (extract_lets +onlyGivenNames a; clear_value a)
    | exact mask_trans (by decide) hw
    | with_reducible apply fault_keeps
    | with_reducible apply quantUsed_keeps
    | with_reducible apply refMismatch_keeps
    | with_reducible apply stick_keeps
    | with_reducible apply Keeps.ite
    | fail_if_no_progress (with_reducible refine Keeps.set_trl_cascade ?_ (mask_trans (by decide) hw) _ (by first | ((with_reducible repeat' constructor); done) | (split <;> repeat' constructor)))

/-- `finishJoin` may change: regs, cfg, boot, esq, hse, fib, queues, portUp, portDn, cascade, vectors, messages, freeIdx. -/
theorem finishJoin_keeps  {w : Nat} {s0 s : State} (hw : 71503254133771 &&& w = 71503254133771) (h : Keeps w s0 s) :
    Keeps w s0 (finishJoin s) := by
  unfold finishJoin
  repeat' first
    | with_reducible exact h
    | with_reducible assumption
    | (extract_lets +onlyGivenNames a; with_reducible refine Keeps.cut (w := w) (s := s0) a ?_ (fun ha => ?_); (on_goal 2 => clear_value a); (on_goal 1 => (dsimp -zeta only [a]; clear a)))
    | (extract_lets +onlyGivenNames a; (have y : TrlSt := a; clear y); dsimp -zeta only [a]; clear a)
    | (extract_lets +onlyGivenNames a; clear_value a)
    | exact mask_trans (by decide) hw
    | with_reducible apply raise_keeps
    | with_reducible apply sendMsg_keeps
    | with_reducible apply startTaken_keeps
    | with_reducible apply useFree_keeps
    | with_reducible apply Keeps.ite
    | split
    | fail_if_no_progress (with_reducible refine Keeps.set_trl_cascade ?_ (mask_trans (by decide) hw) _ (by first | ((with_reducible repeat' constructor); done) | (split <;> repeat' constructor)))

/-- `opticalLengths` may change: lanes, freeIdx. -/
theorem opticalLengths_keeps (x0 : Port) {w : Nat} {s0 s : State} (hw : 70368878395392 &&& w = 70368878395392) (h : Keeps w s0 s) :
    Keeps w s0 (opticalLengths x0 s) := by
  unfold opticalLengths
  repeat' first
    | with_reducible exact h
    | with_reducible assumption
    | with_reducible apply updateLength_keeps
    | with_reducible apply Keeps.ite
    | (with_reducible apply Keeps.foldl; intros)

/-- `onAlign` may change: regs, cfg, boot, tb, esq, hse, fib, queues, portUp, portDn, lanes, cascade, vectors, messages, freeIdx. -/
theorem onAlign_keeps (x0 : Port) (x1 : ℕ) (x2 : Tick) (x3 : Tick) (x4 : Tick) {w : Nat} {s0 s : State} (hw : 71503388351563 &&& w = 71503388351563) (h : Keeps w s0 s) :
    Keeps w s0 (onAlign x0 x1 x2 x3 x4 s) := by
  unfold onAlign
  repeat' first
    | with_reducible exact h
    | with_reducible assumption
    | (extract_lets +onlyGivenNames a; with_reducible refine Keeps.cut (w := w) (s := s0) a ?_ (fun ha => ?_); (on_goal 2 => clear_value a); (on_goal 1 => (dsimp -zeta only [a]; clear a)))
    | (extract_lets +onlyGivenNames a; (have y : TrlSt := a; clear y); dsimp -zeta only [a]; clear a)
    | (extract_lets +onlyGivenNames a; clear_value a)
    | exact mask_trans (by decide) hw
    | with_reducible apply advance_keeps
    | with_reducible apply alignAverage_keeps
    | with_reducible apply finishEnum_keeps
    | with_reducible apply finishJoin_keeps
    | with_reducible apply opticalLengths_keeps
    | with_reducible apply quantUsed_keeps
    | with_reducible apply received_keeps
    | with_reducible apply Keeps.ite
    | split
    | fail_if_no_progress (with_reducible refine Keeps.set_trl_cascade ?_ (mask_trans (by decide) hw) _ (by first | ((with_reducible repeat' constructor); done) | (split <;> repeat' constructor)))

/-- `onReject` may change: portUp, portDn, cascade. -/
theorem onReject_keeps (x0 : Port) (x1 : Byte) {w : Nat} {s0 s : State} (hw : 637534208 &&& w = 637534208) (h : Keeps w s0 s) :
    Keeps w s0 (onReject x0 x1 s) := by
  unfold onReject
  repeat' first
    | with_reducible exact h
    | with_reducible assumption
    | (extract_lets +onlyGivenNames a; with_reducible refine Keeps.cut (w := w) (s := s0) a ?_ (fun ha => ?_); (on_goal 2 => clear_value a); (on_goal 1 => (dsimp -zeta only [a]; clear a)))
    | (extract_lets +onlyGivenNames a; (have y : PlkSt := a; clear y); dsimp -zeta only [a]; clear a)
    | (extract_lets +onlyGivenNames a; (have y : TrlSt := a; clear y); dsimp -zeta only [a]; clear a)
    | (extract_lets +onlyGivenNames a; clear_value a)
    | exact mask_trans (by decide) hw
    | with_reducible apply received_keeps
    | split
    | fail_if_no_progress (with_reducible refine Keeps.set_plk_portUp_portDn ?_ (mask_trans (by decide) hw) _ (by first | ((with_reducible repeat' constructor); done) | (split <;> repeat' constructor)))
    | fail_if_no_progress (with_reducible refine Keeps.set_plk_portUp_portDn_trl_cascade ?_ (mask_trans (by decide) hw) _ (by first | ((with_reducible repeat' constructor); done) | (split <;> repeat' constructor)) _ (by first | ((with_reducible repeat' constructor); done) | (split <;> repeat' constructor)))

/-- `onForwardedItem` may change: regs, tb, queues, portUp, portDn, merging, vectors, messages, freeIdx. -/
theorem onForwardedItem_keeps (x0 : Item) (x1 : Tick) {w : Nat} {s0 s : State} (hw : 71502985691201 &&& w = 71502985691201) (h : Keeps w s0 s) :
    Keeps w s0 (onForwardedItem x0 x1 s) := by
  unfold onForwardedItem
  repeat' first
    | with_reducible exact h
    | with_reducible assumption
    | (extract_lets +onlyGivenNames a; with_reducible refine Keeps.cut (w := w) (s := s0) a ?_ (fun ha => ?_); (on_goal 2 => clear_value a); (on_goal 1 => (dsimp -zeta only [a]; clear a)))
    | (extract_lets +onlyGivenNames a; (have y : TrlSt := a; clear y); dsimp -zeta only [a]; clear a)
    | (extract_lets +onlyGivenNames a; clear_value a)
    | exact mask_trans (by decide) hw
    | with_reducible apply advance_keeps
    | with_reducible apply mergeAdd_keeps
    | with_reducible apply pushBP_keeps
    | with_reducible apply sendBlock_keeps
    | with_reducible apply sendUp_keeps
    | with_reducible apply setPort_keeps
    | with_reducible apply Keeps.ite
    | fail_if_no_progress (with_reducible refine Keeps.set_trl_merging ?_ (mask_trans (by decide) hw) _ (by first | ((with_reducible repeat' constructor); done) | (split <;> repeat' constructor)))

/-- `onSignDone` may change: regs, tb, queues, portUp, portDn, merging, cascade, vectors, messages, freeIdx. -/
theorem onSignDone_keeps (x0 : List Byte) (x1 : Tick) {w : Nat} {s0 s : State} (hw : 71503522562113 &&& w = 71503522562113) (h : Keeps w s0 s) :
    Keeps w s0 (onSignDone x0 x1 s) := by
  unfold onSignDone
  repeat' first
    | with_reducible exact h
    | with_reducible assumption
    | (extract_lets +onlyGivenNames a; with_reducible refine Keeps.cut (w := w) (s := s0) a ?_ (fun ha => ?_); (on_goal 2 => clear_value a); (on_goal 1 => (dsimp -zeta only [a]; clear a)))
    | (extract_lets +onlyGivenNames a; (have y : TrlSt := a; clear y); dsimp -zeta only [a]; clear a)
    | exact mask_trans (by decide) hw
    | with_reducible apply advance_keeps
    | with_reducible apply sendAwait_keeps
    | with_reducible apply sendEnum_keeps
    | split
    | fail_if_no_progress (with_reducible refine Keeps.set_trl ?_ (mask_trans (by decide) hw) _)

/-- `linkBegin` may change: regs, cfg, boot, esq, hse, fib, queues, portUp, portDn, cascade, vectors, messages, freeIdx. -/
theorem linkBegin_keeps  {w : Nat} {s0 s : State} (hw : 71503254133771 &&& w = 71503254133771) (h : Keeps w s0 s) :
    Keeps w s0 (linkBegin s) := by
  unfold linkBegin
  repeat' first
    | with_reducible exact h
    | with_reducible assumption
    | (extract_lets +onlyGivenNames a; with_reducible refine Keeps.cut (w := w) (s := s0) a ?_ (fun ha => ?_); (on_goal 2 => clear_value a); (on_goal 1 => (dsimp -zeta only [a]; clear a)))
    | (extract_lets +onlyGivenNames a; clear_value a)
    | exact mask_trans (by decide) hw
    | with_reducible apply linkSettled_keeps
    | with_reducible apply setPort_keeps
    | with_reducible apply Keeps.ite

/-- `masterReport` may change: regs, cfg, boot, esq, hse, fib, queues, portUp, portDn, merging, cascade, vectors, messages, freeIdx. -/
theorem masterReport_keeps (x0 : ℕ) (x1 : ℕ) (x2 : List Byte) {w : Nat} {s0 s : State} (hw : 71503522569227 &&& w = 71503522569227) (h : Keeps w s0 s) :
    Keeps w s0 (masterReport x0 x1 x2 s) := by
  unfold masterReport
  repeat' first
    | with_reducible exact h
    | with_reducible assumption
    | (extract_lets +onlyGivenNames a; with_reducible refine Keeps.cut (w := w) (s := s0) a ?_ (fun ha => ?_); (on_goal 2 => clear_value a); (on_goal 1 => (dsimp -zeta only [a]; clear a)))
    | (extract_lets +onlyGivenNames a; (have y : TrlSt := a; clear y); dsimp -zeta only [a]; clear a)
    | (extract_lets +onlyGivenNames a; clear_value a)
    | exact mask_trans (by decide) hw
    | with_reducible apply dropBeyond_keeps
    | with_reducible apply endEnum_keeps
    | with_reducible apply finishJoin_keeps
    | with_reducible apply reenumerate_keeps
    | with_reducible apply Keeps.ite
    | fail_if_no_progress (with_reducible refine Keeps.set_trl_cascade ?_ (mask_trans (by decide) hw) _ (by first | ((with_reducible repeat' constructor); done) | (split <;> repeat' constructor)))

/-- `onCapReport` may change: regs, cfg, boot, tb, esq, hse, fib, queues, portUp, portDn, merging, cascade, vectors, messages, freeIdx. -/
theorem onCapReport_keeps (x0 : BitVec 4) (x1 : Byte) (x2 : List Byte) (x3 : Tick) {w : Nat} {s0 s : State} (hw : 71503522569291 &&& w = 71503522569291) (h : Keeps w s0 s) :
    Keeps w s0 (onCapReport x0 x1 x2 x3 s) := by
  unfold onCapReport
  repeat' first
    | with_reducible exact h
    | with_reducible assumption
    | (extract_lets +onlyGivenNames a; with_reducible refine Keeps.cut (w := w) (s := s0) a ?_ (fun ha => ?_); (on_goal 2 => clear_value a); (on_goal 1 => (dsimp -zeta only [a]; clear a)))
    | exact mask_trans (by decide) hw
    | with_reducible apply advance_keeps
    | with_reducible apply masterReport_keeps
    | with_reducible apply partnersGone_keeps
    | with_reducible apply received_keeps
    | with_reducible apply toMaster_keeps
    | with_reducible apply Keeps.ite

end Sys2Proof.Machine
end

