-- ==== Sys2Proof/Laws/KeepPlk.lean ====
section
/-! SUPPORT. What each operation of Machine/Plk.lean may change: one lemma per operation, by the bits of the parts
of State (Sys2Proof.Machine.Part.bit). -/

namespace Sys2Proof.Machine

/-- `onVc0RetryTimeout` may change: regs, cfg, boot, tb, esq, hse, fib, queues, portUp, portDn, cascade, vectors, messages, freeIdx. -/
theorem onVc0RetryTimeout_keeps (x0 : Port) (x1 : Tick) {w : Nat} {s0 s : State} (hw : 71503254133835 &&& w = 71503254133835) (h : Keeps w s0 s) :
    Keeps w s0 (onVc0RetryTimeout x0 x1 s) := by
  unfold onVc0RetryTimeout
  repeat' first
    | with_reducible exact h
    | with_reducible assumption
    | (extract_lets +onlyGivenNames a; with_reducible refine Keeps.cut (w := w) (s := s0) a ?_ (fun ha => ?_); (on_goal 2 => clear_value a); (on_goal 1 => (dsimp -zeta only [a]; clear a)))
    | (extract_lets +onlyGivenNames a; clear_value a)
    | exact mask_trans (by decide) hw
    | with_reducible apply advance_keeps
    | with_reducible apply endEnum_keeps
    | with_reducible apply reportCap_keeps
    | with_reducible apply sendMsg_keeps
    | with_reducible apply setPort_keeps
    | with_reducible apply Keeps.ite
    | split

/-- `commaStamp` may change: tsu. -/
theorem commaStamp_keeps (x0 : Port) (x1 : Fin 97) (x2 : Option (Fin 97)) (x3 : Tick) {w : Nat} {s0 s : State} (hw : 256 &&& w = 256) (h : Keeps w s0 s) :
    Keeps w s0 (commaStamp x0 x1 x2 x3 s).2 := by
  unfold commaStamp
  repeat' first
    | with_reducible exact h
    | with_reducible assumption
    | (extract_lets +onlyGivenNames a; with_reducible refine Keeps.cut (w := w) (s := s0) a ?_ (fun ha => ?_); (on_goal 2 => clear_value a); (on_goal 1 => (dsimp -zeta only [a]; clear a)))
    | (extract_lets +onlyGivenNames a; clear_value a)
    | with_reducible apply svcMark_keeps
    | split
    | dsimp -zeta only
    | fail_if_no_progress (with_reducible refine Keeps.set_tsu ?_ (mask_trans (by decide) hw) _)

/-- `onCommaDepart` may change: tb, tsu, portUp, portDn. -/
theorem onCommaDepart_keeps (x0 : Port) (x1 : Fin 97) (x2 : Option (Fin 97)) (x3 : Tick) {w : Nat} {s0 s : State} (hw : 100663616 &&& w = 100663616) (h : Keeps w s0 s) :
    Keeps w s0 (onCommaDepart x0 x1 x2 x3 s) := by
  unfold onCommaDepart
  repeat' first
    | with_reducible exact h
    | with_reducible assumption
    | (extract_lets +onlyGivenNames a; with_reducible refine Keeps.cut (w := w) (s := s0) a.2 ?_ (fun ha => ?_); (on_goal 2 => clear_value a); (on_goal 1 => (dsimp -zeta only [a]; clear a)))
    | (extract_lets +onlyGivenNames a; clear_value a)
    | exact mask_trans (by decide) hw
    | with_reducible apply advance_keeps
    | with_reducible apply commaStamp_keeps
    | with_reducible apply setPort_keeps
    | with_reducible apply Keeps.ite
    | split

/-- `portLost` may change: regs, cfg, boot, esq, hse, fib, queues, portUp, portDn, merging, cascade, vectors, messages, freeIdx. -/
theorem portLost_keeps (x0 : Port) {w : Nat} {s0 s : State} (hw : 71503522569227 &&& w = 71503522569227) (h : Keeps w s0 s) :
    Keeps w s0 (portLost x0 s) := by
  unfold portLost
  repeat' first
    | with_reducible exact h
    | with_reducible assumption
    | (extract_lets +onlyGivenNames a; with_reducible refine Keeps.cut (w := w) (s := s0) a ?_ (fun ha => ?_); (on_goal 2 => clear_value a); (on_goal 1 => (dsimp -zeta only [a]; clear a)))
    | (extract_lets +onlyGivenNames a; (have y : TrlSt := a; clear y); dsimp -zeta only [a]; clear a)
    | (extract_lets +onlyGivenNames a; clear_value a)
    | exact mask_trans (by decide) hw
    | with_reducible apply dropBeyond_keeps
    | with_reducible apply endEnum_keeps
    | with_reducible apply fault_keeps
    | with_reducible apply partnersGone_keeps
    | with_reducible apply raise_keeps
    | with_reducible apply reportCap_keeps
    | with_reducible apply setPort_keeps
    | with_reducible apply stick_keeps
    | with_reducible apply Keeps.ite
    | split
    | fail_if_no_progress (with_reducible refine Keeps.set_trl_cascade ?_ (mask_trans (by decide) hw) _ (by first | ((with_reducible repeat' constructor); done) | (split <;> repeat' constructor)))

/-- `laneFenced` may change: regs, cfg, boot, esq, hse, fib, queues, portUp, portDn, lanes, merging, cascade, vectors, mailbox, messages, fences, grafting, freeIdx. -/
theorem laneFenced_keeps (x0 : ℕ) {w : Nat} {s0 s : State} (hw : 82636212018187 &&& w = 82636212018187) (h : Keeps w s0 s) :
    Keeps w s0 (laneFenced x0 s) := by
  unfold laneFenced
  repeat' first
    | with_reducible exact h
    | with_reducible assumption
    | (extract_lets +onlyGivenNames a; with_reducible refine Keeps.cut (w := w) (s := s0) a ?_ (fun ha => ?_); (on_goal 2 => clear_value a); (on_goal 1 => (dsimp -zeta only [a]; clear a)))
    | (extract_lets +onlyGivenNames a; clear_value a)
    | exact mask_trans (by decide) hw
    | with_reducible apply portLost_keeps
    | with_reducible apply retarget_keeps
    | with_reducible apply sendBlock_keeps
    | with_reducible apply setLane_keeps
    | with_reducible apply stick_keeps
    | with_reducible apply Keeps.ite

/-- `hopUp` may change: regs, cfg, boot, esq, hse, fib, queues, portUp, portDn, cascade, vectors, messages, freeIdx. -/
theorem hopUp_keeps (x0 : Port) (x1 : Bool) {w : Nat} {s0 s : State} (hw : 71503254133771 &&& w = 71503254133771) (h : Keeps w s0 s) :
    Keeps w s0 (hopUp x0 x1 s) := by
  unfold hopUp
  repeat' first
    | with_reducible exact h
    | with_reducible assumption
    | (extract_lets +onlyGivenNames a; clear_value a)
    | exact mask_trans (by decide) hw
    | with_reducible apply linkSettled_keeps
    | with_reducible apply reenumerate_keeps
    | with_reducible apply reportCap_keeps
    | with_reducible apply sendMsg_keeps
    | with_reducible apply setPort_keeps
    | with_reducible apply Keeps.ite
    | split

/-- `laneGrafted` may change: regs, cfg, boot, esq, hse, fib, queues, portUp, portDn, lanes, cascade, vectors, mailbox, messages, fences, grafting, freeIdx. -/
theorem laneGrafted_keeps (x0 : ℕ) {w : Nat} {s0 s : State} (hw : 82635943582731 &&& w = 82635943582731) (h : Keeps w s0 s) :
    Keeps w s0 (laneGrafted x0 s) := by
  unfold laneGrafted
  repeat' first
    | with_reducible exact h
    | with_reducible assumption
    | (extract_lets +onlyGivenNames a; with_reducible refine Keeps.cut (w := w) (s := s0) a ?_ (fun ha => ?_); (on_goal 2 => clear_value a); (on_goal 1 => (dsimp -zeta only [a]; clear a)))
    | (extract_lets +onlyGivenNames a; clear_value a)
    | exact mask_trans (by decide) hw
    | with_reducible apply hopUp_keeps
    | with_reducible apply laneEnter_keeps
    | with_reducible apply portUp_keeps
    | with_reducible apply retarget_keeps
    | with_reducible apply setLane_keeps
    | with_reducible apply Keeps.ite

/-- `onCredit` may change: regs, queues, portUp, portDn, vectors, messages, freeIdx. -/
theorem onCredit_keeps (x0 : Port) (x1 : BitVec 16) (x2 : BitVec 16) (x3 : BitVec 16) {w : Nat} {s0 s : State} (hw : 71502717255681 &&& w = 71502717255681) (h : Keeps w s0 s) :
    Keeps w s0 (onCredit x0 x1 x2 x3 s) := by
  unfold onCredit
  repeat' first
    | with_reducible exact h
    | with_reducible assumption
    | (extract_lets +onlyGivenNames a; with_reducible refine Keeps.cut (w := w) (s := s0) a ?_ (fun ha => ?_); (on_goal 2 => clear_value a); (on_goal 1 => (dsimp -zeta only [a]; clear a)))
    | (extract_lets +onlyGivenNames a; clear_value a)
    | exact mask_trans (by decide) hw
    | with_reducible apply bump_keeps
    | with_reducible apply pump_keeps
    | with_reducible apply setPort_keeps
    | with_reducible apply Keeps.ite

/-- `onLaneRequest` may change: regs, portUp, portDn, lanes, vectors, mailbox, fences, grafting. -/
theorem onLaneRequest_keeps (x0 : Port) (x1 : BitVec 3) {w : Nat} {s0 s : State} (hw : 11167149850625 &&& w = 11167149850625) (h : Keeps w s0 s) :
    Keeps w s0 (onLaneRequest x0 x1 s) := by
  unfold onLaneRequest
  repeat' first
    | with_reducible exact h
    | with_reducible assumption
    | (extract_lets +onlyGivenNames a; with_reducible refine Keeps.cut (w := w) (s := s0) a ?_ (fun ha => ?_); (on_goal 2 => clear_value a); (on_goal 1 => (dsimp -zeta only [a]; clear a)))
    | (extract_lets +onlyGivenNames a; clear_value a)
    | exact mask_trans (by decide) hw
    | with_reducible apply retarget_keeps
    | with_reducible apply sendBlock_keeps
    | with_reducible apply setPort_keeps
    | with_reducible apply Keeps.ite

/-- `onLaneSwitch` may change: portUp, portDn. -/
theorem onLaneSwitch_keeps (x0 : Port) (x1 : BitVec 3) {w : Nat} {s0 s : State} (hw : 100663296 &&& w = 100663296) (h : Keeps w s0 s) :
    Keeps w s0 (onLaneSwitch x0 x1 s) := by
  unfold onLaneSwitch
  repeat' first
    | with_reducible exact h
    | with_reducible assumption
    | (extract_lets +onlyGivenNames a; clear_value a)
    | with_reducible apply setPort_keeps

/-- `packetsLost` may change: regs, vectors, messages, freeIdx. -/
theorem packetsLost_keeps (x0 : ℕ) {w : Nat} {s0 s : State} (hw : 71502615543809 &&& w = 71502615543809) (h : Keeps w s0 s) :
    Keeps w s0 (packetsLost x0 s) := by
  unfold packetsLost
  repeat' first
    | with_reducible exact h
    | exact mask_trans (by decide) hw
    | with_reducible apply bump_keeps
    | with_reducible apply fault_keeps
    | with_reducible apply stick_keeps

/-- `onStartBlock` may change: regs, tb, portUp, portDn, vectors, messages, freeIdx. -/
theorem onStartBlock_keeps (x0 : Port) (x1 : BitVec 2) (x2 : BitVec 4) (x3 : Bool) (x4 : BitVec 4) (x5 : ℕ) (x6 : Bool) (x7 : BitVec 16) (x8 : Tick) {w : Nat} {s0 s : State} (hw : 71502716207169 &&& w = 71502716207169) (h : Keeps w s0 s) :
    Keeps w s0 (onStartBlock x0 x1 x2 x3 x4 x5 x6 x7 x8 s) := by
  unfold onStartBlock
  repeat' first
    | with_reducible exact h
    | with_reducible assumption
    | (extract_lets +onlyGivenNames a; with_reducible refine Keeps.cut (w := w) (s := s0) a ?_ (fun ha => ?_); (on_goal 2 => clear_value a); (on_goal 1 => (dsimp -zeta only [a]; clear a)))
    | (extract_lets +onlyGivenNames a; clear_value a)
    | exact mask_trans (by decide) hw
    | with_reducible apply advance_keeps
    | with_reducible apply packetsLost_keeps
    | with_reducible apply setPort_keeps
    | with_reducible apply Keeps.ite

/-- `onLaneTrained` may change: regs, cfg, boot, tb, esq, hse, fib, queues, portUp, portDn, lanes, cascade, vectors, mailbox, messages, fences, grafting, freeIdx. -/
theorem onLaneTrained_keeps (x0 : Fin 8) (x1 : Fin 3) (x2 : Bool) (x3 : ℕ) (x4 : Tick) {w : Nat} {s0 s : State} (hw : 82635943582795 &&& w = 82635943582795) (h : Keeps w s0 s) :
    Keeps w s0 (onLaneTrained x0 x1 x2 x3 x4 s) := by
  unfold onLaneTrained
  repeat' first
    | with_reducible exact h
    | with_reducible assumption
    | (extract_lets +onlyGivenNames a; with_reducible refine Keeps.cut (w := w) (s := s0) a ?_ (fun ha => ?_); (on_goal 2 => clear_value a); (on_goal 1 => (dsimp -zeta only [a]; clear a)))
    | (extract_lets +onlyGivenNames a; clear_value a)
    | exact mask_trans (by decide) hw
    | with_reducible apply advance_keeps
    | with_reducible apply equaliseRate_keeps
    | with_reducible apply fault_keeps
    | with_reducible apply hopUp_keeps
    | with_reducible apply linkSettled_keeps
    | with_reducible apply portUp_keeps
    | with_reducible apply retarget_keeps
    | with_reducible apply sendBlock_keeps
    | with_reducible apply setLane_keeps
    | with_reducible apply setPort_keeps
    | with_reducible apply stick_keeps
    | with_reducible apply updateLength_keeps
    | with_reducible apply Keeps.ite

/-- `onPortAbsentTimeout` may change: regs, cfg, boot, tb, esq, hse, fib, queues, portUp, portDn, lanes, cascade, vectors, mailbox, messages, fences, grafting, freeIdx. -/
theorem onPortAbsentTimeout_keeps (x0 : Port) (x1 : Tick) {w : Nat} {s0 s : State} (hw : 82635943582795 &&& w = 82635943582795) (h : Keeps w s0 s) :
    Keeps w s0 (onPortAbsentTimeout x0 x1 s) := by
  unfold onPortAbsentTimeout
  repeat' first
    | with_reducible exact h
    | with_reducible assumption
    | (extract_lets +onlyGivenNames a; with_reducible refine Keeps.cut (w := w) (s := s0) a ?_ (fun ha => ?_); (on_goal 2 => clear_value a); (on_goal 1 => (dsimp -zeta only [a]; clear a)))
    | (extract_lets +onlyGivenNames a; clear_value a)
    | exact mask_trans (by decide) hw
    | with_reducible apply advance_keeps
    | with_reducible apply hopUp_keeps
    | with_reducible apply linkSettled_keeps
    | with_reducible apply portUp_keeps
    | with_reducible apply raise_keeps
    | with_reducible apply setPort_keeps
    | with_reducible apply Keeps.ite

/-- `poisoned` may change: regs, freeIdx. -/
theorem poisoned_keeps  {w : Nat} {s0 s : State} (hw : 70368744177665 &&& w = 70368744177665) (h : Keeps w s0 s) :
    Keeps w s0 (poisoned s) := by
  unfold poisoned
  repeat' first
    | with_reducible exact h
    | with_reducible assumption
    | exact mask_trans (by decide) hw
    | with_reducible apply bump_keeps
    | with_reducible apply stick_keeps

/-- `onReservedMessageType` may change: regs, freeIdx. -/
theorem onReservedMessageType_keeps (x0 : Port) (x1 : Byte) {w : Nat} {s0 s : State} (hw : 70368744177665 &&& w = 70368744177665) (h : Keeps w s0 s) :
    Keeps w s0 (onReservedMessageType x0 x1 s) := by
  unfold onReservedMessageType
  repeat' first
    | with_reducible exact h
    | with_reducible assumption
    | with_reducible apply poisoned_keeps
    | with_reducible apply Keeps.ite

/-- `onLaneReady` may change: regs, portUp, portDn, lanes, vectors, mailbox, fences, grafting. -/
theorem onLaneReady_keeps (x0 : Port) {w : Nat} {s0 s : State} (hw : 11167149850625 &&& w = 11167149850625) (h : Keeps w s0 s) :
    Keeps w s0 (onLaneReady x0 s) := by
  unfold onLaneReady
  repeat' first
    | with_reducible exact h
    | with_reducible assumption
    | with_reducible apply switchLanes_keeps
    | with_reducible apply Keeps.ite

/-- `onCommaArrive` may change: regs, tb, tsu, queues, portUp, portDn, cascade, vectors, messages, freeIdx. -/
theorem onCommaArrive_keeps (x0 : Port) (x1 : Fin 97) (x2 : Option (Fin 97)) (x3 : Tick) {w : Nat} {s0 s : State} (hw : 71503254126913 &&& w = 71503254126913) (h : Keeps w s0 s) :
    Keeps w s0 (onCommaArrive x0 x1 x2 x3 s) := by
  unfold onCommaArrive
  repeat' first
    | with_reducible exact h
    | with_reducible assumption
    | (extract_lets +onlyGivenNames a; with_reducible refine Keeps.cut (w := w) (s := s0) a ?_ (fun ha => ?_); (on_goal 2 => clear_value a); (on_goal 1 => (dsimp -zeta only [a]; clear a)))
    | (extract_lets +onlyGivenNames a; with_reducible refine Keeps.cut (w := w) (s := s0) a.2 ?_ (fun ha => ?_); (on_goal 2 => clear_value a); (on_goal 1 => (dsimp -zeta only [a]; clear a)))
    | (extract_lets +onlyGivenNames a; (have y : TrlSt := a; clear y); dsimp -zeta only [a]; clear a)
    | (extract_lets +onlyGivenNames a; clear_value a)
    | exact mask_trans (by decide) hw
    | with_reducible apply advance_keeps
    | with_reducible apply commaStamp_keeps
    | with_reducible apply sendMsg_keeps
    | with_reducible apply setPort_keeps
    | with_reducible apply Keeps.ite
    | split
    | fail_if_no_progress (with_reducible refine Keeps.set_trl_cascade ?_ (mask_trans (by decide) hw) _ (by first | ((with_reducible repeat' constructor); done) | (split <;> repeat' constructor)))

/-- `onLaneStatus` may change: regs, portUp, portDn, lanes, vectors, mailbox, fences, grafting. -/
theorem onLaneStatus_keeps (x0 : Port) (x1 : BitVec 4) {w : Nat} {s0 s : State} (hw : 11167149850625 &&& w = 11167149850625) (h : Keeps w s0 s) :
    Keeps w s0 (onLaneStatus x0 x1 s) := by
  unfold onLaneStatus
  repeat' first
    | with_reducible exact h
    | with_reducible assumption
    | (extract_lets +onlyGivenNames a; clear_value a)
    | exact mask_trans (by decide) hw
    | with_reducible apply retarget_keeps
    | with_reducible apply setPort_keeps

/-- `onFecUncorrectable` may change: regs, tb, portUp, portDn, lanes, vectors, messages, freeIdx. -/
theorem onFecUncorrectable_keeps (x0 : Fin 8) (x1 : Tick) {w : Nat} {s0 s : State} (hw : 71502850424897 &&& w = 71502850424897) (h : Keeps w s0 s) :
    Keeps w s0 (onFecUncorrectable x0 x1 s) := by
  unfold onFecUncorrectable
  repeat' first
    | with_reducible exact h
    | with_reducible assumption
    | (extract_lets +onlyGivenNames a; with_reducible refine Keeps.cut (w := w) (s := s0) a ?_ (fun ha => ?_); (on_goal 2 => clear_value a); (on_goal 1 => (dsimp -zeta only [a]; clear a)))
    | (extract_lets +onlyGivenNames a; clear_value a)
    | exact mask_trans (by decide) hw
    | with_reducible apply advance_keeps
    | with_reducible apply bump_keeps
    | with_reducible apply fault_keeps
    | with_reducible apply packetsLost_keeps
    | with_reducible apply poisoned_keeps
    | with_reducible apply setLane_keeps
    | with_reducible apply setPort_keeps
    | with_reducible apply Keeps.ite
    | split

/-- `onDnRetryTimer` may change: tb, portUp, portDn. -/
theorem onDnRetryTimer_keeps (x0 : Tick) {w : Nat} {s0 s : State} (hw : 100663360 &&& w = 100663360) (h : Keeps w s0 s) :
    Keeps w s0 (onDnRetryTimer x0 s) := by
  unfold onDnRetryTimer
  repeat' first
    | with_reducible exact h
    | with_reducible assumption
    | (extract_lets +onlyGivenNames a; with_reducible refine Keeps.cut (w := w) (s := s0) a ?_ (fun ha => ?_); (on_goal 2 => clear_value a); (on_goal 1 => (dsimp -zeta only [a]; clear a)))
    | (extract_lets +onlyGivenNames a; clear_value a)
    | exact mask_trans (by decide) hw
    | with_reducible apply advance_keeps
    | with_reducible apply setPort_keeps
    | with_reducible apply Keeps.ite

/-- `onCableLengthUpdate` may change: lanes, freeIdx. -/
theorem onCableLengthUpdate_keeps (x0 : Fin 8) (x1 : ℕ) {w : Nat} {s0 s : State} (hw : 70368878395392 &&& w = 70368878395392) (h : Keeps w s0 s) :
    Keeps w s0 (onCableLengthUpdate x0 x1 s) := by
  unfold onCableLengthUpdate
  repeat' first
    | with_reducible exact h
    | with_reducible assumption
    | with_reducible apply updateLength_keeps
    | with_reducible apply Keeps.ite

/-- `onReservedLinkBlock` may change: regs, freeIdx. -/
theorem onReservedLinkBlock_keeps (x0 : Port) (x1 : Byte) {w : Nat} {s0 s : State} (hw : 70368744177665 &&& w = 70368744177665) (h : Keeps w s0 s) :
    Keeps w s0 (onReservedLinkBlock x0 x1 s) := by
  unfold onReservedLinkBlock
  repeat' first
    | with_reducible exact h
    | with_reducible assumption
    | with_reducible apply poisoned_keeps
    | with_reducible apply Keeps.ite

/-- `onLaneFenceNotice` may change: regs, portUp, portDn, lanes, vectors, mailbox, fences, grafting. -/
theorem onLaneFenceNotice_keeps (x0 : Port) (x1 : BitVec 4) {w : Nat} {s0 s : State} (hw : 11167149850625 &&& w = 11167149850625) (h : Keeps w s0 s) :
    Keeps w s0 (onLaneFenceNotice x0 x1 s) := by
  unfold onLaneFenceNotice
  repeat' first
    | with_reducible exact h
    | with_reducible assumption
    | (extract_lets +onlyGivenNames a; clear_value a)
    | exact mask_trans (by decide) hw
    | with_reducible apply retarget_keeps
    | with_reducible apply setPort_keeps

/-- `onLaneExitTimeout` may change: regs, tb, portUp, portDn, lanes, vectors, mailbox, messages, fences, grafting. -/
theorem onLaneExitTimeout_keeps (x0 : Fin 8) (x1 : Tick) {w : Nat} {s0 s : State} (hw : 12266661478465 &&& w = 12266661478465) (h : Keeps w s0 s) :
    Keeps w s0 (onLaneExitTimeout x0 x1 s) := by
  unfold onLaneExitTimeout
  repeat' first
    | with_reducible exact h
    | with_reducible assumption
    | (extract_lets +onlyGivenNames a; with_reducible refine Keeps.cut (w := w) (s := s0) a ?_ (fun ha => ?_); (on_goal 2 => clear_value a); (on_goal 1 => (dsimp -zeta only [a]; clear a)))
    | (extract_lets +onlyGivenNames a; clear_value a)
    | exact mask_trans (by decide) hw
    | with_reducible apply advance_keeps
    | with_reducible apply fault_keeps
    | with_reducible apply raise_keeps
    | with_reducible apply retarget_keeps
    | with_reducible apply setLane_keeps
    | with_reducible apply setPort_keeps
    | with_reducible apply Keeps.ite

end Sys2Proof.Machine
end

