-- ==== Sys2Proof/Laws/KeepTin.lean ====
section
/-! SUPPORT. What each operation of Machine/Tin.lean may change: one lemma per operation, by the bits of the parts
of State (Sys2Proof.Machine.Part.bit). -/

namespace Sys2Proof.Machine

/-- `setTine` may change: tines. -/
theorem setTine_keeps (x0 : ℕ) (x1 : TineSt) {w : Nat} {s0 s : State} (hw : 32768 &&& w = 32768) (h : Keeps w s0 s) :
    Keeps w s0 (setTine x0 x1 s) := by
  unfold setTine
  repeat' first
    | with_reducible exact h
    | (extract_lets +onlyGivenNames a; (have y : TinSt := a; clear y); dsimp -zeta only [a]; clear a)
    | fail_if_no_progress (with_reducible refine Keeps.set_tin_tines ?_ (mask_trans (by decide) hw) _ (by first | ((with_reducible repeat' constructor); done) | (split <;> repeat' constructor)))

/-- `freeTine` may change: tines. -/
theorem freeTine_keeps (x0 : ℕ) (x1 : Bool) {w : Nat} {s0 s : State} (hw : 32768 &&& w = 32768) (h : Keeps w s0 s) :
    Keeps w s0 (freeTine x0 x1 s) := by
  unfold freeTine
  repeat' first
    | with_reducible exact h
    | with_reducible assumption
    | (extract_lets +onlyGivenNames a; clear_value a)
    | with_reducible apply setTine_keeps

/-- `setSlot` may change: tinJobs. -/
theorem setSlot_keeps (x0 : ℕ) (x1 : SlotJobs) {w : Nat} {s0 s : State} (hw : 65536 &&& w = 65536) (h : Keeps w s0 s) :
    Keeps w s0 (setSlot x0 x1 s) := by
  unfold setSlot
  repeat' first
    | with_reducible exact h
    | (extract_lets +onlyGivenNames a; (have y : TinSt := a; clear y); dsimp -zeta only [a]; clear a)
    | fail_if_no_progress (with_reducible refine Keeps.set_tin_tinJobs ?_ (mask_trans (by decide) hw) _ (by first | ((with_reducible repeat' constructor); done) | (split <;> repeat' constructor)))

/-- `jobEvents` may change: regs, tinJobs, vectors, messages, freeIdx. -/
theorem jobEvents_keeps (x0 : ℕ) (x1 : ImgRec) (x2 : Job) {w : Nat} {s0 s : State} (hw : 71502615609345 &&& w = 71502615609345) (h : Keeps w s0 s) :
    Keeps w s0 (jobEvents x0 x1 x2 s) := by
  unfold jobEvents
  repeat' first
    | with_reducible exact h
    | with_reducible assumption
    | (extract_lets +onlyGivenNames a; with_reducible refine Keeps.cut (w := w) (s := s0) a ?_ (fun ha => ?_); (on_goal 2 => clear_value a); (on_goal 1 => (dsimp -zeta only [a]; clear a)))
    | (extract_lets +onlyGivenNames a; (have y : TinSt := a; clear y); dsimp -zeta only [a]; clear a)
    | (extract_lets +onlyGivenNames a; clear_value a)
    | exact mask_trans (by decide) hw
    | with_reducible apply bump_keeps
    | with_reducible apply bumpSat_keeps
    | with_reducible apply fault_keeps
    | with_reducible apply raise_keeps
    | with_reducible apply setSlot_keeps
    | with_reducible apply stick_keeps
    | with_reducible apply Keeps.ite
    | fail_if_no_progress (with_reducible refine Keeps.set_tin_tinJobs ?_ (mask_trans (by decide) hw) _ (by first | ((with_reducible repeat' constructor); done) | (split <;> repeat' constructor)))

/-- `copyToClo` may change: x12. -/
theorem copyToClo_keeps (x0 : ℕ) (x1 : ImgRec) (x2 : Job) {w : Nat} {s0 s : State} (hw : 4294967296 &&& w = 4294967296) (h : Keeps w s0 s) :
    Keeps w s0 (copyToClo x0 x1 x2 s) := by
  unfold copyToClo
  repeat' first
    | with_reducible exact h
    | with_reducible assumption
    | with_reducible apply x12Post_keeps
    | with_reducible apply Keeps.ite

/-- `releaseJob` may change: regs, tinJobs, mcd, queues, portUp, portDn, merging, x12, vectors, messages, freeIdx. -/
theorem releaseJob_keeps (x0 : ℕ) (x1 : ImgRec) (x2 : Job) {w : Nat} {s0 s : State} (hw : 71507281248257 &&& w = 71507281248257) (h : Keeps w s0 s) :
    Keeps w s0 (releaseJob x0 x1 x2 s) := by
  unfold releaseJob
  repeat' first
    | with_reducible exact h
    | with_reducible assumption
    | (extract_lets +onlyGivenNames a; with_reducible refine Keeps.cut (w := w) (s := s0) a ?_ (fun ha => ?_); (on_goal 2 => clear_value a); (on_goal 1 => (dsimp -zeta only [a]; clear a)))
    | (extract_lets +onlyGivenNames a; clear_value a)
    | exact mask_trans (by decide) hw
    | with_reducible apply copyToClo_keeps
    | with_reducible apply jobEvents_keeps
    | with_reducible apply routeItem_keeps
    | with_reducible apply setSlot_keeps

/-- `releaseEnded` may change: regs, tinJobs, mcd, queues, portUp, portDn, merging, x12, vectors, messages, freeIdx. -/
theorem releaseEnded_keeps (x0 : ℕ) (x1 : ℕ) {w : Nat} {s0 s : State} (hw : 71507281248257 &&& w = 71507281248257) (h : Keeps w s0 s) :
    Keeps w s0 (releaseEnded x0 x1 s) := by
  revert h
  induction x0 generalizing x1 s with
  | zero => intro h; unfold releaseEnded; exact h
  | succ y0 ih =>
    intro h
    unfold releaseEnded
    repeat' first
      | with_reducible apply ih
      | with_reducible exact h
      | with_reducible assumption
      | (extract_lets +onlyGivenNames a; clear_value a)
      | exact mask_trans (by decide) hw
      | with_reducible apply releaseJob_keeps
      | with_reducible apply setSlot_keeps
      | with_reducible apply Keeps.ite
      | split

/-- `setJob` may change: tinJobs. -/
theorem setJob_keeps (x0 : ℕ) (x1 : ℕ) (x2 : Job → Job) {w : Nat} {s0 s : State} (hw : 65536 &&& w = 65536) (h : Keeps w s0 s) :
    Keeps w s0 (setJob x0 x1 x2 s) := by
  unfold setJob
  repeat' first
    | with_reducible exact h
    | with_reducible assumption
    | (extract_lets +onlyGivenNames a; clear_value a)
    | with_reducible apply setSlot_keeps

/-- `slotAdmit` may change: regs, tinJobs, vectors, messages. -/
theorem slotAdmit_keeps (x0 : ℕ) (x1 : ImgRec) (x2 : ℕ × Item) {w : Nat} {s0 s : State} (hw : 1133871431681 &&& w = 1133871431681) (h : Keeps w s0 s) :
    Keeps w s0 (slotAdmit x0 x1 x2 s) := by
  unfold slotAdmit
  repeat' first
    | with_reducible exact h
    | (extract_lets +onlyGivenNames a; clear_value a)
    | exact mask_trans (by decide) hw
    | with_reducible apply bumpSat_keeps
    | with_reducible apply fault_keeps
    | with_reducible apply setSlot_keeps
    | with_reducible apply stick_keeps
    | with_reducible apply Keeps.ite

/-- `admitHeld` may change: regs, tinJobs, vectors, messages. -/
theorem admitHeld_keeps (x0 : ℕ) {w : Nat} {s0 s : State} (hw : 1133871431681 &&& w = 1133871431681) (h : Keeps w s0 s) :
    Keeps w s0 (admitHeld x0 s) := by
  unfold admitHeld
  repeat' first
    | with_reducible exact h
    | with_reducible assumption
    | (extract_lets +onlyGivenNames a; clear_value a)
    | exact mask_trans (by decide) hw
    | with_reducible apply setSlot_keeps
    | with_reducible apply slotAdmit_keeps
    | with_reducible apply Keeps.ite
    | (with_reducible apply Keeps.foldl; intros)
    | split

/-- `endJob` may change: regs, tines, tinJobs, mcd, queues, portUp, portDn, merging, x12, vectors, messages, freeIdx. -/
theorem endJob_keeps (x0 : ℕ) (x1 : ℕ) {w : Nat} {s0 s : State} (hw : 71507281281025 &&& w = 71507281281025) (h : Keeps w s0 s) :
    Keeps w s0 (endJob x0 x1 s) := by
  unfold endJob
  repeat' first
    | with_reducible exact h
    | with_reducible assumption
    | (extract_lets +onlyGivenNames a; with_reducible refine Keeps.cut (w := w) (s := s0) a ?_ (fun ha => ?_); (on_goal 2 => clear_value a); (on_goal 1 => (dsimp -zeta only [a]; clear a)))
    | (extract_lets +onlyGivenNames a; clear_value a)
    | exact mask_trans (by decide) hw
    | with_reducible apply admitHeld_keeps
    | with_reducible apply freeTine_keeps
    | with_reducible apply releaseEnded_keeps
    | with_reducible apply setJob_keeps
    | with_reducible apply setSlot_keeps
    | with_reducible apply Keeps.ite
    | split

/-- `tinBoundary` may change: tinJobs. -/
theorem tinBoundary_keeps (x0 : Bool) (x1 : ℕ) (x2 : List Byte) {w : Nat} {s0 s : State} (hw : 65536 &&& w = 65536) (h : Keeps w s0 s) :
    Keeps w s0 (tinBoundary x0 x1 x2 s) := by
  unfold tinBoundary
  repeat' first
    | with_reducible exact h
    | (extract_lets +onlyGivenNames a; (have y : TinSt := a; clear y); dsimp -zeta only [a]; clear a)
    | (extract_lets +onlyGivenNames a; clear_value a)
    | with_reducible apply Keeps.ite
    | fail_if_no_progress (with_reducible refine Keeps.set_tin_tinJobs ?_ (mask_trans (by decide) hw) _ (by first | ((with_reducible repeat' constructor); done) | (split <;> repeat' constructor)))

/-- `formJob` may change: tinJobs. -/
theorem formJob_keeps (x0 : ℕ) (x1 : ImgRec) (x2 : ℕ) (x3 : ℕ) (x4 : List (ℕ × Item)) (x5 : List (ℕ × Item)) {w : Nat} {s0 s : State} (hw : 65536 &&& w = 65536) (h : Keeps w s0 s) :
    Keeps w s0 (formJob x0 x1 x2 x3 x4 x5 s) := by
  unfold formJob
  repeat' first
    | with_reducible exact h
    | with_reducible assumption
    | (extract_lets +onlyGivenNames a; clear_value a)
    | with_reducible apply setSlot_keeps

/-- `onTineJobClose` may change: regs, tinJobs, mcd, queues, portUp, portDn, merging, x12, vectors, messages, freeIdx. -/
theorem onTineJobClose_keeps (x0 : Fin 16) {w : Nat} {s0 s : State} (hw : 71507281248257 &&& w = 71507281248257) (h : Keeps w s0 s) :
    Keeps w s0 (onTineJobClose x0 s) := by
  unfold onTineJobClose
  repeat' first
    | with_reducible exact h
    | with_reducible assumption
    | (extract_lets +onlyGivenNames a; clear_value a)
    | exact mask_trans (by decide) hw
    | with_reducible apply admitHeld_keeps
    | with_reducible apply formJob_keeps
    | with_reducible apply releaseEnded_keeps
    | with_reducible apply Keeps.ite
    | split

/-- `setScratch` may change: tines. -/
theorem setScratch_keeps (x0 : ImgRec) (x1 : Memory) {w : Nat} {s0 s : State} (hw : 32768 &&& w = 32768) (h : Keeps w s0 s) :
    Keeps w s0 (setScratch x0 x1 s) := by
  unfold setScratch
  repeat' first
    | with_reducible exact h
    | (extract_lets +onlyGivenNames a; (have y : TinSt := a; clear y); dsimp -zeta only [a]; clear a)
    | fail_if_no_progress (with_reducible refine Keeps.set_tin_tines ?_ (mask_trans (by decide) hw) _ (by first | ((with_reducible repeat' constructor); done) | (split <;> repeat' constructor)))

/-- `tineFenced` may change: regs, tines, tinJobs, vectors, messages. -/
theorem tineFenced_keeps (x0 : ℕ) {w : Nat} {s0 s : State} (hw : 1133871464449 &&& w = 1133871464449) (h : Keeps w s0 s) :
    Keeps w s0 (tineFenced x0 s) := by
  unfold tineFenced
  repeat' first
    | with_reducible exact h
    | with_reducible assumption
    | (extract_lets +onlyGivenNames a; with_reducible refine Keeps.cut (w := w) (s := s0) a ?_ (fun ha => ?_); (on_goal 2 => clear_value a); (on_goal 1 => (dsimp -zeta only [a]; clear a)))
    | (extract_lets +onlyGivenNames a; clear_value a)
    | exact mask_trans (by decide) hw
    | with_reducible apply fault_keeps
    | with_reducible apply freeTine_keeps
    | with_reducible apply setJob_keeps
    | with_reducible apply setScratch_keeps
    | with_reducible apply Keeps.ite
    | split

/-- `tineReload` may change: tines. -/
theorem tineReload_keeps (x0 : ℕ) {w : Nat} {s0 s : State} (hw : 32768 &&& w = 32768) (h : Keeps w s0 s) :
    Keeps w s0 (tineReload x0 s) := by
  unfold tineReload
  repeat' first
    | with_reducible exact h
    | with_reducible assumption
    | (extract_lets +onlyGivenNames a; clear_value a)
    | with_reducible apply setTine_keeps

/-- `tineGrafted` may change: regs, tines, vectors. -/
theorem tineGrafted_keeps (x0 : ℕ) {w : Nat} {s0 s : State} (hw : 34359771137 &&& w = 34359771137) (h : Keeps w s0 s) :
    Keeps w s0 (tineGrafted x0 s) := by
  unfold tineGrafted
  repeat' first
    | with_reducible exact h
    | exact mask_trans (by decide) hw
    | with_reducible apply raise_keeps
    | with_reducible apply tineReload_keeps

/-- `tinPlan` may change: tinJobs. -/
theorem tinPlan_keeps (x0 : Bool) (x1 : ℕ) {w : Nat} {s0 s : State} (hw : 65536 &&& w = 65536) (h : Keeps w s0 s) :
    Keeps w s0 (tinPlan x0 x1 s) := by
  unfold tinPlan
  repeat' first
    | with_reducible exact h
    | with_reducible assumption
    | (extract_lets +onlyGivenNames a; clear_value a)
    | with_reducible apply setSlot_keeps
    | with_reducible apply Keeps.ite
    | (with_reducible apply Keeps.foldl; intros)

/-- `onTineItemArrive` may change: regs, tinJobs, vectors, messages. -/
theorem onTineItemArrive_keeps (x0 : Fin 16) (x1 : Fin 4) (x2 : Item) {w : Nat} {s0 s : State} (hw : 1133871431681 &&& w = 1133871431681) (h : Keeps w s0 s) :
    Keeps w s0 (onTineItemArrive x0 x1 x2 s) := by
  unfold onTineItemArrive
  repeat' first
    | with_reducible exact h
    | with_reducible assumption
    | (extract_lets +onlyGivenNames a; clear_value a)
    | exact mask_trans (by decide) hw
    | with_reducible apply setSlot_keeps
    | with_reducible apply slotAdmit_keeps
    | with_reducible apply Keeps.ite
    | split

/-- `slotReset` may change: tines, tinJobs. -/
theorem slotReset_keeps (x0 : ℕ) (x1 : ImgRec) (x2 : ℕ) {w : Nat} {s0 s : State} (hw : 98304 &&& w = 98304) (h : Keeps w s0 s) :
    Keeps w s0 (slotReset x0 x1 x2 s) := by
  unfold slotReset
  repeat' first
    | with_reducible exact h
    | (extract_lets +onlyGivenNames a; clear_value a)
    | exact mask_trans (by decide) hw
    | with_reducible apply setScratch_keeps
    | with_reducible apply setSlot_keeps
    | with_reducible apply Keeps.ite

/-- `endNoTine` may change: regs, tinJobs, mcd, queues, portUp, portDn, merging, x12, vectors, messages, freeIdx. -/
theorem endNoTine_keeps (x0 : ℕ) {w : Nat} {s0 s : State} (hw : 71507281248257 &&& w = 71507281248257) (h : Keeps w s0 s) :
    Keeps w s0 (endNoTine x0 s) := by
  unfold endNoTine
  repeat' first
    | with_reducible exact h
    | with_reducible assumption
    | (extract_lets +onlyGivenNames a; with_reducible refine Keeps.cut (w := w) (s := s0) a ?_ (fun ha => ?_); (on_goal 2 => clear_value a); (on_goal 1 => (dsimp -zeta only [a]; clear a)))
    | (extract_lets +onlyGivenNames a; clear_value a)
    | exact mask_trans (by decide) hw
    | with_reducible apply admitHeld_keeps
    | with_reducible apply fault_keeps
    | with_reducible apply releaseEnded_keeps
    | with_reducible apply setSlot_keeps
    | with_reducible apply stick_keeps
    | with_reducible apply Keeps.ite
    | (with_reducible apply Keeps.foldl; intros)
    | split

/-- `startJob` may change: regs, tines, tinJobs, vectors, freeIdx. -/
theorem startJob_keeps (x0 : ℕ) (x1 : ℕ) (x2 : ℕ) (x3 : ImgRec) (x4 : Job) {w : Nat} {s0 s : State} (hw : 70403104014337 &&& w = 70403104014337) (h : Keeps w s0 s) :
    Keeps w s0 (startJob x0 x1 x2 x3 x4 s) := by
  unfold startJob
  repeat' first
    | with_reducible exact h
    | with_reducible assumption
    | (extract_lets +onlyGivenNames a; with_reducible refine Keeps.cut (w := w) (s := s0) a ?_ (fun ha => ?_); (on_goal 2 => clear_value a); (on_goal 1 => (dsimp -zeta only [a]; clear a)))
    | (extract_lets +onlyGivenNames a; clear_value a)
    | exact mask_trans (by decide) hw
    | with_reducible apply bump_keeps
    | with_reducible apply raise_keeps
    | with_reducible apply setJob_keeps
    | with_reducible apply setTine_keeps
    | with_reducible apply slotReset_keeps
    | with_reducible apply Keeps.ite

/-- `onTineJobDispatch` may change: regs, tines, tinJobs, mcd, queues, portUp, portDn, merging, x12, vectors, messages, freeIdx. -/
theorem onTineJobDispatch_keeps (x0 : Fin 16) {w : Nat} {s0 s : State} (hw : 71507281281025 &&& w = 71507281281025) (h : Keeps w s0 s) :
    Keeps w s0 (onTineJobDispatch x0 s) := by
  unfold onTineJobDispatch
  repeat' first
    | with_reducible exact h
    | with_reducible assumption
    | (extract_lets +onlyGivenNames a; with_reducible refine Keeps.cut (w := w) (s := s0) a ?_ (fun ha => ?_); (on_goal 2 => clear_value a); (on_goal 1 => (dsimp -zeta only [a]; clear a)))
    | exact mask_trans (by decide) hw
    | with_reducible apply endNoTine_keeps
    | with_reducible apply startJob_keeps
    | with_reducible apply Keeps.ite
    | (with_reducible apply Keeps.foldl; intros)
    | split

/-- `onTinEcc` may change: regs, tb, tines, vectors, messages, freeIdx. -/
theorem onTinEcc_keeps (x0 : Fin 16) (x1 : TineMem) (x2 : Bool) (x3 : Tick) {w : Nat} {s0 s : State} (hw : 71502615576641 &&& w = 71502615576641) (h : Keeps w s0 s) :
    Keeps w s0 (onTinEcc x0 x1 x2 x3 s) := by
  unfold onTinEcc
  repeat' first
    | with_reducible exact h
    | with_reducible assumption
    | (extract_lets +onlyGivenNames a; with_reducible refine Keeps.cut (w := w) (s := s0) a ?_ (fun ha => ?_); (on_goal 2 => clear_value a); (on_goal 1 => (dsimp -zeta only [a]; clear a)))
    | (extract_lets +onlyGivenNames a; clear_value a)
    | exact mask_trans (by decide) hw
    | with_reducible apply advance_keeps
    | with_reducible apply bump_keeps
    | with_reducible apply fault_keeps
    | with_reducible apply setTine_keeps
    | with_reducible apply stick_keeps
    | with_reducible apply tineReload_keeps
    | with_reducible apply Keeps.ite
    | split

/-- `tinLoad` may change: tines. -/
theorem tinLoad_keeps  {w : Nat} {s0 s : State} (hw : 32768 &&& w = 32768) (h : Keeps w s0 s) :
    Keeps w s0 (tinLoad s) := by
  unfold tinLoad
  repeat' first
    | with_reducible exact h
    | with_reducible assumption
    | (extract_lets +onlyGivenNames a; (have y : TinSt := a; clear y); dsimp -zeta only [a]; clear a)
    | (extract_lets +onlyGivenNames a; clear_value a)
    | with_reducible apply tineReload_keeps
    | (with_reducible apply Keeps.foldl; intros)
    | fail_if_no_progress (with_reducible refine Keeps.set_tin_tines ?_ (mask_trans (by decide) hw) _ (by first | ((with_reducible repeat' constructor); done) | (split <;> repeat' constructor)))

end Sys2Proof.Machine
end

