-- ==== Sys2Proof/Laws/KeepFcl.lean ====
section
/-! SUPPORT. What each operation of Machine/Fcl.lean may change: one lemma per operation, by the bits of the parts
of State (Sys2Proof.Machine.Part.bit). -/

namespace Sys2Proof.Machine

/-- `withdrawGraft` may change: mailboxItems. -/
theorem withdrawGraft_keeps (x0 : ℕ) {w : Nat} {s0 s : State} (hw : 2097152 &&& w = 2097152) (h : Keeps w s0 s) :
    Keeps w s0 (withdrawGraft x0 s) := by
  unfold withdrawGraft
  repeat' first
    | with_reducible exact h
    | (extract_lets +onlyGivenNames a; (have y : QsySt := a; clear y); dsimp -zeta only [a]; clear a)
    | fail_if_no_progress (with_reducible refine Keeps.set_qsy_mailboxItems ?_ (mask_trans (by decide) hw) _ (by first | ((with_reducible repeat' constructor); done) | (split <;> repeat' constructor)))

/-- `graftStops` may change: tdc, pfe, fib, mcd, lanes. -/
theorem graftStops_keeps (x0 : ℕ) {w : Nat} {s0 s : State} (hw : 134746752 &&& w = 134746752) (h : Keeps w s0 s) :
    Keeps w s0 (graftStops x0 s) := by
  unfold graftStops
  repeat' first
    | with_reducible exact h
    | (extract_lets +onlyGivenNames a; clear_value a)
    | exact mask_trans (by decide) hw
    | with_reducible apply abandonCycle_keeps
    | with_reducible apply biasEnable_keeps
    | with_reducible apply engineStops_keeps
    | with_reducible apply pairAbandon_keeps
    | with_reducible apply setLane_keeps
    | with_reducible apply Keeps.ite

/-- `abandonGraft` may change: regs, tdc, pfe, fib, mcd, mailboxItems, lanes, vectors, mailbox, grafting. -/
theorem abandonGraft_keeps (x0 : ℕ) {w : Nat} {s0 s : State} (hw : 8968028557953 &&& w = 8968028557953) (h : Keeps w s0 s) :
    Keeps w s0 (abandonGraft x0 s) := by
  unfold abandonGraft
  repeat' first
    | with_reducible exact h
    | exact mask_trans (by decide) hw
    | with_reducible apply graftEnd_keeps
    | with_reducible apply graftStops_keeps
    | with_reducible apply withdrawGraft_keeps
    | split

/-- `faultClear` may change: regs, vectors, mailbox, fences, faultState. -/
theorem faultClear_keeps (x0 : Origin) (x1 : ℕ) {w : Nat} {s0 s : State} (hw : 37555194036225 &&& w = 37555194036225) (h : Keeps w s0 s) :
    Keeps w s0 (faultClear x0 x1 s) := by
  unfold faultClear
  repeat' first
    | with_reducible exact h
    | (extract_lets +onlyGivenNames a; with_reducible refine Keeps.cut1 (w := w) (s := s0) a ?_ (fun hg => ?_); (on_goal 2 => clear_value a); (on_goal 1 => (dsimp -zeta only [a]; clear a)))
    | (extract_lets +onlyGivenNames a; (have y : FclSt := a; clear y); dsimp -zeta only [a]; clear a)
    | (extract_lets +onlyGivenNames a; clear_value a)
    | with_reducible apply hg
    | exact mask_trans (by decide) hw
    | with_reducible apply finish_keeps
    | intro y
    | with_reducible apply Keeps.ite
    | fail_if_no_progress (with_reducible refine Keeps.set_fcl_fences_faultState ?_ (mask_trans (by decide) hw) _ (by first | ((with_reducible repeat' constructor); done) | (split <;> repeat' constructor)))

/-- `graftBegin` may change: regs, tdc, pfe, esq, fib, vectors, mailbox, grafting. -/
theorem graftBegin_keeps (x0 : Origin) (x1 : ℕ) {w : Nat} {s0 s : State} (hw : 8967891719809 &&& w = 8967891719809) (h : Keeps w s0 s) :
    Keeps w s0 (graftBegin x0 x1 s) := by
  unfold graftBegin
  repeat' first
    | with_reducible exact h
    | with_reducible assumption
    | (extract_lets +onlyGivenNames a; with_reducible refine Keeps.cut (w := w) (s := s0) a ?_ (fun ha => ?_); (on_goal 2 => clear_value a); (on_goal 1 => (dsimp -zeta only [a]; clear a)))
    | (extract_lets +onlyGivenNames a; (have y : FclSt := a; clear y); dsimp -zeta only [a]; clear a)
    | (extract_lets +onlyGivenNames a; (have y : HifSt := a; clear y); dsimp -zeta only [a]; clear a)
    | (extract_lets +onlyGivenNames a; clear_value a)
    | exact mask_trans (by decide) hw
    | with_reducible apply biasEnable_keeps
    | with_reducible apply finish_keeps
    | with_reducible apply pairGraft_keeps
    | with_reducible apply startCycle_keeps
    | with_reducible apply Keeps.ite
    | split
    | fail_if_no_progress (with_reducible refine Keeps.set_esq ?_ (mask_trans (by decide) hw) _)
    | fail_if_no_progress (with_reducible refine Keeps.set_fib ?_ (mask_trans (by decide) hw) _)
    | fail_if_no_progress (with_reducible refine Keeps.set_hif_mailbox ?_ (mask_trans (by decide) hw) _ (by first | ((with_reducible repeat' constructor); done) | (split <;> repeat' constructor)))
    | fail_if_no_progress (with_reducible refine Keeps.set_hif_mailbox_fcl_grafting ?_ (mask_trans (by decide) hw) _ (by first | ((with_reducible repeat' constructor); done) | (split <;> repeat' constructor)) _ (by first | ((with_reducible repeat' constructor); done) | (split <;> repeat' constructor)))
    | fail_if_no_progress (with_reducible refine Keeps.set_pfe ?_ (mask_trans (by decide) hw) _)

/-- `orderlyStart` may change: hkp. -/
theorem orderlyStart_keeps  {w : Nat} {s0 s : State} (hw : 16777216 &&& w = 16777216) (h : Keeps w s0 s) :
    Keeps w s0 (orderlyStart s) := by
  unfold orderlyStart
  repeat' first
    | with_reducible exact h
    | (extract_lets +onlyGivenNames a; clear_value a)
    | with_reducible apply Keeps.ite
    | fail_if_no_progress (with_reducible refine Keeps.set_hkp ?_ (mask_trans (by decide) hw) _)

/-- `emptyOwn` may change: regs, queues, vectors, freeIdx. -/
theorem emptyOwn_keeps (x0 : ℕ) {w : Nat} {s0 s : State} (hw : 70403104964609 &&& w = 70403104964609) (h : Keeps w s0 s) :
    Keeps w s0 (emptyOwn x0 s) := by
  unfold emptyOwn
  repeat' first
    | with_reducible exact h
    | with_reducible assumption
    | (extract_lets +onlyGivenNames a; clear_value a)
    | exact mask_trans (by decide) hw
    | with_reducible apply countFlushed_keeps
    | with_reducible apply setQueue_keeps
    | (with_reducible apply Keeps.foldl; intros)

/-- `unitItem` may change: mailboxItems. -/
theorem unitItem_keeps (x0 : ℕ) (x1 : ℕ) {w : Nat} {s0 s : State} (hw : 2097152 &&& w = 2097152) (h : Keeps w s0 s) :
    Keeps w s0 (unitItem x0 x1 s) := by
  unfold unitItem
  repeat' first
    | with_reducible exact h
    | with_reducible assumption
    | with_reducible apply x8Internal_keeps

/-- `onGraftSelftestDone` may change: regs, cfg, boot, tb, tdc, pfe, esq, hse, fib, mcd, queues, mailboxItems, portUp, portDn, lanes, cascade, vectors, mailbox, messages, fences, grafting, freeIdx. -/
theorem onGraftSelftestDone_keeps (x0 : Bool) (x1 : Tick) {w : Nat} {s0 s : State} (hw : 82635946204875 &&& w = 82635946204875) (h : Keeps w s0 s) :
    Keeps w s0 (onGraftSelftestDone x0 x1 s) := by
  unfold onGraftSelftestDone
  repeat' first
    | with_reducible exact h
    | with_reducible assumption
    | (extract_lets +onlyGivenNames a; with_reducible refine Keeps.cut (w := w) (s := s0) a ?_ (fun ha => ?_); (on_goal 2 => clear_value a); (on_goal 1 => (dsimp -zeta only [a]; clear a)))
    | (extract_lets +onlyGivenNames a; (have y : FclSt := a; clear y); dsimp -zeta only [a]; clear a)
    | exact mask_trans (by decide) hw
    | with_reducible apply advance_keeps
    | with_reducible apply emptyOwn_keeps
    | with_reducible apply engineGrafted_keeps
    | with_reducible apply graftEnd_keeps
    | with_reducible apply graftStops_keeps
    | with_reducible apply laneGrafted_keeps
    | with_reducible apply unitItem_keeps
    | with_reducible apply Keeps.ite
    | split
    | fail_if_no_progress (with_reducible refine Keeps.set_fcl_grafting ?_ (mask_trans (by decide) hw) _ (by first | ((with_reducible repeat' constructor); done) | (split <;> repeat' constructor)))

/-- `stripFenced` may change: tdc, pfe, hse. -/
theorem stripFenced_keeps (x0 : ℕ) {w : Nat} {s0 s : State} (hw : 2688 &&& w = 2688) (h : Keeps w s0 s) :
    Keeps w s0 (stripFenced x0 s) := by
  unfold stripFenced
  repeat' first
    | with_reducible exact h
    | with_reducible assumption
    | (extract_lets +onlyGivenNames a; with_reducible refine Keeps.cut (w := w) (s := s0) a ?_ (fun ha => ?_); (on_goal 2 => clear_value a); (on_goal 1 => (dsimp -zeta only [a]; clear a)))
    | exact mask_trans (by decide) hw
    | with_reducible apply abandonCycle_keeps
    | with_reducible apply biasEnable_keeps
    | with_reducible apply stripTaken_keeps
    | with_reducible apply stripUnobs_keeps
    | with_reducible apply Keeps.ite

/-- `fenceOp` may change: regs, cfg, firstItem, boot, tdc, pfe, esq, hse, fib, tae, tines, tinJobs, mcd, queues, lostMarks, portUp, portDn, lanes, merging, cascade, vectors, mailbox, messages, fences, grafting, freeIdx. -/
theorem fenceOp_keeps (x0 : ℕ) {w : Nat} {s0 s : State} (hw : 82636216852111 &&& w = 82636216852111) (h : Keeps w s0 s) :
    Keeps w s0 (fenceOp x0 s) := by
  unfold fenceOp
  repeat' first
    | with_reducible exact h
    | exact mask_trans (by decide) hw
    | with_reducible apply engineFenced_keeps
    | with_reducible apply laneFenced_keeps
    | with_reducible apply pairAbandon_keeps
    | with_reducible apply raise_keeps
    | with_reducible apply stripFenced_keeps
    | with_reducible apply tineFenced_keeps
    | with_reducible apply Keeps.ite

/-- `fenceUnit` may change: regs, cfg, firstItem, boot, tdc, pfe, esq, hse, fib, tae, tines, tinJobs, mcd, queues, mailboxItems, lostMarks, portUp, portDn, lanes, merging, cascade, vectors, mailbox, messages, fences, grafting, freeIdx. -/
theorem fenceUnit_keeps (x0 : ℕ) {w : Nat} {s0 s : State} (hw : 82636218949263 &&& w = 82636218949263) (h : Keeps w s0 s) :
    Keeps w s0 (fenceUnit x0 s) := by
  unfold fenceUnit
  repeat' first
    | with_reducible exact h
    | with_reducible assumption
    | (extract_lets +onlyGivenNames a; with_reducible refine Keeps.cut (w := w) (s := s0) a ?_ (fun ha => ?_); (on_goal 2 => clear_value a); (on_goal 1 => (dsimp -zeta only [a]; clear a)))
    | (extract_lets +onlyGivenNames a; (have y : FclSt := a; clear y); dsimp -zeta only [a]; clear a)
    | exact mask_trans (by decide) hw
    | with_reducible apply fenceOp_keeps
    | with_reducible apply unitItem_keeps
    | with_reducible apply Keeps.ite
    | fail_if_no_progress (with_reducible refine Keeps.set_fcl_fences ?_ (mask_trans (by decide) hw) _ (by first | ((with_reducible repeat' constructor); done) | (split <;> repeat' constructor)))

/-- `logMsg` may change: regs, firstItem, mcd, queues, lostMarks, portUp, portDn, merging, vectors, messages, faultLog, freeIdx. -/
theorem logMsg_keeps (x0 : FaultMsg) {w : Nat} {s0 s : State} (hw : 75901036920837 &&& w = 75901036920837) (h : Keeps w s0 s) :
    Keeps w s0 (logMsg x0 s) := by
  unfold logMsg
  repeat' first
    | with_reducible exact h
    | with_reducible assumption
    | (extract_lets +onlyGivenNames a; with_reducible refine Keeps.cut (w := w) (s := s0) a ?_ (fun ha => ?_); (on_goal 2 => clear_value a); (on_goal 1 => (dsimp -zeta only [a]; clear a)))
    | (extract_lets +onlyGivenNames a; (have y : FclSt := a; clear y); dsimp -zeta only [a]; clear a)
    | (extract_lets +onlyGivenNames a; clear_value a)
    | exact mask_trans (by decide) hw
    | with_reducible apply bump_keeps
    | with_reducible apply emitX_keeps
    | with_reducible apply Keeps.ite
    | fail_if_no_progress (with_reducible refine Keeps.set_fcl_faultLog ?_ (mask_trans (by decide) hw) _ (by first | ((with_reducible repeat' constructor); done) | (split <;> repeat' constructor)))

/-- `countMsg` may change: regs, freeIdx. -/
theorem countMsg_keeps (x0 : FaultMsg) {w : Nat} {s0 s : State} (hw : 70368744177665 &&& w = 70368744177665) (h : Keeps w s0 s) :
    Keeps w s0 (countMsg x0 s) := by
  unfold countMsg
  repeat' first
    | with_reducible exact h
    | with_reducible assumption
    | (extract_lets +onlyGivenNames a; with_reducible refine Keeps.cut (w := w) (s := s0) a ?_ (fun ha => ?_); (on_goal 2 => clear_value a); (on_goal 1 => (dsimp -zeta only [a]; clear a)))
    | (extract_lets +onlyGivenNames a; clear_value a)
    | exact mask_trans (by decide) hw
    | with_reducible apply bump_keeps
    | with_reducible apply bumpSat_keeps
    | with_reducible apply stick_keeps
    | with_reducible apply Keeps.ite
    | split

/-- `setCause` may change: fences. -/
theorem setCause_keeps (x0 : ℕ) (x1 : FaultMsg) {w : Nat} {s0 s : State} (hw : 2199023255552 &&& w = 2199023255552) (h : Keeps w s0 s) :
    Keeps w s0 (setCause x0 x1 s) := by
  unfold setCause
  repeat' first
    | with_reducible exact h
    | (extract_lets +onlyGivenNames a; (have y : FclSt := a; clear y); dsimp -zeta only [a]; clear a)
    | (extract_lets +onlyGivenNames a; clear_value a)
    | with_reducible apply Keeps.ite
    | split
    | fail_if_no_progress (with_reducible refine Keeps.set_fcl_fences ?_ (mask_trans (by decide) hw) _ (by first | ((with_reducible repeat' constructor); done) | (split <;> repeat' constructor)))

/-- `setContained` may change: faultState. -/
theorem setContained_keeps (x0 : FaultMsg) {w : Nat} {s0 s : State} (hw : 35184372088832 &&& w = 35184372088832) (h : Keeps w s0 s) :
    Keeps w s0 (setContained x0 s) := by
  unfold setContained
  repeat' first
    | with_reducible exact h
    | (extract_lets +onlyGivenNames a; (have y : FclSt := a; clear y); dsimp -zeta only [a]; clear a)
    | with_reducible apply Keeps.ite
    | fail_if_no_progress (with_reducible refine Keeps.set_fcl_faultState ?_ (mask_trans (by decide) hw) _ (by first | ((with_reducible repeat' constructor); done) | (split <;> repeat' constructor)))

/-- `reactContained` may change: regs, cfg, firstItem, boot, tdc, pfe, esq, hse, fib, tae, tines, tinJobs, mcd, queues, mailboxItems, lostMarks, portUp, portDn, lanes, merging, cascade, vectors, mailbox, messages, fences, grafting, faultState, freeIdx. -/
theorem reactContained_keeps (x0 : FaultMsg) {w : Nat} {s0 s : State} (hw : 117820591038095 &&& w = 117820591038095) (h : Keeps w s0 s) :
    Keeps w s0 (reactContained x0 s) := by
  unfold reactContained
  repeat' first
    | with_reducible exact h
    | exact mask_trans (by decide) hw
    | with_reducible apply abandonGraft_keeps
    | with_reducible apply fenceUnit_keeps
    | with_reducible apply setCause_keeps
    | with_reducible apply setContained_keeps
    | with_reducible apply Keeps.ite
    | split

/-- `fatalRecord` may change: faultState. -/
theorem fatalRecord_keeps (x0 : FaultMsg) {w : Nat} {s0 s : State} (hw : 35184372088832 &&& w = 35184372088832) (h : Keeps w s0 s) :
    Keeps w s0 (fatalRecord x0 s) := by
  unfold fatalRecord
  repeat' first
    | with_reducible exact h
    | (extract_lets +onlyGivenNames a; (have y : FclSt := a; clear y); dsimp -zeta only [a]; clear a)
    | fail_if_no_progress (with_reducible refine Keeps.set_fcl_faultState ?_ (mask_trans (by decide) hw) _ (by first | ((with_reducible repeat' constructor); done) | (split <;> repeat' constructor)))

/-- `reactFatal` may change: regs, tdc, pfe, fib, mcd, mailboxItems, hkp, lanes, cloche, vectors, mailbox, messages, grafting, faultState. -/
theorem reactFatal_keeps (x0 : FaultMsg) {w : Nat} {s0 s : State} (hw : 45254076535425 &&& w = 45254076535425) (h : Keeps w s0 s) :
    Keeps w s0 (reactFatal x0 s) := by
  unfold reactFatal
  repeat' first
    | with_reducible exact h
    | with_reducible assumption
    | (extract_lets +onlyGivenNames a; with_reducible refine Keeps.cut (w := w) (s := s0) a ?_ (fun ha => ?_); (on_goal 2 => clear_value a); (on_goal 1 => (dsimp -zeta only [a]; clear a)))
    | (extract_lets +onlyGivenNames a; (have y : FclSt := a; clear y); dsimp -zeta only [a]; clear a)
    | exact mask_trans (by decide) hw
    | with_reducible apply abandonGraft_keeps
    | with_reducible apply fatalRecord_keeps
    | with_reducible apply orderlyStart_keeps
    | with_reducible apply partStop_keeps
    | with_reducible apply raise_keeps
    | with_reducible apply Keeps.ite
    | fail_if_no_progress (with_reducible refine Keeps.set_fcl_faultState ?_ (mask_trans (by decide) hw) _ (by first | ((with_reducible repeat' constructor); done) | (split <;> repeat' constructor)))

/-- `onFaultMessage` may change: regs, cfg, firstItem, boot, tdc, pfe, esq, hse, fib, tae, tines, tinJobs, mcd, queues, mailboxItems, lostMarks, hkp, portUp, portDn, lanes, merging, cascade, cloche, vectors, mailbox, messages, fences, faultLog, grafting, faultState, freeIdx. -/
theorem onFaultMessage_keeps (x0 : FaultMsg) {w : Nat} {s0 s : State} (hw : 122220801810063 &&& w = 122220801810063) (h : Keeps w s0 s) :
    Keeps w s0 (onFaultMessage x0 s) := by
  unfold onFaultMessage
  repeat' first
    | with_reducible exact h
    | with_reducible assumption
    | (extract_lets +onlyGivenNames a; with_reducible refine Keeps.cut (w := w) (s := s0) a ?_ (fun ha => ?_); (on_goal 2 => clear_value a); (on_goal 1 => (dsimp -zeta only [a]; clear a)))
    | (extract_lets +onlyGivenNames a; (have y : FclSt := a; clear y); dsimp -zeta only [a]; clear a)
    | exact mask_trans (by decide) hw
    | with_reducible apply countMsg_keeps
    | with_reducible apply logMsg_keeps
    | with_reducible apply reactContained_keeps
    | with_reducible apply reactFatal_keeps
    | with_reducible apply Keeps.ite
    | split
    | fail_if_no_progress (with_reducible refine Keeps.set_fcl_messages ?_ (mask_trans (by decide) hw) _ (by first | ((with_reducible repeat' constructor); done) | (split <;> repeat' constructor)))

/-- `memFault` may change: regs, vectors, messages. -/
theorem memFault_keeps (x0 : ℕ) (x1 : FaultClass) (x2 : ℕ) (x3 : ℕ) {w : Nat} {s0 s : State} (hw : 1133871366145 &&& w = 1133871366145) (h : Keeps w s0 s) :
    Keeps w s0 (memFault x0 x1 x2 x3 s) := by
  unfold memFault
  repeat' first
    | with_reducible exact h
    | exact mask_trans (by decide) hw
    | with_reducible apply post_keeps
    | with_reducible apply raise_keeps

/-- `onMemoryEccError` may change: regs, firstItem, tb, esq, tae, mcd, queues, lostMarks, portUp, portDn, merging, vectors, mailbox, messages, freeIdx. -/
theorem onMemoryEccError_keeps (x0 : MemArea) (x1 : Bool) (x2 : Tick) {w : Nat} {s0 s : State} (hw : 71640429380677 &&& w = 71640429380677) (h : Keeps w s0 s) :
    Keeps w s0 (onMemoryEccError x0 x1 x2 s) := by
  unfold onMemoryEccError
  repeat' first
    | with_reducible exact h
    | with_reducible assumption
    | (extract_lets +onlyGivenNames a; with_reducible refine Keeps.cut (w := w) (s := s0) a ?_ (fun ha => ?_); (on_goal 2 => clear_value a); (on_goal 1 => (dsimp -zeta only [a]; clear a)))
    | exact mask_trans (by decide) hw
    | with_reducible apply advance_keeps
    | with_reducible apply bump_keeps
    | with_reducible apply fault_keeps
    | with_reducible apply hitWord_keeps
    | with_reducible apply ledgerFault_keeps
    | with_reducible apply memFault_keeps
    | with_reducible apply post_keeps
    | with_reducible apply raise_keeps
    | with_reducible apply ringLost_keeps
    | with_reducible apply slotLost_keeps
    | with_reducible apply Keeps.ite
    | split

end Sys2Proof.Machine
end

