-- ==== Sys2Proof/Laws/KeepLoops.lean ====
section
/-! SUPPORT. What each operation of Machine/Loops.lean may change: one lemma per operation, by the bits of the parts
of State (Sys2Proof.Machine.Part.bit). -/

namespace Sys2Proof.Machine

/-- `dutyUsed` may change: freeIdx. -/
theorem dutyUsed_keeps (x0 : ℕ) (x1 : ℕ) {w : Nat} {s0 s : State} (hw : 70368744177664 &&& w = 70368744177664) (h : Keeps w s0 s) :
    Keeps w s0 (dutyUsed x0 x1 s) := by
  unfold dutyUsed
  repeat' first
    | with_reducible exact h
    | with_reducible assumption
    | with_reducible apply quantUsed_keeps
    | with_reducible apply useFree_keeps
    | with_reducible apply Keeps.ite

/-- `setLoop` may change: cle. -/
theorem setLoop_keeps (x0 : ℕ) (x1 : LoopSt) {w : Nat} {s0 s : State} (hw : 131072 &&& w = 131072) (h : Keeps w s0 s) :
    Keeps w s0 (setLoop x0 x1 s) := by
  unfold setLoop
  repeat' first
    | with_reducible exact h
    | (extract_lets +onlyGivenNames a; clear_value a)
    | fail_if_no_progress (with_reducible refine Keeps.set_cle ?_ (mask_trans (by decide) hw) _)

/-- `cleRound` may change: cle, freeIdx. -/
theorem cleRound_keeps  {w : Nat} {s0 s : State} (hw : 70368744308736 &&& w = 70368744308736) (h : Keeps w s0 s) :
    Keeps w s0 (cleRound s) := by
  unfold cleRound
  repeat' first
    | with_reducible exact h
    | with_reducible assumption
    | (extract_lets +onlyGivenNames a; clear_value a)
    | exact mask_trans (by decide) hw
    | with_reducible apply dutyUsed_keeps
    | with_reducible apply setLoop_keeps
    | with_reducible apply Keeps.ite
    | (with_reducible apply Keeps.foldl; intros)

/-- `setAsf` may change: asf. -/
theorem setAsf_keeps (x0 : ℕ) (x1 : AsfCh) {w : Nat} {s0 s : State} (hw : 262144 &&& w = 262144) (h : Keeps w s0 s) :
    Keeps w s0 (setAsf x0 x1 s) := by
  unfold setAsf
  repeat' first
    | with_reducible exact h
    | (extract_lets +onlyGivenNames a; clear_value a)
    | fail_if_no_progress (with_reducible refine Keeps.set_asf ?_ (mask_trans (by decide) hw) _)

/-- `asfClose` may change: regs, firstItem, fdc, asf, mcd, queues, lostMarks, portUp, portDn, merging, vectors, messages, freeIdx. -/
theorem asfClose_keeps (x0 : ℕ) (x1 : TagCtx) {w : Nat} {s0 s : State} (hw : 71502990680069 &&& w = 71502990680069) (h : Keeps w s0 s) :
    Keeps w s0 (asfClose x0 x1 s) := by
  unfold asfClose
  repeat' first
    | with_reducible exact h
    | with_reducible assumption
    | (extract_lets +onlyGivenNames a; clear_value a)
    | exact mask_trans (by decide) hw
    | with_reducible apply emit_keeps
    | with_reducible apply fdcFeedAux_keeps
    | with_reducible apply setAsf_keeps
    | with_reducible apply Keeps.ite
    | (with_reducible apply Keeps.foldl; intros)

/-- `asfCloseAll` may change: regs, firstItem, fdc, asf, mcd, queues, lostMarks, portUp, portDn, merging, vectors, messages, freeIdx. -/
theorem asfCloseAll_keeps (x0 : TagCtx) {w : Nat} {s0 s : State} (hw : 71502990680069 &&& w = 71502990680069) (h : Keeps w s0 s) :
    Keeps w s0 (asfCloseAll x0 s) := by
  unfold asfCloseAll
  repeat' first
    | with_reducible exact h
    | with_reducible assumption
    | with_reducible apply asfClose_keeps
    | (with_reducible apply Keeps.foldl; intros)

/-- `cleItem` may change: regs, firstItem, cle, mcd, queues, lostMarks, portUp, portDn, merging, vectors, messages, freeIdx. -/
theorem cleItem_keeps (x0 : TagCtx) {w : Nat} {s0 s : State} (hw : 71502990540805 &&& w = 71502990540805) (h : Keeps w s0 s) :
    Keeps w s0 (cleItem x0 s) := by
  unfold cleItem
  repeat' first
    | with_reducible exact h
    | with_reducible assumption
    | (extract_lets +onlyGivenNames a; with_reducible refine Keeps.cut (w := w) (s := s0) a ?_ (fun ha => ?_); (on_goal 2 => clear_value a); (on_goal 1 => (dsimp -zeta only [a]; clear a)))
    | (extract_lets +onlyGivenNames a; with_reducible refine Keeps.cut (w := w) (s := s0) a.2 ?_ (fun ha => ?_); (on_goal 2 => clear_value a); (on_goal 1 => (dsimp -zeta only [a]; clear a)))
    | (extract_lets +onlyGivenNames a; clear_value a)
    | exact mask_trans (by decide) hw
    | with_reducible apply dutyUsed_keeps
    | with_reducible apply emit_keeps
    | with_reducible apply setLoop_keeps
    | with_reducible apply Keeps.ite
    | (with_reducible apply Keeps.foldl_snd; intros)

/-- `cleTakePlan` may change: cle. -/
theorem cleTakePlan_keeps (x0 : ImgRec) {w : Nat} {s0 s : State} (hw : 131072 &&& w = 131072) (h : Keeps w s0 s) :
    Keeps w s0 (cleTakePlan x0 s) := by
  unfold cleTakePlan
  repeat' first
    | with_reducible exact h
    | with_reducible assumption
    | (extract_lets +onlyGivenNames a; clear_value a)
    | with_reducible apply setLoop_keeps
    | (with_reducible apply Keeps.foldl; intros)

/-- `openStep` may change: regs, asf, vectors, messages, freeIdx. -/
theorem openStep_keeps (x0 : ℕ) (x1 : Bool) {w : Nat} {s0 s : State} (hw : 71502615805953 &&& w = 71502615805953) (h : Keeps w s0 s) :
    Keeps w s0 (openStep x0 x1 s) := by
  unfold openStep
  repeat' first
    | with_reducible exact h
    | with_reducible assumption
    | (extract_lets +onlyGivenNames a; with_reducible refine Keeps.cut (w := w) (s := s0) a ?_ (fun ha => ?_); (on_goal 2 => clear_value a); (on_goal 1 => (dsimp -zeta only [a]; clear a)))
    | (extract_lets +onlyGivenNames a; clear_value a)
    | exact mask_trans (by decide) hw
    | with_reducible apply bump_keeps
    | with_reducible apply fault_keeps
    | with_reducible apply raise_keeps
    | with_reducible apply setAsf_keeps
    | with_reducible apply stick_keeps
    | with_reducible apply Keeps.ite

/-- `cleFeedback` may change: cle. -/
theorem cleFeedback_keeps (x0 : ℕ) (x1 : ℤ) (x2 : Bool) (x3 : Bool) {w : Nat} {s0 s : State} (hw : 131072 &&& w = 131072) (h : Keeps w s0 s) :
    Keeps w s0 (cleFeedback x0 x1 x2 x3 s) := by
  unfold cleFeedback
  repeat' first
    | with_reducible exact h
    | with_reducible assumption
    | (extract_lets +onlyGivenNames a; clear_value a)
    | with_reducible apply setLoop_keeps
    | with_reducible apply Keeps.ite
    | (with_reducible apply Keeps.foldl; intros)

/-- `asfResult` may change: regs, firstItem, fdc, cle, asf, mcd, queues, lostMarks, portUp, portDn, merging, vectors, messages, freeIdx. -/
theorem asfResult_keeps (x0 : ℕ) (x1 : TagCtx) (x2 : ℤ) (x3 : Bool) (x4 : Bool) (x5 : Bool) (x6 : Bool) {w : Nat} {s0 s : State} (hw : 71502990811141 &&& w = 71502990811141) (h : Keeps w s0 s) :
    Keeps w s0 (asfResult x0 x1 x2 x3 x4 x5 x6 s) := by
  unfold asfResult
  repeat' first
    | with_reducible exact h
    | with_reducible assumption
    | (extract_lets +onlyGivenNames a; with_reducible refine Keeps.cut (w := w) (s := s0) a ?_ (fun ha => ?_); (on_goal 2 => clear_value a); (on_goal 1 => (dsimp -zeta only [a]; clear a)))
    | (extract_lets +onlyGivenNames a; clear_value a)
    | exact mask_trans (by decide) hw
    | with_reducible apply asfClose_keeps
    | with_reducible apply cleFeedback_keeps
    | with_reducible apply setAsf_keeps
    | with_reducible apply stick_keeps
    | with_reducible apply Keeps.ite

/-- `chargeConv` may change: regs, firstItem, fdc, cle, asf, mcd, queues, lostMarks, portUp, portDn, merging, vectors, messages, freeIdx. -/
theorem chargeConv_keeps (x0 : ℕ) (x1 : TagCtx) (x2 : ℚ) (x3 : Bool) {w : Nat} {s0 s : State} (hw : 71502990811141 &&& w = 71502990811141) (h : Keeps w s0 s) :
    Keeps w s0 (chargeConv x0 x1 x2 x3 s) := by
  unfold chargeConv
  repeat' first
    | with_reducible exact h
    | with_reducible assumption
    | (extract_lets +onlyGivenNames a; with_reducible refine Keeps.cut (w := w) (s := s0) a ?_ (fun ha => ?_); (on_goal 2 => clear_value a); (on_goal 1 => (dsimp -zeta only [a]; clear a)))
    | (extract_lets +onlyGivenNames a; clear_value a)
    | exact mask_trans (by decide) hw
    | with_reducible apply asfResult_keeps
    | with_reducible apply raise_keeps
    | with_reducible apply setAsf_keeps
    | with_reducible apply stick_keeps
    | with_reducible apply useFree_keeps
    | with_reducible apply Keeps.ite

/-- `onAsfConversion` may change: regs, firstItem, tb, fdc, cle, asf, mcd, queues, lostMarks, portUp, portDn, merging, vectors, messages, freeIdx. -/
theorem onAsfConversion_keeps (x0 : Fin 8) (x1 : ℚ) (x2 : Bool) (x3 : BitVec 4) (x4 : Tick) {w : Nat} {s0 s : State} (hw : 71502990811205 &&& w = 71502990811205) (h : Keeps w s0 s) :
    Keeps w s0 (onAsfConversion x0 x1 x2 x3 x4 s) := by
  unfold onAsfConversion
  repeat' first
    | with_reducible exact h
    | with_reducible assumption
    | (extract_lets +onlyGivenNames a; with_reducible refine Keeps.cut (w := w) (s := s0) a ?_ (fun ha => ?_); (on_goal 2 => clear_value a); (on_goal 1 => (dsimp -zeta only [a]; clear a)))
    | (extract_lets +onlyGivenNames a; clear_value a)
    | exact mask_trans (by decide) hw
    | with_reducible apply advance_keeps
    | with_reducible apply asfResult_keeps
    | with_reducible apply chargeConv_keeps
    | with_reducible apply openStep_keeps
    | with_reducible apply setAsf_keeps
    | with_reducible apply useFree_keeps
    | with_reducible apply Keeps.ite
    | fail_if_no_progress (with_reducible refine Keeps.set_asf ?_ (mask_trans (by decide) hw) _)

/-- `onCleSpLost` may change: regs, tb, cle, vectors, messages. -/
theorem onCleSpLost_keeps (x0 : Fin 8) (x1 : Tick) {w : Nat} {s0 s : State} (hw : 1133871497281 &&& w = 1133871497281) (h : Keeps w s0 s) :
    Keeps w s0 (onCleSpLost x0 x1 s) := by
  unfold onCleSpLost
  repeat' first
    | with_reducible exact h
    | with_reducible assumption
    | (extract_lets +onlyGivenNames a; with_reducible refine Keeps.cut (w := w) (s := s0) a ?_ (fun ha => ?_); (on_goal 2 => clear_value a); (on_goal 1 => (dsimp -zeta only [a]; clear a)))
    | (extract_lets +onlyGivenNames a; clear_value a)
    | exact mask_trans (by decide) hw
    | with_reducible apply advance_keeps
    | with_reducible apply fault_keeps
    | with_reducible apply setLoop_keeps
    | with_reducible apply stick_keeps
    | with_reducible apply Keeps.ite

/-- `onLspEdge` may change: cle, freeIdx. -/
theorem onLspEdge_keeps (x0 : Fin 8) (x1 : ℕ) (x2 : ℕ) {w : Nat} {s0 s : State} (hw : 70368744308736 &&& w = 70368744308736) (h : Keeps w s0 s) :
    Keeps w s0 (onLspEdge x0 x1 x2 s) := by
  unfold onLspEdge
  repeat' first
    | with_reducible exact h
    | (extract_lets +onlyGivenNames a; clear_value a)
    | exact mask_trans (by decide) hw
    | with_reducible apply quantUsed_keeps
    | with_reducible apply setLoop_keeps
    | split

/-- `onLoopSample` may change: regs, tb, cle, vectors, messages. -/
theorem onLoopSample_keeps (x0 : Fin 8) (x1 : BitVec 12) (x2 : BitVec 12) (x3 : Tick) {w : Nat} {s0 s : State} (hw : 1133871497281 &&& w = 1133871497281) (h : Keeps w s0 s) :
    Keeps w s0 (onLoopSample x0 x1 x2 x3 s) := by
  unfold onLoopSample
  repeat' first
    | with_reducible exact h
    | with_reducible assumption
    | (extract_lets +onlyGivenNames a; with_reducible refine Keeps.cut (w := w) (s := s0) a ?_ (fun ha => ?_); (on_goal 2 => clear_value a); (on_goal 1 => (dsimp -zeta only [a]; clear a)))
    | (extract_lets +onlyGivenNames a; clear_value a)
    | exact mask_trans (by decide) hw
    | with_reducible apply advance_keeps
    | with_reducible apply fault_keeps
    | with_reducible apply raise_keeps
    | with_reducible apply setLoop_keeps
    | with_reducible apply stick_keeps
    | with_reducible apply Keeps.ite

/-- `auxItems` may change: regs, firstItem, fdc, cle, asf, mcd, queues, lostMarks, portUp, portDn, merging, vectors, messages, freeIdx. -/
theorem auxItems_keeps (x0 : TagCtx) {w : Nat} {s0 s : State} (hw : 71502990811141 &&& w = 71502990811141) (h : Keeps w s0 s) :
    Keeps w s0 (auxItems x0 s) := by
  unfold auxItems
  repeat' first
    | with_reducible exact h
    | exact mask_trans (by decide) hw
    | with_reducible apply asfCloseAll_keeps
    | with_reducible apply cleItem_keeps

end Sys2Proof.Machine
end

