-- ==== Sys2Proof/Laws/KeepHkp.lean ====
section
/-! SUPPORT. What each operation of Machine/Hkp.lean may change: one lemma per operation, by the bits of the parts
of State (Sys2Proof.Machine.Part.bit). -/

namespace Sys2Proof.Machine

/-- `discardStamps` may change: tsu, queues. -/
theorem discardStamps_keeps  {w : Nat} {s0 s : State} (hw : 1048832 &&& w = 1048832) (h : Keeps w s0 s) :
    Keeps w s0 (discardStamps s) := by
  unfold discardStamps
  repeat' first
    | with_reducible exact h
    | (extract_lets +onlyGivenNames a; (have y : QsySt := a; clear y); dsimp -zeta only [a]; clear a)
    | (extract_lets +onlyGivenNames a; clear_value a)
    | fail_if_no_progress (with_reducible refine Keeps.set_tsu_qsy_queues ?_ (mask_trans (by decide) hw) _ _ (by first | ((with_reducible repeat' constructor); done) | (split <;> repeat' constructor)))

/-- `discardRunning` may change: tdc, tsu, esq, hse, fib, queues. -/
theorem discardRunning_keeps  {w : Nat} {s0 s : State} (hw : 1056128 &&& w = 1056128) (h : Keeps w s0 s) :
    Keeps w s0 (discardRunning s) := by
  unfold discardRunning
  repeat' first
    | with_reducible exact h
    | with_reducible assumption
    | (extract_lets +onlyGivenNames a; with_reducible refine Keeps.cut (w := w) (s := s0) a ?_ (fun ha => ?_); (on_goal 2 => clear_value a); (on_goal 1 => (dsimp -zeta only [a]; clear a)))
    | (extract_lets +onlyGivenNames a; clear_value a)
    | exact mask_trans (by decide) hw
    | with_reducible apply discardStamps_keeps
    | fail_if_no_progress (with_reducible refine Keeps.set_tdc_esq_hse_fib ?_ (mask_trans (by decide) hw) _ _ _ _)

/-- `biasTemps` may change: hkp. -/
theorem biasTemps_keeps  {w : Nat} {s0 s : State} (hw : 16777216 &&& w = 16777216) (h : Keeps w s0 s) :
    Keeps w s0 (biasTemps s) := by
  unfold biasTemps
  repeat' first
    | with_reducible exact h
    | (extract_lets +onlyGivenNames a; clear_value a)
    | split
    | fail_if_no_progress (with_reducible refine Keeps.set_hkp ?_ (mask_trans (by decide) hw) _)

/-- `supplyRound` may change: regs, hkp, vectors, messages, freeIdx. -/
theorem supplyRound_keeps (x0 : ℕ) (x1 : ℕ) {w : Nat} {s0 s : State} (hw : 71502632321025 &&& w = 71502632321025) (h : Keeps w s0 s) :
    Keeps w s0 (supplyRound x0 x1 s) := by
  unfold supplyRound
  repeat' first
    | with_reducible exact h
    | with_reducible assumption
    | (extract_lets +onlyGivenNames a; with_reducible refine Keeps.cut (w := w) (s := s0) a ?_ (fun ha => ?_); (on_goal 2 => clear_value a); (on_goal 1 => (dsimp -zeta only [a]; clear a)))
    | (extract_lets +onlyGivenNames a; clear_value a)
    | exact mask_trans (by decide) hw
    | with_reducible apply bump_keeps
    | with_reducible apply fault_keeps
    | with_reducible apply stick_keeps
    | with_reducible apply Keeps.ite
    | fail_if_no_progress (with_reducible refine Keeps.set_hkp ?_ (mask_trans (by decide) hw) _)

/-- `setSensor` may change: hkp. -/
theorem setSensor_keeps (x0 : ℕ) (x1 : SensorSt) {w : Nat} {s0 s : State} (hw : 16777216 &&& w = 16777216) (h : Keeps w s0 s) :
    Keeps w s0 (setSensor x0 x1 s) := by
  unfold setSensor
  repeat' first
    | with_reducible exact h
    | (extract_lets +onlyGivenNames a; clear_value a)
    | fail_if_no_progress (with_reducible refine Keeps.set_hkp ?_ (mask_trans (by decide) hw) _)

/-- `sensorRound` may change: regs, hkp, vectors, messages, freeIdx. -/
theorem sensorRound_keeps (x0 : ℕ) (x1 : SensorReading) {w : Nat} {s0 s : State} (hw : 71502632321025 &&& w = 71502632321025) (h : Keeps w s0 s) :
    Keeps w s0 (sensorRound x0 x1 s) := by
  unfold sensorRound
  repeat' first
    | with_reducible exact h
    | with_reducible assumption
    | (extract_lets +onlyGivenNames a; with_reducible refine Keeps.cut (w := w) (s := s0) a ?_ (fun ha => ?_); (on_goal 2 => clear_value a); (on_goal 1 => (dsimp -zeta only [a]; clear a)))
    | (extract_lets +onlyGivenNames a; clear_value a)
    | exact mask_trans (by decide) hw
    | with_reducible apply bumpAt_keeps
    | with_reducible apply fault_keeps
    | with_reducible apply setSensor_keeps
    | with_reducible apply stick_keeps
    | with_reducible apply Keeps.ite

/-- `bandRound` may change: regs, hkp, vectors. -/
theorem bandRound_keeps  {w : Nat} {s0 s : State} (hw : 34376515585 &&& w = 34376515585) (h : Keeps w s0 s) :
    Keeps w s0 (bandRound s) := by
  unfold bandRound
  repeat' first
    | with_reducible exact h
    | (extract_lets +onlyGivenNames a; clear_value a)
    | exact mask_trans (by decide) hw
    | with_reducible apply raise_keeps
    | with_reducible apply stick_keeps
    | with_reducible apply Keeps.ite
    | fail_if_no_progress (with_reducible refine Keeps.set_hkp ?_ (mask_trans (by decide) hw) _)

/-- `biasRound` may change: regs, pfe, vectors, messages. -/
theorem biasRound_keeps (x0 : ℕ) (x1 : ℕ) {w : Nat} {s0 s : State} (hw : 1133871366657 &&& w = 1133871366657) (h : Keeps w s0 s) :
    Keeps w s0 (biasRound x0 x1 s) := by
  unfold biasRound
  repeat' first
    | with_reducible exact h
    | with_reducible assumption
    | (extract_lets +onlyGivenNames a; with_reducible refine Keeps.cut (w := w) (s := s0) a ?_ (fun ha => ?_); (on_goal 2 => clear_value a); (on_goal 1 => (dsimp -zeta only [a]; clear a)))
    | (extract_lets +onlyGivenNames a; clear_value a)
    | exact mask_trans (by decide) hw
    | with_reducible apply biasCheck_keeps
    | with_reducible apply setBias_keeps
    | with_reducible apply Keeps.ite
    | split

/-- `hkAuxRound` may change: regs, asf, hkp, vectors, messages. -/
theorem hkAuxRound_keeps (x0 : ℕ) {w : Nat} {s0 s : State} (hw : 1133888405505 &&& w = 1133888405505) (h : Keeps w s0 s) :
    Keeps w s0 (hkAuxRound x0 s) := by
  unfold hkAuxRound
  repeat' first
    | with_reducible exact h
    | with_reducible assumption
    | (extract_lets +onlyGivenNames a; with_reducible refine Keeps.cut (w := w) (s := s0) a ?_ (fun ha => ?_); (on_goal 2 => clear_value a); (on_goal 1 => (dsimp -zeta only [a]; clear a)))
    | (extract_lets +onlyGivenNames a; clear_value a)
    | exact mask_trans (by decide) hw
    | with_reducible apply fault_keeps
    | with_reducible apply setAsf_keeps
    | with_reducible apply stick_keeps
    | with_reducible apply Keeps.ite
    | split
    | fail_if_no_progress (with_reducible refine Keeps.set_hkp ?_ (mask_trans (by decide) hw) _)

/-- `suspectRound` may change: regs, hkp, vectors, messages, freeIdx. -/
theorem suspectRound_keeps (x0 : ℤ) (x1 : ℕ) {w : Nat} {s0 s : State} (hw : 71502632321025 &&& w = 71502632321025) (h : Keeps w s0 s) :
    Keeps w s0 (suspectRound x0 x1 s) := by
  unfold suspectRound
  repeat' first
    | with_reducible exact h
    | with_reducible assumption
    | (extract_lets +onlyGivenNames a; with_reducible refine Keeps.cut (w := w) (s := s0) a ?_ (fun ha => ?_); (on_goal 2 => clear_value a); (on_goal 1 => (dsimp -zeta only [a]; clear a)))
    | (extract_lets +onlyGivenNames a; clear_value a)
    | exact mask_trans (by decide) hw
    | with_reducible apply bumpAt_keeps
    | with_reducible apply fault_keeps
    | with_reducible apply setSensor_keeps
    | with_reducible apply stick_keeps
    | with_reducible apply Keeps.ite

/-- `nbhdRound` may change: regs, hkp, vectors, messages, freeIdx. -/
theorem nbhdRound_keeps (x0 : ℕ) {w : Nat} {s0 s : State} (hw : 71502632321025 &&& w = 71502632321025) (h : Keeps w s0 s) :
    Keeps w s0 (nbhdRound x0 s) := by
  unfold nbhdRound
  repeat' first
    | with_reducible exact h
    | with_reducible assumption
    | (extract_lets +onlyGivenNames a; with_reducible refine Keeps.cut (w := w) (s := s0) a ?_ (fun ha => ?_); (on_goal 2 => clear_value a); (on_goal 1 => (dsimp -zeta only [a]; clear a)))
    | (extract_lets +onlyGivenNames a; clear_value a)
    | exact mask_trans (by decide) hw
    | with_reducible apply fault_keeps
    | with_reducible apply suspectRound_keeps
    | with_reducible apply Keeps.ite
    | split
    | fail_if_no_progress (with_reducible refine Keeps.set_hkp ?_ (mask_trans (by decide) hw) _)

/-- `padRound` may change: regs, vectors, messages, pads. -/
theorem padRound_keeps (x0 : Bool) (x1 : Bool) {w : Nat} {s0 s : State} (hw : 18726057410561 &&& w = 18726057410561) (h : Keeps w s0 s) :
    Keeps w s0 (padRound x0 x1 s) := by
  unfold padRound
  repeat' first
    | with_reducible exact h
    | with_reducible assumption
    | (extract_lets +onlyGivenNames a; with_reducible refine Keeps.cut (w := w) (s := s0) a ?_ (fun ha => ?_); (on_goal 2 => clear_value a); (on_goal 1 => (dsimp -zeta only [a]; clear a)))
    | (extract_lets +onlyGivenNames a; (have y : FclSt := a; clear y); dsimp -zeta only [a]; clear a)
    | (extract_lets +onlyGivenNames a; clear_value a)
    | exact mask_trans (by decide) hw
    | with_reducible apply post_keeps
    | with_reducible apply raise_keeps
    | with_reducible apply Keeps.ite
    | fail_if_no_progress (with_reducible refine Keeps.set_fcl_pads ?_ (mask_trans (by decide) hw) _ (by first | ((with_reducible repeat' constructor); done) | (split <;> repeat' constructor)))

/-- `reraise` may change: regs, vectors, messages. -/
theorem reraise_keeps  {w : Nat} {s0 s : State} (hw : 1133871366145 &&& w = 1133871366145) (h : Keeps w s0 s) :
    Keeps w s0 (reraise s) := by
  unfold reraise
  repeat' first
    | with_reducible exact h
    | with_reducible assumption
    | (extract_lets +onlyGivenNames a; with_reducible refine Keeps.cut (w := w) (s := s0) a ?_ (fun ha => ?_); (on_goal 2 => clear_value a); (on_goal 1 => (dsimp -zeta only [a]; clear a)))
    | (extract_lets +onlyGivenNames a; clear_value a)
    | with_reducible apply fault_keeps
    | with_reducible apply Keeps.ite

/-- `drivesLow` may change: esq, cle. -/
theorem drivesLow_keeps  {w : Nat} {s0 s : State} (hw : 132096 &&& w = 132096) (h : Keeps w s0 s) :
    Keeps w s0 (drivesLow s) := by
  unfold drivesLow
  repeat' first
    | with_reducible exact h
    | (extract_lets +onlyGivenNames a; clear_value a)
    | fail_if_no_progress (with_reducible refine Keeps.set_esq_cle ?_ (mask_trans (by decide) hw) _ _)

/-- `hardCut` may change: regs, tdc, tsu, esq, hse, fib, cle, queues, mailboxItems, ala, hkp, portUp, portDn, lanes, cloche, vectors, mailbox, messages, fences, grafting, freeIdx. -/
theorem hardCut_keeps (x0 : ℕ) (x1 : ℕ) {w : Nat} {s0 s : State} (hw : 82637581589889 &&& w = 82637581589889) (h : Keeps w s0 s) :
    Keeps w s0 (hardCut x0 x1 s) := by
  unfold hardCut
  repeat' first
    | with_reducible exact h
    | with_reducible assumption
    | (extract_lets +onlyGivenNames a; with_reducible refine Keeps.cut (w := w) (s := s0) a ?_ (fun ha => ?_); (on_goal 2 => clear_value a); (on_goal 1 => (dsimp -zeta only [a]; clear a)))
    | (extract_lets +onlyGivenNames a; clear_value a)
    | exact mask_trans (by decide) hw
    | with_reducible apply discardRunning_keeps
    | with_reducible apply drivesLow_keeps
    | with_reducible apply fault_keeps
    | with_reducible apply installStop_keeps
    | with_reducible apply partStop_keeps
    | fail_if_no_progress (with_reducible refine Keeps.set_esq_hkp ?_ (mask_trans (by decide) hw) _ _)

/-- `orderlyStop` may change: regs, hkp, cloche, vectors, messages. -/
theorem orderlyStop_keeps (x0 : ℕ) (x1 : ℕ) {w : Nat} {s0 s : State} (hw : 1136035627009 &&& w = 1136035627009) (h : Keeps w s0 s) :
    Keeps w s0 (orderlyStop x0 x1 s) := by
  unfold orderlyStop
  repeat' first
    | with_reducible exact h
    | with_reducible assumption
    | (extract_lets +onlyGivenNames a; with_reducible refine Keeps.cut (w := w) (s := s0) a ?_ (fun ha => ?_); (on_goal 2 => clear_value a); (on_goal 1 => (dsimp -zeta only [a]; clear a)))
    | (extract_lets +onlyGivenNames a; clear_value a)
    | exact mask_trans (by decide) hw
    | with_reducible apply fault_keeps
    | with_reducible apply orderlyStart_keeps
    | with_reducible apply partStop_keeps
    | fail_if_no_progress (with_reducible refine Keeps.set_hkp ?_ (mask_trans (by decide) hw) _)

/-- `stopRound` may change: regs, tdc, tsu, esq, hse, fib, cle, queues, mailboxItems, ala, hkp, portUp, portDn, lanes, cloche, vectors, mailbox, messages, fences, grafting, freeIdx. -/
theorem stopRound_keeps  {w : Nat} {s0 s : State} (hw : 82637581589889 &&& w = 82637581589889) (h : Keeps w s0 s) :
    Keeps w s0 (stopRound s) := by
  unfold stopRound
  repeat' first
    | with_reducible exact h
    | with_reducible assumption
    | exact mask_trans (by decide) hw
    | with_reducible apply hardCut_keeps
    | with_reducible apply orderlyStop_keeps
    | with_reducible apply Keeps.ite
    | split

/-- `throttleRound` may change: regs, ala, vectors, messages. -/
theorem throttleRound_keeps  {w : Nat} {s0 s : State} (hw : 1133879754753 &&& w = 1133879754753) (h : Keeps w s0 s) :
    Keeps w s0 (throttleRound s) := by
  unfold throttleRound
  repeat' first
    | with_reducible exact h
    | with_reducible assumption
    | (extract_lets +onlyGivenNames a; with_reducible refine Keeps.cut (w := w) (s := s0) a ?_ (fun ha => ?_); (on_goal 2 => clear_value a); (on_goal 1 => (dsimp -zeta only [a]; clear a)))
    | (extract_lets +onlyGivenNames a; clear_value a)
    | exact mask_trans (by decide) hw
    | with_reducible apply fault_keeps
    | with_reducible apply stick_keeps
    | with_reducible apply Keeps.ite
    | fail_if_no_progress (with_reducible refine Keeps.set_ala ?_ (mask_trans (by decide) hw) _)

/-- `warmRound` may change: regs, tb, vectors, messages. -/
theorem warmRound_keeps  {w : Nat} {s0 s : State} (hw : 1133871366209 &&& w = 1133871366209) (h : Keeps w s0 s) :
    Keeps w s0 (warmRound s) := by
  unfold warmRound
  repeat' first
    | with_reducible exact h
    | with_reducible assumption
    | (extract_lets +onlyGivenNames a; with_reducible refine Keeps.cut (w := w) (s := s0) a ?_ (fun ha => ?_); (on_goal 2 => clear_value a); (on_goal 1 => (dsimp -zeta only [a]; clear a)))
    | (extract_lets +onlyGivenNames a; clear_value a)
    | exact mask_trans (by decide) hw
    | with_reducible apply fault_keeps
    | with_reducible apply stick_keeps
    | with_reducible apply Keeps.ite
    | fail_if_no_progress (with_reducible refine Keeps.set_tb ?_ (mask_trans (by decide) hw) _)

/-- `onHousekeepingRound` may change: regs, tb, tdc, tsu, pfe, esq, hse, fib, cle, asf, queues, mailboxItems, ala, hkp, portUp, portDn, lanes, cloche, vectors, mailbox, messages, fences, grafting, pads, faultState, freeIdx. -/
theorem onHousekeepingRound_keeps (x0 : HkRound) (x1 : Tick) {w : Nat} {s0 s : State} (hw : 135414139985857 &&& w = 135414139985857) (h : Keeps w s0 s) :
    Keeps w s0 (onHousekeepingRound x0 x1 s) := by
  unfold onHousekeepingRound
  repeat' first
    | with_reducible exact h
    | with_reducible assumption
    | (extract_lets +onlyGivenNames a; with_reducible refine Keeps.cut (w := w) (s := s0) a ?_ (fun ha => ?_); (on_goal 2 => clear_value a); (on_goal 1 => (dsimp -zeta only [a]; clear a)))
    | (extract_lets +onlyGivenNames a; clear_value a)
    | exact mask_trans (by decide) hw
    | with_reducible apply advance_keeps
    | with_reducible apply bandRound_keeps
    | with_reducible apply biasRound_keeps
    | with_reducible apply biasTemps_keeps
    | with_reducible apply cleRound_keeps
    | with_reducible apply confirmClear_keeps
    | with_reducible apply dtsRound_keeps
    | with_reducible apply hkAuxRound_keeps
    | with_reducible apply nbhdRound_keeps
    | with_reducible apply padRound_keeps
    | with_reducible apply reraise_keeps
    | with_reducible apply sensorRound_keeps
    | with_reducible apply stopRound_keeps
    | with_reducible apply supplyRound_keeps
    | with_reducible apply throttleRound_keeps
    | with_reducible apply warmRound_keeps
    | with_reducible apply Keeps.ite
    | (with_reducible apply Keeps.foldl; intros)
    | fail_if_no_progress (with_reducible refine Keeps.set_ala ?_ (mask_trans (by decide) hw) _)
    | fail_if_no_progress (with_reducible refine Keeps.set_hkp ?_ (mask_trans (by decide) hw) _)

/-- `bootHalt` may change: regs, boot, tdc, tsu, esq, hse, fib, cle, queues, cloche, vectors, messages. -/
theorem bootHalt_keeps  {w : Nat} {s0 s : State} (hw : 1136020037001 &&& w = 1136020037001) (h : Keeps w s0 s) :
    Keeps w s0 (bootHalt s) := by
  unfold bootHalt
  repeat' first
    | with_reducible exact h
    | with_reducible assumption
    | (extract_lets +onlyGivenNames a; with_reducible refine Keeps.cut (w := w) (s := s0) a ?_ (fun ha => ?_); (on_goal 2 => clear_value a); (on_goal 1 => (dsimp -zeta only [a]; clear a)))
    | (extract_lets +onlyGivenNames a; (have y : BootSt := a; clear y); dsimp -zeta only [a]; clear a)
    | exact mask_trans (by decide) hw
    | with_reducible apply discardRunning_keeps
    | with_reducible apply drivesLow_keeps
    | with_reducible apply partStop_keeps
    | fail_if_no_progress (with_reducible refine Keeps.set_boot_boot ?_ (mask_trans (by decide) hw) _ (by first | ((with_reducible repeat' constructor); done) | (split <;> repeat' constructor)))

/-- `onTbPllLockTimeout` may change: regs, boot, tdc, tsu, esq, hse, fib, cle, queues, cloche, vectors, messages. -/
theorem onTbPllLockTimeout_keeps  {w : Nat} {s0 s : State} (hw : 1136020037001 &&& w = 1136020037001) (h : Keeps w s0 s) :
    Keeps w s0 (onTbPllLockTimeout s) := by
  unfold onTbPllLockTimeout
  repeat' first
    | with_reducible exact h
    | with_reducible assumption
    | exact mask_trans (by decide) hw
    | with_reducible apply bootHalt_keeps
    | with_reducible apply fault_keeps
    | with_reducible apply Keeps.ite

/-- `onTbPllLocked` may change: regs, tb, vectors. -/
theorem onTbPllLocked_keeps  {w : Nat} {s0 s : State} (hw : 34359738433 &&& w = 34359738433) (h : Keeps w s0 s) :
    Keeps w s0 (onTbPllLocked s) := by
  unfold onTbPllLocked
  repeat' first
    | with_reducible exact h
    | (extract_lets +onlyGivenNames a; clear_value a)
    | exact mask_trans (by decide) hw
    | with_reducible apply raise_keeps
    | with_reducible apply Keeps.ite
    | fail_if_no_progress (with_reducible refine Keeps.set_tb ?_ (mask_trans (by decide) hw) _)

/-- `tbLost` may change: regs, tb, tdc, tsu, esq, hse, fib, queues, vectors, messages, freeIdx. -/
theorem tbLost_keeps (x0 : ℕ) (x1 : ℕ) {w : Nat} {s0 s : State} (hw : 71502616600001 &&& w = 71502616600001) (h : Keeps w s0 s) :
    Keeps w s0 (tbLost x0 x1 s) := by
  unfold tbLost
  repeat' first
    | with_reducible exact h
    | with_reducible assumption
    | (extract_lets +onlyGivenNames a; with_reducible refine Keeps.cut (w := w) (s := s0) a ?_ (fun ha => ?_); (on_goal 2 => clear_value a); (on_goal 1 => (dsimp -zeta only [a]; clear a)))
    | (extract_lets +onlyGivenNames a; clear_value a)
    | exact mask_trans (by decide) hw
    | with_reducible apply bump_keeps
    | with_reducible apply discardRunning_keeps
    | with_reducible apply fault_keeps
    | with_reducible apply stick_keeps
    | fail_if_no_progress (with_reducible refine Keeps.set_tb_esq ?_ (mask_trans (by decide) hw) _ _)

/-- `onTbsRefLost` may change: regs, tb, tdc, tsu, esq, hse, fib, queues, vectors, messages, freeIdx. -/
theorem onTbsRefLost_keeps (x0 : Tick) {w : Nat} {s0 s : State} (hw : 71502616600001 &&& w = 71502616600001) (h : Keeps w s0 s) :
    Keeps w s0 (onTbsRefLost x0 s) := by
  unfold onTbsRefLost
  repeat' first
    | with_reducible exact h
    | with_reducible assumption
    | (extract_lets +onlyGivenNames a; with_reducible refine Keeps.cut (w := w) (s := s0) a ?_ (fun ha => ?_); (on_goal 2 => clear_value a); (on_goal 1 => (dsimp -zeta only [a]; clear a)))
    | (extract_lets +onlyGivenNames a; clear_value a)
    | exact mask_trans (by decide) hw
    | with_reducible apply advance_keeps
    | with_reducible apply tbLost_keeps
    | with_reducible apply Keeps.ite
    | fail_if_no_progress (with_reducible refine Keeps.set_tb ?_ (mask_trans (by decide) hw) _)

/-- `onStopDeadline` may change: tb, tdc, tsu, esq, hse, fib, queues. -/
theorem onStopDeadline_keeps (x0 : Tick) {w : Nat} {s0 s : State} (hw : 1056192 &&& w = 1056192) (h : Keeps w s0 s) :
    Keeps w s0 (onStopDeadline x0 s) := by
  unfold onStopDeadline
  repeat' first
    | with_reducible exact h
    | with_reducible assumption
    | (extract_lets +onlyGivenNames a; with_reducible refine Keeps.cut (w := w) (s := s0) a ?_ (fun ha => ?_); (on_goal 2 => clear_value a); (on_goal 1 => (dsimp -zeta only [a]; clear a)))
    | exact mask_trans (by decide) hw
    | with_reducible apply advance_keeps
    | with_reducible apply discardRunning_keeps
    | with_reducible apply Keeps.ite

/-- `onTbsPllLockLost` may change: regs, tb, tdc, tsu, esq, hse, fib, queues, vectors, messages, freeIdx. -/
theorem onTbsPllLockLost_keeps (x0 : Tick) {w : Nat} {s0 s : State} (hw : 71502616600001 &&& w = 71502616600001) (h : Keeps w s0 s) :
    Keeps w s0 (onTbsPllLockLost x0 s) := by
  unfold onTbsPllLockLost
  repeat' first
    | with_reducible exact h
    | with_reducible assumption
    | (extract_lets +onlyGivenNames a; with_reducible refine Keeps.cut (w := w) (s := s0) a ?_ (fun ha => ?_); (on_goal 2 => clear_value a); (on_goal 1 => (dsimp -zeta only [a]; clear a)))
    | exact mask_trans (by decide) hw
    | with_reducible apply advance_keeps
    | with_reducible apply tbLost_keeps
    | with_reducible apply Keeps.ite

/-- `onSupplyCollapse` may change: regs, boot, tb, tdc, tsu, esq, hse, fib, cle, queues, mailboxItems, ala, hkp, portUp, portDn, lanes, cloche, vectors, mailbox, messages, fences, grafting, freeIdx. -/
theorem onSupplyCollapse_keeps (x0 : Fin 12) (x1 : Tick) {w : Nat} {s0 s : State} (hw : 82637581589961 &&& w = 82637581589961) (h : Keeps w s0 s) :
    Keeps w s0 (onSupplyCollapse x0 x1 s) := by
  unfold onSupplyCollapse
  repeat' first
    | with_reducible exact h
    | (extract_lets +onlyGivenNames a; clear_value a)
    | exact mask_trans (by decide) hw
    | with_reducible apply advance_keeps
    | with_reducible apply bootHalt_keeps
    | with_reducible apply hardCut_keeps
    | with_reducible apply Keeps.ite
    | dsimp -zeta only
    | fail_if_no_progress (with_reducible refine Keeps.set_hkp ?_ (mask_trans (by decide) hw) _)

/-- `cutQueue` may change: regs, queues, lostMarks, vectors, freeIdx. -/
theorem cutQueue_keeps (x0 : ℕ × Queue) {w : Nat} {s0 s : State} (hw : 70403109158913 &&& w = 70403109158913) (h : Keeps w s0 s) :
    Keeps w s0 (cutQueue x0 s) := by
  unfold cutQueue
  repeat' first
    | with_reducible exact h
    | with_reducible assumption
    | (extract_lets +onlyGivenNames a; with_reducible refine Keeps.cut (w := w) (s := s0) a ?_ (fun ha => ?_); (on_goal 2 => clear_value a); (on_goal 1 => (dsimp -zeta only [a]; clear a)))
    | (extract_lets +onlyGivenNames a; clear_value a)
    | exact mask_trans (by decide) hw
    | with_reducible apply countFlushed_keeps
    | with_reducible apply loseBefore_keeps
    | with_reducible apply setQueue_keeps
    | with_reducible apply Keeps.ite

/-- `onTbsWarm` may change: regs, tb, vectors. -/
theorem onTbsWarm_keeps  {w : Nat} {s0 s : State} (hw : 34359738433 &&& w = 34359738433) (h : Keeps w s0 s) :
    Keeps w s0 (onTbsWarm s) := by
  unfold onTbsWarm
  repeat' first
    | with_reducible exact h
    | (extract_lets +onlyGivenNames a; clear_value a)
    | exact mask_trans (by decide) hw
    | with_reducible apply raise_keeps
    | with_reducible apply Keeps.ite
    | fail_if_no_progress (with_reducible refine Keeps.set_tb ?_ (mask_trans (by decide) hw) _)

/-- `onQueueDrainDone` may change: regs, tb, queues, mailboxItems, lostMarks, ala, hkp, portUp, portDn, lanes, vectors, mailbox, fences, grafting, freeIdx. -/
theorem onQueueDrainDone_keeps (x0 : Tick) {w : Nat} {s0 s : State} (hw : 81535926534209 &&& w = 81535926534209) (h : Keeps w s0 s) :
    Keeps w s0 (onQueueDrainDone x0 s) := by
  unfold onQueueDrainDone
  repeat' first
    | with_reducible exact h
    | with_reducible assumption
    | (extract_lets +onlyGivenNames a; with_reducible refine Keeps.cut (w := w) (s := s0) a ?_ (fun ha => ?_); (on_goal 2 => clear_value a); (on_goal 1 => (dsimp -zeta only [a]; clear a)))
    | (extract_lets +onlyGivenNames a; clear_value a)
    | exact mask_trans (by decide) hw
    | with_reducible apply advance_keeps
    | with_reducible apply cutQueue_keeps
    | with_reducible apply installStop_keeps
    | with_reducible apply Keeps.ite
    | (with_reducible apply Keeps.foldl; intros)
    | fail_if_no_progress (with_reducible refine Keeps.set_hkp ?_ (mask_trans (by decide) hw) _)

end Sys2Proof.Machine
end

