-- ==== Sys2Proof/Laws/KeepBoundary.lean ====
section
/-! SUPPORT. What each operation of Machine/Boundary.lean may change: one lemma per operation, by the bits of the parts
of State (Sys2Proof.Machine.Part.bit). -/

namespace Sys2Proof.Machine

/-- `capOrder` may change: regs, firstItem, tae, mcd, queues, lostMarks, portUp, portDn, merging, vectors, mailbox, messages, freeIdx. -/
theorem capOrder_keeps (x0 : Origin) (x1 : ℕ) (x2 : ℕ) (x3 : ℕ) {w : Nat} {s0 s : State} (hw : 71640429379589 &&& w = 71640429379589) (h : Keeps w s0 s) :
    Keeps w s0 (capOrder x0 x1 x2 x3 s) := by
  unfold capOrder
  repeat' first
    | with_reducible exact h
    | with_reducible assumption
    | exact mask_trans (by decide) hw
    | with_reducible apply capAbort_keeps
    | with_reducible apply capName_keeps
    | with_reducible apply capRead_keeps
    | with_reducible apply capRearm_keeps
    | with_reducible apply capRelease_keeps
    | with_reducible apply Keeps.ite

/-- `orderLost` may change: regs, vectors, mailbox, freeIdx. -/
theorem orderLost_keeps (x0 : Dom) (x1 : ℕ) (x2 : Origin) {w : Nat} {s0 s : State} (hw : 70540542869505 &&& w = 70540542869505) (h : Keeps w s0 s) :
    Keeps w s0 (orderLost x0 x1 x2 s) := by
  unfold orderLost
  repeat' first
    | with_reducible exact h
    | with_reducible assumption
    | (extract_lets +onlyGivenNames a; with_reducible refine Keeps.cut (w := w) (s := s0) a ?_ (fun ha => ?_); (on_goal 2 => clear_value a); (on_goal 1 => (dsimp -zeta only [a]; clear a)))
    | (extract_lets +onlyGivenNames a; (have y : HifSt := a; clear y); dsimp -zeta only [a]; clear a)
    | (extract_lets +onlyGivenNames a; clear_value a)
    | exact mask_trans (by decide) hw
    | with_reducible apply bump_keeps
    | with_reducible apply finish_keeps
    | with_reducible apply raise_keeps
    | with_reducible apply stick_keeps
    | split
    | fail_if_no_progress (with_reducible refine Keeps.set_hif_mailbox ?_ (mask_trans (by decide) hw) _ (by first | ((with_reducible repeat' constructor); done) | (split <;> repeat' constructor)))

/-- `runCaps` may change: regs, firstItem, tae, mcd, queues, lostMarks, portUp, portDn, merging, vectors, mailbox, messages, freeIdx. -/
theorem runCaps_keeps (x0 : Dom) (x1 : ℕ) (x2 : ℕ) (x3 : List Deferred) {w : Nat} {s0 s : State} (hw : 71640429379589 &&& w = 71640429379589) (h : Keeps w s0 s) :
    Keeps w s0 (runCaps x0 x1 x2 x3 s) := by
  unfold runCaps
  repeat' first
    | with_reducible exact h
    | with_reducible assumption
    | (extract_lets +onlyGivenNames a; with_reducible refine Keeps.cut (w := w) (s := s0) a ?_ (fun ha => ?_); (on_goal 2 => clear_value a); (on_goal 1 => (dsimp -zeta only [a]; clear a)))
    | (extract_lets +onlyGivenNames a; clear_value a)
    | exact mask_trans (by decide) hw
    | with_reducible apply capOrder_keeps
    | with_reducible apply orderLost_keeps
    | (with_reducible apply Keeps.foldl; intros)

/-- `runOther` may change: regs, tdc, pfe, esq, fib, mcd, queues, lostMarks, portUp, portDn, merging, vectors, mailbox, messages, fences, grafting, faultState, freeIdx. -/
theorem runOther_keeps (x0 : Deferred) {w : Nat} {s0 s : State} (hw : 117819917735553 &&& w = 117819917735553) (h : Keeps w s0 s) :
    Keeps w s0 (runOther x0 s) := by
  unfold runOther
  repeat' first
    | with_reducible exact h
    | exact mask_trans (by decide) hw
    | with_reducible apply faultClear_keeps
    | with_reducible apply finish_keeps
    | with_reducible apply flushStream_keeps
    | with_reducible apply graftBegin_keeps
    | with_reducible apply Keeps.ite

/-- `runDeferred` may change: regs, firstItem, tdc, pfe, esq, fib, tae, mcd, queues, lostMarks, portUp, portDn, merging, vectors, mailbox, messages, fences, grafting, faultState, freeIdx. -/
theorem runDeferred_keeps (x0 : Dom) (x1 : ℕ) {w : Nat} {s0 s : State} (hw : 117819917751941 &&& w = 117819917751941) (h : Keeps w s0 s) :
    Keeps w s0 (runDeferred x0 x1 s) := by
  unfold runDeferred
  repeat' first
    | with_reducible exact h
    | with_reducible assumption
    | (extract_lets +onlyGivenNames a; with_reducible refine Keeps.cut (w := w) (s := s0) a ?_ (fun ha => ?_); (on_goal 2 => clear_value a); (on_goal 1 => (dsimp -zeta only [a]; clear a)))
    | (extract_lets +onlyGivenNames a; (have y : HifSt := a; clear y); dsimp -zeta only [a]; clear a)
    | (extract_lets +onlyGivenNames a; clear_value a)
    | exact mask_trans (by decide) hw
    | with_reducible apply runCaps_keeps
    | with_reducible apply runOther_keeps
    | (with_reducible apply Keeps.foldl; intros)
    | fail_if_no_progress (with_reducible refine Keeps.set_hif_mailbox ?_ (mask_trans (by decide) hw) _ (by first | ((with_reducible repeat' constructor); done) | (split <;> repeat' constructor)))

/-- `swapDecide` may change: regs, esq, queues, portUp, portDn, vectors, mailbox, messages, freeIdx. -/
theorem swapDecide_keeps (x0 : Dom) (x1 : ℕ) {w : Nat} {s0 s : State} (hw : 71640156210177 &&& w = 71640156210177) (h : Keeps w s0 s) :
    Keeps w s0 (swapDecide x0 x1 s) := by
  unfold swapDecide
  repeat' first
    | with_reducible exact h
    | with_reducible assumption
    | (extract_lets +onlyGivenNames a; with_reducible refine Keeps.cut (w := w) (s := s0) a ?_ (fun ha => ?_); (on_goal 2 => clear_value a); (on_goal 1 => (dsimp -zeta only [a]; clear a)))
    | (extract_lets +onlyGivenNames a; clear_value a)
    | exact mask_trans (by decide) hw
    | with_reducible apply finish_keeps
    | with_reducible apply sendMsg_keeps
    | with_reducible apply Keeps.ite
    | (with_reducible apply Keeps.foldl; intros)
    | fail_if_no_progress (with_reducible refine Keeps.set_esq ?_ (mask_trans (by decide) hw) _)

/-- `insertFlushes` may change: regs, mcd, queues, mailboxItems, lostMarks, portUp, portDn, merging, vectors, mailbox, messages, freeIdx. -/
theorem insertFlushes_keeps (x0 : Dom) {w : Nat} {s0 s : State} (hw : 71640431460353 &&& w = 71640431460353) (h : Keeps w s0 s) :
    Keeps w s0 (insertFlushes x0 s) := by
  unfold insertFlushes
  repeat' first
    | with_reducible exact h
    | with_reducible assumption
    | (extract_lets +onlyGivenNames a; with_reducible refine Keeps.cut (w := w) (s := s0) a ?_ (fun ha => ?_); (on_goal 2 => clear_value a); (on_goal 1 => (dsimp -zeta only [a]; clear a)))
    | (extract_lets +onlyGivenNames a; (have y : QsySt := a; clear y); dsimp -zeta only [a]; clear a)
    | (extract_lets +onlyGivenNames a; clear_value a)
    | exact mask_trans (by decide) hw
    | with_reducible apply finish_keeps
    | with_reducible apply flushStream_keeps
    | (with_reducible apply Keeps.foldl; intros)
    | fail_if_no_progress (with_reducible refine Keeps.set_qsy_mailboxItems ?_ (mask_trans (by decide) hw) _ (by first | ((with_reducible repeat' constructor); done) | (split <;> repeat' constructor)))

/-- `swapTake` may change: regs, esq, queues, portUp, portDn, vectors, mailbox, messages, freeIdx. -/
theorem swapTake_keeps (x0 : Origin) (x1 : Bool) (x2 : ℕ) (x3 : ℕ) (x4 : ℕ) (x5 : Tick) {w : Nat} {s0 s : State} (hw : 71640156210177 &&& w = 71640156210177) (h : Keeps w s0 s) :
    Keeps w s0 (swapTake x0 x1 x2 x3 x4 x5 s) := by
  unfold swapTake
  repeat' first
    | with_reducible exact h
    | with_reducible assumption
    | (extract_lets +onlyGivenNames a; with_reducible refine Keeps.cut (w := w) (s := s0) a ?_ (fun ha => ?_); (on_goal 2 => clear_value a); (on_goal 1 => (dsimp -zeta only [a]; clear a)))
    | (extract_lets +onlyGivenNames a; clear_value a)
    | exact mask_trans (by decide) hw
    | with_reducible apply finish_keeps
    | with_reducible apply sendMsg_keeps
    | with_reducible apply Keeps.ite
    | split
    | fail_if_no_progress (with_reducible refine Keeps.set_esq ?_ (mask_trans (by decide) hw) _)

/-- `setCtx` may change: esq, fib. -/
theorem setCtx_keeps (x0 : Dom) (x1 : TagCtx) {w : Nat} {s0 s : State} (hw : 5120 &&& w = 5120) (h : Keeps w s0 s) :
    Keeps w s0 (setCtx x0 x1 s) := by
  unfold setCtx
  repeat' first
    | with_reducible exact h
    | (extract_lets +onlyGivenNames a; clear_value a)
    | split
    | fail_if_no_progress (with_reducible refine Keeps.set_esq ?_ (mask_trans (by decide) hw) _)
    | fail_if_no_progress (with_reducible refine Keeps.set_fib ?_ (mask_trans (by decide) hw) _)

/-- `ctxStart` may change: esq, fib. -/
theorem ctxStart_keeps (x0 : Dom) (x1 : ℕ) {w : Nat} {s0 s : State} (hw : 5120 &&& w = 5120) (h : Keeps w s0 s) :
    Keeps w s0 (ctxStart x0 x1 s) := by
  unfold ctxStart
  repeat' first
    | with_reducible exact h
    | with_reducible assumption
    | (extract_lets +onlyGivenNames a; clear_value a)
    | with_reducible apply setCtx_keeps

/-- `ctlProducers` may change: regs, mcd, queues, portUp, portDn, merging, vectors, messages, freeIdx. -/
theorem ctlProducers_keeps (x0 : Dom) (x1 : ℕ) (x2 : ℕ) (x3 : ℕ) {w : Nat} {s0 s : State} (hw : 71502986215425 &&& w = 71502986215425) (h : Keeps w s0 s) :
    Keeps w s0 (ctlProducers x0 x1 x2 x3 s) := by
  unfold ctlProducers
  repeat' first
    | with_reducible exact h
    | with_reducible assumption
    | (extract_lets +onlyGivenNames a; with_reducible refine Keeps.cut (w := w) (s := s0) a ?_ (fun ha => ?_); (on_goal 2 => clear_value a); (on_goal 1 => (dsimp -zeta only [a]; clear a)))
    | (extract_lets +onlyGivenNames a; clear_value a)
    | with_reducible apply emitCtl_keeps
    | with_reducible apply Keeps.ite
    | split

/-- `insertGrant` may change: regs, esq, fib, mcd, queues, mailboxItems, portUp, portDn, merging, vectors, messages, freeIdx. -/
theorem insertGrant_keeps (x0 : Dom) {w : Nat} {s0 s : State} (hw : 71502988317697 &&& w = 71502988317697) (h : Keeps w s0 s) :
    Keeps w s0 (insertGrant x0 s) := by
  unfold insertGrant
  repeat' first
    | with_reducible exact h
    | with_reducible assumption
    | (extract_lets +onlyGivenNames a; with_reducible refine Keeps.cut (w := w) (s := s0) a ?_ (fun ha => ?_); (on_goal 2 => clear_value a); (on_goal 1 => (dsimp -zeta only [a]; clear a)))
    | (extract_lets +onlyGivenNames a; (have y : QsySt := a; clear y); dsimp -zeta only [a]; clear a)
    | (extract_lets +onlyGivenNames a; clear_value a)
    | exact mask_trans (by decide) hw
    | with_reducible apply ctlProducers_keeps
    | split
    | fail_if_no_progress (with_reducible refine Keeps.set_esq ?_ (mask_trans (by decide) hw) _)
    | fail_if_no_progress (with_reducible refine Keeps.set_fib ?_ (mask_trans (by decide) hw) _)
    | fail_if_no_progress (with_reducible refine Keeps.set_qsy_mailboxItems ?_ (mask_trans (by decide) hw) _ (by first | ((with_reducible repeat' constructor); done) | (split <;> repeat' constructor)))

/-- `ctlUnit` may change: regs, mcd, queues, portUp, portDn, merging, vectors, messages, freeIdx. -/
theorem ctlUnit_keeps (x0 : ℕ) (x1 : ℕ) {w : Nat} {s0 s : State} (hw : 71502986215425 &&& w = 71502986215425) (h : Keeps w s0 s) :
    Keeps w s0 (ctlUnit x0 x1 s) := by
  unfold ctlUnit
  repeat' first
    | with_reducible exact h
    | with_reducible assumption
    | (extract_lets +onlyGivenNames a; clear_value a)
    | with_reducible apply emitCtl_keeps
    | with_reducible apply Keeps.ite

/-- `takeInt` may change: mailboxItems. -/
theorem takeInt_keeps (x0 : Ctl) {w : Nat} {s0 s : State} (hw : 2097152 &&& w = 2097152) (h : Keeps w s0 s) :
    Keeps w s0 (takeInt x0 s) := by
  unfold takeInt
  repeat' first
    | with_reducible exact h
    | (extract_lets +onlyGivenNames a; (have y : QsySt := a; clear y); dsimp -zeta only [a]; clear a)
    | fail_if_no_progress (with_reducible refine Keeps.set_qsy_mailboxItems ?_ (mask_trans (by decide) hw) _ (by first | ((with_reducible repeat' constructor); done) | (split <;> repeat' constructor)))

/-- `insertFences` may change: regs, mcd, queues, mailboxItems, portUp, portDn, merging, vectors, messages, fences, freeIdx. -/
theorem insertFences_keeps (x0 : Dom) (x1 : Bool) {w : Nat} {s0 s : State} (hw : 73702011568129 &&& w = 73702011568129) (h : Keeps w s0 s) :
    Keeps w s0 (insertFences x0 x1 s) := by
  unfold insertFences
  repeat' first
    | with_reducible exact h
    | with_reducible assumption
    | (extract_lets +onlyGivenNames a; with_reducible refine Keeps.cut (w := w) (s := s0) a ?_ (fun ha => ?_); (on_goal 2 => clear_value a); (on_goal 1 => (dsimp -zeta only [a]; clear a)))
    | (extract_lets +onlyGivenNames a; (have y : FclSt := a; clear y); dsimp -zeta only [a]; clear a)
    | exact mask_trans (by decide) hw
    | with_reducible apply ctlUnit_keeps
    | with_reducible apply takeInt_keeps
    | (with_reducible apply Keeps.foldl; intros)
    | fail_if_no_progress (with_reducible refine Keeps.set_fcl_fences ?_ (mask_trans (by decide) hw) _ (by first | ((with_reducible repeat' constructor); done) | (split <;> repeat' constructor)))

/-- `graftBlock` may change: regs, tdc, pfe, fib, tines, vectors. -/
theorem graftBlock_keeps (x0 : ℕ) {w : Nat} {s0 s : State} (hw : 34359775873 &&& w = 34359775873) (h : Keeps w s0 s) :
    Keeps w s0 (graftBlock x0 s) := by
  unfold graftBlock
  repeat' first
    | with_reducible exact h
    | with_reducible assumption
    | (extract_lets +onlyGivenNames a; with_reducible refine Keeps.cut (w := w) (s := s0) a ?_ (fun ha => ?_); (on_goal 2 => clear_value a); (on_goal 1 => (dsimp -zeta only [a]; clear a)))
    | (extract_lets +onlyGivenNames a; clear_value a)
    | exact mask_trans (by decide) hw
    | with_reducible apply pairAbandon_keeps
    | with_reducible apply tineGrafted_keeps
    | with_reducible apply Keeps.ite
    | fail_if_no_progress (with_reducible refine Keeps.set_fib ?_ (mask_trans (by decide) hw) _)
    | fail_if_no_progress (with_reducible refine Keeps.set_tdc_pfe ?_ (mask_trans (by decide) hw) _ _)

/-- `insertGrafts` may change: regs, tdc, pfe, fib, tines, mcd, queues, mailboxItems, portUp, portDn, merging, vectors, mailbox, messages, fences, grafting, freeIdx. -/
theorem insertGrafts_keeps (x0 : Dom) (x1 : Bool) {w : Nat} {s0 s : State} (hw : 82635543581313 &&& w = 82635543581313) (h : Keeps w s0 s) :
    Keeps w s0 (insertGrafts x0 x1 s) := by
  unfold insertGrafts
  repeat' first
    | with_reducible exact h
    | with_reducible assumption
    | exact mask_trans (by decide) hw
    | with_reducible apply ctlUnit_keeps
    | with_reducible apply graftBlock_keeps
    | with_reducible apply graftEnter_keeps
    | with_reducible apply takeInt_keeps
    | (with_reducible apply Keeps.foldl; intros)

/-- `jobsLost` may change: tinJobs. -/
theorem jobsLost_keeps (x0 : ℕ) (x1 : ℕ) {w : Nat} {s0 s : State} (hw : 65536 &&& w = 65536) (h : Keeps w s0 s) :
    Keeps w s0 (jobsLost x0 x1 s) := by
  unfold jobsLost
  repeat' first
    | with_reducible exact h
    | with_reducible assumption
    | (extract_lets +onlyGivenNames a; clear_value a)
    | with_reducible apply setSlot_keeps
    | split

/-- `mtRealloc` may change: regs, firstItem, tae, tinJobs, mcd, queues, lostMarks, portUp, portDn, merging, vectors, mailbox, messages, freeIdx. -/
theorem mtRealloc_keeps  {w : Nat} {s0 s : State} (hw : 71640429445125 &&& w = 71640429445125) (h : Keeps w s0 s) :
    Keeps w s0 (mtRealloc s) := by
  unfold mtRealloc
  repeat' first
    | with_reducible exact h
    | with_reducible assumption
    | (extract_lets +onlyGivenNames a; with_reducible refine Keeps.cut (w := w) (s := s0) a ?_ (fun ha => ?_); (on_goal 2 => clear_value a); (on_goal 1 => (dsimp -zeta only [a]; clear a)))
    | (extract_lets +onlyGivenNames a; clear_value a)
    | exact mask_trans (by decide) hw
    | with_reducible apply jobsLost_keeps
    | with_reducible apply ringLost_keeps
    | with_reducible apply setUnit_keeps
    | with_reducible apply Keeps.ite
    | (with_reducible apply Keeps.foldl; intros)
    | fail_if_no_progress (with_reducible refine Keeps.set_tae ?_ (mask_trans (by decide) hw) _)

/-- `insertUnits` may change: regs, firstItem, tdc, pfe, fib, tae, tines, tinJobs, mcd, queues, mailboxItems, lostMarks, portUp, portDn, merging, vectors, mailbox, messages, fences, grafting, freeIdx. -/
theorem insertUnits_keeps (x0 : Dom) (x1 : Bool) {w : Nat} {s0 s : State} (hw : 82635547857541 &&& w = 82635547857541) (h : Keeps w s0 s) :
    Keeps w s0 (insertUnits x0 x1 s) := by
  unfold insertUnits
  repeat' first
    | with_reducible exact h
    | with_reducible assumption
    | (extract_lets +onlyGivenNames a; with_reducible refine Keeps.cut (w := w) (s := s0) a ?_ (fun ha => ?_); (on_goal 2 => clear_value a); (on_goal 1 => (dsimp -zeta only [a]; clear a)))
    | exact mask_trans (by decide) hw
    | with_reducible apply insertFences_keeps
    | with_reducible apply insertGrafts_keeps
    | with_reducible apply mtRealloc_keeps
    | with_reducible apply Keeps.ite

/-- `setPlan` may change: esq, fib. -/
theorem setPlan_keeps (x0 : Dom) (x1 : ℕ) {w : Nat} {s0 s : State} (hw : 5120 &&& w = 5120) (h : Keeps w s0 s) :
    Keeps w s0 (setPlan x0 x1 s) := by
  unfold setPlan
  repeat' first
    | with_reducible exact h
    | (extract_lets +onlyGivenNames a; clear_value a)
    | split
    | fail_if_no_progress (with_reducible refine Keeps.set_esq ?_ (mask_trans (by decide) hw) _)
    | fail_if_no_progress (with_reducible refine Keeps.set_fib ?_ (mask_trans (by decide) hw) _)

/-- `insertPlans` may change: regs, esq, fib, mcd, queues, portUp, portDn, merging, vectors, mailbox, messages, freeIdx. -/
theorem insertPlans_keeps (x0 : Dom) (x1 : List OrderCand) {w : Nat} {s0 s : State} (hw : 71640425174017 &&& w = 71640425174017) (h : Keeps w s0 s) :
    Keeps w s0 (insertPlans x0 x1 s) := by
  unfold insertPlans
  repeat' first
    | with_reducible exact h
    | with_reducible assumption
    | (extract_lets +onlyGivenNames a; with_reducible refine Keeps.cut (w := w) (s := s0) a ?_ (fun ha => ?_); (on_goal 2 => clear_value a); (on_goal 1 => (dsimp -zeta only [a]; clear a)))
    | (extract_lets +onlyGivenNames a; with_reducible refine Keeps.cut1 (w := w) (s := s0) a ?_ (fun hg => ?_); (on_goal 2 => clear_value a); (on_goal 1 => (dsimp -zeta only [a]; clear a)))
    | (extract_lets +onlyGivenNames a; clear_value a)
    | with_reducible apply hg
    | exact mask_trans (by decide) hw
    | with_reducible apply ctlProducers_keeps
    | with_reducible apply finish_keeps
    | with_reducible apply raise_keeps
    | with_reducible apply setCtx_keeps
    | with_reducible apply setPlan_keeps
    | intro y
    | with_reducible apply Keeps.ite
    | (with_reducible apply Keeps.foldl; intros)

/-- `spendStaged` may change: regs, esq, vectors, mailbox, messages. -/
theorem spendStaged_keeps (x0 : Dom) {w : Nat} {s0 s : State} (hw : 1271310320641 &&& w = 1271310320641) (h : Keeps w s0 s) :
    Keeps w s0 (spendStaged x0 s) := by
  unfold spendStaged
  repeat' first
    | with_reducible exact h
    | with_reducible assumption
    | (extract_lets +onlyGivenNames a; with_reducible refine Keeps.cut (w := w) (s := s0) a ?_ (fun ha => ?_); (on_goal 2 => clear_value a); (on_goal 1 => (dsimp -zeta only [a]; clear a)))
    | (extract_lets +onlyGivenNames a; clear_value a)
    | exact mask_trans (by decide) hw
    | with_reducible apply fault_keeps
    | with_reducible apply finish_keeps
    | with_reducible apply stick_keeps
    | with_reducible apply Keeps.ite
    | (with_reducible apply Keeps.foldl; intros)
    | fail_if_no_progress (with_reducible refine Keeps.set_esq ?_ (mask_trans (by decide) hw) _)

/-- `takePlans` may change: regs, esq, fib, mcd, queues, mailboxItems, portUp, portDn, merging, vectors, mailbox, messages, freeIdx. -/
theorem takePlans_keeps (x0 : Dom) (x1 : Bool) {w : Nat} {s0 s : State} (hw : 71640427271169 &&& w = 71640427271169) (h : Keeps w s0 s) :
    Keeps w s0 (takePlans x0 x1 s).1 := by
  unfold takePlans
  repeat' first
    | with_reducible exact h
    | with_reducible assumption
    | (extract_lets +onlyGivenNames a; with_reducible refine Keeps.cut (w := w) (s := s0) a ?_ (fun ha => ?_); (on_goal 2 => clear_value a); (on_goal 1 => (dsimp -zeta only [a]; clear a)))
    | (extract_lets +onlyGivenNames a; (have y : QsySt := a; clear y); dsimp -zeta only [a]; clear a)
    | (extract_lets +onlyGivenNames a; clear_value a)
    | exact mask_trans (by decide) hw
    | with_reducible apply insertPlans_keeps
    | with_reducible apply orderLost_keeps
    | with_reducible apply spendStaged_keeps
    | with_reducible apply Keeps.ite
    | (with_reducible apply Keeps.foldl; intros)
    | fail_if_no_progress (with_reducible refine Keeps.set_qsy_mailboxItems ?_ (mask_trans (by decide) hw) _ (by first | ((with_reducible repeat' constructor); done) | (split <;> repeat' constructor)))

/-- `passDown` may change: regs, queues, portUp, portDn, vectors, messages, freeIdx. -/
theorem passDown_keeps (x0 : LinkMsg) {w : Nat} {s0 s : State} (hw : 71502717255681 &&& w = 71502717255681) (h : Keeps w s0 s) :
    Keeps w s0 (passDown x0 s) := by
  unfold passDown
  repeat' first
    | with_reducible exact h
    | with_reducible assumption
    | with_reducible apply sendMsg_keeps
    | with_reducible apply Keeps.ite

/-- `onSwapCommit` may change: regs, esq, queues, portUp, portDn, vectors, messages, freeIdx. -/
theorem onSwapCommit_keeps (x0 : BitVec 24) {w : Nat} {s0 s : State} (hw : 71502717256705 &&& w = 71502717256705) (h : Keeps w s0 s) :
    Keeps w s0 (onSwapCommit x0 s) := by
  unfold onSwapCommit
  repeat' first
    | with_reducible exact h
    | with_reducible assumption
    | (extract_lets +onlyGivenNames a; with_reducible refine Keeps.cut (w := w) (s := s0) a ?_ (fun ha => ?_); (on_goal 2 => clear_value a); (on_goal 1 => (dsimp -zeta only [a]; clear a)))
    | (extract_lets +onlyGivenNames a; clear_value a)
    | exact mask_trans (by decide) hw
    | with_reducible apply passDown_keeps
    | with_reducible apply received_keeps
    | fail_if_no_progress (with_reducible refine Keeps.set_esq ?_ (mask_trans (by decide) hw) _)

/-- `onSwapPrepare` may change: regs, tb, esq, queues, portUp, portDn, vectors, messages, freeIdx. -/
theorem onSwapPrepare_keeps (x0 : Bool) (x1 : BitVec 4) (x2 : BitVec 24) (x3 : Tick) {w : Nat} {s0 s : State} (hw : 71502717256769 &&& w = 71502717256769) (h : Keeps w s0 s) :
    Keeps w s0 (onSwapPrepare x0 x1 x2 x3 s) := by
  unfold onSwapPrepare
  repeat' first
    | with_reducible exact h
    | with_reducible assumption
    | (extract_lets +onlyGivenNames a; with_reducible refine Keeps.cut (w := w) (s := s0) a ?_ (fun ha => ?_); (on_goal 2 => clear_value a); (on_goal 1 => (dsimp -zeta only [a]; clear a)))
    | (extract_lets +onlyGivenNames a; clear_value a)
    | exact mask_trans (by decide) hw
    | with_reducible apply advance_keeps
    | with_reducible apply passDown_keeps
    | with_reducible apply received_keeps
    | with_reducible apply toMaster_keeps
    | with_reducible apply Keeps.ite
    | fail_if_no_progress (with_reducible refine Keeps.set_esq ?_ (mask_trans (by decide) hw) _)

/-- `onSwapReady` may change: regs, esq, queues, portUp, portDn, vectors, messages, freeIdx. -/
theorem onSwapReady_keeps (x0 : BitVec 4) (x1 : BitVec 24) {w : Nat} {s0 s : State} (hw : 71502717256705 &&& w = 71502717256705) (h : Keeps w s0 s) :
    Keeps w s0 (onSwapReady x0 x1 s) := by
  unfold onSwapReady
  repeat' first
    | with_reducible exact h
    | with_reducible assumption
    | (extract_lets +onlyGivenNames a; with_reducible refine Keeps.cut (w := w) (s := s0) a ?_ (fun ha => ?_); (on_goal 2 => clear_value a); (on_goal 1 => (dsimp -zeta only [a]; clear a)))
    | (extract_lets +onlyGivenNames a; clear_value a)
    | exact mask_trans (by decide) hw
    | with_reducible apply received_keeps
    | with_reducible apply toMaster_keeps
    | with_reducible apply Keeps.ite
    | fail_if_no_progress (with_reducible refine Keeps.set_esq ?_ (mask_trans (by decide) hw) _)

/-- `onSwapCancel` may change: regs, esq, queues, portUp, portDn, vectors, mailbox, messages, freeIdx. -/
theorem onSwapCancel_keeps (x0 : BitVec 24) {w : Nat} {s0 s : State} (hw : 71640156210177 &&& w = 71640156210177) (h : Keeps w s0 s) :
    Keeps w s0 (onSwapCancel x0 s) := by
  unfold onSwapCancel
  repeat' first
    | with_reducible exact h
    | with_reducible assumption
    | (extract_lets +onlyGivenNames a; with_reducible refine Keeps.cut (w := w) (s := s0) a ?_ (fun ha => ?_); (on_goal 2 => clear_value a); (on_goal 1 => (dsimp -zeta only [a]; clear a)))
    | (extract_lets +onlyGivenNames a; clear_value a)
    | exact mask_trans (by decide) hw
    | with_reducible apply finish_keeps
    | with_reducible apply passDown_keeps
    | with_reducible apply received_keeps
    | with_reducible apply Keeps.ite
    | fail_if_no_progress (with_reducible refine Keeps.set_esq ?_ (mask_trans (by decide) hw) _)

end Sys2Proof.Machine
end

