-- ==== Sys2Proof/Laws/KeepLidar.lean ====
section
/-! SUPPORT. What each operation of Machine/Lidar.lean may change: one lemma per operation, by the bits of the parts
of State (Sys2Proof.Machine.Part.bit). -/

namespace Sys2Proof.Machine

/-- `periodEvent` may change: regs, vectors, messages. -/
theorem periodEvent_keeps (x0 : Bool) {w : Nat} {s0 s : State} (hw : 1133871366145 &&& w = 1133871366145) (h : Keeps w s0 s) :
    Keeps w s0 (periodEvent x0 s) := by
  unfold periodEvent
  repeat' first
    | with_reducible exact h
    | with_reducible assumption
    | exact mask_trans (by decide) hw
    | with_reducible apply fault_keeps
    | with_reducible apply stick_keeps
    | with_reducible apply Keeps.ite

/-- `frameFollows` may change: regs, firstItem, tdc, pfe, esq, fib, tae, tinJobs, mcd, queues, lostMarks, portUp, portDn, merging, cloche, vectors, mailbox, messages, fences, grafting, faultState, freeIdx. -/
theorem frameFollows_keeps (x0 : ℕ) {w : Nat} {s0 s : State} (hw : 117822065301125 &&& w = 117822065301125) (h : Keeps w s0 s) :
    Keeps w s0 (frameFollows x0 s) := by
  unfold frameFollows
  repeat' first
    | with_reducible exact h
    | with_reducible assumption
    | (extract_lets +onlyGivenNames a; with_reducible refine Keeps.cut (w := w) (s := s0) a ?_ (fun ha => ?_); (on_goal 2 => clear_value a); (on_goal 1 => (dsimp -zeta only [a]; clear a)))
    | (extract_lets +onlyGivenNames a; clear_value a)
    | exact mask_trans (by decide) hw
    | with_reducible apply capBoundary_keeps
    | with_reducible apply capStart_keeps
    | with_reducible apply cloFrameBegin_keeps
    | with_reducible apply fwdBegin_keeps
    | with_reducible apply runDeferred_keeps
    | with_reducible apply swapDecide_keeps
    | with_reducible apply tinBoundary_keeps

/-- `deferCounts` may change: regs, hse, vectors, freeIdx. -/
theorem deferCounts_keeps  {w : Nat} {s0 s : State} (hw : 70403103918081 &&& w = 70403103918081) (h : Keeps w s0 s) :
    Keeps w s0 (deferCounts s) := by
  unfold deferCounts
  repeat' first
    | with_reducible exact h
    | with_reducible assumption
    | (extract_lets +onlyGivenNames a; with_reducible refine Keeps.cut (w := w) (s := s0) a ?_ (fun ha => ?_); (on_goal 2 => clear_value a); (on_goal 1 => (dsimp -zeta only [a]; clear a)))
    | (extract_lets +onlyGivenNames a; clear_value a)
    | exact mask_trans (by decide) hw
    | with_reducible apply bumpAt_keeps
    | with_reducible apply raise_keeps
    | with_reducible apply Keeps.ite
    | fail_if_no_progress (with_reducible refine Keeps.set_hse ?_ (mask_trans (by decide) hw) _)

/-- `openColumn` may change: regs, firstItem, tb, tdc, tsu, pfe, esq, hse, mcd, queues, lostMarks, portUp, portDn, merging, cascade, x12, vectors, messages, freeIdx. -/
theorem openColumn_keeps (x0 : ℕ) (x1 : Tick) (x2 : Bool) {w : Nat} {s0 s : State} (hw : 71507822251973 &&& w = 71507822251973) (h : Keeps w s0 s) :
    Keeps w s0 (openColumn x0 x1 x2 s) := by
  unfold openColumn
  repeat' first
    | with_reducible exact h
    | with_reducible assumption
    | (extract_lets +onlyGivenNames a; with_reducible refine Keeps.cut (w := w) (s := s0) a ?_ (fun ha => ?_); (on_goal 2 => clear_value a); (on_goal 1 => (dsimp -zeta only [a]; clear a)))
    | (extract_lets +onlyGivenNames a; clear_value a)
    | exact mask_trans (by decide) hw
    | with_reducible apply alignBoundary_keeps
    | with_reducible apply deferCounts_keeps
    | with_reducible apply pfeOpen_keeps
    | with_reducible apply windowStarts_keeps
    | split
    | fail_if_no_progress (with_reducible refine Keeps.set_esq ?_ (mask_trans (by decide) hw) _)
    | fail_if_no_progress (with_reducible refine Keeps.set_pfe ?_ (mask_trans (by decide) hw) _)
    | fail_if_no_progress (with_reducible refine Keeps.set_tdc_hse ?_ (mask_trans (by decide) hw) _ _)

/-- `noteStarved` may change: tdc. -/
theorem noteStarved_keeps (x0 : Tick) {w : Nat} {s0 s : State} (hw : 128 &&& w = 128) (h : Keeps w s0 s) :
    Keeps w s0 (noteStarved x0 s) := by
  unfold noteStarved
  repeat' first
    | with_reducible exact h
    | (extract_lets +onlyGivenNames a; clear_value a)
    | fail_if_no_progress (with_reducible refine Keeps.set_tdc ?_ (mask_trans (by decide) hw) _)

/-- `columnSummary` may change: regs, firstItem, mcd, queues, lostMarks, portUp, portDn, merging, vectors, messages, freeIdx. -/
theorem columnSummary_keeps  {w : Nat} {s0 s : State} (hw : 71502990409733 &&& w = 71502990409733) (h : Keeps w s0 s) :
    Keeps w s0 (columnSummary s) := by
  unfold columnSummary
  repeat' first
    | with_reducible exact h
    | with_reducible assumption
    | (extract_lets +onlyGivenNames a; clear_value a)
    | with_reducible apply emit_keeps

/-- `loseWaiting` may change: regs, hse, vectors, messages, freeIdx. -/
theorem loseWaiting_keeps  {w : Nat} {s0 s : State} (hw : 71502615545857 &&& w = 71502615545857) (h : Keeps w s0 s) :
    Keeps w s0 (loseWaiting s) := by
  unfold loseWaiting
  repeat' first
    | with_reducible exact h
    | with_reducible assumption
    | exact mask_trans (by decide) hw
    | with_reducible apply fault_keeps
    | with_reducible apply loseColumn_keeps
    | with_reducible apply stripTaken_keeps
    | with_reducible apply stripUnobs_keeps
    | with_reducible apply Keeps.ite
    | (with_reducible apply Keeps.foldl; intros)

/-- `rawItems` may change: regs, firstItem, mcd, queues, lostMarks, portUp, portDn, merging, vectors, messages, freeIdx. -/
theorem rawItems_keeps  {w : Nat} {s0 s : State} (hw : 71502990409733 &&& w = 71502990409733) (h : Keeps w s0 s) :
    Keeps w s0 (rawItems s) := by
  unfold rawItems
  repeat' first
    | with_reducible exact h
    | with_reducible assumption
    | (extract_lets +onlyGivenNames a; with_reducible refine Keeps.cut (w := w) (s := s0) a ?_ (fun ha => ?_); (on_goal 2 => clear_value a); (on_goal 1 => (dsimp -zeta only [a]; clear a)))
    | (extract_lets +onlyGivenNames a; clear_value a)
    | exact mask_trans (by decide) hw
    | with_reducible apply emitX_keeps
    | with_reducible apply loseBefore_keeps
    | with_reducible apply takeAll_keeps
    | with_reducible apply Keeps.ite
    | (with_reducible apply Keeps.foldl; intros)

/-- `refColumn` may change: regs, firstItem, tb, tae, mcd, queues, lostMarks, portUp, portDn, merging, vectors, messages, freeIdx. -/
theorem refColumn_keeps (x0 : Tick) {w : Nat} {s0 s : State} (hw : 71502990426181 &&& w = 71502990426181) (h : Keeps w s0 s) :
    Keeps w s0 (refColumn x0 s) := by
  unfold refColumn
  repeat' first
    | with_reducible exact h
    | with_reducible assumption
    | (extract_lets +onlyGivenNames a; with_reducible refine Keeps.cut (w := w) (s := s0) a ?_ (fun ha => ?_); (on_goal 2 => clear_value a); (on_goal 1 => (dsimp -zeta only [a]; clear a)))
    | (extract_lets +onlyGivenNames a; clear_value a)
    | with_reducible apply onRefEvaluation_keeps
    | with_reducible apply Keeps.ite
    | fail_if_no_progress (with_reducible refine Keeps.set_tae ?_ (mask_trans (by decide) hw) _)

/-- `refEmit` may change: regs, firstItem, tb, hse, tae, mcd, queues, lostMarks, portUp, portDn, merging, vectors, messages, freeIdx. -/
theorem refEmit_keeps (x0 : Tick) {w : Nat} {s0 s : State} (hw : 71502990428229 &&& w = 71502990428229) (h : Keeps w s0 s) :
    Keeps w s0 (refEmit x0 s) := by
  unfold refEmit
  repeat' first
    | with_reducible exact h
    | with_reducible assumption
    | (extract_lets +onlyGivenNames a; with_reducible refine Keeps.cut (w := w) (s := s0) a ?_ (fun ha => ?_); (on_goal 2 => clear_value a); (on_goal 1 => (dsimp -zeta only [a]; clear a)))
    | (extract_lets +onlyGivenNames a; clear_value a)
    | exact mask_trans (by decide) hw
    | with_reducible apply emitX_keeps
    | with_reducible apply refColumn_keeps
    | with_reducible apply Keeps.ite
    | fail_if_no_progress (with_reducible refine Keeps.set_hse ?_ (mask_trans (by decide) hw) _)

/-- `swapBuffers` may change: regs, hse, queues, portUp, portDn, vectors, messages, freeIdx. -/
theorem swapBuffers_keeps (x0 : ℕ) (x1 : Tick) {w : Nat} {s0 s : State} (hw : 71502717257729 &&& w = 71502717257729) (h : Keeps w s0 s) :
    Keeps w s0 (swapBuffers x0 x1 s) := by
  unfold swapBuffers
  repeat' first
    | with_reducible exact h
    | with_reducible assumption
    | (extract_lets +onlyGivenNames a; with_reducible refine Keeps.cut (w := w) (s := s0) a ?_ (fun ha => ?_); (on_goal 2 => clear_value a); (on_goal 1 => (dsimp -zeta only [a]; clear a)))
    | (extract_lets +onlyGivenNames a; clear_value a)
    | exact mask_trans (by decide) hw
    | with_reducible apply stripUnobs_keeps
    | with_reducible apply toPartner_keeps
    | with_reducible apply Keeps.ite
    | (with_reducible apply Keeps.foldl; intros)
    | fail_if_no_progress (with_reducible refine Keeps.set_hse ?_ (mask_trans (by decide) hw) _)

/-- `swapCounts` may change: tdc. -/
theorem swapCounts_keeps  {w : Nat} {s0 s : State} (hw : 128 &&& w = 128) (h : Keeps w s0 s) :
    Keeps w s0 (swapCounts s) := by
  unfold swapCounts
  repeat' first
    | with_reducible exact h
    | with_reducible assumption
    | (extract_lets +onlyGivenNames a; with_reducible refine Keeps.cut (w := w) (s := s0) a ?_ (fun ha => ?_); (on_goal 2 => clear_value a); (on_goal 1 => (dsimp -zeta only [a]; clear a)))
    | (extract_lets +onlyGivenNames a; clear_value a)
    | with_reducible apply graftCommit_keeps
    | fail_if_no_progress (with_reducible refine Keeps.set_tdc ?_ (mask_trans (by decide) hw) _)

/-- `verdictNow` may change: regs, firstItem, tb, hse, mcd, queues, lostMarks, portUp, portDn, merging, x12, vectors, messages, freeIdx. -/
theorem verdictNow_keeps (x0 : Tick) {w : Nat} {s0 s : State} (hw : 71507285379141 &&& w = 71507285379141) (h : Keeps w s0 s) :
    Keeps w s0 (verdictNow x0 s) := by
  unfold verdictNow
  repeat' first
    | with_reducible exact h
    | with_reducible assumption
    | with_reducible apply onFieldVerdict_keeps
    | with_reducible apply Keeps.ite

/-- `colEnd` may change: regs, firstItem, tb, tdc, tsu, pfe, esq, hse, tae, mcd, queues, lostMarks, portUp, portDn, merging, x12, vectors, messages, freeIdx. -/
theorem colEnd_keeps (x0 : Tick) {w : Nat} {s0 s : State} (hw : 71507285397445 &&& w = 71507285397445) (h : Keeps w s0 s) :
    Keeps w s0 (colEnd x0 s) := by
  unfold colEnd
  repeat' first
    | with_reducible exact h
    | with_reducible assumption
    | (extract_lets +onlyGivenNames a; with_reducible refine Keeps.cut (w := w) (s := s0) a ?_ (fun ha => ?_); (on_goal 2 => clear_value a); (on_goal 1 => (dsimp -zeta only [a]; clear a)))
    | (extract_lets +onlyGivenNames a; clear_value a)
    | exact mask_trans (by decide) hw
    | with_reducible apply closePacks_keeps
    | with_reducible apply columnSummary_keeps
    | with_reducible apply graftColumn_keeps
    | with_reducible apply graftQuiet_keeps
    | with_reducible apply loseWaiting_keeps
    | with_reducible apply pfeSwap_keeps
    | with_reducible apply rawItems_keeps
    | with_reducible apply refEmit_keeps
    | with_reducible apply swapBuffers_keeps
    | with_reducible apply swapCounts_keeps
    | with_reducible apply verdictNow_keeps
    | with_reducible apply Keeps.ite
    | fail_if_no_progress (with_reducible refine Keeps.set_esq ?_ (mask_trans (by decide) hw) _)

/-- `fixBase` may change: ala. -/
theorem fixBase_keeps (x0 : Tick) {w : Nat} {s0 s : State} (hw : 8388608 &&& w = 8388608) (h : Keeps w s0 s) :
    Keeps w s0 (fixBase x0 s) := by
  unfold fixBase
  repeat' first
    | with_reducible exact h
    | (extract_lets +onlyGivenNames a; clear_value a)
    | fail_if_no_progress (with_reducible refine Keeps.set_ala ?_ (mask_trans (by decide) hw) _)

/-- `frameItem` may change: regs, firstItem, mcd, queues, lostMarks, portUp, portDn, merging, vectors, messages, freeIdx. -/
theorem frameItem_keeps  {w : Nat} {s0 s : State} (hw : 71502990409733 &&& w = 71502990409733) (h : Keeps w s0 s) :
    Keeps w s0 (frameItem s) := by
  unfold frameItem
  repeat' first
    | with_reducible exact h
    | with_reducible assumption
    | (extract_lets +onlyGivenNames a; clear_value a)
    | with_reducible apply emit_keeps

/-- `frameMarks` may change: pfe, esq, hse. -/
theorem frameMarks_keeps  {w : Nat} {s0 s : State} (hw : 3584 &&& w = 3584) (h : Keeps w s0 s) :
    Keeps w s0 (frameMarks s) := by
  unfold frameMarks
  repeat' first
    | with_reducible exact h
    | (extract_lets +onlyGivenNames a; clear_value a)
    | fail_if_no_progress (with_reducible refine Keeps.set_pfe_esq_hse ?_ (mask_trans (by decide) hw) _ _ _)

/-- `missHold` may change: regs, esq, vectors, messages. -/
theorem missHold_keeps (x0 : PendFrame) {w : Nat} {s0 s : State} (hw : 1133871367169 &&& w = 1133871367169) (h : Keeps w s0 s) :
    Keeps w s0 (missHold x0 s) := by
  unfold missHold
  repeat' first
    | with_reducible exact h
    | (extract_lets +onlyGivenNames a; clear_value a)
    | exact mask_trans (by decide) hw
    | with_reducible apply fault_keeps
    | with_reducible apply Keeps.ite
    | fail_if_no_progress (with_reducible refine Keeps.set_esq ?_ (mask_trans (by decide) hw) _)

/-- `frameBegin` may change: regs, firstItem, tb, tdc, tsu, pfe, esq, hse, fib, tae, tinJobs, mcd, queues, lostMarks, ala, portUp, portDn, merging, cascade, cloche, x12, vectors, mailbox, messages, fences, grafting, faultState, freeIdx. -/
theorem frameBegin_keeps (x0 : PendFrame) {w : Nat} {s0 s : State} (hw : 117826905530309 &&& w = 117826905530309) (h : Keeps w s0 s) :
    Keeps w s0 (frameBegin x0 s) := by
  unfold frameBegin
  repeat' first
    | with_reducible exact h
    | with_reducible assumption
    | (extract_lets +onlyGivenNames a; with_reducible refine Keeps.cut (w := w) (s := s0) a ?_ (fun ha => ?_); (on_goal 2 => clear_value a); (on_goal 1 => (dsimp -zeta only [a]; clear a)))
    | (extract_lets +onlyGivenNames a; clear_value a)
    | exact mask_trans (by decide) hw
    | with_reducible apply ctxStart_keeps
    | with_reducible apply fixBase_keeps
    | with_reducible apply frameFollows_keeps
    | with_reducible apply frameItem_keeps
    | with_reducible apply frameMarks_keeps
    | with_reducible apply missHold_keeps
    | with_reducible apply openColumn_keeps
    | with_reducible apply periodEvent_keeps
    | with_reducible apply scheduleBack_keeps
    | with_reducible apply Keeps.ite
    | fail_if_no_progress (with_reducible refine Keeps.set_esq ?_ (mask_trans (by decide) hw) _)
    | fail_if_no_progress (with_reducible refine Keeps.set_tb ?_ (mask_trans (by decide) hw) _)

/-- `unmadeUnobs` may change: hse. -/
theorem unmadeUnobs_keeps  {w : Nat} {s0 s : State} (hw : 2048 &&& w = 2048) (h : Keeps w s0 s) :
    Keeps w s0 (unmadeUnobs s) := by
  unfold unmadeUnobs
  repeat' first
    | with_reducible exact h
    | with_reducible assumption
    | (extract_lets +onlyGivenNames a; clear_value a)
    | with_reducible apply addUnobs_keeps
    | (with_reducible apply Keeps.foldl; intros)
    | split

/-- `frameEnd` may change: esq, hse, fdc, cloche. -/
theorem frameEnd_keeps  {w : Nat} {s0 s : State} (hw : 2147494912 &&& w = 2147494912) (h : Keeps w s0 s) :
    Keeps w s0 (frameEnd s) := by
  unfold frameEnd
  repeat' first
    | with_reducible exact h
    | with_reducible assumption
    | (extract_lets +onlyGivenNames a; with_reducible refine Keeps.cut (w := w) (s := s0) a ?_ (fun ha => ?_); (on_goal 2 => clear_value a); (on_goal 1 => (dsimp -zeta only [a]; clear a)))
    | (extract_lets +onlyGivenNames a; clear_value a)
    | exact mask_trans (by decide) hw
    | with_reducible apply cloFrameEnd_keeps
    | with_reducible apply unmadeUnobs_keeps
    | with_reducible apply Keeps.ite
    | fail_if_no_progress (with_reducible refine Keeps.set_esq_hse ?_ (mask_trans (by decide) hw) _ _)
    | fail_if_no_progress (with_reducible refine Keeps.set_fdc ?_ (mask_trans (by decide) hw) _)

/-- `calSkews` may change: regs, mcd, queues, portUp, portDn, merging, vectors, messages, freeIdx. -/
theorem calSkews_keeps (x0 : ℕ) {w : Nat} {s0 s : State} (hw : 71502986215425 &&& w = 71502986215425) (h : Keeps w s0 s) :
    Keeps w s0 (calSkews x0 s) := by
  unfold calSkews
  repeat' first
    | with_reducible exact h
    | with_reducible assumption
    | with_reducible apply routeItem_keeps
    | (with_reducible apply Keeps.foldl; intros)

/-- `applySkews` may change: regs, hse, tae, mcd, queues, portUp, portDn, merging, vectors, messages, freeIdx. -/
theorem applySkews_keeps  {w : Nat} {s0 s : State} (hw : 71502986233857 &&& w = 71502986233857) (h : Keeps w s0 s) :
    Keeps w s0 (applySkews s) := by
  unfold applySkews
  repeat' first
    | with_reducible exact h
    | with_reducible assumption
    | (extract_lets +onlyGivenNames a; clear_value a)
    | exact mask_trans (by decide) hw
    | with_reducible apply calSkews_keeps
    | (with_reducible apply Keeps.foldl; intros)
    | split
    | fail_if_no_progress (with_reducible refine Keeps.set_hse_tae ?_ (mask_trans (by decide) hw) _ _)

/-- `startDue` may change: regs, tdc. -/
theorem startDue_keeps (x0 : Tick) {w : Nat} {s0 s : State} (hw : 129 &&& w = 129) (h : Keeps w s0 s) :
    Keeps w s0 (startDue x0 s) := by
  unfold startDue
  repeat' first
    | with_reducible exact h
    | with_reducible assumption
    | (extract_lets +onlyGivenNames a; clear_value a)
    | with_reducible apply startCycle_keeps
    | with_reducible apply Keeps.ite
    | (with_reducible apply Keeps.foldl; intros)

/-- `insertCals` may change: regs, tdc, hse, tae, mcd, queues, portUp, portDn, merging, vectors, messages, freeIdx. -/
theorem insertCals_keeps (x0 : Tick) {w : Nat} {s0 s : State} (hw : 71502986233985 &&& w = 71502986233985) (h : Keeps w s0 s) :
    Keeps w s0 (insertCals x0 s) := by
  unfold insertCals
  repeat' first
    | with_reducible exact h
    | exact mask_trans (by decide) hw
    | with_reducible apply applyAllCal_keeps
    | with_reducible apply applySkews_keeps
    | with_reducible apply eligible_keeps
    | with_reducible apply noteStarved_keeps
    | with_reducible apply startDue_keeps

/-- `planTaken` may change: esq, cle. -/
theorem planTaken_keeps  {w : Nat} {s0 s : State} (hw : 132096 &&& w = 132096) (h : Keeps w s0 s) :
    Keeps w s0 (planTaken s) := by
  unfold planTaken
  repeat' first
    | with_reducible exact h
    | with_reducible assumption
    | (extract_lets +onlyGivenNames a; with_reducible refine Keeps.cut (w := w) (s := s0) a ?_ (fun ha => ?_); (on_goal 2 => clear_value a); (on_goal 1 => (dsimp -zeta only [a]; clear a)))
    | (extract_lets +onlyGivenNames a; clear_value a)
    | exact mask_trans (by decide) hw
    | with_reducible apply cleTakePlan_keeps
    | split
    | fail_if_no_progress (with_reducible refine Keeps.set_esq ?_ (mask_trans (by decide) hw) _)

/-- `lidarItems` may change: regs, firstItem, tdc, pfe, esq, hse, fib, tae, tines, tinJobs, cle, mcd, queues, mailboxItems, lostMarks, portUp, portDn, merging, vectors, mailbox, messages, fences, grafting, freeIdx. -/
theorem lidarItems_keeps (x0 : Bool) (x1 : Tick) {w : Nat} {s0 s : State} (hw : 82635547991685 &&& w = 82635547991685) (h : Keeps w s0 s) :
    Keeps w s0 (lidarItems x0 x1 s).1 := by
  unfold lidarItems
  repeat' first
    | with_reducible exact h
    | with_reducible assumption
    | (extract_lets +onlyGivenNames a; with_reducible refine Keeps.cut (w := w) (s := s0) a ?_ (fun ha => ?_); (on_goal 2 => clear_value a); (on_goal 1 => (dsimp -zeta only [a]; clear a)))
    | (extract_lets +onlyGivenNames a; with_reducible refine Keeps.cut (w := w) (s := s0) a.1 ?_ (fun ha => ?_); (on_goal 2 => clear_value a); (on_goal 1 => (dsimp -zeta only [a]; clear a)))
    | (extract_lets +onlyGivenNames a; clear_value a)
    | exact mask_trans (by decide) hw
    | with_reducible apply insertCals_keeps
    | with_reducible apply insertFlushes_keeps
    | with_reducible apply insertGrant_keeps
    | with_reducible apply insertUnits_keeps
    | with_reducible apply pfeTurn_keeps
    | with_reducible apply planTaken_keeps
    | with_reducible apply takePlans_keeps
    | with_reducible apply Keeps.ite
    | fail_if_no_progress (with_reducible refine Keeps.set_esq ?_ (mask_trans (by decide) hw) _)

/-- `reschedule` may change: esq. -/
theorem reschedule_keeps  {w : Nat} {s0 s : State} (hw : 1024 &&& w = 1024) (h : Keeps w s0 s) :
    Keeps w s0 (reschedule s) := by
  unfold reschedule
  repeat' first
    | with_reducible exact h
    | with_reducible assumption
    | (extract_lets +onlyGivenNames a; clear_value a)
    | with_reducible apply scheduleFrames_keeps
    | (with_reducible apply Keeps.foldl; intros)
    | fail_if_no_progress (with_reducible refine Keeps.set_esq ?_ (mask_trans (by decide) hw) _)

/-- `frameBoundary` may change: regs, firstItem, tb, tdc, tsu, pfe, esq, hse, fib, fdc, tae, tines, tinJobs, cle, asf, mcd, queues, mailboxItems, lostMarks, ala, portUp, portDn, merging, cascade, cloche, x12, vectors, mailbox, messages, fences, grafting, faultState, freeIdx. -/
theorem frameBoundary_keeps (x0 : PendFrame) {w : Nat} {s0 s : State} (hw : 117826908061637 &&& w = 117826908061637) (h : Keeps w s0 s) :
    Keeps w s0 (frameBoundary x0 s) := by
  unfold frameBoundary
  repeat' first
    | with_reducible exact h
    | with_reducible assumption
    | (extract_lets +onlyGivenNames a; with_reducible refine Keeps.cut (w := w) (s := s0) a ?_ (fun ha => ?_); (on_goal 2 => clear_value a); (on_goal 1 => (dsimp -zeta only [a]; clear a)))
    | (extract_lets +onlyGivenNames a; with_reducible refine Keeps.cut (w := w) (s := s0) a.1 ?_ (fun ha => ?_); (on_goal 2 => clear_value a); (on_goal 1 => (dsimp -zeta only [a]; clear a)))
    | (extract_lets +onlyGivenNames a; clear_value a)
    | exact mask_trans (by decide) hw
    | with_reducible apply auxItems_keeps
    | with_reducible apply colEnd_keeps
    | with_reducible apply frameBegin_keeps
    | with_reducible apply frameEnd_keeps
    | with_reducible apply lidarItems_keeps
    | with_reducible apply planTaken_keeps
    | with_reducible apply reschedule_keeps
    | with_reducible apply Keeps.ite
    | fail_if_no_progress (with_reducible refine Keeps.set_esq ?_ (mask_trans (by decide) hw) _)

/-- `onFrameStart` may change: regs, firstItem, tb, tdc, tsu, pfe, esq, hse, fib, fdc, tae, tines, tinJobs, cle, asf, mcd, queues, mailboxItems, lostMarks, ala, portUp, portDn, merging, cascade, cloche, x12, vectors, mailbox, messages, fences, grafting, faultState, freeIdx. -/
theorem onFrameStart_keeps (x0 : Tick) {w : Nat} {s0 s : State} (hw : 117826908061637 &&& w = 117826908061637) (h : Keeps w s0 s) :
    Keeps w s0 (onFrameStart x0 s) := by
  unfold onFrameStart
  repeat' first
    | with_reducible exact h
    | with_reducible assumption
    | (extract_lets +onlyGivenNames a; with_reducible refine Keeps.cut (w := w) (s := s0) a ?_ (fun ha => ?_); (on_goal 2 => clear_value a); (on_goal 1 => (dsimp -zeta only [a]; clear a)))
    | exact mask_trans (by decide) hw
    | with_reducible apply advance_keeps
    | with_reducible apply frameBoundary_keeps
    | with_reducible apply Keeps.ite
    | split

/-- `onColumnBoundary` may change: regs, firstItem, tb, tdc, tsu, pfe, esq, hse, fib, fdc, tae, tines, tinJobs, cle, mcd, queues, mailboxItems, lostMarks, portUp, portDn, merging, cascade, cloche, x12, vectors, mailbox, messages, fences, grafting, freeIdx. -/
theorem onColumnBoundary_keeps (x0 : Tick) {w : Nat} {s0 s : State} (hw : 82642527322053 &&& w = 82642527322053) (h : Keeps w s0 s) :
    Keeps w s0 (onColumnBoundary x0 s) := by
  unfold onColumnBoundary
  repeat' first
    | with_reducible exact h
    | with_reducible assumption
    | (extract_lets +onlyGivenNames a; with_reducible refine Keeps.cut (w := w) (s := s0) a ?_ (fun ha => ?_); (on_goal 2 => clear_value a); (on_goal 1 => (dsimp -zeta only [a]; clear a)))
    | (extract_lets +onlyGivenNames a; clear_value a)
    | exact mask_trans (by decide) hw
    | with_reducible apply advance_keeps
    | with_reducible apply colEnd_keeps
    | with_reducible apply frameEnd_keeps
    | with_reducible apply lidarItems_keeps
    | with_reducible apply openColumn_keeps
    | with_reducible apply Keeps.ite

end Sys2Proof.Machine
end

