-- ==== Sys2Proof/Laws/KeepSweep.lean ====
section
/-! SUPPORT. What each operation of Machine/Sweep.lean may change: one lemma per operation, by the bits of the parts
of State (Sys2Proof.Machine.Part.bit). -/

namespace Sys2Proof.Machine

/-- `takeConverters` may change: regs, firstItem, fib, mcd, queues, lostMarks, portUp, portDn, merging, vectors, messages, freeIdx. -/
theorem takeConverters_keeps  {w : Nat} {s0 s : State} (hw : 71502990413829 &&& w = 71502990413829) (h : Keeps w s0 s) :
    Keeps w s0 (takeConverters s) := by
  unfold takeConverters
  repeat' first
    | with_reducible exact h
    | with_reducible assumption
    | (extract_lets +onlyGivenNames a; with_reducible refine Keeps.cut (w := w) (s := s0) a ?_ (fun ha => ?_); (on_goal 2 => clear_value a); (on_goal 1 => (dsimp -zeta only [a]; clear a)))
    | (extract_lets +onlyGivenNames a; clear_value a)
    | with_reducible apply dtsEarly_keeps
    | with_reducible apply Keeps.ite
    | fail_if_no_progress (with_reducible refine Keeps.set_fib ?_ (mask_trans (by decide) hw) _)

/-- `fibPlanTaken` may change: fib. -/
theorem fibPlanTaken_keeps  {w : Nat} {s0 s : State} (hw : 4096 &&& w = 4096) (h : Keeps w s0 s) :
    Keeps w s0 (fibPlanTaken s) := by
  unfold fibPlanTaken
  repeat' first
    | with_reducible exact h
    | (extract_lets +onlyGivenNames a; clear_value a)
    | fail_if_no_progress (with_reducible refine Keeps.set_fib ?_ (mask_trans (by decide) hw) _)

/-- `sweepEnd` may change: regs, firstItem, fib, fdc, mcd, queues, lostMarks, portUp, portDn, merging, vectors, messages, freeIdx. -/
theorem sweepEnd_keeps (x0 : Tick) {w : Nat} {s0 s : State} (hw : 71502990422021 &&& w = 71502990422021) (h : Keeps w s0 s) :
    Keeps w s0 (sweepEnd x0 s) := by
  unfold sweepEnd
  repeat' first
    | with_reducible exact h
    | with_reducible assumption
    | (extract_lets +onlyGivenNames a; with_reducible refine Keeps.cut (w := w) (s := s0) a ?_ (fun ha => ?_); (on_goal 2 => clear_value a); (on_goal 1 => (dsimp -zeta only [a]; clear a)))
    | (extract_lets +onlyGivenNames a; clear_value a)
    | exact mask_trans (by decide) hw
    | with_reducible apply qualityItem_keeps
    | with_reducible apply ramanClose_keeps
    | with_reducible apply setInfo_keeps
    | with_reducible apply Keeps.ite
    | split
    | fail_if_no_progress (with_reducible refine Keeps.set_fdc ?_ (mask_trans (by decide) hw) _)

/-- `fibreItems` may change: regs, firstItem, tdc, pfe, esq, fib, tae, tines, tinJobs, mcd, queues, mailboxItems, lostMarks, portUp, portDn, merging, vectors, mailbox, messages, fences, grafting, freeIdx. -/
theorem fibreItems_keeps  {w : Nat} {s0 s : State} (hw : 82635547858565 &&& w = 82635547858565) (h : Keeps w s0 s) :
    Keeps w s0 (fibreItems s).1 := by
  unfold fibreItems
  repeat' first
    | with_reducible exact h
    | with_reducible assumption
    | (extract_lets +onlyGivenNames a; with_reducible refine Keeps.cut (w := w) (s := s0) a ?_ (fun ha => ?_); (on_goal 2 => clear_value a); (on_goal 1 => (dsimp -zeta only [a]; clear a)))
    | (extract_lets +onlyGivenNames a; with_reducible refine Keeps.cut (w := w) (s := s0) a.1 ?_ (fun ha => ?_); (on_goal 2 => clear_value a); (on_goal 1 => (dsimp -zeta only [a]; clear a)))
    | exact mask_trans (by decide) hw
    | with_reducible apply applyPairs_keeps
    | with_reducible apply dtsEarly_keeps
    | with_reducible apply fibPlanTaken_keeps
    | with_reducible apply insertFlushes_keeps
    | with_reducible apply insertGrant_keeps
    | with_reducible apply insertUnits_keeps
    | with_reducible apply takePlans_keeps
    | with_reducible apply Keeps.ite

/-- `sweepFollows` may change: regs, firstItem, tdc, pfe, esq, fib, tae, tinJobs, mcd, queues, lostMarks, portUp, portDn, merging, vectors, mailbox, messages, fences, grafting, faultState, freeIdx. -/
theorem sweepFollows_keeps (x0 : ℕ) {w : Nat} {s0 s : State} (hw : 117819917817477 &&& w = 117819917817477) (h : Keeps w s0 s) :
    Keeps w s0 (sweepFollows x0 s) := by
  unfold sweepFollows
  repeat' first
    | with_reducible exact h
    | with_reducible assumption
    | (extract_lets +onlyGivenNames a; with_reducible refine Keeps.cut (w := w) (s := s0) a ?_ (fun ha => ?_); (on_goal 2 => clear_value a); (on_goal 1 => (dsimp -zeta only [a]; clear a)))
    | (extract_lets +onlyGivenNames a; clear_value a)
    | exact mask_trans (by decide) hw
    | with_reducible apply capBoundary_keeps
    | with_reducible apply capStart_keeps
    | with_reducible apply fwdBegin_keeps
    | with_reducible apply runDeferred_keeps
    | with_reducible apply swapDecide_keeps
    | with_reducible apply tinBoundary_keeps

/-- `sweepHold` may change: fib. -/
theorem sweepHold_keeps (x0 : Bool) {w : Nat} {s0 s : State} (hw : 4096 &&& w = 4096) (h : Keeps w s0 s) :
    Keeps w s0 (sweepHold x0 s) := by
  unfold sweepHold
  repeat' first
    | with_reducible exact h
    | (extract_lets +onlyGivenNames a; clear_value a)
    | split
    | fail_if_no_progress (with_reducible refine Keeps.set_fib ?_ (mask_trans (by decide) hw) _)

/-- `sweepInfo` may change: fib. -/
theorem sweepInfo_keeps (x0 : ℕ) (x1 : ℕ) {w : Nat} {s0 s : State} (hw : 4096 &&& w = 4096) (h : Keeps w s0 s) :
    Keeps w s0 (sweepInfo x0 x1 s) := by
  unfold sweepInfo
  repeat' first
    | with_reducible exact h
    | with_reducible assumption
    | (extract_lets +onlyGivenNames a; clear_value a)
    | with_reducible apply setInfo_keeps

/-- `sweepTones` may change: regs, fib, vectors. -/
theorem sweepTones_keeps (x0 : ℕ) {w : Nat} {s0 s : State} (hw : 34359742465 &&& w = 34359742465) (h : Keeps w s0 s) :
    Keeps w s0 (sweepTones x0 s) := by
  unfold sweepTones
  repeat' first
    | with_reducible exact h
    | with_reducible assumption
    | (extract_lets +onlyGivenNames a; with_reducible refine Keeps.cut (w := w) (s := s0) a ?_ (fun ha => ?_); (on_goal 2 => clear_value a); (on_goal 1 => (dsimp -zeta only [a]; clear a)))
    | (extract_lets +onlyGivenNames a; clear_value a)
    | exact mask_trans (by decide) hw
    | with_reducible apply raise_keeps
    | with_reducible apply Keeps.ite
    | fail_if_no_progress (with_reducible refine Keeps.set_fib ?_ (mask_trans (by decide) hw) _)

/-- `takeAtts` may change: regs, firstItem, fib, mcd, queues, lostMarks, portUp, portDn, merging, vectors, messages, freeIdx. -/
theorem takeAtts_keeps (x0 : Bool) (x1 : List AinSt) {w : Nat} {s0 s : State} (hw : 71502990413829 &&& w = 71502990413829) (h : Keeps w s0 s) :
    Keeps w s0 (takeAtts x0 x1 s) := by
  unfold takeAtts
  repeat' first
    | with_reducible exact h
    | with_reducible assumption
    | (extract_lets +onlyGivenNames a; with_reducible refine Keeps.cut (w := w) (s := s0) a ?_ (fun ha => ?_); (on_goal 2 => clear_value a); (on_goal 1 => (dsimp -zeta only [a]; clear a)))
    | (extract_lets +onlyGivenNames a; clear_value a)
    | exact mask_trans (by decide) hw
    | with_reducible apply dtsEarly_keeps
    | with_reducible apply raise_keeps
    | with_reducible apply setAin_keeps
    | with_reducible apply Keeps.ite
    | (with_reducible apply Keeps.foldl; intros)
    | fail_if_no_progress (with_reducible refine Keeps.set_fib ?_ (mask_trans (by decide) hw) _)

/-- `ramanSchedule` may change: fib. -/
theorem ramanSchedule_keeps (x0 : Tick) {w : Nat} {s0 s : State} (hw : 4096 &&& w = 4096) (h : Keeps w s0 s) :
    Keeps w s0 (ramanSchedule x0 s) := by
  unfold ramanSchedule
  repeat' first
    | with_reducible exact h
    | (extract_lets +onlyGivenNames a; clear_value a)
    | with_reducible apply Keeps.ite
    | fail_if_no_progress (with_reducible refine Keeps.set_fib ?_ (mask_trans (by decide) hw) _)

/-- `sweepBegin` may change: regs, firstItem, tb, tdc, tsu, pfe, esq, fib, tae, tinJobs, mcd, queues, lostMarks, ala, portUp, portDn, merging, cascade, x12, vectors, mailbox, messages, fences, grafting, faultState, freeIdx. -/
theorem sweepBegin_keeps (x0 : Tick) (x1 : Bool) (x2 : Bool) (x3 : List AinSt) {w : Nat} {s0 s : State} (hw : 117824758044613 &&& w = 117824758044613) (h : Keeps w s0 s) :
    Keeps w s0 (sweepBegin x0 x1 x2 x3 s) := by
  unfold sweepBegin
  repeat' first
    | with_reducible exact h
    | with_reducible assumption
    | (extract_lets +onlyGivenNames a; with_reducible refine Keeps.cut (w := w) (s := s0) a ?_ (fun ha => ?_); (on_goal 2 => clear_value a); (on_goal 1 => (dsimp -zeta only [a]; clear a)))
    | (extract_lets +onlyGivenNames a; clear_value a)
    | exact mask_trans (by decide) hw
    | with_reducible apply alignBoundary_keeps
    | with_reducible apply ctxStart_keeps
    | with_reducible apply fixBase_keeps
    | with_reducible apply ramanSchedule_keeps
    | with_reducible apply sweepFollows_keeps
    | with_reducible apply sweepHold_keeps
    | with_reducible apply sweepInfo_keeps
    | with_reducible apply sweepTones_keeps
    | with_reducible apply takeAtts_keeps
    | with_reducible apply takeConverters_keeps
    | with_reducible apply windowStarts_keeps
    | with_reducible apply Keeps.ite
    | fail_if_no_progress (with_reducible refine Keeps.set_fib ?_ (mask_trans (by decide) hw) _)
    | fail_if_no_progress (with_reducible refine Keeps.set_tb ?_ (mask_trans (by decide) hw) _)

/-- `sweepItems` may change: regs, firstItem, tsu, fdc, tae, cle, asf, mcd, queues, lostMarks, portUp, portDn, merging, vectors, messages, freeIdx. -/
theorem sweepItems_keeps  {w : Nat} {s0 s : State} (hw : 71502990827781 &&& w = 71502990827781) (h : Keeps w s0 s) :
    Keeps w s0 (sweepItems s) := by
  unfold sweepItems
  repeat' first
    | with_reducible exact h
    | with_reducible assumption
    | (extract_lets +onlyGivenNames a; with_reducible refine Keeps.cut (w := w) (s := s0) a ?_ (fun ha => ?_); (on_goal 2 => clear_value a); (on_goal 1 => (dsimp -zeta only [a]; clear a)))
    | exact mask_trans (by decide) hw
    | with_reducible apply auxItems_keeps
    | with_reducible apply closePacks_keeps
    | with_reducible apply Keeps.ite

/-- `sweepBoundary` may change: regs, firstItem, tb, tdc, tsu, pfe, esq, fib, fdc, tae, tines, tinJobs, cle, asf, mcd, queues, mailboxItems, lostMarks, ala, portUp, portDn, merging, cascade, x12, vectors, mailbox, messages, fences, grafting, faultState, freeIdx. -/
theorem sweepBoundary_keeps (x0 : Tick) (x1 : Bool) {w : Nat} {s0 s : State} (hw : 117824760575941 &&& w = 117824760575941) (h : Keeps w s0 s) :
    Keeps w s0 (sweepBoundary x0 x1 s) := by
  unfold sweepBoundary
  repeat' first
    | with_reducible exact h
    | with_reducible assumption
    | (extract_lets +onlyGivenNames a; with_reducible refine Keeps.cut (w := w) (s := s0) a ?_ (fun ha => ?_); (on_goal 2 => clear_value a); (on_goal 1 => (dsimp -zeta only [a]; clear a)))
    | (extract_lets +onlyGivenNames a; with_reducible refine Keeps.cut (w := w) (s := s0) a.1 ?_ (fun ha => ?_); (on_goal 2 => clear_value a); (on_goal 1 => (dsimp -zeta only [a]; clear a)))
    | (extract_lets +onlyGivenNames a; clear_value a)
    | exact mask_trans (by decide) hw
    | with_reducible apply fibreItems_keeps
    | with_reducible apply flushSamples_keeps
    | with_reducible apply sweepBegin_keeps
    | with_reducible apply sweepEnd_keeps
    | with_reducible apply sweepItems_keeps
    | with_reducible apply Keeps.ite
    | fail_if_no_progress (with_reducible refine Keeps.set_fib ?_ (mask_trans (by decide) hw) _)

/-- `onSweepBoundary` may change: regs, firstItem, tb, tdc, tsu, pfe, esq, fib, fdc, tae, tines, tinJobs, cle, asf, mcd, queues, mailboxItems, lostMarks, ala, portUp, portDn, merging, cascade, x12, vectors, mailbox, messages, fences, grafting, faultState, freeIdx. -/
theorem onSweepBoundary_keeps (x0 : Tick) {w : Nat} {s0 s : State} (hw : 117824760575941 &&& w = 117824760575941) (h : Keeps w s0 s) :
    Keeps w s0 (onSweepBoundary x0 s) := by
  unfold onSweepBoundary
  repeat' first
    | with_reducible exact h
    | with_reducible assumption
    | (extract_lets +onlyGivenNames a; with_reducible refine Keeps.cut (w := w) (s := s0) a ?_ (fun ha => ?_); (on_goal 2 => clear_value a); (on_goal 1 => (dsimp -zeta only [a]; clear a)))
    | exact mask_trans (by decide) hw
    | with_reducible apply advance_keeps
    | with_reducible apply sweepBoundary_keeps
    | with_reducible apply Keeps.ite
    | split

end Sys2Proof.Machine
end

