-- ==== Sys2Proof/Laws/KeepBoot.lean ====
section
/-! SUPPORT. What each operation of Machine/Boot.lean may change: one lemma per operation, by the bits of the parts
of State (Sys2Proof.Machine.Part.bit). -/

namespace Sys2Proof.Machine

/-- `startupEnds` may change: firstItem, boot. -/
theorem startupEnds_keeps (x0 : ℕ) {w : Nat} {s0 s : State} (hw : 12 &&& w = 12) (h : Keeps w s0 s) :
    Keeps w s0 (startupEnds x0 s) := by
  unfold startupEnds
  repeat' first
    | with_reducible exact h
    | (extract_lets +onlyGivenNames a; (have y : BootSt := a; clear y); dsimp -zeta only [a]; clear a)
    | fail_if_no_progress (with_reducible refine Keeps.set_boot ?_ (mask_trans (by decide) hw) _)

/-- `dirBad` may change: regs, vectors, messages. -/
theorem dirBad_keeps  {w : Nat} {s0 s : State} (hw : 1133871366145 &&& w = 1133871366145) (h : Keeps w s0 s) :
    Keeps w s0 (dirBad s) := by
  unfold dirBad
  repeat' first
    | with_reducible exact h
    | with_reducible assumption
    | exact mask_trans (by decide) hw
    | with_reducible apply fault_keeps
    | with_reducible apply stick_keeps

/-- `calBegin` may change: regs, boot, tdc, pfe. -/
theorem calBegin_keeps (x0 : Tick) {w : Nat} {s0 s : State} (hw : 649 &&& w = 649) (h : Keeps w s0 s) :
    Keeps w s0 (calBegin x0 s) := by
  unfold calBegin
  repeat' first
    | with_reducible exact h
    | with_reducible assumption
    | (extract_lets +onlyGivenNames a; with_reducible refine Keeps.cut (w := w) (s := s0) a ?_ (fun ha => ?_); (on_goal 2 => clear_value a); (on_goal 1 => (dsimp -zeta only [a]; clear a)))
    | (extract_lets +onlyGivenNames a; (have y : BootSt := a; clear y); dsimp -zeta only [a]; clear a)
    | (extract_lets +onlyGivenNames a; clear_value a)
    | exact mask_trans (by decide) hw
    | with_reducible apply startCycle_keeps
    | with_reducible apply Keeps.ite
    | (with_reducible apply Keeps.foldl; intros)
    | fail_if_no_progress (with_reducible refine Keeps.set_boot_boot_pfe ?_ (mask_trans (by decide) hw) _ (by first | ((with_reducible repeat' constructor); done) | (split <;> repeat' constructor)) _)

/-- `onBistDone` may change: regs, boot, tb, tdc, tsu, pfe, esq, hse, fib, cle, queues, cloche, vectors, messages. -/
theorem onBistDone_keeps (x0 : Bool) (x1 : BitVec 8) (x2 : Tick) {w : Nat} {s0 s : State} (hw : 1136020037577 &&& w = 1136020037577) (h : Keeps w s0 s) :
    Keeps w s0 (onBistDone x0 x1 x2 s) := by
  unfold onBistDone
  repeat' first
    | with_reducible exact h
    | with_reducible assumption
    | (extract_lets +onlyGivenNames a; with_reducible refine Keeps.cut (w := w) (s := s0) a ?_ (fun ha => ?_); (on_goal 2 => clear_value a); (on_goal 1 => (dsimp -zeta only [a]; clear a)))
    | (extract_lets +onlyGivenNames a; (have y : BootSt := a; clear y); dsimp -zeta only [a]; clear a)
    | (extract_lets +onlyGivenNames a; clear_value a)
    | exact mask_trans (by decide) hw
    | with_reducible apply advance_keeps
    | with_reducible apply bootHalt_keeps
    | with_reducible apply calBegin_keeps
    | with_reducible apply fault_keeps
    | with_reducible apply stick_keeps
    | with_reducible apply Keeps.ite
    | (with_reducible apply Keeps.foldl; intros)
    | fail_if_no_progress (with_reducible refine Keeps.set_boot_boot ?_ (mask_trans (by decide) hw) _ (by first | ((with_reducible repeat' constructor); done) | (split <;> repeat' constructor)))

/-- `noImage` may change: regs, boot, tdc, tsu, esq, hse, fib, cle, queues, cloche, vectors, messages. -/
theorem noImage_keeps  {w : Nat} {s0 s : State} (hw : 1136020037001 &&& w = 1136020037001) (h : Keeps w s0 s) :
    Keeps w s0 (noImage s) := by
  unfold noImage
  repeat' first
    | with_reducible exact h
    | with_reducible assumption
    | exact mask_trans (by decide) hw
    | with_reducible apply bootHalt_keeps
    | with_reducible apply fault_keeps

/-- `slotFails` may change: regs, boot, vectors, messages. -/
theorem slotFails_keeps (x0 : ℕ) (x1 : ℕ) {w : Nat} {s0 s : State} (hw : 1133871366153 &&& w = 1133871366153) (h : Keeps w s0 s) :
    Keeps w s0 (slotFails x0 x1 s) := by
  unfold slotFails
  repeat' first
    | with_reducible exact h
    | with_reducible assumption
    | (extract_lets +onlyGivenNames a; with_reducible refine Keeps.cut (w := w) (s := s0) a ?_ (fun ha => ?_); (on_goal 2 => clear_value a); (on_goal 1 => (dsimp -zeta only [a]; clear a)))
    | (extract_lets +onlyGivenNames a; (have y : BootSt := a; clear y); dsimp -zeta only [a]; clear a)
    | (extract_lets +onlyGivenNames a; clear_value a)
    | exact mask_trans (by decide) hw
    | with_reducible apply fault_keeps
    | with_reducible apply stick_keeps
    | split
    | fail_if_no_progress (with_reducible refine Keeps.set_boot_boot ?_ (mask_trans (by decide) hw) _ (by first | ((with_reducible repeat' constructor); done) | (split <;> repeat' constructor)))

/-- `candidateFails` may change: regs, boot, tdc, tsu, esq, hse, fib, cle, queues, cloche, vectors, messages. -/
theorem candidateFails_keeps (x0 : ℕ) (x1 : ℕ) {w : Nat} {s0 s : State} (hw : 1136020037001 &&& w = 1136020037001) (h : Keeps w s0 s) :
    Keeps w s0 (candidateFails x0 x1 s) := by
  unfold candidateFails
  repeat' first
    | with_reducible exact h
    | with_reducible assumption
    | (extract_lets +onlyGivenNames a; with_reducible refine Keeps.cut (w := w) (s := s0) a ?_ (fun ha => ?_); (on_goal 2 => clear_value a); (on_goal 1 => (dsimp -zeta only [a]; clear a)))
    | (extract_lets +onlyGivenNames a; (have y : BootSt := a; clear y); dsimp -zeta only [a]; clear a)
    | exact mask_trans (by decide) hw
    | with_reducible apply noImage_keeps
    | with_reducible apply slotFails_keeps
    | with_reducible apply Keeps.ite
    | fail_if_no_progress (with_reducible refine Keeps.set_boot_boot ?_ (mask_trans (by decide) hw) _ (by first | ((with_reducible repeat' constructor); done) | (split <;> repeat' constructor)))

/-- `loadRegs` may change: regs. -/
theorem loadRegs_keeps (x0 : List ImgRec) {w : Nat} {s0 s : State} (hw : 1 &&& w = 1) (h : Keeps w s0 s) :
    Keeps w s0 (loadRegs x0 s) := by
  unfold loadRegs
  repeat' first
    | with_reducible exact h
    | with_reducible assumption
    | with_reducible apply wr_keeps
    | with_reducible apply Keeps.ite
    | (with_reducible apply Keeps.foldl; intros)

/-- `commitImage` may change: regs, cfg, boot, tb, pfe, tines, queues, mailboxItems, ala, portUp, portDn, lanes, vectors, mailbox, messages, fences, grafting, freeIdx. -/
theorem commitImage_keeps (x0 : ℕ) (x1 : ℕ) (x2 : List Byte) (x3 : List ImgRec) {w : Nat} {s0 s : State} (hw : 82635417223755 &&& w = 82635417223755) (h : Keeps w s0 s) :
    Keeps w s0 (commitImage x0 x1 x2 x3 s) := by
  unfold commitImage
  repeat' first
    | with_reducible exact h
    | with_reducible assumption
    | (extract_lets +onlyGivenNames a; with_reducible refine Keeps.cut (w := w) (s := s0) a ?_ (fun ha => ?_); (on_goal 2 => clear_value a); (on_goal 1 => (dsimp -zeta only [a]; clear a)))
    | (extract_lets +onlyGivenNames a; (have y : BootSt := a; clear y); dsimp -zeta only [a]; clear a)
    | (extract_lets +onlyGivenNames a; (have y : QsySt := a; clear y); dsimp -zeta only [a]; clear a)
    | (extract_lets +onlyGivenNames a; clear_value a)
    | exact mask_trans (by decide) hw
    | with_reducible apply biasEnable_keeps
    | with_reducible apply firstGrant_keeps
    | with_reducible apply loadRegs_keeps
    | with_reducible apply raise_keeps
    | with_reducible apply tinLoad_keeps
    | with_reducible apply Keeps.ite
    | (with_reducible apply Keeps.foldl; intros)
    | split
    | fail_if_no_progress (with_reducible refine Keeps.set_boot_boot_tb ?_ (mask_trans (by decide) hw) _ (by first | ((with_reducible repeat' constructor); done) | (split <;> repeat' constructor)) _)
    | fail_if_no_progress (with_reducible refine Keeps.set_cfg ?_ (mask_trans (by decide) hw) _)
    | fail_if_no_progress (with_reducible refine Keeps.set_qsy_queues ?_ (mask_trans (by decide) hw) _ (by first | ((with_reducible repeat' constructor); done) | (split <;> repeat' constructor)))

/-- `recordFails` may change: regs, boot, vectors, freeIdx. -/
theorem recordFails_keeps (x0 : ℕ) (x1 : ℕ) {w : Nat} {s0 s : State} (hw : 70403103916041 &&& w = 70403103916041) (h : Keeps w s0 s) :
    Keeps w s0 (recordFails x0 x1 s) := by
  unfold recordFails
  repeat' first
    | with_reducible exact h
    | (extract_lets +onlyGivenNames a; (have y : BootSt := a; clear y); dsimp -zeta only [a]; clear a)
    | exact mask_trans (by decide) hw
    | with_reducible apply raise_keeps
    | with_reducible apply useFree_keeps
    | fail_if_no_progress (with_reducible refine Keeps.set_boot_boot ?_ (mask_trans (by decide) hw) _ (by first | ((with_reducible repeat' constructor); done) | (split <;> repeat' constructor)))

/-- `onImageStageDone` may change: regs, cfg, boot, tb, tdc, tsu, pfe, esq, hse, fib, tines, cle, queues, mailboxItems, ala, portUp, portDn, lanes, cloche, vectors, mailbox, messages, fences, grafting, freeIdx. -/
theorem onImageStageDone_keeps (x0 : List Byte) (x1 : Bool) (x2 : ℕ) {w : Nat} {s0 s : State} (hw : 82637564846027 &&& w = 82637564846027) (h : Keeps w s0 s) :
    Keeps w s0 (onImageStageDone x0 x1 x2 s) := by
  unfold onImageStageDone
  repeat' first
    | with_reducible exact h
    | (extract_lets +onlyGivenNames a; clear_value a)
    | exact mask_trans (by decide) hw
    | with_reducible apply candidateFails_keeps
    | with_reducible apply commitImage_keeps
    | with_reducible apply recordFails_keeps
    | with_reducible apply Keeps.ite
    | split

/-- `judgeSlots` may change: regs, boot, tdc, tsu, esq, hse, fib, cle, queues, cloche, vectors, messages. -/
theorem judgeSlots_keeps (x0 : NvmRead) {w : Nat} {s0 s : State} (hw : 1136020037001 &&& w = 1136020037001) (h : Keeps w s0 s) :
    Keeps w s0 (judgeSlots x0 s) := by
  unfold judgeSlots
  repeat' first
    | with_reducible exact h
    | with_reducible assumption
    | (extract_lets +onlyGivenNames a; with_reducible refine Keeps.cut (w := w) (s := s0) a ?_ (fun ha => ?_); (on_goal 2 => clear_value a); (on_goal 1 => (dsimp -zeta only [a]; clear a)))
    | (extract_lets +onlyGivenNames a; (have y : BootSt := a; clear y); dsimp -zeta only [a]; clear a)
    | (extract_lets +onlyGivenNames a; clear_value a)
    | exact mask_trans (by decide) hw
    | with_reducible apply noImage_keeps
    | with_reducible apply slotFails_keeps
    | with_reducible apply Keeps.ite
    | fail_if_no_progress (with_reducible refine Keeps.set_boot_boot ?_ (mask_trans (by decide) hw) _ (by first | ((with_reducible repeat' constructor); done) | (split <;> repeat' constructor)))

/-- `afterDirectory` may change: regs, boot, sec, tdc, tsu, esq, hse, fib, cle, queues, cloche, vectors, messages. -/
theorem afterDirectory_keeps (x0 : NvmRead) {w : Nat} {s0 s : State} (hw : 1136020037017 &&& w = 1136020037017) (h : Keeps w s0 s) :
    Keeps w s0 (afterDirectory x0 s) := by
  unfold afterDirectory
  repeat' first
    | with_reducible exact h
    | (extract_lets +onlyGivenNames a; (have y : BootSt := a; clear y); dsimp -zeta only [a]; clear a)
    | (extract_lets +onlyGivenNames a; clear_value a)
    | exact mask_trans (by decide) hw
    | with_reducible apply bootHalt_keeps
    | with_reducible apply fault_keeps
    | with_reducible apply judgeSlots_keeps
    | with_reducible apply raise_keeps
    | with_reducible apply Keeps.ite
    | fail_if_no_progress (with_reducible refine Keeps.set_boot_boot_sec ?_ (mask_trans (by decide) hw) _ (by first | ((with_reducible repeat' constructor); done) | (split <;> repeat' constructor)) _)

/-- `onNvmHeadersRead` may change: regs, boot, sec, nvm, tdc, tsu, esq, hse, fib, cle, queues, cloche, vectors, messages. -/
theorem onNvmHeadersRead_keeps (x0 : NvmRead) {w : Nat} {s0 s : State} (hw : 1136020037049 &&& w = 1136020037049) (h : Keeps w s0 s) :
    Keeps w s0 (onNvmHeadersRead x0 s) := by
  unfold onNvmHeadersRead
  repeat' first
    | with_reducible exact h
    | with_reducible assumption
    | (extract_lets +onlyGivenNames a; with_reducible refine Keeps.cut (w := w) (s := s0) a ?_ (fun ha => ?_); (on_goal 2 => clear_value a); (on_goal 1 => (dsimp -zeta only [a]; clear a)))
    | (extract_lets +onlyGivenNames a; (have y : BootSt := a; clear y); dsimp -zeta only [a]; clear a)
    | (extract_lets +onlyGivenNames a; clear_value a)
    | exact mask_trans (by decide) hw
    | with_reducible apply afterDirectory_keeps
    | with_reducible apply dirBad_keeps
    | with_reducible apply noImage_keeps
    | with_reducible apply Keeps.ite
    | split
    | fail_if_no_progress (with_reducible refine Keeps.set_boot_boot_nvm ?_ (mask_trans (by decide) hw) _ (by first | ((with_reducible repeat' constructor); done) | (split <;> repeat' constructor)) _)

/-- `onRailMeasureDone` may change: regs, boot, tb, esq, vectors, messages. -/
theorem onRailMeasureDone_keeps (x0 : Fin 4) (x1 : Option ℕ) (x2 : Tick) {w : Nat} {s0 s : State} (hw : 1133871367241 &&& w = 1133871367241) (h : Keeps w s0 s) :
    Keeps w s0 (onRailMeasureDone x0 x1 x2 s) := by
  unfold onRailMeasureDone
  repeat' first
    | with_reducible exact h
    | with_reducible assumption
    | (extract_lets +onlyGivenNames a; with_reducible refine Keeps.cut (w := w) (s := s0) a ?_ (fun ha => ?_); (on_goal 2 => clear_value a); (on_goal 1 => (dsimp -zeta only [a]; clear a)))
    | (extract_lets +onlyGivenNames a; (have y : BootSt := a; clear y); dsimp -zeta only [a]; clear a)
    | (extract_lets +onlyGivenNames a; clear_value a)
    | exact mask_trans (by decide) hw
    | with_reducible apply advance_keeps
    | with_reducible apply railGraft_keeps
    | with_reducible apply railMeasured_keeps
    | with_reducible apply Keeps.ite
    | fail_if_no_progress (with_reducible refine Keeps.set_boot_boot_esq ?_ (mask_trans (by decide) hw) _ (by first | ((with_reducible repeat' constructor); done) | (split <;> repeat' constructor)) _)

/-- `onClocheSelftestDone` may change: regs, boot, tb, tdc, tsu, pfe, esq, hse, fib, cle, queues, commissioning, cloche, vectors, messages. -/
theorem onClocheSelftestDone_keeps (x0 : SelfTest) (x1 : Tick) {w : Nat} {s0 s : State} (hw : 1137093779401 &&& w = 1137093779401) (h : Keeps w s0 s) :
    Keeps w s0 (onClocheSelftestDone x0 x1 s) := by
  unfold onClocheSelftestDone
  repeat' first
    | with_reducible exact h
    | with_reducible assumption
    | (extract_lets +onlyGivenNames a; with_reducible refine Keeps.cut (w := w) (s := s0) a ?_ (fun ha => ?_); (on_goal 2 => clear_value a); (on_goal 1 => (dsimp -zeta only [a]; clear a)))
    | (extract_lets +onlyGivenNames a; with_reducible refine Keeps.cut (w := w) (s := s0) a.1 ?_ (fun ha => ?_); (on_goal 2 => clear_value a); (on_goal 1 => (dsimp -zeta only [a]; clear a)))
    | exact mask_trans (by decide) hw
    | with_reducible apply advance_keeps
    | with_reducible apply bootHalt_keeps
    | with_reducible apply calBegin_keeps
    | with_reducible apply cloSelfTest_keeps
    | with_reducible apply raise_keeps
    | with_reducible apply Keeps.ite

/-- `onFirstFrameStart` may change: regs, firstItem, boot, tb, tdc, tsu, pfe, esq, hse, fib, fdc, tae, tines, tinJobs, cle, asf, mcd, queues, mailboxItems, lostMarks, ala, portUp, portDn, merging, cascade, cloche, x12, vectors, mailbox, messages, fences, grafting, faultState, freeIdx. -/
theorem onFirstFrameStart_keeps (x0 : Bool) (x1 : Tick) (x2 : ℕ) {w : Nat} {s0 s : State} (hw : 117826908061645 &&& w = 117826908061645) (h : Keeps w s0 s) :
    Keeps w s0 (onFirstFrameStart x0 x1 x2 s) := by
  unfold onFirstFrameStart
  repeat' first
    | with_reducible exact h
    | with_reducible assumption
    | (extract_lets +onlyGivenNames a; with_reducible refine Keeps.cut (w := w) (s := s0) a ?_ (fun ha => ?_); (on_goal 2 => clear_value a); (on_goal 1 => (dsimp -zeta only [a]; clear a)))
    | (extract_lets +onlyGivenNames a; clear_value a)
    | exact mask_trans (by decide) hw
    | with_reducible apply advance_keeps
    | with_reducible apply frameBoundary_keeps
    | with_reducible apply startupEnds_keeps
    | with_reducible apply sweepBoundary_keeps
    | with_reducible apply Keeps.ite
    | split
    | fail_if_no_progress (with_reducible refine Keeps.set_esq ?_ (mask_trans (by decide) hw) _)

/-- `onStartupCalDone` may change: regs, cfg, boot, tb, tdc, pfe, esq, hse, fib, queues, portUp, portDn, cascade, vectors, messages, freeIdx. -/
theorem onStartupCalDone_keeps (x0 : Tick) {w : Nat} {s0 s : State} (hw : 71503254134475 &&& w = 71503254134475) (h : Keeps w s0 s) :
    Keeps w s0 (onStartupCalDone x0 s) := by
  unfold onStartupCalDone
  repeat' first
    | with_reducible exact h
    | with_reducible assumption
    | (extract_lets +onlyGivenNames a; with_reducible refine Keeps.cut (w := w) (s := s0) a ?_ (fun ha => ?_); (on_goal 2 => clear_value a); (on_goal 1 => (dsimp -zeta only [a]; clear a)))
    | (extract_lets +onlyGivenNames a; (have y : BootSt := a; clear y); dsimp -zeta only [a]; clear a)
    | (extract_lets +onlyGivenNames a; clear_value a)
    | exact mask_trans (by decide) hw
    | with_reducible apply advance_keeps
    | with_reducible apply linkBegin_keeps
    | with_reducible apply Keeps.ite
    | fail_if_no_progress (with_reducible refine Keeps.set_boot_boot_tdc_pfe ?_ (mask_trans (by decide) hw) _ (by first | ((with_reducible repeat' constructor); done) | (split <;> repeat' constructor)) _ _)

end Sys2Proof.Machine
end

