-- ==== Sys2Proof/Laws/KeepHif.lean ====
section
/-! SUPPORT. What each operation of Machine/Hif.lean may change: one lemma per operation, by the bits of the parts
of State (Sys2Proof.Machine.Part.bit). -/

namespace Sys2Proof.Machine

/-- `setRing` may change: rings. -/
theorem setRing_keeps (x0 : Bool) (x1 : ℕ) (x2 : Ring) {w : Nat} {s0 s : State} (hw : 68719476736 &&& w = 68719476736) (h : Keeps w s0 s) :
    Keeps w s0 (setRing x0 x1 x2 s) := by
  unfold setRing
  repeat' first
    | with_reducible exact h
    | (extract_lets +onlyGivenNames a; (have y : HifSt := a; clear y); dsimp -zeta only [a]; clear a)
    | with_reducible apply Keeps.ite
    | fail_if_no_progress (with_reducible refine Keeps.set_hif_rings ?_ (mask_trans (by decide) hw) _ (by first | ((with_reducible repeat' constructor); done) | (split <;> repeat' constructor)))

/-- `complete` may change: vectors, rings. -/
theorem complete_keeps (x0 : Bool) (x1 : ℕ) (x2 : Bool) (x3 : ℕ) (x4 : ℕ) (x5 : Bool) (x6 : Bool) (x7 : ℕ) (x8 : ℕ) (x9 : List Word64) {w : Nat} {s0 s : State} (hw : 103079215104 &&& w = 103079215104) (h : Keeps w s0 s) :
    Keeps w s0 (complete x0 x1 x2 x3 x4 x5 x6 x7 x8 x9 s) := by
  unfold complete
  repeat' first
    | with_reducible exact h
    | with_reducible assumption
    | (extract_lets +onlyGivenNames a; with_reducible refine Keeps.cut (w := w) (s := s0) a ?_ (fun ha => ?_); (on_goal 2 => clear_value a); (on_goal 1 => (dsimp -zeta only [a]; clear a)))
    | (extract_lets +onlyGivenNames a; clear_value a)
    | exact mask_trans (by decide) hw
    | with_reducible apply requestVector_keeps
    | with_reducible apply setRing_keeps
    | with_reducible apply Keeps.ite

/-- `countKib` may change: regs, rings. -/
theorem countKib_keeps (x0 : Bool) (x1 : ℕ) (x2 : ℕ) {w : Nat} {s0 s : State} (hw : 68719476737 &&& w = 68719476737) (h : Keeps w s0 s) :
    Keeps w s0 (countKib x0 x1 x2 s) := by
  unfold countKib
  repeat' first
    | with_reducible exact h
    | (extract_lets +onlyGivenNames a; clear_value a)
    | exact mask_trans (by decide) hw
    | with_reducible apply bumpSat_keeps
    | with_reducible apply setRing_keeps

/-- `closeBuf` may change: regs, vectors, rings. -/
theorem closeBuf_keeps (x0 : ℕ) (x1 : Bool) (x2 : Bool) {w : Nat} {s0 s : State} (hw : 103079215105 &&& w = 103079215105) (h : Keeps w s0 s) :
    Keeps w s0 (closeBuf x0 x1 x2 s) := by
  unfold closeBuf
  repeat' first
    | with_reducible exact h
    | exact mask_trans (by decide) hw
    | with_reducible apply complete_keeps
    | with_reducible apply countKib_keeps
    | split

/-- `nextBuf` may change: vectors, rings. -/
theorem nextBuf_keeps (x0 : ℕ) (x1 : List Descriptor) {w : Nat} {s0 s : State} (hw : 103079215104 &&& w = 103079215104) (h : Keeps w s0 s) :
    Keeps w s0 (nextBuf x0 x1 s).1 := by
  revert h
  induction x1 generalizing x0 s with
  | nil => intro h; unfold nextBuf; exact h
  | cons y0 y1 ih =>
    intro h
    unfold nextBuf
    repeat' first
      | with_reducible apply ih
      | with_reducible exact h
      | with_reducible assumption
      | (extract_lets +onlyGivenNames a; clear_value a)
      | exact mask_trans (by decide) hw
      | with_reducible apply complete_keeps
      | with_reducible apply setRing_keeps
      | split

/-- `fillBufs` may change: regs, vectors, rings. -/
theorem fillBufs_keeps (x0 : ℕ) (x1 : ℕ) (x2 : List Word64) (x3 : List Descriptor) {w : Nat} {s0 s : State} (hw : 103079215105 &&& w = 103079215105) (h : Keeps w s0 s) :
    Keeps w s0 (fillBufs x0 x1 x2 x3 s).1 := by
  revert h
  induction x0 generalizing x1 x2 x3 s with
  | zero => intro h; unfold fillBufs; exact h
  | succ y0 ih =>
    intro h
    unfold fillBufs
    repeat' first
      | with_reducible apply ih
      | with_reducible exact h
      | with_reducible assumption
      | (extract_lets +onlyGivenNames a; with_reducible refine Keeps.cut (w := w) (s := s0) a ?_ (fun ha => ?_); (on_goal 2 => clear_value a); (on_goal 1 => (dsimp -zeta only [a]; clear a)))
      | (extract_lets +onlyGivenNames a; with_reducible refine Keeps.cut (w := w) (s := s0) a.1 ?_ (fun ha => ?_); (on_goal 2 => clear_value a); (on_goal 1 => (dsimp -zeta only [a]; clear a)))
      | (extract_lets +onlyGivenNames a; clear_value a)
      | exact mask_trans (by decide) hw
      | with_reducible apply closeBuf_keeps
      | with_reducible apply nextBuf_keeps
      | with_reducible apply setRing_keeps
      | split

/-- `fillRing` may change: regs, vectors, rings. -/
theorem fillRing_keeps (x0 : ℕ) (x1 : ℕ) (x2 : List Word64) (x3 : List Descriptor) {w : Nat} {s0 s : State} (hw : 103079215105 &&& w = 103079215105) (h : Keeps w s0 s) :
    Keeps w s0 (fillRing x0 x1 x2 x3 s) := by
  unfold fillRing
  repeat' first
    | with_reducible exact h
    | with_reducible assumption
    | (extract_lets +onlyGivenNames a; with_reducible refine Keeps.cut (w := w) (s := s0) a.1 ?_ (fun ha => ?_); (on_goal 2 => clear_value a); (on_goal 1 => (dsimp -zeta only [a]; clear a)))
    | (extract_lets +onlyGivenNames a; clear_value a)
    | exact mask_trans (by decide) hw
    | with_reducible apply fillBufs_keeps
    | with_reducible apply setRing_keeps

/-- `ringLoses` may change: rings. -/
theorem ringLoses_keeps (x0 : ℕ) {w : Nat} {s0 s : State} (hw : 68719476736 &&& w = 68719476736) (h : Keeps w s0 s) :
    Keeps w s0 (ringLoses x0 s) := by
  unfold ringLoses
  repeat' first
    | with_reducible exact h
    | with_reducible assumption
    | (extract_lets +onlyGivenNames a; clear_value a)
    | with_reducible apply setRing_keeps

/-- `updateFails` may change: regs, vectors, messages. -/
theorem updateFails_keeps (x0 : ℕ) {w : Nat} {s0 s : State} (hw : 1133871366145 &&& w = 1133871366145) (h : Keeps w s0 s) :
    Keeps w s0 (updateFails x0 s) := by
  unfold updateFails
  repeat' first
    | with_reducible exact h
    | with_reducible assumption
    | exact mask_trans (by decide) hw
    | with_reducible apply fault_keeps
    | with_reducible apply stick_keeps

/-- `beginInBuf` may change: rings. -/
theorem beginInBuf_keeps (x0 : ℕ) (x1 : Word64) {w : Nat} {s0 s : State} (hw : 68719476736 &&& w = 68719476736) (h : Keeps w s0 s) :
    Keeps w s0 (beginInBuf x0 x1 s) := by
  unfold beginInBuf
  repeat' first
    | with_reducible exact h
    | with_reducible assumption
    | (extract_lets +onlyGivenNames a; clear_value a)
    | with_reducible apply setRing_keeps
    | split

/-- `deliverTag` may change: rings. -/
theorem deliverTag_keeps (x0 : ℕ) (x1 : List Word64) {w : Nat} {s0 s : State} (hw : 68719476736 &&& w = 68719476736) (h : Keeps w s0 s) :
    Keeps w s0 (deliverTag x0 x1 s).1 := by
  unfold deliverTag
  repeat' first
    | with_reducible exact h
    | with_reducible assumption
    | (extract_lets +onlyGivenNames a; with_reducible refine Keeps.cut (w := w) (s := s0) a ?_ (fun ha => ?_); (on_goal 2 => clear_value a); (on_goal 1 => (dsimp -zeta only [a]; clear a)))
    | (extract_lets +onlyGivenNames a; (have y : HifSt := a; clear y); dsimp -zeta only [a]; clear a)
    | (extract_lets +onlyGivenNames a; clear_value a)
    | with_reducible apply setRing_keeps
    | split
    | fail_if_no_progress (with_reducible refine Keeps.set_hif_rings ?_ (mask_trans (by decide) hw) _ (by first | ((with_reducible repeat' constructor); done) | (split <;> repeat' constructor)))

/-- `takeQueued` may change: queues. -/
theorem takeQueued_keeps (x0 : ℕ) (x1 : ℕ) {w : Nat} {s0 s : State} (hw : 1048576 &&& w = 1048576) (h : Keeps w s0 s) :
    Keeps w s0 (takeQueued x0 x1 s) := by
  unfold takeQueued
  repeat' first
    | with_reducible exact h
    | with_reducible assumption
    | (extract_lets +onlyGivenNames a; clear_value a)
    | with_reducible apply setQueue_keeps

/-- `deliverNext` may change: regs, queues, vectors, rings, messages, freeIdx. -/
theorem deliverNext_keeps (x0 : ℕ) (x1 : ℕ) (x2 : List Descriptor) (x3 : ℕ) {w : Nat} {s0 s : State} (hw : 71571336069121 &&& w = 71571336069121) (h : Keeps w s0 s) :
    Keeps w s0 (deliverNext x0 x1 x2 x3 s) := by
  unfold deliverNext
  repeat' first
    | with_reducible exact h
    | with_reducible assumption
    | (extract_lets +onlyGivenNames a; with_reducible refine Keeps.cut (w := w) (s := s0) a ?_ (fun ha => ?_); (on_goal 2 => clear_value a); (on_goal 1 => (dsimp -zeta only [a]; clear a)))
    | (extract_lets +onlyGivenNames a; with_reducible refine Keeps.cut (w := w) (s := s0) a.1 ?_ (fun ha => ?_); (on_goal 2 => clear_value a); (on_goal 1 => (dsimp -zeta only [a]; clear a)))
    | (extract_lets +onlyGivenNames a; clear_value a)
    | exact mask_trans (by decide) hw
    | with_reducible apply beginInBuf_keeps
    | with_reducible apply closeBuf_keeps
    | with_reducible apply deliverTag_keeps
    | with_reducible apply fillRing_keeps
    | with_reducible apply nextBuf_keeps
    | with_reducible apply parityFailed_keeps
    | with_reducible apply takeQueued_keeps
    | with_reducible apply Keeps.ite
    | split

/-- `countDiscard` may change: regs. -/
theorem countDiscard_keeps (x0 : ℕ) (x1 : ℕ) {w : Nat} {s0 s : State} (hw : 1 &&& w = 1) (h : Keeps w s0 s) :
    Keeps w s0 (countDiscard x0 x1 s) := by
  unfold countDiscard
  repeat' first
    | with_reducible exact h
    | with_reducible assumption
    | with_reducible apply bumpSat_keeps

/-- `dropRest` may change: regs, rings. -/
theorem dropRest_keeps (x0 : ℕ) {w : Nat} {s0 s : State} (hw : 68719476737 &&& w = 68719476737) (h : Keeps w s0 s) :
    Keeps w s0 (dropRest x0 s) := by
  unfold dropRest
  repeat' first
    | with_reducible exact h
    | (extract_lets +onlyGivenNames a; clear_value a)
    | exact mask_trans (by decide) hw
    | with_reducible apply countDiscard_keeps
    | with_reducible apply setRing_keeps
    | with_reducible apply Keeps.ite

/-- `discardNext` may change: regs, queues, vectors, rings, messages, freeIdx. -/
theorem discardNext_keeps (x0 : ℕ) (x1 : ℕ) (x2 : ℕ) {w : Nat} {s0 s : State} (hw : 71571336069121 &&& w = 71571336069121) (h : Keeps w s0 s) :
    Keeps w s0 (discardNext x0 x1 x2 s) := by
  unfold discardNext
  repeat' first
    | with_reducible exact h
    | with_reducible assumption
    | (extract_lets +onlyGivenNames a; with_reducible refine Keeps.cut (w := w) (s := s0) a ?_ (fun ha => ?_); (on_goal 2 => clear_value a); (on_goal 1 => (dsimp -zeta only [a]; clear a)))
    | (extract_lets +onlyGivenNames a; clear_value a)
    | exact mask_trans (by decide) hw
    | with_reducible apply countDiscard_keeps
    | with_reducible apply dropRest_keeps
    | with_reducible apply parityFailed_keeps
    | with_reducible apply ringLoses_keeps
    | with_reducible apply takeQueued_keeps
    | with_reducible apply Keeps.ite

/-- `onC2hItemDeliver` may change: regs, tb, queues, vectors, rings, messages, freeIdx. -/
theorem onC2hItemDeliver_keeps (x0 : Fin 64) (x1 : List Descriptor) (x2 : ℕ) (x3 : Tick) {w : Nat} {s0 s : State} (hw : 71571336069185 &&& w = 71571336069185) (h : Keeps w s0 s) :
    Keeps w s0 (onC2hItemDeliver x0 x1 x2 x3 s) := by
  unfold onC2hItemDeliver
  repeat' first
    | with_reducible exact h
    | with_reducible assumption
    | (extract_lets +onlyGivenNames a; with_reducible refine Keeps.cut (w := w) (s := s0) a ?_ (fun ha => ?_); (on_goal 2 => clear_value a); (on_goal 1 => (dsimp -zeta only [a]; clear a)))
    | (extract_lets +onlyGivenNames a; clear_value a)
    | exact mask_trans (by decide) hw
    | with_reducible apply advance_keeps
    | with_reducible apply deliverNext_keeps
    | with_reducible apply discardNext_keeps
    | with_reducible apply fillRing_keeps
    | with_reducible apply Keeps.ite
    | split

/-- `ringStart` may change: rings. -/
theorem ringStart_keeps (x0 : Bool) (x1 : ℕ) {w : Nat} {s0 s : State} (hw : 68719476736 &&& w = 68719476736) (h : Keeps w s0 s) :
    Keeps w s0 (ringStart x0 x1 s) := by
  unfold ringStart
  repeat' first
    | with_reducible exact h
    | with_reducible assumption
    | (extract_lets +onlyGivenNames a; clear_value a)
    | with_reducible apply setRing_keeps

/-- `hifRegsReset` may change: regs. -/
theorem hifRegsReset_keeps  {w : Nat} {s0 s : State} (hw : 1 &&& w = 1) (h : Keeps w s0 s) :
    Keeps w s0 (hifRegsReset s) := by
  unfold hifRegsReset
  repeat' first
    | with_reducible exact h
    | fail_if_no_progress (with_reducible refine Keeps.set_regs ?_ (mask_trans (by decide) hw) _)

/-- `slotErased` may change: nvm. -/
theorem slotErased_keeps (x0 : Bool) {w : Nat} {s0 s : State} (hw : 32 &&& w = 32) (h : Keeps w s0 s) :
    Keeps w s0 (slotErased x0 s) := by
  unfold slotErased
  repeat' first
    | with_reducible exact h
    | (extract_lets +onlyGivenNames a; clear_value a)
    | with_reducible apply Keeps.ite
    | fail_if_no_progress (with_reducible refine Keeps.set_nvm ?_ (mask_trans (by decide) hw) _)

/-- `dmaFails` may change: regs, nvm, vectors, rings, mailbox, background, messages. -/
theorem dmaFails_keeps (x0 : ℕ) {w : Nat} {s0 s : State} (hw : 1614907703329 &&& w = 1614907703329) (h : Keeps w s0 s) :
    Keeps w s0 (dmaFails x0 s) := by
  unfold dmaFails
  repeat' first
    | with_reducible exact h
    | with_reducible assumption
    | (extract_lets +onlyGivenNames a; with_reducible refine Keeps.cut (w := w) (s := s0) a ?_ (fun ha => ?_); (on_goal 2 => clear_value a); (on_goal 1 => (dsimp -zeta only [a]; clear a)))
    | (extract_lets +onlyGivenNames a; (have y : HifSt := a; clear y); dsimp -zeta only [a]; clear a)
    | exact mask_trans (by decide) hw
    | with_reducible apply fault_keeps
    | with_reducible apply finish_keeps
    | with_reducible apply slotErased_keeps
    | with_reducible apply stick_keeps
    | with_reducible apply updateFails_keeps
    | split
    | fail_if_no_progress (with_reducible refine Keeps.set_hif_rings_background ?_ (mask_trans (by decide) hw) _ (by first | ((with_reducible repeat' constructor); done) | (split <;> repeat' constructor)))

/-- `onH2cReadDone` may change: regs, nvm, tb, vectors, rings, mailbox, background, messages. -/
theorem onH2cReadDone_keeps (x0 : Fin 2) (x1 : Descriptor) (x2 : List Byte) (x3 : Bool) (x4 : Tick) {w : Nat} {s0 s : State} (hw : 1614907703393 &&& w = 1614907703393) (h : Keeps w s0 s) :
    Keeps w s0 (onH2cReadDone x0 x1 x2 x3 x4 s) := by
  unfold onH2cReadDone
  repeat' first
    | with_reducible exact h
    | with_reducible assumption
    | (extract_lets +onlyGivenNames a; with_reducible refine Keeps.cut (w := w) (s := s0) a ?_ (fun ha => ?_); (on_goal 2 => clear_value a); (on_goal 1 => (dsimp -zeta only [a]; clear a)))
    | (extract_lets +onlyGivenNames a; (have y : HifSt := a; clear y); dsimp -zeta only [a]; clear a)
    | (extract_lets +onlyGivenNames a; clear_value a)
    | exact mask_trans (by decide) hw
    | with_reducible apply advance_keeps
    | with_reducible apply complete_keeps
    | with_reducible apply countKib_keeps
    | with_reducible apply dmaFails_keeps
    | with_reducible apply Keeps.ite
    | fail_if_no_progress (with_reducible refine Keeps.set_hif_rings ?_ (mask_trans (by decide) hw) _ (by first | ((with_reducible repeat' constructor); done) | (split <;> repeat' constructor)))

/-- `rejectWrite` may change: regs, freeIdx. -/
theorem rejectWrite_keeps  {w : Nat} {s0 s : State} (hw : 70368744177665 &&& w = 70368744177665) (h : Keeps w s0 s) :
    Keeps w s0 (rejectWrite s) := by
  unfold rejectWrite
  repeat' first
    | with_reducible exact h
    | with_reducible assumption
    | exact mask_trans (by decide) hw
    | with_reducible apply bump_keeps
    | with_reducible apply stick_keeps

/-- `ringProdWrite` may change: regs, freeIdx. -/
theorem ringProdWrite_keeps (x0 : Bool) (x1 : ℕ) (x2 : Word32) {w : Nat} {s0 s : State} (hw : 70368744177665 &&& w = 70368744177665) (h : Keeps w s0 s) :
    Keeps w s0 (ringProdWrite x0 x1 x2 s) := by
  unfold ringProdWrite
  repeat' first
    | with_reducible exact h
    | with_reducible assumption
    | exact mask_trans (by decide) hw
    | with_reducible apply rejectWrite_keeps
    | with_reducible apply wr_keeps
    | with_reducible apply Keeps.ite

/-- `onInboundDoorbell` may change: bars. -/
theorem onInboundDoorbell_keeps (x0 : Fin 4) (x1 : List Byte) {w : Nat} {s0 s : State} (hw : 549755813888 &&& w = 549755813888) (h : Keeps w s0 s) :
    Keeps w s0 (onInboundDoorbell x0 x1 s) := by
  unfold onInboundDoorbell
  repeat' first
    | with_reducible exact h
    | (extract_lets +onlyGivenNames a; (have y : HifSt := a; clear y); dsimp -zeta only [a]; clear a)
    | (extract_lets +onlyGivenNames a; clear_value a)
    | fail_if_no_progress (with_reducible refine Keeps.set_hif_bars ?_ (mask_trans (by decide) hw) _ (by first | ((with_reducible repeat' constructor); done) | (split <;> repeat' constructor)))

/-- `clearRc` may change: regs, queues. -/
theorem clearRc_keeps (x0 : ℕ) {w : Nat} {s0 s : State} (hw : 1048577 &&& w = 1048577) (h : Keeps w s0 s) :
    Keeps w s0 (clearRc x0 s) := by
  unfold clearRc
  repeat' first
    | with_reducible exact h
    | (extract_lets +onlyGivenNames a; (have y : QsySt := a; clear y); dsimp -zeta only [a]; clear a)
    | (extract_lets +onlyGivenNames a; clear_value a)
    | exact mask_trans (by decide) hw
    | with_reducible apply wr_keeps
    | with_reducible apply Keeps.ite
    | fail_if_no_progress (with_reducible refine Keeps.set_qsy_queues ?_ (mask_trans (by decide) hw) _ (by first | ((with_reducible repeat' constructor); done) | (split <;> repeat' constructor)))

/-- `hostRead` may change: regs, queues, bars. -/
theorem hostRead_keeps (x0 : ℕ) {w : Nat} {s0 s : State} (hw : 549756862465 &&& w = 549756862465) (h : Keeps w s0 s) :
    Keeps w s0 (hostRead x0 s) := by
  unfold hostRead
  repeat' first
    | with_reducible exact h
    | with_reducible assumption
    | (extract_lets +onlyGivenNames a; with_reducible refine Keeps.cut (w := w) (s := s0) a ?_ (fun ha => ?_); (on_goal 2 => clear_value a); (on_goal 1 => (dsimp -zeta only [a]; clear a)))
    | (extract_lets +onlyGivenNames a; (have y : HifSt := a; clear y); dsimp -zeta only [a]; clear a)
    | (extract_lets +onlyGivenNames a; clear_value a)
    | exact mask_trans (by decide) hw
    | with_reducible apply clearRc_keeps
    | with_reducible apply Keeps.ite
    | fail_if_no_progress (with_reducible refine Keeps.set_hif_bars ?_ (mask_trans (by decide) hw) _ (by first | ((with_reducible repeat' constructor); done) | (split <;> repeat' constructor)))

/-- `rcKeep` may change: regs, queues. -/
theorem rcKeep_keeps (x0 : ℕ) (x1 : Word32) {w : Nat} {s0 s : State} (hw : 1048577 &&& w = 1048577) (h : Keeps w s0 s) :
    Keeps w s0 (rcKeep x0 x1 s) := by
  unfold rcKeep
  repeat' first
    | with_reducible exact h
    | (extract_lets +onlyGivenNames a; (have y : QsySt := a; clear y); dsimp -zeta only [a]; clear a)
    | (extract_lets +onlyGivenNames a; clear_value a)
    | exact mask_trans (by decide) hw
    | with_reducible apply wr_keeps
    | with_reducible apply Keeps.ite
    | fail_if_no_progress (with_reducible refine Keeps.set_qsy_queues ?_ (mask_trans (by decide) hw) _ (by first | ((with_reducible repeat' constructor); done) | (split <;> repeat' constructor)))

/-- `rcAnswer` may change: regs, bars. -/
theorem rcAnswer_keeps (x0 : ℕ) (x1 : ℕ) (x2 : Word32) {w : Nat} {s0 s : State} (hw : 549755813889 &&& w = 549755813889) (h : Keeps w s0 s) :
    Keeps w s0 (rcAnswer x0 x1 x2 s) := by
  unfold rcAnswer
  repeat' first
    | with_reducible exact h
    | (extract_lets +onlyGivenNames a; (have y : HifSt := a; clear y); dsimp -zeta only [a]; clear a)
    | fail_if_no_progress (with_reducible refine Keeps.set_fresh_hif_bars ?_ (mask_trans (by decide) hw) _ _ (by first | ((with_reducible repeat' constructor); done) | (split <;> repeat' constructor)))

/-- `onRcRead` may change: regs, queues, bars. -/
theorem onRcRead_keeps (x0 : ℕ) {w : Nat} {s0 s : State} (hw : 549756862465 &&& w = 549756862465) (h : Keeps w s0 s) :
    Keeps w s0 (onRcRead x0 s) := by
  unfold onRcRead
  repeat' first
    | with_reducible exact h
    | with_reducible assumption
    | exact mask_trans (by decide) hw
    | with_reducible apply hostRead_keeps
    | with_reducible apply rcAnswer_keeps
    | with_reducible apply rcKeep_keeps
    | with_reducible apply Keeps.ite
    | split

/-- `onReadLowWord` may change: regs, queues, bars. -/
theorem onReadLowWord_keeps (x0 : ℕ) {w : Nat} {s0 s : State} (hw : 549756862465 &&& w = 549756862465) (h : Keeps w s0 s) :
    Keeps w s0 (onReadLowWord x0 s) := by
  unfold onReadLowWord
  repeat' first
    | with_reducible exact h
    | with_reducible assumption
    | with_reducible apply hostRead_keeps

/-- `loseKeys` may change: rings. -/
theorem loseKeys_keeps (x0 : List ℕ) {w : Nat} {s0 s : State} (hw : 68719476736 &&& w = 68719476736) (h : Keeps w s0 s) :
    Keeps w s0 (loseKeys x0 s) := by
  unfold loseKeys
  repeat' first
    | with_reducible exact h
    | (extract_lets +onlyGivenNames a; (have y : HifSt := a; clear y); dsimp -zeta only [a]; clear a)
    | fail_if_no_progress (with_reducible refine Keeps.set_hif_rings ?_ (mask_trans (by decide) hw) _ (by first | ((with_reducible repeat' constructor); done) | (split <;> repeat' constructor)))

/-- `coreReset` may change: regs, link, vectors, rings, mailbox, bars. -/
theorem coreReset_keeps  {w : Nat} {s0 s : State} (hw : 807453851649 &&& w = 807453851649) (h : Keeps w s0 s) :
    Keeps w s0 (coreReset s) := by
  unfold coreReset
  repeat' first
    | with_reducible exact h
    | with_reducible assumption
    | (extract_lets +onlyGivenNames a; with_reducible refine Keeps.cut (w := w) (s := s0) a ?_ (fun ha => ?_); (on_goal 2 => clear_value a); (on_goal 1 => (dsimp -zeta only [a]; clear a)))
    | (extract_lets +onlyGivenNames a; (have y : HifSt := a; clear y); dsimp -zeta only [a]; clear a)
    | exact mask_trans (by decide) hw
    | with_reducible apply hifRegsReset_keeps
    | with_reducible apply loseKeys_keeps
    | fail_if_no_progress (with_reducible refine Keeps.set_hif_link_vectors_rings_mailbox_bars ?_ (mask_trans (by decide) hw) _ (by first | ((with_reducible repeat' constructor); done) | (split <;> repeat' constructor)))

/-- `onDataLinkUp` may change: link. -/
theorem onDataLinkUp_keeps (x0 : ℕ) (x1 : ℕ) {w : Nat} {s0 s : State} (hw : 17179869184 &&& w = 17179869184) (h : Keeps w s0 s) :
    Keeps w s0 (onDataLinkUp x0 x1 s) := by
  unfold onDataLinkUp
  repeat' first
    | with_reducible exact h
    | (extract_lets +onlyGivenNames a; (have y : HifSt := a; clear y); dsimp -zeta only [a]; clear a)
    | with_reducible apply Keeps.ite
    | fail_if_no_progress (with_reducible refine Keeps.set_hif_link ?_ (mask_trans (by decide) hw) _ (by first | ((with_reducible repeat' constructor); done) | (split <;> repeat' constructor)))

/-- `onBufferCloseTimeout` may change: regs, tb, vectors, rings. -/
theorem onBufferCloseTimeout_keeps (x0 : Fin 16) (x1 : Tick) {w : Nat} {s0 s : State} (hw : 103079215169 &&& w = 103079215169) (h : Keeps w s0 s) :
    Keeps w s0 (onBufferCloseTimeout x0 x1 s) := by
  unfold onBufferCloseTimeout
  repeat' first
    | with_reducible exact h
    | with_reducible assumption
    | (extract_lets +onlyGivenNames a; with_reducible refine Keeps.cut (w := w) (s := s0) a ?_ (fun ha => ?_); (on_goal 2 => clear_value a); (on_goal 1 => (dsimp -zeta only [a]; clear a)))
    | (extract_lets +onlyGivenNames a; clear_value a)
    | exact mask_trans (by decide) hw
    | with_reducible apply advance_keeps
    | with_reducible apply closeBuf_keeps
    | with_reducible apply Keeps.ite
    | split

/-- `onWidthRetrainDone` may change: link. -/
theorem onWidthRetrainDone_keeps (x0 : ℕ) {w : Nat} {s0 s : State} (hw : 17179869184 &&& w = 17179869184) (h : Keeps w s0 s) :
    Keeps w s0 (onWidthRetrainDone x0 s) := by
  unfold onWidthRetrainDone
  repeat' first
    | with_reducible exact h
    | (extract_lets +onlyGivenNames a; (have y : HifSt := a; clear y); dsimp -zeta only [a]; clear a)
    | with_reducible apply Keeps.ite
    | fail_if_no_progress (with_reducible refine Keeps.set_hif_link ?_ (mask_trans (by decide) hw) _ (by first | ((with_reducible repeat' constructor); done) | (split <;> repeat' constructor)))

/-- `ringsLose` may change: rings. -/
theorem ringsLose_keeps  {w : Nat} {s0 s : State} (hw : 68719476736 &&& w = 68719476736) (h : Keeps w s0 s) :
    Keeps w s0 (ringsLose s) := by
  unfold ringsLose
  repeat' first
    | with_reducible exact h
    | with_reducible assumption
    | with_reducible apply ringLoses_keeps
    | (with_reducible apply Keeps.foldl; intros)

/-- `linkGone` may change: regs, link, vectors. -/
theorem linkGone_keeps  {w : Nat} {s0 s : State} (hw : 51539607553 &&& w = 51539607553) (h : Keeps w s0 s) :
    Keeps w s0 (linkGone s) := by
  unfold linkGone
  repeat' first
    | with_reducible exact h
    | (extract_lets +onlyGivenNames a; (have y : HifSt := a; clear y); dsimp -zeta only [a]; clear a)
    | exact mask_trans (by decide) hw
    | with_reducible apply raise_keeps
    | with_reducible apply stick_keeps
    | fail_if_no_progress (with_reducible refine Keeps.set_hif_link ?_ (mask_trans (by decide) hw) _ (by first | ((with_reducible repeat' constructor); done) | (split <;> repeat' constructor)))

/-- `onPcieLinkDown` may change: regs, link, vectors. -/
theorem onPcieLinkDown_keeps (x0 : Bool) {w : Nat} {s0 s : State} (hw : 51539607553 &&& w = 51539607553) (h : Keeps w s0 s) :
    Keeps w s0 (onPcieLinkDown x0 s) := by
  unfold onPcieLinkDown
  repeat' first
    | with_reducible exact h
    | with_reducible assumption
    | (extract_lets +onlyGivenNames a; (have y : HifSt := a; clear y); dsimp -zeta only [a]; clear a)
    | with_reducible apply linkGone_keeps
    | with_reducible apply Keeps.ite
    | fail_if_no_progress (with_reducible refine Keeps.set_hif_link ?_ (mask_trans (by decide) hw) _ (by first | ((with_reducible repeat' constructor); done) | (split <;> repeat' constructor)))

/-- `onUnsupportedRequest` may change: regs, freeIdx. -/
theorem onUnsupportedRequest_keeps  {w : Nat} {s0 s : State} (hw : 70368744177665 &&& w = 70368744177665) (h : Keeps w s0 s) :
    Keeps w s0 (onUnsupportedRequest s) := by
  unfold onUnsupportedRequest
  repeat' first
    | with_reducible exact h
    | with_reducible assumption
    | exact mask_trans (by decide) hw
    | with_reducible apply bump_keeps
    | with_reducible apply stick_keeps

/-- `onC2hProdWrite` may change: regs, freeIdx. -/
theorem onC2hProdWrite_keeps (x0 : Fin 16) (x1 : Word32) {w : Nat} {s0 s : State} (hw : 70368744177665 &&& w = 70368744177665) (h : Keeps w s0 s) :
    Keeps w s0 (onC2hProdWrite x0 x1 s) := by
  unfold onC2hProdWrite
  repeat' first
    | with_reducible exact h
    | with_reducible assumption
    | with_reducible apply ringProdWrite_keeps

/-- `ringStop` may change: regs, vectors, rings. -/
theorem ringStop_keeps (x0 : Bool) (x1 : ℕ) {w : Nat} {s0 s : State} (hw : 103079215105 &&& w = 103079215105) (h : Keeps w s0 s) :
    Keeps w s0 (ringStop x0 x1 s) := by
  unfold ringStop
  repeat' first
    | with_reducible exact h
    | with_reducible assumption
    | (extract_lets +onlyGivenNames a; with_reducible refine Keeps.cut (w := w) (s := s0) a ?_ (fun ha => ?_); (on_goal 2 => clear_value a); (on_goal 1 => (dsimp -zeta only [a]; clear a)))
    | (extract_lets +onlyGivenNames a; clear_value a)
    | exact mask_trans (by decide) hw
    | with_reducible apply complete_keeps
    | with_reducible apply countDiscard_keeps
    | with_reducible apply dropRest_keeps
    | with_reducible apply loseKeys_keeps
    | with_reducible apply setRing_keeps
    | with_reducible apply Keeps.ite
    | split

/-- `ringBaseWrite` may change: regs, freeIdx. -/
theorem ringBaseWrite_keeps (x0 : ℕ) (x1 : Bool) (x2 : ℕ) (x3 : Word32) {w : Nat} {s0 s : State} (hw : 70368744177665 &&& w = 70368744177665) (h : Keeps w s0 s) :
    Keeps w s0 (ringBaseWrite x0 x1 x2 x3 s) := by
  unfold ringBaseWrite
  repeat' first
    | with_reducible exact h
    | with_reducible assumption
    | exact mask_trans (by decide) hw
    | with_reducible apply rejectWrite_keeps
    | with_reducible apply wr_keeps
    | with_reducible apply Keeps.ite

/-- `onPerst` may change: regs, link, vectors, rings, mailbox, bars. -/
theorem onPerst_keeps (x0 : Bool) {w : Nat} {s0 s : State} (hw : 807453851649 &&& w = 807453851649) (h : Keeps w s0 s) :
    Keeps w s0 (onPerst x0 s) := by
  unfold onPerst
  repeat' first
    | with_reducible exact h
    | with_reducible assumption
    | (extract_lets +onlyGivenNames a; with_reducible refine Keeps.cut (w := w) (s := s0) a ?_ (fun ha => ?_); (on_goal 2 => clear_value a); (on_goal 1 => (dsimp -zeta only [a]; clear a)))
    | (extract_lets +onlyGivenNames a; (have y : HifSt := a; clear y); dsimp -zeta only [a]; clear a)
    | exact mask_trans (by decide) hw
    | with_reducible apply coreReset_keeps
    | with_reducible apply linkGone_keeps
    | with_reducible apply raise_keeps
    | with_reducible apply Keeps.ite
    | fail_if_no_progress (with_reducible refine Keeps.set_hif_link ?_ (mask_trans (by decide) hw) _ (by first | ((with_reducible repeat' constructor); done) | (split <;> repeat' constructor)))

/-- `ringCtrlWrite` may change: regs, vectors, rings, freeIdx. -/
theorem ringCtrlWrite_keeps (x0 : Bool) (x1 : ℕ) (x2 : Word32) {w : Nat} {s0 s : State} (hw : 70471823392769 &&& w = 70471823392769) (h : Keeps w s0 s) :
    Keeps w s0 (ringCtrlWrite x0 x1 x2 s) := by
  unfold ringCtrlWrite
  repeat' first
    | with_reducible exact h
    | with_reducible assumption
    | (extract_lets +onlyGivenNames a; with_reducible refine Keeps.cut (w := w) (s := s0) a ?_ (fun ha => ?_); (on_goal 2 => clear_value a); (on_goal 1 => (dsimp -zeta only [a]; clear a)))
    | (extract_lets +onlyGivenNames a; clear_value a)
    | exact mask_trans (by decide) hw
    | with_reducible apply rejectWrite_keeps
    | with_reducible apply ringStart_keeps
    | with_reducible apply ringStop_keeps
    | with_reducible apply wr_keeps
    | with_reducible apply Keeps.ite

/-- `onMsixSend` may change: vectors. -/
theorem onMsixSend_keeps (x0 : Fin 64) {w : Nat} {s0 s : State} (hw : 34359738368 &&& w = 34359738368) (h : Keeps w s0 s) :
    Keeps w s0 (onMsixSend x0 s) := by
  unfold onMsixSend
  repeat' first
    | with_reducible exact h
    | (extract_lets +onlyGivenNames a; (have y : HifSt := a; clear y); dsimp -zeta only [a]; clear a)
    | (extract_lets +onlyGivenNames a; clear_value a)
    | with_reducible apply Keeps.ite
    | fail_if_no_progress (with_reducible refine Keeps.set_hif_vectors ?_ (mask_trans (by decide) hw) _ (by first | ((with_reducible repeat' constructor); done) | (split <;> repeat' constructor)))

/-- `onRingEnable` may change: regs, vectors, rings, freeIdx. -/
theorem onRingEnable_keeps (x0 : Bool) (x1 : Fin 16) (x2 : Word32) {w : Nat} {s0 s : State} (hw : 70471823392769 &&& w = 70471823392769) (h : Keeps w s0 s) :
    Keeps w s0 (onRingEnable x0 x1 x2 s) := by
  unfold onRingEnable
  repeat' first
    | with_reducible exact h
    | with_reducible assumption
    | with_reducible apply ringCtrlWrite_keeps
    | with_reducible apply Keeps.ite

/-- `onRingDisable` may change: regs, tb, vectors, rings, freeIdx. -/
theorem onRingDisable_keeps (x0 : Bool) (x1 : Fin 16) (x2 : Word32) (x3 : Tick) {w : Nat} {s0 s : State} (hw : 70471823392833 &&& w = 70471823392833) (h : Keeps w s0 s) :
    Keeps w s0 (onRingDisable x0 x1 x2 x3 s) := by
  unfold onRingDisable
  repeat' first
    | with_reducible exact h
    | with_reducible assumption
    | (extract_lets +onlyGivenNames a; with_reducible refine Keeps.cut (w := w) (s := s0) a ?_ (fun ha => ?_); (on_goal 2 => clear_value a); (on_goal 1 => (dsimp -zeta only [a]; clear a)))
    | exact mask_trans (by decide) hw
    | with_reducible apply advance_keeps
    | with_reducible apply ringCtrlWrite_keeps
    | with_reducible apply Keeps.ite

/-- `rtWrite` may change: regs, tb, vectors, rings, freeIdx. -/
theorem rtWrite_keeps (x0 : ℕ) (x1 : Word32) (x2 : Tick) {w : Nat} {s0 s : State} (hw : 70471823392833 &&& w = 70471823392833) (h : Keeps w s0 s) :
    Keeps w s0 (rtWrite x0 x1 x2 s) := by
  unfold rtWrite
  repeat' first
    | with_reducible exact h
    | (extract_lets +onlyGivenNames a; clear_value a)
    | exact mask_trans (by decide) hw
    | with_reducible apply onTdcCalReq_keeps
    | with_reducible apply rejectWrite_keeps
    | with_reducible apply ringBaseWrite_keeps
    | with_reducible apply ringCtrlWrite_keeps
    | with_reducible apply ringProdWrite_keeps
    | with_reducible apply wr_keeps
    | with_reducible apply Keeps.ite
    | split

/-- `onRegisterWrite` may change: regs, tb, vectors, rings, freeIdx. -/
theorem onRegisterWrite_keeps (x0 : ℕ) (x1 : Word32) (x2 : Tick) {w : Nat} {s0 s : State} (hw : 70471823392833 &&& w = 70471823392833) (h : Keeps w s0 s) :
    Keeps w s0 (onRegisterWrite x0 x1 x2 s) := by
  unfold onRegisterWrite
  repeat' first
    | with_reducible exact h
    | with_reducible assumption
    | (extract_lets +onlyGivenNames a; with_reducible refine Keeps.cut (w := w) (s := s0) a ?_ (fun ha => ?_); (on_goal 2 => clear_value a); (on_goal 1 => (dsimp -zeta only [a]; clear a)))
    | exact mask_trans (by decide) hw
    | with_reducible apply advance_keeps
    | with_reducible apply rtWrite_keeps
    | with_reducible apply wr_keeps
    | with_reducible apply Keeps.ite
    | split

/-- `onD0Return` may change: link, rings. -/
theorem onD0Return_keeps  {w : Nat} {s0 s : State} (hw : 85899345920 &&& w = 85899345920) (h : Keeps w s0 s) :
    Keeps w s0 (onD0Return s) := by
  unfold onD0Return
  repeat' first
    | with_reducible exact h
    | (extract_lets +onlyGivenNames a; (have y : HifSt := a; clear y); dsimp -zeta only [a]; clear a)
    | exact mask_trans (by decide) hw
    | with_reducible apply ringsLose_keeps
    | with_reducible apply Keeps.ite
    | fail_if_no_progress (with_reducible refine Keeps.set_hif_link ?_ (mask_trans (by decide) hw) _ (by first | ((with_reducible repeat' constructor); done) | (split <;> repeat' constructor)))

end Sys2Proof.Machine
end

