-- ==== Sys2Proof/Laws/KeepItems.lean ====
section
/-! SUPPORT. What each operation of Machine/Items.lean may change: one lemma per operation, by the bits of the parts
of State (Sys2Proof.Machine.Part.bit). -/

namespace Sys2Proof.Machine

/-- `forwardCtl` may change: regs, mcd, queues, portUp, portDn, merging, vectors, messages, freeIdx. -/
theorem forwardCtl_keeps (x0 : Block) (x1 : Item) {w : Nat} {s0 s : State} (hw : 71502986215425 &&& w = 71502986215425) (h : Keeps w s0 s) :
    Keeps w s0 (forwardCtl x0 x1 s) := by
  unfold forwardCtl
  repeat' first
    | with_reducible exact h
    | with_reducible assumption
    | (extract_lets +onlyGivenNames a; clear_value a)
    | with_reducible apply emitCtl_keeps

/-- `planActs` may change: fdc, tinJobs. -/
theorem planActs_keeps (x0 : Block) (x1 : Bool) (x2 : Word64) {w : Nat} {s0 s : State} (hw : 73728 &&& w = 73728) (h : Keeps w s0 s) :
    Keeps w s0 (planActs x0 x1 x2 s) := by
  unfold planActs
  repeat' first
    | with_reducible exact h
    | exact mask_trans (by decide) hw
    | with_reducible apply fdcReset_keeps
    | with_reducible apply tinPlan_keeps
    | with_reducible apply Keeps.ite
    | split

/-- `onFenceItem` may change: regs, mcd, queues, portUp, portDn, merging, vectors, messages, fences, freeIdx. -/
theorem onFenceItem_keeps (x0 : Block) (x1 : Item) {w : Nat} {s0 s : State} (hw : 73702009470977 &&& w = 73702009470977) (h : Keeps w s0 s) :
    Keeps w s0 (onFenceItem x0 x1 s) := by
  unfold onFenceItem
  repeat' first
    | with_reducible exact h
    | (extract_lets +onlyGivenNames a; (have y : FclSt := a; clear y); dsimp -zeta only [a]; clear a)
    | (extract_lets +onlyGivenNames a; clear_value a)
    | exact mask_trans (by decide) hw
    | with_reducible apply forwardCtl_keeps
    | with_reducible apply Keeps.ite
    | fail_if_no_progress (with_reducible refine Keeps.set_fcl_fences ?_ (mask_trans (by decide) hw) _ (by first | ((with_reducible repeat' constructor); done) | (split <;> repeat' constructor)))

/-- `onSwapItem` may change: regs, fdc, tinJobs, mcd, queues, portUp, portDn, merging, vectors, messages, freeIdx. -/
theorem onSwapItem_keeps (x0 : Block) (x1 : Item) {w : Nat} {s0 s : State} (hw : 71502986289153 &&& w = 71502986289153) (h : Keeps w s0 s) :
    Keeps w s0 (onSwapItem x0 x1 s) := by
  unfold onSwapItem
  repeat' first
    | with_reducible exact h
    | exact mask_trans (by decide) hw
    | with_reducible apply forwardCtl_keeps
    | with_reducible apply planActs_keeps
    | with_reducible apply Keeps.ite

/-- `onPlanItem` may change: regs, fdc, tinJobs, mcd, queues, portUp, portDn, merging, vectors, messages, freeIdx. -/
theorem onPlanItem_keeps (x0 : Block) (x1 : Item) {w : Nat} {s0 s : State} (hw : 71502986289153 &&& w = 71502986289153) (h : Keeps w s0 s) :
    Keeps w s0 (onPlanItem x0 x1 s) := by
  unfold onPlanItem
  repeat' first
    | with_reducible exact h
    | exact mask_trans (by decide) hw
    | with_reducible apply forwardCtl_keeps
    | with_reducible apply planActs_keeps
    | with_reducible apply Keeps.ite

/-- `onGraftItem` may change: regs, mcd, queues, portUp, portDn, merging, vectors, messages, fences, freeIdx. -/
theorem onGraftItem_keeps (x0 : Block) (x1 : Item) {w : Nat} {s0 s : State} (hw : 73702009470977 &&& w = 73702009470977) (h : Keeps w s0 s) :
    Keeps w s0 (onGraftItem x0 x1 s) := by
  unfold onGraftItem
  repeat' first
    | with_reducible exact h
    | (extract_lets +onlyGivenNames a; (have y : FclSt := a; clear y); dsimp -zeta only [a]; clear a)
    | (extract_lets +onlyGivenNames a; clear_value a)
    | exact mask_trans (by decide) hw
    | with_reducible apply forwardCtl_keeps
    | with_reducible apply Keeps.ite
    | fail_if_no_progress (with_reducible refine Keeps.set_fcl_fences ?_ (mask_trans (by decide) hw) _ (by first | ((with_reducible repeat' constructor); done) | (split <;> repeat' constructor)))

/-- `onMarkItem` may change: regs, mcd, queues, portUp, portDn, merging, vectors, messages, freeIdx. -/
theorem onMarkItem_keeps (x0 : Block) (x1 : Item) {w : Nat} {s0 s : State} (hw : 71502986215425 &&& w = 71502986215425) (h : Keeps w s0 s) :
    Keeps w s0 (onMarkItem x0 x1 s) := by
  unfold onMarkItem
  repeat' first
    | with_reducible exact h
    | with_reducible assumption
    | with_reducible apply forwardCtl_keeps
    | with_reducible apply Keeps.ite

/-- `onGrantItem` may change: regs, tinJobs, mcd, queues, portUp, portDn, merging, vectors, messages, freeIdx. -/
theorem onGrantItem_keeps (x0 : Block) (x1 : Item) {w : Nat} {s0 s : State} (hw : 71502986280961 &&& w = 71502986280961) (h : Keeps w s0 s) :
    Keeps w s0 (onGrantItem x0 x1 s) := by
  unfold onGrantItem
  repeat' first
    | with_reducible exact h
    | with_reducible assumption
    | (extract_lets +onlyGivenNames a; with_reducible refine Keeps.cut (w := w) (s := s0) a ?_ (fun ha => ?_); (on_goal 2 => clear_value a); (on_goal 1 => (dsimp -zeta only [a]; clear a)))
    | (extract_lets +onlyGivenNames a; (have y : TinSt := a; clear y); dsimp -zeta only [a]; clear a)
    | exact mask_trans (by decide) hw
    | with_reducible apply forwardCtl_keeps
    | with_reducible apply Keeps.ite
    | split
    | fail_if_no_progress (with_reducible refine Keeps.set_tin_tinJobs ?_ (mask_trans (by decide) hw) _ (by first | ((with_reducible repeat' constructor); done) | (split <;> repeat' constructor)))

/-- `onCalItem` may change: regs, mcd, queues, portUp, portDn, merging, vectors, messages, freeIdx. -/
theorem onCalItem_keeps (x0 : Block) (x1 : Item) {w : Nat} {s0 s : State} (hw : 71502986215425 &&& w = 71502986215425) (h : Keeps w s0 s) :
    Keeps w s0 (onCalItem x0 x1 s) := by
  unfold onCalItem
  repeat' first
    | with_reducible exact h
    | with_reducible assumption
    | with_reducible apply forwardCtl_keeps
    | with_reducible apply Keeps.ite

end Sys2Proof.Machine
end

