-- ==== Sys2Proof/Laws/KeepMailbox.lean ====
section
/-! SUPPORT. What each operation of Machine/Mailbox.lean may change: one lemma per operation, by the bits of the parts
of State (Sys2Proof.Machine.Part.bit). -/

namespace Sys2Proof.Machine

/-- `beginBackground` may change: rings, background. -/
theorem beginBackground_keeps (x0 : Origin) (x1 : Background) {w : Nat} {s0 s : State} (hw : 343597383680 &&& w = 343597383680) (h : Keeps w s0 s) :
    Keeps w s0 (beginBackground x0 x1 s) := by
  unfold beginBackground
  repeat' first
    | with_reducible exact h
    | (extract_lets +onlyGivenNames a; (have y : HifSt := a; clear y); dsimp -zeta only [a]; clear a)
    | fail_if_no_progress (with_reducible refine Keeps.set_hif_rings_background ?_ (mask_trans (by decide) hw) _ (by first | ((with_reducible repeat' constructor); done) | (split <;> repeat' constructor)))

/-- `runInBack` may change: regs, vectors, rings, mailbox, background. -/
theorem runInBack_keeps (x0 : Origin) (x1 : Option Status) (x2 : Background) {w : Nat} {s0 s : State} (hw : 515396075521 &&& w = 515396075521) (h : Keeps w s0 s) :
    Keeps w s0 (runInBack x0 x1 x2 s) := by
  unfold runInBack
  repeat' first
    | with_reducible exact h
    | exact mask_trans (by decide) hw
    | with_reducible apply beginBackground_keeps
    | with_reducible apply finish_keeps
    | with_reducible apply Keeps.ite
    | split

/-- `imgWrite` may change: regs, vectors, rings, mailbox, background. -/
theorem imgWrite_keeps (x0 : Origin) (x1 : ℕ) (x2 : ℕ) {w : Nat} {s0 s : State} (hw : 515396075521 &&& w = 515396075521) (h : Keeps w s0 s) :
    Keeps w s0 (imgWrite x0 x1 x2 s) := by
  unfold imgWrite
  repeat' first
    | with_reducible exact h
    | with_reducible assumption
    | with_reducible apply runInBack_keeps

/-- `hostCommand` may change: regs, tb, vectors, mailbox. -/
theorem hostCommand_keeps (x0 : Entry) (x1 : ℕ) (x2 : Origin → State → State) {w : Nat} {s0 s : State} (hw : 171798691905 &&& w = 171798691905) (h : Keeps w s0 s) (hf : ∀ y0 y1, Keeps w s0 y1 → Keeps w s0 (x2 y0 y1)) :
    Keeps w s0 (hostCommand x0 x1 x2 s) := by
  unfold hostCommand
  repeat' first
    | with_reducible exact h
    | with_reducible assumption
    | (extract_lets +onlyGivenNames a; with_reducible refine Keeps.cut (w := w) (s := s0) a.1 ?_ (fun ha => ?_); (on_goal 2 => clear_value a); (on_goal 1 => (dsimp -zeta only [a]; clear a)))
    | exact mask_trans (by decide) hw
    | with_reducible apply finish_keeps
    | with_reducible apply takeEntry_keeps
    | with_reducible apply hf
    | with_reducible apply Keeps.ite

/-- `relayOrder` may change: regs, queues, portUp, portDn, vectors, messages, freeIdx. -/
theorem relayOrder_keeps (x0 : Entry) (x1 : ℕ) (x2 : List Byte) (x3 : ℕ) (x4 : Origin) {w : Nat} {s0 s : State} (hw : 71502717255681 &&& w = 71502717255681) (h : Keeps w s0 s) :
    Keeps w s0 (relayOrder x0 x1 x2 x3 x4 s) := by
  unfold relayOrder
  repeat' first
    | with_reducible exact h
    | with_reducible assumption
    | with_reducible apply sendMsg_keeps
    | with_reducible apply Keeps.ite

/-- `orderWaits` may change: mailbox. -/
theorem orderWaits_keeps (x0 : Origin) (x1 : OrderArgs) (x2 : ℕ) (x3 : ℕ) (x4 : Tick) {w : Nat} {s0 s : State} (hw : 137438953472 &&& w = 137438953472) (h : Keeps w s0 s) :
    Keeps w s0 (orderWaits x0 x1 x2 x3 x4 s) := by
  unfold orderWaits
  repeat' first
    | with_reducible exact h
    | (extract_lets +onlyGivenNames a; (have y : HifSt := a; clear y); dsimp -zeta only [a]; clear a)
    | (extract_lets +onlyGivenNames a; clear_value a)
    | fail_if_no_progress (with_reducible refine Keeps.set_hif_mailbox ?_ (mask_trans (by decide) hw) _ (by first | ((with_reducible repeat' constructor); done) | (split <;> repeat' constructor)))

/-- `orderAt` may change: regs, vectors, mailbox. -/
theorem orderAt_keeps (x0 : Origin) (x1 : OrderArgs) (x2 : Option ℕ) (x3 : ℕ) (x4 : Tick) (x5 : State → State) {w : Nat} {s0 s : State} (hw : 171798691841 &&& w = 171798691841) (h : Keeps w s0 s) (hf : ∀ y0, Keeps w s0 y0 → Keeps w s0 (x5 y0)) :
    Keeps w s0 (orderAt x0 x1 x2 x3 x4 x5 s) := by
  unfold orderAt
  repeat' first
    | with_reducible exact h
    | with_reducible assumption
    | exact mask_trans (by decide) hw
    | with_reducible apply finish_keeps
    | with_reducible apply orderWaits_keeps
    | with_reducible apply hf
    | split

/-- `flushOrder` may change: regs, mailboxItems, vectors, mailbox. -/
theorem flushOrder_keeps (x0 : Origin) (x1 : OrderArgs) (x2 : Option ℕ) (x3 : ℕ) (x4 : Tick) {w : Nat} {s0 s : State} (hw : 171800788993 &&& w = 171800788993) (h : Keeps w s0 s) :
    Keeps w s0 (flushOrder x0 x1 x2 x3 x4 s) := by
  unfold flushOrder
  repeat' first
    | with_reducible exact h
    | with_reducible assumption
    | exact mask_trans (by decide) hw
    | with_reducible apply finish_keeps
    | with_reducible apply orderAt_keeps
    | with_reducible apply x8Post_keeps
    | intro y
    | with_reducible apply Keeps.ite

/-- `planOrder` may change: regs, esq, queues, mailboxItems, portUp, portDn, vectors, mailbox, messages, freeIdx. -/
theorem planOrder_keeps (x0 : Origin) (x1 : ℕ) (x2 : ℕ) (x3 : Option ℕ) (x4 : ℕ) (x5 : Tick) {w : Nat} {s0 s : State} (hw : 71640158307329 &&& w = 71640158307329) (h : Keeps w s0 s) :
    Keeps w s0 (planOrder x0 x1 x2 x3 x4 x5 s) := by
  unfold planOrder
  repeat' first
    | with_reducible exact h
    | (extract_lets +onlyGivenNames a; clear_value a)
    | exact mask_trans (by decide) hw
    | with_reducible apply finish_keeps
    | with_reducible apply swapTake_keeps
    | with_reducible apply x8Post_keeps
    | with_reducible apply Keeps.ite
    | split
    | fail_if_no_progress (with_reducible refine Keeps.set_esq ?_ (mask_trans (by decide) hw) _)

/-- `triggerOrder` may change: regs, tae, vectors, mailbox, messages. -/
theorem triggerOrder_keeps (x0 : Origin) (x1 : OrderArgs) (x2 : Option ℕ) (x3 : ℕ) (x4 : Tick) {w : Nat} {s0 s : State} (hw : 1271310336001 &&& w = 1271310336001) (h : Keeps w s0 s) :
    Keeps w s0 (triggerOrder x0 x1 x2 x3 x4 s) := by
  unfold triggerOrder
  repeat' first
    | with_reducible exact h
    | with_reducible assumption
    | exact mask_trans (by decide) hw
    | with_reducible apply capName_keeps
    | with_reducible apply finish_keeps
    | with_reducible apply orderWaits_keeps
    | split

/-- `runOrder` may change: regs, firstItem, tdc, pfe, esq, fib, tae, mcd, queues, mailboxItems, lostMarks, portUp, portDn, merging, vectors, mailbox, messages, fences, grafting, faultState, freeIdx. -/
theorem runOrder_keeps (x0 : Origin) (x1 : OrderArgs) (x2 : Option ℕ) (x3 : ℕ) (x4 : Tick) {w : Nat} {s0 s : State} (hw : 117819919849093 &&& w = 117819919849093) (h : Keeps w s0 s) :
    Keeps w s0 (runOrder x0 x1 x2 x3 x4 s) := by
  unfold runOrder
  repeat' first
    | with_reducible exact h
    | exact mask_trans (by decide) hw
    | with_reducible apply capOrder_keeps
    | with_reducible apply faultClear_keeps
    | with_reducible apply finish_keeps
    | with_reducible apply flushOrder_keeps
    | with_reducible apply graftBegin_keeps
    | with_reducible apply orderAt_keeps
    | with_reducible apply planOrder_keeps
    | with_reducible apply triggerOrder_keeps
    | intro y
    | with_reducible apply Keeps.ite

/-- `hostOrder` may change: regs, firstItem, tb, tdc, pfe, esq, fib, tae, mcd, queues, mailboxItems, lostMarks, portUp, portDn, merging, vectors, mailbox, messages, fences, grafting, faultState, freeIdx. -/
theorem hostOrder_keeps (x0 : Entry) (x1 : OrderArgs) (x2 : List Byte) {w : Nat} {s0 s : State} (hw : 117819919849157 &&& w = 117819919849157) (h : Keeps w s0 s) :
    Keeps w s0 (hostOrder x0 x1 x2 s) := by
  unfold hostOrder
  refine hostCommand_keeps _ _ _ (mask_trans (by decide) hw) h ?_
  intro o t ht
  dsimp only
  split
  · exact runOrder_keeps _ _ _ _ _ (mask_trans (by decide) hw) ht
  · exact relayOrder_keeps _ _ _ _ _ (mask_trans (by decide) hw) (runOrder_keeps _ _ _ _ _ (mask_trans (by decide) hw) ht)

/-- `onCaptureTrigger` may change: regs, firstItem, tb, tdc, pfe, esq, fib, tae, mcd, queues, mailboxItems, lostMarks, portUp, portDn, merging, vectors, mailbox, messages, fences, grafting, faultState, freeIdx. -/
theorem onCaptureTrigger_keeps (x0 : Entry) (x1 : Byte) {w : Nat} {s0 s : State} (hw : 117819919849157 &&& w = 117819919849157) (h : Keeps w s0 s) :
    Keeps w s0 (onCaptureTrigger x0 x1 s) := by
  unfold onCaptureTrigger
  repeat' first
    | with_reducible exact h
    | with_reducible assumption
    | with_reducible apply hostOrder_keeps

/-- `onCaptureAbort` may change: regs, firstItem, tb, tdc, pfe, esq, fib, tae, mcd, queues, mailboxItems, lostMarks, portUp, portDn, merging, vectors, mailbox, messages, fences, grafting, faultState, freeIdx. -/
theorem onCaptureAbort_keeps (x0 : Entry) (x1 : Byte) {w : Nat} {s0 s : State} (hw : 117819919849157 &&& w = 117819919849157) (h : Keeps w s0 s) :
    Keeps w s0 (onCaptureAbort x0 x1 s) := by
  unfold onCaptureAbort
  repeat' first
    | with_reducible exact h
    | with_reducible assumption
    | with_reducible apply hostOrder_keeps

/-- `hostManage` may change: regs, tb, queues, portUp, portDn, vectors, mailbox, messages, freeIdx. -/
theorem hostManage_keeps (x0 : Entry) (x1 : ℕ) (x2 : List Byte) (x3 : Origin → State → State) {w : Nat} {s0 s : State} (hw : 71640156209217 &&& w = 71640156209217) (h : Keeps w s0 s) (hf : ∀ y0 y1, Keeps w s0 y1 → Keeps w s0 (x3 y0 y1)) :
    Keeps w s0 (hostManage x0 x1 x2 x3 s) := by
  unfold hostManage
  repeat' first
    | with_reducible exact h
    | with_reducible assumption
    | exact mask_trans (by decide) hw
    | with_reducible apply hostCommand_keeps
    | with_reducible apply relayOrder_keeps
    | intro y
    | with_reducible apply hf

/-- `keyProgram` may change: regs, vectors, rings, mailbox, background. -/
theorem keyProgram_keeps (x0 : Origin) (x1 : ℕ) (x2 : ℕ) (x3 : List Byte) {w : Nat} {s0 s : State} (hw : 515396075521 &&& w = 515396075521) (h : Keeps w s0 s) :
    Keeps w s0 (keyProgram x0 x1 x2 x3 s) := by
  unfold keyProgram
  repeat' first
    | with_reducible exact h
    | with_reducible assumption
    | with_reducible apply runInBack_keeps

/-- `onSecKeyProgram` may change: regs, tb, queues, portUp, portDn, vectors, rings, mailbox, background, messages, freeIdx. -/
theorem onSecKeyProgram_keeps (x0 : Entry) (x1 : Byte) (x2 : Byte) (x3 : List Byte) {w : Nat} {s0 s : State} (hw : 71983753592897 &&& w = 71983753592897) (h : Keeps w s0 s) :
    Keeps w s0 (onSecKeyProgram x0 x1 x2 x3 s) := by
  unfold onSecKeyProgram
  repeat' first
    | with_reducible exact h
    | exact mask_trans (by decide) hw
    | with_reducible apply hostManage_keeps
    | with_reducible apply keyProgram_keeps
    | intro y

/-- `orderLate` may change: regs, queues, portUp, portDn, vectors, mailbox, messages, freeIdx. -/
theorem orderLate_keeps (x0 : ℕ) {w : Nat} {s0 s : State} (hw : 71640156209153 &&& w = 71640156209153) (h : Keeps w s0 s) :
    Keeps w s0 (orderLate x0 s) := by
  unfold orderLate
  repeat' first
    | with_reducible exact h
    | exact mask_trans (by decide) hw
    | with_reducible apply fault_keeps
    | with_reducible apply finish_keeps
    | with_reducible apply toMaster_keeps

/-- `masterOrder` may change: regs, firstItem, tdc, pfe, esq, fib, tae, mcd, queues, mailboxItems, lostMarks, portUp, portDn, merging, vectors, mailbox, messages, fences, grafting, faultState, freeIdx. -/
theorem masterOrder_keeps (x0 : OrderArgs) (x1 : ℕ) (x2 : Tick) {w : Nat} {s0 s : State} (hw : 117819919849093 &&& w = 117819919849093) (h : Keeps w s0 s) :
    Keeps w s0 (masterOrder x0 x1 x2 s) := by
  unfold masterOrder
  repeat' first
    | with_reducible exact h
    | with_reducible assumption
    | (extract_lets +onlyGivenNames a; clear_value a)
    | exact mask_trans (by decide) hw
    | with_reducible apply finish_keeps
    | with_reducible apply orderLate_keeps
    | with_reducible apply runOrder_keeps
    | with_reducible apply Keeps.ite
    | split

/-- `bootDirWrite` may change: regs, vectors, rings, mailbox, background. -/
theorem bootDirWrite_keeps (x0 : Origin) (x1 : List Byte) {w : Nat} {s0 s : State} (hw : 515396075521 &&& w = 515396075521) (h : Keeps w s0 s) :
    Keeps w s0 (bootDirWrite x0 x1 s) := by
  unfold bootDirWrite
  repeat' first
    | with_reducible exact h
    | with_reducible assumption
    | with_reducible apply runInBack_keeps

/-- `sessionTouch` may change: commissioning. -/
theorem sessionTouch_keeps  {w : Nat} {s0 s : State} (hw : 1073741824 &&& w = 1073741824) (h : Keeps w s0 s) :
    Keeps w s0 (sessionTouch s) := by
  unfold sessionTouch
  repeat' first
    | with_reducible exact h
    | (extract_lets +onlyGivenNames a; (have y : CloSt := a; clear y); dsimp -zeta only [a]; clear a)
    | with_reducible apply Keeps.ite
    | fail_if_no_progress (with_reducible refine Keeps.set_clo_commissioning ?_ (mask_trans (by decide) hw) _ (by first | ((with_reducible repeat' constructor); done) | (split <;> repeat' constructor)))

/-- `cloCommit` may change: regs, commissioning, vectors, rings, mailbox, background. -/
theorem cloCommit_keeps (x0 : Origin) (x1 : ℕ) (x2 : Bool) (x3 : ℕ) (x4 : List Byte) {w : Nat} {s0 s : State} (hw : 516469817345 &&& w = 516469817345) (h : Keeps w s0 s) :
    Keeps w s0 (cloCommit x0 x1 x2 x3 x4 s) := by
  unfold cloCommit
  repeat' first
    | with_reducible exact h
    | exact mask_trans (by decide) hw
    | with_reducible apply runInBack_keeps
    | with_reducible apply sessionTouch_keeps

/-- `cloLogin` may change: regs, nvm, commissioning, vectors, mailbox. -/
theorem cloLogin_keeps (x0 : Origin) (x1 : ℕ) (x2 : List Byte) {w : Nat} {s0 s : State} (hw : 172872433697 &&& w = 172872433697) (h : Keeps w s0 s) :
    Keeps w s0 (cloLogin x0 x1 x2 s) := by
  unfold cloLogin
  repeat' first
    | with_reducible exact h
    | with_reducible assumption
    | (extract_lets +onlyGivenNames a; with_reducible refine Keeps.cut (w := w) (s := s0) a ?_ (fun ha => ?_); (on_goal 2 => clear_value a); (on_goal 1 => (dsimp -zeta only [a]; clear a)))
    | (extract_lets +onlyGivenNames a; (have y : CloSt := a; clear y); dsimp -zeta only [a]; clear a)
    | (extract_lets +onlyGivenNames a; clear_value a)
    | exact mask_trans (by decide) hw
    | with_reducible apply finish_keeps
    | with_reducible apply journalLock_keeps
    | with_reducible apply raise_keeps
    | with_reducible apply Keeps.ite
    | split
    | fail_if_no_progress (with_reducible refine Keeps.set_clo_commissioning ?_ (mask_trans (by decide) hw) _ (by first | ((with_reducible repeat' constructor); done) | (split <;> repeat' constructor)))

/-- `cloLogout` may change: regs, commissioning, vectors, mailbox. -/
theorem cloLogout_keeps (x0 : Origin) {w : Nat} {s0 s : State} (hw : 172872433665 &&& w = 172872433665) (h : Keeps w s0 s) :
    Keeps w s0 (cloLogout x0 s) := by
  unfold cloLogout
  repeat' first
    | with_reducible exact h
    | (extract_lets +onlyGivenNames a; (have y : CloSt := a; clear y); dsimp -zeta only [a]; clear a)
    | exact mask_trans (by decide) hw
    | with_reducible apply finish_keeps
    | with_reducible apply raise_keeps
    | with_reducible apply Keeps.ite
    | fail_if_no_progress (with_reducible refine Keeps.set_clo_commissioning ?_ (mask_trans (by decide) hw) _ (by first | ((with_reducible repeat' constructor); done) | (split <;> repeat' constructor)))

/-- `cloStage` may change: regs, commissioning, vectors, rings, mailbox, background. -/
theorem cloStage_keeps (x0 : Origin) (x1 : ℕ) (x2 : ℕ) {w : Nat} {s0 s : State} (hw : 516469817345 &&& w = 516469817345) (h : Keeps w s0 s) :
    Keeps w s0 (cloStage x0 x1 x2 s) := by
  unfold cloStage
  repeat' first
    | with_reducible exact h
    | exact mask_trans (by decide) hw
    | with_reducible apply runInBack_keeps
    | with_reducible apply sessionTouch_keeps

/-- `recoverGo` may change: regs, vectors, rings, mailbox, background. -/
theorem recoverGo_keeps (x0 : Origin) (x1 : ℕ) {w : Nat} {s0 s : State} (hw : 515396075521 &&& w = 515396075521) (h : Keeps w s0 s) :
    Keeps w s0 (recoverGo x0 x1 s) := by
  unfold recoverGo
  repeat' first
    | with_reducible exact h
    | with_reducible assumption
    | with_reducible apply runInBack_keeps

/-- `revoke` may change: regs, vectors, rings, mailbox, background. -/
theorem revoke_keeps (x0 : Origin) (x1 : ℕ) (x2 : ℕ) {w : Nat} {s0 s : State} (hw : 515396075521 &&& w = 515396075521) (h : Keeps w s0 s) :
    Keeps w s0 (revoke x0 x1 x2 s) := by
  unfold revoke
  repeat' first
    | with_reducible exact h
    | with_reducible assumption
    | with_reducible apply runInBack_keeps

/-- `secConfirm` may change: regs, sec, vectors, mailbox. -/
theorem secConfirm_keeps (x0 : Origin) {w : Nat} {s0 s : State} (hw : 171798691857 &&& w = 171798691857) (h : Keeps w s0 s) :
    Keeps w s0 (secConfirm x0 s) := by
  unfold secConfirm
  repeat' first
    | with_reducible exact h
    | (extract_lets +onlyGivenNames a; clear_value a)
    | exact mask_trans (by decide) hw
    | with_reducible apply finish_keeps
    | with_reducible apply raise_keeps
    | with_reducible apply stick_keeps
    | with_reducible apply Keeps.ite
    | fail_if_no_progress (with_reducible refine Keeps.set_sec ?_ (mask_trans (by decide) hw) _)

/-- `runManage` may change: regs, sec, nvm, commissioning, vectors, rings, mailbox, background. -/
theorem runManage_keeps (x0 : ℕ) (x1 : List Byte) {w : Nat} {s0 s : State} (hw : 516469817393 &&& w = 516469817393) (h : Keeps w s0 s) :
    Keeps w s0 (runManage x0 x1 s) := by
  unfold runManage
  repeat' first
    | with_reducible exact h
    | (extract_lets +onlyGivenNames a; clear_value a)
    | exact mask_trans (by decide) hw
    | with_reducible apply bootDirWrite_keeps
    | with_reducible apply cloCommit_keeps
    | with_reducible apply cloLogin_keeps
    | with_reducible apply cloLogout_keeps
    | with_reducible apply cloStage_keeps
    | with_reducible apply finish_keeps
    | with_reducible apply imgWrite_keeps
    | with_reducible apply keyProgram_keeps
    | with_reducible apply recoverGo_keeps
    | with_reducible apply revoke_keeps
    | with_reducible apply secConfirm_keeps
    | split

/-- `onOrder` may change: regs, firstItem, sec, nvm, tb, tdc, pfe, esq, fib, tae, mcd, queues, mailboxItems, lostMarks, portUp, portDn, merging, commissioning, vectors, rings, mailbox, background, messages, fences, grafting, faultState, freeIdx. -/
theorem onOrder_keeps (x0 : BitVec 16) (x1 : List Byte) (x2 : BitVec 24) (x3 : Tick) {w : Nat} {s0 s : State} (hw : 118164590974709 &&& w = 118164590974709) (h : Keeps w s0 s) :
    Keeps w s0 (onOrder x0 x1 x2 x3 s) := by
  unfold onOrder
  repeat' first
    | with_reducible exact h
    | with_reducible assumption
    | (extract_lets +onlyGivenNames a; with_reducible refine Keeps.cut (w := w) (s := s0) a ?_ (fun ha => ?_); (on_goal 2 => clear_value a); (on_goal 1 => (dsimp -zeta only [a]; clear a)))
    | (extract_lets +onlyGivenNames a; (have y : HifSt := a; clear y); dsimp -zeta only [a]; clear a)
    | exact mask_trans (by decide) hw
    | with_reducible apply advance_keeps
    | with_reducible apply masterOrder_keeps
    | with_reducible apply received_keeps
    | with_reducible apply runManage_keeps
    | with_reducible apply sendMsg_keeps
    | with_reducible apply Keeps.ite
    | fail_if_no_progress (with_reducible refine Keeps.set_hif_mailbox ?_ (mask_trans (by decide) hw) _ (by first | ((with_reducible repeat' constructor); done) | (split <;> repeat' constructor)))

/-- `onNop` may change: regs, firstItem, tb, tdc, pfe, esq, fib, tae, mcd, queues, mailboxItems, lostMarks, portUp, portDn, merging, vectors, mailbox, messages, fences, grafting, faultState, freeIdx. -/
theorem onNop_keeps (x0 : Entry) {w : Nat} {s0 s : State} (hw : 117819919849157 &&& w = 117819919849157) (h : Keeps w s0 s) :
    Keeps w s0 (onNop x0 s) := by
  unfold onNop
  repeat' first
    | with_reducible exact h
    | with_reducible assumption
    | with_reducible apply hostOrder_keeps

/-- `dirDone` may change: regs, nvm, vectors, mailbox, freeIdx. -/
theorem dirDone_keeps (x0 : Origin) (x1 : List Byte) (x2 : Bool) {w : Nat} {s0 s : State} (hw : 70540542869537 &&& w = 70540542869537) (h : Keeps w s0 s) :
    Keeps w s0 (dirDone x0 x1 x2 s) := by
  unfold dirDone
  repeat' first
    | with_reducible exact h
    | (extract_lets +onlyGivenNames a; clear_value a)
    | exact mask_trans (by decide) hw
    | with_reducible apply finish_keeps
    | with_reducible apply useFree_keeps
    | with_reducible apply Keeps.ite
    | split
    | fail_if_no_progress (with_reducible refine Keeps.set_nvm ?_ (mask_trans (by decide) hw) _)

/-- `onCloCommit` may change: regs, tb, queues, portUp, portDn, commissioning, vectors, rings, mailbox, background, messages, freeIdx. -/
theorem onCloCommit_keeps (x0 : Entry) (x1 : Word64) (x2 : Bool) (x3 : Byte) (x4 : List Byte) {w : Nat} {s0 s : State} (hw : 71984827334721 &&& w = 71984827334721) (h : Keeps w s0 s) :
    Keeps w s0 (onCloCommit x0 x1 x2 x3 x4 s) := by
  unfold onCloCommit
  repeat' first
    | with_reducible exact h
    | exact mask_trans (by decide) hw
    | with_reducible apply cloCommit_keeps
    | with_reducible apply hostManage_keeps
    | intro y

/-- `onCloStage` may change: regs, tb, queues, portUp, portDn, commissioning, vectors, rings, mailbox, background, messages, freeIdx. -/
theorem onCloStage_keeps (x0 : Entry) (x1 : Byte) (x2 : ℕ) {w : Nat} {s0 s : State} (hw : 71984827334721 &&& w = 71984827334721) (h : Keeps w s0 s) :
    Keeps w s0 (onCloStage x0 x1 x2 s) := by
  unfold onCloStage
  repeat' first
    | with_reducible exact h
    | exact mask_trans (by decide) hw
    | with_reducible apply cloStage_keeps
    | with_reducible apply hostManage_keeps
    | intro y

/-- `imgWriteDone` may change: regs, nvm, vectors, mailbox, messages. -/
theorem imgWriteDone_keeps (x0 : Origin) (x1 : Bool) (x2 : List Byte) (x3 : Bool) {w : Nat} {s0 s : State} (hw : 1271310319649 &&& w = 1271310319649) (h : Keeps w s0 s) :
    Keeps w s0 (imgWriteDone x0 x1 x2 x3 s) := by
  unfold imgWriteDone
  repeat' first
    | with_reducible exact h
    | with_reducible assumption
    | (extract_lets +onlyGivenNames a; with_reducible refine Keeps.cut (w := w) (s := s0) a ?_ (fun ha => ?_); (on_goal 2 => clear_value a); (on_goal 1 => (dsimp -zeta only [a]; clear a)))
    | (extract_lets +onlyGivenNames a; clear_value a)
    | exact mask_trans (by decide) hw
    | with_reducible apply finish_keeps
    | with_reducible apply raise_keeps
    | with_reducible apply slotErased_keeps
    | with_reducible apply updateFails_keeps
    | with_reducible apply Keeps.ite
    | fail_if_no_progress (with_reducible refine Keeps.set_nvm ?_ (mask_trans (by decide) hw) _)

/-- `onSecRevoke` may change: regs, tb, queues, portUp, portDn, vectors, rings, mailbox, background, messages, freeIdx. -/
theorem onSecRevoke_keeps (x0 : Entry) (x1 : Byte) (x2 : Byte) {w : Nat} {s0 s : State} (hw : 71983753592897 &&& w = 71983753592897) (h : Keeps w s0 s) :
    Keeps w s0 (onSecRevoke x0 x1 x2 s) := by
  unfold onSecRevoke
  repeat' first
    | with_reducible exact h
    | exact mask_trans (by decide) hw
    | with_reducible apply hostManage_keeps
    | with_reducible apply revoke_keeps
    | intro y

/-- `onPlanSelect` may change: regs, firstItem, tb, tdc, pfe, esq, fib, tae, mcd, queues, mailboxItems, lostMarks, portUp, portDn, merging, vectors, mailbox, messages, fences, grafting, faultState, freeIdx. -/
theorem onPlanSelect_keeps (x0 : Entry) (x1 : Byte) (x2 : Byte) {w : Nat} {s0 s : State} (hw : 117819919849157 &&& w = 117819919849157) (h : Keeps w s0 s) :
    Keeps w s0 (onPlanSelect x0 x1 x2 s) := by
  unfold onPlanSelect
  repeat' first
    | with_reducible exact h
    | with_reducible assumption
    | with_reducible apply hostOrder_keeps

/-- `onFlush` may change: regs, firstItem, tb, tdc, pfe, esq, fib, tae, mcd, queues, mailboxItems, lostMarks, portUp, portDn, merging, vectors, mailbox, messages, fences, grafting, faultState, freeIdx. -/
theorem onFlush_keeps (x0 : Entry) (x1 : Byte) (x2 : Byte) {w : Nat} {s0 s : State} (hw : 117819919849157 &&& w = 117819919849157) (h : Keeps w s0 s) :
    Keeps w s0 (onFlush x0 x1 x2 s) := by
  unfold onFlush
  repeat' first
    | with_reducible exact h
    | with_reducible assumption
    | with_reducible apply hostOrder_keeps

/-- `writeCopy` may change: nvm. -/
theorem writeCopy_keeps (x0 : List Byte) {w : Nat} {s0 s : State} (hw : 32 &&& w = 32) (h : Keeps w s0 s) :
    Keeps w s0 (writeCopy x0 s) := by
  unfold writeCopy
  repeat' first
    | with_reducible exact h
    | (extract_lets +onlyGivenNames a; clear_value a)
    | split
    | fail_if_no_progress (with_reducible refine Keeps.set_nvm ?_ (mask_trans (by decide) hw) _)

/-- `onSecConfirm` may change: regs, sec, tb, queues, portUp, portDn, vectors, mailbox, messages, freeIdx. -/
theorem onSecConfirm_keeps (x0 : Entry) {w : Nat} {s0 s : State} (hw : 71640156209233 &&& w = 71640156209233) (h : Keeps w s0 s) :
    Keeps w s0 (onSecConfirm x0 s) := by
  unfold onSecConfirm
  repeat' first
    | with_reducible exact h
    | exact mask_trans (by decide) hw
    | with_reducible apply hostManage_keeps
    | with_reducible apply secConfirm_keeps
    | intro y

/-- `commitDone` may change: regs, nvm, vectors, mailbox. -/
theorem commitDone_keeps (x0 : Origin) (x1 : ℕ) (x2 : Bool) (x3 : List Byte) (x4 : Bool) {w : Nat} {s0 s : State} (hw : 171798691873 &&& w = 171798691873) (h : Keeps w s0 s) :
    Keeps w s0 (commitDone x0 x1 x2 x3 x4 s) := by
  unfold commitDone
  repeat' first
    | with_reducible exact h
    | with_reducible assumption
    | (extract_lets +onlyGivenNames a; with_reducible refine Keeps.cut (w := w) (s := s0) a ?_ (fun ha => ?_); (on_goal 2 => clear_value a); (on_goal 1 => (dsimp -zeta only [a]; clear a)))
    | (extract_lets +onlyGivenNames a; clear_value a)
    | exact mask_trans (by decide) hw
    | with_reducible apply finish_keeps
    | with_reducible apply raise_keeps
    | with_reducible apply writeCopy_keeps
    | with_reducible apply Keeps.ite
    | split
    | fail_if_no_progress (with_reducible refine Keeps.set_nvm ?_ (mask_trans (by decide) hw) _)

/-- `onRecoverGo` may change: regs, tb, queues, portUp, portDn, vectors, rings, mailbox, background, messages, freeIdx. -/
theorem onRecoverGo_keeps (x0 : Entry) (x1 : ℕ) {w : Nat} {s0 s : State} (hw : 71983753592897 &&& w = 71983753592897) (h : Keeps w s0 s) :
    Keeps w s0 (onRecoverGo x0 x1 s) := by
  unfold onRecoverGo
  repeat' first
    | with_reducible exact h
    | exact mask_trans (by decide) hw
    | with_reducible apply hostManage_keeps
    | with_reducible apply recoverGo_keeps
    | intro y

/-- `onImgWrite` may change: regs, tb, queues, portUp, portDn, vectors, rings, mailbox, background, messages, freeIdx. -/
theorem onImgWrite_keeps (x0 : Entry) (x1 : Byte) (x2 : ℕ) {w : Nat} {s0 s : State} (hw : 71983753592897 &&& w = 71983753592897) (h : Keeps w s0 s) :
    Keeps w s0 (onImgWrite x0 x1 x2 s) := by
  unfold onImgWrite
  repeat' first
    | with_reducible exact h
    | exact mask_trans (by decide) hw
    | with_reducible apply hostManage_keeps
    | with_reducible apply imgWrite_keeps
    | intro y

/-- `revokeDone` may change: regs, sec, vectors, mailbox. -/
theorem revokeDone_keeps (x0 : Origin) (x1 : Bool) (x2 : ℕ) (x3 : Bool) {w : Nat} {s0 s : State} (hw : 171798691857 &&& w = 171798691857) (h : Keeps w s0 s) :
    Keeps w s0 (revokeDone x0 x1 x2 x3 s) := by
  unfold revokeDone
  repeat' first
    | with_reducible exact h
    | (extract_lets +onlyGivenNames a; clear_value a)
    | exact mask_trans (by decide) hw
    | with_reducible apply finish_keeps
    | with_reducible apply raise_keeps
    | with_reducible apply stick_keeps
    | with_reducible apply Keeps.ite
    | fail_if_no_progress (with_reducible refine Keeps.set_sec ?_ (mask_trans (by decide) hw) _)

/-- `onCloLogin` may change: regs, nvm, tb, queues, portUp, portDn, commissioning, vectors, mailbox, messages, freeIdx. -/
theorem onCloLogin_keeps (x0 : Entry) (x1 : Byte) (x2 : List Byte) {w : Nat} {s0 s : State} (hw : 71641229951073 &&& w = 71641229951073) (h : Keeps w s0 s) :
    Keeps w s0 (onCloLogin x0 x1 x2 s) := by
  unfold onCloLogin
  repeat' first
    | with_reducible exact h
    | exact mask_trans (by decide) hw
    | with_reducible apply cloLogin_keeps
    | with_reducible apply hostManage_keeps
    | intro y

/-- `onGraft` may change: regs, firstItem, tb, tdc, pfe, esq, fib, tae, mcd, queues, mailboxItems, lostMarks, portUp, portDn, merging, vectors, mailbox, messages, fences, grafting, faultState, freeIdx. -/
theorem onGraft_keeps (x0 : Entry) (x1 : BitVec 16) {w : Nat} {s0 s : State} (hw : 117819919849157 &&& w = 117819919849157) (h : Keeps w s0 s) :
    Keeps w s0 (onGraft x0 x1 s) := by
  unfold onGraft
  repeat' first
    | with_reducible exact h
    | with_reducible assumption
    | with_reducible apply hostOrder_keeps

/-- `programDone` may change: regs, sec, vectors, mailbox. -/
theorem programDone_keeps (x0 : Origin) (x1 : Bool) (x2 : ℕ) (x3 : List Byte) (x4 : Bool) {w : Nat} {s0 s : State} (hw : 171798691857 &&& w = 171798691857) (h : Keeps w s0 s) :
    Keeps w s0 (programDone x0 x1 x2 x3 x4 s) := by
  unfold programDone
  repeat' first
    | with_reducible exact h
    | (extract_lets +onlyGivenNames a; clear_value a)
    | exact mask_trans (by decide) hw
    | with_reducible apply finish_keeps
    | with_reducible apply raise_keeps
    | with_reducible apply stick_keeps
    | with_reducible apply Keeps.ite
    | fail_if_no_progress (with_reducible refine Keeps.set_sec ?_ (mask_trans (by decide) hw) _)

/-- `recoverDone` may change: regs, cfg, boot, tb, pfe, tines, queues, mailboxItems, ala, portUp, portDn, lanes, vectors, mailbox, messages, fences, grafting, freeIdx. -/
theorem recoverDone_keeps (x0 : Origin) (x1 : List Byte) (x2 : Tick) {w : Nat} {s0 s : State} (hw : 82635417223755 &&& w = 82635417223755) (h : Keeps w s0 s) :
    Keeps w s0 (recoverDone x0 x1 x2 s) := by
  unfold recoverDone
  repeat' first
    | with_reducible exact h
    | (extract_lets +onlyGivenNames a; clear_value a)
    | exact mask_trans (by decide) hw
    | with_reducible apply commitImage_keeps
    | with_reducible apply finish_keeps
    | with_reducible apply raise_keeps
    | with_reducible apply recordFails_keeps
    | with_reducible apply slotFails_keeps
    | with_reducible apply Keeps.ite
    | split

/-- `jobDone` may change: regs, cfg, boot, sec, nvm, tb, pfe, tines, queues, mailboxItems, ala, portUp, portDn, lanes, commissioning, vectors, mailbox, messages, fences, grafting, freeIdx. -/
theorem jobDone_keeps (x0 : Origin) (x1 : Background) (x2 : List Byte) (x3 : Bool) (x4 : Tick) {w : Nat} {s0 s : State} (hw : 82636490965627 &&& w = 82636490965627) (h : Keeps w s0 s) :
    Keeps w s0 (jobDone x0 x1 x2 x3 x4 s) := by
  unfold jobDone
  repeat' first
    | with_reducible exact h
    | (extract_lets +onlyGivenNames a; (have y : CloSt := a; clear y); dsimp -zeta only [a]; clear a)
    | exact mask_trans (by decide) hw
    | with_reducible apply commitDone_keeps
    | with_reducible apply dirDone_keeps
    | with_reducible apply finish_keeps
    | with_reducible apply imgWriteDone_keeps
    | with_reducible apply programDone_keeps
    | with_reducible apply recoverDone_keeps
    | with_reducible apply revokeDone_keeps
    | split
    | fail_if_no_progress (with_reducible refine Keeps.set_clo_commissioning ?_ (mask_trans (by decide) hw) _ (by first | ((with_reducible repeat' constructor); done) | (split <;> repeat' constructor)))

/-- `onBackgroundCommandDone` may change: regs, cfg, boot, sec, nvm, tb, pfe, tines, queues, mailboxItems, ala, portUp, portDn, lanes, commissioning, vectors, rings, mailbox, background, messages, fences, grafting, freeIdx. -/
theorem onBackgroundCommandDone_keeps (x0 : Bool) (x1 : Bool) (x2 : Tick) {w : Nat} {s0 s : State} (hw : 82980088349307 &&& w = 82980088349307) (h : Keeps w s0 s) :
    Keeps w s0 (onBackgroundCommandDone x0 x1 x2 s) := by
  unfold onBackgroundCommandDone
  repeat' first
    | with_reducible exact h
    | with_reducible assumption
    | (extract_lets +onlyGivenNames a; with_reducible refine Keeps.cut (w := w) (s := s0) a ?_ (fun ha => ?_); (on_goal 2 => clear_value a); (on_goal 1 => (dsimp -zeta only [a]; clear a)))
    | (extract_lets +onlyGivenNames a; (have y : HifSt := a; clear y); dsimp -zeta only [a]; clear a)
    | (extract_lets +onlyGivenNames a; clear_value a)
    | exact mask_trans (by decide) hw
    | with_reducible apply advance_keeps
    | with_reducible apply dmaFails_keeps
    | with_reducible apply jobDone_keeps
    | with_reducible apply Keeps.ite
    | split
    | fail_if_no_progress (with_reducible refine Keeps.set_hif_rings_background ?_ (mask_trans (by decide) hw) _ (by first | ((with_reducible repeat' constructor); done) | (split <;> repeat' constructor)))

/-- `onCloLogout` may change: regs, tb, queues, portUp, portDn, commissioning, vectors, mailbox, messages, freeIdx. -/
theorem onCloLogout_keeps (x0 : Entry) {w : Nat} {s0 s : State} (hw : 71641229951041 &&& w = 71641229951041) (h : Keeps w s0 s) :
    Keeps w s0 (onCloLogout x0 s) := by
  unfold onCloLogout
  repeat' first
    | with_reducible exact h
    | exact mask_trans (by decide) hw
    | with_reducible apply cloLogout_keeps
    | with_reducible apply hostManage_keeps
    | intro y

/-- `onUnknownCommand` may change: regs, tb, vectors, mailbox. -/
theorem onUnknownCommand_keeps (x0 : Entry) (x1 : BitVec 16) {w : Nat} {s0 s : State} (hw : 171798691905 &&& w = 171798691905) (h : Keeps w s0 s) :
    Keeps w s0 (onUnknownCommand x0 x1 s) := by
  unfold onUnknownCommand
  repeat' first
    | with_reducible exact h
    | with_reducible assumption
    | (extract_lets +onlyGivenNames a; with_reducible refine Keeps.cut (w := w) (s := s0) a.1 ?_ (fun ha => ?_); (on_goal 2 => clear_value a); (on_goal 1 => (dsimp -zeta only [a]; clear a)))
    | exact mask_trans (by decide) hw
    | with_reducible apply finish_keeps
    | with_reducible apply takeEntry_keeps
    | with_reducible apply Keeps.ite

/-- `onFaultClear` may change: regs, firstItem, tb, tdc, pfe, esq, fib, tae, mcd, queues, mailboxItems, lostMarks, portUp, portDn, merging, vectors, mailbox, messages, fences, grafting, faultState, freeIdx. -/
theorem onFaultClear_keeps (x0 : Entry) (x1 : BitVec 16) {w : Nat} {s0 s : State} (hw : 117819919849157 &&& w = 117819919849157) (h : Keeps w s0 s) :
    Keeps w s0 (onFaultClear x0 x1 s) := by
  unfold onFaultClear
  repeat' first
    | with_reducible exact h
    | with_reducible assumption
    | with_reducible apply hostOrder_keeps

/-- `onCaptureRead` may change: regs, firstItem, tb, tdc, pfe, esq, fib, tae, mcd, queues, mailboxItems, lostMarks, portUp, portDn, merging, vectors, mailbox, messages, fences, grafting, faultState, freeIdx. -/
theorem onCaptureRead_keeps (x0 : Entry) (x1 : Byte) {w : Nat} {s0 s : State} (hw : 117819919849157 &&& w = 117819919849157) (h : Keeps w s0 s) :
    Keeps w s0 (onCaptureRead x0 x1 s) := by
  unfold onCaptureRead
  repeat' first
    | with_reducible exact h
    | with_reducible assumption
    | with_reducible apply hostOrder_keeps

/-- `onCaptureRearm` may change: regs, firstItem, tb, tdc, pfe, esq, fib, tae, mcd, queues, mailboxItems, lostMarks, portUp, portDn, merging, vectors, mailbox, messages, fences, grafting, faultState, freeIdx. -/
theorem onCaptureRearm_keeps (x0 : Entry) (x1 : Byte) {w : Nat} {s0 s : State} (hw : 117819919849157 &&& w = 117819919849157) (h : Keeps w s0 s) :
    Keeps w s0 (onCaptureRearm x0 x1 s) := by
  unfold onCaptureRearm
  repeat' first
    | with_reducible exact h
    | with_reducible assumption
    | with_reducible apply hostOrder_keeps

/-- `onCaptureRelease` may change: regs, firstItem, tb, tdc, pfe, esq, fib, tae, mcd, queues, mailboxItems, lostMarks, portUp, portDn, merging, vectors, mailbox, messages, fences, grafting, faultState, freeIdx. -/
theorem onCaptureRelease_keeps (x0 : Entry) (x1 : Byte) {w : Nat} {s0 s : State} (hw : 117819919849157 &&& w = 117819919849157) (h : Keeps w s0 s) :
    Keeps w s0 (onCaptureRelease x0 x1 s) := by
  unfold onCaptureRelease
  repeat' first
    | with_reducible exact h
    | with_reducible assumption
    | with_reducible apply hostOrder_keeps

/-- `onBootDirWrite` may change: regs, tb, queues, portUp, portDn, vectors, rings, mailbox, background, messages, freeIdx. -/
theorem onBootDirWrite_keeps (x0 : Entry) (x1 : List Byte) {w : Nat} {s0 s : State} (hw : 71983753592897 &&& w = 71983753592897) (h : Keeps w s0 s) :
    Keeps w s0 (onBootDirWrite x0 x1 s) := by
  unfold onBootDirWrite
  repeat' first
    | with_reducible exact h
    | exact mask_trans (by decide) hw
    | with_reducible apply bootDirWrite_keeps
    | with_reducible apply hostManage_keeps
    | intro y

end Sys2Proof.Machine
end

