-- ==== Sys2Proof/Laws/KeepStep.lean ====
section
/-! SUPPORT. What each operation of Machine/Step.lean may change: one lemma per operation, by the bits of the parts
of State (Sys2Proof.Machine.Part.bit). -/

namespace Sys2Proof.Machine

/-- `State.idle` may change: tb. -/
theorem State.idle_keeps  {w : Nat} {s0 s : State} (hw : 64 &&& w = 64) (h : Keeps w s0 s) :
    Keeps w s0 (State.idle s) := by
  unfold State.idle
  repeat' first
    | with_reducible exact h
    | (extract_lets +onlyGivenNames a; clear_value a)
    | with_reducible apply Keeps.ite
    | fail_if_no_progress (with_reducible refine Keeps.set_tb ?_ (mask_trans (by decide) hw) _)

/-- `State.withFetchWord` may change: pending. -/
theorem State.withFetchWord_keeps (x1 : ℕ) (x2 : ℕ) {w : Nat} {s0 s : State} (hw : 140737488355328 &&& w = 140737488355328) (h : Keeps w s0 s) :
    Keeps w s0 (State.withFetchWord s x1 x2) := by
  unfold State.withFetchWord
  repeat' first
    | with_reducible exact h
    | split
    | fail_if_no_progress (with_reducible refine Keeps.set_pending ?_ (mask_trans (by decide) hw) _)

end Sys2Proof.Machine
end

