-- ==== Sys2Proof/Laws/KeepTine.lean ====
section
/-! SUPPORT. What each operation of Machine/Tine.lean may change: one lemma per operation, by the bits of the parts
of State (Sys2Proof.Machine.Part.bit). -/

namespace Sys2Proof.Machine

/-- `tineTake` may change: regs, tines, tinJobs, mcd, queues, portUp, portDn, merging, x12, vectors, messages, freeIdx. -/
theorem tineTake_keeps (x0 : ℕ) (x1 : TineSt × TineNext) {w : Nat} {s0 s : State} (hw : 71507281281025 &&& w = 71507281281025) (h : Keeps w s0 s) :
    Keeps w s0 (tineTake x0 x1 s) := by
  unfold tineTake
  repeat' first
    | with_reducible exact h
    | with_reducible assumption
    | (extract_lets +onlyGivenNames a; clear_value a)
    | exact mask_trans (by decide) hw
    | with_reducible apply endJob_keeps
    | with_reducible apply setTine_keeps
    | split

/-- `tineInstr` may change: regs, tines, tinJobs, mcd, queues, portUp, portDn, merging, x12, vectors, messages, freeIdx. -/
theorem tineInstr_keeps (x0 : Instr) (x1 : TineHd) (x2 : TineSt → TineSt × TineNext) {w : Nat} {s0 s : State} (hw : 71507281281025 &&& w = 71507281281025) (h : Keeps w s0 s) :
    Keeps w s0 (tineInstr x0 x1 x2 s) := by
  unfold tineInstr
  repeat' first
    | with_reducible exact h
    | with_reducible assumption
    | (extract_lets +onlyGivenNames a; clear_value a)
    | with_reducible apply tineTake_keeps
    | with_reducible apply Keeps.ite

/-- `onTineSpec` may change: regs, tines, tinJobs, mcd, queues, portUp, portDn, merging, x12, vectors, messages, freeIdx. -/
theorem onTineSpec_keeps (x0 : TineHd) (x1 : SpecOp) (x2 : Fin 16) (x3 : Fin 16) (x4 : Bool) {w : Nat} {s0 s : State} (hw : 71507281281025 &&& w = 71507281281025) (h : Keeps w s0 s) :
    Keeps w s0 (onTineSpec x0 x1 x2 x3 x4 s) := by
  unfold onTineSpec
  repeat' first
    | with_reducible exact h
    | with_reducible assumption
    | with_reducible apply tineInstr_keeps

/-- `onTineNop` may change: regs, tines, tinJobs, mcd, queues, portUp, portDn, merging, x12, vectors, messages, freeIdx. -/
theorem onTineNop_keeps (x0 : TineHd) {w : Nat} {s0 s : State} (hw : 71507281281025 &&& w = 71507281281025) (h : Keeps w s0 s) :
    Keeps w s0 (onTineNop x0 s) := by
  unfold onTineNop
  repeat' first
    | with_reducible exact h
    | with_reducible assumption
    | with_reducible apply tineInstr_keeps

/-- `dmaFinish` may change: tines, freeIdx. -/
theorem dmaFinish_keeps (x0 : ℕ) (x1 : ℕ) {w : Nat} {s0 s : State} (hw : 70368744210432 &&& w = 70368744210432) (h : Keeps w s0 s) :
    Keeps w s0 (dmaFinish x0 x1 s) := by
  unfold dmaFinish
  repeat' first
    | with_reducible exact h
    | (extract_lets +onlyGivenNames a; (have y : TinSt := a; clear y); dsimp -zeta only [a]; clear a)
    | (extract_lets +onlyGivenNames a; clear_value a)
    | exact mask_trans (by decide) hw
    | with_reducible apply setTine_keeps
    | with_reducible apply Keeps.ite
    | split
    | fail_if_no_progress (with_reducible refine Keeps.set_freeIdx ?_ (mask_trans (by decide) hw) _)
    | fail_if_no_progress (with_reducible refine Keeps.set_tin_tines ?_ (mask_trans (by decide) hw) _ (by first | ((with_reducible repeat' constructor); done) | (split <;> repeat' constructor)))

/-- `onTineDmaDone` may change: tines, freeIdx. -/
theorem onTineDmaDone_keeps (x0 : Fin 16) (x1 : Fin 2) {w : Nat} {s0 s : State} (hw : 70368744210432 &&& w = 70368744210432) (h : Keeps w s0 s) :
    Keeps w s0 (onTineDmaDone x0 x1 s) := by
  unfold onTineDmaDone
  repeat' first
    | with_reducible exact h
    | with_reducible assumption
    | with_reducible apply dmaFinish_keeps

/-- `onTineRet` may change: regs, tines, tinJobs, mcd, queues, portUp, portDn, merging, x12, vectors, messages, freeIdx. -/
theorem onTineRet_keeps (x0 : TineHd) {w : Nat} {s0 s : State} (hw : 71507281281025 &&& w = 71507281281025) (h : Keeps w s0 s) :
    Keeps w s0 (onTineRet x0 s) := by
  unfold onTineRet
  repeat' first
    | with_reducible exact h
    | with_reducible assumption
    | with_reducible apply tineInstr_keeps

/-- `onTineBr` may change: regs, tines, tinJobs, mcd, queues, portUp, portDn, merging, x12, vectors, messages, freeIdx. -/
theorem onTineBr_keeps (x0 : TineHd) (x1 : BitVec 12) {w : Nat} {s0 s : State} (hw : 71507281281025 &&& w = 71507281281025) (h : Keeps w s0 s) :
    Keeps w s0 (onTineBr x0 x1 s) := by
  unfold onTineBr
  repeat' first
    | with_reducible exact h
    | with_reducible assumption
    | with_reducible apply tineInstr_keeps

/-- `tineWaits` may change: nothing. -/
theorem tineWaits_keeps (x0 : Instr) (x1 : TineHd) (x2 : State → State) {w : Nat} {s0 s : State} (hw : 0 &&& w = 0) (h : Keeps w s0 s) (hf : ∀ y0, Keeps w s0 y0 → Keeps w s0 (x2 y0)) :
    Keeps w s0 (tineWaits x0 x1 x2 s) := by
  unfold tineWaits
  repeat' first
    | with_reducible exact h
    | with_reducible apply hf
    | with_reducible apply Keeps.ite

/-- `onTineDmaStart` may change: regs, tines, tinJobs, mcd, queues, portUp, portDn, merging, x12, vectors, messages, freeIdx. -/
theorem onTineDmaStart_keeps (x0 : TineHd) (x1 : Fin 2) (x2 : Bool) (x3 : Fin 8) (x4 : Fin 8) (x5 : BitVec 14) {w : Nat} {s0 s : State} (hw : 71507281281025 &&& w = 71507281281025) (h : Keeps w s0 s) :
    Keeps w s0 (onTineDmaStart x0 x1 x2 x3 x4 x5 s) := by
  unfold onTineDmaStart
  repeat' first
    | with_reducible exact h
    | with_reducible assumption
    | (extract_lets +onlyGivenNames a; with_reducible refine Keeps.cut (w := w) (s := s0) a ?_ (fun ha => ?_); (on_goal 2 => clear_value a); (on_goal 1 => (dsimp -zeta only [a]; clear a)))
    | exact mask_trans (by decide) hw
    | with_reducible apply dmaFinish_keeps
    | with_reducible apply tineInstr_keeps
    | with_reducible apply tineWaits_keeps
    | intro y

/-- `dmaSettle` may change: tines, freeIdx. -/
theorem dmaSettle_keeps (x0 : ℕ) (x1 : ℕ) (x2 : ℕ) {w : Nat} {s0 s : State} (hw : 70368744210432 &&& w = 70368744210432) (h : Keeps w s0 s) :
    Keeps w s0 (dmaSettle x0 x1 x2 s) := by
  unfold dmaSettle
  repeat' first
    | with_reducible exact h
    | with_reducible assumption
    | with_reducible apply dmaFinish_keeps
    | with_reducible apply Keeps.ite
    | (with_reducible apply Keeps.foldl; intros)
    | split

/-- `onTineAddr` may change: regs, tines, tinJobs, mcd, queues, portUp, portDn, merging, x12, vectors, messages, freeIdx. -/
theorem onTineAddr_keeps (x0 : TineHd) (x1 : AddrOp) (x2 : Fin 8) (x3 : AddrTgt) (x4 : Fin 16) (x5 : BitVec 16) {w : Nat} {s0 s : State} (hw : 71507281281025 &&& w = 71507281281025) (h : Keeps w s0 s) :
    Keeps w s0 (onTineAddr x0 x1 x2 x3 x4 x5 s) := by
  unfold onTineAddr
  repeat' first
    | with_reducible exact h
    | with_reducible assumption
    | with_reducible apply tineInstr_keeps

/-- `onTineCall` may change: regs, tines, tinJobs, mcd, queues, portUp, portDn, merging, x12, vectors, messages, freeIdx. -/
theorem onTineCall_keeps (x0 : TineHd) (x1 : BitVec 12) {w : Nat} {s0 s : State} (hw : 71507281281025 &&& w = 71507281281025) (h : Keeps w s0 s) :
    Keeps w s0 (onTineCall x0 x1 s) := by
  unfold onTineCall
  repeat' first
    | with_reducible exact h
    | with_reducible assumption
    | with_reducible apply tineInstr_keeps

/-- `parSettle` may change: tines, freeIdx. -/
theorem parSettle_keeps (x0 : ℕ) (x1 : Option ParLoad) (x2 : Option ParLoad) {w : Nat} {s0 s : State} (hw : 70368744210432 &&& w = 70368744210432) (h : Keeps w s0 s) :
    Keeps w s0 (parSettle x0 x1 x2 s) := by
  unfold parSettle
  repeat' first
    | with_reducible exact h
    | with_reducible assumption
    | (extract_lets +onlyGivenNames a; with_reducible refine Keeps.cut (w := w) (s := s0) a ?_ (fun ha => ?_); (on_goal 2 => clear_value a); (on_goal 1 => (dsimp -zeta only [a]; clear a)))
    | with_reducible apply dmaSettle_keeps
    | split

/-- `onTineEnd` may change: regs, tines, tinJobs, mcd, queues, portUp, portDn, merging, x12, vectors, messages, freeIdx. -/
theorem onTineEnd_keeps (x0 : TineHd) {w : Nat} {s0 s : State} (hw : 71507281281025 &&& w = 71507281281025) (h : Keeps w s0 s) :
    Keeps w s0 (onTineEnd x0 s) := by
  unfold onTineEnd
  repeat' first
    | with_reducible exact h
    | with_reducible assumption
    | (extract_lets +onlyGivenNames a; with_reducible refine Keeps.cut (w := w) (s := s0) a ?_ (fun ha => ?_); (on_goal 2 => clear_value a); (on_goal 1 => (dsimp -zeta only [a]; clear a)))
    | exact mask_trans (by decide) hw
    | with_reducible apply dmaFinish_keeps
    | with_reducible apply tineInstr_keeps
    | with_reducible apply tineWaits_keeps
    | intro y

/-- `onTineLdst` may change: regs, tines, tinJobs, mcd, queues, portUp, portDn, merging, x12, vectors, messages, freeIdx. -/
theorem onTineLdst_keeps (x0 : TineHd) (x1 : Bool) (x2 : Bool) (x3 : Fin 16) (x4 : Fin 8) (x5 : UpdMode) (x6 : BitVec 16) {w : Nat} {s0 s : State} (hw : 71507281281025 &&& w = 71507281281025) (h : Keeps w s0 s) :
    Keeps w s0 (onTineLdst x0 x1 x2 x3 x4 x5 x6 s) := by
  unfold onTineLdst
  repeat' first
    | with_reducible exact h
    | with_reducible assumption
    | (extract_lets +onlyGivenNames a; with_reducible refine Keeps.cut (w := w) (s := s0) a ?_ (fun ha => ?_); (on_goal 2 => clear_value a); (on_goal 1 => (dsimp -zeta only [a]; clear a)))
    | exact mask_trans (by decide) hw
    | with_reducible apply dmaSettle_keeps
    | with_reducible apply tineInstr_keeps
    | with_reducible apply tineWaits_keeps
    | intro y

/-- `onTineMac` may change: regs, tines, tinJobs, mcd, queues, portUp, portDn, merging, x12, vectors, messages, freeIdx. -/
theorem onTineMac_keeps (x0 : TineHd) (x1 : MacOp) (x2 : Fin 4) (x3 : Fin 4) (x4 : Fin 16) (x5 : Fin 16) (x6 : Fin 16) (x7 : Fin 16) (x8 : Bool) (x9 : Bool) (x10 : Option ParLoad) (x11 : Option ParLoad) {w : Nat} {s0 s : State} (hw : 71507281281025 &&& w = 71507281281025) (h : Keeps w s0 s) :
    Keeps w s0 (onTineMac x0 x1 x2 x3 x4 x5 x6 x7 x8 x9 x10 x11 s) := by
  unfold onTineMac
  repeat' first
    | with_reducible exact h
    | with_reducible assumption
    | (extract_lets +onlyGivenNames a; with_reducible refine Keeps.cut (w := w) (s := s0) a ?_ (fun ha => ?_); (on_goal 2 => clear_value a); (on_goal 1 => (dsimp -zeta only [a]; clear a)))
    | exact mask_trans (by decide) hw
    | with_reducible apply parSettle_keeps
    | with_reducible apply tineInstr_keeps
    | with_reducible apply tineWaits_keeps
    | intro y

/-- `onTineEmit` may change: regs, tines, tinJobs, mcd, queues, portUp, portDn, merging, x12, vectors, messages, freeIdx. -/
theorem onTineEmit_keeps (x0 : TineHd) (x1 : Fin 8) (x2 : Option (Fin 16)) (x3 : BitVec 13) {w : Nat} {s0 s : State} (hw : 71507281281025 &&& w = 71507281281025) (h : Keeps w s0 s) :
    Keeps w s0 (onTineEmit x0 x1 x2 x3 s) := by
  unfold onTineEmit
  repeat' first
    | with_reducible exact h
    | with_reducible assumption
    | (extract_lets +onlyGivenNames a; with_reducible refine Keeps.cut (w := w) (s := s0) a ?_ (fun ha => ?_); (on_goal 2 => clear_value a); (on_goal 1 => (dsimp -zeta only [a]; clear a)))
    | (extract_lets +onlyGivenNames a; clear_value a)
    | exact mask_trans (by decide) hw
    | with_reducible apply dmaSettle_keeps
    | with_reducible apply tineInstr_keeps
    | with_reducible apply tineWaits_keeps
    | intro y

/-- `onTineAlu` may change: regs, tines, tinJobs, mcd, queues, portUp, portDn, merging, x12, vectors, messages, freeIdx. -/
theorem onTineAlu_keeps (x0 : TineHd) (x1 : AluOp) (x2 : Fin 16) (x3 : Fin 16) (x4 : Fin 16) (x5 : Bool) (x6 : Bool) (x7 : BitVec 16) {w : Nat} {s0 s : State} (hw : 71507281281025 &&& w = 71507281281025) (h : Keeps w s0 s) :
    Keeps w s0 (onTineAlu x0 x1 x2 x3 x4 x5 x6 x7 s) := by
  unfold onTineAlu
  repeat' first
    | with_reducible exact h
    | with_reducible assumption
    | (extract_lets +onlyGivenNames a; clear_value a)
    | with_reducible apply tineInstr_keeps

/-- `onTinStepLimit` may change: regs, tines, tinJobs, mcd, queues, portUp, portDn, merging, x12, vectors, messages, freeIdx. -/
theorem onTinStepLimit_keeps (x0 : Fin 16) {w : Nat} {s0 s : State} (hw : 71507281281025 &&& w = 71507281281025) (h : Keeps w s0 s) :
    Keeps w s0 (onTinStepLimit x0 s) := by
  unfold onTinStepLimit
  repeat' first
    | with_reducible exact h
    | with_reducible assumption
    | (extract_lets +onlyGivenNames a; clear_value a)
    | with_reducible apply endJob_keeps
    | with_reducible apply Keeps.ite

/-- `onTineRep` may change: regs, tines, tinJobs, mcd, queues, portUp, portDn, merging, x12, vectors, messages, freeIdx. -/
theorem onTineRep_keeps (x0 : TineHd) (x1 : Option (Fin 16)) (x2 : BitVec 12) (x3 : BitVec 16) {w : Nat} {s0 s : State} (hw : 71507281281025 &&& w = 71507281281025) (h : Keeps w s0 s) :
    Keeps w s0 (onTineRep x0 x1 x2 x3 s) := by
  unfold onTineRep
  repeat' first
    | with_reducible exact h
    | with_reducible assumption
    | with_reducible apply tineInstr_keeps

/-- `onTineAcc` may change: regs, tines, tinJobs, mcd, queues, portUp, portDn, merging, x12, vectors, messages, freeIdx. -/
theorem onTineAcc_keeps (x0 : TineHd) (x1 : AccOp) (x2 : Fin 4) (x3 : Fin 4) (x4 : Fin 16) (x5 : Bool) (x6 : Bool) (x7 : BitVec 6) {w : Nat} {s0 s : State} (hw : 71507281281025 &&& w = 71507281281025) (h : Keeps w s0 s) :
    Keeps w s0 (onTineAcc x0 x1 x2 x3 x4 x5 x6 x7 s) := by
  unfold onTineAcc
  repeat' first
    | with_reducible exact h
    | with_reducible assumption
    | (extract_lets +onlyGivenNames a; clear_value a)
    | with_reducible apply tineInstr_keeps

/-- `onTineDmaWait` may change: regs, tines, tinJobs, mcd, queues, portUp, portDn, merging, x12, vectors, messages, freeIdx. -/
theorem onTineDmaWait_keeps (x0 : TineHd) (x1 : Fin 2) {w : Nat} {s0 s : State} (hw : 71507281281025 &&& w = 71507281281025) (h : Keeps w s0 s) :
    Keeps w s0 (onTineDmaWait x0 x1 s) := by
  unfold onTineDmaWait
  repeat' first
    | with_reducible exact h
    | with_reducible assumption
    | (extract_lets +onlyGivenNames a; with_reducible refine Keeps.cut (w := w) (s := s0) a ?_ (fun ha => ?_); (on_goal 2 => clear_value a); (on_goal 1 => (dsimp -zeta only [a]; clear a)))
    | exact mask_trans (by decide) hw
    | with_reducible apply dmaFinish_keeps
    | with_reducible apply tineInstr_keeps
    | with_reducible apply tineWaits_keeps
    | intro y

end Sys2Proof.Machine
end

