-- ==== Sys2Proof/Laws/Tab.lean ====
section
/-! SUPPORT. The laws of tables and byte memories: a read after a write, and the canonical form. -/

namespace Sys2Proof.Machine

/-! ### Tables -/

@[simp] theorem Tab.look_put_same {α : Type} (t : Tab α) (k : Nat) (v : α) : Tab.look (Tab.put t k v) k = some v := by
  induction t with
  | nil => simp [Tab.put, Tab.look]
  | cons e r ih =>
    obtain ⟨j, u⟩ := e
    by_cases h1 : k < j
    · simp [Tab.put, h1, Tab.look]
    · by_cases h2 : j = k
      · simp [Tab.put, h2, Tab.look]
      · simp [Tab.put, h1, h2, Tab.look, ih]

theorem Tab.look_put_ne {α : Type} (t : Tab α) {k j : Nat} (v : α) (h : j ≠ k) :
    Tab.look (Tab.put t k v) j = Tab.look t j := by
  induction t with
  | nil => simp [Tab.put, Tab.look, Ne.symm h]
  | cons e r ih =>
    obtain ⟨i, u⟩ := e
    by_cases h1 : k < i
    · simp [Tab.put, h1, Tab.look, Ne.symm h]
    · by_cases h2 : i = k
      · subst h2; simp [Tab.put, Tab.look, Ne.symm h]
      · simp only [Tab.put, h1, h2, if_false, Tab.look, ih]

@[simp] theorem Tab.lookD_put_same {α : Type} (t : Tab α) (k : Nat) (v d : α) : Tab.lookD (Tab.put t k v) k d = v := by
  simp [Tab.lookD]

theorem Tab.lookD_put_ne {α : Type} (t : Tab α) {k j : Nat} (v d : α) (h : j ≠ k) :
    Tab.lookD (Tab.put t k v) j d = Tab.lookD t j d := by simp [Tab.lookD, Tab.look_put_ne t v h]

theorem Tab.look_filter_none {α : Type} (t : Tab α) (p : Nat × α → Bool) (k : Nat) (h : ∀ v, p (k, v) = false) :
    Tab.look (t.filter p) k = none := by
  induction t with
  | nil => rfl
  | cons e r ih =>
    obtain ⟨i, u⟩ := e
    by_cases h2 : i = k
    · subst h2; simp [h u, ih]
    · cases hp : p (i, u) <;> simp [hp, Tab.look, h2, ih]

@[simp] theorem Tab.look_del_same {α : Type} (t : Tab α) (k : Nat) : Tab.look (Tab.del t k) k = none :=
  Tab.look_filter_none t _ k (by simp)

theorem Tab.look_del_ne {α : Type} (t : Tab α) {k j : Nat} (h : j ≠ k) : Tab.look (Tab.del t k) j = Tab.look t j := by
  induction t with
  | nil => rfl
  | cons e r ih =>
    obtain ⟨i, u⟩ := e
    unfold Tab.del at ih ⊢
    by_cases h2 : i = k
    · subst h2; simpa [Tab.look, Ne.symm h] using ih
    · by_cases h3 : i = j
      · subst h3; simp [Tab.look, h2]
      · simpa [Tab.look, h2, h3] using ih

/-- Rising keys after `a`. -/
theorem Tab.wf_cons {α : Type} (j : Nat) (v : α) (t : Tab α) :
    Tab.wf ((j, v) :: t) = ((match t with | [] => true | (k, _) :: _ => decide (j < k)) && Tab.wf t) := by
  cases t with
  | nil => rfl
  | cons e r => obtain ⟨k, u⟩ := e; rfl

theorem Tab.wf_put {α : Type} (t : Tab α) (k : Nat) (v : α) (h : Tab.wf t = true) : Tab.wf (Tab.put t k v) = true := by
  induction t with
  | nil => rfl
  | cons e r ih =>
    obtain ⟨j, u⟩ := e
    rw [Tab.wf_cons] at h
    simp only [Bool.and_eq_true] at h
    by_cases h1 : k < j
    · simp [Tab.put, h1, Tab.wf_cons, h.1, h.2]
    · by_cases h2 : j = k
      · subst h2; simp [Tab.put, Tab.wf_cons, h.1, h.2]
      · simp only [Tab.put, h1, h2, if_false]
        rw [Tab.wf_cons, ih h.2]
        cases r with
        | nil => simp [Tab.put]; omega
        | cons e2 r2 =>
          obtain ⟨i, w⟩ := e2
          have hj : j < i := by simpa using h.1
          by_cases h3 : k < i
          · simp [Tab.put, h3]; omega
          · by_cases h4 : i = k
            · simp [Tab.put, h4]; omega
            · simp [Tab.put, h3, h4, hj]

/-! ### Memories -/

/-- A read after a write gives the byte written. -/
@[simp] theorem Memory.read_write_same (m : Memory) (a : Nat) (v : Byte) (h : Memory.wf m = true) :
    Memory.read (Memory.write m a v) a = v := by
  suffices ∀ (o : Option Nat) (m : Memory), Memory.wfFrom o m = true → Memory.read (Memory.write m a v) a = v from this _ _ h
  intro o m
  induction m generalizing o with
  | nil =>
    intro _
    by_cases hv : v = 0#8 <;> simp [Memory.write, Memory.read, hv]
  | cons e r ih =>
    obtain ⟨b, u⟩ := e
    intro h
    simp only [Memory.wfFrom, Bool.and_eq_true] at h
    have none_below : ∀ (r : Memory) (x : Nat), a ≤ x → Memory.wfFrom (some x) r = true → Memory.read r a = 0 := by
      intro r
      induction r with
      | nil => intros; rfl
      | cons e r ih =>
        obtain ⟨c, w⟩ := e
        intro x hx hr
        simp only [Memory.wfFrom, Bool.and_eq_true, decide_eq_true_eq] at hr
        have hc : c ≠ a := by omega
        simp only [Memory.read, hc, if_false]
        exact ih c (by omega) hr.2
    by_cases h1 : a < b
    · by_cases hv : v = 0#8
      · have hb : b ≠ a := by omega
        simp only [Memory.write, h1, if_true, if_pos (show v = (0 : Byte) from hv), Memory.read, hb, if_false]
        exact (none_below r b (by omega) h.2).trans hv.symm
      · simp [Memory.write, h1, hv, Memory.read]
    · by_cases h2 : b = a
      · subst h2
        by_cases hv : v = 0#8
        · simp only [Memory.write, Nat.lt_irrefl, hv, if_false, if_true]
          exact none_below r b (le_refl _) h.2
        · simp [Memory.write, hv, Memory.read]
      · simp only [Memory.write, h1, h2, if_false, Memory.read]
        exact ih _ h.2

/-- A write leaves every other byte alone. -/
theorem Memory.read_write_ne (m : Memory) {a c : Nat} (v : Byte) (h : c ≠ a) :
    Memory.read (Memory.write m a v) c = Memory.read m c := by
  induction m with
  | nil => by_cases hv : v = 0#8 <;> simp [Memory.write, Memory.read, hv, Ne.symm h]
  | cons e r ih =>
    obtain ⟨b, u⟩ := e
    by_cases h1 : a < b
    · by_cases hv : v = 0#8 <;> simp [Memory.write, h1, hv, Memory.read, Ne.symm h]
    · by_cases h2 : b = a
      · subst h2
        by_cases hv : v = 0#8 <;> simp [Memory.write, hv, Memory.read, Ne.symm h]
      · simp only [Memory.write, h1, h2, if_false, Memory.read, ih]

theorem Memory.wfFrom_mono {a b : Option Nat} (m : Memory) (hab : ∀ x y, a = some x → b = some y → x ≤ y)
    (ha : b = none → a = none) (h : Memory.wfFrom b m = true) : Memory.wfFrom a m = true := by
  cases m with
  | nil => rfl
  | cons e r =>
    obtain ⟨c, w⟩ := e
    cases a with
    | none => cases b <;> simp_all [Memory.wfFrom]
    | some x =>
      cases b with
      | none => simp at ha
      | some y => have := hab x y rfl rfl; simp_all [Memory.wfFrom]; omega

theorem Memory.wfFrom_write (o : Option Nat) (m : Memory) (a : Nat) (v : Byte) (ho : ∀ x, o = some x → x < a)
    (h : Memory.wfFrom o m = true) : Memory.wfFrom o (Memory.write m a v) = true := by
  induction m generalizing o with
  | nil =>
    by_cases hv : v = 0#8
    · simp [Memory.write, hv, Memory.wfFrom]
    · cases o with
      | none => simp [Memory.write, hv, Memory.wfFrom]
      | some x => simp [Memory.write, hv, Memory.wfFrom, ho x rfl]
  | cons e r ih =>
    obtain ⟨b, u⟩ := e
    simp only [Memory.wfFrom, Bool.and_eq_true] at h
    by_cases h1 : a < b
    · by_cases hv : v = 0#8
      · simp [Memory.write, h1, hv, Memory.wfFrom, h.1.1, h.2]
        simpa using h.1.2
      · cases o with
        | none => simpa [Memory.write, h1, hv, Memory.wfFrom, h.2] using h.1.2
        | some x => simpa [Memory.write, h1, hv, Memory.wfFrom, h.2, ho x rfl] using h.1.2
    · by_cases h2 : b = a
      · subst h2
        by_cases hv : v = 0#8
        · simp only [Memory.write, Nat.lt_irrefl, hv, if_false, if_true]
          refine Memory.wfFrom_mono r ?_ (by simp) h.2
          intro x y hx hy
          have := ho x hx
          simp at hy; omega
        · cases o with
          | none => simp [Memory.write, hv, Memory.wfFrom, h.2]
          | some x => simp [Memory.write, hv, Memory.wfFrom, h.2, ho x rfl]
      · simp only [Memory.write, h1, h2, if_false, Memory.wfFrom, Bool.and_eq_true]
        exact ⟨h.1, ih (some b) (by intro x hx; simp at hx; omega) h.2⟩

/-- A write keeps the canonical form. -/
theorem Memory.wf_write (m : Memory) (a : Nat) (v : Byte) (h : Memory.wf m = true) :
    Memory.wf (Memory.write m a v) = true := Memory.wfFrom_write none m a v (by simp) h

theorem Memory.wf_writeList (m : Memory) (a : Nat) (l : List Byte) (h : Memory.wf m = true) :
    Memory.wf (Memory.writeList m a l) = true := by
  induction l generalizing m a with
  | nil => exact h
  | cons b r ih => exact ih _ _ (Memory.wf_write m a b h)

theorem Memory.wf_nil : Memory.wf [] = true := rfl

end Sys2Proof.Machine
end

