-- ==== Sys2Proof/Laws/State.lean ====
section
/-! SUPPORT. What the named updates leave alone: one lemma per update and field of State, true by unfolding; and what the
reader of an updated entry answers, at the entry and beside it. -/

namespace Sys2Proof.Machine

@[simp] theorem wr_cfg (off v s) : (wr off v s).cfg = s.cfg := rfl
@[simp] theorem wr_fresh (off v s) : (wr off v s).fresh = s.fresh := rfl
@[simp] theorem wr_cloShown (off v s) : (wr off v s).cloShown = s.cloShown := rfl
@[simp] theorem wr_boot (off v s) : (wr off v s).boot = s.boot := rfl
@[simp] theorem wr_sec (off v s) : (wr off v s).sec = s.sec := rfl
@[simp] theorem wr_nvm (off v s) : (wr off v s).nvm = s.nvm := rfl
@[simp] theorem wr_tb (off v s) : (wr off v s).tb = s.tb := rfl
@[simp] theorem wr_tdc (off v s) : (wr off v s).tdc = s.tdc := rfl
@[simp] theorem wr_tsu (off v s) : (wr off v s).tsu = s.tsu := rfl
@[simp] theorem wr_pfe (off v s) : (wr off v s).pfe = s.pfe := rfl
@[simp] theorem wr_esq (off v s) : (wr off v s).esq = s.esq := rfl
@[simp] theorem wr_hse (off v s) : (wr off v s).hse = s.hse := rfl
@[simp] theorem wr_fib (off v s) : (wr off v s).fib = s.fib := rfl
@[simp] theorem wr_fdc (off v s) : (wr off v s).fdc = s.fdc := rfl
@[simp] theorem wr_tae (off v s) : (wr off v s).tae = s.tae := rfl
@[simp] theorem wr_tin (off v s) : (wr off v s).tin = s.tin := rfl
@[simp] theorem wr_cle (off v s) : (wr off v s).cle = s.cle := rfl
@[simp] theorem wr_asf (off v s) : (wr off v s).asf = s.asf := rfl
@[simp] theorem wr_mcd (off v s) : (wr off v s).mcd = s.mcd := rfl
@[simp] theorem wr_qsy (off v s) : (wr off v s).qsy = s.qsy := rfl
@[simp] theorem wr_ala (off v s) : (wr off v s).ala = s.ala := rfl
@[simp] theorem wr_hkp (off v s) : (wr off v s).hkp = s.hkp := rfl
@[simp] theorem wr_plk (off v s) : (wr off v s).plk = s.plk := rfl
@[simp] theorem wr_trl (off v s) : (wr off v s).trl = s.trl := rfl
@[simp] theorem wr_clo (off v s) : (wr off v s).clo = s.clo := rfl
@[simp] theorem wr_hif (off v s) : (wr off v s).hif = s.hif := rfl
@[simp] theorem wr_fcl (off v s) : (wr off v s).fcl = s.fcl := rfl
@[simp] theorem wr_freeIdx (off v s) : (wr off v s).freeIdx = s.freeIdx := rfl
@[simp] theorem wr_pending (off v s) : (wr off v s).pending = s.pending := rfl

@[simp] theorem useFree_regs (s) : (useFree s).regs = s.regs := rfl
@[simp] theorem useFree_cfg (s) : (useFree s).cfg = s.cfg := rfl
@[simp] theorem useFree_fresh (s) : (useFree s).fresh = s.fresh := rfl
@[simp] theorem useFree_cloShown (s) : (useFree s).cloShown = s.cloShown := rfl
@[simp] theorem useFree_boot (s) : (useFree s).boot = s.boot := rfl
@[simp] theorem useFree_sec (s) : (useFree s).sec = s.sec := rfl
@[simp] theorem useFree_nvm (s) : (useFree s).nvm = s.nvm := rfl
@[simp] theorem useFree_tb (s) : (useFree s).tb = s.tb := rfl
@[simp] theorem useFree_tdc (s) : (useFree s).tdc = s.tdc := rfl
@[simp] theorem useFree_tsu (s) : (useFree s).tsu = s.tsu := rfl
@[simp] theorem useFree_pfe (s) : (useFree s).pfe = s.pfe := rfl
@[simp] theorem useFree_esq (s) : (useFree s).esq = s.esq := rfl
@[simp] theorem useFree_hse (s) : (useFree s).hse = s.hse := rfl
@[simp] theorem useFree_fib (s) : (useFree s).fib = s.fib := rfl
@[simp] theorem useFree_fdc (s) : (useFree s).fdc = s.fdc := rfl
@[simp] theorem useFree_tae (s) : (useFree s).tae = s.tae := rfl
@[simp] theorem useFree_tin (s) : (useFree s).tin = s.tin := rfl
@[simp] theorem useFree_cle (s) : (useFree s).cle = s.cle := rfl
@[simp] theorem useFree_asf (s) : (useFree s).asf = s.asf := rfl
@[simp] theorem useFree_mcd (s) : (useFree s).mcd = s.mcd := rfl
@[simp] theorem useFree_qsy (s) : (useFree s).qsy = s.qsy := rfl
@[simp] theorem useFree_ala (s) : (useFree s).ala = s.ala := rfl
@[simp] theorem useFree_hkp (s) : (useFree s).hkp = s.hkp := rfl
@[simp] theorem useFree_plk (s) : (useFree s).plk = s.plk := rfl
@[simp] theorem useFree_trl (s) : (useFree s).trl = s.trl := rfl
@[simp] theorem useFree_clo (s) : (useFree s).clo = s.clo := rfl
@[simp] theorem useFree_hif (s) : (useFree s).hif = s.hif := rfl
@[simp] theorem useFree_fcl (s) : (useFree s).fcl = s.fcl := rfl
@[simp] theorem useFree_pending (s) : (useFree s).pending = s.pending := rfl

@[simp] theorem advance_regs (t s) : (advance t s).regs = s.regs := rfl
@[simp] theorem advance_cfg (t s) : (advance t s).cfg = s.cfg := rfl
@[simp] theorem advance_fresh (t s) : (advance t s).fresh = s.fresh := rfl
@[simp] theorem advance_cloShown (t s) : (advance t s).cloShown = s.cloShown := rfl
@[simp] theorem advance_boot (t s) : (advance t s).boot = s.boot := rfl
@[simp] theorem advance_sec (t s) : (advance t s).sec = s.sec := rfl
@[simp] theorem advance_nvm (t s) : (advance t s).nvm = s.nvm := rfl
@[simp] theorem advance_tdc (t s) : (advance t s).tdc = s.tdc := rfl
@[simp] theorem advance_tsu (t s) : (advance t s).tsu = s.tsu := rfl
@[simp] theorem advance_pfe (t s) : (advance t s).pfe = s.pfe := rfl
@[simp] theorem advance_esq (t s) : (advance t s).esq = s.esq := rfl
@[simp] theorem advance_hse (t s) : (advance t s).hse = s.hse := rfl
@[simp] theorem advance_fib (t s) : (advance t s).fib = s.fib := rfl
@[simp] theorem advance_fdc (t s) : (advance t s).fdc = s.fdc := rfl
@[simp] theorem advance_tae (t s) : (advance t s).tae = s.tae := rfl
@[simp] theorem advance_tin (t s) : (advance t s).tin = s.tin := rfl
@[simp] theorem advance_cle (t s) : (advance t s).cle = s.cle := rfl
@[simp] theorem advance_asf (t s) : (advance t s).asf = s.asf := rfl
@[simp] theorem advance_mcd (t s) : (advance t s).mcd = s.mcd := rfl
@[simp] theorem advance_qsy (t s) : (advance t s).qsy = s.qsy := rfl
@[simp] theorem advance_ala (t s) : (advance t s).ala = s.ala := rfl
@[simp] theorem advance_hkp (t s) : (advance t s).hkp = s.hkp := rfl
@[simp] theorem advance_plk (t s) : (advance t s).plk = s.plk := rfl
@[simp] theorem advance_trl (t s) : (advance t s).trl = s.trl := rfl
@[simp] theorem advance_clo (t s) : (advance t s).clo = s.clo := rfl
@[simp] theorem advance_hif (t s) : (advance t s).hif = s.hif := rfl
@[simp] theorem advance_fcl (t s) : (advance t s).fcl = s.fcl := rfl
@[simp] theorem advance_freeIdx (t s) : (advance t s).freeIdx = s.freeIdx := rfl
@[simp] theorem advance_pending (t s) : (advance t s).pending = s.pending := rfl

@[simp] theorem post_regs (src unit cls kind addr s) : (post src unit cls kind addr s).regs = s.regs := rfl
@[simp] theorem post_cfg (src unit cls kind addr s) : (post src unit cls kind addr s).cfg = s.cfg := rfl
@[simp] theorem post_fresh (src unit cls kind addr s) : (post src unit cls kind addr s).fresh = s.fresh := rfl
@[simp] theorem post_cloShown (src unit cls kind addr s) : (post src unit cls kind addr s).cloShown = s.cloShown := rfl
@[simp] theorem post_boot (src unit cls kind addr s) : (post src unit cls kind addr s).boot = s.boot := rfl
@[simp] theorem post_sec (src unit cls kind addr s) : (post src unit cls kind addr s).sec = s.sec := rfl
@[simp] theorem post_nvm (src unit cls kind addr s) : (post src unit cls kind addr s).nvm = s.nvm := rfl
@[simp] theorem post_tb (src unit cls kind addr s) : (post src unit cls kind addr s).tb = s.tb := rfl
@[simp] theorem post_tdc (src unit cls kind addr s) : (post src unit cls kind addr s).tdc = s.tdc := rfl
@[simp] theorem post_tsu (src unit cls kind addr s) : (post src unit cls kind addr s).tsu = s.tsu := rfl
@[simp] theorem post_pfe (src unit cls kind addr s) : (post src unit cls kind addr s).pfe = s.pfe := rfl
@[simp] theorem post_esq (src unit cls kind addr s) : (post src unit cls kind addr s).esq = s.esq := rfl
@[simp] theorem post_hse (src unit cls kind addr s) : (post src unit cls kind addr s).hse = s.hse := rfl
@[simp] theorem post_fib (src unit cls kind addr s) : (post src unit cls kind addr s).fib = s.fib := rfl
@[simp] theorem post_fdc (src unit cls kind addr s) : (post src unit cls kind addr s).fdc = s.fdc := rfl
@[simp] theorem post_tae (src unit cls kind addr s) : (post src unit cls kind addr s).tae = s.tae := rfl
@[simp] theorem post_tin (src unit cls kind addr s) : (post src unit cls kind addr s).tin = s.tin := rfl
@[simp] theorem post_cle (src unit cls kind addr s) : (post src unit cls kind addr s).cle = s.cle := rfl
@[simp] theorem post_asf (src unit cls kind addr s) : (post src unit cls kind addr s).asf = s.asf := rfl
@[simp] theorem post_mcd (src unit cls kind addr s) : (post src unit cls kind addr s).mcd = s.mcd := rfl
@[simp] theorem post_qsy (src unit cls kind addr s) : (post src unit cls kind addr s).qsy = s.qsy := rfl
@[simp] theorem post_ala (src unit cls kind addr s) : (post src unit cls kind addr s).ala = s.ala := rfl
@[simp] theorem post_hkp (src unit cls kind addr s) : (post src unit cls kind addr s).hkp = s.hkp := rfl
@[simp] theorem post_plk (src unit cls kind addr s) : (post src unit cls kind addr s).plk = s.plk := rfl
@[simp] theorem post_trl (src unit cls kind addr s) : (post src unit cls kind addr s).trl = s.trl := rfl
@[simp] theorem post_clo (src unit cls kind addr s) : (post src unit cls kind addr s).clo = s.clo := rfl
@[simp] theorem post_hif (src unit cls kind addr s) : (post src unit cls kind addr s).hif = s.hif := rfl
@[simp] theorem post_freeIdx (src unit cls kind addr s) : (post src unit cls kind addr s).freeIdx = s.freeIdx := rfl
@[simp] theorem post_pending (src unit cls kind addr s) : (post src unit cls kind addr s).pending = s.pending := rfl

@[simp] theorem setQueue_regs (g i q s) : (setQueue g i q s).regs = s.regs := rfl
@[simp] theorem setQueue_cfg (g i q s) : (setQueue g i q s).cfg = s.cfg := rfl
@[simp] theorem setQueue_fresh (g i q s) : (setQueue g i q s).fresh = s.fresh := rfl
@[simp] theorem setQueue_cloShown (g i q s) : (setQueue g i q s).cloShown = s.cloShown := rfl
@[simp] theorem setQueue_boot (g i q s) : (setQueue g i q s).boot = s.boot := rfl
@[simp] theorem setQueue_sec (g i q s) : (setQueue g i q s).sec = s.sec := rfl
@[simp] theorem setQueue_nvm (g i q s) : (setQueue g i q s).nvm = s.nvm := rfl
@[simp] theorem setQueue_tb (g i q s) : (setQueue g i q s).tb = s.tb := rfl
@[simp] theorem setQueue_tdc (g i q s) : (setQueue g i q s).tdc = s.tdc := rfl
@[simp] theorem setQueue_tsu (g i q s) : (setQueue g i q s).tsu = s.tsu := rfl
@[simp] theorem setQueue_pfe (g i q s) : (setQueue g i q s).pfe = s.pfe := rfl
@[simp] theorem setQueue_esq (g i q s) : (setQueue g i q s).esq = s.esq := rfl
@[simp] theorem setQueue_hse (g i q s) : (setQueue g i q s).hse = s.hse := rfl
@[simp] theorem setQueue_fib (g i q s) : (setQueue g i q s).fib = s.fib := rfl
@[simp] theorem setQueue_fdc (g i q s) : (setQueue g i q s).fdc = s.fdc := rfl
@[simp] theorem setQueue_tae (g i q s) : (setQueue g i q s).tae = s.tae := rfl
@[simp] theorem setQueue_tin (g i q s) : (setQueue g i q s).tin = s.tin := rfl
@[simp] theorem setQueue_cle (g i q s) : (setQueue g i q s).cle = s.cle := rfl
@[simp] theorem setQueue_asf (g i q s) : (setQueue g i q s).asf = s.asf := rfl
@[simp] theorem setQueue_mcd (g i q s) : (setQueue g i q s).mcd = s.mcd := rfl
@[simp] theorem setQueue_ala (g i q s) : (setQueue g i q s).ala = s.ala := rfl
@[simp] theorem setQueue_hkp (g i q s) : (setQueue g i q s).hkp = s.hkp := rfl
@[simp] theorem setQueue_plk (g i q s) : (setQueue g i q s).plk = s.plk := rfl
@[simp] theorem setQueue_trl (g i q s) : (setQueue g i q s).trl = s.trl := rfl
@[simp] theorem setQueue_clo (g i q s) : (setQueue g i q s).clo = s.clo := rfl
@[simp] theorem setQueue_hif (g i q s) : (setQueue g i q s).hif = s.hif := rfl
@[simp] theorem setQueue_fcl (g i q s) : (setQueue g i q s).fcl = s.fcl := rfl
@[simp] theorem setQueue_freeIdx (g i q s) : (setQueue g i q s).freeIdx = s.freeIdx := rfl
@[simp] theorem setQueue_pending (g i q s) : (setQueue g i q s).pending = s.pending := rfl

@[simp] theorem raise_cfg (n s) : (raise n s).cfg = s.cfg := rfl
@[simp] theorem raise_cloShown (n s) : (raise n s).cloShown = s.cloShown := rfl
@[simp] theorem raise_boot (n s) : (raise n s).boot = s.boot := rfl
@[simp] theorem raise_sec (n s) : (raise n s).sec = s.sec := rfl
@[simp] theorem raise_nvm (n s) : (raise n s).nvm = s.nvm := rfl
@[simp] theorem raise_tb (n s) : (raise n s).tb = s.tb := rfl
@[simp] theorem raise_tdc (n s) : (raise n s).tdc = s.tdc := rfl
@[simp] theorem raise_tsu (n s) : (raise n s).tsu = s.tsu := rfl
@[simp] theorem raise_pfe (n s) : (raise n s).pfe = s.pfe := rfl
@[simp] theorem raise_esq (n s) : (raise n s).esq = s.esq := rfl
@[simp] theorem raise_hse (n s) : (raise n s).hse = s.hse := rfl
@[simp] theorem raise_fib (n s) : (raise n s).fib = s.fib := rfl
@[simp] theorem raise_fdc (n s) : (raise n s).fdc = s.fdc := rfl
@[simp] theorem raise_tae (n s) : (raise n s).tae = s.tae := rfl
@[simp] theorem raise_tin (n s) : (raise n s).tin = s.tin := rfl
@[simp] theorem raise_cle (n s) : (raise n s).cle = s.cle := rfl
@[simp] theorem raise_asf (n s) : (raise n s).asf = s.asf := rfl
@[simp] theorem raise_mcd (n s) : (raise n s).mcd = s.mcd := rfl
@[simp] theorem raise_qsy (n s) : (raise n s).qsy = s.qsy := rfl
@[simp] theorem raise_ala (n s) : (raise n s).ala = s.ala := rfl
@[simp] theorem raise_hkp (n s) : (raise n s).hkp = s.hkp := rfl
@[simp] theorem raise_plk (n s) : (raise n s).plk = s.plk := rfl
@[simp] theorem raise_trl (n s) : (raise n s).trl = s.trl := rfl
@[simp] theorem raise_clo (n s) : (raise n s).clo = s.clo := rfl
@[simp] theorem raise_fcl (n s) : (raise n s).fcl = s.fcl := rfl
@[simp] theorem raise_freeIdx (n s) : (raise n s).freeIdx = s.freeIdx := rfl
@[simp] theorem raise_pending (n s) : (raise n s).pending = s.pending := rfl

@[simp] theorem stick_cfg (off i s) : (stick off i s).cfg = s.cfg := rfl
@[simp] theorem stick_cloShown (off i s) : (stick off i s).cloShown = s.cloShown := rfl
@[simp] theorem stick_boot (off i s) : (stick off i s).boot = s.boot := rfl
@[simp] theorem stick_sec (off i s) : (stick off i s).sec = s.sec := rfl
@[simp] theorem stick_nvm (off i s) : (stick off i s).nvm = s.nvm := rfl
@[simp] theorem stick_tb (off i s) : (stick off i s).tb = s.tb := rfl
@[simp] theorem stick_tdc (off i s) : (stick off i s).tdc = s.tdc := rfl
@[simp] theorem stick_tsu (off i s) : (stick off i s).tsu = s.tsu := rfl
@[simp] theorem stick_pfe (off i s) : (stick off i s).pfe = s.pfe := rfl
@[simp] theorem stick_esq (off i s) : (stick off i s).esq = s.esq := rfl
@[simp] theorem stick_hse (off i s) : (stick off i s).hse = s.hse := rfl
@[simp] theorem stick_fib (off i s) : (stick off i s).fib = s.fib := rfl
@[simp] theorem stick_fdc (off i s) : (stick off i s).fdc = s.fdc := rfl
@[simp] theorem stick_tae (off i s) : (stick off i s).tae = s.tae := rfl
@[simp] theorem stick_tin (off i s) : (stick off i s).tin = s.tin := rfl
@[simp] theorem stick_cle (off i s) : (stick off i s).cle = s.cle := rfl
@[simp] theorem stick_asf (off i s) : (stick off i s).asf = s.asf := rfl
@[simp] theorem stick_mcd (off i s) : (stick off i s).mcd = s.mcd := rfl
@[simp] theorem stick_qsy (off i s) : (stick off i s).qsy = s.qsy := rfl
@[simp] theorem stick_ala (off i s) : (stick off i s).ala = s.ala := rfl
@[simp] theorem stick_hkp (off i s) : (stick off i s).hkp = s.hkp := rfl
@[simp] theorem stick_plk (off i s) : (stick off i s).plk = s.plk := rfl
@[simp] theorem stick_trl (off i s) : (stick off i s).trl = s.trl := rfl
@[simp] theorem stick_clo (off i s) : (stick off i s).clo = s.clo := rfl
@[simp] theorem stick_hif (off i s) : (stick off i s).hif = s.hif := rfl
@[simp] theorem stick_fcl (off i s) : (stick off i s).fcl = s.fcl := rfl
@[simp] theorem stick_freeIdx (off i s) : (stick off i s).freeIdx = s.freeIdx := rfl
@[simp] theorem stick_pending (off i s) : (stick off i s).pending = s.pending := rfl

@[simp] theorem x8Post_regs (c s) : (x8Post c s).regs = s.regs := rfl
@[simp] theorem x8Post_cfg (c s) : (x8Post c s).cfg = s.cfg := rfl
@[simp] theorem x8Post_fresh (c s) : (x8Post c s).fresh = s.fresh := rfl
@[simp] theorem x8Post_cloShown (c s) : (x8Post c s).cloShown = s.cloShown := rfl
@[simp] theorem x8Post_boot (c s) : (x8Post c s).boot = s.boot := rfl
@[simp] theorem x8Post_sec (c s) : (x8Post c s).sec = s.sec := rfl
@[simp] theorem x8Post_nvm (c s) : (x8Post c s).nvm = s.nvm := rfl
@[simp] theorem x8Post_tb (c s) : (x8Post c s).tb = s.tb := rfl
@[simp] theorem x8Post_tdc (c s) : (x8Post c s).tdc = s.tdc := rfl
@[simp] theorem x8Post_tsu (c s) : (x8Post c s).tsu = s.tsu := rfl
@[simp] theorem x8Post_pfe (c s) : (x8Post c s).pfe = s.pfe := rfl
@[simp] theorem x8Post_esq (c s) : (x8Post c s).esq = s.esq := rfl
@[simp] theorem x8Post_hse (c s) : (x8Post c s).hse = s.hse := rfl
@[simp] theorem x8Post_fib (c s) : (x8Post c s).fib = s.fib := rfl
@[simp] theorem x8Post_fdc (c s) : (x8Post c s).fdc = s.fdc := rfl
@[simp] theorem x8Post_tae (c s) : (x8Post c s).tae = s.tae := rfl
@[simp] theorem x8Post_tin (c s) : (x8Post c s).tin = s.tin := rfl
@[simp] theorem x8Post_cle (c s) : (x8Post c s).cle = s.cle := rfl
@[simp] theorem x8Post_asf (c s) : (x8Post c s).asf = s.asf := rfl
@[simp] theorem x8Post_mcd (c s) : (x8Post c s).mcd = s.mcd := rfl
@[simp] theorem x8Post_ala (c s) : (x8Post c s).ala = s.ala := rfl
@[simp] theorem x8Post_hkp (c s) : (x8Post c s).hkp = s.hkp := rfl
@[simp] theorem x8Post_plk (c s) : (x8Post c s).plk = s.plk := rfl
@[simp] theorem x8Post_trl (c s) : (x8Post c s).trl = s.trl := rfl
@[simp] theorem x8Post_clo (c s) : (x8Post c s).clo = s.clo := rfl
@[simp] theorem x8Post_hif (c s) : (x8Post c s).hif = s.hif := rfl
@[simp] theorem x8Post_fcl (c s) : (x8Post c s).fcl = s.fcl := rfl
@[simp] theorem x8Post_freeIdx (c s) : (x8Post c s).freeIdx = s.freeIdx := rfl
@[simp] theorem x8Post_pending (c s) : (x8Post c s).pending = s.pending := rfl

@[simp] theorem setBind_regs (i b s) : (setBind i b s).regs = s.regs := rfl
@[simp] theorem setBind_cfg (i b s) : (setBind i b s).cfg = s.cfg := rfl
@[simp] theorem setBind_fresh (i b s) : (setBind i b s).fresh = s.fresh := rfl
@[simp] theorem setBind_cloShown (i b s) : (setBind i b s).cloShown = s.cloShown := rfl
@[simp] theorem setBind_boot (i b s) : (setBind i b s).boot = s.boot := rfl
@[simp] theorem setBind_sec (i b s) : (setBind i b s).sec = s.sec := rfl
@[simp] theorem setBind_nvm (i b s) : (setBind i b s).nvm = s.nvm := rfl
@[simp] theorem setBind_tb (i b s) : (setBind i b s).tb = s.tb := rfl
@[simp] theorem setBind_tdc (i b s) : (setBind i b s).tdc = s.tdc := rfl
@[simp] theorem setBind_tsu (i b s) : (setBind i b s).tsu = s.tsu := rfl
@[simp] theorem setBind_pfe (i b s) : (setBind i b s).pfe = s.pfe := rfl
@[simp] theorem setBind_esq (i b s) : (setBind i b s).esq = s.esq := rfl
@[simp] theorem setBind_hse (i b s) : (setBind i b s).hse = s.hse := rfl
@[simp] theorem setBind_fib (i b s) : (setBind i b s).fib = s.fib := rfl
@[simp] theorem setBind_fdc (i b s) : (setBind i b s).fdc = s.fdc := rfl
@[simp] theorem setBind_tae (i b s) : (setBind i b s).tae = s.tae := rfl
@[simp] theorem setBind_tin (i b s) : (setBind i b s).tin = s.tin := rfl
@[simp] theorem setBind_cle (i b s) : (setBind i b s).cle = s.cle := rfl
@[simp] theorem setBind_asf (i b s) : (setBind i b s).asf = s.asf := rfl
@[simp] theorem setBind_qsy (i b s) : (setBind i b s).qsy = s.qsy := rfl
@[simp] theorem setBind_ala (i b s) : (setBind i b s).ala = s.ala := rfl
@[simp] theorem setBind_hkp (i b s) : (setBind i b s).hkp = s.hkp := rfl
@[simp] theorem setBind_plk (i b s) : (setBind i b s).plk = s.plk := rfl
@[simp] theorem setBind_trl (i b s) : (setBind i b s).trl = s.trl := rfl
@[simp] theorem setBind_clo (i b s) : (setBind i b s).clo = s.clo := rfl
@[simp] theorem setBind_hif (i b s) : (setBind i b s).hif = s.hif := rfl
@[simp] theorem setBind_fcl (i b s) : (setBind i b s).fcl = s.fcl := rfl
@[simp] theorem setBind_freeIdx (i b s) : (setBind i b s).freeIdx = s.freeIdx := rfl
@[simp] theorem setBind_pending (i b s) : (setBind i b s).pending = s.pending := rfl

@[simp] theorem setBias_regs (k b s) : (setBias k b s).regs = s.regs := rfl
@[simp] theorem setBias_cfg (k b s) : (setBias k b s).cfg = s.cfg := rfl
@[simp] theorem setBias_fresh (k b s) : (setBias k b s).fresh = s.fresh := rfl
@[simp] theorem setBias_cloShown (k b s) : (setBias k b s).cloShown = s.cloShown := rfl
@[simp] theorem setBias_boot (k b s) : (setBias k b s).boot = s.boot := rfl
@[simp] theorem setBias_sec (k b s) : (setBias k b s).sec = s.sec := rfl
@[simp] theorem setBias_nvm (k b s) : (setBias k b s).nvm = s.nvm := rfl
@[simp] theorem setBias_tb (k b s) : (setBias k b s).tb = s.tb := rfl
@[simp] theorem setBias_tdc (k b s) : (setBias k b s).tdc = s.tdc := rfl
@[simp] theorem setBias_tsu (k b s) : (setBias k b s).tsu = s.tsu := rfl
@[simp] theorem setBias_esq (k b s) : (setBias k b s).esq = s.esq := rfl
@[simp] theorem setBias_hse (k b s) : (setBias k b s).hse = s.hse := rfl
@[simp] theorem setBias_fib (k b s) : (setBias k b s).fib = s.fib := rfl
@[simp] theorem setBias_fdc (k b s) : (setBias k b s).fdc = s.fdc := rfl
@[simp] theorem setBias_tae (k b s) : (setBias k b s).tae = s.tae := rfl
@[simp] theorem setBias_tin (k b s) : (setBias k b s).tin = s.tin := rfl
@[simp] theorem setBias_cle (k b s) : (setBias k b s).cle = s.cle := rfl
@[simp] theorem setBias_asf (k b s) : (setBias k b s).asf = s.asf := rfl
@[simp] theorem setBias_mcd (k b s) : (setBias k b s).mcd = s.mcd := rfl
@[simp] theorem setBias_qsy (k b s) : (setBias k b s).qsy = s.qsy := rfl
@[simp] theorem setBias_ala (k b s) : (setBias k b s).ala = s.ala := rfl
@[simp] theorem setBias_hkp (k b s) : (setBias k b s).hkp = s.hkp := rfl
@[simp] theorem setBias_plk (k b s) : (setBias k b s).plk = s.plk := rfl
@[simp] theorem setBias_trl (k b s) : (setBias k b s).trl = s.trl := rfl
@[simp] theorem setBias_clo (k b s) : (setBias k b s).clo = s.clo := rfl
@[simp] theorem setBias_hif (k b s) : (setBias k b s).hif = s.hif := rfl
@[simp] theorem setBias_fcl (k b s) : (setBias k b s).fcl = s.fcl := rfl
@[simp] theorem setBias_freeIdx (k b s) : (setBias k b s).freeIdx = s.freeIdx := rfl
@[simp] theorem setBias_pending (k b s) : (setBias k b s).pending = s.pending := rfl

@[simp] theorem setBankCol_regs (b x s) : (setBankCol b x s).regs = s.regs := rfl
@[simp] theorem setBankCol_cfg (b x s) : (setBankCol b x s).cfg = s.cfg := rfl
@[simp] theorem setBankCol_fresh (b x s) : (setBankCol b x s).fresh = s.fresh := rfl
@[simp] theorem setBankCol_cloShown (b x s) : (setBankCol b x s).cloShown = s.cloShown := rfl
@[simp] theorem setBankCol_boot (b x s) : (setBankCol b x s).boot = s.boot := rfl
@[simp] theorem setBankCol_sec (b x s) : (setBankCol b x s).sec = s.sec := rfl
@[simp] theorem setBankCol_nvm (b x s) : (setBankCol b x s).nvm = s.nvm := rfl
@[simp] theorem setBankCol_tb (b x s) : (setBankCol b x s).tb = s.tb := rfl
@[simp] theorem setBankCol_tdc (b x s) : (setBankCol b x s).tdc = s.tdc := rfl
@[simp] theorem setBankCol_tsu (b x s) : (setBankCol b x s).tsu = s.tsu := rfl
@[simp] theorem setBankCol_pfe (b x s) : (setBankCol b x s).pfe = s.pfe := rfl
@[simp] theorem setBankCol_hse (b x s) : (setBankCol b x s).hse = s.hse := rfl
@[simp] theorem setBankCol_fib (b x s) : (setBankCol b x s).fib = s.fib := rfl
@[simp] theorem setBankCol_fdc (b x s) : (setBankCol b x s).fdc = s.fdc := rfl
@[simp] theorem setBankCol_tae (b x s) : (setBankCol b x s).tae = s.tae := rfl
@[simp] theorem setBankCol_tin (b x s) : (setBankCol b x s).tin = s.tin := rfl
@[simp] theorem setBankCol_cle (b x s) : (setBankCol b x s).cle = s.cle := rfl
@[simp] theorem setBankCol_asf (b x s) : (setBankCol b x s).asf = s.asf := rfl
@[simp] theorem setBankCol_mcd (b x s) : (setBankCol b x s).mcd = s.mcd := rfl
@[simp] theorem setBankCol_qsy (b x s) : (setBankCol b x s).qsy = s.qsy := rfl
@[simp] theorem setBankCol_ala (b x s) : (setBankCol b x s).ala = s.ala := rfl
@[simp] theorem setBankCol_hkp (b x s) : (setBankCol b x s).hkp = s.hkp := rfl
@[simp] theorem setBankCol_plk (b x s) : (setBankCol b x s).plk = s.plk := rfl
@[simp] theorem setBankCol_trl (b x s) : (setBankCol b x s).trl = s.trl := rfl
@[simp] theorem setBankCol_clo (b x s) : (setBankCol b x s).clo = s.clo := rfl
@[simp] theorem setBankCol_hif (b x s) : (setBankCol b x s).hif = s.hif := rfl
@[simp] theorem setBankCol_fcl (b x s) : (setBankCol b x s).fcl = s.fcl := rfl
@[simp] theorem setBankCol_freeIdx (b x s) : (setBankCol b x s).freeIdx = s.freeIdx := rfl
@[simp] theorem setBankCol_pending (b x s) : (setBankCol b x s).pending = s.pending := rfl

@[simp] theorem setRail_regs (r x s) : (setRail r x s).regs = s.regs := rfl
@[simp] theorem setRail_cfg (r x s) : (setRail r x s).cfg = s.cfg := rfl
@[simp] theorem setRail_fresh (r x s) : (setRail r x s).fresh = s.fresh := rfl
@[simp] theorem setRail_cloShown (r x s) : (setRail r x s).cloShown = s.cloShown := rfl
@[simp] theorem setRail_boot (r x s) : (setRail r x s).boot = s.boot := rfl
@[simp] theorem setRail_sec (r x s) : (setRail r x s).sec = s.sec := rfl
@[simp] theorem setRail_nvm (r x s) : (setRail r x s).nvm = s.nvm := rfl
@[simp] theorem setRail_tb (r x s) : (setRail r x s).tb = s.tb := rfl
@[simp] theorem setRail_tdc (r x s) : (setRail r x s).tdc = s.tdc := rfl
@[simp] theorem setRail_tsu (r x s) : (setRail r x s).tsu = s.tsu := rfl
@[simp] theorem setRail_pfe (r x s) : (setRail r x s).pfe = s.pfe := rfl
@[simp] theorem setRail_hse (r x s) : (setRail r x s).hse = s.hse := rfl
@[simp] theorem setRail_fib (r x s) : (setRail r x s).fib = s.fib := rfl
@[simp] theorem setRail_fdc (r x s) : (setRail r x s).fdc = s.fdc := rfl
@[simp] theorem setRail_tae (r x s) : (setRail r x s).tae = s.tae := rfl
@[simp] theorem setRail_tin (r x s) : (setRail r x s).tin = s.tin := rfl
@[simp] theorem setRail_cle (r x s) : (setRail r x s).cle = s.cle := rfl
@[simp] theorem setRail_asf (r x s) : (setRail r x s).asf = s.asf := rfl
@[simp] theorem setRail_mcd (r x s) : (setRail r x s).mcd = s.mcd := rfl
@[simp] theorem setRail_qsy (r x s) : (setRail r x s).qsy = s.qsy := rfl
@[simp] theorem setRail_ala (r x s) : (setRail r x s).ala = s.ala := rfl
@[simp] theorem setRail_hkp (r x s) : (setRail r x s).hkp = s.hkp := rfl
@[simp] theorem setRail_plk (r x s) : (setRail r x s).plk = s.plk := rfl
@[simp] theorem setRail_trl (r x s) : (setRail r x s).trl = s.trl := rfl
@[simp] theorem setRail_clo (r x s) : (setRail r x s).clo = s.clo := rfl
@[simp] theorem setRail_hif (r x s) : (setRail r x s).hif = s.hif := rfl
@[simp] theorem setRail_fcl (r x s) : (setRail r x s).fcl = s.fcl := rfl
@[simp] theorem setRail_freeIdx (r x s) : (setRail r x s).freeIdx = s.freeIdx := rfl
@[simp] theorem setRail_pending (r x s) : (setRail r x s).pending = s.pending := rfl

@[simp] theorem setBuf_regs (c b s) : (setBuf c b s).regs = s.regs := rfl
@[simp] theorem setBuf_cfg (c b s) : (setBuf c b s).cfg = s.cfg := rfl
@[simp] theorem setBuf_fresh (c b s) : (setBuf c b s).fresh = s.fresh := rfl
@[simp] theorem setBuf_cloShown (c b s) : (setBuf c b s).cloShown = s.cloShown := rfl
@[simp] theorem setBuf_boot (c b s) : (setBuf c b s).boot = s.boot := rfl
@[simp] theorem setBuf_sec (c b s) : (setBuf c b s).sec = s.sec := rfl
@[simp] theorem setBuf_nvm (c b s) : (setBuf c b s).nvm = s.nvm := rfl
@[simp] theorem setBuf_tb (c b s) : (setBuf c b s).tb = s.tb := rfl
@[simp] theorem setBuf_tdc (c b s) : (setBuf c b s).tdc = s.tdc := rfl
@[simp] theorem setBuf_tsu (c b s) : (setBuf c b s).tsu = s.tsu := rfl
@[simp] theorem setBuf_pfe (c b s) : (setBuf c b s).pfe = s.pfe := rfl
@[simp] theorem setBuf_esq (c b s) : (setBuf c b s).esq = s.esq := rfl
@[simp] theorem setBuf_fib (c b s) : (setBuf c b s).fib = s.fib := rfl
@[simp] theorem setBuf_fdc (c b s) : (setBuf c b s).fdc = s.fdc := rfl
@[simp] theorem setBuf_tae (c b s) : (setBuf c b s).tae = s.tae := rfl
@[simp] theorem setBuf_tin (c b s) : (setBuf c b s).tin = s.tin := rfl
@[simp] theorem setBuf_cle (c b s) : (setBuf c b s).cle = s.cle := rfl
@[simp] theorem setBuf_asf (c b s) : (setBuf c b s).asf = s.asf := rfl
@[simp] theorem setBuf_mcd (c b s) : (setBuf c b s).mcd = s.mcd := rfl
@[simp] theorem setBuf_qsy (c b s) : (setBuf c b s).qsy = s.qsy := rfl
@[simp] theorem setBuf_ala (c b s) : (setBuf c b s).ala = s.ala := rfl
@[simp] theorem setBuf_hkp (c b s) : (setBuf c b s).hkp = s.hkp := rfl
@[simp] theorem setBuf_plk (c b s) : (setBuf c b s).plk = s.plk := rfl
@[simp] theorem setBuf_trl (c b s) : (setBuf c b s).trl = s.trl := rfl
@[simp] theorem setBuf_clo (c b s) : (setBuf c b s).clo = s.clo := rfl
@[simp] theorem setBuf_hif (c b s) : (setBuf c b s).hif = s.hif := rfl
@[simp] theorem setBuf_fcl (c b s) : (setBuf c b s).fcl = s.fcl := rfl
@[simp] theorem setBuf_freeIdx (c b s) : (setBuf c b s).freeIdx = s.freeIdx := rfl
@[simp] theorem setBuf_pending (c b s) : (setBuf c b s).pending = s.pending := rfl

@[simp] theorem setCal_regs (k c s) : (setCal k c s).regs = s.regs := rfl
@[simp] theorem setCal_cfg (k c s) : (setCal k c s).cfg = s.cfg := rfl
@[simp] theorem setCal_fresh (k c s) : (setCal k c s).fresh = s.fresh := rfl
@[simp] theorem setCal_cloShown (k c s) : (setCal k c s).cloShown = s.cloShown := rfl
@[simp] theorem setCal_boot (k c s) : (setCal k c s).boot = s.boot := rfl
@[simp] theorem setCal_sec (k c s) : (setCal k c s).sec = s.sec := rfl
@[simp] theorem setCal_nvm (k c s) : (setCal k c s).nvm = s.nvm := rfl
@[simp] theorem setCal_tb (k c s) : (setCal k c s).tb = s.tb := rfl
@[simp] theorem setCal_tsu (k c s) : (setCal k c s).tsu = s.tsu := rfl
@[simp] theorem setCal_pfe (k c s) : (setCal k c s).pfe = s.pfe := rfl
@[simp] theorem setCal_esq (k c s) : (setCal k c s).esq = s.esq := rfl
@[simp] theorem setCal_hse (k c s) : (setCal k c s).hse = s.hse := rfl
@[simp] theorem setCal_fib (k c s) : (setCal k c s).fib = s.fib := rfl
@[simp] theorem setCal_fdc (k c s) : (setCal k c s).fdc = s.fdc := rfl
@[simp] theorem setCal_tae (k c s) : (setCal k c s).tae = s.tae := rfl
@[simp] theorem setCal_tin (k c s) : (setCal k c s).tin = s.tin := rfl
@[simp] theorem setCal_cle (k c s) : (setCal k c s).cle = s.cle := rfl
@[simp] theorem setCal_asf (k c s) : (setCal k c s).asf = s.asf := rfl
@[simp] theorem setCal_mcd (k c s) : (setCal k c s).mcd = s.mcd := rfl
@[simp] theorem setCal_qsy (k c s) : (setCal k c s).qsy = s.qsy := rfl
@[simp] theorem setCal_ala (k c s) : (setCal k c s).ala = s.ala := rfl
@[simp] theorem setCal_hkp (k c s) : (setCal k c s).hkp = s.hkp := rfl
@[simp] theorem setCal_plk (k c s) : (setCal k c s).plk = s.plk := rfl
@[simp] theorem setCal_trl (k c s) : (setCal k c s).trl = s.trl := rfl
@[simp] theorem setCal_clo (k c s) : (setCal k c s).clo = s.clo := rfl
@[simp] theorem setCal_hif (k c s) : (setCal k c s).hif = s.hif := rfl
@[simp] theorem setCal_fcl (k c s) : (setCal k c s).fcl = s.fcl := rfl
@[simp] theorem setCal_freeIdx (k c s) : (setCal k c s).freeIdx = s.freeIdx := rfl
@[simp] theorem setCal_pending (k c s) : (setCal k c s).pending = s.pending := rfl

@[simp] theorem setTsi_regs (c x s) : (setTsi c x s).regs = s.regs := rfl
@[simp] theorem setTsi_cfg (c x s) : (setTsi c x s).cfg = s.cfg := rfl
@[simp] theorem setTsi_fresh (c x s) : (setTsi c x s).fresh = s.fresh := rfl
@[simp] theorem setTsi_cloShown (c x s) : (setTsi c x s).cloShown = s.cloShown := rfl
@[simp] theorem setTsi_boot (c x s) : (setTsi c x s).boot = s.boot := rfl
@[simp] theorem setTsi_sec (c x s) : (setTsi c x s).sec = s.sec := rfl
@[simp] theorem setTsi_nvm (c x s) : (setTsi c x s).nvm = s.nvm := rfl
@[simp] theorem setTsi_tb (c x s) : (setTsi c x s).tb = s.tb := rfl
@[simp] theorem setTsi_tdc (c x s) : (setTsi c x s).tdc = s.tdc := rfl
@[simp] theorem setTsi_pfe (c x s) : (setTsi c x s).pfe = s.pfe := rfl
@[simp] theorem setTsi_esq (c x s) : (setTsi c x s).esq = s.esq := rfl
@[simp] theorem setTsi_hse (c x s) : (setTsi c x s).hse = s.hse := rfl
@[simp] theorem setTsi_fib (c x s) : (setTsi c x s).fib = s.fib := rfl
@[simp] theorem setTsi_fdc (c x s) : (setTsi c x s).fdc = s.fdc := rfl
@[simp] theorem setTsi_tae (c x s) : (setTsi c x s).tae = s.tae := rfl
@[simp] theorem setTsi_tin (c x s) : (setTsi c x s).tin = s.tin := rfl
@[simp] theorem setTsi_cle (c x s) : (setTsi c x s).cle = s.cle := rfl
@[simp] theorem setTsi_asf (c x s) : (setTsi c x s).asf = s.asf := rfl
@[simp] theorem setTsi_mcd (c x s) : (setTsi c x s).mcd = s.mcd := rfl
@[simp] theorem setTsi_qsy (c x s) : (setTsi c x s).qsy = s.qsy := rfl
@[simp] theorem setTsi_ala (c x s) : (setTsi c x s).ala = s.ala := rfl
@[simp] theorem setTsi_hkp (c x s) : (setTsi c x s).hkp = s.hkp := rfl
@[simp] theorem setTsi_plk (c x s) : (setTsi c x s).plk = s.plk := rfl
@[simp] theorem setTsi_trl (c x s) : (setTsi c x s).trl = s.trl := rfl
@[simp] theorem setTsi_clo (c x s) : (setTsi c x s).clo = s.clo := rfl
@[simp] theorem setTsi_hif (c x s) : (setTsi c x s).hif = s.hif := rfl
@[simp] theorem setTsi_fcl (c x s) : (setTsi c x s).fcl = s.fcl := rfl
@[simp] theorem setTsi_freeIdx (c x s) : (setTsi c x s).freeIdx = s.freeIdx := rfl
@[simp] theorem setTsi_pending (c x s) : (setTsi c x s).pending = s.pending := rfl

@[simp] theorem setPair_regs (i x s) : (setPair i x s).regs = s.regs := rfl
@[simp] theorem setPair_cfg (i x s) : (setPair i x s).cfg = s.cfg := rfl
@[simp] theorem setPair_fresh (i x s) : (setPair i x s).fresh = s.fresh := rfl
@[simp] theorem setPair_cloShown (i x s) : (setPair i x s).cloShown = s.cloShown := rfl
@[simp] theorem setPair_boot (i x s) : (setPair i x s).boot = s.boot := rfl
@[simp] theorem setPair_sec (i x s) : (setPair i x s).sec = s.sec := rfl
@[simp] theorem setPair_nvm (i x s) : (setPair i x s).nvm = s.nvm := rfl
@[simp] theorem setPair_tb (i x s) : (setPair i x s).tb = s.tb := rfl
@[simp] theorem setPair_tdc (i x s) : (setPair i x s).tdc = s.tdc := rfl
@[simp] theorem setPair_tsu (i x s) : (setPair i x s).tsu = s.tsu := rfl
@[simp] theorem setPair_pfe (i x s) : (setPair i x s).pfe = s.pfe := rfl
@[simp] theorem setPair_esq (i x s) : (setPair i x s).esq = s.esq := rfl
@[simp] theorem setPair_hse (i x s) : (setPair i x s).hse = s.hse := rfl
@[simp] theorem setPair_fdc (i x s) : (setPair i x s).fdc = s.fdc := rfl
@[simp] theorem setPair_tae (i x s) : (setPair i x s).tae = s.tae := rfl
@[simp] theorem setPair_tin (i x s) : (setPair i x s).tin = s.tin := rfl
@[simp] theorem setPair_cle (i x s) : (setPair i x s).cle = s.cle := rfl
@[simp] theorem setPair_asf (i x s) : (setPair i x s).asf = s.asf := rfl
@[simp] theorem setPair_mcd (i x s) : (setPair i x s).mcd = s.mcd := rfl
@[simp] theorem setPair_qsy (i x s) : (setPair i x s).qsy = s.qsy := rfl
@[simp] theorem setPair_ala (i x s) : (setPair i x s).ala = s.ala := rfl
@[simp] theorem setPair_hkp (i x s) : (setPair i x s).hkp = s.hkp := rfl
@[simp] theorem setPair_plk (i x s) : (setPair i x s).plk = s.plk := rfl
@[simp] theorem setPair_trl (i x s) : (setPair i x s).trl = s.trl := rfl
@[simp] theorem setPair_clo (i x s) : (setPair i x s).clo = s.clo := rfl
@[simp] theorem setPair_hif (i x s) : (setPair i x s).hif = s.hif := rfl
@[simp] theorem setPair_fcl (i x s) : (setPair i x s).fcl = s.fcl := rfl
@[simp] theorem setPair_freeIdx (i x s) : (setPair i x s).freeIdx = s.freeIdx := rfl
@[simp] theorem setPair_pending (i x s) : (setPair i x s).pending = s.pending := rfl

@[simp] theorem setAin_regs (i x s) : (setAin i x s).regs = s.regs := rfl
@[simp] theorem setAin_cfg (i x s) : (setAin i x s).cfg = s.cfg := rfl
@[simp] theorem setAin_fresh (i x s) : (setAin i x s).fresh = s.fresh := rfl
@[simp] theorem setAin_cloShown (i x s) : (setAin i x s).cloShown = s.cloShown := rfl
@[simp] theorem setAin_boot (i x s) : (setAin i x s).boot = s.boot := rfl
@[simp] theorem setAin_sec (i x s) : (setAin i x s).sec = s.sec := rfl
@[simp] theorem setAin_nvm (i x s) : (setAin i x s).nvm = s.nvm := rfl
@[simp] theorem setAin_tb (i x s) : (setAin i x s).tb = s.tb := rfl
@[simp] theorem setAin_tdc (i x s) : (setAin i x s).tdc = s.tdc := rfl
@[simp] theorem setAin_tsu (i x s) : (setAin i x s).tsu = s.tsu := rfl
@[simp] theorem setAin_pfe (i x s) : (setAin i x s).pfe = s.pfe := rfl
@[simp] theorem setAin_esq (i x s) : (setAin i x s).esq = s.esq := rfl
@[simp] theorem setAin_hse (i x s) : (setAin i x s).hse = s.hse := rfl
@[simp] theorem setAin_fdc (i x s) : (setAin i x s).fdc = s.fdc := rfl
@[simp] theorem setAin_tae (i x s) : (setAin i x s).tae = s.tae := rfl
@[simp] theorem setAin_tin (i x s) : (setAin i x s).tin = s.tin := rfl
@[simp] theorem setAin_cle (i x s) : (setAin i x s).cle = s.cle := rfl
@[simp] theorem setAin_asf (i x s) : (setAin i x s).asf = s.asf := rfl
@[simp] theorem setAin_mcd (i x s) : (setAin i x s).mcd = s.mcd := rfl
@[simp] theorem setAin_qsy (i x s) : (setAin i x s).qsy = s.qsy := rfl
@[simp] theorem setAin_ala (i x s) : (setAin i x s).ala = s.ala := rfl
@[simp] theorem setAin_hkp (i x s) : (setAin i x s).hkp = s.hkp := rfl
@[simp] theorem setAin_plk (i x s) : (setAin i x s).plk = s.plk := rfl
@[simp] theorem setAin_trl (i x s) : (setAin i x s).trl = s.trl := rfl
@[simp] theorem setAin_clo (i x s) : (setAin i x s).clo = s.clo := rfl
@[simp] theorem setAin_hif (i x s) : (setAin i x s).hif = s.hif := rfl
@[simp] theorem setAin_fcl (i x s) : (setAin i x s).fcl = s.fcl := rfl
@[simp] theorem setAin_freeIdx (i x s) : (setAin i x s).freeIdx = s.freeIdx := rfl
@[simp] theorem setAin_pending (i x s) : (setAin i x s).pending = s.pending := rfl

@[simp] theorem setInfo_regs (n x s) : (setInfo n x s).regs = s.regs := rfl
@[simp] theorem setInfo_cfg (n x s) : (setInfo n x s).cfg = s.cfg := rfl
@[simp] theorem setInfo_fresh (n x s) : (setInfo n x s).fresh = s.fresh := rfl
@[simp] theorem setInfo_cloShown (n x s) : (setInfo n x s).cloShown = s.cloShown := rfl
@[simp] theorem setInfo_boot (n x s) : (setInfo n x s).boot = s.boot := rfl
@[simp] theorem setInfo_sec (n x s) : (setInfo n x s).sec = s.sec := rfl
@[simp] theorem setInfo_nvm (n x s) : (setInfo n x s).nvm = s.nvm := rfl
@[simp] theorem setInfo_tb (n x s) : (setInfo n x s).tb = s.tb := rfl
@[simp] theorem setInfo_tdc (n x s) : (setInfo n x s).tdc = s.tdc := rfl
@[simp] theorem setInfo_tsu (n x s) : (setInfo n x s).tsu = s.tsu := rfl
@[simp] theorem setInfo_pfe (n x s) : (setInfo n x s).pfe = s.pfe := rfl
@[simp] theorem setInfo_esq (n x s) : (setInfo n x s).esq = s.esq := rfl
@[simp] theorem setInfo_hse (n x s) : (setInfo n x s).hse = s.hse := rfl
@[simp] theorem setInfo_fdc (n x s) : (setInfo n x s).fdc = s.fdc := rfl
@[simp] theorem setInfo_tae (n x s) : (setInfo n x s).tae = s.tae := rfl
@[simp] theorem setInfo_tin (n x s) : (setInfo n x s).tin = s.tin := rfl
@[simp] theorem setInfo_cle (n x s) : (setInfo n x s).cle = s.cle := rfl
@[simp] theorem setInfo_asf (n x s) : (setInfo n x s).asf = s.asf := rfl
@[simp] theorem setInfo_mcd (n x s) : (setInfo n x s).mcd = s.mcd := rfl
@[simp] theorem setInfo_qsy (n x s) : (setInfo n x s).qsy = s.qsy := rfl
@[simp] theorem setInfo_ala (n x s) : (setInfo n x s).ala = s.ala := rfl
@[simp] theorem setInfo_hkp (n x s) : (setInfo n x s).hkp = s.hkp := rfl
@[simp] theorem setInfo_plk (n x s) : (setInfo n x s).plk = s.plk := rfl
@[simp] theorem setInfo_trl (n x s) : (setInfo n x s).trl = s.trl := rfl
@[simp] theorem setInfo_clo (n x s) : (setInfo n x s).clo = s.clo := rfl
@[simp] theorem setInfo_hif (n x s) : (setInfo n x s).hif = s.hif := rfl
@[simp] theorem setInfo_fcl (n x s) : (setInfo n x s).fcl = s.fcl := rfl
@[simp] theorem setInfo_freeIdx (n x s) : (setInfo n x s).freeIdx = s.freeIdx := rfl
@[simp] theorem setInfo_pending (n x s) : (setInfo n x s).pending = s.pending := rfl

@[simp] theorem setFdc_regs (c x s) : (setFdc c x s).regs = s.regs := rfl
@[simp] theorem setFdc_cfg (c x s) : (setFdc c x s).cfg = s.cfg := rfl
@[simp] theorem setFdc_fresh (c x s) : (setFdc c x s).fresh = s.fresh := rfl
@[simp] theorem setFdc_cloShown (c x s) : (setFdc c x s).cloShown = s.cloShown := rfl
@[simp] theorem setFdc_boot (c x s) : (setFdc c x s).boot = s.boot := rfl
@[simp] theorem setFdc_sec (c x s) : (setFdc c x s).sec = s.sec := rfl
@[simp] theorem setFdc_nvm (c x s) : (setFdc c x s).nvm = s.nvm := rfl
@[simp] theorem setFdc_tb (c x s) : (setFdc c x s).tb = s.tb := rfl
@[simp] theorem setFdc_tdc (c x s) : (setFdc c x s).tdc = s.tdc := rfl
@[simp] theorem setFdc_tsu (c x s) : (setFdc c x s).tsu = s.tsu := rfl
@[simp] theorem setFdc_pfe (c x s) : (setFdc c x s).pfe = s.pfe := rfl
@[simp] theorem setFdc_esq (c x s) : (setFdc c x s).esq = s.esq := rfl
@[simp] theorem setFdc_hse (c x s) : (setFdc c x s).hse = s.hse := rfl
@[simp] theorem setFdc_fib (c x s) : (setFdc c x s).fib = s.fib := rfl
@[simp] theorem setFdc_tae (c x s) : (setFdc c x s).tae = s.tae := rfl
@[simp] theorem setFdc_tin (c x s) : (setFdc c x s).tin = s.tin := rfl
@[simp] theorem setFdc_cle (c x s) : (setFdc c x s).cle = s.cle := rfl
@[simp] theorem setFdc_asf (c x s) : (setFdc c x s).asf = s.asf := rfl
@[simp] theorem setFdc_mcd (c x s) : (setFdc c x s).mcd = s.mcd := rfl
@[simp] theorem setFdc_qsy (c x s) : (setFdc c x s).qsy = s.qsy := rfl
@[simp] theorem setFdc_ala (c x s) : (setFdc c x s).ala = s.ala := rfl
@[simp] theorem setFdc_hkp (c x s) : (setFdc c x s).hkp = s.hkp := rfl
@[simp] theorem setFdc_plk (c x s) : (setFdc c x s).plk = s.plk := rfl
@[simp] theorem setFdc_trl (c x s) : (setFdc c x s).trl = s.trl := rfl
@[simp] theorem setFdc_clo (c x s) : (setFdc c x s).clo = s.clo := rfl
@[simp] theorem setFdc_hif (c x s) : (setFdc c x s).hif = s.hif := rfl
@[simp] theorem setFdc_fcl (c x s) : (setFdc c x s).fcl = s.fcl := rfl
@[simp] theorem setFdc_freeIdx (c x s) : (setFdc c x s).freeIdx = s.freeIdx := rfl
@[simp] theorem setFdc_pending (c x s) : (setFdc c x s).pending = s.pending := rfl

@[simp] theorem setUnit_regs (u x s) : (setUnit u x s).regs = s.regs := rfl
@[simp] theorem setUnit_cfg (u x s) : (setUnit u x s).cfg = s.cfg := rfl
@[simp] theorem setUnit_fresh (u x s) : (setUnit u x s).fresh = s.fresh := rfl
@[simp] theorem setUnit_cloShown (u x s) : (setUnit u x s).cloShown = s.cloShown := rfl
@[simp] theorem setUnit_boot (u x s) : (setUnit u x s).boot = s.boot := rfl
@[simp] theorem setUnit_sec (u x s) : (setUnit u x s).sec = s.sec := rfl
@[simp] theorem setUnit_nvm (u x s) : (setUnit u x s).nvm = s.nvm := rfl
@[simp] theorem setUnit_tb (u x s) : (setUnit u x s).tb = s.tb := rfl
@[simp] theorem setUnit_tdc (u x s) : (setUnit u x s).tdc = s.tdc := rfl
@[simp] theorem setUnit_tsu (u x s) : (setUnit u x s).tsu = s.tsu := rfl
@[simp] theorem setUnit_pfe (u x s) : (setUnit u x s).pfe = s.pfe := rfl
@[simp] theorem setUnit_esq (u x s) : (setUnit u x s).esq = s.esq := rfl
@[simp] theorem setUnit_hse (u x s) : (setUnit u x s).hse = s.hse := rfl
@[simp] theorem setUnit_fib (u x s) : (setUnit u x s).fib = s.fib := rfl
@[simp] theorem setUnit_fdc (u x s) : (setUnit u x s).fdc = s.fdc := rfl
@[simp] theorem setUnit_tin (u x s) : (setUnit u x s).tin = s.tin := rfl
@[simp] theorem setUnit_cle (u x s) : (setUnit u x s).cle = s.cle := rfl
@[simp] theorem setUnit_asf (u x s) : (setUnit u x s).asf = s.asf := rfl
@[simp] theorem setUnit_mcd (u x s) : (setUnit u x s).mcd = s.mcd := rfl
@[simp] theorem setUnit_qsy (u x s) : (setUnit u x s).qsy = s.qsy := rfl
@[simp] theorem setUnit_ala (u x s) : (setUnit u x s).ala = s.ala := rfl
@[simp] theorem setUnit_hkp (u x s) : (setUnit u x s).hkp = s.hkp := rfl
@[simp] theorem setUnit_plk (u x s) : (setUnit u x s).plk = s.plk := rfl
@[simp] theorem setUnit_trl (u x s) : (setUnit u x s).trl = s.trl := rfl
@[simp] theorem setUnit_clo (u x s) : (setUnit u x s).clo = s.clo := rfl
@[simp] theorem setUnit_hif (u x s) : (setUnit u x s).hif = s.hif := rfl
@[simp] theorem setUnit_fcl (u x s) : (setUnit u x s).fcl = s.fcl := rfl
@[simp] theorem setUnit_freeIdx (u x s) : (setUnit u x s).freeIdx = s.freeIdx := rfl
@[simp] theorem setUnit_pending (u x s) : (setUnit u x s).pending = s.pending := rfl

@[simp] theorem setTine_regs (k x s) : (setTine k x s).regs = s.regs := rfl
@[simp] theorem setTine_cfg (k x s) : (setTine k x s).cfg = s.cfg := rfl
@[simp] theorem setTine_fresh (k x s) : (setTine k x s).fresh = s.fresh := rfl
@[simp] theorem setTine_cloShown (k x s) : (setTine k x s).cloShown = s.cloShown := rfl
@[simp] theorem setTine_boot (k x s) : (setTine k x s).boot = s.boot := rfl
@[simp] theorem setTine_sec (k x s) : (setTine k x s).sec = s.sec := rfl
@[simp] theorem setTine_nvm (k x s) : (setTine k x s).nvm = s.nvm := rfl
@[simp] theorem setTine_tb (k x s) : (setTine k x s).tb = s.tb := rfl
@[simp] theorem setTine_tdc (k x s) : (setTine k x s).tdc = s.tdc := rfl
@[simp] theorem setTine_tsu (k x s) : (setTine k x s).tsu = s.tsu := rfl
@[simp] theorem setTine_pfe (k x s) : (setTine k x s).pfe = s.pfe := rfl
@[simp] theorem setTine_esq (k x s) : (setTine k x s).esq = s.esq := rfl
@[simp] theorem setTine_hse (k x s) : (setTine k x s).hse = s.hse := rfl
@[simp] theorem setTine_fib (k x s) : (setTine k x s).fib = s.fib := rfl
@[simp] theorem setTine_fdc (k x s) : (setTine k x s).fdc = s.fdc := rfl
@[simp] theorem setTine_tae (k x s) : (setTine k x s).tae = s.tae := rfl
@[simp] theorem setTine_cle (k x s) : (setTine k x s).cle = s.cle := rfl
@[simp] theorem setTine_asf (k x s) : (setTine k x s).asf = s.asf := rfl
@[simp] theorem setTine_mcd (k x s) : (setTine k x s).mcd = s.mcd := rfl
@[simp] theorem setTine_qsy (k x s) : (setTine k x s).qsy = s.qsy := rfl
@[simp] theorem setTine_ala (k x s) : (setTine k x s).ala = s.ala := rfl
@[simp] theorem setTine_hkp (k x s) : (setTine k x s).hkp = s.hkp := rfl
@[simp] theorem setTine_plk (k x s) : (setTine k x s).plk = s.plk := rfl
@[simp] theorem setTine_trl (k x s) : (setTine k x s).trl = s.trl := rfl
@[simp] theorem setTine_clo (k x s) : (setTine k x s).clo = s.clo := rfl
@[simp] theorem setTine_hif (k x s) : (setTine k x s).hif = s.hif := rfl
@[simp] theorem setTine_fcl (k x s) : (setTine k x s).fcl = s.fcl := rfl
@[simp] theorem setTine_freeIdx (k x s) : (setTine k x s).freeIdx = s.freeIdx := rfl
@[simp] theorem setTine_pending (k x s) : (setTine k x s).pending = s.pending := rfl

@[simp] theorem setSlot_regs (k x s) : (setSlot k x s).regs = s.regs := rfl
@[simp] theorem setSlot_cfg (k x s) : (setSlot k x s).cfg = s.cfg := rfl
@[simp] theorem setSlot_fresh (k x s) : (setSlot k x s).fresh = s.fresh := rfl
@[simp] theorem setSlot_cloShown (k x s) : (setSlot k x s).cloShown = s.cloShown := rfl
@[simp] theorem setSlot_boot (k x s) : (setSlot k x s).boot = s.boot := rfl
@[simp] theorem setSlot_sec (k x s) : (setSlot k x s).sec = s.sec := rfl
@[simp] theorem setSlot_nvm (k x s) : (setSlot k x s).nvm = s.nvm := rfl
@[simp] theorem setSlot_tb (k x s) : (setSlot k x s).tb = s.tb := rfl
@[simp] theorem setSlot_tdc (k x s) : (setSlot k x s).tdc = s.tdc := rfl
@[simp] theorem setSlot_tsu (k x s) : (setSlot k x s).tsu = s.tsu := rfl
@[simp] theorem setSlot_pfe (k x s) : (setSlot k x s).pfe = s.pfe := rfl
@[simp] theorem setSlot_esq (k x s) : (setSlot k x s).esq = s.esq := rfl
@[simp] theorem setSlot_hse (k x s) : (setSlot k x s).hse = s.hse := rfl
@[simp] theorem setSlot_fib (k x s) : (setSlot k x s).fib = s.fib := rfl
@[simp] theorem setSlot_fdc (k x s) : (setSlot k x s).fdc = s.fdc := rfl
@[simp] theorem setSlot_tae (k x s) : (setSlot k x s).tae = s.tae := rfl
@[simp] theorem setSlot_cle (k x s) : (setSlot k x s).cle = s.cle := rfl
@[simp] theorem setSlot_asf (k x s) : (setSlot k x s).asf = s.asf := rfl
@[simp] theorem setSlot_mcd (k x s) : (setSlot k x s).mcd = s.mcd := rfl
@[simp] theorem setSlot_qsy (k x s) : (setSlot k x s).qsy = s.qsy := rfl
@[simp] theorem setSlot_ala (k x s) : (setSlot k x s).ala = s.ala := rfl
@[simp] theorem setSlot_hkp (k x s) : (setSlot k x s).hkp = s.hkp := rfl
@[simp] theorem setSlot_plk (k x s) : (setSlot k x s).plk = s.plk := rfl
@[simp] theorem setSlot_trl (k x s) : (setSlot k x s).trl = s.trl := rfl
@[simp] theorem setSlot_clo (k x s) : (setSlot k x s).clo = s.clo := rfl
@[simp] theorem setSlot_hif (k x s) : (setSlot k x s).hif = s.hif := rfl
@[simp] theorem setSlot_fcl (k x s) : (setSlot k x s).fcl = s.fcl := rfl
@[simp] theorem setSlot_freeIdx (k x s) : (setSlot k x s).freeIdx = s.freeIdx := rfl
@[simp] theorem setSlot_pending (k x s) : (setSlot k x s).pending = s.pending := rfl

@[simp] theorem setLoop_regs (n x s) : (setLoop n x s).regs = s.regs := rfl
@[simp] theorem setLoop_cfg (n x s) : (setLoop n x s).cfg = s.cfg := rfl
@[simp] theorem setLoop_fresh (n x s) : (setLoop n x s).fresh = s.fresh := rfl
@[simp] theorem setLoop_cloShown (n x s) : (setLoop n x s).cloShown = s.cloShown := rfl
@[simp] theorem setLoop_boot (n x s) : (setLoop n x s).boot = s.boot := rfl
@[simp] theorem setLoop_sec (n x s) : (setLoop n x s).sec = s.sec := rfl
@[simp] theorem setLoop_nvm (n x s) : (setLoop n x s).nvm = s.nvm := rfl
@[simp] theorem setLoop_tb (n x s) : (setLoop n x s).tb = s.tb := rfl
@[simp] theorem setLoop_tdc (n x s) : (setLoop n x s).tdc = s.tdc := rfl
@[simp] theorem setLoop_tsu (n x s) : (setLoop n x s).tsu = s.tsu := rfl
@[simp] theorem setLoop_pfe (n x s) : (setLoop n x s).pfe = s.pfe := rfl
@[simp] theorem setLoop_esq (n x s) : (setLoop n x s).esq = s.esq := rfl
@[simp] theorem setLoop_hse (n x s) : (setLoop n x s).hse = s.hse := rfl
@[simp] theorem setLoop_fib (n x s) : (setLoop n x s).fib = s.fib := rfl
@[simp] theorem setLoop_fdc (n x s) : (setLoop n x s).fdc = s.fdc := rfl
@[simp] theorem setLoop_tae (n x s) : (setLoop n x s).tae = s.tae := rfl
@[simp] theorem setLoop_tin (n x s) : (setLoop n x s).tin = s.tin := rfl
@[simp] theorem setLoop_asf (n x s) : (setLoop n x s).asf = s.asf := rfl
@[simp] theorem setLoop_mcd (n x s) : (setLoop n x s).mcd = s.mcd := rfl
@[simp] theorem setLoop_qsy (n x s) : (setLoop n x s).qsy = s.qsy := rfl
@[simp] theorem setLoop_ala (n x s) : (setLoop n x s).ala = s.ala := rfl
@[simp] theorem setLoop_hkp (n x s) : (setLoop n x s).hkp = s.hkp := rfl
@[simp] theorem setLoop_plk (n x s) : (setLoop n x s).plk = s.plk := rfl
@[simp] theorem setLoop_trl (n x s) : (setLoop n x s).trl = s.trl := rfl
@[simp] theorem setLoop_clo (n x s) : (setLoop n x s).clo = s.clo := rfl
@[simp] theorem setLoop_hif (n x s) : (setLoop n x s).hif = s.hif := rfl
@[simp] theorem setLoop_fcl (n x s) : (setLoop n x s).fcl = s.fcl := rfl
@[simp] theorem setLoop_freeIdx (n x s) : (setLoop n x s).freeIdx = s.freeIdx := rfl
@[simp] theorem setLoop_pending (n x s) : (setLoop n x s).pending = s.pending := rfl

@[simp] theorem setAsf_regs (n x s) : (setAsf n x s).regs = s.regs := rfl
@[simp] theorem setAsf_cfg (n x s) : (setAsf n x s).cfg = s.cfg := rfl
@[simp] theorem setAsf_fresh (n x s) : (setAsf n x s).fresh = s.fresh := rfl
@[simp] theorem setAsf_cloShown (n x s) : (setAsf n x s).cloShown = s.cloShown := rfl
@[simp] theorem setAsf_boot (n x s) : (setAsf n x s).boot = s.boot := rfl
@[simp] theorem setAsf_sec (n x s) : (setAsf n x s).sec = s.sec := rfl
@[simp] theorem setAsf_nvm (n x s) : (setAsf n x s).nvm = s.nvm := rfl
@[simp] theorem setAsf_tb (n x s) : (setAsf n x s).tb = s.tb := rfl
@[simp] theorem setAsf_tdc (n x s) : (setAsf n x s).tdc = s.tdc := rfl
@[simp] theorem setAsf_tsu (n x s) : (setAsf n x s).tsu = s.tsu := rfl
@[simp] theorem setAsf_pfe (n x s) : (setAsf n x s).pfe = s.pfe := rfl
@[simp] theorem setAsf_esq (n x s) : (setAsf n x s).esq = s.esq := rfl
@[simp] theorem setAsf_hse (n x s) : (setAsf n x s).hse = s.hse := rfl
@[simp] theorem setAsf_fib (n x s) : (setAsf n x s).fib = s.fib := rfl
@[simp] theorem setAsf_fdc (n x s) : (setAsf n x s).fdc = s.fdc := rfl
@[simp] theorem setAsf_tae (n x s) : (setAsf n x s).tae = s.tae := rfl
@[simp] theorem setAsf_tin (n x s) : (setAsf n x s).tin = s.tin := rfl
@[simp] theorem setAsf_cle (n x s) : (setAsf n x s).cle = s.cle := rfl
@[simp] theorem setAsf_mcd (n x s) : (setAsf n x s).mcd = s.mcd := rfl
@[simp] theorem setAsf_qsy (n x s) : (setAsf n x s).qsy = s.qsy := rfl
@[simp] theorem setAsf_ala (n x s) : (setAsf n x s).ala = s.ala := rfl
@[simp] theorem setAsf_hkp (n x s) : (setAsf n x s).hkp = s.hkp := rfl
@[simp] theorem setAsf_plk (n x s) : (setAsf n x s).plk = s.plk := rfl
@[simp] theorem setAsf_trl (n x s) : (setAsf n x s).trl = s.trl := rfl
@[simp] theorem setAsf_clo (n x s) : (setAsf n x s).clo = s.clo := rfl
@[simp] theorem setAsf_hif (n x s) : (setAsf n x s).hif = s.hif := rfl
@[simp] theorem setAsf_fcl (n x s) : (setAsf n x s).fcl = s.fcl := rfl
@[simp] theorem setAsf_freeIdx (n x s) : (setAsf n x s).freeIdx = s.freeIdx := rfl
@[simp] theorem setAsf_pending (n x s) : (setAsf n x s).pending = s.pending := rfl

@[simp] theorem setEngine_regs (e w s) : (setEngine e w s).regs = s.regs := rfl
@[simp] theorem setEngine_cfg (e w s) : (setEngine e w s).cfg = s.cfg := rfl
@[simp] theorem setEngine_fresh (e w s) : (setEngine e w s).fresh = s.fresh := rfl
@[simp] theorem setEngine_cloShown (e w s) : (setEngine e w s).cloShown = s.cloShown := rfl
@[simp] theorem setEngine_boot (e w s) : (setEngine e w s).boot = s.boot := rfl
@[simp] theorem setEngine_sec (e w s) : (setEngine e w s).sec = s.sec := rfl
@[simp] theorem setEngine_nvm (e w s) : (setEngine e w s).nvm = s.nvm := rfl
@[simp] theorem setEngine_tb (e w s) : (setEngine e w s).tb = s.tb := rfl
@[simp] theorem setEngine_tdc (e w s) : (setEngine e w s).tdc = s.tdc := rfl
@[simp] theorem setEngine_tsu (e w s) : (setEngine e w s).tsu = s.tsu := rfl
@[simp] theorem setEngine_pfe (e w s) : (setEngine e w s).pfe = s.pfe := rfl
@[simp] theorem setEngine_esq (e w s) : (setEngine e w s).esq = s.esq := rfl
@[simp] theorem setEngine_hse (e w s) : (setEngine e w s).hse = s.hse := rfl
@[simp] theorem setEngine_fib (e w s) : (setEngine e w s).fib = s.fib := rfl
@[simp] theorem setEngine_fdc (e w s) : (setEngine e w s).fdc = s.fdc := rfl
@[simp] theorem setEngine_tae (e w s) : (setEngine e w s).tae = s.tae := rfl
@[simp] theorem setEngine_tin (e w s) : (setEngine e w s).tin = s.tin := rfl
@[simp] theorem setEngine_cle (e w s) : (setEngine e w s).cle = s.cle := rfl
@[simp] theorem setEngine_asf (e w s) : (setEngine e w s).asf = s.asf := rfl
@[simp] theorem setEngine_qsy (e w s) : (setEngine e w s).qsy = s.qsy := rfl
@[simp] theorem setEngine_ala (e w s) : (setEngine e w s).ala = s.ala := rfl
@[simp] theorem setEngine_hkp (e w s) : (setEngine e w s).hkp = s.hkp := rfl
@[simp] theorem setEngine_plk (e w s) : (setEngine e w s).plk = s.plk := rfl
@[simp] theorem setEngine_trl (e w s) : (setEngine e w s).trl = s.trl := rfl
@[simp] theorem setEngine_clo (e w s) : (setEngine e w s).clo = s.clo := rfl
@[simp] theorem setEngine_hif (e w s) : (setEngine e w s).hif = s.hif := rfl
@[simp] theorem setEngine_fcl (e w s) : (setEngine e w s).fcl = s.fcl := rfl
@[simp] theorem setEngine_freeIdx (e w s) : (setEngine e w s).freeIdx = s.freeIdx := rfl
@[simp] theorem setEngine_pending (e w s) : (setEngine e w s).pending = s.pending := rfl

@[simp] theorem setSensor_regs (i x s) : (setSensor i x s).regs = s.regs := rfl
@[simp] theorem setSensor_cfg (i x s) : (setSensor i x s).cfg = s.cfg := rfl
@[simp] theorem setSensor_fresh (i x s) : (setSensor i x s).fresh = s.fresh := rfl
@[simp] theorem setSensor_cloShown (i x s) : (setSensor i x s).cloShown = s.cloShown := rfl
@[simp] theorem setSensor_boot (i x s) : (setSensor i x s).boot = s.boot := rfl
@[simp] theorem setSensor_sec (i x s) : (setSensor i x s).sec = s.sec := rfl
@[simp] theorem setSensor_nvm (i x s) : (setSensor i x s).nvm = s.nvm := rfl
@[simp] theorem setSensor_tb (i x s) : (setSensor i x s).tb = s.tb := rfl
@[simp] theorem setSensor_tdc (i x s) : (setSensor i x s).tdc = s.tdc := rfl
@[simp] theorem setSensor_tsu (i x s) : (setSensor i x s).tsu = s.tsu := rfl
@[simp] theorem setSensor_pfe (i x s) : (setSensor i x s).pfe = s.pfe := rfl
@[simp] theorem setSensor_esq (i x s) : (setSensor i x s).esq = s.esq := rfl
@[simp] theorem setSensor_hse (i x s) : (setSensor i x s).hse = s.hse := rfl
@[simp] theorem setSensor_fib (i x s) : (setSensor i x s).fib = s.fib := rfl
@[simp] theorem setSensor_fdc (i x s) : (setSensor i x s).fdc = s.fdc := rfl
@[simp] theorem setSensor_tae (i x s) : (setSensor i x s).tae = s.tae := rfl
@[simp] theorem setSensor_tin (i x s) : (setSensor i x s).tin = s.tin := rfl
@[simp] theorem setSensor_cle (i x s) : (setSensor i x s).cle = s.cle := rfl
@[simp] theorem setSensor_asf (i x s) : (setSensor i x s).asf = s.asf := rfl
@[simp] theorem setSensor_mcd (i x s) : (setSensor i x s).mcd = s.mcd := rfl
@[simp] theorem setSensor_qsy (i x s) : (setSensor i x s).qsy = s.qsy := rfl
@[simp] theorem setSensor_ala (i x s) : (setSensor i x s).ala = s.ala := rfl
@[simp] theorem setSensor_plk (i x s) : (setSensor i x s).plk = s.plk := rfl
@[simp] theorem setSensor_trl (i x s) : (setSensor i x s).trl = s.trl := rfl
@[simp] theorem setSensor_clo (i x s) : (setSensor i x s).clo = s.clo := rfl
@[simp] theorem setSensor_hif (i x s) : (setSensor i x s).hif = s.hif := rfl
@[simp] theorem setSensor_fcl (i x s) : (setSensor i x s).fcl = s.fcl := rfl
@[simp] theorem setSensor_freeIdx (i x s) : (setSensor i x s).freeIdx = s.freeIdx := rfl
@[simp] theorem setSensor_pending (i x s) : (setSensor i x s).pending = s.pending := rfl

@[simp] theorem setLane_regs (l x s) : (setLane l x s).regs = s.regs := rfl
@[simp] theorem setLane_cfg (l x s) : (setLane l x s).cfg = s.cfg := rfl
@[simp] theorem setLane_fresh (l x s) : (setLane l x s).fresh = s.fresh := rfl
@[simp] theorem setLane_cloShown (l x s) : (setLane l x s).cloShown = s.cloShown := rfl
@[simp] theorem setLane_boot (l x s) : (setLane l x s).boot = s.boot := rfl
@[simp] theorem setLane_sec (l x s) : (setLane l x s).sec = s.sec := rfl
@[simp] theorem setLane_nvm (l x s) : (setLane l x s).nvm = s.nvm := rfl
@[simp] theorem setLane_tb (l x s) : (setLane l x s).tb = s.tb := rfl
@[simp] theorem setLane_tdc (l x s) : (setLane l x s).tdc = s.tdc := rfl
@[simp] theorem setLane_tsu (l x s) : (setLane l x s).tsu = s.tsu := rfl
@[simp] theorem setLane_pfe (l x s) : (setLane l x s).pfe = s.pfe := rfl
@[simp] theorem setLane_esq (l x s) : (setLane l x s).esq = s.esq := rfl
@[simp] theorem setLane_hse (l x s) : (setLane l x s).hse = s.hse := rfl
@[simp] theorem setLane_fib (l x s) : (setLane l x s).fib = s.fib := rfl
@[simp] theorem setLane_fdc (l x s) : (setLane l x s).fdc = s.fdc := rfl
@[simp] theorem setLane_tae (l x s) : (setLane l x s).tae = s.tae := rfl
@[simp] theorem setLane_tin (l x s) : (setLane l x s).tin = s.tin := rfl
@[simp] theorem setLane_cle (l x s) : (setLane l x s).cle = s.cle := rfl
@[simp] theorem setLane_asf (l x s) : (setLane l x s).asf = s.asf := rfl
@[simp] theorem setLane_mcd (l x s) : (setLane l x s).mcd = s.mcd := rfl
@[simp] theorem setLane_qsy (l x s) : (setLane l x s).qsy = s.qsy := rfl
@[simp] theorem setLane_ala (l x s) : (setLane l x s).ala = s.ala := rfl
@[simp] theorem setLane_hkp (l x s) : (setLane l x s).hkp = s.hkp := rfl
@[simp] theorem setLane_trl (l x s) : (setLane l x s).trl = s.trl := rfl
@[simp] theorem setLane_clo (l x s) : (setLane l x s).clo = s.clo := rfl
@[simp] theorem setLane_hif (l x s) : (setLane l x s).hif = s.hif := rfl
@[simp] theorem setLane_fcl (l x s) : (setLane l x s).fcl = s.fcl := rfl
@[simp] theorem setLane_freeIdx (l x s) : (setLane l x s).freeIdx = s.freeIdx := rfl
@[simp] theorem setLane_pending (l x s) : (setLane l x s).pending = s.pending := rfl

@[simp] theorem setMerge_regs (k m s) : (setMerge k m s).regs = s.regs := rfl
@[simp] theorem setMerge_cfg (k m s) : (setMerge k m s).cfg = s.cfg := rfl
@[simp] theorem setMerge_fresh (k m s) : (setMerge k m s).fresh = s.fresh := rfl
@[simp] theorem setMerge_cloShown (k m s) : (setMerge k m s).cloShown = s.cloShown := rfl
@[simp] theorem setMerge_boot (k m s) : (setMerge k m s).boot = s.boot := rfl
@[simp] theorem setMerge_sec (k m s) : (setMerge k m s).sec = s.sec := rfl
@[simp] theorem setMerge_nvm (k m s) : (setMerge k m s).nvm = s.nvm := rfl
@[simp] theorem setMerge_tb (k m s) : (setMerge k m s).tb = s.tb := rfl
@[simp] theorem setMerge_tdc (k m s) : (setMerge k m s).tdc = s.tdc := rfl
@[simp] theorem setMerge_tsu (k m s) : (setMerge k m s).tsu = s.tsu := rfl
@[simp] theorem setMerge_pfe (k m s) : (setMerge k m s).pfe = s.pfe := rfl
@[simp] theorem setMerge_esq (k m s) : (setMerge k m s).esq = s.esq := rfl
@[simp] theorem setMerge_hse (k m s) : (setMerge k m s).hse = s.hse := rfl
@[simp] theorem setMerge_fib (k m s) : (setMerge k m s).fib = s.fib := rfl
@[simp] theorem setMerge_fdc (k m s) : (setMerge k m s).fdc = s.fdc := rfl
@[simp] theorem setMerge_tae (k m s) : (setMerge k m s).tae = s.tae := rfl
@[simp] theorem setMerge_tin (k m s) : (setMerge k m s).tin = s.tin := rfl
@[simp] theorem setMerge_cle (k m s) : (setMerge k m s).cle = s.cle := rfl
@[simp] theorem setMerge_asf (k m s) : (setMerge k m s).asf = s.asf := rfl
@[simp] theorem setMerge_mcd (k m s) : (setMerge k m s).mcd = s.mcd := rfl
@[simp] theorem setMerge_qsy (k m s) : (setMerge k m s).qsy = s.qsy := rfl
@[simp] theorem setMerge_ala (k m s) : (setMerge k m s).ala = s.ala := rfl
@[simp] theorem setMerge_hkp (k m s) : (setMerge k m s).hkp = s.hkp := rfl
@[simp] theorem setMerge_plk (k m s) : (setMerge k m s).plk = s.plk := rfl
@[simp] theorem setMerge_clo (k m s) : (setMerge k m s).clo = s.clo := rfl
@[simp] theorem setMerge_hif (k m s) : (setMerge k m s).hif = s.hif := rfl
@[simp] theorem setMerge_fcl (k m s) : (setMerge k m s).fcl = s.fcl := rfl
@[simp] theorem setMerge_freeIdx (k m s) : (setMerge k m s).freeIdx = s.freeIdx := rfl
@[simp] theorem setMerge_pending (k m s) : (setMerge k m s).pending = s.pending := rfl

@[simp] theorem setChain_regs (c x s) : (setChain c x s).regs = s.regs := rfl
@[simp] theorem setChain_cfg (c x s) : (setChain c x s).cfg = s.cfg := rfl
@[simp] theorem setChain_fresh (c x s) : (setChain c x s).fresh = s.fresh := rfl
@[simp] theorem setChain_cloShown (c x s) : (setChain c x s).cloShown = s.cloShown := rfl
@[simp] theorem setChain_boot (c x s) : (setChain c x s).boot = s.boot := rfl
@[simp] theorem setChain_sec (c x s) : (setChain c x s).sec = s.sec := rfl
@[simp] theorem setChain_nvm (c x s) : (setChain c x s).nvm = s.nvm := rfl
@[simp] theorem setChain_tb (c x s) : (setChain c x s).tb = s.tb := rfl
@[simp] theorem setChain_tdc (c x s) : (setChain c x s).tdc = s.tdc := rfl
@[simp] theorem setChain_tsu (c x s) : (setChain c x s).tsu = s.tsu := rfl
@[simp] theorem setChain_pfe (c x s) : (setChain c x s).pfe = s.pfe := rfl
@[simp] theorem setChain_esq (c x s) : (setChain c x s).esq = s.esq := rfl
@[simp] theorem setChain_hse (c x s) : (setChain c x s).hse = s.hse := rfl
@[simp] theorem setChain_fib (c x s) : (setChain c x s).fib = s.fib := rfl
@[simp] theorem setChain_fdc (c x s) : (setChain c x s).fdc = s.fdc := rfl
@[simp] theorem setChain_tae (c x s) : (setChain c x s).tae = s.tae := rfl
@[simp] theorem setChain_tin (c x s) : (setChain c x s).tin = s.tin := rfl
@[simp] theorem setChain_cle (c x s) : (setChain c x s).cle = s.cle := rfl
@[simp] theorem setChain_asf (c x s) : (setChain c x s).asf = s.asf := rfl
@[simp] theorem setChain_mcd (c x s) : (setChain c x s).mcd = s.mcd := rfl
@[simp] theorem setChain_qsy (c x s) : (setChain c x s).qsy = s.qsy := rfl
@[simp] theorem setChain_ala (c x s) : (setChain c x s).ala = s.ala := rfl
@[simp] theorem setChain_hkp (c x s) : (setChain c x s).hkp = s.hkp := rfl
@[simp] theorem setChain_plk (c x s) : (setChain c x s).plk = s.plk := rfl
@[simp] theorem setChain_trl (c x s) : (setChain c x s).trl = s.trl := rfl
@[simp] theorem setChain_hif (c x s) : (setChain c x s).hif = s.hif := rfl
@[simp] theorem setChain_fcl (c x s) : (setChain c x s).fcl = s.fcl := rfl
@[simp] theorem setChain_freeIdx (c x s) : (setChain c x s).freeIdx = s.freeIdx := rfl
@[simp] theorem setChain_pending (c x s) : (setChain c x s).pending = s.pending := rfl

@[simp] theorem setIn_regs (n x s) : (setIn n x s).regs = s.regs := rfl
@[simp] theorem setIn_cfg (n x s) : (setIn n x s).cfg = s.cfg := rfl
@[simp] theorem setIn_fresh (n x s) : (setIn n x s).fresh = s.fresh := rfl
@[simp] theorem setIn_cloShown (n x s) : (setIn n x s).cloShown = s.cloShown := rfl
@[simp] theorem setIn_boot (n x s) : (setIn n x s).boot = s.boot := rfl
@[simp] theorem setIn_sec (n x s) : (setIn n x s).sec = s.sec := rfl
@[simp] theorem setIn_nvm (n x s) : (setIn n x s).nvm = s.nvm := rfl
@[simp] theorem setIn_tb (n x s) : (setIn n x s).tb = s.tb := rfl
@[simp] theorem setIn_tdc (n x s) : (setIn n x s).tdc = s.tdc := rfl
@[simp] theorem setIn_tsu (n x s) : (setIn n x s).tsu = s.tsu := rfl
@[simp] theorem setIn_pfe (n x s) : (setIn n x s).pfe = s.pfe := rfl
@[simp] theorem setIn_esq (n x s) : (setIn n x s).esq = s.esq := rfl
@[simp] theorem setIn_hse (n x s) : (setIn n x s).hse = s.hse := rfl
@[simp] theorem setIn_fib (n x s) : (setIn n x s).fib = s.fib := rfl
@[simp] theorem setIn_fdc (n x s) : (setIn n x s).fdc = s.fdc := rfl
@[simp] theorem setIn_tae (n x s) : (setIn n x s).tae = s.tae := rfl
@[simp] theorem setIn_tin (n x s) : (setIn n x s).tin = s.tin := rfl
@[simp] theorem setIn_cle (n x s) : (setIn n x s).cle = s.cle := rfl
@[simp] theorem setIn_asf (n x s) : (setIn n x s).asf = s.asf := rfl
@[simp] theorem setIn_mcd (n x s) : (setIn n x s).mcd = s.mcd := rfl
@[simp] theorem setIn_qsy (n x s) : (setIn n x s).qsy = s.qsy := rfl
@[simp] theorem setIn_ala (n x s) : (setIn n x s).ala = s.ala := rfl
@[simp] theorem setIn_hkp (n x s) : (setIn n x s).hkp = s.hkp := rfl
@[simp] theorem setIn_plk (n x s) : (setIn n x s).plk = s.plk := rfl
@[simp] theorem setIn_trl (n x s) : (setIn n x s).trl = s.trl := rfl
@[simp] theorem setIn_hif (n x s) : (setIn n x s).hif = s.hif := rfl
@[simp] theorem setIn_fcl (n x s) : (setIn n x s).fcl = s.fcl := rfl
@[simp] theorem setIn_freeIdx (n x s) : (setIn n x s).freeIdx = s.freeIdx := rfl
@[simp] theorem setIn_pending (n x s) : (setIn n x s).pending = s.pending := rfl

@[simp] theorem setOut_regs (x o s) : (setOut x o s).regs = s.regs := rfl
@[simp] theorem setOut_cfg (x o s) : (setOut x o s).cfg = s.cfg := rfl
@[simp] theorem setOut_fresh (x o s) : (setOut x o s).fresh = s.fresh := rfl
@[simp] theorem setOut_cloShown (x o s) : (setOut x o s).cloShown = s.cloShown := rfl
@[simp] theorem setOut_boot (x o s) : (setOut x o s).boot = s.boot := rfl
@[simp] theorem setOut_sec (x o s) : (setOut x o s).sec = s.sec := rfl
@[simp] theorem setOut_nvm (x o s) : (setOut x o s).nvm = s.nvm := rfl
@[simp] theorem setOut_tb (x o s) : (setOut x o s).tb = s.tb := rfl
@[simp] theorem setOut_tdc (x o s) : (setOut x o s).tdc = s.tdc := rfl
@[simp] theorem setOut_tsu (x o s) : (setOut x o s).tsu = s.tsu := rfl
@[simp] theorem setOut_pfe (x o s) : (setOut x o s).pfe = s.pfe := rfl
@[simp] theorem setOut_esq (x o s) : (setOut x o s).esq = s.esq := rfl
@[simp] theorem setOut_hse (x o s) : (setOut x o s).hse = s.hse := rfl
@[simp] theorem setOut_fib (x o s) : (setOut x o s).fib = s.fib := rfl
@[simp] theorem setOut_fdc (x o s) : (setOut x o s).fdc = s.fdc := rfl
@[simp] theorem setOut_tae (x o s) : (setOut x o s).tae = s.tae := rfl
@[simp] theorem setOut_tin (x o s) : (setOut x o s).tin = s.tin := rfl
@[simp] theorem setOut_cle (x o s) : (setOut x o s).cle = s.cle := rfl
@[simp] theorem setOut_asf (x o s) : (setOut x o s).asf = s.asf := rfl
@[simp] theorem setOut_mcd (x o s) : (setOut x o s).mcd = s.mcd := rfl
@[simp] theorem setOut_qsy (x o s) : (setOut x o s).qsy = s.qsy := rfl
@[simp] theorem setOut_ala (x o s) : (setOut x o s).ala = s.ala := rfl
@[simp] theorem setOut_hkp (x o s) : (setOut x o s).hkp = s.hkp := rfl
@[simp] theorem setOut_plk (x o s) : (setOut x o s).plk = s.plk := rfl
@[simp] theorem setOut_trl (x o s) : (setOut x o s).trl = s.trl := rfl
@[simp] theorem setOut_hif (x o s) : (setOut x o s).hif = s.hif := rfl
@[simp] theorem setOut_fcl (x o s) : (setOut x o s).fcl = s.fcl := rfl
@[simp] theorem setOut_freeIdx (x o s) : (setOut x o s).freeIdx = s.freeIdx := rfl
@[simp] theorem setOut_pending (x o s) : (setOut x o s).pending = s.pending := rfl

@[simp] theorem setField_regs (n x s) : (setField n x s).regs = s.regs := rfl
@[simp] theorem setField_cfg (n x s) : (setField n x s).cfg = s.cfg := rfl
@[simp] theorem setField_fresh (n x s) : (setField n x s).fresh = s.fresh := rfl
@[simp] theorem setField_cloShown (n x s) : (setField n x s).cloShown = s.cloShown := rfl
@[simp] theorem setField_boot (n x s) : (setField n x s).boot = s.boot := rfl
@[simp] theorem setField_sec (n x s) : (setField n x s).sec = s.sec := rfl
@[simp] theorem setField_nvm (n x s) : (setField n x s).nvm = s.nvm := rfl
@[simp] theorem setField_tb (n x s) : (setField n x s).tb = s.tb := rfl
@[simp] theorem setField_tdc (n x s) : (setField n x s).tdc = s.tdc := rfl
@[simp] theorem setField_tsu (n x s) : (setField n x s).tsu = s.tsu := rfl
@[simp] theorem setField_pfe (n x s) : (setField n x s).pfe = s.pfe := rfl
@[simp] theorem setField_esq (n x s) : (setField n x s).esq = s.esq := rfl
@[simp] theorem setField_hse (n x s) : (setField n x s).hse = s.hse := rfl
@[simp] theorem setField_fib (n x s) : (setField n x s).fib = s.fib := rfl
@[simp] theorem setField_fdc (n x s) : (setField n x s).fdc = s.fdc := rfl
@[simp] theorem setField_tae (n x s) : (setField n x s).tae = s.tae := rfl
@[simp] theorem setField_tin (n x s) : (setField n x s).tin = s.tin := rfl
@[simp] theorem setField_cle (n x s) : (setField n x s).cle = s.cle := rfl
@[simp] theorem setField_asf (n x s) : (setField n x s).asf = s.asf := rfl
@[simp] theorem setField_mcd (n x s) : (setField n x s).mcd = s.mcd := rfl
@[simp] theorem setField_qsy (n x s) : (setField n x s).qsy = s.qsy := rfl
@[simp] theorem setField_ala (n x s) : (setField n x s).ala = s.ala := rfl
@[simp] theorem setField_hkp (n x s) : (setField n x s).hkp = s.hkp := rfl
@[simp] theorem setField_plk (n x s) : (setField n x s).plk = s.plk := rfl
@[simp] theorem setField_trl (n x s) : (setField n x s).trl = s.trl := rfl
@[simp] theorem setField_hif (n x s) : (setField n x s).hif = s.hif := rfl
@[simp] theorem setField_fcl (n x s) : (setField n x s).fcl = s.fcl := rfl
@[simp] theorem setField_freeIdx (n x s) : (setField n x s).freeIdx = s.freeIdx := rfl
@[simp] theorem setField_pending (n x s) : (setField n x s).pending = s.pending := rfl

@[simp] theorem setConn_regs (c x s) : (setConn c x s).regs = s.regs := rfl
@[simp] theorem setConn_cfg (c x s) : (setConn c x s).cfg = s.cfg := rfl
@[simp] theorem setConn_fresh (c x s) : (setConn c x s).fresh = s.fresh := rfl
@[simp] theorem setConn_cloShown (c x s) : (setConn c x s).cloShown = s.cloShown := rfl
@[simp] theorem setConn_boot (c x s) : (setConn c x s).boot = s.boot := rfl
@[simp] theorem setConn_sec (c x s) : (setConn c x s).sec = s.sec := rfl
@[simp] theorem setConn_nvm (c x s) : (setConn c x s).nvm = s.nvm := rfl
@[simp] theorem setConn_tb (c x s) : (setConn c x s).tb = s.tb := rfl
@[simp] theorem setConn_tdc (c x s) : (setConn c x s).tdc = s.tdc := rfl
@[simp] theorem setConn_tsu (c x s) : (setConn c x s).tsu = s.tsu := rfl
@[simp] theorem setConn_pfe (c x s) : (setConn c x s).pfe = s.pfe := rfl
@[simp] theorem setConn_esq (c x s) : (setConn c x s).esq = s.esq := rfl
@[simp] theorem setConn_hse (c x s) : (setConn c x s).hse = s.hse := rfl
@[simp] theorem setConn_fib (c x s) : (setConn c x s).fib = s.fib := rfl
@[simp] theorem setConn_fdc (c x s) : (setConn c x s).fdc = s.fdc := rfl
@[simp] theorem setConn_tae (c x s) : (setConn c x s).tae = s.tae := rfl
@[simp] theorem setConn_tin (c x s) : (setConn c x s).tin = s.tin := rfl
@[simp] theorem setConn_cle (c x s) : (setConn c x s).cle = s.cle := rfl
@[simp] theorem setConn_asf (c x s) : (setConn c x s).asf = s.asf := rfl
@[simp] theorem setConn_mcd (c x s) : (setConn c x s).mcd = s.mcd := rfl
@[simp] theorem setConn_qsy (c x s) : (setConn c x s).qsy = s.qsy := rfl
@[simp] theorem setConn_ala (c x s) : (setConn c x s).ala = s.ala := rfl
@[simp] theorem setConn_hkp (c x s) : (setConn c x s).hkp = s.hkp := rfl
@[simp] theorem setConn_plk (c x s) : (setConn c x s).plk = s.plk := rfl
@[simp] theorem setConn_trl (c x s) : (setConn c x s).trl = s.trl := rfl
@[simp] theorem setConn_hif (c x s) : (setConn c x s).hif = s.hif := rfl
@[simp] theorem setConn_fcl (c x s) : (setConn c x s).fcl = s.fcl := rfl
@[simp] theorem setConn_freeIdx (c x s) : (setConn c x s).freeIdx = s.freeIdx := rfl
@[simp] theorem setConn_pending (c x s) : (setConn c x s).pending = s.pending := rfl

@[simp] theorem beginBackground_regs (o job s) : (beginBackground o job s).regs = s.regs := rfl
@[simp] theorem beginBackground_cfg (o job s) : (beginBackground o job s).cfg = s.cfg := rfl
@[simp] theorem beginBackground_fresh (o job s) : (beginBackground o job s).fresh = s.fresh := rfl
@[simp] theorem beginBackground_cloShown (o job s) : (beginBackground o job s).cloShown = s.cloShown := rfl
@[simp] theorem beginBackground_boot (o job s) : (beginBackground o job s).boot = s.boot := rfl
@[simp] theorem beginBackground_sec (o job s) : (beginBackground o job s).sec = s.sec := rfl
@[simp] theorem beginBackground_nvm (o job s) : (beginBackground o job s).nvm = s.nvm := rfl
@[simp] theorem beginBackground_tb (o job s) : (beginBackground o job s).tb = s.tb := rfl
@[simp] theorem beginBackground_tdc (o job s) : (beginBackground o job s).tdc = s.tdc := rfl
@[simp] theorem beginBackground_tsu (o job s) : (beginBackground o job s).tsu = s.tsu := rfl
@[simp] theorem beginBackground_pfe (o job s) : (beginBackground o job s).pfe = s.pfe := rfl
@[simp] theorem beginBackground_esq (o job s) : (beginBackground o job s).esq = s.esq := rfl
@[simp] theorem beginBackground_hse (o job s) : (beginBackground o job s).hse = s.hse := rfl
@[simp] theorem beginBackground_fib (o job s) : (beginBackground o job s).fib = s.fib := rfl
@[simp] theorem beginBackground_fdc (o job s) : (beginBackground o job s).fdc = s.fdc := rfl
@[simp] theorem beginBackground_tae (o job s) : (beginBackground o job s).tae = s.tae := rfl
@[simp] theorem beginBackground_tin (o job s) : (beginBackground o job s).tin = s.tin := rfl
@[simp] theorem beginBackground_cle (o job s) : (beginBackground o job s).cle = s.cle := rfl
@[simp] theorem beginBackground_asf (o job s) : (beginBackground o job s).asf = s.asf := rfl
@[simp] theorem beginBackground_mcd (o job s) : (beginBackground o job s).mcd = s.mcd := rfl
@[simp] theorem beginBackground_qsy (o job s) : (beginBackground o job s).qsy = s.qsy := rfl
@[simp] theorem beginBackground_ala (o job s) : (beginBackground o job s).ala = s.ala := rfl
@[simp] theorem beginBackground_hkp (o job s) : (beginBackground o job s).hkp = s.hkp := rfl
@[simp] theorem beginBackground_plk (o job s) : (beginBackground o job s).plk = s.plk := rfl
@[simp] theorem beginBackground_trl (o job s) : (beginBackground o job s).trl = s.trl := rfl
@[simp] theorem beginBackground_clo (o job s) : (beginBackground o job s).clo = s.clo := rfl
@[simp] theorem beginBackground_fcl (o job s) : (beginBackground o job s).fcl = s.fcl := rfl
@[simp] theorem beginBackground_freeIdx (o job s) : (beginBackground o job s).freeIdx = s.freeIdx := rfl
@[simp] theorem beginBackground_pending (o job s) : (beginBackground o job s).pending = s.pending := rfl

@[simp] theorem chainSt_setChain (k x s) : chainSt (setChain k x s) k = x := Tab.lookD_put_same _ _ _ _
theorem chainSt_setChain_ne {j k : Nat} (x s) (h : j ≠ k) : chainSt (setChain k x s) j = chainSt s j := Tab.lookD_put_ne _ _ _ h
@[simp] theorem inSt_setIn (k x s) : inSt (setIn k x s) k = x := Tab.lookD_put_same _ _ _ _
theorem inSt_setIn_ne {j k : Nat} (x s) (h : j ≠ k) : inSt (setIn k x s) j = inSt s j := Tab.lookD_put_ne _ _ _ h
@[simp] theorem outSt_setOut (k x s) : outSt (setOut k x s) k = x := Tab.lookD_put_same _ _ _ _
theorem outSt_setOut_ne {j k : Nat} (x s) (h : j ≠ k) : outSt (setOut k x s) j = outSt s j := Tab.lookD_put_ne _ _ _ h
@[simp] theorem tineOf_setTine (k x s) : tineOf (setTine k x s) k = x := Tab.lookD_put_same _ _ _ _
theorem tineOf_setTine_ne {j k : Nat} (x s) (h : j ≠ k) : tineOf (setTine k x s) j = tineOf s j := Tab.lookD_put_ne _ _ _ h
@[simp] theorem slotOf_setSlot (k x s) : slotOf (setSlot k x s) k = x := Tab.lookD_put_same _ _ _ _
theorem slotOf_setSlot_ne {j k : Nat} (x s) (h : j ≠ k) : slotOf (setSlot k x s) j = slotOf s j := Tab.lookD_put_ne _ _ _ h
@[simp] theorem unitOf_setUnit (k x s) : unitOf (setUnit k x s) k = x := Tab.lookD_put_same _ _ _ _
theorem unitOf_setUnit_ne {j k : Nat} (x s) (h : j ≠ k) : unitOf (setUnit k x s) j = unitOf s j := Tab.lookD_put_ne _ _ _ h
@[simp] theorem calOf_setCal (k x s) : calOf (setCal k x s) k = x := Tab.lookD_put_same _ _ _ _
theorem calOf_setCal_ne {j k : Nat} (x s) (h : j ≠ k) : calOf (setCal k x s) j = calOf s j := Tab.lookD_put_ne _ _ _ h
@[simp] theorem pairOf_setPair (k x s) : pairOf (setPair k x s) k = x := Tab.lookD_put_same _ _ _ _
theorem pairOf_setPair_ne {j k : Nat} (x s) (h : j ≠ k) : pairOf (setPair k x s) j = pairOf s j := Tab.lookD_put_ne _ _ _ h
@[simp] theorem bindOf_setBind (k x s) : bindOf (setBind k x s) k = x := Tab.lookD_put_same _ _ _ _
theorem bindOf_setBind_ne {j k : Nat} (x s) (h : j ≠ k) : bindOf (setBind k x s) j = bindOf s j := Tab.lookD_put_ne _ _ _ h

@[simp] theorem rd_wr (off v s) : rd (wr off v s) off = v := Tab.lookD_put_same _ _ _ _
theorem rd_wr_ne {off x : Nat} (v s) (h : x ≠ off) : rd (wr off v s) x = rd s x := Tab.lookD_put_ne _ _ _ h
theorem queueOf_setQueue (g i q s) :
    queueOf (setQueue g i q s) g i = if g < 4 then q else q.timed (qDepth s g) (now s) := Tab.lookD_put_same _ _ _ _
@[simp] theorem Queue.timed_words (q d t) : (Queue.timed q d t).words = q.words := by unfold Queue.timed; split <;> rfl
@[simp] theorem queueOf_setQueue_words (g i q s) : (queueOf (setQueue g i q s) g i).words = q.words := by
  rw [queueOf_setQueue]; split <;> simp
theorem queueOf_setQueue_ne {g i h j : Nat} (q s) (e : qkey h j ≠ qkey g i) :
    queueOf (setQueue g i q s) h j = queueOf s h j := Tab.lookD_put_ne _ _ _ e
theorem rd_stick (off i s) : rd (stick off i s) off = rd s off ||| BitVec.ofNat 32 (2 ^ i) := rd_wr _ _ _
theorem rd_stick_ne {off x : Nat} (i s) (h : x ≠ off) : rd (stick off i s) x = rd s x := rd_wr_ne _ _ h
/-- Raising an event changes the one word of pending bits that holds it. -/
theorem rd_raise (n s) : rd (raise n s) (evtReg n) = rd s (evtReg n) ||| BitVec.ofNat 32 (2 ^ (n % 32)) :=
  Tab.lookD_put_same _ _ _ _
theorem rd_raise_ne {n x : Nat} (s) (h : x ≠ evtReg n) : rd (raise n s) x = rd s x := Tab.lookD_put_ne _ _ _ h

end Sys2Proof.Machine
end

