-- ==== Sys2Proof/Laws/Ops.lean ====
section
/-! SUPPORT. What the shared operations over registers, events and time do, said once. -/

namespace Sys2Proof.Machine

theorem bitB_testBit (w i : Nat) : bitB w i = w.testBit i := by
  simp only [bitB, Nat.testBit, Nat.shiftRight_eq_div_pow, Nat.one_and_eq_mod_two]
  rcases Nat.mod_two_eq_zero_or_one (w / 2 ^ i) with h | h <;> simp [h]
/-- An event that is raised is pending. -/
theorem evtPending_raise (n s) : evtPending (raise n s) n = true := by
  have h2 : (2 : Nat) ^ (n % 32) < 4294967296 := Nat.pow_lt_pow_right (by decide) (Nat.mod_lt _ (by decide))
  simp only [evtPending, rd_raise, bitB_testBit, BitVec.toNat_or, BitVec.toNat_ofNat, Nat.testBit_or]
  rw [Nat.mod_eq_of_lt h2, Nat.testBit_two_pow_self, Bool.or_true]
/-- A stopped time base does not move. -/
theorem advance_stopped {s : State} (t) (h : s.tb.running = false) : advance t s = s := by
  have e : (if s.tb.running then max s.tb.n ((((t : Int) - s.tb.phi) / 64).toNat) else s.tb.n) = s.tb.n := by rw [h]; rfl
  show { s with tb := { s.tb with n := if s.tb.running then max s.tb.n ((((t : Int) - s.tb.phi) / 64).toNat) else s.tb.n } } = s
  rw [e]
/-- Passing time never moves the TB counter back (R23). -/
theorem advance_mono (t : Tick) (s : State) : s.tb.n ≤ (advance t s).tb.n := by
  simp only [advance]
  split <;> omega
@[simp] theorem advance_phi (t s) : (advance t s).tb.phi = s.tb.phi := rfl
@[simp] theorem advance_running (t s) : (advance t s).tb.running = s.tb.running := rfl
/-- A setting in a tick in which nothing was set keeps what the register held and what was set (R11). -/
theorem noteSet_new {s : State} {k : Nat} (join was d) (hr : s.tb.running = true) (hf : freshNow s k = none) :
    noteSet join k was d s = Tab.put s.fresh k ⟨was, d, now s⟩ := by
  simp [noteSet, hf, hr]
/-- A second setting of one tick joins the first (R11). -/
theorem noteSet_again {s : State} {k : Nat} {f : Fresh} (join was d) (hf : freshNow s k = some f) :
    noteSet join k was d s = Tab.put s.fresh k { f with put := join f.put d } := by
  simp [noteSet, hf]
/-- While the TB counter does not run no setting shares a tick with another happening. -/
theorem freshNow_stopped {s : State} (k : Nat) (h : s.tb.running = false) : freshNow s k = none := by
  simp [freshNow, h]
/-- What a read has answered is no setting of its tick any more (R11). -/
theorem freshNow_del (s : State) (k : Nat) : freshNow { s with fresh := Tab.del s.fresh k } k = none := by
  simp [freshNow]

end Sys2Proof.Machine
end

