-- ==== Sys2Proof/WellFormed.lean ====
section
/-! DEFINITION. Well-formed commands: the lengths of the operands that stand for fixed-size objects of the spec, and the ranges
of the numbers that stand for a link width or speed. A meaning does not depend on it: an operand of another length is
read with zeros for what it lacks. -/

namespace Sys2Proof

/-- One calibration pass: 97 counts (R57). -/
def passWf (p : PassCounts) : Bool := decide (p.length = 97)

/-- A link width (R463, R467). -/
def laneCount (n : Nat) : Bool := decide (n = 1) || decide (n = 2) || decide (n = 4) || decide (n = 8)

/-- The safety area (R423, R458): 64-byte log entries, 32-byte journal entries. -/
def SafetyArea.wf (a : SafetyArea) : Bool :=
  a.log.all (fun e => decide (e.length = 64)) && a.journal.all fun e => decide (e.length = 32)

/-- What step 3 reads (R433, R434, R450): 64-byte directory copies and 256-byte headers. -/
def NvmRead.wf (r : NvmRead) : Bool :=
  decide (r.dir0.length = 64) && decide (r.dir1.length = 64) && decide (r.hdrA.length = 256) && decide (r.hdrB.length = 256)
    && SafetyArea.wf r.safety

/-- An epoch's report (R327): twelve plots, five deferrable items, five rails. -/
def EpochReport.wf (r : EpochReport) : Bool :=
  decide (r.plots.length = 12) && decide (r.items.length = 5) && decide (r.railPlots.length = 5)
    && r.railPlots.all (fun l => decide (l.length = 12)) && decide (r.railItems.length = 5)
    && r.railItems.all (fun l => decide (l.length = 5)) && decide (r.railFib.length = 5)

/-- A housekeeping round (R336): 24 sensors, twelve supply monitors, 32 strips. -/
def HkRound.wf (r : HkRound) : Bool :=
  decide (r.sensors.length = 24) && decide (r.supplies.length = 12) && decide (r.bias.length = 32)

/-- An attestation (R364, R366): CAP 64 bytes, certificate 29,936, signature 49,856. -/
def Attestation.wf (a : Attestation) : Bool :=
  decide (a.cap.length = 64) && decide (a.cert.length = 29936) && decide (a.sig.length = 49856)

/-- The command's operands have the sizes the spec gives them (DESIGN CHOICE, log entry 56). -/
def Instr.wf (i : Instr) : Bool :=
  match i with
  | .porNRelease _ | .porNAssert => true
  | .nvmHeadersRead r => NvmRead.wf r
  | .imageStageDone _ _ _ | .bistDone _ _ _ | .clocheSelftestDone _ _ | .startupCalDone _ | .railMeasureDone _ _ _
  | .firstFrameStart _ _ _ | .tbPllLocked | .tbPllLockTimeout | .tbsPllLockLost _ | .tbsRefLost _ | .tbsWarm => true
  | .epochStart r _ => EpochReport.wf r
  | .grantComputed _ => true
  | .widthRetrainDone width => laneCount width
  | .housekeepingRound r _ => HkRound.wf r
  | .supplyCollapse _ _ | .stopDeadline _ | .queueDrainDone _ | .columnBoundary _ | .indexEdge _ | .esqIndexMissing _
  | .frameStart _ | .slotDecision _ _ | .shotFire _ _ | .blankStart _ _ | .blankEnd _ _ | .spadRearm _ _ _
  | .coincidenceEdge _ _ _ | .stampAccumulate _ _ | .confidenceUpdate _ _ | .followerLock _ _
  | .stripColumnDone _ _ _ | .mergeDeadline _ | .fieldVerdict _ | .calPassEnd _ _ | .tdcCalStarved _ _
  | .tdcCalReq _ _ => true
  | .auxRotationStep attempts _ => attempts.all fun a => passWf a.1 && passWf a.2.1 && passWf a.2.2
  | .auxOverlapEnd _ | .tsiEdge _ _ _ _ _ | .windowOpen _ _ | .windowClose _ _ | .estimatorGateEnd _ _
  | .sweepBoundary _ | .adcTrigEdge _ _ _ | .fibTrigMissing _ | .aomgGateOpen _ _ | .aomgGateClose _ _
  | .slotProcess _ _ _ _ | .estimationBlockDone _ _ _ | .fibCalCycleStart _ _ | .zoneIntervalEnd | .endEvaluation
  | .fibSurveyDone | .dtsBlockDone | .fibDtsProfile | .fdcInput _ _ _ | .fdcSweepItem | .captureItemArrive _ _ _
  | .captureFrameClose _ _ | .refEvaluation _ | .captureReadDone _ _ | .tineItemArrive _ _ _ | .tineJobClose _
  | .tineJobDispatch _ | .tineAlu _ _ _ _ _ _ _ _ | .tineMac _ _ _ _ _ _ _ _ _ _ _ _ | .tineAcc _ _ _ _ _ _ _ _
  | .tineLdst _ _ _ _ _ _ _ | .tineAddr _ _ _ _ _ _ | .tineBr _ _ | .tineCall _ _ | .tineRet _ | .tineRep _ _ _ _
  | .tineNop _ | .tineEnd _ | .tineSpec _ _ _ _ _ | .tineDmaStart _ _ _ _ _ _ | .tineDmaWait _ _ | .tineDmaDone _ _
  | .tineEmit _ _ _ _ | .tinStepLimit _ | .tinEcc _ _ _ _ | .loopSample _ _ _ _ | .lspEdge _ _ _ | .cleSpLost _ _
  | .asfConversion _ _ _ _ _ | .mulchBlockStart | .mulchBlockDone _ _ _ | .bpQueueSpace _ | .qsyStall _ _
  | .planItem _ _ | .swapItem _ _ | .flushItem _ _ _ _ | .grantItem _ _ | .fenceItem _ _ | .graftItem _ _
  | .markItem _ _ | .calItem _ _ | .laneTrained _ _ _ _ _ | .portAbsentTimeout _ _ | .dnRetryTimer _
  | .laneExitTimeout _ _ | .fecUncorrectable _ _ | .startBlock _ _ _ _ _ _ _ _ _ | .credit _ _ _ _ | .laneStatus _ _
  | .laneRequest _ _ | .laneReady _ | .laneSwitch _ _ | .laneFenceNotice _ _ | .vc0RetryTimeout _ _
  | .commaDepart _ _ _ _ | .commaArrive _ _ _ _ => true
  | .enum _ nonce att => decide (nonce.length = 32) && Attestation.wf att
  | .attest att => Attestation.wf att
  | .attestVerifyDone _ _ => true
  | .signDone sig _ => decide (sig.length = 49856)
  | .accept _ | .reject _ _ => true
  | .capReport _ _ cap _ => decide (cap.length = 64)
  | .enumTimeout _ => true
  | .reenum _ nonce => decide (nonce.length = 32)
  | .align _ _ _ _ _ => true
  | .start _ grants _ => decide (grants.length = 16)
  | .swapPrepare _ _ _ _ | .swapReady _ _ | .swapCommit _ | .swapCancel _ => true
  | .order _ args _ _ => decide (args.length ≤ 104)
  | .frameClose _ _ _ _ | .mergeWaitExpire _ _ _ | .forwardedItem _ _ | .join _ _ => true
  | .deepCounts _ counts nEn _ => decide (counts.length = 512) && decide (nEn.length = 512)
  | .deepFire _ | .deepWin _ _ _ | .deepHist _ _ | .samples _ _ _ _ | .cableLengthUpdate _ _ | .evaluationCycle _ _ _
  | .safeInputChange _ _ | .siFilterExpire _ | .testPulseStart _ | .testPulseEnd _ _ _ _ | .discrepancyTimeout _ _ _
  | .twohandTimeout _ | .switchTest _ _ _ _ | .switchTestEnd _ _ _ _ | .diagIntervalFault _ _ _ | .heartbeat
  | .heartbeatTimeout _ | .partStop _ | .islandFault _ _ | .verdictWordArrive _ _ _ | .tineResultArrive _ _ _ _ _
  | .verdictDeadline _ _ _ | .zoneWordArrive _ _ _ | .classifierDeadline _ _ | .brakeTestDue _
  | .brakeWindowResult _ _ _ | .brakeResultTimeout _ | .brakeTestOverdue _ _ | .poweredTimeTick | .resetRelease _
  | .resetHoldTimeout _ | .bcTxPeriod _ _ => true
  | .bcMessageReceive _ msg _ => decide (msg.length = 32)
  | .bcTimeout _ _ => true
  | .inboundDoorbell _ slot => decide (slot.length = 32)
  | .sessionTimeout | .passwordLockExpire | .nop _ | .planSelect _ _ _ | .flush _ _ _ | .captureTrigger _ _
  | .captureAbort _ _ | .captureRead _ _ | .captureRelease _ _ | .captureRearm _ _ | .faultClear _ _ | .graft _ _
  | .graftSelftestDone _ _ => true
  | .cloLogin _ len password => decide (password.length ≤ 64) && decide (len.toNat ≤ 64)
  | .cloStage _ _ _ => true
  | .cloCommit _ _ _ _ password => decide (password.length ≤ 64)
  | .cloLogout _ => true
  | .secKeyProgram _ _ _ hash => decide (hash.length = 32)
  | .secRevoke _ _ _ | .secConfirm _ | .imgWrite _ _ _ | .recoverGo _ _ => true
  | .bootDirWrite _ dir => decide (dir.length = 60)
  | .unknownCommand _ _ | .backgroundCommandDone _ _ _ | .registerWrite _ _ _ | .rcRead _ | .readLowWord _
  | .unsupportedRequest | .ringEnable _ _ _ | .ringDisable _ _ _ _ | .c2hProdWrite _ _ | .c2hItemDeliver _ _ _ _
  | .bufferCloseTimeout _ _ => true
  | .h2cReadDone _ desc bytes ok _ => !ok || decide (bytes.length ≤ desc.len)
  | .msixSend _ | .perst _ | .pcieLinkDown _ | .d0Return | .faultMessage _ | .memoryEccError _ _ _
  | .spadAvalanche _ _ _ | .calSourceEdge _ _ _ | .adcSampleWord _ _ _ => true
  | .dataLinkUp speed width => decide (1 ≤ speed) && decide (speed ≤ 5) && laneCount width
  | .reservedLinkBlock _ _ | .reservedMessageType _ _ => true

end Sys2Proof
end

