-- ==== Sys2Proof/Tests/Slice0.lean ====
section
/-! SUPPORT. Tests: ill-formed terms that WellFormed refuses, single commands on small states, and for every obligation with
hypotheses a state and operands that meet them. -/

set_option Elab.async false
namespace Sys2Proof.Tests
open Sys2Proof Sys2Proof.Machine

/-- A body of `n` bytes with 32-bit words at the offsets listed. -/
def testBytes (n : Nat) (l : List (Nat × Nat)) : List Byte :=
  (List.range n).map fun i => BitVec.ofNat 8 (Tab.lookD l (i / 4 * 4) 0 / 256 ^ (i % 4))
/-- A record of a type for every part. -/
def testRec (type n : Nat) (l : List (Nat × Nat)) : ImgRec := ⟨type, 0xFFFF, 0, testBytes n l⟩
def testCfg (l : List ImgRec) : CfgSt := { recs := l, applied := true }
def testRegs (l : List (Nat × Word32)) : Tab Word32 := l.foldl (fun t e => Tab.put t e.1 e.2) []
def testEntry : Entry := ⟨1, none, false, 0⟩
def testLidar : ImgRec := testRec 0x0101 4 [(0, 1)]
def testFibre : ImgRec := testRec 0x0101 4 [(0, 2)]
def testPlan : ImgRec := testRec 0x0701 256 [(4, 8 * 65536), (8, 4 * 4096), (0x0C, 16)]
def testFibPlan : ImgRec := testRec 0x0901 64 [(0, 0x200), (8, 1000), (0x0C, 100)]
def testTrigPlan : ImgRec := testRec 0x0901 64 [(0, 0x210), (8, 1000)]
def testSurveyPlan : ImgRec := testRec 0x0901 64 [(0, 0x120), (8, 1000)]
def testFibConst : ImgRec := testRec 0x0902 64 [(0x18, 4)]
def testCapture : ImgRec := testRec 0x0B01 128 [(0, 1 + 256), (8, 0x00100000), (0x18, 9 + 2 * 256)]
def testSlot : ImgRec := testRec 0x0C01 128 [(0, 1 + 256), (4, 0xFFFFFFFF), (8, 100), (0x0C, 0xFFFF), (0x10, 9 + 2 * 256), (0x24, 4096)]
def testCascade : ImgRec := testRec 0x1401 128 []
def testJob (p : JobPhase) : Job := ⟨0, 1, 0, [], [], 0, false, p, 0, false, [], false, false, false, false⟩
def testTine (x : TineSt) : State :=
  { cfg := testCfg [testSlot], tin := { tines := [(2, x)], slots := [(1, { jobs := [testJob (.running 2)] })] } }
/-- A word of class `cls` and operation `op`, saturating, with the operand bits `x` (R252). -/
def testWord (cls op x : Nat) : Word64 := BitVec.ofNat 64 (cls * 2 ^ 60 + 2 ^ 59 + op * 2 ^ 48 + x)
/-- Tine 2 runs a job whose program is one word. -/
def testRun (cls op x : Nat) (y : TineSt) : State := testTine { y with busy := true, slot := 1, prog := [testWord cls op x] }
def testCtl (k a : Nat) : Item := ⟨BitVec.ofNat 64 (7 * 2 ^ 54 + 0x3F * 2 ^ 48), [BitVec.ofNat 64 (k * 2 ^ 56 + a)]⟩

def testHdr : List Byte := testBytes 256
  [(0, 0x4D494C48), (4, 1 + 256 * 65536), (8, 256 + 32 + 29864), (12, 1), (16, 0xB1 * 256 + 3 * 65536), (20, 1), (24, 256), (28, 32), (32, 256 + 32)]
def testDir : List Byte :=
  let l := testBytes 60 [(0, 0x44494C48), (4, 65536), (8, 131072), (12, 65536), (16, 196608)]
  l ++ leBytes 4 (crc32c l)
def testNvm : NvmRead := ⟨true, 32, testDir, [], testHdr, [], ⟨[], [], [], []⟩, true⟩
theorem test_header : headerCause ({ boot := { step := 3 } } : State) testNvm.hdrA (leAt testNvm.dir0 12 4) = 0 := by
  unfold headerCause; generalize Config.variantIN = v; cases v <;> decide +kernel
/-- A safety block with words at the offsets of R425. -/
def testClo (l : List (Nat × Nat)) (c : CloSt) : State :=
  { boot := { step := 12 }, clo := { c with block := testBytes 512 (l.map fun e => (0x40 + e.1, e.2)), passed := true } }
def testClo1 : State := testClo [(0x24, 1 + 65536 * 3)] { inputs := [(0, { filt := true })] }
def testClo3 : State := testClo [(0x24, 3 + 65536 * 15)] { chains := [(0, { oneRun := 2000 })], inputs := [(0, { filt := true })] }
def testCloOut : State := testClo [(0x144, 8), (0x24, 1 + 65536 * 3)] { minutes := 1440, outs := [(0, { hd := true, ld := true })] }
def testCloBrake : State := testClo [(0x24, 5)] {}
def testCloPulse : State := testClo [(0, 65536 * 10)] {}
def testCloTx : State := testClo [(0x164, 77), (0x16C, 100)] { cyc := 1000000 }
def testCloDue : State := testClo [(0x24, 5)] { chains := [(0, { brake := 1 })] }
def testCloConn : State := testClo [(0x164, 77), (0x16C, 100)] {}
def testMsg : List Byte :=
  let l := testBytes 28 [(0, 77), (4, 9), (12, 100 + 65536 * 0x81 + 16777216 * 2)]
  l ++ leBytes 4 (crc32k 0xFFFFFFFF (l ++ leBytes 4 77))
def testRing : State :=
  { regs := [((Fld.HIF_STREAM_MAP_enable 0).reg, 0x100000)],
    qsy := { queues := [(4096, { words := [⟨7, true, true, true, 0⟩] })] },
    hif := { linkUp := true, c2h := [(0, { running := true, buf := some ⟨⟨0, 4096, false, false⟩, [], 0, 0, [], 0⟩ })] } }
/-- A message to the Cloche whose words' CRCs hold. -/
def testX12 (k : X12Kind) (f : Nat) (l : List Nat) : X12Msg := ⟨k, f, l.map fun n => (BitVec.ofNat 64 n, crc32c (leBytes 8 n)), 0⟩
/-- A partner in a shared fibre. -/
def testPartner : State := { cfg := testCfg [testRec 0x1401 128 [(0x40, 8)]], trl := { shared := true, enumerated := true, accepted := true } }
/-- The counts of a pass with a hit in every bin. -/
def testPass : List Nat := List.replicate 97 20000
theorem test_no_tine : ∀ m q, slotRec
  ({ cfg := testCfg [testSlot], tin := { slots := [(1, { jobs := [testJob .waiting] })], grant := List.replicate 64 1 } } : State) m = some
  q → noTine ({ cfg := testCfg [testSlot], tin := { slots := [(1, { jobs := [testJob .waiting] })], grant := List.replicate 64 1 } } :
  State) q = false := by
  intro m q h
  have hq : q = testSlot := by
    have := List.mem_of_find?_eq_some h
    simpa [recsOf, testCfg, testSlot, testRec] using this
  subst hq; decide +kernel
/-- A sector of every interval whose energy bound is 0. -/
def testLedger : State :=
  { cfg := testCfg [testLidar, testRec 0x0701 256 [(4, 8 * 65536), (8, 4 * 4096), (0x0C, 16), (0x48, 500 * 65536)], testRec 0x0702 128 [(0, 1000), (8, 1), (0x14, 1), (0x50, 0xFFFFFFFF), (0x54, 4)]], esq := { plan := some 0 } }
def testBack : State :=
  { boot := { step := 12, dirCopy := 1, slotSize := 65536, running := 1 }, hif := { background := some (.host 0, .imgWrite false 4096) } }


/-! Ill-formed terms, one for each check of WellFormed. -/

def testHdr256 : List Byte := List.replicate 256 0
def testRound : HkRound := ⟨List.replicate 24 ⟨0, 0, true⟩, List.replicate 12 0, List.replicate 32 0, false, false⟩
def testReport : EpochReport :=
  ⟨List.replicate 12 0, List.replicate 5 0, 0, List.replicate 5 (List.replicate 12 0), List.replicate 5 (List.replicate 5 0), List.replicate 5 0⟩

theorem test_wf_headers :
    Instr.wf (.nvmHeadersRead ⟨true, 32, List.replicate 64 0, List.replicate 64 0, testHdr256, testHdr256, ⟨[], [], [], []⟩, true⟩) = true ∧
    Instr.wf (.nvmHeadersRead ⟨true, 32, List.replicate 63 0, List.replicate 64 0, testHdr256, testHdr256, ⟨[], [], [], []⟩, true⟩) = false ∧
    Instr.wf (.nvmHeadersRead ⟨true, 32, List.replicate 64 0, [], testHdr256, testHdr256, ⟨[], [], [], []⟩, true⟩) = false ∧
    Instr.wf (.nvmHeadersRead ⟨true, 32, List.replicate 64 0, List.replicate 64 0, [], testHdr256, ⟨[], [], [], []⟩, true⟩) = false ∧
    Instr.wf (.nvmHeadersRead ⟨true, 32, List.replicate 64 0, List.replicate 64 0, testHdr256, [], ⟨[], [], [], []⟩, true⟩) = false ∧
    SafetyArea.wf ⟨[], [], [[1]], []⟩ = false ∧ SafetyArea.wf ⟨[], [], [], [[1]]⟩ = false := by decide +kernel
theorem test_wf_reports :
    Instr.wf (.epochStart testReport 0) = true ∧ Instr.wf (.epochStart { testReport with plots := [] } 0) = false ∧
    Instr.wf (.epochStart { testReport with items := [] } 0) = false ∧ Instr.wf (.epochStart { testReport with railPlots := [] } 0) = false ∧
    Instr.wf (.epochStart { testReport with railPlots := List.replicate 5 [] } 0) = false ∧
    Instr.wf (.epochStart { testReport with railItems := [] } 0) = false ∧
    Instr.wf (.epochStart { testReport with railItems := List.replicate 5 [] } 0) = false ∧
    Instr.wf (.epochStart { testReport with railFib := [] } 0) = false ∧
    Instr.wf (.housekeepingRound testRound 0) = true ∧ Instr.wf (.housekeepingRound { testRound with sensors := [] } 0) = false ∧
    Instr.wf (.housekeepingRound { testRound with supplies := [] } 0) = false ∧
    Instr.wf (.housekeepingRound { testRound with bias := [] } 0) = false := by decide +kernel
theorem test_wf_link :
    Instr.wf (.widthRetrainDone 3) = false ∧ Instr.wf (.dataLinkUp 6 8) = false ∧ Instr.wf (.dataLinkUp 0 8) = false ∧
    Instr.wf (.dataLinkUp 5 16) = false ∧ Instr.wf (.dataLinkUp 5 8) = true ∧ Instr.wf (.reenum 2 []) = false ∧
    Instr.wf (.attest ⟨[], [], []⟩) = false ∧ Instr.wf (.signDone [] 0) = false ∧
    Instr.wf (.start 0 [] 0) = false := by decide +kernel
theorem test_wf_host :
    Instr.wf (.cloLogin testEntry 65 []) = false ∧ Instr.wf (.secKeyProgram testEntry 0 1 [1]) = false ∧
    Instr.wf (.bootDirWrite testEntry []) = false ∧ Instr.wf (.bcMessageReceive 0 [] 0) = false ∧
    Instr.wf (.inboundDoorbell 0 []) = false ∧ Instr.wf (.auxRotationStep [([], [], [])] 0) = false ∧
    Instr.wf (.h2cReadDone 0 ⟨0, 1, false, false⟩ [1, 2] true 0) = false := by decide +kernel

/-! One command on a small state; the expected values are worked out by hand from the rules named. -/

/-- What a command's next state shows. -/
def after {α : Type} (c : Instr) (s : State) (f : State → α) : Option α :=
  match exec c s with
  | .next t => some (f t)
  | _ => none

/-- The check value of CRC-32C over the nine digits. -/
theorem test_crc32c : crc32c (["1", "2", "3", "4", "5", "6", "7", "8", "9"].map fun c => BitVec.ofNat 8 (c.front.toNat)) = 0xE3069283 := by
  decide +kernel
theorem test_decode_none : decodeTableWord 32 0xFFFFFFFF = none ∧ (State.reset.withFetchWord 32 5) = State.reset := ⟨rfl, rfl⟩
/-- R47: the empty queue passes an edge of 64 ticks while the PLL runs. -/
theorem test_idle_edge :
    (match step { ({} : State) with tb := { running := true, n := 7 } } with | .next t => some (now t) | _ => none) = some 512 := by
  decide +kernel
/-- R432: BOOT_MODE 1 without COMMISSION is a strap fault; mode 0 alone is none. -/
theorem test_straps :
    after (.porNRelease ⟨1, false, false, false⟩) {} (fun t => (t.boot.step, evtPending t 0)) = some (15, true) ∧
    after (.porNRelease ⟨0, false, false, false⟩) {} (fun t => (t.boot.step, evtPending t 0)) = some (3, false) := by decide +kernel
/-- R51: an edge 127 ticks after the last is hidden, one 128 ticks after is taken. -/
theorem test_dead_time :
    let s (l : Tick) : State := { cfg := testCfg [testLidar], pfe := { edges := [(7, [60])] }, tdc := { lastEdge := [(7, l)] } }
    after (.coincidenceEdge 7 0 1128) (s 1001) (fun t => Tab.look t.tdc.lastEdge 7) = some (some 1001) ∧
    after (.coincidenceEdge 7 0 1128) (s 1000) (fun t => Tab.look t.tdc.lastEdge 7) = some (some 1128) := by decide +kernel
/-- R318: the 33rd word of a stamp queue drops the first and raises EVT 69. -/
theorem test_full_rt_queue :
    let s := pushRT 0 5 9 ({ qsy := { queues := [(5, { words := (List.range 32).map fun k => ⟨BitVec.ofNat 64 k, true, true, true, 0⟩ })] } } : State)
    ((queueOf s 0 5).words.map (·.data)).head? = some 1 ∧ (queueOf s 0 5).words.length = 32 ∧ evtPending s 69 = true := by decide +kernel
/-- The words of a tine's program (R252): an addition of 1 to D1 into D0, the same with saturation under condition Z, an EMIT of 4
words from the address in A1, and a class that is reserved. -/
theorem test_tine_words :
    decodeTine 2 0x0000010400000001 = some (.tineAlu ⟨2, false, .always⟩ .add 0 1 0 false true 1) ∧
    decodeTine 2 0x0900010400000001 = some (.tineAlu ⟨2, true, .z⟩ .add 0 1 0 false true 1) ∧
    decodeTine 2 0x8000080000000004 = some (.tineEmit ⟨2, false, .always⟩ 1 none 4) ∧
    decodeTine 2 0x9000000000000000 = none := by decide +kernel
/-- R246: 0x7FFF + 1 without and with saturation. -/
theorem test_tine_add :
    let s (w : Word64) := testTine { busy := true, slot := 1, d := [0, 0x7FFF] ++ List.replicate 14 0, prog := [w] }
    after (.tineAlu ⟨2, false, .always⟩ .add 0 1 0 false true 1) (s 0x0000010400000001)
      (fun t => ((tineOf t 2).d.getD 0 0, (tineOf t 2).z, (tineOf t 2).n)) = some (0x8000, false, true) ∧
    after (.tineAlu ⟨2, true, .always⟩ .add 0 1 0 false true 1) (s 0x0800010400000001)
      (fun t => ((tineOf t 2).d.getD 0 0, (tineOf t 2).ovf)) = some (0x7FFF, true) := by decide +kernel
/-- A condition that does not hold leaves the destination alone, and the step counts (R252). -/
theorem test_tine_condition :
    let s := testTine { busy := true, slot := 1, d := [0, 0x7FFF] ++ List.replicate 14 0, prog := [0x0100010400000001] }
    after (.tineAlu ⟨2, false, .z⟩ .add 0 1 0 false true 1) s (fun t => ((tineOf t 2).d, (tineOf t 2).steps))
      = some ((tineOf s 2).d, 1) := by decide +kernel
/-- R10: a selector beyond the ten queue groups is rejected and counted; 9 is stored. -/
theorem test_selector_limit :
    after (.registerWrite Reg.QSY_GROUP_SEL 10 0) testBack
      (fun t => (rd t Reg.QSY_GROUP_SEL, bits (rd t Reg.HIF_REJECT).toNat 0 16)) = some (0, 1) ∧
    after (.registerWrite Reg.QSY_GROUP_SEL 9 0) testBack
      (fun t => (rd t Reg.QSY_GROUP_SEL, bits (rd t Reg.HIF_REJECT).toNat 0 16)) = some (9, 0) := by decide +kernel
/-- R483: a command whose code is unknown ends, and a NOP ends with OK. -/
theorem test_command_ring :
    after (.nop testEntry) {} (fun t => (Tab.look t.hif.cmds 0).map fun r => (r.done, r.status)) = some (some (true, 1)) ∧
    (after (.unknownCommand testEntry 0x77) {} fun t => (Tab.look t.hif.cmds 0).map fun r => (r.done, r.status))
      = some (some (true, 13)) := by decide +kernel
/-- R496: a corrected message of a queue memory fences nothing, a contained one of HSE unit 31 fences it. -/
theorem test_fault_classes :
    after (.faultMessage ⟨640, 8, .corrected, 31, 0x200, 0⟩) {} (fun t => (isFenced t 31, t.fcl.logTotal)) = some (false, 1) ∧
    after (.faultMessage ⟨640, 8, .contained, 31, 0x201, 0⟩) {} (fun t => (isFenced t 31, t.fcl.logTotal)) = some (true, 1) := by
  decide +kernel
/-- R103: 2 us less one ns after the bank's last pulse a shot is suppressed, 2 us after it is placed. -/
theorem test_spacing :
    ((placeShot 0 2 ({ esq := { lastPulse := [(2, 0)], col := { start := 127936, nomEnd := 127936 } } } : State)).esq.shots.length,
      (placeShot 0 2 ({ esq := { lastPulse := [(2, 0)], col := { start := 128000, nomEnd := 128000 } } } : State)).esq.shots.length)
      = (0, 1) := by decide +kernel
/-- R387, R498: a part stop locks every output out, and both drives are 0 in the next cycle. -/
theorem test_part_stop :
    (after (.partStop 0) testCloOut fun t => (t.clo.partStop, (outSt t 0).hd)).map (·.1) = some true ∧
    after (.evaluationCycle 0 0 0) { testCloOut with clo := { testCloOut.clo with partStop := true } }
      (fun t => ((outSt t 0).hd, (outSt t 0).ld)) = some (false, false) := by decide +kernel
/-- R388: three words in a row that fail their CRC are a part stop; a good word between them is none. -/
theorem test_x12_stop :
    let s : State := { clo := { passed := true, toSafe := [testX12 .verdict 9 [0, 3, 0]] } }
    after (.verdictWordArrive 9 [1, 1, 1] 0) s (fun t => (t.clo.partStop, t.clo.x12Bad)) = some (true, 3) ∧
    after (.verdictWordArrive 9 [1, 3, 1] 0) s (fun t => (t.clo.partStop, t.clo.x12Bad)) = some (false, 1) := by decide +kernel
/-- The device ID, the subsystem of a part, and the adaptation step of each temperature band (R340, R356, R464). -/
theorem test_outputs :
    (configId .vendor, configId .device, configId .classCode) = (0x1F6A, 0x4512, 0x118000) ∧
    (fireLevel ({ esq := { fires := [(3, (100, 164))] } } : State) 3 163,
      fireLevel ({ esq := { fires := [(3, (100, 164))] } } : State) 3 164) = (true, false) ∧
    adaptStep ({} : State) = 1 / 4096 := by decide +kernel
/-- R11: an RC counter read in the tick of its second increment returns 1 and keeps 1; a later read clears it. -/
theorem test_rc_same_tick :
    let s : State := { boot := { step := 12 }, tb := { running := true, n := 4 }, regs := [(Reg.TDC_CAL_FAIL_COUNT, 1)] }
    let t := bump Reg.TDC_CAL_FAIL_COUNT 1 s
    after (.rcRead Reg.TDC_CAL_FAIL_COUNT) t (fun u => (u.hif.readData, rd u Reg.TDC_CAL_FAIL_COUNT)) = some (1, 1) ∧
    after (.rcRead Reg.TDC_CAL_FAIL_COUNT) (advance 320 t) (fun u => (u.hif.readData, rd u Reg.TDC_CAL_FAIL_COUNT)) = some (2, 0) := by
  decide +kernel

/-! Witnesses: for every clause of an obligation that has hypotheses, a state and operands that meet them together. -/

/-- Clauses 2, 3, 4, 5, 6, 7, 8, 9 of Obligations.StartUpCommandsComplete. -/
theorem test_startUpCommandsComplete_met :
    (strapFault ({} : State) (⟨0, true, false, false⟩ : Straps) = false) ∧
    (({ boot := { step := 3 } } : State).boot.step = 3 ∧ ({ boot := { step := 3 } } : State).boot.mode ≠ 2 ∧ testNvm.present = true ∧ 32 ≤
      testNvm.sizeMiB ∧ testNvm.sizeMiB ≤ 256 ∧ dirHolds testNvm.dir0 (testNvm.sizeMiB * 1048576) = true ∧ testNvm.katOk = true ∧
      headerCause ({ boot := { step := 3 } } : State) testNvm.hdrA (leAt testNvm.dir0 12 4) = 0) ∧
    (({ boot := { step := 4, candidates := [0, 1] } } : State).boot.step = 4 ∧ ({ boot := { step := 4, candidates := [0, 1] } } :
      State).boot.candidates = (0 : Nat) :: ([1] : List Nat)) ∧
    (({ boot := { step := 6 } } : State).boot.step = 6 ∧ mtNeedMax ({ boot := { step := 6 } } : State) ≤ (8 - ((List.range 8).filter fun b
      => (1 : BitVec 8).getLsbD b).length) * 32 * mib) ∧
    ((({ boot := { step := 6 } } : State).boot.step = 6 ∨ ({ boot := { step := 6 } } : State).boot.step = 7) ∧ ({ boot := { step := 6 } } :
      State).clo.passed = false ∧ (blockInForce (advance (0 : Nat) ({ boot := { step := 6 } } : State))).isSome = true ∧ selfTestOk
      (cloStart (advance (0 : Nat) ({ boot := { step := 6 } } : State))) (⟨true, true, true, true, 15⟩ : SelfTest) = true) ∧
    (({ boot := { step := 8 }, pfe := { mapValid := true } } : State).boot.step = 8 ∧ (hasLidar
      ({ boot := { step := 8 }, pfe := { mapValid := true } } : State) = true → ({ boot := { step := 8 }, pfe := { mapValid := true } } :
      State).pfe.mapValid = true) ∧ ((∀ k < 52, (calOf ({ boot := { step := 8 }, pfe := { mapValid := true } } : State) k).phase = .idle)))
      ∧
    (({ boot := { step := 10 } } : State).boot.step = 10 ∧ railMeasuring ({ boot := { step := 10 } } : State) = some (0 : Fin 4).val) ∧
    (({ boot := { step := 11 }, cfg := testCfg [testLidar], esq := { pend := [⟨64, 0, false, true, false, 0⟩] } } : State).boot.step = 11 ∧
      hasLidar ({ boot := { step := 11 }, cfg := testCfg [testLidar], esq := { pend := [⟨64, 0, false, true, false, 0⟩] } } : State) = true
      ∧ firstPend ({ boot := { step := 11 }, cfg := testCfg [testLidar], esq := { pend := [⟨64, 0, false, true, false, 0⟩] } } : State) (64
      : Nat) = some (⟨64, 0, false, true, false, 0⟩ : PendFrame)) :=
  ⟨by decide +kernel,
    ⟨by decide +kernel, by decide +kernel, by decide +kernel, by decide +kernel, by decide +kernel, by decide +kernel, by decide +kernel,
      test_header⟩,
    ⟨by decide +kernel, by decide +kernel⟩,
    ⟨by decide +kernel, by decide +kernel⟩,
    ⟨by decide +kernel, by decide +kernel, by decide +kernel, by decide +kernel⟩,
    ⟨by decide +kernel, by decide +kernel, by decide +kernel⟩,
    ⟨by decide +kernel, by decide +kernel⟩,
    ⟨by decide +kernel, by decide +kernel, by decide +kernel⟩⟩

/-- Clauses 1, 2, 3, 4, 5 of Obligations.TimeBaseCommandsComplete. -/
theorem test_timeBaseCommandsComplete_met :
    (({ tb := { enabled := true } } : State).tb.enabled = true ∧ ({ tb := { enabled := true } } : State).tb.pllLock = false) ∧
    (({ tb := { enabled := true } } : State).tb.enabled = true ∧ ({ tb := { enabled := true } } : State).tb.everLock = false ∧
      ({ tb := { enabled := true } } : State).boot.step ≠ 15) ∧
    (({ tb := { everLock := true, pllLock := true } } : State).tb.everLock = true ∧ ({ tb := { everLock := true, pllLock := true } } :
      State).tb.pllLock = true) ∧
    (({ tb := { everLock := true, refOk := true } } : State).tb.everLock = true ∧ ({ tb := { everLock := true, refOk := true } } :
      State).tb.refOk = true) ∧
    (({ tb := { started := true, held := 1000000 } } : State).tb.started = true ∧ ({ tb := { started := true, held := 1000000 } } :
      State).tb.warm = false ∧ warmRounds ({ tb := { started := true, held := 1000000 } } : State) ≤
      ({ tb := { started := true, held := 1000000 } } : State).tb.held) :=
  ⟨⟨by decide +kernel, by decide +kernel⟩,
    ⟨by decide +kernel, by decide +kernel, by decide +kernel⟩,
    ⟨by decide +kernel, by decide +kernel⟩,
    ⟨by decide +kernel, by decide +kernel⟩,
    ⟨by decide +kernel, by decide +kernel, by decide +kernel⟩⟩

/-- Clauses 1, 2, 3, 4, 5, 6 of Obligations.ArbiterAndHousekeepingCommandsComplete. -/
theorem test_arbiterAndHousekeepingCommandsComplete_met :
    (({ boot := { step := 12 } } : State).fcl.provisional = false ∧ 6 ≤ ({ boot := { step := 12 } } : State).boot.step ∧
      ({ boot := { step := 12 } } : State).boot.step ≠ 15 ∧ ({ boot := { step := 12 } } : State).hkp.hardCut = false ∧
      ({ boot := { step := 12 } } : State).hkp.orderly = false ∧ now (advance (0 : Nat) ({ boot := { step := 12 } } : State)) % epochTicks <
      64) ∧
    (({ ala := { computing := some ⟨[], [], 0, [], [], []⟩ } } : State).ala.computing = some (⟨[], [], 0, [], [], []⟩ : EpochReport)) ∧
    (({ tb := { running := true } } : State).tb.running = true ∧ now (advance (decisionTicks : Nat) ({ tb := { running := true } } : State))
      % roundTicks / 64 = decisionTicks / 64) ∧
    ((3 : Fin 12).val ≠ 8 ∧ ({ boot := { step := 12 } } : State).hkp.hardCut = false ∧ 6 ≤ ({ boot := { step := 12 } } : State).boot.step ∧
      ({ boot := { step := 12 } } : State).boot.step ≠ 15) ∧
    (({ hkp := { orderly := true } } : State).hkp.orderly = true ∧ ({ hkp := { orderly := true } } : State).hkp.stopAt + stopMaxTicks ≤
      (100000000000 : Nat)) ∧
    (({ hkp := { orderly := true } } : State).hkp.orderly = true ∧ ({ hkp := { orderly := true } } : State).hkp.drained = false) :=
  ⟨⟨by decide +kernel, by decide +kernel, by decide +kernel, by decide +kernel, by decide +kernel, by decide +kernel⟩,
    by decide +kernel,
    ⟨by decide +kernel, by decide +kernel⟩,
    ⟨by decide +kernel, by decide +kernel, by decide +kernel, by decide +kernel⟩,
    ⟨by decide +kernel, by decide +kernel⟩,
    ⟨by decide +kernel, by decide +kernel⟩⟩

/-- Clauses 1, 2, 3, 4 of Obligations.SequencerCommandsComplete. -/
theorem test_sequencerCommandsComplete_met :
    (({ cfg := testCfg [testPlan], esq := { plan := some 0, frame := { active := true }, col := { active := true } } } :
      State).esq.frame.active = true ∧
      ({ cfg := testCfg [testPlan], esq := { plan := some 0, frame := { active := true }, col := { active := true } } } :
      State).esq.col.active = true ∧
      ({ cfg := testCfg [testPlan], esq := { plan := some 0, frame := { active := true }, col := { active := true } } } : State).esq.col.k +
      1 < planK ({ cfg := testCfg [testPlan], esq := { plan := some 0, frame := { active := true }, col := { active := true } } } : State) ∧
      colStartOf ({ cfg := testCfg [testPlan], esq := { plan := some 0, frame := { active := true }, col := { active := true } } } : State)
      (({ cfg := testCfg [testPlan], esq := { plan := some 0, frame := { active := true }, col := { active := true } } } : State).esq.col.k
      + 1) ≤ (64 : Nat) ∧ acqStopped
      ({ cfg := testCfg [testPlan], esq := { plan := some 0, frame := { active := true }, col := { active := true } } } : State) = false ∧
      ({ cfg := testCfg [testPlan], esq := { plan := some 0, frame := { active := true }, col := { active := true } } } : State).qsy.x8host
      = []) ∧
    (hasLidar ({ cfg := testCfg [testLidar, testPlan], esq := { plan := some 0 } } : State) = true ∧
      ({ cfg := testCfg [testLidar, testPlan], esq := { plan := some 0 } } : State).esq.plan.isSome = true ∧ ((∀ sp,
      ({ cfg := testCfg [testLidar, testPlan], esq := { plan := some 0 } } : State).esq.prevIdx = some sp → judgeEdge
      ({ cfg := testCfg [testLidar, testPlan], esq := { plan := some 0 } } : State) sp (64 : Nat) = 0))) ∧
    (hasLidar ({ cfg := testCfg [testLidar, testPlan], esq := { plan := some 0, prevIdx := some 0 } } : State) = true ∧
      ({ cfg := testCfg [testLidar, testPlan], esq := { plan := some 0, prevIdx := some 0 } } : State).esq.prevIdx = some (0 : Nat) ∧
      judgeEdge ({ cfg := testCfg [testLidar, testPlan], esq := { plan := some 0, prevIdx := some 0 } } : State) (0 : Nat) (100000000000000
      : Nat) = 2) ∧
    (({ boot := { step := 12 }, cfg := testCfg [testLidar], esq := { pend := [⟨64, 0, false, true, false, 0⟩] } } : State).esq.pend = (⟨64,
      0, false, true, false, 0⟩ : PendFrame) :: ([] : List PendFrame) ∧
      ({ boot := { step := 12 }, cfg := testCfg [testLidar], esq := { pend := [⟨64, 0, false, true, false, 0⟩] } } : State).boot.step = 12 ∧
      hasLidar ({ boot := { step := 12 }, cfg := testCfg [testLidar], esq := { pend := [⟨64, 0, false, true, false, 0⟩] } } : State) = true
      ∧ (⟨64, 0, false, true, false, 0⟩ : PendFrame).at_ ≤ (64 : Nat) ∧ acqStopped
      ({ boot := { step := 12 }, cfg := testCfg [testLidar], esq := { pend := [⟨64, 0, false, true, false, 0⟩] } } : State) = false ∧
      ({ boot := { step := 12 }, cfg := testCfg [testLidar], esq := { pend := [⟨64, 0, false, true, false, 0⟩] } } : State).qsy.x8host = []
      ∧ ({ boot := { step := 12 }, cfg := testCfg [testLidar], esq := { pend := [⟨64, 0, false, true, false, 0⟩] } } : State).esq.staged =
      []) :=
  ⟨⟨by decide +kernel, by decide +kernel, by decide +kernel, by decide +kernel, by decide +kernel, by decide +kernel⟩,
    ⟨by decide +kernel, by decide +kernel, (by intro sp h; cases h)⟩,
    ⟨by decide +kernel, by decide +kernel, by decide +kernel⟩,
    ⟨by decide +kernel, by decide +kernel, by decide +kernel, by decide +kernel, by decide +kernel, by decide +kernel, by decide +kernel⟩⟩

/-- Clauses 1, 2, 3, 4, 6, 7, 8, 9 of Obligations.ShotAndPhotonCommandsComplete. -/
theorem test_shotAndPhotonCommandsComplete_met :
    (({ cfg := testCfg [testPlan], esq := { plan := some 0, col := { active := true, slotNext := 3 } } } : State).esq.col.active = true ∧
      ({ cfg := testCfg [testPlan], esq := { plan := some 0, col := { active := true, slotNext := 3 } } } : State).esq.col.slotNext = (3 :
      Fin 32).val ∧ (3 : Fin 32).val < 2 ^ planSlotLog
      ({ cfg := testCfg [testPlan], esq := { plan := some 0, col := { active := true, slotNext := 3 } } } : State) ∧ slotDecisionTick
      ({ cfg := testCfg [testPlan], esq := { plan := some 0, col := { active := true, slotNext := 3 } } } : State) (3 : Fin 32) ≤
      (slotDecisionTick ({ cfg := testCfg [testPlan], esq := { plan := some 0, col := { active := true, slotNext := 3 } } } : State) 3 :
      Nat) ∧ (slotDecisionTick ({ cfg := testCfg [testPlan], esq := { plan := some 0, col := { active := true, slotNext := 3 } } } : State)
      3 : Nat) < slotDecisionTick ({ cfg := testCfg [testPlan], esq := { plan := some 0, col := { active := true, slotNext := 3 } } } :
      State) (3 : Fin 32) + 64 ∧ ({ cfg := testCfg [testPlan], esq := { plan := some 0, col := { active := true, slotNext := 3 } } } :
      State).esq.stopped = false ∧ ({ cfg := testCfg [testPlan], esq := { plan := some 0, col := { active := true, slotNext := 3 } } } :
      State).esq.ledBad = false) ∧
    ((∃ f ∈ ({ esq := { shots := [⟨2, 0, 640, false, false⟩] } } : State).esq.shots, f.bank = (2 : Fin 16).val ∧ f.tick = (640 : Nat) ∧
      f.fired = false) ∧ ({ esq := { shots := [⟨2, 0, 640, false, false⟩] } } : State).esq.ledBad = false ∧
      ({ esq := { shots := [⟨2, 0, 640, false, false⟩] } } : State).esq.stopped = false) ∧
    (lastShot ({ cfg := testCfg [testPlan], esq := { plan := some 0, shots := [⟨2, 0, 0, false, true⟩] } } : State) (2 : Fin 16) = some (⟨2,
      0, 0, false, true⟩ : Shot) ∧ (⟨2, 0, 0, false, true⟩ : Shot).ref = false ∧ inBlank
      ({ cfg := testCfg [testPlan], esq := { plan := some 0, shots := [⟨2, 0, 0, false, true⟩] } } : State) (⟨2, 0, 0, false, true⟩ : Shot)
      (64 : Nat) = true) ∧
    (({ pfe := { blanked := 4 } } : State).pfe.blanked.getLsbD (2 : Fin 16) = true ∧ ((∀ f, lastShot ({ pfe := { blanked := 4 } } : State)
      (2 : Fin 16) = some f → inBlank ({ pfe := { blanked := 4 } } : State) f (0 : Nat) = false))) ∧
    (spadArmed ({ cfg := testCfg [testLidar], pfe := { bias := [(0, { on := true })] } } : State) (0 : Fin 512) (5 : Fin 16) = true) ∧
    (spadArmed ({ cfg := testCfg [testLidar], pfe := { bias := [(0, { on := true })] } } : State) (0 : Fin 512) (5 : Fin 16) = true ∧ bitB
      (amaskOf ({ cfg := testCfg [testLidar], pfe := { bias := [(0, { on := true })] } } : State) (0 : Fin 512)) (5 : Fin 16) = false ∧ max
      1 (Tab.lookD ({ cfg := testCfg [testLidar], pfe := { bias := [(0, { on := true })] } } : State).pfe.depth (0 : Fin 512) 1) ≤ 1 +
      ((Tab.lookD ({ cfg := testCfg [testLidar], pfe := { bias := [(0, { on := true })] } } : State).pfe.aval (0 : Fin 512) []).filter fun a
      => decide ((64 : Nat) < a + if ({ cfg := testCfg [testLidar], pfe := { bias := [(0, { on := true })] } } : State).esq.plan.isNone then
      64 else planWindow ({ cfg := testCfg [testLidar], pfe := { bias := [(0, { on := true })] } } : State))).length) ∧
    (chanLive ({ cfg := testCfg [testLidar], pfe := { edges := [(7, [60])] } } : State) (7 : Fin 512) = true ∧ ((∀ e, (Tab.lookD
      ({ cfg := testCfg [testLidar], pfe := { edges := [(7, [60])] } } : State).pfe.edges (7 : Fin 512) []).head? = some e → e ≤ (128 :
      Nat))) ∧ Tab.lookD ({ cfg := testCfg [testLidar], pfe := { edges := [(7, [60])] } } : State).pfe.edges (7 : Fin 512) [] ≠ [] ∧ ((∀ l,
      Tab.look ({ cfg := testCfg [testLidar], pfe := { edges := [(7, [60])] } } : State).tdc.lastEdge (7 : Fin 512) = some l → l + deadTicks
      ≤ stampOf ({ cfg := testCfg [testLidar], pfe := { edges := [(7, [60])] } } : State) (7 : Fin 512) (128 : Nat) (3 : Fin 97)))) ∧
    (injected (advance (128 : Nat) ({ tdc := { strips := [(33, { phase := .passA, kind := .startup })] } } : State)) (513 : Fin 532) (128 :
      Nat) = true ∧ ((∀ l, Tab.look ({ tdc := { strips := [(33, { phase := .passA, kind := .startup })] } } : State).tdc.lastEdge (513 : Fin
      532) = some l → l + deadTicks ≤ stampOf ({ tdc := { strips := [(33, { phase := .passA, kind := .startup })] } } : State) (513 : Fin
      532) (128 : Nat) (3 : Fin 97)))) :=
  ⟨⟨by decide +kernel, by decide +kernel, by decide +kernel, by decide +kernel, by decide +kernel, by decide +kernel, by decide +kernel⟩,
    ⟨by decide +kernel, by decide +kernel, by decide +kernel⟩,
    ⟨by decide +kernel, by decide +kernel, by decide +kernel⟩,
    ⟨by decide +kernel, (by intro f h; cases h)⟩,
    by decide +kernel,
    ⟨by decide +kernel, by decide +kernel, by decide +kernel⟩,
    ⟨by decide +kernel, (by intro e h; cases h; decide +kernel), by decide +kernel, (by intro l h; cases h)⟩,
    ⟨by decide +kernel, (by intro l h; cases h)⟩⟩

/-- Clauses 1, 2, 3, 4, 5, 6, 7, 8, 9, 10 of Obligations.HistogramCommandsComplete. -/
theorem test_histogramCommandsComplete_met :
    ((queueOf ({ qsy := { queues := [(5, { words := [⟨7, true, true, true, 0⟩] })] } } : State) 0 (5 : Fin 512)).words = (⟨7, true, true,
      true, 0⟩ : QWord) :: ([] : List QWord)) ∧
    (({ esq := { col := { active := true } }, hse := { bufs := [(33, { lock := some 9 })] } } : State).esq.col.active = true ∧ isFenced
      ({ esq := { col := { active := true } }, hse := { bufs := [(33, { lock := some 9 })] } } : State) (Unit.strip ((32 * (1 : Fin 16).val
      + (1 : Fin 32)) / 16)) = false ∧ (bufOf ({ esq := { col := { active := true } }, hse := { bufs := [(33, { lock := some 9 })] } } :
      State) (32 * (1 : Fin 16) + (1 : Fin 32))).lock = some (9 : Nat)) ∧
    (({ hse := { role := .follower, winRecv := [(5, (0, [3, 9]))] } } : State).hse.role = .follower ∧ isFenced
      ({ hse := { role := .follower, winRecv := [(5, (0, [3, 9]))] } } : State) (Unit.strip ((5 : Fin 512) / 16)) = false ∧
      ({ hse := { role := .follower, winRecv := [(5, (0, [3, 9]))] } } : State).esq.col.deferFine = false ∧ Tab.look
      ({ hse := { role := .follower, winRecv := [(5, (0, [3, 9]))] } } : State).hse.winRecv (5 : Fin 512) = some ((0 : Nat), ([3, 9] : List
      Nat)) ∧ (0 : Nat) + 640 * rdf ({ hse := { role := .follower, winRecv := [(5, (0, [3, 9]))] } } : State) Fld.HSE_DEEPEN_win_lat ≤
      (1000000 : Nat)) ∧
    (({ hse := { info := { exists_ := true, waiting := [3, 4] } } } : State).hse.info.exists_ = true ∧
      ({ hse := { info := { exists_ := true, waiting := [3, 4] } } } : State).hse.info.waiting.contains (3 : Fin 32).val = true ∧
      ({ hse := { info := { exists_ := true, waiting := [3, 4] } } } : State).hse.role ≠ .leader ∧ Ecc.ok ≠ .uncorrectable) ∧
    (({ hse := { role := .leader, info := { exists_ := true } } } : State).hse.role = .leader ∧
      ({ hse := { role := .leader, info := { exists_ := true } } } : State).hse.info.exists_ = true ∧
      ({ hse := { role := .leader, info := { exists_ := true } } } : State).hse.mergeMiss = false ∧
      ({ hse := { role := .leader, info := { exists_ := true } } } : State).hse.follower.length < 512 ∧
      ({ hse := { role := .leader, info := { exists_ := true } } } : State).hse.info.endAt + 64000 * rdf
      ({ hse := { role := .leader, info := { exists_ := true } } } : State) Fld.HSE_DEEPEN_merge_lat ≤ (100000000000 : Nat)) ∧
    (({ hse := { verdictDue := some {} } } : State).hse.verdictDue = some ({} : TagCtx) ∧ ({ hse := { verdictDue := some {} } } :
      State).hse.info.waiting = []) ∧
    (({ hse := { role := .follower } } : State).hse.role = .follower) ∧
    (({ hse := { role := .leader, info := { exists_ := true } } } : State).hse.role = .leader ∧
      ({ hse := { role := .leader, info := { exists_ := true } } } : State).hse.mergeMiss = false ∧
      ({ hse := { role := .leader, info := { exists_ := true } } } : State).hse.info.exists_ = true) ∧
    (({ hse := { role := .follower } } : State).hse.role ≠ .single) ∧
    (({ hse := { role := .leader } } : State).hse.role ≠ .single) :=
  ⟨by decide +kernel,
    ⟨by decide +kernel, by decide +kernel, by decide +kernel⟩,
    ⟨by decide +kernel, by decide +kernel, by decide +kernel, by decide +kernel, by decide +kernel⟩,
    ⟨by decide +kernel, by decide +kernel, by decide +kernel, by decide +kernel⟩,
    ⟨by decide +kernel, by decide +kernel, by decide +kernel, by decide +kernel, by decide +kernel⟩,
    ⟨by decide +kernel, by decide +kernel⟩,
    by decide +kernel,
    ⟨by decide +kernel, by decide +kernel, by decide +kernel⟩,
    by decide +kernel,
    by decide +kernel⟩

/-- Clauses 1, 2, 3, 4, 5 of Obligations.CalibrationCommandsComplete. -/
theorem test_calibrationCommandsComplete_met :
    ((calOf ({ tdc := { strips := [(3, { phase := .passB, stopped := [true, true] })] } } : State) (3 : Fin 32)).full = true ∧ (calOf
      ({ tdc := { strips := [(3, { phase := .passB, stopped := [true, true] })] } } : State) (3 : Fin 32)).phase = .passB) ∧
    ((calOf ({ tdc := { strips := [(3, { phase := .passA })] }, regs := [(Reg.TDC_CAL_TIMING, 0xFFFFFFFF)] } : State) (3 : Fin 32)).phase ≠
      .idle ∧ (calOf ({ tdc := { strips := [(3, { phase := .passA })] }, regs := [(Reg.TDC_CAL_TIMING, 0xFFFFFFFF)] } : State) (3 : Fin
      32)).kind ≠ .startup ∧ rdf ({ tdc := { strips := [(3, { phase := .passA })] }, regs := [(Reg.TDC_CAL_TIMING, 0xFFFFFFFF)] } : State)
      Fld.TDC_CAL_TIMING_pass_timeout ≠ 0 ∧ (calOf
      ({ tdc := { strips := [(3, { phase := .passA })] }, regs := [(Reg.TDC_CAL_TIMING, 0xFFFFFFFF)] } : State) (3 : Fin 32)).began + rdf
      ({ tdc := { strips := [(3, { phase := .passA })] }, regs := [(Reg.TDC_CAL_TIMING, 0xFFFFFFFF)] } : State)
      Fld.TDC_CAL_TIMING_pass_timeout * 6400000000 ≤ (100000000000000 : Nat)) ∧
    (6 ≤ ({ boot := { step := 12 } } : State).boot.step ∧ (8 : Word32).getLsbD (3 : Fin 32) = true ∧ (calOf ({ boot := { step := 12 } } :
      State) (3 : Fin 32)).phase = .idle) ∧
    (({ tdc := { calDone := true } } : State).tsu.stopped = false ∧ ({ tdc := { calDone := true } } : State).tsu.overlap = none ∧
      ({ tdc := { calDone := true } } : State).tdc.calDone = true ∧ auxCycle 4 ({ tdc := { calDone := true } } : State) (lineOf
      ({ tdc := { calDone := true } } : State) (512 + ({ tdc := { calDone := true } } : State).tsu.spare)) ([(testPass, testPass, testPass)]
      : List (PassCounts × PassCounts × PassCounts)) = some ((auxCycle 4 ({ tdc := { calDone := true } } : State) (lineOf
      ({ tdc := { calDone := true } } : State) 512) [(testPass, testPass, testPass)]).getD (none, []))) ∧
    (({ tsu := { overlap := some ⟨19, 4, true⟩ } } : State).tsu.overlap = some (⟨19, 4, true⟩ : Overlap) ∧ (⟨19, 4, true⟩ : Overlap).agree = true) :=
  ⟨⟨by decide +kernel, by decide +kernel⟩,
    ⟨by decide +kernel, by decide +kernel, by decide +kernel, by decide +kernel⟩,
    ⟨by decide +kernel, by decide +kernel, by decide +kernel⟩,
    ⟨by decide +kernel, by decide +kernel, by decide +kernel, by decide +kernel⟩,
    ⟨by decide +kernel, by decide +kernel⟩⟩

/-- Clauses 1, 2, 3, 4 of Obligations.TimestampInputCommandsComplete. -/
theorem test_timestampInputCommandsComplete_met :
    (tsiOn ({ regs := [(Reg.TSU_CFG 2, 3 + 4 * 1 + 0xFFFF0000)] } : State) (2 : Fin 16) = true ∧ ((if true then rdf
      ({ regs := [(Reg.TSU_CFG 2, 3 + 4 * 1 + 0xFFFF0000)] } : State) (Fld.TSU_CFG_edge (2 : Fin 16)) = 1 ∨ rdf
      ({ regs := [(Reg.TSU_CFG 2, 3 + 4 * 1 + 0xFFFF0000)] } : State) (Fld.TSU_CFG_edge (2 : Fin 16)) = 3 else rdf
      ({ regs := [(Reg.TSU_CFG 2, 3 + 4 * 1 + 0xFFFF0000)] } : State) (Fld.TSU_CFG_edge (2 : Fin 16)) = 2 ∨ rdf
      ({ regs := [(Reg.TSU_CFG 2, 3 + 4 * 1 + 0xFFFF0000)] } : State) (Fld.TSU_CFG_edge (2 : Fin 16)) = 3)) ∧ ((∀ l, (tsiOf
      ({ regs := [(Reg.TSU_CFG 2, 3 + 4 * 1 + 0xFFFF0000)] } : State) (2 : Fin 16)).lastAcc = some l → deadTicks ≤ stampOf
      ({ regs := [(Reg.TSU_CFG 2, 3 + 4 * 1 + 0xFFFF0000)] } : State) (512 + ({ regs := [(Reg.TSU_CFG 2, 3 + 4 * 1 + 0xFFFF0000)] } :
      State).tsu.lineOf.getD (2 : Fin 16) 0) (6400 : Nat) (3 : Fin 97) - l ∧ max 2 (4 * rdf
      ({ regs := [(Reg.TSU_CFG 2, 3 + 4 * 1 + 0xFFFF0000)] } : State) (Fld.TSU_CFG_holdoff (2 : Fin 16))) * 64 ≤ stampOf
      ({ regs := [(Reg.TSU_CFG 2, 3 + 4 * 1 + 0xFFFF0000)] } : State) (512 + ({ regs := [(Reg.TSU_CFG 2, 3 + 4 * 1 + 0xFFFF0000)] } :
      State).tsu.lineOf.getD (2 : Fin 16) 0) (6400 : Nat) (3 : Fin 97) - l))) ∧
    ((tsiOf ({ tsu := { chans := [(2, { window := some { start := 5 } })] } } : State) (2 : Fin 16)).window = some ({ start := 5 } : Window)
      ∧ ({ start := 5 } : Window).start + 64 * (rd ({ tsu := { chans := [(2, { window := some { start := 5 } })] } } : State)
      (Reg.TSU_WIN_OPEN (2 : Fin 16))).toNat ≤ (100000000000000 : Nat)) ∧
    ((tsiOf ({ tsu := { chans := [(2, { window := some { start := 5, isOpen := true } })] } } : State) (2 : Fin 16)).window = some
      ({ start := 5, isOpen := true } : Window) ∧ ({ start := 5, isOpen := true } : Window).isOpen = true ∧ ({ start := 5, isOpen := true }
      : Window).start + 64 * (rd ({ tsu := { chans := [(2, { window := some { start := 5, isOpen := true } })] } } : State)
      (Reg.TSU_WIN_CLOSE (2 : Fin 16))).toNat ≤ (100000000000000 : Nat)) ∧
    (tsiOn ({ regs := [(Reg.TSU_CFG 2, 0xFFFFFFFF)] } : State) (2 : Fin 16) = true ∧ gateTicks ({ regs := [(Reg.TSU_CFG 2, 0xFFFFFFFF)] } :
      State) (2 : Fin 16) ≠ 0) :=
  ⟨⟨by decide +kernel, by decide +kernel, (by intro l h; cases h)⟩,
    ⟨by decide +kernel, by decide +kernel⟩,
    ⟨by decide +kernel, by decide +kernel, by decide +kernel⟩,
    ⟨by decide +kernel, by decide +kernel⟩⟩

/-- Clauses 1, 2, 3, 4, 5, 6, 7 of Obligations.SweepCommandsComplete. -/
theorem test_sweepCommandsComplete_met :
    (nextBoundary ({ boot := { step := 12 }, cfg := testCfg [testFibre, testFibPlan], fib := { plan := some 0 } } : State) (0 : Nat) = some
      ((0 : Nat), false) ∧ ({ boot := { step := 12 }, cfg := testCfg [testFibre, testFibPlan], fib := { plan := some 0 } } :
      State).boot.step = 12 ∧ hasFibre ({ boot := { step := 12 }, cfg := testCfg [testFibre, testFibPlan], fib := { plan := some 0 } } :
      State) = true ∧ ({ boot := { step := 12 }, cfg := testCfg [testFibre, testFibPlan], fib := { plan := some 0 } } :
      State).fib.plan.isSome = true ∧ (0 : Nat) ≤ (0 : Nat) ∧ acqStopped
      ({ boot := { step := 12 }, cfg := testCfg [testFibre, testFibPlan], fib := { plan := some 0 } } : State) = false) ∧
    (fp ({ cfg := testCfg [testFibre, testTrigPlan], fib := { plan := some 0 } } : State) 0 4 1 ≠ 0 ∧ hasFibre
      ({ cfg := testCfg [testFibre, testTrigPlan], fib := { plan := some 0 } } : State) = true ∧
      ({ cfg := testCfg [testFibre, testTrigPlan], fib := { plan := some 0 } } : State).fib.active = false ∧ svcDead
      ({ cfg := testCfg [testFibre, testTrigPlan], fib := { plan := some 0 } } : State) 16 (stampOf
      ({ cfg := testCfg [testFibre, testTrigPlan], fib := { plan := some 0 } } : State) (512 +
      ({ cfg := testCfg [testFibre, testTrigPlan], fib := { plan := some 0 } } : State).tsu.lineOf.getD 16 0) (6400 : Nat) (3 : Fin 97)) =
      false) ∧
    (fp ({ cfg := testCfg [testFibre, testTrigPlan], fib := { plan := some 0, active := true } } : State) 0 4 1 = 1 ∧
      ({ cfg := testCfg [testFibre, testTrigPlan], fib := { plan := some 0, active := true } } : State).fib.active = true ∧
      ({ cfg := testCfg [testFibre, testTrigPlan], fib := { plan := some 0, active := true } } : State).fib.nextB = none ∧
      ({ cfg := testCfg [testFibre, testTrigPlan], fib := { plan := some 0, active := true } } : State).fib.start + sweepTicks
      ({ cfg := testCfg [testFibre, testTrigPlan], fib := { plan := some 0, active := true } } : State) + trigTol
      ({ cfg := testCfg [testFibre, testTrigPlan], fib := { plan := some 0, active := true } } : State) ≤ (100000000000 : Nat)) ∧
    (gateOpening ({ cfg := testCfg [testFibre, testFibPlan], fib := { plan := some 0, active := true, fired := 1 } } : State) (0 : Fin 8) =
      some (0 : Nat) ∧ (0 : Nat) ≤ (5 : Nat) ∧ (5 : Nat) < (0 : Nat) + gateWidth
      ({ cfg := testCfg [testFibre, testFibPlan], fib := { plan := some 0, active := true, fired := 1 } } : State) (0 : Fin 8)) ∧
    (Tab.look ({ fib := { gates := 1, gateEnds := [(0, 5)] } } : State).fib.gateEnds (0 : Fin 8) = some (5 : Nat) ∧ (5 : Nat) ≤ (9 : Nat)) ∧
    (convRuns ({ cfg := testCfg [testFibre, testFibPlan], fib := { plan := some 0, active := true } } : State) (0 : Fin 8) = true ∧
      (sampleAt ({ cfg := testCfg [testFibre, testFibPlan], fib := { plan := some 0, active := true } } : State) (0 : Fin 8) (0 :
      Nat)).isSome = true ∧ graftConv ({ cfg := testCfg [testFibre, testFibPlan], fib := { plan := some 0, active := true } } : State) (0 :
      Fin 8) = false ∧ ({ cfg := testCfg [testFibre, testFibPlan], fib := { plan := some 0, active := true } } : State).hkp.hardCut = false)
      ∧
    (fibrePartner testPartner = true) :=
  ⟨⟨by decide +kernel, by decide +kernel, by decide +kernel, by decide +kernel, by decide +kernel, by decide +kernel⟩,
    ⟨by decide +kernel, by decide +kernel, by decide +kernel, by decide +kernel⟩,
    ⟨by decide +kernel, by decide +kernel, by decide +kernel, by decide +kernel⟩,
    ⟨by decide +kernel, by decide +kernel, by decide +kernel⟩,
    ⟨by decide +kernel, by decide +kernel⟩,
    ⟨by decide +kernel, by decide +kernel, by decide +kernel, by decide +kernel⟩,
    by decide +kernel⟩

/-- Clauses 1, 2, 3, 4, 5, 6, 7, 8 of Obligations.FibreProcessingCommandsComplete. -/
theorem test_fibreProcessingCommandsComplete_met :
    (Tab.look ({ tb := { n := 1000000000 }, cfg := testCfg [testFibre, testFibPlan], fib := { plan := some 0, infos := [(0, {})] } } :
      State).fib.infos (liftFrame
      ({ tb := { n := 1000000000 }, cfg := testCfg [testFibre, testFibPlan], fib := { plan := some 0, infos := [(0, {})] } } :
      State).fib.ctx (0 : BitVec 24).toNat) = some ({} : SweepInfo) ∧ (1 : Fin 8).val < fpOf
      ({ tb := { n := 1000000000 }, cfg := testCfg [testFibre, testFibPlan], fib := { plan := some 0, infos := [(0, {})] } } : State) ({} :
      SweepInfo).plan 0 8 4 ∧ bitB ({} : SweepInfo).done (1 : Fin 8) = false ∧ bitB (toneMask
      ({ tb := { n := 1000000000 }, cfg := testCfg [testFibre, testFibPlan], fib := { plan := some 0, infos := [(0, {})] } } : State)) (1 :
      Fin 8) = true ∧ slotOver
      ({ tb := { n := 1000000000 }, cfg := testCfg [testFibre, testFibPlan], fib := { plan := some 0, infos := [(0, {})] } } : State) ({} :
      SweepInfo) (1 : Fin 8) ≤ now
      ({ tb := { n := 1000000000 }, cfg := testCfg [testFibre, testFibPlan], fib := { plan := some 0, infos := [(0, {})] } } : State)) ∧
    (({ fib := { active := true, pairs := [(1, { phase := .passB, blk := [(0, 0, 0)] })] }, regs := [(Reg.FIB_CAL_CFG, 0)] } :
      State).fib.active = true ∧ blockLen
      ({ fib := { active := true, pairs := [(1, { phase := .passB, blk := [(0, 0, 0)] })] }, regs := [(Reg.FIB_CAL_CFG, 0)] } : State) ≤
      (pairOf ({ fib := { active := true, pairs := [(1, { phase := .passB, blk := [(0, 0, 0)] })] }, regs := [(Reg.FIB_CAL_CFG, 0)] } :
      State) (1 : Fin 2)).blk.length ∧ (pairOf
      ({ fib := { active := true, pairs := [(1, { phase := .passB, blk := [(0, 0, 0)] })] }, regs := [(Reg.FIB_CAL_CFG, 0)] } : State) (1 :
      Fin 2)).posted = none ∧ (pairOf
      ({ fib := { active := true, pairs := [(1, { phase := .passB, blk := [(0, 0, 0)] })] }, regs := [(Reg.FIB_CAL_CFG, 0)] } : State) (1 :
      Fin 2)).phase = .passB) ∧
    (({ fib := { active := true } } : State).fib.active = true ∧ (pairOf ({ fib := { active := true } } : State) (1 : Fin 2)).phase = .idle
      ∧ (pairOf ({ fib := { active := true } } : State) (1 : Fin 2)).posted = none ∧ ((∀ b, (pairOf ({ fib := { active := true } } : State)
      (1 : Fin 2)).start = some b → b + rdf ({ fib := { active := true } } : State) Fld.FIB_CAL_CFG_cal_interval * 64000000000 ≤ (0 : Nat)))
      ∧ ((∀ c ∈ convsOf (1 : Fin 2), isFenced ({ fib := { active := true } } : State) (Unit.adc c) = false))) ∧
    (({ cfg := testCfg [testFibre, testFibPlan, testRec 0x0903 8 [(0, 0x00010001)]], fib := { plan := some 0, zones := [(0, { slots := 100 })] } }
      : State).fib.zones = ((0 : Nat), ({ slots := 100 } : ZoneAcc)) :: ([] : List (Nat × ZoneAcc)) ∧ zoneSlots
      ({ cfg := testCfg [testFibre, testFibPlan, testRec 0x0903 8 [(0, 0x00010001)]], fib := { plan := some 0, zones := [(0, { slots := 100 })] } }
      : State) ({ slots := 100 } : ZoneAcc).plan ≠ 0 ∧ zoneSlots
      ({ cfg := testCfg [testFibre, testFibPlan, testRec 0x0903 8 [(0, 0x00010001)]], fib := { plan := some 0, zones := [(0, { slots := 100 })] } }
      : State) ({ slots := 100 } : ZoneAcc).plan ≤ ({ slots := 100 } : ZoneAcc).slots) ∧
    (fibConst ({ cfg := testCfg [testFibConst], fib := { evalDue := true } } : State) = some testFibConst ∧ rf testFibConst 0x18 0 8 ≠ 0 ∧
      ({ cfg := testCfg [testFibConst], fib := { evalDue := true } } : State).fib.evalDue = true) ∧
    (fp ({ cfg := testCfg [testFibre, testSurveyPlan], fib := { plan := some 0, grant := List.replicate 64 1, survey := [(0, 1)] } } :
      State) 0 5 1 = 1 ∧ (∃ n < 8, bitB (allowedTones
      ({ cfg := testCfg [testFibre, testSurveyPlan], fib := { plan := some 0, grant := List.replicate 64 1, survey := [(0, 1)] } } : State))
      n = true) ∧ ((∀ m < 8, ∀ n < 8, bitB (allowedTones
      ({ cfg := testCfg [testFibre, testSurveyPlan], fib := { plan := some 0, grant := List.replicate 64 1, survey := [(0, 1)] } } : State))
      m = true → bitB (allowedTones
      ({ cfg := testCfg [testFibre, testSurveyPlan], fib := { plan := some 0, grant := List.replicate 64 1, survey := [(0, 1)] } } : State))
      n = true → (Tab.look
      ({ cfg := testCfg [testFibre, testSurveyPlan], fib := { plan := some 0, grant := List.replicate 64 1, survey := [(0, 1)] } } :
      State).fib.survey (8 * m + n)).isSome = true))) ∧
    (({ fib := { dts := { blocks := [({}, false)] } } } : State).fib.dts.blocks = (({} : RamanSum), false) :: ([] : List (RamanSum × Bool))
      ∧ ({ fib := { dts := { blocks := [({}, false)] } } } : State).fib.dts.due = false) ∧
    (fibConst ({ cfg := testCfg [testFibConst], fib := { dts := { due := true } } } : State) = some testFibConst ∧
      ({ cfg := testCfg [testFibConst], fib := { dts := { due := true } } } : State).fib.dts.due = true) :=
  ⟨⟨by decide +kernel, by decide +kernel, by decide +kernel, by decide +kernel, by decide +kernel⟩,
    ⟨by decide +kernel, by decide +kernel, by decide +kernel, by decide +kernel⟩,
    ⟨by decide +kernel, by decide +kernel, by decide +kernel, (by intro b h; cases h), by decide +kernel⟩,
    ⟨by decide +kernel, by decide +kernel, by decide +kernel⟩,
    ⟨by decide +kernel, by decide +kernel, by decide +kernel⟩,
    ⟨by decide +kernel, ⟨0, by decide +kernel, by decide +kernel⟩, by decide +kernel⟩,
    ⟨by decide +kernel, by decide +kernel⟩,
    ⟨by decide +kernel, by decide +kernel⟩⟩

/-- Clauses 1, 3, 4, 5, 6 of Obligations.FilterAndCaptureCommandsComplete. -/
theorem test_filterAndCaptureCommandsComplete_met :
    (fdcRec ({ cfg := testCfg [testRec 0x0A01 64 []], fdc := { chans := [(0, { inq := [([5], false)] })] } } : State) (0 : Fin 16) = some
      (testRec 0x0A01 64 []) ∧ (fdcOf ({ cfg := testCfg [testRec 0x0A01 64 []], fdc := { chans := [(0, { inq := [([5], false)] })] } } :
      State) (0 : Fin 16)).inq = (([5] : List Int), false) :: ([] : List (List Int × Bool))) ∧
    (unitRec ({ cfg := testCfg [testCapture], tae := { units := [(1, { pace := some 0 })] } } : State) (1 : Fin 4) = some testCapture ∧ (0 :
      Fin 8).val < rf testCapture 0 8 4 ∧ tagSrc (⟨BitVec.ofNat 64 (9 * 2 ^ 54 + 2 * 2 ^ 48), [1]⟩ : Item).tag = (unitSrc testCapture (0 :
      Fin 8)).1 ∧ tagStream (⟨BitVec.ofNat 64 (9 * 2 ^ 54 + 2 * 2 ^ 48), [1]⟩ : Item).tag = (unitSrc testCapture (0 : Fin 8)).2 ∧ (((unitSrc
      testCapture (0 : Fin 8)).1 ≠ Src.tdc ∨ (⟨BitVec.ofNat 64 (9 * 2 ^ 54 + 2 * 2 ^ 48), [1]⟩ : Item).words = [] ∨ bitB (leAt
      testCapture.body (0x1C + 8 * (0 : Fin 8)) 4) (wordChan ((⟨BitVec.ofNat 64 (9 * 2 ^ 54 + 2 * 2 ^ 48), [1]⟩ : Item).words.headD 0) / 16)
      = true)) ∧ (((0 : Fin 8).val ≠ 0 ∨ (unitOf ({ cfg := testCfg [testCapture], tae := { units := [(1, { pace := some 0 })] } } : State)
      (1 : Fin 4)).pace ≠ none)) ∧ precedes (tagFrame (⟨BitVec.ofNat 64 (9 * 2 ^ 54 + 2 * 2 ^ 48), [1]⟩ : Item).tag) (unitOf
      ({ cfg := testCfg [testCapture], tae := { units := [(1, { pace := some 0 })] } } : State) (1 : Fin 4)).nextF = false) ∧
    (unitRec ({ cfg := testCfg [testCapture], tae := { units := [(1, { pace := some 2000 })] } } : State) (1 : Fin 4) = some testCapture ∧
      (unitOf ({ cfg := testCfg [testCapture], tae := { units := [(1, { pace := some 2000 })] } } : State) (1 : Fin 4)).pace = some (2000 :
      Nat) ∧ precedes (2000 : Nat) (((unitOf ({ cfg := testCfg [testCapture], tae := { units := [(1, { pace := some 2000 })] } } : State) (1
      : Fin 4)).nextF + rf testCapture 0 24 4) % 2 ^ 24) = false) ∧
    (({ tae := { refDue := some ⟨[], [], {}⟩ } } : State).tae.refDue = some (⟨[], [], {}⟩ : RefDue)) ∧
    (unitRec ({ cfg := testCfg [testCapture], tae := { units := [(1, { state := 4 })] } } : State) (1 : Fin 4) = some testCapture ∧ (unitOf
      ({ cfg := testCfg [testCapture], tae := { units := [(1, { state := 4 })] } } : State) (1 : Fin 4)).state = 4) :=
  ⟨⟨by decide +kernel, by decide +kernel⟩,
    ⟨by decide +kernel, by decide +kernel, by decide +kernel, by decide +kernel, by decide +kernel, by decide +kernel, by decide +kernel⟩,
    ⟨by decide +kernel, by decide +kernel, by decide +kernel⟩,
    by decide +kernel,
    ⟨by decide +kernel, by decide +kernel⟩⟩

/-- Clauses 1, 2, 3, 4, 5, 6 of Obligations.TineJobCommandsComplete. -/
theorem test_tineJobCommandsComplete_met :
    (slotRec ({ cfg := testCfg [testSlot], tin := { slots := [(1, { pace := some 0 })] } } : State) (1 : Fin 16) = some testSlot ∧ (0 : Fin
      4).val < rf testSlot 0 8 3 ∧ tagSrc (⟨BitVec.ofNat 64 (9 * 2 ^ 54 + 2 * 2 ^ 48), [1]⟩ : Item).tag = (slotSrc testSlot (0 : Fin 4)).1 ∧
      tagStream (⟨BitVec.ofNat 64 (9 * 2 ^ 54 + 2 * 2 ^ 48), [1]⟩ : Item).tag = (slotSrc testSlot (0 : Fin 4)).2 ∧ slotBlocked
      ({ cfg := testCfg [testSlot], tin := { slots := [(1, { pace := some 0 })] } } : State) (1 : Fin 16) = false ∧ ((slotUnit testSlot = 1
      ∨ precedes (tagFrame (⟨BitVec.ofNat 64 (9 * 2 ^ 54 + 2 * 2 ^ 48), [1]⟩ : Item).tag) (slotOf
      ({ cfg := testCfg [testSlot], tin := { slots := [(1, { pace := some 0 })] } } : State) (1 : Fin 16)).nextF = false))) ∧
    (slotRec ({ cfg := testCfg [testSlot], tin := { slots := [(1, { jobs := [testJob .waiting, testJob .waiting] })] } } : State) (1 : Fin
      16) = some testSlot ∧ (0 : Fin 4).val < rf testSlot 0 8 3 ∧ tagSrc (⟨BitVec.ofNat 64 (9 * 2 ^ 54 + 2 * 2 ^ 48), [1]⟩ : Item).tag =
      (slotSrc testSlot (0 : Fin 4)).1 ∧ tagStream (⟨BitVec.ofNat 64 (9 * 2 ^ 54 + 2 * 2 ^ 48), [1]⟩ : Item).tag = (slotSrc testSlot (0 :
      Fin 4)).2 ∧ slotBlocked ({ cfg := testCfg [testSlot], tin := { slots := [(1, { jobs := [testJob .waiting, testJob .waiting] })] } } :
      State) (1 : Fin 16) = true) ∧
    (slotRec ({ cfg := testCfg [testSlot], tin := { slots := [(1, { pace := some 2000 })] } } : State) (1 : Fin 16) = some testSlot ∧
      slotUnit testSlot = 0 ∧ slotBlocked ({ cfg := testCfg [testSlot], tin := { slots := [(1, { pace := some 2000 })] } } : State) (1 : Fin
      16) = false ∧ (slotOf ({ cfg := testCfg [testSlot], tin := { slots := [(1, { pace := some 2000 })] } } : State) (1 : Fin 16)).pace =
      some (2000 : Nat) ∧ precedes (2000 : Nat) (((slotOf ({ cfg := testCfg [testSlot], tin := { slots := [(1, { pace := some 2000 })] } } :
      State) (1 : Fin 16)).nextF % 2 ^ 24 + rf testSlot 0 12 4) % 2 ^ 24) = false) ∧
    (((∀ m q, slotRec
      ({ cfg := testCfg [testSlot], tin := { slots := [(1, { jobs := [testJob .waiting] })], grant := List.replicate 64 1 } } : State) m =
      some q → noTine
      ({ cfg := testCfg [testSlot], tin := { slots := [(1, { jobs := [testJob .waiting] })], grant := List.replicate 64 1 } } : State) q =
      false)) ∧ (tineOf
      ({ cfg := testCfg [testSlot], tin := { slots := [(1, { jobs := [testJob .waiting] })], grant := List.replicate 64 1 } } : State) (2 :
      Fin 16)).busy = false ∧ isFenced
      ({ cfg := testCfg [testSlot], tin := { slots := [(1, { jobs := [testJob .waiting] })], grant := List.replicate 64 1 } } : State)
      (Unit.tine (2 : Fin 16)) = false ∧ gClk
      ({ cfg := testCfg [testSlot], tin := { slots := [(1, { jobs := [testJob .waiting] })], grant := List.replicate 64 1 } } :
      State).tin.grant ≠ 0 ∧ readyFor
      ({ cfg := testCfg [testSlot], tin := { slots := [(1, { jobs := [testJob .waiting] })], grant := List.replicate 64 1 } } : State) (2 :
      Fin 16) = ((1 : Nat), (0 : Nat)) :: ([] : List (Nat × Nat)) ∧ slotRec
      ({ cfg := testCfg [testSlot], tin := { slots := [(1, { jobs := [testJob .waiting] })], grant := List.replicate 64 1 } } : State) (1 :
      Nat) = some testSlot ∧ (slotOf
      ({ cfg := testCfg [testSlot], tin := { slots := [(1, { jobs := [testJob .waiting] })], grant := List.replicate 64 1 } } : State) (1 :
      Nat)).jobs[(0 : Nat)]? = some (testJob .waiting)) ∧
    ((tineOf ({ tin := { tines := [(2, { dma := [some ⟨false, 8, 16, 2⟩, none] })] } } : State) (2 : Fin 16)).dma.getD (0 : Fin 2) none =
      some (⟨false, 8, 16, 2⟩ : Dma) ∧ (⟨false, 8, 16, 2⟩ : Dma).toData = false) ∧
    ((tineOf ({ tin := { tines := [(2, { busy := true })] } } : State) (2 : Fin 16)).busy = true ∧ isFenced
      ({ tin := { tines := [(2, { busy := true })] } } : State) (Unit.tine (2 : Fin 16)) = false ∧ tineLimit
      ({ tin := { tines := [(2, { busy := true })] } } : State) (tineOf ({ tin := { tines := [(2, { busy := true })] } } : State) (2 : Fin
      16)) ≤ (tineOf ({ tin := { tines := [(2, { busy := true })] } } : State) (2 : Fin 16)).steps) :=
  ⟨⟨by decide +kernel, by decide +kernel, by decide +kernel, by decide +kernel, by decide +kernel, by decide +kernel⟩,
    ⟨by decide +kernel, by decide +kernel, by decide +kernel, by decide +kernel, by decide +kernel⟩,
    ⟨by decide +kernel, by decide +kernel, by decide +kernel, by decide +kernel, by decide +kernel⟩,
    ⟨test_no_tine, by decide +kernel, by decide +kernel, by decide +kernel, by decide +kernel, by decide +kernel, by decide +kernel⟩,
    ⟨by decide +kernel, by decide +kernel⟩,
    ⟨by decide +kernel, by decide +kernel, by decide +kernel⟩⟩

/-- Clauses 1, 2, 3, 4, 5, 6, 7 of Obligations.TineComputeInstructionsComplete. -/
theorem test_tineComputeInstructionsComplete_met :
    (TineReady (.tineAlu (⟨2, true, .always⟩ : TineHd) AluOp.add (3 : Fin 16) (1 : Fin 16) (2 : Fin 16) false false (0 : BitVec 16)) (⟨2,
      true, .always⟩ : TineHd) (testRun 0 0 (3 * 2 ^ 44 + 2 ^ 40 + 2 * 2 ^ 36) {}) ∧ (tineOf (testRun 0 0 (3 * 2 ^ 44 + 2 ^ 40 + 2 * 2 ^ 36)
      {}) (⟨2, true, .always⟩ : TineHd).tine).d.length = 16) ∧
    (TineReady (.tineMac (⟨2, true, .always⟩ : TineHd) MacOp.mac (0 : Fin 4) (3 : Fin 4) (1 : Fin 16) (2 : Fin 16) (3 : Fin 16) (4 : Fin 16)
      false true none none) (⟨2, true, .always⟩ : TineHd) (testRun 1 1 (3 * 2 ^ 44 + 2 ^ 40 + 2 * 2 ^ 36 + 3 * 2 ^ 32 + 4 * 2 ^ 28 + 2 ^ 26)
      {}) ∧ (tineOf (testRun 1 1 (3 * 2 ^ 44 + 2 ^ 40 + 2 * 2 ^ 36 + 3 * 2 ^ 32 + 4 * 2 ^ 28 + 2 ^ 26) {}) (⟨2, true, .always⟩ :
      TineHd).tine).acc.length = 4 ∧ (true = true → (0 : Fin 4) ≠ (3 : Fin 4))) ∧
    (TineReady (.tineAcc (⟨2, true, .always⟩ : TineHd) .adda (0 : Fin 4) (1 : Fin 4) (0 : Fin 16) false false (0 : BitVec 6)) (⟨2, true,
      .always⟩ : TineHd) (testRun 2 3 (2 ^ 44) {}) ∧ (tineOf (testRun 2 3 (2 ^ 44) {}) (⟨2, true, .always⟩ : TineHd).tine).acc.length = 4) ∧
    (TineReady (.tineLdst (⟨2, true, .always⟩ : TineHd) false true (2 : Fin 16) (7 : Fin 8) .none (0 : BitVec 16)) (⟨2, true, .always⟩ :
      TineHd) (testRun 3 0 (2 * 2 ^ 44 + 7 * 2 ^ 41 + 2 ^ 38) {}) ∧ (tineOf (testRun 3 0 (2 * 2 ^ 44 + 7 * 2 ^ 41 + 2 ^ 38) {}) (⟨2, true,
      .always⟩ : TineHd).tine).d.length = 16 ∧ (tineOf (testRun 3 0 (2 * 2 ^ 44 + 7 * 2 ^ 41 + 2 ^ 38) {}) (⟨2, true, .always⟩ :
      TineHd).tine).dma = [none, none] ∧ aguAddress (tineOf (testRun 3 0 (2 * 2 ^ 44 + 7 * 2 ^ 41 + 2 ^ 38) {}) (⟨2, true, .always⟩ :
      TineHd).tine) (7 : Fin 8) % (if true then 4 else 2) = 0) ∧
    (TineReady (.tineAddr (⟨2, true, .always⟩ : TineHd) .set (1 : Fin 8) AddrTgt.a (0 : Fin 16) (0x55 : BitVec 16)) (⟨2, true, .always⟩ :
      TineHd) (testRun 4 0 (2 ^ 45 + 0x55) {}) ∧ (tineOf (testRun 4 0 (2 ^ 45 + 0x55) {}) (⟨2, true, .always⟩ : TineHd).tine).a.length = 8 ∧
      (tineOf (testRun 4 0 (2 ^ 45 + 0x55) {}) (⟨2, true, .always⟩ : TineHd).tine).b.length = 8 ∧ (tineOf (testRun 4 0 (2 ^ 45 + 0x55) {})
      (⟨2, true, .always⟩ : TineHd).tine).l.length = 8 ∧ (tineOf (testRun 4 0 (2 ^ 45 + 0x55) {}) (⟨2, true, .always⟩ :
      TineHd).tine).m.length = 8) ∧
    (TineReady (.tineSpec (⟨2, true, .always⟩ : TineHd) .clz (1 : Fin 16) (2 : Fin 16) false) (⟨2, true, .always⟩ : TineHd) (testRun 6 0 (2
      ^ 44 + 2 * 2 ^ 40) {}) ∧ (tineOf (testRun 6 0 (2 ^ 44 + 2 * 2 ^ 40) {}) (⟨2, true, .always⟩ : TineHd).tine).d.length = 16) ∧
    (TineReady (.tineSpec (⟨2, true, .always⟩ : TineHd) .isqrt (1 : Fin 16) (2 : Fin 16) false) (⟨2, true, .always⟩ : TineHd) (testRun 6 2
      (2 ^ 44 + 2 * 2 ^ 40) {}) ∧ (tineOf (testRun 6 2 (2 ^ 44 + 2 * 2 ^ 40) {}) (⟨2, true, .always⟩ : TineHd).tine).d.length = 16) :=
  ⟨⟨(by unfold TineReady; decide +kernel), by decide +kernel⟩,
    ⟨(by unfold TineReady; decide +kernel), by decide +kernel, by decide +kernel⟩,
    ⟨(by unfold TineReady; decide +kernel), by decide +kernel⟩,
    ⟨(by unfold TineReady; decide +kernel), by decide +kernel, by decide +kernel, by decide +kernel⟩,
    ⟨(by unfold TineReady; decide +kernel), by decide +kernel, by decide +kernel, by decide +kernel, by decide +kernel⟩,
    ⟨(by unfold TineReady; decide +kernel), by decide +kernel⟩,
    ⟨(by unfold TineReady; decide +kernel), by decide +kernel⟩⟩

/-- Clauses 1, 2, 3, 4, 5, 6, 7, 8, 9, 10 of Obligations.TineControlInstructionsComplete. -/
theorem test_tineControlInstructionsComplete_met :
    (TineReady (.tineBr (⟨2, true, .always⟩ : TineHd) (9 : BitVec 12)) (⟨2, true, .always⟩ : TineHd) (testRun 5 0 (9 * 2 ^ 36) {})) ∧
    (TineReady (.tineCall (⟨2, true, .always⟩ : TineHd) (9 : BitVec 12)) (⟨2, true, .always⟩ : TineHd) (testRun 5 1 (9 * 2 ^ 36) {}) ∧
      (tineOf (testRun 5 1 (9 * 2 ^ 36) {}) (⟨2, true, .always⟩ : TineHd).tine).calls.length < 8) ∧
    (TineReady (.tineRet (⟨2, true, .always⟩ : TineHd)) (⟨2, true, .always⟩ : TineHd) (testRun 5 2 (0) { calls := [(5, 0)] }) ∧ (tineOf
      (testRun 5 2 (0) { calls := [(5, 0)] }) (⟨2, true, .always⟩ : TineHd).tine).calls = ((5 : Nat), (0 : Nat)) :: ([] : List (Nat × Nat)))
      ∧
    (TineReady (.tineRep (⟨2, true, .always⟩ : TineHd) none (9 : BitVec 12) (3 : BitVec 16)) (⟨2, true, .always⟩ : TineHd) (testRun 5 3 (9 *
      2 ^ 36 + 3) {}) ∧ (3 : BitVec 16) ≠ 0 ∧ (tineOf (testRun 5 3 (9 * 2 ^ 36 + 3) {}) (⟨2, true, .always⟩ : TineHd).tine).reps.length < 3)
      ∧
    (TineReady (.tineRep (⟨2, true, .always⟩ : TineHd) none (9 : BitVec 12) 0) (⟨2, true, .always⟩ : TineHd) (testRun 5 3 (9 * 2 ^ 36) {})) ∧
    (TineReady (.tineNop (⟨2, true, .always⟩ : TineHd)) (⟨2, true, .always⟩ : TineHd) (testRun 5 5 (0) {})) ∧
    (TineReady (.tineEnd (⟨2, true, .always⟩ : TineHd)) (⟨2, true, .always⟩ : TineHd) (testRun 5 6 (0) {})) ∧
    (TineReady (.tineDmaStart (⟨2, true, .always⟩ : TineHd) (1 : Fin 2) false (0 : Fin 8) (0 : Fin 8) (4 : BitVec 14)) (⟨2, true, .always⟩ :
      TineHd) (testRun 7 0 (3 * 2 ^ 46 + 4) {}) ∧ (4 : BitVec 14) ≠ 0 ∧ (tineOf (testRun 7 0 (3 * 2 ^ 46 + 4) {}) (⟨2, true, .always⟩ :
      TineHd).tine).dma = [none, none] ∧ dmaAllowed (testRun 7 0 (3 * 2 ^ 46 + 4) {}) (⟨2, true, .always⟩ : TineHd).tine ⟨false, ((tineOf
      (testRun 7 0 (3 * 2 ^ 46 + 4) {}) (⟨2, true, .always⟩ : TineHd).tine).a.getD (0 : Fin 8) 0).toNat, dGet (tineOf (testRun 7 0 (3 * 2 ^
      46 + 4) {}) (⟨2, true, .always⟩ : TineHd).tine) (2 * (0 : Fin 8)) true, (4 : BitVec 14).toNat⟩ = true) ∧
    (TineReady (.tineDmaWait (⟨2, true, .always⟩ : TineHd) (1 : Fin 2)) (⟨2, true, .always⟩ : TineHd) (testRun 7 1 (2 ^ 47) {})) ∧
    (TineReady (.tineEmit (⟨2, true, .always⟩ : TineHd) (0 : Fin 8) none (3 : BitVec 13)) (⟨2, true, .always⟩ : TineHd) (testRun 8 0 (3) {})
      ∧ slotRec (testRun 8 0 (3) {}) (tineOf (testRun 8 0 (3) {}) (⟨2, true, .always⟩ : TineHd).tine).slot = some testSlot ∧ (tineOf
      (testRun 8 0 (3) {}) (⟨2, true, .always⟩ : TineHd).tine).out.length + (3 : BitVec 13).toNat ≤ outMax testSlot ∧ (tineOf (testRun 8 0
      (3) {}) (⟨2, true, .always⟩ : TineHd).tine).dma = [none, none]) :=
  ⟨by unfold TineReady; decide +kernel,
    ⟨(by unfold TineReady; decide +kernel), by decide +kernel⟩,
    ⟨(by unfold TineReady; decide +kernel), by decide +kernel⟩,
    ⟨(by unfold TineReady; decide +kernel), by decide +kernel, by decide +kernel⟩,
    by unfold TineReady; decide +kernel,
    by unfold TineReady; decide +kernel,
    by unfold TineReady; decide +kernel,
    ⟨(by unfold TineReady; decide +kernel), by decide +kernel, by decide +kernel, by decide +kernel⟩,
    by unfold TineReady; decide +kernel,
    ⟨(by unfold TineReady; decide +kernel), by decide +kernel, by decide +kernel, by decide +kernel⟩⟩

/-- Clauses 1, 3, 4, 5 of Obligations.LoopAndAuxCommandsComplete. -/
theorem test_loopAndAuxCommandsComplete_met :
    (loopEnabled ({ boot := { step := 12 }, regs := [(Reg.CLE_CFG 2, 0xFFFFFFFF)] } : State) (2 : Fin 8) = true) ∧
    (loopEnabled ({ boot := { step := 12 }, regs := [(Reg.CLE_CFG 2, 0xFFFFFFFF), (Reg.CLE_SPTO 2, 0xFFFFFFFF)] } : State) (2 : Fin 8) =
      true ∧ rdf ({ boot := { step := 12 }, regs := [(Reg.CLE_CFG 2, 0xFFFFFFFF), (Reg.CLE_SPTO 2, 0xFFFFFFFF)] } : State)
      (Fld.CLE_CFG_sp_src (2 : Fin 8)) = 3 ∧ rdf
      ({ boot := { step := 12 }, regs := [(Reg.CLE_CFG 2, 0xFFFFFFFF), (Reg.CLE_SPTO 2, 0xFFFFFFFF)] } : State) (Fld.CLE_SPTO_sp_timeout (2
      : Fin 8)) ≠ 0 ∧ (loopOf ({ boot := { step := 12 }, regs := [(Reg.CLE_CFG 2, 0xFFFFFFFF), (Reg.CLE_SPTO 2, 0xFFFFFFFF)] } : State) (2 :
      Fin 8)).lost = false) ∧
    (asfOn ({ boot := { step := 12 }, regs := testRegs [(Reg.ASF_SCHED, 0xFFFFFFFF), (Reg.ASF_SLOTS 0, 2), (Reg.ASF_CFG 2, 2)] } : State) (2
      : Fin 8) = true ∧ slotChan
      ({ boot := { step := 12 }, regs := testRegs [(Reg.ASF_SCHED, 0xFFFFFFFF), (Reg.ASF_SLOTS 0, 2), (Reg.ASF_CFG 2, 2)] } : State)
      ({ boot := { step := 12 }, regs := testRegs [(Reg.ASF_SCHED, 0xFFFFFFFF), (Reg.ASF_SLOTS 0, 2), (Reg.ASF_CFG 2, 2)] } :
      State).asf.slot = (2 : Fin 8).val ∧ ((rdf
      ({ boot := { step := 12 }, regs := testRegs [(Reg.ASF_SCHED, 0xFFFFFFFF), (Reg.ASF_SLOTS 0, 2), (Reg.ASF_CFG 2, 2)] } : State)
      (Fld.ASF_CFG_mode (2 : Fin 8)) = 2 ∨ rdf
      ({ boot := { step := 12 }, regs := testRegs [(Reg.ASF_SCHED, 0xFFFFFFFF), (Reg.ASF_SLOTS 0, 2), (Reg.ASF_CFG 2, 2)] } : State)
      (Fld.ASF_CFG_mode (2 : Fin 8)) = 3)) ∧ (asfOf
      ({ boot := { step := 12 }, regs := testRegs [(Reg.ASF_SCHED, 0xFFFFFFFF), (Reg.ASF_SLOTS 0, 2), (Reg.ASF_CFG 2, 2)] } : State) (2 :
      Fin 8)).second = false) ∧
    (asfOn ({ boot := { step := 12 }, regs := testRegs [(Reg.ASF_SCHED, 0xFFFFFFFF), (Reg.ASF_SLOTS 0, 2), (Reg.ASF_CFG 2, 1)] } : State) (2
      : Fin 8) = true ∧ slotChan
      ({ boot := { step := 12 }, regs := testRegs [(Reg.ASF_SCHED, 0xFFFFFFFF), (Reg.ASF_SLOTS 0, 2), (Reg.ASF_CFG 2, 1)] } : State)
      ({ boot := { step := 12 }, regs := testRegs [(Reg.ASF_SCHED, 0xFFFFFFFF), (Reg.ASF_SLOTS 0, 2), (Reg.ASF_CFG 2, 1)] } :
      State).asf.slot = (2 : Fin 8).val ∧ rdf
      ({ boot := { step := 12 }, regs := testRegs [(Reg.ASF_SCHED, 0xFFFFFFFF), (Reg.ASF_SLOTS 0, 2), (Reg.ASF_CFG 2, 1)] } : State)
      (Fld.ASF_CFG_mode (2 : Fin 8)) ≠ 2 ∧ rdf
      ({ boot := { step := 12 }, regs := testRegs [(Reg.ASF_SCHED, 0xFFFFFFFF), (Reg.ASF_SLOTS 0, 2), (Reg.ASF_CFG 2, 1)] } : State)
      (Fld.ASF_CFG_mode (2 : Fin 8)) ≠ 3 ∧ rdf
      ({ boot := { step := 12 }, regs := testRegs [(Reg.ASF_SCHED, 0xFFFFFFFF), (Reg.ASF_SLOTS 0, 2), (Reg.ASF_CFG 2, 1)] } : State)
      (Fld.ASF_CFG_mode (2 : Fin 8)) ≠ 6) :=
  ⟨by decide +kernel,
    ⟨by decide +kernel, by decide +kernel, by decide +kernel, by decide +kernel⟩,
    ⟨by decide +kernel, by decide +kernel, by decide +kernel, by decide +kernel⟩,
    ⟨by decide +kernel, by decide +kernel, by decide +kernel, by decide +kernel, by decide +kernel⟩⟩

/-- Clauses 1, 2, 3, 4 of Obligations.MulchAndQueueCommandsComplete. -/
theorem test_mulchAndQueueCommandsComplete_met :
    (offered ({ mcd := { binds := [(3, { input := [⟨7, [1], false⟩] })] } } : State) = ((7 : Word64), (3 : Nat)) :: ([] : List (Word64 ×
      Nat)) ∧ freeEngine (if beginsItem ({ mcd := { binds := [(3, { input := [⟨7, [1], false⟩] })] } } : State) (3 : Nat) then enginesEnter
      ({ mcd := { binds := [(3, { input := [⟨7, [1], false⟩] })] } } : State) else
      ({ mcd := { binds := [(3, { input := [⟨7, [1], false⟩] })] } } : State)) = some (0 : Nat)) ∧
    (engineWork ({ mcd := { engines := [none, some 3] } } : State) (1 : Fin 2) = some (3 : Nat) ∧ isFenced
      ({ mcd := { engines := [none, some 3] } } : State) (Unit.engine (1 : Fin 2)) = false) ∧
    (4 ≤ (⟨4, 7⟩ : QueueId).group.val ∧ (queueOf ({} : State) (⟨4, 7⟩ : QueueId).group (⟨4, 7⟩ : QueueId).index).words.length < qDepth ({} :
      State) (⟨4, 7⟩ : QueueId).group) ∧
    (4 ≤ (⟨4, 7⟩ : QueueId).group.val ∧ qDepth
      ({ tb := { n := 1000000000000 }, qsy := { depth := [0, 0, 0, 0, 1], queues := [(4103, { words := [⟨7, true, true, true, 0⟩], fullAt := some 0 })] }, regs := [(Reg.QSY_STALL_CFG, 0xFFFFFFFF)] }
      : State) (⟨4, 7⟩ : QueueId).group ≤ (queueOf
      ({ tb := { n := 1000000000000 }, qsy := { depth := [0, 0, 0, 0, 1], queues := [(4103, { words := [⟨7, true, true, true, 0⟩], fullAt := some 0 })] }, regs := [(Reg.QSY_STALL_CFG, 0xFFFFFFFF)] }
      : State) (⟨4, 7⟩ : QueueId).group (⟨4, 7⟩ : QueueId).index).words.length ∧ (queueOf
      ({ tb := { n := 1000000000000 }, qsy := { depth := [0, 0, 0, 0, 1], queues := [(4103, { words := [⟨7, true, true, true, 0⟩], fullAt := some 0 })] }, regs := [(Reg.QSY_STALL_CFG, 0xFFFFFFFF)] }
      : State) (⟨4, 7⟩ : QueueId).group (⟨4, 7⟩ : QueueId).index).stalled = false ∧ rdf
      ({ tb := { n := 1000000000000 }, qsy := { depth := [0, 0, 0, 0, 1], queues := [(4103, { words := [⟨7, true, true, true, 0⟩], fullAt := some 0 })] }, regs := [(Reg.QSY_STALL_CFG, 0xFFFFFFFF)] }
      : State) Fld.QSY_STALL_CFG_stall_us ≠ 0 ∧ ((queueOf
      ({ tb := { n := 1000000000000 }, qsy := { depth := [0, 0, 0, 0, 1], queues := [(4103, { words := [⟨7, true, true, true, 0⟩], fullAt := some 0 })] }, regs := [(Reg.QSY_STALL_CFG, 0xFFFFFFFF)] }
      : State) (⟨4, 7⟩ : QueueId).group (⟨4, 7⟩ : QueueId).index).fullAt.any fun f => decide (f + rdf
      ({ tb := { n := 1000000000000 }, qsy := { depth := [0, 0, 0, 0, 1], queues := [(4103, { words := [⟨7, true, true, true, 0⟩], fullAt := some 0 })] }, regs := [(Reg.QSY_STALL_CFG, 0xFFFFFFFF)] }
      : State) Fld.QSY_STALL_CFG_stall_us * 64000 < now (advance (0 : Nat)
      ({ tb := { n := 1000000000000 }, qsy := { depth := [0, 0, 0, 0, 1], queues := [(4103, { words := [⟨7, true, true, true, 0⟩], fullAt := some 0 })] }, regs := [(Reg.QSY_STALL_CFG, 0xFFFFFFFF)] }
      : State)))) = true) :=
  ⟨⟨by decide +kernel, by decide +kernel⟩,
    ⟨by decide +kernel, by decide +kernel⟩,
    ⟨by decide +kernel, by decide +kernel⟩,
    ⟨by decide +kernel, by decide +kernel, by decide +kernel, by decide +kernel, by decide +kernel⟩⟩

/-- Clauses 1, 2, 3, 4, 5, 6, 7, 8 of Obligations.ControlItemCommandsComplete. -/
theorem test_controlItemCommandsComplete_met :
    (isCtl (testCtl 1 0) 1 = true) ∧
    (isCtl (testCtl 2 0) 2 = true) ∧
    (isCtl (testCtl 4 0) 4 = true) ∧
    (isCtl (testCtl 4 0) 4 = true ∧ Block.fdc ≠ .tin) ∧
    (isCtl (testCtl 5 5) 5 = true ∧ itemUnit (testCtl 5 5) < 90 ∧ isFenced ({ fcl := { fenced := 32 } } : State) (itemUnit (testCtl 5 5)) = true) ∧
    (isCtl (testCtl 6 5) 6 = true ∧ isFenced ({} : State) (itemUnit (testCtl 6 5)) = false) ∧
    (isCtl (testCtl 7 0) 7 = true) ∧
    (isCtl (testCtl 8 0) 8 = true) :=
  ⟨by decide +kernel,
    by decide +kernel,
    by decide +kernel,
    ⟨by decide +kernel, by decide +kernel⟩,
    ⟨by decide +kernel, by decide +kernel, by decide +kernel⟩,
    ⟨by decide +kernel, by decide +kernel⟩,
    by decide +kernel,
    by decide +kernel⟩

/-- Clauses 1, 2, 3, 4, 5, 6, 7 of Obligations.LaneAndPortCommandsComplete. -/
theorem test_laneAndPortCommandsComplete_met :
    (((portOf ({ plk := { up := { state := 1 }, dn := { state := 2 } } } : State) (portOfLane (5 : Fin 8))).state = 1 ∨ (portOf
      ({ plk := { up := { state := 1 }, dn := { state := 2 } } } : State) (portOfLane (5 : Fin 8))).state = 2) ∧ isFenced
      ({ plk := { up := { state := 1 }, dn := { state := 2 } } } : State) (Unit.lane (5 : Fin 8)) = false) ∧
    ((portOf ({ plk := { dn := { state := 1 } } } : State) Port.dn).state = 1 ∧ trainedCount ({ plk := { dn := { state := 1 } } } : State)
      Port.dn = 0 ∧ (portOf ({ plk := { dn := { state := 1 } } } : State) Port.dn).enabled + trainTicks ≤ (1000000000000 : Nat)) ∧
    (({ boot := { step := 12 }, plk := { dn := { state := 3 } } } : State).plk.dn.state = 3 ∧ 10 ≤
      ({ boot := { step := 12 }, plk := { dn := { state := 3 } } } : State).boot.step ∧
      ({ boot := { step := 12 }, plk := { dn := { state := 3 } } } : State).boot.step ≠ 15 ∧
      ({ boot := { step := 12 }, plk := { dn := { state := 3 } } } : State).plk.dn.enabled + 64000000000 ≤ (1000000000000 : Nat)) ∧
    ((portOf
      ({ plk := { up := { state := 2, wake := [(5, 0)] }, dn := { state := 2, wake := [(5, 0)] }, lanes := [(5, { trained := true })] } } :
      State) (portOfLane (5 : Fin 8))).state = 2 ∧ (laneSt
      ({ plk := { up := { state := 2, wake := [(5, 0)] }, dn := { state := 2, wake := [(5, 0)] }, lanes := [(5, { trained := true })] } } :
      State) (5 : Fin 8)).trained = true ∧ ((portOf
      ({ plk := { up := { state := 2, wake := [(5, 0)] }, dn := { state := 2, wake := [(5, 0)] }, lanes := [(5, { trained := true })] } } :
      State) (portOfLane (5 : Fin 8))).wake.any fun e => decide (e.1 = (5 : Fin 8).val) && decide (e.2 + wakeTicks ≤ (1000000000 : Nat))) =
      true) ∧
    ((laneSt ({ plk := { lanes := [(5, { trained := true })] } } : State) (5 : Fin 8)).trained = true) ∧
    ((portOf ({ plk := { dn := { state := 2 } } } : State) Port.dn).state = 2) ∧
    ((portOf ({ plk := { dn := { state := 2, rising := some 2 } } } : State) Port.dn).state = 2 ∧ (portOf
      ({ plk := { dn := { state := 2, rising := some 2 } } } : State) Port.dn).rising.isSome = true) :=
  ⟨⟨by decide +kernel, by decide +kernel⟩,
    ⟨by decide +kernel, by decide +kernel, by decide +kernel⟩,
    ⟨by decide +kernel, by decide +kernel, by decide +kernel, by decide +kernel⟩,
    ⟨by decide +kernel, by decide +kernel, by decide +kernel⟩,
    by decide +kernel,
    by decide +kernel,
    ⟨by decide +kernel, by decide +kernel⟩⟩

/-- Clauses 1, 2, 3, 4, 5, 6, 7, 8, 9 of Obligations.LinkTransportCommandsComplete. -/
theorem test_linkTransportCommandsComplete_met :
    ((portOf ({ plk := { dn := { state := 2, isOpen := true } } } : State) Port.dn).state = 2 ∧ (portOf
      ({ plk := { dn := { state := 2, isOpen := true } } } : State) Port.dn).closed = false ∧ (512 : Nat) ≠ 0 ∧ (512 : Nat) ≤ 512 ∧ (((3 :
      BitVec 2).toNat = 0 ∨ (portOf ({ plk := { dn := { state := 2, isOpen := true } } } : State) Port.dn).isOpen = true))) ∧
    ((portOf ({} : State) Port.dn).waiting = [] ∧ (txQueue ({} : State) Port.dn).words = []) ∧
    ((portOf ({ plk := { dn := { vc0 := some (.reject 1, 2) } } } : State) Port.dn).vc0 = some ((LinkMsg.reject 1), (2 : Nat)) ∧ (2 : Nat) <
      3 ∧ (portOf ({ plk := { dn := { vc0 := some (.reject 1, 2) } } } : State) Port.dn).vc0At + retryTicks ≤ (1000000000000 : Nat)) ∧
    ((portOf ({ plk := { up := { vc0 := some (.reject 1, 3) } } } : State) .up).vc0 = some ((LinkMsg.reject 1), (3 : Nat)) ∧ 3 ≤ (3 : Nat) ∧
      (portOf ({ plk := { up := { vc0 := some (.reject 1, 3) } } } : State) .up).vc0At + retryTicks ≤ (1000000000000 : Nat)) ∧
    ((portOf ({ plk := { dn := { state := 2 } } } : State) Port.dn).state = 2 ∧ (portOf ({ plk := { dn := { state := 2 } } } : State)
      Port.dn).arrive = none ∧ svcDead ({ plk := { dn := { state := 2 } } } : State) (markerChan Port.dn) (stampOf
      ({ plk := { dn := { state := 2 } } } : State) (512 + ({ plk := { dn := { state := 2 } } } : State).tsu.lineOf.getD (markerChan
      Port.dn) 0) (0 : Nat) (3 : Fin 97)) = false) ∧
    ((portOf ({ plk := { dn := { state := 2 } } } : State) Port.dn).state = 2 ∧ (portOf ({ plk := { dn := { state := 2 } } } : State)
      Port.dn).depart = none ∧ svcDead ({ plk := { dn := { state := 2 } } } : State) (markerChan Port.dn) (stampOf
      ({ plk := { dn := { state := 2 } } } : State) (512 + ({ plk := { dn := { state := 2 } } } : State).tsu.lineOf.getD (markerChan
      Port.dn) 0) (0 : Nat) (3 : Fin 97)) = false) ∧
    ((laneSt ({ plk := { lanes := [(5, { trained := true })] } } : State) (5 : Fin 8)).trained = true) ∧
    (4 ≤ (4 : Byte).toNat) ∧
    (messageTypes.contains (0x35 : Byte).toNat = false) :=
  ⟨⟨by decide +kernel, by decide +kernel, by decide +kernel, by decide +kernel, by decide +kernel⟩,
    ⟨by decide +kernel, by decide +kernel⟩,
    ⟨by decide +kernel, by decide +kernel, by decide +kernel⟩,
    ⟨by decide +kernel, by decide +kernel, by decide +kernel⟩,
    ⟨by decide +kernel, by decide +kernel, by decide +kernel⟩,
    ⟨by decide +kernel, by decide +kernel, by decide +kernel⟩,
    by decide +kernel,
    by decide +kernel,
    by decide +kernel⟩

/-- Clauses 1, 2, 3, 4, 5, 6, 9, 10, 11, 12 of Obligations.EnumerationCommandsComplete. -/
theorem test_enumerationCommandsComplete_met :
    (({ cfg := testCfg [testCascade], plk := { up := { state := 2 } } } : State).plk.up.state = 2 ∧
      ({ cfg := testCfg [testCascade], plk := { up := { state := 2 } } } : State).plk.up.closed = false ∧ (cascRec
      ({ cfg := testCfg [testCascade], plk := { up := { state := 2 } } } : State)).isSome = true ∧ isMaster
      ({ cfg := testCfg [testCascade], plk := { up := { state := 2 } } } : State) = false) ∧
    (({ plk := { dn := { state := 2 } } } : State).plk.dn.state = 2 ∧ ({ plk := { dn := { state := 2 } } } : State).plk.dn.closed = false) ∧
    (({ trl := { verUp := some ⟨1, [], ⟨[], [], []⟩⟩ } } : State).trl.verUp = some (⟨1, [], ⟨[], [], []⟩⟩ : VerifyJob)) ∧
    (({ trl := { verDn := some ⟨1, [], ⟨[], [], []⟩⟩ } } : State).trl.verDn = some (⟨1, [], ⟨[], [], []⟩⟩ : VerifyJob)) ∧
    (({ trl := { signing := some (.attest 2) } } : State).trl.signing = some (.attest (2 : Nat))) ∧
    (({ trl := { asked := true }, plk := { up := { state := 2 } } } : State).trl.asked = true ∧
      ({ trl := { asked := true }, plk := { up := { state := 2 } } } : State).plk.up.state = 2 ∧
      ({ trl := { asked := true }, plk := { up := { state := 2 } } } : State).plk.up.closed = false) ∧
    (({ boot := { straps := ⟨0, true, false, false⟩ }, plk := { dn := { isOpen := true } } } : State).plk.dn.closed = false ∧
      ({ boot := { straps := ⟨0, true, false, false⟩ }, plk := { dn := { isOpen := true } } } : State).plk.dn.isOpen = true ∧ isMaster
      ({ boot := { straps := ⟨0, true, false, false⟩ }, plk := { dn := { isOpen := true } } } : State) = true ∧ (1 : BitVec 4) ≠ 0 ∧
      ({ boot := { straps := ⟨0, true, false, false⟩ }, plk := { dn := { isOpen := true } } } : State).trl.enumerated = false) ∧
    (({ plk := { dn := { isOpen := true } } } : State).plk.dn.closed = false ∧ ({ plk := { dn := { isOpen := true } } } :
      State).plk.dn.isOpen = true ∧ isMaster ({ plk := { dn := { isOpen := true } } } : State) = false ∧
      ({ plk := { dn := { isOpen := true } } } : State).trl.enumerated = false) ∧
    (({ boot := { step := 9 }, cfg := testCfg [testCascade] } : State).boot.step = 9 ∧ (cascRec
      ({ boot := { step := 9 }, cfg := testCfg [testCascade] } : State)).isSome = true ∧ isMaster
      ({ boot := { step := 9 }, cfg := testCfg [testCascade] } : State) = false ∧ ({ boot := { step := 9 }, cfg := testCfg [testCascade] } :
      State).trl.accepted = false) ∧
    (isMaster ({ trl := { addr := 2 }, plk := { up := { isOpen := true } } } : State) = false ∧
      ({ trl := { addr := 2 }, plk := { up := { isOpen := true } } } : State).plk.up.closed = false ∧
      ({ trl := { addr := 2 }, plk := { up := { isOpen := true } } } : State).plk.up.isOpen = true ∧ (2 : BitVec 4).toNat =
      ({ trl := { addr := 2 }, plk := { up := { isOpen := true } } } : State).trl.addr) :=
  ⟨⟨by decide +kernel, by decide +kernel, by decide +kernel, by decide +kernel⟩,
    ⟨by decide +kernel, by decide +kernel⟩,
    by decide +kernel,
    by decide +kernel,
    by decide +kernel,
    ⟨by decide +kernel, by decide +kernel, by decide +kernel⟩,
    ⟨by decide +kernel, by decide +kernel, by decide +kernel, by decide +kernel, by decide +kernel⟩,
    ⟨by decide +kernel, by decide +kernel, by decide +kernel, by decide +kernel⟩,
    ⟨by decide +kernel, by decide +kernel, by decide +kernel, by decide +kernel⟩,
    ⟨by decide +kernel, by decide +kernel, by decide +kernel, by decide +kernel⟩⟩

/-- Clauses 1, 2, 3, 4, 5, 6, 7, 8, 9 of Obligations.CascadeRunCommandsComplete. -/
theorem test_cascadeRunCommandsComplete_met :
    (Tab.look ({ trl := { align := { pairs := [(3, (5, 9))] } } } : State).trl.align.pairs (3 : Nat) = some ((5, 9) : Nat × Nat)) ∧
    (Tab.look ({ trl := { align := { dnPairs := [(3, (5, 9))] } } } : State).trl.align.dnPairs (3 : Nat) = some ((5, 9) : Nat × Nat)) ∧
    (hearsMaster ({ trl := { accepted := true }, plk := { up := { isOpen := true } } } : State) = true ∧
      ({ trl := { accepted := true }, plk := { up := { isOpen := true } } } : State).trl.accepted = true ∧
      ({ trl := { accepted := true }, plk := { up := { isOpen := true } } } : State).trl.enumerated = false) ∧
    (hearsMaster ({ cfg := testCfg [testLidar, testPlan], plk := { up := { isOpen := true } } } : State) = true ∧ planExists
      ({ cfg := testCfg [testLidar, testPlan], plk := { up := { isOpen := true } } } : State) false (0 : BitVec 4).toNat = true ∧ judgeFrame
      (ctxOf ({ cfg := testCfg [testLidar, testPlan], plk := { up := { isOpen := true } } } : State) (domOf false)) (localFrame
      ({ cfg := testCfg [testLidar, testPlan], plk := { up := { isOpen := true } } } : State) (100 : BitVec 24).toNat) = .ahead) ∧
    (isMaster
      ({ boot := { straps := ⟨0, true, false, false⟩ }, esq := { staged := [{ fibre := false, plan := 0, target := 9, committed := false, scope := 1, origin := .master, taken := 0, readies := [1, 2] }] } }
      : State) = true ∧
      ({ boot := { straps := ⟨0, true, false, false⟩ }, esq := { staged := [{ fibre := false, plan := 0, target := 9, committed := false, scope := 1, origin := .master, taken := 0, readies := [1, 2] }] } }
      : State).esq.staged =
      [({ fibre := false, plan := 0, target := 9, committed := false, scope := 1, origin := .master, taken := 0, readies := [1, 2] } :
      Staged)] ∧
      ({ fibre := false, plan := 0, target := 9, committed := false, scope := 1, origin := .master, taken := 0, readies := [1, 2] } :
      Staged).target = (9 : BitVec 24).toNat ∧
      ({ fibre := false, plan := 0, target := 9, committed := false, scope := 1, origin := .master, taken := 0, readies := [1, 2] } :
      Staged).readies.contains (2 : BitVec 4).toNat = true) ∧
    (hearsMaster
      ({ plk := { up := { isOpen := true } }, esq := { staged := [{ fibre := false, plan := 0, target := 9, committed := false, scope := 1, origin := .master, taken := 0, readies := [1, 2] }] } }
      : State) = true ∧
      ({ plk := { up := { isOpen := true } }, esq := { staged := [{ fibre := false, plan := 0, target := 9, committed := false, scope := 1, origin := .master, taken := 0, readies := [1, 2] }] } }
      : State).esq.staged =
      [({ fibre := false, plan := 0, target := 9, committed := false, scope := 1, origin := .master, taken := 0, readies := [1, 2] } :
      Staged)] ∧
      ({ fibre := false, plan := 0, target := 9, committed := false, scope := 1, origin := .master, taken := 0, readies := [1, 2] } :
      Staged).target = localFrame
      ({ plk := { up := { isOpen := true } }, esq := { staged := [{ fibre := false, plan := 0, target := 9, committed := false, scope := 1, origin := .master, taken := 0, readies := [1, 2] }] } }
      : State) (9 : BitVec 24).toNat ∧
      ({ fibre := false, plan := 0, target := 9, committed := false, scope := 1, origin := .master, taken := 0, readies := [1, 2] } :
      Staged).origin = .master ∧
      ({ fibre := false, plan := 0, target := 9, committed := false, scope := 1, origin := .master, taken := 0, readies := [1, 2] } :
      Staged).committed = false) ∧
    (hearsMaster
      ({ plk := { up := { isOpen := true } }, esq := { staged := [{ fibre := false, plan := 0, target := 9, committed := false, scope := 1, origin := .master, taken := 0, readies := [1, 2] }] } }
      : State) = true ∧
      ({ plk := { up := { isOpen := true } }, esq := { staged := [{ fibre := false, plan := 0, target := 9, committed := false, scope := 1, origin := .master, taken := 0, readies := [1, 2] }] } }
      : State).esq.staged =
      [({ fibre := false, plan := 0, target := 9, committed := false, scope := 1, origin := .master, taken := 0, readies := [1, 2] } :
      Staged)] ∧
      ({ fibre := false, plan := 0, target := 9, committed := false, scope := 1, origin := .master, taken := 0, readies := [1, 2] } :
      Staged).target = localFrame
      ({ plk := { up := { isOpen := true } }, esq := { staged := [{ fibre := false, plan := 0, target := 9, committed := false, scope := 1, origin := .master, taken := 0, readies := [1, 2] }] } }
      : State) (9 : BitVec 24).toNat ∧
      ({ fibre := false, plan := 0, target := 9, committed := false, scope := 1, origin := .master, taken := 0, readies := [1, 2] } :
      Staged).origin = .master ∧
      ({ fibre := false, plan := 0, target := 9, committed := false, scope := 1, origin := .master, taken := 0, readies := [1, 2] } :
      Staged).committed = false) ∧
    (hearsMaster ({ plk := { up := { isOpen := true } } } : State) = true) ∧
    (hearsMaster ({ trl := { addr := 2 }, plk := { up := { isOpen := true } } } : State) = true ∧ (2 : BitVec 4).toNat =
      ({ trl := { addr := 2 }, plk := { up := { isOpen := true } } } : State).trl.addr) :=
  ⟨by decide +kernel,
    by decide +kernel,
    ⟨by decide +kernel, by decide +kernel, by decide +kernel⟩,
    ⟨by decide +kernel, by decide +kernel, by decide +kernel⟩,
    ⟨by decide +kernel, by decide +kernel, by decide +kernel, by decide +kernel⟩,
    ⟨by decide +kernel, by decide +kernel, by decide +kernel, by decide +kernel, by decide +kernel⟩,
    ⟨by decide +kernel, by decide +kernel, by decide +kernel, by decide +kernel, by decide +kernel⟩,
    by decide +kernel,
    ⟨by decide +kernel, by decide +kernel⟩⟩

/-- Clauses 1, 2, 3, 4 of Obligations.MergeCommandsComplete. -/
theorem test_mergeCommandsComplete_met :
    (({ boot := { straps := ⟨0, true, false, false⟩ }, plk := { dn := { isOpen := true } } } : State).plk.dn.closed = false ∧
      ({ boot := { straps := ⟨0, true, false, false⟩ }, plk := { dn := { isOpen := true } } } : State).plk.dn.isOpen = true ∧ isMaster
      ({ boot := { straps := ⟨0, true, false, false⟩ }, plk := { dn := { isOpen := true } } } : State) = true) ∧
    (({ plk := { dn := { isOpen := true } } } : State).plk.dn.closed = false ∧ ({ plk := { dn := { isOpen := true } } } :
      State).plk.dn.isOpen = true ∧ isMaster ({ plk := { dn := { isOpen := true } } } : State) = false) ∧
    (isMaster ({ boot := { straps := ⟨0, true, false, false⟩ }, trl := { merge := [(64 * 7 + 1, { ownAt := [(100, 0)] })] } } : State) =
      true ∧ ((mergeOf ({ boot := { straps := ⟨0, true, false, false⟩ }, trl := { merge := [(64 * 7 + 1, { ownAt := [(100, 0)] })] } } :
      State) (skey (7 : BitVec 6).toNat (1 : BitVec 6).toNat)).ownAt.any fun e => decide (liftNear (domCtx
      ({ boot := { straps := ⟨0, true, false, false⟩ }, trl := { merge := [(64 * 7 + 1, { ownAt := [(100, 0)] })] } } : State) (srcDom
      ({ boot := { straps := ⟨0, true, false, false⟩ }, trl := { merge := [(64 * 7 + 1, { ownAt := [(100, 0)] })] } } : State) (7 : BitVec
      6).toNat)).frame (9 : BitVec 24).toNat < e.1) && decide (e.2 + 64000 * rdf
      ({ boot := { straps := ⟨0, true, false, false⟩ }, trl := { merge := [(64 * 7 + 1, { ownAt := [(100, 0)] })] } } : State)
      Fld.TRL_MERGE_CFG_merge_wait ≤ now
      ({ boot := { straps := ⟨0, true, false, false⟩ }, trl := { merge := [(64 * 7 + 1, { ownAt := [(100, 0)] })] } } : State))) = true) ∧
    (({ trl := { enumerated := true }, plk := { dn := { isOpen := true } } } : State).plk.dn.closed = false ∧
      ({ trl := { enumerated := true }, plk := { dn := { isOpen := true } } } : State).plk.dn.isOpen = true ∧
      ({ trl := { enumerated := true }, plk := { dn := { isOpen := true } } } : State).trl.enumerated = true) :=
  ⟨⟨by decide +kernel, by decide +kernel, by decide +kernel⟩,
    ⟨by decide +kernel, by decide +kernel, by decide +kernel⟩,
    ⟨by decide +kernel, by decide +kernel⟩,
    ⟨by decide +kernel, by decide +kernel, by decide +kernel⟩⟩

/-- Clauses 1, 3, 4, 5, 6, 7 of Obligations.SafetyInputCommandsComplete. -/
theorem test_safetyInputCommandsComplete_met :
    (({} : State).clo.cycles + 1 < 240000) ∧
    (filterCycles ({} : State) (3 : Fin 17) ≤ (inSt ({} : State) (3 : Fin 17)).age) ∧
    (pulseDue testCloPulse (0 : Fin 4) = true) ∧
    (({ clo := { tpLow := 1 } } : State).clo.tpLow.getLsbD (0 : Fin 4) = true) ∧
    ((chainType testClo1 (0 : Fin 8) = 1 ∨ chainType testClo1 (0 : Fin 8) = 2 ∨ chainType testClo1 (0 : Fin 8) = 4) ∧ inputAt testClo1 (0 :
      Fin 8) 0 ≠ inputAt testClo1 (0 : Fin 8) 1 ∧ (chainSt testClo1 (0 : Fin 8)).disc = false ∧ discCycles testClo1 (0 : Fin 8) ≤ (chainSt
      testClo1 (0 : Fin 8)).runs.getD 0 0) ∧
    (chainType testClo3 (0 : Fin 8) = 3 ∧ pressed testClo3 (0 : Fin 8) 0 ≠ pressed testClo3 (0 : Fin 8) 1 ∧ 2000 ≤ (chainSt testClo3 (0 :
      Fin 8)).oneRun) :=
  ⟨by decide +kernel,
    by decide +kernel,
    by decide +kernel,
    by decide +kernel,
    ⟨by decide +kernel, by decide +kernel, by decide +kernel, by decide +kernel⟩,
    ⟨by decide +kernel, by decide +kernel, by decide +kernel⟩⟩

/-- Clauses 1, 2, 3, 5 of Obligations.SafetyOutputCommandsComplete. -/
theorem test_safetyOutputCommandsComplete_met :
    (outEnabled testCloOut (0 : Fin 4) = true ∧ (outSt testCloOut (0 : Fin 4)).test = none ∧ testCloOut.clo.passed = true ∧ commissioning
      testCloOut = false ∧ (outSt testCloOut (0 : Fin 4)).hd = true ∧ (outSt testCloOut (0 : Fin 4)).ld = true ∧ testDue testCloOut (0 : Fin
      4) false = true) ∧
    ((outSt ({ clo := { outs := [(1, { test := some (true, true) })] } } : State) (1 : Fin 4)).test = some (true, true) ∧ (if true then (if
      true then true else !false) else false && true) = true) ∧
    (outEnabled testCloOut (0 : Fin 4) = true ∧ (if false then (outSt testCloOut (0 : Fin 4)).doneLo else (outSt testCloOut (0 : Fin
      4)).doneHi) + 1440 ≤ testCloOut.clo.minutes) ∧
    (4 ≤ ({ clo := { hbGap := 4 } } : State).clo.hbGap) :=
  ⟨⟨by decide +kernel, by decide +kernel, by decide +kernel, by decide +kernel, by decide +kernel, by decide +kernel, by decide +kernel⟩,
    ⟨by decide +kernel, by decide +kernel⟩,
    ⟨by decide +kernel, by decide +kernel⟩,
    by decide +kernel⟩

/-- Clauses 1, 2, 3, 4, 5, 6 of Obligations.VerdictCommandsComplete. -/
theorem test_verdictCommandsComplete_met :
    (({ clo := { passed := true, toSafe := [testX12 (.verdict) 9 [0, 3]] } } : State).clo.passed = true ∧ x12Next
      ({ clo := { passed := true, toSafe := [testX12 (.verdict) 9 [0, 3]] } } : State) .verdict (9 : BitVec 24).toNat = some (testX12
      (.verdict) 9 [0, 3])) ∧
    (({ clo := { passed := true, toSafe := [testX12 (.tine 1) 9 [0, 3]] } } : State).clo.passed = true ∧ x12Next
      ({ clo := { passed := true, toSafe := [testX12 (.tine 1) 9 [0, 3]] } } : State) (.tine 1) (9 : BitVec 24).toNat = some (testX12 (.tine
      1) 9 [0, 3]) ∧ (testX12 (.tine 1) 9 [0, 3]).data ((0 : Word64) :: ([3] : List Word64)) = (0 : Word64) :: ([3] : List Word64) ∧ bits (0
      : Word64).toNat 16 6 = 0) ∧
    (({ clo := { passed := true, toSafe := [testX12 (.tine 2) 9 [0, 3]] } } : State).clo.passed = true ∧ x12Next
      ({ clo := { passed := true, toSafe := [testX12 (.tine 2) 9 [0, 3]] } } : State) (.tine 2) (9 : BitVec 24).toNat = some (testX12 (.tine
      2) 9 [0, 3]) ∧ (testX12 (.tine 2) 9 [0, 3]).data ((0 : Word64) :: ([3] : List Word64)) = (0 : Word64) :: ([3] : List Word64) ∧ bits (0
      : Word64).toNat 16 6 = 0) ∧
    (({ clo := { passed := true } } : State).clo.passed = true) ∧
    (({ clo := { passed := true, toSafe := [testX12 (.zone) 9 [0, 3]] } } : State).clo.passed = true ∧ x12Next
      ({ clo := { passed := true, toSafe := [testX12 (.zone) 9 [0, 3]] } } : State) .zone (9 : BitVec 24).toNat = some (testX12 (.zone) 9
      [0, 3])) ∧
    (({ clo := { passed := true, zones := { interval := some 9 } } } : State).clo.passed = true ∧ zoneMode
      ({ clo := { passed := true, zones := { interval := some 9 } } } : State) = 0 ∧
      ({ clo := { passed := true, zones := { interval := some 9 } } } : State).clo.zones.interval = some (9 : BitVec 24).toNat ∧
      ({ clo := { passed := true, zones := { interval := some 9 } } } : State).clo.zones.judged = false ∧
      ({ clo := { passed := true, zones := { interval := some 9 } } } : State).clo.zones.due ≤ (0 : Nat)) :=
  ⟨⟨by decide +kernel, by decide +kernel⟩,
    ⟨by decide +kernel, by decide +kernel, by decide +kernel, by decide +kernel⟩,
    ⟨by decide +kernel, by decide +kernel, by decide +kernel, by decide +kernel⟩,
    by decide +kernel,
    ⟨by decide +kernel, by decide +kernel⟩,
    ⟨by decide +kernel, by decide +kernel, by decide +kernel, by decide +kernel, by decide +kernel⟩⟩

/-- Clauses 1, 2, 3, 4, 5, 7, 8 of Obligations.BrakeAndResetCommandsComplete. -/
theorem test_brakeAndResetCommandsComplete_met :
    (chainType (testClo [(0x24, 5)] { chains := [(0, { ran := true })] }) (0 : Fin 8) = 5 ∧ (chainSt (testClo [(0x24, 5)]
      { chains := [(0, { ran := true })] }) (0 : Fin 8)).brake ≠ 1 ∧ (chainSt (testClo [(0x24, 5)] { chains := [(0, { ran := true })] }) (0
      : Fin 8)).brake ≠ 2 ∧ (chainSt (testClo [(0x24, 5)] { chains := [(0, { ran := true })] }) (0 : Fin 8)).brake ≠ 3 ∧ brakeDue (testClo
      [(0x24, 5)] { chains := [(0, { ran := true })] }) (0 : Fin 8) = true) ∧
    ((chainSt ({ clo := { chains := [(0, { brake := 3 })], toSafe := [testX12 (.window 0) 0 [5]] } } : State) (0 : Fin 8)).brake = 3 ∧
      (false = true → chainEnc1 ({ clo := { chains := [(0, { brake := 3 })], toSafe := [testX12 (.window 0) 0 [5]] } } : State) (0 : Fin 8)
      = true) ∧ x12Next ({ clo := { chains := [(0, { brake := 3 })], toSafe := [testX12 (.window 0) 0 [5]] } } : State) (.window (chainEnc
      ({ clo := { chains := [(0, { brake := 3 })], toSafe := [testX12 (.window 0) 0 [5]] } } : State) (0 : Fin 8) (b2n false))) 0 = some
      (testX12 (.window 0) 0 [5]) ∧ chainMotion ({ clo := { chains := [(0, { brake := 3 })], toSafe := [testX12 (.window 0) 0 [5]] } } :
      State) (0 : Fin 8) < (((testX12 (.window 0) 0 [5]).data [BitVec.ofNat 64 (5 : Nat)]).headD 0).toNat) ∧
    ((chainSt ({ clo := { chains := [(0, { brake := 3 })], toSafe := [testX12 (.window 0) 0 [0]] } } : State) (0 : Fin 8)).brake = 3 ∧
      (chainSt ({ clo := { chains := [(0, { brake := 3 })], toSafe := [testX12 (.window 0) 0 [0]] } } : State) (0 : Fin 8)).results = [] ∧
      chainEnc1 ({ clo := { chains := [(0, { brake := 3 })], toSafe := [testX12 (.window 0) 0 [0]] } } : State) (0 : Fin 8) = false ∧
      x12Next ({ clo := { chains := [(0, { brake := 3 })], toSafe := [testX12 (.window 0) 0 [0]] } } : State) (.window (chainEnc
      ({ clo := { chains := [(0, { brake := 3 })], toSafe := [testX12 (.window 0) 0 [0]] } } : State) (0 : Fin 8) 0)) 0 = some (testX12
      (.window 0) 0 [0]) ∧ (((testX12 (.window 0) 0 [0]).data [BitVec.ofNat 64 (0 : Nat)]).headD 0).toNat ≤ chainMotion
      ({ clo := { chains := [(0, { brake := 3 })], toSafe := [testX12 (.window 0) 0 [0]] } } : State) (0 : Fin 8)) ∧
    ((chainSt ({ tb := { n := 1000000000000 }, clo := { chains := [(0, { brake := 3 })] } } : State) (0 : Fin 8)).brake = 3 ∧ (chainSt
      ({ tb := { n := 1000000000000 }, clo := { chains := [(0, { brake := 3 })] } } : State) (0 : Fin 8)).results = [] ∧ (tsiOf
      ({ tb := { n := 1000000000000 }, clo := { chains := [(0, { brake := 3 })] } } : State) (chainEnc
      ({ tb := { n := 1000000000000 }, clo := { chains := [(0, { brake := 3 })] } } : State) (0 : Fin 8) 0)).window = none ∧ (tsiOf
      ({ tb := { n := 1000000000000 }, clo := { chains := [(0, { brake := 3 })] } } : State) (chainEnc
      ({ tb := { n := 1000000000000 }, clo := { chains := [(0, { brake := 3 })] } } : State) (0 : Fin 8) 0)).closedAt + 640000000 ≤ now
      ({ tb := { n := 1000000000000 }, clo := { chains := [(0, { brake := 3 })] } } : State)) ∧
    (chainType testCloDue (0 : Fin 8) = 5 ∧ (chainSt testCloDue (0 : Fin 8)).brake ≠ 0 ∧ (chainSt testCloDue (0 : Fin 8)).brake ≠ 4 ∧
      (chainSt testCloDue (0 : Fin 8)).overdue = false ∧ (chainSt testCloDue (0 : Fin 8)).dueAt + 60 * chainGrace testCloDue (0 : Fin 8) ≤
      testCloDue.clo.minutes) ∧
    (({ clo := { passed := true, press := 300 } } : State).clo.blocked = false ∧ ({ clo := { passed := true, press := 300 } } :
      State).clo.passed = true ∧ inLevel ({ clo := { passed := true, press := 300 } } : State) 16 = false ∧ within 200 12000
      ({ clo := { passed := true, press := 300 } } : State).clo.press = true) ∧
    (inLevel ({ clo := { press := 12000, inputs := [(16, { filt := true })] } } : State) 16 = true ∧ 12000 ≤
      ({ clo := { press := 12000, inputs := [(16, { filt := true })] } } : State).clo.press) :=
  ⟨⟨by decide +kernel, by decide +kernel, by decide +kernel, by decide +kernel, by decide +kernel⟩,
    ⟨by decide +kernel, by decide +kernel, by decide +kernel, by decide +kernel⟩,
    ⟨by decide +kernel, by decide +kernel, by decide +kernel, by decide +kernel, by decide +kernel⟩,
    ⟨by decide +kernel, by decide +kernel, by decide +kernel, by decide +kernel⟩,
    ⟨by decide +kernel, by decide +kernel, by decide +kernel, by decide +kernel, by decide +kernel⟩,
    ⟨by decide +kernel, by decide +kernel, by decide +kernel, by decide +kernel⟩,
    ⟨by decide +kernel, by decide +kernel⟩⟩

/-- Clauses 1, 2, 3, 4, 5, 6, 7 of Obligations.BlackChannelCommandsComplete. -/
theorem test_blackChannelCommandsComplete_met :
    (testCloTx.clo.passed = true ∧ connId testCloTx (0 : Fin 4) ≠ 0 ∧ ((∀ c ∈ usedChains testCloTx, chainType testCloTx c ≠ 5)) ∧ (connSt
      testCloTx (0 : Fin 4)).txAt + txCycles testCloTx (0 : Fin 4) ≤ testCloTx.clo.cyc) ∧
    (testCloConn.clo.passed = true ∧ (Tab.lookD testCloConn.hif.bc (0 : Fin 4) {}).pending = false ∧ bcChecks (advance (0 : Nat)
      testCloConn) (0 : Fin 4) testMsg = true ∧ (connSt testCloConn (0 : Fin 4)).got = false) ∧
    (connId testCloTx (0 : Fin 4) ≠ 0 ∧ testCloTx.clo.passed = true ∧ (connSt testCloTx (0 : Fin 4)).gotAt + timeoutCycles testCloTx (0 :
      Fin 4) ≤ testCloTx.clo.cyc) ∧
    ((Tab.lookD ({} : State).hif.bc (0 : Fin 4) {}).pending = false) ∧
    ((Tab.lookD ({ hif := { bc := [(0, { pending := true })] } } : State).hif.bc (0 : Fin 4) {}).pending = true) ∧
    (({ clo := { session := true, minutes := 15 } } : State).clo.session = true ∧ ({ clo := { session := true, minutes := 15 } } :
      State).clo.sessionAt + 15 ≤ ({ clo := { session := true, minutes := 15 } } : State).clo.minutes) ∧
    (({ clo := { pwLock := 1, failures := 5 } } : State).clo.pwLock ≤ 1 ∧ 5 ≤ ({ clo := { pwLock := 1, failures := 5 } } : State).clo.failures) :=
  ⟨⟨by decide +kernel, by decide +kernel, by decide +kernel, by decide +kernel⟩,
    ⟨by decide +kernel, by decide +kernel, by decide +kernel, by decide +kernel⟩,
    ⟨by decide +kernel, by decide +kernel, by decide +kernel⟩,
    by decide +kernel,
    by decide +kernel,
    ⟨by decide +kernel, by decide +kernel⟩,
    ⟨by decide +kernel, by decide +kernel⟩⟩

/-- Clauses 1, 2, 3, 4, 5, 6, 7, 8, 9, 10, 11, 12, 13 of Obligations.RingOrdersComplete. -/
theorem test_ringOrdersComplete_met :
    (PlainEntry testEntry ({} : State)) ∧
    (PlainEntry testEntry ({ cfg := testCfg [testLidar, testPlan] } : State) ∧ hasLidar ({ cfg := testCfg [testLidar, testPlan] } : State) =
      true ∧ planExists ({ cfg := testCfg [testLidar, testPlan] } : State) false (0 : Byte).toNat = true ∧ x8Full
      ({ cfg := testCfg [testLidar, testPlan] } : State) = false) ∧
    (PlainEntry testEntry ({} : State) ∧ 1 ≤ (0x17 : Byte).toNat ∧ (0x17 : Byte).toNat ≤ 0x17 ∧ (0x3E : Byte).toNat ≤ 0x3E ∧ x8Full ({} :
      State) = false) ∧
    (PlainEntry testEntry ({ cfg := testCfg [testCapture] } : State) ∧ capTrigCheck ({ cfg := testCfg [testCapture] } : State) (1 :
      Byte).toNat = none) ∧
    (PlainEntry testEntry ({ cfg := testCfg [testCapture], tae := { units := [(1, { state := 1 })] } } : State) ∧ (unitRec
      ({ cfg := testCfg [testCapture], tae := { units := [(1, { state := 1 })] } } : State) (1 : Byte).toNat).isSome = true ∧ (unitOf
      ({ cfg := testCfg [testCapture], tae := { units := [(1, { state := 1 })] } } : State) (1 : Byte).toNat).noFit = false ∧ (unitOf
      ({ cfg := testCfg [testCapture], tae := { units := [(1, { state := 1 })] } } : State) (1 : Byte).toNat).state = 1) ∧
    (PlainEntry testEntry ({ cfg := testCfg [testCapture], tae := { units := [(1, { state := 3 })] } } : State) ∧ (unitRec
      ({ cfg := testCfg [testCapture], tae := { units := [(1, { state := 3 })] } } : State) (1 : Byte).toNat).isSome = true ∧ (unitOf
      ({ cfg := testCfg [testCapture], tae := { units := [(1, { state := 3 })] } } : State) (1 : Byte).toNat).noFit = false ∧ (unitOf
      ({ cfg := testCfg [testCapture], tae := { units := [(1, { state := 3 })] } } : State) (1 : Byte).toNat).state = 3) ∧
    (PlainEntry testEntry ({ cfg := testCfg [testCapture], tae := { units := [(1, { state := 3 })] } } : State) ∧ (unitRec
      ({ cfg := testCfg [testCapture], tae := { units := [(1, { state := 3 })] } } : State) (1 : Byte).toNat).isSome = true ∧ (unitOf
      ({ cfg := testCfg [testCapture], tae := { units := [(1, { state := 3 })] } } : State) (1 : Byte).toNat).noFit = false ∧ (unitOf
      ({ cfg := testCfg [testCapture], tae := { units := [(1, { state := 3 })] } } : State) (1 : Byte).toNat).state = 3) ∧
    (PlainEntry testEntry ({ cfg := testCfg [testCapture], tae := { units := [(1, { state := 5 })] } } : State) ∧ (unitRec
      ({ cfg := testCfg [testCapture], tae := { units := [(1, { state := 5 })] } } : State) (1 : Byte).toNat).isSome = true ∧ (unitOf
      ({ cfg := testCfg [testCapture], tae := { units := [(1, { state := 5 })] } } : State) (1 : Byte).toNat).noFit = false ∧ (((unitOf
      ({ cfg := testCfg [testCapture], tae := { units := [(1, { state := 5 })] } } : State) (1 : Byte).toNat).state = 0 ∨ (unitOf
      ({ cfg := testCfg [testCapture], tae := { units := [(1, { state := 5 })] } } : State) (1 : Byte).toNat).state = 5))) ∧
    (PlainEntry testEntry ({ boot := { step := 12 }, fcl := { contained := true } } : State) ∧
      ({ boot := { step := 12 }, fcl := { contained := true } } : State).boot.step ≠ 15 ∧
      ({ boot := { step := 12 }, fcl := { contained := true } } : State).fcl.contained = true) ∧
    (PlainEntry testEntry ({ boot := { step := 12 }, fcl := { fatal := true } } : State) ∧
      ({ boot := { step := 12 }, fcl := { fatal := true } } : State).boot.step ≠ 15 ∧ ({ boot := { step := 12 }, fcl := { fatal := true } }
      : State).fcl.fatal = true) ∧
    (PlainEntry testEntry ({ fcl := { fenced := BitVec.ofNat 90 (2 ^ 0x22) } } : State) ∧ graftRefused
      ({ fcl := { fenced := BitVec.ofNat 90 (2 ^ 0x22) } } : State) (0x22 : BitVec 16).toNat = none) ∧
    (({ fcl := { graft := some ⟨0x22, .host 0, false⟩ } } : State).fcl.graft = some (⟨0x22, .host 0, false⟩ : GraftRun) ∧ (⟨0x22, .host 0,
      false⟩ : GraftRun).passed = false ∧ (⟨0x22, .host 0, false⟩ : GraftRun).unit < 0x48 ∧ graftTestOk
      ({ fcl := { graft := some ⟨0x22, .host 0, false⟩ } } : State) (⟨0x22, .host 0, false⟩ : GraftRun).unit = true) ∧
    (({ fcl := { graft := some ⟨0x22, .host 0, false⟩ } } : State).fcl.graft = some (⟨0x22, .host 0, false⟩ : GraftRun) ∧ (⟨0x22, .host 0,
      false⟩ : GraftRun).passed = false) :=
  ⟨by unfold PlainEntry; decide +kernel,
    ⟨(by unfold PlainEntry; decide +kernel), by decide +kernel, by decide +kernel, by decide +kernel⟩,
    ⟨(by unfold PlainEntry; decide +kernel), by decide +kernel, by decide +kernel, by decide +kernel, by decide +kernel⟩,
    ⟨(by unfold PlainEntry; decide +kernel), by decide +kernel⟩,
    ⟨(by unfold PlainEntry; decide +kernel), by decide +kernel, by decide +kernel, by decide +kernel⟩,
    ⟨(by unfold PlainEntry; decide +kernel), by decide +kernel, by decide +kernel, by decide +kernel⟩,
    ⟨(by unfold PlainEntry; decide +kernel), by decide +kernel, by decide +kernel, by decide +kernel⟩,
    ⟨(by unfold PlainEntry; decide +kernel), by decide +kernel, by decide +kernel, by decide +kernel⟩,
    ⟨(by unfold PlainEntry; decide +kernel), by decide +kernel, by decide +kernel⟩,
    ⟨(by unfold PlainEntry; decide +kernel), by decide +kernel, by decide +kernel⟩,
    ⟨(by unfold PlainEntry; decide +kernel), by decide +kernel⟩,
    ⟨by decide +kernel, by decide +kernel, by decide +kernel, by decide +kernel⟩,
    ⟨by decide +kernel, by decide +kernel⟩⟩

/-- Clauses 1, 2, 3, 4, 5, 6, 7, 8, 9, 10, 11, 12 of Obligations.ManagementCommandsComplete. -/
theorem test_managementCommandsComplete_met :
    (PlainEntry testEntry ({ boot := { mode := 1 } } : State) ∧ commissioning ({ boot := { mode := 1 } } : State) = true ∧
      ({ boot := { mode := 1 } } : State).clo.pwLock = 0 ∧ passwordOk (12 : Byte).toNat (List.replicate 12 (0x41 : Byte)) = true ∧
      ({ boot := { mode := 1 } } : State).clo.block = []) ∧
    (PlainEntry testEntry ({ boot := { mode := 1 }, clo := { session := true } } : State) ∧
      ({ boot := { mode := 1 }, clo := { session := true } } : State).hif.background = none ∧ inSession
      ({ boot := { mode := 1 }, clo := { session := true } } : State) = true ∧ (65536 : Nat) ≤ 65536) ∧
    (PlainEntry testEntry ({ boot := { mode := 1 }, clo := { session := true, staged := some [] } } : State) ∧
      ({ boot := { mode := 1 }, clo := { session := true, staged := some [] } } : State).hif.background = none ∧ inSession
      ({ boot := { mode := 1 }, clo := { session := true, staged := some [] } } : State) = true ∧
      ({ boot := { mode := 1 }, clo := { session := true, staged := some [] } } : State).clo.staged.isSome = true) ∧
    (PlainEntry testEntry ({ boot := { mode := 1 }, clo := { session := true } } : State) ∧ inSession
      ({ boot := { mode := 1 }, clo := { session := true } } : State) = true) ∧
    (PlainEntry testEntry ({ boot := { mode := 1 }, clo := { session := true } } : State) ∧
      ({ boot := { mode := 1 }, clo := { session := true } } : State).hif.background = none ∧ noSlot (0 : Byte).toNat (3 : Byte).toNat =
      false ∧ inSession ({ boot := { mode := 1 }, clo := { session := true } } : State) = true ∧ emptySlot ((keySlots
      ({ boot := { mode := 1 }, clo := { session := true } } : State) (decide ((0 : Byte).toNat = 1))).getD (3 : Byte).toNat []) = true) ∧
    (PlainEntry testEntry ({ sec := { ks := [[1], [2], [0], [0]] } } : State) ∧ ({ sec := { ks := [[1], [2], [0], [0]] } } :
      State).hif.background = none ∧ noSlot (0 : Byte).toNat (0 : Byte).toNat = false ∧ slotRevoked
      ({ sec := { ks := [[1], [2], [0], [0]] } } : State) (decide ((0 : Byte).toNat = 1)) (0 : Byte).toNat = false ∧ revokeRefused
      ({ sec := { ks := [[1], [2], [0], [0]] } } : State) (decide ((0 : Byte).toNat = 1)) (0 : Byte).toNat = false) ∧
    (PlainEntry testEntry ({ boot := { step := 12 } } : State) ∧ 11 ≤ ({ boot := { step := 12 } } : State).boot.step ∧
      ({ boot := { step := 12 } } : State).boot.step ≠ 15 ∧ ({ boot := { step := 12 } } : State).fcl.fatal = false ∧
      ({ boot := { step := 12 } } : State).fcl.inFlight = []) ∧
    (PlainEntry testEntry ({ boot := { dirCopy := 1, slotSize := 4096, running := 1 } } : State) ∧
      ({ boot := { dirCopy := 1, slotSize := 4096, running := 1 } } : State).hif.background = none ∧ (1 : Byte).toNat ≤ 1 ∧
      ({ boot := { dirCopy := 1, slotSize := 4096, running := 1 } } : State).boot.dirCopy ≠ 0 ∧ (4096 : Nat) ≤
      ({ boot := { dirCopy := 1, slotSize := 4096, running := 1 } } : State).boot.slotSize ∧
      ({ boot := { dirCopy := 1, slotSize := 4096, running := 1 } } : State).boot.running ≠ (1 : Byte).toNat + 1) ∧
    (PlainEntry testEntry ({ boot := { mode := 2, step := 4 } } : State) ∧ ({ boot := { mode := 2, step := 4 } } : State).hif.background =
      none ∧ ({ boot := { mode := 2, step := 4 } } : State).boot.mode = 2 ∧ ({ boot := { mode := 2, step := 4 } } : State).boot.step = 4 ∧
      (4096 : Nat) ≤ 64 * mib) ∧
    (PlainEntry testEntry ({ boot := { mode := 1 }, clo := { session := true } } : State) ∧
      ({ boot := { mode := 1 }, clo := { session := true } } : State).hif.background = none ∧ inSession
      ({ boot := { mode := 1 }, clo := { session := true } } : State) = true) ∧
    (({} : State).hif.grafting = none ∧ testEntry.scope = false) ∧
    (({ hif := { background := some (.host 0, .keyProgram false 1 [7]) } } : State).hif.background = some ((Origin.host 0), .keyProgram
      false (1 : Nat) ([7] : List Byte))) :=
  ⟨⟨(by unfold PlainEntry; decide +kernel), by decide +kernel, by decide +kernel, by decide +kernel, by decide +kernel⟩,
    ⟨(by unfold PlainEntry; decide +kernel), by decide +kernel, by decide +kernel, by decide +kernel⟩,
    ⟨(by unfold PlainEntry; decide +kernel), by decide +kernel, by decide +kernel, by decide +kernel⟩,
    ⟨(by unfold PlainEntry; decide +kernel), by decide +kernel⟩,
    ⟨(by unfold PlainEntry; decide +kernel), by decide +kernel, by decide +kernel, by decide +kernel, by decide +kernel⟩,
    ⟨(by unfold PlainEntry; decide +kernel), by decide +kernel, by decide +kernel, by decide +kernel, by decide +kernel⟩,
    ⟨(by unfold PlainEntry; decide +kernel), by decide +kernel, by decide +kernel, by decide +kernel, by decide +kernel⟩,
    ⟨(by unfold PlainEntry; decide +kernel), by decide +kernel, by decide +kernel, by decide +kernel, by decide +kernel, by decide +kernel⟩,
    ⟨(by unfold PlainEntry; decide +kernel), by decide +kernel, by decide +kernel, by decide +kernel, by decide +kernel⟩,
    ⟨(by unfold PlainEntry; decide +kernel), by decide +kernel, by decide +kernel⟩,
    ⟨by decide +kernel, by decide +kernel⟩,
    by decide +kernel⟩

/-- Clauses 1, 2, 3, 4, 5 of Obligations.RegisterCommandsComplete. -/
theorem test_registerCommandsComplete_met :
    (barReaches ({} : State) Reg.HIF_STICKY = true ∧ (∃ r k, RegMap.find Reg.HIF_STICKY = some (r, k) ∧ r.acc = .w1c)) ∧
    (barReaches ({} : State) Reg.FCL_LOG_SEL = true ∧ (∃ r k, RegMap.find Reg.FCL_LOG_SEL = some (r, k) ∧ r.acc = .rt) ∧ Reg.FCL_LOG_SEL ≠
      Reg.TDC_CAL_REQ ∧ ringAtOff Reg.FCL_LOG_SEL = none ∧ (rtLimit ({} : State) Reg.FCL_LOG_SEL 200).2 = true) ∧
    ((readClears ({} : State) Reg.TDC_CAL_FAIL_COUNT = true → freshNow ({} : State) (rcKey ({} : State) Reg.TDC_CAL_FAIL_COUNT) = none)) ∧
    (readClears ({ boot := { step := 12 }, tb := { running := true, n := 2 }, fresh := [(Reg.TDC_CAL_FAIL_COUNT, ⟨5, 1, 128⟩)] } : State)
      Reg.TDC_CAL_FAIL_COUNT = true ∧ freshNow
      ({ boot := { step := 12 }, tb := { running := true, n := 2 }, fresh := [(Reg.TDC_CAL_FAIL_COUNT, ⟨5, 1, 128⟩)] } : State) (rcKey
      ({ boot := { step := 12 }, tb := { running := true, n := 2 }, fresh := [(Reg.TDC_CAL_FAIL_COUNT, ⟨5, 1, 128⟩)] } : State)
      Reg.TDC_CAL_FAIL_COUNT) = some (⟨5, 1, 128⟩ : Fresh)) ∧
    (pairLows.contains Reg.TBS_TIME_LO = true) :=
  ⟨⟨by decide +kernel, ⟨_, _, rfl, rfl⟩⟩,
    ⟨by decide +kernel, ⟨_, _, rfl, rfl⟩, by decide +kernel, by decide +kernel, by decide +kernel⟩,
    by decide +kernel,
    ⟨by decide +kernel, by decide +kernel⟩,
    by decide +kernel⟩

/-- Clauses 1, 2, 3, 4, 5, 6 of Obligations.RingCommandsComplete. -/
theorem test_ringCommandsComplete_met :
    (ringExists true (1 : Fin 16) = true ∧ (ringOf ({} : State) true (1 : Fin 16)).running = false ∧ 4 ≤ bits (16 : Word32).toNat 0 5 ∧ bits
      (16 : Word32).toNat 0 5 ≤ 16) ∧
    (ringExists true (1 : Fin 16) = true) ∧
    (bits (15 : Word32).toNat 0 16 < ringSize ({ regs := [(Reg.HIF_C2H_CTRL 2, 4)] } : State) false (2 : Fin 16)) ∧
    (testRing.hkp.hardCut = false ∧ rdb testRing (Fld.HIF_STREAM_MAP_enable (0 : Fin 64)) = true ∧ linkStill testRing = false ∧ (ringOf
      testRing false (rdf testRing (Fld.HIF_STREAM_MAP_c2h (0 : Fin 64)))).running = true ∧ (ringOf testRing false (rdf testRing
      (Fld.HIF_STREAM_MAP_c2h (0 : Fin 64)))).rest = none ∧ (ringOf testRing false (rdf testRing (Fld.HIF_STREAM_MAP_c2h (0 : Fin 64)))).buf
      = some (⟨⟨0, 4096, false, false⟩, [], 0, 0, [], 0⟩ : OpenBuf) ∧ queuedItem testRing (0 : Fin 64) ≠ [] ∧ (queuedItem testRing (0 : Fin
      64)).length ≤ (⟨⟨0, 4096, false, false⟩, [], 0, 0, [], 0⟩ : OpenBuf).room ∧ firstCame testRing (rdf testRing (Fld.HIF_STREAM_MAP_c2h
      (0 : Fin 64))) (0 : Fin 64) = true) ∧
    ((ringOf
      ({ hif := { c2h := [(2, { buf := some ⟨⟨0, 4096, false, false⟩, [7], 1, 0, [], 0⟩ })] }, regs := [(Reg.HIF_C2H_CTRL 2, 0xFFFF0000)], tb := { running := true } }
      : State) false (2 : Fin 16)).buf = some (⟨⟨0, 4096, false, false⟩, [7], 1, 0, [], 0⟩ : OpenBuf) ∧ (⟨⟨0, 4096, false, false⟩, [7], 1,
      0, [], 0⟩ : OpenBuf).data ≠ [] ∧ rdf
      ({ hif := { c2h := [(2, { buf := some ⟨⟨0, 4096, false, false⟩, [7], 1, 0, [], 0⟩ })] }, regs := [(Reg.HIF_C2H_CTRL 2, 0xFFFF0000)], tb := { running := true } }
      : State) (Fld.HIF_C2H_CTRL_close_us (2 : Fin 16)) ≠ 0 ∧ (⟨⟨0, 4096, false, false⟩, [7], 1, 0, [], 0⟩ : OpenBuf).stamp + rdf
      ({ hif := { c2h := [(2, { buf := some ⟨⟨0, 4096, false, false⟩, [7], 1, 0, [], 0⟩ })] }, regs := [(Reg.HIF_C2H_CTRL 2, 0xFFFF0000)], tb := { running := true } }
      : State) (Fld.HIF_C2H_CTRL_close_us (2 : Fin 16)) * 64000 ≤ now (advance (100000000000 : Nat)
      ({ hif := { c2h := [(2, { buf := some ⟨⟨0, 4096, false, false⟩, [7], 1, 0, [], 0⟩ })] }, regs := [(Reg.HIF_C2H_CTRL 2, 0xFFFF0000)], tb := { running := true } }
      : State))) ∧
    ((ringOf
      ({ hif := { h2c := [(0, { running := true })], background := some (.host 0, .imgWrite false 4096) }, regs := [(Reg.HIF_H2C_CTRL 0, 4), (Reg.HIF_H2C_PROD 0, 1)] }
      : State) true (0 : Fin 2)).running = true ∧ posted
      ({ hif := { h2c := [(0, { running := true })], background := some (.host 0, .imgWrite false 4096) }, regs := [(Reg.HIF_H2C_CTRL 0, 4), (Reg.HIF_H2C_PROD 0, 1)] }
      : State) true (0 : Fin 2) ≠ 0 ∧ h2cWanted
      ({ hif := { h2c := [(0, { running := true })], background := some (.host 0, .imgWrite false 4096) }, regs := [(Reg.HIF_H2C_CTRL 0, 4), (Reg.HIF_H2C_PROD 0, 1)] }
      : State) (0 : Fin 2) ≠ 0 ∧ descBad (⟨64, 4096, false, false⟩ : Descriptor) = false ∧ (⟨64, 4096, false, false⟩ : Descriptor).len ≠ 0)
      :=
  ⟨⟨by decide +kernel, by decide +kernel, by decide +kernel, by decide +kernel⟩,
    by decide +kernel,
    by decide +kernel,
    ⟨by decide +kernel, by decide +kernel, by decide +kernel, by decide +kernel, by decide +kernel, by decide +kernel, by decide +kernel, by decide +kernel, by decide +kernel⟩,
    ⟨by decide +kernel, by decide +kernel, by decide +kernel, by decide +kernel⟩,
    ⟨by decide +kernel, by decide +kernel, by decide +kernel, by decide +kernel, by decide +kernel⟩⟩

/-- Clauses 1, 5, 6, 7 of Obligations.PcieCommandsComplete. -/
theorem test_pcieCommandsComplete_met :
    (({ hif := { vecReq := 8 } } : State).hif.vecReq.getLsbD (3 : Fin 64) = true ∧ ((∀ u, Tab.look ({ hif := { vecReq := 8 } } :
      State).hif.vecSent (3 : Fin 64) = some u → u + rdf ({ hif := { vecReq := 8 } } : State) Fld.HIF_IRQ_MOD_irq_mod * 64000 ≤ now
      ({ hif := { vecReq := 8 } } : State)))) ∧
    (({ hif := { d3hot := true } } : State).hif.d3hot = true) ∧
    (1 ≤ (5 : Nat) ∧ (5 : Nat) ≤ 5 ∧ [1, 2, 4, 8].contains (8 : Nat) = true) ∧
    (({ hif := { linkUp := true, widthOk := true, negotiated := 4, width := 8 } } : State).hif.linkUp = true ∧
      ({ hif := { linkUp := true, widthOk := true, negotiated := 4, width := 8 } } : State).hif.widthOk = true ∧ (4 : Nat) = widthTarget
      ({ hif := { linkUp := true, widthOk := true, negotiated := 4, width := 8 } } : State) ∧ (4 : Nat) ≠
      ({ hif := { linkUp := true, widthOk := true, negotiated := 4, width := 8 } } : State).hif.width) :=
  ⟨⟨by decide +kernel, (by intro u h; cases h)⟩,
    by decide +kernel,
    ⟨by decide +kernel, by decide +kernel, by decide +kernel⟩,
    ⟨by decide +kernel, by decide +kernel, by decide +kernel, by decide +kernel⟩⟩

/-- Clauses 1, 2 of Obligations.FaultCommandsComplete. -/
theorem test_faultCommandsComplete_met :
    (msgNext (⟨640, 0x0B, .corrected, 2, 0x200, 0⟩ : FaultMsg) ({} : State) = true) ∧
    ((⟨0, 1, .fatal, 0, 0, 0⟩ : FaultMsg).cls = .fatal ∧ ({} : State).fcl.fatal = false ∧ ((∀ c, Tab.look ({} : State).fcl.clears 91 = some
      c → c < (⟨0, 1, .fatal, 0, 0, 0⟩ : FaultMsg).stamp))) :=
  ⟨by decide +kernel,
    ⟨by decide +kernel, by decide +kernel, (by intro c h; cases h)⟩⟩

/-- Clauses 1, 2, 3, 4, 5, 6, 7, 8, 9, 10 of Obligations.CalibrationAndOrderFormsAnswer. -/
theorem test_calibrationAndOrderFormsAnswer_met :
    (calOf ({ tdc := { strips := [(3, { phase := .passB, stopped := [true, true] })] } } : State) (3 : Fin 32) =
      ({ phase := .passB, stopped := [true, true] } : StripCal) ∧ ({ phase := .passB, stopped := [true, true] } : StripCal).full = true ∧
      ({ phase := .passB, stopped := [true, true] } : StripCal).phase ≠ .idle) ∧
    ((calOf ({ tdc := { strips := [(3, { phase := .passA })] }, regs := [(Reg.TDC_CAL_TIMING, 0xFFFFFFFF)] } : State) (3 : Fin 32)).phase ≠
      .idle ∧ (calOf ({ tdc := { strips := [(3, { phase := .passA })] }, regs := [(Reg.TDC_CAL_TIMING, 0xFFFFFFFF)] } : State) (3 : Fin
      32)).kind ≠ .startup ∧ rdf ({ tdc := { strips := [(3, { phase := .passA })] }, regs := [(Reg.TDC_CAL_TIMING, 0xFFFFFFFF)] } : State)
      Fld.TDC_CAL_TIMING_pass_timeout ≠ 0 ∧ (calOf
      ({ tdc := { strips := [(3, { phase := .passA })] }, regs := [(Reg.TDC_CAL_TIMING, 0xFFFFFFFF)] } : State) (3 : Fin 32)).began + rdf
      ({ tdc := { strips := [(3, { phase := .passA })] }, regs := [(Reg.TDC_CAL_TIMING, 0xFFFFFFFF)] } : State)
      Fld.TDC_CAL_TIMING_pass_timeout * 6400000000 ≤ (100000000000000 : Nat)) ∧
    (6 ≤ ({ boot := { step := 12 } } : State).boot.step) ∧
    (({ tdc := { calDone := true } } : State).tsu.stopped = false ∧ ({ tdc := { calDone := true } } : State).tsu.overlap = none ∧
      ({ tdc := { calDone := true } } : State).tdc.calDone = true ∧ auxCycle 4 ({ tdc := { calDone := true } } : State) (lineOf
      ({ tdc := { calDone := true } } : State) (512 + ({ tdc := { calDone := true } } : State).tsu.spare)) ([(testPass, testPass, testPass)]
      : List (PassCounts × PassCounts × PassCounts)) = some (some (((auxCycle 4 ({ tdc := { calDone := true } } : State) (lineOf
      ({ tdc := { calDone := true } } : State) 512) [(testPass, testPass, testPass)]).bind (·.1)).getD (lineOf
      ({ tdc := { calDone := true } } : State) 512)), (((auxCycle 4 ({ tdc := { calDone := true } } : State) (lineOf
      ({ tdc := { calDone := true } } : State) 512) [(testPass, testPass, testPass)]).map (·.2)).getD []))) ∧
    (({ tdc := { calDone := true } } : State).tsu.stopped = false ∧ ({ tdc := { calDone := true } } : State).tsu.overlap = none ∧
      ({ tdc := { calDone := true } } : State).tdc.calDone = true ∧ auxCycle 4 ({ tdc := { calDone := true } } : State) (lineOf
      ({ tdc := { calDone := true } } : State) (512 + ({ tdc := { calDone := true } } : State).tsu.spare)) ((List.replicate 4 (testPass,
      testPass, 2000000 :: List.replicate 96 0)) : List (PassCounts × PassCounts × PassCounts)) = some (none, (((auxCycle 4
      ({ tdc := { calDone := true } } : State) (lineOf ({ tdc := { calDone := true } } : State) 512) (List.replicate 4 (testPass, testPass,
      2000000 :: List.replicate 96 0))).map (·.2)).getD []))) ∧
    (({ tsu := { overlap := some ⟨19, 4, true⟩ } } : State).tsu.overlap = some (⟨19, 4, true⟩ : Overlap) ∧ (⟨19, 4, true⟩ : Overlap).agree = true) ∧
    (({ tsu := { overlap := some ⟨19, 4, false⟩ } } : State).tsu.overlap = some (⟨19, 4, false⟩ : Overlap) ∧ (⟨19, 4, false⟩ :
      Overlap).agree = false) ∧
    (hearsMaster ({ plk := { up := { isOpen := true } } } : State) = true ∧ judgeFrame (ctxOf ({ plk := { up := { isOpen := true } } } :
      State) (sharedDom ({ plk := { up := { isOpen := true } } } : State))) (localFrame ({ plk := { up := { isOpen := true } } } : State) (5
      : BitVec 24).toNat) = .ahead) ∧
    (hearsMaster ({ plk := { up := { isOpen := true } } } : State) = true ∧ judgeFrame (ctxOf ({ plk := { up := { isOpen := true } } } :
      State) (sharedDom ({ plk := { up := { isOpen := true } } } : State))) (localFrame ({ plk := { up := { isOpen := true } } } : State)
      (0xFFFFFF : BitVec 24).toNat) = .late) ∧
    (hearsMaster ({ boot := { mode := 1 }, clo := { session := true }, plk := { up := { isOpen := true } } } : State) = true ∧ inSession
      ({ boot := { mode := 1 }, clo := { session := true }, plk := { up := { isOpen := true } } } : State) = true) :=
  ⟨⟨by decide +kernel, by decide +kernel, by decide +kernel⟩,
    ⟨by decide +kernel, by decide +kernel, by decide +kernel, by decide +kernel⟩,
    by decide +kernel,
    ⟨by decide +kernel, by decide +kernel, by decide +kernel, by decide +kernel⟩,
    ⟨by decide +kernel, by decide +kernel, by decide +kernel, by decide +kernel⟩,
    ⟨by decide +kernel, by decide +kernel⟩,
    ⟨by decide +kernel, by decide +kernel⟩,
    ⟨by decide +kernel, by decide +kernel⟩,
    ⟨by decide +kernel, by decide +kernel⟩,
    ⟨by decide +kernel, by decide +kernel⟩⟩

/-- Clauses 1 and 2 of Obligations.RejectedWritesChangeNothing: a selector, a ring's CTRL with size 3 and while it runs, a
ring's PROD beyond the ring, a ring's LO while it runs. -/
theorem test_rejectedWritesChangeNothing_met :
    (barReaches testBack Reg.QSY_GROUP_SEL = true ∧ (∃ r k, RegMap.find Reg.QSY_GROUP_SEL = some (r, k) ∧ r.acc = .rt) ∧
      Reg.QSY_GROUP_SEL ≠ Reg.TDC_CAL_REQ ∧ ringAtOff Reg.QSY_GROUP_SEL = none ∧ (rtLimit testBack Reg.QSY_GROUP_SEL 10).2 = false) ∧
    ((∃ r k, RegMap.find (Reg.HIF_C2H_CTRL 2) = some (r, k) ∧ r.acc = .rt) ∧ ringAtOff (Reg.HIF_C2H_CTRL 2) = some (false, 2, 0x10) ∧
      bits 3 0 5 ≠ 0 ∧ bits 3 0 5 < 4) ∧
    (ringAtOff (Reg.HIF_C2H_CTRL 2) = some (false, 2, 0x10) ∧ bits 5 0 5 ≠ 0 ∧
      (ringOf ({ hif := { c2h := [(2, { running := true })] } } : State) false 2).running = true) ∧
    ((∃ r k, RegMap.find (Reg.HIF_H2C_PROD 0) = some (r, k) ∧ r.acc = .rt) ∧ ringAtOff (Reg.HIF_H2C_PROD 0) = some (true, 0, 0x14) ∧
      ringSize ({ regs := [(Reg.HIF_H2C_CTRL 0, 4)] } : State) true 0 ≤ bits 16 0 16) ∧
    ((∃ r k, RegMap.find (Reg.HIF_H2C_RING_LO 0) = some (r, k) ∧ r.acc = .rt) ∧ ringAtOff (Reg.HIF_H2C_RING_LO 0) = some (true, 0, 0) ∧
      (ringOf ({ hif := { h2c := [(0, { running := true })] } } : State) true 0).running = true) ∧
    ringSize ({ regs := [(Reg.HIF_C2H_CTRL 15, 4)] } : State) false (15 : Fin 16) ≤ bits (16 : Word32).toNat 0 16 :=
  ⟨⟨by decide +kernel, ⟨_, _, rfl, rfl⟩, by decide +kernel, by decide +kernel, by decide +kernel⟩,
    ⟨⟨_, _, rfl, rfl⟩, by decide +kernel, by decide +kernel, by decide +kernel⟩,
    ⟨by decide +kernel, by decide +kernel, by decide +kernel⟩,
    ⟨⟨_, _, rfl, rfl⟩, by decide +kernel, by decide +kernel⟩,
    ⟨⟨_, _, rfl, rfl⟩, by decide +kernel, by decide +kernel⟩, by decide +kernel⟩

/-- The clauses of Obligations.DeadTimeHidesEdges, at the last tick of the dead time. -/
theorem test_deadTimeHidesEdges_met :
    (Tab.look ({ tdc := { lastEdge := [(5, 1000)] } } : State).tdc.lastEdge (5 : Fin 512) = some 1000 ∧
      stampOf ({ tdc := { lastEdge := [(5, 1000)] } } : State) (5 : Fin 512) 1127 (0 : Fin 97) < 1000 + 128) ∧
    (Tab.look ({ tdc := { lastEdge := [(513, 1000)] } } : State).tdc.lastEdge (513 : Fin 532) = some 1000 ∧
      stampOf ({ tdc := { lastEdge := [(513, 1000)] } } : State) (513 : Fin 532) 1127 (0 : Fin 97) < 1000 + 128) ∧
    ((tsiOf ({ tsu := { chans := [(2, { lastAcc := some 1000 })] } } : State) (2 : Fin 16)).lastAcc = some 1000 ∧
      stampOf ({ tsu := { chans := [(2, { lastAcc := some 1000 })] } } : State)
        (512 + ({ tsu := { chans := [(2, { lastAcc := some 1000 })] } } : State).tsu.lineOf.getD (2 : Fin 16) 0) 1127 (0 : Fin 97) - 1000 < 128) ∧
    (Tab.look ({ tsu := { svcEdge := [(16, 1000)] } } : State).tsu.svcEdge 16 = some 1000 ∧
      stampOf ({ tsu := { svcEdge := [(16, 1000)] } } : State)
        (512 + ({ tsu := { svcEdge := [(16, 1000)] } } : State).tsu.lineOf.getD 16 0) 1127 (0 : Fin 97) < 1000 + 128) ∧
    (Tab.look ({ tsu := { svcEdge := [(18, 1000)] } } : State).tsu.svcEdge (markerChan .dn) = some 1000 ∧
      stampOf ({ tsu := { svcEdge := [(18, 1000)] } } : State)
        (512 + ({ tsu := { svcEdge := [(18, 1000)] } } : State).tsu.lineOf.getD (markerChan .dn) 0) 1127 (0 : Fin 97) < 1000 + 128) :=
  ⟨⟨by decide +kernel, by decide +kernel⟩, ⟨by decide +kernel, by decide +kernel⟩, ⟨by decide +kernel, by decide +kernel⟩,
    ⟨by decide +kernel, by decide +kernel⟩, by decide +kernel, by decide +kernel⟩

/-- Clauses 1 and 2 of Obligations.FullQueuesKeepTheirClass: a full queue of 32, and an empty one. -/
theorem test_fullQueuesKeepTheirClass_met :
    ((queueOf ({ qsy := { queues := [(5, { words := List.replicate 32 ⟨7, true, true, true, 0⟩ })] } } : State) 0 5).words.length
        = qDepth ({} : State) 0 ∧ 0 < qDepth ({} : State) 0 ∧ 0 < ({} : State).qsy.lostCt.length) ∧
    (queueOf ({} : State) 9 0).words.length < qDepth ({} : State) 9 :=
  ⟨⟨by decide +kernel, by decide +kernel, by decide +kernel⟩, by decide +kernel⟩

/-- The three cases of Obligations.ShotsKeepTheirSpacing: a start one tick too early after the bank's last pulse, a refusing
ledger of energy bound 0 with that spacing just met, and a shot that may be placed. -/
theorem test_shotsKeepTheirSpacing_met :
    (∃ l, Tab.look ({ esq := { lastPulse := [(2, 1000)], col := { start := 128999, nomEnd := 128999 } } } : State).esq.lastPulse 2 = some l ∧
      slotStart ({ esq := { lastPulse := [(2, 1000)], col := { start := 128999, nomEnd := 128999 } } } : State) 0 < l + 128000) ∧
    (Tab.look testLedger.esq.lastPulse 2 = none ∧ ledgerRefusals testLedger 2 (slotStart testLedger 0) ≠ []) ∧
    (Tab.look ({} : State).esq.lastPulse 2 = none ∧ ledgerRefusals ({} : State) 2 0 = [] ∧ ledgerOk ({} : State) 2 0 = true) :=
  ⟨⟨1000, by decide +kernel, by decide +kernel⟩, ⟨by decide +kernel, by decide +kernel⟩, by decide +kernel, by decide +kernel, by decide +kernel⟩

/-- The strap faults of R432 one by one, and the failed known-answer test, of Obligations.StartUpHaltsOnStrapOrSelfTestFault. -/
theorem test_startUpHalts_met :
    ((⟨1, true, false, false⟩ : Straps).bootMode = 1 ∧ (⟨1, true, false, false⟩ : Straps).commission = false) ∧
    ((⟨0, false, true, false⟩ : Straps).bootMode ≠ 1 ∧ (⟨0, false, true, false⟩ : Straps).commission = true) ∧
    ((⟨3, false, false, true⟩ : Straps).bootMode = 3 ∧ ({} : State).sec.testLock = true) ∧
    ((⟨0, false, false, true⟩ : Straps).testEn = true ∧ (⟨0, false, false, true⟩ : Straps).bootMode ≠ 3) ∧
    (({ testNvm with katOk := false } : NvmRead).present = true ∧
      dirHolds ({ testNvm with katOk := false } : NvmRead).dir0 (32 * 1048576) = true) := by decide +kernel

/-- The clauses of Obligations.FaultMessagesReactByClass; of the sixth, an earlier message on its way. -/
theorem test_faultMessagesReactByClass_met :
    ((⟨640, 6, .corrected, 31, 0x200, 0⟩ : FaultMsg).cls = .corrected ∧ msgNext ⟨640, 6, .corrected, 31, 0x200, 0⟩ ({} : State) = true) ∧
    ((⟨640, 6, .contained, 31, 0x201, 0⟩ : FaultMsg).cls = .contained ∧ fenceUnitOf ⟨640, 6, .contained, 31, 0x201, 0⟩ = some 31 ∧
      isFenced ({} : State) 31 = false ∧ msgNext ⟨640, 6, .contained, 31, 0x201, 0⟩ ({} : State) = true) ∧
    (fenceUnitOf ⟨640, 0x3F, .contained, 2, 0x201, 0⟩ = none ∧ Tab.look ({} : State).fcl.clears 90 = none) ∧
    ((⟨640, 6, .fatal, 31, 0x201, 0⟩ : FaultMsg).cls = .fatal ∧ ({} : State).fcl.fatal = false ∧ Tab.look ({} : State).fcl.clears 91 = none) ∧
    msgNext ⟨640, 6, .corrected, 31, 0x200, 0⟩ ({ fcl := { inFlight := [⟨320, 6, .corrected, 31, 0x200, 0⟩] } } : State) = false ∧
    (({ fcl := { fatal := true, fatalCause := 3, fatalStamp := 64 } } : State).fcl.fatal = true ∧
      ({ fcl := { fatal := true, fatalCause := 3, fatalStamp := 64 } } : State).fcl.provisional = false) := by decide +kernel

/-- The clauses of Obligations.CommandsEndAsTheSpecSays; of the first, a frame just passed, one half the range away, one
just ahead and the last ahead. -/
theorem test_commandsEndAsTheSpecSays_met :
    (({} : State).hif.grafting = none ∧ (ctxOf ({} : State) (sharedDom ({} : State))).begun = false ∧
      (0xFFFFFF + (16777216 - 16777215)) % 16777216 = 0 ∧ (0x7FFFFF + (16777216 - 16777215)) % 16777216 = 8388608 ∧
      (0 + (16777216 - 16777215)) % 16777216 = 1 ∧ (0x7FFFFE + (16777216 - 16777215)) % 16777216 = 8388607) ∧
    leadsChain ({} : State) = false ∧
    (testEntry.scope = false ∧ testEntry.frame = none ∧ 1 < (2 : Byte).toNat) ∧
    (hasLidar ({ cfg := testCfg [testLidar] } : State) = true ∧
      planExists ({ cfg := testCfg [testLidar] } : State) false (9 : Byte).toNat = false) ∧
    unitRec ({} : State) (3 : Byte).toNat = none ∧
    (graftRefused ({} : State) 90 = some .limit ∧ graftRefused ({} : State) 89 = some .state) ∧
    ((1 : Byte).toNat ≤ 1 ∧ 65536 ≤ testBack.boot.slotSize ∧ testBack.boot.dirCopy ≠ 0 ∧ testBack.boot.running ≠ (1 : Byte).toNat + 1 ∧
      testBack.hif.background = some (.host 0, .imgWrite false 4096) ∧ testBack.hif.grafting = none) ∧
    (noSlot (1 : Byte).toNat (1 : Byte).toNat = false ∧ inSession ({} : State) = false ∧ ({} : State).hif.background = none) ∧
    (commissioning ({ boot := { mode := 1 }, clo := { pwLock := 5 } } : State) = true ∧
      ({ boot := { mode := 1 }, clo := { pwLock := 5 } } : State).clo.pwLock ≠ 0) := by decide +kernel

/-- Obligations.TineInstructionsLeaveTheRest: a store and a transfer of a tine that runs. -/
theorem test_tineInstructionsLeaveTheRest_met :
    ((tineOf (testRun 0 0 0x10400000001 {}) 2).dma = [none, none] ∧
      TineReady (.tineAlu ⟨2, true, .always⟩ .add 0 1 0 false true 1) ⟨2, true, .always⟩ (testRun 0 0 0x10400000001 {})) ∧
    (tineOf (testTine { busy := true, slot := 1, dma := [none, some ⟨true, 8, 16, 2⟩] }) (2 : Fin 16)).dma.getD (1 : Fin 2) none
      = some ⟨true, 8, 16, 2⟩ := by unfold TineReady; decide +kernel

/-- Obligations.SafeOutputsAreOnOnlyInRun: an output without a test pulse. -/
theorem test_safeOutputsAreOnOnlyInRun_met : (outSt testCloOut (0 : Fin 4)).test = none := by decide +kernel

/-- The invariants of Obligations.OtpOnlyGrows, KeyJobsKeepFitting and TineMemoriesStayCanonical hold where a command runs:
a key that is being programmed, a tine at work. -/
theorem test_promises_met :
    KeyJobFits ({ hif := { background := some (.host 0, .keyProgram false 3 [1]) } } : State) ∧
    MemoriesCanonical (testTine { busy := true, slot := 1 }) ∧ TinesWhole (testTine { busy := true, slot := 1 }) := by
  refine ⟨?_, ?_, ?_⟩
  · intro o ar slot hash h
    cases h; decide +kernel
  · unfold MemoriesCanonical; decide +kernel
  · unfold TinesWhole; decide +kernel


end Sys2Proof.Tests
end

section
/-! PROOFS. Host writes that R10 discards: the parts that a mask of changes holds, the field a counter holds after it is
bumped, what a rejection leaves and counts, and the writes that are rejected. -/

namespace Sys2Proof.Machine

/-! ### The parts that a mask holds -/

theorem Part.bit_injective : Function.Injective Part.bit := by
  have bit_eq (p : Part) : p.bit = p.ctorIdx := by cases p <;> rfl
  intro p q h
  rw [← Part.ofNat_ctorIdx p, ← Part.ofNat_ctorIdx q, ← bit_eq, ← bit_eq, h]

/-- The mask of the parts listed. -/
def partsMask (l : List Part) : Nat := l.foldr (fun p w => 2 ^ p.bit ||| w) 0

theorem testBit_partsMask {l : List Part} {p : Part} (hp : p ∉ l) : (partsMask l).testBit p.bit = false := by
  induction l with
  | nil => exact Nat.zero_testBit _
  | cons q r ih =>
    obtain ⟨hq, hr⟩ := List.ne_and_not_mem_of_not_mem_cons hp
    have other : q.bit ≠ p.bit := fun e => hq (Part.bit_injective e).symm
    rw [partsMask, List.foldr_cons, Nat.testBit_or, Nat.testBit_two_pow_of_ne other, Bool.false_or]
    exact ih hr

/-- What changes at most the parts of a list's mask changes at most the parts listed. -/
theorem Keeps.onlyChanges {l : List Part} {s t : State} (h : Keeps (partsMask l) s t) : OnlyChanges l s t :=
  fun p hp => h.same p (testBit_partsMask hp)

/-! ### A field of a word after it is replaced -/

/-- A digit below `A` under a number below `C` stays below `A * C`. -/
theorem add_mul_lt_mul {r A n C : Nat} (hr : r < A) (hn : n < C) : r + A * n < A * C :=
  calc r + A * n < A + A * n := Nat.add_lt_add_right hr _
    _ = A * (n + 1) := by ring
    _ ≤ A * C := Nat.mul_le_mul_left A hn

/-- The word keeps what lies below and above the field. -/
theorem putBits_toNat (x : Word32) {lo w : Nat} (v : Nat) (h : lo + w ≤ 32) :
    (putBits x lo w v).toNat = x.toNat % 2 ^ lo + 2 ^ lo * (v % 2 ^ w + 2 ^ w * (x.toNat / 2 ^ lo / 2 ^ w)) := by
  have size : 2 ^ 32 = 2 ^ lo * (2 ^ w * 2 ^ (32 - (lo + w))) := by
    rw [← Nat.mul_assoc, ← Nat.pow_add, ← Nat.pow_add, Nat.add_sub_cancel' h]
  have top_lt : x.toNat / 2 ^ lo / 2 ^ w < 2 ^ (32 - (lo + w)) :=
    Nat.div_lt_of_lt_mul (Nat.div_lt_of_lt_mul (size ▸ x.isLt))
  have fits : x.toNat % 2 ^ lo + 2 ^ lo * (v % 2 ^ w + 2 ^ w * (x.toNat / 2 ^ lo / 2 ^ w)) < 2 ^ 32 :=
    size ▸ add_mul_lt_mul (Nat.mod_lt _ (Nat.two_pow_pos _)) (add_mul_lt_mul (Nat.mod_lt _ (Nat.two_pow_pos _)) top_lt)
  have parts : x.toNat = x.toNat % 2 ^ lo + 2 ^ lo * (x.toNat / 2 ^ lo % 2 ^ w + 2 ^ w * (x.toNat / 2 ^ lo / 2 ^ w)) := by
    rw [Nat.mod_add_div, Nat.mod_add_div]
  have replaced : x.toNat - bits x.toNat lo w * 2 ^ lo + v % 2 ^ w * 2 ^ lo =
      x.toNat % 2 ^ lo + 2 ^ lo * (v % 2 ^ w + 2 ^ w * (x.toNat / 2 ^ lo / 2 ^ w)) := by
    rw [bits, Nat.mul_comm _ (2 ^ lo), Nat.mul_comm _ (2 ^ lo)]
    rw [Nat.mul_add] at parts ⊢
    omega
  rw [putBits, BitVec.toNat_ofNat, replaced, Nat.mod_eq_of_lt fits]

theorem bits_putBits (x : Word32) {lo w : Nat} (v : Nat) (h : lo + w ≤ 32) :
    bits (putBits x lo w v).toNat lo w = v % 2 ^ w := by
  rw [putBits_toNat x v h, bits, Nat.add_mul_div_left _ _ (Nat.two_pow_pos _),
    Nat.div_eq_of_lt (Nat.mod_lt _ (Nat.two_pow_pos _)), Nat.zero_add, Nat.add_mul_mod_self_left, Nat.mod_mod]

/-! ### A counter after it is bumped -/

theorem rd_bumpAt_ne {off x : Nat} (lo w k s) (h : x ≠ off) : rd (bumpAt off lo w k s) x = rd s x :=
  Tab.lookD_put_ne _ _ _ h

theorem rd_bumpAt (off lo w k s) : rd (bumpAt off lo w k s) off =
    putBits (rd s off) lo w (if bits (rd s off).toNat lo w + k < 2 ^ w then bits (rd s off).toNat lo w + k
      else Config.freeNat s.freeIdx) := Tab.lookD_put_same _ _ _ _

/-- A counter that does not overflow counts (R8). -/
theorem bits_bumpAt {off lo w k : Nat} {s : State} (hw : lo + w ≤ 32) (h : bits (rd s off).toNat lo w + k < 2 ^ w) :
    bits (rd (bumpAt off lo w k s) off).toNat lo w = bits (rd s off).toNat lo w + k := by
  rw [rd_bumpAt, if_pos h, bits_putBits _ _ hw, Nat.mod_eq_of_lt h]

/-! ### What a rejection leaves and counts -/

theorem rd_rejectWrite_ne {x : Nat} (s) (hs : x ≠ Reg.HIF_STICKY) (hr : x ≠ Reg.HIF_REJECT) :
    rd (rejectWrite s) x = rd s x := by
  rw [rejectWrite, rd_stick_ne _ _ hs, bump, rd_bumpAt_ne _ _ _ _ hr]

theorem rejectCount_rejectWrite {s : State} (h : bits (rd s Reg.HIF_REJECT).toNat 0 16 + 1 < 65536) :
    bits (rd (rejectWrite s) Reg.HIF_REJECT).toNat 0 16 = bits (rd s Reg.HIF_REJECT).toNat 0 16 + 1 := by
  rw [rejectWrite, rd_stick_ne _ _ (by decide), bump]
  exact bits_bumpAt (by decide) h

/-! ### Passing time moves the TB counter alone -/

@[simp] theorem rd_advance (t s x) : rd (advance t s) x = rd s x := rfl
@[simp] theorem barReaches_advance (t s off) : barReaches (advance t s) off = barReaches s off := rfl

/-! ### The writes that are rejected -/

theorem ringCtrlWrite_rejects {h2c : Bool} {n : Nat} {v : Word32} {s : State} (size : bits v.toNat 0 5 ≠ 0)
    (bad : (ringOf s h2c n).running = true ∨ bits v.toNat 0 5 < 4 ∨ 16 < bits v.toNat 0 5) :
    ringCtrlWrite h2c n v s = rejectWrite s := by
  simp [ringCtrlWrite, size, or_assoc, bad]

theorem ringProdWrite_rejects {h2c : Bool} {n : Nat} {v : Word32} {s : State} (beyond : ringSize s h2c n ≤ bits v.toNat 0 16) :
    ringProdWrite h2c n v s = rejectWrite s :=
  if_neg (Nat.not_lt.mpr beyond)

theorem ringBaseWrite_rejects {off n : Nat} {h2c : Bool} {v : Word32} {s : State} (run : (ringOf s h2c n).running = true) :
    ringBaseWrite off h2c n v s = rejectWrite s :=
  if_pos run

/-- The value lies outside the limits of the RT register at `off`: a ring's CTRL, PROD or base register (R475, R491), or
a register with limits of its own. -/
def OutsideLimits (s : State) (off : Nat) (v : Word32) : Prop :=
  match ringAtOff off with
  | none => (rtLimit s off v.toNat).2 = false
  | some (h2c, n, 0x10) => bits v.toNat 0 5 ≠ 0 ∧
      ((ringOf s h2c n).running = true ∨ bits v.toNat 0 5 < 4 ∨ 16 < bits v.toNat 0 5)
  | some (h2c, n, 0x14) => ringSize s h2c n ≤ bits v.toNat 0 16
  | some (h2c, n, _) => (ringOf s h2c n).running = true

theorem outsideLimits_advance (t s off v) : OutsideLimits (advance t s) off v ↔ OutsideLimits s off v := Iff.rfl

theorem rtWrite_rejects {off : Nat} {v : Word32} {t : Tick} {s : State} (hcal : off ≠ Reg.TDC_CAL_REQ)
    (out : OutsideLimits s off v) : rtWrite off v t s = rejectWrite s := by
  rw [rtWrite, if_neg hcal]
  unfold OutsideLimits at out
  split at out
  case h_1 hring => simp [hring, out]
  case h_2 hring => simpa [hring] using ringCtrlWrite_rejects out.1 out.2
  case h_3 hring => simpa [hring] using ringProdWrite_rejects out
  case h_4 hctrl hprod hring => simpa [hring, if_neg hctrl, if_neg hprod] using ringBaseWrite_rejects out

/-- A host write to an RT register that BAR0 reaches (R9). -/
theorem onRegisterWrite_rt {off k : Nat} {v : Word32} {t : Tick} {s : State} {r : RegRow} (reach : barReaches s off = true)
    (row : RegMap.find off = some (r, k)) (rt : r.acc = .rt) : onRegisterWrite off v t s = rtWrite off v t (advance t s) := by
  simp [onRegisterWrite, reach, row, rt]

/-- Settles O9: each such write is `rejectWrite`, after the time of a BAR0 write has passed. -/
theorem rejectedWritesChangeNothing : Obligations.RejectedWritesChangeNothing := by
  refine ⟨fun s off v t0 r k reach row rt hcal out => ?_, fun s stream prod beyond => ?_⟩
  · have rejected : onRegisterWrite off v t0 s = rejectWrite (advance t0 s) :=
      (onRegisterWrite_rt reach row rt).trans (rtWrite_rejects hcal ((outsideLimits_advance ..).mpr out))
    have keeps : Keeps (partsMask [.regs, .tb, .freeIdx]) s (rejectWrite (advance t0 s)) :=
      rejectWrite_keeps (by decide) (advance_keeps t0 (by decide) .rfl')
    exact ⟨_, congrArg Host.Outcome.next rejected, keeps.onlyChanges,
      fun x hs hr => (rd_rejectWrite_ne _ hs hr).trans (rd_advance t0 s x), rejectCount_rejectWrite⟩
  · exact ⟨_, congrArg Host.Outcome.next (ringProdWrite_rejects beyond), fun x => rd_rejectWrite_ne _, rejectCount_rejectWrite⟩

end Sys2Proof.Machine
end

section
/-! PROOFS. The dead time of R51: what each of the six commands that bring an edge to a channel does with an edge that
the channel is dead for. -/

namespace Sys2Proof.Machine

/-! ### A channel within 2 ns of its last accepted edge -/

/-- The test of R51 on every channel but a timestamp input. -/
theorem dead_of_last {last : Option Tick} {l st : Tick} (accepted : last = some l) (early : st < l + 128) :
    (last.any fun l => decide (st < l + deadTicks)) = true := by
  rw [accepted]
  exact decide_eq_true early

/-- The test of R51 on a timestamp input, which measures the time since its last accepted edge (R70). -/
theorem dead_of_since {last : Option Tick} {l st : Tick} (accepted : last = some l) (early : st - l < 128) :
    ((last.map fun l => st - l).any fun d => decide (d < deadTicks)) = true := by
  rw [accepted]
  exact decide_eq_true early

/-! ### The edges a channel is dead for -/

/-- The coincidence edge leaves the PFE's own list and goes no further. -/
theorem onCoincidenceEdge_dead {s : State} {chan : Fin 512} {tap : Fin 97} {edge : Tick}
    (dead : ((Tab.look s.tdc.lastEdge chan).any fun l => decide (stampOf s chan edge tap < l + deadTicks)) = true) :
    ∃ p, onCoincidenceEdge chan tap edge s = { advance edge s with pfe := p } := by
  refine iteInduction (motive := fun t : State => ∃ p, t = { advance edge s with pfe := p })
    (fun _ => ?taken) (fun _ => ?ignored)
  case taken => exact ⟨_, if_pos dead⟩
  case ignored => exact ⟨_, rfl⟩

theorem onCalSourceEdge_dead {s : State} {line : Fin 532} {tap : Fin 97} {t : Tick}
    (dead : ((Tab.look s.tdc.lastEdge line).any fun l => decide (stampOf s line t tap < l + deadTicks)) = true) :
    onCalSourceEdge line tap t s = advance t s := by
  refine if_neg fun taken => ?_
  obtain ⟨-, alive⟩ := Bool.and_eq_true_iff.mp taken
  exact Bool.false_ne_true ((Bool.eq_false_of_not_eq_true' alive).symm.trans dead)

/-- An edge of the other polarity and an edge in the dead time alike leave the channel as it was. -/
theorem onTsiEdge_dead {s : State} {chan : Fin 16} {rising : Bool} {tap : Fin 97} {tap2 : Option (Fin 97)} {edge : Tick}
    (dead : (((tsiOf s chan).lastAcc.map fun l => stampOf s (512 + s.tsu.lineOf.getD chan 0) edge tap - l).any
      fun d => decide (d < deadTicks)) = true) :
    onTsiEdge chan rising tap tap2 edge s = advance edge s :=
  ite_eq_left_iff.mpr fun _ => if_pos dead

theorem onAdcTrigEdge_dead {s : State} {tap : Fin 97} {tap2 : Option (Fin 97)} {edge : Tick}
    (dead : svcDead s 16 (stampOf s (512 + s.tsu.lineOf.getD 16 0) edge tap) = true) :
    onAdcTrigEdge tap tap2 edge s = advance edge s :=
  if_pos dead

section Comma

variable {s : State} {port : Port} {tap : Fin 97} {tap2 : Option (Fin 97)} {edge : Tick}
  (dead : svcDead s (markerChan port) (stampOf s (512 + s.tsu.lineOf.getD (markerChan port) 0) edge tap) = true)
include dead

theorem commaStamp_dead : commaStamp port tap tap2 edge (advance edge s) = (none, advance edge s) :=
  if_pos dead

theorem onCommaDepart_dead : onCommaDepart port tap tap2 edge s = advance edge s := by
  simp only [onCommaDepart, commaStamp_dead dead]

theorem onCommaArrive_dead : onCommaArrive port tap tap2 edge s = advance edge s := by
  simp only [onCommaArrive, commaStamp_dead dead, ite_self]

end Comma

/-! ### The obligation -/

/-- A command that only lets time pass completes, with whatever passing time keeps. -/
theorem completes_of_advance {c : Instr} {s u : State} {t : Tick} {P : State → Prop} (runs : exec c s = .next u)
    (passes : u = advance t s) (kept : P (advance t s)) : Completes c s P :=
  ⟨u, runs, passes ▸ kept⟩

/-- Settles O10: each command finds its channel dead; then time passes and nothing else, but that the PFE hands over
the edge of a strip channel. -/
theorem deadTimeHidesEdges : Obligations.DeadTimeHidesEdges := by
  refine ⟨fun s chan tap edge l accepted early => ?strip, fun s line tap t0 l accepted early => ?calSource,
    fun s chan rising tap tap2 edge l accepted early => ?tsi, fun s tap tap2 edge l accepted early => ?adcTrig,
    fun s port tap tap2 edge l accepted early => ?depart, fun s port tap tap2 edge l accepted early => ?arrive⟩
  case strip =>
    obtain ⟨p, onlyPfe⟩ := onCoincidenceEdge_dead (dead_of_last accepted early)
    exact ⟨_, congrArg Host.Outcome.next onlyPfe, rfl, rfl⟩
  case calSource => exact completes_of_advance rfl (onCalSourceEdge_dead (dead_of_last accepted early)) ⟨rfl, rfl⟩
  case tsi => exact completes_of_advance rfl (onTsiEdge_dead (dead_of_since accepted early)) ⟨rfl, rfl, rfl⟩
  case adcTrig => exact completes_of_advance rfl (onAdcTrigEdge_dead (dead_of_last accepted early)) ⟨rfl, rfl, rfl⟩
  case depart => exact completes_of_advance rfl (onCommaDepart_dead (dead_of_last accepted early)) ⟨rfl, rfl⟩
  case arrive => exact completes_of_advance rfl (onCommaArrive_dead (dead_of_last accepted early)) ⟨rfl, rfl⟩

end Sys2Proof.Machine
end

section
/-! PROOFS. Placing a shot (R103, R120, R123): what each way of suppressing it changes in the ESQ, what a placed shot
leaves there, and which of these placing a shot comes to. -/

namespace Sys2Proof.Machine

/-! ### A suppressed shot: of the ESQ, its bank's count and the mark of the frame's first event alone change -/

theorem suppressSpacing_esq (b s) : (suppressSpacing b s).esq =
    { s.esq with
      banks := Tab.put s.esq.banks b { bankCol s b with sSpace := min ((bankCol s b).sSpace + 1) 63 }
      evSpace := true } := by
  simp only [suppressSpacing]
  split
  case isTrue seen =>
    have seen : s.esq.evSpace = true := seen
    exact seen ▸ rfl
  case isFalse => rfl

theorem bankCol_suppressSpacing (b s) : bankCol (suppressSpacing b s) b =
    { bankCol s b with sSpace := min ((bankCol s b).sSpace + 1) 63 } := by
  rw [bankCol, suppressSpacing_esq]
  exact Tab.lookD_put_same ..

/-- The bank's entry, the sticky bit and the event lie beside the counter. -/
theorem rd_suppressSpacing_counter (b s) : rd (suppressSpacing b s) Reg.ESQ_SUPP_SPACING =
    rd (bumpAt Reg.ESQ_SUPP_SPACING 0 32 1 s) Reg.ESQ_SUPP_SPACING := by
  simp only [suppressSpacing]
  split
  case isTrue => exact rd_stick_ne _ _ (by decide)
  case isFalse => exact (rd_raise_ne _ (by decide)).trans (rd_stick_ne _ _ (by decide))

/-- A counter as wide as its register is the register's word. -/
theorem bits_word (x : Word32) : bits x.toNat 0 32 = x.toNat := by
  rw [bits, Nat.pow_zero, Nat.div_one, Nat.mod_eq_of_lt x.isLt]

theorem suppressSpacing_counts {b : Nat} {s : State} (room : bits (rd s Reg.ESQ_SUPP_SPACING).toNat 0 32 + 1 < 4294967296) :
    (rd (suppressSpacing b s) Reg.ESQ_SUPP_SPACING).toNat = (rd s Reg.ESQ_SUPP_SPACING).toNat + 1 := by
  have counted := bits_bumpAt (k := 1) (by decide : 0 + 32 ≤ 32) room
  rwa [bits_word, bits_word, ← rd_suppressSpacing_counter b] at counted

/-- The counters of the refusing sectors are registers. -/
theorem foldl_bumpSat_esq (off : Nat → Nat) (lo w k : Nat) (l : List Nat) (s : State) :
    (l.foldl (fun s i => bumpSat (off i) lo w k s) s).esq = s.esq :=
  List.foldlRecOn (motive := fun t : State => t.esq = s.esq) l _ rfl fun _ same _ _ => same

theorem suppressLedger_esq (b refusals s) : (suppressLedger b refusals s).esq =
    { s.esq with
      banks := Tab.put s.esq.banks b { bankCol s b with sLedger := min ((bankCol s b).sLedger + 1) 63 }
      evLedger := true } := by
  simp only [suppressLedger]
  split
  case isTrue seen =>
    rw [foldl_bumpSat_esq] at seen ⊢
    have seen : s.esq.evLedger = true := seen
    exact seen ▸ rfl
  case isFalse =>
    rw [raise_esq, foldl_bumpSat_esq]
    rfl

/-! ### The charge of a placed shot -/

/-- Only the two copies of the ledger are charged (R119, R121). -/
theorem ledgerCharge_onlyLedger (b f s) :
    ∃ ledA ledB, ledgerCharge b f s = { s with esq := { s.esq with ledA := ledA, ledB := ledB } } := by
  refine List.foldlRecOn (motive := fun t : State => ∃ ledA ledB, t = { s with esq := { s.esq with ledA := ledA, ledB := ledB } })
    _ _ ⟨_, _, rfl⟩ ?_
  rintro _ ⟨ledA, ledB, rfl⟩ pair -
  exact ⟨_, _, rfl⟩

/-! ### Which of these placing a shot comes to -/

/-- When a shot of bank `b` in slot `i` is to fire (R114, R116). -/
def fireTick (s : State) (i b : Nat) : Tick := slotStart s i + 64 * dither s i b

/-- Charge a shot, count it for its bank and join it to the shots placed (R123): what `placeShot` does with a shot that it
does not suppress, by `placeShot_eq`. -/
def joinShot (i b : Nat) (s : State) : State :=
  let x := bankCol s b
  let u := setBankCol b { x with fired := x.fired + 1, slots := x.slots + 2 ^ i } (ledgerCharge b (fireTick s i b) s)
  { u with esq := { u.esq with
      shots := u.esq.shots ++ [⟨b, i, fireTick s i b, s.esq.col.refCol && decide (x.fired = 0), false⟩]
      lastPulse := Tab.put u.esq.lastPulse b (fireTick s i b)
      col := { u.esq.col with left := u.esq.col.left - 1 } } }

theorem placeShot_eq (i b s) : placeShot i b s =
    if (Tab.look s.esq.lastPulse b).any fun l => decide (fireTick s i b < l + tSpTicks) then suppressSpacing b s
    else if !(ledgerRefusals s b (fireTick s i b)).isEmpty then suppressLedger b (ledgerRefusals s b (fireTick s i b)) s
    else if !ledgerOk s b (fireTick s i b) then ledgerFault s
    else joinShot i b s := rfl

theorem joinShot_shots (i b s) : (joinShot i b s).esq.shots =
    s.esq.shots ++ [⟨b, i, fireTick s i b, s.esq.col.refCol && decide ((bankCol s b).fired = 0), false⟩] := by
  obtain ⟨ledA, ledB, charge⟩ := ledgerCharge_onlyLedger b (fireTick s i b) s
  rw [joinShot, charge]
  rfl

theorem joinShot_lastPulse (i b s) : Tab.look (joinShot i b s).esq.lastPulse b = some (fireTick s i b) :=
  Tab.look_put_same ..

theorem joinShot_left (i b s) : (joinShot i b s).esq.col.left = s.esq.col.left - 1 := by
  obtain ⟨ledA, ledB, charge⟩ := ledgerCharge_onlyLedger b (fireTick s i b) s
  rw [joinShot, charge]
  rfl

/-- The test of R103. -/
theorem tooClose_iff {last : Option Tick} {f : Tick} :
    (last.any fun l => decide (f < l + tSpTicks)) = true ↔ ∃ l, last = some l ∧ f < l + 128000 := by
  simp only [Option.any_eq_true, decide_eq_true_eq, tSpTicks, Nat.reduceMul]

section Placing

variable {i b : Nat} {s : State}

theorem placeShot_of_close (close : ∃ l, Tab.look s.esq.lastPulse b = some l ∧ fireTick s i b < l + 128000) :
    placeShot i b s = suppressSpacing b s := by
  rw [placeShot_eq, if_pos (tooClose_iff.mpr close)]

variable (spaced : ∀ l, Tab.look s.esq.lastPulse b = some l → l + 128000 ≤ fireTick s i b)
include spaced

theorem not_tooClose_of_spaced :
    ¬ ((Tab.look s.esq.lastPulse b).any fun l => decide (fireTick s i b < l + tSpTicks)) = true := by
  rw [tooClose_iff]
  rintro ⟨l, last, close⟩
  exact Nat.not_lt.mpr (spaced l last) close

theorem placeShot_of_refused (refused : ledgerRefusals s b (fireTick s i b) ≠ []) :
    placeShot i b s = suppressLedger b (ledgerRefusals s b (fireTick s i b)) s := by
  rw [placeShot_eq, if_neg (not_tooClose_of_spaced spaced), if_pos (by simpa using refused)]

theorem placeShot_of_allowed (allowed : ledgerRefusals s b (fireTick s i b) = []) (agree : ledgerOk s b (fireTick s i b) = true) :
    placeShot i b s = joinShot i b s := by
  rw [placeShot_eq, if_neg (not_tooClose_of_spaced spaced), if_neg (by simpa using allowed), if_neg (by simpa using agree)]

end Placing

/-! ### The obligation -/

/-- Settles O12: the shot is suppressed by spacing, by the ledger or placed, and the ESQ changes as each of these says. -/
theorem shotsKeepTheirSpacing : Obligations.ShotsKeepTheirSpacing := by
  intro i b s _ _
  refine ⟨fun close => ?spacing, fun spaced refused => ?ledger, fun spaced allowed agree => ?placed⟩
  case spacing =>
    rw [placeShot_of_close close, suppressSpacing_esq, bankCol_suppressSpacing]
    exact ⟨rfl, rfl, rfl, rfl, rfl, rfl, suppressSpacing_counts⟩
  case ledger =>
    rw [placeShot_of_refused spaced refused, suppressLedger_esq]
    exact ⟨rfl, rfl, rfl, rfl, rfl⟩
  case placed =>
    rw [placeShot_of_allowed spaced allowed agree]
    exact ⟨⟨_, joinShot_shots .., rfl, rfl, rfl⟩, joinShot_lastPulse .., joinShot_left ..⟩

end Sys2Proof.Machine
end

section
/-! PROOFS. Start-up that ends in boot halt (R432, R448, R454): what stopping the Cloche cannot take back, what boot halt
leaves of the fault that led to it, which strap and self-test faults lead to it, and what POR_N keeps (R446, R458). -/

namespace Sys2Proof.Machine

/-! ### Raising bits loses no pending event -/

/-- An operation that sets bits of one register leaves every pending event pending. -/
theorem evtPending_of_setBits {s t : State} {off n : Nat} {m : Word32} (ored : t.regs = Tab.put s.regs off (rd s off ||| m))
    (pending : evtPending s n = true) : evtPending t n = true := by
  by_cases here : evtReg n = off
  · subst here
    have word : rd t (evtReg n) = rd s (evtReg n) ||| m := by
      rw [rd, ored]
      exact Tab.lookD_put_same ..
    simp only [evtPending, bitB_testBit] at pending ⊢
    rw [word, BitVec.toNat_or, Nat.testBit_or, pending, Bool.true_or]
  · have word : rd t (evtReg n) = rd s (evtReg n) := by
      rw [rd, ored]
      exact Tab.lookD_put_ne _ _ _ here
    rwa [evtPending, word]

theorem evtPending_fault (n src unit cls addr s) : evtPending (fault n src unit cls addr s) n = true :=
  evtPending_raise n s

/-! ### What stopping the Cloche cannot take back -/

/-- Going from `s` to `t` loses no pending event and leaves the part stop as it was. -/
structure LosesNoStop (s t : State) : Prop where
  pending : ∀ n, evtPending s n = true → evtPending t n = true
  partStop : t.clo.partStop = s.clo.partStop

theorem LosesNoStop.refl (s : State) : LosesNoStop s s := ⟨fun _ => id, rfl⟩

theorem LosesNoStop.trans {s t u : State} (h : LosesNoStop s t) (k : LosesNoStop t u) : LosesNoStop s u :=
  ⟨fun n pending => k.pending n (h.pending n pending), k.partStop.trans h.partStop⟩

theorem LosesNoStop.foldl {α : Type} {f : State → α → State} (each : ∀ s x, LosesNoStop s (f s x)) (l : List α) (s : State) :
    LosesNoStop s (l.foldl f s) :=
  List.foldlRecOn (motive := LosesNoStop s) l f (.refl s) fun t h x _ => h.trans (each t x)

theorem stick_losesNoStop (off i s) : LosesNoStop s (stick off i s) := ⟨fun _ => evtPending_of_setBits rfl, rfl⟩

theorem fault_losesNoStop (n src unit cls addr s) : LosesNoStop s (fault n src unit cls addr s) :=
  ⟨fun _ => evtPending_of_setBits rfl, rfl⟩

theorem setChain_losesNoStop (c x s) : LosesNoStop s (setChain c x s) := ⟨fun _ => id, rfl⟩

theorem setOut_losesNoStop (x o s) : LosesNoStop s (setOut x o s) := ⟨fun _ => id, rfl⟩

theorem resetFault_losesNoStop (s) : LosesNoStop s (resetFault s) := ⟨fun _ => evtPending_of_setBits rfl, rfl⟩

theorem lockBegins_losesNoStop (s) : LosesNoStop s (lockBegins s) :=
  iteInduction (motive := LosesNoStop s) (fun _ => resetFault_losesNoStop s) (fun _ => .refl s)

theorem lockChain_losesNoStop (c s) : LosesNoStop s (lockChain c s) :=
  (setChain_losesNoStop ..).trans <| (fault_losesNoStop ..).trans <| (stick_losesNoStop ..).trans <| lockBegins_losesNoStop _

theorem cloDrivesOff_losesNoStop (s) : LosesNoStop s (cloDrivesOff s) :=
  .foldl (fun _ _ => setOut_losesNoStop ..) _ s

theorem lockAll_losesNoStop (s) : LosesNoStop s (lockAll s) := by
  refine .trans (.foldl (fun t c => ?_) _ s) (cloDrivesOff_losesNoStop _)
  split
  · exact .refl t
  · exact lockChain_losesNoStop c t

/-! ### Boot halt (R454) -/

theorem evtPending_bootHalt {s : State} {n : Nat} (pending : evtPending s n = true) : evtPending (bootHalt s) n = true :=
  (lockAll_losesNoStop _).pending n pending

theorem bootHalt_partStop (s) : (bootHalt s).clo.partStop = true := (lockAll_losesNoStop _).partStop

theorem bootHalt_step (s) : (bootHalt s).boot.step = 15 := rfl
theorem bootHalt_running (s) : (bootHalt s).boot.running = 0 := rfl

/-! ### The faults that end start-up -/

/-- The four cases of R432. -/
theorem strapFault_iff (s : State) (x : Straps) : strapFault s x = true ↔
    (x.bootMode = 1 ∧ x.commission = false ∨ x.bootMode ≠ 1 ∧ x.commission = true ∨
      x.bootMode = 3 ∧ s.sec.testLock = true ∨ x.testEn = true ∧ x.bootMode ≠ 3) := by
  simp [strapFault, BitVec.toNat_eq, or_assoc]

/-- R431, R432: POR_N high leaves the reset state but for what BOOT shows, and bad straps halt it there. -/
theorem onPorNRelease_of_strapFault {x : Straps} {s : State} (bad : strapFault s x = true) : ∃ boot,
    onPorNRelease x s = bootHalt (fault 0 Src.boot 0 .fatal 0 { porReset s with boot := boot }) :=
  ⟨_, if_pos bad⟩

theorem onPorNRelease_of_goodStraps {x : Straps} {s : State} (good : ¬ strapFault s x = true) : ∃ boot,
    onPorNRelease x s = { porReset s with boot := boot } :=
  ⟨_, if_neg good⟩

/-- On a device within the limits of R433 with a directory copy that holds, step 3 gets past the directory. -/
theorem onNvmHeadersRead_of_holds {r : NvmRead} {s : State} (step : s.boot.step = 3) (present : r.present = true)
    (least : 32 ≤ r.sizeMiB) (most : r.sizeMiB ≤ 256)
    (holds : dirHolds r.dir0 (r.sizeMiB * 1048576) = true ∨ dirHolds r.dir1 (r.sizeMiB * 1048576) = true) :
    ∃ u, onNvmHeadersRead r s = afterDirectory r u := by
  have inLimits : ¬ (!r.present || r.sizeMiB < 32 || 256 < r.sizeMiB) = true := by simp [present, least, most]
  have copy : ¬ (if dirHolds r.dir0 (r.sizeMiB * 1048576) then 1
      else if dirHolds r.dir1 (r.sizeMiB * 1048576) then 2 else 0) = 0 := by
    rcases holds with first | second
    · rw [if_pos first]
      decide
    · rw [if_pos second]
      split <;> decide
  rw [onNvmHeadersRead, if_neg (not_not.mpr step), if_neg inLimits]
  exact ⟨_, if_neg copy⟩

/-- A failed known-answer test ends start-up before step 4 (R448). -/
theorem afterDirectory_katFails {r : NvmRead} (failed : r.katOk = false) (s : State) :
    afterDirectory r s = bootHalt (fault 16 Src.sec 0 .fatal 0 s) := by
  simp [afterDirectory, failed]

/-! ### What POR_N keeps -/

/-- The OTP but for the self-test's verdict, the boot directory, the safety area and the queue are those of `s`
(R434, R446, R458). -/
def StoresSame (s t : State) : Prop :=
  t.sec.ks = s.sec.ks ∧ t.sec.ar = s.sec.ar ∧ t.sec.ksRevoked = s.sec.ksRevoked ∧ t.sec.arRevoked = s.sec.arRevoked ∧
    t.sec.rollback = s.sec.rollback ∧ t.nvm.dir0 = s.nvm.dir0 ∧ t.nvm.dir1 = s.nvm.dir1 ∧ t.nvm.safety = s.nvm.safety ∧
    t.pending = s.pending

/-- An image write that POR_N interrupts costs the header of its slot alone (R456). -/
theorem porReset_storesSame (s : State) : StoresSame s (porReset s) := by
  have nvm : (porReset s).nvm.dir0 = s.nvm.dir0 ∧ (porReset s).nvm.dir1 = s.nvm.dir1 ∧
      (porReset s).nvm.safety = s.nvm.safety := by
    simp only [porReset]
    split
    · split <;> exact ⟨rfl, rfl, rfl⟩
    · exact ⟨rfl, rfl, rfl⟩
  obtain ⟨dir0, dir1, safety⟩ := nvm
  exact ⟨rfl, rfl, rfl, rfl, rfl, dir0, dir1, safety, rfl⟩

theorem StoresSame.trans_onlyChanges {l : List Part} {s t u : State} (h : StoresSame s t) (only : OnlyChanges l t u)
    (sec : .sec ∉ l) (nvm : .nvm ∉ l) (pending : .pending ∉ l) : StoresSame s u := by
  have sec : u.sec = t.sec := only .sec sec
  have nvm : u.nvm = t.nvm := only .nvm nvm
  have pending : u.pending = t.pending := only .pending pending
  rwa [StoresSame, sec, nvm, pending]

/-- The parts that boot halt and the fault before it may change. -/
def haltParts : List Part := [.regs, .boot, .tdc, .tsu, .esq, .hse, .fib, .cle, .queues, .cloche, .vectors, .messages]

theorem bootHalt_fault_onlyChanges (n src unit cls addr s) :
    OnlyChanges haltParts s (bootHalt (fault n src unit cls addr s)) :=
  Keeps.onlyChanges (bootHalt_keeps (by decide) (fault_keeps n src unit cls addr (by decide) .rfl'))

theorem onPorNRelease_storesSame (x : Straps) (s : State) : StoresSame s (onPorNRelease x s) := by
  have atReset (boot : BootSt) : StoresSame s { porReset s with boot := boot } := porReset_storesSame s
  by_cases bad : strapFault s x = true
  · obtain ⟨boot, halts⟩ := onPorNRelease_of_strapFault bad
    rw [halts]
    exact (atReset boot).trans_onlyChanges (bootHalt_fault_onlyChanges _ _ _ _ _ _) (by decide) (by decide) (by decide)
  · obtain ⟨boot, waits⟩ := onPorNRelease_of_goodStraps bad
    rw [waits]
    exact atReset boot

/-! ### The obligation -/

/-- Settles O13: both faults end in boot halt, which loses no pending event; POR_N keeps what the OTP and the NVM hold. -/
theorem startUpHaltsOnStrapOrSelfTestFault : Obligations.StartUpHaltsOnStrapOrSelfTestFault := by
  refine ⟨fun s x bad => ?strap, fun s r step present least most holds failed => ?selfTest,
    fun s x => ⟨_, rfl, onPorNRelease_storesSame x s⟩, fun s => ⟨_, rfl, porReset_storesSame s⟩⟩
  case strap =>
    obtain ⟨boot, halts⟩ := onPorNRelease_of_strapFault ((strapFault_iff s x).mpr bad)
    exact ⟨_, congrArg Host.Outcome.next halts, bootHalt_step _, bootHalt_running _, evtPending_bootHalt (evtPending_fault ..),
      bootHalt_partStop _⟩
  case selfTest =>
    obtain ⟨u, judged⟩ := onNvmHeadersRead_of_holds step present least most holds
    have halts := judged.trans (afterDirectory_katFails failed u)
    exact ⟨_, congrArg Host.Outcome.next halts, bootHalt_step _, bootHalt_running _, evtPending_bootHalt (evtPending_fault ..)⟩

end Sys2Proof.Machine
end

section
/-! PROOFS. What each command may change, as one table: the frames of the nine families, and that no command touches the
queue of waiting commands. -/

namespace Sys2Proof.Machine

/-! ### The table -/

/-- Every part but the queue of waiting commands. -/
def allButQueue : List Part := [.regs, .cfg, .firstItem, .boot, .sec, .nvm, .tb, .tdc, .tsu, .pfe, .esq, .hse, .fib,
      .fdc, .tae, .tines, .tinJobs, .cle, .asf, .mcd, .queues, .mailboxItems, .lostMarks, .ala, .hkp, .portUp,
      .portDn, .lanes, .merging, .cascade, .commissioning, .cloche, .x12, .clocheView, .link, .vectors, .rings,
      .mailbox, .background, .bars, .messages, .fences, .faultLog, .grafting, .pads, .faultState, .freeIdx]

/-- The parts that a command may change: of the two edges of POR_N all but the queue of waiting commands, of any other command
those of its frame. -/
def mayChange : Instr → List Part
  | .porNAssert | .porNRelease .. => allButQueue
  | .nvmHeadersRead .. => [.regs, .boot, .sec, .nvm, .tdc, .tsu, .esq, .hse, .fib, .cle, .queues, .cloche, .vectors,
      .messages]
  | .imageStageDone .. => [.regs, .cfg, .boot, .tb, .tdc, .tsu, .pfe, .esq, .hse, .fib, .tines, .cle, .queues,
      .mailboxItems, .ala, .portUp, .portDn, .lanes, .cloche, .vectors, .mailbox, .messages, .fences, .grafting,
      .freeIdx]
  | .bistDone .. => [.regs, .boot, .tb, .tdc, .tsu, .pfe, .esq, .hse, .fib, .cle, .queues, .cloche, .vectors,
      .messages]
  | .clocheSelftestDone .. => [.regs, .boot, .tb, .tdc, .tsu, .pfe, .esq, .hse, .fib, .cle, .queues, .commissioning,
      .cloche, .vectors, .messages]
  | .startupCalDone .. => [.regs, .cfg, .boot, .tb, .tdc, .pfe, .esq, .hse, .fib, .queues, .portUp, .portDn, .cascade,
      .vectors, .messages, .freeIdx]
  | .railMeasureDone .. => [.regs, .boot, .tb, .esq, .vectors, .messages]
  | .firstFrameStart .. => [.regs, .firstItem, .boot, .tb, .tdc, .tsu, .pfe, .esq, .hse, .fib, .fdc, .tae, .tines,
      .tinJobs, .cle, .asf, .mcd, .queues, .mailboxItems, .lostMarks, .ala, .portUp, .portDn, .merging, .cascade,
      .cloche, .x12, .vectors, .mailbox, .messages, .fences, .grafting, .faultState, .freeIdx]
  | .tbPllLocked | .tbsWarm => [.regs, .tb, .vectors]
  | .tbPllLockTimeout => [.regs, .boot, .tdc, .tsu, .esq, .hse, .fib, .cle, .queues, .cloche, .vectors, .messages]
  | .tbsPllLockLost .. | .tbsRefLost .. => [.regs, .tb, .tdc, .tsu, .esq, .hse, .fib, .queues, .vectors, .messages,
      .freeIdx]
  | .epochStart .. => [.regs, .firstItem, .tb, .tdc, .tsu, .pfe, .esq, .mcd, .queues, .mailboxItems, .lostMarks, .ala,
      .hkp, .portUp, .portDn, .lanes, .merging, .cascade, .vectors, .mailbox, .messages, .fences, .grafting,
      .faultState, .freeIdx]
  | .grantComputed .. => [.regs, .tb, .ala, .vectors, .messages, .freeIdx]
  | .housekeepingRound .. => [.regs, .tb, .tdc, .tsu, .pfe, .esq, .hse, .fib, .cle, .asf, .queues, .mailboxItems,
      .ala, .hkp, .portUp, .portDn, .lanes, .cloche, .vectors, .mailbox, .messages, .fences, .grafting, .pads,
      .faultState, .freeIdx]
  | .supplyCollapse .. => [.regs, .boot, .tb, .tdc, .tsu, .esq, .hse, .fib, .cle, .queues, .mailboxItems, .ala, .hkp,
      .portUp, .portDn, .lanes, .cloche, .vectors, .mailbox, .messages, .fences, .grafting, .freeIdx]
  | .stopDeadline .. => [.tb, .tdc, .tsu, .esq, .hse, .fib, .queues]
  | .queueDrainDone .. => [.regs, .tb, .queues, .mailboxItems, .lostMarks, .ala, .hkp, .portUp, .portDn, .lanes,
      .vectors, .mailbox, .fences, .grafting, .freeIdx]
  | .columnBoundary .. => [.regs, .firstItem, .tb, .tdc, .tsu, .pfe, .esq, .hse, .fib, .fdc, .tae, .tines, .tinJobs,
      .cle, .mcd, .queues, .mailboxItems, .lostMarks, .portUp, .portDn, .merging, .cascade, .cloche, .x12, .vectors,
      .mailbox, .messages, .fences, .grafting, .freeIdx]
  | .indexEdge .. | .esqIndexMissing .. => [.regs, .tb, .esq, .vectors, .freeIdx]
  | .frameStart .. => [.regs, .firstItem, .tb, .tdc, .tsu, .pfe, .esq, .hse, .fib, .fdc, .tae, .tines, .tinJobs, .cle,
      .asf, .mcd, .queues, .mailboxItems, .lostMarks, .ala, .portUp, .portDn, .merging, .cascade, .cloche, .x12,
      .vectors, .mailbox, .messages, .fences, .grafting, .faultState, .freeIdx]
  | .slotDecision .. => [.regs, .tb, .esq, .vectors, .messages, .freeIdx]
  | .shotFire .. => [.regs, .tb, .esq, .hse, .queues, .portUp, .portDn, .vectors, .messages, .freeIdx]
  | .blankStart .. | .blankEnd .. | .spadRearm .. | .spadAvalanche .. => [.tb, .pfe]
  | .coincidenceEdge .. => [.regs, .tb, .tdc, .pfe, .queues, .vectors, .messages, .freeIdx]
  | .stampAccumulate .. => [.regs, .hse, .queues, .vectors, .messages, .freeIdx]
  | .confidenceUpdate .. => [.regs, .tb, .hse, .queues, .portUp, .portDn, .vectors, .messages, .freeIdx]
  | .followerLock .. | .mergeDeadline .. => [.regs, .tb, .hse, .vectors, .messages, .freeIdx]
  | .stripColumnDone .. => [.regs, .firstItem, .tb, .tdc, .esq, .hse, .mcd, .queues, .lostMarks, .portUp, .portDn,
      .merging, .vectors, .messages, .freeIdx]
  | .fieldVerdict .. => [.regs, .firstItem, .tb, .hse, .mcd, .queues, .lostMarks, .portUp, .portDn, .merging, .x12,
      .vectors, .messages, .freeIdx]
  | .deepCounts .. => [.pfe]
  | .deepFire .. => [.esq]
  | .deepWin .. | .deepHist .. => [.hse]
  | .calPassEnd .. => [.regs, .firstItem, .tb, .tdc, .tsu, .mcd, .queues, .lostMarks, .portUp, .portDn, .merging,
      .vectors, .messages, .freeIdx]
  | .tdcCalStarved .. => [.regs, .firstItem, .tb, .tdc, .mcd, .queues, .lostMarks, .portUp, .portDn, .merging,
      .vectors, .messages, .freeIdx]
  | .tdcCalReq .. => [.regs, .tb]
  | .auxRotationStep .. => [.regs, .tb, .tdc, .tsu, .vectors, .messages]
  | .auxOverlapEnd .. => [.regs, .tb, .tsu, .mcd, .queues, .portUp, .portDn, .merging, .vectors, .messages, .freeIdx]
  | .tsiEdge .. => [.regs, .firstItem, .tb, .tsu, .tae, .mcd, .queues, .lostMarks, .portUp, .portDn, .merging, .x12,
      .vectors, .messages, .freeIdx]
  | .windowOpen .. => [.tb, .tsu]
  | .windowClose .. => [.regs, .firstItem, .tb, .tsu, .mcd, .queues, .lostMarks, .portUp, .portDn, .merging, .x12,
      .vectors, .messages, .freeIdx]
  | .estimatorGateEnd .. => [.regs, .firstItem, .tb, .tsu, .mcd, .queues, .lostMarks, .portUp, .portDn, .merging,
      .vectors, .messages, .freeIdx]
  | .calSourceEdge .. => [.tb, .tdc, .freeIdx]
  | .sweepBoundary .. => [.regs, .firstItem, .tb, .tdc, .tsu, .pfe, .esq, .fib, .fdc, .tae, .tines, .tinJobs, .cle,
      .asf, .mcd, .queues, .mailboxItems, .lostMarks, .ala, .portUp, .portDn, .merging, .cascade, .x12, .vectors,
      .mailbox, .messages, .fences, .grafting, .faultState, .freeIdx]
  | .adcTrigEdge .. => [.regs, .tb, .tsu, .fib, .freeIdx]
  | .fibTrigMissing .. | .estimationBlockDone .. => [.regs, .tb, .fib, .vectors, .messages, .freeIdx]
  | .aomgGateOpen .. | .aomgGateClose .. | .fibCalCycleStart .. => [.tb, .fib]
  | .slotProcess .. => [.regs, .firstItem, .fib, .fdc, .mcd, .queues, .lostMarks, .portUp, .portDn, .merging,
      .vectors, .messages, .freeIdx]
  | .zoneIntervalEnd => [.regs, .firstItem, .fib, .tae, .mcd, .queues, .lostMarks, .portUp, .portDn, .merging, .x12,
      .vectors, .messages, .freeIdx]
  | .endEvaluation => [.regs, .fib, .vectors]
  | .fibSurveyDone | .fibDtsProfile => [.regs, .firstItem, .fib, .mcd, .queues, .lostMarks, .portUp, .portDn,
      .merging, .vectors, .messages, .freeIdx]
  | .dtsBlockDone => [.fib, .freeIdx]
  | .fdcInput .. => [.regs, .fdc, .vectors, .freeIdx]
  | .fdcSweepItem => [.regs, .firstItem, .fdc, .mcd, .queues, .lostMarks, .portUp, .portDn, .merging, .vectors,
      .messages, .freeIdx]
  | .captureItemArrive .. => [.regs, .tae, .vectors, .messages]
  | .captureFrameClose .. | .refEvaluation .. | .mulchBlockDone .. => [.regs, .firstItem, .tb, .tae, .mcd, .queues,
      .lostMarks, .portUp, .portDn, .merging, .vectors, .messages, .freeIdx]
  | .captureReadDone .. => [.regs, .firstItem, .tb, .tae, .mcd, .queues, .lostMarks, .portUp, .portDn, .merging,
      .vectors, .mailbox, .messages, .freeIdx]
  | .samples .. => [.regs, .fib, .queues, .portUp, .portDn, .vectors, .messages, .freeIdx]
  | .adcSampleWord .. => [.regs, .tb, .fib, .queues, .portUp, .portDn, .vectors, .messages, .freeIdx]
  | .tineItemArrive .. => [.regs, .tinJobs, .vectors, .messages]
  | .tineJobClose .. => [.regs, .tinJobs, .mcd, .queues, .portUp, .portDn, .merging, .x12, .vectors, .messages,
      .freeIdx]
  | .tineJobDispatch .. | .tineAlu .. | .tineMac .. | .tineAcc .. | .tineLdst .. | .tineAddr .. | .tineBr ..
  | .tineCall .. | .tineRet .. | .tineRep .. | .tineNop .. | .tineEnd .. | .tineSpec .. | .tineDmaStart ..
  | .tineDmaWait .. | .tineEmit .. | .tinStepLimit .. => [.regs, .tines, .tinJobs, .mcd, .queues, .portUp, .portDn,
      .merging, .x12, .vectors, .messages, .freeIdx]
  | .tineDmaDone .. => [.tines, .freeIdx]
  | .tinEcc .. => [.regs, .tb, .tines, .vectors, .messages, .freeIdx]
  | .loopSample .. | .cleSpLost .. => [.regs, .tb, .cle, .vectors, .messages]
  | .lspEdge .. => [.cle, .freeIdx]
  | .asfConversion .. => [.regs, .firstItem, .tb, .fdc, .cle, .asf, .mcd, .queues, .lostMarks, .portUp, .portDn,
      .merging, .vectors, .messages, .freeIdx]
  | .mulchBlockStart => [.regs, .mcd, .queues, .vectors, .mailbox, .fences, .grafting, .freeIdx]
  | .bpQueueSpace .. => [.queues]
  | .qsyStall .. => [.regs, .tb, .queues, .vectors]
  | .planItem .. | .swapItem .. => [.regs, .fdc, .tinJobs, .mcd, .queues, .portUp, .portDn, .merging, .vectors,
      .messages, .freeIdx]
  | .flushItem .. => [.regs, .queues, .lostMarks, .vectors, .freeIdx]
  | .grantItem .. => [.regs, .tinJobs, .mcd, .queues, .portUp, .portDn, .merging, .vectors, .messages, .freeIdx]
  | .fenceItem .. | .graftItem .. => [.regs, .mcd, .queues, .portUp, .portDn, .merging, .vectors, .messages, .fences,
      .freeIdx]
  | .markItem .. | .calItem .. => [.regs, .mcd, .queues, .portUp, .portDn, .merging, .vectors, .messages, .freeIdx]
  | .laneTrained .. | .portAbsentTimeout .. => [.regs, .cfg, .boot, .tb, .esq, .hse, .fib, .queues, .portUp, .portDn,
      .lanes, .cascade, .vectors, .mailbox, .messages, .fences, .grafting, .freeIdx]
  | .dnRetryTimer .. => [.tb, .portUp, .portDn]
  | .laneExitTimeout .. => [.regs, .tb, .portUp, .portDn, .lanes, .vectors, .mailbox, .messages, .fences, .grafting]
  | .fecUncorrectable .. => [.regs, .tb, .portUp, .portDn, .lanes, .vectors, .messages, .freeIdx]
  | .startBlock .. => [.regs, .tb, .portUp, .portDn, .vectors, .messages, .freeIdx]
  | .credit .. => [.regs, .queues, .portUp, .portDn, .vectors, .messages, .freeIdx]
  | .laneStatus .. | .laneRequest .. | .laneReady .. | .laneFenceNotice .. => [.regs, .portUp, .portDn, .lanes,
      .vectors, .mailbox, .fences, .grafting]
  | .laneSwitch .. => [.portUp, .portDn]
  | .vc0RetryTimeout .. | .attestVerifyDone .. | .enumTimeout .. | .start .. => [.regs, .cfg, .boot, .tb, .esq, .hse,
      .fib, .queues, .portUp, .portDn, .cascade, .vectors, .messages, .freeIdx]
  | .commaDepart .. => [.tb, .tsu, .portUp, .portDn]
  | .commaArrive .. => [.regs, .tb, .tsu, .queues, .portUp, .portDn, .cascade, .vectors, .messages, .freeIdx]
  | .enum .. | .accept .. | .reenum .. | .join .. => [.regs, .queues, .portUp, .portDn, .cascade, .vectors, .messages,
      .freeIdx]
  | .attest .. | .reject .. => [.portUp, .portDn, .cascade]
  | .signDone .. => [.regs, .tb, .queues, .portUp, .portDn, .merging, .cascade, .vectors, .messages, .freeIdx]
  | .capReport .. => [.regs, .cfg, .boot, .tb, .esq, .hse, .fib, .queues, .portUp, .portDn, .merging, .cascade,
      .vectors, .messages, .freeIdx]
  | .align .. => [.regs, .cfg, .boot, .tb, .esq, .hse, .fib, .queues, .portUp, .portDn, .lanes, .cascade, .vectors,
      .messages, .freeIdx]
  | .swapPrepare .. => [.regs, .tb, .esq, .queues, .portUp, .portDn, .vectors, .messages, .freeIdx]
  | .swapReady .. | .swapCommit .. => [.regs, .esq, .queues, .portUp, .portDn, .vectors, .messages, .freeIdx]
  | .swapCancel .. => [.regs, .esq, .queues, .portUp, .portDn, .vectors, .mailbox, .messages, .freeIdx]
  | .frameClose .. => [.regs, .queues, .portUp, .portDn, .merging, .vectors, .messages, .freeIdx]
  | .mergeWaitExpire .. => [.queues, .merging]
  | .forwardedItem .. => [.regs, .tb, .queues, .portUp, .portDn, .merging, .vectors, .messages, .freeIdx]
  | .cableLengthUpdate .. => [.lanes, .freeIdx]
  | .reservedLinkBlock .. | .reservedMessageType .. | .unsupportedRequest | .c2hProdWrite .. => [.regs, .freeIdx]
  | .evaluationCycle .. => [.regs, .firstItem, .nvm, .tb, .tsu, .mcd, .queues, .lostMarks, .portUp, .portDn, .merging,
      .commissioning, .cloche, .x12, .clocheView, .vectors, .bars, .messages, .freeIdx]
  | .safeInputChange .. | .siFilterExpire .. | .testPulseStart .. | .twohandTimeout .. | .heartbeat => [.cloche]
  | .testPulseEnd .. | .discrepancyTimeout .. | .switchTestEnd .. | .diagIntervalFault ..
  | .heartbeatTimeout .. | .partStop .. | .islandFault .. | .verdictDeadline .. | .classifierDeadline ..
  | .brakeTestOverdue .. | .resetHoldTimeout .. => [.regs, .tb, .cloche, .vectors, .messages]
  | .switchTest .. => [.regs, .cloche, .vectors, .messages]
  | .verdictWordArrive .. | .tineResultArrive .. | .zoneWordArrive .. => [.regs, .tb, .cloche, .x12, .vectors,
      .messages]
  | .brakeTestDue .. | .brakeResultTimeout .. => [.cloche, .vectors, .bars, .freeIdx]
  | .brakeWindowResult .. => [.regs, .nvm, .cloche, .x12, .vectors, .bars, .messages, .freeIdx]
  | .poweredTimeTick => [.nvm, .commissioning, .cloche]
  | .resetRelease .. => [.regs, .tb, .cloche, .vectors, .freeIdx]
  | .bcTxPeriod .. => [.tb, .cloche, .vectors, .bars, .freeIdx]
  | .bcMessageReceive .. => [.regs, .tb, .cloche, .vectors, .bars, .freeIdx]
  | .bcTimeout .. => [.regs, .tb, .cloche]
  | .inboundDoorbell .. => [.bars]
  | .sessionTimeout => [.commissioning]
  | .passwordLockExpire => [.nvm, .commissioning]
  | .order .. => [.regs, .firstItem, .sec, .nvm, .tb, .tdc, .pfe, .esq, .fib, .tae, .mcd, .queues, .mailboxItems,
      .lostMarks, .portUp, .portDn, .merging, .commissioning, .vectors, .rings, .mailbox, .background, .messages,
      .fences, .grafting, .faultState, .freeIdx]
  | .nop .. | .planSelect .. | .flush .. | .captureTrigger .. | .captureAbort .. | .captureRead ..
  | .captureRelease .. | .captureRearm .. | .faultClear .. | .graft .. => [.regs, .firstItem, .tb, .tdc, .pfe, .esq,
      .fib, .tae, .mcd, .queues, .mailboxItems, .lostMarks, .portUp, .portDn, .merging, .vectors, .mailbox, .messages,
      .fences, .grafting, .faultState, .freeIdx]
  | .graftSelftestDone .. => [.regs, .cfg, .boot, .tb, .tdc, .pfe, .esq, .hse, .fib, .mcd, .queues, .mailboxItems,
      .portUp, .portDn, .lanes, .cascade, .vectors, .mailbox, .messages, .fences, .grafting, .freeIdx]
  | .cloLogin .. => [.regs, .nvm, .tb, .queues, .portUp, .portDn, .commissioning, .vectors, .mailbox, .messages,
      .freeIdx]
  | .cloStage .. | .cloCommit .. => [.regs, .tb, .queues, .portUp, .portDn, .commissioning, .vectors, .rings,
      .mailbox, .background, .messages, .freeIdx]
  | .cloLogout .. => [.regs, .tb, .queues, .portUp, .portDn, .commissioning, .vectors, .mailbox, .messages, .freeIdx]
  | .secKeyProgram .. | .secRevoke .. | .imgWrite .. | .recoverGo .. | .bootDirWrite .. => [.regs, .tb, .queues,
      .portUp, .portDn, .vectors, .rings, .mailbox, .background, .messages, .freeIdx]
  | .secConfirm .. => [.regs, .sec, .tb, .queues, .portUp, .portDn, .vectors, .mailbox, .messages, .freeIdx]
  | .unknownCommand .. => [.regs, .tb, .vectors, .mailbox]
  | .backgroundCommandDone .. => [.regs, .cfg, .boot, .sec, .nvm, .tb, .pfe, .tines, .queues, .mailboxItems, .ala,
      .portUp, .portDn, .lanes, .commissioning, .vectors, .rings, .mailbox, .background, .messages, .fences,
      .grafting, .freeIdx]
  | .registerWrite .. | .ringDisable .. => [.regs, .tb, .vectors, .rings, .freeIdx]
  | .rcRead .. | .readLowWord .. => [.regs, .queues, .bars]
  | .ringEnable .. => [.regs, .vectors, .rings, .freeIdx]
  | .c2hItemDeliver .. => [.regs, .tb, .queues, .vectors, .rings, .messages, .freeIdx]
  | .bufferCloseTimeout .. => [.regs, .tb, .vectors, .rings]
  | .h2cReadDone .. => [.regs, .nvm, .tb, .vectors, .rings, .mailbox, .background, .messages]
  | .msixSend .. => [.vectors]
  | .perst .. => [.regs, .link, .vectors, .rings, .mailbox, .bars]
  | .pcieLinkDown .. => [.regs, .link, .vectors]
  | .d0Return => [.link, .rings]
  | .faultMessage .. => [.regs, .cfg, .firstItem, .boot, .tdc, .pfe, .esq, .hse, .fib, .tae, .tines, .tinJobs, .mcd,
      .queues, .mailboxItems, .lostMarks, .hkp, .portUp, .portDn, .lanes, .merging, .cascade, .cloche, .vectors,
      .mailbox, .messages, .fences, .faultLog, .grafting, .faultState, .freeIdx]
  | .memoryEccError .. => [.regs, .firstItem, .tb, .esq, .tae, .mcd, .queues, .lostMarks, .portUp, .portDn, .merging,
      .vectors, .mailbox, .messages, .freeIdx]
  | .dataLinkUp .. | .widthRetrainDone .. => [.link]

/-! ### Every command stays in its row -/

theorem frame_of_keeps {l : List Part} {c : Instr} {s u : State} {w : Nat} (within : w &&& partsMask l = w)
    (keeps : w &&& partsMask l = w → Keeps (partsMask l) s u) (runs : exec c s = .next u) : Frame l c s := by
  intro t ends
  obtain rfl := Host.Outcome.next.inj (runs.symm.trans ends)
  exact (keeps within).onlyChanges

theorem eq_pending_of_notMem {p : Part} (out : p ∉ allButQueue) : p = .pending := by
  revert out
  cases p <;> decide

theorem frame_of_queue_same {c : Instr} {s u : State} (queue : u.pending = s.pending) (runs : exec c s = .next u) :
    Frame allButQueue c s := by
  intro t ends p out
  obtain rfl := Host.Outcome.next.inj (runs.symm.trans ends)
  exact eq_pending_of_notMem out ▸ queue

theorem onPorNRelease_pending (x : Straps) (s : State) : (onPorNRelease x s).pending = s.pending := by
  obtain ⟨-, -, -, -, -, -, -, -, queue⟩ := onPorNRelease_storesSame x s
  exact queue

/-- Each command changes at most the parts of its row: what its own operation may change, by the laws of Laws/Keep*.lean. -/
theorem frame_mayChange (s : State) (c : Instr) : Frame (mayChange c) c s := by
  cases c <;> dsimp only [mayChange]
  case porNAssert => exact frame_of_queue_same (u := porReset s) rfl rfl
  case porNRelease x => exact frame_of_queue_same (onPorNRelease_pending x s) rfl
  case nvmHeadersRead r => exact frame_of_keeps (by decide) (onNvmHeadersRead_keeps r · .rfl') rfl
  case imageStageDone bytes eccOk ms =>
    exact frame_of_keeps (by decide) (onImageStageDone_keeps bytes eccOk ms · .rfl') rfl
  case bistDone sramOk failed t => exact frame_of_keeps (by decide) (onBistDone_keeps sramOk failed t · .rfl') rfl
  case clocheSelftestDone r t => exact frame_of_keeps (by decide) (onClocheSelftestDone_keeps r t · .rfl') rfl
  case startupCalDone t => exact frame_of_keeps (by decide) (onStartupCalDone_keeps t · .rfl') rfl
  case railMeasureDone rail time t =>
    exact frame_of_keeps (by decide) (onRailMeasureDone_keeps rail time t · .rfl') rfl
  case firstFrameStart fibre t ms => exact frame_of_keeps (by decide) (onFirstFrameStart_keeps fibre t ms · .rfl') rfl
  case tbPllLocked => exact frame_of_keeps (by decide) (onTbPllLocked_keeps · .rfl') rfl
  case tbPllLockTimeout => exact frame_of_keeps (by decide) (onTbPllLockTimeout_keeps · .rfl') rfl
  case tbsPllLockLost t => exact frame_of_keeps (by decide) (onTbsPllLockLost_keeps t · .rfl') rfl
  case tbsRefLost t => exact frame_of_keeps (by decide) (onTbsRefLost_keeps t · .rfl') rfl
  case tbsWarm => exact frame_of_keeps (by decide) (onTbsWarm_keeps · .rfl') rfl
  case epochStart r t => exact frame_of_keeps (by decide) (onEpochStart_keeps r t · .rfl') rfl
  case grantComputed t => exact frame_of_keeps (by decide) (onGrantComputed_keeps t · .rfl') rfl
  case widthRetrainDone width => exact frame_of_keeps (by decide) (onWidthRetrainDone_keeps width · .rfl') rfl
  case housekeepingRound r t => exact frame_of_keeps (by decide) (onHousekeepingRound_keeps r t · .rfl') rfl
  case supplyCollapse monitor t => exact frame_of_keeps (by decide) (onSupplyCollapse_keeps monitor t · .rfl') rfl
  case stopDeadline t => exact frame_of_keeps (by decide) (onStopDeadline_keeps t · .rfl') rfl
  case queueDrainDone t => exact frame_of_keeps (by decide) (onQueueDrainDone_keeps t · .rfl') rfl
  case columnBoundary t => exact frame_of_keeps (by decide) (onColumnBoundary_keeps t · .rfl') rfl
  case indexEdge t => exact frame_of_keeps (by decide) (onIndexEdge_keeps t · .rfl') rfl
  case esqIndexMissing t => exact frame_of_keeps (by decide) (onEsqIndexMissing_keeps t · .rfl') rfl
  case frameStart t => exact frame_of_keeps (by decide) (onFrameStart_keeps t · .rfl') rfl
  case slotDecision slot t => exact frame_of_keeps (by decide) (onSlotDecision_keeps slot t · .rfl') rfl
  case shotFire bank t => exact frame_of_keeps (by decide) (onShotFire_keeps bank t · .rfl') rfl
  case blankStart bank t => exact frame_of_keeps (by decide) (onBlankStart_keeps bank t · .rfl') rfl
  case blankEnd bank t => exact frame_of_keeps (by decide) (onBlankEnd_keeps bank t · .rfl') rfl
  case spadRearm chan spad t => exact frame_of_keeps (by decide) (onSpadRearm_keeps chan spad t · .rfl') rfl
  case coincidenceEdge chan tap edge =>
    exact frame_of_keeps (by decide) (onCoincidenceEdge_keeps chan tap edge · .rfl') rfl
  case stampAccumulate chan parityOk =>
    exact frame_of_keeps (by decide) (onStampAccumulate_keeps chan parityOk · .rfl') rfl
  case confidenceUpdate bank t => exact frame_of_keeps (by decide) (onConfidenceUpdate_keeps bank t · .rfl') rfl
  case followerLock chan t => exact frame_of_keeps (by decide) (onFollowerLock_keeps chan t · .rfl') rfl
  case stripColumnDone strip ecc t =>
    exact frame_of_keeps (by decide) (onStripColumnDone_keeps strip ecc t · .rfl') rfl
  case mergeDeadline t => exact frame_of_keeps (by decide) (onMergeDeadline_keeps t · .rfl') rfl
  case fieldVerdict t => exact frame_of_keeps (by decide) (onFieldVerdict_keeps t · .rfl') rfl
  case calPassEnd strip t => exact frame_of_keeps (by decide) (onCalPassEnd_keeps strip t · .rfl') rfl
  case tdcCalStarved strip t => exact frame_of_keeps (by decide) (onTdcCalStarved_keeps strip t · .rfl') rfl
  case tdcCalReq mask t => exact frame_of_keeps (by decide) (onTdcCalReq_keeps mask t · .rfl') rfl
  case auxRotationStep attempts t => exact frame_of_keeps (by decide) (onAuxRotationStep_keeps attempts t · .rfl') rfl
  case auxOverlapEnd t => exact frame_of_keeps (by decide) (onAuxOverlapEnd_keeps t · .rfl') rfl
  case tsiEdge chan rising tap tap2 edge =>
    exact frame_of_keeps (by decide) (onTsiEdge_keeps chan rising tap tap2 edge · .rfl') rfl
  case windowOpen chan t => exact frame_of_keeps (by decide) (onWindowOpen_keeps chan t · .rfl') rfl
  case windowClose chan t => exact frame_of_keeps (by decide) (onWindowClose_keeps chan t · .rfl') rfl
  case estimatorGateEnd chan gate => exact frame_of_keeps (by decide) (onEstimatorGateEnd_keeps chan gate · .rfl') rfl
  case sweepBoundary t => exact frame_of_keeps (by decide) (onSweepBoundary_keeps t · .rfl') rfl
  case adcTrigEdge tap tap2 edge => exact frame_of_keeps (by decide) (onAdcTrigEdge_keeps tap tap2 edge · .rfl') rfl
  case fibTrigMissing t => exact frame_of_keeps (by decide) (onFibTrigMissing_keeps t · .rfl') rfl
  case aomgGateOpen gate t => exact frame_of_keeps (by decide) (onAomgGateOpen_keeps gate t · .rfl') rfl
  case aomgGateClose gate t => exact frame_of_keeps (by decide) (onAomgGateClose_keeps gate t · .rfl') rfl
  case slotProcess tone sweep _ _ => exact frame_of_keeps (by decide) (onSlotProcess_keeps tone sweep · .rfl') rfl
  case estimationBlockDone pair _ t =>
    exact frame_of_keeps (by decide) (onEstimationBlockDone_keeps pair t · .rfl') rfl
  case fibCalCycleStart pair t => exact frame_of_keeps (by decide) (onFibCalCycleStart_keeps pair t · .rfl') rfl
  case zoneIntervalEnd => exact frame_of_keeps (by decide) (onZoneIntervalEnd_keeps · .rfl') rfl
  case endEvaluation => exact frame_of_keeps (by decide) (onEndEvaluation_keeps · .rfl') rfl
  case fibSurveyDone => exact frame_of_keeps (by decide) (onFibSurveyDone_keeps · .rfl') rfl
  case dtsBlockDone => exact frame_of_keeps (by decide) (onDtsBlockDone_keeps · .rfl') rfl
  case fibDtsProfile => exact frame_of_keeps (by decide) (onFibDtsProfile_keeps · .rfl') rfl
  case fdcInput chan _ _ => exact frame_of_keeps (by decide) (onFdcInput_keeps chan · .rfl') rfl
  case fdcSweepItem => exact frame_of_keeps (by decide) (onFdcSweepItem_keeps · .rfl') rfl
  case captureItemArrive unit src item =>
    exact frame_of_keeps (by decide) (onCaptureItemArrive_keeps unit src item · .rfl') rfl
  case captureFrameClose unit t => exact frame_of_keeps (by decide) (onCaptureFrameClose_keeps unit t · .rfl') rfl
  case refEvaluation t => exact frame_of_keeps (by decide) (onRefEvaluation_keeps t · .rfl') rfl
  case captureReadDone unit t => exact frame_of_keeps (by decide) (onCaptureReadDone_keeps unit t · .rfl') rfl
  case tineItemArrive slot input item =>
    exact frame_of_keeps (by decide) (onTineItemArrive_keeps slot input item · .rfl') rfl
  case tineJobClose slot => exact frame_of_keeps (by decide) (onTineJobClose_keeps slot · .rfl') rfl
  case tineJobDispatch tine => exact frame_of_keeps (by decide) (onTineJobDispatch_keeps tine · .rfl') rfl
  case tineAlu hd op dst src1 src2 pair useImm imm =>
    exact frame_of_keeps (by decide) (onTineAlu_keeps hd op dst src1 src2 pair useImm imm · .rfl') rfl
  case tineMac hd op accA accB a1 a2 b1 b2 frac dual ld1 ld2 =>
    exact frame_of_keeps (by decide) (onTineMac_keeps hd op accA accB a1 a2 b1 b2 frac dual ld1 ld2 · .rfl') rfl
  case tineAcc hd op acc acc2 d pair round shift =>
    exact frame_of_keeps (by decide) (onTineAcc_keeps hd op acc acc2 d pair round shift · .rfl') rfl
  case tineLdst hd store wide d areg mode imm =>
    exact frame_of_keeps (by decide) (onTineLdst_keeps hd store wide d areg mode imm · .rfl') rfl
  case tineAddr hd op x tgt d imm => exact frame_of_keeps (by decide) (onTineAddr_keeps hd op x tgt d imm · .rfl') rfl
  case tineBr hd target => exact frame_of_keeps (by decide) (onTineBr_keeps hd target · .rfl') rfl
  case tineCall hd target => exact frame_of_keeps (by decide) (onTineCall_keeps hd target · .rfl') rfl
  case tineRet hd => exact frame_of_keeps (by decide) (onTineRet_keeps hd · .rfl') rfl
  case tineRep hd fromD endIdx count =>
    exact frame_of_keeps (by decide) (onTineRep_keeps hd fromD endIdx count · .rfl') rfl
  case tineNop hd => exact frame_of_keeps (by decide) (onTineNop_keeps hd · .rfl') rfl
  case tineEnd hd => exact frame_of_keeps (by decide) (onTineEnd_keeps hd · .rfl') rfl
  case tineSpec hd op dst src pair =>
    exact frame_of_keeps (by decide) (onTineSpec_keeps hd op dst src pair · .rfl') rfl
  case tineDmaStart hd chan toData areg remote len =>
    exact frame_of_keeps (by decide) (onTineDmaStart_keeps hd chan toData areg remote len · .rfl') rfl
  case tineDmaWait hd chan => exact frame_of_keeps (by decide) (onTineDmaWait_keeps hd chan · .rfl') rfl
  case tineDmaDone tine chan => exact frame_of_keeps (by decide) (onTineDmaDone_keeps tine chan · .rfl') rfl
  case tineEmit hd areg fromD count =>
    exact frame_of_keeps (by decide) (onTineEmit_keeps hd areg fromD count · .rfl') rfl
  case tinStepLimit tine => exact frame_of_keeps (by decide) (onTinStepLimit_keeps tine · .rfl') rfl
  case tinEcc tine mem uncorr t => exact frame_of_keeps (by decide) (onTinEcc_keeps tine mem uncorr t · .rfl') rfl
  case loopSample loop lfb lsp t => exact frame_of_keeps (by decide) (onLoopSample_keeps loop lfb lsp t · .rfl') rfl
  case lspEdge loop g high => exact frame_of_keeps (by decide) (onLspEdge_keeps loop g high · .rfl') rfl
  case cleSpLost loop t => exact frame_of_keeps (by decide) (onCleSpLost_keeps loop t · .rfl') rfl
  case asfConversion chan ratio saturated railed t =>
    exact frame_of_keeps (by decide) (onAsfConversion_keeps chan ratio saturated railed t · .rfl') rfl
  case mulchBlockStart => exact frame_of_keeps (by decide) (onMulchBlockStart_keeps · .rfl') rfl
  case mulchBlockDone engine verifyOk t =>
    exact frame_of_keeps (by decide) (onMulchBlockDone_keeps engine verifyOk t · .rfl') rfl
  case bpQueueSpace q => exact frame_of_keeps (by decide) (onBpQueueSpace_keeps q · .rfl') rfl
  case qsyStall q t => exact frame_of_keeps (by decide) (onQsyStall_keeps q t · .rfl') rfl
  case planItem blk item => exact frame_of_keeps (by decide) (onPlanItem_keeps blk item · .rfl') rfl
  case swapItem blk item => exact frame_of_keeps (by decide) (onSwapItem_keeps blk item · .rfl') rfl
  case flushItem q src stream item =>
    exact frame_of_keeps (by decide) (onFlushItem_keeps q src stream item · .rfl') rfl
  case grantItem blk item => exact frame_of_keeps (by decide) (onGrantItem_keeps blk item · .rfl') rfl
  case fenceItem blk item => exact frame_of_keeps (by decide) (onFenceItem_keeps blk item · .rfl') rfl
  case graftItem blk item => exact frame_of_keeps (by decide) (onGraftItem_keeps blk item · .rfl') rfl
  case markItem blk item => exact frame_of_keeps (by decide) (onMarkItem_keeps blk item · .rfl') rfl
  case calItem blk item => exact frame_of_keeps (by decide) (onCalItem_keeps blk item · .rfl') rfl
  case laneTrained lane rate miswired il t =>
    exact frame_of_keeps (by decide) (onLaneTrained_keeps lane rate miswired il t · .rfl') rfl
  case portAbsentTimeout port t => exact frame_of_keeps (by decide) (onPortAbsentTimeout_keeps port t · .rfl') rfl
  case dnRetryTimer t => exact frame_of_keeps (by decide) (onDnRetryTimer_keeps t · .rfl') rfl
  case laneExitTimeout lane t => exact frame_of_keeps (by decide) (onLaneExitTimeout_keeps lane t · .rfl') rfl
  case fecUncorrectable lane t => exact frame_of_keeps (by decide) (onFecUncorrectable_keeps lane t · .rfl') rfl
  case startBlock port vc dst bcast src words itemEnd seq t =>
    exact frame_of_keeps (by decide) (onStartBlock_keeps port vc dst bcast src words itemEnd seq t · .rfl') rfl
  case credit port vc0 vc1 vc3 => exact frame_of_keeps (by decide) (onCredit_keeps port vc0 vc1 vc3 · .rfl') rfl
  case laneStatus port mask => exact frame_of_keeps (by decide) (onLaneStatus_keeps port mask · .rfl') rfl
  case laneRequest port count => exact frame_of_keeps (by decide) (onLaneRequest_keeps port count · .rfl') rfl
  case laneReady port => exact frame_of_keeps (by decide) (onLaneReady_keeps port · .rfl') rfl
  case laneSwitch port count => exact frame_of_keeps (by decide) (onLaneSwitch_keeps port count · .rfl') rfl
  case laneFenceNotice port mask => exact frame_of_keeps (by decide) (onLaneFenceNotice_keeps port mask · .rfl') rfl
  case vc0RetryTimeout port t => exact frame_of_keeps (by decide) (onVc0RetryTimeout_keeps port t · .rfl') rfl
  case commaDepart port tap tap2 edge =>
    exact frame_of_keeps (by decide) (onCommaDepart_keeps port tap tap2 edge · .rfl') rfl
  case commaArrive port tap tap2 edge =>
    exact frame_of_keeps (by decide) (onCommaArrive_keeps port tap tap2 edge · .rfl') rfl
  case enum sender nonce att => exact frame_of_keeps (by decide) (onEnum_keeps sender nonce att · .rfl') rfl
  case attest att => exact frame_of_keeps (by decide) (onAttest_keeps att · .rfl') rfl
  case attestVerifyDone port t => exact frame_of_keeps (by decide) (onAttestVerifyDone_keeps port t · .rfl') rfl
  case signDone sig t => exact frame_of_keeps (by decide) (onSignDone_keeps sig t · .rfl') rfl
  case accept addr => exact frame_of_keeps (by decide) (onAccept_keeps addr · .rfl') rfl
  case reject port reason => exact frame_of_keeps (by decide) (onReject_keeps port reason · .rfl') rfl
  case capReport addr dnState cap t =>
    exact frame_of_keeps (by decide) (onCapReport_keeps addr dnState cap t · .rfl') rfl
  case enumTimeout t => exact frame_of_keeps (by decide) (onEnumTimeout_keeps t · .rfl') rfl
  case reenum addr nonce => exact frame_of_keeps (by decide) (onReenum_keeps addr nonce · .rfl') rfl
  case align port index depart arrive t =>
    exact frame_of_keeps (by decide) (onAlign_keeps port index depart arrive t · .rfl') rfl
  case start t0 grants t => exact frame_of_keeps (by decide) (onStart_keeps t0 grants t · .rfl') rfl
  case swapPrepare fibre plan target t =>
    exact frame_of_keeps (by decide) (onSwapPrepare_keeps fibre plan target t · .rfl') rfl
  case swapReady addr target => exact frame_of_keeps (by decide) (onSwapReady_keeps addr target · .rfl') rfl
  case swapCommit target => exact frame_of_keeps (by decide) (onSwapCommit_keeps target · .rfl') rfl
  case swapCancel target => exact frame_of_keeps (by decide) (onSwapCancel_keeps target · .rfl') rfl
  case order code args frame t => exact frame_of_keeps (by decide) (onOrder_keeps code args frame t · .rfl') rfl
  case frameClose addr src stream frame =>
    exact frame_of_keeps (by decide) (onFrameClose_keeps addr src stream frame · .rfl') rfl
  case mergeWaitExpire src stream frame =>
    exact frame_of_keeps (by decide) (onMergeWaitExpire_keeps src stream frame · .rfl') rfl
  case forwardedItem item t => exact frame_of_keeps (by decide) (onForwardedItem_keeps item t · .rfl') rfl
  case join addr offset => exact frame_of_keeps (by decide) (onJoin_keeps addr offset · .rfl') rfl
  case deepCounts column counts nEn tQuiet =>
    exact frame_of_keeps (by decide) (onDeepCounts_keeps column counts nEn tQuiet · .rfl') rfl
  case deepFire shots => exact frame_of_keeps (by decide) (onDeepFire_keeps shots · .rfl') rfl
  case deepWin chan lock windows => exact frame_of_keeps (by decide) (onDeepWin_keeps chan lock windows · .rfl') rfl
  case deepHist chan h => exact frame_of_keeps (by decide) (onDeepHist_keeps chan h · .rfl') rfl
  case samples conv att first vals =>
    exact frame_of_keeps (by decide) (onSamples_keeps conv att first vals · .rfl') rfl
  case cableLengthUpdate lane il => exact frame_of_keeps (by decide) (onCableLengthUpdate_keeps lane il · .rfl') rfl
  case evaluationCycle hr lr t => exact frame_of_keeps (by decide) (onEvaluationCycle_keeps hr lr t · .rfl') rfl
  case safeInputChange input level =>
    exact frame_of_keeps (by decide) (onSafeInputChange_keeps input level · .rfl') rfl
  case siFilterExpire input => exact frame_of_keeps (by decide) (onSiFilterExpire_keeps input · .rfl') rfl
  case testPulseStart tp => exact frame_of_keeps (by decide) (onTestPulseStart_keeps tp · .rfl') rfl
  case testPulseEnd tp atEnd after t =>
    exact frame_of_keeps (by decide) (onTestPulseEnd_keeps tp atEnd after t · .rfl') rfl
  case discrepancyTimeout chain button t =>
    exact frame_of_keeps (by decide) (onDiscrepancyTimeout_keeps chain button t · .rfl') rfl
  case twohandTimeout chain => exact frame_of_keeps (by decide) (onTwohandTimeout_keeps chain · .rfl') rfl
  case switchTest out lowSide hr lr =>
    exact frame_of_keeps (by decide) (onSwitchTest_keeps out lowSide hr lr · .rfl') rfl
  case switchTestEnd out hr lr t => exact frame_of_keeps (by decide) (onSwitchTestEnd_keeps out hr lr t · .rfl') rfl
  case diagIntervalFault out lowSide t =>
    exact frame_of_keeps (by decide) (onDiagIntervalFault_keeps out lowSide t · .rfl') rfl
  case heartbeat => exact frame_of_keeps (by decide) (onHeartbeat_keeps · .rfl') rfl
  case heartbeatTimeout t => exact frame_of_keeps (by decide) (onHeartbeatTimeout_keeps t · .rfl') rfl
  case partStop t => exact frame_of_keeps (by decide) (onPartStop_keeps t · .rfl') rfl
  case islandFault cause t => exact frame_of_keeps (by decide) (onIslandFault_keeps cause t · .rfl') rfl
  case verdictWordArrive frame words t =>
    exact frame_of_keeps (by decide) (onVerdictWordArrive_keeps frame words t · .rfl') rfl
  case tineResultArrive slot frame header words t =>
    exact frame_of_keeps (by decide) (onTineResultArrive_keeps slot frame header words t · .rfl') rfl
  case verdictDeadline frame tine t =>
    exact frame_of_keeps (by decide) (onVerdictDeadline_keeps frame tine t · .rfl') rfl
  case zoneWordArrive interval words t =>
    exact frame_of_keeps (by decide) (onZoneWordArrive_keeps interval words t · .rfl') rfl
  case classifierDeadline interval t =>
    exact frame_of_keeps (by decide) (onClassifierDeadline_keeps interval t · .rfl') rfl
  case brakeTestDue chain => exact frame_of_keeps (by decide) (onBrakeTestDue_keeps chain · .rfl') rfl
  case brakeWindowResult chain enc1 count =>
    exact frame_of_keeps (by decide) (onBrakeWindowResult_keeps chain enc1 count · .rfl') rfl
  case brakeResultTimeout chain => exact frame_of_keeps (by decide) (onBrakeResultTimeout_keeps chain · .rfl') rfl
  case brakeTestOverdue chain t => exact frame_of_keeps (by decide) (onBrakeTestOverdue_keeps chain t · .rfl') rfl
  case poweredTimeTick => exact frame_of_keeps (by decide) (onPoweredTimeTick_keeps · .rfl') rfl
  case resetRelease t => exact frame_of_keeps (by decide) (onResetRelease_keeps t · .rfl') rfl
  case resetHoldTimeout t => exact frame_of_keeps (by decide) (onResetHoldTimeout_keeps t · .rfl') rfl
  case bcTxPeriod conn t => exact frame_of_keeps (by decide) (onBcTxPeriod_keeps conn t · .rfl') rfl
  case bcMessageReceive conn msg t =>
    exact frame_of_keeps (by decide) (onBcMessageReceive_keeps conn msg t · .rfl') rfl
  case bcTimeout conn t => exact frame_of_keeps (by decide) (onBcTimeout_keeps conn t · .rfl') rfl
  case inboundDoorbell conn slot => exact frame_of_keeps (by decide) (onInboundDoorbell_keeps conn slot · .rfl') rfl
  case sessionTimeout => exact frame_of_keeps (by decide) (onSessionTimeout_keeps · .rfl') rfl
  case passwordLockExpire => exact frame_of_keeps (by decide) (onPasswordLockExpire_keeps · .rfl') rfl
  case nop e => exact frame_of_keeps (by decide) (onNop_keeps e · .rfl') rfl
  case planSelect e fibre plan => exact frame_of_keeps (by decide) (onPlanSelect_keeps e fibre plan · .rfl') rfl
  case flush e src stream => exact frame_of_keeps (by decide) (onFlush_keeps e src stream · .rfl') rfl
  case captureTrigger e unit => exact frame_of_keeps (by decide) (onCaptureTrigger_keeps e unit · .rfl') rfl
  case captureAbort e unit => exact frame_of_keeps (by decide) (onCaptureAbort_keeps e unit · .rfl') rfl
  case captureRead e unit => exact frame_of_keeps (by decide) (onCaptureRead_keeps e unit · .rfl') rfl
  case captureRelease e unit => exact frame_of_keeps (by decide) (onCaptureRelease_keeps e unit · .rfl') rfl
  case captureRearm e unit => exact frame_of_keeps (by decide) (onCaptureRearm_keeps e unit · .rfl') rfl
  case faultClear e sel => exact frame_of_keeps (by decide) (onFaultClear_keeps e sel · .rfl') rfl
  case graft e unit => exact frame_of_keeps (by decide) (onGraft_keeps e unit · .rfl') rfl
  case graftSelftestDone pass t => exact frame_of_keeps (by decide) (onGraftSelftestDone_keeps pass t · .rfl') rfl
  case cloLogin e len password => exact frame_of_keeps (by decide) (onCloLogin_keeps e len password · .rfl') rfl
  case cloStage e src bytes => exact frame_of_keeps (by decide) (onCloStage_keeps e src bytes · .rfl') rfl
  case cloCommit e hostTime newPw len password =>
    exact frame_of_keeps (by decide) (onCloCommit_keeps e hostTime newPw len password · .rfl') rfl
  case cloLogout e => exact frame_of_keeps (by decide) (onCloLogout_keeps e · .rfl') rfl
  case secKeyProgram e ar slot hash =>
    exact frame_of_keeps (by decide) (onSecKeyProgram_keeps e ar slot hash · .rfl') rfl
  case secRevoke e ar slot => exact frame_of_keeps (by decide) (onSecRevoke_keeps e ar slot · .rfl') rfl
  case secConfirm e => exact frame_of_keeps (by decide) (onSecConfirm_keeps e · .rfl') rfl
  case imgWrite e slot bytes => exact frame_of_keeps (by decide) (onImgWrite_keeps e slot bytes · .rfl') rfl
  case recoverGo e bytes => exact frame_of_keeps (by decide) (onRecoverGo_keeps e bytes · .rfl') rfl
  case bootDirWrite e dir => exact frame_of_keeps (by decide) (onBootDirWrite_keeps e dir · .rfl') rfl
  case unknownCommand e code => exact frame_of_keeps (by decide) (onUnknownCommand_keeps e code · .rfl') rfl
  case backgroundCommandDone nvmOk dmaOk t =>
    exact frame_of_keeps (by decide) (onBackgroundCommandDone_keeps nvmOk dmaOk t · .rfl') rfl
  case registerWrite off v t => exact frame_of_keeps (by decide) (onRegisterWrite_keeps off v t · .rfl') rfl
  case rcRead off => exact frame_of_keeps (by decide) (onRcRead_keeps off · .rfl') rfl
  case readLowWord off => exact frame_of_keeps (by decide) (onReadLowWord_keeps off · .rfl') rfl
  case unsupportedRequest => exact frame_of_keeps (by decide) (onUnsupportedRequest_keeps · .rfl') rfl
  case ringEnable h2c stream ctrl => exact frame_of_keeps (by decide) (onRingEnable_keeps h2c stream ctrl · .rfl') rfl
  case ringDisable h2c stream ctrl t =>
    exact frame_of_keeps (by decide) (onRingDisable_keeps h2c stream ctrl t · .rfl') rfl
  case c2hProdWrite stream prod => exact frame_of_keeps (by decide) (onC2hProdWrite_keeps stream prod · .rfl') rfl
  case c2hItemDeliver entry desc hits t =>
    exact frame_of_keeps (by decide) (onC2hItemDeliver_keeps entry desc hits t · .rfl') rfl
  case bufferCloseTimeout stream t =>
    exact frame_of_keeps (by decide) (onBufferCloseTimeout_keeps stream t · .rfl') rfl
  case h2cReadDone stream desc bytes ok t =>
    exact frame_of_keeps (by decide) (onH2cReadDone_keeps stream desc bytes ok t · .rfl') rfl
  case msixSend vector => exact frame_of_keeps (by decide) (onMsixSend_keeps vector · .rfl') rfl
  case perst flr => exact frame_of_keeps (by decide) (onPerst_keeps flr · .rfl') rfl
  case pcieLinkDown d3hot => exact frame_of_keeps (by decide) (onPcieLinkDown_keeps d3hot · .rfl') rfl
  case d0Return => exact frame_of_keeps (by decide) (onD0Return_keeps · .rfl') rfl
  case faultMessage m => exact frame_of_keeps (by decide) (onFaultMessage_keeps m · .rfl') rfl
  case memoryEccError area uncorr t =>
    exact frame_of_keeps (by decide) (onMemoryEccError_keeps area uncorr t · .rfl') rfl
  case spadAvalanche chan spad t => exact frame_of_keeps (by decide) (onSpadAvalanche_keeps chan spad t · .rfl') rfl
  case calSourceEdge line tap t => exact frame_of_keeps (by decide) (onCalSourceEdge_keeps line tap t · .rfl') rfl
  case adcSampleWord conv v t => exact frame_of_keeps (by decide) (onAdcSampleWord_keeps conv v t · .rfl') rfl
  case dataLinkUp speed width => exact frame_of_keeps (by decide) (onDataLinkUp_keeps speed width · .rfl') rfl
  case reservedLinkBlock port type =>
    exact frame_of_keeps (by decide) (onReservedLinkBlock_keeps port type · .rfl') rfl
  case reservedMessageType port type =>
    exact frame_of_keeps (by decide) (onReservedMessageType_keeps port type · .rfl') rfl

/-! ### The obligations -/

/-- Settles O4: the queue stands in no row. -/
theorem commandsLeaveTheQueue : Obligations.CommandsLeaveTheQueue := by
  intro c s t ends
  have queue : .pending ∉ mayChange c := by cases c <;> exact of_decide_eq_true rfl
  exact frame_mayChange s c t ends .pending queue

/-- Settles O51: each command's list is its row. -/
theorem startUpAndPowerCommandsFrame : Obligations.StartUpAndPowerCommandsFrame := by
  intro s
  dsimp only
  and_intros <;> intros <;> exact frame_mayChange s _

/-- Settles O52: each command's list is its row. -/
theorem lidarCommandsFrame : Obligations.LidarCommandsFrame := by
  intro s
  dsimp only
  and_intros <;> intros <;> exact frame_mayChange s _

/-- Settles O53: each command's list is its row. -/
theorem timestampCommandsFrame : Obligations.TimestampCommandsFrame := by
  intro s
  dsimp only
  and_intros <;> intros <;> exact frame_mayChange s _

/-- Settles O54: each command's list is its row. -/
theorem fibreCommandsFrame : Obligations.FibreCommandsFrame := by
  intro s
  dsimp only
  and_intros <;> intros <;> exact frame_mayChange s _

/-- Settles O55: each command's list is its row. -/
theorem tineCommandsFrame : Obligations.TineCommandsFrame := by
  intro s
  dsimp only
  and_intros <;> intros <;> exact frame_mayChange s _

/-- Settles O56: each command's list is its row. -/
theorem processingCommandsFrame : Obligations.ProcessingCommandsFrame := by
  intro s
  dsimp only
  and_intros <;> intros <;> exact frame_mayChange s _

/-- Settles O57: each command's list is its row. -/
theorem linkCommandsFrame : Obligations.LinkCommandsFrame := by
  intro s
  dsimp only
  and_intros <;> intros <;> exact frame_mayChange s _

/-- Settles O58: each command's list is its row. -/
theorem safetyCommandsFrame : Obligations.SafetyCommandsFrame := by
  intro s
  dsimp only
  and_intros <;> intros <;> exact frame_mayChange s _

/-- Settles O59: each command's list is its row. -/
theorem hostCommandsFrame : Obligations.HostCommandsFrame := by
  intro s
  dsimp only
  and_intros <;> intros <;> exact frame_mayChange s _

end Sys2Proof.Machine
end

section
/-! PROOFS. The OTP and the key that is being programmed (R446, R447, R449, R482): one relation that every command keeps
says that no one-time-programmable bit is undone and that the key goes to an empty slot. -/

namespace Sys2Proof.Machine

/-! ### Growth of the OTP -/

theorem SlotsGrow.refl (a : List (List Byte)) : SlotsGrow a a := ⟨rfl, fun _ _ => rfl⟩

theorem SlotsGrow.trans {a b c : List (List Byte)} (h : SlotsGrow a b) (k : SlotsGrow b c) : SlotsGrow a c := by
  obtain ⟨hl, hs⟩ := h
  obtain ⟨kl, ks⟩ := k
  refine ⟨hl.trans kl, fun j full => ?_⟩
  have same := hs j full
  exact (ks j (same ▸ full)).trans same

/-- Writing a slot that is empty keeps every programmed one. -/
theorem SlotsGrow.set {a : List (List Byte)} {k : Nat} {h : List Byte} (free : emptySlot (a.getD k []) = true) :
    SlotsGrow a (a.set k h) := by
  refine ⟨(List.length_set ..).symm, fun j full => ?_⟩
  have other : k ≠ j := by
    rintro rfl
    obtain ⟨b, mem, nonzero⟩ := List.any_eq_true.mp full
    exact of_decide_eq_true nonzero (of_decide_eq_true (List.all_eq_true.mp free b mem))
  simp [List.getD_eq_getElem?_getD, List.getElem?_set_ne other]

theorem OtpGrows.refl (s : State) : OtpGrows s s := ⟨.refl _, .refl _, fun _ => id, fun _ => id, le_rfl⟩

theorem OtpGrows.trans {s t u : State} (h : OtpGrows s t) (k : OtpGrows t u) : OtpGrows s u := by
  obtain ⟨h1, h2, h3, h4, h5⟩ := h
  obtain ⟨k1, k2, k3, k4, k5⟩ := k
  exact ⟨h1.trans k1, h2.trans k2, fun i b => k3 i (h3 i b), fun i b => k4 i (h4 i b), h5.trans k5⟩

/-! ### The relation that every command keeps -/

/-- From a state whose key job fits, no one-time-programmable bit is undone and the key job fits again. -/
structure OtpLawful (s t : State) : Prop where
  of_fits : KeyJobFits s → OtpGrows s t ∧ KeyJobFits t

theorem OtpLawful.trans {s t u : State} (h : OtpLawful s t) (k : OtpLawful t u) : OtpLawful s u := by
  refine ⟨fun fits => ?_⟩
  obtain ⟨grows, fits⟩ := h.of_fits fits
  obtain ⟨grows', fits⟩ := k.of_fits fits
  exact ⟨grows.trans grows', fits⟩

/-- What writes no OTP word and leaves the background command. -/
theorem OtpLawful.of_same {s t : State} (ks : t.sec.ks = s.sec.ks) (ar : t.sec.ar = s.sec.ar)
    (ksRevoked : t.sec.ksRevoked = s.sec.ksRevoked) (arRevoked : t.sec.arRevoked = s.sec.arRevoked)
    (rollback : t.sec.rollback = s.sec.rollback) (job : t.hif.background = s.hif.background) : OtpLawful s t := by
  refine ⟨fun fits => ⟨?_, fun o a k hash runs => ?_⟩⟩
  · rw [OtpGrows, ks, ar, ksRevoked, arRevoked, rollback]
    exact OtpGrows.refl s
  · rw [keySlots, ks, ar]
    exact fits o a k hash (job ▸ runs)

/-- The bits of every part but the OTP and the background command. -/
def besideKeys : Nat := 281474976710655 - 2 ^ 4 - 2 ^ 38

theorem OtpLawful.of_keeps {s t : State} (h : Keeps besideKeys s t) : OtpLawful s t := by
  have sec : t.sec = s.sec := h.same .sec (by decide)
  have job : t.hif.background = s.hif.background := h.same .background (by decide)
  exact .of_same (sec ▸ rfl) (sec ▸ rfl) (sec ▸ rfl) (sec ▸ rfl) (sec ▸ rfl) job

theorem OtpLawful.refl (s : State) : OtpLawful s s := .of_keeps .rfl'

theorem KeyJobFits.of_idle {s : State} (idle : s.hif.background = none) : KeyJobFits s :=
  fun _ _ _ _ runs => absurd (idle.symm.trans runs) (by simp)

/-- A job that programs no key fits. -/
theorem KeyJobFits.of_other {s : State} {o : Origin} {job : Background} (runs : s.hif.background = some (o, job))
    (other : ∀ ar k h, job ≠ .keyProgram ar k h) : KeyJobFits s := by
  intro o' ar k h runs'
  obtain ⟨-, rfl⟩ := Prod.mk.inj (Option.some.inj (runs.symm.trans runs'))
  exact absurd rfl (other ar k h)

/-! ### Background commands begin (R482) -/

/-- A command run in the background is answered, or it begins with its check passed. -/
theorem runInBack_lawful {o : Origin} {st : Option Status} {job : Background} {s : State}
    (fits : st = none → KeyJobFits (beginBackground o job s)) : OtpLawful s (runInBack o st job s) := by
  have answered (st) : OtpLawful s (finish o st 0 s) := .of_keeps (finish_keeps _ _ _ (by decide) .rfl')
  unfold runInBack
  split
  · exact answered _
  · split
    · exact answered _
    · exact ⟨fun _ => ⟨OtpGrows.refl s, fits rfl⟩⟩

/-- A background command that programs no key. -/
theorem runInBack_lawful_of_other {o : Origin} {st : Option Status} {job : Background} {s : State}
    (other : ∀ ar k h, job ≠ .keyProgram ar k h) : OtpLawful s (runInBack o st job s) :=
  runInBack_lawful fun _ => .of_other rfl other

/-- SEC_KEY_PROGRAM begins only for an empty slot (R447). -/
theorem keyProgram_lawful (o : Origin) (ar slot : Nat) (hash : List Byte) (s : State) :
    OtpLawful s (keyProgram o ar slot hash s) := by
  refine runInBack_lawful fun passes o' ar' slot' hash' runs => ?_
  obtain ⟨-, job⟩ := Prod.mk.inj (Option.some.inj runs)
  obtain ⟨rfl, rfl, -⟩ := Background.keyProgram.inj job
  by_contra full
  have refused : (!emptySlot ((keySlots s (decide (ar = 1))).getD slot [])) = true :=
    (Bool.not_eq_true' _).mpr (Bool.eq_false_of_not_eq_true full)
  rw [if_pos refused] at passes
  split at passes
  · cases passes
  · split at passes <;> cases passes

theorem sessionTouch_lawful (s : State) : OtpLawful s (sessionTouch s) := .of_keeps (sessionTouch_keeps (by decide) .rfl')

theorem cloStage_lawful (o : Origin) (src bytes : Nat) (s : State) : OtpLawful s (cloStage o src bytes s) :=
  (sessionTouch_lawful s).trans (runInBack_lawful_of_other nofun)

theorem cloCommit_lawful (o : Origin) (time : Nat) (newPw : Bool) (len : Nat) (pw : List Byte) (s : State) :
    OtpLawful s (cloCommit o time newPw len pw s) :=
  (sessionTouch_lawful s).trans (runInBack_lawful_of_other nofun)

theorem revoke_lawful (o : Origin) (ar slot : Nat) (s : State) : OtpLawful s (revoke o ar slot s) :=
  runInBack_lawful_of_other nofun

theorem imgWrite_lawful (o : Origin) (slot bytes : Nat) (s : State) : OtpLawful s (imgWrite o slot bytes s) :=
  runInBack_lawful_of_other nofun

theorem recoverGo_lawful (o : Origin) (bytes : Nat) (s : State) : OtpLawful s (recoverGo o bytes s) :=
  runInBack_lawful_of_other nofun

theorem bootDirWrite_lawful (o : Origin) (dir : List Byte) (s : State) : OtpLawful s (bootDirWrite o dir s) :=
  runInBack_lawful_of_other nofun

/-! ### The OTP is written (R446, R447, R449) -/

/-- The rollback counter takes a greater value. -/
theorem rollback_lawful {s : State} {n : Nat} (least : s.sec.rollback ≤ n) :
    OtpLawful s { s with sec := { s.sec with rollback := n } } :=
  ⟨fun fits => ⟨⟨.refl _, .refl _, fun _ => id, fun _ => id, least⟩, fits⟩⟩

theorem secConfirm_lawful (o : Origin) (s : State) : OtpLawful s (secConfirm o s) := by
  have answered (st) (t : State) : OtpLawful t (finish o st 0 t) := .of_keeps (finish_keeps _ _ _ (by decide) .rfl')
  simp only [secConfirm]
  split
  · exact answered _ _
  · split
    next less =>
      exact (rollback_lawful less.le).trans
        (.of_keeps (finish_keeps _ _ _ (by decide) (stick_keeps _ _ (by decide) (raise_keeps _ (by decide) .rfl'))))
    · exact answered _ _

/-- The end of a key program that fits, once it is the running command no more. -/
theorem programDone_lawful {o : Origin} {ar : Bool} {slot : Nat} {hash : List Byte} {nvmOk : Bool} {s : State}
    (free : emptySlot ((keySlots s ar).getD slot []) = true) (idle : s.hif.background = none) :
    OtpLawful s (programDone o ar slot hash nvmOk s) := by
  have written : OtpLawful s { s with sec :=
      if ar then { s.sec with ar := s.sec.ar.set slot hash } else { s.sec with ks := s.sec.ks.set slot hash } } := by
    refine ⟨fun _ => ⟨?_, .of_idle idle⟩⟩
    cases ar
    · exact ⟨.set free, .refl _, fun _ => id, fun _ => id, le_rfl⟩
    · exact ⟨.refl _, .set free, fun _ => id, fun _ => id, le_rfl⟩
  simp only [programDone]
  split
  · exact written.trans
      (.of_keeps (finish_keeps _ _ _ (by decide) (stick_keeps _ _ (by decide) (raise_keeps _ (by decide) .rfl'))))
  · exact .of_keeps (finish_keeps _ _ _ (by decide) .rfl')

theorem revokeDone_lawful (o : Origin) (ar : Bool) (slot : Nat) (nvmOk : Bool) (s : State) :
    OtpLawful s (revokeDone o ar slot nvmOk s) := by
  have blown : OtpLawful s { s with sec :=
      if ar then { s.sec with arRevoked := s.sec.arRevoked ||| BitVec.ofNat 2 (2 ^ slot) }
      else { s.sec with ksRevoked := s.sec.ksRevoked ||| BitVec.ofNat 4 (2 ^ slot) } } := by
    refine ⟨fun fits => ?_⟩
    cases ar
    · exact ⟨⟨.refl _, .refl _, fun _ set => by simp [set], fun _ => id, le_rfl⟩, fits⟩
    · exact ⟨⟨.refl _, .refl _, fun _ => id, fun _ set => by simp [set], le_rfl⟩, fits⟩
  simp only [revokeDone]
  split
  · exact blown.trans
      (.of_keeps (finish_keeps _ _ _ (by decide) (stick_keeps _ _ (by decide) (raise_keeps _ (by decide) .rfl'))))
  · exact .of_keeps (finish_keeps _ _ _ (by decide) .rfl')

/-- No command runs in the background any more. -/
theorem background_none_lawful (d) (s : State) : OtpLawful s { s with hif := { s.hif with background := none, h2cData := d } } :=
  ⟨fun _ => ⟨OtpGrows.refl s, .of_idle rfl⟩⟩

theorem dmaFails_lawful (n : Nat) (s : State) : OtpLawful s (dmaFails n s) := by
  refine .trans (t := stick Reg.HIF_STICKY 2 (fault 314 Src.hif 0 .corrected n s))
    (.of_keeps (stick_keeps _ _ (by decide) (fault_keeps _ _ _ _ _ (by decide) .rfl'))) ?_
  have ends (o) (t : State) : OtpLawful t
      (finish o .dma 0 { t with hif := { t.hif with background := none, h2cData := Tab.del t.hif.h2cData n } }) :=
    (background_none_lawful _ t).trans (.of_keeps (finish_keeps _ _ _ (by decide) .rfl'))
  unfold dmaFails
  dsimp only
  split
  · refine .trans (.of_keeps ?_) (ends _ _)
    split
    · exact updateFails_keeps _ (by decide) (slotErased_keeps _ (by decide) .rfl')
    · exact .rfl'
  · exact .refl _

/-- The end of a background command whose key job fits, once it is the running command no more. -/
theorem jobDone_lawful {o : Origin} {job : Background} {data : List Byte} {nvmOk : Bool} {t : Tick} {s : State}
    (free : ∀ ar slot hash, job = .keyProgram ar slot hash → emptySlot ((keySlots s ar).getD slot []) = true)
    (idle : s.hif.background = none) : OtpLawful s (jobDone o job data nvmOk t s) := by
  cases job with
  | imgWrite b n => exact .of_keeps (imgWriteDone_keeps _ _ _ _ (by decide) .rfl')
  | recoverGo n => exact .of_keeps (recoverDone_keeps _ _ _ (by decide) .rfl')
  | bootDirWrite d => exact .of_keeps (dirDone_keeps _ _ _ (by decide) .rfl')
  | cloStage host n =>
    exact .trans (t := { s with clo := { s.clo with staged := some (if host then data else (blockOffer s).getD []) } })
      (.of_same rfl rfl rfl rfl rfl rfl) (.of_keeps (finish_keeps _ _ _ (by decide) .rfl'))
  | cloCommit h p pw => exact .of_keeps (commitDone_keeps _ _ _ _ _ (by decide) .rfl')
  | keyProgram ar slot hash => exact programDone_lawful (free ar slot hash rfl) idle
  | revoke ar slot => exact revokeDone_lawful o ar slot nvmOk s

/-- A key goes to the slot that was empty when its command began. -/
theorem onBackgroundCommandDone_lawful (nvmOk dmaOk : Bool) (t : Tick) (s : State) :
    OtpLawful s (onBackgroundCommandDone nvmOk dmaOk t s) := by
  have passes : OtpLawful s (advance t s) := .of_keeps (advance_keeps t (by decide) .rfl')
  unfold onBackgroundCommandDone
  dsimp only
  split
  · exact passes
  next o job runs =>
    split
    · exact passes.trans (dmaFails_lawful _ _)
    · split
      · exact passes
      · exact ⟨fun fits => (passes.trans ((background_none_lawful _ _).trans (jobDone_lawful
          (fun ar slot hash program => fits o ar slot hash (runs.trans (program ▸ rfl))) rfl))).of_fits fits⟩

/-! ### The other commands that touch the OTP or the background command -/

theorem onH2cReadDone_lawful (stream : Fin 2) (desc : Descriptor) (bytes : List Byte) (ok : Bool) (t : Tick) (s : State) :
    OtpLawful s (onH2cReadDone stream desc bytes ok t s) := by
  have passes : OtpLawful s (advance t s) := .of_keeps (advance_keeps t (by decide) .rfl')
  have completes (n got) : OtpLawful s (complete true stream desc.irq n got false false 0 0 [] (advance t s)) :=
    .of_keeps (complete_keeps _ _ _ _ _ _ _ _ _ _ (by decide) (advance_keeps t (by decide) .rfl'))
  unfold onH2cReadDone
  dsimp only
  split
  · exact passes
  · split
    · exact completes _ _
    · split
      · exact completes _ _
      · split
        · refine .trans ?_
            (.of_keeps (countKib_keeps _ _ _ (by decide) (complete_keeps _ _ _ _ _ _ _ _ _ _ (by decide) .rfl')))
          exact .of_same rfl rfl rfl rfl rfl rfl
        · exact (completes _ _).trans (dmaFails_lawful _ _)

theorem afterDirectory_lawful (r : NvmRead) (s : State) : OtpLawful s (afterDirectory r s) := by
  unfold afterDirectory
  dsimp only
  split
  · exact .of_keeps (bootHalt_keeps (by decide) (fault_keeps _ _ _ _ _ (by decide) .rfl'))
  · split
    · refine .trans ?_ (.of_keeps (raise_keeps 12 (by decide) .rfl'))
      exact .of_same rfl rfl rfl rfl rfl rfl
    · refine .trans ?_ (.of_keeps (judgeSlots_keeps _ (by decide) .rfl'))
      exact .of_same rfl rfl rfl rfl rfl rfl

theorem onNvmHeadersRead_lawful (r : NvmRead) (s : State) : OtpLawful s (onNvmHeadersRead r s) := by
  have noImage (t) : OtpLawful t (noImage (dirBad t)) := .of_keeps (noImage_keeps (by decide) (dirBad_keeps (by decide) .rfl'))
  unfold onNvmHeadersRead
  split
  · exact .refl _
  · split
    · exact noImage _
    · extract_lets size _ _ sized copy dir _ _ chosen
      have toSized : OtpLawful s sized := .of_same rfl rfl rfl rfl rfl rfl
      have toChosen : OtpLawful s chosen := .of_same rfl rfl rfl rfl rfl rfl
      split
      · exact toSized.trans (noImage _)
      · refine .trans ?_ (afterDirectory_lawful r _)
        split
        · exact toChosen
        · exact toChosen.trans (.of_keeps (dirBad_keeps (by decide) .rfl'))

/-- No command runs in the background after a POR_N edge (R12). -/
theorem por_lawful {s t : State} (stores : StoresSame s t) (idle : t.hif.background = none) : OtpLawful s t := by
  obtain ⟨ks, ar, ksRevoked, arRevoked, rollback, -⟩ := stores
  refine ⟨fun _ => ⟨?_, .of_idle idle⟩⟩
  rw [OtpGrows, ks, ar, ksRevoked, arRevoked, rollback]
  exact OtpGrows.refl s

theorem onPorNRelease_background (x : Straps) (s : State) : (onPorNRelease x s).hif.background = none := by
  by_cases bad : strapFault s x = true
  · obtain ⟨boot, halts⟩ := onPorNRelease_of_strapFault bad
    rw [halts]
    exact (bootHalt_fault_onlyChanges _ _ _ _ _ { porReset s with boot := boot }) .background (by decide)
  · obtain ⟨boot, waits⟩ := onPorNRelease_of_goodStraps bad
    rw [waits]
    rfl

/-- An entry of the mailbox is answered or its command runs, and may be relayed (R482, R483). -/
theorem hostManage_lawful {e : Entry} {code : Nat} {args : List Byte} {body : Origin → State → State} {s : State}
    (runs : ∀ o t, OtpLawful t (body o t)) : OtpLawful s (hostManage e code args body s) := by
  have takes : OtpLawful s (takeEntry e code s).1 := .of_keeps (takeEntry_keeps _ _ (by decide) .rfl')
  unfold hostManage hostCommand
  dsimp only
  split
  · exact .refl _
  · split
    · exact takes.trans (.of_keeps (finish_keeps _ _ _ (by decide) .rfl'))
    · exact takes.trans ((runs _ _).trans (.of_keeps (relayOrder_keeps _ _ _ _ _ (by decide) .rfl')))

theorem runManage_lawful (code : Nat) (a : List Byte) (s : State) : OtpLawful s (runManage code a s) := by
  unfold runManage
  dsimp only
  split
  · exact .of_keeps (cloLogin_keeps _ _ _ (by decide) .rfl')
  · exact cloStage_lawful ..
  · exact cloCommit_lawful ..
  · exact .of_keeps (cloLogout_keeps _ (by decide) .rfl')
  · exact keyProgram_lawful ..
  · exact revoke_lawful ..
  · exact secConfirm_lawful ..
  · exact imgWrite_lawful ..
  · exact recoverGo_lawful ..
  · exact bootDirWrite_lawful ..
  · exact .of_keeps (finish_keeps _ _ _ (by decide) .rfl')

theorem onOrder_lawful (code : BitVec 16) (args : List Byte) (frame : BitVec 24) (t : Tick) (s : State) :
    OtpLawful s (onOrder code args frame t s) := by
  unfold onOrder
  extract_lets heard passed _ shown
  have toHeard : OtpLawful s heard := .of_keeps (received_keeps _ _ _ (by decide) (advance_keeps t (by decide) .rfl'))
  have toPassed : OtpLawful heard passed := .of_keeps (sendMsg_keeps _ _ (by decide) .rfl')
  have toShown : OtpLawful passed shown := .of_same rfl rfl rfl rfl rfl rfl
  split
  · exact toHeard
  · refine toHeard.trans (toPassed.trans (toShown.trans ?_))
    split
    · exact .of_keeps (masterOrder_keeps _ _ _ (by decide) .rfl')
    · exact runManage_lawful _ _ _

/-! ### Every command, every step -/

/-- A command in whose row neither the OTP nor the background command stands. -/
theorem lawful_of_row {c : Instr} {s t : State} (ends : exec c s = .next t) (sec : .sec ∉ mayChange c)
    (job : .background ∉ mayChange c) : OtpLawful s t := by
  have sec : t.sec = s.sec := frame_mayChange s c t ends .sec sec
  have job : t.hif.background = s.hif.background := frame_mayChange s c t ends .background job
  exact .of_same (sec ▸ rfl) (sec ▸ rfl) (sec ▸ rfl) (sec ▸ rfl) (sec ▸ rfl) job

theorem exec_lawful {c : Instr} {s t : State} (ends : exec c s = .next t) : OtpLawful s t := by
  have of_meaning {u : State} (lawful : OtpLawful s u) (runs : exec c s = .next u) : OtpLawful s t :=
    Host.Outcome.next.inj (runs.symm.trans ends) ▸ lawful
  cases c
  case porNAssert => exact of_meaning (por_lawful (porReset_storesSame s) rfl) rfl
  case porNRelease x => exact of_meaning (por_lawful (onPorNRelease_storesSame x s) (onPorNRelease_background x s)) rfl
  case nvmHeadersRead r => exact of_meaning (onNvmHeadersRead_lawful r s) rfl
  case order code args frame t0 => exact of_meaning (onOrder_lawful code args frame t0 s) rfl
  case cloStage => exact of_meaning (hostManage_lawful fun _ _ => cloStage_lawful ..) rfl
  case cloCommit => exact of_meaning (hostManage_lawful fun _ _ => cloCommit_lawful ..) rfl
  case secKeyProgram => exact of_meaning (hostManage_lawful fun _ _ => keyProgram_lawful ..) rfl
  case secRevoke => exact of_meaning (hostManage_lawful fun _ _ => revoke_lawful ..) rfl
  case secConfirm => exact of_meaning (hostManage_lawful fun _ _ => secConfirm_lawful ..) rfl
  case imgWrite => exact of_meaning (hostManage_lawful fun _ _ => imgWrite_lawful ..) rfl
  case recoverGo => exact of_meaning (hostManage_lawful fun _ _ => recoverGo_lawful ..) rfl
  case bootDirWrite => exact of_meaning (hostManage_lawful fun _ _ => bootDirWrite_lawful ..) rfl
  case backgroundCommandDone nvmOk dmaOk t0 => exact of_meaning (onBackgroundCommandDone_lawful nvmOk dmaOk t0 s) rfl
  case h2cReadDone stream desc bytes ok t0 => exact of_meaning (onH2cReadDone_lawful stream desc bytes ok t0 s) rfl
  all_goals exact lawful_of_row ends (of_decide_eq_true rfl) (of_decide_eq_true rfl)

theorem step_lawful {s t : State} (ends : step s = .next t) : OtpLawful s t := by
  unfold step at ends
  split at ends
  · exact Host.Outcome.next.inj ends ▸ .of_keeps (State.idle_keeps (by decide) .rfl')
  next c rest front =>
    exact .trans (t := { s with pending := rest }) (.of_same rfl rfl rfl rfl rfl rfl) (exec_lawful ends)

/-! ### The obligations -/

/-- Settles O5: what each command that writes the OTP does to it only adds. -/
theorem otpOnlyGrows : Obligations.OtpOnlyGrows := fun _ _ fits ends => ((step_lawful ends).of_fits fits).1

/-- Settles O6: a key program begins only for an empty slot, and no slot is filled but by its end. -/
theorem keyJobsKeepFitting : Obligations.KeyJobsKeepFitting := fun _ _ fits ends => ((step_lawful ends).of_fits fits).2

end Sys2Proof.Machine
end

section
/-! PROOFS. The step, the edge of an empty queue and the state after reset. -/

namespace Sys2Proof.Machine

/-- Settles O1. -/
theorem frontCommandRuns : Obligations.FrontCommandRuns := by
  intro c q s front
  rw [step, front]

/-- Settles O2: the idle edge keeps every part but the time base. -/
theorem emptyQueuePassesOneEdge : Obligations.EmptyQueuePassesOneEdge := by
  intro s waiting
  refine ⟨s.idle, by rw [step, waiting], (State.idle_keeps (by decide) .rfl').onlyChanges, ?_⟩
  rw [State.idle]
  split <;> exact ⟨rfl, rfl, rfl⟩

/-- Settles O3: the reset state is closed but for its arguments, and each clause is one of its fields. -/
theorem resetIsAsTheSpecGivesIt : Obligations.ResetIsAsTheSpecGivesIt := by
  refine ⟨rfl, rfl, fun _ => rfl, rfl, rfl, rfl, fun h2c _ => ?_, rfl, rfl, rfl, rfl, rfl, fun _ => ⟨rfl, rfl⟩, rfl⟩
  cases h2c <;> rfl

/-- Settles O8: after reset no key is being programmed and there is no tine. -/
theorem resetKeepsThePromises : Obligations.ResetKeepsThePromises := by
  refine ⟨fun _ _ _ _ h => ?_, ⟨rfl, fun _ h => ?_⟩, fun _ h => ?_, .refl _⟩
  · nomatch h
  · nomatch h
  · nomatch h

end Sys2Proof.Machine
end

section
/-! PROOFS. The byte memories of the tine cluster stay canonical and the tines keep their registers (R244, R256): one
promise about a tine that every instruction keeps, and one about the cluster that every command keeps. -/

namespace Sys2Proof.Machine

/-! ### One tine -/

/-- A tine with its registers (R244) and a data memory in canonical form. -/
def TineSt.Sound (x : TineSt) : Prop :=
  Memory.wf x.mem = true ∧ x.d.length = 16 ∧ x.acc.length = 4 ∧ x.a.length = 8 ∧ x.b.length = 8 ∧ x.l.length = 8 ∧
    x.m.length = 8 ∧ x.dma.length = 2

theorem TineSt.Sound.blank : TineSt.Sound {} := ⟨Memory.wf_nil, rfl, rfl, rfl, rfl, rfl, rfl, rfl⟩

theorem TineSt.Sound.mem_wf {x : TineSt} (h : x.Sound) : Memory.wf x.mem = true := h.1

theorem TineSt.Sound.setMem {x : TineSt} {m : Memory} (h : x.Sound) (wf : Memory.wf m = true) : TineSt.Sound { x with mem := m } :=
  ⟨wf, h.2⟩

theorem TineSt.Sound.setDma {x : TineSt} {l : List (Option Dma)} (h : x.Sound) (two : l.length = x.dma.length) :
    TineSt.Sound { x with dma := l } := by
  obtain ⟨mem, d, acc, a, b, l, m, dma⟩ := h
  exact ⟨mem, d, acc, a, b, l, m, two.trans dma⟩

theorem TineSt.Sound.setOvf {x : TineSt} (h : x.Sound) (o : Bool) : TineSt.Sound { x with ovf := o } := h

theorem TineSt.Sound.ite {c : Prop} [Decidable c] {p q : TineSt × TineNext} (hp : p.1.Sound) (hq : q.1.Sound) :
    (if c then p else q).1.Sound := by
  split
  · exact hp
  · exact hq

theorem TineSt.Sound.dPut {x : TineSt} (h : x.Sound) (i : Nat) (pair : Bool) (v : Nat) : (dPut i pair v x).Sound := by
  cases pair <;> simpa [Machine.dPut, TineSt.Sound] using h

theorem TineSt.Sound.accPut {x : TineSt} (h : x.Sound) (i : Nat) (sat : Bool) (v : Int) : (accPut i sat v x).Sound := by
  simpa [Machine.accPut, TineSt.flags, TineSt.Sound] using h

theorem TineSt.Sound.aPut {x : TineSt} (h : x.Sound) (i v : Nat) : (aPut i v x).Sound := by
  simpa [Machine.aPut, TineSt.Sound] using h

theorem TineSt.Sound.agPut {x : TineSt} (h : x.Sound) (t : AddrTgt) (i : Nat) (v : BitVec 16) : (agPut t i v x).Sound := by
  cases t <;> simpa [Machine.agPut, TineSt.Sound] using h

theorem wf_dmWrite (m : Memory) (a n v : Nat) (h : Memory.wf m = true) : Memory.wf (dmWrite m a n v) = true :=
  List.foldlRecOn (motive := fun m => Memory.wf m = true) _ _ h fun _ wf _ _ => Memory.wf_write _ _ _ wf

/-- An access moves its pointer and writes its destination or the bytes it stores. -/
theorem TineSt.Sound.access {x : TineSt} (h : x.Sound) (store wide : Bool) (d areg : Nat) (mode : UpdMode) (imm : BitVec 16) :
    (tineAccess store wide d areg mode imm x).1.Sound := by
  unfold tineAccess
  extract_lets n at_
  split
  · exact h
  · split
    · exact h
    · split
      · exact (h.setMem (wf_dmWrite _ _ _ _ h.mem_wf)).aPut ..
      · exact (h.dPut ..).aPut ..

theorem TineSt.Sound.parLoad {p : TineSt × TineNext} (h : p.1.Sound) (l : Option ParLoad) : (parLoad l p).1.Sound := by
  unfold Machine.parLoad
  split
  · exact h.access ..
  · exact h

/-! ### The cluster -/

/-- The bits of every part but the tines with their memories. -/
def besideTines : Nat := 281474976710655 - 2 ^ 15

/-- The tine SRAM region is in canonical form and every tine is sound. -/
def TinesSound (s : State) : Prop := Memory.wf s.tin.sram = true ∧ ∀ e ∈ s.tin.tines, e.2.Sound

theorem tinesSound_iff (s : State) : TinesSound s ↔ MemoriesCanonical s ∧ TinesWhole s :=
  ⟨fun ⟨wf, each⟩ => ⟨⟨wf, fun e mem => (each e mem).1⟩, fun e mem => (each e mem).2⟩,
   fun ⟨⟨wf, mems⟩, whole⟩ => ⟨wf, fun e mem => ⟨mems e mem, whole e mem⟩⟩⟩

theorem Tab.mem_put {α : Type} {t : Tab α} {k : Nat} {v : α} {e : Nat × α} (h : e ∈ Tab.put t k v) : e.2 = v ∨ e ∈ t := by
  induction t with
  | nil => exact .inl (List.mem_singleton.mp h ▸ rfl)
  | cons x r ih =>
    rw [Tab.put] at h
    split at h
    · exact (List.mem_cons.mp h).imp (fun same => congrArg Prod.snd same) id
    · split at h
      · exact (List.mem_cons.mp h).imp (fun same => congrArg Prod.snd same) (List.mem_cons_of_mem _)
      · rcases List.mem_cons.mp h with same | rest
        · exact .inr (same ▸ List.mem_cons_self)
        · exact (ih rest).imp id (List.mem_cons_of_mem _)

theorem Tab.lookD_of_forall {α : Type} {P : α → Prop} {t : Tab α} {d : α} (each : ∀ e ∈ t, P e.2) (k : Nat) (hd : P d) :
    P (Tab.lookD t k d) := by
  induction t with
  | nil => exact hd
  | cons x r ih =>
    rw [Tab.lookD, Tab.look]
    split
    · exact each x List.mem_cons_self
    · exact ih fun e mem => each e (List.mem_cons_of_mem _ mem)

theorem Memory.wfFrom_filter {o : Option Nat} {m : Memory} (p : Host.Cell → Bool) (h : Memory.wfFrom o m = true) :
    Memory.wfFrom o (m.filter p) = true := by
  induction m generalizing o with
  | nil => exact h
  | cons c r ih =>
    obtain ⟨b, v⟩ := c
    obtain ⟨first, rest⟩ := (Bool.and_eq_true ..).mp h
    rw [List.filter_cons]
    split
    · exact (Bool.and_eq_true ..).mpr ⟨first, ih rest⟩
    · refine ih (Memory.wfFrom_mono (b := some b) r (fun x y at_ next => ?_) nofun rest)
      subst at_
      obtain rfl := Option.some.inj next
      simp only [Bool.and_eq_true, decide_eq_true_eq] at first
      exact first.1.le

theorem TinesSound.tineOf {s : State} (h : TinesSound s) (t : Nat) : (tineOf s t).Sound :=
  Tab.lookD_of_forall h.2 t .blank

theorem TinesSound.setTine {s : State} (h : TinesSound s) (t : Nat) {x : TineSt} (hx : x.Sound) : TinesSound (setTine t x s) :=
  ⟨h.1, fun _ mem => (Tab.mem_put mem).elim (fun same => same ▸ hx) (h.2 _)⟩

theorem TinesSound.of_same {s t : State} (h : TinesSound s) (sram : t.tin.sram = s.tin.sram) (tines : t.tin.tines = s.tin.tines) :
    TinesSound t := by
  rwa [TinesSound, sram, tines]

/-- What leaves the tines leaves them sound. -/
theorem TinesSound.of_keeps {s t : State} (h : TinesSound s) (k : Keeps besideTines s t) : TinesSound t := by
  obtain ⟨tines, sram, -⟩ : _ ∧ _ ∧ _ := k.same .tines (by decide)
  exact h.of_same sram tines

theorem TinesSound.setScratch {s : State} (h : TinesSound s) (r : ImgRec) (m : Memory) : TinesSound (setScratch r m s) :=
  ⟨List.foldlRecOn (motive := fun m => Memory.wf m = true) _ _ (Memory.wfFrom_filter _ h.1) fun _ wf _ _ => Memory.wf_write _ _ _ wf,
   h.2⟩

theorem TinesSound.foldl {α : Type} {f : State → α → State} {s : State} (h : TinesSound s)
    (each : ∀ s a, TinesSound s → TinesSound (f s a)) (l : List α) : TinesSound (l.foldl f s) :=
  List.foldlRecOn l f h fun s sound a _ => each s a sound

/-! ### Loading, dispatch and the end of a job -/

theorem TinesSound.tineReload {s : State} (h : TinesSound s) (t : Nat) : TinesSound (tineReload t s) := h.setTine t (h.tineOf t)

theorem TinesSound.tinLoad {s : State} (h : TinesSound s) : TinesSound (tinLoad s) := by
  unfold Machine.tinLoad
  extract_lets code
  have loaded : TinesSound { s with tin := { s.tin with code := code } } := h.of_same rfl rfl
  exact loaded.foldl (fun _ t sound => sound.tineReload t) _

theorem TinesSound.freeTine {s : State} (h : TinesSound s) (t : Nat) (done : Bool) : TinesSound (freeTine t done s) := by
  refine h.setTine t ?_
  obtain ⟨mem, d, acc, a, b, l, m, -⟩ := h.tineOf t
  exact ⟨mem, d, acc, a, b, l, m, rfl⟩

theorem TinesSound.endJob {s : State} (h : TinesSound s) (t status : Nat) : TinesSound (endJob t status s) := by
  unfold Machine.endJob
  extract_lets x ok
  split
  · extract_lets s1 _ s2
    have sound2 : TinesSound s2 := by
      refine .of_keeps (s := s1) (h.of_keeps (setJob_keeps _ _ _ (by decide) .rfl')) ?_
      dsimp only [s2]
      split
      · exact setSlot_keeps _ _ (by decide) .rfl'
      · exact .rfl'
    exact ((sound2.freeTine t ok).of_keeps (releaseEnded_keeps _ _ (by decide) .rfl')).of_keeps (admitHeld_keeps _ (by decide) .rfl')
  · exact h.freeTine t false

theorem wf_jobMemory (s : State) (k : Nat) (r : ImgRec) (j : Job) (store : List Byte) : Memory.wf (jobMemory s k r j store) = true := by
  have blank := Memory.wf_writeList _ 8 (leBytes 8 (j.first % 2 ^ 24 + 2 ^ 24 * (j.frames % 65536) + 2 ^ 40 * k))
    (Memory.wf_writeList [] 0 (leBytes 8 j.tag.toNat) Memory.wf_nil)
  refine Memory.wf_writeList _ _ _ (Memory.wf_writeList _ _ _ ?_)
  exact List.foldlRecOn (motive := fun m => Memory.wf m = true) _ _ blank fun _ wf _ _ =>
    Memory.wf_writeList _ _ _ (Memory.wf_writeList _ _ _ wf)

theorem TinesSound.slotReset {s : State} (h : TinesSound s) (k : Nat) (r : ImgRec) (first : Nat) : TinesSound (slotReset k r first s) := by
  unfold Machine.slotReset
  extract_lets x
  split
  · exact (h.setScratch r []).of_keeps (setSlot_keeps _ _ (by decide) .rfl')
  · exact h

theorem TinesSound.startJob {s : State} (h : TinesSound s) (t k i : Nat) (r : ImgRec) (j : Job) : TinesSound (startJob t k i r j s) := by
  unfold Machine.startJob
  extract_lets s1 store old s2
  have sound2 : TinesSound s2 :=
    ((h.slotReset k r j.first).of_keeps (setJob_keeps _ _ _ (by decide) .rfl')).setTine t
      ⟨wf_jobMemory .., rfl, rfl, rfl, rfl, rfl, rfl, rfl⟩
  split
  · exact (sound2.of_keeps (raise_keeps _ (by decide) .rfl')).of_keeps (bump_keeps _ _ (by decide) .rfl')
  · exact sound2

theorem TinesSound.onTineJobDispatch {s : State} (h : TinesSound s) (tine : Fin 16) : TinesSound (onTineJobDispatch tine s) := by
  unfold Machine.onTineJobDispatch
  extract_lets s1
  have sound1 : TinesSound s1 := h.foldl (fun _ k sound => sound.of_keeps (endNoTine_keeps k (by decide) .rfl')) _
  clear_value s1
  split
  · exact sound1
  · split
    · exact sound1
    · split
      · exact sound1.startJob ..
      · exact sound1

theorem TinesSound.onTinEcc {s : State} (h : TinesSound s) (tine : Fin 16) (mem : TineMem) (uncorr : Bool) (t : Tick) :
    TinesSound (onTinEcc tine mem uncorr t s) := by
  unfold Machine.onTinEcc
  extract_lets s1 s2 x
  have sound1 : TinesSound s1 := h.of_keeps (advance_keeps _ (by decide) .rfl')
  have sound2 : TinesSound s2 := by
    dsimp only [s2]
    split
    · exact sound1.tineReload tine
    · exact sound1
  clear_value s2 s1
  split
  · exact sound1.of_keeps (stick_keeps _ _ (by decide) (fault_keeps _ _ _ _ _ (by decide) .rfl'))
  · exact (sound2.setTine tine (x := { x with eccCorr := min (x.eccCorr + 1) 3 }) (sound2.tineOf tine)).of_keeps (bump_keeps _ _ (by decide) (fault_keeps _ _ _ _ _ (by decide) .rfl'))

/-! ### The instructions -/

theorem TinesSound.tineTake {s : State} (h : TinesSound s) (t : Nat) {p : TineSt × TineNext} (hp : p.1.Sound) :
    TinesSound (tineTake t p s) := by
  unfold Machine.tineTake
  split
  · exact h.setTine t hp
  · exact h.setTine t hp
  · exact (h.setTine t hp).endJob ..

/-- An instruction keeps the tines sound when what it does to its tine does. -/
theorem TinesSound.tineInstr {s : State} (h : TinesSound s) (i : Instr) (hd : TineHd) {f : TineSt → TineSt × TineNext}
    (hf : ∀ x : TineSt, x.Sound → (f x).1.Sound) : TinesSound (tineInstr i hd f s) := by
  unfold Machine.tineInstr
  extract_lets x y
  have hy : y.Sound := h.tineOf hd.tine
  split
  · exact h
  · refine h.tineTake hd.tine ?_
    split
    · exact hf y hy
    · exact hy

theorem TinesSound.dmaFinish {s : State} (h : TinesSound s) (t c : Nat) : TinesSound (dmaFinish t c s) := by
  unfold Machine.dmaFinish
  extract_lets x
  have hx : x.Sound := h.tineOf t
  split
  · exact h
  next d _ =>
    have hy : TineSt.Sound { x with dma := x.dma.set c none } := hx.setDma (List.length_set ..)
    split
    · exact TinesSound.setTine (h.of_same rfl rfl) t (hy.setMem (Memory.wf_writeList _ _ _ hx.mem_wf))
    · have stored : TinesSound { s with tin := { s.tin with
          sram := Memory.writeList s.tin.sram d.remote (Memory.readList x.mem d.loc (8 * d.len)) } } :=
        ⟨Memory.wf_writeList _ _ _ h.1, h.2⟩
      exact stored.setTine t hy

theorem TinesSound.dmaSettle {s : State} (h : TinesSound s) (t a n : Nat) : TinesSound (dmaSettle t a n s) := by
  refine h.foldl (fun s c sound => ?_) _
  repeat' split
  · exact sound.dmaFinish t c
  · exact sound
  · exact sound

theorem TinesSound.parSettle {s : State} (h : TinesSound s) (t : Nat) (ld1 ld2 : Option ParLoad) :
    TinesSound (parSettle t ld1 ld2 s) := by
  unfold Machine.parSettle
  extract_lets s1
  have sound1 : TinesSound s1 := by
    dsimp only [s1]
    split
    · exact h.dmaSettle ..
    · exact h
  split
  · exact sound1.dmaSettle ..
  · exact sound1

theorem TinesSound.tineWaits {s : State} (h : TinesSound s) (i : Instr) (hd : TineHd) {f : State → State} (hf : TinesSound (f s)) :
    TinesSound (tineWaits i hd f s) := by
  unfold Machine.tineWaits
  split
  · exact hf
  · exact h

theorem TinesSound.onTineAlu {s : State} (h : TinesSound s) (hd : TineHd) (op : AluOp) (dst src1 src2 : Fin 16)
    (pair useImm : Bool) (imm : BitVec 16) : TinesSound (onTineAlu hd op dst src1 src2 pair useImm imm s) := by
  refine h.tineInstr _ hd fun x hx => ?_
  dsimp only
  split
  · exact hx
  · exact TineSt.Sound.dPut (x := TineSt.flags ..) hx ..

theorem TinesSound.onTineMac {s : State} (h : TinesSound s) (hd : TineHd) (op : MacOp) (accA accB : Fin 4) (a1 a2 b1 b2 : Fin 16)
    (frac dual : Bool) (ld1 ld2 : Option ParLoad) : TinesSound (onTineMac hd op accA accB a1 a2 b1 b2 frac dual ld1 ld2 s) := by
  refine (h.tineWaits _ hd (h.parSettle ..)).tineInstr _ hd fun x hx => ?_
  extract_lets pa pb y w w'
  have hy : y.Sound := hx.accPut ..
  have hw : w.Sound := by
    dsimp only [w]
    split
    · exact hy.accPut ..
    · exact hy
  have hw' : w'.Sound := by
    dsimp only [w']
    split
    · exact hw
    · exact hw
  exact .parLoad (.parLoad hw' _) _

theorem TinesSound.onTineAcc {s : State} (h : TinesSound s) (hd : TineHd) (op : AccOp) (acc acc2 : Fin 4) (d : Fin 16)
    (pair round : Bool) (shift : BitVec 6) : TinesSound (onTineAcc hd op acc acc2 d pair round shift s) := by
  refine h.tineInstr _ hd fun x hx => ?_
  cases op
  case movd => exact (hx.setOvf _).dPut ..
  all_goals exact hx.accPut ..

theorem TinesSound.onTineLdst {s : State} (h : TinesSound s) (hd : TineHd) (store wide : Bool) (d : Fin 16) (areg : Fin 8)
    (mode : UpdMode) (imm : BitVec 16) : TinesSound (onTineLdst hd store wide d areg mode imm s) :=
  (h.tineWaits _ hd (h.dmaSettle ..)).tineInstr _ hd fun _ hx => hx.access ..

theorem TinesSound.onTineAddr {s : State} (h : TinesSound s) (hd : TineHd) (op : AddrOp) (a : Fin 8) (tgt : AddrTgt)
    (d : Fin 16) (imm : BitVec 16) : TinesSound (onTineAddr hd op a tgt d imm s) := by
  refine h.tineInstr _ hd fun x hx => ?_
  cases op
  case movad => exact hx.dPut ..
  all_goals exact hx.agPut ..

theorem TinesSound.onTineSpec {s : State} (h : TinesSound s) (hd : TineHd) (op : SpecOp) (dst src : Fin 16) (pair : Bool) :
    TinesSound (onTineSpec hd op dst src pair s) := by
  refine h.tineInstr _ hd fun x hx => ?_
  cases op
  case div => exact (hx.setOvf _).dPut ..
  all_goals exact hx.dPut ..

theorem TinesSound.onTineBr {s : State} (h : TinesSound s) (hd : TineHd) (target : BitVec 12) : TinesSound (onTineBr hd target s) :=
  h.tineInstr _ hd fun _ hx => hx

theorem TinesSound.onTineCall {s : State} (h : TinesSound s) (hd : TineHd) (target : BitVec 12) :
    TinesSound (onTineCall hd target s) :=
  h.tineInstr _ hd fun _ hx => .ite hx hx

theorem TinesSound.onTineRet {s : State} (h : TinesSound s) (hd : TineHd) : TinesSound (onTineRet hd s) := by
  refine h.tineInstr _ hd fun x hx => ?_
  split
  · exact hx
  · exact hx

theorem TinesSound.onTineRep {s : State} (h : TinesSound s) (hd : TineHd) (fromD : Option (Fin 16)) (endIdx : BitVec 12)
    (count : BitVec 16) : TinesSound (onTineRep hd fromD endIdx count s) :=
  h.tineInstr _ hd fun _ hx => .ite hx (.ite hx hx)

theorem TinesSound.onTineNop {s : State} (h : TinesSound s) (hd : TineHd) : TinesSound (onTineNop hd s) :=
  h.tineInstr _ hd fun _ hx => hx

theorem TinesSound.onTineEnd {s : State} (h : TinesSound s) (hd : TineHd) : TinesSound (onTineEnd hd s) :=
  (h.tineWaits _ hd ((h.dmaFinish ..).dmaFinish ..)).tineInstr _ hd fun _ hx => hx

theorem TinesSound.onTineDmaStart {s : State} (h : TinesSound s) (hd : TineHd) (chan : Fin 2) (toData : Bool) (areg remote : Fin 8)
    (len : BitVec 14) : TinesSound (onTineDmaStart hd chan toData areg remote len s) :=
  (h.tineWaits _ hd (h.dmaFinish ..)).tineInstr _ hd fun _ hx => .ite hx (.ite (hx.setDma (List.length_set ..)) hx)

theorem TinesSound.onTineDmaWait {s : State} (h : TinesSound s) (hd : TineHd) (chan : Fin 2) : TinesSound (onTineDmaWait hd chan s) :=
  (h.tineWaits _ hd (h.dmaFinish ..)).tineInstr _ hd fun _ hx => hx

theorem TinesSound.onTineEmit {s : State} (h : TinesSound s) (hd : TineHd) (areg : Fin 8) (fromD : Option (Fin 16))
    (count : BitVec 13) : TinesSound (onTineEmit hd areg fromD count s) :=
  (h.tineWaits _ hd (h.dmaSettle ..)).tineInstr _ hd fun _ hx => .ite hx hx

theorem TinesSound.onTinStepLimit {s : State} (h : TinesSound s) (tine : Fin 16) : TinesSound (onTinStepLimit tine s) := by
  unfold Machine.onTinStepLimit
  extract_lets x
  split
  · exact h.endJob ..
  · exact h

/-! ### Fences, grafts and boundaries -/

theorem TinesSound.tineFenced {s : State} (h : TinesSound s) (t : Nat) : TinesSound (tineFenced t s) := by
  unfold Machine.tineFenced
  extract_lets s1 x s2 s3
  have sound1 : TinesSound s1 := h.of_keeps (fault_keeps _ _ _ _ _ (by decide) .rfl')
  have sound2 : TinesSound s2 := by
    dsimp only [s2]
    split
    · exact sound1.of_keeps (setJob_keeps _ _ _ (by decide) .rfl')
    · exact sound1
  have sound3 : TinesSound s3 := by
    dsimp only [s3]
    split
    · split
      · exact sound2
      · exact sound2.setScratch ..
    · exact sound2
  clear_value s3 s2
  split
  · exact sound3.freeTine t false
  · exact sound1

theorem TinesSound.tineGrafted {s : State} (h : TinesSound s) (t : Nat) : TinesSound (tineGrafted t s) :=
  (h.tineReload t).of_keeps (raise_keeps _ (by decide) .rfl')

theorem TinesSound.fenceOp {s : State} (h : TinesSound s) (u : Nat) : TinesSound (fenceOp u s) := by
  unfold Machine.fenceOp
  split
  · exact h.of_keeps (stripFenced_keeps _ (by decide) .rfl')
  split
  · exact h.tineFenced _
  split
  · exact h.of_keeps (raise_keeps _ (by decide) .rfl')
  split
  · exact h.of_keeps (pairAbandon_keeps _ (by decide) .rfl')
  split
  · exact h.of_keeps (laneFenced_keeps _ (by decide) .rfl')
  split
  · exact h
  · exact h.of_keeps (engineFenced_keeps _ (by decide) .rfl')

theorem TinesSound.fenceUnit {s : State} (h : TinesSound s) (u : Nat) : TinesSound (fenceUnit u s) := by
  unfold Machine.fenceUnit
  extract_lets _ s1 s2
  have sound1 : TinesSound s1 := h.of_same rfl rfl
  have sound2 : TinesSound s2 := sound1.fenceOp u
  clear_value s2
  split
  · exact sound2
  · exact sound2.of_keeps (unitItem_keeps _ _ (by decide) .rfl')

theorem TinesSound.reactContained {s : State} (h : TinesSound s) (m : FaultMsg) : TinesSound (reactContained m s) := by
  unfold Machine.reactContained
  split
  · exact h.of_keeps (setContained_keeps _ (by decide) .rfl')
  · split
    · exact (h.of_keeps (setCause_keeps _ _ (by decide) .rfl')).fenceUnit _
    · split
      · exact h.of_keeps (abandonGraft_keeps _ (by decide) (setCause_keeps _ _ (by decide) .rfl'))
      · exact h.of_keeps (setContained_keeps _ (by decide) (setCause_keeps _ _ (by decide) .rfl'))

theorem TinesSound.onFaultMessage {s : State} (h : TinesSound s) (m : FaultMsg) : TinesSound (onFaultMessage m s) := by
  unfold Machine.onFaultMessage
  extract_lets _ s1 s2
  have sound1 : TinesSound s1 := h.of_same rfl rfl
  have sound2 : TinesSound s2 := sound1.of_keeps (logMsg_keeps _ (by decide) (countMsg_keeps _ (by decide) .rfl'))
  clear_value s2
  split
  · exact h
  · split
    · exact sound2
    · exact sound2.reactContained m
    · exact sound2.of_keeps (reactFatal_keeps _ (by decide) .rfl')

theorem TinesSound.graftBlock {s : State} (h : TinesSound s) (u : Nat) : TinesSound (graftBlock u s) := by
  by_cases tine : 0x20 ≤ u ∧ u < 0x30
  · rw [Machine.graftBlock, if_neg (by omega), if_pos tine.2]
    exact h.tineGrafted _
  · unfold Machine.graftBlock
    split
    · exact h.of_same rfl rfl
    · rw [if_neg (by omega)]
      split
      · extract_lets i s1
        have sound1 : TinesSound s1 := by
          dsimp only [s1]
          split
          · exact h
          · exact h.of_keeps (pairAbandon_keeps _ (by decide) .rfl')
        exact sound1.of_same rfl rfl
      · exact h

theorem TinesSound.insertUnits {s : State} (h : TinesSound s) (d : Dom) (start : Bool) : TinesSound (insertUnits d start s) := by
  unfold Machine.insertUnits
  extract_lets s1
  have grafted : TinesSound s1 :=
    (h.of_keeps (insertFences_keeps _ _ (by decide) .rfl')).foldl (fun s c sound =>
      (sound.of_keeps (graftEnter_keeps _ (by decide) (ctlUnit_keeps _ _ (by decide) (takeInt_keeps _ (by decide) .rfl')))).graftBlock _) _
  clear_value s1
  split
  · exact grafted.of_keeps (mtRealloc_keeps (by decide) .rfl')
  · exact grafted

theorem TinesSound.lidarItems {s : State} (h : TinesSound s) (start : Bool) (t : Tick) : TinesSound (lidarItems start t s).1 := by
  unfold Machine.lidarItems
  extract_lets p plan s1 _ s2
  have sound : TinesSound p.1 := h.of_keeps (takePlans_keeps _ _ (by decide) (insertGrant_keeps _ (by decide) .rfl'))
  have sound1 : TinesSound s1 := by
    dsimp only [s1]
    split
    · exact sound
    · exact sound.of_keeps (planTaken_keeps (by decide) .rfl')
  have sound2 : TinesSound s2 := by
    dsimp only [s2]
    split
    · exact sound1.of_same rfl rfl
    · exact sound1
  clear_value s2
  exact (sound2.insertUnits ..).of_keeps
    (pfeTurn_keeps (by decide) (insertFlushes_keeps _ (by decide) (insertCals_keeps _ (by decide) .rfl')))

theorem TinesSound.frameBoundary {s : State} (h : TinesSound s) (p : PendFrame) : TinesSound (frameBoundary p s) := by
  unfold Machine.frameBoundary
  extract_lets s1 s2 _ s3 s4 r
  have sound2 : TinesSound s2 := by
    have sound1 : TinesSound s1 := h.of_keeps (frameEnd_keeps (by decide) (colEnd_keeps _ (by decide) .rfl'))
    dsimp only [s2]
    split
    · exact sound1
    · exact sound1.of_keeps (auxItems_keeps _ (by decide) .rfl')
  have sound3 : TinesSound s3 := sound2.of_same rfl rfl
  have sound4 : TinesSound s4 := by
    dsimp only [s4]
    split
    · exact sound3.of_keeps (planTaken_keeps (by decide) .rfl')
    · exact sound3
  have soundR : TinesSound r.1 := sound4.lidarItems ..
  clear_value r
  split
  · exact soundR
  · refine TinesSound.of_keeps ?_ (frameBegin_keeps _ (by decide) .rfl')
    split
    · exact soundR
    · exact soundR.of_keeps (reschedule_keeps (by decide) .rfl')

theorem TinesSound.onFrameStart {s : State} (h : TinesSound s) (t : Tick) : TinesSound (onFrameStart t s) := by
  unfold Machine.onFrameStart
  extract_lets s1
  have sound1 : TinesSound s1 := h.of_keeps (advance_keeps _ (by decide) .rfl')
  clear_value s1
  split
  · split
    · exact sound1.frameBoundary _
    · exact sound1
  · exact sound1

theorem TinesSound.onColumnBoundary {s : State} (h : TinesSound s) (t : Tick) : TinesSound (onColumnBoundary t s) := by
  unfold Machine.onColumnBoundary
  extract_lets s1 k b s2 s3 s4
  have sound1 : TinesSound s1 := h.of_keeps (advance_keeps _ (by decide) .rfl')
  have sound2 : TinesSound s2 := sound1.of_keeps (colEnd_keeps _ (by decide) .rfl')
  have sound3 : TinesSound s3 := by
    dsimp only [s3]
    split
    · exact sound2
    · exact sound2.of_keeps (frameEnd_keeps (by decide) .rfl')
  have sound4 : TinesSound s4 := sound3.lidarItems ..
  clear_value s4 s3
  split
  · split
    · exact sound4.of_keeps (openColumn_keeps _ _ _ (by decide) .rfl')
    · exact sound4
  · exact sound1

theorem TinesSound.fibreItems {s : State} (h : TinesSound s) : TinesSound (fibreItems s).1 := by
  unfold Machine.fibreItems
  extract_lets s1 p s2
  have sound1 : TinesSound s1 := by
    dsimp only [s1]
    split
    · exact h
    · exact h.of_keeps (dtsEarly_keeps (by decide) .rfl')
  have sound : TinesSound p.1 := sound1.of_keeps (takePlans_keeps _ _ (by decide) (insertGrant_keeps _ (by decide) .rfl'))
  have sound2 : TinesSound s2 := by
    dsimp only [s2]
    split
    · exact sound
    · exact sound.of_keeps (fibPlanTaken_keeps (by decide) .rfl')
  clear_value s2 p
  have applied : TinesSound (applyPairs (Machine.insertUnits .fibre true s2)) :=
    (sound2.insertUnits ..).of_keeps (applyPairs_keeps (by decide) .rfl')
  dsimp only
  exact applied.of_keeps (insertFlushes_keeps _ (by decide) .rfl')

theorem TinesSound.sweepBoundary {s : State} (h : TinesSound s) (b : Tick) (predicted : Bool) :
    TinesSound (sweepBoundary b predicted s) := by
  unfold Machine.sweepBoundary
  extract_lets wanted clipped s1 r
  have sound1 : TinesSound s1 :=
    h.of_keeps (flushSamples_keeps (by decide) (sweepItems_keeps (by decide) (sweepEnd_keeps _ (by decide) .rfl')))
  have soundR : TinesSound r.1 := sound1.fibreItems
  clear_value r
  split
  · exact soundR.of_same rfl rfl
  · exact (soundR.of_keeps (sweepBegin_keeps _ _ _ _ (by decide) .rfl')).of_same rfl rfl

theorem TinesSound.onSweepBoundary {s : State} (h : TinesSound s) (t : Tick) : TinesSound (onSweepBoundary t s) := by
  unfold Machine.onSweepBoundary
  extract_lets s1
  have sound1 : TinesSound s1 := h.of_keeps (advance_keeps _ (by decide) .rfl')
  clear_value s1
  split
  · split
    · exact sound1.sweepBoundary ..
    · exact sound1
  · exact sound1

/-! ### The image and start-up -/

theorem TinesSound.commitImage {s : State} (h : TinesSound s) (slot ms : Nat) (img : List Byte) (recs : List ImgRec) :
    TinesSound (commitImage slot ms img recs s) := by
  unfold Machine.commitImage
  extract_lets s1 _ s2 fb _ _ s3 s4 s5
  have sound1 : TinesSound s1 := by
    have placed : TinesSound { s with cfg := { recs := recs, applied := false } } := h.of_same rfl rfl
    exact (placed.of_keeps (loadRegs_keeps _ (by decide) .rfl')).tinLoad
  have sound2 : TinesSound s2 := by
    dsimp only [s2]
    split
    · exact sound1.of_same rfl rfl
    · exact sound1
  have sound3 : TinesSound s3 := sound2.of_same rfl rfl
  have sound4 : TinesSound s4 := by
    dsimp only [s4]
    split
    · exact sound3.of_keeps (raise_keeps _ (by decide) .rfl')
    · exact sound3
  have sound5 : TinesSound s5 := by
    dsimp only [s5]
    split
    · exact sound4.foldl (fun _ _ sound => sound.of_keeps (biasEnable_keeps _ _ (by decide) .rfl')) _
    · exact sound4
  clear_value s5
  exact sound5.of_keeps (raise_keeps _ (by decide) (firstGrant_keeps (by decide) .rfl'))

theorem TinesSound.onImageStageDone {s : State} (h : TinesSound s) (bytes : List Byte) (eccOk : Bool) (ms : Nat) :
    TinesSound (onImageStageDone bytes eccOk ms s) := by
  unfold Machine.onImageStageDone
  split
  · exact h
  · split
    · exact h
    · extract_lets v
      clear_value v
      split
      · exact h.commitImage ..
      · refine TinesSound.of_keeps ?_ (candidateFails_keeps _ _ (by decide) .rfl')
        split
        · exact h.of_keeps (recordFails_keeps _ _ (by decide) .rfl')
        · exact h

theorem TinesSound.onFirstFrameStart {s : State} (h : TinesSound s) (fibre : Bool) (t : Tick) (ms : Nat) :
    TinesSound (onFirstFrameStart fibre t ms s) := by
  unfold Machine.onFirstFrameStart
  extract_lets s1 s2 _
  have sound1 : TinesSound s1 := h.of_keeps (advance_keeps _ (by decide) .rfl')
  have ended : TinesSound s2 := sound1.of_keeps (startupEnds_keeps _ (by decide) .rfl')
  clear_value s1
  split
  · exact sound1
  · split
    · split
      · split
        · refine TinesSound.sweepBoundary (s := { s2 with esq := _ }) ?_ ..
          exact ended.of_same rfl rfl
        · exact sound1
      · exact sound1
    · split
      · split
        · refine TinesSound.frameBoundary (s := { s2 with esq := _ }) ?_ _
          exact ended.of_same rfl rfl
        · exact sound1
      · exact sound1

theorem TinesSound.recoverDone {s : State} (h : TinesSound s) (o : Origin) (img : List Byte) (t : Tick) :
    TinesSound (recoverDone o img t s) := by
  unfold Machine.recoverDone
  extract_lets v
  split
  · exact (h.commitImage ..).of_keeps (finish_keeps _ _ _ (by decide) .rfl')
  · refine TinesSound.of_keeps ?_ (finish_keeps _ _ _ (by decide) (raise_keeps _ (by decide) (slotFails_keeps _ _ (by decide) .rfl')))
    split
    · exact h.of_keeps (recordFails_keeps _ _ (by decide) .rfl')
    · exact h

theorem TinesSound.jobDone {s : State} (h : TinesSound s) (o : Origin) (job : Background) (data : List Byte) (nvmOk : Bool) (t : Tick) :
    TinesSound (jobDone o job data nvmOk t s) := by
  cases job with
  | imgWrite b n => exact h.of_keeps (imgWriteDone_keeps _ _ _ _ (by decide) .rfl')
  | recoverGo n => exact h.recoverDone ..
  | bootDirWrite d => exact h.of_keeps (dirDone_keeps _ _ _ (by decide) .rfl')
  | cloStage host n =>
    have staged : TinesSound { s with clo := { s.clo with staged := some (if host then data else (blockOffer s).getD []) } } :=
      h.of_same rfl rfl
    exact staged.of_keeps (finish_keeps _ _ _ (by decide) .rfl')
  | cloCommit k p pw => exact h.of_keeps (commitDone_keeps _ _ _ _ _ (by decide) .rfl')
  | keyProgram a k hash => exact h.of_keeps (programDone_keeps _ _ _ _ _ (by decide) .rfl')
  | revoke a k => exact h.of_keeps (revokeDone_keeps _ _ _ _ (by decide) .rfl')

theorem TinesSound.onBackgroundCommandDone {s : State} (h : TinesSound s) (nvmOk dmaOk : Bool) (t : Tick) :
    TinesSound (onBackgroundCommandDone nvmOk dmaOk t s) := by
  unfold Machine.onBackgroundCommandDone
  extract_lets s1
  have sound1 : TinesSound s1 := h.of_keeps (advance_keeps _ (by decide) .rfl')
  clear_value s1
  split
  · exact sound1
  · split
    · exact sound1.of_keeps (dmaFails_keeps _ (by decide) .rfl')
    · split
      · exact sound1
      · have taken : TinesSound { s1 with hif := { s1.hif with background := none, h2cData := [] } } := sound1.of_same rfl rfl
        exact taken.jobDone ..

/-! ### Every command -/

theorem tinesSound_porReset (s : State) : TinesSound (porReset s) := ⟨rfl, nofun⟩

theorem tinesSound_onPorNRelease (x : Straps) (s : State) : TinesSound (onPorNRelease x s) := by
  have blank := tinesSound_porReset s
  by_cases bad : strapFault s x = true
  · obtain ⟨boot, halts⟩ := onPorNRelease_of_strapFault bad
    rw [halts]
    have staged : TinesSound { porReset s with boot := boot } := blank.of_same rfl rfl
    exact staged.of_keeps (bootHalt_keeps (by decide) (fault_keeps _ _ _ _ _ (by decide) .rfl'))
  · obtain ⟨boot, waits⟩ := onPorNRelease_of_goodStraps bad
    rw [waits]
    exact blank.of_same rfl rfl

/-- A command whose row does not name the tines leaves them sound. -/
theorem TinesSound.of_row {c : Instr} {s t : State} (h : TinesSound s) (ends : exec c s = .next t) (away : Part.tines ∉ mayChange c) :
    TinesSound t := by
  obtain ⟨tines, sram, -⟩ : _ ∧ _ ∧ _ := frame_mayChange s c t ends .tines away
  exact h.of_same sram tines

theorem TinesSound.exec {c : Instr} {s t : State} (h : TinesSound s) (ends : exec c s = .next t) : TinesSound t := by
  have of_meaning {u : State} (sound : TinesSound u) (runs : Machine.exec c s = .next u) : TinesSound t :=
    Host.Outcome.next.inj (runs.symm.trans ends) ▸ sound
  cases c
  case porNAssert => exact of_meaning (tinesSound_porReset s) rfl
  case porNRelease x => exact of_meaning (tinesSound_onPorNRelease x s) rfl
  case imageStageDone bytes eccOk ms => exact of_meaning (h.onImageStageDone bytes eccOk ms) rfl
  case firstFrameStart fibre t0 ms => exact of_meaning (h.onFirstFrameStart fibre t0 ms) rfl
  case columnBoundary t0 => exact of_meaning (h.onColumnBoundary t0) rfl
  case frameStart t0 => exact of_meaning (h.onFrameStart t0) rfl
  case sweepBoundary t0 => exact of_meaning (h.onSweepBoundary t0) rfl
  case tineJobDispatch tine => exact of_meaning (h.onTineJobDispatch tine) rfl
  case tineAlu => exact of_meaning (h.onTineAlu ..) rfl
  case tineMac => exact of_meaning (h.onTineMac ..) rfl
  case tineAcc => exact of_meaning (h.onTineAcc ..) rfl
  case tineLdst => exact of_meaning (h.onTineLdst ..) rfl
  case tineAddr => exact of_meaning (h.onTineAddr ..) rfl
  case tineBr hd target => exact of_meaning (h.onTineBr hd target) rfl
  case tineCall hd target => exact of_meaning (h.onTineCall hd target) rfl
  case tineRet hd => exact of_meaning (h.onTineRet hd) rfl
  case tineRep => exact of_meaning (h.onTineRep ..) rfl
  case tineNop hd => exact of_meaning (h.onTineNop hd) rfl
  case tineEnd hd => exact of_meaning (h.onTineEnd hd) rfl
  case tineSpec => exact of_meaning (h.onTineSpec ..) rfl
  case tineDmaStart => exact of_meaning (h.onTineDmaStart ..) rfl
  case tineDmaWait hd chan => exact of_meaning (h.onTineDmaWait hd chan) rfl
  case tineEmit => exact of_meaning (h.onTineEmit ..) rfl
  case tinStepLimit tine => exact of_meaning (h.onTinStepLimit tine) rfl
  case tineDmaDone tine chan => exact of_meaning (h.dmaFinish tine chan) rfl
  case tinEcc tine mem uncorr t0 => exact of_meaning (h.onTinEcc tine mem uncorr t0) rfl
  case backgroundCommandDone nvmOk dmaOk t0 => exact of_meaning (h.onBackgroundCommandDone nvmOk dmaOk t0) rfl
  case faultMessage m => exact of_meaning (h.onFaultMessage m) rfl
  all_goals exact h.of_row ends (of_decide_eq_true rfl)

theorem TinesSound.step {s t : State} (h : TinesSound s) (ends : step s = .next t) : TinesSound t := by
  unfold Machine.step at ends
  split at ends
  · exact Host.Outcome.next.inj ends ▸ h.of_keeps (State.idle_keeps (by decide) .rfl')
  next c rest front =>
    have waits : TinesSound { s with pending := rest } := h.of_same rfl rfl
    exact waits.exec ends

/-- Settles O7: every operation on a tine or on the SRAM region writes through `Memory.write` and sets registers in place. -/
theorem tineMemoriesStayCanonical : Obligations.TineMemoriesStayCanonical := by
  intro s t canonical whole ends
  exact (tinesSound_iff t).mp (((tinesSound_iff s).mpr ⟨canonical, whole⟩).step ends)

end Sys2Proof.Machine
end

section
/-! PROOFS. The tine instructions (R244 to R256): what each leaves alone and what it writes. The rules about a tine's
registers come first, then how an instruction goes into force, then the statements. -/

namespace Sys2Proof.Machine

/-- A command completes with what its meaning answers. -/
theorem completes {c : Instr} {s u : State} {P : State → Prop} (runs : exec c s = .next u) (holds : P u) : Completes c s P :=
  ⟨u, runs, holds⟩

/-! ### Registers (R244) -/

theorem dPut_getD_ne {q i : Nat} {pair : Bool} (v : Nat) (x : TineSt)
    (away : if pair then q / 2 ≠ i / 2 else q ≠ i) : (dPut i pair v x).d.getD q 0 = x.d.getD q 0 := by
  cases pair
  · have away : i ≠ q := Ne.symm away
    simp [dPut, List.getElem?_set_ne away]
  · have away : q / 2 ≠ i / 2 := away
    have low : i - i % 2 ≠ q := by omega
    have high : i - i % 2 + 1 ≠ q := by omega
    simp [dPut, List.getElem?_set_ne low, List.getElem?_set_ne high]

theorem dGet_dPut {i : Nat} (pair : Bool) (v : Nat) {x : TineSt} (whole : x.d.length = 16) (inside : i < 16) :
    dGet (dPut i pair v x) i pair = v % 2 ^ dWidth pair := by
  cases pair
  · simp [dPut, dGet, dWidth, whole, inside]
  · have low : i - i % 2 < 16 := by omega
    have high : i - i % 2 + 1 < 16 := by omega
    simp [dPut, dGet, dWidth, whole, low, high]
    omega

theorem uval_lt (n : Nat) (v : Int) : uval n v < 2 ^ n := by
  have below := Int.emod_lt_of_pos v (show (0 : Int) < 2 ^ n by positivity)
  have above := Int.emod_nonneg v (show (2 ^ n : Int) ≠ 0 by positivity)
  have cast : ((2 ^ n : Nat) : Int) = 2 ^ n := by norm_cast
  rw [uval]
  omega

theorem accPut_getD_same {i : Nat} (sat : Bool) (v : Int) {x : TineSt} (inside : i < x.acc.length) :
    ((accPut i sat v x).acc.getD i 0).toNat = (placeIn 40 sat v).1 := by
  have small : (placeIn 40 sat v).1 < 2 ^ 40 := uval_lt 40 _
  simp only [accPut, TineSt.flags, List.getD_eq_getElem?_getD, List.getElem?_set_self inside, Option.getD_some, BitVec.toNat_ofNat]
  exact Nat.mod_eq_of_lt small

theorem accPut_getD_ne {q i : Nat} (sat : Bool) (v : Int) (x : TineSt) (away : q ≠ i) :
    (accPut i sat v x).acc.getD q 0 = x.acc.getD q 0 := by
  simp [accPut, TineSt.flags, List.getElem?_set_ne away.symm]

theorem aPut_getD_ne {q i : Nat} (v : Nat) (x : TineSt) (away : q ≠ i) : (aPut i v x).a.getD q 0 = x.a.getD q 0 := by
  simp [aPut, List.getElem?_set_ne away.symm]

theorem isqrtFrom_sq_le {n : Nat} (k : Nat) {r : Nat} (h : r * r ≤ n) : isqrtFrom k r n * isqrtFrom k r n ≤ n := by
  induction k generalizing r with
  | zero => exact h
  | succ k ih =>
    rw [isqrtFrom]
    split
    next fits => exact ih fits
    · exact ih h

/-- The root of a number of 32 bits has 16. -/
theorem isqrt_lt {n : Nat} (small : n < 2 ^ 32) : isqrt n < 2 ^ 16 := by
  have square : isqrt n * isqrt n ≤ n := isqrtFrom_sq_le _ (Nat.zero_le n)
  by_contra large
  have := Nat.mul_le_mul (Nat.not_lt.mp large) (Nat.not_lt.mp large)
  omega

theorem dGet_lt (x : TineSt) (i : Nat) (pair : Bool) : dGet x i pair < 2 ^ 32 := by
  have bound (k : Nat) : (x.d.getD k 0).toNat < 2 ^ 16 := (x.d.getD k 0).isLt
  unfold dGet
  split
  · have low := bound (i - i % 2)
    have high := bound (i - i % 2 + 1)
    omega
  · have := bound i
    omega

theorem leVal_lt (l : List Byte) : leVal l < 256 ^ l.length := by
  induction l with
  | nil => exact Nat.one_pos
  | cons b r ih =>
    rw [leVal, List.length_cons, Nat.pow_succ]
    have := b.isLt
    omega

theorem dmRead_lt (m : Memory) (a n : Nat) : dmRead m a n < 256 ^ n := by
  have := leVal_lt ((List.range n).map fun i => Memory.read m ((a + i) % 65536))
  rwa [List.length_map, List.length_range] at this

/-- A store leaves every byte it does not write. -/
theorem read_dmWrite {m : Memory} {a n v q : Nat} (away : ∀ i < n, q ≠ (a + i) % 65536) :
    Memory.read (dmWrite m a n v) q = Memory.read m q :=
  List.foldlRecOn (motive := fun k => Memory.read k q = Memory.read m q) _ _ rfl fun _ same i mem =>
    (Memory.read_write_ne _ _ (away i (List.mem_range.mp mem))).trans same

/-- A list of bytes leaves every byte outside its span. -/
theorem read_writeList {m : Memory} {a q : Nat} {l : List Byte} (away : q < a ∨ a + l.length ≤ q) :
    Memory.read (Memory.writeList m a l) q = Memory.read m q := by
  induction l generalizing m a with
  | nil => rfl
  | cons b r ih =>
    rw [List.length_cons] at away
    rw [Memory.writeList, ih (by omega), Memory.read_write_ne _ _ (by omega)]

/-! ### What a command leaves of the other tines -/

/-- From `s` to `u` the tine SRAM region is the same, and every tine but `t`. -/
structure OnlyTine (t : Nat) (s u : State) : Prop where
  sram : u.tin.sram = s.tin.sram
  others : ∀ k, k ≠ t → tineOf u k = tineOf s k

theorem OnlyTine.refl (t : Nat) (s : State) : OnlyTine t s s := ⟨rfl, fun _ _ => rfl⟩

theorem onlyTine_setTine (t : Nat) (x : TineSt) (s : State) : OnlyTine t s (setTine t x s) :=
  ⟨rfl, fun _ away => tineOf_setTine_ne _ _ away⟩

/-- The end of a job frees its tine and touches no other. -/
theorem endJob_tines (t status : Nat) (s : State) : ∃ n, (endJob t status s).tin.sram = s.tin.sram ∧
    (endJob t status s).tin.tines = Tab.put s.tin.tines t { tineOf s t with busy := false, dma := [none, none], jobs := n } := by
  unfold endJob
  extract_lets x ok
  split
  · extract_lets s1 _ s2
    have kept1 : Keeps besideTines s s1 := setJob_keeps _ _ _ (by decide) .rfl'
    have kept2 : Keeps besideTines s s2 := by
      dsimp only [s2]
      split
      · exact setSlot_keeps _ _ (by decide) kept1
      · exact kept1
    obtain ⟨tines2, sram2, -⟩ : _ ∧ _ ∧ _ := kept2.same .tines (by decide)
    clear_value s2
    have kept := admitHeld_keeps x.slot (w := besideTines) (s := releaseEnded 16 x.slot (freeTine t ok s2)) (by decide)
      (releaseEnded_keeps 16 x.slot (by decide) .rfl')
    obtain ⟨tines, sram, -⟩ : _ ∧ _ ∧ _ := kept.same .tines (by decide)
    have same : tineOf s2 t = tineOf s t := by rw [tineOf, tines2, tineOf]
    refine ⟨if ok then min (x.jobs + 1) (2 ^ 24 - 1) else x.jobs, sram.trans sram2, tines.trans ?_⟩
    rw [freeTine, same]
    exact congrArg (Tab.put · t _) tines2
  · exact ⟨_, rfl, rfl⟩

theorem onlyTine_endJob (t status : Nat) (s : State) : OnlyTine t s (endJob t status s) := by
  obtain ⟨n, sram, tines⟩ := endJob_tines t status s
  exact ⟨sram, fun k away => by rw [tineOf, tines, Tab.lookD_put_ne _ _ _ away, tineOf]⟩

theorem tineOf_endJob (t status : Nat) (s : State) : ∃ n,
    tineOf (endJob t status s) t = { tineOf s t with busy := false, dma := [none, none], jobs := n } := by
  obtain ⟨n, -, tines⟩ := endJob_tines t status s
  exact ⟨n, by rw [tineOf, tines, Tab.lookD_put_same]⟩

theorem onlyTine_tineTake (t : Nat) (p : TineSt × TineNext) (s : State) : OnlyTine t s (tineTake t p s) := by
  unfold tineTake
  split
  · exact onlyTine_setTine ..
  · exact onlyTine_setTine ..
  next status _ =>
    obtain ⟨sram, others⟩ := onlyTine_endJob t status (setTine t p.1 s)
    exact ⟨sram, fun k away => (others k away).trans (tineOf_setTine_ne _ _ away)⟩

theorem onlyTine_tineInstr (i : Instr) (hd : TineHd) (f : TineSt → TineSt × TineNext) (s : State) :
    OnlyTine hd.tine s (tineInstr i hd f s) := by
  unfold tineInstr
  extract_lets x y
  split
  · exact .refl ..
  · exact onlyTine_tineTake ..

/-! ### What an instruction leaves of its tine -/

/-- A tine without its index, its repeats and its count of steps, and without what the end of a job frees. -/
def TineSt.content (x : TineSt) : TineSt := { x with pc := 0, reps := [], steps := 0, busy := false, dma := [], jobs := 0 }

/-- The tine that executes an instruction, with the step counted (R255). -/
def stepped (s : State) (t : Nat) : TineSt := { tineOf s t with steps := (tineOf s t).steps + 1 }

theorem content_tineTake (t : Nat) (p : TineSt × TineNext) (s : State) : (tineOf (tineTake t p s) t).content = p.1.content := by
  unfold tineTake
  split
  · rw [tineOf_setTine]
    rfl
  · rw [tineOf_setTine]
    rfl
  next status _ =>
    obtain ⟨n, freed⟩ := tineOf_endJob t status (setTine t p.1 s)
    rw [freed, tineOf_setTine]
    rfl

/-- What holds of the content of a tine that stays as it is, and after the instruction's own work, holds after it. -/
theorem content_tineInstr {P : TineSt → Prop} (i : Instr) (hd : TineHd) {f : TineSt → TineSt × TineNext} {s : State}
    (stays : P (tineOf s hd.tine).content) (runs : P (f (stepped s hd.tine)).1.content) :
    P (tineOf (tineInstr i hd f s) hd.tine).content := by
  unfold tineInstr
  extract_lets x y
  split
  · exact stays
  · rw [content_tineTake]
    split
    · exact runs
    · exact stays

/-! ### Waiting for transfers (R251, R256) -/

theorem tineWaits_same {i : Instr} {hd : TineHd} {f : State → State} {s : State} (same : f s = s) : tineWaits i hd f s = s := by
  rw [tineWaits, same, ite_self]

theorem dmaFinish_idle {t c : Nat} {s : State} (idle : (tineOf s t).dma.getD c none = none) : dmaFinish t c s = s := by
  simp only [dmaFinish, idle]

theorem idle_getD (c : Nat) : [none, none].getD c (none : Option Dma) = none := by
  match c with
  | 0 => rfl
  | 1 => rfl
  | _ + 2 => rfl

theorem dmaSettle_idle {t a n : Nat} {s : State} (idle : (tineOf s t).dma = [none, none]) : dmaSettle t a n s = s :=
  List.foldlRecOn (motive := fun u => u = s) _ _ rfl fun _ same c _ => by rw [same, idle, idle_getD]

theorem parSettle_idle {t : Nat} {l m : Option ParLoad} {s : State} (idle : (tineOf s t).dma = [none, none]) :
    parSettle t l m s = s := by
  unfold parSettle
  extract_lets s1
  have same : s1 = s := by
    dsimp only [s1]
    split
    · exact dmaSettle_idle idle
    · rfl
  rw [same]
  split
  · exact dmaSettle_idle idle
  · rfl

/-! ### The statement on what instructions leave alone -/

theorem eq_of_exec {c : Instr} {s u t : State} (runs : exec c s = .next u) (ends : exec c s = .next t) : t = u :=
  Host.Outcome.next.inj (ends.symm.trans runs)

/-- An access ends its job and changes nothing, or it stores bytes or loads a register and moves its pointer. -/
theorem tineAccess_cases {P : TineSt → Prop} {store wide : Bool} {d areg : Nat} {mode : UpdMode} {imm : BitVec 16} {x : TineSt}
    (same : P x)
    (stores : ∀ p m, store = true → aguUpdate x areg mode imm = some p →
      m = dmWrite x.mem (aguAddress x areg) (if wide then 4 else 2) (dGet x d wide) → P (aPut areg p { x with mem := m }))
    (loads : ∀ p v, store = false → aguUpdate x areg mode imm = some p → P (aPut areg p (dPut d wide v x))) :
    P (tineAccess store wide d areg mode imm x).1 := by
  unfold tineAccess
  extract_lets n at_
  split
  · exact same
  next p moved =>
    split
    · exact same
    · cases store
      · exact loads p _ rfl moved
      · exact stores p _ rfl moved rfl

/-- An instruction that stores nothing leaves its data memory, and every instruction the other tines and the SRAM region. -/
theorem tineInstr_unstored {i : Instr} {hd : TineHd} {f : TineSt → TineSt × TineNext} {s t : State} (runs : t = tineInstr i hd f s)
    (unstored : ∀ x, (f x).1.mem = x.mem) :
    (tineOf t hd.tine).mem = (tineOf s hd.tine).mem ∧ t.tin.sram = s.tin.sram ∧ ∀ k, k ≠ hd.tine.val → tineOf t k = tineOf s k := by
  subst runs
  obtain ⟨sram, others⟩ := onlyTine_tineInstr i hd f s
  exact ⟨content_tineInstr (P := fun x => x.mem = (tineOf s hd.tine).mem) i hd rfl (unstored _), sram, others⟩

theorem dPut_mem (i : Nat) (pair : Bool) (v : Nat) (x : TineSt) : (dPut i pair v x).mem = x.mem := by
  cases pair <;> rfl

theorem agPut_mem (tgt : AddrTgt) (i : Nat) (v : BitVec 16) (x : TineSt) : (agPut tgt i v x).mem = x.mem := by
  cases tgt <;> rfl

theorem load_mem (wide : Bool) (d areg : Nat) (mode : UpdMode) (imm : BitVec 16) (x : TineSt) :
    (tineAccess false wide d areg mode imm x).1.mem = x.mem :=
  tineAccess_cases (P := fun y => y.mem = x.mem) rfl (fun _ _ no => nomatch no) fun _ _ _ _ => dPut_mem ..

theorem parLoad_mem (l : Option ParLoad) (p : TineSt × TineNext) : (parLoad l p).1.mem = p.1.mem := by
  unfold parLoad
  split
  · exact load_mem ..
  · rfl

theorem ite_mem {c : Prop} [Decidable c] {m : Memory} {p q : TineSt × TineNext} (hp : p.1.mem = m) (hq : q.1.mem = m) :
    (if c then p else q).1.mem = m := by
  split
  · exact hp
  · exact hq

/-- A store changes the bytes it stores alone. -/
theorem tineStore_leaves (s t : State) (hd : TineHd) (wide : Bool) (d : Fin 16) (areg : Fin 8) (mode : UpdMode) (imm : BitVec 16)
    (idle : (tineOf s hd.tine).dma = [none, none]) (ends : exec (.tineLdst hd true wide d areg mode imm) s = .next t) :
    (∀ a, (∀ i < (if wide then 4 else 2), a ≠ (aguAddress (tineOf s hd.tine) areg + i) % 65536) →
      Memory.read (tineOf t hd.tine).mem a = Memory.read (tineOf s hd.tine).mem a) ∧
    t.tin.sram = s.tin.sram ∧ ∀ k, k ≠ hd.tine.val → tineOf t k = tineOf s k := by
  rw [eq_of_exec (u := onTineLdst hd true wide d areg mode imm s) rfl ends, onTineLdst, tineWaits_same (dmaSettle_idle idle)]
  obtain ⟨sram, others⟩ := onlyTine_tineInstr (.tineLdst hd true wide d areg mode imm) hd (tineAccess true wide d areg mode imm) s
  refine ⟨fun a away => ?_, sram, others⟩
  exact content_tineInstr (P := fun x => Memory.read x.mem a = Memory.read (tineOf s hd.tine).mem a) _ hd rfl
    (tineAccess_cases (P := fun x => Memory.read x.content.mem a = Memory.read (tineOf s hd.tine).mem a) rfl
      (fun _ _ _ _ stored => stored ▸ read_dmWrite away) fun _ _ no => nomatch no)

/-- With no transfer in flight no instruction but a store changes a byte. -/
theorem tineInstruction_unstored (s t : State) (hd : TineHd) (c : Instr) (idle : (tineOf s hd.tine).dma = [none, none])
    (ends : exec c s = .next t)
    (instruction : (∃ op dst a b p u i, c = .tineAlu hd op dst a b p u i) ∨
      (∃ op x y a b f g r u l m, c = .tineMac hd op x y a b f g r u l m) ∨
      (∃ op x y d p r n, c = .tineAcc hd op x y d p r n) ∨ (∃ w d a m i, c = .tineLdst hd false w d a m i) ∨
      (∃ op x y d i, c = .tineAddr hd op x y d i) ∨ (∃ a, c = .tineBr hd a) ∨ (∃ a, c = .tineCall hd a) ∨ c = .tineRet hd ∨
      (∃ d e n, c = .tineRep hd d e n) ∨ c = .tineNop hd ∨ c = .tineEnd hd ∨ (∃ op d r p, c = .tineSpec hd op d r p) ∨
      (∃ k d a r n, c = .tineDmaStart hd k d a r n) ∨ (∃ k, c = .tineDmaWait hd k) ∨ (∃ a d n, c = .tineEmit hd a d n)) :
    (tineOf t hd.tine).mem = (tineOf s hd.tine).mem ∧ t.tin.sram = s.tin.sram ∧ ∀ k, k ≠ hd.tine.val → tineOf t k = tineOf s k := by
  have idle_at (c : Nat) : dmaFinish hd.tine c s = s := dmaFinish_idle (idle ▸ idle_getD c)
  rcases instruction with ⟨op, dst, a, b, p, u, i, rfl⟩ | ⟨op, x, y, a, b, f, g, r, u, l, m, rfl⟩ | ⟨op, x, y, d, p, r, n, rfl⟩ |
    ⟨w, d, a, m, i, rfl⟩ | ⟨op, x, y, d, i, rfl⟩ | ⟨a, rfl⟩ | ⟨a, rfl⟩ | rfl | ⟨d, e, n, rfl⟩ | rfl | rfl | ⟨op, d, r, p, rfl⟩ |
    ⟨k, d, a, r, n, rfl⟩ | ⟨k, rfl⟩ | ⟨a, d, n, rfl⟩
  · refine tineInstr_unstored (eq_of_exec rfl ends) fun x => ?_
    dsimp only
    split
    · rfl
    · exact dPut_mem ..
  · rw [eq_of_exec (u := onTineMac hd op x y a b f g r u l m s) rfl ends, onTineMac, tineWaits_same (parSettle_idle idle)]
    refine tineInstr_unstored rfl fun x => ?_
    dsimp only
    rw [parLoad_mem, parLoad_mem]
    split <;> cases u <;> rfl
  · refine tineInstr_unstored (eq_of_exec rfl ends) fun x => ?_
    cases op
    case movd => exact dPut_mem ..
    all_goals rfl
  · rw [eq_of_exec (u := onTineLdst hd false w d a m i s) rfl ends, onTineLdst, tineWaits_same (dmaSettle_idle idle)]
    refine tineInstr_unstored rfl fun x => ?_
    exact load_mem ..
  · refine tineInstr_unstored (eq_of_exec rfl ends) fun x => ?_
    cases op
    case movad => exact dPut_mem ..
    all_goals exact agPut_mem ..
  · exact tineInstr_unstored (eq_of_exec rfl ends) fun x => rfl
  · exact tineInstr_unstored (eq_of_exec rfl ends) fun x => ite_mem rfl rfl
  · refine tineInstr_unstored (eq_of_exec rfl ends) fun x => ?_
    split <;> rfl
  · exact tineInstr_unstored (eq_of_exec rfl ends) fun x => ite_mem rfl (ite_mem rfl rfl)
  · exact tineInstr_unstored (eq_of_exec rfl ends) fun x => rfl
  · have both : (fun s => dmaFinish hd.tine 1 (dmaFinish hd.tine 0 s)) s = s := (congrArg _ (idle_at 0)).trans (idle_at 1)
    rw [eq_of_exec (u := onTineEnd hd s) rfl ends, onTineEnd, tineWaits_same both]
    refine tineInstr_unstored rfl fun x => ?_
    exact rfl
  · refine tineInstr_unstored (eq_of_exec rfl ends) fun x => ?_
    cases op <;> exact dPut_mem ..
  · rw [eq_of_exec (u := onTineDmaStart hd k d a r n s) rfl ends, onTineDmaStart, tineWaits_same (idle_at k)]
    refine tineInstr_unstored rfl fun x => ?_
    exact ite_mem rfl (ite_mem rfl rfl)
  · rw [eq_of_exec (u := onTineDmaWait hd k s) rfl ends, onTineDmaWait, tineWaits_same (idle_at k)]
    refine tineInstr_unstored rfl fun x => ?_
    exact rfl
  · rw [eq_of_exec (u := onTineEmit hd a d n s) rfl ends]
    unfold onTineEmit
    dsimp only
    rw [tineWaits_same (dmaSettle_idle idle)]
    refine tineInstr_unstored rfl fun x => ?_
    exact ite_mem rfl rfl

/-- A transfer that ends writes its own span of data memory or of the SRAM region. -/
theorem dmaFinish_leaves {s : State} {t c : Nat} {d : Dma} (runs : (tineOf s t).dma.getD c none = some d) :
    (∀ a, (a < d.loc ∨ d.loc + 8 * d.len ≤ a ∨ d.toData = false) →
      Memory.read (tineOf (dmaFinish t c s) t).mem a = Memory.read (tineOf s t).mem a) ∧
    (∀ a, (a < d.remote ∨ d.remote + 8 * d.len ≤ a ∨ d.toData = true) →
      Memory.read (dmaFinish t c s).tin.sram a = Memory.read s.tin.sram a) ∧
    (tineOf (dmaFinish t c s) t).d = (tineOf s t).d ∧ ∀ k, k ≠ t → tineOf (dmaFinish t c s) k = tineOf s k := by
  simp only [dmaFinish, runs]
  split
  next toData =>
    have size : (dmaBytes s t d).length ≤ 8 * d.len := by
      unfold dmaBytes
      split
      · split
        · simp [Memory.readList]
        · simp
      · simp
    refine ⟨fun a away => ?_, fun a _ => rfl, ?_, fun k away => ?_⟩
    · rw [tineOf_setTine]
      refine read_writeList ?_
      rw [toData] at away
      rcases away with low | high | no
      · exact .inl low
      · exact .inr (by omega)
      · nomatch no
    · rw [tineOf_setTine]
    · exact tineOf_setTine_ne _ _ away
  next toSram =>
    refine ⟨fun a _ => ?_, fun a away => ?_, ?_, fun k away => ?_⟩
    · rw [tineOf_setTine]
    · refine read_writeList ?_
      simp only [Memory.readList, List.length_map, List.length_range]
      rcases away with low | high | no
      · exact .inl low
      · exact .inr high
      · exact absurd no toSram
    · rw [tineOf_setTine]
    · exact tineOf_setTine_ne _ _ away

/-- A finished transfer leaves of its tine all but data memory and channels. -/
theorem dmaFinish_tine (t c : Nat) (s : State) : ∃ m l, tineOf (dmaFinish t c s) t = { tineOf s t with mem := m, dma := l } := by
  unfold dmaFinish
  extract_lets x
  split
  · exact ⟨_, _, rfl⟩
  · split
    · exact ⟨_, _, tineOf_setTine ..⟩
    · exact ⟨_, _, tineOf_setTine ..⟩

theorem dmaSettle_tine (t a n : Nat) (s : State) : ∃ m l, tineOf (dmaSettle t a n s) t = { tineOf s t with mem := m, dma := l } := by
  refine List.foldlRecOn (motive := fun u => ∃ m l, tineOf u t = { tineOf s t with mem := m, dma := l }) _ _ ⟨_, _, rfl⟩ fun u same c _ => ?_
  obtain ⟨m, l, same⟩ := same
  split
  · split
    · obtain ⟨m', l', ended⟩ := dmaFinish_tine t c u
      exact ⟨m', l', by rw [ended, same]⟩
    · exact ⟨m, l, same⟩
  · exact ⟨m, l, same⟩

/-- What an ALU instruction leaves of a tine. -/
def AluLeaves (dst : Fin 16) (pair : Bool) (x y : TineSt) : Prop :=
  y.acc = x.acc ∧ y.a = x.a ∧ y.b = x.b ∧ y.l = x.l ∧ y.m = x.m ∧ y.calls = x.calls ∧ y.out = x.out ∧
    ∀ q, (if pair then q / 2 ≠ dst.val / 2 else q ≠ dst.val) → y.d.getD q 0 = x.d.getD q 0

theorem tineAlu_leaves (s t : State) (hd : TineHd) (op : AluOp) (dst a b : Fin 16) (pair u : Bool) (i : BitVec 16)
    (ends : exec (.tineAlu hd op dst a b pair u i) s = .next t) : AluLeaves dst pair (tineOf s hd.tine) (tineOf t hd.tine) := by
  rw [eq_of_exec (u := onTineAlu hd op dst a b pair u i s) rfl ends]
  refine content_tineInstr (P := AluLeaves dst pair (tineOf s hd.tine)) _ hd
    ⟨rfl, rfl, rfl, rfl, rfl, rfl, rfl, fun _ _ => rfl⟩ ?_
  dsimp only
  split
  · exact ⟨rfl, rfl, rfl, rfl, rfl, rfl, rfl, fun _ _ => rfl⟩
  · refine ⟨?_, ?_, ?_, ?_, ?_, ?_, ?_, fun q away => dPut_getD_ne _ _ away⟩
    all_goals cases pair <;> rfl

/-- What a MAC instruction without loads leaves of a tine. -/
def MacLeaves (i j : Fin 4) (dual : Bool) (x y : TineSt) : Prop :=
  y.d = x.d ∧ y.a = x.a ∧ y.b = x.b ∧ y.l = x.l ∧ y.m = x.m ∧ y.calls = x.calls ∧ y.out = x.out ∧
    ∀ q, q ≠ i.val → (dual = true → q ≠ j.val) → y.acc.getD q 0 = x.acc.getD q 0

theorem tineMac_leaves (s t : State) (hd : TineHd) (op : MacOp) (i j : Fin 4) (a b f g : Fin 16) (frac dual : Bool)
    (ends : exec (.tineMac hd op i j a b f g frac dual none none) s = .next t) :
    MacLeaves i j dual (tineOf s hd.tine) (tineOf t hd.tine) := by
  rw [eq_of_exec (u := onTineMac hd op i j a b f g frac dual none none s) rfl ends, onTineMac, tineWaits_same rfl]
  refine content_tineInstr (P := MacLeaves i j dual (tineOf s hd.tine)) _ hd
    ⟨rfl, rfl, rfl, rfl, rfl, rfl, rfl, fun _ _ _ => rfl⟩ ?_
  dsimp only [parLoad]
  cases dual
  · exact ⟨rfl, rfl, rfl, rfl, rfl, rfl, rfl, fun q away _ => accPut_getD_ne _ _ _ away⟩
  · split <;> exact ⟨rfl, rfl, rfl, rfl, rfl, rfl, rfl, fun q away both =>
      (accPut_getD_ne _ _ _ (both rfl)).trans (accPut_getD_ne _ _ _ away)⟩

/-- What a branch, a repeat and a NOP leave of a tine. -/
def ControlLeaves (x y : TineSt) : Prop :=
  y.d = x.d ∧ y.acc = x.acc ∧ y.a = x.a ∧ y.b = x.b ∧ y.l = x.l ∧ y.m = x.m ∧ y.z = x.z ∧ y.n = x.n ∧ y.ovf = x.ovf ∧
    y.calls = x.calls ∧ y.out = x.out ∧ y.mem = x.mem

theorem tineControl_leaves (s t : State) (hd : TineHd) (c : Instr) (ends : exec c s = .next t)
    (control : (∃ a, c = .tineBr hd a) ∨ (∃ d e n, c = .tineRep hd d e n) ∨ c = .tineNop hd) :
    ControlLeaves (tineOf s hd.tine) (tineOf t hd.tine) := by
  have same : ControlLeaves (tineOf s hd.tine) (tineOf s hd.tine).content := ⟨rfl, rfl, rfl, rfl, rfl, rfl, rfl, rfl, rfl, rfl, rfl, rfl⟩
  rcases control with ⟨a, rfl⟩ | ⟨d, e, n, rfl⟩ | rfl
  · rw [eq_of_exec (u := onTineBr hd a s) rfl ends]
    exact content_tineInstr (P := ControlLeaves (tineOf s hd.tine)) _ hd same same
  · rw [eq_of_exec (u := onTineRep hd d e n s) rfl ends]
    refine content_tineInstr (P := ControlLeaves (tineOf s hd.tine)) _ hd same ?_
    extract_lets count
    split
    · exact same
    · split <;> exact same
  · rw [eq_of_exec (u := onTineNop hd s) rfl ends]
    exact content_tineInstr (P := ControlLeaves (tineOf s hd.tine)) _ hd same same

/-- What an accumulator instruction leaves of a tine. -/
def AccLeaves (op : AccOp) (acc : Fin 4) (d : Fin 16) (pair : Bool) (x y : TineSt) : Prop :=
  y.a = x.a ∧ y.b = x.b ∧ y.l = x.l ∧ y.m = x.m ∧ y.calls = x.calls ∧ y.out = x.out ∧ (op = .movd → y.z = x.z ∧ y.n = x.n) ∧
    (∀ q, q ≠ acc.val ∨ op = .movd → y.acc.getD q 0 = x.acc.getD q 0) ∧
    ∀ q, (if pair then q / 2 ≠ d.val / 2 else q ≠ d.val) ∨ op ≠ .movd → y.d.getD q 0 = x.d.getD q 0

theorem tineAcc_leaves (s t : State) (hd : TineHd) (op : AccOp) (acc acc2 : Fin 4) (d : Fin 16) (pair round : Bool) (shift : BitVec 6)
    (ends : exec (.tineAcc hd op acc acc2 d pair round shift) s = .next t) :
    AccLeaves op acc d pair (tineOf s hd.tine) (tineOf t hd.tine) := by
  rw [eq_of_exec (u := onTineAcc hd op acc acc2 d pair round shift s) rfl ends]
  refine content_tineInstr (P := AccLeaves op acc d pair (tineOf s hd.tine)) _ hd
    ⟨rfl, rfl, rfl, rfl, rfl, rfl, fun _ => ⟨rfl, rfl⟩, fun _ _ => rfl, fun _ _ => rfl⟩ ?_
  cases op
  case movd =>
    refine ⟨?_, ?_, ?_, ?_, ?_, ?_, fun _ => ?_, fun _ _ => ?_, fun q away => ?_⟩
    case refine_9 => exact dPut_getD_ne _ _ (away.resolve_right (· rfl))
    case refine_7 => cases pair <;> exact ⟨rfl, rfl⟩
    all_goals cases pair <;> rfl
  all_goals exact ⟨rfl, rfl, rfl, rfl, rfl, rfl, nofun,
    fun q away => accPut_getD_ne _ _ _ (away.resolve_right nofun), fun _ _ => rfl⟩

/-- What a special instruction leaves of a tine. -/
def SpecLeaves (op : SpecOp) (dst : Fin 16) (pair : Bool) (x y : TineSt) : Prop :=
  y.acc = x.acc ∧ y.a = x.a ∧ y.b = x.b ∧ y.l = x.l ∧ y.m = x.m ∧ y.calls = x.calls ∧ y.out = x.out ∧ y.z = x.z ∧ y.n = x.n ∧
    ∀ q, (if pair = true ∨ op = .crc32c then q / 2 ≠ dst.val / 2 else q ≠ dst.val) → y.d.getD q 0 = x.d.getD q 0

/-- Writing the destination, alone or as a pair, leaves what a special instruction leaves. -/
theorem dPut_specLeaves {op : SpecOp} {dst : Fin 16} {pair wide : Bool} (v : Nat) {x y : TineSt}
    (inside : wide = true → pair = true ∨ op = .crc32c) (same : ∃ o n, y = { x with ovf := o, steps := n }) :
    SpecLeaves op dst pair x (dPut dst wide v y).content := by
  obtain ⟨o, n, rfl⟩ := same
  refine ⟨?_, ?_, ?_, ?_, ?_, ?_, ?_, ?_, ?_, fun q away => ?_⟩
  case refine_10 =>
    refine dPut_getD_ne v { x with ovf := o, steps := n } ?_
    cases wide
    · split at away
      · exact fun same => away (same ▸ rfl)
      · exact away
    · rwa [if_pos (inside rfl)] at away
  all_goals cases wide <;> rfl

theorem tineSpec_leaves (s t : State) (hd : TineHd) (op : SpecOp) (dst src : Fin 16) (pair : Bool)
    (ends : exec (.tineSpec hd op dst src pair) s = .next t) : SpecLeaves op dst pair (tineOf s hd.tine) (tineOf t hd.tine) := by
  rw [eq_of_exec (u := onTineSpec hd op dst src pair s) rfl ends]
  refine content_tineInstr (P := SpecLeaves op dst pair (tineOf s hd.tine)) _ hd
    ⟨rfl, rfl, rfl, rfl, rfl, rfl, rfl, rfl, rfl, fun _ _ => rfl⟩ ?_
  cases op
  case div => exact dPut_specLeaves _ .inl ⟨_, _, rfl⟩
  case crc32c => exact dPut_specLeaves _ (fun _ => .inr rfl) ⟨_, _, rfl⟩
  all_goals exact dPut_specLeaves _ nofun ⟨_, _, rfl⟩

/-- What an address instruction leaves of a tine. -/
def AddrLeaves (op : AddrOp) (r : Fin 8) (tgt : AddrTgt) (d : Fin 16) (x y : TineSt) : Prop :=
  y.acc = x.acc ∧ y.calls = x.calls ∧ y.out = x.out ∧ y.z = x.z ∧ y.n = x.n ∧ y.ovf = x.ovf ∧
    (∀ q, q ≠ r.val ∨ tgt ≠ .a ∨ op = .movad → y.a.getD q 0 = x.a.getD q 0) ∧
    (∀ q, q ≠ r.val ∨ tgt ≠ .b ∨ op = .movad → y.b.getD q 0 = x.b.getD q 0) ∧
    (∀ q, q ≠ r.val ∨ tgt ≠ .l ∨ op = .movad → y.l.getD q 0 = x.l.getD q 0) ∧
    (∀ q, q ≠ r.val ∨ tgt ≠ .m ∨ op = .movad → y.m.getD q 0 = x.m.getD q 0) ∧
    ∀ q, q ≠ d.val ∨ op ≠ .movad → y.d.getD q 0 = x.d.getD q 0

theorem set_getD_ne {α : Type} {l : List α} {i q : Nat} (v d : α) (away : q ≠ i) : (l.set i v).getD q d = l.getD q d := by
  simp [List.getElem?_set_ne away.symm]

/-- Writing one address register leaves what an address instruction leaves. -/
theorem agPut_addrLeaves {op : AddrOp} {r : Fin 8} {tgt : AddrTgt} {d : Fin 16} (v : BitVec 16) {x y : TineSt} (n : Nat)
    (write : op ≠ .movad) (same : y = { x with steps := n }) : AddrLeaves op r tgt d x (agPut tgt r v y).content := by
  subst same
  have away {q : Nat} (h : q ≠ r.val ∨ tgt ≠ tgt ∨ op = .movad) : q ≠ r.val :=
    h.resolve_right (not_or.mpr ⟨(· rfl), write⟩)
  cases tgt
  case a => exact ⟨rfl, rfl, rfl, rfl, rfl, rfl, fun _ h => set_getD_ne _ _ (away h), fun _ _ => rfl, fun _ _ => rfl, fun _ _ => rfl, fun _ _ => rfl⟩
  case b => exact ⟨rfl, rfl, rfl, rfl, rfl, rfl, fun _ _ => rfl, fun _ h => set_getD_ne _ _ (away h), fun _ _ => rfl, fun _ _ => rfl, fun _ _ => rfl⟩
  case l => exact ⟨rfl, rfl, rfl, rfl, rfl, rfl, fun _ _ => rfl, fun _ _ => rfl, fun _ h => set_getD_ne _ _ (away h), fun _ _ => rfl, fun _ _ => rfl⟩
  case m => exact ⟨rfl, rfl, rfl, rfl, rfl, rfl, fun _ _ => rfl, fun _ _ => rfl, fun _ _ => rfl, fun _ h => set_getD_ne _ _ (away h), fun _ _ => rfl⟩

theorem tineAddr_leaves (s t : State) (hd : TineHd) (op : AddrOp) (r : Fin 8) (tgt : AddrTgt) (d : Fin 16) (imm : BitVec 16)
    (ends : exec (.tineAddr hd op r tgt d imm) s = .next t) : AddrLeaves op r tgt d (tineOf s hd.tine) (tineOf t hd.tine) := by
  rw [eq_of_exec (u := onTineAddr hd op r tgt d imm s) rfl ends]
  refine content_tineInstr (P := AddrLeaves op r tgt d (tineOf s hd.tine)) _ hd
    ⟨rfl, rfl, rfl, rfl, rfl, rfl, fun _ _ => rfl, fun _ _ => rfl, fun _ _ => rfl, fun _ _ => rfl, fun _ _ => rfl⟩ ?_
  cases op
  case movad =>
    exact ⟨rfl, rfl, rfl, rfl, rfl, rfl, fun _ _ => rfl, fun _ _ => rfl, fun _ _ => rfl, fun _ _ => rfl,
      fun q away => set_getD_ne _ _ (away.resolve_right (· rfl))⟩
  all_goals exact agPut_addrLeaves _ _ nofun rfl

/-- What a load or store leaves of a tine. -/
def LdstLeaves (store wide : Bool) (d : Fin 16) (areg : Fin 8) (mode : UpdMode) (x y : TineSt) : Prop :=
  y.acc = x.acc ∧ y.b = x.b ∧ y.l = x.l ∧ y.m = x.m ∧ y.calls = x.calls ∧ y.out = x.out ∧ y.z = x.z ∧ y.n = x.n ∧ y.ovf = x.ovf ∧
    (∀ q, q ≠ areg.val ∨ mode = .none → y.a.getD q 0 = x.a.getD q 0) ∧
    ∀ q, (if wide then q / 2 ≠ d.val / 2 else q ≠ d.val) ∨ store = true → y.d.getD q 0 = x.d.getD q 0

theorem aPut_getD {x : TineSt} {mode : UpdMode} {imm : BitVec 16} {areg p q : Nat} (moved : aguUpdate x areg mode imm = some p)
    (away : q ≠ areg ∨ mode = .none) : (x.a.set areg (BitVec.ofNat 16 p)).getD q 0 = x.a.getD q 0 := by
  rcases away with away | rfl
  · exact set_getD_ne _ _ away
  · obtain rfl : (x.a.getD areg 0).toNat = p := Option.some.inj moved
    by_cases same : q = areg
    · subst same
      simp [List.getElem?_set]
      split <;> simp_all
    · exact set_getD_ne _ _ same

theorem access_leaves {store wide : Bool} {d : Fin 16} {areg : Fin 8} {mode : UpdMode} {imm : BitVec 16} {x y : TineSt} {m : Memory}
    {l : List (Option Dma)} {n : Nat} (same : y = { x with mem := m, dma := l, steps := n }) :
    LdstLeaves store wide d areg mode x (tineAccess store wide d areg mode imm y).1.content := by
  subst same
  refine tineAccess_cases (P := fun z => LdstLeaves store wide d areg mode x z.content) ?_ (fun p m' stores moved _ => ?_)
    fun p v loads moved => ?_
  · exact ⟨rfl, rfl, rfl, rfl, rfl, rfl, rfl, rfl, rfl, fun _ _ => rfl, fun _ _ => rfl⟩
  · exact ⟨rfl, rfl, rfl, rfl, rfl, rfl, rfl, rfl, rfl, fun _ away => aPut_getD moved away, fun _ _ => rfl⟩
  · refine ⟨?_, ?_, ?_, ?_, ?_, ?_, ?_, ?_, ?_, fun q away => ?_, fun q away => ?_⟩
    case refine_10 => cases wide <;> exact aPut_getD moved away
    case refine_11 => exact dPut_getD_ne v _ (away.resolve_right (loads ▸ nofun))
    all_goals cases wide <;> rfl

theorem tineLdst_leaves (s t : State) (hd : TineHd) (store wide : Bool) (d : Fin 16) (areg : Fin 8) (mode : UpdMode) (imm : BitVec 16)
    (ends : exec (.tineLdst hd store wide d areg mode imm) s = .next t) :
    LdstLeaves store wide d areg mode (tineOf s hd.tine) (tineOf t hd.tine) := by
  rw [eq_of_exec (u := onTineLdst hd store wide d areg mode imm s) rfl ends]
  unfold onTineLdst
  extract_lets s1
  have waited : ∃ m l, tineOf s1 hd.tine = { tineOf s hd.tine with mem := m, dma := l } := by
    dsimp only [s1, tineWaits]
    split
    · exact dmaSettle_tine ..
    · exact ⟨_, _, rfl⟩
  clear_value s1
  obtain ⟨m, l, waited⟩ := waited
  refine content_tineInstr (P := LdstLeaves store wide d areg mode (tineOf s hd.tine)) _ hd ?_ (access_leaves (m := m) (l := l) (n := (tineOf s hd.tine).steps + 1) ?_)
  · rw [waited]
    exact ⟨rfl, rfl, rfl, rfl, rfl, rfl, rfl, rfl, rfl, fun _ _ => rfl, fun _ _ => rfl⟩
  · rw [stepped, waited]

/-- Settles O16: an instruction changes its tine by its own work, its next index or the end of its job, and no other tine. -/
theorem tineInstructionsLeaveTheRest : Obligations.TineInstructionsLeaveTheRest :=
  ⟨tineStore_leaves, tineInstruction_unstored, fun s t tine chan d runs ends => by
    rw [eq_of_exec (u := dmaFinish tine chan s) rfl ends]
    exact dmaFinish_leaves runs,
   tineAlu_leaves, tineMac_leaves, tineControl_leaves, tineAcc_leaves, tineSpec_leaves, tineAddr_leaves, tineLdst_leaves⟩

/-! ### What an instruction that executes writes -/

theorem tineInstr_of_ready {i : Instr} {hd : TineHd} {f : TineSt → TineSt × TineNext} {s : State} (ready : TineReady i hd s) :
    tineInstr i hd f s = tineTake hd.tine (f (stepped s hd.tine)) s := by
  obtain ⟨executes, holds⟩ := ready
  have holds : condHolds hd.cond (stepped s hd.tine) = true := by
    rw [← holds]
    cases hd.cond <;> rfl
  unfold tineInstr
  dsimp only
  rw [executes, if_neg (by decide)]
  exact congrArg (tineTake hd.tine · s) (if_pos holds)

theorem tineOf_seq {i : Instr} {hd : TineHd} {f : TineSt → TineSt × TineNext} {s : State} {z : TineSt} (ready : TineReady i hd s)
    (goes : f (stepped s hd.tine) = (z, .seq)) : tineOf (tineInstr i hd f s) hd.tine = z.next := by
  rw [tineInstr_of_ready ready, goes]
  exact tineOf_setTine ..

theorem tineOf_jump {i : Instr} {hd : TineHd} {f : TineSt → TineSt × TineNext} {s : State} {z : TineSt} {pc : Nat}
    (ready : TineReady i hd s) (goes : f (stepped s hd.tine) = (z, .jump pc)) :
    tineOf (tineInstr i hd f s) hd.tine = { z with pc := pc } := by
  rw [tineInstr_of_ready ready, goes]
  exact tineOf_setTine ..

theorem tineOf_stop {i : Instr} {hd : TineHd} {f : TineSt → TineSt × TineNext} {s : State} {z : TineSt} {status : Nat}
    (ready : TineReady i hd s) (goes : f (stepped s hd.tine) = (z, .stop status)) :
    ∃ n, tineOf (tineInstr i hd f s) hd.tine = { z with busy := false, dma := [none, none], jobs := n } := by
  obtain ⟨n, freed⟩ := tineOf_endJob hd.tine status (setTine hd.tine z s)
  refine ⟨n, ?_⟩
  rw [tineInstr_of_ready ready, goes, tineTake, freed, tineOf_setTine]

theorem dPut_flags (i : Nat) (pair : Bool) (v : Nat) (x : TineSt) :
    (dPut i pair v x).z = x.z ∧ (dPut i pair v x).n = x.n ∧ (dPut i pair v x).ovf = x.ovf ∧ (dPut i pair v x).steps = x.steps := by
  cases pair <;> exact ⟨rfl, rfl, rfl, rfl⟩

theorem tineAlu_completes (s : State) (hd : TineHd) (op : AluOp) (dst src1 src2 : Fin 16) (pair useImm : Bool) (imm : BitVec 16)
    (ready : TineReady (.tineAlu hd op dst src1 src2 pair useImm imm) hd s) (whole : (tineOf s hd.tine).d.length = 16) :
    Completes (.tineAlu hd op dst src1 src2 pair useImm imm) s fun t =>
      let x := tineOf s hd.tine
      let b := if useImm then immOf (dWidth pair) imm else dGet x src2 pair
      let u := if useImm then immOf (dWidth pair) imm else dGet x src1 pair
      let r := aluResult op (dWidth pair) hd.sat (dGet x src1 pair) b u
      (op ≠ .cmp → dGet (tineOf t hd.tine) dst pair = r.1 % 2 ^ dWidth pair) ∧ (op = .cmp → (tineOf t hd.tine).d = x.d) ∧
      (tineOf t hd.tine).z = decide (r.1 % 2 ^ dWidth pair = 0) ∧ (tineOf t hd.tine).n = bitB r.1 (dWidth pair - 1) ∧
      (tineOf t hd.tine).ovf = (x.ovf || r.2) ∧ (tineOf t hd.tine).steps = x.steps + 1 := by
  refine completes rfl ?_
  intro x b u r
  have runs : tineOf (onTineAlu hd op dst src1 src2 pair useImm imm s) hd.tine =
      TineSt.next (if op = .cmp then (stepped s hd.tine).flags (dWidth pair) r.1 r.2
        else dPut dst pair r.1 ((stepped s hd.tine).flags (dWidth pair) r.1 r.2)) := tineOf_seq ready rfl
  rw [runs]
  split
  next cmp => exact ⟨fun no => absurd cmp no, fun _ => rfl, rfl, rfl, rfl, rfl⟩
  next other =>
    obtain ⟨z, n, ovf, steps⟩ := dPut_flags dst pair r.1 ((stepped s hd.tine).flags (dWidth pair) r.1 r.2)
    exact ⟨fun _ => dGet_dPut pair r.1 (x := (stepped s hd.tine).flags (dWidth pair) r.1 r.2) whole dst.isLt, fun cmp => absurd cmp other, z, n, ovf, steps⟩

theorem tineMac_completes (s : State) (hd : TineHd) (op : MacOp) (accA accB : Fin 4) (a1 a2 b1 b2 : Fin 16) (frac dual : Bool)
    (ready : TineReady (.tineMac hd op accA accB a1 a2 b1 b2 frac dual none none) hd s) (whole : (tineOf s hd.tine).acc.length = 4)
    (apart : dual = true → accA ≠ accB) : Completes (.tineMac hd op accA accB a1 a2 b1 b2 frac dual none none) s fun t =>
      let x := tineOf s hd.tine
      (((tineOf t hd.tine).acc.getD accA 0).toNat = (placeIn 40 hd.sat (macValue op (accGet x accA)
        (macProduct frac (dGet x a1 false) (dGet x a2 false)))).1) ∧
      (dual = true → ((tineOf t hd.tine).acc.getD accB 0).toNat = (placeIn 40 hd.sat (macValue op (accGet x accB)
        (macProduct frac (dGet x b1 false) (dGet x b2 false)))).1) := by
  refine completes rfl ?_
  intro x
  have inside (k : Fin 4) : k.val < (stepped s hd.tine).acc.length := k.isLt.trans_eq whole.symm
  rw [onTineMac, tineWaits_same rfl]
  dsimp only [parLoad]
  rw [tineOf_seq ready rfl]
  cases dual
  · exact ⟨accPut_getD_same _ _ (inside accA), nofun⟩
  · have other : accA.val ≠ accB.val := fun same => apart rfl (Fin.ext same)
    have first (v w : Int) : ((accPut accB hd.sat w (accPut accA hd.sat v (stepped s hd.tine))).acc.getD accA 0).toNat =
        (placeIn 40 hd.sat v).1 := by
      rw [accPut_getD_ne _ _ _ other, accPut_getD_same _ _ (inside accA)]
    have second (v w : Int) : ((accPut accB hd.sat w (accPut accA hd.sat v (stepped s hd.tine))).acc.getD accB 0).toNat =
        (placeIn 40 hd.sat w).1 :=
      accPut_getD_same _ _ ((inside accB).trans_eq (List.length_set ..).symm)
    split <;> exact ⟨first .., fun _ => second ..⟩

theorem tineAdda_completes (s : State) (hd : TineHd) (acc acc2 : Fin 4) (d : Fin 16) (pair round : Bool) (shift : BitVec 6)
    (ready : TineReady (.tineAcc hd .adda acc acc2 d pair round shift) hd s) (whole : (tineOf s hd.tine).acc.length = 4) :
    Completes (.tineAcc hd .adda acc acc2 d pair round shift) s fun t =>
      let p := placeIn 40 hd.sat (accGet (tineOf s hd.tine) acc + accGet (tineOf s hd.tine) acc2)
      ((tineOf t hd.tine).acc.getD acc 0).toNat = p.1 ∧ (tineOf t hd.tine).ovf = ((tineOf s hd.tine).ovf || p.2) := by
  refine completes rfl ?_
  intro p
  rw [onTineAcc, tineOf_seq ready rfl]
  exact ⟨accPut_getD_same (x := stepped s hd.tine) _ _ (acc.isLt.trans_eq whole.symm), rfl⟩

theorem aguUpdate_none (x : TineSt) (i : Nat) (imm : BitVec 16) : aguUpdate x i .none imm = some (x.a.getD i 0).toNat := rfl

theorem tineLdst_completes (s : State) (hd : TineHd) (store wide : Bool) (d : Fin 16) (areg : Fin 8) (imm : BitVec 16)
    (ready : TineReady (.tineLdst hd store wide d areg .none imm) hd s) (whole : (tineOf s hd.tine).d.length = 16)
    (idle : (tineOf s hd.tine).dma = [none, none]) (aligned : aguAddress (tineOf s hd.tine) areg % (if wide then 4 else 2) = 0) :
    Completes (.tineLdst hd store wide d areg .none imm) s fun t =>
      let x := tineOf s hd.tine
      let n := if wide then 4 else 2
      if store then (tineOf t hd.tine).mem = dmWrite x.mem (aguAddress x areg) n (dGet x d wide) ∧ (tineOf t hd.tine).d = x.d
      else dGet (tineOf t hd.tine) d wide = dmRead x.mem (aguAddress x areg) n ∧ (tineOf t hd.tine).mem = x.mem := by
  refine completes rfl ?_
  intro x n
  have aligned : ¬ aguAddress (stepped s hd.tine) areg % (if wide then 4 else 2) ≠ 0 := not_not.mpr aligned
  have goes : tineAccess store wide d areg .none imm (stepped s hd.tine) = (aPut areg ((x.a.getD areg 0).toNat)
      (if store then { stepped s hd.tine with mem := dmWrite x.mem (aguAddress x areg) n (dGet x d wide) }
        else dPut d wide (dmRead x.mem (aguAddress x areg) n) (stepped s hd.tine)), .seq) := by
    unfold tineAccess
    dsimp only [aguUpdate]
    rw [if_neg aligned]
    cases store <;> rfl
  rw [onTineLdst, tineWaits_same (dmaSettle_idle idle), tineOf_seq ready goes]
  cases store
  · refine ⟨?_, dPut_mem d wide _ (stepped s hd.tine)⟩
    refine (dGet_dPut wide _ (x := stepped s hd.tine) whole d.isLt).trans (Nat.mod_eq_of_lt ?_)
    cases wide <;> exact dmRead_lt ..
  · exact ⟨rfl, rfl⟩

theorem tineSet_completes (s : State) (hd : TineHd) (x : Fin 8) (tgt : AddrTgt) (d : Fin 16) (imm : BitVec 16)
    (ready : TineReady (.tineAddr hd .set x tgt d imm) hd s) (a : (tineOf s hd.tine).a.length = 8) (b : (tineOf s hd.tine).b.length = 8)
    (l : (tineOf s hd.tine).l.length = 8) (m : (tineOf s hd.tine).m.length = 8) :
    Completes (.tineAddr hd .set x tgt d imm) s fun t => agGet (tineOf t hd.tine) tgt x = imm := by
  refine completes rfl ?_
  rw [onTineAddr, tineOf_seq ready rfl]
  cases tgt <;> simp [agGet, agPut, TineSt.next, stepped, a, b, l, m]

theorem clz_le (w v : Nat) : clz w v ≤ w := Nat.sub_le ..

theorem tineClz_completes (s : State) (hd : TineHd) (dst src : Fin 16) (pair : Bool) (ready : TineReady (.tineSpec hd .clz dst src pair) hd s)
    (whole : (tineOf s hd.tine).d.length = 16) : Completes (.tineSpec hd .clz dst src pair) s fun t =>
      dGet (tineOf t hd.tine) dst false = clz (dWidth pair) (dGet (tineOf s hd.tine) src pair) := by
  refine completes rfl ?_
  rw [onTineSpec, tineOf_seq ready rfl]
  refine (dGet_dPut false _ (x := stepped s hd.tine) whole dst.isLt).trans (Nat.mod_eq_of_lt ?_)
  refine (clz_le _ _).trans_lt ?_
  cases pair <;> decide

theorem tineIsqrt_completes (s : State) (hd : TineHd) (dst src : Fin 16) (pair : Bool) (ready : TineReady (.tineSpec hd .isqrt dst src pair) hd s)
    (whole : (tineOf s hd.tine).d.length = 16) : Completes (.tineSpec hd .isqrt dst src pair) s fun t =>
      dGet (tineOf t hd.tine) dst false = isqrt (dGet (tineOf s hd.tine) src true) := by
  refine completes rfl ?_
  rw [onTineSpec, tineOf_seq ready rfl]
  exact (dGet_dPut false _ (x := stepped s hd.tine) whole dst.isLt).trans (Nat.mod_eq_of_lt (isqrt_lt (dGet_lt ..)))

/-- Settles O30: an instruction that executes puts its work on the tine into force. -/
theorem tineComputeInstructionsComplete : Obligations.TineComputeInstructionsComplete :=
  ⟨tineAlu_completes, tineMac_completes, tineAdda_completes, tineLdst_completes, tineSet_completes, tineClz_completes,
   tineIsqrt_completes⟩

/-! ### Control flow, transfers and results -/

theorem tineCall_completes (s : State) (hd : TineHd) (target : BitVec 12) (ready : TineReady (.tineCall hd target) hd s)
    (room : (tineOf s hd.tine).calls.length < 8) : Completes (.tineCall hd target) s fun t =>
      (tineOf t hd.tine).pc = target.toNat ∧ (tineOf t hd.tine).calls.length = (tineOf s hd.tine).calls.length + 1 ∧
      ((tineOf t hd.tine).calls.head?).map (·.1) = some ((tineOf s hd.tine).next).pc := by
  refine completes rfl ?_
  rw [onTineCall, tineOf_jump ready (if_neg (Nat.not_le.mpr room))]
  exact ⟨rfl, rfl, rfl⟩

theorem tineRet_completes (s : State) (hd : TineHd) (pc depth : Nat) (rest : List (Nat × Nat)) (ready : TineReady (.tineRet hd) hd s)
    (called : (tineOf s hd.tine).calls = (pc, depth) :: rest) : Completes (.tineRet hd) s fun t =>
      (tineOf t hd.tine).pc = pc ∧ (tineOf t hd.tine).calls = rest := by
  have called : (stepped s hd.tine).calls = (pc, depth) :: rest := called
  refine completes rfl ?_
  unfold onTineRet
  rw [tineOf_jump (z := { stepped s hd.tine with calls := rest, reps := _ }) ready (by rw [called])]
  exact ⟨rfl, rfl⟩

theorem tineRep_completes (s : State) (hd : TineHd) (endIdx : BitVec 12) (count : BitVec 16)
    (ready : TineReady (.tineRep hd none endIdx count) hd s) (some : count ≠ 0) (room : (tineOf s hd.tine).reps.length < 3) :
    Completes (.tineRep hd none endIdx count) s fun t => (tineOf t hd.tine).pc = (tineOf s hd.tine).pc + 1 ∧
      (tineOf t hd.tine).reps = ⟨(tineOf s hd.tine).pc + 1, endIdx.toNat, count.toNat, (tineOf s hd.tine).calls.length⟩ ::
        (tineOf s hd.tine).reps := by
  have positive : ¬ count.toNat = 0 := fun zero => some (BitVec.eq_of_toNat_eq zero)
  refine completes rfl ?_
  rw [onTineRep, tineOf_jump ready ((if_neg positive).trans (if_neg (Nat.not_le.mpr room)))]
  exact ⟨rfl, rfl⟩

/-- A finished transfer changes the tine cluster and the counter of free values alone. -/
theorem dmaFinish_ready {i : Instr} {hd : TineHd} {s : State} (t c : Nat) (ready : TineReady i hd s) (same : hd.tine.val = t) :
    TineReady i hd (dmaFinish t c s) := by
  subst same
  obtain ⟨m, l, tine⟩ := dmaFinish_tine hd.tine c s
  have kept : Keeps (2 ^ 15 + 2 ^ 46) s (dmaFinish hd.tine c s) := dmaFinish_keeps _ _ (by decide) .rfl'
  have records : slotRec (dmaFinish hd.tine c s) = slotRec s := by
    have cfg : (dmaFinish hd.tine c s).cfg = s.cfg := kept.same .cfg (by decide)
    obtain ⟨addr, -⟩ : (dmaFinish hd.tine c s).trl.addr = s.trl.addr ∧ _ := kept.same .cascade (by decide)
    funext k
    unfold slotRec recWhere recsOf
    rw [cfg, addr]
  obtain ⟨fenced, -⟩ : (dmaFinish hd.tine c s).fcl.fenced = s.fcl.fenced ∧ _ := kept.same .fences (by decide)
  have cond : condHolds hd.cond (tineOf (dmaFinish hd.tine c s) hd.tine) = condHolds hd.cond (tineOf s hd.tine) := by
    rw [tine]
    cases hd.cond <;> rfl
  have busy : (tineOf (dmaFinish hd.tine c s) hd.tine).busy = (tineOf s hd.tine).busy := by rw [tine]
  have slot : (tineOf (dmaFinish hd.tine c s) hd.tine).slot = (tineOf s hd.tine).slot := by rw [tine]
  have steps : (tineOf (dmaFinish hd.tine c s) hd.tine).steps = (tineOf s hd.tine).steps := by rw [tine]
  have prog : (tineOf (dmaFinish hd.tine c s) hd.tine).prog = (tineOf s hd.tine).prog := by rw [tine]
  have pc : (tineOf (dmaFinish hd.tine c s) hd.tine).pc = (tineOf s hd.tine).pc := by rw [tine]
  rwa [TineReady, tineAt, tineRuns, tineFetch, tineLimit, isFenced, cond, busy, slot, steps, prog, pc, records, fenced]

theorem tineWaits_of_ready {i : Instr} {hd : TineHd} {f : State → State} {s : State} (ready : TineReady i hd s) :
    tineWaits i hd f s = f s := by
  obtain ⟨executes, holds⟩ := ready
  rw [tineWaits, executes, holds]
  rfl

theorem tineEnd_completes (s : State) (hd : TineHd) (ready : TineReady (.tineEnd hd) hd s) : Completes (.tineEnd hd) s fun t =>
    (tineOf t hd.tine).busy = false ∧ (tineOf t hd.tine).dma = [none, none] := by
  refine completes rfl ?_
  have ended := dmaFinish_ready hd.tine 1 (dmaFinish_ready hd.tine 0 ready rfl) rfl
  rw [onTineEnd, tineWaits_of_ready ready]
  obtain ⟨n, freed⟩ := tineOf_stop (f := fun x =>
    (x, .stop (if tineLimit (dmaFinish hd.tine 1 (dmaFinish hd.tine 0 s)) x ≤ x.steps then 1 else 0))) ended rfl
  rw [freed]
  exact ⟨rfl, rfl⟩

theorem tineDmaStart_completes (s : State) (hd : TineHd) (chan : Fin 2) (toData : Bool) (areg remote : Fin 8) (len : BitVec 14)
    (ready : TineReady (.tineDmaStart hd chan toData areg remote len) hd s) (some_ : len ≠ 0)
    (idle : (tineOf s hd.tine).dma = [none, none])
    (allowed : dmaAllowed s hd.tine ⟨toData, ((tineOf s hd.tine).a.getD areg 0).toNat, dGet (tineOf s hd.tine) (2 * remote) true, len.toNat⟩
      = true) : Completes (.tineDmaStart hd chan toData areg remote len) s fun t =>
      (tineOf t hd.tine).dma.getD chan none =
        some ⟨toData, ((tineOf s hd.tine).a.getD areg 0).toNat, dGet (tineOf s hd.tine) (2 * remote) true, len.toNat⟩ := by
  refine completes rfl ?_
  rw [onTineDmaStart, tineWaits_same (dmaFinish_idle (idle ▸ idle_getD chan)), tineOf_seq ready ((if_neg some_).trans (if_pos allowed))]
  have two : chan.val < (tineOf s hd.tine).dma.length := idle ▸ chan.isLt
  simp [TineSt.next, stepped, two]
  rfl

theorem dmaFinish_getD (t c : Nat) (s : State) : (tineOf (dmaFinish t c s) t).dma.getD c none = none := by
  have cleared (l : List (Option Dma)) : (l.set c none).getD c none = none := by
    by_cases inside : c < l.length <;> simp [inside]
  cases runs : (tineOf s t).dma.getD c none with
  | none => rw [dmaFinish_idle runs, runs]
  | some d =>
    simp only [dmaFinish, runs]
    split
    · rw [tineOf_setTine]
      exact cleared _
    · rw [tineOf_setTine]
      exact cleared _

theorem tineDmaWait_completes (s : State) (hd : TineHd) (chan : Fin 2) (ready : TineReady (.tineDmaWait hd chan) hd s) :
    Completes (.tineDmaWait hd chan) s fun t => (tineOf t hd.tine).dma.getD chan none = none := by
  refine completes rfl ?_
  rw [onTineDmaWait, tineWaits_of_ready ready, tineOf_seq (dmaFinish_ready hd.tine chan ready rfl) rfl]
  exact dmaFinish_getD ..

theorem tineEmit_completes (s : State) (hd : TineHd) (areg : Fin 8) (count : BitVec 13) (r : ImgRec)
    (ready : TineReady (.tineEmit hd areg none count) hd s) (slot : slotRec s (tineOf s hd.tine).slot = some r)
    (room : (tineOf s hd.tine).out.length + count.toNat ≤ outMax r) (idle : (tineOf s hd.tine).dma = [none, none]) :
    Completes (.tineEmit hd areg none count) s fun t => (tineOf t hd.tine).out = (tineOf s hd.tine).out ++
      (List.range count.toNat).map fun i => BitVec.ofNat 64
        (dmRead (tineOf s hd.tine).mem (((tineOf s hd.tine).a.getD areg 0).toNat + 8 * i) 8) := by
  have slot : slotRec s (stepped s hd.tine).slot = some r := slot
  have fits : ¬ ((slotRec s (stepped s hd.tine).slot).any fun r => decide (outMax r < (stepped s hd.tine).out.length + count.toNat)) = true := by
    rw [slot, Option.any_some, decide_eq_true_eq]
    exact Nat.not_lt.mpr room
  refine completes rfl ?_
  unfold onTineEmit
  dsimp only
  rw [tineWaits_same (dmaSettle_idle idle), tineOf_seq ready (if_neg fits)]
  rfl

/-- Settles O31: an instruction that executes goes on, jumps or ends its job as R254 to R256 and R265 say. -/
theorem tineControlInstructionsComplete : Obligations.TineControlInstructionsComplete := by
  refine ⟨fun s hd target ready => completes rfl ?_, tineCall_completes, tineRet_completes, tineRep_completes,
    fun s hd endIdx ready => completes rfl ?_, fun s hd ready => completes rfl ?_, tineEnd_completes, tineDmaStart_completes,
    tineDmaWait_completes, tineEmit_completes⟩
  · rw [onTineBr, tineOf_jump ready rfl]
  · rw [onTineRep, tineOf_jump ready (if_pos rfl)]
    exact ⟨rfl, rfl⟩
  · rw [onTineNop, tineOf_seq ready rfl]
    exact ⟨rfl, rfl, rfl, rfl⟩

end Sys2Proof.Machine
end

section
/-! PROOFS. The jobs of the tine cluster (R258 to R265): intake, closing, dispatch, the end of a transfer, the step limit and
memory errors. -/

namespace Sys2Proof.Machine

/-! ### The frame a slot takes next -/

/-- From `s` to `t` slot `k` takes the same frame next. -/
structure SameNext (k : Nat) (s t : State) : Prop where
  next : (slotOf t k).nextF = (slotOf s k).nextF

theorem SameNext.trans {k : Nat} {s t u : State} (h : SameNext k s t) (h' : SameNext k t u) : SameNext k s u :=
  ⟨h'.next.trans h.next⟩

theorem SameNext.refl (k : Nat) (s : State) : SameNext k s s := ⟨rfl⟩

theorem SameNext.of_slots {k : Nat} {s t : State} (slots : t.tin.slots = s.tin.slots) : SameNext k s t :=
  ⟨by rw [slotOf, slots, slotOf]⟩

theorem SameNext.ite {k : Nat} {s t u : State} {c : Prop} [Decidable c] (h : SameNext k s t) (h' : SameNext k s u) :
    SameNext k s (if c then t else u) := by
  split
  · exact h
  · exact h'

theorem SameNext.set {k : Nat} {s t : State} {x : SlotJobs} (same : x.nextF = (slotOf s k).nextF) :
    SameNext k s (setSlot k x t) :=
  ⟨by rw [slotOf_setSlot, same]⟩

/-- The bits of every part but the jobs of the tines. -/
def besideJobs : Nat := 281474976710655 - 2 ^ 16

theorem SameNext.of_keeps {k : Nat} {s t u : State} (h : SameNext k s t) (kept : Keeps besideJobs t u) : SameNext k s u := by
  obtain ⟨slots, -⟩ : u.tin.slots = t.tin.slots ∧ _ := kept.same .tinJobs (by decide)
  exact h.trans (.of_slots slots)

theorem sameNext_jobEvents (k : Nat) (r : ImgRec) (j : Job) (s : State) : SameNext k s (jobEvents k r j s) := by
  unfold jobEvents
  extract_lets s1 s1a s1b x s2 s3 _ s4 s5 _ s6 _
  have kept1b : SameNext k s s1b := .ite (.of_slots rfl) (.of_slots rfl)
  have kept2 : SameNext k s s2 := by
    refine .ite (.ite kept1b (.of_keeps ?_ (fault_keeps _ _ _ _ _ (by decide) .rfl'))) (.of_slots rfl)
    exact .set kept1b.next
  have kept4 : SameNext k s s4 := .ite (.ite (kept2.trans (.of_slots rfl)) (kept2.trans (.of_slots rfl))) kept2
  have kept6 : SameNext k s s6 := .ite (.ite (kept4.trans (.of_slots rfl)) (kept4.trans (.of_slots rfl))) kept4
  exact .ite kept6 (.ite (kept6.trans (.of_slots rfl)) (.ite (kept6.trans (.of_slots rfl)) (.ite (kept6.trans (.of_slots rfl)) kept6)))

theorem sameNext_releaseJob (k : Nat) (r : ImgRec) (j : Job) (s : State) : SameNext k s (releaseJob k r j s) := by
  unfold releaseJob
  extract_lets x fl tag s1
  have kept1 : SameNext k s s1 := SameNext.set rfl
  have kept2 := (kept1.of_keeps (copyToClo_keeps k r j (by decide) .rfl')).trans (sameNext_jobEvents k r j _)
  exact kept2.of_keeps (routeItem_keeps _ _ _ _ _ (by decide) .rfl')

theorem sameNext_releaseEnded (fuel k : Nat) (s : State) : SameNext k s (releaseEnded fuel k s) := by
  induction fuel generalizing s with
  | zero => exact .refl k s
  | succ f ih =>
    unfold releaseEnded
    split
    · split
      · refine .trans (.trans ?_ (sameNext_releaseJob ..)) (ih _)
        exact .set rfl
      · exact .refl k s
    · exact .refl k s

theorem sameNext_slotAdmit (k : Nat) (r : ImgRec) (i : Nat × Item) (s : State) : SameNext k s (slotAdmit k r i s) := by
  unfold slotAdmit
  extract_lets x f pace
  refine .ite ?_ (SameNext.set rfl)
  refine .of_keeps ?_ (stick_keeps _ _ (by decide) (bumpSat_keeps _ _ _ _ (by decide) (fault_keeps _ _ _ _ _ (by decide) .rfl')))
  exact .set rfl

theorem sameNext_admitHeld (k : Nat) (s : State) : SameNext k s (admitHeld k s) := by
  unfold admitHeld
  split
  · exact .refl k s
  next r _ =>
    extract_lets x
    refine .ite (.refl k s) ?_
    exact List.foldlRecOn (motive := fun t => SameNext k s t) _ _ (SameNext.set rfl) fun t kept i _ =>
      kept.trans (sameNext_slotAdmit k r i t)

/-! ### Intake and closing (R260) -/

theorem tineItemArrive_admits (s : State) (slot : Fin 16) (input : Fin 4) (item : Item) (r : ImgRec)
    (rec_ : slotRec s slot = some r) (inside : input.val < rf r 0 8 3) (src : tagSrc item.tag = (slotSrc r input).1)
    (stream : tagStream item.tag = (slotSrc r input).2) (open_ : slotBlocked s slot = false)
    (due : slotUnit r = 1 ∨ precedes (tagFrame item.tag) (slotOf s slot).nextF = false) :
    Completes (.tineItemArrive slot input item) s fun t =>
      (slotOf t slot).items = (slotOf s slot).items ++ [(input.val, item)] ∧ (slotOf t slot).nextF = (slotOf s slot).nextF := by
  refine completes rfl ?_
  have early : ¬ (slotUnit r ≠ 1 && precedes (tagFrame item.tag) (slotOf s slot).nextF) = true := by
    rcases due with any | due
    · simp [any]
    · simp [due]
  simp only [onTineItemArrive, rec_, inside, src, stream, open_, slotAdmit, decide_true, Bool.and_self, Bool.not_true,
    Bool.false_eq_true, if_false]
  rw [if_neg early, slotOf_setSlot]
  exact ⟨rfl, rfl⟩

theorem tineItemArrive_holds (s : State) (slot : Fin 16) (input : Fin 4) (item : Item) (r : ImgRec)
    (rec_ : slotRec s slot = some r) (inside : input.val < rf r 0 8 3) (src : tagSrc item.tag = (slotSrc r input).1)
    (stream : tagStream item.tag = (slotSrc r input).2) (blocked : slotBlocked s slot = true) :
    Completes (.tineItemArrive slot input item) s fun t =>
      (slotOf t slot).held = (slotOf s slot).held ++ [(input.val, item)] ∧ (slotOf t slot).items = (slotOf s slot).items := by
  refine completes rfl ?_
  simp only [onTineItemArrive, rec_, inside, src, stream, blocked, decide_true, Bool.and_self, Bool.not_true,
    Bool.false_eq_true, if_false, if_true, slotOf_setSlot, and_self]

theorem tineJobClose_completes (s : State) (slot : Fin 16) (r : ImgRec) (p : Nat) (rec_ : slotRec s slot = some r)
    (frames : slotUnit r = 0) (open_ : slotBlocked s slot = false) (pace : (slotOf s slot).pace = some p)
    (past : precedes p (((slotOf s slot).nextF % 2 ^ 24 + rf r 0 12 4) % 2 ^ 24) = false) :
    Completes (.tineJobClose slot) s fun t => (slotOf t slot).nextF = ((slotOf s slot).nextF + 1) % 2 ^ 24 := by
  refine completes rfl ?_
  have due : (slotOf s slot).pace.any (fun p => !precedes p ((((slotOf s slot).nextF + 1 - 1) % 2 ^ 24 + rf r 0 12 4) % 2 ^ 24)) = true := by
    rw [pace, Option.any_some, Nat.add_sub_cancel, past, Bool.not_false]
  unfold onTineJobClose
  simp only [rec_, open_, frames, Bool.false_eq_true, if_false, show ¬ 0 = 1 from nofun, show ¬ 0 = 2 from nofun]
  rw [if_pos due, ((sameNext_releaseEnded 16 slot _).trans (sameNext_admitHeld slot _)).next, formJob, slotOf_setSlot]
  exact if_neg (by rw [frames]; decide)

/-! ### Dispatch (R261 to R263) -/

theorem endNoTine_of_tine {s : State} {k : Nat} (able : ∀ q, slotRec s k = some q → noTine s q = false) : endNoTine k s = s := by
  unfold endNoTine
  split
  · rfl
  next q rec_ =>
    dsimp only
    rw [able q rec_, Bool.false_and, if_neg Bool.false_ne_true]

theorem slotReset_jobs (k : Nat) (r : ImgRec) (first : Nat) (s : State) : (slotOf (slotReset k r first s) k).jobs = (slotOf s k).jobs := by
  unfold slotReset
  extract_lets x
  split
  · rw [slotOf_setSlot]
  · rfl

theorem tineOf_slotReset (k : Nat) (r : ImgRec) (first t : Nat) (s : State) : tineOf (slotReset k r first s) t = tineOf s t := by
  unfold slotReset
  extract_lets x
  split
  · rfl
  · rfl

/-- The state in which tine `t` has the job, before a repeated run is counted. -/
def jobPlaced (t k i : Nat) (r : ImgRec) (j : Job) (s : State) : State :=
  let s := slotReset k r j.first s
  setTine t { busy := true, slot := k, pc := codeStart s t k,
              mem := jobMemory s k r j ((slotOf s k).store.getD (initialState r)), scratch := scratchOf s r,
              prog := (tineOf s t).prog, eccCorr := (tineOf s t).eccCorr, jobs := (tineOf s t).jobs }
    (setJob k i (fun j => { j with phase := .running t, again := false, rerun := j.rerun || j.again }) s)

theorem startJob_tin (t k i : Nat) (r : ImgRec) (j : Job) (s : State) : (startJob t k i r j s).tin = (jobPlaced t k i r j s).tin := by
  cases again : j.again <;> simp only [startJob, again] <;> rfl

theorem codeStart_slotReset (k : Nat) (r : ImgRec) (first t m : Nat) (s : State) :
    codeStart (slotReset k r first s) t m = codeStart s t m := by
  unfold slotReset
  extract_lets x
  split
  · rfl
  · rfl

theorem tineJobDispatch_completes (s : State) (tine : Fin 16) (k i : Nat) (l : List (Nat × Nat)) (r : ImgRec) (j : Job)
    (able : ∀ m q, slotRec s m = some q → noTine s q = false) (free : (tineOf s tine).busy = false)
    (unfenced : isFenced s (Unit.tine tine) = false) (clock : gClk s.tin.grant ≠ 0) (ready : readyFor s tine = (k, i) :: l)
    (rec_ : slotRec s k = some r) (job : (slotOf s k).jobs[i]? = some j) : Completes (.tineJobDispatch tine) s fun t =>
      (tineOf t tine).busy = true ∧ (tineOf t tine).slot = k ∧ (tineOf t tine).pc = codeStart s tine k ∧ (tineOf t tine).steps = 0 ∧
      ((slotOf t k).jobs[i]?).map (·.phase) = some (.running tine) := by
  have none_ended : (List.range 16).foldl (fun s k => endNoTine k s) s = s :=
    List.foldlRecOn (motive := fun t => t = s) _ _ rfl fun t same m _ => by rw [same, endNoTine_of_tine (able m)]
  have starts : onTineJobDispatch tine s = startJob tine k i r j s := by
    simp only [onTineJobDispatch, none_ended, free, unfenced, clock, ready, rec_, job, decide_false, Bool.or_self,
      Bool.false_eq_true, if_false]
  refine completes rfl ?_
  have tin := startJob_tin tine k i r j s
  have placed : tineOf (onTineJobDispatch tine s) tine = tineOf (jobPlaced tine k i r j s) tine := by
    rw [starts, tineOf, tin, tineOf]
  have slot : (slotOf (onTineJobDispatch tine s) k).jobs = (slotOf (jobPlaced tine k i r j s) k).jobs := by
    rw [starts, slotOf, tin, slotOf]
  rw [placed, slot]
  refine ⟨?_, ?_, ?_, ?_, ?_⟩
  · rw [jobPlaced, tineOf_setTine]
  · rw [jobPlaced, tineOf_setTine]
  · rw [jobPlaced, tineOf_setTine]
    exact codeStart_slotReset ..
  · rw [jobPlaced, tineOf_setTine]
  · have running : (slotOf (jobPlaced tine k i r j s) k).jobs =
        (slotOf s k).jobs.modify i fun j => { j with phase := .running tine, again := false, rerun := j.rerun || j.again } := by
      rw [← slotReset_jobs k r j.first s]
      exact congrArg SlotJobs.jobs (slotOf_setSlot ..)
    rw [running, List.getElem?_modify, job]
    simp

theorem tineDmaDone_completes (s : State) (tine : Fin 16) (chan : Fin 2) (d : Dma) (runs : (tineOf s tine).dma.getD chan none = some d)
    (toSram : d.toData = false) : Completes (.tineDmaDone tine chan) s fun t => (tineOf t tine).dma.getD chan none = none ∧
      t.tin.sram = Memory.writeList s.tin.sram d.remote (Memory.readList (tineOf s tine).mem d.loc (8 * d.len)) := by
  refine completes rfl ⟨dmaFinish_getD .., ?_⟩
  simp only [onTineDmaDone, dmaFinish, runs, toSram, Bool.false_eq_true, if_false]
  rfl

theorem tinStepLimit_completes (s : State) (tine : Fin 16) (busy : (tineOf s tine).busy = true)
    (unfenced : isFenced s (Unit.tine tine) = false) (limit : tineLimit s (tineOf s tine) ≤ (tineOf s tine).steps) :
    Completes (.tinStepLimit tine) s fun t => (tineOf t tine).busy = false := by
  refine completes rfl ?_
  obtain ⟨n, freed⟩ := tineOf_endJob tine 1 s
  simp only [onTinStepLimit, busy, unfenced, limit, decide_true, Bool.not_false, Bool.and_self, if_true]
  rw [freed]

/-- A register that is not the event's own leaves the event pending. -/
theorem evtPending_of_put {s t : State} {off n : Nat} {w : Word32} (put : t.regs = Tab.put s.regs off w) (other : evtReg n ≠ off)
    (pending : evtPending s n = true) : evtPending t n = true := by
  have word : rd t (evtReg n) = rd s (evtReg n) := by
    rw [rd, put]
    exact Tab.lookD_put_ne _ _ _ other
  rwa [evtPending, word]

theorem tinEcc_corrected (s : State) (tine : Fin 16) (m : TineMem) (t0 : Tick) : Completes (.tinEcc tine m false t0) s fun t =>
    (tineOf t tine).eccCorr = min ((tineOf s tine).eccCorr + 1) 3 ∧ evtPending t 197 = true := by
  refine completes rfl ⟨?_, evtPending_of_put (off := Reg.TIN_ECC_CORR) rfl (by decide) (evtPending_fault ..)⟩
  have corrected (u : State) : (tineOf u tine).eccCorr = (tineOf s tine).eccCorr →
      (tineOf (bump Reg.TIN_ECC_CORR 1 (fault 197 Src.tin tine .corrected 0
        (setTine tine { tineOf u tine with eccCorr := min ((tineOf u tine).eccCorr + 1) 3 } u))) tine).eccCorr =
          min ((tineOf s tine).eccCorr + 1) 3 := fun same =>
    (congrArg TineSt.eccCorr (tineOf_setTine ..)).trans (same ▸ rfl)
  cases m
  case data => exact corrected _ rfl
  case program =>
    refine corrected (tineReload tine (advance t0 s)) ?_
    rw [tineReload, tineOf_setTine]
    rfl

theorem tinEcc_uncorrected (s : State) (tine : Fin 16) (m : TineMem) (t0 : Tick) : Completes (.tinEcc tine m true t0) s fun t =>
    (tineOf t tine).eccCorr = (tineOf s tine).eccCorr ∧ evtPending t 198 = true :=
  completes rfl ⟨rfl, evtPending_of_setBits rfl (evtPending_fault ..)⟩

/-- Settles O29: taking an item, closing a job and ending one each go through one operation on the slot or the tine. -/
theorem tineJobCommandsComplete : Obligations.TineJobCommandsComplete :=
  ⟨tineItemArrive_admits, tineItemArrive_holds, tineJobClose_completes, tineJobDispatch_completes, tineDmaDone_completes,
   tinStepLimit_completes, tinEcc_corrected, tinEcc_uncorrected⟩

end Sys2Proof.Machine
end

section
/-! PROOFS. The queues (R318, R319): what a full RT queue loses and counts, and that a BP queue loses nothing. -/

namespace Sys2Proof.Machine

theorem Queue.timed_held (q : Queue) (n : Nat) (t : Tick) : (q.timed n t).held = q.held := by
  unfold Queue.timed
  split <;> rfl

theorem Queue.timed_lost (q : Queue) (n : Nat) (t : Tick) : (q.timed n t).lost = q.lost := by
  unfold Queue.timed
  split <;> rfl

theorem queueOf_setQueue_held (g i : Nat) (q : Queue) (s : State) : (queueOf (setQueue g i q s) g i).held = q.held := by
  rw [queueOf_setQueue]
  split
  · rfl
  · exact Queue.timed_held ..

theorem queueOf_setQueue_lost (g i : Nat) (q : Queue) (s : State) : (queueOf (setQueue g i q s) g i).lost = q.lost := by
  rw [queueOf_setQueue]
  split
  · rfl
  · exact Queue.timed_lost ..

theorem set_getD_self {α : Type} {l : List α} {i : Nat} (v d : α) (inside : i < l.length) : (l.set i v).getD i d = v := by
  simp [inside]

theorem qkey_ne {g i h j : Nat} (apart : (h, j) ≠ (g, i)) (hi : i < 1024) (hj : j < 1024) : qkey h j ≠ qkey g i := by
  intro same
  refine apart (Prod.ext ?_ ?_) <;> simp only [qkey] at same ⊢ <;> omega

/-- A word for a full RT queue: the oldest one goes, and the loss is counted and reported (R318). -/
theorem pushRT_full (g i : Nat) (w : Word64) (s : State) (full : (queueOf s g i).words.length = qDepth s g) (_ : 0 < qDepth s g)
    (group : g < s.qsy.lostCt.length) :
    (queueOf (pushRT g i w s) g i).words = (queueOf s g i).words.drop 1 ++ [⟨w, true, evenParity w true, true, 0⟩] ∧
    (queueOf (pushRT g i w s) g i).lost = true ∧
    (pushRT g i w s).qsy.lostCt.getD g 0 = min (s.qsy.lostCt.getD g 0 + 1) 4294967295 ∧
    evtPending (pushRT g i w s) (rtEvent g).1 = true ∧
    ∀ h j, (h, j) ≠ (g, i) → i < 1024 → j < 1024 → queueOf (pushRT g i w s) h j = queueOf s h j := by
  have none_free : ¬ (queueOf s g i).words.length < qDepth s g := full ▸ lt_irrefl _
  simp only [pushRT, if_neg none_free]
  refine ⟨queueOf_setQueue_words .., queueOf_setQueue_lost .., ?_, evtPending_fault .., fun h j apart hi hj => ?_⟩
  · exact set_getD_self _ _ group
  · exact queueOf_setQueue_ne _ _ (qkey_ne apart hi hj)

theorem pushRT_free (g i : Nat) (w : Word64) (s : State) (free : (queueOf s g i).words.length < qDepth s g) :
    (queueOf (pushRT g i w s) g i).words = (queueOf s g i).words ++ [⟨w, true, evenParity w true, true, 0⟩] ∧
    (queueOf (pushRT g i w s) g i).lost = (queueOf s g i).lost := by
  simp only [pushRT, if_pos free]
  exact ⟨queueOf_setQueue_words .., queueOf_setQueue_lost ..⟩

theorem Queue.push_all (q : Queue) (n : Nat) (l : List QWord) : (q.push n l).words ++ (q.push n l).held = q.words ++ q.held ++ l := by
  unfold Queue.push
  split
  next none_held => simp [List.isEmpty_iff.mp none_held]
  · simp

theorem Queue.push_fits (q : Queue) (n : Nat) (l : List QWord) (fits : q.words.length ≤ n) : (q.push n l).words.length ≤ n := by
  unfold Queue.push
  split
  · simp only [List.length_append, List.length_take]
    omega
  · exact fits

/-- Settles O11: an RT queue is cut at its depth, and a BP queue and what its producer holds are one list in order. -/
theorem fullQueuesKeepTheirClass : Obligations.FullQueuesKeepTheirClass := by
  refine ⟨pushRT_full, pushRT_free, fun g i l s => ?_⟩
  intro q
  have words : q.words = ((queueOf s g i).push (qDepth s g) l).words := queueOf_setQueue_words ..
  have held : q.held = ((queueOf s g i).push (qDepth s g) l).held := queueOf_setQueue_held ..
  rw [words, held]
  exact ⟨Queue.push_all .., Queue.push_fits _ _ l⟩

end Sys2Proof.Machine
end

section
/-! PROOFS. The reaction to a fault message (R492 to R498, R500, R515). -/

namespace Sys2Proof.Machine

/-! ### The fence of an engine that waits to enter -/

/-- Mulch engine 1 is fenced, and engine 0, which is not, still stands among the engines that enter at the next item. -/
def engineWaiting : State := { State.reset with fcl := { fenced := BitVec.ofNat 90 (2 ^ 0x59) }, mcd := { waits := [0] } }

/-- A contained message that names Mulch engine 0. -/
def engineFails : FaultMsg := ⟨0, 0x0F, .contained, 0, 240, 0⟩

theorem engineFails_unfences : isFenced (onFaultMessage engineFails engineWaiting) 0x58 = false := by decide +kernel

/-- Refutes O14: the fence of the second Mulch engine begins the passing of whole items (R315), at which every engine that
waits enters again; an engine that waits although it was not fenced is fenced and at once unfenced by the same message. -/
theorem not_faultMessagesReactByClass : ¬ Obligations.FaultMessagesReactByClass := by
  unfold Obligations.FaultMessagesReactByClass
  intro ⟨_, _, contained, _⟩
  obtain ⟨t, ends, fenced, -⟩ := contained engineWaiting engineFails 0x58 (by decide) rfl (by decide) (by decide)
  rw [eq_of_exec (u := onFaultMessage engineFails engineWaiting) rfl ends, engineFails_unfences] at fenced
  exact Bool.false_ne_true fenced

/-! ### The log and the fatal state (R497, R498, R515) -/

/-- The bits of every part but the fences and the class states. -/
def besideFaultState : Nat := 281474976710655 - 2 ^ 41 - 2 ^ 45

/-- What a message that is next has done before its class decides: it has left the way, is counted and logged. -/
def messageTaken (m : FaultMsg) (s : State) : State :=
  logMsg m (countMsg m { s with fcl := { s.fcl with inFlight := s.fcl.inFlight.erase m } })

theorem onFaultMessage_of_next {m : FaultMsg} {s : State} (next : msgNext m s = true) :
    onFaultMessage m s = match m.cls with
      | .corrected => messageTaken m s
      | .contained => reactContained m (messageTaken m s)
      | .fatal => reactFatal m (messageTaken m s) := by
  simp only [onFaultMessage, next, Bool.not_true, Bool.false_eq_true, if_false]
  rfl

/-- The bits of every part but the log. -/
def besideLog : Nat := 281474976710655 - 2 ^ 42

theorem messageTaken_log (m : FaultMsg) (s : State) :
    (messageTaken m s).fcl.log = Tab.put s.fcl.log (s.fcl.logTotal % 256) ⟨(msgWords m).1, (msgWords m).2⟩ ∧
    (messageTaken m s).fcl.logTotal = s.fcl.logTotal + 1 := by
  have counted : Keeps besideLog { s with fcl := { s.fcl with inFlight := s.fcl.inFlight.erase m } }
      (countMsg m { s with fcl := { s.fcl with inFlight := s.fcl.inFlight.erase m } }) := countMsg_keeps _ (by decide) .rfl'
  obtain ⟨log, total⟩ : _ ∧ _ := counted.same .faultLog (by decide)
  unfold messageTaken logMsg
  extract_lets w _ n _ s1
  have emitted : Keeps besideLog s1 (emitX Src.fcl 0 (curCtx s1) 0 [w.1, w.2] (if 256 ≤ n then bump Reg.FCL_LOG_LOST 1 s1 else s1)) :=
    emitX_keeps _ _ _ _ _ (by decide) (.ite (bump_keeps _ _ (by decide) .rfl') .rfl')
  obtain ⟨log', total'⟩ : _ ∧ _ := emitted.same .faultLog (by decide)
  refine ⟨log'.trans ?_, total'.trans (congrArg (· + 1) total)⟩
  exact congrArg₂ (fun l k => Tab.put l (k % 256) ⟨(msgWords m).1, (msgWords m).2⟩) log total

/-- The reaction to a message does not touch the log. -/
theorem onFaultMessage_log {m : FaultMsg} {s : State} (next : msgNext m s = true) :
    (onFaultMessage m s).fcl.log = Tab.put s.fcl.log (s.fcl.logTotal % 256) ⟨(msgWords m).1, (msgWords m).2⟩ ∧
    (onFaultMessage m s).fcl.logTotal = s.fcl.logTotal + 1 := by
  have reacted : Keeps besideLog (messageTaken m s) (onFaultMessage m s) := by
    rw [onFaultMessage_of_next next]
    cases m.cls
    · exact .rfl'
    · exact reactContained_keeps m (by decide) .rfl'
    · exact reactFatal_keeps m (by decide) .rfl'
  obtain ⟨log, total⟩ : _ ∧ _ := reacted.same .faultLog (by decide)
  obtain ⟨log', total'⟩ := messageTaken_log m s
  exact ⟨log.trans log', total.trans total'⟩

/-- A message that is next leaves the class states and the clears as they were until its class decides. -/
theorem messageTaken_state (m : FaultMsg) (s : State) :
    (messageTaken m s).fcl.fatal = s.fcl.fatal ∧ (messageTaken m s).fcl.clears = s.fcl.clears := by
  have taken : Keeps besideFaultState { s with fcl := { s.fcl with inFlight := s.fcl.inFlight.erase m } } (messageTaken m s) :=
    logMsg_keeps m (by decide) (countMsg_keeps m (by decide) .rfl')
  obtain ⟨fatal, -⟩ : _ ∧ _ := taken.same .faultState (by decide)
  obtain ⟨-, -, -, -, clears⟩ : _ ∧ _ ∧ _ ∧ _ ∧ _ := taken.same .fences (by decide)
  exact ⟨fatal, clears⟩

/-- A fatal message that begins the fatal state is its cause and stops the Cloche. -/
theorem onFaultMessage_fatal {m : FaultMsg} {s : State} (fatal : m.cls = .fatal) (first : s.fcl.fatal = false)
    (after : ∀ c, Tab.look s.fcl.clears 91 = some c → c < m.stamp) :
    (onFaultMessage m s).fcl.fatal = true ∧ (onFaultMessage m s).fcl.fatalStamp = m.stamp ∧
    (onFaultMessage m s).clo.partStop = true := by
  have next : msgNext m s = true := by rw [msgNext, fatal]; rfl
  rw [onFaultMessage_of_next next, fatal]
  dsimp only
  obtain ⟨still, clears⟩ := messageTaken_state m s
  generalize messageTaken m s = u at still clears ⊢
  have news : ¬ ((Tab.look u.fcl.clears 91).any fun c => decide (m.stamp ≤ c)) = true := by
    rw [clears]
    cases look : Tab.look s.fcl.clears 91 with
    | none => exact Bool.false_ne_true
    | some c => exact fun late => absurd (of_decide_eq_true late) (Nat.not_le.mpr (after c look))
  unfold reactFatal
  rw [still, first, if_pos (by decide : (!false) = true), if_neg news]
  extract_lets _ u2
  have stopped : (partStop u2).clo.partStop = true := (lockAll_losesNoStop _).partStop
  have kept1 : Keeps (besideFaultState - 2 ^ 31) (partStop u2) (abandonGraft 4 (orderlyStart (partStop u2))) :=
    abandonGraft_keeps 4 (by decide) (orderlyStart_keeps (by decide) .rfl')
  have kept2 : Keeps besideFaultState u2 (partStop u2) := partStop_keeps (by decide) .rfl'
  obtain ⟨fatal1, -, -, -, -, stamp1, -⟩ : _ ∧ _ ∧ _ ∧ _ ∧ _ ∧ _ ∧ _ := kept1.same .faultState (by decide)
  obtain ⟨fatal2, -, -, -, -, stamp2, -⟩ : _ ∧ _ ∧ _ ∧ _ ∧ _ ∧ _ ∧ _ := kept2.same .faultState (by decide)
  obtain ⟨-, -, -, -, -, -, -, -, stop1, -⟩ : _ ∧ _ ∧ _ ∧ _ ∧ _ ∧ _ ∧ _ ∧ _ ∧ _ ∧ _ := kept1.same .cloche (by decide)
  exact ⟨fatal1.trans fatal2, stamp1.trans stamp2, stop1.trans stopped⟩

/-! ### Memory errors (R495, R502) -/

/-- Settles O50: logging comes before the reaction, which leaves the log alone; a memory error posts its message before it
raises its event. -/
theorem faultCommandsComplete : Obligations.FaultCommandsComplete := by
  refine ⟨fun s m next => completes rfl ?_, fun s m fatal first after => completes rfl (onFaultMessage_fatal fatal first after),
    fun s a uncorr t0 => completes rfl ?_, fun s t0 => completes rfl rfl⟩
  · obtain ⟨log, total⟩ := onFaultMessage_log next
    exact ⟨total, by rw [log, Tab.look_put_same]⟩
  · cases uncorr
    · exact ⟨evtPending_raise .., _, rfl, rfl, rfl⟩
    · exact ⟨evtPending_raise .., _, rfl, rfl, rfl⟩

end Sys2Proof.Machine
end

section
/-! PROOFS. The command ring (R481 to R485): an entry is taken, its command runs and ends with a status. First the rules about
taking an entry and ending its command, then the statements on orders, management commands and refusals. -/

namespace Sys2Proof.Machine

/-! ### The end of a command (R482) -/

/-- The bits of the parts that the end of a command changes: the registers with EVT 312, the vectors and the entry. -/
def endParts : Nat := 2 ^ 0 + 2 ^ 35 + 2 ^ 37

theorem finish_kept (o : Origin) (st : Status) (n : Nat) (s : State) : Keeps endParts s (finish o st n s) :=
  finish_keeps o st n (by decide) .rfl'

theorem finish_clo (o : Origin) (st : Status) (n : Nat) (s : State) : (finish o st n s).clo = s.clo := by
  unfold finish
  split
  · split <;> rfl
  · rfl
  · rfl

theorem finish_fcl (o : Origin) (st : Status) (n : Nat) (s : State) : (finish o st n s).fcl = s.fcl := by
  unfold finish
  split
  · split <;> rfl
  · rfl
  · rfl

theorem finish_sec (o : Origin) (st : Status) (n : Nat) (s : State) : (finish o st n s).sec = s.sec :=
  (finish_kept o st n s).same .sec (by decide)

theorem finish_tae (o : Origin) (st : Status) (n : Nat) (s : State) : (finish o st n s).tae = s.tae :=
  (finish_kept o st n s).same .tae (by decide)

theorem finish_background (o : Origin) (st : Status) (n : Nat) (s : State) : (finish o st n s).hif.background = s.hif.background :=
  (finish_kept o st n s).same .background (by decide)

theorem finish_x8host (o : Origin) (st : Status) (n : Nat) (s : State) : (finish o st n s).qsy.x8host = s.qsy.x8host := by
  obtain ⟨host, -⟩ : _ ∧ _ := (finish_kept o st n s).same .mailboxItems (by decide)
  exact host

theorem finish_cmdCons (o : Origin) (st : Status) (n : Nat) (s : State) : (finish o st n s).hif.cmdCons = s.hif.cmdCons := by
  unfold finish
  split
  · split <;> rfl
  · rfl
  · rfl

theorem finish_pending (o : Origin) (st : Status) (k : Nat) {s : State} {n : Nat} (pending : evtPending s n = true) :
    evtPending (finish o st k s) n = true := by
  unfold finish
  split
  · split
    · exact pending
    · exact evtPending_of_setBits rfl pending
  · exact pending
  · exact pending

/-- A command whose entry stands in the ring is answered when it ends. -/
theorem answered_finish {s t : State} (st : Status) (n : Nat) (entry : (Tab.look t.hif.cmds (nextKey s)).isSome = true) :
    Answered s st (finish (.host (nextKey s)) st n t) := by
  obtain ⟨r, entry⟩ := Option.isSome_iff_exists.mp entry
  refine ⟨{ r with done := true, status := st.code, result := n, finished := now t }, ?_, rfl, rfl⟩
  simp only [finish, entry]
  exact Tab.look_put_same ..

/-! ### Taking an entry (R482) -/

/-- The state in which the entry is taken: time has passed, the entry is not done and CONS has moved on. -/
def taken (e : Entry) (code : Nat) (s : State) : State := (takeEntry e code s).1

theorem taken_entry (e : Entry) (code : Nat) (s : State) : Tab.look (taken e code s).hif.cmds (nextKey s) =
    some ⟨e.hostTag.toNat, code, false, 0, 0, now (advance e.taken s), 0⟩ := Tab.look_put_same ..

theorem taken_holds (e : Entry) (code : Nat) (s : State) : (Tab.look (taken e code s).hif.cmds (nextKey s)).isSome = true := by
  rw [taken_entry, Option.isSome_some]

theorem hostCommand_part {e : Entry} {code : Nat} {body : Origin → State → State} {s : State} (free : s.hif.grafting = none)
    (part : e.scope = false) : hostCommand e code body s = body (.host (nextKey s)) (taken e code s) := by
  simp only [hostCommand, free, part, Option.isSome_none, Bool.false_eq_true, if_false, Bool.false_and]
  rfl

theorem relayOrder_part {e : Entry} (part : e.scope = false) (code : Nat) (args : List Byte) (f : Nat) (o : Origin) (s : State) :
    relayOrder e code args f o s = s := by
  rw [relayOrder, part, Bool.false_and, if_neg Bool.false_ne_true]

/-- An order for this part runs with the frame its entry names. -/
theorem hostOrder_part {e : Entry} {x : OrderArgs} {args : List Byte} {s : State} (free : s.hif.grafting = none)
    (part : e.scope = false) : hostOrder e x args s =
      runOrder (.host (nextKey s)) x (e.frame.map (·.toNat)) 0 (now (taken e x.code s)) (taken e x.code s) := by
  have frame : entryFrame (taken e x.code s) e x = e.frame.map (·.toNat) := by
    cases named : e.frame <;> simp [entryFrame, named, part]
  rw [hostOrder, hostCommand_part free part]
  simp only [relayOrder_part part, frame, part, ite_self]
  rfl

/-- A plain order runs at once. -/
theorem hostOrder_plain {e : Entry} {x : OrderArgs} {args : List Byte} {s : State} (plain : PlainEntry e s) : hostOrder e x args s =
    runOrder (.host (nextKey s)) x none 0 (now (taken e x.code s)) (taken e x.code s) := by
  obtain ⟨free, part, unnamed⟩ := plain
  rw [hostOrder_part free part, unnamed]
  rfl

theorem hostManage_part {e : Entry} {code : Nat} {args : List Byte} {body : Origin → State → State} {s : State}
    (free : s.hif.grafting = none) (part : e.scope = false) :
    hostManage e code args body s = body (.host (nextKey s)) (taken e code s) := by
  rw [hostManage, hostCommand_part free part]
  exact relayOrder_part part ..

theorem hostManage_plain {e : Entry} {code : Nat} {args : List Byte} {body : Origin → State → State} {s : State} (plain : PlainEntry e s) :
    hostManage e code args body s = body (.host (nextKey s)) (taken e code s) := by
  obtain ⟨free, part, -⟩ := plain
  exact hostManage_part free part

/-! ### Background commands (R482) -/

theorem runInBack_begins {o : Origin} {job : Background} {s : State} (free : s.hif.background = none) :
    (runInBack o none job s).hif.background = some (o, job) := by
  simp only [runInBack, free, Option.isSome_none, Bool.false_eq_true, if_false]
  rfl

theorem runInBack_refused {o : Origin} {st : Status} {job : Background} {s : State} (free : s.hif.background = none) :
    runInBack o (some st) job s = finish o st 0 s := by
  simp only [runInBack, free, Option.isSome_none, Bool.false_eq_true, if_false]

theorem runInBack_busy {o : Origin} {st : Option Status} {job : Background} {s : State} {b : Origin × Background}
    (runs : s.hif.background = some b) : runInBack o st job s = finish o .busy 0 s := by
  simp only [runInBack, runs, Option.isSome_some, if_true]

/-! ### Orders (R483, R484) -/

theorem runOrder_nop (o : Origin) (a b : Nat) (f : Option Nat) (scope : Nat) (t : Tick) (s : State) :
    runOrder o ⟨0x0001, a, b⟩ f scope t s = orderAt o ⟨0x0001, a, b⟩ f scope t (finish o .ok 0) s := by
  simp [runOrder, isCapCode]

theorem runOrder_planSelect (o : Origin) (a b : Nat) (f : Option Nat) (scope : Nat) (t : Tick) (s : State) :
    runOrder o ⟨0x0101, a, b⟩ f scope t s = planOrder o a b f scope t s :=
  if_pos rfl

theorem runOrder_trigger (o : Origin) (u : Nat) (f : Option Nat) (scope : Nat) (t : Tick) (s : State) :
    runOrder o ⟨0x0201, u, 0⟩ f scope t s = triggerOrder o ⟨0x0201, u, 0⟩ f scope t s := by
  simp [runOrder]

/-- A capture order of a unit that the image holds runs at once without a frame. -/
theorem runOrder_capture {o : Origin} {code u scope : Nat} {t : Tick} {s : State} (capture : isCapCode code = true) (other : code ≠ 0x0201)
    (known : (unitRec s u).isSome = true) : runOrder o ⟨code, u, 0⟩ none scope t s = capOrder o code u 0 s := by
  have notPlan : code ≠ 0x0101 := by rintro rfl; exact absurd capture (by decide)
  have notFlush : code ≠ 0x0102 := by rintro rfl; exact absurd capture (by decide)
  simp only [runOrder, notPlan, notFlush, other, capture, if_true, if_false, Option.isNone_eq_false_iff.mpr known, orderAt,
    Bool.false_eq_true]

theorem runOrder_faultClear (o : Origin) (a b scope : Nat) (t : Tick) (s : State) :
    runOrder o ⟨0x0301, a, b⟩ none scope t s = faultClear o (a + 256 * b) s := by
  simp [runOrder, isCapCode, orderAt, OrderArgs.word]

theorem runOrder_graft (o : Origin) (a b scope : Nat) (t : Tick) (s : State) :
    runOrder o ⟨0x0302, a, b⟩ none scope t s = graftBegin o (a + 256 * b) s := by
  simp [runOrder, isCapCode, orderAt, OrderArgs.word]

/-- A frame is ahead of the one in progress by 1 to 2^23 - 1 (R483). -/
theorem judgeFrame_eq (c : TagCtx) (f : Nat) (d : Nat)
    (ahead : d = (f + (16777216 - if c.begun then c.frame % 16777216 else 16777215)) % 16777216) :
    judgeFrame c f = if d = 8388608 then .limit else if 1 ≤ d ∧ d < 8388608 then .ahead else .late := by
  subst ahead
  simp only [judgeFrame, Nat.reducePow, Nat.add_one_sub_one, Bool.and_eq_true, decide_eq_true_eq]

/-! ### Commands that cannot run (R483, R485) -/

theorem nop_of_frame (s : State) (e : Entry) (f : BitVec 24) (free : s.hif.grafting = none) (part : e.scope = false)
    (named : e.frame = some f) :
    let c := ctxOf s (sharedDom s)
    let d := (f.toNat + (16777216 - if c.begun then c.frame % 16777216 else 16777215)) % 16777216
    let t := onNop e s
    (d = 0 ∨ 8388608 < d → Answered s .late t) ∧ (d = 8388608 → Answered s .limit t) ∧
      (1 ≤ d → d < 8388608 → t.hif.deferred.length = s.hif.deferred.length + 1 ∧
        ∃ r, Tab.look t.hif.cmds (nextKey s) = some r ∧ r.done = false) := by
  intro c d t
  have judged : t = match judgeFrame c f.toNat with
      | .ahead => orderWaits (.host (nextKey s)) ⟨0x0001, 0, 0⟩ f.toNat 0 (now (taken e 1 s)) (taken e 1 s)
      | .late => finish (.host (nextKey s)) .late 0 (taken e 1 s)
      | .limit => finish (.host (nextKey s)) .limit 0 (taken e 1 s) := by
    show hostOrder e ⟨0x0001, 0, 0⟩ [] s = _
    rw [hostOrder_part free part, runOrder_nop, named]
    rfl
  rw [judgeFrame_eq c f.toNat d rfl] at judged
  refine ⟨fun behind => ?_, fun half => ?_, fun least most => ?_⟩
  · rw [judged, if_neg (by omega), if_neg (by omega)]
    exact answered_finish _ _ (taken_holds ..)
  · rw [judged, if_pos half]
    exact answered_finish _ _ (taken_holds ..)
  · rw [judged, if_neg (by omega), if_pos ⟨least, most⟩]
    exact ⟨List.length_append, _, taken_entry .., rfl⟩

theorem graftBegin_refused {k u : Nat} {st : Status} {s : State} (refused : graftRefused s u = some st) :
    graftBegin (.host k) u s = finish (.host k) st 0 { s with hif := { s.hif with grafting := none } } := by
  simp only [graftBegin, refused]

theorem graftRefused_taken (e : Entry) (code u : Nat) (s : State) : graftRefused (taken e code s) u = graftRefused s u := by
  unfold graftRefused
  rfl

theorem word_of_bytes (x : BitVec 16) : x.toNat % 256 + 256 * (x.toNat / 256) = x.toNat := Nat.mod_add_div ..

/-- GRAFT at once with the unit of its two argument bytes. -/
theorem onGraft_plain {e : Entry} {unit : BitVec 16} {s : State} (plain : PlainEntry e s) :
    onGraft e unit s = graftBegin (.host (nextKey s)) unit.toNat (taken e 0x0302 s) := by
  rw [onGraft, hostOrder_plain plain, runOrder_graft, word_of_bytes]

/-- Settles O15: the entry is taken with its result not done, and each command that cannot run ends it at once with the status of
its case; a NOP that names a frame ahead waits with the orders of later frames. -/
theorem commandsEndAsTheSpecSays : Obligations.CommandsEndAsTheSpecSays := by
  unfold Obligations.CommandsEndAsTheSpecSays
  refine ⟨fun s e f free part named => completes rfl (nop_of_frame s e f free part named), fun s e free wide single => ?_,
    fun s e fibre plan plain beyond => ?_, fun s e plan plain lidar missing => ?_, fun s e unit plain missing => ?_,
    fun s e unit st plain refused => ?_, fun s e slot bytes b plain small present fits idle runs => ?_,
    fun s e ar slot hash plain free slotOk outside => ?_, fun s e len pw plain mode locked => ?_⟩
  · refine completes rfl ?_
    have refused : onNop e s = finish (.host (nextKey s)) .state 0 (taken e 1 s) := by
      have single' : leadsChain (takeEntry e 1 s).1 = false := single
      simp only [onNop, hostOrder, hostCommand, free, wide, single', Option.isSome_none, Bool.false_eq_true, if_false,
        Bool.not_false, Bool.and_self, if_true]
      rfl
    rw [refused]
    exact answered_finish _ _ (taken_holds ..)
  · refine completes rfl ?_
    rw [onPlanSelect, hostOrder_plain plain, runOrder_planSelect, planOrder, if_pos beyond]
    exact ⟨answered_finish _ _ (taken_holds ..), finish_x8host ..⟩
  · refine completes rfl ?_
    have lidar' : hasLidar (taken e 0x0101 s) = true := lidar
    have missing' : planExists (taken e 0x0101 s) false plan.toNat = false := missing
    have refused : onPlanSelect e 0 plan s = finish (.host (nextKey s)) .limit 0 (taken e 0x0101 s) := by
      rw [onPlanSelect, hostOrder_plain plain, runOrder_planSelect]
      simp [planOrder, lidar', missing']
    rw [refused]
    exact ⟨answered_finish _ _ (taken_holds ..), finish_x8host ..⟩
  · refine completes rfl ?_
    have missing' : unitRec (taken e 0x0203 s) unit.toNat = none := missing
    have refused : onCaptureRead e unit s = finish (.host (nextKey s)) .limit 0 (taken e 0x0203 s) := by
      rw [onCaptureRead, hostOrder_plain plain]
      simp [runOrder, isCapCode, missing']
    rw [refused]
    exact answered_finish _ _ (taken_holds ..)
  · refine completes rfl ?_
    rw [onGraft_plain plain, graftBegin_refused ((graftRefused_taken ..).trans refused)]
    exact ⟨answered_finish _ _ (taken_holds ..), congrArg (·.graft) (finish_fcl ..)⟩
  · refine completes rfl ?_
    have runs' : (taken e 0x0601 s).hif.background = some b := runs
    rw [onImgWrite, hostManage_plain plain, imgWrite, runInBack_busy runs']
    exact ⟨answered_finish _ _ (taken_holds ..), (finish_background ..).trans runs'⟩
  · refine completes rfl ?_
    have free' : (taken e 0x0501 s).hif.background = none := free
    have outside' : inSession (taken e 0x0501 s) = false := outside
    rw [onSecKeyProgram, hostManage_plain plain, keyProgram]
    simp only [slotOk, outside', Bool.false_eq_true, if_false, Bool.not_false, if_true]
    rw [runInBack_refused free']
    exact ⟨answered_finish _ _ (taken_holds ..), (finish_background ..).trans free'⟩
  · refine completes rfl ?_
    have mode' : commissioning (taken e 0x0401 s) = true := mode
    have locked' : (taken e 0x0401 s).clo.pwLock ≠ 0 := locked
    have refused : onCloLogin e len pw s = finish (.host (nextKey s)) .locked 0 (taken e 0x0401 s) := by
      rw [onCloLogin, hostManage_plain plain]
      simp only [cloLogin, mode', Bool.not_true, Bool.false_eq_true, if_false, if_pos locked']
    rw [refused]
    exact ⟨answered_finish _ _ (taken_holds ..), congrArg (·.session) (finish_clo ..)⟩

end Sys2Proof.Machine
end

section
/-! PROOFS. Orders and management commands of the ring that run at once (R484, R504 to R508, R419 to R422, R446 to R449,
R455 to R457). -/

namespace Sys2Proof.Machine

/-! ### Capture units (R220 to R237) -/

theorem unitOf_of_tae {s t : State} (tae : t.tae = s.tae) (u : Nat) : unitOf t u = unitOf s u := by rw [unitOf, tae, unitOf]

theorem unitOf_finish (o : Origin) (st : Status) (n u : Nat) (s : State) : unitOf (finish o st n s) u = unitOf s u :=
  unitOf_of_tae (finish_tae o st n s) u

theorem unitOf_dropCoding (u : Nat) (s : State) : unitOf (dropCoding u s) u = { unitOf s u with toCode := [], coded := [] } := by
  unfold dropCoding
  extract_lets released
  have kept : Keeps (2 ^ 19 + 2 ^ 20) s released :=
    Keeps.foldl (fun t e h => .ite (releaseEngine_keeps e (by decide) h) h) .rfl'
  have same : unitOf released u = unitOf s u := unitOf_of_tae (kept.same .tae (by decide)) u
  exact (unitOf_setUnit ..).trans (congrArg (fun x : CapUnit => { x with toCode := [], coded := [] }) same)

theorem capLeave_eq {u : Nat} {s : State} {r : ImgRec} (known : unitRec s u = some r) :
    ∃ (stop : Bool) (x : CapUnit), x.state = (if stop then 5 else 1) ∧ capLeave u s =
      if stop then stick Reg.TAE_STICKY 2 (raise 186 (dropCoding u (setUnit u x s))) else dropCoding u (setUnit u x s) := by
  simp only [capLeave, known]
  exact ⟨_, _, rfl, rfl⟩

theorem unitOf_capLeave {u : Nat} {s : State} {r : ImgRec} (known : unitRec s u = some r) :
    (unitOf (capLeave u s) u).state = 1 ∨ (unitOf (capLeave u s) u).state = 5 := by
  obtain ⟨stop, x, state, left⟩ := capLeave_eq known
  have dropped : (unitOf (dropCoding u (setUnit u x s)) u).state = x.state := by rw [unitOf_dropCoding, unitOf_setUnit]
  rw [left]
  cases stop
  · exact .inl (dropped.trans state)
  · exact .inr (dropped.trans state)

theorem precedes_self (a : Nat) : precedes a a = false := by
  have none_between : (a + (16777216 - a % 16777216)) % 16777216 = 0 := by omega
  simp [precedes, none_between]
/-! ### Orders that run at once (R484) -/

/-- A capture order of a unit that the image holds (R220 to R237). -/
theorem hostOrder_capture {e : Entry} {code : Nat} {unit : Byte} {args : List Byte} {s : State} (plain : PlainEntry e s)
    (capture : isCapCode code = true) (other : code ≠ 0x0201) (known : (unitRec s unit.toNat).isSome = true) :
    hostOrder e ⟨code, unit.toNat, 0⟩ args s = capOrder (.host (nextKey s)) code unit.toNat 0 (taken e code s) := by
  have known' : (unitRec (taken e code s) unit.toNat).isSome = true := known
  rw [hostOrder_plain plain, runOrder_capture capture other known']

theorem capAbort_armed {o : Origin} {u : Nat} {s : State} (known : (unitRec s u).isSome = true) (fits : (unitOf s u).noFit = false)
    (armed : (unitOf s u).state = 1) :
    capAbort o u s = finish o .ok 0 (dropCoding u (setUnit u { unitOf s u with state := 0, ring := [] } s)) := by
  obtain ⟨r, known⟩ := Option.isSome_iff_exists.mp known
  simp only [capAbort, known, fits, armed, Bool.false_eq_true, if_false, if_true]

theorem capRead_held {o : Origin} {u : Nat} {s : State} (known : (unitRec s u).isSome = true) (fits : (unitOf s u).noFit = false)
    (held : (unitOf s u).state = 3) : capRead o u s = setUnit u { unitOf s u with state := 4, readBy := some o } s := by
  simp only [capRead, Option.isNone_eq_false_iff.mpr known, fits, held, decide_true, Bool.not_false, Bool.and_self,
    Bool.false_eq_true, if_false, if_true]

theorem capRelease_held {o : Origin} {u : Nat} {s : State} (known : (unitRec s u).isSome = true)
    (fits : (unitOf s u).noFit = false) (held : (unitOf s u).state = 3) : capRelease o u s = finish o .ok 0 (capLeave u s) := by
  simp only [capRelease, Option.isNone_eq_false_iff.mpr known, fits, held, decide_true, Bool.not_false, Bool.and_self,
    Bool.false_eq_true, if_false, if_true]

theorem capRearm_idle {o : Origin} {u : Nat} {s : State} (known : (unitRec s u).isSome = true) (fits : (unitOf s u).noFit = false)
    (idle : (unitOf s u).state = 0 ∨ (unitOf s u).state = 5) :
    capRearm o u s = finish o .ok 0 (dropCoding u (setUnit u { unitOf s u with state := 1, ring := [], auto := 0 } s)) := by
  have runs : (decide ((unitOf s u).state = 0) || decide ((unitOf s u).state = 5)) = true := by
    rw [Bool.or_eq_true, decide_eq_true_eq, decide_eq_true_eq]
    exact idle
  simp only [capRearm, Option.isNone_eq_false_iff.mpr known, fits, runs, Bool.not_false, Bool.and_self, Bool.false_eq_true,
    if_false, if_true]

/-- The entry stays while a command changes parts beside the mailbox. -/
theorem entry_of_mailbox {e : Entry} {code : Nat} {s t : State} (same : t.hif.cmds = (taken e code s).hif.cmds) :
    (Tab.look t.hif.cmds (nextKey s)).isSome = true := by
  rw [same]
  exact taken_holds e code s

theorem dropCoding_cmds (u : Nat) (s : State) : (dropCoding u s).hif.cmds = s.hif.cmds := by
  obtain ⟨-, -, cmds, -⟩ := (dropCoding_keeps u (w := 281474976710655 - 2 ^ 37) (by decide) (.rfl' (s := s))).same .mailbox (by decide)
  exact cmds

theorem capLeave_cmds (u : Nat) (s : State) : (capLeave u s).hif.cmds = s.hif.cmds := by
  obtain ⟨-, -, cmds, -⟩ := (capLeave_keeps u (w := 281474976710655 - 2 ^ 37) (by decide) (.rfl' (s := s))).same .mailbox (by decide)
  exact cmds

theorem capName_next {o : Origin} {u : Nat} {s : State} : capName o u (unitOf s u).nextF s = finish o .ok 0
    (setUnit u { unitOf s u with names := (unitOf s u).names ++ [((unitOf s u).nextF % 2 ^ 24, 16)] } s) := by
  simp only [capName, precedes_self, Bool.false_eq_true, if_false]

theorem onCaptureTrigger_plain {e : Entry} {unit : Byte} {s : State} (plain : PlainEntry e s)
    (accepted : capTrigCheck s unit.toNat = none) :
    onCaptureTrigger e unit s =
      capName (.host (nextKey s)) unit.toNat (unitOf (taken e 0x0201 s) unit.toNat).nextF (taken e 0x0201 s) := by
  have accepted' : capTrigCheck (taken e 0x0201 s) unit.toNat = none := accepted
  rw [onCaptureTrigger, hostOrder_plain plain, runOrder_trigger]
  simp only [triggerOrder, accepted']

theorem onNop_plain {e : Entry} {s : State} (plain : PlainEntry e s) :
    onNop e s = finish (.host (nextKey s)) .ok 0 (taken e 0x0001 s) := by
  rw [onNop, hostOrder_plain plain, runOrder_nop]
  rfl

theorem onPlanSelect_lidar {e : Entry} {plan : Byte} {s : State} (plain : PlainEntry e s) (lidar : hasLidar s = true)
    (held : planExists s false plan.toNat = true) (room : x8Full s = false) : onPlanSelect e 0 plan s = x8Post
      ⟨1, 0, plan.toNat, Src.hif, 0, .lidar, .host (nextKey s), now (advance e.taken s)⟩ (taken e 0x0101 s) := by
  have lidar' : hasLidar (taken e 0x0101 s) = true := lidar
  have held' : planExists (taken e 0x0101 s) false plan.toNat = true := held
  have room' : x8Full (taken e 0x0101 s) = false := room
  rw [onPlanSelect, hostOrder_plain plain, runOrder_planSelect]
  simp [planOrder, lidar', held', room', domOf, b2n]
  rfl

theorem onFlush_plain {e : Entry} {src stream : Byte} {s : State} (plain : PlainEntry e s) (first : 1 ≤ src.toNat)
    (last : src.toNat ≤ 0x17) (known : stream.toNat ≤ 0x3E) (room : x8Full s = false) : onFlush e src stream s = x8Post
      ⟨3, 0, stream.toNat, src.toNat, 0, srcDom s src.toNat, .host (nextKey s), now (advance e.taken s)⟩ (taken e 0x0102 s) := by
  have room' : x8Full (taken e 0x0102 s) = false := room
  have inside : (decide (src.toNat = 0) || decide (0x17 < src.toNat) || decide (0x3E < stream.toNat)) = false := by
    simp only [Bool.or_eq_false_iff, decide_eq_false_iff_not]
    omega
  rw [onFlush, hostOrder_plain plain]
  simp [runOrder, flushOrder, inside, orderAt, room']
  rfl

theorem onFaultClear_plain {e : Entry} {sel : BitVec 16} {s : State} (plain : PlainEntry e s) :
    onFaultClear e sel s = faultClear (.host (nextKey s)) sel.toNat (taken e 0x0301 s) := by
  rw [onFaultClear, hostOrder_plain plain, runOrder_faultClear, word_of_bytes]

theorem faultClear_contained {o : Origin} {s : State} (runs : s.boot.step ≠ 15) (contained : s.fcl.contained = true) :
    ∃ n t, faultClear o 1 s = finish o .ok n t ∧ t.hif.cmds = s.hif.cmds ∧ t.fcl.contained = false := by
  simp only [faultClear, runs, contained, if_false, if_true, one_ne_zero]
  exact ⟨_, _, rfl, rfl, rfl⟩

theorem faultClear_fatal {o : Origin} {s : State} (runs : s.boot.step ≠ 15) (fatal : s.fcl.fatal = true) : ∃ n t,
    faultClear o 0 s = finish o .ok n t ∧ t.hif.cmds = s.hif.cmds ∧ t.fcl.provisional = true ∧ t.fcl.fatal = true := by
  simp only [faultClear, runs, fatal, if_false, if_true]
  exact ⟨_, _, rfl, rfl, rfl, rfl⟩

/-! ### GRAFT (R507, R508) -/

/-- From `s` to `t` the graft that runs and what the mailbox holds are the same. -/
structure SameGraft (s t : State) : Prop where
  graft : t.fcl.graft = s.fcl.graft
  held  : t.hif.grafting = s.hif.grafting

theorem SameGraft.of_keeps {w : Nat} {s t : State} (kept : Keeps w s t) (graft : w.testBit Part.grafting.bit = false)
    (mailbox : w.testBit Part.mailbox.bit = false) : SameGraft s t := by
  obtain ⟨graft, -⟩ := kept.same .grafting graft
  obtain ⟨-, -, -, held, -⟩ := kept.same .mailbox mailbox
  exact ⟨graft, held⟩

theorem graftBegin_runs {k u : Nat} {s : State} (ready : graftRefused s u = none) :
    (graftBegin (.host k) u s).fcl.graft = some ⟨u, .host k, false⟩ ∧ (graftBegin (.host k) u s).hif.grafting = some (k, u) := by
  unfold graftBegin
  rw [ready]
  dsimp only
  have cycle (t : State) : SameGraft t (startCycle u .graft (now t) (biasEnable u true t)) :=
    .of_keeps (w := 2 ^ 0 + 2 ^ 7 + 2 ^ 9) (startCycle_keeps _ _ _ (by decide) (biasEnable_keeps _ _ (by decide) .rfl'))
      (by decide) (by decide)
  have pair (t : State) : SameGraft t (pairGraft ((u - 0x40) / 2) (now t) t) :=
    .of_keeps (w := 2 ^ 12) (pairGraft_keeps _ _ (by decide) .rfl') (by decide) (by decide)
  split
  · exact ⟨(cycle _).graft, (cycle _).held⟩
  · split
    · exact ⟨rfl, rfl⟩
    · split
      · exact ⟨(pair _).graft, (pair _).held⟩
      · split <;> exact ⟨rfl, rfl⟩

theorem graftSelftest_passed {s : State} {t0 : Tick} {g : GraftRun} (runs : s.fcl.graft = some g) (open_ : g.passed = false)
    (unit : g.unit < 0x48) (ok : graftTestOk s g.unit = true) :
    (onGraftSelftestDone true t0 s).fcl.graft = some { g with passed := true } := by
  have runs' : (advance t0 s).fcl.graft = some g := runs
  have ok' : graftTestOk (advance t0 s) g.unit = true := ok
  have notEngine : ¬ 0x58 ≤ g.unit := by omega
  have notLane : (decide (0x48 ≤ g.unit) && decide (g.unit < 0x50)) = false := by simp; omega
  simp only [onGraftSelftestDone, runs', open_, ok', notEngine, notLane, Bool.false_eq_true, if_false, Bool.not_true, Bool.and_false,
    if_true]
  obtain ⟨graft, -⟩ := (unitItem_keeps 6 g.unit (w := 281474976710655 - 2 ^ 43) (by decide)
    (emptyOwn_keeps g.unit (by decide) (.rfl' (s := { advance t0 s with fcl := { (advance t0 s).fcl with
      graft := some { g with passed := true } } })))).same .grafting (by decide)
  exact graft

theorem graftSelftest_failed {s : State} {t0 : Tick} {g : GraftRun} (runs : s.fcl.graft = some g) (open_ : g.passed = false) :
    let t := onGraftSelftestDone false t0 s
    t.fcl.graft = none ∧ t.fcl.graftResult = 2 ∧ t.hif.grafting = none := by
  intro t
  have runs' : (advance t0 s).fcl.graft = some g := runs
  have stopped : SameGraft (advance t0 s) (graftStops g.unit (advance t0 s)) :=
    .of_keeps (w := 281474976710655 - 2 ^ 43 - 2 ^ 37) (graftStops_keeps _ (by decide) .rfl') (by decide) (by decide)
  have ended : t = graftEnd 2 .verify (graftStops g.unit (advance t0 s)) := by
    show onGraftSelftestDone false t0 s = _
    simp only [onGraftSelftestDone, runs', open_, Bool.false_eq_true, if_false, Bool.false_and]
  clear_value t
  subst ended
  generalize graftStops g.unit (advance t0 s) = u at stopped
  have runs2 : u.fcl.graft = some g := stopped.graft.trans runs'
  unfold graftEnd
  rw [runs2]
  dsimp only
  refine ⟨congrArg (·.graft) (finish_fcl ..), congrArg (·.graftResult) (finish_fcl ..), ?_⟩
  unfold finish
  split
  · split <;> rfl
  · rfl
  · rfl

/-- Settles O45: the entry is taken, and the order that is due at once is the model's own of that name. -/
theorem ringOrdersComplete : Obligations.RingOrdersComplete := by
  unfold Obligations.RingOrdersComplete
  refine ⟨fun s e plain => ?_, fun s e plan plain lidar held room => ?_, fun s e src stream plain first last known room => ?_,
    fun s e unit plain accepted => ?_, fun s e unit plain known fits armed => ?_, fun s e unit plain known fits held => ?_,
    fun s e unit plain known fits held => ?_, fun s e unit plain known fits idle => ?_, fun s e plain runs contained => ?_,
    fun s e plain runs fatal => ?_, fun s e unit plain ready => ?_, fun s t0 g runs open_ unit ok => ?_,
    fun s t0 g runs open_ => ?_⟩
  · refine completes rfl ?_
    rw [onNop_plain plain]
    exact ⟨answered_finish _ _ (taken_holds ..), finish_cmdCons ..⟩
  · refine completes rfl ?_
    rw [onPlanSelect_lidar plain lidar held room]
    rfl
  · refine completes rfl ?_
    rw [onFlush_plain plain first last known room]
    rfl
  · refine completes rfl ?_
    rw [onCaptureTrigger_plain plain accepted, capName_next]
    refine ⟨answered_finish _ _ (taken_holds e 0x0201 s), ?_⟩
    rw [unitOf_finish, unitOf_setUnit]
    rfl
  · refine completes rfl ?_
    have ran : onCaptureAbort e unit s = capAbort (.host (nextKey s)) unit.toNat (taken e 0x0202 s) :=
      hostOrder_capture plain (by decide) (by decide) known
    rw [ran, capAbort_armed (s := taken e 0x0202 s) known fits armed]
    refine ⟨answered_finish _ _ (entry_of_mailbox (dropCoding_cmds ..)), ?_⟩
    rw [unitOf_finish, unitOf_dropCoding, unitOf_setUnit]
    exact ⟨rfl, rfl⟩
  · refine completes rfl ?_
    have ran : onCaptureRead e unit s = capRead (.host (nextKey s)) unit.toNat (taken e 0x0203 s) :=
      hostOrder_capture plain (by decide) (by decide) known
    rw [ran, capRead_held (s := taken e 0x0203 s) known fits held, unitOf_setUnit]
    exact ⟨rfl, rfl⟩
  · refine completes rfl ?_
    have ran : onCaptureRelease e unit s = capRelease (.host (nextKey s)) unit.toNat (taken e 0x0204 s) :=
      hostOrder_capture plain (by decide) (by decide) known
    rw [ran, capRelease_held (s := taken e 0x0204 s) known fits held, unitOf_finish]
    obtain ⟨r, known⟩ := Option.isSome_iff_exists.mp known
    exact ⟨answered_finish _ _ (entry_of_mailbox (capLeave_cmds ..)), unitOf_capLeave (r := r) known⟩
  · refine completes rfl ?_
    have ran : onCaptureRearm e unit s = capRearm (.host (nextKey s)) unit.toNat (taken e 0x0205 s) :=
      hostOrder_capture plain (by decide) (by decide) known
    rw [ran, capRearm_idle (s := taken e 0x0205 s) known fits idle, unitOf_finish, unitOf_dropCoding, unitOf_setUnit]
    exact ⟨answered_finish _ _ (entry_of_mailbox (dropCoding_cmds ..)), rfl⟩
  · refine completes rfl ?_
    obtain ⟨n, t, ran, cmds, cleared⟩ :=
      faultClear_contained (o := .host (nextKey s)) (s := taken e 0x0301 s) runs contained
    have ran : onFaultClear e 1 s = finish (.host (nextKey s)) .ok n t := (onFaultClear_plain plain).trans ran
    rw [ran, finish_fcl]
    exact ⟨answered_finish _ _ (entry_of_mailbox cmds), cleared⟩
  · refine completes rfl ?_
    obtain ⟨n, t, ran, cmds, provisional, still⟩ :=
      faultClear_fatal (o := .host (nextKey s)) (s := taken e 0x0301 s) runs fatal
    have ran : onFaultClear e 0 s = finish (.host (nextKey s)) .ok n t := (onFaultClear_plain plain).trans ran
    rw [ran, finish_fcl]
    exact ⟨answered_finish _ _ (entry_of_mailbox cmds), provisional, still⟩
  · refine completes rfl ?_
    rw [onGraft_plain plain]
    exact graftBegin_runs ((graftRefused_taken ..).trans ready)
  · exact completes rfl (graftSelftest_passed runs open_ unit ok)
  · exact completes rfl (graftSelftest_failed runs open_)

/-! ### Management commands (R419 to R422, R446 to R449, R455 to R457) -/

theorem cloLogin_first {o : Origin} {len : Nat} {pw : List Byte} {s : State} (mode : commissioning s = true)
    (unlocked : s.clo.pwLock = 0) (wellFormed : passwordOk len pw = true) (fresh : s.clo.block = []) :
    cloLogin o len pw s = finish o .ok 0 (raise 309 { s with clo := { s.clo with
      session := true, sessionAt := s.clo.minutes, failures := 0 } }) := by
  simp only [cloLogin, mode, unlocked, wellFormed, fresh, Bool.not_true, Bool.false_eq_true, if_false, ne_eq,
    not_true_eq_false, List.isEmpty_nil, Bool.true_or, if_true]

theorem sessionTouch_background (s : State) : (sessionTouch s).hif.background = s.hif.background := by
  unfold sessionTouch
  split <;> rfl

theorem cloStage_begins {o : Origin} {bytes : Nat} {s : State} (idle : s.hif.background = none) (session : inSession s = true)
    (fits : bytes ≤ 65536) : (cloStage o 1 bytes s).hif.background = some (o, .cloStage true bytes) := by
  have offered : (decide (1 < 1) || decide (65536 < bytes) || decide (1 = 0) && (blockOffer s).isNone) = false := by
    simpa using fits
  simp only [cloStage, session, offered, Bool.not_true, Bool.false_eq_true, if_false]
  exact runInBack_begins ((sessionTouch_background s).trans idle)

theorem cloCommit_begins {o : Origin} {h len : Nat} {pw : List Byte} {s : State} (idle : s.hif.background = none)
    (session : inSession s = true) (staged : s.clo.staged.isSome = true) :
    (cloCommit o h false len pw s).hif.background = some (o, .cloCommit h false (slice pw 0 len)) := by
  simp only [cloCommit, session, Option.isNone_eq_false_iff.mpr staged, Bool.not_true, Bool.or_self, Bool.false_and,
    Bool.false_eq_true, if_false]
  exact runInBack_begins ((sessionTouch_background s).trans idle)

theorem cloLogout_session {o : Origin} {s : State} (session : inSession s = true) : cloLogout o s =
    finish o .ok 0 (raise 309 { s with clo := { s.clo with session := false, staged := none } }) := if_pos session

theorem keyProgram_begins {o : Origin} {ar slot : Nat} {hash : List Byte} {s : State} (idle : s.hif.background = none)
    (known : noSlot ar slot = false) (session : inSession s = true)
    (empty : emptySlot ((keySlots s (decide (ar = 1))).getD slot []) = true) :
    (keyProgram o ar slot hash s).hif.background = some (o, .keyProgram (decide (ar = 1)) slot (slice hash 0 32)) := by
  simp only [keyProgram, known, session, empty, Bool.not_true, Bool.false_eq_true, if_false]
  exact runInBack_begins idle

theorem revoke_begins {o : Origin} {ar slot : Nat} {s : State} (idle : s.hif.background = none) (known : noSlot ar slot = false)
    (valid : slotRevoked s (decide (ar = 1)) slot = false) (allowed : revokeRefused s (decide (ar = 1)) slot = false) :
    (revoke o ar slot s).hif.background = some (o, .revoke (decide (ar = 1)) slot) := by
  simp only [revoke, known, valid, allowed, Bool.false_eq_true, if_false]
  exact runInBack_begins idle

/-- SEC_CONFIRM with no fault on its way raises the rollback counter to the image's version (R449). -/
theorem secConfirm_clean {o : Origin} {s : State} (late : 11 ≤ s.boot.step) (runs : s.boot.step ≠ 15) (sound : s.fcl.fatal = false)
    (quiet : s.fcl.inFlight = []) : ∃ t, secConfirm o s = finish o .ok 0 t ∧ t.hif.cmds = s.hif.cmds ∧
      t.sec.rollback = max s.sec.rollback s.boot.secVer := by
  have early : ¬ s.boot.step < 11 := by omega
  simp only [secConfirm, early, runs, sound, quiet, List.any_nil, decide_false, Bool.or_self, Bool.false_eq_true, if_false]
  split
  · rename_i raised
    exact ⟨_, rfl, rfl, (max_eq_right raised.le).symm⟩
  · rename_i kept
    exact ⟨_, rfl, rfl, (max_eq_left (not_lt.mp kept)).symm⟩

theorem imgWrite_begins {o : Origin} {slot bytes : Nat} {s : State} (idle : s.hif.background = none) (known : slot ≤ 1)
    (directory : s.boot.dirCopy ≠ 0) (fits : bytes ≤ s.boot.slotSize) (other : s.boot.running ≠ slot + 1) :
    (imgWrite o slot bytes s).hif.background = some (o, .imgWrite (decide (slot = 1)) bytes) := by
  simp only [imgWrite, Nat.not_lt.mpr known, directory, Nat.not_lt.mpr fits, other, if_false]
  exact runInBack_begins idle

theorem recoverGo_begins {o : Origin} {bytes : Nat} {s : State} (idle : s.hif.background = none) (mode : s.boot.mode = 2)
    (waits : s.boot.step = 4) (fits : bytes ≤ 64 * mib) :
    (recoverGo o bytes s).hif.background = some (o, .recoverGo bytes) := by
  simp only [recoverGo, mode, waits, Nat.not_lt.mpr fits, ne_eq, not_true_eq_false, decide_false, Bool.or_self, Bool.false_eq_true,
    if_false]
  exact runInBack_begins idle

theorem bootDirWrite_begins {o : Origin} {dir : List Byte} {s : State} (idle : s.hif.background = none)
    (session : inSession s = true) : (bootDirWrite o dir s).hif.background = some (o, .bootDirWrite (slice dir 0 60)) := by
  simp only [bootDirWrite, session, if_true]
  exact runInBack_begins idle

theorem onUnknownCommand_part {e : Entry} {code : BitVec 16} {s : State} (free : s.hif.grafting = none) :
    onUnknownCommand e code s = finish (.host (nextKey s)) .unknown 0 (taken e code.toNat s) := by
  simp only [onUnknownCommand, free, Option.isSome_none, Bool.false_eq_true, if_false]
  rfl

theorem keyProgram_done {o : Origin} {slot : Nat} {hash : List Byte} {s : State} (t0 : Tick)
    (runs : s.hif.background = some (o, .keyProgram false slot hash)) :
    let t := onBackgroundCommandDone true true t0 s
    t.hif.background = none ∧ t.sec.ks = s.sec.ks.set slot hash ∧ evtPending t 19 = true := by
  intro t
  have runs' : (advance t0 s).hif.background = some (o, .keyProgram false slot hash) := runs
  have complete : h2cWanted (advance t0 s) (Background.stream (.keyProgram false slot hash)) = 0 := by
    simp only [h2cWanted, runs']
  have ended : t = programDone o false slot hash true
      { advance t0 s with hif := { (advance t0 s).hif with background := none, h2cData := [] } } := by
    show onBackgroundCommandDone true true t0 s = _
    simp only [onBackgroundCommandDone, runs', complete, Bool.not_true, Bool.false_eq_true, if_false, ne_eq, not_true_eq_false,
      jobDone]
  rw [ended, programDone, if_pos rfl, finish_background, finish_sec]
  exact ⟨rfl, rfl, finish_pending _ _ _ (evtPending_of_setBits rfl (evtPending_raise 19 _))⟩

/-- Settles O46: in its session each management command does its work at once or begins in the background, and a key that has been
programmed fills its slot. -/
theorem managementCommandsComplete : Obligations.ManagementCommandsComplete := by
  unfold Obligations.ManagementCommandsComplete
  refine ⟨fun s e len pw plain mode unlocked wellFormed fresh => ?_, fun s e bytes plain idle session fits => ?_,
    fun s e h len pw plain idle session staged => ?_, fun s e plain session => ?_,
    fun s e ar slot hash plain idle known session empty => ?_, fun s e ar slot plain idle known valid allowed => ?_,
    fun s e plain late runs sound quiet => ?_, fun s e slot bytes plain idle known directory fits other => ?_,
    fun s e bytes plain idle mode waits fits => ?_, fun s e dir plain idle session => ?_, fun s e code free part => ?_,
    fun s t0 o slot hash runs => completes rfl (keyProgram_done t0 runs)⟩
  · refine completes rfl ?_
    rw [onCloLogin, hostManage_plain plain, cloLogin_first (s := taken e 0x0401 s) mode unlocked wellFormed fresh, finish_clo]
    exact ⟨answered_finish _ _ (taken_holds e 0x0401 s), rfl, rfl⟩
  · refine completes rfl ?_
    rw [onCloStage, hostManage_plain plain]
    exact cloStage_begins (s := taken e 0x0402 s) idle session fits
  · refine completes rfl ?_
    rw [onCloCommit, hostManage_plain plain]
    exact cloCommit_begins (s := taken e 0x0403 s) idle session staged
  · refine completes rfl ?_
    rw [onCloLogout, hostManage_plain plain, cloLogout_session (s := taken e 0x0404 s) session, finish_clo]
    exact ⟨answered_finish _ _ (taken_holds e 0x0404 s), rfl, rfl⟩
  · refine completes rfl ?_
    rw [onSecKeyProgram, hostManage_plain plain]
    exact keyProgram_begins (s := taken e 0x0501 s) idle known session empty
  · refine completes rfl ?_
    rw [onSecRevoke, hostManage_plain plain]
    exact revoke_begins (s := taken e 0x0502 s) idle known valid allowed
  · refine completes rfl ?_
    obtain ⟨t, ran, cmds, counter⟩ :=
      secConfirm_clean (o := .host (nextKey s)) (s := taken e 0x0503 s) late runs sound quiet
    rw [onSecConfirm, hostManage_plain plain, ran, finish_sec]
    exact ⟨answered_finish _ _ (entry_of_mailbox cmds), counter⟩
  · refine completes rfl ?_
    rw [onImgWrite, hostManage_plain plain]
    exact imgWrite_begins (s := taken e 0x0601 s) idle known directory fits other
  · refine completes rfl ?_
    rw [onRecoverGo, hostManage_plain plain]
    exact recoverGo_begins (s := taken e 0x0602 s) idle mode waits fits
  · refine completes rfl ?_
    rw [onBootDirWrite, hostManage_plain plain]
    exact bootDirWrite_begins (s := taken e 0x0603 s) idle session
  · refine completes rfl ?_
    rw [onUnknownCommand_part free]
    exact answered_finish _ _ (taken_holds ..)

end Sys2Proof.Machine
end

section
/-! PROOFS. The host interface: register accesses (R7 to R11, R469), vectors and states of the PCIe link (R464 to R467, R478) and
DMA rings (R470 to R477). -/

namespace Sys2Proof.Machine

/-! ### Register accesses -/

/-- Bit `i` of a word is set once it is OR-ed with 2^i. -/
theorem or_twoPow_getLsbD {w : Nat} (v : BitVec w) {i : Nat} (inside : i < w) : (v ||| BitVec.ofNat w (2 ^ i)).getLsbD i = true := by
  rw [BitVec.getLsbD_or, BitVec.getLsbD_ofNat, Nat.testBit_two_pow_self]
  simp [inside]

/-- Bit `i` of a word is clear once 2^i is taken out. -/
theorem andNot_twoPow_getLsbD {w : Nat} (v : BitVec w) (i : Nat) : (v &&& ~~~(BitVec.ofNat w (2 ^ i))).getLsbD i = false := by
  rw [BitVec.getLsbD_and, BitVec.getLsbD_not, BitVec.getLsbD_ofNat, Nat.testBit_two_pow_self]
  simp

theorem rd_clearRc {off : Nat} {s : State} (notLost : off ≠ Reg.QSY_GROUP_LOST) (notHwm : off ≠ Reg.QSY_GROUP_HWM)
    (notStall : off ≠ Reg.QSY_GROUP_STALL) : rd (clearRc off s) off = 0 := by
  simp only [clearRc, notLost, notHwm, notStall, if_false]
  exact rd_wr ..

theorem rd_rcKeep {off : Nat} {v : Word32} {s : State} (notLost : off ≠ Reg.QSY_GROUP_LOST) (notStall : off ≠ Reg.QSY_GROUP_STALL) :
    rd (rcKeep off v s) off = v := by
  simp only [rcKeep, notLost, notStall, if_false]
  exact rd_wr ..

theorem hostRead_readData (off : Nat) (s : State) : (hostRead off s).hif.readData = readValue s off := rfl

theorem rd_hostRead {off : Nat} {s : State} (clears : readClears s off = true) (notLost : off ≠ Reg.QSY_GROUP_LOST)
    (notHwm : off ≠ Reg.QSY_GROUP_HWM) (notStall : off ≠ Reg.QSY_GROUP_STALL) : rd (hostRead off s) off = 0 := by
  have cleared : rd (if readClears s off then clearRc off s else s) off = 0 := by
    rw [if_pos clears]
    exact rd_clearRc notLost notHwm notStall
  exact cleared

theorem onRcRead_settled {off : Nat} {s : State} (settled : readClears s off = true → freshNow s (rcKey s off) = none) :
    onRcRead off s = hostRead off s := by
  unfold onRcRead
  cases clears : readClears s off with
  | false => rfl
  | true =>
    rw [settled clears]
    rfl

theorem onRcRead_fresh {off : Nat} {s : State} {f : Fresh} (clears : readClears s off = true)
    (fresh : freshNow s (rcKey s off) = some f) : onRcRead off s = rcAnswer off (rcKey s off) f.was (rcKeep off f.put s) := by
  simp only [onRcRead, clears, fresh, Bool.not_true, Bool.false_eq_true, if_false]

theorem hostRead_latches {off : Nat} {s : State} (low : pairLows.contains off = true) :
    Tab.look (hostRead off s).hif.shadow (off + 4) = some (regView s (off + 4)) := by
  have latched : Tab.look (if pairLows.contains off then Tab.put (Tab.del s.hif.shadow off) (off + 4) (regView s (off + 4))
      else Tab.del s.hif.shadow off) (off + 4) = some (regView s (off + 4)) := by
    rw [if_pos low]
    exact Tab.look_put_same ..
  exact latched

/-- Settles O47: the reads and writes of the host by the access code of their register. -/
theorem registerCommandsComplete : Obligations.RegisterCommandsComplete := by
  unfold Obligations.RegisterCommandsComplete
  refine ⟨fun s off v t0 r k reached found w1c => ?_, fun s off v t0 r k reached found rt notCal plain inside => ?_,
    fun s off settled => ?_, fun s off f clears fresh => ?_, fun s off low => ?_, fun s => ?_⟩
  · refine completes rfl ?_
    have reached' : barReaches (advance t0 s) off = true := reached
    simp only [onRegisterWrite, reached', found, w1c, Bool.not_true, Bool.false_eq_true, if_false]
    exact rd_wr ..
  · refine completes rfl ?_
    have reached' : barReaches (advance t0 s) off = true := reached
    have inside' : (rtLimit (advance t0 s) off v.toNat).2 = true := inside
    simp only [onRegisterWrite, reached', found, rt, Bool.not_true, Bool.false_eq_true, if_false, rtWrite, notCal, plain, inside',
      if_true]
    exact rd_wr ..
  · refine completes rfl ?_
    rw [onRcRead_settled settled]
    exact ⟨hostRead_readData off s, rd_hostRead⟩
  · refine completes rfl ?_
    rw [onRcRead_fresh clears fresh]
    exact ⟨rfl, freshNow_del (rcKeep off f.put s) _, rd_rcKeep⟩
  · exact completes rfl ⟨hostRead_readData off s, hostRead_latches low⟩
  · refine completes rfl ?_
    have stuck : rd (onUnsupportedRequest s) Reg.HIF_STICKY = _ := rd_stick ..
    rw [stuck]
    exact or_twoPow_getLsbD _ (by decide)

/-! ### Vectors and the PCIe link (R464 to R467, R478) -/

/-- Settles O49: what the host interface records at each change of the link, and the bit of a vector once it is sent. -/
theorem pcieCommandsComplete : Obligations.PcieCommandsComplete := by
  unfold Obligations.PcieCommandsComplete
  refine ⟨fun s v requested spaced => ?_, fun s flr => ?_, fun s => completes rfl ⟨rfl, rfl, ?_⟩, fun s => completes rfl ⟨rfl, rfl⟩,
    fun s cold => ?_, fun s speed width slow fast known => ?_, fun s width up retrains target other => ?_⟩
  · refine completes rfl ?_
    have free : (match Tab.look s.hif.vecSent v with
        | some u => decide (u + rdf s Fld.HIF_IRQ_MOD_irq_mod * 64000 ≤ now s)
        | none => true) = true := by
      cases sent : Tab.look s.hif.vecSent v with
      | none => rfl
      | some u => exact decide_eq_true (spaced u sent)
    have ran : onMsixSend v s = { s with hif := { s.hif with
        vecReq := s.hif.vecReq &&& ~~~(BitVec.ofNat 64 (2 ^ v.val)), vecSent := Tab.put s.hif.vecSent v (now s) } } := by
      unfold onMsixSend
      dsimp only
      rw [if_pos (by rw [requested]; exact free)]
    rw [ran]
    exact ⟨andNot_twoPow_getLsbD .., Tab.look_put_same ..⟩
  · refine completes rfl ?_
    cases flr with
    | false => exact ⟨rfl, rfl, rfl, rfl, fun _ => rfl⟩
    | true => exact ⟨rfl, rfl, rfl, rfl, nofun⟩
  · exact evtPending_of_setBits rfl (evtPending_raise 315 _)
  · refine completes rfl ?_
    have resumed (n : Nat) : ((List.range n).foldl (fun s n => ringLoses n s)
        { s with hif := { s.hif with d3hot := false } }).hif.d3hot = false := by
      induction n with
      | zero => rfl
      | succ n ih =>
        rw [List.range_succ, List.foldl_append]
        exact ih
    rw [onD0Return, if_pos cold]
    exact resumed 16
  · refine completes rfl ?_
    have trained : (decide (1 ≤ speed) && decide (speed ≤ 5) && [1, 2, 4, 8].contains width) = true := by
      rw [decide_eq_true slow, decide_eq_true fast, known]
      rfl
    rw [onDataLinkUp, if_pos trained]
    exact ⟨rfl, rfl, rfl, rfl⟩
  · refine completes rfl ?_
    rw [onWidthRetrainDone, if_pos (by rw [up, retrains, decide_eq_true target, decide_eq_true other]; rfl)]

/-! ### DMA rings (R470 to R477) -/

theorem ringOf_setRing (h2c : Bool) (n : Nat) (r : Ring) (s : State) : ringOf (setRing h2c n r s) h2c n = r := by
  cases h2c <;> exact Tab.lookD_put_same ..

theorem ringOf_of_rings {s t : State} (c2h : t.hif.c2h = s.hif.c2h) (h2c : t.hif.h2c = s.hif.h2c) (up : Bool) (n : Nat) :
    ringOf t up n = ringOf s up n := by rw [ringOf, c2h, h2c, ringOf]

theorem ringOf_ringStart (h2c : Bool) (n : Nat) (s : State) :
    ringOf (ringStart h2c n s) h2c n = { ringOf s h2c n with cons := 0, phase := true, running := true, buf := none } :=
  ringOf_setRing ..

theorem ringStop_running (h2c : Bool) (n : Nat) (s : State) : (ringOf (ringStop h2c n s) h2c n).running = false := by
  unfold ringStop
  rw [ringOf_setRing]

theorem ringOf_wr (off : Nat) (v : Word32) (h2c : Bool) (n : Nat) (s : State) : ringOf (wr off v s) h2c n = ringOf s h2c n := rfl

/-- A write of size 0 to a ring's CTRL leaves the ring off. -/
theorem ringCtrlWrite_off {h2c : Bool} {n : Nat} {v : Word32} {s : State} (off : bits v.toNat 0 5 = 0) :
    (ringOf (ringCtrlWrite h2c n v s) h2c n).running = false := by
  unfold ringCtrlWrite
  simp only [off, ne_eq, not_true_eq_false, decide_false, Bool.false_and, Bool.false_eq_true, if_false, if_true, ringOf_wr]
  split
  · exact ringStop_running ..
  · rename_i stopped
    exact Bool.eq_false_iff.mpr stopped

theorem ringCtrlWrite_on {h2c : Bool} {n : Nat} {v : Word32} {s : State} (stopped : (ringOf s h2c n).running = false)
    (least : 4 ≤ bits v.toNat 0 5) (most : bits v.toNat 0 5 ≤ 16) :
    ringCtrlWrite h2c n v s = ringStart h2c n (wr (ringCtrl h2c n) (v &&& 0xFFFF3F1F) s) := by
  have sized : bits v.toNat 0 5 ≠ 0 := by omega
  simp only [ringCtrlWrite, stopped, sized, Nat.not_lt.mpr least, Nat.not_lt.mpr most, ne_eq, not_false_eq_true, decide_true,
    decide_false, Bool.or_self, Bool.and_false, Bool.false_eq_true, if_false]

theorem bits_andNot31 (v : Word32) : bits (v &&& 0xFFFFFFE0).toNat 0 5 = 0 := by
  have low : (0xFFFFFFE0 : Word32).toNat % 2 ^ 5 = 0 := by decide
  rw [bits, Nat.pow_zero, Nat.div_one, BitVec.toNat_and, Nat.and_mod_two_pow, low, Nat.and_zero]

theorem complete_eq (h2c : Bool) (n : Nat) (irq : Bool) (st k : Nat) (cont timed : Bool) (frame items : Nat) (data : List Word64)
    (s : State) : ∃ r : Ring, r.buf = none ∧ r.lastData = data ∧
      complete h2c n irq st k cont timed frame items data s =
        if irq then requestVector (bits (rd (setRing h2c n r s) (ringCtrl h2c n)).toNat 8 6) (setRing h2c n r s)
        else setRing h2c n r s := by
  unfold complete
  exact ⟨_, rfl, rfl, rfl⟩

theorem complete_ring (h2c : Bool) (n : Nat) (irq : Bool) (st k : Nat) (cont timed : Bool) (frame items : Nat) (data : List Word64)
    (s : State) : (ringOf (complete h2c n irq st k cont timed frame items data s) h2c n).buf = none ∧
      (ringOf (complete h2c n irq st k cont timed frame items data s) h2c n).lastData = data := by
  obtain ⟨r, empty, last, ended⟩ := complete_eq h2c n irq st k cont timed frame items data s
  have ring : ringOf (complete h2c n irq st k cont timed frame items data s) h2c n = r := by
    rw [ended]
    split
    · exact (ringOf_of_rings rfl rfl h2c n).trans (ringOf_setRing ..)
    · exact ringOf_setRing ..
  rw [ring]
  exact ⟨empty, last⟩

theorem setRing_h2cData (h2c : Bool) (n : Nat) (r : Ring) (s : State) : (setRing h2c n r s).hif.h2cData = s.hif.h2cData := by
  cases h2c <;> rfl

theorem complete_h2cData (h2c : Bool) (n : Nat) (irq : Bool) (st k : Nat) (cont timed : Bool) (frame items : Nat)
    (data : List Word64) (s : State) :
    (complete h2c n irq st k cont timed frame items data s).hif.h2cData = s.hif.h2cData := by
  obtain ⟨r, -, -, ended⟩ := complete_eq h2c n irq st k cont timed frame items data s
  rw [ended]
  split
  · exact setRing_h2cData ..
  · exact setRing_h2cData ..

theorem countKib_ring (h2c : Bool) (n bytes : Nat) (s : State) : ringOf (countKib h2c n bytes s) h2c n =
    { ringOf s h2c n with rem := ((ringOf s h2c n).rem + bytes) % 1024 } :=
  (ringOf_of_rings rfl rfl h2c n).trans (ringOf_setRing ..)

theorem countKib_h2cData (h2c : Bool) (n bytes : Nat) (s : State) : (countKib h2c n bytes s).hif.h2cData = s.hif.h2cData :=
  setRing_h2cData ..

/-- The open buffer of a ring is closed with its data (R471, R474). -/
theorem closeBuf_ring {n : Nat} {cont timed : Bool} {b : OpenBuf} {s : State} (filled : (ringOf s false n).buf = some b) :
    (ringOf (closeBuf n cont timed s) false n).buf = none ∧ (ringOf (closeBuf n cont timed s) false n).lastData = b.data := by
  unfold closeBuf
  rw [filled]
  dsimp only
  rw [countKib_ring]
  exact complete_ring ..

theorem onBufferCloseTimeout_due {stream : Fin 16} {t0 : Tick} {s : State} {b : OpenBuf}
    (filled : (ringOf s false stream).buf = some b) (data : b.data ≠ []) (timed : rdf s (Fld.HIF_C2H_CTRL_close_us stream) ≠ 0)
    (due : b.stamp + rdf s (Fld.HIF_C2H_CTRL_close_us stream) * 64000 ≤ now (advance t0 s)) :
    onBufferCloseTimeout stream t0 s = closeBuf stream false true (advance t0 s) := by
  have filled' : (ringOf (advance t0 s) false stream).buf = some b := filled
  have timed' : rdf (advance t0 s) (Fld.HIF_C2H_CTRL_close_us stream) ≠ 0 := timed
  have due' : b.stamp + rdf (advance t0 s) (Fld.HIF_C2H_CTRL_close_us stream) * 64000 ≤ now (advance t0 s) := due
  have nonempty : b.data.isEmpty = false := by simpa using data
  unfold onBufferCloseTimeout
  extract_lets u c
  rw [filled']
  dsimp only
  rw [if_pos (by rw [decide_eq_true timed', nonempty, decide_eq_true due']; rfl)]

theorem onH2cReadDone_data {stream : Fin 2} {desc : Descriptor} {bytes : List Byte} {t0 : Tick} {s : State}
    (runs : (ringOf s true stream).running = true) (free : posted s true stream ≠ 0) (wanted : h2cWanted s stream ≠ 0)
    (sound : descBad desc = false) (long : desc.len ≠ 0) :
    (onH2cReadDone stream desc bytes true t0 s).hif.h2cData = Tab.put s.hif.h2cData stream
      (Tab.lookD s.hif.h2cData stream [] ++ bytes.take (min desc.len (h2cWanted s stream))) := by
  have runs' : (ringOf (advance t0 s) true stream).running = true := runs
  have free' : posted (advance t0 s) true stream ≠ 0 := free
  have wanted' : h2cWanted (advance t0 s) stream ≠ 0 := wanted
  simp only [onH2cReadDone, runs', free', wanted', sound, long, decide_false, Bool.not_true, Bool.or_self, Bool.false_eq_true,
    if_false, if_true, countKib_h2cData, complete_h2cData]
  rfl

/-! ### Delivery (R471 to R474) -/

theorem poisonTag_length (ws : List Word64) : (poisonTag ws).length = ws.length := by
  cases ws <;> rfl

theorem readItem_length (l : List QWord) (hits : Nat) : (readItem l hits).2.length = l.length := by
  unfold readItem
  cases l <;> simp

theorem deliverTag_length (n : Nat) (ws : List Word64) (s : State) : (deliverTag n ws s).2.length = ws.length := by
  cases ws with
  | nil => rfl
  | cons tag r =>
    show (poisonTag (_ :: r)).length = _
    rw [poisonTag_length]
    rfl

theorem deliverTag_buf (n : Nat) (ws : List Word64) (s : State) :
    (ringOf (deliverTag n ws s).1 false n).buf = (ringOf s false n).buf := by
  cases ws with
  | nil => rfl
  | cons tag r => exact congrArg (·.buf) (ringOf_setRing ..)

theorem deliverTag_kept (n : Nat) (ws : List Word64) (s : State) : (deliverTag n ws s).1.qsy = s.qsy := by
  cases ws <;> rfl

theorem parityFailed_c2h (k m : Nat) (s : State) : (parityFailed k m s).hif.c2h = s.hif.c2h := by
  obtain ⟨c2h, -⟩ := (parityFailed_keeps k m (w := 281474976710655 - 2 ^ 36) (by decide) (.rfl' (s := s))).same .rings (by decide)
  exact c2h

theorem parityFailed_queues (k m : Nat) (s : State) : (parityFailed k m s).qsy.queues = s.qsy.queues := by
  obtain ⟨queues, -⟩ := (parityFailed_keeps k m (w := 281474976710655 - 2 ^ 20) (by decide) (.rfl' (s := s))).same .queues (by decide)
  exact queues

theorem queueOf_of_queues {s t : State} (queues : t.qsy.queues = s.qsy.queues) (g i : Nat) : queueOf t g i = queueOf s g i := by
  rw [queueOf, queues, queueOf]

theorem queueOf_setRing (h2c : Bool) (n : Nat) (r : Ring) (g i : Nat) (s : State) :
    queueOf (setRing h2c n r s) g i = queueOf s g i := by
  cases h2c <;> rfl

theorem beginInBuf_eq {n : Nat} {tag : Word64} {s : State} {b : OpenBuf} (filled : (ringOf s false n).buf = some b) :
    ∃ c : OpenBuf, c.items = b.items + 1 ∧ c.data = b.data ∧ c.desc = b.desc ∧
      beginInBuf n tag s = setRing false n { ringOf s false n with buf := some c } s := by
  refine ⟨{ b with items := b.items + 1, frame := if b.items = 0 then tagFrame tag else b.frame,
                   keys := b.keys ++ [skey (tagSrc tag) (tagStream tag)] }, rfl, rfl, rfl, ?_⟩
  simp only [beginInBuf, filled]

theorem fillBufs_fits {f n : Nat} {ws : List Word64} {l : List Descriptor} {s : State} {b : OpenBuf}
    (filled : (ringOf s false n).buf = some b) (fits : ws.length ≤ b.room) : fillBufs (f + 1) n ws l s =
      (setRing false n { ringOf s false n with buf := some { b with data := b.data ++ ws } } s, []) := by
  unfold fillBufs
  rw [filled]
  dsimp only
  rw [if_pos fits, List.take_of_length_le fits]

/-- Words that fit the open buffer all go into it. -/
theorem fillRing_fits {n m : Nat} {ws : List Word64} {l : List Descriptor} {s : State} {b : OpenBuf}
    (filled : (ringOf s false n).buf = some b) (fits : ws.length ≤ b.room) :
    (ringOf (fillRing n m ws l s) false n).buf = some { b with data := b.data ++ ws } ∧
      (fillRing n m ws l s).qsy = s.qsy := by
  have written : fillBufs (2 * l.length + 3) n ws l s = _ := fillBufs_fits (f := 2 * l.length + 2) filled fits
  simp only [fillRing, written, ringOf_setRing]
  exact ⟨trivial, rfl⟩

theorem takeQueued_words (m k : Nat) (s : State) :
    (queueOf (takeQueued m k s) 4 m).words = (queueOf s 4 m).words.drop k := queueOf_setQueue_words ..

theorem deliverNext_eq {n m hits : Nat} {desc : List Descriptor} {s : State} {b : OpenBuf}
    (filled : (ringOf s false n).buf = some b) (holds : queuedItem s m ≠ []) (fits : (queuedItem s m).length ≤ b.room) :
    ∃ (bad : Nat) (ws : List Word64), ws.length = (queuedItem s m).length ∧
      let y := deliverTag n ws (parityFailed bad m (takeQueued m (queuedItem s m).length s))
      deliverNext n m desc hits s = fillRing n m y.2 desc (beginInBuf n (y.2.headD 0) y.1) := by
  have nonempty : (queuedItem s m).isEmpty = false := by simpa using holds
  refine ⟨(readItem (queuedItem s m) hits).1, (readItem (queuedItem s m) hits).2, readItem_length .., ?_⟩
  simp only [deliverNext, nonempty, filled, Nat.not_lt.mpr fits, Bool.not_true, Bool.false_eq_true, if_false]

theorem deliverNext_fits {n m hits : Nat} {desc : List Descriptor} {s : State} {b : OpenBuf}
    (filled : (ringOf s false n).buf = some b) (holds : queuedItem s m ≠ []) (fits : (queuedItem s m).length ≤ b.room) :
    (queueOf (deliverNext n m desc hits s) 4 m).words = (queueOf s 4 m).words.drop (queuedItem s m).length ∧
      ∃ c, (ringOf (deliverNext n m desc hits s) false n).buf = some c ∧ c.items = b.items + 1 ∧
        c.data.length = b.data.length + (queuedItem s m).length := by
  obtain ⟨bad, ws, len, delivered⟩ := deliverNext_eq (hits := hits) (desc := desc) filled holds fits
  generalize tagged : deliverTag n ws (parityFailed bad m (takeQueued m (queuedItem s m).length s)) = y at delivered
  obtain ⟨u, vs⟩ := y
  have same : vs.length = ws.length := by rw [← deliverTag_length n ws (parityFailed bad m (takeQueued m _ s)), tagged]
  replace tagged : u = (deliverTag n ws (parityFailed bad m (takeQueued m (queuedItem s m).length s))).1 := by rw [tagged]
  dsimp only at delivered
  have words : (queueOf u 4 m).words = (queueOf s 4 m).words.drop (queuedItem s m).length := by
    rw [tagged, queueOf, deliverTag_kept, parityFailed_queues]
    exact takeQueued_words ..
  have buf : (ringOf u false n).buf = some b := by
    rw [tagged, deliverTag_buf, ringOf, if_neg Bool.false_ne_true, parityFailed_c2h]
    exact filled
  obtain ⟨c, items, data, where_, begun⟩ := beginInBuf_eq (tag := vs.headD 0) buf
  have room : vs.length ≤ c.room := by rw [same, len, OpenBuf.room, where_, data]; exact fits
  obtain ⟨written, kept⟩ := fillRing_fits (m := m) (l := desc) (s := beginInBuf n (vs.headD 0) u) (b := c)
    (by rw [begun, ringOf_setRing]) room
  rw [delivered]
  refine ⟨?_, _, written, items, ?_⟩
  · rw [queueOf, kept, begun]
    exact words
  · rw [List.length_append, data, same, len]

/-- Settles O48: the state of a ring after each of its commands, and the words that an item adds to the open buffer. -/
theorem ringCommandsComplete : Obligations.RingCommandsComplete := by
  unfold Obligations.RingCommandsComplete
  refine ⟨fun s h2c stream ctrl known stopped least most => ?_, fun s h2c stream ctrl t0 known => ?_,
    fun s stream prod inside => ?_, fun s entry desc hits t0 b cut enabled link runs whole filled holds fits first => ?_,
    fun s stream t0 b filled data timed due => ?_, fun s stream desc bytes t0 runs free wanted sound long => ?_⟩
  · refine completes rfl ?_
    rw [onRingEnable, if_pos known, ringCtrlWrite_on stopped least most, ringOf_ringStart]
    exact ⟨rfl, rfl, rfl⟩
  · refine completes rfl ?_
    have ran : onRingDisable h2c stream ctrl t0 s = ringCtrlWrite h2c stream (ctrl &&& 0xFFFFFFE0) (advance t0 s) := if_pos known
    rw [ran]
    exact ringCtrlWrite_off (bits_andNot31 ctrl)
  · refine completes rfl ?_
    rw [onC2hProdWrite, ringProdWrite, if_pos inside]
    exact rd_wr ..
  · refine completes rfl ?_
    have ran : onC2hItemDeliver entry desc hits t0 s =
        deliverNext (rdf s (Fld.HIF_STREAM_MAP_c2h entry)) entry desc hits (advance t0 s) := by
      have cut' : (advance t0 s).hkp.hardCut = false := cut
      have enabled' : rdb (advance t0 s) (Fld.HIF_STREAM_MAP_enable entry) = true := enabled
      have link' : linkStill (advance t0 s) = false := link
      have runs' : (ringOf (advance t0 s) false (rdf (advance t0 s) (Fld.HIF_STREAM_MAP_c2h entry))).running = true := runs
      have whole' : (ringOf (advance t0 s) false (rdf (advance t0 s) (Fld.HIF_STREAM_MAP_c2h entry))).rest = none := whole
      have first' : firstCame (advance t0 s) (rdf (advance t0 s) (Fld.HIF_STREAM_MAP_c2h entry)) entry = true := first
      simp only [onC2hItemDeliver, cut', enabled', link', runs', whole', first', Bool.not_true, Bool.or_self, Bool.false_eq_true,
        if_false, if_true]
      rfl
    rw [ran]
    exact deliverNext_fits (s := advance t0 s) filled holds fits
  · refine completes rfl ?_
    rw [onBufferCloseTimeout_due filled data timed due]
    exact closeBuf_ring filled
  · refine completes rfl ?_
    rw [onH2cReadDone_data runs free wanted sound long]
    exact Tab.lookD_put_same ..

end Sys2Proof.Machine
end

section
/-! PROOFS. The Cloche's inputs, chains and outputs (R386 to R411): first what its operations leave alone and what a pass over its
indices does, then the statements on its cycle, its inputs and its outputs. -/

namespace Sys2Proof.Machine

/-! ### Passes over indices -/

/-- A pass leaves what each of its steps leaves. -/
theorem foldl_kept {α β : Type} {g : State → β} {f : State → α → State} (each : ∀ s x, g (f s x) = g s) (l : List α) (s : State) :
    g (l.foldl f s) = g s := by
  induction l generalizing s with
  | nil => rfl
  | cons x r ih => exact (ih _).trans (each s x)

/-- A pass that does not visit `k` leaves what belongs to `k`. -/
theorem foldl_away {β : Type} {get : State → β} {f : State → Nat → State} {k : Nat} (away : ∀ s x, x ≠ k → get (f s x) = get s)
    {l : List Nat} (absent : k ∉ l) (s : State) : get (l.foldl f s) = get s := by
  induction l generalizing s with
  | nil => rfl
  | cons x r ih =>
    obtain ⟨other, rest⟩ := not_or.mp (fun h => absent (List.mem_cons.mpr h))
    exact (ih rest _).trans (away s x (Ne.symm other))

/-- A pass over distinct indices changes what belongs to `k` in its step for `k`, which begins in a state that agrees with the first
one on `k` and on what every step leaves. -/
theorem foldl_visits {β γ : Type} {get : State → β} {rest : State → γ} {f : State → Nat → State} {k : Nat}
    (each : ∀ s x, rest (f s x) = rest s) (away : ∀ s x, x ≠ k → get (f s x) = get s) {l : List Nat} (distinct : l.Nodup)
    (member : k ∈ l) (s : State) : ∃ u, rest u = rest s ∧ get u = get s ∧ get (l.foldl f s) = get (f u k) := by
  induction l generalizing s with
  | nil => exact absurd member List.not_mem_nil
  | cons x r ih =>
    obtain ⟨absent, distinct⟩ := List.nodup_cons.mp distinct
    by_cases here : x = k
    · subst here
      exact ⟨s, rfl, rfl, foldl_away away absent _⟩
    · obtain ⟨u, kept, same, ends⟩ := ih distinct ((List.mem_cons.mp member).resolve_left (Ne.symm here)) (f s x)
      exact ⟨u, kept.trans (each s x), same.trans (away s x here), ends⟩

/-! ### What the moves of chains and outputs leave -/

/-- The Cloche but for its chains, its outputs and the lock of the reset input. -/
def cloRest (s : State) : CloSt := { s.clo with chains := [], outs := [], blocked := false, lowRun := 0 }

theorem block_of_rest {s t : State} (rest : cloRest t = cloRest s) : t.clo.block = s.clo.block := by
  have same : (cloRest t).block = (cloRest s).block := by rw [rest]
  exact same

theorem island_of_rest {s t : State} (rest : cloRest t = cloRest s) : t.clo.island = s.clo.island := by
  have same : (cloRest t).island = (cloRest s).island := by rw [rest]
  exact same

theorem partStop_of_rest {s t : State} (rest : cloRest t = cloRest s) : t.clo.partStop = s.clo.partStop := by
  have same : (cloRest t).partStop = (cloRest s).partStop := by rw [rest]
  exact same

theorem cloRest_fault (n src unit : Nat) (cls : FaultClass) (addr : Nat) (s : State) :
    cloRest (fault n src unit cls addr s) = cloRest s := rfl

theorem cloRest_lockBegins (s : State) : cloRest (lockBegins s) = cloRest s := by
  unfold lockBegins
  split <;> rfl

theorem lockBegins_chains (s : State) : (lockBegins s).clo.chains = s.clo.chains := by
  unfold lockBegins
  split <;> rfl

theorem lockBegins_outs (s : State) : (lockBegins s).clo.outs = s.clo.outs := by
  unfold lockBegins
  split <;> rfl

theorem chainSt_of_chains {s t : State} (chains : t.clo.chains = s.clo.chains) (c : Nat) : chainSt t c = chainSt s c := by
  rw [chainSt, chains, chainSt]

theorem outSt_of_outs {s t : State} (outs : t.clo.outs = s.clo.outs) (x : Nat) : outSt t x = outSt s x := by
  rw [outSt, outs, outSt]

theorem cloRest_lockChain (c : Nat) (s : State) : cloRest (lockChain c s) = cloRest s := cloRest_lockBegins _

theorem lockChain_outs (c : Nat) (s : State) : (lockChain c s).clo.outs = s.clo.outs := lockBegins_outs _

theorem chainSt_lockChain (c : Nat) (s : State) :
    chainSt (lockChain c s) c = { chainSt s c with state := 4, released := false } :=
  (chainSt_of_chains (lockBegins_chains _) c).trans (chainSt_setChain c _ s)

theorem chainSt_lockChain_ne {c d : Nat} (s : State) (other : d ≠ c) : chainSt (lockChain c s) d = chainSt s d :=
  (chainSt_of_chains (lockBegins_chains _) d).trans (chainSt_setChain_ne _ s other)

theorem cloRest_stopChain (c : Nat) (s : State) : cloRest (stopChain c s) = cloRest s := rfl

theorem stopChain_outs (c : Nat) (s : State) : (stopChain c s).clo.outs = s.clo.outs := rfl

/-! ### Every chain locked out (R387, R388) -/

theorem cloRest_cloDrivesOff (s : State) : cloRest (cloDrivesOff s) = cloRest s :=
  foldl_kept (g := cloRest) (f := fun s x => setOut x ((outSt s x).drive false) s) (fun _ _ => rfl) _ s

theorem cloDrivesOff_chains (s : State) : (cloDrivesOff s).clo.chains = s.clo.chains :=
  foldl_kept (g := fun s => s.clo.chains) (f := fun s x => setOut x ((outSt s x).drive false) s) (fun _ _ => rfl) _ s

/-- One step of the pass by which every chain goes to LOCKOUT. -/
def lockStep (s : State) (c : Nat) : State := if (chainSt s c).state = 4 || (chainSt s c).state = 0 then s else lockChain c s

theorem lockAll_eq (s : State) : lockAll s = cloDrivesOff ((usedChains s).foldl lockStep s) := rfl

theorem cloRest_lockStep (s : State) (c : Nat) : cloRest (lockStep s c) = cloRest s := by
  unfold lockStep
  split
  · rfl
  · exact cloRest_lockChain c s

theorem chainSt_lockStep_ne {c d : Nat} (s : State) (other : c ≠ d) : chainSt (lockStep s c) d = chainSt s d := by
  unfold lockStep
  split
  · rfl
  · exact chainSt_lockChain_ne s (Ne.symm other)

theorem cloRest_lockAll (s : State) : cloRest (lockAll s) = cloRest s :=
  (cloRest_cloDrivesOff _).trans (foldl_kept (g := cloRest) cloRest_lockStep _ s)

theorem usedChains_nodup (s : State) : (usedChains s).Nodup := List.Nodup.filter _ List.nodup_range

theorem usedSets_nodup (s : State) : (usedSets s).Nodup := List.Nodup.filter _ List.nodup_range

theorem lockAll_state {s : State} {c : Nat} (used : c ∈ usedChains s) :
    (chainSt (lockAll s) c).state = 4 ∨ (chainSt (lockAll s) c).state = 0 := by
  obtain ⟨u, -, -, ends⟩ := foldl_visits (get := fun s => chainSt s c) (rest := fun _ => ()) (f := lockStep) (fun _ _ => rfl)
    (fun s x other => chainSt_lockStep_ne s other) (usedChains_nodup s) used s
  rw [lockAll_eq, chainSt_of_chains (cloDrivesOff_chains _), ends]
  by_cases done : ((chainSt u c).state = 4 || (chainSt u c).state = 0) = true
  · rw [lockStep, if_pos done]
    simpa using done
  · rw [lockStep, if_neg done, chainSt_lockChain]
    exact .inl rfl

/-- What a lock-out leaves of a chain. -/
def ChainSt.beside (x : ChainSt) : ChainSt := { x with state := 0, released := false }

theorem lockAll_beside (s : State) (c : Nat) : (chainSt (lockAll s) c).beside = (chainSt s c).beside := by
  have step (s : State) (d : Nat) : (chainSt (lockStep s d) c).beside = (chainSt s c).beside := by
    by_cases here : d = c
    · subst here
      unfold lockStep
      split
      · rfl
      · rw [chainSt_lockChain]
        rfl
    · rw [chainSt_lockStep_ne s here]
  rw [lockAll_eq, chainSt_of_chains (cloDrivesOff_chains _)]
  exact foldl_kept (g := fun s => (chainSt s c).beside) step _ s

/-! ### Outputs in a cycle (R406, R407) -/

theorem cloRest_outputFault (x code : Nat) (s : State) : cloRest (outputFault x code s) = cloRest s := cloRest_lockBegins _

theorem outputFault_chains (x code : Nat) (s : State) : (outputFault x code s).clo.chains = s.clo.chains := lockBegins_chains _

theorem outSt_outputFault (x code : Nat) (s : State) : outSt (outputFault x code s) x = { outSt s x with
    hd := false, ld := false, faulty := true, diag := code, okRun := 0, test := none, heldRun := 0 } :=
  (outSt_of_outs (lockBegins_outs _) x).trans (outSt_setOut x _ s)

theorem outSt_outputFault_ne {x y : Nat} (code : Nat) (s : State) (other : y ≠ x) : outSt (outputFault x code s) y = outSt s y :=
  (outSt_of_outs (lockBegins_outs _) y).trans (outSt_setOut_ne _ s other)

/-- The judgement of an output's readbacks in a cycle (R407). -/
def judgeOut (x : Nat) (hr lr : Bool) (s : State) : State :=
  let o := outSt s x
  let off := !o.hd && !o.ld
  let s := setOut x { o with hr := hr, lr := lr, heldRun := o.heldRun + 1, okRun := if off && !hr && !lr then o.okRun + 1 else 0 } s
  if o.test.isNone && !(decide (hr = (o.hd && o.ld)) && !lr) && !o.faulty && outEnabled s x then
    outputFault x (faultCode o.hd o.ld hr lr) s
  else s

/-- The drive of an output in a cycle (R406). -/
def driveOut (x : Nat) (s : State) : State :=
  match (outSt s x).test with
  | some (_, true) => if outWanted s x then s else setOut x ((outSt s x).drive false) s
  | some (_, false) => s
  | none => setOut x ((outSt s x).drive (outWanted s x)) s

theorem moveOut_eq (x : Nat) (hr lr : Bool) (s : State) : moveOut x hr lr s = driveOut x (judgeOut x hr lr s) := rfl

theorem cloRest_judgeOut (x : Nat) (hr lr : Bool) (s : State) : cloRest (judgeOut x hr lr s) = cloRest s := by
  unfold judgeOut
  extract_lets o off u
  split
  · exact cloRest_outputFault ..
  · rfl

theorem judgeOut_chains (x : Nat) (hr lr : Bool) (s : State) : (judgeOut x hr lr s).clo.chains = s.clo.chains := by
  unfold judgeOut
  extract_lets o off u
  split
  · exact outputFault_chains ..
  · rfl

theorem outSt_judgeOut_ne {x y : Nat} (hr lr : Bool) (s : State) (other : y ≠ x) : outSt (judgeOut x hr lr s) y = outSt s y := by
  unfold judgeOut
  extract_lets o off u
  have same : outSt u y = outSt s y := outSt_setOut_ne _ s other
  split
  · exact (outSt_outputFault_ne _ u other).trans same
  · exact same

theorem judgeOut_reads (x : Nat) (hr lr : Bool) (s : State) :
    (outSt (judgeOut x hr lr s) x).hr = hr ∧ (outSt (judgeOut x hr lr s) x).lr = lr := by
  unfold judgeOut
  extract_lets o off u
  have reads : (outSt u x).hr = hr ∧ (outSt u x).lr = lr := by
    rw [outSt_setOut]
    exact ⟨rfl, rfl⟩
  split
  · rw [outSt_outputFault]
    exact reads
  · exact reads

theorem driveOut_cases (x : Nat) (s : State) : driveOut x s = s ∨ ∃ on, driveOut x s = setOut x ((outSt s x).drive on) s := by
  unfold driveOut
  split
  · split
    · exact .inl rfl
    · exact .inr ⟨_, rfl⟩
  · exact .inl rfl
  · exact .inr ⟨_, rfl⟩

theorem cloRest_moveOut (x : Nat) (hr lr : Bool) (s : State) : cloRest (moveOut x hr lr s) = cloRest s := by
  rw [moveOut_eq]
  rcases driveOut_cases x (judgeOut x hr lr s) with same | ⟨on, driven⟩
  · rw [same, cloRest_judgeOut]
  · rw [driven]
    exact cloRest_judgeOut x hr lr s

theorem moveOut_chains (x : Nat) (hr lr : Bool) (s : State) : (moveOut x hr lr s).clo.chains = s.clo.chains := by
  rw [moveOut_eq]
  rcases driveOut_cases x (judgeOut x hr lr s) with same | ⟨on, driven⟩
  · rw [same, judgeOut_chains]
  · rw [driven]
    exact judgeOut_chains x hr lr s

theorem outSt_moveOut_ne {x y : Nat} (hr lr : Bool) (s : State) (other : y ≠ x) : outSt (moveOut x hr lr s) y = outSt s y := by
  rw [moveOut_eq]
  rcases driveOut_cases x (judgeOut x hr lr s) with same | ⟨on, driven⟩
  · rw [same, outSt_judgeOut_ne hr lr s other]
  · rw [driven, outSt_setOut_ne _ _ other, outSt_judgeOut_ne hr lr s other]

theorem moveOut_reads (x : Nat) (hr lr : Bool) (s : State) :
    (outSt (moveOut x hr lr s) x).hr = hr ∧ (outSt (moveOut x hr lr s) x).lr = lr := by
  rw [moveOut_eq]
  rcases driveOut_cases x (judgeOut x hr lr s) with same | ⟨on, driven⟩
  · rw [same]
    exact judgeOut_reads x hr lr s
  · rw [driven, outSt_setOut]
    exact judgeOut_reads x hr lr s

/-- An output that no test pulse drives after its move has the drives that its state asks for. -/
theorem driveOut_on {x : Nat} {s : State} (untested : (outSt (driveOut x s) x).test = none) :
    (outSt (driveOut x s) x).hd = (outSt (driveOut x s) x).ld ∧
      ((outSt (driveOut x s) x).hd = true → outWanted s x = true ∧ (outSt (driveOut x s) x).locked = (outSt s x).locked) := by
  unfold driveOut at untested ⊢
  split at untested
  next side pulse =>
    split at untested
    · rw [pulse] at untested
      cases untested
    · next unwanted =>
      rw [if_neg unwanted, outSt_setOut]
      exact ⟨rfl, nofun⟩
  next side pulse =>
    rw [pulse] at untested
    cases untested
  next idle =>
    rw [outSt_setOut]
    exact ⟨rfl, fun on => ⟨on, rfl⟩⟩

/-- What allows an output to be on (R406). -/
structure OnAllowed (x : Nat) (s : State) : Prop where
  enabled : outEnabled s x = true
  runs    : (chainSt s (outChain s x)).state = 3
  free    : (outSt s x).locked = false
  sound   : s.clo.island = 0
  goes    : s.clo.partStop = false

theorem onAllowed_of_wanted {x : Nat} {s : State} (wanted : outWanted s x = true) : OnAllowed x s := by
  simp only [outWanted, Bool.and_eq_true, decide_eq_true_eq, Bool.not_eq_true'] at wanted
  obtain ⟨⟨⟨⟨⟨⟨enabled, runs⟩, free⟩, sound⟩, goes⟩, -⟩, -⟩ := wanted
  exact ⟨enabled, runs, free, sound, goes⟩

theorem OnAllowed.of_same {x : Nat} {s t : State} (allowed : OnAllowed x s) (rest : cloRest t = cloRest s)
    (chains : t.clo.chains = s.clo.chains) (locked : (outSt t x).locked = (outSt s x).locked) : OnAllowed x t := by
  have block : t.clo.block = s.clo.block := block_of_rest rest
  obtain ⟨enabled, runs, free, sound, goes⟩ := allowed
  have field (off lo len : Nat) : ce t off lo len = ce s off lo len := by rw [ce, block, ce]
  refine ⟨?_, ?_, locked.trans free, (island_of_rest rest).trans sound, (partStop_of_rest rest).trans goes⟩
  · rw [outEnabled, field]
    exact enabled
  · rw [outChain, field, chainSt_of_chains chains]
    exact runs

/-- What R406 says of output `x`. -/
def OutputSafe (x : Nat) (s : State) : Prop :=
  (outSt s x).test = none → (outSt s x).hd = (outSt s x).ld ∧ ((outSt s x).hd = true → OnAllowed x s)

theorem moveOut_safe (x : Nat) (hr lr : Bool) (s : State) : OutputSafe x (moveOut x hr lr s) := by
  intro untested
  rw [moveOut_eq] at untested ⊢
  obtain ⟨both, on⟩ := driveOut_on untested
  refine ⟨both, fun high => ?_⟩
  obtain ⟨wanted, locked⟩ := on high
  refine (onAllowed_of_wanted wanted).of_same ?_ ?_ locked
  · rcases driveOut_cases x (judgeOut x hr lr s) with same | ⟨on, driven⟩
    · rw [same]
    · rw [driven]
      rfl
  · rcases driveOut_cases x (judgeOut x hr lr s) with same | ⟨on, driven⟩
    · rw [same]
    · rw [driven]
      rfl

theorem OutputSafe.moveOut_ne {x y : Nat} {s : State} (safe : OutputSafe x s) (hr lr : Bool) (other : x ≠ y) :
    OutputSafe x (moveOut y hr lr s) := by
  have same := outSt_moveOut_ne hr lr s other
  intro untested
  rw [same] at untested ⊢
  obtain ⟨both, on⟩ := safe untested
  exact ⟨both, fun high => (on high).of_same (cloRest_moveOut ..) (moveOut_chains ..) (congrArg OutSt.locked same)⟩

/-- The pass over the outputs in a cycle. -/
def moveOuts (hr lr : BitVec 4) (s : State) : State := (List.range 4).foldl (fun s x => moveOut x (hr.getLsbD x) (lr.getLsbD x) s) s

theorem moveOuts_safe (hr lr : BitVec 4) (s : State) (x : Fin 4) : OutputSafe x (moveOuts hr lr s) := by
  have pass (n : Nat) : ∀ y < n, OutputSafe y ((List.range n).foldl (fun s x => moveOut x (hr.getLsbD x) (lr.getLsbD x) s) s) := by
    induction n with
    | zero => exact fun y small => absurd small (Nat.not_lt_zero y)
    | succ n ih =>
      intro y small
      rw [List.range_succ, List.foldl_append]
      rcases Nat.lt_succ_iff_lt_or_eq.mp small with before | last
      · exact (ih y before).moveOut_ne _ _ (Nat.ne_of_lt before)
      · subst last
        exact moveOut_safe y (hr.getLsbD y) (lr.getLsbD y) _
  exact pass 4 x x.isLt

/-- The state after the inputs, the virtual inputs and the chains of a cycle. -/
def cycleChains (t : Tick) (s : State) : State :=
  let s := cycleTime (watchInputs (advance t s))
  if s.clo.passed && !commissioning s then (usedChains s).foldl (fun s c => moveBrake c (moveChain c s)) s else s

theorem onEvaluationCycle_eq (hr lr : BitVec 4) (t : Tick) (s : State) : onEvaluationCycle hr lr t s =
    { moveOuts hr lr (cycleChains t s) with cloShown := (moveOuts hr lr (cycleChains t s)).clo } := by
  simp only [onEvaluationCycle, moveOuts, cycleChains]

theorem OnAllowed.shown {x : Nat} {s : State} (v : CloSt) (allowed : OnAllowed x s) : OnAllowed x { s with cloShown := v } := by
  obtain ⟨enabled, runs, free, sound, goes⟩ := allowed
  exact ⟨enabled, runs, free, sound, goes⟩

theorem OutputSafe.shown {x : Nat} {s : State} (v : CloSt) (safe : OutputSafe x s) : OutputSafe x { s with cloShown := v } := by
  intro untested
  obtain ⟨both, on⟩ := safe untested
  exact ⟨both, fun high => (on high).shown v⟩

/-- Settles O17: the pass over the outputs drives each of them by its own state, and the moves of the others change nothing that its
drives rest on. -/
theorem safeOutputsAreOnOnlyInRun : Obligations.SafeOutputsAreOnOnlyInRun := by
  intro s hr lr t0
  refine completes rfl ?_
  rw [onEvaluationCycle_eq]
  intro x untested
  obtain ⟨both, on⟩ := (moveOuts_safe hr lr (cycleChains t0 s) x).shown _ untested
  refine ⟨both, fun high => ?_⟩
  obtain ⟨enabled, runs, free, sound, goes⟩ := on high
  exact ⟨enabled, runs, free, sound, goes⟩

/-! ### The cycle (R386) -/

theorem cloRest_watchChain (c : Nat) (s : State) : cloRest (watchChain c s) = cloRest s := by
  unfold watchChain
  extract_lets x
  split <;> rfl

theorem watchChain_outs (c : Nat) (s : State) : (watchChain c s).clo.outs = s.clo.outs := by
  unfold watchChain
  extract_lets x
  split <;> rfl

/-- A chain's move is that of its inputs and at most one change of its state (R397). -/
theorem moveChain_cases (c : Nat) (s : State) : ∃ u, cloRest u = cloRest s ∧ u.clo.outs = s.clo.outs ∧
    (moveChain c s = u ∨ moveChain c s = lockChain c u ∨ moveChain c s = stopChain c u ∨ moveChain c s = runChain c u ∨
      moveChain c s = setChain c { chainSt u c with state := 2 } u) := by
  unfold moveChain
  extract_lets v cs dm x v1 v2
  have rest : cloRest v2 = cloRest s := by
    refine Eq.trans ?_ (cloRest_watchChain c s)
    unfold v2
    split <;> rfl
  have outs : v2.clo.outs = s.clo.outs := by
    refine Eq.trans ?_ (watchChain_outs c s)
    unfold v2
    split <;> rfl
  refine ⟨v2, rest, outs, ?_⟩
  clear_value v2
  split
  · exact .inl rfl
  · split
    · exact .inr (.inl rfl)
    · split
      · split
        · exact .inr (.inr (.inl rfl))
        · exact .inl rfl
      · split
        · exact .inl rfl
        · split
          · exact .inr (.inr (.inr (.inr rfl)))
          · split
            · exact .inr (.inr (.inr (.inl rfl)))
            · exact .inl rfl
      · split
        · exact .inr (.inr (.inl rfl))
        · exact .inl rfl
      · exact .inl rfl

theorem cloRest_moveChain (c : Nat) (s : State) : cloRest (moveChain c s) = cloRest s := by
  obtain ⟨u, rest, -, same | same | same | same | same⟩ := moveChain_cases c s
  · rw [same, rest]
  · rw [same, cloRest_lockChain, rest]
  · rw [same, cloRest_stopChain, rest]
  · rw [same]
    exact rest
  · rw [same]
    exact rest

/-- The bits of the parts that a brake test's message and windows change beside the Cloche's own data. -/
theorem windowStart_clo (i : Nat) (t : Tick) (s : State) : (windowStart i t s).clo.cycles = s.clo.cycles := by
  obtain ⟨-, -, -, -, -, -, -, -, -, -, cycles, -⟩ :=
    (windowStart_keeps i t (w := 281474976710655 - 2 ^ 31) (by decide) (.rfl' (s := s))).same .cloche (by decide)
  exact cycles

theorem bcSend_cycles (c type : Nat) (payload : List Byte) (s : State) : (bcSend c type payload s).clo.cycles = s.clo.cycles := by
  unfold bcSend
  extract_lets m a ring a' s1 s2
  split
  · rfl
  · split <;> rfl

theorem quantUsed_clo (q : Rat) (s : State) : (quantUsed q s).clo = s.clo := by
  unfold quantUsed
  split <;> rfl

theorem brakeTo_cycles (c b : Nat) (s : State) : (brakeTo c b s).clo.cycles = s.clo.cycles := by
  rw [brakeTo, brakeMessage, quantUsed_clo, bcSend_cycles]
  rfl

theorem moveBrake_cycles (c : Nat) (s : State) : (moveBrake c s).clo.cycles = s.clo.cycles := by
  unfold moveBrake
  extract_lets x k noRun s1 s2 chs s3
  have windows : s3.clo.cycles = s.clo.cycles := by
    refine (foldl_kept (g := fun s => s.clo.cycles) (fun s i => ?_) chs s2).trans (brakeTo_cycles ..)
    split
    · exact windowStart_clo ..
    · rfl
  clear_value s3
  split
  · rfl
  · split
    · exact brakeTo_cycles ..
    · split
      · exact windows
      · split
        · exact brakeTo_cycles ..
        · rfl

theorem cycles_of_rest {s t : State} (rest : cloRest t = cloRest s) : t.clo.cycles = s.clo.cycles := by
  have same : (cloRest t).cycles = (cloRest s).cycles := by rw [rest]
  exact same

/-- How long the level of an input has held, after one more cycle. -/
def watchInput (s : State) (n : Nat) : State :=
  setIn n { inSt s n with lowRun := if inLevel s n then 0 else (inSt s n).lowRun + 1, age := (inSt s n).age + 1 } s

theorem watchInputs_cycles (s : State) : (watchInputs s).clo.cycles = s.clo.cycles := by
  have kept : ((List.range 17).foldl watchInput s).clo.cycles = s.clo.cycles :=
    foldl_kept (g := fun s => s.clo.cycles) (f := watchInput) (fun _ _ => rfl) _ s
  unfold watchInputs
  extract_lets u high low press
  exact kept

theorem cycleChains_cycles {t : Tick} {s : State} (less : s.clo.cycles + 1 < 240000) :
    (cycleChains t s).clo.cycles = s.clo.cycles + 1 := by
  have inputs : (watchInputs (advance t s)).clo.cycles = s.clo.cycles := watchInputs_cycles _
  have time : (cycleTime (watchInputs (advance t s))).clo.cycles = s.clo.cycles + 1 := by
    rw [cycleTime, if_pos (by rw [inputs]; exact less)]
    exact congrArg (· + 1) inputs
  unfold cycleChains
  extract_lets u
  refine Eq.trans ?_ time
  split
  · exact foldl_kept (g := fun s => s.clo.cycles)
      (fun s c => (moveBrake_cycles c _).trans (cycles_of_rest (cloRest_moveChain c s))) _ u
  · rfl

theorem moveOuts_reads (hr lr : BitVec 4) (s : State) (x : Fin 4) :
    (outSt (moveOuts hr lr s) x).hr = hr.getLsbD x ∧ (outSt (moveOuts hr lr s) x).lr = lr.getLsbD x := by
  obtain ⟨u, -, -, ends⟩ := foldl_visits (get := fun s => outSt s x) (rest := fun _ => ())
    (f := fun s x => moveOut x (hr.getLsbD x) (lr.getLsbD x) s) (fun _ _ => rfl)
    (fun s y other => outSt_moveOut_ne _ _ s (Ne.symm other)) List.nodup_range (List.mem_range.mpr x.isLt) s
  rw [moveOuts, ends]
  exact moveOut_reads x (hr.getLsbD x) (lr.getLsbD x) u

theorem evaluationCycle_counts (s : State) (hr lr : BitVec 4) (t0 : Tick) (less : s.clo.cycles + 1 < 240000) :
    (onEvaluationCycle hr lr t0 s).clo.cycles = s.clo.cycles + 1 ∧
      ∀ x : Fin 4, (outSt (onEvaluationCycle hr lr t0 s) x).hr = hr.getLsbD x ∧
        (outSt (onEvaluationCycle hr lr t0 s) x).lr = lr.getLsbD x := by
  rw [onEvaluationCycle_eq]
  have rest : cloRest (moveOuts hr lr (cycleChains t0 s)) = cloRest (cycleChains t0 s) :=
    foldl_kept (g := cloRest) (f := fun s x => moveOut x (hr.getLsbD x) (lr.getLsbD x) s)
      (fun s x => cloRest_moveOut x (hr.getLsbD x) (lr.getLsbD x) s) _ _
  have counted : (moveOuts hr lr (cycleChains t0 s)).clo.cycles = s.clo.cycles + 1 :=
    (cycles_of_rest rest).trans (cycleChains_cycles less)
  have reads := moveOuts_reads hr lr (cycleChains t0 s)
  generalize moveOuts hr lr (cycleChains t0 s) = u at counted reads
  exact ⟨counted, reads⟩

/-! ### Inputs and test pulses (R392 to R399) -/

/-- An input is blanked at its present level (R395). -/
def blankInput (s : State) (n : Nat) : State := setIn n { inSt s n with held := some (inLevel s n), high := inLevel s n } s

theorem testPulseStart_eq {tp : Fin 4} {s : State} (due : pulseDue s tp = true) : onTestPulseStart tp s =
    (tpInputs s tp).foldl blankInput { s with clo := { s.clo with tpLow := s.clo.tpLow ||| BitVec.ofNat 4 (2 ^ tp.val) } } := by
  rw [onTestPulseStart, if_neg (by rw [due]; decide)]
  rfl

theorem testPulseStart_blanks {tp : Fin 4} {s : State} (due : pulseDue s tp = true) :
    (onTestPulseStart tp s).clo.tpLow.getLsbD tp = true ∧
      ∀ n ∈ tpInputs s tp, (inSt (onTestPulseStart tp s) n).held = some (inLevel s n) := by
  have distinct : (tpInputs s tp).Nodup := List.Nodup.filter _ List.nodup_range
  rw [testPulseStart_eq due]
  constructor
  · refine (foldl_kept (g := fun s => s.clo.tpLow.getLsbD tp) (f := blankInput) (fun _ _ => rfl) _ _).trans ?_
    exact or_twoPow_getLsbD _ tp.isLt
  · intro n member
    obtain ⟨u, -, same, ends⟩ := foldl_visits (get := fun s => inSt s n) (rest := fun _ => ()) (f := blankInput) (fun _ _ => rfl)
      (fun s x other => inSt_setIn_ne _ s (Ne.symm other)) distinct member
      { s with clo := { s.clo with tpLow := s.clo.tpLow ||| BitVec.ofNat 4 (2 ^ tp.val) } }
    have level : inLevel u n = inLevel s n := by
      rw [inLevel, same]
      rfl
    rw [ends, blankInput, inSt_setIn, level]

theorem pulseResult_tpLow (n : Nat) (atEnd after : Bool) (s : State) : (pulseResult n atEnd after s).clo.tpLow = s.clo.tpLow := by
  unfold pulseResult
  extract_lets x s1 y s2
  split
  · rfl
  · split
    · rfl
    · split <;> rfl

theorem inSt_fault (n src unit : Nat) (cls : FaultClass) (addr k : Nat) (s : State) :
    inSt (fault n src unit cls addr s) k = inSt s k := rfl

theorem pulseResult_held (n : Nat) (atEnd after : Bool) (s : State) : (inSt (pulseResult n atEnd after s) n).held = none := by
  unfold pulseResult
  extract_lets x s1 y s2
  have unheld : (inSt s2 n).held = none := by rw [inSt_setIn]
  split
  · rw [inSt_setIn]
  · split
    · rw [inSt_setIn]
    · split
      · exact unheld
      · exact unheld

theorem inSt_pulseResult_ne {n k : Nat} (atEnd after : Bool) (s : State) (other : k ≠ n) :
    inSt (pulseResult n atEnd after s) k = inSt s k := by
  unfold pulseResult
  extract_lets x s1 y s2
  have first : inSt s1 k = inSt s k := inSt_setIn_ne _ s other
  have second : inSt s2 k = inSt s k := (inSt_setIn_ne _ s1 other).trans first
  split
  · exact first
  · split
    · exact (inSt_setIn_ne _ s1 other).trans first
    · split
      · exact second
      · exact second

theorem testPulseEnd_eq {tp : Fin 4} {a b : BitVec 16} {t0 : Tick} {s : State} (low : s.clo.tpLow.getLsbD tp = true) :
    onTestPulseEnd tp a b t0 s = (tpInputs s tp).foldl (fun s n => pulseResult n (a.getLsbD n) (b.getLsbD n) s)
      { advance t0 s with clo := { s.clo with tpLow := s.clo.tpLow &&& ~~~(BitVec.ofNat 4 (2 ^ tp.val)) } } := by
  have low' : (advance t0 s).clo.tpLow.getLsbD tp = true := low
  unfold onTestPulseEnd
  extract_lets u
  rw [if_neg (by rw [low']; decide)]
  rfl

theorem testPulseEnd_unblanks {tp : Fin 4} {a b : BitVec 16} {t0 : Tick} {s : State} (low : s.clo.tpLow.getLsbD tp = true) :
    (onTestPulseEnd tp a b t0 s).clo.tpLow.getLsbD tp = false ∧
      ∀ n ∈ tpInputs s tp, (inSt (onTestPulseEnd tp a b t0 s) n).held = none := by
  have distinct : (tpInputs s tp).Nodup := List.Nodup.filter _ List.nodup_range
  rw [testPulseEnd_eq low]
  constructor
  · refine (foldl_kept (g := fun s => s.clo.tpLow.getLsbD tp) (f := fun s n => pulseResult n (a.getLsbD n) (b.getLsbD n) s)
      (fun s n => congrArg (·.getLsbD tp) (pulseResult_tpLow n _ _ s)) _ _).trans ?_
    exact andNot_twoPow_getLsbD ..
  · intro n member
    obtain ⟨u, -, -, ends⟩ := foldl_visits (get := fun s => inSt s n) (rest := fun _ => ())
      (f := fun s n => pulseResult n (a.getLsbD n) (b.getLsbD n) s) (fun _ _ => rfl)
      (fun s x other => inSt_pulseResult_ne _ _ s (Ne.symm other)) distinct member
      { advance t0 s with clo := { s.clo with tpLow := s.clo.tpLow &&& ~~~(BitVec.ofNat 4 (2 ^ tp.val)) } }
    rw [ends]
    exact pulseResult_held n (a.getLsbD n) (b.getLsbD n) u

theorem discrepancyTimeout_due {chain : Fin 8} {t0 : Tick} {s : State} (button : Fin 2)
    (pair : chainType s chain = 1 ∨ chainType s chain = 2 ∨ chainType s chain = 4)
    (differ : inputAt s chain 0 ≠ inputAt s chain 1) (fresh : (chainSt s chain).disc = false)
    (long : discCycles s chain ≤ (chainSt s chain).runs.getD 0 0) : onDiscrepancyTimeout chain button t0 s =
      fault 300 Src.clo 0 .corrected chain (setChain chain { chainSt s chain with disc := true, zeros := false } (advance t0 s)) := by
  have notTwoHand : chainType (advance t0 s) chain ≠ 3 := by
    have same : chainType (advance t0 s) chain = chainType s chain := rfl
    omega
  have pair' : chainType (advance t0 s) chain = 1 ∨ chainType (advance t0 s) chain = 2 ∨ chainType (advance t0 s) chain = 4 := pair
  have differ' : inputAt (advance t0 s) chain 0 ≠ inputAt (advance t0 s) chain 1 := differ
  have fresh' : (chainSt (advance t0 s) chain).disc = false := fresh
  have long' : discCycles (advance t0 s) chain ≤ (chainSt (advance t0 s) chain).runs.getD 0 0 := long
  unfold onDiscrepancyTimeout
  extract_lets u x ty
  rw [if_neg notTwoHand, if_pos (by rw [decide_eq_true pair', decide_eq_true differ', fresh', decide_eq_true long']; rfl)]
  rfl

/-- Settles O40: each input command changes its own input or chain alone, and a cycle reads every output once. -/
theorem safetyInputCommandsComplete : Obligations.SafetyInputCommandsComplete := by
  unfold Obligations.SafetyInputCommandsComplete
  refine ⟨fun s hr lr t0 less => completes rfl (evaluationCycle_counts s hr lr t0 less), fun s input level => ?_,
    fun s input held => ?_, fun s tp due => completes rfl (testPulseStart_blanks due),
    fun s tp a b t0 low => completes rfl (testPulseEnd_unblanks low), fun s chain button t0 pair differ fresh long => ?_,
    fun s chain twoHand one long => ?_⟩
  · refine completes rfl ?_
    rw [onSafeInputChange, inSt_setIn]
    refine ⟨rfl, ?_⟩
    simp only [Bool.and_eq_true, decide_eq_true_eq]
  · refine completes rfl ?_
    rw [onSiFilterExpire, if_pos held, inSt_setIn]
  · refine completes rfl ?_
    rw [discrepancyTimeout_due button pair differ fresh long]
    exact ⟨congrArg ChainSt.disc (chainSt_setChain ..), evtPending_fault ..⟩
  · refine completes rfl ?_
    rw [onTwohandTimeout, if_pos (by rw [decide_eq_true twoHand, decide_eq_true one, decide_eq_true long]; rfl), chainSt_setChain]

end Sys2Proof.Machine
end

section
/-! PROOFS. The Cloche's outputs and their tests, the heartbeat, the part stop and the island faults (R387 to R410), the words that
reach it through X12 (R402 to R405), the brake test, powered time and the reset input (R401, R411, R412). -/

namespace Sys2Proof.Machine

/-! ### Tests of the switches (R408 to R410) -/

theorem startTest_kept (o : OutSt) (low : Bool) (cyc : Nat) : (o.startTest low cyc).hd = o.hd ∧ (o.startTest low cyc).ld = o.ld ∧
    (o.startTest low cyc).test = o.test := by
  unfold OutSt.startTest
  split
  · exact ⟨rfl, rfl, rfl⟩
  · split <;> exact ⟨rfl, rfl, rfl⟩

theorem switchTest_begins {out : Fin 4} {low : Bool} (hr lr : Bool) {s : State} (enabled : outEnabled s out = true)
    (idle : (outSt s out).test = none) (passed : s.clo.passed = true) (runs : commissioning s = false)
    (high : (outSt s out).hd = true) (lowOn : (outSt s out).ld = true) (due : testDue s out low = true) :
    ∃ o : OutSt, ∃ u, onSwitchTest out low hr lr s = setOut out { o with test := some (low, true), hd := low, ld := !low } u := by
  obtain ⟨hd, ld, test⟩ := startTest_kept (outSt s out) low s.clo.cyc
  unfold onSwitchTest
  extract_lets u o on
  have read : o = (outSt s out).startTest low s.clo.cyc := outSt_setOut ..
  have refused : (!outEnabled s out || o.test.isSome || !s.clo.passed || commissioning s || !testDue s out low) = false := by
    rw [read, test, idle, enabled, passed, runs, due]
    rfl
  have onNow : on = true := by
    show (o.hd && o.ld) = true
    rw [read, hd, ld, high, lowOn]
    rfl
  rw [if_neg (by rw [refused]; exact Bool.false_ne_true), if_pos onNow]
  exact ⟨_, _, rfl⟩

theorem testDone_out (x : Nat) (low : Bool) (s : State) : (outSt (testDone x low s) x).test = (outSt s x).test ∧
    (outSt (testDone x low s) x).hd = (outSt s x).hd ∧ (outSt (testDone x low s) x).ld = (outSt s x).ld := by
  unfold testDone
  extract_lets o
  rw [outSt_setOut]
  split <;> exact ⟨rfl, rfl, rfl⟩

theorem switchTestEnd_ok {out : Fin 4} {hr lr : Bool} {t0 : Tick} {s : State} {low on : Bool}
    (pulse : (outSt s out).test = some (low, on)) (ok : (if on then (if low then lr else !hr) else hr && lr) = true) :
    (outSt (onSwitchTestEnd out hr lr t0 s) out).test = none ∧ (outSt (onSwitchTestEnd out hr lr t0 s) out).hd = on ∧
      (outSt (onSwitchTestEnd out hr lr t0 s) out).ld = on := by
  have pulse' : (outSt (advance t0 s) out).test = some (low, on) := pulse
  have ended : onSwitchTestEnd out hr lr t0 s = testDone out low
      (setOut out { outSt (advance t0 s) out with test := none, hd := on, ld := on } (advance t0 s)) := by
    unfold onSwitchTestEnd
    extract_lets u o
    rw [pulse']
    exact if_pos ok
  obtain ⟨test, hd, ld⟩ := testDone_out out low
    (setOut out { outSt (advance t0 s) out with test := none, hd := on, ld := on } (advance t0 s))
  rw [ended, test, hd, ld, outSt_setOut]
  exact ⟨rfl, rfl, rfl⟩

theorem diagIntervalFault_due {out : Fin 4} {low : Bool} {t0 : Tick} {s : State} (enabled : outEnabled s out = true)
    (long : (if low then (outSt s out).doneLo else (outSt s out).doneHi) + 1440 ≤ s.clo.minutes) :
    outSt (onDiagIntervalFault out low t0 s) out = if low then { outSt s out with ivLow := true, ivLock := true }
      else { outSt s out with ivHigh := true, ivLock := true } := by
  have enabled' : outEnabled (advance t0 s) out = true := enabled
  have long' : (if low then (outSt (advance t0 s) out).doneLo else (outSt (advance t0 s) out).doneHi) + 1440 ≤
    (advance t0 s).clo.minutes := long
  unfold onDiagIntervalFault
  extract_lets u o done
  rw [if_pos (by rw [enabled', decide_eq_true long']; rfl)]
  exact (outSt_of_outs (lockBegins_outs _) out).trans (outSt_setOut ..)

/-! ### Stops of the part and of the island (R387, R388) -/

theorem hbRun_of_rest {s t : State} (rest : cloRest t = cloRest s) : t.clo.hbRun = s.clo.hbRun := by
  have same : (cloRest t).hbRun = (cloRest s).hbRun := by rw [rest]
  exact same

theorem partStop_stops (s : State) : (partStop s).clo.partStop = true := partStop_of_rest (cloRest_lockAll _)

theorem partStop_hbRun (s : State) : (partStop s).clo.hbRun = s.clo.hbRun :=
  (hbRun_of_rest (cloRest_lockAll { s with clo := { s.clo with partStop := true } })).trans rfl

theorem partStop_state {s : State} {c : Nat} (used : c ∈ usedChains s) :
    (chainSt (partStop s) c).state = 4 ∨ (chainSt (partStop s) c).state = 0 :=
  lockAll_state (s := { s with clo := { s.clo with partStop := true } }) used

theorem islandFault_sets (cause : IslandCause) (s : State) : (islandFault cause s).clo.island.getLsbD (islandBit cause) = true := by
  have rest : cloRest (islandFault cause s) =
      cloRest { s with clo := { s.clo with island := s.clo.island ||| BitVec.ofNat 6 (2 ^ islandBit cause) } } :=
    (cloRest_lockBegins _).trans (cloRest_lockAll _)
  rw [island_of_rest rest]
  exact or_twoPow_getLsbD _ (by cases cause <;> decide)

theorem islandFault_pending (cause : IslandCause) (s : State) : evtPending (islandFault cause s) 308 = true :=
  evtPending_of_setBits rfl (evtPending_fault ..)

theorem islandFault_state {cause : IslandCause} {s : State} {c : Nat} (used : c ∈ usedChains s) :
    (chainSt (islandFault cause s) c).state = 4 ∨ (chainSt (islandFault cause s) c).state = 0 := by
  have locked := lockAll_state
    (s := { s with clo := { s.clo with island := s.clo.island ||| BitVec.ofNat 6 (2 ^ islandBit cause) } }) used
  have same := chainSt_of_chains (lockBegins_chains
    (lockAll { s with clo := { s.clo with island := s.clo.island ||| BitVec.ofNat 6 (2 ^ islandBit cause) } })) c
  rw [← same] at locked
  exact locked

/-- Settles O41: each test changes its own output, and a stop locks out every chain whatever stopped it. -/
theorem safetyOutputCommandsComplete : Obligations.SafetyOutputCommandsComplete := by
  unfold Obligations.SafetyOutputCommandsComplete
  refine ⟨fun s out low hr lr enabled idle passed runs high lowOn due => ?_, fun s out hr lr t0 low on pulse ok => ?_,
    fun s out low t0 enabled long => ?_, fun s => completes rfl ⟨rfl, rfl⟩, fun s t0 gap => ?_, fun s t0 => ?_, fun s cause t0 => ?_⟩
  · obtain ⟨o, u, begun⟩ := switchTest_begins hr lr enabled idle passed runs high lowOn due
    refine completes rfl ?_
    rw [begun, outSt_setOut]
    exact ⟨rfl, rfl, rfl⟩
  · exact completes rfl (switchTestEnd_ok pulse ok)
  · refine completes rfl ?_
    rw [diagIntervalFault_due enabled long]
    cases low <;> rfl
  · refine completes rfl ?_
    have gap' : ¬ (advance t0 s).clo.hbGap < 4 := Nat.not_lt.mpr gap
    have ran : onHeartbeatTimeout t0 s = partStop { advance t0 s with clo := { s.clo with hbRun := 0 } } := if_neg gap'
    rw [ran]
    exact ⟨partStop_stops _, partStop_hbRun _, fun c used => partStop_state used⟩
  · exact completes rfl ⟨partStop_stops _, partStop_hbRun _, fun c used => partStop_state used⟩
  · exact completes rfl ⟨islandFault_sets .., islandFault_pending .., fun c used => islandFault_state used⟩

/-! ### Words through X12 (R402 to R405) -/

/-- The Cloche counts the words that fail; at most it stops the part. -/
theorem x12Watch_cases (m : X12Msg) (ws : List Word64) (s : State) : ∃ n,
    x12Watch m ws s = { s with clo := { s.clo with x12Bad := n } } ∨
      x12Watch m ws s = partStop { s with clo := { s.clo with x12Bad := n } } := by
  unfold x12Watch
  extract_lets r u
  split
  · exact ⟨_, .inr rfl⟩
  · exact ⟨_, .inl rfl⟩

theorem toSafe_of_rest {s t : State} (rest : cloRest t = cloRest s) : t.clo.toSafe = s.clo.toSafe := by
  have same : (cloRest t).toSafe = (cloRest s).toSafe := by rw [rest]
  exact same

theorem fields_of_rest {s t : State} (rest : cloRest t = cloRest s) : t.clo.fields = s.clo.fields := by
  have same : (cloRest t).fields = (cloRest s).fields := by rw [rest]
  exact same

theorem zones_of_rest {s t : State} (rest : cloRest t = cloRest s) : t.clo.zones = s.clo.zones := by
  have same : (cloRest t).zones = (cloRest s).zones := by rw [rest]
  exact same

theorem fieldSt_of_fields {s t : State} (fields : t.clo.fields = s.clo.fields) (n : Nat) : fieldSt t n = fieldSt s n := by
  rw [fieldSt, fields, fieldSt]

/-- What the watch of failing words leaves (R388). -/
structure X12Kept (s t : State) : Prop where
  toSafe : t.clo.toSafe = s.clo.toSafe
  fields : t.clo.fields = s.clo.fields
  zones  : t.clo.zones = s.clo.zones

theorem x12Watch_kept (m : X12Msg) (ws : List Word64) (s : State) : X12Kept s (x12Watch m ws s) := by
  obtain ⟨n, same | stopped⟩ := x12Watch_cases m ws s
  · rw [same]
    exact ⟨rfl, rfl, rfl⟩
  · have rest := cloRest_lockAll { s with clo := { s.clo with x12Bad := n, partStop := true } }
    have locked : x12Watch m ws s = lockAll { s with clo := { s.clo with x12Bad := n, partStop := true } } := stopped
    rw [locked]
    exact ⟨(toSafe_of_rest rest).trans rfl, (fields_of_rest rest).trans rfl, (zones_of_rest rest).trans rfl⟩

/-! ### Field sets (R402) -/

theorem fieldSt_setField (n : Nat) (x : FieldSt) (s : State) : fieldSt (setField n x s) n = x := Tab.lookD_put_same ..

theorem fieldSt_setField_ne {n k : Nat} (x : FieldSt) (s : State) (other : k ≠ n) : fieldSt (setField n x s) k = fieldSt s k :=
  Tab.lookD_put_ne _ _ _ other

theorem setCauses_frames (n : Nat) (s : State) : (fieldSt (setCauses n s) n).frames = (fieldSt s n).frames := by
  unfold setCauses
  extract_lets x l good mism miss u v
  have written : (fieldSt u n).frames = (fieldSt s n).frames := by rw [fieldSt_setField]
  have kept : (fieldSt v n).frames = (fieldSt s n).frames := by
    unfold v
    split <;> exact written
  split <;> exact kept

theorem setCauses_ne {n k : Nat} (s : State) (other : k ≠ n) : fieldSt (setCauses n s) k = fieldSt s k := by
  unfold setCauses
  extract_lets x l good mism miss u v
  have written : fieldSt u k = fieldSt s k := fieldSt_setField_ne _ s other
  have kept : fieldSt v k = fieldSt s k := by
    unfold v
    split <;> exact written
  split <;> exact kept

theorem setCauses_toSafe (n : Nat) (s : State) : (setCauses n s).clo.toSafe = s.clo.toSafe := by
  unfold setCauses
  extract_lets x l good mism miss u v
  have kept : v.clo.toSafe = s.clo.toSafe := by
    unfold v
    split <;> rfl
  split <;> exact kept

/-- Frame `f` of set `n` is judged anew after the change `g`. -/
def judgeFrameWith (n f : Nat) (g : FieldFrame → FieldFrame) (s : State) : State := setCauses n (updFrame n f g s)

theorem judgeFrameWith_frames (n f : Nat) (g : FieldFrame → FieldFrame) (s : State) :
    (fieldSt (judgeFrameWith n f g s) n).frames = (fieldSt s n).frames.map fun e => if e.1 = f then (e.1, g e.2) else e := by
  rw [judgeFrameWith, setCauses_frames, updFrame, fieldSt_setField]

theorem judgeFrameWith_ne {n k : Nat} (f : Nat) (g : FieldFrame → FieldFrame) (s : State) (other : k ≠ n) :
    fieldSt (judgeFrameWith n f g s) k = fieldSt s k :=
  (setCauses_ne _ other).trans (fieldSt_setField_ne _ s other)

/-- A pass over field sets judges the frame once in every set of the pass. -/
theorem judgeFrames {f : Nat} {g : Nat → FieldFrame → FieldFrame} {l : List Nat} (distinct : l.Nodup) (s : State) {n : Nat}
    (member : n ∈ l) : (fieldSt (l.foldl (fun s n => judgeFrameWith n f (g n) s) s) n).frames =
      (fieldSt s n).frames.map fun e => if e.1 = f then (e.1, g n e.2) else e := by
  obtain ⟨u, -, same, ends⟩ := foldl_visits (get := fun s => fieldSt s n) (rest := fun _ => ())
    (f := fun s n => judgeFrameWith n f (g n) s) (fun _ _ => rfl) (fun s k other => judgeFrameWith_ne f _ s (Ne.symm other))
    distinct member s
  rw [ends, judgeFrameWith_frames, same]

theorem judgeFrames_toSafe {f : Nat} {g : Nat → FieldFrame → FieldFrame} (l : List Nat) (s : State) :
    (l.foldl (fun s n => judgeFrameWith n f (g n) s) s).clo.toSafe = s.clo.toSafe :=
  foldl_kept (g := fun s => s.clo.toSafe) (f := fun s n => judgeFrameWith n f (g n) s)
    (fun s n => setCauses_toSafe n (updFrame n f (g n) s)) l s

theorem verdictTake_eq (frame : Nat) (words : List Word64) (s : State) : verdictTake frame words s =
    (usedSets s).foldl (fun s n => judgeFrameWith n frame (fun f => f.take true (words.getD n 0)) s) s := rfl

theorem verdictWordArrive_takes {frame : BitVec 24} {ws : List Word64} {t0 : Tick} {s : State} {m : X12Msg}
    (passed : s.clo.passed = true) (next : x12Next s .verdict frame.toNat = some m) :
    (onVerdictWordArrive frame ws t0 s).clo.toSafe = s.clo.toSafe.erase m ∧
      ∀ n ∈ usedSets s, (fieldSt (onVerdictWordArrive frame ws t0 s) n).frames = (fieldSt s n).frames.map fun e =>
        if e.1 = frame.toNat then (e.1, e.2.take true ((m.data ws).getD n 0)) else e := by
  have next' : x12Next (advance t0 s) .verdict frame.toNat = some m := next
  have passed' : (advance t0 s).clo.passed = true := passed
  have ran : onVerdictWordArrive frame ws t0 s = x12Watch m ws (verdictTake frame.toNat (m.data ws) (x12Done m (advance t0 s))) := by
    simp only [onVerdictWordArrive, next', passed', if_true]
  obtain ⟨toSafe, fields, -⟩ := x12Watch_kept m ws (verdictTake frame.toNat (m.data ws) (x12Done m (advance t0 s)))
  rw [ran]
  refine ⟨toSafe.trans ?_, fun n used => ?_⟩
  · rw [verdictTake_eq]
    exact (judgeFrames_toSafe ..).trans rfl
  · rw [fieldSt_of_fields fields, verdictTake_eq]
    exact judgeFrames (g := fun n f => f.take true ((m.data ws).getD n 0)) (usedSets_nodup _) (x12Done m (advance t0 s)) used

theorem tineResult_fields {frame : BitVec 24} {hd header : Word64} {ws words : List Word64} {t0 : Tick} {s : State} {m : X12Msg}
    (passed : s.clo.passed = true) (next : x12Next s (.tine 1) frame.toNat = some m) (data : m.data (hd :: ws) = header :: words)
    (ok : bits header.toNat 16 6 = 0) : (onTineResultArrive 1 frame hd ws t0 s).clo.toSafe = s.clo.toSafe.erase m ∧
      ∀ n ∈ usedSets s, (fieldSt (onTineResultArrive 1 frame hd ws t0 s) n).frames = (fieldSt s n).frames.map fun e =>
        if e.1 = frame.toNat then (e.1, e.2.take false (words.getD n 0)) else e := by
  have next' : x12Next (advance t0 s) (.tine (1 : Fin 16).val) frame.toNat = some m := next
  have passed' : (advance t0 s).clo.passed = true := passed
  have ran : onTineResultArrive 1 frame hd ws t0 s = x12Watch m (hd :: ws) ((usedSets s).foldl
      (fun s n => judgeFrameWith n frame.toNat (fun f => f.take false (words.getD n 0)) s) (x12Done m (advance t0 s))) := by
    simp only [onTineResultArrive, next', passed', if_true, data, resultTake, List.headD_cons, ok, decide_true, List.drop_one,
      List.tail_cons]
    rfl
  rw [ran]
  obtain ⟨toSafe, fields, -⟩ := x12Watch_kept m (hd :: ws) ((usedSets s).foldl
    (fun s n => judgeFrameWith n frame.toNat (fun f => f.take false (words.getD n 0)) s) (x12Done m (advance t0 s)))
  refine ⟨toSafe.trans ((judgeFrames_toSafe ..).trans rfl), fun n used => ?_⟩
  rw [fieldSt_of_fields fields]
  exact judgeFrames (g := fun n f => f.take false (words.getD n 0)) (usedSets_nodup _) (x12Done m (advance t0 s)) used

theorem verdictDeadline_misses {frame : BitVec 24} {tine : Bool} {t0 : Tick} {s : State} (passed : s.clo.passed = true) :
    ∀ n ∈ usedSets s, wordLate s n frame.toNat tine = true →
      (fieldSt (onVerdictDeadline frame tine t0 s) n).frames = (fieldSt s n).frames.map fun e => if e.1 = frame.toNat then
      (e.1, if (if tine then e.2.tine else e.2.hse).isNone then { e.2 with v := true, miss := true } else e.2) else e := by
  intro n used late
  have ran : onVerdictDeadline frame tine t0 s = ((usedSets s).filter fun n => wordLate s n frame.toNat tine).foldl
      (fun s n => judgeFrameWith n frame.toNat (fun f => if (if tine then f.tine else f.hse).isNone
        then { f with v := true, miss := true } else f) s) (advance t0 s) := if_pos (show (advance t0 s).clo.passed = true from passed)
  rw [ran]
  exact judgeFrames (g := fun _ f => if (if tine then f.tine else f.hse).isNone then { f with v := true, miss := true } else f)
    ((usedSets_nodup s).filter _) (advance t0 s) (List.mem_filter.mpr ⟨used, late⟩)

/-! ### Zones (R404) -/

/-- What a judgement of the zones leaves, and that the interval is judged. -/
structure ZonesJudged (s t : State) : Prop where
  toSafe   : t.clo.toSafe = s.clo.toSafe
  interval : t.clo.zones.interval = s.clo.zones.interval
  words    : t.clo.zones.words = s.clo.zones.words
  cls      : t.clo.zones.cls = s.clo.zones.cls

theorem ZonesJudged.refl (s : State) : ZonesJudged s s := ⟨rfl, rfl, rfl, rfl⟩

/-- What the pass over the zones leaves. -/
def zonePassView (s : State) : List X12Msg × Option Nat × List Word64 × Option (Nat × Option Word64) × Bool :=
  (s.clo.toSafe, s.clo.zones.interval, s.clo.zones.words, s.clo.zones.cls, s.clo.zones.judged)

theorem judgeZones_view (cls : Option Word64) (s : State) : zonePassView (judgeZones cls s) =
    (s.clo.toSafe, s.clo.zones.interval, s.clo.zones.words, s.clo.zones.cls, true) := by
  unfold judgeZones
  extract_lets z used w intr dem _ u
  split
  · rfl
  · refine (foldl_kept (g := zonePassView) (fun s i => ?_) _ u).trans rfl
    extract_lets z' bad ic cc was lk v
    split
    · split <;> rfl
    · rfl

theorem judgeZones_kept (cls : Option Word64) (s : State) : ZonesJudged s (judgeZones cls s) := by
  have view := judgeZones_view cls s
  simp only [zonePassView, Prod.mk.injEq] at view
  obtain ⟨toSafe, interval, words, same, -⟩ := view
  exact ⟨toSafe, interval, words, same⟩

theorem judgeZones_judged (cls : Option Word64) (s : State) : (judgeZones cls s).clo.zones.judged = true := by
  have view := judgeZones_view cls s
  simp only [zonePassView, Prod.mk.injEq] at view
  obtain ⟨-, -, -, -, judged⟩ := view
  exact judged

theorem zoneTry_kept (s : State) : ZonesJudged s (zoneTry s) := by
  unfold zoneTry
  extract_lets z
  split
  · exact .refl s
  · split
    · exact .refl s
    · split
      · exact judgeZones_kept ..
      · split
        · split
          · exact judgeZones_kept ..
          · exact .refl s
        · exact .refl s

theorem tineResult_zones {frame : BitVec 24} {hd header : Word64} {ws words : List Word64} {t0 : Tick} {s : State} {m : X12Msg}
    (passed : s.clo.passed = true) (next : x12Next s (.tine 2) frame.toNat = some m) (data : m.data (hd :: ws) = header :: words)
    (ok : bits header.toNat 16 6 = 0) : (onTineResultArrive 2 frame hd ws t0 s).clo.toSafe = s.clo.toSafe.erase m ∧
      (onTineResultArrive 2 frame hd ws t0 s).clo.zones.cls = some (frame.toNat, some (words.getD 4 0)) := by
  have next' : x12Next (advance t0 s) (.tine 2) frame.toNat = some m := next
  have passed' : (advance t0 s).clo.passed = true := passed
  have notFields : ¬ (2 : Nat) = 1 := by decide
  have zones : (2 : Fin 16).val = 2 := rfl
  obtain ⟨u, taken, toSafe, cls⟩ : ∃ u, onTineResultArrive 2 frame hd ws t0 s = x12Watch m (hd :: ws) (zoneTry u) ∧
      u.clo.toSafe = s.clo.toSafe.erase m ∧ u.clo.zones.cls = some (frame.toNat, some (words.getD 4 0)) := by
    simp only [onTineResultArrive, next', passed', if_true, data, resultTake, notFields, zones, if_false, List.headD_cons, ok,
      decide_true, List.drop_one, List.tail_cons]
    exact ⟨_, rfl, rfl, rfl⟩
  obtain ⟨toSafe', -, zones'⟩ := x12Watch_kept m (hd :: ws) (zoneTry u)
  obtain ⟨toSafe'', -, -, cls''⟩ := zoneTry_kept u
  rw [taken]
  exact ⟨toSafe'.trans (toSafe''.trans toSafe), (congrArg ZoneSt.cls zones').trans (cls''.trans cls)⟩

theorem zoneWordArrive_takes {interval : BitVec 24} {ws : List Word64} {t0 : Tick} {s : State} {m : X12Msg}
    (passed : s.clo.passed = true) (next : x12Next s .zone interval.toNat = some m) :
    let t := onZoneWordArrive interval ws t0 s
    t.clo.zones.interval = some interval.toNat ∧ t.clo.zones.words = m.data ws ∧ t.clo.zones.due = m.due ∧
      t.clo.toSafe = s.clo.toSafe.erase m := by
  intro t
  have next' : x12Next (advance t0 s) .zone interval.toNat = some m := next
  have passed' : (x12Done m (advance t0 s)).clo.passed = true := passed
  obtain ⟨u, taken, toSafe, held, words⟩ : ∃ u, t = x12Watch m ws { zoneTry u with clo := { (zoneTry u).clo with
      zones := { (zoneTry u).clo.zones with due := m.due } } } ∧ u.clo.toSafe = s.clo.toSafe.erase m ∧
      u.clo.zones.interval = some interval.toNat ∧ u.clo.zones.words = m.data ws := by
    show ∃ u, onZoneWordArrive interval ws t0 s = _ ∧ _
    have live : (advance t0 s).clo.passed = true := passed
    simp only [onZoneWordArrive, next', live, if_true, zoneTake]
    exact ⟨_, rfl, rfl, rfl, rfl⟩
  clear_value t
  subst taken
  obtain ⟨toSafe'', interval'', words'', -⟩ := zoneTry_kept u
  generalize zoneTry u = v at toSafe'' interval'' words''
  obtain ⟨toSafe', -, zones'⟩ := x12Watch_kept m ws { v with clo := { v.clo with zones := { v.clo.zones with due := m.due } } }
  rw [zones']
  exact ⟨interval''.trans held, words''.trans words, rfl, toSafe'.trans (toSafe''.trans toSafe)⟩

/-- Settles O42: each message is taken from the words on their way, and its set or zone is judged once, which leaves the words of
the others. -/
theorem verdictCommandsComplete : Obligations.VerdictCommandsComplete := by
  unfold Obligations.VerdictCommandsComplete
  refine ⟨fun s frame ws t0 m passed next => completes rfl (verdictWordArrive_takes passed next),
    fun s frame hd ws t0 m header words passed next data ok => completes rfl (tineResult_fields passed next data ok),
    fun s frame hd ws t0 m header words passed next data ok => completes rfl (tineResult_zones passed next data ok),
    fun s frame tine t0 passed => completes rfl (verdictDeadline_misses passed),
    fun s interval ws t0 m passed next => completes rfl (zoneWordArrive_takes passed next),
    fun s interval t0 passed mode held open_ due => ?_⟩
  refine completes rfl ?_
  have mode' : zoneMode (advance t0 s) = 0 := mode
  have held' : (advance t0 s).clo.zones.interval = some interval.toNat := held
  have due' : (advance t0 s).clo.zones.due ≤ t0 := due
  have passed' : (advance t0 s).clo.passed = true := passed
  have open' : (advance t0 s).clo.zones.judged = false := open_
  have ran : onClassifierDeadline interval t0 s = judgeZones none (advance t0 s) :=
    if_pos (by rw [passed', decide_eq_true mode', decide_eq_true held', open', decide_eq_true due']; rfl)
  rw [ran]
  exact judgeZones_judged ..

end Sys2Proof.Machine
end

section
/-! PROOFS. The brake test, powered time and the reset input (R401, R411, R412), the black channel and the commissioning timers
(R414 to R421, R488). -/

namespace Sys2Proof.Machine

/-! ### The brake test (R401, R417) -/

theorem setConn_chains (c : Nat) (x : ConnSt) (s : State) : (setConn c x s).clo.chains = s.clo.chains := rfl

theorem bcSend_chains (c type : Nat) (payload : List Byte) (s : State) : (bcSend c type payload s).clo.chains = s.clo.chains := by
  unfold bcSend
  extract_lets m a ring a' s1 s2
  split
  · rfl
  · split <;> rfl

theorem chainSt_raise (n c : Nat) (s : State) : chainSt (raise n s) c = chainSt s c := rfl

theorem chainSt_journalWrite (kind chain value c : Nat) (s : State) : chainSt (journalWrite kind chain value s) c = chainSt s c := rfl

theorem chainSt_brakeTo (c b : Nat) (s : State) : chainSt (brakeTo c b s) c = { chainSt s c with brake := b } := by
  have chains : (brakeTo c b s).clo.chains = (setBrake c b s).clo.chains := by
    rw [brakeTo, brakeMessage, quantUsed_clo, bcSend_chains]
  rw [chainSt_of_chains chains, setBrake, chainSt_setChain]

theorem brakeTestDue_requests {chain : Fin 8} {s : State} (brake : chainType s chain = 5) (notOne : (chainSt s chain).brake ≠ 1)
    (notTwo : (chainSt s chain).brake ≠ 2) (notThree : (chainSt s chain).brake ≠ 3) (due : brakeDue s chain = true) :
    (chainSt (onBrakeTestDue chain s) chain).brake = 1 := by
  unfold onBrakeTestDue
  extract_lets x
  have idle : (decide (x.brake = 1) || decide (x.brake = 2) || decide (x.brake = 3)) = false := by
    rw [decide_eq_false notOne, decide_eq_false notTwo, decide_eq_false notThree]
    rfl
  rw [if_pos (by rw [decide_eq_true brake, idle, due]; rfl), chainSt_brakeTo]

/-! ### What the watch of failing words leaves of a chain (R388) -/

theorem x12Watch_beside (m : X12Msg) (ws : List Word64) (s : State) (c : Nat) :
    (chainSt (x12Watch m ws s) c).beside = (chainSt s c).beside := by
  obtain ⟨n, same | stopped⟩ := x12Watch_cases m ws s
  · rw [same]
    rfl
  · rw [stopped, partStop, lockAll_beside]
    rfl

theorem x12Watch_pending {m : X12Msg} {ws : List Word64} {s : State} {n : Nat} (pending : evtPending s n = true) :
    evtPending (x12Watch m ws s) n = true := by
  obtain ⟨k, same | stopped⟩ := x12Watch_cases m ws s
  · rw [same]
    exact pending
  · rw [stopped]
    exact (lockAll_losesNoStop _).pending n pending

theorem brake_of_beside {x y : ChainSt} (h : x.beside = y.beside) : x.brake = y.brake ∧ x.failed = y.failed ∧ x.pass = y.pass := by
  have brake : x.beside.brake = y.beside.brake := by rw [h]
  have failed : x.beside.failed = y.beside.failed := by rw [h]
  have pass : x.beside.pass = y.beside.pass := by rw [h]
  exact ⟨brake, failed, pass⟩

theorem onBrakeWindowResult_running {chain : Fin 8} {enc1 : Bool} {count : Nat} {s : State} {m : X12Msg}
    (runs : (chainSt s chain).brake = 3) (encoder : enc1 = true → chainEnc1 s chain = true)
    (next : x12Next s (.window (chainEnc s chain (b2n enc1))) 0 = some m) : onBrakeWindowResult chain enc1 count s =
      x12Watch m [BitVec.ofNat 64 count]
        (brakeResult chain enc1 ((m.data [BitVec.ofNat 64 count]).headD 0).toNat (x12Done m s)) := by
  have present : (enc1 && !chainEnc1 s chain) = false := by
    cases enc1 with
    | false => rfl
    | true => rw [encoder rfl]; rfl
  have goes : (decide ((chainSt s chain).brake ≠ 3) || enc1 && !chainEnc1 s chain) = false := by
    rw [present, decide_eq_false (not_not.mpr runs)]
    rfl
  unfold onBrakeWindowResult
  rw [if_neg (by rw [goes]; exact Bool.false_ne_true), next]

/-- A count beyond the motion limit fails the test. -/
theorem brakeResult_fails {chain count : Nat} {enc1 : Bool} {s : State} (beyond : chainMotion s chain < count) :
    ∃ u, brakeResult chain enc1 count s = raise 307 (brakeTo chain 5 (setChain chain { chainSt u chain with failed := true } u)) := by
  unfold brakeResult
  extract_lets x rs u need
  have exceeds : (rs.any fun r => decide (chainMotion u chain < r.2)) = true := by
    refine List.any_eq_true.mpr ⟨(enc1, count), List.mem_append_right _ (List.mem_singleton.mpr rfl), ?_⟩
    exact decide_eq_true beyond
  rw [if_pos exceeds]
  exact ⟨_, rfl⟩

/-- The one count that a test needs, within the motion limit, passes it. -/
theorem brakeResult_passes {chain count : Nat} {s : State} (first : (chainSt s chain).results = []) (one : chainEnc1 s chain = false)
    (within_ : count ≤ chainMotion s chain) : ∃ u, u.clo.minutes = s.clo.minutes ∧ brakeResult chain false count s =
      raise 307 (brakeTo chain 4 (journalWrite 2 chain u.clo.minutes
        (setChain chain { chainSt u chain with failed := false, overdue := false, pass := some u.clo.minutes } u))) := by
  unfold brakeResult
  extract_lets x rs u need v
  have results : rs = [(false, count)] := by
    show ((chainSt s chain).results.filter _) ++ _ = _
    rw [first]
    rfl
  have needed : need = 1 := by
    show (if chainEnc1 u chain then 2 else 1) = 1
    rw [if_neg]
    exact Bool.eq_false_iff.mp one
  have inside : (rs.any fun r => decide (chainMotion u chain < r.2)) = false := by
    have within' : count ≤ chainMotion u chain := within_
    rw [results]
    simpa using within'
  rw [if_neg (by rw [inside]; exact Bool.false_ne_true), if_pos (by rw [results, needed]; exact Nat.le_refl 1)]
  exact ⟨u, rfl, rfl⟩

theorem brakeWindowResult_fails {chain : Fin 8} {enc1 : Bool} {count : Nat} {s : State} {m : X12Msg}
    (runs : (chainSt s chain).brake = 3) (encoder : enc1 = true → chainEnc1 s chain = true)
    (next : x12Next s (.window (chainEnc s chain (b2n enc1))) 0 = some m)
    (beyond : chainMotion s chain < ((m.data [BitVec.ofNat 64 count]).headD 0).toNat) :
    (chainSt (onBrakeWindowResult chain enc1 count s) chain).brake = 5 ∧
      (chainSt (onBrakeWindowResult chain enc1 count s) chain).failed = true ∧
      evtPending (onBrakeWindowResult chain enc1 count s) 307 = true := by
  obtain ⟨u, failed⟩ := brakeResult_fails (enc1 := enc1) (s := x12Done m s) beyond
  rw [onBrakeWindowResult_running runs encoder next, failed]
  have written : chainSt (raise 307 (brakeTo chain 5 (setChain chain { chainSt u chain with failed := true } u))) chain =
      { chainSt u chain with failed := true, brake := 5 } := by
    rw [chainSt_raise, chainSt_brakeTo, chainSt_setChain]
  obtain ⟨brake, failed, -⟩ := brake_of_beside (x12Watch_beside m [BitVec.ofNat 64 count]
    (raise 307 (brakeTo chain 5 (setChain chain { chainSt u chain with failed := true } u))) chain)
  rw [brake, failed, written]
  exact ⟨rfl, rfl, x12Watch_pending (evtPending_raise ..)⟩

theorem brakeWindowResult_passes {chain : Fin 8} {count : Nat} {s : State} {m : X12Msg} (runs : (chainSt s chain).brake = 3)
    (first : (chainSt s chain).results = []) (one : chainEnc1 s chain = false)
    (next : x12Next s (.window (chainEnc s chain 0)) 0 = some m)
    (within_ : ((m.data [BitVec.ofNat 64 count]).headD 0).toNat ≤ chainMotion s chain) :
    (chainSt (onBrakeWindowResult chain false count s) chain).brake = 4 ∧
      (chainSt (onBrakeWindowResult chain false count s) chain).failed = false ∧
      (chainSt (onBrakeWindowResult chain false count s) chain).pass = some s.clo.minutes := by
  obtain ⟨u, minutes, passed⟩ := brakeResult_passes (s := x12Done m s) first one within_
  rw [onBrakeWindowResult_running (enc1 := false) runs nofun next, passed]
  have written : chainSt (raise 307 (brakeTo chain 4 (journalWrite 2 chain u.clo.minutes
      (setChain chain { chainSt u chain with failed := false, overdue := false, pass := some u.clo.minutes } u)))) chain =
      { chainSt u chain with failed := false, overdue := false, pass := some u.clo.minutes, brake := 4 } := by
    rw [chainSt_raise, chainSt_brakeTo, chainSt_journalWrite, chainSt_setChain]
  obtain ⟨brake, failed, pass⟩ := brake_of_beside (x12Watch_beside m [BitVec.ofNat 64 count] (raise 307 (brakeTo chain 4
    (journalWrite 2 chain u.clo.minutes
      (setChain chain { chainSt u chain with failed := false, overdue := false, pass := some u.clo.minutes } u)))) chain)
  rw [brake, failed, pass, written, minutes]
  exact ⟨rfl, rfl, rfl⟩

theorem brakeResultTimeout_missing {chain : Fin 8} {s : State} (runs : (chainSt s chain).brake = 3)
    (first : (chainSt s chain).results = []) (closed : (tsiOf s (chainEnc s chain 0)).window = none)
    (late : (tsiOf s (chainEnc s chain 0)).closedAt + 640000000 ≤ now s) :
    (chainSt (onBrakeResultTimeout chain s) chain).brake = 6 := by
  unfold onBrakeResultTimeout
  extract_lets x missing
  have missed : missing false = true := by
    show ((chainSt s chain).results.all _ && (tsiOf s (chainEnc s chain 0)).window.isNone &&
      decide ((tsiOf s (chainEnc s chain 0)).closedAt + 640000000 ≤ now s)) = true
    rw [first, closed, decide_eq_true late]
    rfl
  have runs' : x.brake = 3 := runs
  rw [if_pos (by rw [decide_eq_true runs', missed]; rfl), chainSt_brakeTo]

theorem brakeTestOverdue_late {chain : Fin 8} {t0 : Tick} {s : State} (brake : chainType s chain = 5)
    (begun : (chainSt s chain).brake ≠ 0) (unpassed : (chainSt s chain).brake ≠ 4) (fresh : (chainSt s chain).overdue = false)
    (late : (chainSt s chain).dueAt + 60 * chainGrace s chain ≤ s.clo.minutes) :
    (chainSt (onBrakeTestOverdue chain t0 s) chain).overdue = true := by
  have brake' : chainType (advance t0 s) chain = 5 := brake
  have fresh' : (chainSt (advance t0 s) chain).overdue = false := fresh
  have late' : (chainSt (advance t0 s) chain).dueAt + 60 * chainGrace (advance t0 s) chain ≤ (advance t0 s).clo.minutes := late
  have open_ : (decide ((chainSt (advance t0 s) chain).brake = 0) || decide ((chainSt (advance t0 s) chain).brake = 4)) = false := by
    rw [decide_eq_false (show (chainSt (advance t0 s) chain).brake ≠ 0 from begun),
      decide_eq_false (show (chainSt (advance t0 s) chain).brake ≠ 4 from unpassed)]
    rfl
  unfold onBrakeTestOverdue
  extract_lets u x
  rw [if_pos (by rw [decide_eq_true brake', open_, fresh', decide_eq_true late']; rfl)]
  exact congrArg ChainSt.overdue ((chainSt_of_chains rfl _).trans (chainSt_setChain chain _ u))

/-! ### Powered time (R401) -/

theorem minutePasses_clo (k : Nat) (s : State) : (minutePasses k s).clo.minutes = s.clo.minutes + k := by
  unfold minutePasses
  extract_lets u
  split <;> rfl

theorem poweredTimeTick_counts (s : State) : (onPoweredTimeTick s).clo.minutes = max s.clo.minutes (s.clo.written + 10) ∧
    (onPoweredTimeTick s).clo.written = (onPoweredTimeTick s).clo.minutes ∧ (onPoweredTimeTick s).clo.cycles = 0 := by
  refine ⟨?_, rfl, rfl⟩
  have minutes := minutePasses_clo (s.clo.written + 10 - s.clo.minutes) s
  refine Eq.trans minutes ?_
  omega

/-! ### Reset (R411, R412) -/

theorem resetChain_kept (c : Nat) (s : State) : cloRest (resetChain c s) = cloRest s := by
  unfold resetChain
  extract_lets x
  split
  · rfl
  · split <;> rfl

theorem chainSt_resetChain_ne {c d : Nat} (s : State) (other : d ≠ c) : chainSt (resetChain c s) d = chainSt s d := by
  unfold resetChain
  extract_lets x
  split
  · exact (chainSt_of_chains rfl _).trans (chainSt_setChain_ne _ s other)
  · split
    · exact chainSt_setChain_ne _ s other
    · rfl

theorem chainSt_resetChain_waiting {c : Nat} {s : State} (waits : (chainSt s c).state = 2) :
    (chainSt (resetChain c s) c).state = 3 := by
  unfold resetChain
  extract_lets x
  have waits' : x.state = 2 := waits
  have open_ : (decide (x.state = 4) && decide (causesOf s c = 0)) = false := by
    rw [waits']
    rfl
  rw [if_neg (by rw [open_]; exact Bool.false_ne_true), if_pos waits', runChain, chainSt_setChain]

/-- The state that the resets of the chains and outputs start from. -/
def resetStart (s : State) : State :=
  let s := { s with clo := { s.clo with press := 0 } }
  let s := bump Reg.CLO_RESET_COUNT 1 s
  let ps := s.clo.partStop && !(decide (4000 ≤ s.clo.hbRun) && !s.fcl.fatal)
  { s with clo := { s.clo with partStop := ps, island := s.clo.island &&& ~~~islandResettable } }

/-- The resets of the chains and outputs. -/
def resetAll (s : State) : State :=
  (List.range 4).foldl (fun s x => resetOut x s) ((usedChains s).foldl (fun s c => resetChain c s) s)

theorem cloRest_resetAll (s : State) : cloRest (resetAll s) = cloRest s :=
  (foldl_kept (g := cloRest) (f := fun s x => resetOut x s) (fun _ _ => rfl) _ _).trans
    (foldl_kept (g := cloRest) (f := fun s c => resetChain c s) (fun s c => resetChain_kept c s) _ s)

theorem resetAll_runs {s : State} {c : Nat} (used : c ∈ usedChains s) (waits : (chainSt s c).state = 2) :
    (chainSt (resetAll s) c).state = 3 := by
  have chains : (resetAll s).clo.chains = ((usedChains s).foldl (fun s c => resetChain c s) s).clo.chains :=
    foldl_kept (g := fun s => s.clo.chains) (f := fun s x => resetOut x s) (fun _ _ => rfl) _ _
  obtain ⟨u, -, same, ends⟩ := foldl_visits (get := fun s => chainSt s c) (rest := fun _ => ()) (f := fun s c => resetChain c s)
    (fun _ _ => rfl) (fun s d other => chainSt_resetChain_ne s (Ne.symm other)) (usedChains_nodup s) used s
  rw [chainSt_of_chains chains, ends]
  exact chainSt_resetChain_waiting (same ▸ waits)

theorem onResetRelease_valid {t0 : Tick} {s : State} (free : s.clo.blocked = false) (passed : s.clo.passed = true)
    (released : inLevel s 16 = false) (valid : within 200 12000 s.clo.press = true) :
    (onResetRelease t0 s).clo = (resetAll (resetStart (advance t0 s))).clo := by
  have free' : (advance t0 s).clo.blocked = false := free
  have passed' : (advance t0 s).clo.passed = true := passed
  have released' : inLevel (advance t0 s) 16 = false := released
  have valid' : within 200 12000 (advance t0 s).clo.press = true := valid
  unfold onResetRelease
  extract_lets u _ s1 v s2 ps _ s3 s4 s5
  rw [if_neg (by rw [free', passed', released', valid']; exact Bool.false_ne_true)]
  have ends : s5 = resetAll (resetStart (advance t0 s)) := rfl
  rw [← ends]
  split <;> rfl

/-- Settles O43: a brake test moves by its chain's own state, and a reset changes the chains that wait and the faults that it may
clear. -/
theorem brakeAndResetCommandsComplete : Obligations.BrakeAndResetCommandsComplete := by
  unfold Obligations.BrakeAndResetCommandsComplete
  refine ⟨fun s chain brake notOne notTwo notThree due => completes rfl (brakeTestDue_requests brake notOne notTwo notThree due),
    fun s chain enc1 count m runs encoder next beyond => completes rfl (brakeWindowResult_fails runs encoder next beyond),
    fun s chain count m runs first one next within_ => completes rfl (brakeWindowResult_passes runs first one next within_),
    fun s chain runs first closed late => completes rfl (brakeResultTimeout_missing runs first closed late),
    fun s chain t0 brake begun unpassed fresh late => completes rfl (brakeTestOverdue_late brake begun unpassed fresh late),
    fun s => completes rfl (poweredTimeTick_counts s), fun s t0 free passed released valid => ?_, fun s t0 high long => ?_⟩
  · refine completes rfl ?_
    have clo := onResetRelease_valid (t0 := t0) free passed released valid
    constructor
    · rw [clo, island_of_rest (cloRest_resetAll _)]
      rfl
    · intro c used waits
      rw [chainSt_of_chains (congrArg CloSt.chains clo)]
      exact resetAll_runs (s := resetStart (advance t0 s)) used waits
  · refine completes rfl ?_
    have ran : onResetHoldTimeout t0 s = resetFault (advance t0 s) := by
      have high' : inLevel (advance t0 s) 16 = true := high
      have long' : 12000 ≤ (advance t0 s).clo.press := long
      exact if_pos (by rw [high', decide_eq_true long']; rfl)
    rw [ran]
    exact ⟨rfl, rfl⟩

/-! ### The black channel (R414 to R418, R488) -/

theorem connSt_setConn (c : Nat) (x : ConnSt) (s : State) : connSt (setConn c x s) c = x := Tab.lookD_put_same ..

/-- A message on a connection that is in use takes the next sequence number and the next slot of the ring. -/
theorem bcSend_counts {c type : Nat} {payload : List Byte} {s : State} (used : connId s c ≠ 0) :
    (connSt (bcSend c type payload s) c).txSeq = ((connSt s c).txSeq + 1) % 2 ^ 32 ∧
      (Tab.lookD (bcSend c type payload s).hif.bc c {}).next = ((Tab.lookD s.hif.bc c {}).next + 1) % 16 := by
  unfold bcSend
  rw [if_neg used]
  extract_lets m a ring a' _ s1 _ s2
  have seq : (connSt s2 c).txSeq = ((connSt s c).txSeq + 1) % 2 ^ 32 := by
    rw [connSt_setConn]
    rfl
  have slot : (Tab.lookD s2.hif.bc c {}).next = ((Tab.lookD s.hif.bc c {}).next + 1) % 16 :=
    congrArg BcArea.next (Tab.lookD_put_same ..)
  split <;> exact ⟨seq, slot⟩

theorem bcSend_block (c type : Nat) (payload : List Byte) (s : State) : (bcSend c type payload s).clo.block = s.clo.block := by
  unfold bcSend
  extract_lets m a ring a' _ s1 _ s2
  split
  · rfl
  · split <;> rfl

theorem usedChains_of_block {s t : State} (block : t.clo.block = s.clo.block) : usedChains t = usedChains s :=
  List.filter_congr fun c _ => by rw [chainType, ce, block, chainType, ce]

theorem bcTxPeriod_sends {conn : Fin 4} {t0 : Tick} {s : State} (passed : s.clo.passed = true) (used : connId s conn ≠ 0)
    (noBrake : ∀ c ∈ usedChains s, chainType s c ≠ 5) (due : (connSt s conn).txAt + txCycles s conn ≤ s.clo.cyc) :
    ∃ u payload, onBcTxPeriod conn t0 s = bcSend conn 1 payload u ∧ connId u conn ≠ 0 ∧
      (connSt u conn).txSeq = (connSt s conn).txSeq ∧ u.hif.bc = s.hif.bc := by
  unfold onBcTxPeriod
  extract_lets u _ u1 u2
  have goes : (!u.clo.passed || decide (u.clo.cyc < (connSt u conn).txAt + txCycles u conn)) = false := by
    have passed' : u.clo.passed = true := passed
    have due' : ¬ u.clo.cyc < (connSt u conn).txAt + txCycles u conn := Nat.not_lt.mpr due
    rw [passed', decide_eq_false due']
    rfl
  have quiet : (usedChains u2).foldl (fun s c => if chainType s c = 5 && chainBc s c = conn.val && (chainSt s c).brake ≠ 0
      then brakeMessage c s else s) u2 = u2 := by
    have block : u2.clo.block = s.clo.block := by
      exact bcSend_block ..
    have chains : usedChains u2 = usedChains s := usedChains_of_block block
    have types (c : Nat) : chainType u2 c = chainType s c := by rw [chainType, ce, block, chainType, ce]
    rw [chains]
    have none_ (l : List Nat) (plain : ∀ c ∈ l, chainType u2 c ≠ 5) : l.foldl (fun s c => if chainType s c = 5 &&
        chainBc s c = conn.val && (chainSt s c).brake ≠ 0 then brakeMessage c s else s) u2 = u2 := by
      induction l with
      | nil => rfl
      | cons c r ih =>
        have other : decide (chainType u2 c = 5) = false := decide_eq_false (plain c (List.mem_cons.mpr (.inl rfl)))
        rw [List.foldl_cons, if_neg (by rw [other]; exact Bool.false_ne_true)]
        exact ih fun d member => plain d (List.mem_cons.mpr (.inr member))
    exact none_ _ fun c member => (types c).trans_ne (noBrake c member)
  rw [if_neg (by rw [goes]; exact Bool.false_ne_true), quiet]
  refine ⟨u1, _, rfl, used, ?_, rfl⟩
  rw [connSt_setConn]
  rfl

theorem bcMessageReceive_accepts {conn : Fin 4} {msg : List Byte} {t0 : Tick} {s : State} (passed : s.clo.passed = true)
    (idle : (Tab.lookD s.hif.bc conn {}).pending = false) (sound : bcChecks (advance t0 s) conn msg = true)
    (first : (connSt s conn).got = false) :
    (connSt (onBcMessageReceive conn msg t0 s) conn).rxSeq = some (leAt msg 4 4) ∧
      (connSt (onBcMessageReceive conn msg t0 s) conn).got = true ∧
      (connSt (onBcMessageReceive conn msg t0 s) conn).timeout = false ∧
      (connSt (onBcMessageReceive conn msg t0 s) conn).vi = leAt msg 16 1 := by
  unfold onBcMessageReceive
  extract_lets u a msg' _ u' x q open_ s1 s2
  have idle' : a.pending = false := idle
  have same : msg' = msg := by
    show (if a.pending then a.inSlot else msg) = msg
    rw [if_neg (by rw [idle']; exact Bool.false_ne_true)]
  have sound' : bcChecks u' conn msg' = true := by
    rw [same]
    exact sound
  have opens : open_ = true := by
    have first' : x.got = false := first
    show (!x.got || x.timeout) = true
    rw [first']
    rfl
  have passed' : u'.clo.passed = true := passed
  rw [if_neg (by rw [passed']; exact Bool.false_ne_true), if_neg (by rw [opens, Bool.not_true, Bool.and_false]; exact Bool.false_ne_true),
    if_pos (by rw [sound', opens]; rfl), connSt_setConn]
  rw [show q = leAt msg 4 4 from by rw [← same], same]
  exact ⟨rfl, rfl, rfl, rfl⟩

theorem bcTimeout_late {conn : Fin 4} {t0 : Tick} {s : State} (used : connId s conn ≠ 0) (passed : s.clo.passed = true)
    (late : (connSt s conn).gotAt + timeoutCycles s conn ≤ s.clo.cyc) : (connSt (onBcTimeout conn t0 s) conn).timeout = true := by
  unfold onBcTimeout
  extract_lets u
  have goes : (decide (connId u conn = 0) || !u.clo.passed || decide (u.clo.cyc < (connSt u conn).gotAt + timeoutCycles u conn)) =
      false := by
    have used' : connId u conn ≠ 0 := used
    have passed' : u.clo.passed = true := passed
    have late' : ¬ u.clo.cyc < (connSt u conn).gotAt + timeoutCycles u conn := Nat.not_lt.mpr late
    rw [decide_eq_false used', passed', decide_eq_false late']
    rfl
  rw [if_neg (by rw [goes]; exact Bool.false_ne_true)]
  exact congrArg ConnSt.timeout (connSt_setConn conn _ u)

theorem inboundDoorbell_area (conn : Fin 4) (slot : List Byte) (s : State) :
    Tab.lookD (onInboundDoorbell conn slot s).hif.bc conn {} =
      if (Tab.lookD s.hif.bc conn {}).pending then { Tab.lookD s.hif.bc conn {} with refused := true }
      else { Tab.lookD s.hif.bc conn {} with inSlot := slot, pending := true, refused := false } := Tab.lookD_put_same ..

/-- Settles O44: a connection counts what it sends and takes the first message that passes its checks; the timers end what they
limit. -/
theorem blackChannelCommandsComplete : Obligations.BlackChannelCommandsComplete := by
  unfold Obligations.BlackChannelCommandsComplete
  refine ⟨fun s conn t0 passed used noBrake due => ?_,
    fun s conn msg t0 passed idle sound first => completes rfl (bcMessageReceive_accepts passed idle sound first),
    fun s conn t0 used passed late => completes rfl (bcTimeout_late used passed late), fun s conn slot idle => ?_,
    fun s conn slot pending => ?_, fun s session late => ?_, fun s last many => ?_⟩
  · refine completes rfl ?_
    obtain ⟨u, payload, sent, used', seq, bc⟩ := bcTxPeriod_sends (t0 := t0) passed used noBrake due
    obtain ⟨seq', slot⟩ := bcSend_counts (type := 1) (payload := payload) used'
    rw [sent, seq', slot, seq, bc]
    exact ⟨rfl, rfl⟩
  · refine completes rfl ?_
    rw [inboundDoorbell_area, if_neg (by rw [idle]; exact Bool.false_ne_true)]
    exact ⟨rfl, rfl, rfl⟩
  · refine completes rfl ?_
    rw [inboundDoorbell_area, if_pos pending]
    exact ⟨rfl, rfl⟩
  · refine completes rfl ?_
    rw [onSessionTimeout, if_pos (by rw [session, decide_eq_true late]; rfl)]
    exact ⟨rfl, rfl⟩
  · refine completes rfl ?_
    have goes : (decide (1 < s.clo.pwLock) || decide (s.clo.failures < 5)) = false := by
      rw [decide_eq_false (Nat.not_lt.mpr last), decide_eq_false (Nat.not_lt.mpr many)]
      rfl
    rw [onPasswordLockExpire, if_neg (by rw [goes]; exact Bool.false_ne_true)]
    exact ⟨rfl, rfl⟩

end Sys2Proof.Machine
end

section
/-! PROOFS. Control items in the blocks they reach (R24, R30, R31, R208, R260 to R264, R501), the Mulch engines and the queues (R299 to
R320). -/

namespace Sys2Proof.Machine

/-! ### What forwarding leaves (R32) -/

/-- The bits of the parts that forwarding a control item changes. -/
def forwardParts : Nat := 2 ^ 0 + 2 ^ 19 + 2 ^ 20 + 2 ^ 25 + 2 ^ 26 + 2 ^ 28 + 2 ^ 35 + 2 ^ 40 + 2 ^ 46

theorem forwardCtl_kept (blk : Block) (item : Item) (s : State) : Keeps forwardParts s (forwardCtl blk item s) :=
  forwardCtl_keeps blk item (by decide) .rfl'

theorem forwardCtl_fdc (blk : Block) (item : Item) (s : State) : (forwardCtl blk item s).fdc = s.fdc :=
  (forwardCtl_kept blk item s).same .fdc (by decide)

theorem tin_of_keeps {w : Nat} {s t : State} (kept : Keeps w s t) (tines : w.testBit Part.tines.bit = false)
    (jobs : w.testBit Part.tinJobs.bit = false) : t.tin = s.tin := by
  obtain ⟨slots, grant, beganL, beganF, evDef, evOvf, evFind⟩ := kept.same .tinJobs jobs
  obtain ⟨tines, sram, code⟩ := kept.same .tines tines
  cases hs : s.tin
  cases ht : t.tin
  simp only [hs, ht] at slots grant beganL beganF evDef evOvf evFind tines sram code
  simp only [slots, grant, beganL, beganF, evDef, evOvf, evFind, tines, sram, code]

theorem forwardCtl_tin (blk : Block) (item : Item) (s : State) : (forwardCtl blk item s).tin = s.tin :=
  tin_of_keeps (forwardCtl_kept blk item s) (by decide) (by decide)

theorem forwardCtl_shown (blk : Block) (item : Item) (s : State) : (forwardCtl blk item s).fcl.shown = s.fcl.shown := by
  obtain ⟨-, -, -, shown, -⟩ := (forwardCtl_kept blk item s).same .fences (by decide)
  exact shown

/-- What a consumer notes of a GRANT item (R34). -/
def takesGrant (blk : Block) (item : Item) (s : State) : State :=
  match blk with
  | .tin => { s with tin := { s.tin with grant := itemGrant s item } }
  | _ => s

theorem onGrantItem_eq {blk : Block} {item : Item} {s : State} (grant : isCtl item 4 = true) :
    onGrantItem blk item s = forwardCtl blk item (takesGrant blk item s) := if_pos grant

theorem takesGrant_others {blk : Block} (other : blk ≠ .tin) (item : Item) (s : State) : takesGrant blk item s = s := by
  cases blk
  case tin => exact absurd rfl other
  all_goals rfl

/-- Settles O34: a control item acts in its block and is then forwarded, which leaves the block's own data. -/
theorem controlItemCommandsComplete : Obligations.ControlItemCommandsComplete := by
  unfold Obligations.ControlItemCommandsComplete
  refine ⟨fun s blk item plan => ?_, fun s blk item swap => ?_, fun s item grant => ?_,
    fun s blk item grant other => completes rfl (by rw [onGrantItem_eq grant, takesGrant_others other]), fun s blk item fence inside fenced => ?_,
    fun s blk item graft free => ?_, fun s blk item mark => completes rfl (if_pos mark), fun s blk item cal => completes rfl (if_pos cal)⟩
  · refine completes rfl ?_
    rw [onPlanItem, if_pos plan]
    exact ⟨forwardCtl_fdc .., forwardCtl_tin ..⟩
  · refine completes rfl ?_
    rw [onSwapItem, if_pos swap]
    exact ⟨forwardCtl_fdc .., forwardCtl_tin ..⟩
  · refine completes rfl ?_
    rw [onGrantItem_eq grant, forwardCtl_tin]
    rfl
  · refine completes rfl ?_
    unfold onFenceItem
    extract_lets u
    rw [if_pos fence, if_pos fenced, forwardCtl_shown]
    exact or_twoPow_getLsbD _ inside
  · refine completes rfl ?_
    unfold onGraftItem
    extract_lets u
    rw [if_pos graft, if_neg (by rw [free]; exact Bool.false_ne_true), forwardCtl_shown]
    exact andNot_twoPow_getLsbD ..

/-! ### A Mulch block done (R313) -/

/-- What is said of the state in which a command completes holds of the state it answers. -/
theorem of_completes {c : Instr} {s u : State} {P : State → Prop} (completes : Completes c s P) (runs : exec c s = .next u) : P u := by
  obtain ⟨t, ends, holds⟩ := completes
  rwa [← eq_of_exec runs ends]

/-- Both Mulch engines hold the last block of capture unit 0's last frame. -/
def captureEnding : State := { State.reset with
  cfg := { State.reset.cfg with recs := [⟨0x0B01, 0xFFFF, 0, List.replicate 32 0⟩] },
  mcd := { State.reset.mcd with engines := [some 32, some 32] },
  tae := { State.reset.tae with units := [(0, { state := 2, nextF := 1, toCode := [⟨0, false, true, true, []⟩] })] } }

theorem captureEnding_releases : (onMulchBlockDone 0 false 0 captureEnding).mcd.engines = [none, none] := by decide +kernel

/-- Refutes O33: the block that engine 0 finishes completes its capture, whose end releases every engine that holds a block of the
unit, engine 1 among them. -/
theorem not_mulchAndQueueCommandsComplete : ¬ Obligations.MulchAndQueueCommandsComplete := by
  unfold Obligations.MulchAndQueueCommandsComplete
  rintro ⟨-, done, -⟩
  have released := of_completes (done captureEnding 0 false 0 32 (by decide) (by decide)) rfl
  exact absurd (captureEnding_releases.symm.trans released) (by decide)

end Sys2Proof.Machine
end

section
/-! PROOFS. Calibration passes and the aux rotation (R57 to R69), the master's orders (R377, R483). -/

namespace Sys2Proof.Machine

/-! ### The strips' calibration state -/

theorem calOf_of_tdc {s t : State} (tdc : t.tdc = s.tdc) (k : Nat) : calOf t k = calOf s k := by rw [calOf, tdc, calOf]

/-- The bits of the parts that a calibration report changes. -/
def reportParts : Nat :=
  2 ^ 0 + 2 ^ 2 + 2 ^ 19 + 2 ^ 20 + 2 ^ 22 + 2 ^ 25 + 2 ^ 26 + 2 ^ 28 + 2 ^ 35 + 2 ^ 40 + 2 ^ 46

theorem attemptReport_tdc (k result : Nat) (dt di : Rat) (s : State) : (attemptReport k result dt di s).tdc = s.tdc :=
  (attemptReport_keeps k result dt di (w := reportParts) (by decide) .rfl').same .tdc (by decide)

/-- An attempt that fails before the fourth begins the next one (R57). -/
theorem calOf_attemptFailed {k result : Nat} {t : Tick} {s : State} (more : (calOf s k).attempt + 1 < 4) :
    calOf (attemptFailed k result t s) k =
      ({ calOf s k with last := result, attempt := (calOf s k).attempt + 1, tested := false } : StripCal).beginPass
        .passA (calLines k).length t := by
  unfold attemptFailed
  extract_lets c u v
  rw [if_pos more, calOf_setCal, calOf_setCal]

theorem attemptFailed_regs {k result : Nat} {t : Tick} {s : State} (more : (calOf s k).attempt + 1 < 4) :
    (attemptFailed k result t s).regs = s.regs := by
  unfold attemptFailed
  extract_lets c u v
  rw [if_pos more]
  show u.regs = s.regs
  unfold u
  split <;> rfl

/-- A pass that its strip has completed (R58). -/
theorem onCalPassEnd_full {strip : Fin 32} {t : Tick} {s : State} (full : (calOf s strip).full = true) :
    onCalPassEnd strip t s = passEnd strip t (advance t s) := if_pos full

theorem passEnd_passA {k : Nat} {t : Tick} {s : State} (phase : (calOf s k).phase = .passA)
    (fits : (((calOf s k).old.zip (calOf s k).counts).all fun p => trimsOk (newTrims p.1 p.2)) = true) :
    calOf (passEnd k t s) k = ({ calOf s k with
      passA := (calOf s k).counts, tested := true,
      next := ((calOf s k).old.zip (calOf s k).counts).map fun p => lineUnderTest p.1 p.2 } : StripCal).beginPass
      .passB (calOf s k).counts.length t := by
  unfold passEnd
  extract_lets c u
  rw [phase]
  dsimp only
  rw [if_pos fits]
  exact calOf_setCal _ _ _

theorem passEnd_passB {k : Nat} {t : Tick} {s : State} (phase : (calOf s k).phase = .passB) :
    calOf (passEnd k t s) k = ({ calOf s k with passB := (calOf s k).counts } : StripCal).beginPass
      .passC (calOf s k).counts.length t := by
  unfold passEnd
  extract_lets c u
  rw [phase]
  exact calOf_setCal _ _ _

theorem passEnd_accepted {k : Nat} {t : Tick} {s : State} (strip : k < 32) (phase : (calOf s k).phase = .passC)
    (agree : passesAgree s (calOf s k).passB (calOf s k).counts = true) :
    (calOf (passEnd k t s) k).phase = .idle ∧ (calOf (passEnd k t s) k).last = 1 ∧ (calOf (passEnd k t s) k).fails = 0 ∧
      evtPending (passEnd k t s) 64 = true := by
  unfold passEnd
  extract_lets c u _ dt di next v
  rw [phase]
  dsimp only
  have same : passesAgree u c.passB c.counts = true := agree
  rw [if_pos same]
  have strips : calOf (postCal k .accept (setCal k { c with
      phase := .idle, next := next, last := 1, fails := 0, accepted := min (c.accepted + 1) 65535, tested := false } v)) k = { c with
      phase := .idle, next := next, last := 1, fails := 0, accepted := min (c.accepted + 1) 65535, tested := false } := calOf_setCal ..
  rw [strips]
  refine ⟨rfl, rfl, rfl, ?_⟩
  show evtPending v 64 = true
  unfold v
  rw [if_pos strip]
  exact evtPending_raise ..

theorem passEnd_disagree {k : Nat} {t : Tick} {s : State} (strip : k < 32) (phase : (calOf s k).phase = .passC)
    (disagree : passesAgree s (calOf s k).passB (calOf s k).counts = false) (more : (calOf s k).attempt < 3) :
    (calOf (passEnd k t s) k).phase = .passA ∧ (calOf (passEnd k t s) k).last = 2 ∧
      (calOf (passEnd k t s) k).attempt = (calOf s k).attempt + 1 ∧ evtPending (passEnd k t s) 65 = true := by
  unfold passEnd
  extract_lets c u _ dt di next v
  rw [phase]
  dsimp only
  have differ : passesAgree u c.passB c.counts = false := disagree
  rw [if_neg (by rw [differ]; exact Bool.false_ne_true), if_pos strip]
  have cal : calOf (raise 65 (attemptReport k 2 dt di u)) k = calOf s k :=
    (calOf_of_tdc (attemptReport_tdc ..) k).trans rfl
  have open_ : (calOf (raise 65 (attemptReport k 2 dt di u)) k).attempt + 1 < 4 := by rw [cal]; omega
  rw [calOf_attemptFailed open_, cal]
  refine ⟨rfl, rfl, rfl, ?_⟩
  rw [evtPending, rd, attemptFailed_regs open_]
  exact evtPending_raise ..

/-- A pass older than pass_timeout ends its cycle (R62). -/
theorem tdcCalStarved_ends {strip : Fin 32} {t0 : Tick} {s : State} (running : (calOf s strip).phase ≠ .idle)
    (late : (calOf s strip).kind ≠ .startup) (limit : rdf s Fld.TDC_CAL_TIMING_pass_timeout ≠ 0)
    (over_ : (calOf s strip).began + rdf s Fld.TDC_CAL_TIMING_pass_timeout * 6400000000 ≤ t0) :
    calOf (onTdcCalStarved strip t0 s) strip =
      { calOf s strip with phase := .idle, last := 4, starvedAt := some t0, tested := false } ∧
      evtPending (onTdcCalStarved strip t0 s) 67 = true := by
  unfold onTdcCalStarved
  extract_lets u c lim v x
  have starved : (decide (c.phase ≠ .idle) && !decide (c.kind = .startup) && decide (lim ≠ 0) && decide (c.began + lim ≤ t0)) = true := by
    have limits : lim ≠ 0 := Nat.mul_ne_zero limit (by decide)
    rw [decide_eq_true (p := c.phase ≠ .idle) running, decide_eq_false (p := c.kind = .startup) late, decide_eq_true limits,
      decide_eq_true (p := c.began + lim ≤ t0) over_]
    rfl
  rw [if_pos starved]
  exact ⟨calOf_setCal .., evtPending_raise ..⟩

/-! ### Requests (R65) -/

theorem maskOf_succ (n : Nat) (p : Nat → Bool) : maskOf (n + 1) p = if p n then maskOf n p + 2 ^ n else maskOf n p := by
  rw [maskOf, List.range_succ, List.foldl_append]
  rfl

theorem maskOf_lt (n : Nat) (p : Nat → Bool) : maskOf n p < 2 ^ n := by
  induction n with
  | zero => exact Nat.one_pos
  | succ n ih => rw [maskOf_succ, Nat.pow_succ]; split <;> omega

theorem maskOf_testBit (n : Nat) (p : Nat → Bool) (k : Nat) : (maskOf n p).testBit k = (decide (k < n) && p k) := by
  induction n with
  | zero => exact Nat.zero_testBit k
  | succ n ih =>
    have small := maskOf_lt n p
    have below : decide (k < n + 1) = (decide (k < n) || decide (k = n)) := by simp only [Nat.lt_succ_iff_lt_or_eq, Bool.decide_or]
    rw [maskOf_succ, below]
    split
    next set =>
      rw [Nat.add_comm, ← Nat.mul_one (2 ^ n), Nat.two_pow_add_eq_or_of_lt small, Nat.mul_one, Nat.testBit_or, ih, Nat.testBit_two_pow]
      by_cases same : k = n
      · simp [same, set]
      · simp [same, Ne.symm same]
    next clear =>
      rw [ih]
      by_cases same : k = n
      · simp [same, clear]
      · simp [same]

/-- A request marks the strips of its mask that are in no cycle (R65). -/
theorem tdcCalReq_bit {mask : Word32} {t : Tick} {s : State} (started : 6 ≤ s.boot.step) (k : Fin 32) :
    (rd (onTdcCalReq mask t s) Reg.TDC_CAL_REQ).getLsbD k =
      ((rd s Reg.TDC_CAL_REQ).getLsbD k || (mask.getLsbD k && decide ((calOf s k).phase = .idle))) := by
  unfold onTdcCalReq
  extract_lets u m
  have runs : ¬ u.boot.step < 6 := Nat.not_lt.2 started
  have bit : m.testBit k = (mask.getLsbD k && decide ((calOf s k).phase = .idle)) := by
    have mask_ : m = maskOf 32 fun k => mask.getLsbD k && decide ((calOf s k).phase = .idle) := rfl
    rw [mask_, maskOf_testBit, decide_eq_true k.isLt, Bool.true_and]
  rw [if_neg runs, rd_wr, BitVec.getLsbD_or, BitVec.getLsbD_ofNat, decide_eq_true k.isLt, Bool.true_and, bit]
  rfl

/-! ### The aux lines (R67, R68) -/

/-- The bits of the parts that the CAL item of an aux-line swap changes. -/
def auxItemParts : Nat := 2 ^ 0 + 2 ^ 19 + 2 ^ 20 + 2 ^ 25 + 2 ^ 26 + 2 ^ 28 + 2 ^ 35 + 2 ^ 40 + 2 ^ 46

theorem auxCalItem_tsu (chan : Nat) (s : State) : (auxCalItem chan s).tsu = s.tsu :=
  (auxCalItem_keeps chan (w := auxItemParts) (by decide) .rfl').same .tsu (by decide)

/-- A failed cycle of the spare counts towards three in a row (R69). -/
theorem auxFailed_eq (line : Nat) (s : State) : (auxFailed line s).tdc = s.tdc ∧ (auxFailed line s).tsu.overlap = s.tsu.overlap ∧
    (auxFailed line s).tsu.lineOf = s.tsu.lineOf ∧
    Tab.lookD (auxFailed line s).tsu.auxFails line 0 = Tab.lookD s.tsu.auxFails line 0 + 1 ∧
    (auxFailed line s).tsu.stopped = (s.tsu.stopped || decide (3 ≤ Tab.lookD s.tsu.auxFails line 0 + 1)) := by
  have counted : Tab.lookD (auxCount line s).tsu.auxFails line 0 = Tab.lookD s.tsu.auxFails line 0 + 1 := Tab.lookD_put_same ..
  unfold auxFailed
  extract_lets u
  split
  next three => exact ⟨rfl, rfl, rfl, counted, by rw [← counted, decide_eq_true three, Bool.or_true]; rfl⟩
  next fewer => exact ⟨rfl, rfl, rfl, counted, by rw [← counted, decide_eq_false fewer, Bool.or_false]; rfl⟩

theorem auxCycle_advance (t : Tick) (s : State) (n : Nat) (l : Line) (as : List (List Nat × List Nat × List Nat)) :
    auxCycle n (advance t s) l as = auxCycle n s l as := by
  induction as generalizing n with
  | nil => cases n <;> rfl
  | cons p r ih =>
    cases n with
    | zero => rfl
    | succ n =>
      have whole : passWhole (advance t s) = passWhole s := rfl
      have attempt : auxAttempt (advance t s) = auxAttempt s := rfl
      rw [auxCycle, auxCycle, whole, attempt, ih]

theorem keepPass_aux (spare : Nat) (h : List Nat) (s : State) : keepPass (32 + spare) [h] s =
    { s with tdc := { s.tdc with lastPass := Tab.put s.tdc.lastPass (512 + spare) h } } := by
  have line : calLines (32 + spare) = [512 + spare] := by
    rw [calLines, if_neg (by omega), Nat.add_sub_cancel_left]
  rw [keepPass, line]
  rfl

section
variable {attempts : List (PassCounts × PassCounts × PassCounts)} {t0 : Tick} {s : State} {h : List Nat}
  (runs : s.tsu.stopped = false) (free : s.tsu.overlap = none) (calibrated : s.tdc.calDone = true)
include runs free calibrated

theorem auxRotationStep_accepted {l : Line}
    (cycle : auxCycle 4 s (lineOf s (512 + s.tsu.spare)) attempts = some (some l, h)) : onAuxRotationStep attempts t0 s =
      { keepPass (32 + s.tsu.spare) [h] (advance t0 s) with
        tdc := { (keepPass (32 + s.tsu.spare) [h] (advance t0 s)).tdc with lines := Tab.put s.tdc.lines (512 + s.tsu.spare) l },
        tsu := { s.tsu with overlap := some ⟨s.tsu.spare, s.tsu.nextChan, true⟩ } } := by
  unfold onAuxRotationStep
  extract_lets u
  have rotates : ¬ (u.tsu.stopped || u.tsu.overlap.isSome || !u.tdc.calDone) = true := by
    rw [show u.tsu.stopped = false from runs, show u.tsu.overlap = none from free, show u.tdc.calDone = true from calibrated]
    decide
  have cycles : auxCycle 4 u (lineOf u (512 + u.tsu.spare)) attempts = some (some l, h) := (auxCycle_advance ..).trans cycle
  rw [if_neg rotates, cycles]
  rfl

theorem auxRotationStep_failed (cycle : auxCycle 4 s (lineOf s (512 + s.tsu.spare)) attempts = some (none, h)) :
    onAuxRotationStep attempts t0 s = auxFailed s.tsu.spare (keepPass (32 + s.tsu.spare) [h] (advance t0 s)) := by
  unfold onAuxRotationStep
  extract_lets u
  have rotates : ¬ (u.tsu.stopped || u.tsu.overlap.isSome || !u.tdc.calDone) = true := by
    rw [show u.tsu.stopped = false from runs, show u.tsu.overlap = none from free, show u.tdc.calDone = true from calibrated]
    decide
  have cycles : auxCycle 4 u (lineOf u (512 + u.tsu.spare)) attempts = some (none, h) := (auxCycle_advance ..).trans cycle
  rw [if_neg rotates, cycles]
  rfl

end

theorem auxOverlapEnd_agreed {t0 : Tick} {s : State} {o : Overlap} (overlap : s.tsu.overlap = some o) (agree : o.agree = true) :
    onAuxOverlapEnd t0 s = raise 44 (auxCalItem o.chan { advance t0 s with tsu := { s.tsu with
      lineOf := s.tsu.lineOf.set o.chan o.line, spare := s.tsu.lineOf.getD o.chan 0,
      auxFails := Tab.put s.tsu.auxFails o.line 0, nextChan := (o.chan + 1) % 19, overlap := none } }) := by
  have overlaps : (advance t0 s).tsu.overlap = some o := overlap
  simp only [onAuxOverlapEnd, overlaps]
  exact if_pos agree

theorem auxOverlapEnd_differs {t0 : Tick} {s : State} {o : Overlap} (overlap : s.tsu.overlap = some o) (differs : o.agree = false) :
    onAuxOverlapEnd t0 s = auxFailed o.line { advance t0 s with tsu := { s.tsu with overlap := none } } := by
  have overlaps : (advance t0 s).tsu.overlap = some o := overlap
  simp only [onAuxOverlapEnd, overlaps]
  exact if_neg (by rw [differs]; exact Bool.false_ne_true)

/-- What the end of an overlap that agreed leaves (R68). -/
theorem auxOverlapEnd_swaps {t0 : Tick} {s : State} {o : Overlap} (overlap : s.tsu.overlap = some o) (agree : o.agree = true) :
    (onAuxOverlapEnd t0 s).tsu.overlap = none ∧ (onAuxOverlapEnd t0 s).tsu.lineOf = s.tsu.lineOf.set o.chan o.line ∧
      (onAuxOverlapEnd t0 s).tsu.spare = s.tsu.lineOf.getD o.chan 0 ∧ (onAuxOverlapEnd t0 s).tsu.nextChan = (o.chan + 1) % 19 ∧
      evtPending (onAuxOverlapEnd t0 s) 44 = true := by
  rw [auxOverlapEnd_agreed overlap agree, raise_tsu, auxCalItem_tsu]
  exact ⟨rfl, rfl, rfl, rfl, evtPending_raise ..⟩

/-- Settles O24: each command's step, from the strip's phase and the spare's cycle. -/
theorem calibrationCommandsComplete : Obligations.CalibrationCommandsComplete := by
  unfold Obligations.CalibrationCommandsComplete
  refine ⟨fun s strip t0 full phase => completes rfl ?_, fun s strip t0 running late limit old => completes rfl ?_,
    fun s mask t0 k started marked idle => completes rfl ?_, fun s att t0 r runs free calibrated cycle => completes rfl ?_,
    fun s t0 o overlap agree => completes rfl ?_⟩
  · rw [onCalPassEnd_full full, passEnd_passB (s := advance t0 s) phase]
    exact ⟨rfl, rfl, rfl⟩
  · obtain ⟨cal, -⟩ := tdcCalStarved_ends running late limit old
    rw [cal]
    exact ⟨rfl, rfl, rfl⟩
  · rw [tdcCalReq_bit started, marked, decide_eq_true idle]
    simp
  · obtain ⟨accepted, h⟩ := r
    cases accepted with
    | none =>
      rw [auxRotationStep_failed runs free calibrated cycle]
      obtain ⟨tdc, overlap, -, fails, -⟩ := auxFailed_eq s.tsu.spare (keepPass (32 + s.tsu.spare) [h] (advance t0 s))
      rw [tdc, overlap, fails, keepPass_aux]
      refine ⟨fun k => ?_, fun l line => absurd line (by simp), fun _ => ⟨free, rfl⟩⟩
      split
      next line => subst line; exact Tab.look_put_same ..
      next other => exact Tab.look_put_ne _ _ other
    | some l =>
      rw [auxRotationStep_accepted runs free calibrated cycle, keepPass_aux]
      refine ⟨fun k => ?_, fun m line => ?_, fun failed => absurd failed (by simp)⟩
      · split
        next line => subst line; exact Tab.look_put_same ..
        next other => exact Tab.look_put_ne _ _ other
      · cases line
        exact ⟨rfl, Tab.look_put_same ..⟩
  · obtain ⟨none_, lines, spare, next_, -⟩ := auxOverlapEnd_swaps (t0 := t0) overlap agree
    exact ⟨none_, lines, spare, next_⟩

end Sys2Proof.Machine
end

section
/-! PROOFS. What sending a message leaves (R361, R363), and the master's orders (R377, R483). -/

namespace Sys2Proof.Machine

/-! ### The records in force -/

/-- What the records in force depend on is the same in `t` as in `s`. -/
structure SameImage (s t : State) : Prop where
  cfg : t.cfg = s.cfg
  addr : t.trl.addr = s.trl.addr
  held : t.trl.lidarHeld = s.trl.lidarHeld

theorem SameImage.of_keeps {w : Nat} {s t : State} (kept : Keeps w s t) (cfg : w.testBit Part.cfg.bit = false)
    (cascade : w.testBit Part.cascade.bit = false) : SameImage s t := by
  obtain ⟨addr, -, -, -, -, -, -, -, -, -, -, -, -, -, -, -, -, -, -, held, -⟩ := kept.same .cascade cascade
  exact ⟨kept.same .cfg cfg, addr, held⟩

theorem SameImage.refl (s : State) : SameImage s s := ⟨rfl, rfl, rfl⟩

theorem SameImage.trans {s t u : State} (h : SameImage s t) (k : SameImage t u) : SameImage s u :=
  ⟨k.cfg.trans h.cfg, k.addr.trans h.addr, k.held.trans h.held⟩

section
variable {s t : State} (same : SameImage s t)
include same

theorem SameImage.recsOf (type : Nat) : recsOf t type = recsOf s type := by
  unfold Machine.recsOf
  rw [same.cfg, same.addr]

theorem SameImage.recOf (type : Nat) : recOf t type = recOf s type := by rw [Machine.recOf, same.recsOf, Machine.recOf]

theorem SameImage.hasLidar : hasLidar t = hasLidar s := by
  rw [Machine.hasLidar, personality, same.recOf, same.held, Machine.hasLidar, personality]

theorem SameImage.hasFibre : hasFibre t = hasFibre s := by rw [Machine.hasFibre, personality, same.recOf, Machine.hasFibre, personality]

theorem SameImage.sharedDom : sharedDom t = sharedDom s := by rw [Machine.sharedDom, same.hasLidar, same.hasFibre, Machine.sharedDom]

theorem SameImage.cascRec : cascRec t = cascRec s := same.recOf _

end

/-! ### Events through the link -/

/-- A parity failure of the transmit queue loses no pending event of another register. -/
theorem evtPending_parityFailed {n : Nat} (other : evtReg n ≠ Reg.QSY_PARITY) (k m : Nat) {s : State} (pending : evtPending s n = true) :
    evtPending (parityFailed k m s) n = true := by
  unfold parityFailed
  split
  · exact pending
  · refine evtPending_of_setBits (s := bump Reg.QSY_PARITY k (fault 248 Src.qsy 0 .corrected m s)) rfl ?_
    refine evtPending_of_put rfl other ?_
    exact (fault_losesNoStop 248 Src.qsy 0 .corrected m s).pending n pending

theorem evtPending_of_regs {s t : State} {n : Nat} (regs : t.regs = s.regs) : evtPending t n = evtPending s n := by
  rw [evtPending, rd, regs]
  rfl

theorem setPort_regs (p : Port) (x : PortSt) (s : State) : (setPort p x s).regs = s.regs := by cases p <;> rfl

theorem evtPending_pumpVc3 {n : Nat} (other : evtReg n ≠ Reg.QSY_PARITY) (p : Port) (fuel : Nat) {s : State}
    (pending : evtPending s n = true) : evtPending (pumpVc3 fuel p s) n = true := by
  induction fuel generalizing s with
  | zero => exact pending
  | succ fuel ih =>
    unfold pumpVc3
    extract_lets q
    split
    · exact pending
    · dsimp only
      split
      · refine ih (evtPending_parityFailed other _ _ ?_)
        show evtPending (setPort p _ s) n = true
        rwa [evtPending_of_regs (setPort_regs ..)]
      · rwa [evtPending_of_regs (setPort_regs ..)]

theorem evtPending_pump {n : Nat} (other : evtReg n ≠ Reg.QSY_PARITY) (p : Port) {s : State} (pending : evtPending s n = true) :
    evtPending (pump p s) n = true := by
  unfold pump
  extract_lets x fuel u
  have kept : evtPending u n = true := by rwa [evtPending_of_regs (setPort_regs ..)]
  split
  · exact evtPending_pumpVc3 other _ _ kept
  · exact kept

theorem evtPending_sendMsg {n : Nat} (other : evtReg n ≠ Reg.QSY_PARITY) (p : Port) (m : LinkMsg) {s : State}
    (pending : evtPending s n = true) : evtPending (sendMsg p m s) n = true := by
  have waits (x : PortSt) : evtPending (pump p (setPort p x s)) n = true :=
    evtPending_pump other p (by rwa [evtPending_of_regs (setPort_regs ..)])
  unfold sendMsg
  extract_lets x
  split
  · split
    · exact waits _
    · exact pending
  · split
    · exact pending
    · split
      · rwa [evtPending_of_regs (setPort_regs ..)]
      · exact waits _

theorem evtPending_toMaster {n : Nat} (other : evtReg n ≠ Reg.QSY_PARITY) (m : LinkMsg) {s : State} (pending : evtPending s n = true) :
    evtPending (toMaster m s) n = true := by
  unfold toMaster
  split
  · exact pending
  · exact evtPending_sendMsg other _ _ pending

/-! ### The master's orders -/

/-- The state in which an order of the master is judged: the time of its arrival, its credit returned, the message sent on
(R361, R377). -/
def orderArrived (code : BitVec 16) (args : List Byte) (frame : BitVec 24) (t : Tick) (s : State) : State :=
  let u := sendMsg .dn (.order code.toNat args frame.toNat) (received .up 1 104 (advance t s))
  { u with hif := { u.hif with orderFrame := frame.toNat, orderStat := 0 } }

/-- The bits of the parts that an order changes before it is judged. -/
def arriveParts : Nat := 2 ^ 0 + 2 ^ 6 + 2 ^ 20 + 2 ^ 25 + 2 ^ 26 + 2 ^ 35 + 2 ^ 40 + 2 ^ 46

theorem orderArrived_kept (code : BitVec 16) (args : List Byte) (frame : BitVec 24) (t : Tick) (s : State) :
    Keeps arriveParts s (sendMsg .dn (.order code.toNat args frame.toNat) (received .up 1 104 (advance t s))) :=
  sendMsg_keeps _ _ (by decide) (received_keeps _ _ _ (by decide) (advance_keeps _ (by decide) .rfl'))

section
variable (code : BitVec 16) (args : List Byte) (frame : BitVec 24) (t : Tick) (s : State)

theorem orderArrived_esq : (orderArrived code args frame t s).esq = s.esq := (orderArrived_kept code args frame t s).same .esq (by decide)

theorem orderArrived_fib : (orderArrived code args frame t s).fib = s.fib := (orderArrived_kept code args frame t s).same .fib (by decide)

theorem orderArrived_image : SameImage s (orderArrived code args frame t s) :=
  have image := SameImage.of_keeps (orderArrived_kept code args frame t s) (by decide) (by decide)
  ⟨image.cfg, image.addr, image.held⟩

theorem orderArrived_localFrame (f : Nat) : localFrame (orderArrived code args frame t s) f = localFrame s f := by
  obtain ⟨-, -, -, -, -, -, -, -, -, -, -, -, -, -, -, -, -, -, -, -, -, joinOff, -⟩ :=
    (orderArrived_kept code args frame t s).same .cascade (by decide)
  have off : (orderArrived code args frame t s).trl.joinOff = s.trl.joinOff := joinOff
  rw [localFrame, off, localFrame]

theorem orderArrived_deferred : (orderArrived code args frame t s).hif.deferred = s.hif.deferred := by
  obtain ⟨-, -, -, -, -, -, -, -, deferred⟩ := (orderArrived_kept code args frame t s).same .mailbox (by decide)
  exact deferred

theorem orderArrived_inSession : inSession (orderArrived code args frame t s) = inSession s := by
  obtain ⟨-, mode, -⟩ := (orderArrived_kept code args frame t s).same .boot (by decide)
  obtain ⟨-, -, session, -⟩ := (orderArrived_kept code args frame t s).same .commissioning (by decide)
  have mode_ : (orderArrived code args frame t s).boot.mode = s.boot.mode := mode
  have session_ : (orderArrived code args frame t s).clo.session = s.clo.session := session
  rw [inSession, commissioning, mode_, session_, inSession, commissioning]

theorem orderArrived_ctxOf (d : Dom) : ctxOf (orderArrived code args frame t s) d = ctxOf s d := by
  cases d
  · rw [ctxOf, orderArrived_esq]; rfl
  · rw [ctxOf, orderArrived_fib]; rfl

theorem orderArrived_now : now (orderArrived code args frame t s) = now (advance t s) := by
  have kept : Keeps (arriveParts - 2 ^ 6) (advance t s)
      (sendMsg .dn (.order code.toNat args frame.toNat) (received .up 1 104 (advance t s))) :=
    sendMsg_keeps _ _ (by decide) (received_keeps _ _ _ (by decide) .rfl')
  have tb : (orderArrived code args frame t s).tb = (advance t s).tb := kept.same .tb (by decide)
  rw [now, tb, now]

end

theorem hearsMaster_received (bytes : Nat) {s : State} (hears : hearsMaster s = true) : hearsMaster (received .up 1 bytes s) = true := by
  unfold received
  extract_lets n
  split
  · exact hears
  · exact hears

/-- A FAULT_CLEAR of the master whose frame lies ahead waits for it (R483). -/
theorem masterOrder_waits {x : OrderArgs} {f : Nat} {t : Tick} {s : State} (clear : x.code = 0x0301)
    (ahead : judgeFrame (ctxOf s (sharedDom s)) f = .ahead) : masterOrder x f t s = orderWaits .master x f 1 t s := by
  have domain : orderDom s x = sharedDom s := by rw [orderDom, clear]; rfl
  have run : runOrder .master x (some f) 1 t s = orderAt .master x (some f) 1 t (faultClear .master x.word) s := by
    simp [runOrder, clear, isCapCode]
  unfold masterOrder
  rw [clear, domain, ahead]
  dsimp only
  rw [if_neg (by simp), run, orderAt, domain, ahead]

/-- A FAULT_CLEAR of the master whose frame has passed is late (R377, R483). -/
theorem masterOrder_late {x : OrderArgs} {f : Nat} {t : Tick} {s : State} (clear : x.code = 0x0301)
    (late : judgeFrame (ctxOf s (sharedDom s)) f = .late) : masterOrder x f t s = orderLate f s := by
  have domain : orderDom s x = sharedDom s := by rw [orderDom, clear]; rfl
  unfold masterOrder
  rw [clear, domain, late]
  rfl

section
variable {code : BitVec 16} {args : List Byte} {frame : BitVec 24} {t0 : Tick} {s : State} (hears : hearsMaster s = true)
include hears

/-- An order that the mailbox gives a frame is judged by its frame (R377). -/
theorem onOrder_framed (framed : isOrderCode code.toNat = true) : onOrder code args frame t0 s =
    masterOrder ⟨code.toNat, leAt args 8 1, leAt args 9 1⟩ (localFrame s frame.toNat) (now (advance t0 s))
      (orderArrived code args frame t0 s) := by
  unfold onOrder
  extract_lets u v x
  rw [if_neg (by rw [hearsMaster_received 104 (s := advance t0 s) hears]; decide), if_pos framed]
  show masterOrder _ (localFrame (orderArrived code args frame t0 s) frame.toNat) (now (orderArrived code args frame t0 s))
    (orderArrived code args frame t0 s) = _
  rw [orderArrived_localFrame, orderArrived_now]

/-- A management order runs at once (R377). -/
theorem onOrder_manages (manages : isOrderCode code.toNat = false) : onOrder code args frame t0 s =
    runManage code.toNat (args.drop 8) (orderArrived code args frame t0 s) := by
  unfold onOrder
  extract_lets u v x
  rw [if_neg (by rw [hearsMaster_received 104 (s := advance t0 s) hears]; decide), if_neg (by rw [manages]; decide)]
  rfl

/-- A FAULT_CLEAR whose frame lies ahead waits for it (R483). -/
theorem onOrder_waits (ahead : judgeFrame (ctxOf s (sharedDom s)) (localFrame s frame.toNat) = .ahead) :
    onOrder 0x0301 args frame t0 s = orderWaits .master ⟨0x0301, leAt args 8 1, leAt args 9 1⟩ (localFrame s frame.toNat) 1
      (now (advance t0 s)) (orderArrived 0x0301 args frame t0 s) := by
  have judged : judgeFrame (ctxOf (orderArrived 0x0301 args frame t0 s) (sharedDom (orderArrived 0x0301 args frame t0 s)))
      (localFrame s frame.toNat) = .ahead := by rw [(orderArrived_image ..).sharedDom, orderArrived_ctxOf]; exact ahead
  rw [onOrder_framed hears (by decide)]
  generalize orderArrived 0x0301 args frame t0 s = u at judged ⊢
  exact masterOrder_waits rfl judged

end

section
variable {args : List Byte} {frame : BitVec 24} {t0 : Tick} {s : State} (hears : hearsMaster s = true)
include hears

theorem onOrder_late (late : judgeFrame (ctxOf s (sharedDom s)) (localFrame s frame.toNat) = .late) :
    onOrder 0x0301 args frame t0 s = orderLate (localFrame s frame.toNat) (orderArrived 0x0301 args frame t0 s) := by
  have judged : judgeFrame (ctxOf (orderArrived 0x0301 args frame t0 s) (sharedDom (orderArrived 0x0301 args frame t0 s)))
      (localFrame s frame.toNat) = .late := by rw [(orderArrived_image ..).sharedDom, orderArrived_ctxOf]; exact late
  rw [onOrder_framed hears (by decide)]
  generalize orderArrived 0x0301 args frame t0 s = u at judged ⊢
  exact masterOrder_late rfl judged

/-- A log-out of the master ends the session at once, whatever frame it names. -/
theorem onOrder_logout (session : inSession s = true) : ∃ u, onOrder 0x0404 args frame t0 s = finish .master .ok 0 u ∧
    u.hif.orderFrame = frame.toNat ∧ u.clo.session = false ∧ u.clo.staged = none := by
  rw [onOrder_manages hears (by decide)]
  have runs := cloLogout_session (o := .master) ((orderArrived_inSession 0x0404 args frame t0 s).trans session)
  exact ⟨_, runs, rfl, rfl, rfl⟩

end

/-- The bits of the parts that a late order changes before it ends. -/
def lateParts : Nat := 2 ^ 0 + 2 ^ 20 + 2 ^ 25 + 2 ^ 26 + 2 ^ 35 + 2 ^ 40 + 2 ^ 46

theorem orderLate_reports (f : Nat) (s : State) : (orderLate f s).hif.orderFrame = s.hif.orderFrame ∧
    (orderLate f s).hif.orderStat = Status.late.code ∧ (orderLate f s).hif.deferred = s.hif.deferred ∧
    evtPending (orderLate f s) 295 = true := by
  have kept : Keeps lateParts s (toMaster (.orderLate s.trl.addr f) (fault 295 Src.trl 0 .corrected 0 s)) :=
    toMaster_keeps _ (by decide) (fault_keeps _ _ _ _ _ (by decide) .rfl')
  obtain ⟨-, -, -, -, -, frame, -, -, deferred⟩ := kept.same .mailbox (by decide)
  exact ⟨frame, rfl, deferred, evtPending_toMaster (by decide) _ (evtPending_fault ..)⟩

/-- Settles O60: the calibration's steps by the strip's phase, the spare's cycle by its result, an order by its frame. -/
theorem calibrationAndOrderFormsAnswer : Obligations.CalibrationAndOrderFormsAnswer := by
  unfold Obligations.CalibrationAndOrderFormsAnswer
  refine ⟨fun s strip t0 c state full _ => ⟨_, rfl, ?_⟩, fun s strip t0 running late limit old => ⟨_, rfl, ?_⟩,
    fun s mask t0 started => ⟨_, rfl, tdcCalReq_bit started⟩, fun s att t0 l h runs free calibrated cycle => ⟨_, rfl, ?_⟩,
    fun s att t0 h runs free calibrated cycle => ⟨_, rfl, ?_⟩, fun s t0 o overlap agree => ⟨_, rfl, auxOverlapEnd_swaps overlap agree⟩,
    fun s t0 o overlap differs => ⟨_, rfl, ?_⟩, fun s args frame t0 hears ahead => ⟨_, rfl, ?_⟩,
    fun s args frame t0 hears late => ⟨_, rfl, ?_⟩, fun s args frame t0 hears session => ⟨_, rfl, ?_⟩⟩
  · subst state
    rw [onCalPassEnd_full full]
    refine ⟨fun phase fits => ?_, fun phase => ?_, fun phase agree => passEnd_accepted (s := advance t0 s) strip.isLt phase agree,
      fun phase differ more => passEnd_disagree (s := advance t0 s) strip.isLt phase differ more⟩
    · rw [passEnd_passA (s := advance t0 s) phase fits]
      exact ⟨rfl, rfl, rfl, rfl⟩
    · rw [passEnd_passB (s := advance t0 s) phase]
      exact ⟨rfl, rfl, rfl⟩
  · obtain ⟨cal, event⟩ := tdcCalStarved_ends running late limit old
    rw [cal]
    exact ⟨rfl, rfl, rfl, rfl, event⟩
  · rw [auxRotationStep_accepted runs free calibrated cycle, keepPass_aux]
    exact ⟨rfl, Tab.look_put_same ..⟩
  · rw [auxRotationStep_failed runs free calibrated cycle]
    obtain ⟨-, overlap, -, fails, stopped⟩ := auxFailed_eq s.tsu.spare (keepPass (32 + s.tsu.spare) [h] (advance t0 s))
    rw [overlap, fails, stopped, keepPass_aux]
    refine ⟨free, rfl, ?_⟩
    rw [show (advance t0 s).tsu.stopped = false from runs, Bool.false_or]
    rfl
  · rw [auxOverlapEnd_differs overlap differs]
    obtain ⟨-, ended, lines, fails, -⟩ := auxFailed_eq o.line { advance t0 s with tsu := { s.tsu with overlap := none } }
    exact ⟨ended, lines, fails⟩
  · rw [onOrder_waits hears ahead]
    refine ⟨rfl, rfl, ?_⟩
    have domain : sharedDom (orderArrived 0x0301 args frame t0 s) = sharedDom s := (orderArrived_image ..).sharedDom
    show (orderArrived 0x0301 args frame t0 s).hif.deferred ++ _ = _
    rw [orderArrived_deferred, ← domain]
    rfl
  · rw [onOrder_late hears late]
    obtain ⟨named, status, deferred, event⟩ := orderLate_reports (localFrame s frame.toNat) (orderArrived 0x0301 args frame t0 s)
    exact ⟨named, status, deferred.trans (orderArrived_deferred ..), event⟩
  · obtain ⟨u, runs, named, ended, staged⟩ := onOrder_logout (args := args) (frame := frame) (t0 := t0) hears session
    rw [runs]
    exact ⟨named, rfl, ended, staged⟩

end Sys2Proof.Machine
end

section
/-! PROOFS. The lanes and ports of the link (R353 to R361), its packets, credits, commas and cable lengths (R360 to R364, R368, R381). -/

namespace Sys2Proof.Machine

/-! ### Ports -/

theorem portOf_setPort (p : Port) (x : PortSt) (s : State) : portOf (setPort p x s) p = x := by cases p <;> rfl

theorem portOf_setPort_ne {p q : Port} (other : q ≠ p) (x : PortSt) (s : State) : portOf (setPort p x s) q = portOf s q := by
  cases p <;> cases q
  case up.up => exact absurd rfl other
  case dn.dn => exact absurd rfl other
  all_goals rfl

theorem portOf_of_keeps {w : Nat} {s t : State} (kept : Keeps w s t) (up : w.testBit Part.portUp.bit = false)
    (dn : w.testBit Part.portDn.bit = false) (p : Port) : portOf t p = portOf s p := by
  cases p
  · exact kept.same .portUp up
  · exact kept.same .portDn dn

/-- A port without what waits, what was sent and what it may still send (R361). -/
def PortSt.standing (x : PortSt) : PortSt :=
  { x with credit := [], txSeq := [], waiting := [], waitFrom := none, sent := [], blocks := [] }

/-- The ports of `t` stand as those of `s`: they differ in what is sent alone. -/
structure PortsStand (s t : State) : Prop where
  port : ∀ p, (portOf t p).standing = (portOf s p).standing

theorem PortsStand.refl (s : State) : PortsStand s s := ⟨fun _ => rfl⟩

theorem PortsStand.trans {s t u : State} (h : PortsStand s t) (k : PortsStand t u) : PortsStand s u :=
  ⟨fun p => (k.port p).trans (h.port p)⟩

theorem PortsStand.of_keeps {w : Nat} {s t : State} (kept : Keeps w s t) (up : w.testBit Part.portUp.bit = false)
    (dn : w.testBit Part.portDn.bit = false) : PortsStand s t :=
  ⟨fun p => congrArg PortSt.standing (portOf_of_keeps kept up dn p)⟩

theorem PortsStand.state {s t : State} (h : PortsStand s t) (p : Port) : (portOf t p).state = (portOf s p).state := by
  have same : (portOf t p).standing.state = (portOf s p).standing.state := by rw [h.port]
  exact same

theorem PortsStand.vc0 {s t : State} (h : PortsStand s t) (p : Port) : (portOf t p).vc0 = (portOf s p).vc0 := by
  have same : (portOf t p).standing.vc0 = (portOf s p).standing.vc0 := by rw [h.port]
  exact same

theorem portsStand_setPort {p : Port} {x : PortSt} {s : State} (stands : x.standing = (portOf s p).standing) :
    PortsStand s (setPort p x s) := by
  refine ⟨fun q => ?_⟩
  by_cases same : q = p
  · subst same
    rw [portOf_setPort, stands]
  · rw [portOf_setPort_ne same]

theorem pumpVc_standing (fuel vc : Nat) (x : PortSt) : (pumpVc fuel vc x).standing = x.standing := by
  induction fuel generalizing x with
  | zero => rfl
  | succ fuel ih =>
    unfold pumpVc
    split
    · rfl
    · split
      · exact ih _
      · dsimp only
        split
        · exact ih _
        · rfl

theorem pumpVc3_stands (fuel : Nat) (p : Port) (s : State) : PortsStand s (pumpVc3 fuel p s) := by
  induction fuel generalizing s with
  | zero => exact .refl s
  | succ fuel ih =>
    unfold pumpVc3
    extract_lets q
    split
    · exact .refl s
    · dsimp only
      split
      · refine .trans (portsStand_setPort ?_) (.trans (.of_keeps (w := 281474976710655 - 2 ^ 25 - 2 ^ 26)
          (parityFailed_keeps _ _ (by decide) (setQueue_keeps _ _ _ (by decide) .rfl')) (by decide) (by decide)) (ih _))
        rfl
      · exact portsStand_setPort rfl

theorem pump_stands (p : Port) (s : State) : PortsStand s (pump p s) := by
  have pumped : PortsStand s (setPort p (pumpVc (2 * (portOf s p).waiting.length + sumN ((portOf s p).waiting.map fun m => m.pkts.length)) 0
      (if carries s p then pumpVc (2 * (portOf s p).waiting.length + sumN ((portOf s p).waiting.map fun m => m.pkts.length)) 1 (portOf s p)
        else portOf s p)) s) := by
    refine portsStand_setPort ?_
    rw [pumpVc_standing]
    split
    · exact pumpVc_standing ..
    · rfl
  unfold pump
  extract_lets x n u
  split
  · exact .trans pumped (pumpVc3_stands _ _ _)
  · exact pumped

theorem sendMsg_stands (p : Port) (m : LinkMsg) (s : State) : PortsStand s (sendMsg p m s) := by
  have waits (x : PortSt) (stands : x.standing = (portOf s p).standing) : PortsStand s (pump p (setPort p x s)) :=
    .trans (portsStand_setPort stands) (pump_stands _ _)
  unfold sendMsg
  extract_lets x
  split
  · split
    · exact waits _ rfl
    · exact .refl s
  · split
    · exact .refl s
    · split
      · exact portsStand_setPort rfl
      · exact waits _ rfl

theorem sendBlock_stands (p : Port) (b : LinkBlock) (s : State) : PortsStand s (sendBlock p b s) := portsStand_setPort rfl

theorem received_stands (p : Port) (vc bytes : Nat) (s : State) : PortsStand s (received p vc bytes s) := by
  unfold received
  extract_lets n
  split
  · exact sendBlock_stands ..
  · exact .refl s

theorem toMaster_stands (m : LinkMsg) (s : State) : PortsStand s (toMaster m s) := by
  unfold toMaster
  split
  · exact .refl s
  · exact sendMsg_stands ..

theorem reportCap_stands (s : State) : PortsStand s (reportCap s) := toMaster_stands ..

/-! ### Lanes -/

theorem laneSt_setLane (l : Nat) (x : LaneSt) (s : State) : laneSt (setLane l x s) l = x := Tab.lookD_put_same ..

theorem laneSt_setLane_ne {l k : Nat} (other : k ≠ l) (x : LaneSt) (s : State) : laneSt (setLane l x s) k = laneSt s k :=
  Tab.lookD_put_ne _ _ _ other

theorem laneSt_setPort (p : Port) (x : PortSt) (s : State) (l : Nat) : laneSt (setPort p x s) l = laneSt s l := by cases p <;> rfl

/-- The training of every lane is the same in `t` as in `s`, whatever rate, length and rotation they have. -/
structure LanesStay (s t : State) : Prop where
  trained : ∀ l, (laneSt t l).trained = (laneSt s l).trained
  il : ∀ l, (laneSt t l).il = (laneSt s l).il
  retrains : ∀ l, (laneSt t l).retrains = (laneSt s l).retrains

theorem LanesStay.refl (s : State) : LanesStay s s := ⟨fun _ => rfl, fun _ => rfl, fun _ => rfl⟩

theorem LanesStay.trans {s t u : State} (h : LanesStay s t) (k : LanesStay t u) : LanesStay s u :=
  ⟨fun l => (k.trained l).trans (h.trained l), fun l => (k.il l).trans (h.il l), fun l => (k.retrains l).trans (h.retrains l)⟩

theorem LanesStay.of_lanes {s t : State} (lanes : t.plk.lanes = s.plk.lanes) : LanesStay s t := by
  have same (l : Nat) : laneSt t l = laneSt s l := by rw [laneSt, lanes, laneSt]
  exact ⟨fun l => by rw [same], fun l => by rw [same], fun l => by rw [same]⟩

theorem LanesStay.of_keeps {w : Nat} {s t : State} (kept : Keeps w s t) (lanes : w.testBit Part.lanes.bit = false) : LanesStay s t :=
  .of_lanes (kept.same .lanes lanes)

theorem LanesStay.foldl {α : Type} {f : State → α → State} (each : ∀ s x, LanesStay s (f s x)) (l : List α) (s : State) :
    LanesStay s (l.foldl f s) :=
  List.foldlRecOn (motive := LanesStay s) l f (.refl s) fun t h x _ => h.trans (each t x)

theorem setLane_lanesStay {l : Nat} {x : LaneSt} {s : State} (trained : x.trained = (laneSt s l).trained) (il : x.il = (laneSt s l).il)
    (retrains : x.retrains = (laneSt s l).retrains) : LanesStay s (setLane l x s) := by
  constructor
  all_goals
    intro k
    by_cases same : k = l
    · subst same
      rw [laneSt_setLane]
      assumption
    · rw [laneSt_setLane_ne same]

theorem setPort_lanesStay (p : Port) (x : PortSt) (s : State) : LanesStay s (setPort p x s) := .of_lanes (by cases p <;> rfl)

theorem laneEnter_lanesStay (l : Nat) (s : State) : LanesStay s (laneEnter l s) := by
  unfold laneEnter
  split
  · refine .trans (t := setLane l { laneSt s l with entering := false } s) (setLane_lanesStay rfl rfl rfl) ?_
    exact .of_keeps (w := 281474976710655 - 2 ^ 27) (graftEnter_keeps _ (by decide) (raise_keeps _ (by decide) .rfl')) (by decide)
  · exact .refl s

theorem switchLanes_lanesStay (p : Port) (s : State) : LanesStay s (switchLanes p s) :=
  .trans (setPort_lanesStay _ _ _) (.trans (.foldl (fun s l => laneEnter_lanesStay l s) _ _) (setPort_lanesStay _ _ _))

theorem askLanes_lanesStay (p : Port) (s : State) : LanesStay s (askLanes p s) :=
  .trans (setPort_lanesStay _ _ _) (setPort_lanesStay _ _ _)

theorem retarget_lanesStay (p : Port) (s : State) : LanesStay s (retarget p s) := by
  unfold retarget
  extract_lets x ls u keep v
  have asked : LanesStay s u := askLanes_lanesStay p s
  split
  · exact .refl s
  · split
    · split
      · exact .refl s
      · exact asked
    · split
      · exact asked.trans (switchLanes_lanesStay ..)
      · split
        · exact asked.trans (setPort_lanesStay _ _ _)
        · exact asked.trans (.trans (setPort_lanesStay _ _ _) (setPort_lanesStay _ _ _))

theorem equaliseRate_lanesStay (p : Port) (s : State) : LanesStay s (equaliseRate p s) := by
  unfold equaliseRate
  refine .foldl (fun s l => ?_) _ _
  split
  · exact setLane_lanesStay rfl rfl rfl
  · exact .refl s

theorem portUp_lanesStay (p : Port) (s : State) : LanesStay s (portUp p s) := by
  have raised (s : State) : LanesStay s (if portRate s p ≠ 0 || trainedCount s p < 4 then raise 274 s else s) := by
    split <;> exact .of_lanes rfl
  exact .trans (equaliseRate_lanesStay p s) (.trans (setPort_lanesStay _ _ _) (.trans (setPort_lanesStay _ _ _)
    (.trans (.of_lanes (t := raise 272 _) rfl) (.trans (raised _) (.trans (setPort_lanesStay _ _ _) (retarget_lanesStay _ _))))))

/-- A lane's loss is derived anew (R381). -/
theorem laneSt_updateLength (l il : Nat) (s : State) : (laneSt (updateLength l il s) l).il = il ∧
    (laneSt (updateLength l il s) l).trained = (laneSt s l).trained := by
  unfold updateLength
  extract_lets _ u q _
  have lane : laneSt u l = { laneSt s l with il := il } := laneSt_setLane ..
  split
  · rw [lane]
    exact ⟨rfl, rfl⟩
  · have used : laneSt (quantUsed q (setLane l { laneSt u l with length := min 65535 (quantOf u q).toNat, lenOk := true } u)) l =
        { laneSt u l with length := min 65535 (quantOf u q).toNat, lenOk := true } := by
      unfold quantUsed
      split <;> exact laneSt_setLane ..
    rw [used, lane]
    exact ⟨rfl, rfl⟩

/-! ### Training and retraining (R355, R357) -/

theorem onLaneTrained_trained {lane : Fin 8} {rate : Fin 3} {il : Nat} {t0 : Tick} {s : State}
    (enabled : (portOf s (portOfLane lane)).state = 1 ∨ (portOf s (portOfLane lane)).state = 2)
    (free : isFenced s (Unit.lane lane) = false) :
    (laneSt (onLaneTrained lane rate false il t0 s) lane).trained = true ∧ (laneSt (onLaneTrained lane rate false il t0 s) lane).il = il := by
  unfold onLaneTrained
  extract_lets a p x _ u v
  have trains : ¬ ((x.state ≠ 1 && x.state ≠ 2) || isFenced a (Unit.lane lane)) = true := by
    rw [show isFenced a (Unit.lane lane) = false from free]
    have state : x.state = 1 ∨ x.state = 2 := enabled
    rcases state with state | state <;> simp [state]
  rw [if_neg trains, if_neg Bool.false_ne_true]
  obtain ⟨il_, trained_⟩ := laneSt_updateLength lane il (setLane lane { laneSt a lane with trained := true, rate := rate } a)
  rw [laneSt_setLane] at trained_
  have goes (t : State) (stay : LanesStay u t) : (laneSt t lane).trained = true ∧ (laneSt t lane).il = il :=
    ⟨(stay.trained lane).trans trained_, (stay.il lane).trans il_⟩
  split
  · split
    · refine goes _ (.trans (portUp_lanesStay p u) (.of_keeps (hopUp_keeps _ _ (w := 281474976710655 - 2 ^ 27) (by decide) .rfl') (by decide)))
    · exact goes _ (.refl u)
  · exact goes _ (.trans (equaliseRate_lanesStay p u) (.trans (setPort_lanesStay _ _ _) (retarget_lanesStay _ _)))

theorem onLaneExitTimeout_retrains {lane : Fin 8} {t0 : Tick} {s : State} (up : (portOf s (portOfLane lane)).state = 2)
    (trained : (laneSt s lane).trained = true)
    (silent : ((portOf s (portOfLane lane)).wake.any fun e => decide (e.1 = lane.val) && decide (e.2 + wakeTicks ≤ t0)) = true) :
    (laneSt (onLaneExitTimeout lane t0 s) lane).trained = false ∧ t0 ∈ (laneSt (onLaneExitTimeout lane t0 s) lane).retrains := by
  unfold onLaneExitTimeout
  extract_lets a p x y b rs c d
  have exits : ¬ (y.state ≠ 2 || !x.trained || !(y.wake.any fun e => decide (e.1 = lane.val) && decide (e.2 + wakeTicks ≤ t0))) = true := by
    rw [show y.state = 2 from up, show x.trained = true from trained, show y.wake.any _ = true from silent]
    decide
  rw [if_neg exits]
  have lane_ : laneSt c lane = { x with trained := false, retrains := rs } := laneSt_setLane ..
  have faulted : LanesStay c d := by
    unfold d
    split <;> exact .of_lanes rfl
  have stay := faulted.trans (retarget_lanesStay p d)
  rw [stay.trained, stay.retrains, lane_]
  exact ⟨rfl, by simp [rs]⟩

/-! ### Absence, requests and switches (R355, R357) -/

theorem step9End_stands (s : State) : PortsStand s (step9End s) :=
  .of_keeps (step9End_keeps (w := 281474976710655 - 2 ^ 25 - 2 ^ 26) (by decide) .rfl') (by decide) (by decide)

theorem finishEnum_stands (force : Bool) (s : State) : PortsStand s (finishEnum force s) := by
  have sounds (s : State) : PortsStand s (if (s.trl.parts.filter fun e => e.2.present).length < rdf s Fld.TRL_CFG_n_expect then chainShort s else s) := by
    split
    · exact .of_keeps (chainShort_keeps (w := 281474976710655 - 2 ^ 25 - 2 ^ 26) (by decide) .rfl') (by decide) (by decide)
    · exact .refl s
  unfold finishEnum
  split
  · extract_lets own _ _ u g t0 v x
    refine .trans (t := x) (.trans (t := v) ⟨fun p => by cases p <;> rfl⟩ (sounds v)) ?_
    refine .trans (t := noteGrants g x) ⟨fun p => by cases p <;> rfl⟩ (.trans (sendMsg_stands .dn (.start t0 g) _) ?_)
    exact .of_keeps (startTaken_keeps _ _ (w := 281474976710655 - 2 ^ 25 - 2 ^ 26) (by decide) (raise_keeps _ (by decide) .rfl')) (by decide) (by decide)
  · exact .refl s

theorem endEnum_stands (force : Bool) (s : State) : PortsStand s (endEnum force s) :=
  .trans (t := { s with trl := { s.trl with ended := true } }) ⟨fun p => by cases p <;> rfl⟩ (finishEnum_stands force _)

/-- A message that awaits its response changes no port's state (R362). -/
theorem sendAwait_state (p : Port) (m : LinkMsg) (s : State) (q : Port) : (portOf (sendAwait p m s) q).state = (portOf s q).state := by
  have sent : (portOf (sendAwait p m s) q).state = (portOf (setPort p { portOf s p with vc0 := some (m, 0), vc0At := now s } s) q).state :=
    (sendMsg_stands p m _).state q
  rw [sent]
  by_cases same : q = p
  · subst same
    rw [portOf_setPort]
  · rw [portOf_setPort_ne same]

theorem linkSettled_state (s : State) (p : Port) : (portOf (linkSettled s) p).state = (portOf s p).state := by
  unfold linkSettled
  extract_lets waits _ u _ w
  split
  · rfl
  · split
    · exact ((step9End_stands _).state p).trans (by cases p <;> rfl)
    · split
      · split
        · cases p <;> rfl
        · exact ((endEnum_stands false u).state p).trans (by cases p <;> rfl)
      · split
        · split
          · exact (sendAwait_state ..).trans ((reportCap_stands s).state p)
          · exact (reportCap_stands s).state p
        · rfl

theorem onPortAbsentTimeout_absent {port : Port} {t0 : Tick} {s : State} (enabled : (portOf s port).state = 1)
    (none_ : trainedCount s port = 0) (over_ : (portOf s port).enabled + trainTicks ≤ t0) :
    (portOf (onPortAbsentTimeout port t0 s) port).state = 3 := by
  unfold onPortAbsentTimeout
  extract_lets a x b
  have ends : ¬ (x.state ≠ 1 || decide (t0 < x.enabled + trainTicks)) = true := by
    rw [show x.state = 1 from enabled, decide_eq_false (p := t0 < x.enabled + trainTicks) (Nat.not_lt.2 over_)]
    decide
  have untrained : trainedCount a port = 0 := none_
  rw [if_neg ends, if_pos untrained, linkSettled_state]
  show (portOf (setPort port { x with state := 3 } a) port).state = 3
  rw [portOf_setPort]

/-- What this end knows of its peer (R357). -/
def PortSt.peer (x : PortSt) : Nat × Nat := (x.peerMask, x.peerReq)

theorem portOf_peer_setPort {p : Port} {x : PortSt} {s : State} (peer : x.peer = (portOf s p).peer) :
    (portOf (setPort p x s) p).peer = (portOf s p).peer := by rw [portOf_setPort, peer]

theorem portOf_switchLanes (p : Port) (s : State) : (portOf (switchLanes p s) p).peer = (portOf s p).peer ∧
    (portOf (switchLanes p s) p).rising = none := by
  have entered (l : List Nat) (s : State) : portOf (l.foldl (fun s l => laneEnter l s) s) p = portOf s p := by
    refine List.foldlRecOn (motive := fun t => portOf t p = portOf s p) l _ rfl fun t same k _ => ?_
    rw [← same]
    exact portOf_of_keeps (laneEnter_keeps k (w := 281474976710655 - 2 ^ 25 - 2 ^ 26) (by decide) .rfl') (by decide) (by decide) p
  unfold switchLanes
  extract_lets ls _ u v
  have port : portOf v p = { portOf s p with tx := ls, rising := none } := (entered ls u).trans (portOf_setPort ..)
  rw [sendBlock, portOf_setPort, port]
  exact ⟨rfl, rfl⟩

theorem retarget_peer (p : Port) (s : State) : (portOf (retarget p s) p).peer = (portOf s p).peer := by
  unfold retarget
  extract_lets x ls u keep _ v
  have asked : (portOf u p).peer = (portOf s p).peer := (portOf_peer_setPort (by rfl)).trans (portOf_peer_setPort (by rfl))
  have kept : (portOf v p).peer = (portOf s p).peer := (portOf_peer_setPort (by rfl)).trans asked
  split
  · rfl
  · split
    · split
      · rfl
      · exact asked
    · split
      · exact (portOf_switchLanes p u).1.trans asked
      · split
        · exact kept
        · exact (portOf_peer_setPort (by rfl)).trans kept

/-- A request of the peer is taken (R357). -/
theorem onLaneRequest_takes {port : Port} {count : BitVec 3} {s : State} (up : (portOf s port).state = 2) :
    (portOf (onLaneRequest port count s) port).peerReq = count.toNat := by
  have req {t u : State} (h : (portOf t port).peer = (portOf u port).peer) : (portOf t port).peerReq = (portOf u port).peerReq :=
    congrArg Prod.snd h
  unfold onLaneRequest
  extract_lets x a n _ b
  have taken_ : (portOf a port).peerReq = count.toNat := by rw [portOf_setPort]
  have running : ¬ x.state ≠ 2 := not_not.2 up
  have answered : (portOf b port).peer = (portOf a port).peer := by
    unfold b
    split
    · exact (portOf_peer_setPort (by rfl)).trans (portOf_peer_setPort (by rfl))
    · rfl
  rw [if_neg running, req ((retarget_peer port b).trans answered), taken_]

theorem retarget_peerMask (port : Port) (mask : BitVec 4) (s : State) :
    (portOf (retarget port (setPort port { portOf s port with peerMask := mask.toNat } s)) port).peerMask = mask.toNat := by
  have same := congrArg Prod.fst (retarget_peer port (setPort port { portOf s port with peerMask := mask.toNat } s))
  rw [portOf_setPort] at same
  exact same

theorem onFecUncorrectable_tells {lane : Fin 8} {t0 : Tick} {s : State} (trained : (laneSt s lane).trained = true) :
    (laneSt (onFecUncorrectable lane t0 s) lane).evAt.isSome = true := by
  unfold onFecUncorrectable
  extract_lets a p x us over_ tell b c d y
  have runs : ¬ (!x.trained) = true := by rw [show x.trained = true from trained]; decide
  have told : (laneSt b lane).evAt.isSome = true := by
    show (laneSt (setLane lane { x with uncorr := if over_ then [] else us, evAt := if tell then some t0 else x.evAt } a) lane).evAt.isSome = true
    rw [laneSt_setLane]
    show (if tell then some t0 else x.evAt).isSome = true
    by_cases silent : tell = true
    · rw [if_pos silent]; rfl
    · rw [if_neg silent]
      cases ev : x.evAt with
      | none => exact absurd (by simp [tell, ev]) silent
      | some u => rfl
  have faulted : d.plk.lanes = b.plk.lanes := by
    have counted : c.plk.lanes = b.plk.lanes := by unfold c; split <;> rfl
    rw [← counted]
    unfold d
    split <;> rfl
  have same {t : State} (lanes : t.plk.lanes = d.plk.lanes) : (laneSt t lane).evAt.isSome = true := by
    rw [laneSt, lanes, faulted]
    exact told
  have ports (x : PortSt) : (setPort p x d).plk.lanes = d.plk.lanes := by cases p <;> rfl
  rw [if_neg runs]
  split
  · exact same rfl
  · split
    · exact same (ports _)
    · split
      · exact same (ports _)
      · exact same (ports _)

/-- Settles O35: the lanes stay through switches and grafts, and what the port knows of its peer through a change of rotation. -/
theorem laneAndPortCommandsComplete : Obligations.LaneAndPortCommandsComplete := by
  unfold Obligations.LaneAndPortCommandsComplete
  refine ⟨fun s lane rate il t0 enabled free => completes rfl (onLaneTrained_trained enabled free),
    fun s port t0 enabled none_ late => completes rfl (onPortAbsentTimeout_absent enabled none_ late), fun s t0 absent late runs due => completes rfl ?_,
    fun s lane t0 up trained silent => completes rfl (onLaneExitTimeout_retrains up trained silent),
    fun s lane t0 trained => completes rfl (onFecUncorrectable_tells trained),
    fun s port count up => completes rfl (onLaneRequest_takes up), fun s port up rising => completes rfl ?_,
    fun s port count => completes rfl ?_, fun s port mask => completes rfl (retarget_peerMask ..),
    fun s port mask => completes rfl (retarget_peerMask ..)⟩
  · unfold onDnRetryTimer
    extract_lets u
    have retries : (u.plk.dn.state = 3 && decide (10 ≤ u.boot.step) && decide (u.boot.step ≠ 15)
        && decide (u.plk.dn.enabled + 64000000000 ≤ t0)) = true := by
      rw [decide_eq_true (p := u.plk.dn.state = 3) absent, decide_eq_true (p := 10 ≤ u.boot.step) late,
        decide_eq_true (p := u.boot.step ≠ 15) runs, decide_eq_true (p := u.plk.dn.enabled + 64000000000 ≤ t0) due]
      rfl
    rw [if_pos retries]
    exact ⟨rfl, rfl⟩
  · rw [onLaneReady, if_pos (by rw [up, rising]; rfl)]
    exact (portOf_switchLanes port s).2
  · rw [onLaneSwitch, portOf_setPort]

/-! ### Packets, credits, retries and commas (R360 to R362, R368) -/

theorem onStartBlock_begins {port : Port} {vc : BitVec 2} {dst src : BitVec 4} {bc ie : Bool} {words : Nat} {seq : BitVec 16} {t0 : Tick}
    {s : State} (up : (portOf s port).state = 2) (open_ : (portOf s port).closed = false) (some_ : words ≠ 0) (fits : words ≤ 512)
    (carried : vc.toNat = 0 ∨ (portOf s port).isOpen = true) :
    (portOf (onStartBlock port vc dst bc src words ie seq t0 s) port).cur = some vc.toNat ∧
      (portOf (onStartBlock port vc dst bc src words ie seq t0 s) port).rxSeq =
        (portOf s port).rxSeq.set vc.toNat ((seq.toNat + 1) % 65536) := by
  unfold onStartBlock
  extract_lets a x v gap u
  have begins : ¬ (x.state ≠ 2 || x.closed || words = 0 || 512 < words || (v ≠ 0 && !x.isOpen)) = true := by
    rw [show x.state = 2 from up, show x.closed = false from open_]
    rcases carried with zero | carried
    · simp [v, zero, some_, fits]
    · simp [show x.isOpen = true from carried, some_, fits]
  have lost (s : State) : portOf (packetsLost gap s) port = portOf s port :=
    portOf_of_keeps (packetsLost_keeps _ (w := 281474976710655 - 2 ^ 25 - 2 ^ 26) (by decide) .rfl') (by decide) (by decide) port
  rw [if_neg begins]
  split
  · rw [lost]
    unfold u
    rw [portOf_setPort]
    exact ⟨rfl, rfl⟩
  · unfold u
    rw [portOf_setPort]
    exact ⟨rfl, rfl⟩

theorem txQueue_of_queues {s t : State} (queues : t.qsy.queues = s.qsy.queues) (p : Port) : txQueue t p = txQueue s p := by
  unfold txQueue
  exact queueOf_of_queues queues _ _

/-- Credits alone move nothing when nothing waits (R361). -/
theorem pump_idle {p : Port} {s : State} (waits : (portOf s p).waiting = []) (queue : (txQueue s p).words = []) :
    pump p s = setPort p (portOf s p) s := by
  unfold pump
  extract_lets x n u
  have none_ : n = 0 := by
    show 2 * x.waiting.length + sumN (x.waiting.map fun m => m.pkts.length) = 0
    rw [show x.waiting = [] from waits]
    rfl
  have still : u = setPort p (portOf s p) s := by
    unfold u
    rw [none_]
    split <;> rfl
  have words : (txQueue u p).words = [] := by
    rw [still, txQueue_of_queues (s := s) (by cases p <;> rfl)]
    exact queue
  rw [words]
  split <;> exact still

theorem onCredit_idle {port : Port} {a b c : BitVec 16} {s : State} (waits : (portOf s port).waiting = [])
    (queue : (txQueue s port).words = []) : (portOf (onCredit port a b c s) port).credit =
      [creditOf (portOf s port) 0 + a.toNat, creditOf (portOf s port) 1 + b.toNat, creditOf (portOf s port) 3 + c.toNat] := by
  unfold onCredit
  extract_lets x long u y
  have counted : portOf u port = portOf s port ∧ u.qsy = s.qsy := by
    unfold u
    split
    · exact ⟨by cases port <;> rfl, rfl⟩
    · exact ⟨rfl, rfl⟩
  obtain ⟨port_, qsy⟩ := counted
  have same : y = portOf s port := port_
  rw [pump_idle (by rw [portOf_setPort, same]; exact waits)
    (by rw [txQueue_of_queues (s := s) (by rw [← qsy]; cases port <;> rfl)]; exact queue), portOf_setPort, portOf_setPort, same]

theorem onVc0RetryTimeout_again {port : Port} {t0 : Tick} {s : State} {m : LinkMsg} {n : Nat} (sent : (portOf s port).vc0 = some (m, n))
    (more : n < 3) (late : (portOf s port).vc0At + retryTicks ≤ t0) : (portOf (onVc0RetryTimeout port t0 s) port).vc0 = some (m, n + 1) := by
  unfold onVc0RetryTimeout
  extract_lets a x
  rw [show x.vc0 = some (m, n) from sent]
  dsimp only
  have due : x.vc0At + retryTicks ≤ t0 := late
  rw [if_neg (Nat.not_lt.2 due), if_pos more]
  have stands := (sendMsg_stands port m (setPort port { x with vc0 := some (m, n + 1), vc0At := t0 } a)).vc0 port
  rw [stands, portOf_setPort]

theorem onVc0RetryTimeout_absent {t0 : Tick} {s : State} {m : LinkMsg} {n : Nat} (sent : (portOf s .up).vc0 = some (m, n))
    (last : 3 ≤ n) (late : (portOf s .up).vc0At + retryTicks ≤ t0) : onVc0RetryTimeout .up t0 s =
      setPort .up { portOf s .up with vc0 := none, state := 3, isOpen := false } (advance t0 s) := by
  unfold onVc0RetryTimeout
  extract_lets a x
  rw [show x.vc0 = some (m, n) from sent]
  dsimp only
  have due : x.vc0At + retryTicks ≤ t0 := late
  rw [if_neg (Nat.not_lt.2 due), if_neg (Nat.not_lt.2 last)]
  rfl

/-- A comma outside the dead time is stamped; the ports stay (R51, R368). -/
theorem commaStamp_live {p : Port} {tap : Fin 97} {tap2 : Option (Fin 97)} {edge : Tick} {s : State}
    (live : svcDead s (markerChan p) (stampOf s (512 + s.tsu.lineOf.getD (markerChan p) 0) edge tap) = false) :
    (commaStamp p tap tap2 edge s).1 = some (stampOf s (512 + s.tsu.lineOf.getD (markerChan p) 0) edge tap) ∧
      ∀ q, portOf (commaStamp p tap tap2 edge s).2 q = portOf s q := by
  unfold commaStamp
  extract_lets c st u
  rw [if_neg (by rw [show svcDead s c st = false from live]; exact Bool.false_ne_true)]
  split
  · split
    · exact ⟨rfl, fun q => by cases q <;> rfl⟩
    · exact ⟨rfl, fun q => by cases q <;> rfl⟩
  · exact ⟨rfl, fun q => by cases q <;> rfl⟩

section
variable {port : Port} {tap : Fin 97} {tap2 : Option (Fin 97)} {edge : Tick} {s : State} (up : (portOf s port).state = 2)
  (live : svcDead s (markerChan port) (stampOf s (512 + s.tsu.lineOf.getD (markerChan port) 0) edge tap) = false)
include up live

theorem onCommaDepart_stamps (arrived : (portOf s port).arrive = none) : (portOf (onCommaDepart port tap tap2 edge s) port).depart =
    some (stampOf s (512 + s.tsu.lineOf.getD (markerChan port) 0) edge tap) := by
  obtain ⟨stamp, ports⟩ := commaStamp_live (tap2 := tap2) (s := advance edge s) live
  have same : portOf (commaStamp port tap tap2 edge (advance edge s)).2 port = portOf s port := ports port
  unfold onCommaDepart
  extract_lets r x
  rw [show r.1 = _ from stamp]
  dsimp only
  rw [show x = portOf s port from same, if_neg (not_not.2 up), arrived]
  show (portOf (setPort port _ r.2) port).depart = _
  rw [portOf_setPort]
  rfl

theorem onCommaArrive_stamps (departed : (portOf s port).depart = none) : (portOf (onCommaArrive port tap tap2 edge s) port).arrive =
    some (stampOf s (512 + s.tsu.lineOf.getD (markerChan port) 0) edge tap) := by
  obtain ⟨stamp, ports⟩ := commaStamp_live (tap2 := tap2) (s := advance edge s) live
  have same : portOf (commaStamp port tap tap2 edge (advance edge s)).2 port = portOf s port := ports port
  unfold onCommaArrive
  extract_lets r u x
  rw [show x = portOf s port from same, if_neg (not_not.2 up), show r.1 = _ from stamp]
  dsimp only
  rw [departed]
  show (portOf (setPort port _ u) port).arrive = _
  rw [portOf_setPort]
  rfl

end

theorem poisoned_sticks (s : State) : (rd (poisoned s) Reg.PLK_STICKY).getLsbD 3 = true := by
  rw [poisoned, rd_stick, BitVec.getLsbD_or, BitVec.getLsbD_ofNat]
  exact Bool.or_true _

/-- Settles O36: each command changes its own port or lane, and what is sent for it leaves the port standing. -/
theorem linkTransportCommandsComplete : Obligations.LinkTransportCommandsComplete := by
  unfold Obligations.LinkTransportCommandsComplete
  refine ⟨fun s port vc dst bc src words ie seq t0 up open_ some_ fits carried => completes rfl (onStartBlock_begins up open_ some_ fits carried),
    fun s port a b c waits queue => completes rfl (onCredit_idle waits queue),
    fun s port t0 m n sent more late => completes rfl (onVc0RetryTimeout_again sent more late),
    fun s t0 m n sent last late => completes rfl ?_,
    fun s port tap tap2 edge up arrived live => completes rfl (onCommaDepart_stamps up live arrived),
    fun s port tap tap2 edge up departed live => completes rfl (onCommaArrive_stamps up live departed),
    fun s lane il trained => completes rfl ?_, fun s port type reserved => completes rfl ?_, fun s port type reserved => completes rfl ?_⟩
  · rw [onVc0RetryTimeout_absent sent last late]
    exact ⟨rfl, rfl, rfl⟩
  · rw [onCableLengthUpdate, if_pos trained]
    exact (laneSt_updateLength ..).1
  · rw [onReservedLinkBlock, if_pos reserved]
    exact poisoned_sticks s
  · rw [onReservedMessageType, if_neg (by rw [reserved]; exact Bool.false_ne_true)]
    exact poisoned_sticks s

end Sys2Proof.Machine
end

section
/-! PROOFS. Enumeration (R365 to R367): why O37 fails. -/

namespace Sys2Proof.Machine

/-- A part in step 9 whose personality record is addressed: until the addressed records apply the part has no lidar. -/
def addressedLidar : State := { State.reset with
  boot := { State.reset.boot with step := 9 },
  cfg := { State.reset.cfg with recs := [⟨0x0101, 0x0001, 0, [1]⟩, ⟨0x1401, 0xFFFF, 0, []⟩] } }

theorem addressedLidar_without : hasLidar addressedLidar = false := by decide +kernel

theorem addressedLidar_times_out : (onEnumTimeout 0 addressedLidar).boot.step = 10 := by decide +kernel

/-- Refutes O37: at t_ENUM the addressed records apply, a lidar personality among them, and the part goes on to step 10 although it had
no lidar before. -/
theorem not_enumerationCommandsComplete : ¬ Obligations.EnumerationCommandsComplete := by
  unfold Obligations.EnumerationCommandsComplete
  rintro ⟨-, -, -, -, -, -, -, -, -, -, timeout, -⟩
  obtain ⟨-, -, -, step⟩ := of_completes (timeout addressedLidar 0 rfl (by decide) (by decide) (by decide)) rfl
  rw [addressedLidar_without, addressedLidar_times_out] at step
  exact absurd step (by decide)

end Sys2Proof.Machine
end

section
/-! PROOFS. The cascade at work (R127, R368 to R380): alignment, START, JOIN, the coordinated swap, the master's orders and its merge. -/

namespace Sys2Proof.Machine

/-! ### An order keeps the frame it names (R377) -/

theorem orderFrame_of_keeps {w : Nat} {s t : State} (kept : Keeps w s t) (mailbox : w.testBit Part.mailbox.bit = false) :
    t.hif.orderFrame = s.hif.orderFrame := by
  obtain ⟨-, -, -, -, -, frame, -⟩ := kept.same .mailbox mailbox
  exact frame

theorem finish_orderFrame (o : Origin) (st : Status) (n : Nat) (s : State) : (finish o st n s).hif.orderFrame = s.hif.orderFrame := by
  cases o with
  | host i => rw [finish]; dsimp only; split <;> rfl
  | master => rfl
  | internal => rfl

theorem finish_orderFrame_of {t s : State} (o : Origin) (st : Status) (n : Nat) (same : t.hif.orderFrame = s.hif.orderFrame) :
    (finish o st n t).hif.orderFrame = s.hif.orderFrame := (finish_orderFrame o st n t).trans same

theorem orderWaits_orderFrame (o : Origin) (x : OrderArgs) (f scope : Nat) (t : Tick) (s : State) :
    (orderWaits o x f scope t s).hif.orderFrame = s.hif.orderFrame := rfl

theorem orderAt_orderFrame {o : Origin} {x : OrderArgs} {f : Option Nat} {scope : Nat} {t : Tick} {body : State → State} {s : State}
    (runs : (body s).hif.orderFrame = s.hif.orderFrame) : (orderAt o x f scope t body s).hif.orderFrame = s.hif.orderFrame := by
  unfold orderAt
  split
  · exact runs
  · split
    · exact orderWaits_orderFrame ..
    · exact finish_orderFrame ..
    · exact finish_orderFrame ..

theorem dropCoding_orderFrame (u : Nat) (s : State) : (dropCoding u s).hif.orderFrame = s.hif.orderFrame :=
  orderFrame_of_keeps (dropCoding_keeps u (w := 281474976710655 - 2 ^ 37) (by decide) .rfl') (by decide)

theorem capLeave_orderFrame (u : Nat) (s : State) : (capLeave u s).hif.orderFrame = s.hif.orderFrame :=
  orderFrame_of_keeps (capLeave_keeps u (w := 281474976710655 - 2 ^ 37) (by decide) .rfl') (by decide)

theorem finishFree_orderFrame (o : Origin) (n : Nat) (s : State) : (finishFree o n s).hif.orderFrame = s.hif.orderFrame := by
  unfold finishFree
  cases o with
  | host i => dsimp only; split <;> rfl
  | master => rfl
  | internal => rfl

theorem readAborted_orderFrame (u : Nat) (s : State) : (readAborted u s).hif.orderFrame = s.hif.orderFrame := by
  have closed : (match unitRec s u with | some r => capClosing u r true s | none => s).hif.orderFrame = s.hif.orderFrame := by
    split
    · exact orderFrame_of_keeps (capClosing_keeps _ _ _ (w := 281474976710655 - 2 ^ 37) (by decide) .rfl') (by decide)
    · rfl
  unfold readAborted
  extract_lets x a b
  split
  · exact (finishFree_orderFrame ..).trans closed
  · exact closed

theorem capName_orderFrame (o : Origin) (u f : Nat) (s : State) : (capName o u f s).hif.orderFrame = s.hif.orderFrame := by
  unfold capName
  extract_lets x
  split
  · exact finish_orderFrame ..
  · exact finish_orderFrame ..

theorem capAbort_orderFrame (o : Origin) (u : Nat) (s : State) : (capAbort o u s).hif.orderFrame = s.hif.orderFrame := by
  unfold capAbort
  split
  · exact finish_orderFrame ..
  · extract_lets x
    split
    · exact finish_orderFrame ..
    · split
      · exact finish_orderFrame_of _ _ _ (dropCoding_orderFrame ..)
      · split
        · exact finish_orderFrame_of _ _ _ (capLeave_orderFrame ..)
        · split
          · exact finish_orderFrame_of _ _ _ (readAborted_orderFrame ..)
          · exact finish_orderFrame ..

theorem capRead_orderFrame (o : Origin) (u : Nat) (s : State) : (capRead o u s).hif.orderFrame = s.hif.orderFrame := by
  unfold capRead
  split
  · exact finish_orderFrame ..
  · extract_lets x
    split
    · rfl
    · exact finish_orderFrame ..

theorem capRelease_orderFrame (o : Origin) (u : Nat) (s : State) : (capRelease o u s).hif.orderFrame = s.hif.orderFrame := by
  unfold capRelease
  split
  · exact finish_orderFrame ..
  · split
    · exact finish_orderFrame_of _ _ _ (capLeave_orderFrame ..)
    · exact finish_orderFrame ..

theorem capRearm_orderFrame (o : Origin) (u : Nat) (s : State) : (capRearm o u s).hif.orderFrame = s.hif.orderFrame := by
  unfold capRearm
  split
  · exact finish_orderFrame ..
  · extract_lets x
    split
    · exact finish_orderFrame_of _ _ _ (dropCoding_orderFrame ..)
    · exact finish_orderFrame ..

theorem capOrder_orderFrame (o : Origin) (code u f : Nat) (s : State) : (capOrder o code u f s).hif.orderFrame = s.hif.orderFrame := by
  unfold capOrder
  split
  · exact capName_orderFrame ..
  · split
    · exact capAbort_orderFrame ..
    · split
      · exact capRead_orderFrame ..
      · split
        · exact capRelease_orderFrame ..
        · exact capRearm_orderFrame ..

theorem faultClear_orderFrame (o : Origin) (sel : Nat) (s : State) : (faultClear o sel s).hif.orderFrame = s.hif.orderFrame := by
  unfold faultClear
  extract_lets done
  have cleared (c : Bool) (t : State) : (done c t).hif.orderFrame = t.hif.orderFrame := finish_orderFrame ..
  split
  · exact finish_orderFrame ..
  · split
    · split
      · exact (cleared _ _).trans rfl
      · exact finish_orderFrame ..
    · split
      · split
        · exact (cleared _ _).trans rfl
        · exact finish_orderFrame ..
      · split
        · split
          · exact (cleared _ _).trans rfl
          · exact finish_orderFrame ..
        · exact finish_orderFrame ..

theorem graftBegin_orderFrame (o : Origin) (u : Nat) (s : State) : (graftBegin o u s).hif.orderFrame = s.hif.orderFrame := by
  unfold graftBegin
  split
  · exact finish_orderFrame_of _ _ _ (by split <;> rfl)
  · extract_lets held _ _ a b
    split
    · exact orderFrame_of_keeps (s := a) (t := b) (w := 281474976710655 - 2 ^ 37) (startCycle_keeps _ _ _ (by decide)
        (biasEnable_keeps _ _ (by decide) .rfl')) (by decide)
    · split
      · rfl
      · split
        · exact orderFrame_of_keeps (s := a) (pairGraft_keeps _ _ (w := 281474976710655 - 2 ^ 37) (by decide) .rfl') (by decide)
        · split
          · rfl
          · rfl

theorem planOrder_orderFrame (kind plan : Nat) (f scope : Nat) (t : Tick) (s : State) :
    (planOrder .master kind plan (some f) scope t s).hif.orderFrame = s.hif.orderFrame := by
  unfold planOrder
  extract_lets fibre x
  split
  · rfl
  · by_cases runs : (!(if fibre then hasFibre s else hasLidar s)) = true
    · rw [if_pos runs]
      rfl
    · rw [if_neg runs]
      split <;> rfl

theorem runOrder_orderFrame (x : OrderArgs) (f scope : Nat) (t : Tick) (s : State) :
    (runOrder .master x (some f) scope t s).hif.orderFrame = s.hif.orderFrame := by
  unfold runOrder
  split
  · exact planOrder_orderFrame ..
  · split
    · unfold flushOrder
      split
      · rfl
      · exact orderAt_orderFrame (by split <;> rfl)
    · split
      · unfold triggerOrder
        split
        · rfl
        · dsimp only
          split
          · rfl
          · exact capName_orderFrame ..
          · rfl
      · split
        · split
          · rfl
          · exact orderAt_orderFrame (capOrder_orderFrame ..)
        · split
          · exact orderAt_orderFrame (faultClear_orderFrame ..)
          · split
            · exact orderAt_orderFrame (graftBegin_orderFrame ..)
            · exact orderAt_orderFrame (finish_orderFrame ..)

theorem masterOrder_orderFrame (x : OrderArgs) (f : Nat) (t : Tick) (s : State) :
    (masterOrder x f t s).hif.orderFrame = s.hif.orderFrame := by
  unfold masterOrder
  extract_lets full
  split
  · rfl
  · split
    · exact runOrder_orderFrame ..
    · exact (orderLate_reports f s).1
  · split
    · exact (orderLate_reports f s).1
    · exact runOrder_orderFrame ..

theorem runInBack_orderFrame {o : Origin} {st : Option Status} {job : Background} {s t : State}
    (same : t.hif.orderFrame = s.hif.orderFrame) : (runInBack o st job t).hif.orderFrame = s.hif.orderFrame := by
  unfold runInBack
  split
  · exact finish_orderFrame_of _ _ _ same
  · split
    · exact finish_orderFrame_of _ _ _ same
    · exact same

theorem sessionTouch_orderFrame (s : State) : (sessionTouch s).hif.orderFrame = s.hif.orderFrame := by
  unfold sessionTouch
  split <;> rfl

theorem cloLogin_orderFrame (o : Origin) (len : Nat) (password : List Byte) (s : State) :
    (cloLogin o len password s).hif.orderFrame = s.hif.orderFrame := by
  unfold cloLogin
  extract_lets pw _ n u
  have counted : (if n < 5 then u else raise 310 u).hif.orderFrame = s.hif.orderFrame := by split <;> rfl
  split
  · exact finish_orderFrame ..
  · split
    · exact finish_orderFrame ..
    · split
      · exact finish_orderFrame ..
      · split
        · exact finish_orderFrame ..
        · exact finish_orderFrame_of _ _ _ counted

theorem secConfirm_orderFrame (o : Origin) (s : State) : (secConfirm o s).hif.orderFrame = s.hif.orderFrame := by
  unfold secConfirm
  extract_lets pending
  split
  · exact finish_orderFrame ..
  · split
    · exact finish_orderFrame ..
    · exact finish_orderFrame ..

theorem cloLogout_orderFrame (o : Origin) (s : State) : (cloLogout o s).hif.orderFrame = s.hif.orderFrame := by
  unfold cloLogout
  split
  · exact finish_orderFrame ..
  · exact finish_orderFrame ..

theorem runManage_orderFrame (code : Nat) (a : List Byte) (s : State) : (runManage code a s).hif.orderFrame = s.hif.orderFrame := by
  unfold runManage
  extract_lets o n
  split
  · exact cloLogin_orderFrame ..
  · exact runInBack_orderFrame (sessionTouch_orderFrame s)
  · exact runInBack_orderFrame (sessionTouch_orderFrame s)
  · exact cloLogout_orderFrame ..
  · exact runInBack_orderFrame rfl
  · exact runInBack_orderFrame rfl
  · exact secConfirm_orderFrame ..
  · exact runInBack_orderFrame rfl
  · exact runInBack_orderFrame rfl
  · exact runInBack_orderFrame rfl
  · exact finish_orderFrame ..

theorem onOrder_orderFrame {code : BitVec 16} {args : List Byte} {frame : BitVec 24} {t0 : Tick} {s : State} (hears : hearsMaster s = true) :
    (onOrder code args frame t0 s).hif.orderFrame = frame.toNat := by
  cases framed : isOrderCode code.toNat with
  | true =>
    rw [onOrder_framed hears framed]
    exact (masterOrder_orderFrame ..).trans rfl
  | false =>
    rw [onOrder_manages hears framed]
    exact (runManage_orderFrame ..).trans rfl

/-! ### What a part hears of its master -/

theorem PortsStand.isOpen {s t : State} (h : PortsStand s t) (p : Port) : (portOf t p).isOpen = (portOf s p).isOpen := by
  have same : (portOf t p).standing.isOpen = (portOf s p).standing.isOpen := by rw [h.port]
  exact same

theorem PortsStand.closed {s t : State} (h : PortsStand s t) (p : Port) : (portOf t p).closed = (portOf s p).closed := by
  have same : (portOf t p).standing.closed = (portOf s p).standing.closed := by rw [h.port]
  exact same

theorem hearsMaster_of_stands {s t : State} (straps : t.boot.straps = s.boot.straps) (stands : PortsStand s t) :
    hearsMaster t = hearsMaster s := by
  have closed : t.plk.up.closed = s.plk.up.closed := stands.closed .up
  have isOpen : t.plk.up.isOpen = s.plk.up.isOpen := stands.isOpen .up
  rw [hearsMaster, isMaster, straps, closed, isOpen, hearsMaster, isMaster]

/-- The state in which a part acts on a message of its master that it passes on: its credit returned, the message sent (R361). -/
def passedOn (m : LinkMsg) (bytes : Nat) (s : State) : State := sendMsg .dn m (received .up 1 bytes s)

/-- The bits of the parts that passing a message on changes. -/
def passParts : Nat := 2 ^ 0 + 2 ^ 20 + 2 ^ 25 + 2 ^ 26 + 2 ^ 35 + 2 ^ 40 + 2 ^ 46

section
variable (m : LinkMsg) (bytes : Nat) (s : State)

theorem passedOn_kept : Keeps passParts s (passedOn m bytes s) := sendMsg_keeps _ _ (by decide) (received_keeps _ _ _ (by decide) .rfl')

theorem passedOn_stands : PortsStand s (passedOn m bytes s) := .trans (received_stands ..) (sendMsg_stands ..)

theorem passedOn_boot : (passedOn m bytes s).boot.straps = s.boot.straps := by
  obtain ⟨-, -, straps, -⟩ := (passedOn_kept m bytes s).same .boot (by decide)
  exact straps

theorem passedOn_hears : hearsMaster (passedOn m bytes s) = hearsMaster s := hearsMaster_of_stands (passedOn_boot m bytes s) (passedOn_stands m bytes s)

theorem passedOn_esq : (passedOn m bytes s).esq = s.esq := (passedOn_kept m bytes s).same .esq (by decide)

theorem passedOn_fib : (passedOn m bytes s).fib = s.fib := (passedOn_kept m bytes s).same .fib (by decide)

theorem passedOn_image : SameImage s (passedOn m bytes s) := .of_keeps (passedOn_kept m bytes s) (by decide) (by decide)

theorem passedOn_localFrame (f : Nat) : localFrame (passedOn m bytes s) f = localFrame s f := by
  obtain ⟨-, -, -, -, -, -, -, -, -, -, -, -, -, -, -, -, -, -, -, -, -, joinOff, -⟩ := (passedOn_kept m bytes s).same .cascade (by decide)
  rw [localFrame, joinOff, localFrame]

end

theorem received_straps (p : Port) (vc bytes : Nat) (s : State) : (received p vc bytes s).boot.straps = s.boot.straps := by
  obtain ⟨-, -, straps, -⟩ := (received_keeps p vc bytes (w := passParts) (by decide) (.rfl' (s := s))).same .boot (by decide)
  exact straps

theorem not_master_of_hears {s : State} (hears : hearsMaster s = true) : isMaster s = false := by
  cases master : isMaster s with
  | false => rfl
  | true => rw [hearsMaster, master] at hears; exact absurd hears Bool.false_ne_true

theorem open_of_hears {s : State} (hears : hearsMaster s = true) : s.plk.up.closed = false ∧ s.plk.up.isOpen = true := by
  rw [hearsMaster, not_master_of_hears hears] at hears
  simpa using hears

theorem passDown_received {m : LinkMsg} {bytes : Nat} {s : State} (hears : hearsMaster s = true) :
    passDown m (received .up 1 bytes s) = passedOn m bytes s := by
  have part : isMaster (received .up 1 bytes s) = false := by
    rw [isMaster, received_straps]
    exact not_master_of_hears hears
  exact if_neg (by rw [part]; exact Bool.false_ne_true)

/-! ### The coordinated swap (R127) -/

theorem onSwapPrepare_stages {fibre : Bool} {plan : BitVec 4} {target : BitVec 24} {t0 : Tick} {s : State} (hears : hearsMaster s = true)
    (known : planExists s fibre plan.toNat = true)
    (ahead : judgeFrame (ctxOf s (domOf fibre)) (localFrame s target.toNat) = .ahead) :
    (onSwapPrepare fibre plan target t0 s).esq.staged = s.esq.staged ++
      [{ fibre := fibre, plan := plan.toNat, target := localFrame s target.toNat, committed := false, scope := 1,
         origin := .master, taken := t0, readies := [] }] := by
  unfold onSwapPrepare
  extract_lets u f x
  have passed : u = passedOn (.swapPrepare fibre plan.toNat target.toNat) 5 (advance t0 s) := passDown_received (s := advance t0 s) hears
  have frame : f = localFrame s target.toNat := by
    show localFrame u target.toNat = _
    rw [passed, passedOn_localFrame]
    rfl
  have plans : planExists u fibre plan.toNat = true := by
    have image := passedOn_image (.swapPrepare fibre plan.toNat target.toNat) 5 (advance t0 s)
    rw [passed, ← known]
    unfold planExists scanPlan recWhere
    rw [image.recsOf, image.recsOf]
    rfl
  have context : ctxOf u (domOf fibre) = ctxOf s (domOf fibre) := by
    rw [passed]
    cases domOf fibre
    · rw [ctxOf, passedOn_esq]; rfl
    · rw [ctxOf, passedOn_fib]; rfl
  have takes : (hearsMaster u && planExists u fibre plan.toNat && decide (judgeFrame (ctxOf u (domOf fibre)) f = .ahead)) = true := by
    rw [plans, context, frame, ahead, passed, passedOn_hears, show hearsMaster (advance t0 s) = true from hears]
    rfl
  rw [if_pos takes]
  have kept : (toMaster (.swapReady u.trl.addr target.toNat) { u with esq := { u.esq with staged := u.esq.staged ++ [x] } }).esq =
      { u.esq with staged := u.esq.staged ++ [x] } := (toMaster_keeps _ (w := passParts) (by decide) .rfl').same .esq (by decide)
  rw [kept]
  show u.esq.staged ++ [x] = _
  have staged : u.esq.staged = s.esq.staged := by rw [passed, passedOn_esq]; rfl
  rw [staged]
  show s.esq.staged ++ [x] = _
  rw [← frame]

theorem onSwapReady_master {addr : BitVec 4} {target : BitVec 24} {s : State} {x : Staged} (master : isMaster s = true)
    (staged : s.esq.staged = [x]) (target_ : x.target = target.toNat) (awaited : x.readies.contains addr.toNat = true) :
    (onSwapReady addr target s).esq.staged = [{ x with readies := x.readies.filter fun a => !decide (a = addr.toNat) }] := by
  have same : (received .dn 1 4 s).esq.staged = [x] := by
    rw [show (received .dn 1 4 s).esq = s.esq from (received_keeps _ _ _ (w := passParts) (by decide) (.rfl' (s := s))).same .esq (by decide), staged]
  unfold onSwapReady
  extract_lets u l
  have masters : isMaster u = true := by rw [isMaster, received_straps]; exact master
  rw [if_pos masters]
  show mapFirst _ _ u.esq.staged = _
  rw [show u.esq.staged = [x] from same, mapFirst]
  exact if_pos (by rw [awaited, decide_eq_true target_]; rfl)

section
variable {target : BitVec 24} {s : State} {x : Staged} (hears : hearsMaster s = true) (staged : s.esq.staged = [x])
  (target_ : x.target = localFrame s target.toNat) (master : x.origin = .master) (open_ : x.committed = false)
include hears target_ master open_

/-- A swap of the master that this part has prepared is the one meant. -/
theorem swap_meant (m : LinkMsg) : (hearsMaster (passedOn m 3 s) && decide (x.target = localFrame (passedOn m 3 s) target.toNat)
    && x.origin.isMaster && !x.committed) = true := by
  rw [passedOn_hears, passedOn_localFrame, hears, decide_eq_true target_, master, open_]
  rfl

include staged

theorem onSwapCommit_commits : (onSwapCommit target s).esq.staged = [{ x with committed := true }] := by
  unfold onSwapCommit
  extract_lets u l
  have passed : u = passedOn (.swapCommit target.toNat) 3 s := passDown_received hears
  have one : u.esq.staged = [x] := by rw [passed, passedOn_esq, staged]
  show mapFirst _ _ u.esq.staged = _
  rw [one, mapFirst]
  exact if_pos (by rw [passed]; exact swap_meant hears target_ master open_ _)

theorem onSwapCancel_releases : (onSwapCancel target s).esq.staged = [{ x with origin := .internal }] := by
  unfold onSwapCancel
  extract_lets u p l
  have passed : u = passedOn (.swapCancel target.toNat) 3 s := passDown_received hears
  have one : u.esq.staged = [x] := by rw [passed, passedOn_esq, staged]
  have meant : p x = true := by
    show (hearsMaster u && decide (x.target = localFrame u target.toNat) && x.origin.isMaster && !x.committed) = true
    rw [passed]
    exact swap_meant hears target_ master open_ _
  rw [if_pos (by rw [one, List.any_cons, meant]; rfl)]
  show mapFirst _ _ u.esq.staged = _
  rw [one, mapFirst]
  exact if_pos meant

end

/-! ### START and JOIN (R370, R380) -/

theorem received_trl (p : Port) (vc bytes : Nat) (s : State) : (received p vc bytes s).trl = s.trl := by
  unfold received
  extract_lets n
  split
  · cases p <;> rfl
  · rfl

theorem onStart_taken {T : Tick} {grants : List Byte} {t0 : Tick} {s : State} (hears : hearsMaster s = true)
    (accepted : s.trl.accepted = true) : onStart T grants t0 s = startTaken T grants (passedOn (.start T grants) 24 (advance t0 s)) := by
  have heard := hearsMaster_received 24 (s := advance t0 s) hears
  obtain ⟨closed, isOpen⟩ := open_of_hears heard
  have taken_ : (received .up 1 24 (advance t0 s)).trl.accepted = true := by rw [received_trl]; exact accepted
  unfold onStart
  extract_lets u
  exact if_neg (by rw [not_master_of_hears heard, closed, isOpen, taken_]; decide)

theorem step9End_trl (s : State) : (step9End s).trl = s.trl := by
  unfold step9End
  extract_lets _ u _
  split <;> rfl

/-- What START changes in the Trellis at a part that does not run yet (R370). -/
theorem startTaken_trl {T : Tick} {g : List Byte} {s : State} (first : s.trl.enumerated = false) : ∃ n d h l,
    (startTaken T g s).trl = { s.trl with nParts := n, enumerated := true, t0 := some T, deepen := d, shared := h, lidarHeld := l } := by
  refine ⟨((List.range 16).filter fun a => bitB (g.getD a 0).toNat 0).length, bitB (g.getD s.trl.addr 0).toNat 1,
    bitB (g.getD s.trl.addr 0).toNat 2,
    decide (roleAt s s.trl.addr % 4 = 2) && !bitB (g.getD s.trl.addr 0).toNat 1, ?_⟩
  unfold startTaken
  extract_lets v r n _ u _ w refused
  rw [if_neg (by rw [show u.trl.enumerated = false from first]; exact Bool.false_ne_true), step9End_trl]
  split
  · rfl
  · rfl

theorem onJoin_joins {addr : BitVec 4} {offset : BitVec 24} {s : State} (hears : hearsMaster s = true) (own : addr.toNat = s.trl.addr) :
    (onJoin addr offset s).trl.joinOff = offset.toNat ∧ evtPending (onJoin addr offset s) 293 = true := by
  have heard := hearsMaster_received 4 hears
  obtain ⟨closed, isOpen⟩ := open_of_hears heard
  unfold onJoin
  extract_lets u v
  have addr_ : addr.toNat = v.trl.addr := own.trans (passedOn_image (.join addr.toNat offset.toNat) 4 s).addr.symm
  rw [if_neg (by rw [not_master_of_hears heard, closed, isOpen]; decide), if_pos addr_]
  exact ⟨rfl, evtPending_raise ..⟩

/-! ### Alignment (R368 to R370) -/

theorem align_of_keeps {w : Nat} {s t : State} (kept : Keeps w s t) (cascade : w.testBit Part.cascade.bit = false) :
    t.trl.align = s.trl.align := by
  obtain ⟨-, -, -, -, -, -, -, -, -, -, -, -, -, -, -, -, -, -, -, -, -, -, -, align⟩ := kept.same .cascade cascade
  exact align

theorem startTaken_align (T : Tick) (g : List Byte) (s : State) : (startTaken T g s).trl.align = s.trl.align := by
  cases first : s.trl.enumerated with
  | false =>
    obtain ⟨n, d, h, l, trl⟩ := startTaken_trl (T := T) (g := g) first
    rw [trl]
  | true =>
    unfold startTaken
    extract_lets v r n _ u _ w refused
    rw [if_pos (show u.trl.enumerated = true from first)]

theorem finishEnum_align (force : Bool) (s : State) : (finishEnum force s).trl.align = s.trl.align := by
  have sound (s : State) : (if (s.trl.parts.filter fun e => e.2.present).length < rdf s Fld.TRL_CFG_n_expect then chainShort s else s).trl.align =
      s.trl.align := by
    split <;> rfl
  unfold finishEnum
  split
  · extract_lets own _ _ u g t0 v x
    have sent : (raise 284 (sendMsg .dn (.start t0 g) (noteGrants g x))).trl.align = (noteGrants g x).trl.align :=
      align_of_keeps (raise_keeps _ (w := passParts) (by decide) (sendMsg_keeps _ _ (by decide) .rfl')) (by decide)
    rw [startTaken_align, sent]
    exact (sound v).trans rfl
  · rfl

theorem finishJoin_align (s : State) : (finishJoin s).trl.align = s.trl.align := by
  unfold finishJoin
  split
  · split
    · extract_lets t0 u off _ p _ v g
      have sent (m k : LinkMsg) : (raise 293 (sendMsg .dn m (sendMsg .dn k v))).trl.align = v.trl.align :=
        align_of_keeps (raise_keeps _ (w := passParts) (by decide) (sendMsg_keeps _ _ (by decide) (sendMsg_keeps _ _ (by decide) .rfl'))) (by decide)
      rw [startTaken_align, sent]
      rfl
    · rfl
  · rfl

theorem alignAverage_pairs (s : State) : (alignAverage s).trl.align.pairs = s.trl.align.pairs := by
  unfold alignAverage
  extract_lets a q r u step x _ v w
  have averaged : w.trl.align.pairs = s.trl.align.pairs := by
    unfold w
    split <;> rfl
  split
  · rw [align_of_keeps (refMismatch_keeps (w := passParts) (by decide) .rfl') (by decide)]
    exact averaged
  · exact averaged

theorem opticalLengths_align (p : Port) (s : State) : (opticalLengths p s).trl.align = s.trl.align :=
  align_of_keeps (opticalLengths_keeps p (w := passParts + 2 ^ 27) (by decide) .rfl') (by decide)

theorem quantUsed_align (q : Rat) (s : State) : (quantUsed q s).trl.align = s.trl.align := by
  unfold quantUsed
  split <;> rfl

theorem onAlign_up {index : Nat} {d a t0 : Tick} {s : State} {p : Tick × Tick} (known : Tab.look s.trl.align.pairs index = some p) :
    Tab.look (onAlign .up index d a t0 s).trl.align.pairs index = none := by
  have here : Tab.look (received .up 1 20 (advance t0 s)).trl.align.pairs index = some p := by rw [received_trl]; exact known
  have same : (received .up 1 20 (advance t0 s)).trl.align = s.trl.align := by rw [received_trl]; rfl
  unfold onAlign
  extract_lets u x
  rw [show x = s.trl.align from same, known]
  obtain ⟨db, ab⟩ := p
  dsimp only
  split
  · rw [alignAverage_pairs, opticalLengths_align]
    exact Tab.look_del_same ..
  · rw [opticalLengths_align]
    exact Tab.look_del_same ..

theorem onAlign_dn {index : Nat} {d a t0 : Tick} {s : State} {p : Tick × Tick} (known : Tab.look s.trl.align.dnPairs index = some p) :
    Tab.look (onAlign .dn index d a t0 s).trl.align.dnPairs index = none ∧
      (onAlign .dn index d a t0 s).trl.align.dnCount = s.trl.align.dnCount + 1 := by
  have same : (received .dn 1 20 (advance t0 s)).trl.align = s.trl.align := by rw [received_trl]; rfl
  unfold onAlign
  extract_lets u x
  rw [show x = s.trl.align from same, known]
  obtain ⟨da, aa⟩ := p
  dsimp only
  rw [finishJoin_align, finishEnum_align, opticalLengths_align]
  exact ⟨Tab.look_del_same .., rfl⟩

/-- Settles O38: each message is passed on, which leaves what the part decides from, and acts by its own clause. -/
theorem cascadeRunCommandsComplete : Obligations.CascadeRunCommandsComplete := by
  unfold Obligations.CascadeRunCommandsComplete
  refine ⟨fun s index d a t0 p known => completes rfl (onAlign_up known), fun s index d a t0 p known => completes rfl (onAlign_dn known),
    fun s T grants t0 hears accepted first => completes rfl ?_,
    fun s fibre plan target t0 hears known ahead => completes rfl (onSwapPrepare_stages hears known ahead),
    fun s addr target x master staged target_ awaited => completes rfl (onSwapReady_master master staged target_ awaited),
    fun s target x hears staged target_ master open_ => completes rfl (onSwapCommit_commits hears staged target_ master open_),
    fun s target x hears staged target_ master open_ => completes rfl (onSwapCancel_releases hears staged target_ master open_),
    fun s code args frame t0 hears => completes rfl ⟨onOrder_orderFrame hears, fun logout session => ?_⟩,
    fun s addr offset hears own => completes rfl (onJoin_joins hears own)⟩
  · have before : (passedOn (.start T grants) 24 (advance t0 s)).trl.enumerated = false := by
      obtain ⟨-, -, -, -, -, -, -, -, -, -, -, -, -, -, enumerated, -⟩ :=
        (passedOn_kept (.start T grants) 24 (advance t0 s)).same .cascade (by decide)
      exact enumerated.trans first
    obtain ⟨n, shared, held, l, trl⟩ := startTaken_trl (T := T) (g := grants) before
    rw [onStart_taken hears accepted, trl]
    exact ⟨rfl, rfl⟩
  · subst logout
    obtain ⟨u, runs, -, ended, -⟩ := onOrder_logout (args := args) (frame := frame) (t0 := t0) hears session
    rw [runs]
    exact ⟨ended, rfl⟩

end Sys2Proof.Machine
end

section
/-! PROOFS. The master's merge of forwarded items (R373 to R375, R382). -/

namespace Sys2Proof.Machine

theorem mergeOf_of_trl {s t : State} (trl : t.trl = s.trl) (k : Nat) : mergeOf t k = mergeOf s k := by rw [mergeOf, trl, mergeOf]

theorem mergeOf_setMerge (k : Nat) (m : MergeSt) (s : State) : mergeOf (setMerge k m s) k = m := Tab.lookD_put_same ..

/-- What the host gets of the released items leaves the Trellis. -/
theorem hostItem_trl (src stream : Nat) (ws : List Word64) (s : State) : (hostItem src stream ws s).trl = s.trl := by
  unfold hostItem
  split <;> rfl

theorem releaseTo_merge (src stream f : Nat) (s : State) :
    f ≤ (mergeOf (releaseTo src stream f s) (skey src stream)).next ∧
    (mergeOf (releaseTo src stream f s) (skey src stream)).closes = (mergeOf s (skey src stream)).closes := by
  unfold releaseTo
  extract_lets k m out u
  split
  next behind =>
    refine List.foldlRecOn (motive := fun a : State × Bool => f ≤ (mergeOf a.1 k).next ∧ (mergeOf a.1 k).closes = m.closes) out _ ?_ ?_
    · show f ≤ (mergeOf u k).next ∧ (mergeOf u k).closes = m.closes
      unfold u
      rw [mergeOf_setMerge]
      exact ⟨Nat.le_refl f, rfl⟩
    · intro a held i _
      dsimp only
      split
      · rw [mergeOf_of_trl (hostItem_trl ..)]
        exact held
      · exact held
  next reached => exact ⟨Nat.le_of_not_lt reached, rfl⟩

/-- A close of part `u` is in the merge once it was taken (R375). -/
theorem mergeClose_closes (src stream u f : Nat) (s : State) :
    f ≤ Tab.lookD (mergeOf (mergeClose src stream u f s) (skey src stream)).closes u 0 := by
  unfold mergeClose
  extract_lets k m ownAt
  have put (t : State) (closes : (mergeOf t k).closes = Tab.put m.closes u (max f (closedBefore s m u))) :
      f ≤ Tab.lookD (mergeOf t k).closes u 0 := by
    rw [closes, Tab.lookD_put_same]
    exact Nat.le_max_left ..
  refine put _ ?_
  unfold tryRelease
  extract_lets m'
  split
  · rw [(releaseTo_merge src stream _ _).2]
    show (mergeOf (setMerge k _ s) k).closes = _
    rw [mergeOf_setMerge]
  · rw [mergeOf_setMerge]

/-- The bits of the parts that a message received from below changes. -/
def belowParts : Nat := 2 ^ 0 + 2 ^ 25 + 2 ^ 26

theorem received_kept (p : Port) (vc bytes : Nat) (s : State) : Keeps belowParts s (received p vc bytes s) :=
  received_keeps p vc bytes (by decide) .rfl'

theorem received_master (p : Port) (vc bytes : Nat) (s : State) : isMaster (received p vc bytes s) = isMaster s := by
  rw [isMaster, received_straps, isMaster]

theorem received_open {bytes : Nat} {s : State} (closed : s.plk.dn.closed = false) (isOpen : s.plk.dn.isOpen = true) :
    ((received .dn 1 bytes s).plk.dn.closed || !(received .dn 1 bytes s).plk.dn.isOpen) = false := by
  have stands := received_stands .dn 1 bytes s
  have closed_ : (received .dn 1 bytes s).plk.dn.closed = false := (stands.closed .dn).trans closed
  have open_ : (received .dn 1 bytes s).plk.dn.isOpen = true := (stands.isOpen .dn).trans isOpen
  rw [closed_, open_]
  rfl

theorem srcDom_of_image {s t : State} (image : SameImage s t) (src : Nat) : srcDom t src = srcDom s src := by
  rw [srcDom, image.hasLidar, image.hasFibre, srcDom]

theorem domCtx_of_keeps {w : Nat} {s t : State} (kept : Keeps w s t) (esq : w.testBit Part.esq.bit = false)
    (fib : w.testBit Part.fib.bit = false) (d : Dom) : domCtx t d = domCtx s d := by
  cases d
  · rw [domCtx, show t.esq = s.esq from kept.same .esq esq]; rfl
  · rw [domCtx, show t.fib = s.fib from kept.same .fib fib]; rfl

section
variable {addr : BitVec 4} {src stream : BitVec 6} {frame : BitVec 24} {s : State} (closed : s.plk.dn.closed = false)
  (isOpen : s.plk.dn.isOpen = true)
include closed isOpen

theorem onFrameClose_master (master : isMaster s = true) : onFrameClose addr src stream frame s =
    mergeClose src.toNat stream.toNat addr.toNat
      (liftNear (domCtx s (srcDom s src.toNat)).frame ((frame.toNat + (partOf s addr.toNat).join) % 2 ^ 24) + 1) (received .dn 1 5 s) := by
  have kept := received_kept .dn 1 5 s
  have image : SameImage s (received .dn 1 5 s) := .of_keeps kept (by decide) (by decide)
  have join : partOf (received .dn 1 5 s) addr.toNat = partOf s addr.toNat := by rw [partOf, received_trl, partOf]
  have context : domCtx (received .dn 1 5 s) (srcDom (received .dn 1 5 s) src.toNat) = domCtx s (srcDom s src.toNat) := by
    rw [srcDom_of_image image, domCtx_of_keeps kept (by decide) (by decide)]
  unfold onFrameClose
  extract_lets u j c f
  rw [if_neg (by rw [received_open closed isOpen]; exact Bool.false_ne_true), if_pos ((received_master ..).trans master)]
  show mergeClose src.toNat stream.toNat addr.toNat (liftNear (domCtx u (srcDom u src.toNat)).frame
    ((frame.toNat + (partOf u addr.toNat).join) % 2 ^ 24) + 1) u = _
  rw [context, join]

theorem onFrameClose_part (part : isMaster s = false) : onFrameClose addr src stream frame s =
    toMaster (.frameClose addr.toNat src.toNat stream.toNat frame.toNat) (received .dn 1 5 s) := by
  unfold onFrameClose
  extract_lets u j c f
  rw [if_neg (by rw [received_open closed isOpen]; exact Bool.false_ne_true),
    if_neg (by rw [received_master, part]; exact Bool.false_ne_true)]

end

/-- What the link has damaged or lost of the packets of items is marked on the item that follows, once (R362). -/
def Unmarked (x : PortSt) : Prop := x.lostNext = false ∧ x.hit.contains 3 = false

theorem Unmarked.of_stands {s t : State} (unmarked : Unmarked s.plk.dn) (stands : PortsStand s t) : Unmarked t.plk.dn := by
  have lost : t.plk.dn.standing.lostNext = s.plk.dn.standing.lostNext := congrArg PortSt.lostNext (stands.port .dn)
  have hit : t.plk.dn.standing.hit = s.plk.dn.standing.hit := congrArg PortSt.hit (stands.port .dn)
  exact ⟨lost.trans unmarked.1, (congrArg (List.contains · 3) hit).trans unmarked.2⟩

theorem onForwardedItem_unmarks {item : Item} {t0 : Tick} {s : State} (closed : s.plk.dn.closed = false) (isOpen : s.plk.dn.isOpen = true)
    (runs : s.trl.enumerated = true) : Unmarked (onForwardedItem item t0 s).plk.dn := by
  unfold onForwardedItem
  extract_lets a poisoned tag _ u ws blocks unit d f k
  have fresh : Unmarked u.plk.dn := ⟨rfl, by
    show (List.filter (fun v => decide (v ≠ 3)) _).contains 3 = false
    simp⟩
  have beside {w : Nat} {s t : State} (from_ : Unmarked s.plk.dn) (kept : Keeps w s t) (up : w.testBit Part.portUp.bit = false)
      (dn : w.testBit Part.portDn.bit = false) : Unmarked t.plk.dn := from_.of_stands (.of_keeps kept up dn)
  rw [if_neg (by rw [show a.plk.dn.closed = false from closed, show a.plk.dn.isOpen = true from isOpen,
    show a.trl.enumerated = true from runs]; decide)]
  split
  · refine Unmarked.of_stands (s := mergeAdd _ _ _ _ _ _) ?_ (sendBlock_stands ..)
    exact beside (s := { u with trl := { u.trl with ctlLast := (ws, k) } }) fresh
      (mergeAdd_keeps _ _ _ _ _ (w := 281474976710655 - 2 ^ 25 - 2 ^ 26) (by decide) .rfl') (by decide) (by decide)
  · split
    · exact beside fresh (pushBP_keeps _ _ _ (w := 281474976710655 - 2 ^ 25 - 2 ^ 26) (by decide) .rfl') (by decide) (by decide)
    · refine Unmarked.of_stands (s := sendUp ws u) ?_ (sendBlock_stands ..)
      refine Unmarked.of_stands (s := pushBP 8 0 (packWords 0 ws) u) ?_ (pump_stands ..)
      exact beside fresh (pushBP_keeps _ _ _ (w := 281474976710655 - 2 ^ 25 - 2 ^ 26) (by decide) .rfl') (by decide) (by decide)

/-- Settles O39: a close and an expired wait move the merge on by what `mergeClose` and `releaseTo` do. -/
theorem mergeCommandsComplete : Obligations.MergeCommandsComplete := by
  unfold Obligations.MergeCommandsComplete
  refine ⟨fun s addr src stream frame closed isOpen master => completes rfl ?_,
    fun s addr src stream frame closed isOpen part => completes rfl (onFrameClose_part closed isOpen part),
    fun s src stream frame master due => completes rfl ?_,
    fun s item t0 closed isOpen runs => completes rfl (onForwardedItem_unmarks closed isOpen runs)⟩
  · rw [onFrameClose_master closed isOpen master]
    exact mergeClose_closes ..
  · unfold onMergeWaitExpire
    extract_lets f wait
    rw [if_pos (by rw [master]; exact due)]
    exact (releaseTo_merge ..).1

end Sys2Proof.Machine
end

section
/-! PROOFS. The control loops (R274 to R284) and the aux channels (R285 to R293). -/

namespace Sys2Proof.Machine

/-! ### Loops -/

theorem loopOf_setLoop (n : Nat) (x : LoopSt) (s : State) : loopOf (setLoop n x s) n = x := Tab.lookD_put_same ..

theorem loopOf_of_cle {s t : State} (cle : t.cle = s.cle) (n : Nat) : loopOf t n = loopOf s n := by rw [loopOf, cle, loopOf]

/-- The samples that a loop has counted, for its item and for housekeeping. -/
def LoopSt.counts (x : LoopSt) : Nat × Nat := (x.n, x.hkN)

theorem slewStep_counts (slew : Nat) (target : Int) (x : LoopSt) : (slewStep slew target x).counts = x.counts := by
  unfold slewStep
  extract_lets lim d
  split <;> rfl

/-- What one sample makes of an enabled loop (R278 to R281). -/
def sampledLoop (s : State) (loop : Nat) (x : LoopSt) (target y : Int) (ok : Bool) : LoopSt × Bool :=
  if railMeasuring s = some loop then (measuredLoop s loop x target y, false)
  else loopLaw s loop (slewStep (rdf s (Fld.CLE_SLEW_slew loop)) target x) y ok

theorem sampledLoop_counts (s : State) (loop : Nat) (x : LoopSt) (target y : Int) (ok : Bool) :
    (sampledLoop s loop x target y ok).1.counts = x.counts := by
  unfold sampledLoop
  split
  · rfl
  · exact slewStep_counts ..

theorem onLoopSample_counts {loop : Fin 8} {lfb lsp : BitVec 12} {t0 : Tick} {s : State} (enabled : loopEnabled s loop = true) :
    (loopOf (onLoopSample loop lfb lsp t0 s) loop).n = (loopOf s loop).n + 1 ∧
      (loopOf (onLoopSample loop lfb lsp t0 s) loop).hkN = (loopOf s loop).hkN + 1 ∧
      (s.hkp.hardCut = true → (loopOf (onLoopSample loop lfb lsp t0 s) loop).drv = false) := by
  unfold onLoopSample
  extract_lets a x aux y ok target p _ w0 w b c d e f
  have counts : p.1.counts = x.counts := sampledLoop_counts a loop x target y ok
  have loops : ∀ t : State, t.cle = b.cle → loopOf t loop = w := fun t cle => (loopOf_of_cle cle loop).trans (loopOf_setLoop ..)
  have reported : f.cle = b.cle := by
    have limiting : c.cle = b.cle := by unfold c; split <;> rfl
    have clamped : d.cle = c.cle := by unfold d; split <;> rfl
    have left : e.cle = d.cle := by unfold e; split <;> rfl
    have hit : f.cle = e.cle := by unfold f; split <;> rfl
    rw [hit, left, clamped, limiting]
  have state : loopOf (if (w.invalid && !x.invalid) = true then fault 229 Src.cle 0 .corrected loop f else f) loop = w := by
    split
    · exact loops _ reported
    · exact loops _ reported
  rw [if_neg (by rw [show loopEnabled a loop = true from enabled]; decide), state]
  refine ⟨congrArg (·.1 + 1) counts, congrArg (·.2 + 1) counts, fun cut => ?_⟩
  show (p.1.drv && !a.hkp.hardCut) = false
  rw [show a.hkp.hardCut = true from cut]
  exact Bool.and_false _

theorem onLspEdge_edge (loop : Fin 8) (g high : Nat) (s : State) : (loopOf (onLspEdge loop g high s) loop).edge = some g ∧
    (loopOf (onLspEdge loop g high s) loop).periods = if (loopOf s loop).edge.isSome then (loopOf s loop).periods + 1 else 0 := by
  have used (q : Rat) (t : State) : loopOf (quantUsed q t) loop = loopOf t loop :=
    loopOf_of_cle (by unfold quantUsed; split <;> rfl) loop
  unfold onLspEdge
  extract_lets x
  cases edge : x.edge with
  | none =>
    rw [loopOf_setLoop]
    exact ⟨rfl, rfl⟩
  | some e =>
    dsimp only
    rw [used, loopOf_setLoop]
    exact ⟨rfl, rfl⟩

theorem onCleSpLost_loses {loop : Fin 8} {t0 : Tick} {s : State} (enabled : loopEnabled s loop = true)
    (pulse : rdf s (Fld.CLE_CFG_sp_src loop) = 3) (timed : rdf s (Fld.CLE_SPTO_sp_timeout loop) ≠ 0) (live : (loopOf s loop).lost = false) :
    loopOf (onCleSpLost loop t0 s) loop = { loopOf s loop with lost := true, edge := none, periods := 0 } := by
  unfold onCleSpLost
  extract_lets a x
  have loses : (loopEnabled a loop && decide (rdf a (Fld.CLE_CFG_sp_src loop) = 3) && decide (rdf a (Fld.CLE_SPTO_sp_timeout loop) ≠ 0)
      && !x.lost) = true := by
    rw [show loopEnabled a loop = true from enabled, decide_eq_true (p := rdf a (Fld.CLE_CFG_sp_src loop) = 3) pulse,
      decide_eq_true (p := rdf a (Fld.CLE_SPTO_sp_timeout loop) ≠ 0) timed, show x.lost = false from live]
    rfl
  rw [if_pos loses]
  exact loopOf_setLoop loop _ a

/-! ### Aux channels -/

theorem asfOf_setAsf (n : Nat) (x : AsfCh) (s : State) : asfOf (setAsf n x s) n = x := Tab.lookD_put_same ..

theorem asfOf_of_asf {s t : State} (asf : t.asf = s.asf) (n : Nat) : asfOf t n = asfOf s n := by rw [asfOf, asf, asfOf]

/-- What the open-wire test leaves of a channel (R291). -/
theorem openStep_channel (n : Nat) (susp : Bool) (s : State) : (asfOf (openStep n susp s) n).second = (asfOf s n).second ∧
    (asfOf (openStep n susp s) n).rail1 = (asfOf s n).rail1 ∧ (asfOf (openStep n susp s) n).enabled = (asfOf s n).enabled := by
  unfold openStep
  extract_lets x sr ok opens closes a b c
  have asf : c.asf = a.asf := by
    have suspect : b.asf = a.asf := by unfold b; split <;> rfl
    have opened : c.asf = b.asf := by unfold c; split <;> rfl
    rw [opened, suspect]
  have tested : asfOf (if closes then raise 234 c else c) n = asfOf a n := by
    split
    · exact asfOf_of_asf asf n
    · exact asfOf_of_asf asf n
  rw [tested, show asfOf a n = _ from asfOf_setAsf ..]
  exact ⟨rfl, rfl, rfl⟩

theorem openStep_slot (n : Nat) (susp : Bool) (s : State) : (openStep n susp s).asf.slot = s.asf.slot := by
  unfold openStep
  extract_lets x sr ok opens closes a b c
  have suspect : b.asf = a.asf := by unfold b; split <;> rfl
  have opened : c.asf = b.asf := by unfold c; split <;> rfl
  have slot : c.asf.slot = s.asf.slot := by rw [opened, suspect]; rfl
  split
  · exact slot
  · exact slot

/-- The open-wire test writes event, count and sticky registers alone. -/
theorem openStep_rd {off : Nat} (n : Nat) (susp : Bool) (s : State) (suspects : off ≠ Reg.ASF_SUSP n) (opens : off ≠ Reg.ASF_OPEN_COUNT)
    (sticky : off ≠ Reg.ASF_STICKY) (events : off ≠ evtReg 232) : rd (openStep n susp s) off = rd s off := by
  have event3 : off ≠ evtReg 233 := events
  have event4 : off ≠ evtReg 234 := events
  unfold openStep
  extract_lets x sr ok opens_ closes a b c
  have suspect : rd b off = rd s off := by
    unfold b
    split
    · rw [rd_raise_ne _ events]
      exact rd_bumpAt_ne _ _ _ _ suspects
    · rfl
  have opened : rd c off = rd s off := by
    rw [← suspect]
    unfold c
    split
    · rw [rd_stick_ne _ _ sticky]
      refine (rd_bumpAt_ne _ _ _ _ opens).trans ?_
      exact rd_raise_ne b event3
    · rfl
  split
  · rw [rd_raise_ne _ event4, opened]
  · exact opened

theorem cleFeedback_asf (chan : Nat) (value : Int) (bad step : Bool) (s : State) : (cleFeedback chan value bad step s).asf = s.asf :=
  (cleFeedback_keeps chan value bad step (w := 281474976710655 - 2 ^ 18) (by decide) .rfl').same .asf (by decide)

/-- Closing a channel's packed results leaves the rest of the channel (R293). -/
theorem asfClose_channel (n : Nat) (c : TagCtx) (s : State) : (asfOf (asfClose n c s) n).second = (asfOf s n).second ∧
    (asfOf (asfClose n c s) n).enabled = (asfOf s n).enabled := by
  unfold asfClose
  extract_lets x l ws
  split
  · exact ⟨rfl, rfl⟩
  · have fed (u : State) (v : List Nat) : (v.foldl (fun s w => fdcFeedAux n w s) u).asf = u.asf := by
      refine List.foldlRecOn (motive := fun t : State => t.asf = u.asf) v _ rfl fun t same w _ => ?_
      rw [← same]
      exact (fdcFeedAux_keeps n w (w := 281474976710655 - 2 ^ 18) (by decide) .rfl').same .asf (by decide)
    have emitted (u : State) : (emit Src.asf n c ws u).asf = u.asf :=
      (emit_keeps _ _ _ _ (w := 281474976710655 - 2 ^ 18) (by decide) .rfl').same .asf (by decide)
    rw [asfOf_of_asf ((fed _ _).trans (emitted _)), asfOf_setAsf]
    exact ⟨rfl, rfl⟩

/-- Delivering a result leaves the phases of the channel (R287, R293). -/
theorem asfResult_channel (n : Nat) (c : TagCtx) (v : Int) (step susp opn sat : Bool) (s : State) :
    (asfOf (asfResult n c v step susp opn sat s) n).second = (asfOf s n).second ∧
    (asfOf (asfResult n c v step susp opn sat s) n).enabled = (asfOf s n).enabled := by
  unfold asfResult
  extract_lets x over_ r w bad a b d
  have asf : d.asf = a.asf := by
    have stuck : b.asf = a.asf := by unfold b; split <;> rfl
    exact (cleFeedback_asf ..).trans stuck
  have channel : asfOf d n = asfOf a n := asfOf_of_asf asf n
  have put : asfOf a n = _ := asfOf_setAsf ..
  split
  · rw [(asfClose_channel n c d).1, (asfClose_channel n c d).2, channel, put]
    exact ⟨rfl, rfl⟩
  · rw [channel, put]
    exact ⟨rfl, rfl⟩

/-- The schedule moves on from the slot in progress (R286). -/
def nextSlot (s : State) : State := { s with asf := { s.asf with slot := (s.asf.slot + 1) % rdf s Fld.ASF_SCHED_n_slot } }

/-- The channel at its conversion, begun by its first one (R287, R289). -/
def convChannel (s : State) (n : Nat) : AsfCh :=
  let x := asfOf s n
  if x.enabled then x else
    { x with enabled := true, step := if rdf s (Fld.ASF_CFG_mode n) = 6 then 3 else 0, range := rdf s (Fld.ASF_CFG_range n) }

/-- The wires railed in a conversion, where the open-wire test is on (R291). -/
def railedOf (s : State) (n : Nat) (railed : BitVec 4) : BitVec 4 := if rdf s (Fld.ASF_CFG_bo_en n) = 1 then railed else 0

/-- The state of a conversion whose wires have been tested (R291). -/
def wiresTested (n : Nat) (railed : BitVec 4) (s : State) : State :=
  openStep n (decide (railedOf s n railed ≠ 0)) (setAsf n { convChannel s n with
    rail1 := if (convChannel s n).second then (convChannel s n).rail1 else railedOf s n railed,
    rail2 := if (convChannel s n).second then railedOf s n railed else (convChannel s n).rail2 } s)

theorem convChannel_second (s : State) (n : Nat) : (convChannel s n).second = (asfOf s n).second := by
  unfold convChannel
  extract_lets x
  split <;> rfl

theorem convChannel_enabled (s : State) (n : Nat) : (convChannel s n).enabled = true := by
  unfold convChannel
  extract_lets x
  split
  next on => exact on
  next => rfl

theorem wiresTested_channel (n : Nat) (railed : BitVec 4) (s : State) :
    (asfOf (wiresTested n railed s) n).second = (asfOf s n).second ∧
    ((asfOf s n).second = false → (asfOf (wiresTested n railed s) n).rail1 = railedOf s n railed) ∧
    (asfOf (wiresTested n railed s) n).enabled = true := by
  obtain ⟨second, rail1, enabled⟩ := openStep_channel n (decide (railedOf s n railed ≠ 0)) (setAsf n { convChannel s n with
    rail1 := if (convChannel s n).second then (convChannel s n).rail1 else railedOf s n railed,
    rail2 := if (convChannel s n).second then railedOf s n railed else (convChannel s n).rail2 } s)
  rw [asfOf_setAsf] at second rail1 enabled
  refine ⟨second.trans (convChannel_second s n), fun first => rail1.trans (if_neg ?_), enabled.trans (convChannel_enabled s n)⟩
  rw [convChannel_second, first]
  exact Bool.false_ne_true

theorem wiresTested_mode (chan : Fin 8) (railed : BitVec 4) (s : State) :
    rdf (wiresTested chan railed s) (Fld.ASF_CFG_mode chan) = rdf s (Fld.ASF_CFG_mode chan) := by
  have apart : ∀ c : Fin 8, Reg.ASF_CFG c ≠ Reg.ASF_SUSP c ∧ Reg.ASF_CFG c ≠ Reg.ASF_OPEN_COUNT ∧ Reg.ASF_CFG c ≠ Reg.ASF_STICKY ∧
      Reg.ASF_CFG c ≠ evtReg 232 := by decide
  obtain ⟨suspects, opens, sticky, events⟩ := apart chan
  have word : rd (wiresTested chan railed s) (Reg.ASF_CFG chan) = rd s (Reg.ASF_CFG chan) := openStep_rd _ _ _ suspects opens sticky events
  show bits (rd (wiresTested chan railed s) (Reg.ASF_CFG chan)).toNat 0 3 = _
  rw [word]
  rfl

/-- A phase of a result ends: the first of two is kept, any other delivers the result (R287). -/
def phaseEnds (n : Nat) (ratio : Rat) (sat susp two : Bool) (c : TagCtx) (u : State) : State :=
  let x := asfOf u n
  if two && !x.second then setAsf n { x with second := true, d1 := ratio, sat1 := sat, susp1 := susp, open1 := x.isOpen } u
  else
    let code := asfCode u n (if two then x.d1 else ratio) ratio
    asfResult n c code.1 false (susp || (two && x.susp1)) (x.isOpen || (two && x.open1)) (sat || (two && x.sat1))
      (setAsf n { x with second := false } (if code.2 then useFree u else u))

section
variable {chan : Fin 8} {ratio : Rat} {sat : Bool} {railed : BitVec 4} {t0 : Tick} {s : State} (on : asfOn s chan = true)
  (slot : slotChan s s.asf.slot = chan.val)
include on slot

theorem onAsfConversion_eq (notCharge : rdf s (Fld.ASF_CFG_mode chan) ≠ 6) : onAsfConversion chan ratio sat railed t0 s =
    phaseEnds chan ratio sat (decide (railedOf s chan railed ≠ 0))
      (decide (rdf s (Fld.ASF_CFG_mode chan) = 2) || decide (rdf s (Fld.ASF_CFG_mode chan) = 3))
      (sweepCtx (nextSlot (advance t0 s))) (wiresTested chan railed (nextSlot (advance t0 s))) := by
  have runs : asfRuns s = true := by
    rw [asfOn, Bool.and_eq_true] at on
    exact on.1
  have mode : rdf (wiresTested chan railed (nextSlot (advance t0 s))) (Fld.ASF_CFG_mode chan) ≠ 6 := by
    rw [wiresTested_mode]
    exact notCharge
  unfold onAsfConversion
  extract_lets a here _ b
  have here_ : here = true := decide_eq_true slot
  have moved : b = nextSlot (advance t0 s) := if_pos (by rw [here_, show asfRuns a = true from runs]; rfl)
  clear_value b
  subst moved
  rw [if_neg (by rw [here_, show asfOn (nextSlot (advance t0 s)) chan = true from on]; decide)]
  exact if_neg mode

/-- The first phase of a two-phase result is kept for the second (R287). -/
theorem onAsfConversion_first (two : rdf s (Fld.ASF_CFG_mode chan) = 2 ∨ rdf s (Fld.ASF_CFG_mode chan) = 3)
    (first : (asfOf s chan).second = false) (t : State) (ends : t = onAsfConversion chan ratio sat railed t0 s) :
    (asfOf t chan).second = true ∧ (asfOf t chan).d1 = ratio ∧ (asfOf t chan).sat1 = sat ∧ (asfOf t chan).rail1 = railedOf s chan railed ∧
      t.asf.slot = (s.asf.slot + 1) % rdf s Fld.ASF_SCHED_n_slot := by
  obtain ⟨second, rail1, -⟩ := wiresTested_channel chan railed (nextSlot (advance t0 s))
  have one : (asfOf (wiresTested chan railed (nextSlot (advance t0 s))) chan).second = false := second.trans first
  have phases : (decide (rdf s (Fld.ASF_CFG_mode chan) = 2) || decide (rdf s (Fld.ASF_CFG_mode chan) = 3)) = true := by
    simpa using two
  rw [ends, onAsfConversion_eq on slot (by omega), phases, phaseEnds, if_pos (by rw [one]; rfl), asfOf_setAsf]
  exact ⟨rfl, rfl, rfl, rail1 first, openStep_slot ..⟩

/-- A result of one phase ends its conversion (R287). -/
theorem onAsfConversion_single (notTwo : rdf s (Fld.ASF_CFG_mode chan) ≠ 2) (notThree : rdf s (Fld.ASF_CFG_mode chan) ≠ 3)
    (notCharge : rdf s (Fld.ASF_CFG_mode chan) ≠ 6) : (asfOf (onAsfConversion chan ratio sat railed t0 s) chan).enabled = true ∧
      (asfOf (onAsfConversion chan ratio sat railed t0 s) chan).second = false := by
  obtain ⟨-, -, enabled⟩ := wiresTested_channel chan railed (nextSlot (advance t0 s))
  rw [onAsfConversion_eq on slot notCharge, decide_eq_false notTwo, decide_eq_false notThree, phaseEnds, if_neg (by simp)]
  obtain ⟨second, on_⟩ := asfResult_channel chan (sweepCtx (nextSlot (advance t0 s)))
    (asfCode (wiresTested chan railed (nextSlot (advance t0 s))) chan ratio ratio).1 false (decide (railedOf s chan railed ≠ 0) || false)
    ((asfOf (wiresTested chan railed (nextSlot (advance t0 s))) chan).isOpen || false) (sat || false)
    (setAsf chan { asfOf (wiresTested chan railed (nextSlot (advance t0 s))) chan with second := false }
      (if (asfCode (wiresTested chan railed (nextSlot (advance t0 s))) chan ratio ratio).2 then
        useFree (wiresTested chan railed (nextSlot (advance t0 s))) else wiresTested chan railed (nextSlot (advance t0 s))))
  rw [asfOf_setAsf] at second on_
  exact ⟨on_.trans enabled, second⟩

end

/-- Settles O32: a loop counts its sample whatever its law does, and a conversion ends or keeps its phase. -/
theorem loopAndAuxCommandsComplete : Obligations.LoopAndAuxCommandsComplete := by
  unfold Obligations.LoopAndAuxCommandsComplete
  refine ⟨fun s loop lfb lsp t0 enabled => completes rfl (onLoopSample_counts enabled),
    fun s loop g high => completes rfl (onLspEdge_edge loop g high s), fun s loop t0 enabled pulse timed live => completes rfl ?_,
    fun s chan ratio sat railed t0 on slot two first => completes rfl (onAsfConversion_first on slot two first _ rfl),
    fun s chan ratio sat railed t0 on slot notTwo notThree notCharge => completes rfl (onAsfConversion_single on slot notTwo notThree notCharge)⟩
  rw [onCleSpLost_loses enabled pulse timed live]
  exact ⟨rfl, rfl, rfl⟩

end Sys2Proof.Machine
end

section
/-! PROOFS. The timestamp unit (R70 to R73): accepted edges, windows and estimator gates. -/

namespace Sys2Proof.Machine

theorem tsiOf_setTsi (c : Nat) (x : TsiSt) (s : State) : tsiOf (setTsi c x s) c = x := Tab.lookD_put_same ..

theorem tsiOf_setTsi_ne {c d : Nat} (other : d ≠ c) (x : TsiSt) (s : State) : tsiOf (setTsi c x s) d = tsiOf s d :=
  Tab.lookD_put_ne _ _ _ other

theorem tsiOf_of_tsu {s t : State} (tsu : t.tsu = s.tsu) (c : Nat) : tsiOf t c = tsiOf s c := by rw [tsiOf, tsu, tsiOf]

/-! ### The last accepted edge stays (R70) -/

/-- Every channel has in `t` the last accepted edge it has in `s`. -/
structure SameEdges (s t : State) : Prop where
  last : ∀ c, (tsiOf t c).lastAcc = (tsiOf s c).lastAcc

theorem SameEdges.refl (s : State) : SameEdges s s := ⟨fun _ => rfl⟩

theorem SameEdges.trans {s t u : State} (h : SameEdges s t) (k : SameEdges t u) : SameEdges s u := ⟨fun c => (k.last c).trans (h.last c)⟩

theorem SameEdges.of_keeps {w : Nat} {s t : State} (kept : Keeps w s t) (tsu : w.testBit Part.tsu.bit = false) : SameEdges s t :=
  ⟨fun c => by rw [tsiOf_of_tsu (kept.same .tsu tsu)]⟩

theorem SameEdges.foldl {α : Type} {f : State → α → State} (each : ∀ s x, SameEdges s (f s x)) (l : List α) (s : State) :
    SameEdges s (l.foldl f s) :=
  List.foldlRecOn (motive := SameEdges s) l f (.refl s) fun t h x _ => h.trans (each t x)

theorem setTsi_sameEdges {c : Nat} {x : TsiSt} {s : State} (last : x.lastAcc = (tsiOf s c).lastAcc) : SameEdges s (setTsi c x s) := by
  refine ⟨fun d => ?_⟩
  by_cases same : d = c
  · subst same
    rw [tsiOf_setTsi, last]
  · rw [tsiOf_setTsi_ne same]

/-- The bits of all parts but the timestamp unit's. -/
def besideTsu : Nat := 281474976710655 - 2 ^ 8

theorem closePack_sameEdges (c : Nat) (s : State) : SameEdges s (closePack c s) := by
  unfold closePack
  extract_lets x
  split
  · exact .refl s
  · refine .trans (setTsi_sameEdges (c := c) (x := { x with pack := [], packBad := false }) rfl) (.of_keeps (w := besideTsu) ?_ (by decide))
    exact taeName_keeps _ _ _ (by decide) (emitX_keeps _ _ _ _ _ (by decide) .rfl')

theorem packStamps_sameEdges (c : Nat) (ws : List Word64) (s : State) : SameEdges s (packStamps c ws s) := by
  unfold packStamps
  refine .foldl (fun s w => ?_) ws s
  extract_lets _ u
  have packed : SameEdges s u := setTsi_sameEdges rfl
  split
  · exact packed.trans (closePack_sameEdges c u)
  · exact packed

theorem drainTsu_sameEdges (c : Nat) (s : State) : SameEdges s (drainTsu c s) := by
  unfold drainTsu
  extract_lets q a b _ d
  split
  · exact .refl s
  · have marked : SameEdges s a := by
      unfold a
      split
      · exact .of_keeps (w := besideTsu) (loseBefore_keeps _ _ (by decide) .rfl') (by decide)
      · exact .refl s
    have taken_ : SameEdges a b := .of_keeps (w := besideTsu) (takeAll_keeps _ _ (by decide) .rfl') (by decide)
    have failed : SameEdges b d := by
      unfold d
      split
      · exact .refl b
      · exact setTsi_sameEdges rfl
    exact marked.trans (taken_.trans (failed.trans (packStamps_sameEdges c _ d)))

/-! ### Windows (R72) -/

/-- A window's result ends the window and shows its count, whether it was hit and whether it was restarted. -/
theorem tsiOf_windowResult (c : Nat) (w : Window) (restarted : Bool) (s : State) : ∃ n, tsiOf (windowResult c w restarted s) c =
    { tsiOf s c with window := none, winCount := min w.count 65535, winHit := w.first.isSome, winRest := restarted, closedAt := n } ∧
    SameEdges s (windowResult c w restarted s) := by
  have told (n : Nat) : Keeps besideTsu s
      (if rdf s (Fld.TSU_WIN_CFG_start_src c) = 4 then x12Post (.window c) 0 [BitVec.ofNat 64 n] s else s) := by
    split
    · exact x12Post_keeps _ _ _ (by decide) .rfl'
    · exact .rfl'
  have same (n : Nat) := (told n).same .tsu (by decide)
  refine ⟨now s, ?_, ?_⟩
  all_goals
    unfold windowResult
    extract_lets x hit n u
    have tsu : u.tsu = s.tsu := same n
  · have emitted (l : List Nat) (v : State) : tsiOf (raise 41 (emit Src.tsu (16 + c) (curCtx u) l v)) c = tsiOf v c :=
      tsiOf_of_tsu ((raise_keeps 41 (w := besideTsu) (by decide) (emit_keeps _ _ _ _ (by decide) .rfl')).same .tsu (by decide)) c
    have time : now u = now s := by rw [now, show u.tb = s.tb from ?_, now]; unfold u; split <;> rfl
    rw [emitted, tsiOf_setTsi, time]
  · refine .trans (t := u) (.of_keeps (told n) (by decide)) (.trans (setTsi_sameEdges ?_) (.of_keeps (w := besideTsu)
      (raise_keeps 41 (by decide) (emit_keeps _ _ _ _ (by decide) .rfl')) (by decide)))
    rw [tsiOf_of_tsu tsu]

theorem windowStart_sameEdges (c : Nat) (t : Tick) (s : State) : SameEdges s (windowStart c t s) := by
  have closed (u : State) : SameEdges u (match (tsiOf u c).window with
      | some w => if w.isOpen then windowResult c w true u else u
      | none => u) := by
    split
    · split
      · obtain ⟨-, -, same⟩ := tsiOf_windowResult c _ true u
        exact same
      · exact .refl u
    · exact .refl u
  unfold windowStart
  split
  · exact .trans (closed s) (setTsi_sameEdges rfl)
  · exact .refl s

theorem windowStarts_sameEdges (src chan : Nat) (t : Tick) (s : State) : SameEdges s (windowStarts src chan t s) := by
  unfold windowStarts
  refine .foldl (fun s c => ?_) _ s
  split
  · exact windowStart_sameEdges c t s
  · exact .refl s

/-! ### Accepted edges (R70, R71, R73) -/

theorem winAdd_lastAcc (s : State) (c : Nat) (x : TsiSt) (st : Tick) : (winAdd s c x st).lastAcc = x.lastAcc := by
  unfold winAdd
  split
  · rfl
  · split <;> rfl

theorem estAdd_lastAcc (x : TsiSt) (g : Nat) (st : Tick) : (estAdd x g st).lastAcc = x.lastAcc := rfl

theorem onTsiEdge_accepts {chan : Fin 16} {rising : Bool} {tap : Fin 97} {tap2 : Option (Fin 97)} {edge : Tick} {s : State}
    (on : tsiOn s chan = true)
    (polarity : if rising then rdf s (Fld.TSU_CFG_edge chan) = 1 ∨ rdf s (Fld.TSU_CFG_edge chan) = 3
      else rdf s (Fld.TSU_CFG_edge chan) = 2 ∨ rdf s (Fld.TSU_CFG_edge chan) = 3)
    (spaced : ∀ l, (tsiOf s chan).lastAcc = some l → deadTicks ≤ stampOf s (512 + s.tsu.lineOf.getD chan 0) edge tap - l ∧
      max 2 (4 * rdf s (Fld.TSU_CFG_holdoff chan)) * 64 ≤ stampOf s (512 + s.tsu.lineOf.getD chan 0) edge tap - l) :
    (tsiOf (onTsiEdge chan rising tap tap2 edge s) chan).lastAcc = some (stampOf s (512 + s.tsu.lineOf.getD chan 0) edge tap) := by
  unfold onTsiEdge
  extract_lets a e line st x since hold b y z g v full c d
  have stamp : stampOf s (512 + s.tsu.lineOf.getD chan 0) edge tap = st := rfl
  have held : max 2 (4 * rdf s (Fld.TSU_CFG_holdoff chan)) * 64 = hold := rfl
  rw [stamp]
  rw [stamp, held] at spaced
  clear_value st hold
  have selected : (if rising then decide (e = 1 ∨ e = 3) else decide (e = 2 ∨ e = 3)) = true := by
    cases rising
    · exact decide_eq_true polarity
    · exact decide_eq_true polarity
  have apart (n : Nat) (far : ∀ l, x.lastAcc = some l → n ≤ st - l) : ¬ (since.any fun d => decide (d < n)) = true := by
    unfold since
    cases last : x.lastAcc with
    | none => exact Bool.false_ne_true
    | some l => simpa using far l last
  rw [if_neg (by rw [show tsiOn a chan = true from on, selected]; decide), if_neg (apart deadTicks fun l last => (spaced l last).1),
    if_neg (apart hold fun l last => (spaced l last).2)]
  have accepted : v.lastAcc = some st := by
    unfold v
    split
    · exact (estAdd_lastAcc ..).trans (winAdd_lastAcc ..)
    · exact winAdd_lastAcc ..
  have pushed : (tsiOf c chan).lastAcc = some st := by
    rw [tsiOf_of_tsu ((pushRT_keeps _ _ _ (w := besideTsu) (by decide) .rfl').same .tsu (by decide)), tsiOf_setTsi, accepted]
  have counted : SameEdges c d := by
    unfold d
    split
    · exact .of_keeps (w := besideTsu) (bump_keeps _ _ (by decide) .rfl') (by decide)
    · exact .refl c
  rw [(counted.trans (.trans (drainTsu_sameEdges chan d) (windowStarts_sameEdges 3 chan st _))).last, pushed]

theorem estimatorGateEnd_estimates {chan : Fin 16} {gate : Nat} {s : State} (on : tsiOn s chan = true) (gates : gateTicks s chan ≠ 0) :
    (tsiOf (onEstimatorGateEnd chan gate s) chan).estGate = gate ∧
    (tsiOf (onEstimatorGateEnd chan gate s) chan).estN = (Tab.lookD (tsiOf s chan).est gate {}).n ∧
    (tsiOf (onEstimatorGateEnd chan gate s) chan).estValid = decide (3 ≤ (Tab.lookD (tsiOf s chan).est gate {}).n) := by
  unfold onEstimatorGateEnd
  extract_lets a x e valid p lo hi b
  have emitted (c : TagCtx) (l : List Nat) (v : State) : tsiOf (raise 40 (emit Src.tsu (32 + chan) c l v)) chan = tsiOf v chan :=
    tsiOf_of_tsu ((raise_keeps 40 (w := besideTsu) (by decide) (emit_keeps _ _ _ _ (by decide) .rfl')).same .tsu (by decide)) chan
  rw [if_pos (by rw [on, decide_eq_true gates]; rfl), emitted, tsiOf_setTsi]
  exact ⟨rfl, rfl, rfl⟩

/-- Settles O25: packing, draining and restarting windows leave the last accepted edge; a window's result and an estimate show what
they were made of. -/
theorem timestampInputCommandsComplete : Obligations.TimestampInputCommandsComplete := by
  unfold Obligations.TimestampInputCommandsComplete
  refine ⟨fun s chan rising tap tap2 edge on polarity spaced => completes rfl (onTsiEdge_accepts on polarity spaced),
    fun s chan t0 w window due => completes rfl ?_, fun s chan t0 w window open_ due => completes rfl ?_,
    fun s chan gate on gates => completes rfl (estimatorGateEnd_estimates on gates)⟩
  · have here : (tsiOf (advance t0 s) chan).window = some w := window
    unfold onWindowOpen
    extract_lets a
    rw [here]
    dsimp only
    have opens : w.start + 64 * (rd a (Reg.TSU_WIN_OPEN chan)).toNat ≤ t0 := due
    rw [if_pos opens, tsiOf_setTsi]
  · have here : (tsiOf (advance t0 s) chan).window = some w := window
    unfold onWindowClose
    extract_lets a
    rw [here]
    dsimp only
    rw [if_pos (by rw [open_]; exact decide_eq_true due)]
    obtain ⟨n, ended, -⟩ := tsiOf_windowResult chan w false a
    rw [ended]
    exact ⟨rfl, rfl, rfl, rfl⟩

end Sys2Proof.Machine
end

section
/-! PROOFS. The down-converters (R208 to R216) and the capture units (R217 to R240). -/

namespace Sys2Proof.Machine

/-! ### Down-converters -/

theorem fdcOf_setFdc (c : Nat) (x : FdcCh) (s : State) : fdcOf (setFdc c x s) c = x := Tab.lookD_put_same ..

theorem fdcOf_setFdc_ne {c d : Nat} (other : d ≠ c) (x : FdcCh) (s : State) : fdcOf (setFdc c x s) d = fdcOf s d :=
  Tab.lookD_put_ne _ _ _ other

theorem fdcOf_of_fdc {s t : State} (fdc : t.fdc = s.fdc) (c : Nat) : fdcOf t c = fdcOf s c := by rw [fdcOf, fdc, fdcOf]

theorem fdcRec_of_image {s t : State} (image : SameImage s t) (c : Nat) : fdcRec t c = fdcRec s c := by
  rw [fdcRec, recWhere, image.recsOf, fdcRec, recWhere]

/-- A channel takes its next input (R209 to R212). -/
theorem onFdcInput_takes {chan : Fin 16} {s : State} {r : ImgRec} {vals : List Int} {step : Bool} {rest : List (List Int × Bool)}
    (known : fdcRec s chan = some r) (waits : (fdcOf s chan).inq = (vals, step) :: rest) : fdcOf (onFdcInput chan s) chan =
      (fdcTake r vals (step && decide (rf r 0 4 1 = 1)) { fdcOf s chan with inq := rest }).1 := by
  simp only [onFdcInput, known, waits]
  generalize fdcTake r vals (step && decide (rf r 0 4 1 = 1)) { fdcOf s chan with inq := rest } = p
  have clipped (u : State) : fdcOf (if u.fdc.sat then u else raise 176 { u with fdc := { u.fdc with sat := true } }) chan = fdcOf u chan := by
    split <;> rfl
  have counted (u : State) : fdcOf (if p.2 = 0 then u else
      (let v := stick Reg.FDC_STICKY 0 (bumpSat Reg.FDC_SAT 0 32 p.2 u)
       if v.fdc.sat then v else raise 176 { v with fdc := { v.fdc with sat := true } })) chan = fdcOf u chan := by
    split
    · rfl
    · exact (clipped _).trans rfl
  split
  · exact (counted (setFdc chan p.1 s)).trans (fdcOf_setFdc ..)
  · exact (counted (setFdc chan p.1 s)).trans (fdcOf_setFdc ..)

/-- The bits of the parts that an item of the down-converters changes. -/
def fdcItemParts : Nat := 2 ^ 0 + 2 ^ 2 + 2 ^ 13 + 2 ^ 19 + 2 ^ 20 + 2 ^ 22 + 2 ^ 25 + 2 ^ 26 + 2 ^ 28 + 2 ^ 35 + 2 ^ 40 + 2 ^ 46

/-- A channel's item takes its rows (R214) and leaves every other channel. -/
theorem fdcOf_fdcItem (c : Nat) (r : ImgRec) (s : State) (d : Nat) : fdcOf (fdcItem c r s) d =
    if d = c then { fdcOf s c with rows := [] } else fdcOf s d := by
  unfold fdcItem
  extract_lets x das kf w0 w1 u
  have emitted (l : List Nat) (v : State) : fdcOf (emit Src.fdc c u.fdc.ctx l v) d = fdcOf v d :=
    fdcOf_of_fdc ((emit_keeps _ _ _ _ (w := fdcItemParts - 2 ^ 13) (by decide) .rfl').same .fdc (by decide)) d
  have used : fdcOf u d = fdcOf s d := by unfold u; split <;> rfl
  rw [emitted]
  split
  next same => subst same; exact fdcOf_setFdc ..
  next other => rw [fdcOf_setFdc_ne other, used]

/-- The item of channel `c`, if the image has the channel (R214). -/
def sweepItem (s : State) (c : Nat) : State :=
  match fdcRec s c with
  | some r => fdcItem c r s
  | none => s

theorem sweepItem_image (s : State) (c : Nat) : SameImage s (sweepItem s c) := by
  unfold sweepItem
  split
  · exact .of_keeps (fdcItem_keeps _ _ (w := fdcItemParts) (by decide) .rfl') (by decide) (by decide)
  · exact .refl s

theorem fdcRec_sweepItem (s : State) (d c : Nat) : fdcRec (sweepItem s d) c = fdcRec s c := fdcRec_of_image (sweepItem_image s d) c

theorem fdcOf_sweepItem_ne {s : State} {c d : Nat} (other : d ≠ c) : fdcOf (sweepItem s d) c = fdcOf s c := by
  unfold sweepItem
  split
  · rw [fdcOf_fdcItem, if_neg (Ne.symm other)]
  · rfl

theorem rows_sweepItems {s : State} {c : Nat} {l : List Nat} (distinct : l.Nodup) (member : c ∈ l) (known : (fdcRec s c).isSome = true) :
    (fdcOf (l.foldl sweepItem s) c).rows = [] := by
  obtain ⟨u, same, -, ends⟩ := foldl_visits (get := fun u => fdcOf u c) (rest := fun u => fdcRec u c) (f := sweepItem)
    (fun u d => fdcRec_sweepItem u d c) (fun _ _ other => fdcOf_sweepItem_ne other) distinct member s
  obtain ⟨r, here⟩ := Option.isSome_iff_exists.mp known
  have item : sweepItem u c = fdcItem c r u := by
    rw [sweepItem, show fdcRec u c = some r from same.trans here]
  rw [show fdcOf (l.foldl sweepItem s) c = _ from ends, item, fdcOf_fdcItem, if_pos rfl]

/-- The saturation of the sweep is told once (R214). -/
def satTold (s : State) : State := { s with fdc := { s.fdc with sat := false } }

theorem onFdcSweepItem_eq (s : State) : onFdcSweepItem s = satTold ((List.range 16).foldl sweepItem s) := by
  unfold onFdcSweepItem
  generalize List.range 16 = l
  rfl

theorem onFdcSweepItem_rows {s : State} {c : Nat} (channel : c < 16) (known : (fdcRec s c).isSome = true) :
    (fdcOf (onFdcSweepItem s) c).rows = [] := by
  have emptied := rows_sweepItems List.nodup_range (List.mem_range.2 channel) known
  rw [onFdcSweepItem_eq]
  generalize (List.range 16).foldl sweepItem s = u at emptied
  exact emptied

/-! ### Capture units -/

/-- What closing frames, triggers and completions leave of unit `u`: the first frame still to close. -/
def nextOf (u : Nat) (s : State) : Nat := (unitOf s u).nextF

theorem nextOf_of_keeps {w : Nat} {s t : State} (kept : Keeps w s t) (tae : w.testBit Part.tae.bit = false) (u : Nat) : nextOf u t = nextOf u s := by
  rw [nextOf, unitOf_of_tae (kept.same .tae tae), nextOf]

theorem nextOf_setUnit (u : Nat) (x : CapUnit) (s : State) : nextOf u (setUnit u x s) = x.nextF := by rw [nextOf, unitOf_setUnit]

theorem nextOf_dropCoding (u : Nat) (s : State) : nextOf u (dropCoding u s) = nextOf u s := by rw [nextOf, unitOf_dropCoding, nextOf]

/-- The bits of all parts but the capture units'. -/
def besideTae : Nat := 281474976710655 - 2 ^ 14

theorem nextOf_capComplete (u : Nat) (r : ImgRec) (s : State) : nextOf u (capComplete u r s) = nextOf u s := by
  unfold capComplete
  extract_lets x held y
  rw [nextOf_of_keeps (w := besideTae) (raise_keeps 181 (by decide) (emit_keeps _ _ _ _ (by decide) .rfl')) (by decide), nextOf_dropCoding,
    nextOf_setUnit]
  rfl

theorem nextOf_capCheck (u : Nat) (s : State) : nextOf u (capCheck u s) = nextOf u s := by
  unfold capCheck
  split
  · rfl
  · extract_lets x
    split
    · exact nextOf_capComplete ..
    · rfl

theorem nextOf_countPre (u : Nat) (r : ImgRec) (s : State) : nextOf u (countPre u r s) = nextOf u s := by
  unfold countPre
  extract_lets x n short v
  have counted : nextOf u v = nextOf u s := nextOf_setUnit ..
  split
  · exact counted
  · exact counted

theorem nextOf_storeFrame (u f : Nat) (blocks : List CapBlock) (s : State) : nextOf u (storeFrame u f blocks s) = nextOf u s := by
  unfold storeFrame
  split
  · rfl
  next r _ =>
    extract_lets x cap need armed keep ring fits a b
    have stored : nextOf u a = nextOf u s := nextOf_setUnit ..
    have counted : nextOf u b = nextOf u s := by
      unfold b
      split
      · exact (nextOf_countPre u r a).trans stored
      · exact stored
    split
    · rfl
    · split
      · split
        · exact (nextOf_capComplete u r b).trans counted
        · exact counted
      · rfl

theorem nextOf_blockStored (u : Nat) (p : CapPending) (bytes : List Byte) (s : State) : nextOf u (blockStored u p bytes s) = nextOf u s := by
  unfold blockStored
  extract_lets x all
  split
  · rw [nextOf_capCheck, nextOf_storeFrame, nextOf_setUnit]
    rfl
  · exact nextOf_setUnit ..

theorem nextOf_drainRaw (fuel u : Nat) (s : State) : nextOf u (drainRaw fuel u s) = nextOf u s := by
  induction fuel generalizing s with
  | zero => rfl
  | succ fuel ih =>
    unfold drainRaw
    extract_lets x
    split
    · rfl
    next p r _ =>
      have taken_ : nextOf u (setUnit u { x with toCode := r } s) = nextOf u s := nextOf_setUnit ..
      split
      · rfl
      · split
        · rw [ih, nextOf_capCheck, nextOf_storeFrame, taken_]
        · rw [ih, nextOf_blockStored, taken_]

theorem nextOf_capMarker (u : Nat) (r : ImgRec) (s : State) : nextOf u (capMarker u r s) = nextOf u s := by
  unfold capMarker
  extract_lets x c v
  have emitted : Keeps besideTae s v := emit_keeps _ _ _ _ (by decide) (emitCtl_keeps _ _ _ _ _ _ (by decide) .rfl')
  split
  · exact (nextOf_setUnit u { x with state := 5 } v).trans rfl
  · exact nextOf_of_keeps emitted (by decide) u

theorem nextOf_capFire (u : Nat) (r : ImgRec) (f cause : Nat) (s : State) : nextOf u (capFire u r f cause s) = nextOf u s := by
  unfold capFire
  extract_lets x y a b first keep
  split
  · rw [nextOf_capMarker, nextOf_setUnit]
    rfl
  · rw [nextOf_capCheck, nextOf_countPre, nextOf_setUnit]
    rfl

theorem nextOf_capTriggers (u : Nat) (r : ImgRec) (f : Nat) (s : State) : nextOf u (capTriggers u r f s) = nextOf u s := by
  unfold capTriggers
  extract_lets x mine v n auto cause
  have named : nextOf u v = nextOf u s := nextOf_setUnit ..
  split
  · split
    · rw [nextOf_setUnit]
      exact named
    · rw [nextOf_capFire, named]
  · split
    · exact named
    · exact named
theorem nextOf_frameClose {unit : Fin 4} {t0 : Tick} {s : State} {r : ImgRec} {p : Nat} (known : unitRec s unit = some r)
    (pace : (unitOf s unit).pace = some p) (reached : precedes p (((unitOf s unit).nextF + rf r 0 24 4) % 2 ^ 24) = false) :
    nextOf unit (onCaptureFrameClose unit t0 s) = ((unitOf s unit).nextF + 1) % 2 ^ 24 := by
  unfold onCaptureFrameClose
  extract_lets a
  rw [show unitRec a unit = some r from known]
  dsimp only
  rw [if_pos (by rw [show (unitOf a unit).pace = some p from pace]; exact congrArg (! ·) reached), nextOf_capCheck, nextOf_capTriggers,
    nextOf_drainRaw, nextOf_setUnit]
  rfl

theorem onCaptureItemArrive_takes {unit : Fin 4} {src : Fin 8} {item : Item} {s : State} {r : ImgRec} (known : unitRec s unit = some r)
    (source : src.val < rf r 0 8 4) (block : tagSrc item.tag = (unitSrc r src).1) (stream : tagStream item.tag = (unitSrc r src).2)
    (selected : (unitSrc r src).1 ≠ Src.tdc ∨ item.words = [] ∨
      bitB (leAt r.body (0x1C + 8 * src) 4) (wordChan (item.words.headD 0) / 16) = true)
    (begun : src.val ≠ 0 ∨ (unitOf s unit).pace ≠ none) (open_ : precedes (tagFrame item.tag) (unitOf s unit).nextF = false) :
    (unitOf (onCaptureItemArrive unit src item s) unit).items = (unitOf s unit).items ++ [(src.val, item)] ∧
      (unitOf (onCaptureItemArrive unit src item s) unit).nextF = (unitOf s unit).nextF := by
  unfold onCaptureItemArrive
  split
  next none_ => exact absurd (none_.symm.trans known) (by simp)
  next r' known' =>
  obtain rfl : r' = r := Option.some.inj (known'.symm.trans known)
  extract_lets q f x mine sel start nf pace
  have mine_ : mine = true := by
    unfold mine
    rw [decide_eq_true source, decide_eq_true (p := tagSrc item.tag = q.1) block, decide_eq_true (p := tagStream item.tag = q.2) stream]
    rfl
  have sel_ : sel = true := by
    unfold sel
    rcases selected with other | empty | strip
    · rw [decide_eq_true (p := q.1 ≠ Src.tdc) other]; rfl
    · rw [empty]; simp
    · rw [strip]; simp
  have start_ : start = false := by
    unfold start
    rcases begun with later | paced
    · rw [decide_eq_false later]; rfl
    · rw [Option.isNone_eq_false_iff.2 (Option.isSome_iff_ne_none.2 paced), Bool.and_false]
  have first : nf = x.nextF := by
    unfold nf
    rw [start_]
    rfl
  rw [if_neg (by rw [mine_, sel_]; decide), if_neg (by rw [start_, first, open_]; decide), unitOf_setUnit]
  exact ⟨rfl, first⟩

/-! ### The reference (R222 to R225) -/

/-- What is due of the reference and what its last evaluation found. -/
def refOf (s : State) : Option RefDue × Nat := (s.tae.refDue, s.tae.refViol)

theorem refOf_taeName (f bit : Nat) (sel : ImgRec → Bool) (s : State) : refOf (taeName f bit sel s) = refOf s := by
  unfold taeName
  refine foldl_kept (g := refOf) (fun s u => ?_) _ s
  split
  · rfl
  · split
    · extract_lets x
      split <;> rfl
    · rfl

theorem refOf_refSkews (es : List RefEval) (s : State) : refOf (refSkews es s) = refOf s := by
  unfold refSkews
  extract_lets acc changed strips post seen _ u
  split <;> rfl

theorem onRefEvaluation_evaluates {t0 : Tick} {s : State} {d : RefDue} (due : s.tae.refDue = some d) :
    refOf (onRefEvaluation t0 s) = (none, (((List.range 512).map (refEval (advance t0 s) d)).filter (·.viol)).length) := by
  have refs {w : Nat} {s t : State} (kept : Keeps w s t) (tae : w.testBit Part.tae.bit = false) : refOf t = refOf s := by
    rw [refOf, show t.tae = s.tae from kept.same .tae tae, refOf]
  unfold onRefEvaluation
  extract_lets a
  split
  next none_ => exact absurd (none_.symm.trans due) (by simp)
  next d' due' =>
  obtain rfl : d' = d := Option.some.inj (due'.symm.trans due)
  extract_lets es rej nv b _ c e
  rw [show (((List.range 512).map (refEval (advance t0 s) d')).filter (·.viol)).length = nv from rfl]
  clear_value es nv
  have skewed : refOf c = (none, nv) := refOf_refSkews ..
  have named : refOf e = refOf c := by
    unfold e
    split
    · exact refOf_taeName ..
    · rfl
  rw [refs (emit_keeps _ _ _ _ (w := besideTae) (by decide) .rfl') (by decide), named, skewed]

/-- A readout that ends leaves the unit Complete (R235). -/
theorem onCaptureReadDone_completes {unit : Fin 4} {t0 : Tick} {s : State} {r : ImgRec} (known : unitRec s unit = some r)
    (reading : (unitOf s unit).state = 4) : (unitOf (onCaptureReadDone unit t0 s) unit).state = 3 ∧
      (unitOf (onCaptureReadDone unit t0 s) unit).readBy = none := by
  unfold onCaptureReadDone
  extract_lets a
  split
  next none_ => exact absurd (none_.symm.trans known) (by simp)
  next r' known' =>
  obtain rfl : r' = r := Option.some.inj (known'.symm.trans known)
  extract_lets b _ c
  have ended : unitOf c unit = { unitOf b unit with state := 3, readBy := none } := unitOf_setUnit ..
  rw [if_pos (show (unitOf a unit).state = 4 from reading)]
  split
  · rw [unitOf_finish, ended]
    exact ⟨rfl, rfl⟩
  · rw [ended]
    exact ⟨rfl, rfl⟩

/-- Settles O28: items of the channels leave each other's rows, and whatever a frame's close stores or triggers, the next frame follows. -/
theorem filterAndCaptureCommandsComplete : Obligations.FilterAndCaptureCommandsComplete := by
  unfold Obligations.FilterAndCaptureCommandsComplete
  refine ⟨fun s chan given mark vals step rest r known waits => completes rfl (onFdcInput_takes known waits),
    fun s => completes rfl ⟨by rw [onFdcSweepItem_eq]; rfl, fun c channel known => onFdcSweepItem_rows channel known⟩,
    fun s unit src item r known source block stream selected begun open_ =>
      completes rfl (onCaptureItemArrive_takes known source block stream selected begun open_),
    fun s unit t0 r p known pace reached => completes rfl (nextOf_frameClose known pace reached),
    fun s t0 d due => completes rfl ?_, fun s unit t0 r known reading => completes rfl (onCaptureReadDone_completes known reading)⟩
  have found := onRefEvaluation_evaluates (t0 := t0) due
  rw [show refEval (advance t0 s) d = refEval s d from funext fun j => rfl] at found
  rw [refOf, Prod.mk.injEq] at found
  exact found

end Sys2Proof.Machine
end

section
/-! PROOFS. The sweep boundary (R179, R182): why O26 fails. -/

namespace Sys2Proof.Machine

/-- A part in step 12 with a fibre plan of one tone under an external trigger: the trigger has set a boundary at tick 6,400, at which
gate 0 is still open for another 6,400 ticks. -/
def gateAcrossBoundary : State := { State.reset with
  boot := { State.reset.boot with step := 12 },
  cfg := { State.reset.cfg with recs := [⟨0x0101, 0xFFFF, 0, [2]⟩, ⟨0x0901, 0xFFFF, 0, [0x10, 1]⟩] },
  fib := { State.reset.fib with plan := some 0, active := true, nextB := some (6400, false), gates := 1, gateEnds := [(0, 12800)] } }

theorem gateAcrossBoundary_keeps_gate : (onSweepBoundary 6400 gateAcrossBoundary).fib.gates = 1 := by decide +kernel

/-- Refutes O26: a sweep boundary that begins a sweep leaves the gates as they are, so a gate whose width runs past the boundary is
still open after it; AOMG_GATE_CLOSE alone closes it. -/
theorem not_sweepCommandsComplete : ¬ Obligations.SweepCommandsComplete := by
  unfold Obligations.SweepCommandsComplete
  rintro ⟨boundary, -⟩
  obtain ⟨-, -, -, closed⟩ := of_completes (boundary gateAcrossBoundary 6400 6400 false (by decide +kernel) rfl (by decide +kernel) rfl
    (by decide) rfl) rfl
  rw [gateAcrossBoundary_keeps_gate] at closed
  exact absurd closed (by decide)

end Sys2Proof.Machine
end

section
/-! PROOFS. Fibre processing (R172 to R176, R185 to R199): slots, converter calibration, zone intervals, the fibre's end, the survey
and the Raman profile. -/

namespace Sys2Proof.Machine

/-- Every part of the state but the fibre interrogator. -/
def besideFib : Nat := 281474976710655 - 2 ^ 12

/-- Every part of the state but the down-converters. -/
def besideFdc : Nat := 281474976710655 - 2 ^ 13

theorem emitX_fib (src stream c extra ws s) : (emitX src stream c extra ws s).fib = s.fib :=
  (emitX_keeps src stream c extra ws (w := besideFib) (by decide) .rfl').same .fib (by decide)

theorem emit_fib (src stream c ws s) : (emit src stream c ws s).fib = s.fib := emitX_fib _ _ _ _ _ _

/-! ### A slot (R186 to R189) -/

theorem takeWords_infos (s : State) : (takeWords s).fib.infos = s.fib.infos := by
  unfold takeWords
  refine foldl_kept (g := fun s => s.fib.infos) (fun s c => ?_) _ s
  have taken (t : State) : (takeAll 3 c t).fib = t.fib := (takeAll_keeps 3 c (w := besideFib) (by decide) .rfl').same .fib (by decide)
  exact (congrArg FibSt.infos (taken _)).trans rfl

theorem setPosTab_infos (run t s) : (setPosTab run t s).fib.infos = s.fib.infos := by
  unfold setPosTab
  split <;> rfl

theorem zoneSlot_infos (x vals s) : (zoneSlot x vals s).fib.infos = s.fib.infos := by
  unfold zoneSlot
  split
  · rfl
  · extract_lets
    split <;> rfl

theorem noiseSlot_infos (x n run g s) : (noiseSlot x n run g s).fib.infos = s.fib.infos := by
  unfold noiseSlot
  extract_lets _ s'
  have dark : s'.fib.infos = s.fib.infos := by
    unfold s'
    split
    · rfl
    · split <;> rfl
  clear_value s'
  split
  · split <;> exact dark
  · exact dark

theorem fdcFeedDas_ctx (g vals s) : (fdcFeedDas g vals s).fdc.ctx = s.fdc.ctx := by
  unfold fdcFeedDas
  refine foldl_kept (g := fun s => s.fdc.ctx) (fun s c => ?_) _ s
  split
  · rfl
  · split <;> rfl

theorem slotItem_fib (x n vals g lost bad s) : (slotItem x n vals g lost bad s).fib = s.fib := by
  unfold slotItem
  extract_lets h vs ws a b
  have marked : Keeps besideFib s a := .ite (loseBefore_keeps _ _ (by decide) .rfl') .rfl'
  have emitted : Keeps besideFib s b := emitX_keeps _ _ _ _ _ (by decide) marked
  split
  · exact (fdcFeedDas_keeps _ _ (by decide) emitted).same .fib (by decide)
  · exact emitted.same .fib (by decide)

theorem slotItem_ctx (x n vals g lost bad s) : (slotItem x n vals g lost bad s).fdc.ctx = s.fdc.ctx := by
  unfold slotItem
  extract_lets h vs ws a b
  have marked : Keeps besideFdc s a := .ite (loseBefore_keeps _ _ (by decide) .rfl') .rfl'
  have emitted : b.fdc = s.fdc := (emitX_keeps _ _ _ _ _ (by decide) marked).same .fdc (by decide)
  split
  · exact (fdcFeedDas_ctx _ _ _).trans (congrArg FdcSt.ctx emitted)
  · exact congrArg FdcSt.ctx emitted

/-- What is known of sweep `f` after its quality item was known before, for the item drops the sweep's record or leaves it. -/
theorem qualityItem_infos {f : Nat} {s : State} {y : SweepInfo} (known : Tab.look (qualityItem f s).fib.infos f = some y) :
    Tab.look s.fib.infos f = some y := by
  unfold qualityItem at known
  split at known
  · exact known
  · extract_lets tones g _ a at known
    have gone : Tab.look a.fib.infos f = none := Tab.look_del_same _ _
    split at known
    · have still : Tab.look a.fib.infos f = some y := by
        split at known
        · exact known
        · rw [emitX_fib] at known
          exact known
      exact absurd (gone.symm.trans still) (by simp)
    · exact known

theorem bitB_addBit {w n : Nat} (clear : bitB w n = false) : bitB (w + 2 ^ n) n = true := by
  rw [bitB, decide_eq_true_iff, Nat.add_div_right _ (Nat.two_pow_pos n)]
  have even : w / 2 ^ n % 2 ≠ 1 := of_decide_eq_false clear
  omega

/-- A slot that is over and not yet done is processed: the items that follow carry its sweep's context, and the sweep's record, where it
stays, holds the tone as done. -/
theorem onSlotProcess_done {s : State} {tone : Fin 8} {sweep : BitVec 24} {x : SweepInfo}
    (known : Tab.look s.fib.infos (liftFrame s.fib.ctx sweep.toNat) = some x) (planned : tone.val < fpOf s x.plan 0 8 4)
    (fresh : bitB x.done tone = false) (mine : bitB (toneMask s) tone = true) (over_ : slotOver s x tone ≤ now s) :
    (onSlotProcess tone sweep s).fdc.ctx = x.ctx ∧
      ∀ y, Tab.look (onSlotProcess tone sweep s).fib.infos (liftFrame s.fib.ctx sweep.toNat) = some y → bitB y.done tone = true := by
  unfold onSlotProcess
  extract_lets n f
  split
  next none_ => exact absurd (none_.symm.trans known) (by simp)
  next x' known' =>
  obtain rfl : x' = x := Option.some.inj (known'.symm.trans known)
  rw [if_neg (by
    simp only [Bool.or_eq_true, decide_eq_true_eq, Bool.not_eq_true', not_or, Bool.not_eq_false, Bool.not_eq_true]
    exact ⟨⟨⟨Nat.not_le.mpr planned, fresh⟩, mine⟩, Nat.not_lt.mpr over_⟩)]
  extract_lets g run a subs sats x2 c d e _ h
  have recorded : Tab.look c.fib.infos f = some x2 := Tab.look_put_same _ _ _
  have traced : e.fib.infos = c.fib.infos := by
    have noisy : d.fib.infos = c.fib.infos := (noiseSlot_infos _ _ _ _ _).trans (zoneSlot_infos _ _ _)
    unfold e
    split
    · exact noisy
    · exact noisy
  have item : h.fib = e.fib := slotItem_fib _ _ _ _ _ _ _
  have ctx : h.fdc.ctx = x2.ctx := slotItem_ctx _ _ _ _ _ _ _
  constructor
  · have quality : (qualityItem f h).fdc = h.fdc := (qualityItem_keeps f (w := besideFdc) (by decide) .rfl').same .fdc (by decide)
    exact (congrArg FdcSt.ctx quality).trans ctx
  · intro y kept
    have before := qualityItem_infos (s := h) kept
    rw [item, traced, recorded] at before
    obtain rfl : x2 = y := Option.some.inj before
    exact bitB_addBit fresh

/-! ### The converters' calibration (R173 to R176) -/

theorem withinTol_of_rdf {s t : State} (tolerances : rd t Reg.FIB_CAL_TOL = rd s Reg.FIB_CAL_TOL) (b : EstBlock) :
    withinTol t b = withinTol s b := by
  have same (f : Fld) (here : f.reg = Reg.FIB_CAL_TOL) : rdf t f = rdf s f := by rw [rdf, rdf, here, tolerances]
  simp only [withinTol, same Fld.FIB_CAL_TOL_tol_ofs rfl, same Fld.FIB_CAL_TOL_tol_gain rfl, same Fld.FIB_CAL_TOL_tol_skew rfl]

theorem fault_tolerances (src unit cls addr s) : rd (fault 163 src unit cls addr s) Reg.FIB_CAL_TOL = rd s Reg.FIB_CAL_TOL :=
  rd_raise_ne s (by decide)

/-- A whole block in pass B moves the cycle on to pass C with its verdict. -/
theorem cycleBlock_passB {s : State} {i : Nat} {b : EstBlock} (free : (pairOf s i).posted = none)
    (inB : (pairOf s i).phase = .passB) :
    pairOf (cycleBlock i b s) i = { pairOf s i with bOk := withinTol s b, phase := .passC } := by
  unfold cycleBlock
  extract_lets x
  rw [if_neg (by rw [free]; exact Bool.false_ne_true)]
  split
  next phase => exact absurd (inB.symm.trans phase) (by decide)
  next phase => exact absurd (inB.symm.trans phase) (by decide)
  next => exact pairOf_setPair _ _ _
  next phase => exact absurd (inB.symm.trans phase) (by decide)

theorem onEstimationBlockDone_passB {s : State} {pair : Fin 2} {t0 : Tick} (running : s.fib.active = true)
    (whole : blockLen s ≤ (pairOf s pair).blk.length) (free : (pairOf s pair).posted = none) (inB : (pairOf s pair).phase = .passB) :
    pairOf (onEstimationBlockDone pair t0 s) pair = { pairOf s pair with
      blk := [], half := none, bOk := withinTol s (estBlock (pairOf s pair).blk), phase := .passC } := by
  unfold onEstimationBlockDone
  extract_lets a i x b hit c
  rw [if_neg (by
    rw [show a.fib.active = true from running, show decide (x.blk.length < blockLen a) = false from decide_eq_false (Nat.not_lt.mpr whole)]
    exact Bool.false_ne_true)]
  have hit_tolerances (k bad s) : rd (hit k bad s) Reg.FIB_CAL_TOL = rd s Reg.FIB_CAL_TOL := by
    unfold hit
    split
    · exact fault_tolerances _ _ _ _ _
    · rfl
  have judged (y) : withinTol (setPair i y c) b = withinTol s b :=
    withinTol_of_rdf (show rd c Reg.FIB_CAL_TOL = rd s Reg.FIB_CAL_TOL from (hit_tolerances _ _ _).trans (hit_tolerances _ _ _)) b
  rw [cycleBlock_passB (by rw [pairOf_setPair]; exact free) (by rw [pairOf_setPair]; exact inB), pairOf_setPair, judged]
  rfl

theorem onFibCalCycleStart_begins {s : State} {pair : Fin 2} {t0 : Tick} (running : s.fib.active = true)
    (idle : (pairOf s pair).phase = .idle) (free : (pairOf s pair).posted = none)
    (due_ : ∀ b, (pairOf s pair).start = some b → b + rdf s Fld.FIB_CAL_CFG_cal_interval * 64000000000 ≤ t0)
    (whole : ∀ c ∈ convsOf pair, isFenced s (Unit.adc c) = false) :
    pairOf (onFibCalCycleStart pair t0 s) pair =
      { pairOf s pair with phase := .passA, attempt := 0, start := some t0, blk := [], half := none } := by
  unfold onFibCalCycleStart
  extract_lets a x due
  have isDue : due = true := by
    unfold due
    split
    next => rfl
    next b began => exact decide_eq_true (due_ b began)
  have unfenced : (convsOf pair).all (fun c => !isFenced a (Unit.adc c)) = true :=
    List.all_eq_true.mpr fun c mem => by rw [show isFenced a (Unit.adc c) = false from whole c mem]; rfl
  rw [if_pos (by
    rw [show a.fib.active = true from running, decide_eq_true (p := x.phase = .idle) idle, show x.posted = none from free, isDue,
      unfenced]
    rfl)]
  exact pairOf_setPair _ _ _

/-! ### Zone intervals, the fibre's end and the survey (R185, R191, R193) -/

theorem onZoneIntervalEnd_words {s : State} {k : Nat} {a : ZoneAcc} {rest : Tab ZoneAcc} (front : s.fib.zones = (k, a) :: rest)
    (some_ : zoneSlots s a.plan ≠ 0) (whole : zoneSlots s a.plan ≤ a.slots) :
    (onZoneIntervalEnd s).fib.zones = rest ∧ (onZoneIntervalEnd s).fib.zoneWords = (List.range (nZones s)).map (zoneWord s a) := by
  unfold onZoneIntervalEnd
  split
  next none_ => exact absurd (none_.symm.trans front) (by simp)
  next k' a' rest' front' =>
  obtain ⟨⟨rfl, rfl⟩, rfl⟩ : (k' = k ∧ a' = a) ∧ rest' = rest := by simpa using front'.symm.trans front
  rw [if_neg (by simp only [Bool.or_eq_true, decide_eq_true_eq, not_or]; exact ⟨some_, Nat.not_lt.mpr whole⟩)]
  extract_lets ws exc b _ c d
  have told : (taeZones (a'.ctx.frame % 2 ^ 24) ws (emitX Src.fib 2 a'.ctx (64 * b2n a'.test) (ws.map (BitVec.ofNat 64)) d)).fib = c.fib :=
    (taeZones_keeps _ _ (w := besideFib) (by decide) (emitX_keeps _ _ _ _ _ (by decide) (x12PostDue_keeps _ _ _ _ (by decide)
      .rfl'))).same .fib (by decide)
  rw [told]
  exact ⟨rfl, rfl⟩

theorem onEndEvaluation_end {s : State} {r : ImgRec} (constants : fibConst s = some r) (threshold : rf r 0x18 0 8 ≠ 0)
    (due : s.fib.evalDue = true) :
    (onEndEvaluation s).fib.evalDue = false ∧ (onEndEvaluation s).fib.endPos =
      some ((lastBlock s (rf r 0x18 0 8)).elim 0 fun b => min (16 * b + 15) (fp s 4 0 16 - 1)) := by
  unfold onEndEvaluation
  extract_lets endK tol _ a nb b pEnd ref short beyond c _ d
  have isK : endK = rf r 0x18 0 8 := by unfold endK; rw [constants]; rfl
  rw [if_neg (by rw [due, isK, decide_eq_false threshold]; exact Bool.false_ne_true)]
  have evaluated : d.fib.evalDue = false := by
    have shortened : c.fib.evalDue = false := by
      unfold c
      split <;> rfl
    unfold d
    split <;> exact shortened
  refine ⟨evaluated, congrArg some ?_⟩
  rw [← isK]
  rfl

theorem bitB_filter_allowed {s : State} {n : Nat} :
    n ∈ (List.range 8).filter (fun n => bitB (allowedTones s) n) ↔ n < 8 ∧ bitB (allowedTones s) n = true := by
  rw [List.mem_filter, List.mem_range]

theorem onFibSurveyDone_emits {s : State} (survey : fp s 0 5 1 = 1) (fires : ∃ n < 8, bitB (allowedTones s) n = true)
    (swept : ∀ m < 8, ∀ n < 8, bitB (allowedTones s) m = true → bitB (allowedTones s) n = true →
      (Tab.look s.fib.survey (8 * m + n)).isSome = true) :
    (onFibSurveyDone s).fib.survey = [] ∧ evtPending (onFibSurveyDone s) 173 = true := by
  unfold onFibSurveyDone
  extract_lets tones have_ row entry es ws
  have some_ : tones.isEmpty = false := by
    obtain ⟨n, small, fires⟩ := fires
    exact List.isEmpty_eq_false_iff_exists_mem.mpr ⟨n, bitB_filter_allowed.mpr ⟨small, fires⟩⟩
  have all_ : have_ = true := by
    refine List.all_eq_true.mpr fun m first => List.all_eq_true.mpr fun n second => ?_
    obtain ⟨smallM, firesM⟩ := bitB_filter_allowed.mp first
    obtain ⟨smallN, firesN⟩ := bitB_filter_allowed.mp second
    exact swept m smallM n smallN firesM firesN
  rw [if_neg (by rw [survey, some_, all_]; decide)]
  exact ⟨congrArg FibSt.survey (emitX_fib _ _ _ _ _ _), evtPending_raise _ _⟩

/-! ### The Raman profile (R196 to R199) -/

theorem blockJoin_front {s : State} {b : RamanSum} {defer : Bool} {rest : List (RamanSum × Bool)}
    (front : s.fib.dts.blocks = (b, defer) :: rest) :
    (blockJoin s).fib.dts.blocks = rest ∧ (blockJoin s).fib.dts.counted = s.fib.dts.counted + 1 ∧
    (blockJoin s).fib.dts.added = (if defer then s.fib.dts.added else s.fib.dts.added + 1) ∧
    (blockJoin s).fib.dts.due = (s.fib.dts.due || decide (fp s 0x1C 16 16 ≤ s.fib.dts.counted + 1)) := by
  unfold blockJoin
  extract_lets d
  split
  next none_ => exact absurd (none_.symm.trans front) (by simp)
  next b' defer' rest' front' =>
  obtain ⟨⟨rfl, rfl⟩, rfl⟩ : (b' = b ∧ defer' = defer) ∧ rest' = rest := by simpa using front'.symm.trans front
  exact ⟨rfl, rfl, rfl, rfl⟩

theorem onDtsBlockDone_open {s : State} (open_ : s.fib.dts.due = false) : onDtsBlockDone s = blockJoin s := by
  unfold onDtsBlockDone
  rw [open_]
  rfl

theorem profileEmitted (c : TagCtx) (words : List Nat) (s : State) (d : DtsSt) :
    (raise 170 (emit Src.fib 3 c words { s with fib := { s.fib with dts := d } })).fib.dts = d :=
  congrArg FibSt.dts (emit_fib _ _ _ _ _)

theorem onFibDtsProfile_emits {s : State} {r : ImgRec} (constants : fibConst s = some r) (due : s.fib.dts.due = true) :
    (onFibDtsProfile s).fib.dts.due = false ∧ (onFibDtsProfile s).fib.dts.added = 0 ∧ (onFibDtsProfile s).fib.dts.counted = 0 ∧
    evtPending (onFibDtsProfile s) 170 = true := by
  unfold onFibDtsProfile
  extract_lets d
  split
  next none_ => exact absurd (none_.symm.trans constants) (by simp)
  next r' constants' =>
  extract_lets
  rw [if_neg (by rw [show d.due = true from due]; exact Bool.false_ne_true)]
  exact ⟨congrArg DtsSt.due (profileEmitted _ _ _ _), congrArg DtsSt.added (profileEmitted _ _ _ _),
    congrArg DtsSt.counted (profileEmitted _ _ _ _), evtPending_raise _ _⟩

/-- Settles O27, clause by clause: each command passes its guard under the conditions of its clause, and the items and events it
sends leave the fibre interrogator as it made it. -/
theorem fibreProcessingCommandsComplete : Obligations.FibreProcessingCommandsComplete := by
  unfold Obligations.FibreProcessingCommandsComplete
  refine ⟨?slot, ?estimation, ?cycle, ?zones, ?fibreEnd, ?survey, ?block, ?profile⟩
  case slot =>
    intro s tone sweep samples lost x known planned fresh mine over_
    exact completes rfl (onSlotProcess_done known planned fresh mine over_)
  case estimation =>
    intro s pair samples t0 running whole free inB
    refine completes rfl ?_
    have pass := onEstimationBlockDone_passB (t0 := t0) running whole free inB
    exact ⟨congrArg PairCal.phase pass, congrArg PairCal.bOk pass, congrArg PairCal.blk pass⟩
  case cycle =>
    intro s pair t0 running idle free due whole
    refine completes rfl ?_
    have begun := onFibCalCycleStart_begins running idle free due whole
    exact ⟨congrArg PairCal.phase begun, congrArg PairCal.attempt begun, congrArg PairCal.start begun⟩
  case zones =>
    intro s k a rest front some_ whole
    exact completes rfl (onZoneIntervalEnd_words front some_ whole)
  case fibreEnd =>
    intro s r constants threshold due
    exact completes rfl (onEndEvaluation_end constants threshold due)
  case survey =>
    intro s survey fires swept
    exact completes rfl (onFibSurveyDone_emits survey fires swept)
  case block =>
    intro s b defer rest front open_
    refine completes rfl ?_
    obtain ⟨blocks, counted, added, due⟩ := blockJoin_front front
    rw [open_, Bool.false_or] at due
    exact (onDtsBlockDone_open open_).symm ▸ ⟨blocks, counted, added, due⟩
  case profile =>
    intro s r constants due
    exact completes rfl (onFibDtsProfile_emits constants due)

end Sys2Proof.Machine
end

section
/-! PROOFS. The histogram engine (R138, R141, R152 to R159): the stamps it takes, the confidences it keeps, the strip columns and
verdicts it delivers and the data it exchanges with a deepen partner. -/

namespace Sys2Proof.Machine

/-- Every part of the state but the histogram engine. -/
def besideHse : Nat := 281474976710655 - 2 ^ 11

/-! ### Buffers -/

@[simp] theorem bufOf_setBuf (c b s) : bufOf (setBuf c b s) c = b := Tab.lookD_put_same _ _ _ _

theorem bufOf_setBuf_ne {c k : Nat} (b s) (h : k ≠ c) : bufOf (setBuf c b s) k = bufOf s k := Tab.lookD_put_ne _ _ _ h

theorem bufOf_of_hse {s t : State} (hse : t.hse = s.hse) (c : Nat) : bufOf t c = bufOf s c := by rw [bufOf, hse, bufOf]

/-! ### What a message to the partner leaves -/

/-- The registers that a parity failure of a transmit queue changes. -/
def parityRegs : List Nat := [evtReg 248, Reg.QSY_PARITY, Reg.QSY_STICKY]

theorem rd_of_regs {s t : State} (regs : t.regs = s.regs) (x : Nat) : rd t x = rd s x := by rw [rd, regs, rd]

theorem rd_parityFailed {x : Nat} (other : x ∉ parityRegs) (k m s) : rd (parityFailed k m s) x = rd s x := by
  obtain ⟨event, count, sticky⟩ : x ≠ evtReg 248 ∧ x ≠ Reg.QSY_PARITY ∧ x ≠ Reg.QSY_STICKY := by
    simpa [parityRegs] using other
  unfold parityFailed
  split
  · rfl
  · rw [rd_stick_ne _ _ sticky, bump, rd_bumpAt_ne _ _ _ _ count]
    exact rd_raise_ne s event

theorem rd_pumpVc3 {x : Nat} (other : x ∉ parityRegs) (p : Port) (fuel : Nat) (s : State) : rd (pumpVc3 fuel p s) x = rd s x := by
  induction fuel generalizing s with
  | zero => rfl
  | succ fuel ih =>
    unfold pumpVc3
    extract_lets q
    split
    · rfl
    · dsimp only
      split
      · rw [ih, rd_parityFailed other]
        exact rd_of_regs (setPort_regs p _ _) x
      · exact rd_of_regs (setPort_regs ..) x

theorem rd_pump {x : Nat} (other : x ∉ parityRegs) (p : Port) (s : State) : rd (pump p s) x = rd s x := by
  unfold pump
  extract_lets y fuel u
  have kept : rd u x = rd s x := rd_of_regs (setPort_regs ..) x
  split
  · exact (rd_pumpVc3 other _ _ _).trans kept
  · exact kept

theorem rd_sendMsg {x : Nat} (other : x ∉ parityRegs) (p : Port) (m : LinkMsg) (s : State) : rd (sendMsg p m s) x = rd s x := by
  have waits (y : PortSt) : rd (pump p (setPort p y s)) x = rd s x := (rd_pump other p _).trans (rd_of_regs (setPort_regs ..) x)
  unfold sendMsg
  extract_lets y
  split
  · split
    · exact waits _
    · rfl
  · split
    · rfl
    · split
      · exact rd_of_regs (setPort_regs ..) x
      · exact waits _

theorem rd_toPartner {x : Nat} (other : x ∉ parityRegs) (m : LinkMsg) (s : State) : rd (toPartner m s) x = rd s x := by
  unfold toPartner
  split
  · rfl
  · exact rd_sendMsg other _ _ _
  · exact rd_sendMsg other _ _ _

theorem toPartner_hse (m s) : (toPartner m s).hse = s.hse :=
  (toPartner_keeps m (w := besideHse) (by decide) .rfl').same .hse (by decide)

/-! ### What the search of a channel reads (R139 to R143) -/

/-- The histogram engine but for its channels' buffers. -/
def hseRest (s : State) : HseSt := { s.hse with bufs := [] }

/-- The two states agree on all that the search of a channel reads beside its buffer. -/
structure SearchView (s t : State) : Prop where
  esq    : t.esq = s.esq
  tdc    : t.tdc = s.tdc
  hse    : hseRest t = hseRest s
  image  : SameImage s t
  fenced : t.fcl.fenced = s.fcl.fenced
  regs   : ∀ x ∉ parityRegs, rd t x = rd s x

theorem SearchView.refl (s : State) : SearchView s s := ⟨rfl, rfl, rfl, .refl s, rfl, fun _ _ => rfl⟩

theorem SearchView.trans {s t u : State} (h : SearchView s t) (k : SearchView t u) : SearchView s u :=
  ⟨k.esq.trans h.esq, k.tdc.trans h.tdc, k.hse.trans h.hse, h.image.trans k.image, k.fenced.trans h.fenced,
    fun x other => (k.regs x other).trans (h.regs x other)⟩

theorem SearchView.setBuf (c b s) : SearchView s (setBuf c b s) := ⟨rfl, rfl, rfl, ⟨rfl, rfl, rfl⟩, rfl, fun _ _ => rfl⟩

theorem SearchView.toPartner (m s) : SearchView s (toPartner m s) := by
  have kept : Keeps (2 ^ 0 + 2 ^ 20 + 2 ^ 25 + 2 ^ 26 + 2 ^ 35 + 2 ^ 40 + 2 ^ 46) s (Machine.toPartner m s) :=
    toPartner_keeps m (by decide) .rfl'
  obtain ⟨fenced, -⟩ := kept.same .fences (by decide)
  exact ⟨kept.same .esq (by decide), kept.same .tdc (by decide), by rw [hseRest, toPartner_hse, hseRest],
    .of_keeps kept (by decide) (by decide), fenced, fun x other => rd_toPartner other m s⟩

section
variable {s t : State} (view : SearchView s t)
include view

theorem SearchView.rdf (f : Fld) (other : f.reg ∉ parityRegs) : rdf t f = rdf s f := by
  rw [Machine.rdf, view.regs _ other, Machine.rdf]

theorem SearchView.pf (off lo len : Nat) : pf t off lo len = pf s off lo len := by
  have plans : scanPlan t = scanPlan s := funext fun p => by
    rw [scanPlan, recWhere, view.image.recsOf, scanPlan, recWhere]
  rw [Machine.pf, view.esq, plans, Machine.pf]

theorem SearchView.planGate : planGate t = planGate s := view.pf ..

theorem SearchView.bMin : bMin t = bMin s := by
  rw [Machine.bMin, planBlank, planBlankLen, planBlankStart, view.pf, view.pf, Machine.bMin, planBlank, planBlankLen, planBlankStart]

theorem SearchView.quietTicks (lo hi : Tick) : quietTicks t lo hi = quietTicks s lo hi := by
  rw [Machine.quietTicks, guardPre, guardPost, allShots, view.esq, view.planGate, view.rdf Fld.TDC_CAL_GUARD_guard_pre (by decide),
    view.rdf Fld.TDC_CAL_GUARD_guard_post (by decide), Machine.quietTicks, guardPre, guardPost, allShots]

theorem SearchView.hseField {α : Type} (g : HseSt → α) (aside : ∀ h : HseSt, g { h with bufs := [] } = g h) : g t.hse = g s.hse :=
  (aside t.hse).symm.trans ((congrArg g view.hse).trans (aside s.hse))

theorem SearchView.frontPhi {c : Nat} (buffer : bufOf t c = bufOf s c) (now_ : Tick) : frontPhi t c now_ = frontPhi s c now_ := by
  rw [Machine.frontPhi, view.esq, view.quietTicks, view.hseField HseSt.fixDepth fun _ => rfl, view.hseField HseSt.prevQuietNs fun _ => rfl,
    view.hseField HseSt.prevQuietH fun _ => rfl, view.tdc, buffer, view.bMin, view.planGate, Machine.frontPhi]

theorem SearchView.frontScore (b : ChanBuf) (phi : Nat) : frontScore t b phi = frontScore s b phi := by
  have sun (p : Peak) : sunPass t p = sunPass s p := by
    rw [sunPass, view.rdf Fld.HSE_SIEVE_A_sig_k (by decide), view.rdf Fld.HSE_SIEVE_A_sig_abs (by decide), sunPass]
  have smear (occ : Nat → Nat) (o i : Nat) : smearPass t occ o i = smearPass s occ o i := by
    rw [smearPass, view.rdf Fld.HSE_SIEVE_A_occ_min (by decide), smearPass]
  funext i
  rw [Machine.frontScore]
  simp only [sun, smear]
  rw [Machine.frontScore]

theorem SearchView.confOf (l : List Peak) (n : Nat) : confOf t l n = confOf s l n := by
  unfold Machine.confOf
  rw [view.rdf Fld.HSE_ZOOM_empty_step (by decide)]

theorem SearchView.isFenced (u : Nat) : isFenced t u = isFenced s u := by rw [Machine.isFenced, view.fenced, Machine.isFenced]

end

/-! ### The confidences after a shot (R141, R143) -/

theorem confChan_view (c t s) : SearchView s (confChan c t s) := by
  unfold confChan
  extract_lets b phi cands lock s'
  split
  · exact .setBuf _ _ _
  · split
    · exact .trans (.setBuf _ _ _) (.toPartner _ _)
    · exact .setBuf _ _ _

theorem bufOf_confChan_ne {c k : Nat} (t s) (h : k ≠ c) : bufOf (confChan c t s) k = bufOf s k := by
  unfold confChan
  extract_lets b phi cands lock s'
  have set_ : bufOf s' k = bufOf s k := bufOf_setBuf_ne _ _ h
  split
  · exact bufOf_setBuf_ne _ _ h
  · split
    · exact (bufOf_of_hse (toPartner_hse _ _) k).trans set_
    · exact set_

theorem bufOf_confChan_locked {c t l} {s : State} (locked : (bufOf s c).lock = some l) :
    bufOf (confChan c t s) c = { bufOf s c with
      conf := confOf s ((bufOf s c).locked.filterMap (frontScore s (bufOf s c) (frontPhi s c t))) (bufOf s c).n } := by
  unfold confChan
  extract_lets b phi cands lock s'
  split
  next => exact bufOf_setBuf _ _ _
  next none_ => exact absurd (none_.symm.trans locked) (by simp)

/-- A pass over distinct indices changes what belongs to `k` in its step for `k`, which begins in a state that agrees with the first
one on `k` and stands to it as every step keeps. -/
theorem foldl_reaches {β : Type} {R : State → State → Prop} {get : State → β} {f : State → Nat → State} {k : Nat}
    (refl : ∀ s, R s s) (trans : ∀ {s t u}, R s t → R t u → R s u) (each : ∀ s x, R s (f s x))
    (away : ∀ s x, x ≠ k → get (f s x) = get s) {l : List Nat} (distinct : l.Nodup) (member : k ∈ l) (s : State) :
    ∃ u, R s u ∧ get u = get s ∧ get (l.foldl f s) = get (f u k) := by
  induction l generalizing s with
  | nil => exact absurd member List.not_mem_nil
  | cons x r ih =>
    obtain ⟨absent, distinct⟩ := List.nodup_cons.mp distinct
    by_cases here : x = k
    · subst here
      exact ⟨s, refl s, rfl, foldl_away away absent _⟩
    · obtain ⟨u, kept, same, ends⟩ := ih distinct ((List.mem_cons.mp member).resolve_left (Ne.symm here)) (f s x)
      exact ⟨u, trans (each s x) kept, same.trans (away s x here), ends⟩

/-- The step of CONFIDENCE_UPDATE for channel `i` of a bank. -/
def confStep (bank : Nat) (t : Tick) (s : State) (i : Nat) : State :=
  if isFenced s (Unit.strip ((32 * bank + i) / 16)) || !s.esq.col.active then s else confChan (32 * bank + i) t s

theorem confStep_view (bank t s i) : SearchView s (confStep bank t s i) := by
  unfold confStep
  split
  · exact .refl s
  · exact confChan_view _ _ _

theorem bufOf_confStep_ne {bank i k : Nat} (t s) (h : i ≠ k) : bufOf (confStep bank t s i) (32 * bank + k) = bufOf s (32 * bank + k) := by
  unfold confStep
  split
  · rfl
  · exact bufOf_confChan_ne t s (by omega)

/-- A locked channel of an unfenced strip keeps its lock and takes its confidence from its locked bins. -/
theorem onConfidenceUpdate_locked {s : State} {bank : Fin 16} {t0 l : Tick} {i : Fin 32} (running : s.esq.col.active = true)
    (unfenced : isFenced s (Unit.strip ((32 * bank.val + i) / 16)) = false) (locked : (bufOf s (32 * bank + i)).lock = some l) :
    bufOf (onConfidenceUpdate bank t0 s) (32 * bank + i) = { bufOf s (32 * bank + i) with
      conf := confOf s ((bufOf s (32 * bank + i)).locked.filterMap
        (frontScore s (bufOf s (32 * bank + i)) (frontPhi (advance t0 s) (32 * bank + i) t0))) (bufOf s (32 * bank + i)).n } := by
  obtain ⟨u, view, buffer, ends⟩ := foldl_reaches (f := confStep bank t0) (get := fun s => bufOf s (32 * bank + i)) SearchView.refl
    SearchView.trans (confStep_view bank t0) (fun s x other => bufOf_confStep_ne t0 s other) List.nodup_range
    (List.mem_range.mpr i.isLt) (advance t0 s)
  have step : confStep bank t0 u i = confChan (32 * bank + i) t0 u := by
    unfold confStep
    rw [if_neg (by
      rw [view.isFenced, view.esq, show isFenced (advance t0 s) (Unit.strip ((32 * bank.val + i) / 16)) = false from unfenced,
        show (advance t0 s).esq.col.active = true from running]
      exact Bool.false_ne_true)]
  have buffer' : bufOf u (32 * bank + i) = bufOf s (32 * bank + i) := buffer
  refine ends.trans ?_
  rw [step, bufOf_confChan_locked (l := l) (by rw [buffer']; exact locked), buffer', view.frontPhi buffer, view.frontScore, view.confOf]
  rfl

/-! ### Stamps (R138) -/

/-- Every part of the state but the queues. -/
def besideQueues : Nat := 281474976710655 - 2 ^ 20

theorem queueOf_of_keeps {s t : State} (kept : Keeps besideQueues s t) (g i : Nat) : queueOf t g i = queueOf s g i := by
  obtain ⟨queues, -⟩ := kept.same .queues (by decide)
  exact queueOf_of_queues queues g i

theorem popQueue_front {g i : Nat} {s : State} {w : QWord} {r : List QWord} (front : (queueOf s g i).words = w :: r) :
    (queueOf (popQueue g i s).2 g i).words = r ∧ (queueOf (popQueue g i s).2 g i).lost = (queueOf s g i).lost := by
  unfold popQueue
  extract_lets q
  split
  next none_ => exact absurd (none_.symm.trans front) (by simp)
  next w' r' front' =>
  obtain ⟨rfl, rfl⟩ : w' = w ∧ r' = r := by simpa using front'.symm.trans front
  refine ⟨queueOf_setQueue_words .., ?_⟩
  rw [queueOf_setQueue]
  split
  · rfl
  · exact Queue.timed_lost _ _ _

/-- The front takes the oldest stamp of its channel's queue and spends the mark of a loss. -/
theorem onStampAccumulate_front {s : State} {chan : Fin 512} {ok : Bool} {w : QWord} {r : List QWord}
    (front : (queueOf s 0 chan).words = w :: r) :
    (queueOf (onStampAccumulate chan ok s) 0 chan).words = r ∧ (queueOf (onStampAccumulate chan ok s) 0 chan).lost = false := by
  obtain ⟨words, lost⟩ := popQueue_front front
  unfold onStampAccumulate
  extract_lets q a q' b _ c d _
  split
  next none_ => exact absurd (none_.symm.trans front) (by simp)
  next w' r' front' =>
  extract_lets e
  have marked : (queueOf c 0 chan).words = r ∧ (queueOf c 0 chan).lost = false := by
    unfold c
    split
    · have spent : queueOf b 0 chan = { q' with lost := false } := queueOf_setQueue ..
      show (queueOf b 0 chan).words = r ∧ (queueOf b 0 chan).lost = false
      rw [spent]
      exact ⟨words, rfl⟩
    next fresh => exact ⟨words, lost.trans (by simpa [q] using fresh)⟩
  have checked : queueOf e 0 chan = queueOf c 0 chan := by
    unfold e
    split
    · rfl
    · exact queueOf_of_keeps (s := c) (t := d) (parityFailed_keeps _ _ (by decide) .rfl') 0 chan
  split
  · rw [checked]
    exact marked
  · rw [queueOf_of_keeps (frontStamp_keeps _ _ (by decide) .rfl'), checked]
    exact marked

/-! ### Strip columns (R152, R158, R159) -/

/-- The strips that the back still has to finish. -/
def stripsWaiting (s : State) : List Nat := s.hse.info.waiting

theorem stripsWaiting_of_hse {s t : State} (hse : t.hse = s.hse) : stripsWaiting t = stripsWaiting s := by
  rw [stripsWaiting, hse, stripsWaiting]

theorem countChan_waiting (c s) : stripsWaiting (countChan c s) = stripsWaiting s := by
  unfold countChan
  extract_lets ds nf over_ _ a hi _ b _ d
  have counted : stripsWaiting a = stripsWaiting s := by
    unfold a
    split <;> rfl
  have judged : stripsWaiting b = stripsWaiting s := by
    unfold b
    split
    · exact counted
    · exact counted
  split
  · split
    · exact judged
    · exact judged
  · exact judged

theorem stripUnobs_waiting (k u all s) : stripsWaiting (stripUnobs k u all s) = stripsWaiting s := by
  unfold stripUnobs
  refine foldl_kept (g := stripsWaiting) (fun s n => ?_) _ s
  split <;> rfl

theorem addInside_waiting (mask w0 s) : stripsWaiting (addInside mask w0 s) = stripsWaiting s := by
  unfold addInside
  refine foldl_kept (g := stripsWaiting) (fun s n => ?_) _ s
  split <;> rfl

theorem stripCounts_waiting (k recs s) : stripsWaiting (stripCounts k recs s) = stripsWaiting s := by
  unfold stripCounts
  extract_lets allUn a b c d _
  have counted : stripsWaiting a = stripsWaiting s := foldl_kept (g := stripsWaiting) (fun s r => countChan_waiting _ s) _ _
  have judged : stripsWaiting b = stripsWaiting a :=
    (stripUnobs_waiting ..).trans (foldl_kept (g := stripsWaiting) (fun s r => addInside_waiting _ _ s) _ _)
  clear_value a b
  exact judged.trans counted

theorem emitX_hse (src stream c extra ws s) : (emitX src stream c extra ws s).hse = s.hse :=
  (emitX_keeps src stream c extra ws (w := besideHse) (by decide) .rfl').same .hse (by decide)

theorem stripItems_waiting (k extra recs segs s) : stripsWaiting (stripItems k extra recs segs s) = stripsWaiting s := by
  unfold stripItems
  extract_lets i a body b
  have emitted : stripsWaiting b = stripsWaiting a := stripsWaiting_of_hse (emitX_hse ..)
  split
  · exact emitted
  · exact (stripsWaiting_of_hse (emitX_hse ..)).trans emitted

theorem deliverStrip_waiting (k s) : stripsWaiting (deliverStrip k s) = stripsWaiting s := by
  unfold deliverStrip
  extract_lets v a
  split
  ·     exact foldl_kept (g := stripsWaiting) (fun s i => stripsWaiting_of_hse (toPartner_hse _ s)) _ a
  · exact (stripItems_waiting ..).trans (stripCounts_waiting ..)

theorem commitCounts_hse (k s) : (commitCounts k s).hse = s.hse := by
  unfold commitCounts
  extract_lets c hits
  split <;> rfl

/-- A strip that the back still has to finish is finished when its buffers have no uncorrectable error. -/
theorem onStripColumnDone_waiting {s : State} {strip : Fin 32} {ecc : Ecc} {t0 : Tick} (held : s.hse.info.exists_ = true)
    (waits : s.hse.info.waiting.contains strip.val = true) (own : s.hse.role ≠ .leader) (good : ecc ≠ .uncorrectable) :
    (onStripColumnDone strip ecc t0 s).hse.info.waiting = s.hse.info.waiting.filter fun j => !decide (j = strip.val) := by
  unfold onStripColumnDone
  extract_lets a i ready
  have isReady : ready = true := by
    unfold ready
    rw [decide_eq_true (show a.hse.role ≠ .leader from own)]
    rfl
  rw [if_pos (by
    rw [show i.exists_ = true from held, show i.waiting.contains strip.val = true from waits, isReady]
    rfl)]
  split
  · exact absurd rfl good
  · extract_lets b
    have told : b.hse = s.hse := by
      unfold b
      split <;> rfl
    calc stripsWaiting (deliverStrip strip (commitCounts strip (stripTaken strip b)))
        = stripsWaiting (commitCounts strip (stripTaken strip b)) := deliverStrip_waiting _ _
      _ = stripsWaiting (stripTaken strip b) := stripsWaiting_of_hse (commitCounts_hse _ _)
      _ = _ := congrArg (fun h : HseSt => h.info.waiting.filter fun j => !decide (j = strip.val)) told

/-! ### Verdicts and the deepen partner (R155, R156, R159) -/

theorem onFollowerLock_locks {s : State} {chan : Fin 512} {t0 l : Tick} {ws : List Nat} (follower : s.hse.role = .follower)
    (unfenced : isFenced s (Unit.strip (chan / 16)) = false) (fine : s.esq.col.deferFine = false)
    (told : Tab.look s.hse.winRecv chan = some (l, ws)) (come : l + 640 * rdf s Fld.HSE_DEEPEN_win_lat ≤ t0) :
    bufOf (onFollowerLock chan t0 s) chan =
      { bufOf s chan with lock := some (l + 640 * rdf s Fld.HSE_DEEPEN_win_lat), locked := ws.take 4 } := by
  unfold onFollowerLock
  extract_lets a b
  rw [if_pos (by
    rw [show a.hse.role = .follower from follower, show isFenced a (Unit.strip (chan / 16)) = false from unfenced,
      show a.esq.col.deferFine = false from fine]
    rfl)]
  split
  next l' ws' told' =>
    obtain ⟨rfl, rfl⟩ : l' = l ∧ ws' = ws := by simpa using told'.symm.trans told
    rw [if_pos (show l' + 640 * rdf a Fld.HSE_DEEPEN_win_lat ≤ t0 from come)]
    exact bufOf_setBuf _ _ _
  next none_ => exact absurd (none_.symm.trans told) (by simp)

theorem onMergeDeadline_misses {s : State} {t0 : Tick} (leader : s.hse.role = .leader) (held : s.hse.info.exists_ = true)
    (fresh : s.hse.mergeMiss = false) (short : s.hse.follower.length < 512)
    (over_ : s.hse.info.endAt + 64000 * rdf s Fld.HSE_DEEPEN_merge_lat ≤ t0) : (onMergeDeadline t0 s).hse.mergeMiss = true := by
  unfold onMergeDeadline
  extract_lets a
  rw [if_pos (by
    rw [show a.hse.role = .leader from leader, show a.hse.info.exists_ = true from held, show a.hse.mergeMiss = false from fresh,
      decide_eq_true (show a.hse.follower.length < 512 from short),
      decide_eq_true (show a.hse.info.endAt + 64000 * rdf a Fld.HSE_DEEPEN_merge_lat ≤ t0 from over_)]
    rfl)]
  rfl

/-- The evidence of the frame is closed and a new count begins. -/
def EvidenceClosed (s : State) : Prop := s.hse.verdictDue = none ∧ s.hse.inside = [] ∧ s.hse.crc = []

theorem verdictOut_closes (ctx s) : EvidenceClosed (verdictOut ctx s) := by
  unfold verdictOut
  split
  · exact ⟨rfl, rfl, rfl⟩
  · extract_lets ws
    generalize (List.range 8).foldl (fun s n => verdictSet n s) s = u
    have emitted : (emit Src.hse 1 ctx ws (verdictClose (violBits ws) u)).hse = (verdictClose (violBits ws) u).hse := emitX_hse ..
    have posted : (x12Post .verdict ctx.frame (ws.map (BitVec.ofNat 64)) (emit Src.hse 1 ctx ws (verdictClose (violBits ws) u))).hse =
        (verdictClose (violBits ws) u).hse := emitted
    unfold EvidenceClosed
    rw [posted]
    exact ⟨rfl, rfl, rfl⟩

theorem onFieldVerdict_closes {s : State} {t0 : Tick} {c : TagCtx} (due : s.hse.verdictDue = some c) (done : s.hse.info.waiting = []) :
    EvidenceClosed (onFieldVerdict t0 s) := by
  unfold onFieldVerdict
  extract_lets a
  split
  next none_ => exact absurd (none_.symm.trans due) (by simp)
  next c' due' =>
    rw [if_neg (by rw [show a.hse.info.waiting = [] from done]; exact Bool.false_ne_true)]
    exact verdictOut_closes c' a

/-- Settles O23: the front's queue, its locked channels, the strips and the evidence move as R138, R141, R152 and R159 say, whatever
passes over the other channels, strips and sets and the messages to the partner do beside. -/
theorem histogramCommandsComplete : Obligations.HistogramCommandsComplete := by
  unfold Obligations.HistogramCommandsComplete
  refine ⟨?stamp, ?confidence, ?lock, ?strip, ?deadline, ?verdict, ?windows, ?histograms, ?counts, ?fire⟩
  case stamp =>
    intro s chan ok w r front
    exact completes rfl (onStampAccumulate_front front)
  case confidence =>
    intro s bank t0 i l running unfenced locked
    refine completes rfl ?_
    have kept := onConfidenceUpdate_locked (t0 := t0) running unfenced locked
    rw [kept]
    exact ⟨locked, rfl, rfl⟩
  case lock =>
    intro s chan t0 l ws follower unfenced fine told come
    refine completes rfl ?_
    have taken_ := onFollowerLock_locks follower unfenced fine told come
    exact ⟨congrArg ChanBuf.lock taken_, congrArg ChanBuf.locked taken_⟩
  case strip =>
    intro s strip ecc t0 held waits own good
    exact completes rfl (onStripColumnDone_waiting held waits own good)
  case deadline =>
    intro s t0 leader held fresh short over_
    exact completes rfl (onMergeDeadline_misses leader held fresh short over_)
  case verdict =>
    intro s t0 c due done
    exact completes rfl (onFieldVerdict_closes due done)
  case windows =>
    intro s chan lock ws follower
    refine completes rfl ?_
    unfold onDeepWin
    rw [if_pos follower]
    exact Tab.look_put_same _ _ _
  case histograms =>
    intro s chan h leader fresh held
    refine completes rfl ?_
    unfold onDeepHist
    rw [if_pos (by rw [leader, fresh, held]; rfl)]
    exact Tab.look_put_same _ _ _
  case counts =>
    intro s col cs ns q deep
    refine completes rfl ?_
    unfold onDeepCounts
    rw [if_neg deep]
  case fire =>
    intro s l deep
    refine completes rfl ?_
    unfold onDeepFire
    rw [if_neg deep]

end Sys2Proof.Machine
end

section
/-! PROOFS. Slots, shots and photons (R51, R56, R81 to R84, R101, R117, R123): slots are decided, shots fire, SPADs are blanked, die and
re-arm, and edges are stamped. -/

namespace Sys2Proof.Machine

/-! ### A bit of a mask -/

theorem getLsbD_or_twoPow {w : Nat} (x : BitVec w) {i : Nat} (small : i < w) : (x ||| BitVec.ofNat w (2 ^ i)).getLsbD i = true := by
  rw [BitVec.getLsbD_or, BitVec.getLsbD_ofNat, Nat.testBit_two_pow_self, decide_eq_true small, Bool.and_self, Bool.or_true]

theorem getLsbD_and_not_twoPow {w : Nat} (x : BitVec w) {i : Nat} (small : i < w) :
    (x &&& ~~~BitVec.ofNat w (2 ^ i)).getLsbD i = false := by
  rw [BitVec.getLsbD_and, BitVec.getLsbD_not, BitVec.getLsbD_ofNat, Nat.testBit_two_pow_self, decide_eq_true small, Bool.and_self,
    Bool.not_true, Bool.and_false, Bool.and_false]

/-! ### The decision of a slot (R123) -/

/-- The slot that the sequencer decides next. -/
def dueSlot (s : State) : Nat := s.esq.col.slotNext

theorem raiseLevels_dueSlot (s : State) : dueSlot (raiseLevels s) = dueSlot s := by
  unfold raiseLevels
  refine foldl_kept (g := dueSlot) (fun s b => ?_) _ s
  dsimp only
  split <;> rfl

theorem suppressGrant_dueSlot (b m s) : dueSlot (suppressGrant b m s) = dueSlot s := by
  unfold suppressGrant
  extract_lets x a c
  split
  · split <;> rfl
  · rfl

theorem joinShot_dueSlot (i b s) : dueSlot (joinShot i b s) = dueSlot s := by
  obtain ⟨ledA, ledB, charge⟩ := ledgerCharge_onlyLedger b (fireTick s i b) s
  rw [joinShot, charge]
  rfl

theorem placeShot_dueSlot (i b s) : dueSlot (placeShot i b s) = dueSlot s := by
  rw [placeShot_eq]
  split
  · rw [dueSlot, suppressSpacing_esq, dueSlot]
  · split
    · rw [dueSlot, suppressLedger_esq, dueSlot]
    · split
      · rfl
      · exact joinShot_dueSlot i b s

/-- A shot of a slot is placed or, where the grant is spent, suppressed. -/
theorem placeOrSuppress_dueSlot (c : Prop) [Decidable c] (i b m s) :
    dueSlot (if c then suppressGrant b m s else placeShot i b s) = dueSlot s := by
  split
  · exact suppressGrant_dueSlot _ _ _
  · exact placeShot_dueSlot _ _ _

/-- The slot whose decision is due is decided, and the next one follows it. -/
theorem onSlotDecision_decides {s : State} {slot : Fin 32} {t0 : Tick} (running : s.esq.col.active = true)
    (next : s.esq.col.slotNext = slot.val) (planned : slot.val < 2 ^ planSlotLog s) (due : slotDecisionTick s slot ≤ t0)
    (fresh : t0 < slotDecisionTick s slot + 64) (going : s.esq.stopped = false) (sound : s.esq.ledBad = false) :
    dueSlot (onSlotDecision slot t0 s) = slot.val + 1 := by
  unfold onSlotDecision
  extract_lets a d _ _ b c r reserve e counts order
  rw [if_pos (by
    rw [show a.esq.col.active = true from running, decide_eq_true (show slot.val = a.esq.col.slotNext from next.symm),
      decide_eq_true (show slot.val < 2 ^ planSlotLog a from planned), decide_eq_true (show d ≤ t0 from due),
      decide_eq_true (show t0 < d + 64 from fresh), show a.esq.stopped = false from going, show a.esq.ledBad = false from sound]
    rfl)]
  have levels : dueSlot c = slot.val + 1 := by
    unfold c
    split
    · rfl
    · exact raiseLevels_dueSlot b
  split
  · have mandatory : dueSlot e = dueSlot c := by
      refine foldl_kept (g := dueSlot) (fun s b => ?_) _ c
      split
      · exact placeOrSuppress_dueSlot ..
      · rfl
    refine (foldl_kept (g := dueSlot) (fun s b => ?_) _ e).trans (mandatory.trans levels)
    split
    · exact placeOrSuppress_dueSlot ..
    · rfl
  · exact levels

/-! ### A shot fires (R101, R106, R117) -/

theorem fenceBanks_esq (kind bs s) : (fenceBanks kind bs s).esq = s.esq := by
  unfold fenceBanks
  refine foldl_kept (g := State.esq) (fun s b => ?_) bs s
  rfl

/-- A run of low comparator states touches neither the shots nor the fire pulses. -/
theorem railShot_shots (r low s) : (railShot r low s).esq.shots = s.esq.shots ∧ (railShot r low s).esq.fires = s.esq.fires := by
  unfold railShot
  extract_lets n x run hit a _ b
  have noted : b.esq.shots = s.esq.shots ∧ b.esq.fires = s.esq.fires := by
    unfold b
    split <;> exact ⟨rfl, rfl⟩
  split
  · rw [fenceBanks_esq]
    exact noted
  · exact noted

theorem toPartner_esq (m s) : (toPartner m s).esq = s.esq :=
  (toPartner_keeps m (w := 281474976710655 - 2 ^ 10) (by decide) .rfl').same .esq (by decide)

theorem frontShot_esq (b t s) : (frontShot b t s).esq = s.esq :=
  (frontShot_keeps b t (w := 281474976710655 - 2 ^ 10) (by decide) .rfl').same .esq (by decide)

theorem onShotFire_fires {s : State} {bank : Fin 16} {t0 : Tick} (placed : ∃ f ∈ s.esq.shots, f.bank = bank.val ∧ f.tick = t0 ∧ f.fired = false)
    (sound : s.esq.ledBad = false) (going : s.esq.stopped = false) :
    (onShotFire bank t0 s).esq.shots = markFired bank t0 s.esq.shots ∧
      Tab.look (onShotFire bank t0 s).esq.fires bank = some (t0, t0 + 64 * fireWidth s) := by
  unfold onShotFire
  extract_lets a _ b c d
  split
  next none_ =>
    obtain ⟨f, mem, ofBank, atTick, unfired⟩ := placed
    have missed := List.find?_eq_none.mp none_ f mem
    rw [ofBank, atTick, unfired] at missed
    simp at missed
  next f found =>
    extract_lets e
    rw [if_neg (by
      rw [show a.esq.ledBad = false from sound, show a.esq.stopped = false from going]
      exact Bool.false_ne_true)]
    obtain ⟨shots, fires⟩ := railShot_shots (bank / 4) (railIsLow c (bank / 4)) c
    have told : e.esq.shots = c.esq.shots ∧ e.esq.fires = c.esq.fires := by
      rw [show e.esq = d.esq from toPartner_esq _ d]
      exact ⟨shots, fires⟩
    have fired : e.esq.shots = markFired bank t0 s.esq.shots ∧ Tab.look e.esq.fires bank = some (t0, t0 + 64 * fireWidth s) := by
      rw [told.1, told.2]
      exact ⟨rfl, Tab.look_put_same _ _ _⟩
    split
    · exact fired
    · rw [frontShot_esq]
      exact fired

/-! ### Blanking and SPADs (R81 to R84) -/

theorem onBlankStart_blanks {s : State} {bank : Fin 16} {t0 : Tick} {f : Shot} (last : lastShot s bank = some f) (main : f.ref = false)
    (within : inBlank s f t0 = true) : (onBlankStart bank t0 s).pfe.blanked.getLsbD bank = true := by
  unfold onBlankStart
  extract_lets a
  rw [if_pos (by
    rw [show lastShot a bank = some f from last, Option.any_some, main, show inBlank a f t0 = true from within]
    rfl)]
  exact getLsbD_or_twoPow _ bank.isLt

theorem onBlankEnd_clears {s : State} {bank : Fin 16} {t0 : Tick} (blanked : s.pfe.blanked.getLsbD bank = true)
    (over_ : ∀ f, lastShot s bank = some f → inBlank s f t0 = false) :
    (onBlankEnd bank t0 s).pfe.blanked.getLsbD bank = false ∧
      ∀ k < 512, Tab.look (onBlankEnd bank t0 s).pfe.spads (512 * bank + k) = none := by
  unfold onBlankEnd
  extract_lets a
  have ended : ((lastShot a bank).any fun f => inBlank a f t0) = false := by
    rw [Option.any_eq_false]
    intro f last
    exact over_ f last
  rw [if_pos (by rw [show a.pfe.blanked.getLsbD bank = true from blanked, ended]; rfl)]
  refine ⟨getLsbD_and_not_twoPow _ bank.isLt, fun k small => Tab.look_filter_none _ _ _ fun v => ?_⟩
  rw [decide_eq_true (show (512 * bank.val + k) / 512 = bank.val by omega)]
  rfl

theorem onSpadAvalanche_dead {s : State} {chan : Fin 512} {spad : Fin 16} {t0 : Tick} (armed : spadArmed s chan spad = true) :
    Tab.look (onSpadAvalanche chan spad t0 s).pfe.spads (16 * chan + spad) = some (.dead t0) := by
  unfold onSpadAvalanche
  extract_lets a
  rw [if_pos (show spadArmed a chan spad = true from armed)]
  exact Tab.look_put_same _ _ _

/-- The avalanche that completes the depth makes an edge and clears the window. -/
theorem onSpadAvalanche_edge {s : State} {chan : Fin 512} {spad : Fin 16} {t0 : Tick} (armed : spadArmed s chan spad = true)
    (unmasked : bitB (amaskOf s chan) spad = false) (full : max 1 (Tab.lookD s.pfe.depth chan 1) ≤
      1 + ((Tab.lookD s.pfe.aval chan []).filter fun a => decide (t0 < a + if s.esq.plan.isNone then 64 else planWindow s)).length) :
    Tab.look (onSpadAvalanche chan spad t0 s).pfe.edges chan = some (Tab.lookD s.pfe.edges chan [] ++ [t0]) ∧
      Tab.look (onSpadAvalanche chan spad t0 s).pfe.aval chan = none := by
  unfold onSpadAvalanche
  extract_lets a masked quiet runs w av hit
  have isHit : hit = true := by
    have count : max 1 (Tab.lookD a.pfe.depth chan 1) ≤ av.length := by
      rw [List.length_append, List.length_singleton, Nat.add_comm]
      exact full
    unfold hit
    rw [show masked = false from unmasked, decide_eq_true count]
    rfl
  rw [if_pos (show spadArmed a chan spad = true from armed), isHit, show masked = false from unmasked]
  exact ⟨Tab.look_put_same _ _ _, Tab.look_del_same _ _⟩

/-! ### Edges (R51, R56) -/

theorem countTap_lastEdge (l tap s) : (countTap l tap s).tdc.lastEdge = s.tdc.lastEdge := rfl

theorem alive_of_spaced {last : Option Tick} {st : Tick} (spaced : ∀ l, last = some l → l + deadTicks ≤ st) :
    (last.any fun l => decide (st < l + deadTicks)) = false := by
  rw [Option.any_eq_false]
  intro l accepted
  exact decide_eq_false (Nat.not_lt.mpr (spaced l accepted))

theorem pushRT_edges (g i w s) : (pushRT g i w s).tdc = s.tdc ∧ (pushRT g i w s).pfe = s.pfe :=
  have kept : Keeps (2 ^ 0 + 2 ^ 20 + 2 ^ 35 + 2 ^ 40) s (pushRT g i w s) := pushRT_keeps g i w (by decide) .rfl'
  ⟨kept.same .tdc (by decide), kept.same .pfe (by decide)⟩

/-- The oldest edge of a live channel is taken and stamped. -/
theorem onCoincidenceEdge_stamps {s : State} {chan : Fin 512} {tap : Fin 97} {edge : Tick} (live : chanLive s chan = true)
    (come : ∀ e, (Tab.lookD s.pfe.edges chan []).head? = some e → e ≤ edge) (some_ : Tab.lookD s.pfe.edges chan [] ≠ [])
    (spaced : ∀ l, Tab.look s.tdc.lastEdge chan = some l → l + deadTicks ≤ stampOf s chan edge tap) :
    Tab.look (onCoincidenceEdge chan tap edge s).tdc.lastEdge chan = some (stampOf s chan edge tap) ∧
      Tab.look (onCoincidenceEdge chan tap edge s).pfe.edges chan = some ((Tab.lookD s.pfe.edges chan []).drop 1) := by
  unfold onCoincidenceEdge
  extract_lets a es live' _ b st _ c w d e
  have due : (es.head?.any fun e => decide (e ≤ edge)) = true := by
    obtain ⟨x, r, front⟩ := List.exists_cons_of_ne_nil some_
    have first : es.head? = some x := by rw [show es = x :: r from front]; rfl
    rw [first]
    exact decide_eq_true (come x first)
  rw [if_pos (by rw [show live' = true from live, due]; rfl), if_neg (by
    rw [show ((Tab.look b.tdc.lastEdge chan).any fun l => decide (st < l + deadTicks)) = false from alive_of_spaced spaced]
    exact Bool.false_ne_true)]
  have queued : d.tdc = c.tdc ∧ d.pfe = c.pfe := by
    unfold d
    split
    · exact pushRT_edges ..
    · exact ⟨rfl, rfl⟩
  have copied : e.tdc = d.tdc ∧ e.pfe = d.pfe := by
    unfold e
    split
    · exact pushRT_edges ..
    · exact ⟨rfl, rfl⟩
  have stamped : Tab.look e.tdc.lastEdge chan = some st ∧ Tab.look e.pfe.edges chan = some (es.drop 1) := by
    rw [copied.1, copied.2, queued.1, queued.2]
    exact ⟨Tab.look_put_same _ _ _, Tab.look_put_same _ _ _⟩
  split
  · split <;> exact stamped
  · exact stamped

theorem onCalSourceEdge_stamps {s : State} {line : Fin 532} {tap : Fin 97} {t0 : Tick} (source : injected (advance t0 s) line t0 = true)
    (spaced : ∀ l, Tab.look s.tdc.lastEdge line = some l → l + deadTicks ≤ stampOf s line t0 tap) :
    Tab.look (onCalSourceEdge line tap t0 s).tdc.lastEdge line = some (stampOf s line t0 tap) := by
  unfold onCalSourceEdge
  extract_lets a st
  rw [if_pos (by
    rw [show injected a line t0 = true from source,
      show ((Tab.look a.tdc.lastEdge line).any fun l => decide (st < l + deadTicks)) = false from alive_of_spaced spaced]
    rfl)]
  exact Tab.look_put_same _ _ _

/-- Settles O22: each command passes its guard under the conditions of its clause; what it does beside (suppressions, rails, the
partner, queues and counters) leaves what the clause states. -/
theorem shotAndPhotonCommandsComplete : Obligations.ShotAndPhotonCommandsComplete := by
  unfold Obligations.ShotAndPhotonCommandsComplete
  refine ⟨?slot, ?shot, ?blankStart, ?blankEnd, ?rearm, ?avalanche, ?edge, ?coincidence, ?source⟩
  case slot =>
    intro s slot t0 running next planned due fresh going sound
    exact completes rfl (onSlotDecision_decides running next planned due fresh going sound)
  case shot =>
    intro s bank t0 placed sound going
    exact completes rfl (onShotFire_fires placed sound going)
  case blankStart =>
    intro s bank t0 f last main within
    exact completes rfl (onBlankStart_blanks last main within)
  case blankEnd =>
    intro s bank t0 blanked over_
    exact completes rfl (onBlankEnd_clears blanked over_)
  case rearm =>
    intro s chan spad t0
    exact completes rfl (Tab.look_del_same _ _)
  case avalanche =>
    intro s chan spad t0 armed
    exact completes rfl (onSpadAvalanche_dead armed)
  case edge =>
    intro s chan spad t0 armed unmasked full
    exact completes rfl (onSpadAvalanche_edge armed unmasked full)
  case coincidence =>
    intro s chan tap edge live come some_ spaced
    exact completes rfl (onCoincidenceEdge_stamps live come some_ spaced)
  case source =>
    intro s line tap t0 source spaced
    exact completes rfl (onCalSourceEdge_stamps source spaced)

end Sys2Proof.Machine
end

section
/-! PROOFS. The emission sequence (R24, R109, R110, R113): index edges, missing indices, frame starts and column boundaries. What the
items and ends of a boundary leave of the sequence comes first. -/

namespace Sys2Proof.Machine

/-- Every part of the state but the sequencer. -/
def besideEsq : Nat := 281474976710655 - 2 ^ 10

/-! ### What a boundary leaves of the sequence -/

/-- The frame in progress, the context of its items, the staged changes of plan and the stop. -/
structure SeqCore where
  frame   : FrameSt
  ctx     : TagCtx
  staged  : List Staged
  stopped : Bool

def seqCore (s : State) : SeqCore := ⟨s.esq.frame, s.esq.ctx, s.esq.staged, s.esq.stopped⟩

theorem seqCore_of_esq {s t : State} (esq : t.esq = s.esq) : seqCore t = seqCore s := by rw [seqCore, esq, seqCore]

theorem seqCore_of_keeps {s t : State} (kept : Keeps besideEsq s t) : seqCore t = seqCore s :=
  seqCore_of_esq (kept.same .esq (by decide))

theorem graftColumn_core (s : State) : seqCore (graftColumn s) = seqCore s := by
  unfold graftColumn
  split <;> rfl

/-- The end of a column leaves the sequence but for its column and its shots. -/
theorem colEnd_core (t : Tick) (s : State) : seqCore (colEnd t s) = seqCore s := by
  unfold colEnd
  split
  · extract_lets a ticks b c d e f g _ h
    have ended : Keeps besideEsq s a := verdictNow_keeps _ (by decide) (loseWaiting_keeps (by decide) .rfl')
    have grafted : seqCore b = seqCore a := (graftColumn_core _).trans (seqCore_of_keeps (graftQuiet_keeps _ (by decide) .rfl'))
    have emitted : Keeps besideEsq b g := swapCounts_keeps (by decide) (swapBuffers_keeps _ _ (by decide) (rawItems_keeps (by decide)
      (closePacks_keeps (by decide) (refEmit_keeps _ (by decide) (columnSummary_keeps (by decide) (pfeSwap_keeps _ _ (by decide)
        .rfl'))))))
    exact (seqCore_of_keeps emitted).trans (grafted.trans (seqCore_of_keeps ended))
  · exact seqCore_of_keeps (closePacks_keeps (by decide) .rfl')

theorem planTaken_core (s : State) : seqCore (planTaken s) = seqCore s := by
  unfold planTaken
  extract_lets m moved _ a
  split
  · exact (seqCore_of_keeps (cleTakePlan_keeps _ (by decide) .rfl')).trans rfl
  · rfl

theorem insertGrant_core (s : State) : seqCore (insertGrant .lidar s) = seqCore s := by
  unfold insertGrant
  split
  · rfl
  · extract_lets a g _ b
    exact (seqCore_of_keeps (ctlProducers_keeps _ _ _ _ (by decide) .rfl')).trans rfl

theorem insertGrant_x8host (s : State) : (insertGrant .lidar s).qsy.x8host = s.qsy.x8host := by
  unfold insertGrant
  split
  · rfl
  next c found =>
    have told (u : State) : (ctlProducers .lidar 4 0 c.arg u).qsy.x8host = u.qsy.x8host := by
      obtain ⟨host, -⟩ := (ctlProducers_keeps .lidar 4 0 c.arg (w := 281474976710655 - 2 ^ 21) (s := u) (by decide) .rfl').same .mailboxItems
        (by decide)
      exact host
    extract_lets
    exact (told _).trans rfl

/-- No order for the scan plan waits: the mailbox holds no item and, at the start of a frame, no SWAP is staged. -/
def PlansAtRest (start : Bool) (s : State) : Prop := s.qsy.x8host = [] ∧ (start = true → s.esq.staged = [])

theorem planOrders_of_rest {start : Bool} {s : State} (rest : PlansAtRest start s) : planOrders .lidar start s = [] := by
  obtain ⟨empty, unstaged⟩ := rest
  unfold planOrders
  extract_lets f
  rw [empty]
  cases start with
  | false => rfl
  | true => rw [unstaged rfl]; rfl

theorem takePlans_of_rest {start : Bool} {s : State} (rest : PlansAtRest start s) :
    seqCore (takePlans .lidar start s).1 = seqCore s ∧ (takePlans .lidar start s).2 = [] := by
  have none_ := planOrders_of_rest rest
  unfold takePlans
  extract_lets p f _ a b c
  have resolved : p = ([], []) := by
    unfold p
    rw [none_]
    rfl
  have spent : seqCore b = seqCore s := by
    unfold b
    split
    next starts =>
      have unstaged : a.esq.staged = [] := rest.2 starts
      unfold spendStaged
      rw [unstaged]
      exact congrArg (fun l => (⟨s.esq.frame, s.esq.ctx, l, s.esq.stopped⟩ : SeqCore)) (rest.2 starts).symm
    · rfl
  have unlost : c = b := by
    unfold c
    rw [resolved]
    rfl
  rw [resolved, unlost]
  exact ⟨spent, rfl⟩

theorem PlansAtRest.of_core {start : Bool} {s t : State} (rest : PlansAtRest start s) (core : seqCore t = seqCore s)
    (host : t.qsy.x8host = s.qsy.x8host) : PlansAtRest start t :=
  ⟨host.trans rest.1, fun starts => (congrArg SeqCore.staged core).trans (rest.2 starts)⟩

/-- The control items of a boundary at which no order for the plan waits leave the sequence. -/
theorem lidarItems_of_rest {start : Bool} {t : Tick} {s : State} (rest : PlansAtRest start s) :
    seqCore (lidarItems start t s).1 = seqCore s ∧ (lidarItems start t s).2 = [] := by
  have granted := insertGrant_core s
  obtain ⟨taken_, none_⟩ := takePlans_of_rest (rest.of_core granted (insertGrant_x8host s))
  unfold lidarItems
  extract_lets p plan a _ b
  have same : b = p.1 := by
    have unplanned : plan = false := by
      unfold plan
      rw [show p.2 = [] from none_]
      rfl
    unfold b
    rw [unplanned]
    unfold a
    rw [show p.2 = [] from none_]
    rfl
  refine ⟨?_, none_⟩
  have inserted : Keeps besideEsq b (pfeTurn (insertFlushes .lidar (insertCals t (insertUnits .lidar start b)))) :=
    pfeTurn_keeps (by decide) (insertFlushes_keeps _ (by decide) (insertCals_keeps _ (by decide) (insertUnits_keeps _ _ (by decide) .rfl')))
  rw [seqCore_of_keeps inserted, same]
  exact taken_.trans granted

/-! ### A column opens (R112) -/

/-- Column `k` of the frame runs from `start`, with its first slot to be decided. -/
def ColumnRuns (k : Nat) (start : Tick) (s : State) : Prop :=
  s.esq.col.active = true ∧ s.esq.col.k = k ∧ s.esq.col.start = start ∧ s.esq.col.slotNext = 0

theorem openColumn_runs (k : Nat) (start : Tick) (first : Bool) (s : State) :
    ColumnRuns k start (openColumn k start first s) ∧ seqCore (openColumn k start first s) = seqCore s := by
  unfold openColumn
  extract_lets _ _ a b held g rp _ c _ d
  have opened : b.esq = s.esq := (pfeOpen_keeps (w := besideEsq) (s := a) (by decide) .rfl').same .esq (by decide)
  have settled : (windowStarts 1 0 start (alignBoundary (deferCounts d))).esq = d.esq :=
    (windowStarts_keeps _ _ _ (w := besideEsq) (by decide) (alignBoundary_keeps (by decide) (deferCounts_keeps (by decide)
      .rfl'))).same .esq (by decide)
  rw [ColumnRuns, settled, seqCore_of_esq settled]
  clear_value b
  exact ⟨⟨rfl, rfl, rfl, rfl⟩, (show seqCore d = seqCore b from rfl).trans (seqCore_of_esq opened)⟩

/-! ### What follows from the beginning of a frame (R127, R483) -/

/-- The frame in progress and the context of its items. -/
def frameView (s : State) : FrameSt × TagCtx := (s.esq.frame, s.esq.ctx)

theorem frameView_of_core {s t : State} (core : seqCore t = seqCore s) : frameView t = frameView s :=
  congrArg (fun c : SeqCore => (c.frame, c.ctx)) core

theorem frameView_of_keeps {s t : State} (kept : Keeps besideEsq s t) : frameView t = frameView s :=
  frameView_of_core (seqCore_of_keeps kept)

theorem swapDecide_frame (f : Nat) (s : State) : frameView (swapDecide .lidar f s) = frameView s := by
  unfold swapDecide
  extract_lets due
  refine foldl_kept (g := frameView) (fun s x => ?_) _ s
  extract_lets ok l _ a b
  have staged : frameView a = frameView s := rfl
  have told : frameView b = frameView a := by
    unfold b
    split
    · rfl
    · exact frameView_of_keeps (finish_keeps _ _ _ (by decide) .rfl')
  split
  · exact (frameView_of_keeps (sendMsg_keeps _ _ (by decide) .rfl')).trans (told.trans staged)
  · exact told.trans staged

theorem graftBegin_frame (o : Origin) (u : Nat) (s : State) : frameView (graftBegin o u s) = frameView s := by
  unfold graftBegin
  split
  · refine (frameView_of_keeps (finish_keeps _ _ _ (by decide) .rfl')).trans ?_
    split <;> rfl
  · extract_lets held _ _ a b
    have graft : frameView a = frameView s := rfl
    split
    · have calibrated : Keeps besideEsq a b := startCycle_keeps _ _ _ (by decide) (biasEnable_keeps _ _ (by decide) .rfl')
      exact (frameView_of_keeps calibrated).trans graft
    · split
      · rfl
      · split
        · exact (frameView_of_keeps (pairGraft_keeps _ _ (by decide) .rfl')).trans graft
        · split <;> rfl

theorem runOther_frame (x : Deferred) (s : State) : frameView (runOther x s) = frameView s := by
  unfold runOther
  split
  · exact frameView_of_keeps (finish_keeps _ _ _ (by decide) (flushStream_keeps _ _ _ _ (by decide) .rfl'))
  · split
    · exact frameView_of_keeps (faultClear_keeps _ _ (by decide) .rfl')
    · split
      · exact graftBegin_frame _ _ _
      · exact frameView_of_keeps (finish_keeps _ _ _ (by decide) .rfl')

theorem runDeferred_frame (f : Nat) (s : State) : frameView (runDeferred .lidar f s) = frameView s := by
  unfold runDeferred
  extract_lets due lt l _ a b
  have caps : frameView b = frameView a :=
    foldl_kept (g := frameView) (fun s u => frameView_of_keeps (runCaps_keeps _ _ _ _ (by decide) .rfl')) _ a
  exact (foldl_kept (g := frameView) (fun s x => runOther_frame x s) _ b).trans caps

theorem frameFollows_frame (n : Nat) (s : State) : frameView (frameFollows n s) = frameView s := by
  unfold frameFollows
  extract_lets g a b
  have started : Keeps besideEsq s a :=
    tinBoundary_keeps _ _ _ (by decide) (capBoundary_keeps _ _ _ (by decide) (capStart_keeps _ (by decide) .rfl'))
  calc frameView (cloFrameBegin n b)
      = frameView b := frameView_of_keeps (cloFrameBegin_keeps _ (by decide) .rfl')
    _ = frameView (runDeferred .lidar n (swapDecide .lidar n a)) := frameView_of_keeps (fwdBegin_keeps _ _ (by decide) .rfl')
    _ = frameView (swapDecide .lidar n a) := runDeferred_frame _ _
    _ = frameView a := swapDecide_frame _ _
    _ = frameView s := frameView_of_keeps started

/-! ### A frame starts (R108, R110) -/

/-- The frame of `p`, number `n`, is in progress and its first column runs. -/
def FrameRuns (p : PendFrame) (n : Nat) (s : State) : Prop :=
  s.esq.frame.active = true ∧ s.esq.frame.start = p.at_ ∧ s.esq.ctx.frame = n ∧ ColumnRuns 0 p.at_ s

theorem scheduleBack_frame (p : PendFrame) (per : Nat) (s : State) : frameView (scheduleBack p per s) = frameView s := by
  unfold scheduleBack
  split <;> rfl

theorem frameBegin_runs (p : PendFrame) (s : State) : FrameRuns p (nextNum s.esq.ctx) (frameBegin p s) := by
  unfold frameBegin
  extract_lets first n per a held _ b c _ d e
  have scheduled : frameView (scheduleBack p per.1 b) = frameView b := scheduleBack_frame _ _ _
  have numbered : c.esq.frame = b.esq.frame ∧ c.esq.ctx.frame = n := ⟨congrArg Prod.fst scheduled, rfl⟩
  have warmed : frameView d = frameView c := by
    unfold d
    split <;> rfl
  have marked : frameView e = frameView d := by
    have based : frameView (frameMarks (if n = 0 then fixBase p.at_ d else d)) = frameView d := by
      split <;> rfl
    exact (frameView_of_keeps (frameItem_keeps (by decide) .rfl')).trans based
  obtain ⟨column, core⟩ := openColumn_runs 0 p.at_ first (frameFollows n e)
  have kept : frameView (openColumn 0 p.at_ first (frameFollows n e)) = frameView c :=
    (frameView_of_core core).trans ((frameFollows_frame n e).trans (marked.trans warmed))
  have frame : (openColumn 0 p.at_ first (frameFollows n e)).esq.frame = b.esq.frame := (congrArg Prod.fst kept).trans numbered.1
  have number : (openColumn 0 p.at_ first (frameFollows n e)).esq.ctx.frame = n :=
    (congrArg (fun v => v.2.frame) kept).trans numbered.2
  refine ⟨?_, ?_, number, column⟩
  · rw [frame]
  · rw [frame]

theorem frameEnd_leaves (s : State) : (frameEnd s).esq.ctx = s.esq.ctx ∧ (frameEnd s).esq.staged = s.esq.staged ∧
    (frameEnd s).esq.stopped = s.esq.stopped := by
  unfold frameEnd
  split
  · extract_lets a c b _ _ _ d
    have closed : b.esq = s.esq := (cloFrameEnd_keeps c.frame (w := besideEsq) (by decide) (unmadeUnobs_keeps (by decide) .rfl')).same .esq
      (by decide)
    have ended : d.esq.ctx = b.esq.ctx ∧ d.esq.staged = b.esq.staged ∧ d.esq.stopped = b.esq.stopped := ⟨rfl, rfl, rfl⟩
    rw [closed] at ended
    clear_value d
    split <;> exact ended
  · exact ⟨rfl, rfl, rfl⟩

/-- The end of a frame leaves the sequence but for the frame itself. -/
theorem frameEnd_core (s : State) : seqCore (frameEnd s) = { seqCore s with frame := (frameEnd s).esq.frame } := by
  obtain ⟨ctx, staged, stopped⟩ := frameEnd_leaves s
  simp only [seqCore, ctx, staged, stopped]

/-- A boundary at which no order for the plan waits begins the pending frame, unless acquisition is stopped. -/
theorem frameBoundary_runs {p : PendFrame} {s : State} (rest : PlansAtRest true s) (going : acqStopped s = false) :
    FrameRuns p (nextNum s.esq.ctx) (frameBoundary p s) := by
  unfold frameBoundary
  extract_lets a b _ c d r
  have ended : seqCore a = { seqCore s with frame := a.esq.frame } := by rw [show seqCore a = _ from frameEnd_core _, colEnd_core]
  have closed : seqCore b = seqCore a := by
    unfold b
    split
    · rfl
    · exact seqCore_of_keeps (auxItems_keeps _ (by decide) .rfl')
  have turned : seqCore d = seqCore a := by
    refine Eq.trans ?_ closed
    unfold d
    split
    · exact planTaken_core c
    · rfl
  have core : seqCore d = { seqCore s with frame := a.esq.frame } := turned.trans ended
  have kept : Keeps (281474976710655 - 2 ^ 21 - 2 ^ 24) s d := by
    have atEnd : Keeps (281474976710655 - 2 ^ 21 - 2 ^ 24) s a := frameEnd_keeps (by decide) (colEnd_keeps _ (by decide) .rfl')
    have items : Keeps (281474976710655 - 2 ^ 21 - 2 ^ 24) s b := .ite atEnd (auxItems_keeps _ (by decide) atEnd)
    have dropped : Keeps (281474976710655 - 2 ^ 21 - 2 ^ 24) s c := items.set_esq (by decide) _
    exact .ite (planTaken_keeps (by decide) dropped) dropped
  obtain ⟨host, -⟩ := kept.same .mailboxItems (by decide)
  have going' : acqStopped d = false := by
    rw [acqStopped, show d.esq.stopped = s.esq.stopped from congrArg SeqCore.stopped core, kept.same .hkp (by decide)]
    exact going
  have rest' : PlansAtRest true d := ⟨host.trans rest.1, fun starts => (congrArg SeqCore.staged core).trans (rest.2 starts)⟩
  obtain ⟨taken_, none_⟩ := lidarItems_of_rest (t := p.at_) rest'
  rw [if_neg (by rw [going', show r.2 = [] from none_]; exact Bool.false_ne_true), if_pos (by rw [show r.2 = [] from none_]; rfl)]
  have ctx : r.1.esq.ctx = s.esq.ctx := congrArg SeqCore.ctx (taken_.trans core)
  rw [← ctx]
  exact frameBegin_runs p r.1

/-! ### The commands -/

theorem scheduleFrames_index (stamp : Tick) (predicted realPair : Bool) (s : State) :
    (scheduleFrames stamp predicted realPair s).esq.prevIdx = s.esq.prevIdx ∧
    (scheduleFrames stamp predicted realPair s).esq.prevReal = s.esq.prevReal ∧
    (scheduleFrames stamp predicted realPair s).esq.misses = s.esq.misses := by
  unfold scheduleFrames
  extract_lets f
  split <;> exact ⟨rfl, rfl, rfl⟩

/-- The edge at `t` is the next index. -/
theorem indexReal_index (t : Tick) (s : State) :
    (indexReal t s).esq.prevIdx = some t ∧ (indexReal t s).esq.prevReal = true ∧ (indexReal t s).esq.misses = 0 := by
  unfold indexReal
  extract_lets pair
  obtain ⟨idx, real, misses⟩ := scheduleFrames_index t false pair { s with esq := { s.esq with prevIdx := some t, prevReal := true, misses := 0 } }
  exact ⟨idx, real, misses⟩

theorem onIndexEdge_index {s : State} {t0 : Tick} (lidar : hasLidar s = true) (planned : s.esq.plan.isSome = true)
    (inTime : ∀ sp, s.esq.prevIdx = some sp → judgeEdge s sp t0 = 0) : ∃ u, onIndexEdge t0 s = indexReal t0 u := by
  unfold onIndexEdge
  extract_lets a
  rw [if_neg (by
    rw [show hasLidar a = true from lidar, Option.isNone_eq_false_iff.mpr (show a.esq.plan.isSome = true from planned)]
    exact Bool.false_ne_true)]
  split
  · exact ⟨a, rfl⟩
  next sp last =>
    rw [if_pos (show judgeEdge a sp t0 = 0 from inTime sp last)]
    exact ⟨a, rfl⟩

theorem indexMissing_index (sp : Tick) (s : State) :
    (indexMissing sp s).esq.prevIdx = some (predictedStamp s sp) ∧ (indexMissing sp s).esq.prevReal = false ∧
    (indexMissing sp s).esq.misses = s.esq.misses + 1 := by
  unfold indexMissing
  extract_lets p _ a
  obtain ⟨idx, real, misses⟩ := scheduleFrames_index p true false (stick Reg.ESQ_STICKY 0 (bump Reg.ESQ_INDEX_MISS 1 (raise 152 a)))
  exact ⟨idx, real, misses⟩

theorem onEsqIndexMissing_missing {s : State} {t0 sp : Tick} (lidar : hasLidar s = true) (last : s.esq.prevIdx = some sp)
    (late : judgeEdge s sp t0 = 2) : onEsqIndexMissing t0 s = indexMissing sp (advance t0 s) := by
  unfold onEsqIndexMissing
  extract_lets a
  split
  next sp' last' =>
    obtain rfl : sp' = sp := Option.some.inj (last'.symm.trans last)
    rw [if_pos (by
      rw [show hasLidar a = true from lidar, decide_eq_true (show judgeEdge a sp' t0 = 2 from late)]
      rfl)]
  next none_ => exact absurd (none_.symm.trans last) (by simp)

/-- A column boundary at which no plan waits and acquisition goes on opens the next column of the frame. -/
theorem onColumnBoundary_runs {s : State} {t0 : Tick} (inFrame : s.esq.frame.active = true) (inColumn : s.esq.col.active = true)
    (planned : s.esq.col.k + 1 < planK s) (due : colStartOf s (s.esq.col.k + 1) ≤ t0) (going : acqStopped s = false)
    (empty : s.qsy.x8host = []) :
    (onColumnBoundary t0 s).esq.frame.active = true ∧
      ColumnRuns (s.esq.col.k + 1) (colStartOf s (s.esq.col.k + 1)) (onColumnBoundary t0 s) := by
  unfold onColumnBoundary
  extract_lets a k b c d e
  have core : seqCore c = seqCore s := colEnd_core b a
  have kept : Keeps (281474976710655 - 2 ^ 21 - 2 ^ 24) a c := colEnd_keeps _ (by decide) .rfl'
  obtain ⟨host, -⟩ := kept.same .mailboxItems (by decide)
  have going' : acqStopped c = false := by
    rw [acqStopped, show c.esq.stopped = s.esq.stopped from congrArg SeqCore.stopped core,
      show c.hkp = s.hkp from kept.same .hkp (by decide)]
    exact going
  have rest : PlansAtRest false c := ⟨host.trans empty, fun starts => absurd starts Bool.false_ne_true⟩
  have unended : d = c := by
    unfold d
    rw [planOrders_of_rest rest, going']
    rfl
  have items : seqCore e = seqCore s := by
    unfold e
    rw [unended]
    exact (lidarItems_of_rest rest).1.trans core
  have frame : e.esq.frame = s.esq.frame := congrArg SeqCore.frame items
  rw [if_pos (by
    rw [show a.esq.frame.active = true from inFrame, show a.esq.col.active = true from inColumn,
      decide_eq_true (show k < planK a from planned), decide_eq_true (show b ≤ t0 from due)]
    rfl), if_pos (by rw [frame]; exact inFrame)]
  obtain ⟨runs, opened⟩ := openColumn_runs k b false e
  exact ⟨(congrArg (fun c => c.frame.active) (opened.trans items)).trans inFrame, runs⟩

theorem onFrameStart_runs {s : State} {t0 : Tick} {p : PendFrame} {l : List PendFrame} (front : s.esq.pend = p :: l)
    (started : s.boot.step = 12) (lidar : hasLidar s = true) (due : p.at_ ≤ t0) (going : acqStopped s = false)
    (rest : PlansAtRest true s) : FrameRuns p (nextNum s.esq.ctx) (onFrameStart t0 s) := by
  unfold onFrameStart
  extract_lets a
  split
  next p' l' front' =>
    obtain ⟨rfl, rfl⟩ : p' = p ∧ l' = l := by simpa using front'.symm.trans front
    rw [if_pos (by
      rw [decide_eq_true (show a.boot.step = 12 from started), show hasLidar a = true from lidar, decide_eq_true due]
      rfl)]
    exact frameBoundary_runs (s := a) rest going
  next none_ => exact absurd (none_.symm.trans front) (by simp)

/-- Settles O21: no plan waits and acquisition goes on, so the boundary's ends and items leave the sequence, and the column or the frame
that is due begins. -/
theorem sequencerCommandsComplete : Obligations.SequencerCommandsComplete := by
  unfold Obligations.SequencerCommandsComplete
  refine ⟨?column, ?index, ?missing, ?frame⟩
  case column =>
    intro s t0 inFrame inColumn planned due going empty
    obtain ⟨frame, active, k, start, slot⟩ := onColumnBoundary_runs inFrame inColumn planned due going empty
    exact completes rfl ⟨frame, active, k, start, slot⟩
  case index =>
    intro s t0 lidar planned inTime
    refine completes rfl ?_
    obtain ⟨u, taken_⟩ := onIndexEdge_index lidar planned inTime
    rw [taken_]
    exact indexReal_index t0 u
  case missing =>
    intro s t0 sp lidar last late
    refine completes rfl ?_
    rw [onEsqIndexMissing_missing lidar last late]
    exact indexMissing_index sp (advance t0 s)
  case frame =>
    intro s t0 p l front started lidar due going empty unstaged
    obtain ⟨active, start, number, columnActive, k, columnStart, -⟩ :=
      onFrameStart_runs front started lidar due going ⟨empty, fun _ => unstaged⟩
    exact completes rfl ⟨active, start, number, columnActive, k, columnStart⟩

end Sys2Proof.Machine
end

section
/-! PROOFS. The arbiter's epoch (R329, R331), the housekeeping round (R336) and the stop (R344, R345): what a step of theirs leaves of
the arbiter, of the round count and of the stop. -/

namespace Sys2Proof.Machine

/-- Every part of the state but the arbiter's. -/
def besideAla : Nat := 281474976710655 - 2 ^ 23

/-- Every part of the state but housekeeping's. -/
def besideHkp : Nat := 281474976710655 - 2 ^ 24

/-! ### Epochs -/

/-- Outside a provisional round no clear is confirmed. -/
theorem confirmClear_of_not_provisional {s : State} (none_ : s.fcl.provisional = false) : confirmClear s = s := by
  unfold confirmClear
  extract_lets late
  refine if_neg ?_
  rw [none_]
  exact Bool.false_ne_true

theorem installGrant_grant (e : Nat) (g : AlaGrant) (s : State) :
    (installGrant e g s).ala.grant = g.record ∧ (installGrant e g s).ala.epoch = e := by
  unfold installGrant
  extract_lets _ a
  have linked : Keeps besideAla a (linkGrant (postGrant a)) := linkGrant_keeps (by decide) (postGrant_keeps (by decide) .rfl')
  have ala : (linkGrant (postGrant a)).ala = a.ala := linked.same .ala (by decide)
  rw [ala]
  exact ⟨rfl, rfl⟩

theorem installGrant_report (e : Nat) (g : AlaGrant) (s : State) : (installGrant e g s).ala.report = s.ala.report := by
  unfold installGrant
  extract_lets _ a
  have linked : Keeps besideAla a (linkGrant (postGrant a)) := linkGrant_keeps (by decide) (postGrant_keeps (by decide) .rfl')
  rw [show (linkGrant (postGrant a)).ala = a.ala from linked.same .ala (by decide)]

/-- The stop's grant is in force from the epoch it is put in force at. -/
theorem installStop_epoch (e held : Nat) (s : State) : (installStop e held s).ala.epoch = e := by
  unfold installStop
  exact (installGrant_grant e _ _).2

/-- The turn of an epoch at which the arbiter runs, from `s` to `t`: the report is taken and its computation begun, and a grant that is
ready is in force from epoch `e` on. -/
structure EpochTurn (r : EpochReport) (e : Nat) (s t : State) : Prop where
  computing : t.ala.computing = some r
  report : t.ala.report = heldOut s r
  grant : ∀ g, s.ala.ready = some g → t.ala.grant = g.record ∧ t.ala.epoch = e

theorem onEpochStart_turn {s : State} (r : EpochReport) {t0 : Tick} (sure : s.fcl.provisional = false) (past : 6 ≤ s.boot.step)
    (up : s.boot.step ≠ 15) (uncut : s.hkp.hardCut = false) (unstopped : s.hkp.orderly = false)
    (due : now (advance t0 s) % epochTicks < 64) : EpochTurn r (epochNow (advance t0 s)) s (onEpochStart r t0 s) := by
  unfold onEpochStart
  extract_lets a e b c d _ _ _ late f g _
  have first : a = advance t0 s := confirmClear_of_not_provisional sure
  have step : a.boot.step = s.boot.step := by rw [first]; rfl
  have present : now a = now (advance t0 s) := by rw [first]
  have started : ¬ ((decide (a.boot.step < 6) || decide (a.boot.step = 15) || decide (64 ≤ now a % epochTicks)) = true) := by
    rw [step, present, decide_eq_false (by omega), decide_eq_false up, decide_eq_false (not_le.mpr due)]
    exact Bool.false_ne_true
  have visited : Keeps (besideAla &&& besideHkp) a b :=
    .ite (startupEpoch_keeps (by decide) .rfl') (graftEpoch_keeps _ (by decide) .rfl')
  have corrected : Keeps (besideAla &&& besideHkp) a c := .ite (alignBoundary_keeps (by decide) visited) visited
  have ala : c.ala = s.ala := (corrected.same .ala (by decide)).trans (by rw [first]; rfl)
  have hkp : c.hkp = s.hkp := (corrected.same .hkp (by decide)).trans (by rw [first]; rfl)
  rw [if_neg started, if_neg (by rw [hkp, uncut]; exact Bool.false_ne_true), if_neg (by rw [hkp, unstopped]; exact Bool.false_ne_true)]
  have number : e = epochNow (advance t0 s) := congrArg epochNow first
  have reported : f.ala.report = heldOut s r := by
    have taken_ : d.ala.report = heldOut s r := by rw [heldOut, ← ala]; rfl
    clear_value d
    unfold f
    split
    · exact (installGrant_report ..).trans taken_
    · exact taken_
  have granted (g : AlaGrant) (ready : s.ala.ready = some g) : f.ala.grant = g.record ∧ f.ala.epoch = epochNow (advance t0 s) := by
    have known : d.ala.ready = some g := (congrArg AlaSt.ready ala).trans ready
    rw [← number]
    clear_value d
    unfold f
    rw [known]
    exact installGrant_grant e g d
  clear_value f
  have told : g.ala = f.ala := by
    unfold g
    split <;> rfl
  clear_value g
  exact ⟨rfl, (congrArg AlaSt.report told).trans reported, fun g ready => by
    obtain ⟨grant, epoch⟩ := granted g ready
    exact ⟨(congrArg AlaSt.grant told).trans grant, (congrArg AlaSt.epoch told).trans epoch⟩⟩

/-- The events of a ladder grant leave its computation. -/
theorem ladderEvents_computing (g : AlaGrant) (s : State) : (ladderEvents g s).ala.computing = s.ala.computing := by
  unfold ladderEvents
  extract_lets b c over_ d _
  have fitted : b.ala = s.ala := Keeps.same (fitEvents_keeps g (w := besideAla) (by decide) .rfl') .ala (by decide)
  clear_value b
  have rungs : c.ala = b.ala := by
    unfold c
    split
    · rfl
    · split <;> rfl
  clear_value c
  have emitter : d.ala = c.ala := by
    unfold d
    split <;> rfl
  clear_value d
  show d.ala.computing = s.ala.computing
  rw [emitter, rungs, fitted]

/-- The computation that an epoch began ends with its grant ready. -/
theorem computeGrant_ready (e : Nat) (s : State) :
    (computeGrant e s).ala.ready.isSome = true ∧ (computeGrant e s).ala.computing = s.ala.computing := by
  unfold computeGrant
  split
  case h_1 r _ =>
    extract_lets g a _
    have kept : Keeps besideAla s a := schedEvents_keeps _ (by decide) .rfl'
    have same : a.ala = s.ala := kept.same .ala (by decide)
    clear_value a
    exact ⟨rfl, show a.ala.computing = s.ala.computing from congrArg AlaSt.computing same⟩
  case h_2 =>
    extract_lets g a _
    have same : a.ala.computing = s.ala.computing := ladderEvents_computing g s
    clear_value a
    exact ⟨rfl, same⟩

theorem onGrantComputed_ready {s : State} {r : EpochReport} (t0 : Tick) (running : s.ala.computing = some r) :
    (onGrantComputed t0 s).ala.computing = none ∧ (onGrantComputed t0 s).ala.ready.isSome = true := by
  unfold onGrantComputed
  extract_lets a _
  split
  case h_1 idle => exact absurd (idle.symm.trans running) (by simp)
  case h_2 =>
    obtain ⟨ready, computing⟩ := computeGrant_ready (epochNow a + 1) { a with ala := { a.ala with computing := none } }
    exact ⟨computing, ready⟩
/-! ### The housekeeping round -/

/-- What keeps housekeeping keeps its count of rounds. -/
theorem rounds_of_keeps {s t : State} (kept : Keeps besideHkp s t) : t.hkp.rounds = s.hkp.rounds :=
  congrArg HkpSt.rounds (show t.hkp = s.hkp from kept.same .hkp (by decide))

theorem confirmClear_rounds (s : State) : (confirmClear s).hkp.rounds = s.hkp.rounds := by
  unfold confirmClear
  extract_lets late
  split <;> rfl

theorem sensorRound_rounds (i : Nat) (r : SensorReading) (s : State) : (sensorRound i r s).hkp.rounds = s.hkp.rounds := by
  unfold sensorRound
  extract_lets x stuck broken a
  split <;> rfl

theorem suspectRound_rounds (m : Int) (i : Nat) (s : State) : (suspectRound m i s).hkp.rounds = s.hkp.rounds := by
  unfold suspectRound
  extract_lets x sus a
  split <;> rfl

theorem nbhdRound_rounds (n : Nat) (s : State) : (nbhdRound n s).hkp.rounds = s.hkp.rounds := by
  unfold nbhdRound
  extract_lets m a bad hot was _ b
  have judged : a.hkp.rounds = s.hkp.rounds :=
    (suspectRound_rounds ..).trans ((suspectRound_rounds ..).trans (suspectRound_rounds ..))
  clear_value a
  split
  · exact judged
  · exact judged

theorem biasTemps_rounds (s : State) : (biasTemps s).hkp.rounds = s.hkp.rounds := by
  unfold biasTemps
  extract_lets valid
  split <;> rfl

theorem supplyRound_rounds (i mv : Nat) (s : State) : (supplyRound i mv s).hkp.rounds = s.hkp.rounds := by
  unfold supplyRound
  extract_lets x run y _ a
  split <;> rfl

theorem hkAuxRound_rounds (n : Nat) (s : State) : (hkAuxRound n s).hkp.rounds = s.hkp.rounds := by
  unfold hkAuxRound
  split
  · rfl
  · extract_lets c x new age bad a _ b
    split <;> rfl

/-- A stop keeps the count of rounds. -/
theorem orderlyStart_rounds (s : State) : (orderlyStart s).hkp.rounds = s.hkp.rounds := by
  unfold orderlyStart
  split <;> rfl

theorem orderlyStop_rounds (c m : Nat) (s : State) : (orderlyStop c m s).hkp.rounds = s.hkp.rounds := by
  unfold orderlyStop
  extract_lets a _
  have stopped : a.hkp.rounds = (orderlyStart s).hkp.rounds :=
    rounds_of_keeps (fault_keeps _ _ _ _ _ (by decide) (partStop_keeps (by decide) .rfl'))
  exact stopped.trans (orderlyStart_rounds s)

theorem hardCut_rounds (c m : Nat) (s : State) : (hardCut c m s).hkp.rounds = s.hkp.rounds := by
  unfold hardCut
  extract_lets a
  have discarded : a.hkp.rounds = s.hkp.rounds :=
    rounds_of_keeps (fault_keeps _ _ _ _ _ (by decide) (partStop_keeps (by decide) (drivesLow_keeps (by decide)
      (discardRunning_keeps (by decide) .rfl'))))
  clear_value a
  exact (rounds_of_keeps (installStop_keeps _ _ (by decide) .rfl')).trans discarded

theorem stopRound_rounds (s : State) : (stopRound s).hkp.rounds = s.hkp.rounds := by
  unfold stopRound
  split
  · rfl
  · split
    · exact hardCut_rounds ..
    · split
      · rfl
      · split
        · exact orderlyStop_rounds ..
        · split
          · exact orderlyStop_rounds ..
          · rfl

theorem bandRound_rounds (s : State) : (bandRound s).hkp.rounds = s.hkp.rounds := by
  unfold bandRound
  extract_lets b
  split <;> rfl

/-- A round at the time of its decisions counts one. -/
theorem onHousekeepingRound_rounds {s : State} (r : HkRound) {t0 : Tick} (running : s.tb.running = true)
    (due : now (advance t0 s) % roundTicks / 64 = decisionTicks / 64) :
    (onHousekeepingRound r t0 s).hkp.rounds = s.hkp.rounds + 1 := by
  unfold onHousekeepingRound
  extract_lets a _ b c d tj _ e f g _ h i j k
  have decided : ¬ ((!a.tb.running || decide (now a % roundTicks / 64 ≠ decisionTicks / 64)) = true) := by
    rw [show a.tb.running = true from running, decide_eq_false (not_not.mpr due)]
    exact Bool.false_ne_true
  rw [if_neg decided]
  have counted : b.hkp.rounds = s.hkp.rounds + 1 := confirmClear_rounds _
  have sensed : c.hkp.rounds = b.hkp.rounds := foldl_kept (g := fun s => s.hkp.rounds) (fun s (p : SensorReading × Nat) => sensorRound_rounds p.2 p.1 s) _ _
  clear_value c
  have judged : d.hkp.rounds = c.hkp.rounds := by
    unfold d
    generalize List.range 8 = places
    exact foldl_kept (g := fun s => s.hkp.rounds) (fun s n => nbhdRound_rounds n s) places c
  clear_value d
  have biased : e.hkp.rounds = d.hkp.rounds := biasTemps_rounds _
  clear_value e
  have supplied : f.hkp.rounds = e.hkp.rounds := foldl_kept (g := fun s => s.hkp.rounds) (fun s (p : Nat × Nat) => supplyRound_rounds p.2 p.1 s) _ _
  clear_value f
  have aux : g.hkp.rounds = f.hkp.rounds := by
    unfold g
    generalize List.range 8 = channels
    exact foldl_kept (g := fun s => s.hkp.rounds) (fun s n => hkAuxRound_rounds n s) channels f
  have stopped : i.hkp.rounds = g.hkp.rounds :=
    calc i.hkp.rounds
      _ = (throttleRound (reraise (stopRound h))).hkp.rounds := bandRound_rounds _
      _ = (stopRound h).hkp.rounds := rounds_of_keeps (throttleRound_keeps (by decide) (reraise_keeps (by decide) .rfl'))
      _ = h.hkp.rounds := stopRound_rounds h
      _ = g.hkp.rounds := rfl
  have looped : j.hkp.rounds = i.hkp.rounds :=
    rounds_of_keeps (dtsRound_keeps (by decide) (warmRound_keeps (by decide) (cleRound_keeps (by decide) .rfl')))
  have checked : k.hkp.rounds = j.hkp.rounds :=
    foldl_kept (g := fun s => s.hkp.rounds) (fun s (p : Nat × Nat) => rounds_of_keeps (biasRound_keeps p.2 p.1 (by decide) .rfl')) _ _
  calc (padRound r.errP r.errN k).hkp.rounds
    _ = k.hkp.rounds := rounds_of_keeps (padRound_keeps _ _ (by decide) .rfl')
    _ = s.hkp.rounds + 1 := by rw [checked, looped, stopped, aux, supplied, biased, judged, sensed, counted]

/-! ### Stops -/

/-- The hard cut shows its cause `c` and its monitor `m`. -/
theorem hardCut_hkp (c m : Nat) (s : State) :
    (hardCut c m s).hkp.hardCut = true ∧ (hardCut c m s).hkp.cause = c ∧ (hardCut c m s).hkp.monitor = m := by
  unfold hardCut
  extract_lets a esq hkp
  clear_value a
  have kept (u : State) : Keeps besideHkp u (installStop (epochNow a) stopHolds u) := installStop_keeps _ _ (by decide) .rfl'
  have same (u : State) : (installStop (epochNow a) stopHolds u).hkp = u.hkp := (kept u).same .hkp (by decide)
  rw [same]
  exact ⟨rfl, rfl, rfl⟩

/-- The hard cut stops the sequencer and discards its column. -/
theorem hardCut_esq (c m : Nat) (s : State) : (hardCut c m s).esq.stopped = true ∧ (hardCut c m s).esq.col.active = false := by
  unfold hardCut
  extract_lets a esq hkp
  have discarded : a.esq = (drivesLow (discardRunning s)).esq :=
    Keeps.same (fault_keeps _ _ _ _ _ (w := besideEsq) (by decide) (partStop_keeps (by decide) .rfl')) .esq (by decide)
  have column : a.esq.col.active = false := by rw [discarded]; rfl
  clear_value a
  have kept (u : State) : Keeps besideEsq u (installStop (epochNow a) stopHolds u) := installStop_keeps _ _ (by decide) .rfl'
  have same (u : State) : (installStop (epochNow a) stopHolds u).esq = u.esq := (kept u).same .esq (by decide)
  rw [same]
  exact ⟨rfl, column⟩

/-- A collapse of a monitor other than M8 after start-up is a hard cut of cause 4. -/
theorem onSupplyCollapse_cut {s : State} {m : Fin 12} (t0 : Tick) (other : m.val ≠ 8) (uncut : s.hkp.hardCut = false)
    (past : 6 ≤ s.boot.step) (up : s.boot.step ≠ 15) : ∃ u, onSupplyCollapse m t0 s = hardCut 4 m u := by
  unfold onSupplyCollapse
  extract_lets a x _ b
  have running : ¬ ((b.hkp.hardCut || decide (b.boot.step = 15)) = true) := by
    rw [show b.hkp.hardCut = false from uncut, decide_eq_false (show ¬ b.boot.step = 15 from up)]
    exact Bool.false_ne_true
  exact ⟨b, (if_neg other).trans ((if_neg running).trans (if_neg (show ¬ b.boot.step < 6 from not_lt.mpr past)))⟩

/-- At the stop's deadline what still runs is discarded. -/
theorem onStopDeadline_discards {s : State} {t0 : Tick} (stopping : s.hkp.orderly = true) (over_ : s.hkp.stopAt + stopMaxTicks ≤ t0) :
    onStopDeadline t0 s = discardRunning (advance t0 s) := by
  unfold onStopDeadline
  extract_lets a
  refine if_pos ?_
  rw [show a.hkp.orderly = true from stopping, decide_eq_true (show a.hkp.stopAt + stopMaxTicks ≤ t0 from over_)]
  rfl

/-- The drained queues put the stopping grant in force at the present epoch. -/
theorem onQueueDrainDone_drains {s : State} {t0 : Tick} (stopping : s.hkp.orderly = true) (undrained : s.hkp.drained = false) :
    (onQueueDrainDone t0 s).hkp.drained = true ∧ (onQueueDrainDone t0 s).ala.epoch = epochNow (advance t0 s) := by
  unfold onQueueDrainDone
  extract_lets a b hkp
  have draining : (a.hkp.orderly && !a.hkp.drained) = true := by
    rw [show a.hkp.orderly = true from stopping, show a.hkp.drained = false from undrained]
    rfl
  have time : b.tb = a.tb := foldl_kept (g := fun s => s.tb) (fun s (e : Nat × Queue) =>
    Keeps.same (cutQueue_keeps e (w := 281474976710655 - 2 ^ 6) (by decide) .rfl') .tb (by decide)) _ _
  have present : epochNow b = epochNow a := by rw [epochNow, now, time, ← now, ← epochNow]
  rw [if_pos draining]
  clear_value b
  have kept (e : Nat) (u : State) : Keeps besideHkp u (installStop e stopHolds u) := installStop_keeps _ _ (by decide) .rfl'
  have same (e : Nat) (u : State) : (installStop e stopHolds u).hkp = u.hkp := (kept e u).same .hkp (by decide)
  refine ⟨by rw [same], ?_⟩
  exact (installStop_epoch ..).trans present

/-- Settles O20: nothing on the way of these commands changes the arbiter, the round count or the stop but the steps that the clauses
name, so each part read after the command is the one its step wrote. -/
theorem arbiterAndHousekeepingCommandsComplete : Obligations.ArbiterAndHousekeepingCommandsComplete := by
  unfold Obligations.ArbiterAndHousekeepingCommandsComplete
  refine ⟨?epoch, ?computed, ?round, ?collapse, ?deadline, ?drained⟩
  case epoch =>
    intro s r t0 sure past up uncut unstopped due
    obtain ⟨computing, report, grant⟩ := onEpochStart_turn r sure past up uncut unstopped due
    exact completes rfl ⟨computing, report, grant⟩
  case computed =>
    intro s t0 r running
    exact completes rfl (onGrantComputed_ready t0 running)
  case round =>
    intro s r t0 running due
    exact completes rfl (onHousekeepingRound_rounds r running due)
  case collapse =>
    intro s m t0 other uncut past up
    refine completes rfl ?_
    obtain ⟨u, cut⟩ := onSupplyCollapse_cut t0 other uncut past up
    obtain ⟨hard, cause, monitor⟩ := hardCut_hkp 4 m u
    obtain ⟨stopped, column⟩ := hardCut_esq 4 m u
    rw [cut]
    exact ⟨hard, cause, monitor, stopped, column⟩
  case deadline =>
    intro s t0 stopping over_
    refine completes rfl ?_
    rw [onStopDeadline_discards stopping over_]
    exact ⟨rfl, rfl, rfl, rfl⟩
  case drained =>
    intro s t0 stopping undrained
    exact completes rfl (onQueueDrainDone_drains stopping undrained)

end Sys2Proof.Machine
end

section
/-! PROOFS. The time base (R42 to R47, R453): the core PLL's lock and its losses, and the warm criterion. -/

namespace Sys2Proof.Machine

/-- The lock of an enabled PLL that has none runs the time base. -/
theorem onTbPllLocked_locks {s : State} (enabled : s.tb.enabled = true) (unlocked : s.tb.pllLock = false) :
    onTbPllLocked s =
      raise 32 { s with tb := { s.tb with pllLock := true, refOk := true, holdover := false, everLock := true, running := true } } :=
  if_pos (by rw [enabled, unlocked]; rfl)

/-- A PLL that has never locked ends start-up in boot halt. -/
theorem onTbPllLockTimeout_halts {s : State} (enabled : s.tb.enabled = true) (never : s.tb.everLock = false) (up : s.boot.step ≠ 15) :
    onTbPllLockTimeout s = bootHalt (fault 6 Src.boot 0 .fatal 0 s) :=
  if_pos (by rw [enabled, never, decide_eq_true up]; rfl)

/-- A loss leaves the time base unlocked and in holdover, and stops acquisition. -/
structure TimeBaseLost (t : State) : Prop where
  pllLock : t.tb.pllLock = false
  holdover : t.tb.holdover = true
  stopped : t.esq.stopped = true
  column : t.esq.col.active = false
  sweep : t.fib.active = false

theorem tbLost_lost (evt bit : Nat) (s : State) : TimeBaseLost (tbLost evt bit s) := ⟨rfl, rfl, rfl, rfl, rfl⟩

theorem onTbsPllLockLost_loses {s : State} (t0 : Tick) (ever : s.tb.everLock = true) (locked : s.tb.pllLock = true) :
    onTbsPllLockLost t0 s = tbLost 33 0 (advance t0 s) := by
  unfold onTbsPllLockLost
  extract_lets a
  exact if_pos (by rw [show a.tb.everLock = true from ever, show a.tb.pllLock = true from locked]; rfl)

/-- With its reference the part loses the lock as well. -/
theorem onTbsRefLost_loses {s : State} (t0 : Tick) (ever : s.tb.everLock = true) (present : s.tb.refOk = true) :
    onTbsRefLost t0 s = { tbLost 34 1 (advance t0 s) with tb := { (tbLost 34 1 (advance t0 s)).tb with refOk := false } } := by
  unfold onTbsRefLost
  extract_lets a b _
  exact if_pos (by rw [show a.tb.everLock = true from ever, show a.tb.refOk = true from present]; rfl)

/-- Once the hold has lasted warm_hold the part is warm. -/
theorem onTbsWarm_warms {s : State} (started : s.tb.started = true) (cold : s.tb.warm = false) (lasted : warmRounds s ≤ s.tb.held) :
    onTbsWarm s = raise 35 { s with tb := { s.tb with warm := true } } :=
  if_pos (by rw [started, cold, decide_eq_true lasted]; rfl)

/-- Settles O19: in each clause the guard of the command holds, and the step it guards writes the conditions claimed. -/
theorem timeBaseCommandsComplete : Obligations.TimeBaseCommandsComplete := by
  unfold Obligations.TimeBaseCommandsComplete
  refine ⟨?locked, ?timeout, ?lockLost, ?refLost, ?warm⟩
  case locked =>
    intro s enabled unlocked
    refine completes rfl ?_
    rw [onTbPllLocked_locks enabled unlocked]
    exact ⟨rfl, rfl, rfl, rfl, rfl⟩
  case timeout =>
    intro s enabled never up
    refine completes rfl ?_
    rw [onTbPllLockTimeout_halts enabled never up]
    exact ⟨bootHalt_step _, bootHalt_running _⟩
  case lockLost =>
    intro s t0 ever locked
    refine completes rfl ?_
    rw [onTbsPllLockLost_loses t0 ever locked]
    obtain ⟨lock, holdover, stopped, column, sweep⟩ := tbLost_lost 33 0 (advance t0 s)
    exact ⟨lock, holdover, stopped, column, sweep⟩
  case refLost =>
    intro s t0 ever present
    refine completes rfl ?_
    rw [onTbsRefLost_loses t0 ever present]
    obtain ⟨lock, holdover, stopped, column, -⟩ := tbLost_lost 34 1 (advance t0 s)
    exact ⟨rfl, lock, holdover, stopped, column⟩
  case warm =>
    intro s started cold lasted
    refine completes rfl ?_
    rw [onTbsWarm_warms started cold lasted]
    rfl

end Sys2Proof.Machine
end

section
/-! PROOFS. Start-up (R66, R105, R389, R431, R450, R451, R453): POR_N, the directory and the choice of a slot, staging and commit, BIST,
the Cloche's self-test, calibration and the rails. -/

namespace Sys2Proof.Machine

/-- Every part of the state but start-up's own. -/
def besideBoot : Nat := 281474976710655 - 2 ^ 3

theorem step_of_keeps {s t : State} (kept : Keeps besideBoot s t) : t.boot.step = s.boot.step := by
  obtain ⟨step, -⟩ := kept.same .boot (by decide)
  exact step

theorem candidates_of_keeps {s t : State} (kept : Keeps besideBoot s t) : t.boot.candidates = s.boot.candidates := by
  obtain ⟨-, -, -, -, -, candidates, -⟩ := kept.same .boot (by decide)
  exact candidates

/-! ### Step 3: the directory and the slots -/

/-- The state in which the slots of a device with a valid first directory copy are judged. -/
def headersRead (r : NvmRead) (s : State) : State :=
  { s with
    boot := { s.boot with nvmMiB := r.sizeMiB, dirCopy := 1, slotSize := leAt r.dir0 12 4 },
    nvm := { s.nvm with dir0 := r.dir0, dir1 := r.dir1, safety := r.safety },
    sec := { s.sec with katOk := true } }

theorem onNvmHeadersRead_judges {s : State} {r : NvmRead} (step : s.boot.step = 3) (mode : s.boot.mode ≠ 2) (present : r.present = true)
    (least : 32 ≤ r.sizeMiB) (most : r.sizeMiB ≤ 256) (holds : dirHolds r.dir0 (r.sizeMiB * 1048576) = true) (kat : r.katOk = true) :
    onNvmHeadersRead r s = judgeSlots r (headersRead r s) := by
  have inLimits : ¬ (!r.present || r.sizeMiB < 32 || 256 < r.sizeMiB) = true := by simp [present, least, most]
  rw [onNvmHeadersRead, if_neg (not_not.mpr step), if_neg inLimits]
  simp only [if_pos holds, afterDirectory, kat, Bool.not_true, Bool.false_eq_true, if_false, if_true, one_ne_zero]
  exact if_neg mode

/-- A failed slot shows its cause in the slot's own fields. -/
theorem slotFails_candidates (k cause : Nat) (s : State) : (slotFails k cause s).boot.candidates = s.boot.candidates := by
  unfold slotFails
  extract_lets a
  split <;> rfl
theorem slotFails_step (k cause : Nat) (s : State) : (slotFails k cause s).boot.step = s.boot.step := by
  unfold slotFails
  extract_lets a
  split <;> rfl

theorem slotFails_dirCopy (k cause : Nat) (s : State) : (slotFails k cause s).boot.dirCopy = s.boot.dirCopy := by
  unfold slotFails
  extract_lets a
  split <;> rfl

/-- A slot A without a fault of its own is a candidate, and step 4 begins. -/
theorem judgeSlots_stages {r : NvmRead} {s : State} (sound : headerCause s r.hdrA s.boot.slotSize = 0) :
    (judgeSlots r s).boot.step = 4 ∧ 0 ∈ (judgeSlots r s).boot.candidates ∧ (judgeSlots r s).boot.dirCopy = s.boot.dirCopy ∧
      (judgeSlots r s).nvm = s.nvm ∧ (judgeSlots r s).sec = s.sec := by
  unfold judgeSlots
  extract_lets a b l _ c d e _
  have first : a.cause = 0 := sound
  have candidate : 0 ∈ l := by
    unfold l candidateOrder
    rw [if_pos first]
    split
    · split
      · exact List.mem_cons_of_mem _ (List.mem_singleton.mpr rfl)
      · exact List.mem_cons_self
    · exact List.mem_singleton.mpr rfl
  have some_ : ¬ l.isEmpty = true := by
    rw [List.isEmpty_iff]
    exact List.ne_nil_of_mem candidate
  have unfailed : d = c := if_neg (not_not.mpr first)
  have judged : e.boot.candidates = l ∧ e.boot.dirCopy = s.boot.dirCopy ∧ e.nvm = s.nvm ∧ e.sec = s.sec := by
    unfold e
    rw [unfailed]
    split
    · have kept : Keeps (281474976710655 - 2 ^ 4 - 2 ^ 5) c (slotFails 1 b.cause c) := slotFails_keeps _ _ (by decide) .rfl'
      exact ⟨slotFails_candidates .., slotFails_dirCopy .., kept.same .nvm (by decide), kept.same .sec (by decide)⟩
    · exact ⟨rfl, rfl, rfl, rfl⟩
  obtain ⟨candidates, copy, nvm, sec⟩ := judged
  rw [if_neg some_]
  exact ⟨rfl, candidates ▸ candidate, copy, nvm, sec⟩

/-! ### Steps 4 and 5: staging and commit -/

/-- The commit runs the slot `slot` with the records `recs`. -/
theorem commitImage_runs (slot ms : Nat) (img : List Byte) (recs : List ImgRec) (s : State) :
    (commitImage slot ms img recs s).boot.step = 6 ∧ (commitImage slot ms img recs s).boot.running = slot ∧
      (commitImage slot ms img recs s).cfg.recs = recs ∧ (commitImage slot ms img recs s).tb.enabled = true := by
  unfold commitImage
  extract_lets a _ b fb _ _ c d e
  have records : b.cfg.recs = recs := by
    have loaded : Keeps (281474976710655 - 2 ^ 1) { s with cfg := { recs := recs, applied := false } } a :=
      tinLoad_keeps (by decide) (loadRegs_keeps _ (by decide) .rfl')
    have same : a.cfg = { recs := recs, applied := false } := loaded.same .cfg (by decide)
    have recs_ : a.cfg.recs = recs := by rw [same]
    clear_value a
    unfold b
    split <;> exact recs_
  clear_value b
  have enabled : d = raise 5 c ∨ d = c := by
    unfold d
    split
    · exact .inl rfl
    · exact .inr rfl
  have grants : Keeps (281474976710655 - 2 ^ 1 - 2 ^ 3 - 2 ^ 6) d (raise 10 (firstGrant e)) := by
    refine raise_keeps _ (by decide) (firstGrant_keeps (by decide) ?_)
    refine .ite ?_ .rfl'
    exact List.foldlRecOn (motive := Keeps _ d) (List.range 32) _ .rfl' fun t kept k _ => biasEnable_keeps k true (by decide) kept
  obtain ⟨step, -, -, -, -, -, -, running, -⟩ := grants.same .boot (by decide)
  have cfg : (raise 10 (firstGrant e)).cfg = d.cfg := grants.same .cfg (by decide)
  have tb : (raise 10 (firstGrant e)).tb = d.tb := grants.same .tb (by decide)
  rw [step, running, cfg, tb]
  rcases enabled with told | same
  · rw [told]
    exact ⟨rfl, rfl, records, rfl⟩
  · rw [same]
    exact ⟨rfl, rfl, records, rfl⟩

/-- The failure of the candidate in front leaves those behind it, in step 4. -/
theorem candidateFails_candidates (k cause : Nat) {s : State} {c : Nat} {l : List Nat} (front : s.boot.candidates = c :: l) (step : s.boot.step = 4) :
    (candidateFails k cause s).boot.candidates = l ∧ (l ≠ [] → (candidateFails k cause s).boot.step = 4) := by
  unfold candidateFails
  extract_lets a _ b
  have rest : b.boot.candidates = l := by
    show a.boot.candidates.drop 1 = l
    rw [show a.boot.candidates = c :: l from (slotFails_candidates ..).trans front]
    rfl
  have still : b.boot.step = 4 := by
    show a.boot.step = 4
    exact (slotFails_step ..).trans step
  split
  case isTrue empty =>
    have nil : l = [] := List.isEmpty_iff.mp (rest ▸ empty)
    exact ⟨nil.symm, fun some_ => absurd nil some_⟩
  case isFalse =>
    exact ⟨rest, fun _ => still⟩


theorem onImageStageDone_ok {s : State} {bytes : List Byte} {ecc : Bool} {ms k : Nat} {l : List Nat} {recs : List ImgRec}
    (step : s.boot.step = 4) (front : s.boot.candidates = k :: l)
    (verdict : (imageVerdict s bytes s.boot.slotSize ecc).2 = .ok recs) :
    onImageStageDone bytes ecc ms s = commitImage (k + 1) ms bytes recs s := by
  unfold onImageStageDone
  rw [front]
  dsimp only
  rw [if_neg (not_not.mpr step), verdict]

theorem onImageStageDone_fail {s : State} {bytes : List Byte} {ecc : Bool} {ms k i t : Nat} {l : List Nat} (step : s.boot.step = 4)
    (front : s.boot.candidates = k :: l) (verdict : (imageVerdict s bytes s.boot.slotSize ecc).2 = .fail i t) :
    (onImageStageDone bytes ecc ms s).boot.candidates = l ∧ (l ≠ [] → (onImageStageDone bytes ecc ms s).boot.step = 4) := by
  unfold onImageStageDone
  rw [front]
  dsimp only
  rw [if_neg (not_not.mpr step), verdict]
  dsimp only
  split
  · exact candidateFails_candidates _ _ (s := recordFails i t s) front step
  · exact candidateFails_candidates _ _ front step

/-! ### Step 6: BIST -/

/-- The M-tier bytes needed depend on the image and on the part's address alone. -/
theorem mtNeed_of_recs {s t : State} (recs : ∀ type, recsOf t type = recsOf s type) : mtNeed t = mtNeed s := by
  unfold mtNeed slotBase
  have buffers : slotBuffers t = slotBuffers s := by
    funext slot
    unfold slotBuffers recWhere
    rw [recs]
  have units : unitRec t = unitRec s := by
    funext u
    unfold unitRec recWhere
    rw [recs]
  rw [buffers, units]

theorem mtNeedMax_of_cfg {s t : State} (cfg : t.cfg = s.cfg) (addr : t.trl.addr = s.trl.addr) : mtNeedMax t = mtNeedMax s := by
  have here : (cascRec t).isSome = (cascRec s).isSome := by
    unfold cascRec recOf recsOf
    rw [cfg, addr]
  have each (a : Nat) : mtNeed { t with cfg := { t.cfg with applied := true }, trl := { t.trl with addr := a } } =
      mtNeed { s with cfg := { s.cfg with applied := true }, trl := { s.trl with addr := a } } :=
    mtNeed_of_recs fun type => by
      unfold recsOf
      rw [cfg]
  unfold mtNeedMax
  rw [here]
  simp only [each]

theorem startCycle_boot (k : Nat) (kind : CalKind) (t : Tick) (s : State) : (startCycle k kind t s).boot = s.boot := by
  unfold startCycle
  extract_lets a c n
  show a.boot = s.boot
  unfold a
  split <;> rfl

/-- Start-up calibration is step 8. -/
theorem calBegin_step (t : Tick) (s : State) : (calBegin t s).boot = { s.boot with step := 8 } := by
  unfold calBegin
  extract_lets _ _ a
  have began : (((List.range 52).foldl (fun s k =>
      if decide (32 ≤ k) || (hasLidar s && !isFenced s (Unit.strip k)) then startCycle k .startup t s else s) a)).boot = a.boot := by
    generalize List.range 52 = strips
    refine foldl_kept (g := fun s => s.boot) (fun s k => ?_) strips a
    split
    · exact startCycle_boot ..
    · rfl
  exact began

/-- BIST ends with the SRAM sound and room for the image: the Cloche's self-test is waited for, or calibration begins. -/
theorem onBistDone_goesOn {s : State} {f : BitVec 8} (t0 : Tick) (step : s.boot.step = 6)
    (room : mtNeedMax s ≤ (8 - ((List.range 8).filter fun b => f.getLsbD b).length) * 32 * mib) :
    (onBistDone true f t0 s).boot.bistDone = true ∧ (onBistDone true f t0 s).boot.bistBanks = f ∧
      (onBistDone true f t0 s).boot.step = if s.clo.passed then 8 else 7 := by
  unfold onBistDone
  extract_lets a _ bad b _ c
  have kept : Keeps (281474976710655 - 2 ^ 1 - 2 ^ 29 - 2 ^ 31) a b := by
    unfold b
    exact List.foldlRecOn (motive := Keeps _ a) bad _ .rfl' fun t kept k _ =>
      stick_keeps _ _ (by decide) (fault_keeps _ _ _ _ _ (by decide) kept)
  have cfg : b.cfg = a.cfg := kept.same .cfg (by decide)
  obtain ⟨addr, -⟩ := kept.same .cascade (by decide)
  obtain ⟨-, -, -, -, -, -, passed, -⟩ := kept.same .cloche (by decide)
  have need : mtNeedMax c = mtNeedMax s := mtNeedMax_of_cfg cfg addr
  clear_value b
  rw [if_neg (not_not.mpr (show a.boot.step = 6 from step)), if_neg (by decide), if_neg (by rw [need]; exact not_lt.mpr room),
    show c.clo.passed = s.clo.passed from passed]
  split
  · rw [calBegin_step]
    exact ⟨rfl, rfl, rfl⟩
  · exact ⟨rfl, rfl, rfl⟩

/-! ### Step 7: the Cloche's self-test -/

theorem cloSelfTest_passes {r : SelfTest} {s : State} (block : (blockInForce s).isSome = true) (sound : selfTestOk (cloStart s) r = true) :
    (cloSelfTest r s).2 = true ∧ (cloSelfTest r s).1.clo.passed = true := by
  unfold cloSelfTest
  extract_lets known a _ b c
  rw [if_neg (by rw [show known = true from block]; exact Bool.false_ne_true),
    if_neg (by rw [show selfTestOk a r = true from sound]; exact Bool.false_ne_true)]
  refine ⟨rfl, ?_⟩
  have stopped : c.clo.passed = b.clo.passed := by
    unfold c
    generalize usedChains b = chains
    exact foldl_kept (g := fun s => s.clo.passed) (fun s c => show (stopChain c s).clo.passed = s.clo.passed from rfl) chains b
  dsimp only
  split
  · exact stopped
  · exact stopped

/-- A Cloche that passes its self-test lets start-up go on: to calibration when BIST is done. -/
theorem onClocheSelftestDone_passes {s : State} {r : SelfTest} {t0 : Tick} (step : s.boot.step = 6 ∨ s.boot.step = 7)
    (untested : s.clo.passed = false) (block : (blockInForce (advance t0 s)).isSome = true)
    (sound : selfTestOk (cloStart (advance t0 s)) r = true) :
    (onClocheSelftestDone r t0 s).clo.passed = true ∧
      (onClocheSelftestDone r t0 s).boot.step = if s.boot.bistDone then 8 else s.boot.step := by
  unfold onClocheSelftestDone
  extract_lets a x
  have due : ¬ (((a.boot.step ≠ 6 && a.boot.step ≠ 7) || a.clo.passed) = true) := by
    rw [show a.clo.passed = false from untested]
    rcases step with six | seven
    · rw [show a.boot.step = 6 from six]
      decide
    · rw [show a.boot.step = 7 from seven]
      decide
  obtain ⟨ok, passed⟩ := cloSelfTest_passes block sound
  have kept : Keeps besideBoot a x.1 := cloSelfTest_keeps r (by decide) .rfl'
  obtain ⟨at_, -, -, -, -, -, -, -, -, -, -, -, -, -, -, -, -, -, -, -, -, -, -, -, bist⟩ := kept.same .boot (by decide)
  rw [if_neg due, if_neg (by rw [show x.2 = true from ok]; exact Bool.false_ne_true), show x.1.boot.bistDone = s.boot.bistDone from bist]
  have live : x.1.clo.passed = true := passed
  clear_value x
  split
  · have began : Keeps (281474976710655 - 2 ^ 31) x.1 (calBegin t0 x.1) := calBegin_keeps _ (by decide) .rfl'
    obtain ⟨-, -, -, -, -, -, same, -⟩ := began.same .cloche (by decide)
    exact ⟨same.trans live, congrArg BootSt.step (calBegin_step t0 x.1)⟩
  · exact ⟨live, at_⟩

/-! ### Steps 8 and 10: calibration and rails -/

/-- While the lower port waits for its part, enumeration has not settled. -/
theorem linkSettled_waits {s : State} (waits : s.plk.dn.state = 1) : linkSettled s = s := by
  unfold linkSettled
  extract_lets waiting
  refine if_pos ?_
  rw [show waiting .dn = true from decide_eq_true waits, Bool.or_true]

/-- Start-up goes to the ports, and they wait. -/
theorem linkBegin_waits (s : State) : (linkBegin s).boot = s.boot ∧ (linkBegin s).tdc = s.tdc := by
  unfold linkBegin
  extract_lets a
  rw [linkSettled_waits]
  · split <;> exact ⟨rfl, rfl⟩
  · split <;> rfl

theorem onStartupCalDone_ends {s : State} (t0 : Tick) (step : s.boot.step = 8) (mapped : hasLidar s = true → s.pfe.mapValid = true)
    (idle : ∀ k < 52, (calOf s k).phase = .idle) :
    (onStartupCalDone t0 s).tdc.calDone = true ∧ (onStartupCalDone t0 s).tdc.calEnd = t0 ∧ (onStartupCalDone t0 s).boot.step = 9 := by
  unfold onStartupCalDone
  extract_lets a _ _ _
  have lidar : hasLidar a = hasLidar s := rfl
  have dark : (!hasLidar a || a.pfe.mapValid) = true := by
    rw [lidar, Bool.or_eq_true, Bool.not_eq_true']
    by_cases h : hasLidar s = true
    · exact .inr (mapped h)
    · exact .inl (eq_false_of_ne_true h)
  have ended : ((List.range 52).all fun k => decide ((calOf a k).phase = .idle)) = true := by
    rw [List.all_eq_true]
    exact fun k mem => decide_eq_true (idle k (List.mem_range.mp mem))
  rw [if_pos (by rw [dark, ended, show a.boot.step = 8 from step]; rfl)]
  have waits (u : State) : (linkBegin u).boot = u.boot ∧ (linkBegin u).tdc = u.tdc := linkBegin_waits u
  rw [(waits _).1, (waits _).2]
  exact ⟨rfl, rfl, rfl⟩

/-- The measured rail is done, whatever it crossed. -/
theorem railMeasured_done (r : Nat) (time : Option Nat) (s : State) : (railOf (railMeasured r time s) r).done = true := by
  unfold railMeasured
  extract_lets a x bs
  have recorded : (railOf a r).done = true := by
    unfold a railRecord
    extract_lets tmin tmax crossed short absent_
    rw [railOf, setRail, Tab.lookD_put_same]
  have fenced : (if x.short || (x.absent && !bs.isEmpty) then fenceBanks 148 bs (raise 148 a) else a).esq = a.esq := by
    split
    · exact fenceBanks_esq ..
    · rfl
  rw [railOf, fenced]
  exact recorded

theorem onRailMeasureDone_done {s : State} {rail : Fin 4} (time : Option Nat) (t0 : Tick) (step : s.boot.step = 10)
    (turn : railMeasuring s = some rail.val) : (railOf (onRailMeasureDone rail time t0 s) rail).done = true := by
  unfold onRailMeasureDone
  extract_lets a b _ _
  have due : (a.boot.step = 10 && decide (railMeasuring a = some rail.val)) = true := by
    rw [show railMeasuring a = railMeasuring s from rfl, turn, show a.boot.step = 10 from step, decide_eq_true rfl,
      decide_eq_true rfl]
    rfl
  rw [if_pos due]
  have done : (railOf b rail).done = true := railMeasured_done ..
  clear_value b
  split
  · exact done
  · exact done

end Sys2Proof.Machine
end

section
/-! PROOFS. The first frame (R451 step 11): what a boundary leaves of the time that start-up took. An item of frame 0 shows the time of
its emission after the frame's begin, and until the first one the boundary passes no time. The start-up commands are settled last. -/

namespace Sys2Proof.Machine

/-- Every part of the state but start-up's, its first item, and the time base. -/
def besideFirst : Nat := 281474976710655 - 2 ^ 2 - 2 ^ 3 - 2 ^ 6

/-! ### The time of the first item -/

/-- TB time has come to tick `t`: up to there no time is left to pass. -/
def Reached (t : Tick) (s : State) : Prop := s.tb.running = true → (((t : Int) - s.tb.phi) / 64).toNat ≤ s.tb.n

theorem advance_reached (t : Tick) (s : State) : Reached t (advance t s) := by
  intro running
  show _ ≤ (if s.tb.running then max s.tb.n ((((t : Int) - s.tb.phi) / 64).toNat) else s.tb.n)
  rw [if_pos (show s.tb.running = true from running)]
  exact le_max_right ..

theorem advance_of_reached {t u : Tick} {s : State} (reached : Reached t s) (before : u ≤ t) : advance u s = s := by
  have same : (if s.tb.running then max s.tb.n ((((u : Int) - s.tb.phi) / 64).toNat) else s.tb.n) = s.tb.n := by
    split
    case isTrue running =>
      have here := reached running
      refine max_eq_left (le_trans (Int.toNat_le_toNat (Int.ediv_le_ediv (by decide) ?_)) here)
      exact Int.sub_le_sub_right (Int.ofNat_le.mpr before) _
    case isFalse => rfl
  unfold advance
  rw [same]

/-- Start-up has taken `ms` milliseconds to its first item: that item is made (`due` says whether it may still be due), or TB time has
come to `t` and stands where the frame began. -/
structure FirstSettled (due : Bool) (t : Tick) (ms : Nat) (s : State) : Prop where
  shown : s.boot.tFirst = ms
  waits : s.boot.firstDue = true → due = true ∧ s.boot.firstAt = now s ∧ Reached t s

section
variable {due : Bool} {t : Tick} {ms : Nat} {s u : State}

theorem FirstSettled.of_keeps (kept : Keeps besideFirst s u) (h : FirstSettled due t ms s) : FirstSettled due t ms u := by
  obtain ⟨due_, first⟩ := kept.same .firstItem (by decide)
  obtain ⟨-, -, -, -, -, -, -, -, -, -, -, -, -, -, -, -, -, -, at_, -⟩ := kept.same .boot (by decide)
  have tb : u.tb = s.tb := kept.same .tb (by decide)
  refine ⟨first.trans h.shown, fun waiting => ?_⟩
  obtain ⟨open_, begun, reached⟩ := h.waits (due_.symm.trans waiting)
  exact ⟨open_, by rw [at_, begun, now, now, tb], by rwa [Reached, tb]⟩

theorem FirstSettled.of_same (h : FirstSettled due t ms s) (boot : u.boot = s.boot) (tb : u.tb = s.tb) : FirstSettled due t ms u := by
  refine ⟨by rw [boot, h.shown], fun waiting => ?_⟩
  obtain ⟨open_, begun, reached⟩ := h.waits (boot ▸ waiting)
  exact ⟨open_, by rw [boot, begun, now, now, tb], by rwa [Reached, tb]⟩

/-- Once the first item is made, time may pass. -/
theorem FirstSettled.of_done (kept : Keeps (281474976710655 - 2 ^ 2) s u) (h : FirstSettled false t ms s) :
    FirstSettled false t ms u := by
  obtain ⟨due_, first⟩ := kept.same .firstItem (by decide)
  exact ⟨first.trans h.shown, fun waiting => absurd (h.waits (due_.symm.trans waiting)).1 Bool.false_ne_true⟩

theorem foldl_first {α : Type} {f : State → α → State} (each : ∀ s x, FirstSettled due t ms s → FirstSettled due t ms (f s x))
    (l : List α) (h : FirstSettled due t ms s) : FirstSettled due t ms (l.foldl f s) :=
  List.foldlRecOn (motive := FirstSettled due t ms) l f h fun s h x _ => each s x h

theorem advance_first {v : Tick} (before : v ≤ t) (h : FirstSettled due t ms s) : FirstSettled due t ms (advance v s) := by
  refine ⟨h.shown, fun waiting => ?_⟩
  rw [advance_of_reached (h.waits waiting).2.2 before]
  exact h.waits waiting

/-! ### Items -/

/-- An item shows the time at which the frame began, since none has passed. -/
theorem firstItem_first (c : TagCtx) (h : FirstSettled due t ms s) : FirstSettled due t ms (firstItem c s) := by
  unfold firstItem
  split
  case isTrue makes =>
    have waiting : s.boot.firstDue = true := (Bool.and_eq_true_iff.mp makes).1
    refine ⟨?_, fun again => absurd again Bool.false_ne_true⟩
    show s.boot.tFirst + (now s - s.boot.firstAt) / 64000000 = ms
    rw [(h.waits waiting).2.1, Nat.sub_self, Nat.zero_div, Nat.add_zero, h.shown]
  case isFalse => exact h

/-- The first item of a frame that has begun is made. -/
theorem firstItem_done {c : TagCtx} (begun : c.begun = true) (h : FirstSettled due t ms s) : FirstSettled false t ms (firstItem c s) := by
  have settled := firstItem_first c h
  refine ⟨settled.shown, fun waiting => ?_⟩
  unfold firstItem at waiting
  split at waiting
  case isTrue => exact absurd waiting Bool.false_ne_true
  case isFalse none_ => exact absurd (by rw [waiting, begun]; rfl) none_

theorem emitX_of_firstItem (src stream : Nat) (c : TagCtx) (extra : Nat) (payload : List Word64)
    (h : FirstSettled due t ms (firstItem c s)) : FirstSettled due t ms (emitX src stream c extra payload s) := by
  unfold emitX
  extract_lets a tag _
  exact h.of_keeps (routeItem_keeps _ _ _ _ _ (by decide)
    (.set_qsy_lostMarks .rfl' (by decide) _ ⟨rfl, rfl, rfl, rfl, rfl, rfl, rfl⟩))

theorem emitX_first (src stream : Nat) (c : TagCtx) (extra : Nat) (payload : List Word64) (h : FirstSettled due t ms s) :
    FirstSettled due t ms (emitX src stream c extra payload s) := emitX_of_firstItem _ _ _ _ _ (firstItem_first c h)

theorem emit_first (src stream : Nat) (c : TagCtx) (payload : List Nat) (h : FirstSettled due t ms s) :
    FirstSettled due t ms (emit src stream c payload s) := emitX_first _ _ _ _ _ h

/-! ### The end of the column and of the frame before -/

theorem onFieldVerdict_first {v : Tick} (before : v ≤ t) (h : FirstSettled due t ms s) :
    FirstSettled due t ms (onFieldVerdict v s) := by
  unfold onFieldVerdict
  extract_lets a
  have passed : FirstSettled due t ms a := advance_first before h
  clear_value a
  split
  · exact passed
  · split
    · exact passed
    · unfold verdictOut
      split
      · exact passed.of_keeps (verdictClose_keeps _ (by decide) .rfl')
      · extract_lets ws
        refine FirstSettled.of_keeps (x12Post_keeps _ _ _ (by decide) .rfl') (emit_first _ _ _ _ (passed.of_keeps ?_))
        refine verdictClose_keeps _ (by decide) ?_
        exact List.foldlRecOn (motive := Keeps besideFirst a) _ _ .rfl' fun s kept n _ => verdictSet_keeps n (by decide) kept

theorem onRefEvaluation_first {v : Tick} (before : v ≤ t) (h : FirstSettled due t ms s) :
    FirstSettled due t ms (onRefEvaluation v s) := by
  unfold onRefEvaluation
  extract_lets a
  have passed : FirstSettled due t ms a := advance_first before h
  clear_value a
  split
  · exact passed
  · extract_lets es rej nv b _ c e
    have counted : Keeps besideFirst a b := by
      unfold b
      exact List.foldlRecOn (motive := Keeps besideFirst a) _ _ .rfl' fun s kept n _ =>
        bump_keeps _ _ (by decide) (fault_keeps _ _ _ _ _ (by decide) kept)
    have judged : FirstSettled due t ms b := passed.of_keeps counted
    clear_value b
    have skewed : FirstSettled due t ms c :=
      FirstSettled.of_keeps (refSkews_keeps _ (by decide) .rfl') (judged.of_same rfl rfl)
    have named : FirstSettled due t ms e := by
      unfold e
      split
      · exact skewed.of_keeps (taeName_keeps _ _ _ (by decide) (stick_keeps _ _ (by decide) (raise_keeps _ (by decide) .rfl')))
      · exact skewed
    exact emit_first _ _ _ _ named

theorem refColumn_first {v : Tick} (before : v ≤ t) (h : FirstSettled due t ms s) : FirstSettled due t ms (refColumn v s) := by
  unfold refColumn
  extract_lets n a live bins cols k
  have evaluated : FirstSettled due t ms a := by
    unfold a
    split
    · exact onRefEvaluation_first before h
    · exact h
  clear_value a bins cols
  split
  · exact h
  · split
    · exact evaluated.of_same rfl rfl
    · exact evaluated.of_same rfl rfl

theorem refEmit_first {v : Tick} (before : v ≤ t) (h : FirstSettled due t ms s) : FirstSettled due t ms (refEmit v s) := by
  unfold refEmit
  split
  · extract_lets ws a _
    exact (refColumn_first before (emitX_first _ _ _ _ _ h)).of_same rfl rfl
  · exact h

theorem rawItems_first (h : FirstSettled due t ms s) : FirstSettled due t ms (rawItems s) := by
  unfold rawItems
  refine foldl_first (fun s k h => ?_) _ h
  extract_lets q a
  have marked : FirstSettled due t ms a := by
    unfold a
    split
    · exact h.of_keeps (loseBefore_keeps _ _ (by decide) .rfl')
    · exact h
  split
  · exact emitX_first _ _ _ _ _ (marked.of_keeps (takeAll_keeps _ _ (by decide) .rfl'))
  · exact h

theorem closePack_first (c : Nat) (h : FirstSettled due t ms s) : FirstSettled due t ms (closePack c s) := by
  unfold closePack
  extract_lets x
  split
  · exact h
  · exact FirstSettled.of_keeps (taeName_keeps _ _ _ (by decide) .rfl') (emitX_first _ _ _ _ _ (h.of_same rfl rfl))

theorem closePacks_first (h : FirstSettled due t ms s) : FirstSettled due t ms (closePacks s) := by
  unfold closePacks
  exact foldl_first (fun s c => closePack_first c) _ h

/-- The end of the column makes its items at the present time. -/
theorem colEnd_first {v : Tick} (before : v ≤ t) (h : FirstSettled due t ms s) : FirstSettled due t ms (colEnd v s) := by
  unfold colEnd
  split
  · extract_lets a ticks b c d e f g _ k
    have verdict : FirstSettled due t ms a := by
      have lost : FirstSettled due t ms (loseWaiting s) := h.of_keeps (loseWaiting_keeps (by decide) .rfl')
      unfold a verdictNow
      split
      · exact onFieldVerdict_first before lost
      · exact lost
    have met : FirstSettled due t ms c := verdict.of_keeps
      (pfeSwap_keeps _ _ (by decide) (graftColumn_keeps (by decide) (graftQuiet_keeps _ (by decide) .rfl')))
    have items : FirstSettled due t ms f :=
      rawItems_first (closePacks_first (refEmit_first before (emit_first _ _ _ _ met)))
    have swapped : FirstSettled due t ms g := items.of_keeps (swapCounts_keeps (by decide) (swapBuffers_keeps _ _ (by decide) .rfl'))
    exact swapped.of_same rfl rfl
  · exact closePacks_first h

theorem asfClose_first (n : Nat) (c : TagCtx) (h : FirstSettled due t ms s) : FirstSettled due t ms (asfClose n c s) := by
  unfold asfClose
  extract_lets x l ws
  split
  · exact h
  · have made : FirstSettled due t ms (emit Src.asf n c ws (setAsf n { x with pack := [] } s)) := emit_first _ _ _ _ (h.of_same rfl rfl)
    exact foldl_first (fun s w h => h.of_keeps (fdcFeedAux_keeps _ _ (by decide) .rfl')) _ made

theorem cleItem_first (c : TagCtx) (h : FirstSettled due t ms s) : FirstSettled due t ms (cleItem c s) := by
  unfold cleItem
  extract_lets p
  refine emit_first _ _ _ _ ?_
  unfold p
  refine List.foldlRecOn (motive := fun a : List Nat × State => FirstSettled due t ms a.2) _ _ h fun a h n _ => ?_
  extract_lets x w b
  split
  · exact FirstSettled.of_keeps (dutyUsed_keeps _ _ (by decide) .rfl') (h.of_same rfl rfl)
  · exact h.of_same rfl rfl

theorem auxItems_first (c : TagCtx) (h : FirstSettled due t ms s) : FirstSettled due t ms (auxItems c s) := by
  unfold auxItems asfCloseAll
  exact cleItem_first c (foldl_first (fun s n => asfClose_first n c) _ h)

end
section
variable {due : Bool} {t : Tick} {ms : Nat} {s u : State}

/-! ### The items of the boundary -/

theorem capClosing_first (unit : Nat) (r : ImgRec) (aborted : Bool) (h : FirstSettled due t ms s) :
    FirstSettled due t ms (capClosing unit r aborted s) := by
  unfold capClosing
  exact emit_first _ _ _ _ h

theorem readAborted_first (unit : Nat) (h : FirstSettled due t ms s) : FirstSettled due t ms (readAborted unit s) := by
  unfold readAborted
  extract_lets x a _ b
  have closed : FirstSettled due t ms a := by
    unfold a
    split
    · exact capClosing_first _ _ _ h
    · exact h
  have freed : FirstSettled due t ms b := closed.of_same rfl rfl
  clear_value b
  split
  · exact freed.of_keeps (finishFree_keeps _ _ (by decide) .rfl')
  · exact freed

theorem ringLost_first (unit : Nat) (h : FirstSettled due t ms s) : FirstSettled due t ms (ringLost unit s) := by
  unfold ringLost
  extract_lets st a b
  have told : FirstSettled due t ms a := h.of_keeps (stick_keeps _ _ (by decide) (fault_keeps _ _ _ _ _ (by decide) .rfl'))
  clear_value a
  have read : FirstSettled due t ms b := by
    unfold b
    split
    · exact readAborted_first _ told
    · exact told
  clear_value b
  split
  · exact read.of_keeps (capLeave_keeps _ (by decide) (raise_keeps _ (by decide) .rfl'))
  · exact FirstSettled.of_keeps (dropCoding_keeps _ (by decide) .rfl') (read.of_same rfl rfl)

theorem mtRealloc_first (h : FirstSettled due t ms s) : FirstSettled due t ms (mtRealloc s) := by
  unfold mtRealloc
  extract_lets new gone hit a b _ c
  split
  · exact h
  · have lost : FirstSettled due t ms a := foldl_first (fun s b h => foldl_first (fun s k h =>
      h.of_keeps (jobsLost_keeps _ _ (by decide) .rfl')) _ h) _ h
    have rings : FirstSettled due t ms b := foldl_first (fun s u => ringLost_first u) _ lost
    have banks : FirstSettled due t ms c := rings.of_same rfl rfl
    clear_value c
    refine foldl_first (fun s u h => ?_) _ banks
    split
    · exact h
    · split
      · exact h.of_same rfl rfl
      · exact h.of_same rfl rfl

theorem insertUnits_first (d : Dom) (start : Bool) (h : FirstSettled due t ms s) : FirstSettled due t ms (insertUnits d start s) := by
  unfold insertUnits
  extract_lets a
  have entered : FirstSettled due t ms a :=
    h.of_keeps (insertGrafts_keeps _ _ (by decide) (insertFences_keeps _ _ (by decide) .rfl'))
  clear_value a
  split
  · exact mtRealloc_first entered
  · exact entered

theorem pfeEnd_first (ctx : TagCtx) (ticks : Nat) (h : FirstSettled due t ms s) : FirstSettled due t ms (pfeEnd ctx ticks s) := by
  unfold pfeEnd
  extract_lets q sat col a b c _ e f _
  clear_value sat
  have shared : FirstSettled due t ms a := by
    unfold a
    split
    · exact h
    · exact h.of_keeps (toPartner_keeps _ (by decide) .rfl')
  clear_value a
  have made : FirstSettled due t ms b := emitX_first _ _ _ _ _ shared
  clear_value b
  have counted : FirstSettled due t ms c := by
    unfold c
    split
    · exact made
    · refine made.of_keeps (bumpAt_keeps _ _ _ _ (by decide) (.ite .rfl' (raise_keeps _ (by decide) .rfl')))
  clear_value c
  have stored : FirstSettled due t ms f :=
    FirstSettled.of_keeps (hotDecisions_keeps _ (by decide) (meterStore_keeps _ _ (by decide) .rfl')) (counted.of_same rfl rfl : FirstSettled due t ms e)
  clear_value f
  exact stored.of_keeps (biasStep_keeps (by decide) (.set_pfe .rfl' (by decide) _))

theorem pfeTurn_first (h : FirstSettled due t ms s) : FirstSettled due t ms (pfeTurn s) := by
  unfold pfeTurn
  split
  · exact pfeEnd_first _ _ (h.of_same rfl rfl)
  · exact h

/-- The items that a boundary takes before the frame begins pass no time. -/
theorem lidarItems_first (start : Bool) (v : Tick) (h : FirstSettled due t ms s) : FirstSettled due t ms (lidarItems start v s).1 := by
  unfold lidarItems
  extract_lets p plan a _ b
  have taken_ : FirstSettled due t ms p.1 :=
    h.of_keeps (takePlans_keeps _ _ (by decide) (insertGrant_keeps _ (by decide) .rfl'))
  clear_value p
  have planned : FirstSettled due t ms a := by
    unfold a
    split
    · exact taken_
    · exact taken_.of_keeps (planTaken_keeps (by decide) .rfl')
  clear_value a
  have cleared : FirstSettled due t ms b := by
    unfold b
    split
    · exact planned.of_same rfl rfl
    · exact planned
  clear_value b
  exact pfeTurn_first (FirstSettled.of_keeps (insertFlushes_keeps _ (by decide) (insertCals_keeps _ (by decide) .rfl'))
    (insertUnits_first _ _ cleared))

/-! ### The frame begins -/

theorem capOrder_first (o : Origin) (code unit f : Nat) (h : FirstSettled due t ms s) :
    FirstSettled due t ms (capOrder o code unit f s) := by
  unfold capOrder
  split
  · exact h.of_keeps (capName_keeps _ _ _ (by decide) .rfl')
  · split
    · unfold capAbort
      split
      · exact h.of_keeps (finish_keeps _ _ _ (by decide) .rfl')
      · extract_lets x
        split
        · exact h.of_keeps (finish_keeps _ _ _ (by decide) .rfl')
        · split
          · exact FirstSettled.of_keeps (finish_keeps _ _ _ (by decide) (dropCoding_keeps _ (by decide) .rfl')) (h.of_same rfl rfl)
          · split
            · exact h.of_keeps (finish_keeps _ _ _ (by decide) (capLeave_keeps _ (by decide) (raise_keeps _ (by decide) .rfl')))
            · split
              · exact FirstSettled.of_keeps (finish_keeps _ _ _ (by decide) .rfl') (readAborted_first _ h)
              · exact h.of_keeps (finish_keeps _ _ _ (by decide) .rfl')
    · split
      · exact h.of_keeps (capRead_keeps _ _ (by decide) .rfl')
      · split
        · exact h.of_keeps (capRelease_keeps _ _ (by decide) .rfl')
        · exact h.of_keeps (capRearm_keeps _ _ (by decide) .rfl')

theorem runCaps_first (d : Dom) (f unit : Nat) (l : List Deferred) (h : FirstSettled due t ms s) :
    FirstSettled due t ms (runCaps d f unit l s) := by
  unfold runCaps
  extract_lets cand p a
  have lost : FirstSettled due t ms a := foldl_first (fun s (o : OrderCand) h => h.of_keeps (orderLost_keeps _ _ _ (by decide) .rfl')) _ h
  exact foldl_first (fun s (o : OrderCand) => capOrder_first o.origin o.effect unit f) _ lost

theorem runDeferred_first (d : Dom) (f : Nat) (h : FirstSettled due t ms s) : FirstSettled due t ms (runDeferred d f s) := by
  unfold runDeferred
  extract_lets due_ lt l _ a b
  have rest : FirstSettled due t ms a := h.of_same rfl rfl
  clear_value a
  have captured : FirstSettled due t ms b := foldl_first (fun s u => runCaps_first d f u l) _ rest
  exact foldl_first (fun s x h => h.of_keeps (runOther_keeps _ (by decide) .rfl')) _ captured

theorem frameFollows_first (n : Nat) (h : FirstSettled due t ms s) : FirstSettled due t ms (frameFollows n s) := by
  unfold frameFollows
  extract_lets g a b
  have bounded : FirstSettled due t ms a :=
    h.of_keeps (tinBoundary_keeps _ _ _ (by decide) (capBoundary_keeps _ _ _ (by decide) (capStart_keeps _ (by decide) .rfl')))
  have ordered : FirstSettled due t ms b := FirstSettled.of_keeps (fwdBegin_keeps _ _ (by decide) .rfl')
    (runDeferred_first _ _ (bounded.of_keeps (swapDecide_keeps _ _ (by decide) .rfl')))
  exact ordered.of_keeps (cloFrameBegin_keeps _ (by decide) .rfl')

theorem windowStart_first (c : Nat) (v : Tick) (h : FirstSettled due t ms s) : FirstSettled due t ms (windowStart c v s) := by
  unfold windowStart
  extract_lets a
  split
  · have closed : FirstSettled due t ms a := by
      unfold a
      split
      · split
        · unfold windowResult
          extract_lets x hit n b
          have posted : FirstSettled due t ms b := by
            unfold b
            split
            · exact h.of_keeps (x12Post_keeps _ _ _ (by decide) .rfl')
            · exact h
          clear_value b
          exact FirstSettled.of_keeps (raise_keeps _ (by decide) .rfl') (emit_first _ _ _ _ (posted.of_same rfl rfl))
        · exact h
      · exact h
    exact closed.of_same rfl rfl
  · exact h

/-- A column opens after the first item: its boundary may pass time. -/
theorem openColumn_first (k : Nat) (start : Tick) (first : Bool) (h : FirstSettled false t ms s) :
    FirstSettled false t ms (openColumn k start first s) := by
  unfold openColumn
  extract_lets _ _ a b held g rp _ c _ d
  have depths : FirstSettled false t ms b := FirstSettled.of_keeps (pfeOpen_keeps (by decide) .rfl') (h.of_same rfl rfl : FirstSettled false t ms a)
  clear_value b
  have column : FirstSettled false t ms d := depths.of_same rfl rfl
  clear_value d
  have aligned : FirstSettled false t ms (alignBoundary (deferCounts d)) :=
    column.of_done (alignBoundary_keeps (by decide) (deferCounts_keeps (by decide) .rfl'))
  unfold windowStarts
  refine foldl_first (fun s w h => ?_) _ aligned
  split
  · exact windowStart_first _ _ h
  · exact h

theorem ctxStart_begun (n : Nat) (s : State) : (ctxStart .lidar n s).esq.ctx.begun = true := rfl

/-- The frame's own item is of a frame that has begun: with it the first item is made. -/
theorem frameBegin_first (p : PendFrame) (h : FirstSettled due t ms s) : FirstSettled false t ms (frameBegin p s) := by
  unfold frameBegin
  extract_lets first n per a held _ b c _ d e
  have shown : FirstSettled due t ms a := by
    refine h.of_keeps (periodEvent_keeps _ (by decide) (missHold_keeps _ (by decide) .rfl'))
  clear_value a
  have started : FirstSettled due t ms c :=
    FirstSettled.of_keeps (ctxStart_keeps _ _ (by decide) (scheduleBack_keeps _ _ (by decide) .rfl')) (shown.of_same rfl rfl : FirstSettled due t ms b)
  have begun : c.esq.ctx.begun = true := ctxStart_begun ..
  clear_value c
  have warmed : FirstSettled due t ms d ∧ d.esq.ctx.begun = true := by
    unfold d
    split
    · exact ⟨⟨started.shown, started.waits⟩, begun⟩
    · exact ⟨started, begun⟩
  obtain ⟨warmed, begun⟩ := warmed
  clear_value d
  have based : FirstSettled due t ms (frameMarks (if n = 0 then fixBase p.at_ d else d)) ∧
      (frameMarks (if n = 0 then fixBase p.at_ d else d)).esq.ctx.begun = true := by
    split
    · exact ⟨warmed.of_same rfl rfl, begun⟩
    · exact ⟨warmed.of_same rfl rfl, begun⟩
  obtain ⟨based, begun⟩ := based
  have made : FirstSettled false t ms e := emitX_of_firstItem _ _ _ _ _ (firstItem_done begun based)
  exact openColumn_first _ _ _ (frameFollows_first _ made)

/-- The boundary of a frame leaves the time of the first item as it stands. -/
theorem frameBoundary_first {p : PendFrame} (before : p.at_ ≤ t) (h : FirstSettled true t ms s) :
    FirstSettled true t ms (frameBoundary p s) := by
  unfold frameBoundary
  extract_lets a b _ c d r
  have ended : FirstSettled true t ms a := FirstSettled.of_keeps (frameEnd_keeps (by decide) .rfl') (colEnd_first before h)
  clear_value a
  have aux : FirstSettled true t ms b := by
    unfold b
    split
    · exact ended
    · exact auxItems_first _ ended
  clear_value b
  have turned : FirstSettled true t ms d := by
    have dropped : FirstSettled true t ms c := aux.of_same rfl rfl
    unfold d
    split
    · exact dropped.of_keeps (planTaken_keeps (by decide) .rfl')
    · exact dropped
  clear_value d
  have taken_ : FirstSettled true t ms r.1 := lidarItems_first _ _ turned
  clear_value r
  split
  · exact taken_
  · have begins (u : State) (h : FirstSettled true t ms u) : FirstSettled true t ms (frameBegin p u) :=
      ⟨(frameBegin_first p h).shown, fun waiting => absurd ((frameBegin_first p h).waits waiting).1 Bool.false_ne_true⟩
    refine begins _ ?_
    split
    · exact taken_
    · exact taken_.of_keeps (reschedule_keeps (by decide) .rfl')

end

/-! ### The obligation -/

/-- Frame 0 begins at the pending start, as start-up ends. -/
theorem onFirstFrameStart_ends {s : State} {t0 : Tick} {ms : Nat} {p : PendFrame} (step : s.boot.step = 11) (lidar : hasLidar s = true)
    (first : firstPend s t0 = some p) :
    (onFirstFrameStart false t0 ms s).boot.tFirst = ms ∧ (onFirstFrameStart false t0 ms s).boot.step = 12 := by
  have before : p.at_ ≤ t0 := by
    have mem := List.mem_of_getLast? first
    have due := (List.mem_filter.mp mem).2
    exact of_decide_eq_true (Bool.and_eq_true_iff.mp due).2
  unfold onFirstFrameStart
  extract_lets a b _
  have pending : firstPend a t0 = some p := first
  have ends (u : State) (boot : u.boot = b.boot) (tb : u.tb = b.tb) :
      (frameBoundary p u).boot.tFirst = ms ∧ (frameBoundary p u).boot.step = 12 := by
    have settled : FirstSettled true t0 ms b := ⟨rfl, fun _ => ⟨rfl, rfl, advance_reached t0 s⟩⟩
    have kept : Keeps (281474976710655 - 2 ^ 3) u (frameBoundary p u) := frameBoundary_keeps _ (by decide) .rfl'
    refine ⟨(frameBoundary_first before (settled.of_same boot tb)).shown, (step_of_keeps kept).trans ?_⟩
    rw [boot]
    rfl
  rw [if_neg (not_not.mpr (show a.boot.step = 11 from step)), if_neg Bool.false_ne_true, pending]
  dsimp only
  rw [if_pos (show hasLidar a = true from lidar)]
  exact ends _ rfl rfl

/-- Good straps leave the reset state, at step 3. -/
theorem onPorNRelease_waits {s : State} {x : Straps} (sound : strapFault s x = false) : onPorNRelease x s =
    { porReset s with boot := { (porReset s).boot with straps := x, mode := x.bootMode.toNat, step := 3 } } :=
  if_neg (show ¬ strapFault s x = true by rw [sound]; exact Bool.false_ne_true)

/-- Settles O18: each start-up command meets the guards of its step, and what it writes there stays through the items, the events and
the link's waiting ports that follow. -/
theorem startUpCommandsComplete : Obligations.StartUpCommandsComplete := by
  unfold Obligations.StartUpCommandsComplete
  refine ⟨?assert, ?release, ?headers, ?staged, ?bist, ?cloche, ?calibrated, ?rail, ?frame⟩
  case assert =>
    intro s
    obtain ⟨ks, -, -, -, -, -, -, safety, pending⟩ := porReset_storesSame s
    exact completes rfl ⟨rfl, rfl, rfl, ks, safety, pending⟩
  case release =>
    intro s x sound
    refine completes rfl ?_
    rw [onPorNRelease_waits sound]
    exact ⟨rfl, rfl, rfl, rfl⟩
  case headers =>
    intro s r step mode present least most holds kat sound
    refine completes rfl ?_
    rw [onNvmHeadersRead_judges step mode present least most holds kat]
    obtain ⟨step, candidate, copy, nvm, sec⟩ := judgeSlots_stages (r := r) (s := headersRead r s) sound
    rw [nvm, sec]
    exact ⟨step, copy, rfl, rfl, rfl, candidate⟩
  case staged =>
    intro s bytes ecc ms k l step front
    refine completes rfl ?_
    split
    case h_1 recs verdict =>
      rw [onImageStageDone_ok step front verdict]
      exact commitImage_runs (k + 1) ms bytes recs s
    case h_2 i t verdict =>
      exact onImageStageDone_fail step front verdict
  case bist =>
    intro s f t0 step room
    exact completes rfl (onBistDone_goesOn t0 step room)
  case cloche =>
    intro s r t0 step untested block sound
    exact completes rfl (onClocheSelftestDone_passes step untested block sound)
  case calibrated =>
    intro s t0 step mapped idle
    obtain ⟨done, at_, nine⟩ := onStartupCalDone_ends t0 step mapped idle
    exact completes rfl ⟨done, at_, nine.ge⟩
  case rail =>
    intro s rail time t0 step turn
    exact completes rfl (onRailMeasureDone_done time t0 step turn)
  case frame =>
    intro s t0 ms p step lidar first
    exact completes rfl (onFirstFrameStart_ends step lidar first)

end Sys2Proof.Machine
end
